-- ==== Sys2Proof/Word.lean ====
section
/-! DEFINITION. The word types of the FLV4-768 (R3, R86, R185). -/

namespace Sys2Proof

/-- The smallest addressable unit of memory (R3). -/
abbrev Byte := BitVec 8

/-- A 64-bit register, address or memory word (R185, R235). -/
abbrev Word := BitVec 64

/-- A scalar, vector or queue register number of an instruction (R261). -/
abbrev Reg := BitVec 4

/-- A vector register: 512 bytes, byte 0 in bits [7:0] (R187, R352). -/
abbrev VReg := BitVec 4096

/-- A table from a key to a value: pairs with strictly rising keys, no value equal to what an absent key reads as. -/
abbrev Sp (α : Type) := List (Nat × α)

end Sys2Proof
end

