-- ==== Sys2Proof/Types.lean ====
section
/-! DEFINITION. The data that instructions and events carry: operand forms, parcels, chunks, host functions and answers. -/

namespace Sys2Proof

/-- Sizes and extensions of a load (R262). -/
inductive LoadSize where
  | i8 | n8 | i16 | n16 | i32 | n32 | d64
  deriving DecidableEq, Repr

/-- Sizes of a store (R262). -/
inductive StoreSize where
  | s8 | s16 | s32 | s64
  deriving DecidableEq, Repr

/-- The displacement of a full/empty or reserve/release form in 8-byte units: the base field's or the E word's (R312). -/
inductive WordDisp where
  | base (d : BitVec 9)
  | ext (d : BitVec 29)
  deriving DecidableEq, Repr

/-- Conditions of a branch (R263). -/
inductive BrCond where
  | eq | ne | lt | ge | ltn | gen | bs | bc
  deriving DecidableEq, Repr

/-- Element types (R265). -/
inductive VTy where
  | q4 | i8 | i16 | i32 | f8 | bf16 | f16 | f32
  deriving DecidableEq, Repr

/-- Row widths of the attention instructions (R370). -/
inductive AttW where
  | d64 | d128 | d256
  deriving DecidableEq, Repr

/-- The vector extension word (R268). -/
structure VExt where
  disp : BitVec 32
  svd  : BitVec 4
  sva  : BitVec 4
  svb  : BitVec 4
  me   : Bool
  ksel : BitVec 2
  rnd  : BitVec 3
  sat  : Bool
  wid  : BitVec 2
  deriving DecidableEq, Repr

/-- The fields of a format V instruction (R260, R352): U is fn[7] and X is fn[6] where the row has them. -/
structure VArgs where
  q  : Bool
  vd : Reg
  va : Reg
  vb : Reg
  ty : VTy
  u  : Bool
  x  : Bool
  e  : Option VExt
  k  : Option Word
  deriving DecidableEq, Repr

/-- What a packet between packages carries of its sender and way: the remote package, the local peer port, and the partition, tenant and
context it acts for (R29, R66, R70, R88). -/
structure PeerTag where
  pkg    : Nat
  port   : Nat
  part   : Nat
  tenant : Nat
  ctx    : Nat
  deriving DecidableEq, Repr

/-- Who issues a transaction or accesses a register: the physical function, one of 128 virtual functions, a peer package, the policy core,
a packet core, the key core, or the board controller on the management interface (R1, R18, R65, R121, R123, R124). -/
inductive HostFn where
  | pf
  | vf (n : Fin 128)
  | peer (g : PeerTag)
  | policy
  | packet (n : Fin 6)
  | key
  | board
  deriving DecidableEq, Repr

/-- Parcel kinds (R35). -/
inductive ParcelKind where
  | spawn | handler | migrate | travel | go
  deriving DecidableEq, Repr

/-- A parcel: header fields, payload and extension (R35), with the sender's pts beside it (R229). -/
structure Parcel where
  kind   : ParcelKind
  part   : Nat
  tenant : Nat
  ctx    : Nat
  core   : Nat
  slot   : Nat
  reinj  : Bool
  launch : Nat
  tid    : BitVec 32
  pc     : Word
  thst   : BitVec 16
  xs     : List Word          -- x1 to x15
  pcnt   : List Word          -- PCNT0 to PCNT7, in the extension
  trap   : List Word          -- TEPC, TCAUSE, TVAL, SAVED, in the extension
  pts    : Nat
  /-- TVEC, PJBASE, KMASK, MCELL, VWIN.W and the last reading of GTIME, which move with the thread beside the parcel (R185; log 20). -/
  aside  : List Word
  /-- The thread's own number in the model, by which its journal entries know it. -/
  uid    : Nat
  /-- the word a migrating thread holds, its running cycles and its address, which move with the thread (R315; log 20) -/
  hold   : Option (Nat × Nat)
  holdAt : Word
  /-- A go parcel writes 1 to this register where the thread then runs (R335). -/
  goReg  : Option Reg
  deriving DecidableEq, Repr

/-- A stream chunk or marker word (R39, R40). -/
structure Chunk where
  seq    : Nat
  member : Nat
  op     : Nat
  mark   : Bool
  unm    : Bool
  split  : Bool
  rst    : Bool
  data   : List Byte
  deriving DecidableEq, Repr

/-- The answer of a remote package to a request of a thread (R67, R244): a status and a value. -/
structure RemoteAnswer where
  status : Nat
  value  : Word
  data   : List Byte
  deriving DecidableEq, Repr

/-- A slot reservation request (R36): the hart and thread that ask, for which kind of parcel, of which core; for spawn the order number
of its late result, the instruction's length and the parcel it will send (R330). -/
structure SlotAsk where
  tid  : Nat
  uid  : Nat
  kind : ParcelKind
  core : Nat
  seq  : Nat
  len  : Nat
  body : Option Parcel
  /-- the sender's logical time (R229) -/
  pts  : Nat
  deriving DecidableEq, Repr

/-- What a posted write under way carries beside its destination (R33, R88, R319, R320): the sending core, its journal entry and the entry's
order of issue, the kind of operation, the destination's node and generation, and its thread, context and partition. -/
structure Packet where
  core  : Nat
  entry : Nat
  order : Nat
  opk   : Nat
  node  : Nat
  gen   : Nat
  uid   : Nat
  ctx   : Nat
  part  : Nat
  deriving DecidableEq, Repr

/-- An entry of a core's journal, with the order of issue of the operation it stands for (R250). -/
structure JRef where
  entry : Nat
  order : Nat
  deriving DecidableEq, Repr

/-- A lane in error, and whether its error was corrected (R68, R136). -/
structure LaneFault where
  lane  : Nat
  fixed : Bool
  deriving DecidableEq, Repr

/-- What goes down at a peer port: the link, or the route to one package alone (R71). -/
structure PeerLink where
  port  : Nat
  route : Option Nat
  deriving DecidableEq, Repr

/-- The context whose access meets a node cache miss, and whether the engine was in host-assisted mode as it was met (R89, R129). -/
structure MissBy where
  ctx      : Nat
  assisted : Bool
  deriving DecidableEq, Repr

/-- Where a PTP message came from: the media port, the domain and the grandmaster's rank (R72; log 21). -/
structure PtpFrom where
  port   : Nat
  domain : Nat
  master : Nat
  deriving DecidableEq, Repr

/-- A refusal that reaches a journal entry: the code of R250 and the refused address. -/
structure Refused where
  code : Nat
  addr : Word
  deriving DecidableEq, Repr

/-- The end of a node's work: done, or faulted with CODE and DETAIL (R115, R117). -/
structure NodeEnd where
  code   : Nat
  detail : Nat
  deriving DecidableEq, Repr

/-- One sample-row data header of a video packet with its bytes (R72, R76). -/
structure MediaRow where
  row  : Nat
  x    : Nat
  data : List Byte
  deriving DecidableEq, Repr

/-- An ST 2110 packet as the ingest sees it (R72, R80); last is the RTP marker, by which an ancillary frame's last packet is known
(log 21). An ancillary packet is one row of its bytes. -/
structure MediaPacket where
  dst   : BitVec 32
  port  : BitVec 16
  pt    : BitVec 7
  rtpts : BitVec 32
  seq   : BitVec 32
  last  : Bool
  rows  : List MediaRow
  deriving DecidableEq, Repr

/-- Wake events of the firmware cores (R120, R125, R129). -/
inductive FwWake where
  /-- a packet core: a TAIL store to a non-resident queue -/
  | packet (n : Fin 6) (queue : Nat)
  /-- the same with DOORB: a WAKE message to the host -/
  | doorbell (queue : Nat)
  /-- a packet core: a packet the tumbler defers -/
  | deferred (n : Fin 6)
  /-- the policy core: a mapping request for a queue -/
  | mapping (queue : Nat)
  /-- the policy core: a timestamp it set in the timestamp unit -/
  | stamp
  /-- the policy or the key core: a host mailbox write addressed to it -/
  | mailbox (key : Bool)
  /-- the policy core: an error report -/
  | error
  /-- the key core: a request from the policy core -/
  | policyRequest
  /-- the key core: an update step -/
  | update
  deriving DecidableEq, Repr

/-- The operation of a vector command (R266, R353): the rows of majors 0x30 to 0x36 that enter the command queue. -/
inductive VOp where
  | vadd | vsub | vmul | vmulh | vmin | vmax | vand | vor | vxor | vsll | vsr | vabs | vmac | vwmul | vwmac | vdot
  | vceq | vclt | vcle | vmov
  | fadd | fsub | fmul | fdiv | ffma | fmin | fmax | fabs | fsqrt | fexp2 | flog2 | frcp | frsq | fwmul | fwfma | fdot
  | fceq | fclt | fcle
  | vld | vst | vgather | vscatter | vldl | vldlv | vstl | vstlv | vldsc | vstsc
  | vcvt | vunpk | vunpk6 | vpk | vpk6 | vperm | vslide | vext | vins
  | vredAdd | vredMax | vredMin | vattc (w : AttW) | vattf (w : AttW)
  | kand | kor | kxor | knot | kset | kins | kext | kpop
  deriving DecidableEq, Repr

/-- A vector command: base and E word fields with the values P and Q taken at issue (R266), the rounding mode (R353), and the
address and order number of its instruction, for a returned trap (R247). -/
structure VCmd where
  op  : VOp
  g   : VArgs
  p   : Word
  qv  : Word
  frm : BitVec 3
  pc  : Word
  seq : Nat
  /-- the iteration of a repetition, plus one; 0 for a command no repetition captured (R269) -/
  it  : Nat
  /-- no later iteration runs the command again -/
  last : Bool
  deriving DecidableEq, Repr

end Sys2Proof
end

