-- ==== Sys2Proof/Syntax.lean ====
section
/-! DEFINITION. The instructions and events of the FLV4-768: one constructor for each row of the opcode table. A row with an
encoding carries its fields (q is the switch marker S); a row without one carries what its extended form or its event says. -/

namespace Sys2Proof

/-- One step of the part: an instruction a hart issues, or an event of another agent (the opcode table). -/
inductive Instr where
  /-- COLD_RESET (R15): Power-up or assertion of the board reset pin discards all state and starts bring-up at stage 1. -/
  | coldReset
  /-- PKST_WARM_RESET (R19): A write of 1 to PKST.WRST, over the host port or the board management interface, starts a warm reset and restarts bring-up. -/
  | pkstWarmReset (bmi : Bool)
  /-- PKST_CAPHIT_CLEAR (R20): A write of 1 to PKST.CAPHIT clears it unless a frame boundary lowers D in the same cycle. -/
  | pkstCaphitClear (bmi : Bool)
  /-- BRINGUP_STAGE_DONE (R15): Completion of a bring-up stage (clock lock, image check, stack training, array clearing, port training, policy start) advances STAGE or stops with FAIL. -/
  | bringupStageDone (ok : Bool) (mask : Word)
  /-- BMI_READ_PKST (R18): SMBus command 0x10 returns PKST as an 8-byte block read taken in one cycle. -/
  | bmiReadPkst
  /-- BMI_WRITE_PKST (R18): SMBus command 0x11 writes PKST under its map, a 1 in WRST starting a warm reset. -/
  | bmiWritePkst (v : Word)
  /-- BMI_UNKNOWN_COMMAND (R18): Any other SMBus command is not acknowledged. -/
  | bmiUnknownCommand (cmd : Byte)
  /-- FRAME_BOUNDARY (R13): Every 2,048 cycles the power controller estimates power and sets the duty D for the next frame. -/
  | frameBoundary
  /-- THERMAL_TRIP (R14): A sensor reading of 105 °C or more sets THERM and forces D = 1 from the next frame. -/
  | thermalTrip (die temp : Nat)
  /-- THERMAL_TRIP_END (R14): When every sensor reads below 95 °C the trip ends and D may rise again. -/
  | thermalTripEnd (temp0 temp1 : Nat)
  /-- THERMAL_SHUTDOWN (R14): A reading of 115 °C or more removes power from the package. -/
  | thermalShutdown (die temp : Nat)
  /-- PTS_TICK (R229): A core's logical time pts rises by 1 every 256 cycles in which it runs a thread. -/
  | ptsTick (core : Nat)
  /-- TDCTL_SWAP (R32): The key core sets TDCTL.SWAP to apply the shadow schedule at the next frame boundary, after refusal checks on the table. -/
  | tdctlSwap
  /-- REGISTER_WRITE (R4): A write to a register with no row of its own stores the written fields under their access codes. -/
  | registerWrite (fn : HostFn) (off : Nat) (v : Word)
  /-- GLOBAL_LINK_DOWN (R26): A global link failure diverts adaptive traffic and re-routes deterministic traffic through the lowest quadrant with both links up, keeping order. -/
  | globalLinkDown (quadrant j : Nat)
  /-- FLIT_BAD_CHECK (R64): A flit with a bad check code is replayed from the sender's replay buffer, invisibly above the link. -/
  | flitBadCheck (port : Nat)
  /-- LANE_ERROR (R136): An error on a link lane starts a targeted self-test while the port holds traffic. -/
  | laneError (port : Nat) (lane : LaneFault)
  /-- LANE_SELFTEST_DONE (R136): The lane test ends transient or lasting; a lasting failure retires the lane and the port retrains narrower or goes down. -/
  | laneSelftestDone (port lane : Nat) (passed : Bool)
  /-- PORT_RETRAIN_DONE (R68): A port finishes retraining at a lower width and releases held traffic. -/
  | portRetrainDone (port : Nat)
  /-- SRAM_ROW_ERROR (R136): An error in an SRAM row starts a targeted self-test of that row, holding accesses for up to 4,096 cycles. -/
  | sramRowError (unit row : Nat) (corrected : Bool)
  /-- ROW_SELFTEST_DONE (R136): The row test ends transient, spared or poisoned and writes a 32-byte error record to the log and, with TRIAGE, to the host. -/
  | rowSelftestDone (unit row : Nat) (passed : Bool)
  /-- PEER_LINK_DOWN (R71): A peer link or route going down answers pending requests UNREACH, refuses puts, kills stream inputs and frees mount-keyring entries. -/
  | peerLinkDown (link : PeerLink)
  /-- HOST_WALK (R92): A WALK transaction resolves a path component by component and returns a new handle with rights 0. -/
  | hostWalk (fn : HostFn) (start : Nat) (path : List Byte)
  /-- HOST_OPEN (R91): An OPEN transaction makes a new entry with rights w within the handle's ceiling. -/
  | hostOpen (fn : HostFn) (h : Nat) (w : Word)
  /-- HOST_CLOSE (R97): A CLOSE transaction frees an allocated keyring entry after key caches and TLBs acknowledge invalidation. -/
  | hostClose (fn : HostFn) (h : Nat)
  /-- HOST_BIND (R91): A BIND transaction binds a name in a private directory, optionally replacing or making a directory. -/
  | hostBind (fn : HostFn) (path : List Byte) (word : Word)
  /-- HOST_UNBIND (R91): An UNBIND transaction removes a binding from a private directory. -/
  | hostUnbind (fn : HostFn) (path : List Byte) (d : Nat)
  /-- HOST_STAT (R93): A STAT transaction writes the 32-byte node record for a handle. -/
  | hostStat (fn : HostFn) (h : Nat) (record : Word)
  /-- HOST_REVOKE (R96): A REVOKE transaction raises the node generation, installs filters, invalidates caches and returns a new handle. -/
  | hostRevoke (fn : HostFn) (h : Nat)
  /-- HOST_DUP (R91): A DUP transaction makes a new entry with rights and ceiling narrowed by a mask. -/
  | hostDup (fn : HostFn) (h : Nat) (w : Word)
  /-- HOST_CREATE (R98): A CREATE transaction makes a node, binds it and opens it, under Tresil revision 2. -/
  | hostCreate (fn : HostFn) (path : List Byte) (record : List Word)
  /-- HOST_READ (R65): A Tresil READ through a handle reads device memory after the checks of R88. -/
  | hostRead (fn : HostFn) (addr : Word) (n : Nat)
  /-- HOST_WRITE (R65): A Tresil WRITE through a handle writes memory and sets full/empty bits per its FE field. -/
  | hostWrite (fn : HostFn) (addr : Word) (data : List Byte) (fe : BitVec 2)
  /-- KEY_CACHE_MISS (R88): A key-cache miss reads the keyring entry and asks the home name engine for the node's current generation. -/
  | keyCacheMiss (unit ctx : Nat) (addr : Word)
  /-- NODE_CACHE_MISS (R89): A name-engine node-cache miss reads the node table or sends a MISS message to the host. -/
  | nodeCacheMiss (node : Nat) (by_ : MissBy)
  /-- NODE_MISS_TIMEOUT (R89): A host-assisted miss unanswered for 2^24 cycles fails the transaction with MISSTMO or faults the access. -/
  | nodeMissTimeout (node : Nat)
  /-- FILTER_INSTALL (R96): A home unit installs a revocation filter entry, acknowledges, and refuses older generations from then on. -/
  | filterInstall (rid quadrant : Nat)
  /-- KEY_INVALIDATE (R96): A core invalidates a node's key-cache and TLB entries and acknowledges once its accesses through the node have returned. -/
  | keyInvalidate (rid quadrant : Nat)
  /-- REVOKE_ACK (R96): An acknowledgement reaches the revoking engine, which returns the new handle when all are in. -/
  | revokeAck (rid quadrant : Nat)
  /-- JOURNAL_RETIRE_REPORT (R96): A core reports that its journal entries through a revoked node have retired, and when all have reported the filters are removed. -/
  | journalRetireReport (rid quadrant : Nat)
  /-- NODE_DESTROY (R99): A node losing its last reference, or destroyed by the system, is marked DEAD, filtered, invalidated, unbound and its resources released. -/
  | nodeDestroy (node : Nat)
  /-- QUEUE_APPEND (R103): A store to a message queue's write window appends one message to the tail slot or is refused when full. -/
  | queueAppend (node off ctx pkg : Nat) (data : List Byte)
  /-- CC_CREATE (R100): CCCMD OP 1 creates a context with keyring, private root and data region, writing its id to CCRES. -/
  | ccCreate (fn : HostFn)
  /-- CC_DESTROY (R100): CCCMD OP 2 destroys a context with no live work, freeing its keyring entries. -/
  | ccDestroy (fn : HostFn) (ctx : Nat)
  /-- CC_ACT_THROUGH (R100): CCCMD OP 3 makes the writing function act through context CCTX. -/
  | ccActThrough (fn : HostFn) (ctx : Nat)
  /-- GQ_TAIL_STORE (R106): A store to a graph queue's TAIL posts slots, or is refused, and is taken by the tumbler's tail filter when resident. -/
  | gqTailStore (queue size : Nat) (v : Word)
  /-- GQ_TAIL_NONRESIDENT (R120): A TAIL store to a non-resident queue is written to the node record and wakes a packet core for a mapping decision. -/
  | gqTailNonresident (queue size : Nat) (v : Word)
  /-- GQCTL_RESUME (R116): A write of 1 to GQCTL.RESUME clears STOPPED and resumes fetching at HEAD. -/
  | gqctlResume (queue : Nat)
  /-- RECORD_FETCH (R114): The tumbler fetches a posted record at HEAD, checks it, marks it waiting and advances HEAD. -/
  | recordFetch (queue : Nat)
  /-- NODE_RELEASE (R114): A release adds 1 to RELEASED at the status word's home, possibly making the node ready or faulting it with EXCESS. -/
  | nodeRelease (queue slot : Nat) (order faulted : Bool) (origq origslot : Nat)
  /-- NODE_DISPATCH (R114): A ready node in a resident queue is dispatched in ready order, or faulted with PREDFAIL. -/
  | nodeDispatch (queue : Nat)
  /-- NODE_WAIT_TIMEOUT (R114): A node waiting past its owner's stall watchdog faults with WAITTMO. -/
  | nodeWaitTimeout (queue slot : Nat)
  /-- GATE_TIMEOUT (R117): A gate whose test has not held by its timeout ends with EXEC. -/
  | gateTimeout (queue slot : Nat)
  /-- FORMAT_WINDOW_INSTALL (R215): A format-window record writes back old view lines, moves bytes and installs the new FMTW image at every controller. -/
  | formatWindowInstall (queue slot window : Nat) (image : List Word)
  /-- BIND_SET_RUN (R117): A bind-set node runs its operations in order as transactions of the owner, ending with EXEC on the first failure. -/
  | bindSetRun (queue slot : Nat)
  /-- NODE_COMPLETE (R117): When a node's work ends the tumbler performs its completion action, writes its status word and releases its successors. -/
  | nodeComplete (queue slot : Nat) (out : NodeEnd)
  /-- QGANG_MAP (R119): A queue gang is mapped onto resident tumbler slots as a whole. -/
  | qgangMap (gang tumbler first : Nat)
  /-- QGANG_UNMAP (R119): A queue gang is unmapped as a whole between fetches. -/
  | qgangUnmap (gang : Nat)
  /-- VF_DISABLE (R122): A host write changing VFEN.GEN from 1 to 0 sets BUSY and refuses every virtual-function request. -/
  | vfDisable
  /-- VF_DISABLE_AT_T (R122): At the agreed time the bound tenants' contexts are gang-stopped, their work discarded, nodes destroyed, pages scrubbed and DONE set. -/
  | vfDisableAtT
  /-- VF_ENABLE (R122): Setting VFEN.GEN back to 1 enables the virtual functions, each tenant starting with no context. -/
  | vfEnable
  /-- FW_CORE_WAKE (R125): A firmware core sleeping in retention wakes on one of its wake events and executes within 1 µs. -/
  | fwCoreWake (core : FwWake)
  /-- HMB_FILL (R89): An inbound FILL message supplies a node record to a name engine's cache. -/
  | hmbFill
  /-- HMB_MAP (R129): An inbound MAP message gives a queue-gang mapping decision for the policy core to apply. -/
  | hmbMap
  /-- HMB_SPDM (R127): An inbound SPDM fragment is collected by the key core until LAST completes a request. -/
  | hmbSpdm
  /-- SPDM_GET_VERSION (R127): The key core answers the SPDM GET_VERSION request. -/
  | spdmGetVersion (req : List Byte)
  /-- SPDM_GET_CAPABILITIES (R127): The key core answers the SPDM GET_CAPABILITIES request. -/
  | spdmGetCapabilities (req : List Byte)
  /-- SPDM_NEGOTIATE_ALGORITHMS (R127): The key core answers NEGOTIATE_ALGORITHMS offering only ML-DSA-87 over SHA3-512. -/
  | spdmNegotiateAlgorithms (req : List Byte)
  /-- SPDM_GET_DIGESTS (R127): The key core answers the SPDM GET_DIGESTS request. -/
  | spdmGetDigests (req : List Byte)
  /-- SPDM_GET_CERTIFICATE (R127): The key core answers the SPDM GET_CERTIFICATE request. -/
  | spdmGetCertificate (req : List Byte)
  /-- SPDM_CHALLENGE (R127): The key core answers the SPDM CHALLENGE request. -/
  | spdmChallenge (req : List Byte)
  /-- SPDM_GET_MEASUREMENTS (R127): The key core returns its six measurement blocks. -/
  | spdmGetMeasurements (req : List Byte)
  /-- SPDM_UNSUPPORTED (R127): Any other SPDM request is answered with ERROR UnsupportedRequest. -/
  | spdmUnsupported (req : List Byte)
  /-- HMB_IMGW (R133): An IMGW message writes up to 44 image bytes into the slot not running. -/
  | hmbImgw
  /-- HMB_PARTREC (R132): A PARTREC message makes the key core check and install or remove the partition record staged in PRSTAGE. -/
  | hmbPartrec
  /-- HMB_NODEREQ (R131): A NODEREQ message runs a CREATE through the physical function's context and answers with RESULT. -/
  | hmbNodereq
  /-- HMB_DEFRAG (R129): A DEFRAG message names the source and target slice of a defragmentation copy. -/
  | hmbDefrag
  /-- HMB_BAD_TYPE (R131): A message with a reserved TYPE or TARGET is answered with RESULT −1. -/
  | hmbBadType
  /-- PWRCAP_WRITE (R130): A write of PWRCAP.CAPW sets the host's power cap, clamped to 1,000–3,200 W. -/
  | pwrcapWrite (fn : HostFn) (v : Word)
  /-- UPDST_GO (R133): A write of 1 to UPDST.GO starts a live update, or is refused with RESULT 5 while busy. -/
  | updstGo (fn : HostFn)
  /-- UPDATE_HEARTBEAT (R133): The new policy image's heartbeat store completes the update, resuming packet cores and fetching and changing IMGSLOT. -/
  | updateHeartbeat
  /-- HEARTBEAT_TIMEOUT (R135): A heartbeat missed by 10 ms rolls back to the old images; a second miss starts a warm reset. -/
  | heartbeatTimeout
  /-- LAUNCH_DISPATCH (R137): A dispatched launch is checked, then places its threads in passes over its placement cores, leaving the rest pending. -/
  | launchDispatch (queue slot : Nat)
  /-- SLOT_FREE (R140): A freed slot is offered to a restored or pending thread, then to a steal, then to reservations and travel arrivals. -/
  | slotFree (core slot : Nat)
  /-- SLOT_RESERVATION_REQUEST (R36): A destination core grants or refuses a slot reservation for a spawn, handler, migrate or go parcel. -/
  | slotReservationRequest (ask : SlotAsk)
  /-- SLOT_RESERVATION_REPLY (R36): The reservation answer returns to the asking core, which sends the parcel or takes the refused outcome. -/
  | slotReservationReply (ask : SlotAsk) (slot : Option Nat)
  /-- PARCEL_ARRIVAL (R35): A spawn, handler, migrate or go parcel arrives and starts its thread in the reserved slot. -/
  | parcelArrival (p : Parcel)
  /-- WAIT_RETRY_POLL (R149): A core whose wait request was refused for lack of entries polls again after a doubling interval. -/
  | waitRetryPoll (t : Nat)
  /-- WATCHDOG_EXPIRY (R253): A wait that outlasts W cycles is cancelled at its home and the thread takes the watchdog trap. -/
  | watchdogExpiry (t : Nat)
  /-- RESERVATION_HOLD_EXPIRY (R253): A reservation held past W is released as rls writes and the holder traps with REASON 4. -/
  | reservationHoldExpiry (t : Nat)
  /-- LATCH_WAIT_TIMEOUT (R152): A lat.wait whose timeout expires returns with TMO set. -/
  | latchWaitTimeout (t : Nat)
  /-- LATE_RESULT_RETURN (R157): A late result returns and is written in program order, ending a marker park or delivering a returned fault. -/
  | lateResultReturn (t : Nat) (answer : Option RemoteAnswer)
  /-- GANG_ARM (R161): A write of 1 to GSCTL.ARM arms a gang switch at GSTIME, or sets FAULT for a bad arm. -/
  | gangArm (part : Nat)
  /-- GANG_STOP (R163): At the agreed master time the partition stops issuing, drains its packets, saves its threads and state and frees its slots. -/
  | gangStop (part : Nat)
  /-- GANG_RESTORE (R163): A restore loads saved state into slots under R408, re-injects drained packets exactly once and sets DONE. -/
  | gangRestore (part : Nat)
  /-- SLICE_END (R166): At the end of a rotation slice each core hands its slots over, positions 1–15 first and slot 0 last. -/
  | sliceEnd (part : Nat)
  /-- DEFRAGMENTATION (R167): A defragmentation stops the gang, copies moved slices, rewrites the indirection table and restores the gang. -/
  | defragmentation (part slice target : Nat)
  /-- TRAVEL_DEPARTURE (R173): A transfer leaving the segment waits for results, fences posted work, disarms latches and sends the thread as a travel parcel. -/
  | travelDeparture (t : Nat)
  /-- TRAVEL_ARRIVAL (R177): A travel parcel claims a free slot, joins the arrival queue, or is written to the spill ring. -/
  | travelArrival (p : Parcel)
  /-- PUT_SEGMENT_LAND (R33): A put segment is written at its destination home and answered with an acknowledgement or refusal. -/
  | putSegmentLand (p : Packet) (dst : Word) (off : Nat) (data : List Byte)
  /-- PUT_SEGMENT_ACK (R33): A segment answer reaches the sender; when all are acknowledged the counter action is sent, and a refusal is recorded. -/
  | putSegmentAck (p : Packet) (bytes : Nat) (refused : Option Refused)
  /-- PUT_COUNTER_ACTION (R33): A put's counter action adds, sets or fills the 64-bit counter word at its home. -/
  | putCounterAction (core : Nat) (entry : JRef)
  /-- POSTED_ACK (R250): An acknowledgement frees a journal entry; a refusal marks it refused and raises a posted-refusal trap. -/
  | postedAck (core : Nat) (entry : JRef) (refused : Option Refused)
  /-- CHUNK_ARRIVAL (R41): A stream chunk reaches a router and waits until every input's chunk of its SEQ is present. -/
  | chunkArrival (node station input : Nat) (c : Chunk)
  /-- MARKER_ARRIVAL (R40): A marker received on every input of the current hinge set is forwarded and CUR steps. -/
  | markerArrival (node station input : Nat) (c : Chunk)
  /-- STREAM_INPUT_TIMEOUT (R43): An input silent for TMO × 1,024 running cycles while another holds a chunk is declared dead. -/
  | streamInputTimeout (node station input : Nat)
  /-- INPUT_DEAD_DECLARE (R44): A dead input freezes the entry, purges the stream on the escape network and switches adjacent routers to alternatives. -/
  | inputDeadDeclare (node member : Nat)
  /-- LCC_REPORT (R44): A survivor's LCC reaches the stream's name engine, which sets the resume point and, when all are in, unfreezes and wakes survivors. -/
  | lccReport (node member : Nat)
  /-- CHUNK_LANDING (R346): A result chunk or final marker lands in a member's slot with a landing word set full and copied to q0 if it has room. -/
  | chunkLanding (node member : Nat) (c : Chunk)
  /-- FRAME_CLAIM (R79): At PTP time T_f − period the ingest claims frame f's slot or skips it counting DROPS. -/
  | frameClaim (node frame : Nat)
  /-- MEDIA_PACKET_ARRIVAL (R80): A media packet is timestamped and lands in its claimed frame, or is counted EARLY, DUPS or LATE. -/
  | mediaPacketArrival (port : Nat) (p : MediaPacket)
  /-- FRAME_DEADLINE (R81): At the deadline incomplete group words are written lost and set full, then FSTAT is filled. -/
  | frameDeadline (node frame : Nat)
  /-- PTP_MESSAGE (R73): A PTP message received on a media port steers PTPOFF and the rate trim, giving or losing lock. -/
  | ptpMessage (from_ : PtpFrom) (offset trim : Word) (locked : Bool)
  /-- MEDIA_ENABLE (R75): Setting MSCTL.EN starts a media stream, or is refused when NSLOT or the regions are too small. -/
  | mediaEnable (node : Nat) (v : Word)
  /-- HOME_LOAD (R229): A load of a C line at its home extends the read lease and returns data and times. -/
  | homeLoad (core line : Nat) (renew : Bool)
  /-- HOME_STORE (R229): A store of a C line at its home sets a new write time, writes the value and replies. -/
  | homeStore (core line : Nat)
  /-- LLC_EVICTION (R231): An evicted LLC line gives up its times into the slice's MWTS and MRTS. -/
  | llcEviction (line : Nat)
  /-- LLC_FILL_RETURN (R233): A memory fill returns to an LLC slice, frees a miss register and unblocks waiting requests. -/
  | llcFillReturn (line : Nat)
  /-- RESERVATION_FORWARD (R315): A word's home forwards the word to the next queued core for an atomic or reservation. -/
  | reservationForward (key : Nat)
  /-- MAP_ENTRY_INSTALL (R224): A store of word 1 with V = 1 installs a scratchpad mapping, registering lines and optionally loading them. -/
  | mapEntryInstall (t table entry : Nat) (v : Word)
  /-- MAP_ENTRY_REMOVE (R225): A store of word 1 with V = 0 writes back the local contents and drops the mapping. -/
  | mapEntryRemove (t table entry : Nat) (v : Word)
  /-- MM_ENGINE_RUN (R383): An mm entry reaching the head of the engine queue is checked, computes its enabled bands, makes arrival actions and writes MMST. -/
  | mmEngineRun (cluster : Nat)
  /-- VECTOR_COMMAND_EXEC (R353): The vector unit executes the next command of the core queue. -/
  | vectorCommandExec (core : Nat)
  /-- VECTOR_COMMAND_RETIRE (R353): A command retires when its effects are complete, ORing flags into THST and writing any late scalar result. -/
  | vectorCommandRetire (core : Nat)
  /-- REP_SEQUENCE_START (R372): A rep at the head of the core queue takes a free buffer and issues its captured commands for n iterations. -/
  | repSequenceStart (core : Nat)
  /-- ENGINE_KICK (R401): A kick store at an engine node captures entry, arguments and tags into the hart's kick queue, or is refused when full. -/
  | engineKick (hart node ctx : Nat) (words : List Word)
  /-- ENGINE_HART_START (R402): An idle engine hart takes the next queued kick and starts its program. -/
  | engineHartStart (hart : Nat)
  /-- DEBUG_RESUME (R400): A write of DBGCTL.RESUME resumes every halted thread of the context. -/
  | debugResume (fn : HostFn) (ctx : Nat)
  /-- YIELD_EXPIRY (R336): A yielding thread becomes ready again at its (n + 1)-th own position. -/
  | yieldExpiry (t : Nat)
  /-- WFI_TIMEOUT (R396): A wfi whose count of running cycles passes returns 0. -/
  | wfiTimeout (t : Nat)
  /-- BARRIER_WAIT_TIMEOUT (R324): A bar.wait whose timeout passes returns the TMO word. -/
  | barrierWaitTimeout (t : Nat)
  /-- ADD (R291): Adds two registers, wrapping. -/
  | add (q : Bool) (d a b : Reg) (x : Bool)
  /-- ADD_SAT (R291): Adds two registers, saturating to i64. -/
  | addSat (q : Bool) (d a b : Reg)
  /-- SUB (R291): Subtracts two registers, wrapping. -/
  | sub (q : Bool) (d a b : Reg) (x : Bool)
  /-- SUB_SAT (R291): Subtracts two registers, saturating to i64. -/
  | subSat (q : Bool) (d a b : Reg)
  /-- ADDN (R291): Adds two registers, unsigned saturation with SAT. -/
  | addn (q : Bool) (d a b : Reg) (x : Bool)
  /-- ADDN_SAT (R291): Adds two registers saturating to n64. -/
  | addnSat (q : Bool) (d a b : Reg)
  /-- SUBN (R291): Subtracts two registers, unsigned saturation with SAT. -/
  | subn (q : Bool) (d a b : Reg) (x : Bool)
  /-- SUBN_SAT (R291): Subtracts two registers saturating to n64. -/
  | subnSat (q : Bool) (d a b : Reg)
  /-- AND (R291): Bitwise AND of two registers. -/
  | and (q : Bool) (d a b : Reg)
  /-- OR (R291): Bitwise OR of two registers. -/
  | or (q : Bool) (d a b : Reg)
  /-- XOR (R291): Bitwise XOR of two registers. -/
  | xor (q : Bool) (d a b : Reg)
  /-- ANDN (R291): x[a] AND NOT x[b]. -/
  | andn (q : Bool) (d a b : Reg)
  /-- ORN (R291): x[a] OR NOT x[b]. -/
  | orn (q : Bool) (d a b : Reg)
  /-- XNOR (R291): NOT (x[a] XOR x[b]). -/
  | xnor (q : Bool) (d a b : Reg)
  /-- SLL (R291): Shifts left by x[b][5:0]. -/
  | sll (q : Bool) (d a b : Reg)
  /-- SRL (R291): Logical shift right by x[b][5:0]. -/
  | srl (q : Bool) (d a b : Reg)
  /-- SRA (R291): Arithmetic shift right by x[b][5:0]. -/
  | sra (q : Bool) (d a b : Reg)
  /-- ROL (R291): Rotates left by x[b][5:0]. -/
  | rol (q : Bool) (d a b : Reg)
  /-- ROR (R291): Rotates right by x[b][5:0]. -/
  | ror (q : Bool) (d a b : Reg)
  /-- AHDL (R292): Extracts the handle of an address. -/
  | ahdl (q : Bool) (d a : Reg)
  /-- AOFF (R292): Extracts the offset of an address. -/
  | aoff (q : Bool) (d a : Reg)
  /-- AMAKE (R292): Builds an address from a handle and an offset. -/
  | amake (q : Bool) (d a b : Reg)
  /-- AADD (R292): Adds a signed value to an address offset, trapping on offset carry. -/
  | aadd (q : Bool) (d a b : Reg)
  /-- ADIFF (R292): Difference of two address offsets as i64. -/
  | adiff (q : Bool) (d a b : Reg)
  /-- ADDI (R293): Adds a sign-extended 15-bit immediate. -/
  | addi (q : Bool) (d a : Reg) (i : BitVec 15) (x : Bool)
  /-- ADDI_SAT (R293): Adds an immediate with i64 saturation, extended form. -/
  | addiSat (q : Bool) (d a : Reg) (i : BitVec 15)
  /-- ADDI_K (R293): Adds a 64-bit literal immediate. -/
  | addiK (q : Bool) (d a : Reg) (k : Word) (x : Bool)
  /-- ADDI_SAT_K (R293): Adds a 64-bit literal with saturation. -/
  | addiSatK (q : Bool) (d a : Reg) (k : Word)
  /-- ANDI (R293): AND with a sign-extended immediate. -/
  | andi (q : Bool) (d a : Reg) (i : BitVec 15)
  /-- ANDI_K (R293): AND with a 64-bit literal. -/
  | andiK (q : Bool) (d a : Reg) (k : Word)
  /-- ORI (R293): OR with a sign-extended immediate. -/
  | ori (q : Bool) (d a : Reg) (i : BitVec 15)
  /-- ORI_K (R293): OR with a 64-bit literal. -/
  | oriK (q : Bool) (d a : Reg) (k : Word)
  /-- XORI (R293): XOR with a sign-extended immediate. -/
  | xori (q : Bool) (d a : Reg) (i : BitVec 15)
  /-- XORI_K (R293): XOR with a 64-bit literal. -/
  | xoriK (q : Bool) (d a : Reg) (k : Word)
  /-- SLLI (R294): Shifts left by an immediate count. -/
  | slli (q : Bool) (d a : Reg) (h : BitVec 6)
  /-- SRLI (R294): Logical shift right by an immediate count. -/
  | srli (q : Bool) (d a : Reg) (h : BitVec 6)
  /-- SRAI (R294): Arithmetic shift right by an immediate count. -/
  | srai (q : Bool) (d a : Reg) (h : BitVec 6)
  /-- RORI (R294): Rotates right by an immediate count. -/
  | rori (q : Bool) (d a : Reg) (h : BitVec 6)
  /-- LI (R293): Loads a sign-extended 15-bit immediate. -/
  | li (q : Bool) (d : Reg) (i : BitVec 15)
  /-- LI_K (R293): Loads a 64-bit literal. -/
  | liK (q : Bool) (d : Reg) (k : Word)
  /-- CMPI (R295): Writes the compare mask of a register against an immediate. -/
  | cmpi (q : Bool) (d a : Reg) (i : BitVec 15)
  /-- CMPI_K (R295): Writes the compare mask against a 64-bit literal. -/
  | cmpiK (q : Bool) (d a : Reg) (k : Word)
  /-- MUL (R297): Low 64 bits of the signed product. -/
  | mul (q : Bool) (d a b : Reg) (x : Bool)
  /-- MUL_SAT (R297): Signed product saturated to i64. -/
  | mulSat (q : Bool) (d a b : Reg)
  /-- MULN (R297): Low 64 bits of the unsigned product. -/
  | muln (q : Bool) (d a b : Reg) (x : Bool)
  /-- MULN_SAT (R297): Unsigned product saturated to n64. -/
  | mulnSat (q : Bool) (d a b : Reg)
  /-- MULH (R297): High 64 bits of the signed product. -/
  | mulh (q : Bool) (d a b : Reg)
  /-- MULHN (R297): High 64 bits of the unsigned product. -/
  | mulhn (q : Bool) (d a b : Reg)
  /-- DIV (R297): Signed quotient, setting IDZ on division by zero. -/
  | div (q : Bool) (d a b : Reg)
  /-- DIVN (R297): Unsigned quotient. -/
  | divn (q : Bool) (d a b : Reg)
  /-- REM (R297): Signed remainder. -/
  | rem (q : Bool) (d a b : Reg)
  /-- REMN (R297): Unsigned remainder. -/
  | remn (q : Bool) (d a b : Reg)
  /-- BEXT (R298): Extracts a bit field sign-extended. -/
  | bext (q : Bool) (d a b : Reg)
  /-- BEXTN (R298): Extracts a bit field zero-extended. -/
  | bextn (q : Bool) (d a b : Reg)
  /-- BINS (R298): Inserts a bit field into x[d]. -/
  | bins (q : Bool) (d a b : Reg)
  /-- CLZ (R298): Counts leading zero bits. -/
  | clz (q : Bool) (d a : Reg)
  /-- CTZ (R298): Counts trailing zero bits. -/
  | ctz (q : Bool) (d a : Reg)
  /-- POPC (R298): Counts one bits. -/
  | popc (q : Bool) (d a : Reg)
  /-- BREV (R298): Reverses the bit order. -/
  | brev (q : Bool) (d a : Reg)
  /-- BSWAP (R298): Reverses the byte order. -/
  | bswap (q : Bool) (d a : Reg)
  /-- SEQ (R296): 1 if equal, else 0. -/
  | seq (q : Bool) (d a b : Reg)
  /-- SNE (R296): 1 if not equal. -/
  | sne (q : Bool) (d a b : Reg)
  /-- SLT (R296): 1 if less, signed. -/
  | slt (q : Bool) (d a b : Reg)
  /-- SLTN (R296): 1 if less, unsigned. -/
  | sltn (q : Bool) (d a b : Reg)
  /-- CMP (R296): Writes the compare mask of two registers. -/
  | cmp (q : Bool) (d a b : Reg)
  /-- SEL (R296): Selects x[a] or x[b] by the old x[d]. -/
  | sel (q : Bool) (d a b : Reg)
  /-- MIN (R296): Signed minimum. -/
  | min (q : Bool) (d a b : Reg)
  /-- MAX (R296): Signed maximum. -/
  | max (q : Bool) (d a b : Reg)
  /-- MINN (R296): Unsigned minimum. -/
  | minn (q : Bool) (d a b : Reg)
  /-- MAXN (R296): Unsigned maximum. -/
  | maxn (q : Bool) (d a b : Reg)
  /-- LD (R310): Loads 1–8 bytes sign- or zero-extended as a late result. -/
  | ld (q : Bool) (d a : Reg) (z : LoadSize) (i : BitVec 12)
  /-- LD_X (R310): Load with a 32-bit displacement in the E word. -/
  | ldX (q : Bool) (d a : Reg) (z : LoadSize) (disp : BitVec 32)
  /-- ST (R311): Stores 1–8 bytes, leaving the full/empty bit; posted through a peer handle. -/
  | st (q : Bool) (s a : Reg) (z : StoreSize) (i : BitVec 12)
  /-- ST_X (R311): Store with a 32-bit displacement in the E word. -/
  | stX (q : Bool) (s a : Reg) (z : StoreSize) (disp : BitVec 32)
  /-- LD_TAKE (R313): Waits for full, reads the word and sets it empty. -/
  | ldTake (q : Bool) (d a : Reg) (i : WordDisp)
  /-- LD_PEEK (R313): Waits for full and reads the word, leaving the bit. -/
  | ldPeek (q : Bool) (d a : Reg) (i : WordDisp)
  /-- ST_GIVE (R313): Waits for empty, writes the word and sets it full. -/
  | stGive (q : Bool) (s a : Reg) (i : WordDisp)
  /-- ST_FILL (R313): Writes the word and sets it full without waiting. -/
  | stFill (q : Bool) (s a : Reg) (i : WordDisp)
  /-- FE_RD (R313): Reads the full/empty bit as 1 or 0. -/
  | feRd (q : Bool) (d a : Reg) (i : WordDisp)
  /-- FE_CLR (R313): Clears the full/empty bit, serving waiting gives. -/
  | feClr (q : Bool) (a : Reg) (i : WordDisp)
  /-- AMO_ADD (R314): Atomic add, returning the old value. -/
  | amoAdd (q : Bool) (d a b : Reg) (w : Bool)
  /-- AMO_AND (R314): Atomic AND. -/
  | amoAnd (q : Bool) (d a b : Reg) (w : Bool)
  /-- AMO_OR (R314): Atomic OR. -/
  | amoOr (q : Bool) (d a b : Reg) (w : Bool)
  /-- AMO_XOR (R314): Atomic XOR. -/
  | amoXor (q : Bool) (d a b : Reg) (w : Bool)
  /-- AMO_MIN (R314): Atomic signed minimum. -/
  | amoMin (q : Bool) (d a b : Reg) (w : Bool)
  /-- AMO_MAX (R314): Atomic signed maximum. -/
  | amoMax (q : Bool) (d a b : Reg) (w : Bool)
  /-- AMO_MINN (R314): Atomic unsigned minimum. -/
  | amoMinn (q : Bool) (d a b : Reg) (w : Bool)
  /-- AMO_MAXN (R314): Atomic unsigned maximum. -/
  | amoMaxn (q : Bool) (d a b : Reg) (w : Bool)
  /-- AMO_SWAP (R314): Atomic swap. -/
  | amoSwap (q : Bool) (d a b : Reg) (w : Bool)
  /-- AMO_CAS (R314): Atomic compare-and-swap against x[d]. -/
  | amoCas (q : Bool) (d a b : Reg) (w : Bool)
  /-- RSV (R315): Queues for and holds a word, reading it. -/
  | rsv (q : Bool) (d a : Reg) (i : WordDisp)
  /-- RLS (R315): Writes x[s] and releases the held word. -/
  | rls (q : Bool) (s a : Reg) (i : WordDisp)
  /-- RLS_N (R315): Releases the held word keeping its held value. -/
  | rlsN (q : Bool) (a : Reg) (i : WordDisp)
  /-- PUT_ADD (R318): Puts local bytes to a destination, then adds v to the counter. -/
  | putAdd (q : Bool) (d a b : Reg)
  /-- PUT_SET (R318): Puts local bytes, then sets the counter to v. -/
  | putSet (q : Bool) (d a b : Reg)
  /-- PUT_FILL (R318): Puts local bytes, then fills the counter with v. -/
  | putFill (q : Bool) (d a b : Reg)
  /-- PUT_NC (R318): Puts local bytes with no counter action. -/
  | putNc (q : Bool) (a b : Reg)
  /-- PST (R319): Posted store holding a journal entry until acknowledged. -/
  | pst (q : Bool) (s a : Reg) (z : StoreSize) (i : BitVec 12)
  /-- PST_X (R319): Posted store with a 32-bit displacement. -/
  | pstX (q : Bool) (s a : Reg) (z : StoreSize) (disp : BitVec 32)
  /-- FENCE_PUT (R321): Waits until every earlier put is acknowledged or refused. -/
  | fencePut (q : Bool)
  /-- FENCE_POST (R321): Waits until every earlier posted store, copy and peer store completes. -/
  | fencePost (q : Bool)
  /-- FENCE_ALL (R321): Waits as both fence.put and fence.post. -/
  | fenceAll (q : Bool)
  /-- CPF (R322): Prefetches a line into L1 with a read lease. -/
  | cpf (q : Bool) (a : Reg)
  /-- CWB (R322): Writes a dirty line back and keeps it. -/
  | cwb (q : Bool) (a : Reg)
  /-- CFL (R322): Writes a dirty line back and drops it. -/
  | cfl (q : Bool) (a : Reg)
  /-- BAR_INIT (R324): Initialises a barrier object with EXPECTED. -/
  | barInit (q : Bool) (a b : Reg)
  /-- BAR_ARR (R324): Arrives at a barrier with a count, completing the phase or trapping on overrun. -/
  | barArr (q : Bool) (d a b : Reg)
  /-- BAR_ARRF (R324): Arrives after the wait of fence.all. -/
  | barArrf (q : Bool) (d a b : Reg)
  /-- BAR_WAIT (R324): Waits until the barrier phase differs, or its timeout passes. -/
  | barWait (q : Bool) (d a b : Reg)
  /-- LAT_ARM (R325): Registers a 64-byte line for latch entry i. -/
  | latArm (q : Bool) (d a : Reg) (i : BitVec 2)
  /-- LAT_WAIT (R325): Waits for a latch reason or the timeout, returning the reason word. -/
  | latWait (q : Bool) (d b : Reg)
  /-- LAT_CLR (R325): Withdraws latch entry i. -/
  | latClr (q : Bool) (i : BitVec 2)
  /-- BCOPY (R320): Posted copy of up to 1 MiB in ascending destination lines. -/
  | bcopy (q : Bool) (d a b : Reg)
  /-- B_EQ (R301): Branches if equal. -/
  | bEq (q : Bool) (a b : Reg) (i : BitVec 12)
  /-- B_NE (R301): Branches if not equal. -/
  | bNe (q : Bool) (a b : Reg) (i : BitVec 12)
  /-- B_LT (R301): Branches if less, signed. -/
  | bLt (q : Bool) (a b : Reg) (i : BitVec 12)
  /-- B_GE (R301): Branches if greater or equal, signed. -/
  | bGe (q : Bool) (a b : Reg) (i : BitVec 12)
  /-- B_LTN (R301): Branches if less, unsigned. -/
  | bLtn (q : Bool) (a b : Reg) (i : BitVec 12)
  /-- B_GEN (R301): Branches if greater or equal, unsigned. -/
  | bGen (q : Bool) (a b : Reg) (i : BitVec 12)
  /-- B_BS (R301): Branches if the selected bit is set. -/
  | bBs (q : Bool) (a b : Reg) (i : BitVec 12)
  /-- B_BC (R301): Branches if the selected bit is clear. -/
  | bBc (q : Bool) (a b : Reg) (i : BitVec 12)
  /-- B_COND_X (R301): Conditional branch with E.DISP and E.LIVE in the extended form. -/
  | bCondX (q : Bool) (a b : Reg) (c : BrCond) (disp : BitVec 32) (live : BitVec 15)
  /-- J (R302): Jumps by a 23-bit word displacement. -/
  | j (q : Bool) (j : BitVec 23)
  /-- J_X (R302): Jump with E.DISP and E.LIVE. -/
  | jX (q : Bool) (disp : BitVec 32) (live : BitVec 15)
  /-- JR (R303): Jumps to a register address. -/
  | jr (q : Bool) (a : Reg) (live : Option (BitVec 15))
  /-- CALLR (R303): Calls a register address, writing the link to x14. -/
  | callr (q : Bool) (a : Reg) (live : Option (BitVec 15))
  /-- CALL (R303): Calls by E.DISP words, writing the link to x14. -/
  | call (q : Bool) (disp : BitVec 32) (live : BitVec 15)
  /-- RET (R303): Returns to x14. -/
  | ret (q : Bool) (live : Option (BitVec 15))
  /-- LP (R304): Pushes a zero-overhead loop level, or skips the body for count 0. -/
  | lp (q : Bool) (a : Reg) (i : BitVec 15)
  /-- SPAWN (R330): Asks a core for a slot and starts a thread of the launch there. -/
  | spawn (q : Bool) (d a b : Reg)
  /-- SPAWNC (R330): Spawns, or performs the call inline when refused. -/
  | spawnc (q : Bool) (d a b : Reg) (live : Option (BitVec 15))
  /-- FORK (R331): Pushes a continuation on the deque and runs the child as a call. -/
  | fork (q : Bool) (d a : Reg) (live : Option (BitVec 15))
  /-- UNFORK (R332): Ends a child, popping its continuation or exiting if stolen. -/
  | unfork (q : Bool) (a : Reg) (live : Option (BitVec 15))
  /-- JOIN (R333): Parks until the join counter reads 0. -/
  | join (q : Bool) (a : Reg)
  /-- EXIT (R334): Ends the thread, releasing holds and freeing the slot. -/
  | exit (q : Bool)
  /-- GO (R335): Moves the thread to another core by a go parcel. -/
  | go (q : Bool) (d b : Reg)
  /-- YIELD (R336): Gives up the next n own positions and lent positions before them. -/
  | yield (q : Bool) (b : Reg)
  /-- TID (R337): Writes the TID word as a late result. -/
  | tid (q : Bool) (d : Reg)
  /-- NWALK (R338): Issues a WALK transaction. -/
  | nwalk (q : Bool) (d a b : Reg)
  /-- NOPEN (R338): Issues an OPEN transaction. -/
  | nopen (q : Bool) (d a b : Reg)
  /-- NCLOSE (R338): Issues a CLOSE transaction. -/
  | nclose (q : Bool) (d a : Reg)
  /-- NBIND (R340): Issues a BIND transaction from a bind word. -/
  | nbind (q : Bool) (d a b : Reg)
  /-- NUNBIND (R338): Issues an UNBIND transaction. -/
  | nunbind (q : Bool) (d a b : Reg)
  /-- NSTAT (R338): Issues a STAT transaction and writes its record. -/
  | nstat (q : Bool) (d a b : Reg)
  /-- NREVOKE (R338): Issues a REVOKE transaction. -/
  | nrevoke (q : Bool) (d a : Reg)
  /-- NDUP (R338): Issues a DUP transaction. -/
  | ndup (q : Bool) (d a b : Reg)
  /-- NCREATE (R338): Issues a CREATE transaction from a creation record. -/
  | ncreate (q : Bool) (d a b : Reg)
  /-- VS_SET (R343): Requests creation of a collective stream with a first SEQ. -/
  | vsSet (q : Bool) (d a b : Reg)
  /-- STREAM_START_STORE (R343): A store to a stream node's START word requests creation. -/
  | streamStartStore (node : Nat) (v : Word)
  /-- VS_RED (R345): Sends this member's chunk for SEQ NEXT, or returns BUSY. -/
  | vsRed (q : Bool) (d a b : Reg)
  /-- VS_MARK (R345): Sends a marker word. -/
  | vsMark (q : Bool) (d a : Reg)
  /-- VS_ST (R344): Returns the member's LCC and NEXT. -/
  | vsSt (q : Bool) (d a : Reg)
  /-- VS_REJOIN (R347): Sets NEXT to the resume point after a re-stitch. -/
  | vsRejoin (q : Bool) (d a : Reg)
  /-- VS_CLOSE (R347): Purges and closes a stream, freeing its router entries. -/
  | vsClose (q : Bool) (d a : Reg)
  /-- VADD_INT (R356): Vector integer add. -/
  | vaddInt (g : VArgs)
  /-- VADD_INT_K (R356): Vector integer add with a literal scalar operand. -/
  | vaddIntK (g : VArgs)
  /-- VSUB_INT (R356): Vector integer subtract. -/
  | vsubInt (g : VArgs)
  /-- VMUL_INT (R356): Vector integer multiply. -/
  | vmulInt (g : VArgs)
  /-- VMULH (R356): Vector integer high half of product. -/
  | vmulh (g : VArgs)
  /-- VMIN_INT (R356): Vector integer minimum. -/
  | vminInt (g : VArgs)
  /-- VMAX_INT (R356): Vector integer maximum. -/
  | vmaxInt (g : VArgs)
  /-- VAND (R356): Vector bitwise AND. -/
  | vand (g : VArgs)
  /-- VOR (R356): Vector bitwise OR. -/
  | vor (g : VArgs)
  /-- VXOR (R356): Vector bitwise XOR. -/
  | vxor (g : VArgs)
  /-- VSLL (R356): Vector shift left. -/
  | vsll (g : VArgs)
  /-- VSR (R356): Vector shift right, arithmetic or logical under U. -/
  | vsr (g : VArgs)
  /-- VABS_INT (R356): Vector integer absolute value. -/
  | vabsInt (g : VArgs)
  /-- VMAC (R356): Vector integer multiply-accumulate. -/
  | vmac (g : VArgs)
  /-- VWMUL_INT (R357): Widening integer multiply into a pair or quad. -/
  | vwmulInt (g : VArgs)
  /-- VWMAC (R357): Widening integer multiply-accumulate. -/
  | vwmac (g : VArgs)
  /-- VDOT_INT (R357): Integer dot product into i32 lanes. -/
  | vdotInt (g : VArgs)
  /-- VCEQ_INT (R356): Vector integer compare equal into a mask. -/
  | vceqInt (g : VArgs)
  /-- VCLT_INT (R356): Vector integer compare less into a mask. -/
  | vcltInt (g : VArgs)
  /-- VCLE_INT (R356): Vector integer compare less-or-equal into a mask. -/
  | vcleInt (g : VArgs)
  /-- VMOV (R356): Copies a register or broadcasts a scalar. -/
  | vmov (g : VArgs)
  /-- VADD_FLT (R358): Vector float add, rounded once. -/
  | vaddFlt (g : VArgs)
  /-- VADD_FLT_X (R358): Vector float add with E-word rounding override or mask. -/
  | vaddFltX (g : VArgs)
  /-- VSUB_FLT (R358): Vector float subtract. -/
  | vsubFlt (g : VArgs)
  /-- VMUL_FLT (R358): Vector float multiply. -/
  | vmulFlt (g : VArgs)
  /-- VMUL_FLT_K (R358): Vector float multiply by a literal scalar. -/
  | vmulFltK (g : VArgs)
  /-- VDIV (R358): Vector float divide, correctly rounded. -/
  | vdiv (g : VArgs)
  /-- VFMA (R358): Vector fused multiply-add. -/
  | vfma (g : VArgs)
  /-- VMIN_FLT (R358): IEEE minimum. -/
  | vminFlt (g : VArgs)
  /-- VMAX_FLT (R358): IEEE maximum. -/
  | vmaxFlt (g : VArgs)
  /-- VABS_FLT (R358): Float absolute value. -/
  | vabsFlt (g : VArgs)
  /-- VSQRT (R358): Square root. -/
  | vsqrt (g : VArgs)
  /-- VEXP2 (R359): 2^a, correctly rounded. -/
  | vexp2 (g : VArgs)
  /-- VLOG2 (R359): log2 a, correctly rounded. -/
  | vlog2 (g : VArgs)
  /-- VRCP (R359): Reciprocal. -/
  | vrcp (g : VArgs)
  /-- VRSQ (R359): Reciprocal square root. -/
  | vrsq (g : VArgs)
  /-- VWMUL_FLT (R360): Widening float multiply into f32 pairs. -/
  | vwmulFlt (g : VArgs)
  /-- VWFMA (R360): Widening fused multiply-add into f32 pairs. -/
  | vwfma (g : VArgs)
  /-- VDOT_FLT (R360): Float dot product into f32 lanes by PairTree. -/
  | vdotFlt (g : VArgs)
  /-- VCEQ_FLT (R360): Float compare equal into a mask. -/
  | vceqFlt (g : VArgs)
  /-- VCLT_FLT (R360): Float compare less into a mask. -/
  | vcltFlt (g : VArgs)
  /-- VCLE_FLT (R360): Float compare less-or-equal into a mask. -/
  | vcleFlt (g : VArgs)
  /-- VLD (R361): Loads 512 bytes, filling the sidecar from a matching payload view. -/
  | vld (g : VArgs)
  /-- VLD_X (R361): Vector load with E.DISP or a mask. -/
  | vldX (g : VArgs)
  /-- VST (R361): Stores 512 bytes. -/
  | vst (g : VArgs)
  /-- VST_X (R361): Vector store with E.DISP or a mask. -/
  | vstX (g : VArgs)
  /-- VGATHER (R363): Gathers elements by vector index. -/
  | vgather (g : VArgs)
  /-- VSCATTER (R363): Scatters elements by vector index. -/
  | vscatter (g : VArgs)
  /-- VLDL (R364): Loads each lane from its lane memory at a common offset. -/
  | vldl (g : VArgs)
  /-- VLDL_V (R364): Loads each lane from lane memory at a per-lane offset. -/
  | vldlV (g : VArgs)
  /-- VSTL (R364): Stores each lane to its lane memory at a common offset. -/
  | vstl (g : VArgs)
  /-- VSTL_V (R364): Stores each lane to lane memory at a per-lane offset. -/
  | vstlV (g : VArgs)
  /-- VLDSC (R362): Loads 32 bytes into a sidecar. -/
  | vldsc (g : VArgs)
  /-- VSTSC (R362): Stores 32 sidecar bytes. -/
  | vstsc (g : VArgs)
  /-- VCVT (R365): Converts each element between types. -/
  | vcvt (g : VArgs)
  /-- VCVT_W (R365): Widening or narrowing conversion over a register group. -/
  | vcvtW (g : VArgs)
  /-- VUNPK (R366): Unpacks a slice of block elements to scaled f32. -/
  | vunpk (g : VArgs)
  /-- VUNPK6 (R366): Unpacks f6 groups to scaled f32. -/
  | vunpk6 (g : VArgs)
  /-- VPK (R367): Packs f32 lanes into a slice of block elements under the sidecar scales. -/
  | vpk (g : VArgs)
  /-- VPK6 (R367): Packs f32 lanes into f6 groups. -/
  | vpk6 (g : VArgs)
  /-- VPERM (R368): Permutes elements by a vector index. -/
  | vperm (g : VArgs)
  /-- VSLIDE (R368): Slides elements by a scalar amount. -/
  | vslide (g : VArgs)
  /-- VEXT (R368): Extracts one element to a scalar as a late result. -/
  | vext (g : VArgs)
  /-- VINS (R368): Inserts a scalar into one element. -/
  | vins (g : VArgs)
  /-- VRED_ADD (R369): Sums selected elements to a scalar. -/
  | vredAdd (g : VArgs)
  /-- VRED_MAX (R369): Maximum of selected elements to a scalar. -/
  | vredMax (g : VArgs)
  /-- VRED_MIN (R369): Minimum of selected elements to a scalar. -/
  | vredMin (g : VArgs)
  /-- VATTC (R370): Combines two attention row records as a station would. -/
  | vattc (w : AttW) (g : VArgs)
  /-- VATTF (R371): Finishes an attention row record. -/
  | vattf (w : AttW) (g : VArgs)
  /-- REP (R372): Captures the next c vector instructions for repetition x[a] times. -/
  | rep (q : Bool) (c : BitVec 3) (a : Reg)
  /-- REP_WAIT (R373): Waits as vfence and returns the iterations completed. -/
  | repWait (q : Bool) (d : Reg)
  /-- VFENCE (R374): Waits until every vector command of the thread has retired. -/
  | vfence (q : Bool)
  /-- VBUSY (R374): Returns whether the slot has unretired vector work. -/
  | vbusy (q : Bool) (d : Reg)
  /-- KAND (R375): Mask AND. -/
  | kand (q : Bool) (k j h : BitVec 2)
  /-- KOR (R375): Mask OR. -/
  | kor (q : Bool) (k j h : BitVec 2)
  /-- KXOR (R375): Mask XOR. -/
  | kxor (q : Bool) (k j h : BitVec 2)
  /-- KNOT (R375): Mask NOT. -/
  | knot (q : Bool) (k j : BitVec 2)
  /-- KSET (R375): Sets mask bits below a scalar count. -/
  | kset (q : Bool) (k : BitVec 2) (a : Reg)
  /-- KINS (R375): Inserts 64 bits into a mask. -/
  | kins (q : Bool) (k : BitVec 2) (a b : Reg)
  /-- KEXT (R375): Extracts 64 mask bits as a late result. -/
  | kext (q : Bool) (d : Reg) (k : BitVec 2) (b : Reg)
  /-- KPOP (R375): Counts set mask bits as a late result. -/
  | kpop (q : Bool) (d : Reg) (k : BitVec 2)
  /-- MM (R383): Runs a matrix operation from a descriptor and returns its MMST. -/
  | mm (q : Bool) (d a : Reg)
  /-- MCLOAD (R386): Loads a cell-program word into program slot i, or refuses it. -/
  | mcload (q : Bool) (d b : Reg) (i : BitVec 2)
  /-- MCRD (R379): Reads program slot i. -/
  | mcrd (q : Bool) (d : Reg) (i : BitVec 2)
  /-- MCCLR (R379): Clears program slot i. -/
  | mcclr (q : Bool) (i : BitVec 2)
  /-- TRAP (R394): Takes the exact software trap with a code and operand. -/
  | trap (q : Bool) (c : BitVec 4) (a : Reg) (e : BitVec 4)
  /-- TRET (R256): Returns from a trap after checking SAVED. -/
  | tret (q : Bool)
  /-- TRET_X (R256): Trap return with a travel live mask. -/
  | tretX (q : Bool) (live : BitVec 15)
  /-- HALT (R395): Halts the thread or traps; in an engine hart ends the program with a mailbox store. -/
  | halt (q : Bool) (a : Reg)
  /-- WFI (R396): Waits for a pending asynchronous trap or a cycle count. -/
  | wfi (q : Bool) (d b : Reg)
  /-- GTIME (R397): Reads GTIME. -/
  | gtime (q : Bool) (d : Reg)
  /-- PJ_RD (R398): Reads one word of a journal entry. -/
  | pjRd (q : Bool) (d a : Reg)
  /-- PJ_CLR (R398): Clears a refused journal entry of this thread. -/
  | pjClr (q : Bool) (d a : Reg)
  /-- KC_INV (R399): Drops key-cache or TLB entries, package-wide for scopes 2 and 3. -/
  | kcInv (q : Bool) (a : Reg) (s : BitVec 2)
  /-- FFL (R397): Waits as vfence, then reads and clears the sticky flags. -/
  | ffl (q : Bool) (d : Reg)
  /-- CTL_RD (R393): Reads a control register. -/
  | ctlRd (q : Bool) (d : Reg) (h : BitVec 4) (n : BitVec 8)
  /-- CTL_WR (R393): Writes a control register. -/
  | ctlWr (q : Bool) (a : Reg) (h : BitVec 4) (n : BitVec 8)
  /-- CTL_SET (R393): ORs bits into a control register. -/
  | ctlSet (q : Bool) (a : Reg) (h : BitVec 4) (n : BitVec 8)
  /-- CTL_CLR (R393): Clears bits of a control register. -/
  | ctlClr (q : Bool) (a : Reg) (h : BitVec 4) (n : BitVec 8)
  /-- BRK (R394): Takes the exact breakpoint trap. -/
  | brk (q : Bool)
  /-- ILLEGAL_INSTRUCTION (R272): An illegal encoding takes the exact illegal-instruction trap before any effect. -/
  | illegalInstruction (base : BitVec 32)
  /-- PTP_HOLDOVER (R73): When the servo loses its grandmaster, PTP time holds over at its last rate trim and frames record PTPLOCK = 0. -/
  | ptpHoldover
  deriving DecidableEq, Repr

end Sys2Proof
end

