-- ==== Sys2Proof/WellFormed.lean ====
section
/-! DEFINITION. Which operand values an instruction admits (R261 to R272): the checks R272 makes on the words, field by field. -/

namespace Sys2Proof

/-- The role of a register field of a format V row: a vector, scalar or mask register, an immediate, or unused (R261, R352). -/
inductive VRole where
  | vec | sca | msk | imm | none
  deriving DecidableEq, Repr

/-- What a format V row accepts (R265 to R269, R352 to R354 and the tables of "Vector instructions"). -/
structure VRow where
  major : BitVec 6
  fn    : BitVec 8
  tys   : List VTy
  u     : Bool
  x     : Bool
  sat   : Bool
  rnd   : Bool
  me    : Bool
  disp  : Bool
  rd    : VRole
  ra    : VRole
  rb    : VRole
  deriving DecidableEq, Repr

/-- The bits of an element of a type (R265). -/
def VTy.width : VTy → Nat
  | .q4 => 4 | .i8 => 8 | .i16 => 16 | .i32 => 32 | .f8 => 8 | .bf16 => 16 | .f16 => 16 | .f32 => 32

/-- The ty code of a type (R265). -/
def VTy.code : VTy → BitVec 3
  | .q4 => 0 | .i8 => 1 | .i16 => 2 | .i32 => 3 | .f8 => 4 | .bf16 => 5 | .f16 => 6 | .f32 => 7

/-- The type of a ty code (R265). -/
def VTy.ofCode (c : BitVec 3) : VTy :=
  match c.toNat with
  | 0 => .q4 | 1 => .i8 | 2 => .i16 | 3 => .i32 | 4 => .f8 | 5 => .bf16 | 6 => .f16 | _ => .f32

/-- The type holds floating-point numbers (R203, R204). -/
def VTy.isFloat : VTy → Bool
  | .f8 => true | .bf16 => true | .f16 => true | .f32 => true | _ => false

/-- WID of a command: 0 without an E word (R268). -/
def VArgs.wid (g : VArgs) : Nat :=
  match g.e with
  | some e => e.wid.toNat
  | none => 0

/-- A register number and its stagger fit a group of 1, 2 or 4 registers (R269, R352). -/
def groupOk (wid : Nat) (r : Reg) (stagger : BitVec 4) : Bool :=
  match wid with
  | 0 => true
  | 1 => r.toNat % 2 == 0 && stagger.toNat % 2 == 0
  | _ => r.toNat % 4 == 0 && stagger.toNat % 4 == 0

/-- A field obeys its role: unused fields are zero, mask registers are k0 to k3 (R261, R269, R272). -/
def roleOk (role : VRole) (r : Reg) : Bool :=
  match role with
  | .none => r == 0
  | .msk => decide (r.toNat < 4)
  | _ => true

/-- A stagger is zero on a field that is not a vector register (R269). -/
def staggerOk (role : VRole) (s : BitVec 4) : Bool :=
  role == .vec || s == 0

/-- The role of vb, which names a scalar under X, and of va of vmov, which X leaves unused (R352, R356). -/
def VRow.roleB (r : VRow) (g : VArgs) : VRole :=
  if g.x && r.x then (if g.k.isSome then .none else .sca) else r.rb

/-- The role of va: vmov under X reads no va (R356). -/
def VRow.roleA (r : VRow) (g : VArgs) : VRole :=
  if g.x && r.x && r.major == 0x30#6 && r.fn == 0x13#8 then .none else r.ra

/-- The E word of a format V instruction has only fields the row accepts (R268, R269, R272). -/
def VRow.extOk (r : VRow) (g : VArgs) : Bool :=
  match g.e with
  | none => true
  | some e =>
    (r.disp || e.disp == 0) && staggerOk r.rd e.svd && staggerOk (r.roleA g) e.sva && staggerOk (r.roleB g) e.svb
      && (r.me || !e.me) && (e.me || e.ksel == 0) && decide (e.rnd.toNat ≤ 5) && (r.rnd || e.rnd == 0)
      && (r.sat || !e.sat) && e.wid != 3

/-- A format V instruction obeys its row, its widening shape aside (R272). -/
def VRow.ok (r : VRow) (g : VArgs) : Bool :=
  r.tys.contains g.ty && (r.u || !g.u) && (r.x || !g.x) && (g.k.isNone || g.x)
    && roleOk r.rd g.vd && roleOk (r.roleA g) g.va && roleOk (r.roleB g) g.vb && r.extOk g

/-- The destination stagger of a command: 0 without an E word. -/
def VArgs.svd (g : VArgs) : BitVec 4 := match g.e with | some e => e.svd | none => 0

/-- The va stagger of a command. -/
def VArgs.sva (g : VArgs) : BitVec 4 := match g.e with | some e => e.sva | none => 0

/-- The vb stagger of a command. -/
def VArgs.svb (g : VArgs) : BitVec 4 := match g.e with | some e => e.svb | none => 0

/-- WID of a conversion: the ratio of the two widths (R365). -/
def cvtWid (dst src : VTy) : Nat :=
  let hi := max dst.width src.width
  let lo := min dst.width src.width
  if hi == lo then 0 else if hi == 2 * lo then 1 else 2

/-- The source type of a vcvt (R365). -/
def VArgs.srcTy (g : VArgs) : VTy := VTy.ofCode (g.vb.extractLsb' 0 3)

/-- A vcvt is legal: no q4, unsigned marks on integers only, WID the ratio of the widths, the wider group aligned (R365, R269). -/
def cvtOk (g : VArgs) : Bool :=
  g.srcTy != .q4 && (!g.vb.getLsbD 3 || !g.srcTy.isFloat) && (!g.u || !g.ty.isFloat) && g.wid == cvtWid g.ty g.srcTy
    && (if g.ty.width < g.srcTy.width then groupOk g.wid g.va g.sva else groupOk g.wid g.vd g.svd)

/-- A slice number of the pack and unpack forms is in range (R366, R367). -/
def sliceOk (g : VArgs) : Bool :=
  decide (g.vb.toNat < (if g.ty == .q4 then 8 else 4))

/-- The group size of an attention width as a WID code (R370). -/
def AttW.group : AttW → Nat
  | .d64 => 0 | .d128 => 1 | .d256 => 2

/-- The code of an attention width, fn[1:0] (R370). -/
def AttW.code : AttW → BitVec 2
  | .d64 => 0 | .d128 => 1 | .d256 => 2

/-- A control register number is one R192 lists. -/
def ctlListed (h : BitVec 4) (n : BitVec 8) : Bool :=
  let v := h.toNat * 256 + n.toNat
  [0x000, 0x001, 0x002, 0x003, 0x004, 0x008, 0x009, 0x010, 0x011, 0x012, 0x013, 0x014, 0x015, 0x016, 0x017, 0x018, 0x019,
    0x01A, 0x01B, 0x020, 0x021, 0x022, 0x023, 0x024, 0x030, 0x040, 0x041, 0x042, 0x043, 0x044, 0x045, 0x046, 0x047].contains v

/-- A put's counter register is even, from 2 to 14 (R317). -/
def putReg (d : Reg) : Bool := d.toNat % 2 == 0 && d != 0

/-- The row of VADD_INT (R356). -/
def rowVaddInt : VRow :=
  ⟨0x30#6, 0x0#8, [.i8, .i16, .i32], true, true, true, false, true, false, .vec, .vec, .vec⟩

/-- The row of VADD_INT_K (R356). -/
def rowVaddIntK : VRow :=
  ⟨0x30#6, 0x0#8, [.i8, .i16, .i32], true, true, true, false, true, false, .vec, .vec, .vec⟩

/-- The row of VSUB_INT (R356). -/
def rowVsubInt : VRow :=
  ⟨0x30#6, 0x1#8, [.i8, .i16, .i32], true, true, true, false, true, false, .vec, .vec, .vec⟩

/-- The row of VMUL_INT (R356). -/
def rowVmulInt : VRow :=
  ⟨0x30#6, 0x2#8, [.i8, .i16, .i32], true, true, true, false, true, false, .vec, .vec, .vec⟩

/-- The row of VMULH (R356). -/
def rowVmulh : VRow :=
  ⟨0x30#6, 0x3#8, [.i8, .i16, .i32], true, true, false, false, true, false, .vec, .vec, .vec⟩

/-- The row of VMIN_INT (R356). -/
def rowVminInt : VRow :=
  ⟨0x30#6, 0x4#8, [.i8, .i16, .i32], true, true, false, false, true, false, .vec, .vec, .vec⟩

/-- The row of VMAX_INT (R356). -/
def rowVmaxInt : VRow :=
  ⟨0x30#6, 0x5#8, [.i8, .i16, .i32], true, true, false, false, true, false, .vec, .vec, .vec⟩

/-- The row of VAND (R356). -/
def rowVand : VRow :=
  ⟨0x30#6, 0x6#8, [.i8, .i16, .i32], false, true, false, false, true, false, .vec, .vec, .vec⟩

/-- The row of VOR (R356). -/
def rowVor : VRow :=
  ⟨0x30#6, 0x7#8, [.i8, .i16, .i32], false, true, false, false, true, false, .vec, .vec, .vec⟩

/-- The row of VXOR (R356). -/
def rowVxor : VRow :=
  ⟨0x30#6, 0x8#8, [.i8, .i16, .i32], false, true, false, false, true, false, .vec, .vec, .vec⟩

/-- The row of VSLL (R356). -/
def rowVsll : VRow :=
  ⟨0x30#6, 0x9#8, [.i8, .i16, .i32], false, true, false, false, true, false, .vec, .vec, .vec⟩

/-- The row of VSR (R356). -/
def rowVsr : VRow :=
  ⟨0x30#6, 0xA#8, [.i8, .i16, .i32], true, true, false, false, true, false, .vec, .vec, .vec⟩

/-- The row of VABS_INT (R356). -/
def rowVabsInt : VRow :=
  ⟨0x30#6, 0xB#8, [.i8, .i16, .i32], false, false, true, false, true, false, .vec, .vec, .none⟩

/-- The row of VMAC (R356). -/
def rowVmac : VRow :=
  ⟨0x30#6, 0xC#8, [.i8, .i16, .i32], true, true, true, false, true, false, .vec, .vec, .vec⟩

/-- The row of VWMUL_INT (R357). -/
def rowVwmulInt : VRow :=
  ⟨0x30#6, 0xD#8, [.i8, .i16], true, false, false, false, true, false, .vec, .vec, .vec⟩

/-- The row of VWMAC (R357). -/
def rowVwmac : VRow :=
  ⟨0x30#6, 0xE#8, [.i8, .i16], true, false, true, false, true, false, .vec, .vec, .vec⟩

/-- The row of VDOT_INT (R357). -/
def rowVdotInt : VRow :=
  ⟨0x30#6, 0xF#8, [.q4, .i8, .i16], true, false, true, false, true, false, .vec, .vec, .vec⟩

/-- The row of VCEQ_INT (R356). -/
def rowVceqInt : VRow :=
  ⟨0x30#6, 0x10#8, [.i8, .i16, .i32], false, true, false, false, true, false, .msk, .vec, .vec⟩

/-- The row of VCLT_INT (R356). -/
def rowVcltInt : VRow :=
  ⟨0x30#6, 0x11#8, [.i8, .i16, .i32], true, true, false, false, true, false, .msk, .vec, .vec⟩

/-- The row of VCLE_INT (R356). -/
def rowVcleInt : VRow :=
  ⟨0x30#6, 0x12#8, [.i8, .i16, .i32], true, true, false, false, true, false, .msk, .vec, .vec⟩

/-- The row of VMOV (R356). -/
def rowVmov : VRow :=
  ⟨0x30#6, 0x13#8, [.i8, .i16, .i32], false, true, false, false, true, false, .vec, .vec, .none⟩

/-- The row of VADD_FLT (R358). -/
def rowVaddFlt : VRow :=
  ⟨0x31#6, 0x0#8, [.bf16, .f16, .f32], false, true, false, true, true, false, .vec, .vec, .vec⟩

/-- The row of VADD_FLT_X (R358). -/
def rowVaddFltX : VRow :=
  ⟨0x31#6, 0x0#8, [.bf16, .f16, .f32], false, true, false, true, true, false, .vec, .vec, .vec⟩

/-- The row of VSUB_FLT (R358). -/
def rowVsubFlt : VRow :=
  ⟨0x31#6, 0x1#8, [.bf16, .f16, .f32], false, true, false, true, true, false, .vec, .vec, .vec⟩

/-- The row of VMUL_FLT (R358). -/
def rowVmulFlt : VRow :=
  ⟨0x31#6, 0x2#8, [.bf16, .f16, .f32], false, true, false, true, true, false, .vec, .vec, .vec⟩

/-- The row of VMUL_FLT_K (R358). -/
def rowVmulFltK : VRow :=
  ⟨0x31#6, 0x2#8, [.bf16, .f16, .f32], false, true, false, true, true, false, .vec, .vec, .vec⟩

/-- The row of VDIV (R358). -/
def rowVdiv : VRow :=
  ⟨0x31#6, 0x3#8, [.bf16, .f16, .f32], false, true, false, true, true, false, .vec, .vec, .vec⟩

/-- The row of VFMA (R358). -/
def rowVfma : VRow :=
  ⟨0x31#6, 0x4#8, [.bf16, .f16, .f32], false, true, false, true, true, false, .vec, .vec, .vec⟩

/-- The row of VMIN_FLT (R358). -/
def rowVminFlt : VRow :=
  ⟨0x31#6, 0x5#8, [.bf16, .f16, .f32], false, true, false, false, true, false, .vec, .vec, .vec⟩

/-- The row of VMAX_FLT (R358). -/
def rowVmaxFlt : VRow :=
  ⟨0x31#6, 0x6#8, [.bf16, .f16, .f32], false, true, false, false, true, false, .vec, .vec, .vec⟩

/-- The row of VABS_FLT (R358). -/
def rowVabsFlt : VRow :=
  ⟨0x31#6, 0x7#8, [.bf16, .f16, .f32], false, false, false, false, true, false, .vec, .vec, .none⟩

/-- The row of VSQRT (R358). -/
def rowVsqrt : VRow :=
  ⟨0x31#6, 0x8#8, [.bf16, .f16, .f32], false, false, false, true, true, false, .vec, .vec, .none⟩

/-- The row of VEXP2 (R359). -/
def rowVexp2 : VRow :=
  ⟨0x31#6, 0x9#8, [.bf16, .f16, .f32], false, false, false, true, true, false, .vec, .vec, .none⟩

/-- The row of VLOG2 (R359). -/
def rowVlog2 : VRow :=
  ⟨0x31#6, 0xA#8, [.bf16, .f16, .f32], false, false, false, true, true, false, .vec, .vec, .none⟩

/-- The row of VRCP (R359). -/
def rowVrcp : VRow :=
  ⟨0x31#6, 0xB#8, [.bf16, .f16, .f32], false, false, false, true, true, false, .vec, .vec, .none⟩

/-- The row of VRSQ (R359). -/
def rowVrsq : VRow :=
  ⟨0x31#6, 0xC#8, [.bf16, .f16, .f32], false, false, false, true, true, false, .vec, .vec, .none⟩

/-- The row of VWMUL_FLT (R360). -/
def rowVwmulFlt : VRow :=
  ⟨0x31#6, 0xD#8, [.bf16, .f16], false, false, false, true, true, false, .vec, .vec, .vec⟩

/-- The row of VWFMA (R360). -/
def rowVwfma : VRow :=
  ⟨0x31#6, 0xE#8, [.bf16, .f16], false, false, false, true, true, false, .vec, .vec, .vec⟩

/-- The row of VDOT_FLT (R360). -/
def rowVdotFlt : VRow :=
  ⟨0x31#6, 0xF#8, [.f8, .bf16, .f16], false, false, false, true, true, false, .vec, .vec, .vec⟩

/-- The row of VCEQ_FLT (R360). -/
def rowVceqFlt : VRow :=
  ⟨0x31#6, 0x10#8, [.bf16, .f16, .f32], false, true, false, false, true, false, .msk, .vec, .vec⟩

/-- The row of VCLT_FLT (R360). -/
def rowVcltFlt : VRow :=
  ⟨0x31#6, 0x11#8, [.bf16, .f16, .f32], false, true, false, false, true, false, .msk, .vec, .vec⟩

/-- The row of VCLE_FLT (R360). -/
def rowVcleFlt : VRow :=
  ⟨0x31#6, 0x12#8, [.bf16, .f16, .f32], false, true, false, false, true, false, .msk, .vec, .vec⟩

/-- The row of VLD (R361). -/
def rowVld : VRow :=
  ⟨0x32#6, 0x0#8, [.q4, .i8, .i16, .i32, .f8, .bf16, .f16, .f32], false, false, false, false, true, true, .vec, .sca, .sca⟩

/-- The row of VLD_X (R361). -/
def rowVldX : VRow :=
  ⟨0x32#6, 0x0#8, [.q4, .i8, .i16, .i32, .f8, .bf16, .f16, .f32], false, false, false, false, true, true, .vec, .sca, .sca⟩

/-- The row of VST (R361). -/
def rowVst : VRow :=
  ⟨0x32#6, 0x1#8, [.q4, .i8, .i16, .i32, .f8, .bf16, .f16, .f32], false, false, false, false, true, true, .vec, .sca, .sca⟩

/-- The row of VST_X (R361). -/
def rowVstX : VRow :=
  ⟨0x32#6, 0x1#8, [.q4, .i8, .i16, .i32, .f8, .bf16, .f16, .f32], false, false, false, false, true, true, .vec, .sca, .sca⟩

/-- The row of VGATHER (R363). -/
def rowVgather : VRow :=
  ⟨0x32#6, 0x2#8, [.i16, .i32, .bf16, .f16, .f32], false, false, false, false, true, true, .vec, .sca, .vec⟩

/-- The row of VSCATTER (R363). -/
def rowVscatter : VRow :=
  ⟨0x32#6, 0x3#8, [.i16, .i32, .bf16, .f16, .f32], false, false, false, false, true, true, .vec, .sca, .vec⟩

/-- The row of VLDL (R364). -/
def rowVldl : VRow :=
  ⟨0x32#6, 0x4#8, [.i32, .f32], false, false, false, false, true, true, .vec, .sca, .none⟩

/-- The row of VLDL_V (R364). -/
def rowVldlV : VRow :=
  ⟨0x32#6, 0x44#8, [.i32, .f32], false, false, false, false, true, true, .vec, .sca, .vec⟩

/-- The row of VSTL (R364). -/
def rowVstl : VRow :=
  ⟨0x32#6, 0x5#8, [.i32, .f32], false, false, false, false, true, true, .vec, .sca, .none⟩

/-- The row of VSTL_V (R364). -/
def rowVstlV : VRow :=
  ⟨0x32#6, 0x45#8, [.i32, .f32], false, false, false, false, true, true, .vec, .sca, .vec⟩

/-- The row of VLDSC (R362). -/
def rowVldsc : VRow :=
  ⟨0x32#6, 0x6#8, [.q4], false, false, false, false, false, true, .vec, .sca, .sca⟩

/-- The row of VSTSC (R362). -/
def rowVstsc : VRow :=
  ⟨0x32#6, 0x7#8, [.q4], false, false, false, false, false, true, .vec, .sca, .sca⟩

/-- The row of VCVT (R365). -/
def rowVcvt : VRow :=
  ⟨0x33#6, 0x0#8, [.i8, .i16, .i32, .f8, .bf16, .f16, .f32], true, false, true, true, true, false, .vec, .vec, .imm⟩

/-- The row of VCVT_W (R365). -/
def rowVcvtW : VRow :=
  ⟨0x33#6, 0x0#8, [.i8, .i16, .i32, .f8, .bf16, .f16, .f32], true, false, true, true, true, false, .vec, .vec, .imm⟩

/-- The row of VUNPK (R366). -/
def rowVunpk : VRow :=
  ⟨0x33#6, 0x1#8, [.q4, .i8, .f8], false, false, false, false, true, false, .vec, .vec, .imm⟩

/-- The row of VUNPK6 (R366). -/
def rowVunpk6 : VRow :=
  ⟨0x33#6, 0x2#8, [.q4], false, false, false, false, false, false, .vec, .vec, .imm⟩

/-- The row of VPK (R367). -/
def rowVpk : VRow :=
  ⟨0x33#6, 0x3#8, [.q4, .i8, .f8], false, false, false, true, true, false, .vec, .vec, .imm⟩

/-- The row of VPK6 (R367). -/
def rowVpk6 : VRow :=
  ⟨0x33#6, 0x4#8, [.q4], false, false, false, true, true, false, .vec, .vec, .imm⟩

/-- The row of VPERM (R368). -/
def rowVperm : VRow :=
  ⟨0x33#6, 0x5#8, [.i8, .i16, .i32], false, false, false, false, true, false, .vec, .vec, .vec⟩

/-- The row of VSLIDE (R368). -/
def rowVslide : VRow :=
  ⟨0x33#6, 0x6#8, [.i8, .i16, .i32], false, false, false, false, true, false, .vec, .vec, .sca⟩

/-- The row of VEXT (R368). -/
def rowVext : VRow :=
  ⟨0x33#6, 0x7#8, [.i8, .i16, .i32], true, false, false, false, false, false, .sca, .vec, .sca⟩

/-- The row of VINS (R368). -/
def rowVins : VRow :=
  ⟨0x33#6, 0x8#8, [.i8, .i16, .i32], false, false, false, false, false, false, .vec, .sca, .sca⟩

/-- The row of VRED_ADD (R369). -/
def rowVredAdd : VRow :=
  ⟨0x34#6, 0x0#8, [.q4, .i8, .i16, .i32, .bf16, .f16, .f32], true, false, false, true, true, false, .sca, .vec, .none⟩

/-- The row of VRED_MAX (R369). -/
def rowVredMax : VRow :=
  ⟨0x34#6, 0x1#8, [.q4, .i8, .i16, .i32, .bf16, .f16, .f32], true, false, false, false, true, false, .sca, .vec, .none⟩

/-- The row of VRED_MIN (R369). -/
def rowVredMin : VRow :=
  ⟨0x34#6, 0x2#8, [.q4, .i8, .i16, .i32, .bf16, .f16, .f32], true, false, false, false, true, false, .sca, .vec, .none⟩

/-- The row of VATTC (R370). -/
def rowVattc : VRow :=
  ⟨0x34#6, 0x10#8, [.f32], false, false, false, false, false, false, .vec, .vec, .vec⟩

/-- The row of VATTF (R371). -/
def rowVattf : VRow :=
  ⟨0x34#6, 0x18#8, [.f32], false, false, false, false, false, false, .vec, .vec, .none⟩

/-- The row and fields of a format V instruction; none for every other. -/
def Instr.vrow : Instr → Option (VRow × VArgs)
  | .vaddInt g => some (rowVaddInt, g)
  | .vaddIntK g => some (rowVaddIntK, g)
  | .vsubInt g => some (rowVsubInt, g)
  | .vmulInt g => some (rowVmulInt, g)
  | .vmulh g => some (rowVmulh, g)
  | .vminInt g => some (rowVminInt, g)
  | .vmaxInt g => some (rowVmaxInt, g)
  | .vand g => some (rowVand, g)
  | .vor g => some (rowVor, g)
  | .vxor g => some (rowVxor, g)
  | .vsll g => some (rowVsll, g)
  | .vsr g => some (rowVsr, g)
  | .vabsInt g => some (rowVabsInt, g)
  | .vmac g => some (rowVmac, g)
  | .vwmulInt g => some (rowVwmulInt, g)
  | .vwmac g => some (rowVwmac, g)
  | .vdotInt g => some (rowVdotInt, g)
  | .vceqInt g => some (rowVceqInt, g)
  | .vcltInt g => some (rowVcltInt, g)
  | .vcleInt g => some (rowVcleInt, g)
  | .vmov g => some (rowVmov, g)
  | .vaddFlt g => some (rowVaddFlt, g)
  | .vaddFltX g => some (rowVaddFltX, g)
  | .vsubFlt g => some (rowVsubFlt, g)
  | .vmulFlt g => some (rowVmulFlt, g)
  | .vmulFltK g => some (rowVmulFltK, g)
  | .vdiv g => some (rowVdiv, g)
  | .vfma g => some (rowVfma, g)
  | .vminFlt g => some (rowVminFlt, g)
  | .vmaxFlt g => some (rowVmaxFlt, g)
  | .vabsFlt g => some (rowVabsFlt, g)
  | .vsqrt g => some (rowVsqrt, g)
  | .vexp2 g => some (rowVexp2, g)
  | .vlog2 g => some (rowVlog2, g)
  | .vrcp g => some (rowVrcp, g)
  | .vrsq g => some (rowVrsq, g)
  | .vwmulFlt g => some (rowVwmulFlt, g)
  | .vwfma g => some (rowVwfma, g)
  | .vdotFlt g => some (rowVdotFlt, g)
  | .vceqFlt g => some (rowVceqFlt, g)
  | .vcltFlt g => some (rowVcltFlt, g)
  | .vcleFlt g => some (rowVcleFlt, g)
  | .vld g => some (rowVld, g)
  | .vldX g => some (rowVldX, g)
  | .vst g => some (rowVst, g)
  | .vstX g => some (rowVstX, g)
  | .vgather g => some (rowVgather, g)
  | .vscatter g => some (rowVscatter, g)
  | .vldl g => some (rowVldl, g)
  | .vldlV g => some (rowVldlV, g)
  | .vstl g => some (rowVstl, g)
  | .vstlV g => some (rowVstlV, g)
  | .vldsc g => some (rowVldsc, g)
  | .vstsc g => some (rowVstsc, g)
  | .vcvt g => some (rowVcvt, g)
  | .vcvtW g => some (rowVcvtW, g)
  | .vunpk g => some (rowVunpk, g)
  | .vunpk6 g => some (rowVunpk6, g)
  | .vpk g => some (rowVpk, g)
  | .vpk6 g => some (rowVpk6, g)
  | .vperm g => some (rowVperm, g)
  | .vslide g => some (rowVslide, g)
  | .vext g => some (rowVext, g)
  | .vins g => some (rowVins, g)
  | .vredAdd g => some (rowVredAdd, g)
  | .vredMax g => some (rowVredMax, g)
  | .vredMin g => some (rowVredMin, g)
  | .vattc w g => some ({ rowVattc with fn := 0x4#6 ++ w.code }, g)
  | .vattf w g => some ({ rowVattf with fn := 0x6#6 ++ w.code }, g)
  | _ => none

/-- An instruction admits its operands: what R272 asks of the words, VWIN.W and the trap level aside. Events are not encoded. -/
def Instr.wellFormed : Instr → Bool
  | .putAdd _ d _ _ => putReg d
  | .putSet _ d _ _ => putReg d
  | .putFill _ d _ _ => putReg d
  | .lp _ _ i => i != 0 && !i.getLsbD 14
  | .vaddInt g => rowVaddInt.ok g && g.wid == 0 && g.k.isNone
  | .vaddIntK g => rowVaddIntK.ok g && g.wid == 0 && g.k.isSome
  | .vsubInt g => rowVsubInt.ok g && g.wid == 0
  | .vmulInt g => rowVmulInt.ok g && g.wid == 0
  | .vmulh g => rowVmulh.ok g && g.wid == 0
  | .vminInt g => rowVminInt.ok g && g.wid == 0
  | .vmaxInt g => rowVmaxInt.ok g && g.wid == 0
  | .vand g => rowVand.ok g && g.wid == 0
  | .vor g => rowVor.ok g && g.wid == 0
  | .vxor g => rowVxor.ok g && g.wid == 0
  | .vsll g => rowVsll.ok g && g.wid == 0
  | .vsr g => rowVsr.ok g && g.wid == 0
  | .vabsInt g => rowVabsInt.ok g && g.wid == 0
  | .vmac g => rowVmac.ok g && g.wid == 0
  | .vwmulInt g => rowVwmulInt.ok g && (g.wid == 1 || (g.wid == 2 && g.ty == .i8)) && groupOk g.wid g.vd g.svd
  | .vwmac g => rowVwmac.ok g && (g.wid == 1 || (g.wid == 2 && g.ty == .i8)) && groupOk g.wid g.vd g.svd
  | .vdotInt g => rowVdotInt.ok g && g.wid == 0 && !(g.u && g.ty == .q4)
  | .vceqInt g => rowVceqInt.ok g && g.wid == 0
  | .vcltInt g => rowVcltInt.ok g && g.wid == 0
  | .vcleInt g => rowVcleInt.ok g && g.wid == 0
  | .vmov g => rowVmov.ok g && g.wid == 0
  | .vaddFlt g => rowVaddFlt.ok g && g.wid == 0 && g.e.isNone
  | .vaddFltX g => rowVaddFltX.ok g && g.wid == 0 && g.e.isSome
  | .vsubFlt g => rowVsubFlt.ok g && g.wid == 0
  | .vmulFlt g => rowVmulFlt.ok g && g.wid == 0 && g.k.isNone
  | .vmulFltK g => rowVmulFltK.ok g && g.wid == 0 && g.k.isSome
  | .vdiv g => rowVdiv.ok g && g.wid == 0
  | .vfma g => rowVfma.ok g && g.wid == 0
  | .vminFlt g => rowVminFlt.ok g && g.wid == 0
  | .vmaxFlt g => rowVmaxFlt.ok g && g.wid == 0
  | .vabsFlt g => rowVabsFlt.ok g && g.wid == 0
  | .vsqrt g => rowVsqrt.ok g && g.wid == 0
  | .vexp2 g => rowVexp2.ok g && g.wid == 0
  | .vlog2 g => rowVlog2.ok g && g.wid == 0
  | .vrcp g => rowVrcp.ok g && g.wid == 0
  | .vrsq g => rowVrsq.ok g && g.wid == 0
  | .vwmulFlt g => rowVwmulFlt.ok g && g.wid == 1 && groupOk 1 g.vd g.svd
  | .vwfma g => rowVwfma.ok g && g.wid == 1 && groupOk 1 g.vd g.svd
  | .vdotFlt g => rowVdotFlt.ok g && g.wid == 0
  | .vceqFlt g => rowVceqFlt.ok g && g.wid == 0
  | .vcltFlt g => rowVcltFlt.ok g && g.wid == 0
  | .vcleFlt g => rowVcleFlt.ok g && g.wid == 0
  | .vld g => rowVld.ok g && g.wid == 0 && g.e.isNone
  | .vldX g => rowVldX.ok g && g.wid == 0 && g.e.isSome
  | .vst g => rowVst.ok g && g.wid == 0 && g.e.isNone
  | .vstX g => rowVstX.ok g && g.wid == 0 && g.e.isSome
  | .vgather g => rowVgather.ok g && g.wid == 0
  | .vscatter g => rowVscatter.ok g && g.wid == 0
  | .vldl g => rowVldl.ok g && g.wid == 0
  | .vldlV g => rowVldlV.ok g && g.wid == 0
  | .vstl g => rowVstl.ok g && g.wid == 0
  | .vstlV g => rowVstlV.ok g && g.wid == 0
  | .vldsc g => rowVldsc.ok g && g.wid == 0
  | .vstsc g => rowVstsc.ok g && g.wid == 0
  | .vcvt g => rowVcvt.ok g && cvtOk g && g.wid == 0
  | .vcvtW g => rowVcvtW.ok g && cvtOk g && g.wid != 0
  | .vunpk g => rowVunpk.ok g && g.wid == 0 && sliceOk g
  | .vunpk6 g => rowVunpk6.ok g && g.wid == 0 && decide (g.vb.toNat < 5)
  | .vpk g => rowVpk.ok g && g.wid == 0 && sliceOk g
  | .vpk6 g => rowVpk6.ok g && g.wid == 0 && decide (g.vb.toNat < 5)
  | .vperm g => rowVperm.ok g && g.wid == 0
  | .vslide g => rowVslide.ok g && g.wid == 0
  | .vext g => rowVext.ok g && g.wid == 0
  | .vins g => rowVins.ok g && g.wid == 0
  | .vredAdd g => rowVredAdd.ok g && g.wid == 0 && !(g.u && g.ty.isFloat)
  | .vredMax g => rowVredMax.ok g && g.wid == 0 && !(g.u && g.ty.isFloat)
  | .vredMin g => rowVredMin.ok g && g.wid == 0 && !(g.u && g.ty.isFloat)
  | .vattc w g => rowVattc.ok g && g.wid == 0 && groupOk w.group g.vd g.svd && groupOk w.group g.va g.sva && groupOk w.group g.vb g.svb
  | .vattf w g => rowVattf.ok g && g.wid == 0 && groupOk w.group g.vd g.svd && groupOk w.group g.va g.sva
  | .ctlRd _ _ h n => ctlListed h n
  | .ctlWr _ _ h n => ctlListed h n
  | .ctlSet _ _ h n => ctlListed h n
  | .ctlClr _ _ h n => ctlListed h n
  | .coldReset .. | .pkstWarmReset .. | .pkstCaphitClear .. | .bringupStageDone .. | .bmiReadPkst .. | .bmiWritePkst .. | .bmiUnknownCommand .. | .frameBoundary .. => true
  | .thermalTrip .. | .thermalTripEnd .. | .thermalShutdown .. | .ptsTick .. | .tdctlSwap .. | .registerWrite .. | .globalLinkDown .. | .flitBadCheck .. => true
  | .laneError .. | .laneSelftestDone .. | .portRetrainDone .. | .sramRowError .. | .rowSelftestDone .. | .peerLinkDown .. | .hostWalk .. | .hostOpen .. => true
  | .hostClose .. | .hostBind .. | .hostUnbind .. | .hostStat .. | .hostRevoke .. | .hostDup .. | .hostCreate .. | .hostRead .. => true
  | .hostWrite .. | .keyCacheMiss .. | .nodeCacheMiss .. | .nodeMissTimeout .. | .filterInstall .. | .keyInvalidate .. | .revokeAck .. | .journalRetireReport .. => true
  | .nodeDestroy .. | .queueAppend .. | .ccCreate .. | .ccDestroy .. | .ccActThrough .. | .gqTailStore .. | .gqTailNonresident .. | .gqctlResume .. => true
  | .recordFetch .. | .nodeRelease .. | .nodeDispatch .. | .nodeWaitTimeout .. | .gateTimeout .. | .formatWindowInstall .. | .bindSetRun .. | .nodeComplete .. => true
  | .qgangMap .. | .qgangUnmap .. | .vfDisable .. | .vfDisableAtT .. | .vfEnable .. | .fwCoreWake .. | .hmbFill .. | .hmbMap .. => true
  | .hmbSpdm .. | .spdmGetVersion .. | .spdmGetCapabilities .. | .spdmNegotiateAlgorithms .. | .spdmGetDigests .. | .spdmGetCertificate .. | .spdmChallenge .. | .spdmGetMeasurements .. => true
  | .spdmUnsupported .. | .hmbImgw .. | .hmbPartrec .. | .hmbNodereq .. | .hmbDefrag .. | .hmbBadType .. | .pwrcapWrite .. | .updstGo .. => true
  | .updateHeartbeat .. | .heartbeatTimeout .. | .launchDispatch .. | .slotFree .. | .slotReservationRequest .. | .slotReservationReply .. | .parcelArrival .. | .waitRetryPoll .. => true
  | .watchdogExpiry .. | .reservationHoldExpiry .. | .latchWaitTimeout .. | .lateResultReturn .. | .gangArm .. | .gangStop .. | .gangRestore .. | .sliceEnd .. => true
  | .defragmentation .. | .travelDeparture .. | .travelArrival .. | .putSegmentLand .. | .putSegmentAck .. | .putCounterAction .. | .postedAck .. | .chunkArrival .. => true
  | .markerArrival .. | .streamInputTimeout .. | .inputDeadDeclare .. | .lccReport .. | .chunkLanding .. | .frameClaim .. | .mediaPacketArrival .. | .frameDeadline .. => true
  | .ptpMessage .. | .mediaEnable .. | .homeLoad .. | .homeStore .. | .llcEviction .. | .llcFillReturn .. | .reservationForward .. | .mapEntryInstall .. => true
  | .mapEntryRemove .. | .mmEngineRun .. | .vectorCommandExec .. | .vectorCommandRetire .. | .repSequenceStart .. | .engineKick .. | .engineHartStart .. | .debugResume .. => true
  | .yieldExpiry .. | .wfiTimeout .. | .barrierWaitTimeout .. | .streamStartStore .. | .ptpHoldover .. | .add .. | .sub .. | .addn .. => true
  | .subn .. | .mul .. | .muln .. | .addSat .. | .subSat .. | .addnSat .. | .subnSat .. | .mulSat .. => true
  | .mulnSat .. | .and .. | .or .. | .xor .. | .andn .. | .orn .. | .xnor .. | .sll .. => true
  | .srl .. | .sra .. | .rol .. | .ror .. | .amake .. | .aadd .. | .adiff .. | .mulh .. => true
  | .mulhn .. | .div .. | .divn .. | .rem .. | .remn .. | .bext .. | .bextn .. | .bins .. => true
  | .seq .. | .sne .. | .slt .. | .sltn .. | .cmp .. | .sel .. | .min .. | .max .. => true
  | .minn .. | .maxn .. | .barArr .. | .barArrf .. | .barWait .. | .bcopy .. | .spawn .. | .nwalk .. => true
  | .nopen .. | .nbind .. | .nunbind .. | .nstat .. | .ndup .. | .ncreate .. | .vsSet .. | .vsRed .. => true
  | .ahdl .. | .aoff .. | .clz .. | .ctz .. | .popc .. | .brev .. | .bswap .. | .nclose .. => true
  | .nrevoke .. | .vsMark .. | .vsSt .. | .vsRejoin .. | .vsClose .. | .mm .. | .pjRd .. | .pjClr .. => true
  | .addi .. | .addiSat .. | .andi .. | .ori .. | .xori .. | .cmpi .. | .addiK .. | .addiSatK .. => true
  | .andiK .. | .oriK .. | .xoriK .. | .cmpiK .. | .slli .. | .srli .. | .srai .. | .rori .. => true
  | .li .. | .liK .. | .ld .. | .ldX .. | .st .. | .pst .. | .stX .. | .pstX .. => true
  | .ldTake .. | .ldPeek .. | .feRd .. | .rsv .. | .stGive .. | .stFill .. | .rls .. | .feClr .. => true
  | .rlsN .. | .amoAdd .. | .amoAnd .. | .amoOr .. | .amoXor .. | .amoMin .. | .amoMax .. | .amoMinn .. => true
  | .amoMaxn .. | .amoSwap .. | .amoCas .. | .putNc .. | .barInit .. | .fencePut .. | .fencePost .. | .fenceAll .. => true
  | .exit .. | .tret .. | .brk .. | .vfence .. | .cpf .. | .cwb .. | .cfl .. | .join .. => true
  | .halt .. | .latArm .. | .latWait .. | .go .. | .wfi .. | .latClr .. | .mcclr .. | .bEq .. => true
  | .bNe .. | .bLt .. | .bGe .. | .bLtn .. | .bGen .. | .bBs .. | .bBc .. | .bCondX .. => true
  | .j .. | .jX .. | .call .. | .jr .. | .callr .. | .unfork .. | .ret .. | .spawnc .. => true
  | .fork .. | .yield .. | .tid .. | .gtime .. | .ffl .. | .repWait .. | .vbusy .. | .rep .. => true
  | .kand .. | .kor .. | .kxor .. | .knot .. | .kset .. | .kins .. | .kext .. | .kpop .. => true
  | .mcload .. | .mcrd .. | .trap .. | .tretX .. | .kcInv .. | .illegalInstruction .. => true

/-- An instruction is well formed. -/
abbrev WellFormed (i : Instr) : Prop := i.wellFormed = true

/-- The row is an event of another agent: it has no encoding (the opcode table). -/
def Instr.isEvent : Instr → Bool
  | .coldReset .. | .pkstWarmReset .. | .pkstCaphitClear .. | .bringupStageDone .. | .bmiReadPkst .. | .bmiWritePkst .. | .bmiUnknownCommand .. | .frameBoundary .. => true
  | .thermalTrip .. | .thermalTripEnd .. | .thermalShutdown .. | .ptsTick .. | .tdctlSwap .. | .registerWrite .. | .globalLinkDown .. | .flitBadCheck .. => true
  | .laneError .. | .laneSelftestDone .. | .portRetrainDone .. | .sramRowError .. | .rowSelftestDone .. | .peerLinkDown .. | .hostWalk .. | .hostOpen .. => true
  | .hostClose .. | .hostBind .. | .hostUnbind .. | .hostStat .. | .hostRevoke .. | .hostDup .. | .hostCreate .. | .hostRead .. => true
  | .hostWrite .. | .keyCacheMiss .. | .nodeCacheMiss .. | .nodeMissTimeout .. | .filterInstall .. | .keyInvalidate .. | .revokeAck .. | .journalRetireReport .. => true
  | .nodeDestroy .. | .queueAppend .. | .ccCreate .. | .ccDestroy .. | .ccActThrough .. | .gqTailStore .. | .gqTailNonresident .. | .gqctlResume .. => true
  | .recordFetch .. | .nodeRelease .. | .nodeDispatch .. | .nodeWaitTimeout .. | .gateTimeout .. | .formatWindowInstall .. | .bindSetRun .. | .nodeComplete .. => true
  | .qgangMap .. | .qgangUnmap .. | .vfDisable .. | .vfDisableAtT .. | .vfEnable .. | .fwCoreWake .. | .hmbFill .. | .hmbMap .. => true
  | .hmbSpdm .. | .spdmGetVersion .. | .spdmGetCapabilities .. | .spdmNegotiateAlgorithms .. | .spdmGetDigests .. | .spdmGetCertificate .. | .spdmChallenge .. | .spdmGetMeasurements .. => true
  | .spdmUnsupported .. | .hmbImgw .. | .hmbPartrec .. | .hmbNodereq .. | .hmbDefrag .. | .hmbBadType .. | .pwrcapWrite .. | .updstGo .. => true
  | .updateHeartbeat .. | .heartbeatTimeout .. | .launchDispatch .. | .slotFree .. | .slotReservationRequest .. | .slotReservationReply .. | .parcelArrival .. | .waitRetryPoll .. => true
  | .watchdogExpiry .. | .reservationHoldExpiry .. | .latchWaitTimeout .. | .lateResultReturn .. | .gangArm .. | .gangStop .. | .gangRestore .. | .sliceEnd .. => true
  | .defragmentation .. | .travelDeparture .. | .travelArrival .. | .putSegmentLand .. | .putSegmentAck .. | .putCounterAction .. | .postedAck .. | .chunkArrival .. => true
  | .markerArrival .. | .streamInputTimeout .. | .inputDeadDeclare .. | .lccReport .. | .chunkLanding .. | .frameClaim .. | .mediaPacketArrival .. | .frameDeadline .. => true
  | .ptpMessage .. | .mediaEnable .. | .homeLoad .. | .homeStore .. | .llcEviction .. | .llcFillReturn .. | .reservationForward .. | .mapEntryInstall .. => true
  | .mapEntryRemove .. | .mmEngineRun .. | .vectorCommandExec .. | .vectorCommandRetire .. | .repSequenceStart .. | .engineKick .. | .engineHartStart .. | .debugResume .. => true
  | .yieldExpiry .. | .wfiTimeout .. | .barrierWaitTimeout .. | .streamStartStore .. | .ptpHoldover .. => true
  | _ => false

end Sys2Proof
end

