-- ==== Sys2Proof/Decode.lean ====
section
/-! DEFINITION. From bytes to an instruction or a refusal by name (R257 to R272), and back: the encoder, from the same tables of
the spec. The decoder is marked noncomputable where it builds an instruction: the compiler (not the kernel) has no tag for so many
constructors. A decoded instruction is one whose encoding gives exactly the words read, so no bit of a word is silently used (R5). -/

namespace Sys2Proof

/-- Why a sequence of bytes is no instruction (R272). -/
inductive DecodeError where
  /-- fewer bytes than the length L names -/
  | truncated
  /-- the major is unassigned or reserved, or its fn, cond or op is not listed -/
  | unlisted
  /-- L is not accepted, or a field the instruction does not use is not zero -/
  | field
  /-- an operand lies outside what the instruction admits -/
  | operand
  deriving DecidableEq, Repr

/-- The words of an instruction: the base word, E when present, K when present (R6). -/
structure Encoded where
  base : BitVec 32
  e    : Option Word
  k    : Option Word
  deriving DecidableEq, Repr

/-- One bit from a Bool. -/
def ofB (b : Bool) : BitVec 1 := BitVec.ofBool b

/-- Format A (R260). -/
def encA (l : BitVec 2) (q : Bool) (major : BitVec 6) (d a b : Reg) (fn : BitVec 11) : BitVec 32 :=
  l ++ ofB q ++ major ++ d ++ a ++ b ++ fn

/-- Format I (R260). -/
def encI (l : BitVec 2) (q : Bool) (major : BitVec 6) (d a : Reg) (i : BitVec 15) : BitVec 32 :=
  l ++ ofB q ++ major ++ d ++ a ++ i

/-- Format M (R260). -/
def encM (l : BitVec 2) (q : Bool) (major : BitVec 6) (d a : Reg) (size : BitVec 3) (i : BitVec 12) : BitVec 32 :=
  l ++ ofB q ++ major ++ d ++ a ++ size ++ i

/-- Format B (R260). -/
def encB (l : BitVec 2) (q : Bool) (major : BitVec 6) (a b : Reg) (cond : BitVec 3) (i : BitVec 12) : BitVec 32 :=
  l ++ ofB q ++ major ++ a ++ b ++ cond ++ i

/-- Format J (R260). -/
def encJ (l : BitVec 2) (q : Bool) (major : BitVec 6) (j : BitVec 23) : BitVec 32 :=
  l ++ ofB q ++ major ++ j

/-- Format V (R260). -/
def encV (l : BitVec 2) (q : Bool) (major : BitVec 6) (d a b : Reg) (ty : BitVec 3) (fn : BitVec 8) : BitVec 32 :=
  l ++ ofB q ++ major ++ d ++ a ++ b ++ ty ++ fn

/-- The scalar E word (R267). -/
def extS (disp : BitVec 32) (live : BitVec 15) (sat : Bool) : Word := disp ++ live ++ ofB sat ++ 0#16

/-- The E word that only saturates (R267). -/
def satE : Word := extS 0#32 0#15 true

/-- L of a form that carries an E word of zeros when x holds (R267). -/
def xl (x : Bool) : BitVec 2 := 0#1 ++ ofB x

/-- The E word of zeros of such a form. -/
def xe (x : Bool) : Option Word := if x then some 0#64 else none

/-- The vector E word (R268). -/
def VExt.word (e : VExt) : Word :=
  e.disp ++ e.svd ++ e.sva ++ e.svb ++ ofB e.me ++ e.ksel ++ e.rnd ++ ofB e.sat ++ e.wid ++ 0#11

/-- The fields of a vector E word (R268). -/
def VExt.ofWord (w : Word) : VExt :=
  ⟨w.extractLsb' 32 32, w.extractLsb' 28 4, w.extractLsb' 24 4, w.extractLsb' 20 4, w.getLsbD 19, w.extractLsb' 17 2,
    w.extractLsb' 14 3, w.getLsbD 13, w.extractLsb' 11 2⟩

/-- The size code of a load (R262). -/
def LoadSize.code : LoadSize → BitVec 3
  | .i8 => 0 | .n8 => 1 | .i16 => 2 | .n16 => 3 | .i32 => 4 | .n32 => 5 | .d64 => 6

/-- The load size of a code; code 7 is illegal (R262). -/
def LoadSize.ofCode (c : BitVec 3) : Option LoadSize :=
  match c.toNat with
  | 0 => some .i8 | 1 => some .n8 | 2 => some .i16 | 3 => some .n16 | 4 => some .i32 | 5 => some .n32 | 6 => some .d64 | _ => none

/-- The size code of a store (R262). -/
def StoreSize.code : StoreSize → BitVec 3
  | .s8 => 0 | .s16 => 2 | .s32 => 4 | .s64 => 6

/-- The store size of a code; odd codes are illegal (R262). -/
def StoreSize.ofCode (c : BitVec 3) : Option StoreSize :=
  match c.toNat with
  | 0 => some .s8 | 2 => some .s16 | 4 => some .s32 | 6 => some .s64 | _ => none

/-- The code of a branch condition (R263). -/
def BrCond.code : BrCond → BitVec 3
  | .eq => 0 | .ne => 1 | .lt => 2 | .ge => 3 | .ltn => 4 | .gen => 5 | .bs => 6 | .bc => 7

/-- The branch condition of a code (R263). -/
def BrCond.ofCode (c : BitVec 3) : BrCond :=
  match c.toNat with
  | 0 => .eq | 1 => .ne | 2 => .lt | 3 => .ge | 4 => .ltn | 5 => .gen | 6 => .bs | _ => .bc

/-- Majors 0x12 and 0x14: size 0b110, the operation in the low bits of the displacement field (R312). -/
def encW (q : Bool) (major : BitVec 6) (d a : Reg) (op : BitVec 3) : WordDisp → Encoded
  | .base i => ⟨encM 0#2 q major d a 6#3 (i ++ op), none, none⟩
  | .ext i => ⟨encM 1#2 q major d a 6#3 0#12, some (extS (i ++ op) 0#15 false), none⟩

/-- A format A form that accepts a live mask alone (R267). -/
def encL (q : Bool) (major : BitVec 6) (d a b : Reg) (fn : BitVec 11) : Option (BitVec 15) → Encoded
  | none => ⟨encA 0#2 q major d a b fn, none, none⟩
  | some live => ⟨encA 1#2 q major d a b fn, some (extS 0#32 live false), none⟩

/-- A format V instruction: L from the words it carries, fn with the U and X bits (R266, R352). -/
def encVArgs (r : VRow) (g : VArgs) : Encoded :=
  ⟨encV (ofB g.k.isSome ++ ofB g.e.isSome) g.q r.major g.vd g.va g.vb g.ty.code
      (r.fn ||| (ofB g.u ++ 0#7) ||| (0#1 ++ ofB g.x ++ 0#6)),
    g.e.map VExt.word, g.k⟩

/-- The words of an instruction that is not of format V; an event has none. -/
def encodeScalar : Instr → Encoded
  | .add q d a b x => ⟨encA (xl x) q 0x0#6 d a b 0x1#11, xe x, none⟩
  | .sub q d a b x => ⟨encA (xl x) q 0x0#6 d a b 0x2#11, xe x, none⟩
  | .addn q d a b x => ⟨encA (xl x) q 0x0#6 d a b 0x3#11, xe x, none⟩
  | .subn q d a b x => ⟨encA (xl x) q 0x0#6 d a b 0x4#11, xe x, none⟩
  | .mul q d a b x => ⟨encA (xl x) q 0x8#6 d a b 0x1#11, xe x, none⟩
  | .muln q d a b x => ⟨encA (xl x) q 0x8#6 d a b 0x2#11, xe x, none⟩
  | .addSat q d a b => ⟨encA 1#2 q 0x0#6 d a b 0x1#11, some satE, none⟩
  | .subSat q d a b => ⟨encA 1#2 q 0x0#6 d a b 0x2#11, some satE, none⟩
  | .addnSat q d a b => ⟨encA 1#2 q 0x0#6 d a b 0x3#11, some satE, none⟩
  | .subnSat q d a b => ⟨encA 1#2 q 0x0#6 d a b 0x4#11, some satE, none⟩
  | .mulSat q d a b => ⟨encA 1#2 q 0x8#6 d a b 0x1#11, some satE, none⟩
  | .mulnSat q d a b => ⟨encA 1#2 q 0x8#6 d a b 0x2#11, some satE, none⟩
  | .and q d a b => ⟨encA 0#2 q 0x0#6 d a b 0x8#11, none, none⟩
  | .or q d a b => ⟨encA 0#2 q 0x0#6 d a b 0x9#11, none, none⟩
  | .xor q d a b => ⟨encA 0#2 q 0x0#6 d a b 0xA#11, none, none⟩
  | .andn q d a b => ⟨encA 0#2 q 0x0#6 d a b 0xB#11, none, none⟩
  | .orn q d a b => ⟨encA 0#2 q 0x0#6 d a b 0xC#11, none, none⟩
  | .xnor q d a b => ⟨encA 0#2 q 0x0#6 d a b 0xD#11, none, none⟩
  | .sll q d a b => ⟨encA 0#2 q 0x0#6 d a b 0x10#11, none, none⟩
  | .srl q d a b => ⟨encA 0#2 q 0x0#6 d a b 0x11#11, none, none⟩
  | .sra q d a b => ⟨encA 0#2 q 0x0#6 d a b 0x12#11, none, none⟩
  | .rol q d a b => ⟨encA 0#2 q 0x0#6 d a b 0x13#11, none, none⟩
  | .ror q d a b => ⟨encA 0#2 q 0x0#6 d a b 0x14#11, none, none⟩
  | .amake q d a b => ⟨encA 0#2 q 0x0#6 d a b 0x22#11, none, none⟩
  | .aadd q d a b => ⟨encA 0#2 q 0x0#6 d a b 0x23#11, none, none⟩
  | .adiff q d a b => ⟨encA 0#2 q 0x0#6 d a b 0x24#11, none, none⟩
  | .mulh q d a b => ⟨encA 0#2 q 0x8#6 d a b 0x3#11, none, none⟩
  | .mulhn q d a b => ⟨encA 0#2 q 0x8#6 d a b 0x4#11, none, none⟩
  | .div q d a b => ⟨encA 0#2 q 0x8#6 d a b 0x5#11, none, none⟩
  | .divn q d a b => ⟨encA 0#2 q 0x8#6 d a b 0x6#11, none, none⟩
  | .rem q d a b => ⟨encA 0#2 q 0x8#6 d a b 0x7#11, none, none⟩
  | .remn q d a b => ⟨encA 0#2 q 0x8#6 d a b 0x8#11, none, none⟩
  | .bext q d a b => ⟨encA 0#2 q 0x9#6 d a b 0x1#11, none, none⟩
  | .bextn q d a b => ⟨encA 0#2 q 0x9#6 d a b 0x2#11, none, none⟩
  | .bins q d a b => ⟨encA 0#2 q 0x9#6 d a b 0x3#11, none, none⟩
  | .seq q d a b => ⟨encA 0#2 q 0xA#6 d a b 0x1#11, none, none⟩
  | .sne q d a b => ⟨encA 0#2 q 0xA#6 d a b 0x2#11, none, none⟩
  | .slt q d a b => ⟨encA 0#2 q 0xA#6 d a b 0x3#11, none, none⟩
  | .sltn q d a b => ⟨encA 0#2 q 0xA#6 d a b 0x4#11, none, none⟩
  | .cmp q d a b => ⟨encA 0#2 q 0xA#6 d a b 0x5#11, none, none⟩
  | .sel q d a b => ⟨encA 0#2 q 0xA#6 d a b 0x6#11, none, none⟩
  | .min q d a b => ⟨encA 0#2 q 0xA#6 d a b 0x7#11, none, none⟩
  | .max q d a b => ⟨encA 0#2 q 0xA#6 d a b 0x8#11, none, none⟩
  | .minn q d a b => ⟨encA 0#2 q 0xA#6 d a b 0x9#11, none, none⟩
  | .maxn q d a b => ⟨encA 0#2 q 0xA#6 d a b 0xA#11, none, none⟩
  | .putAdd q d a b => ⟨encA 0#2 q 0x15#6 d a b 0x1#11, none, none⟩
  | .putSet q d a b => ⟨encA 0#2 q 0x15#6 d a b 0x2#11, none, none⟩
  | .putFill q d a b => ⟨encA 0#2 q 0x15#6 d a b 0x3#11, none, none⟩
  | .barArr q d a b => ⟨encA 0#2 q 0x18#6 d a b 0x2#11, none, none⟩
  | .barArrf q d a b => ⟨encA 0#2 q 0x18#6 d a b 0x3#11, none, none⟩
  | .barWait q d a b => ⟨encA 0#2 q 0x18#6 d a b 0x4#11, none, none⟩
  | .bcopy q d a b => ⟨encA 0#2 q 0x1A#6 d a b 0x1#11, none, none⟩
  | .spawn q d a b => ⟨encA 0#2 q 0x28#6 d a b 0x1#11, none, none⟩
  | .nwalk q d a b => ⟨encA 0#2 q 0x2A#6 d a b 0x1#11, none, none⟩
  | .nopen q d a b => ⟨encA 0#2 q 0x2A#6 d a b 0x2#11, none, none⟩
  | .nbind q d a b => ⟨encA 0#2 q 0x2A#6 d a b 0x4#11, none, none⟩
  | .nunbind q d a b => ⟨encA 0#2 q 0x2A#6 d a b 0x5#11, none, none⟩
  | .nstat q d a b => ⟨encA 0#2 q 0x2A#6 d a b 0x6#11, none, none⟩
  | .ndup q d a b => ⟨encA 0#2 q 0x2A#6 d a b 0x8#11, none, none⟩
  | .ncreate q d a b => ⟨encA 0#2 q 0x2A#6 d a b 0x9#11, none, none⟩
  | .vsSet q d a b => ⟨encA 0#2 q 0x2B#6 d a b 0x1#11, none, none⟩
  | .vsRed q d a b => ⟨encA 0#2 q 0x2B#6 d a b 0x2#11, none, none⟩
  | .ahdl q d a => ⟨encA 0#2 q 0x0#6 d a 0#4 0x20#11, none, none⟩
  | .aoff q d a => ⟨encA 0#2 q 0x0#6 d a 0#4 0x21#11, none, none⟩
  | .clz q d a => ⟨encA 0#2 q 0x9#6 d a 0#4 0x4#11, none, none⟩
  | .ctz q d a => ⟨encA 0#2 q 0x9#6 d a 0#4 0x5#11, none, none⟩
  | .popc q d a => ⟨encA 0#2 q 0x9#6 d a 0#4 0x6#11, none, none⟩
  | .brev q d a => ⟨encA 0#2 q 0x9#6 d a 0#4 0x7#11, none, none⟩
  | .bswap q d a => ⟨encA 0#2 q 0x9#6 d a 0#4 0x8#11, none, none⟩
  | .nclose q d a => ⟨encA 0#2 q 0x2A#6 d a 0#4 0x3#11, none, none⟩
  | .nrevoke q d a => ⟨encA 0#2 q 0x2A#6 d a 0#4 0x7#11, none, none⟩
  | .vsMark q d a => ⟨encA 0#2 q 0x2B#6 d a 0#4 0x3#11, none, none⟩
  | .vsSt q d a => ⟨encA 0#2 q 0x2B#6 d a 0#4 0x4#11, none, none⟩
  | .vsRejoin q d a => ⟨encA 0#2 q 0x2B#6 d a 0#4 0x5#11, none, none⟩
  | .vsClose q d a => ⟨encA 0#2 q 0x2B#6 d a 0#4 0x6#11, none, none⟩
  | .mm q d a => ⟨encA 0#2 q 0x38#6 d a 0#4 0x1#11, none, none⟩
  | .pjRd q d a => ⟨encA 0#2 q 0x3C#6 d a 0#4 0x6#11, none, none⟩
  | .pjClr q d a => ⟨encA 0#2 q 0x3C#6 d a 0#4 0x7#11, none, none⟩
  | .addi q d a i x => ⟨encI (xl x) q 0x1#6 d a i, xe x, none⟩
  | .addiSat q d a i => ⟨encI 1#2 q 0x1#6 d a i, some satE, none⟩
  | .andi q d a i => ⟨encI 0#2 q 0x2#6 d a i, none, none⟩
  | .ori q d a i => ⟨encI 0#2 q 0x3#6 d a i, none, none⟩
  | .xori q d a i => ⟨encI 0#2 q 0x4#6 d a i, none, none⟩
  | .cmpi q d a i => ⟨encI 0#2 q 0x7#6 d a i, none, none⟩
  | .addiK q d a k x => ⟨encI (2#2 ||| xl x) q 0x1#6 d a 0#15, xe x, some k⟩
  | .addiSatK q d a k => ⟨encI 3#2 q 0x1#6 d a 0#15, some satE, some k⟩
  | .andiK q d a k => ⟨encI 2#2 q 0x2#6 d a 0#15, none, some k⟩
  | .oriK q d a k => ⟨encI 2#2 q 0x3#6 d a 0#15, none, some k⟩
  | .xoriK q d a k => ⟨encI 2#2 q 0x4#6 d a 0#15, none, some k⟩
  | .cmpiK q d a k => ⟨encI 2#2 q 0x7#6 d a 0#15, none, some k⟩
  | .slli q d a h => ⟨encI 0#2 q 0x5#6 d a (0#3 ++ 0#6 ++ h), none, none⟩
  | .srli q d a h => ⟨encI 0#2 q 0x5#6 d a (1#3 ++ 0#6 ++ h), none, none⟩
  | .srai q d a h => ⟨encI 0#2 q 0x5#6 d a (2#3 ++ 0#6 ++ h), none, none⟩
  | .rori q d a h => ⟨encI 0#2 q 0x5#6 d a (3#3 ++ 0#6 ++ h), none, none⟩
  | .li q d i => ⟨encI 0#2 q 0x6#6 d 0#4 i, none, none⟩
  | .liK q d k => ⟨encI 2#2 q 0x6#6 d 0#4 0#15, none, some k⟩
  | .ld q d a z i => ⟨encM 0#2 q 0x10#6 d a z.code i, none, none⟩
  | .ldX q d a z disp => ⟨encM 1#2 q 0x10#6 d a z.code 0#12, some (extS disp 0#15 false), none⟩
  | .st q s a z i => ⟨encM 0#2 q 0x11#6 s a z.code i, none, none⟩
  | .pst q s a z i => ⟨encM 0#2 q 0x16#6 s a z.code i, none, none⟩
  | .stX q s a z disp => ⟨encM 1#2 q 0x11#6 s a z.code 0#12, some (extS disp 0#15 false), none⟩
  | .pstX q s a z disp => ⟨encM 1#2 q 0x16#6 s a z.code 0#12, some (extS disp 0#15 false), none⟩
  | .ldTake q d a i => encW q 0x12#6 d a 0#3 i
  | .ldPeek q d a i => encW q 0x12#6 d a 1#3 i
  | .feRd q d a i => encW q 0x12#6 d a 4#3 i
  | .rsv q d a i => encW q 0x14#6 d a 0#3 i
  | .stGive q s a i => encW q 0x12#6 s a 2#3 i
  | .stFill q s a i => encW q 0x12#6 s a 3#3 i
  | .rls q s a i => encW q 0x14#6 s a 1#3 i
  | .feClr q a i => encW q 0x12#6 0#4 a 5#3 i
  | .rlsN q a i => encW q 0x14#6 0#4 a 2#3 i
  | .amoAdd q d a b w => ⟨encA 0#2 q 0x13#6 d a b (0#2 ++ ofB w ++ 0x1#8), none, none⟩
  | .amoAnd q d a b w => ⟨encA 0#2 q 0x13#6 d a b (0#2 ++ ofB w ++ 0x2#8), none, none⟩
  | .amoOr q d a b w => ⟨encA 0#2 q 0x13#6 d a b (0#2 ++ ofB w ++ 0x3#8), none, none⟩
  | .amoXor q d a b w => ⟨encA 0#2 q 0x13#6 d a b (0#2 ++ ofB w ++ 0x4#8), none, none⟩
  | .amoMin q d a b w => ⟨encA 0#2 q 0x13#6 d a b (0#2 ++ ofB w ++ 0x5#8), none, none⟩
  | .amoMax q d a b w => ⟨encA 0#2 q 0x13#6 d a b (0#2 ++ ofB w ++ 0x6#8), none, none⟩
  | .amoMinn q d a b w => ⟨encA 0#2 q 0x13#6 d a b (0#2 ++ ofB w ++ 0x7#8), none, none⟩
  | .amoMaxn q d a b w => ⟨encA 0#2 q 0x13#6 d a b (0#2 ++ ofB w ++ 0x8#8), none, none⟩
  | .amoSwap q d a b w => ⟨encA 0#2 q 0x13#6 d a b (0#2 ++ ofB w ++ 0x9#8), none, none⟩
  | .amoCas q d a b w => ⟨encA 0#2 q 0x13#6 d a b (0#2 ++ ofB w ++ 0xA#8), none, none⟩
  | .putNc q a b => ⟨encA 0#2 q 0x15#6 0#4 a b 0x4#11, none, none⟩
  | .barInit q a b => ⟨encA 0#2 q 0x18#6 0#4 a b 0x1#11, none, none⟩
  | .fencePut q => ⟨encA 0#2 q 0x17#6 0#4 0#4 0#4 0x1#11, none, none⟩
  | .fencePost q => ⟨encA 0#2 q 0x17#6 0#4 0#4 0#4 0x2#11, none, none⟩
  | .fenceAll q => ⟨encA 0#2 q 0x17#6 0#4 0#4 0#4 0x3#11, none, none⟩
  | .exit q => ⟨encA 0#2 q 0x28#6 0#4 0#4 0#4 0x6#11, none, none⟩
  | .tret q => ⟨encA 0#2 q 0x3C#6 0#4 0#4 0#4 2#11, none, none⟩
  | .brk q => ⟨encA 0#2 q 0x3D#6 0#4 0#4 0#4 0x1#11, none, none⟩
  | .vfence q => ⟨encV 0#2 q 0x36#6 0#4 0#4 0#4 0#3 0x1#8, none, none⟩
  | .cpf q a => ⟨encA 0#2 q 0x17#6 0#4 a 0#4 0x10#11, none, none⟩
  | .cwb q a => ⟨encA 0#2 q 0x17#6 0#4 a 0#4 0x11#11, none, none⟩
  | .cfl q a => ⟨encA 0#2 q 0x17#6 0#4 a 0#4 0x12#11, none, none⟩
  | .join q a => ⟨encA 0#2 q 0x28#6 0#4 a 0#4 0x5#11, none, none⟩
  | .halt q a => ⟨encA 0#2 q 0x3C#6 0#4 a 0#4 0x3#11, none, none⟩
  | .latArm q d a i => ⟨encA 0#2 q 0x19#6 d a 0#4 (0x4#9 ++ i), none, none⟩
  | .latWait q d b => ⟨encA 0#2 q 0x19#6 d 0#4 b 0x20#11, none, none⟩
  | .go q d b => ⟨encA 0#2 q 0x29#6 d 0#4 b 0x1#11, none, none⟩
  | .wfi q d b => ⟨encA 0#2 q 0x3C#6 d 0#4 b 0x4#11, none, none⟩
  | .latClr q i => ⟨encA 0#2 q 0x19#6 0#4 0#4 0#4 (0xC#9 ++ i), none, none⟩
  | .mcclr q i => ⟨encA 0#2 q 0x38#6 0#4 0#4 0#4 (0xC#9 ++ i), none, none⟩
  | .bEq q a b i => ⟨encB 0#2 q 0x20#6 a b 0#3 i, none, none⟩
  | .bNe q a b i => ⟨encB 0#2 q 0x20#6 a b 1#3 i, none, none⟩
  | .bLt q a b i => ⟨encB 0#2 q 0x20#6 a b 2#3 i, none, none⟩
  | .bGe q a b i => ⟨encB 0#2 q 0x20#6 a b 3#3 i, none, none⟩
  | .bLtn q a b i => ⟨encB 0#2 q 0x20#6 a b 4#3 i, none, none⟩
  | .bGen q a b i => ⟨encB 0#2 q 0x20#6 a b 5#3 i, none, none⟩
  | .bBs q a b i => ⟨encB 0#2 q 0x20#6 a b 6#3 i, none, none⟩
  | .bBc q a b i => ⟨encB 0#2 q 0x20#6 a b 7#3 i, none, none⟩
  | .bCondX q a b c disp live => ⟨encB 1#2 q 0x20#6 a b c.code 0#12, some (extS disp live false), none⟩
  | .j q j => ⟨encJ 0#2 q 0x21#6 j, none, none⟩
  | .jX q disp live => ⟨encJ 1#2 q 0x21#6 0#23, some (extS disp live false), none⟩
  | .call q disp live => ⟨encA 1#2 q 0x22#6 0#4 0#4 0#4 3#11, some (extS disp live false), none⟩
  | .jr q a live => encL q 0x22#6 0#4 a 0#4 0x1#11 live
  | .callr q a live => encL q 0x22#6 0#4 a 0#4 0x2#11 live
  | .unfork q a live => encL q 0x28#6 0#4 a 0#4 0x4#11 live
  | .ret q live => encL q 0x22#6 0#4 0#4 0#4 0x4#11 live
  | .lp q a i => ⟨encI 0#2 q 0x23#6 0#4 a i, none, none⟩
  | .spawnc q d a b live => encL q 0x28#6 d a b 0x2#11 live
  | .fork q d a live => encL q 0x28#6 d a 0#4 0x3#11 live
  | .yield q b => ⟨encA 0#2 q 0x29#6 0#4 0#4 b 0x2#11, none, none⟩
  | .tid q d => ⟨encA 0#2 q 0x29#6 d 0#4 0#4 0x3#11, none, none⟩
  | .gtime q d => ⟨encA 0#2 q 0x3C#6 d 0#4 0#4 0x5#11, none, none⟩
  | .ffl q d => ⟨encA 0#2 q 0x3C#6 d 0#4 0#4 0x9#11, none, none⟩
  | .repWait q d => ⟨encV 0#2 q 0x35#6 d 0#4 0#4 0#3 0x2#8, none, none⟩
  | .vbusy q d => ⟨encV 0#2 q 0x36#6 d 0#4 0#4 0#3 0x2#8, none, none⟩
  | .rep q c a => ⟨encV 0#2 q 0x35#6 (0#1 ++ c) a 0#4 0#3 1#8, none, none⟩
  | .kand q k j h => ⟨encV 0#2 q 0x36#6 (0#2 ++ k) (0#2 ++ j) (0#2 ++ h) 0#3 0x10#8, none, none⟩
  | .kor q k j h => ⟨encV 0#2 q 0x36#6 (0#2 ++ k) (0#2 ++ j) (0#2 ++ h) 0#3 0x11#8, none, none⟩
  | .kxor q k j h => ⟨encV 0#2 q 0x36#6 (0#2 ++ k) (0#2 ++ j) (0#2 ++ h) 0#3 0x12#8, none, none⟩
  | .knot q k j => ⟨encV 0#2 q 0x36#6 (0#2 ++ k) (0#2 ++ j) 0#4 0#3 0x13#8, none, none⟩
  | .kset q k a => ⟨encV 0#2 q 0x36#6 (0#2 ++ k) a 0#4 0#3 0x14#8, none, none⟩
  | .kins q k a b => ⟨encV 0#2 q 0x36#6 (0#2 ++ k) a b 0#3 0x15#8, none, none⟩
  | .kext q d k b => ⟨encV 0#2 q 0x36#6 d (0#2 ++ k) b 0#3 0x16#8, none, none⟩
  | .kpop q d k => ⟨encV 0#2 q 0x36#6 d (0#2 ++ k) 0#4 0#3 0x17#8, none, none⟩
  | .mcload q d b i => ⟨encA 0#2 q 0x38#6 d 0#4 b (0x4#9 ++ i), none, none⟩
  | .mcrd q d i => ⟨encA 0#2 q 0x38#6 d 0#4 0#4 (0x8#9 ++ i), none, none⟩
  | .trap q c a e => ⟨encA 0#2 q 0x3C#6 c a e 1#11, none, none⟩
  | .tretX q live => ⟨encA 1#2 q 0x3C#6 0#4 0#4 0#4 2#11, some (extS 0#32 live false), none⟩
  | .kcInv q a s => ⟨encA 0#2 q 0x3C#6 0#4 a (0#2 ++ s) 8#11, none, none⟩
  | .ctlRd q d h n => ⟨encA 0#2 q 0x3C#6 d 0#4 h (1#3 ++ n), none, none⟩
  | .ctlWr q a h n => ⟨encA 0#2 q 0x3C#6 0#4 a h (2#3 ++ n), none, none⟩
  | .ctlSet q a h n => ⟨encA 0#2 q 0x3C#6 0#4 a h (3#3 ++ n), none, none⟩
  | .ctlClr q a h n => ⟨encA 0#2 q 0x3C#6 0#4 a h (4#3 ++ n), none, none⟩
  | .illegalInstruction base => ⟨base, none, none⟩
  | _ => ⟨0#32, none, none⟩

/-- The words of an instruction (R257 to R270). -/
def encode (i : Instr) : Encoded :=
  match i.vrow with
  | some (r, g) => encVArgs r g
  | none => encodeScalar i

/-- The length of an instruction in bytes: 4, 12 or 20 (R257). -/
def Encoded.length (w : Encoded) : Nat :=
  4 + (if w.e.isSome then 8 else 0) + (if w.k.isSome then 8 else 0)

/-- The fields of a base word as the decoder reads them (R260), with the E and K words. -/
structure Fields where
  l   : BitVec 2
  q   : Bool
  maj : BitVec 6
  d   : Reg
  a   : Reg
  b   : Reg
  fn  : BitVec 11
  i   : BitVec 15
  j   : BitVec 23
  e   : Word
  k   : Word
  base : BitVec 32

/-- The fields of the words read. -/
def Fields.of (base : BitVec 32) (e k : Word) : Fields :=
  ⟨base.extractLsb' 30 2, base.getLsbD 29, base.extractLsb' 23 6, base.extractLsb' 19 4, base.extractLsb' 15 4,
    base.extractLsb' 11 4, base.extractLsb' 0 11, base.extractLsb' 0 15, base.extractLsb' 0 23, e, k, base⟩

/-- E is present (R257). -/
def Fields.hasE (f : Fields) : Bool := f.l.getLsbD 0

/-- K is present (R257). -/
def Fields.hasK (f : Fields) : Bool := f.l.getLsbD 1

/-- E.DISP (R267). -/
def Fields.disp (f : Fields) : BitVec 32 := f.e.extractLsb' 32 32

/-- E.LIVE (R267). -/
def Fields.live (f : Fields) : BitVec 15 := f.e.extractLsb' 17 15

/-- E.LIVE of a form that may carry it. -/
def Fields.live? (f : Fields) : Option (BitVec 15) := if f.hasE then some f.live else none

/-- E.SAT (R267). -/
def Fields.sat (f : Fields) : Bool := f.hasE && f.e.getLsbD 16

/-- disp12 (R260). -/
def Fields.d12 (f : Fields) : BitVec 12 := f.base.extractLsb' 0 12

/-- The size or cond field (R260). -/
def Fields.size (f : Fields) : BitVec 3 := f.base.extractLsb' 12 3

/-- The operation bits of majors 0x12 and 0x14 (R312). -/
def Fields.wop (f : Fields) : Nat := if f.hasE then (f.e.extractLsb' 32 3).toNat else (f.base.extractLsb' 0 3).toNat

/-- The displacement of majors 0x12 and 0x14 (R312). -/
def Fields.wdisp (f : Fields) : WordDisp := if f.hasE then .ext (f.e.extractLsb' 35 29) else .base (f.base.extractLsb' 3 9)

/-- The format V fields; u and x are taken where the row has them (R352). -/
def Fields.vargs (f : Fields) (u x : Bool) : VArgs :=
  ⟨f.q, f.d, f.a, f.b, VTy.ofCode (f.base.extractLsb' 8 3), u && f.fn.getLsbD 7, x && f.fn.getLsbD 6,
    if f.hasE then some (VExt.ofWord f.e) else none, if f.hasK then some f.k else none⟩

/-- Major 0x00 (R271). -/
def candAlu (f : Fields) : Option Instr :=
  match f.fn.toNat with
  | 1 => if f.sat then some (.addSat f.q f.d f.a f.b) else some (.add f.q f.d f.a f.b f.hasE)
  | 2 => if f.sat then some (.subSat f.q f.d f.a f.b) else some (.sub f.q f.d f.a f.b f.hasE)
  | 3 => if f.sat then some (.addnSat f.q f.d f.a f.b) else some (.addn f.q f.d f.a f.b f.hasE)
  | 4 => if f.sat then some (.subnSat f.q f.d f.a f.b) else some (.subn f.q f.d f.a f.b f.hasE)
  | 8 => some (.and f.q f.d f.a f.b)
  | 9 => some (.or f.q f.d f.a f.b)
  | 10 => some (.xor f.q f.d f.a f.b)
  | 11 => some (.andn f.q f.d f.a f.b)
  | 12 => some (.orn f.q f.d f.a f.b)
  | 13 => some (.xnor f.q f.d f.a f.b)
  | 16 => some (.sll f.q f.d f.a f.b)
  | 17 => some (.srl f.q f.d f.a f.b)
  | 18 => some (.sra f.q f.d f.a f.b)
  | 19 => some (.rol f.q f.d f.a f.b)
  | 20 => some (.ror f.q f.d f.a f.b)
  | 34 => some (.amake f.q f.d f.a f.b)
  | 35 => some (.aadd f.q f.d f.a f.b)
  | 36 => some (.adiff f.q f.d f.a f.b)
  | 32 => some (.ahdl f.q f.d f.a)
  | 33 => some (.aoff f.q f.d f.a)
  | _ => none

/-- Major 0x08 (R271). -/
def candMul (f : Fields) : Option Instr :=
  match f.fn.toNat with
  | 1 => if f.sat then some (.mulSat f.q f.d f.a f.b) else some (.mul f.q f.d f.a f.b f.hasE)
  | 2 => if f.sat then some (.mulnSat f.q f.d f.a f.b) else some (.muln f.q f.d f.a f.b f.hasE)
  | 3 => some (.mulh f.q f.d f.a f.b)
  | 4 => some (.mulhn f.q f.d f.a f.b)
  | 5 => some (.div f.q f.d f.a f.b)
  | 6 => some (.divn f.q f.d f.a f.b)
  | 7 => some (.rem f.q f.d f.a f.b)
  | 8 => some (.remn f.q f.d f.a f.b)
  | _ => none

/-- Major 0x09 (R271). -/
def candBits (f : Fields) : Option Instr :=
  match f.fn.toNat with
  | 1 => some (.bext f.q f.d f.a f.b)
  | 2 => some (.bextn f.q f.d f.a f.b)
  | 3 => some (.bins f.q f.d f.a f.b)
  | 4 => some (.clz f.q f.d f.a)
  | 5 => some (.ctz f.q f.d f.a)
  | 6 => some (.popc f.q f.d f.a)
  | 7 => some (.brev f.q f.d f.a)
  | 8 => some (.bswap f.q f.d f.a)
  | _ => none

/-- Major 0x0A (R271). -/
def candSel (f : Fields) : Option Instr :=
  match f.fn.toNat with
  | 1 => some (.seq f.q f.d f.a f.b)
  | 2 => some (.sne f.q f.d f.a f.b)
  | 3 => some (.slt f.q f.d f.a f.b)
  | 4 => some (.sltn f.q f.d f.a f.b)
  | 5 => some (.cmp f.q f.d f.a f.b)
  | 6 => some (.sel f.q f.d f.a f.b)
  | 7 => some (.min f.q f.d f.a f.b)
  | 8 => some (.max f.q f.d f.a f.b)
  | 9 => some (.minn f.q f.d f.a f.b)
  | 10 => some (.maxn f.q f.d f.a f.b)
  | _ => none

/-- Major 0x15 (R271). -/
def candPut (f : Fields) : Option Instr :=
  match f.fn.toNat with
  | 1 => some (.putAdd f.q f.d f.a f.b)
  | 2 => some (.putSet f.q f.d f.a f.b)
  | 3 => some (.putFill f.q f.d f.a f.b)
  | 4 => some (.putNc f.q f.a f.b)
  | _ => none

/-- Major 0x18 (R271). -/
def candBar (f : Fields) : Option Instr :=
  match f.fn.toNat with
  | 2 => some (.barArr f.q f.d f.a f.b)
  | 3 => some (.barArrf f.q f.d f.a f.b)
  | 4 => some (.barWait f.q f.d f.a f.b)
  | 1 => some (.barInit f.q f.a f.b)
  | _ => none

/-- Major 0x1A (R271). -/
def candBcopy (f : Fields) : Option Instr :=
  match f.fn.toNat with
  | 1 => some (.bcopy f.q f.d f.a f.b)
  | _ => none

/-- Major 0x28 (R271). -/
noncomputable def candThread (f : Fields) : Option Instr :=
  match f.fn.toNat with
  | 1 => some (.spawn f.q f.d f.a f.b)
  | 6 => some (.exit f.q)
  | 5 => some (.join f.q f.a)
  | 4 => some (.unfork f.q f.a f.live?)
  | 2 => some (.spawnc f.q f.d f.a f.b f.live?)
  | 3 => some (.fork f.q f.d f.a f.live?)
  | _ => none

/-- Major 0x2A (R271). -/
noncomputable def candName (f : Fields) : Option Instr :=
  match f.fn.toNat with
  | 1 => some (.nwalk f.q f.d f.a f.b)
  | 2 => some (.nopen f.q f.d f.a f.b)
  | 4 => some (.nbind f.q f.d f.a f.b)
  | 5 => some (.nunbind f.q f.d f.a f.b)
  | 6 => some (.nstat f.q f.d f.a f.b)
  | 8 => some (.ndup f.q f.d f.a f.b)
  | 9 => some (.ncreate f.q f.d f.a f.b)
  | 3 => some (.nclose f.q f.d f.a)
  | 7 => some (.nrevoke f.q f.d f.a)
  | _ => none

/-- Major 0x2B (R271). -/
noncomputable def candStream (f : Fields) : Option Instr :=
  match f.fn.toNat with
  | 1 => some (.vsSet f.q f.d f.a f.b)
  | 2 => some (.vsRed f.q f.d f.a f.b)
  | 3 => some (.vsMark f.q f.d f.a)
  | 4 => some (.vsSt f.q f.d f.a)
  | 5 => some (.vsRejoin f.q f.d f.a)
  | 6 => some (.vsClose f.q f.d f.a)
  | _ => none

/-- Major 0x38 (R271). -/
noncomputable def candMatrix (f : Fields) : Option Instr :=
  match f.fn.toNat with
  | 1 => some (.mm f.q f.d f.a)
  | 48 => some (.mcclr f.q 0#2)
  | 49 => some (.mcclr f.q 1#2)
  | 50 => some (.mcclr f.q 2#2)
  | 51 => some (.mcclr f.q 3#2)
  | 16 => some (.mcload f.q f.d f.b 0#2)
  | 17 => some (.mcload f.q f.d f.b 1#2)
  | 18 => some (.mcload f.q f.d f.b 2#2)
  | 19 => some (.mcload f.q f.d f.b 3#2)
  | 32 => some (.mcrd f.q f.d 0#2)
  | 33 => some (.mcrd f.q f.d 1#2)
  | 34 => some (.mcrd f.q f.d 2#2)
  | 35 => some (.mcrd f.q f.d 3#2)
  | _ => none

/-- Major 0x13 (R271). -/
def candAmo (f : Fields) : Option Instr :=
  match (f.fn.toNat % 256) with
  | 1 => some (.amoAdd f.q f.d f.a f.b (f.fn.getLsbD 8))
  | 2 => some (.amoAnd f.q f.d f.a f.b (f.fn.getLsbD 8))
  | 3 => some (.amoOr f.q f.d f.a f.b (f.fn.getLsbD 8))
  | 4 => some (.amoXor f.q f.d f.a f.b (f.fn.getLsbD 8))
  | 5 => some (.amoMin f.q f.d f.a f.b (f.fn.getLsbD 8))
  | 6 => some (.amoMax f.q f.d f.a f.b (f.fn.getLsbD 8))
  | 7 => some (.amoMinn f.q f.d f.a f.b (f.fn.getLsbD 8))
  | 8 => some (.amoMaxn f.q f.d f.a f.b (f.fn.getLsbD 8))
  | 9 => some (.amoSwap f.q f.d f.a f.b (f.fn.getLsbD 8))
  | 10 => some (.amoCas f.q f.d f.a f.b (f.fn.getLsbD 8))
  | _ => none

/-- Major 0x17 (R271). -/
def candFence (f : Fields) : Option Instr :=
  match f.fn.toNat with
  | 1 => some (.fencePut f.q)
  | 2 => some (.fencePost f.q)
  | 3 => some (.fenceAll f.q)
  | 16 => some (.cpf f.q f.a)
  | 17 => some (.cwb f.q f.a)
  | 18 => some (.cfl f.q f.a)
  | _ => none

/-- Major 0x3D (R271). -/
noncomputable def candDebug (f : Fields) : Option Instr :=
  match f.fn.toNat with
  | 1 => some (.brk f.q)
  | _ => none

/-- Major 0x19 (R271). -/
def candLatch (f : Fields) : Option Instr :=
  match f.fn.toNat with
  | 16 => some (.latArm f.q f.d f.a 0#2)
  | 17 => some (.latArm f.q f.d f.a 1#2)
  | 18 => some (.latArm f.q f.d f.a 2#2)
  | 19 => some (.latArm f.q f.d f.a 3#2)
  | 32 => some (.latWait f.q f.d f.b)
  | 48 => some (.latClr f.q 0#2)
  | 49 => some (.latClr f.q 1#2)
  | 50 => some (.latClr f.q 2#2)
  | 51 => some (.latClr f.q 3#2)
  | _ => none

/-- Major 0x29 (R271). -/
noncomputable def candMove (f : Fields) : Option Instr :=
  match f.fn.toNat with
  | 1 => some (.go f.q f.d f.b)
  | 2 => some (.yield f.q f.b)
  | 3 => some (.tid f.q f.d)
  | _ => none

/-- Major 0x22 (R271). -/
noncomputable def candRegJump (f : Fields) : Option Instr :=
  match f.fn.toNat with
  | 1 => some (.jr f.q f.a f.live?)
  | 2 => some (.callr f.q f.a f.live?)
  | 4 => some (.ret f.q f.live?)
  | 3 => some (.call f.q f.disp f.live)
  | _ => none

/-- Major 0x3C: group fn[10:8], form fn[7:0] (R392). -/
noncomputable def candSystem (f : Fields) : Option Instr :=
  match f.fn.toNat / 256 with
  | 0 =>
    match f.fn.toNat % 256 with
    | 6 => some (.pjRd f.q f.d f.a)
    | 7 => some (.pjClr f.q f.d f.a)
    | 2 => if f.hasE then some (.tretX f.q f.live) else some (.tret f.q)
    | 3 => some (.halt f.q f.a)
    | 4 => some (.wfi f.q f.d f.b)
    | 5 => some (.gtime f.q f.d)
    | 9 => some (.ffl f.q f.d)
    | 1 => some (.trap f.q f.d f.a f.b)
    | 8 => some (.kcInv f.q f.a (f.b.extractLsb' 0 2))
    | _ => none
  | 1 => some (.ctlRd f.q f.d f.b (f.fn.extractLsb' 0 8))
  | 2 => some (.ctlWr f.q f.a f.b (f.fn.extractLsb' 0 8))
  | 3 => some (.ctlSet f.q f.a f.b (f.fn.extractLsb' 0 8))
  | 4 => some (.ctlClr f.q f.a f.b (f.fn.extractLsb' 0 8))
  | _ => none

/-- Major 0x12 (R312). -/
def candFullEmpty (f : Fields) : Option Instr :=
  match f.wop with
  | 0 => some (.ldTake f.q f.d f.a f.wdisp)
  | 1 => some (.ldPeek f.q f.d f.a f.wdisp)
  | 4 => some (.feRd f.q f.d f.a f.wdisp)
  | 2 => some (.stGive f.q f.d f.a f.wdisp)
  | 3 => some (.stFill f.q f.d f.a f.wdisp)
  | 5 => some (.feClr f.q f.a f.wdisp)
  | _ => none

/-- Major 0x14 (R312). -/
def candReserve (f : Fields) : Option Instr :=
  match f.wop with
  | 0 => some (.rsv f.q f.d f.a f.wdisp)
  | 1 => some (.rls f.q f.d f.a f.wdisp)
  | 2 => some (.rlsN f.q f.a f.wdisp)
  | _ => none

/-- Major 0x05 (R294). -/
def candShift (f : Fields) : Option Instr :=
  match f.size.toNat with
  | 0 => some (.slli f.q f.d f.a (f.base.extractLsb' 0 6))
  | 1 => some (.srli f.q f.d f.a (f.base.extractLsb' 0 6))
  | 2 => some (.srai f.q f.d f.a (f.base.extractLsb' 0 6))
  | 3 => some (.rori f.q f.d f.a (f.base.extractLsb' 0 6))
  | _ => none

/-- Major 0x01 (R293). -/
def candAddi (f : Fields) : Option Instr :=
  if f.hasK then
    (if f.sat then some (.addiSatK f.q f.d f.a f.k) else some (.addiK f.q f.d f.a f.k f.hasE))
  else if f.sat then some (.addiSat f.q f.d f.a f.i) else some (.addi f.q f.d f.a f.i f.hasE)

/-- Major 0x20 (R301). -/
noncomputable def candBranch (f : Fields) : Option Instr :=
  if f.hasE then some (.bCondX f.q f.d f.a (BrCond.ofCode f.size) f.disp f.live)
  else
    match BrCond.ofCode f.size with
    | .eq => some (.bEq f.q f.d f.a f.d12)
    | .ne => some (.bNe f.q f.d f.a f.d12)
    | .lt => some (.bLt f.q f.d f.a f.d12)
    | .ge => some (.bGe f.q f.d f.a f.d12)
    | .ltn => some (.bLtn f.q f.d f.a f.d12)
    | .gen => some (.bGen f.q f.d f.a f.d12)
    | .bs => some (.bBs f.q f.d f.a f.d12)
    | .bc => some (.bBc f.q f.d f.a f.d12)

/-- Major 0x30: fn[5:0] with fn[7] = U and fn[6] = X where the row has them (R352). -/
noncomputable def candVInt (f : Fields) : Option Instr :=
  match f.fn.toNat % 64 with
  | 0 => if f.hasK then some (.vaddIntK (f.vargs true true)) else some (.vaddInt (f.vargs true true))
  | 1 => some (.vsubInt (f.vargs true true))
  | 2 => some (.vmulInt (f.vargs true true))
  | 3 => some (.vmulh (f.vargs true true))
  | 4 => some (.vminInt (f.vargs true true))
  | 5 => some (.vmaxInt (f.vargs true true))
  | 6 => some (.vand (f.vargs true true))
  | 7 => some (.vor (f.vargs true true))
  | 8 => some (.vxor (f.vargs true true))
  | 9 => some (.vsll (f.vargs true true))
  | 10 => some (.vsr (f.vargs true true))
  | 11 => some (.vabsInt (f.vargs true true))
  | 12 => some (.vmac (f.vargs true true))
  | 13 => some (.vwmulInt (f.vargs true true))
  | 14 => some (.vwmac (f.vargs true true))
  | 15 => some (.vdotInt (f.vargs true true))
  | 16 => some (.vceqInt (f.vargs true true))
  | 17 => some (.vcltInt (f.vargs true true))
  | 18 => some (.vcleInt (f.vargs true true))
  | 19 => some (.vmov (f.vargs true true))
  | _ => none

/-- Major 0x31: fn[5:0] with fn[7] = U and fn[6] = X where the row has them (R352). -/
noncomputable def candVFlt (f : Fields) : Option Instr :=
  match f.fn.toNat % 64 with
  | 0 => if f.hasE then some (.vaddFltX (f.vargs true true)) else some (.vaddFlt (f.vargs true true))
  | 1 => some (.vsubFlt (f.vargs true true))
  | 2 => if f.hasK then some (.vmulFltK (f.vargs true true)) else some (.vmulFlt (f.vargs true true))
  | 3 => some (.vdiv (f.vargs true true))
  | 4 => some (.vfma (f.vargs true true))
  | 5 => some (.vminFlt (f.vargs true true))
  | 6 => some (.vmaxFlt (f.vargs true true))
  | 7 => some (.vabsFlt (f.vargs true true))
  | 8 => some (.vsqrt (f.vargs true true))
  | 9 => some (.vexp2 (f.vargs true true))
  | 10 => some (.vlog2 (f.vargs true true))
  | 11 => some (.vrcp (f.vargs true true))
  | 12 => some (.vrsq (f.vargs true true))
  | 13 => some (.vwmulFlt (f.vargs true true))
  | 14 => some (.vwfma (f.vargs true true))
  | 15 => some (.vdotFlt (f.vargs true true))
  | 16 => some (.vceqFlt (f.vargs true true))
  | 17 => some (.vcltFlt (f.vargs true true))
  | 18 => some (.vcleFlt (f.vargs true true))
  | _ => none

/-- Major 0x32: fn[5:0] with fn[7] = U and fn[6] = X where the row has them (R352). -/
noncomputable def candVMem (f : Fields) : Option Instr :=
  match f.fn.toNat % 256 with
  | 0 => if f.hasE then some (.vldX (f.vargs false false)) else some (.vld (f.vargs false false))
  | 1 => if f.hasE then some (.vstX (f.vargs false false)) else some (.vst (f.vargs false false))
  | 2 => some (.vgather (f.vargs false false))
  | 3 => some (.vscatter (f.vargs false false))
  | 4 => some (.vldl (f.vargs false false))
  | 68 => some (.vldlV (f.vargs false false))
  | 5 => some (.vstl (f.vargs false false))
  | 69 => some (.vstlV (f.vargs false false))
  | 6 => some (.vldsc (f.vargs false false))
  | 7 => some (.vstsc (f.vargs false false))
  | _ => none

/-- Major 0x33: fn[5:0] with fn[7] = U and fn[6] = X where the row has them (R352). -/
noncomputable def candVCvt (f : Fields) : Option Instr :=
  match f.fn.toNat % 128 with
  | 0 => if (f.vargs true false).wid == 0 then some (.vcvt (f.vargs true false)) else some (.vcvtW (f.vargs true false))
  | 1 => some (.vunpk (f.vargs true false))
  | 2 => some (.vunpk6 (f.vargs true false))
  | 3 => some (.vpk (f.vargs true false))
  | 4 => some (.vpk6 (f.vargs true false))
  | 5 => some (.vperm (f.vargs true false))
  | 6 => some (.vslide (f.vargs true false))
  | 7 => some (.vext (f.vargs true false))
  | 8 => some (.vins (f.vargs true false))
  | _ => none

/-- Major 0x34: fn[5:0] with fn[7] = U and fn[6] = X where the row has them (R352). -/
noncomputable def candVRed (f : Fields) : Option Instr :=
  match f.fn.toNat % 128 with
  | 0 => some (.vredAdd (f.vargs true false))
  | 1 => some (.vredMax (f.vargs true false))
  | 2 => some (.vredMin (f.vargs true false))
  | 16 => some (.vattc .d64 (f.vargs true false))
  | 17 => some (.vattc .d128 (f.vargs true false))
  | 18 => some (.vattc .d256 (f.vargs true false))
  | 24 => some (.vattf .d64 (f.vargs true false))
  | 25 => some (.vattf .d128 (f.vargs true false))
  | 26 => some (.vattf .d256 (f.vargs true false))
  | _ => none

/-- Majors 0x35 and 0x36 (R372 to R375). -/
noncomputable def candVCtl (f : Fields) : Option Instr :=
  if f.maj == 0x35#6 then
    match f.fn.toNat % 256 with
    | 1 => some (.rep f.q (f.d.extractLsb' 0 3) f.a)
    | 2 => some (.repWait f.q f.d)
    | _ => none
  else
    match f.fn.toNat % 256 with
    | 1 => some (.vfence f.q)
    | 2 => some (.vbusy f.q f.d)
    | 0x10 => some (.kand f.q (f.d.extractLsb' 0 2) (f.a.extractLsb' 0 2) (f.b.extractLsb' 0 2))
    | 0x11 => some (.kor f.q (f.d.extractLsb' 0 2) (f.a.extractLsb' 0 2) (f.b.extractLsb' 0 2))
    | 0x12 => some (.kxor f.q (f.d.extractLsb' 0 2) (f.a.extractLsb' 0 2) (f.b.extractLsb' 0 2))
    | 0x13 => some (.knot f.q (f.d.extractLsb' 0 2) (f.a.extractLsb' 0 2))
    | 0x14 => some (.kset f.q (f.d.extractLsb' 0 2) f.a)
    | 0x15 => some (.kins f.q (f.d.extractLsb' 0 2) f.a f.b)
    | 0x16 => some (.kext f.q f.d (f.a.extractLsb' 0 2) f.b)
    | 0x17 => some (.kpop f.q f.d (f.a.extractLsb' 0 2))
    | _ => none

/-- The one instruction the words can stand for, by major (R271), before the checks of R272. -/
noncomputable def candidate (f : Fields) : Option Instr :=
  match f.maj.toNat with
  | 0x00 => candAlu f
  | 0x01 => candAddi f
  | 0x02 => if f.hasK then some (.andiK f.q f.d f.a f.k) else some (.andi f.q f.d f.a f.i)
  | 0x03 => if f.hasK then some (.oriK f.q f.d f.a f.k) else some (.ori f.q f.d f.a f.i)
  | 0x04 => if f.hasK then some (.xoriK f.q f.d f.a f.k) else some (.xori f.q f.d f.a f.i)
  | 0x05 => candShift f
  | 0x06 => if f.hasK then some (.liK f.q f.d f.k) else some (.li f.q f.d f.i)
  | 0x07 => if f.hasK then some (.cmpiK f.q f.d f.a f.k) else some (.cmpi f.q f.d f.a f.i)
  | 0x08 => candMul f
  | 0x09 => candBits f
  | 0x0A => candSel f
  | 0x10 => (LoadSize.ofCode f.size).map fun z => if f.hasE then .ldX f.q f.d f.a z f.disp else .ld f.q f.d f.a z f.d12
  | 0x11 => (StoreSize.ofCode f.size).map fun z => if f.hasE then .stX f.q f.d f.a z f.disp else .st f.q f.d f.a z f.d12
  | 0x12 => candFullEmpty f
  | 0x13 => candAmo f
  | 0x14 => candReserve f
  | 0x15 => candPut f
  | 0x16 => (StoreSize.ofCode f.size).map fun z => if f.hasE then .pstX f.q f.d f.a z f.disp else .pst f.q f.d f.a z f.d12
  | 0x17 => candFence f
  | 0x18 => candBar f
  | 0x19 => candLatch f
  | 0x1A => candBcopy f
  | 0x20 => candBranch f
  | 0x21 => if f.hasE then some (.jX f.q f.disp f.live) else some (.j f.q f.j)
  | 0x22 => candRegJump f
  | 0x23 => some (.lp f.q f.a f.i)
  | 0x28 => candThread f
  | 0x29 => candMove f
  | 0x2A => candName f
  | 0x2B => candStream f
  | 0x30 => candVInt f
  | 0x31 => candVFlt f
  | 0x32 => candVMem f
  | 0x33 => candVCvt f
  | 0x34 => candVRed f
  | 0x35 => candVCtl f
  | 0x36 => candVCtl f
  | 0x38 => candMatrix f
  | 0x3C => candSystem f
  | 0x3D => candDebug f
  | _ => none

/-- The instruction of a base word and the words after it (R257); E is the first of them when present, K the next. -/
noncomputable def decode (base : BitVec 32) (w1 w2 : Word) : Except DecodeError Instr :=
  let hasE := base.getLsbD 30
  let hasK := base.getLsbD 31
  let e := if hasE then w1 else 0
  let k := if hasK then (if hasE then w2 else w1) else 0
  match candidate (Fields.of base e k) with
  | none => .error .unlisted
  | some i =>
    if encode i = ⟨base, if hasE then some e else none, if hasK then some k else none⟩ then
      (if i.wellFormed then .ok i else .error .operand)
    else .error .field

/-- A little-endian value of a list of bytes (R3). -/
def leNat : List Byte → Nat
  | [] => 0
  | b :: bs => b.toNat + 256 * leNat bs

/-- The n low bytes of a value, lowest first (R3). -/
def leBytes : Nat → Nat → List Byte
  | 0, _ => []
  | n + 1, v => BitVec.ofNat 8 v :: leBytes n (v / 256)

/-- The length in bytes that the L field of a base word names (R257). -/
def lengthOf (base : BitVec 32) : Nat :=
  match (base.extractLsb' 30 2).toNat with
  | 0 => 4
  | 3 => 20
  | _ => 12

/-- The instruction at the head of a list of bytes, and its length (R6, R257, R258). -/
noncomputable def decodeBytes (bs : List Byte) : Except DecodeError (Instr × Nat) :=
  if bs.length < 4 then .error .truncated
  else
    let base := BitVec.ofNat 32 (leNat (bs.take 4))
    if bs.length < lengthOf base then .error .truncated
    else
      match decode base (BitVec.ofNat 64 (leNat ((bs.drop 4).take 8))) (BitVec.ofNat 64 (leNat ((bs.drop 12).take 8))) with
      | .ok i => .ok (i, lengthOf base)
      | .error r => .error r

/-- The bytes of an instruction as memory holds them (R6). -/
def Encoded.bytes (w : Encoded) : List Byte :=
  leBytes 4 w.base.toNat
    ++ (match w.e with | some e => leBytes 8 e.toNat | none => [])
    ++ (match w.k with | some k => leBytes 8 k.toNat | none => [])

/-- The length of an instruction in bytes (R258). -/
def Instr.len (i : Instr) : Nat := (encode i).length

/-- What the decoder reads from an instruction whose bits are w in the opcode table's numbering, every bit above nbits zero. -/
noncomputable def decodeTableWord (nbits w : Nat) : Option Instr :=
  match decodeBytes (leBytes 20 (w % 2 ^ nbits)) with
  | .ok (i, _) => some i
  | .error _ => none

end Sys2Proof
end

