-- ==== Sys2Proof/Machine/Map.lean ====
section
/-! DEFINITION. Tables of plain data: sorted key and value pairs in one canonical form, and the bit fields shared by every file. -/

namespace Sys2Proof.Machine

variable {α : Type}

/-- The value at a key; d where the key is not listed. -/
def spGet (d : α) : Sp α → Nat → α
  | [], _ => d
  | (j, w) :: r, k => if j = k then w else spGet d r k

/-- Inserts a pair before the first larger key. -/
def spIns (k : Nat) (v : α) : Sp α → Sp α
  | [] => [(k, v)]
  | (j, w) :: r => if k < j then (k, v) :: (j, w) :: r else (j, w) :: spIns k v r

/-- Removes a key. -/
def spErase (k : Nat) : Sp α → Sp α
  | [] => []
  | (j, w) :: r => if j = k then spErase k r else (j, w) :: spErase k r

/-- Writes a key: writing what an absent key reads as removes the entry. -/
def spSet [DecidableEq α] (d : α) (m : Sp α) (k : Nat) (v : α) : Sp α :=
  if v = d then spErase k m else spIns k v (spErase k m)

/-- The canonical form: keys strictly rising from b on, and no value equal to d. -/
def spWfFrom [DecidableEq α] (d : α) : Nat → Sp α → Bool
  | _, [] => true
  | b, (j, w) :: r => decide (b ≤ j) && decide (w ≠ d) && spWfFrom d (j + 1) r

/-- The canonical form of a table. -/
def spWf [DecidableEq α] (d : α) (m : Sp α) : Bool := spWfFrom d 0 m

/-- The keys listed. -/
def spKeys (m : Sp α) : List Nat := m.map Prod.fst

/-- Keeps the entries that satisfy p. -/
def spFilter (p : Nat → α → Bool) (m : Sp α) : Sp α := m.filter fun e => p e.1 e.2

/-- Bits hi down to lo of a word as a number (R3). -/
def bits (w : Word) (hi lo : Nat) : Nat := w.toNat / 2 ^ lo % 2 ^ (hi + 1 - lo)

/-- One bit of a word (R3). -/
def bit (w : Word) (n : Nat) : Bool := w.getLsbD n

/-- A word with bits hi down to lo replaced. -/
def setBits (w : Word) (hi lo v : Nat) : Word :=
  let m : Word := (BitVec.allOnes 64 >>> (63 - (hi - lo))) <<< lo
  (w &&& ~~~m) ||| ((BitVec.ofNat 64 v <<< lo) &&& m)

/-- A word with one bit set to b. -/
def setBit (w : Word) (n : Nat) (b : Bool) : Word := setBits w n n (if b then 1 else 0)

/-- A word from a natural number, modulo 2^64. -/
def w64 (n : Nat) : Word := BitVec.ofNat 64 n

/-- The handle of an address (R87). -/
def hdl (a : Word) : Nat := a.toNat / 2 ^ 48

/-- The offset of an address (R87). -/
def off (a : Word) : Nat := a.toNat % 2 ^ 48

/-- An address of a handle and an offset (R87). -/
def mkAddr (h o : Nat) : Word := w64 (h % 65536 * 2 ^ 48 + o % 2 ^ 48)

/-- A signed sum with the offset alone; none where it leaves 0 to 2^48 - 1 (R87). -/
def offAdd (a : Word) (d : Int) : Option Word :=
  let t : Int := Int.ofNat (off a) + d
  if t < 0 ∨ t ≥ 2 ^ 48 then none else some (mkAddr (hdl a) t.toNat)

/-- A signed sum with the offset alone, modulo 2^48. -/
def offWrap (a : Word) (d : Int) : Word :=
  mkAddr (hdl a) ((Int.ofNat (off a) + d) % 2 ^ 48).toNat

/-- The little-endian value of bytes (R3). -/
def leNum : List Byte → Nat
  | [] => 0
  | b :: bs => b.toNat + 256 * leNum bs

/-- The n low bytes of a value, lowest first (R3). -/
def leList : Nat → Nat → List Byte
  | 0, _ => []
  | n + 1, v => BitVec.ofNat 8 v :: leList n (v / 256)

/-- The list 0, 1, … n - 1. -/
def upTo (n : Nat) : List Nat := List.range n

/-- Bytes i to i + 7 of a byte list as a word; bytes past the end read 0. -/
def wordAt (bs : List Byte) (i : Nat) : Word := w64 (leNum ((bs.drop i).take 8))

/-- Replaces the n-th entry of a list. -/
def setAt {α : Type} (l : List α) (n : Nat) (v : α) : List α := l.set n v

end Sys2Proof.Machine
end

