-- ==== Sys2Proof/Config.lean ====
section
/-! DEFINITION. What an implementation of the FLV4-768 fixes and the spec does not: opaque values, of which nothing can be
evaluated or proved (log 11), and the fixed figures of R1. -/

namespace Sys2Proof

/-- Cores of the package (R1). -/
def Config.cores : Nat := 1024

/-- Thread slots of a core (R1). -/
def Config.slots : Nat := 16

/-- A free value: the result the spec leaves open, numbered by the state's counter (log 11). -/
opaque Config.freeWord : Nat → Word

/-- The address a trap reports where a displacement leaves the offset's range: no byte of the access has an address, and the spec gives no
value (R87, R246; log 11). -/
opaque Config.carryAddress : Word → Int → Word

/-- The LLC slices of a quadrant miss in bypass mode, else in blocking mode: the key core sets it at bring-up (R233; log 11). -/
opaque Config.llcBypass : Nat → Bool

/-- The power controller's estimate, in watts, of a frame with the given activity (R13; log 11). -/
opaque Config.powerEstimate : Nat → Nat

/-- How far GTIME as read on die 1 runs ahead of the master: 0 or 1 counts, per cycle (R12; log 11). -/
opaque Config.die1Ahead : Nat → Bool

/-- How far PTPOFF moves at a rate trim in so many counts of GTIME since the servo last steered it; the spec gives the trim no unit (R73;
log 11). -/
opaque Config.ptpDrift : Word → Nat → Word

/-- The bytes of a part of an image slot: 0 the manifest, 1 the key-core image, 2 the policy image, 3 the packet images, 4 the board
configuration, 5 the manifest's signature, 6 the Pyrcen public key. The spec gives a slot no layout (R126; log 11). -/
opaque Config.slotPart : Sp Byte → Nat → List Byte

/-- The image version of a manifest (R126, R134; log 11). -/
opaque Config.manifestVersion : List Byte → Word

/-- The security version of a manifest, of 32 bits (R126; log 11). -/
opaque Config.manifestSecurity : List Byte → BitVec 32

/-- The SHA3-512 digest that a manifest gives for a part of its slot (R126; log 11). -/
opaque Config.manifestDigest : List Byte → Nat → List Byte

/-- The SHA3-512 digest of the Pyrcen public key, fused in the part (R126; log 11). -/
opaque Config.fusedKey : List Byte

/-- The boot ROM (R123, R126, R127; log 11). -/
opaque Config.bootRom : List Byte

/-- The device identity keys, which the key core alone can read (R124, R127; log 11). -/
opaque Config.identityKeys : List Byte

/-- How many partition records key storage holds (R132; log 11). -/
opaque Config.keyStorage : Nat

/-- The place of a handover structure in the policy core's SRAM, in 64 bytes (R133, R134; log 11). -/
opaque Config.handoverPlace : Nat

/-- The address at which the policy image starts (R133; log 11). -/
opaque Config.policyEntry : Word

/-- A policy image accepts a handover version (R134; log 11). -/
opaque Config.acceptsHandover : List Byte → Nat → Bool

/-- The package's pod number, 0 to 255, as the boot image sets it (R69; log 11). -/
opaque Config.podNumber : Sp Byte → Byte

/-- The power cap in watts of a board configuration (R13; log 11). -/
opaque Config.boardCap : List Byte → Nat

/-- The device's SPDM certificate chain (R127; log 11). -/
opaque Config.certChain : List Byte

/-- The key core's ML-DSA-87 signature of a message with the device identity keys (R124, R127; log 11). -/
opaque Config.identitySign : List Byte → List Byte → List Byte

/-- The 4 bytes by which an ALGORITHMS answer names ML-DSA-87, for which SPDM 1.3 has no code of its own (R127; log 11). -/
opaque Config.mlDsaCode : BitVec 32

/-- Figures of a CAPABILITIES answer that the spec does not give: 0 the timing exponent, 1 the size of a transfer, 2 that of a message (R127;
log 11). -/
opaque Config.spdmFigure : Nat → Nat

/-- Whether a row of an SRAM array unit holds a word of memory in a cycle (R136; log 11). -/
opaque Config.rowHolds : Nat → Nat → Nat → Nat → Bool

/-- The entry a keyring offers for a new handle, by the ring, the cycle, the count of identities and the entries in use (R86; log 6). -/
opaque Config.handleChoice : Nat → Nat → Nat → List Nat → Nat

/-- The number a name engine offers for a new node, by its quadrant, the cycle, the count of identities and the numbers used (R98; log 6). -/
opaque Config.nodeChoice : Nat → Nat → Nat → List Nat → Nat

/-- The system address of the state of a node's kind, word 2 of its record where it has no page table (R89; log 11). -/
opaque Config.kindState : Nat → Word

/-- The packet core that serves a queue's wakes, of six: the spec does not say which (R120, R123; log 11). -/
opaque Config.packetCore : Nat → Fin 6

/-- The byte of a q4 pair whose outlier is −8, by its slot and its partner's rounded value: R208's nibbles would make 0x88, which R207 says is never
produced, and no other is stated (log 66). -/
opaque Config.q4MinusEight : Bool → Int → Fin 255

/-- The 4 KiB input buffers that the reduction station of a router has for all its streams (R37, R42, R343; log 43). -/
opaque Config.stationBuffers : Nat → Nat

/-- Spare rows left in an SRAM array unit (R16, R136; log 11). -/
opaque Config.spareRows : Nat → Nat

end Sys2Proof
end

