-- ==== Sys2Proof/Machine/State.lean ====
section
/-! DEFINITION. The state of an FLV4-768 as plain data: everything the spec gives the machine (INVENTORY.md, State), the agenda
of what moves next (log 1), and the state after reset. -/

namespace Sys2Proof.Machine

/-- Why the machine stops. -/
inductive Fault where
  /-- Raised by step alone, when the supplies are off (R14) and the turn does not power the package up. Safe. -/
  | unpowered
  deriving DecidableEq, Repr

/-- What the model gives no meaning. -/
inductive Refusal where
  /-- Raised by exec for a row that has no meaning yet. Safe. -/
  | notModelled (mnemonic : String)
  deriving DecidableEq, Repr

/-- One turn of the agenda (log 1): what moves next. -/
inductive Turn where
  /-- an event arrives from outside or from an agent -/
  | input (e : Instr)
  /-- the n-th event under way takes place -/
  | deliver (n : Nat)
  /-- a register of the configuration region is read at an offset; the answer goes to the reader (R4) -/
  | read (fn : HostFn) (o : Nat)
  /-- the policy core sets a timestamp in the timestamp unit (R125) -/
  | stamp (t : Word)
  /-- this hart issues its next instruction if it can -/
  | issue (t : Nat)
  /-- the core cycle ends -/
  | tick
  deriving DecidableEq, Repr

/-- A late result outstanding (R157): its register, and its value once it can return; for a load through a peer handle its size code,
address and the instruction's address (R244). -/
structure Late where
  d    : Reg
  v    : Word
  done : Bool
  /-- the instruction that made it, by the thread's order number -/
  seq  : Nat
  size : Nat
  addr : Word
  pc   : Word
  /-- the running cycles since the result has returned (R186) -/
  held : Nat
  deriving DecidableEq, Repr

/-- A trap cause with its reason and value (R246), as the trap registers take them. -/
structure TrapInfo where
  cause  : Nat
  reason : Nat
  tval   : Word
  deriving DecidableEq, Repr

/-- A refused access awaiting its returned trap (R247): the instruction's address and order number. -/
structure Returned where
  pc   : Word
  seq  : Nat
  info : TrapInfo
  deriving DecidableEq, Repr

/-- What a listed waiter wants of a full/empty word (R148). -/
inductive WaitOp where
  | take | peek | give | join
  deriving DecidableEq, Repr

/-- What a thread does once a wait as at a marker park ends (R173, R249, R334, R395). -/
inductive After where
  | exit
  | dead (tepc tcause tval thst : Word)
  | depart (target : Word) (live : BitVec 15)
  deriving DecidableEq, Repr

/-- Whether a thread is in the rotation, and what it waits for when not (R158). A wait whose instruction issues again when it
ends says so. -/
inductive Wait where
  /-- in the rotation -/
  | run
  /-- marker park (R157) -/
  | marker
  /-- translation wait on a node record the host supplies, for an access at an address, or for a name instruction with its result
  register, its marker and the component of its path (R89); issues again -/
  | fetch (node : Nat) (addr : Word) (tx : Option (Reg × Bool × Nat))
  /-- the host did not answer a translation wait in time (R89); issues again and takes the fault -/
  | missed (node : Nat)
  /-- full/empty or counter wait, listed at the word's home (R148): what completes it -/
  | word (key : Nat) (op : WaitOp) (addr : Word) (d : Reg) (len : Nat) (q : Bool)
  /-- refused by a full wait list: the operation, the interval, the GTIME of the first refusal, and the count of waited cycles at which it polls
  again (R149); issues again -/
  | retry (key : Nat) (op : WaitOp) (addr : Word) (interval first due : Nat)
  /-- reservation wait (R315); issues again when the word is forwarded -/
  | resv (key : Nat) (addr : Word)
  /-- latch wait (R152); left counts running cycles; issues again when a reason holds -/
  | latch (left : Nat) (d : Reg) (q : Bool)
  /-- barrier wait (R324) on the object at a key; left counts running cycles; issues again when the phase differs -/
  | barrier (key : Nat) (addr : Word) (phase left : Nat) (d : Reg) (q : Bool)
  /-- vector queue full (R353); issues again -/
  | vqueue
  /-- vector join (R374); issues again -/
  | vjoin
  /-- matrix operation (R383): result register, length and marker -/
  | matrix (d : Reg) (len : Nat) (q : Bool)
  /-- queue-register wait: for a word inbound where rd, else for room outbound (R186); issues again -/
  | queueReg (r : Reg) (rd : Bool)
  /-- fence wait (R321); issues again -/
  | fence (put post : Bool)
  /-- waits for a free journal entry (R250); issues again -/
  | journal
  /-- a name transaction or invalidation under way (R339, R399) -/
  | name (rid : Nat) (d : Reg) (q : Bool)
  /-- a transaction sent to a peer package (R339) -/
  | remote (d : Reg) (q : Bool)
  /-- the reservation answer of spawnc, go or a migration is awaited (R36, R330, R335) -/
  | slotAsk
  /-- the reservation answer of spawnc or go: its instruction issues again and acts on it -/
  | slotReply (slot : Option Nat)
  /-- waits as at a marker park, then acts (R173, R249, R334) -/
  | settle (next : After)
  /-- yields: the own positions until it is ready again, and its marker (R336) -/
  | yielding (left : Nat) (q : Bool)
  /-- wfi (R396): the running cycles left; issues again when a trap is pending -/
  | wfi (left : Nat) (d : Reg) (q : Bool)
  /-- halted, in this cycle (R395, R400) -/
  | halted (at_ : Nat)
  deriving DecidableEq, Repr

/-- A capture in progress (R372): commands still to capture, those captured, and the iterations asked for. -/
structure Capture where
  left : Nat
  cmds : List VCmd
  n    : Nat
  deriving DecidableEq, Repr

/-- An entry of a slot's or core's vector queue: a command; a repetition that still captures, with its iterations; a repetition with its
captured commands, iterations and those begun; or a command executed and not yet retired, with its flags and scalar result (R353, R372). -/
inductive VEntry where
  | cmd (c : VCmd)
  | capturing (n : Nat)
  | rep (cmds : List VCmd) (n i : Nat)
  | ended (c : VCmd) (flags : BitVec 5) (res : Option Word)
  deriving DecidableEq, Repr

/-- The state of one hardware thread or engine hart (R185 to R199, R402). -/
structure Thread where
  uid     : Nat
  ctx     : Nat
  part    : Nat
  tenant  : Nat
  launch  : Nat
  id      : BitVec 32
  pc      : Word
  x       : Sp Word
  v       : Sp VReg
  sc      : Sp (BitVec 256)
  k       : Sp (BitVec 1024)
  lstk    : Sp Word
  latch   : Sp Word
  thst    : Word
  tvec    : Word
  tepc    : Word
  tcause  : Word
  tval    : Word
  pjbase  : Word
  kmask   : Word
  vwin    : Bool
  mcell   : BitVec 2
  pcnt    : Sp Word
  wait    : Wait
  /-- running cycles of the present wait, for the stall watchdog (R253) -/
  wcount  : Nat
  /-- the key of the word held under rsv, and the running cycles since the grant (R315, R253) -/
  hold    : Option (Nat × Nat)
  /-- the address by which that word was reserved (R253) -/
  holdAt  : Word
  late    : List Late
  refused : List Returned
  /-- RESTITCH [0] and SFAIL [1] reasons not yet returned by lat.wait (R152) -/
  reasons : BitVec 2
  vq      : List (Nat × VEntry)
  capture : Option Capture
  /-- commands of the slot in the core queue or under way (R353) -/
  vout    : Nat
  lastRep : Nat
  /-- order number of the next instruction -/
  seq     : Nat
  /-- every core of the home cluster has refused: the access under way is performed from here (R147) -/
  stay    : Bool
  /-- the last GTIME the thread has read (R12) -/
  gread   : Word
  /-- the cycle plus one in which an instruction last wrote THST (R193) -/
  thstAt  : Nat
  /-- the cycle before which a thread that a slice brought in does not issue (R166) -/
  startAt : Nat
  /-- the order number of the first instruction after a tret that leaves an asynchronous trap to be taken before it (R249) -/
  tretAt  : Nat
  /-- the address of a hold that has expired while the thread could not take the trap (R253) -/
  expired : Option Word
  /-- the operands that a spawnc or go took at its first issue (R330, R335) -/
  taken   : List Word
  /-- posted writes and vector commands of the thread that wait behind another's hold: their tag, the word, and the running cycles waited (R253,
  R315) -/
  behind  : List (Nat × Nat × Nat)
  deriving DecidableEq, Repr

/-- A continuation in a deque (R144): pc, x1 to x7, its launch, pushing slot and the forker's thread id. -/
structure Continuation where
  pc     : Word
  xs     : List Word
  launch : Nat
  slot   : Nat
  id     : BitVec 32
  deriving DecidableEq, Repr

/-- A handle's keyring entry (R86); the port and package that asked, for a mount keyring (R101). -/
structure KeyEntry where
  ptroot : Word
  pkg    : Nat
  port   : Nat
  rhdl   : Nat
  limit  : Nat
  v      : Bool
  peer   : Bool
  kind   : Nat
  rights : BitVec 5
  ceil   : BitVec 5
  gen    : Nat
  node   : Nat
  deriving DecidableEq, Repr

/-- A key-cache entry of a core, hart quadrant or port (R88): the descriptor and the node generation at the fill. -/
structure CachedKey where
  ctx    : Nat
  handle : Nat
  entry  : KeyEntry
  gen    : Nat
  deriving DecidableEq, Repr

/-- A TLB entry (R88): context, handle, page, the page's physical address and kind. -/
structure CachedPage where
  ctx    : Nat
  handle : Nat
  page   : Nat
  node   : Nat
  pa     : Nat
  kind   : Nat
  deriving DecidableEq, Repr

/-- A C line as a core's L1 or a quadrant's L2 holds it: its lease, its write time at the fill, and its 64 bytes (R229, R232). -/
structure CachedLine where
  lease : Nat
  wts   : Nat
  data  : List Byte
  deriving DecidableEq, Repr

/-- What a core keeps outside its slots: R1, R159, R171, R177, R229, R372, R386. -/
structure CoreSt where
  pts      : Nat
  inq      : Sp (List Word)
  outq     : Sp (List Word)
  vqueue   : List (Nat × VEntry)
  cellprog : Sp Word
  /-- the pinned segment: launch, index, stale (R171, R183) -/
  segment  : Option (Nat × Nat × Bool)
  /-- the bytes of the pinned segment as they were loaded, while a launch pins one (R171) -/
  segBytes : List Byte
  arrivals : List Parcel
  deque    : List Continuation
  spill    : List Continuation
  keys     : List CachedKey
  tlb      : List CachedPage
  /-- the C lines its L1 holds (R229) -/
  leases   : Sp CachedLine
  /-- slots granted to a reservation and not yet taken (R36) -/
  granted  : List Nat
  /-- reservations that wait for no slot are refused; this counts running cycles for pts (R229) -/
  ran      : Nat
  /-- launches dispatched to the core, oldest first (R140) -/
  launches : List Nat
  /-- travel parcels written to the core's spill ring, oldest first (R177, R178) -/
  spilled  : List Parcel
  /-- restored threads that wait for a slot, each with the slot it was saved in (R408) -/
  restored : List (Nat × Thread)
  deriving DecidableEq, Repr

/-- A journal entry (R250) with what its operation still needs. -/
structure JEnt where
  opk     : Nat
  addr    : Word
  caddr   : Word
  gen     : Nat
  size    : Nat
  code    : Nat
  time    : Word
  ref     : Bool
  uid     : Nat
  ctx     : Nat
  part    : Nat
  slot    : Nat
  launch  : Nat
  /-- the node of the destination, for step 5 of R96 -/
  node    : Nat
  /-- order of issue on the core -/
  order   : Nat
  /-- segments or lines not yet answered -/
  left    : Nat
  /-- the counter action: 0 none, 1 add, 2 set, 3 fill, and its value; the generation the counter's handle gave -/
  action  : Nat
  value   : Word
  cnode   : Nat
  cgen    : Nat
  /-- the posted-refusal trap has been delivered (R251) -/
  told    : Bool
  /-- the record has been written at PJBASE, and the address at which that write faulted (R196) -/
  recd    : Option (Option Word)
  /-- a block copy: source, next byte, length (R320) -/
  src     : Word
  done    : Nat
  /-- the instruction that made it: its address, and its order number in the thread (R253) -/
  pc      : Word
  seq     : Nat
  deriving DecidableEq, Repr

/-- A reservation queue (R315): the holder, whether the held copy has changed, the access the word has been forwarded to, and those
queued, in arrival order: harts, and beyond 2,000,000 the posted writes of a journal entry, the command at a core's vector unit and the operation at a cluster's matrix
engine (log 12). -/
structure Resv where
  holder  : Option Nat
  dirty   : Bool
  granted : Option Nat
  queue   : List Nat
  deriving DecidableEq, Repr

/-- An entry of a word's wait list (R148). -/
structure WaitEnt where
  t    : Nat
  op   : WaitOp
  data : Word
  deriving DecidableEq, Repr

/-- A registered latch line: the key of its 64 bytes, the hart and the entry (R151); a saved thread is known by its own number, past
1,000,000 (R153). -/
structure LatchReg where
  line  : Nat
  t     : Nat
  entry : Nat
  deriving DecidableEq, Repr

/-- A scratchpad mapping entry (R223): its two words, and while installed the physical page of each mapped page, the rotation part its
local offsets address (R165) and the context through whose handle it was installed (R225). -/
structure MapEnt where
  gaddr : Word
  word1 : Word
  pages : List Nat
  rn    : Nat
  ri    : Nat
  ctx   : Nat
  deriving DecidableEq, Repr

/-- The times of a C line at its home (R229). -/
structure LineT where
  wts : Nat
  rts : Nat
  ll  : Nat
  deriving DecidableEq, Repr

/-- What an LLC slice keeps (R231, R233): times given up by evicted lines, miss registers in use. -/
structure Slice where
  mwts   : Nat
  mrts   : Nat
  misses : List Nat
  deriving DecidableEq, Repr

/-- A node of the name tree (R83, R89, R93) with what its kind's creation fixed (R98). -/
structure Node where
  v      : Bool
  dead   : Bool
  kind   : Nat
  gen    : Nat
  limit  : Nat
  ptroot : Word
  owner  : Nat
  tenant : Nat
  part   : Nat
  made   : Word
  /-- queue number, engine hart, mount port and package, or media mark and next frame of the kind -/
  arg    : Nat
  arg2   : Nat
  deriving DecidableEq, Repr

/-- A binding of a directory (R91): name, node, ceiling. -/
structure Binding where
  name : List Byte
  node : Nat
  ceil : BitVec 5
  deriving DecidableEq, Repr

/-- Who waits for a revocation, closing, destruction or invalidation to end, or for a peer's answer: a fill node too (R111). -/
inductive Issuer where
  | thread (t : Nat)
  | host (fn : HostFn)
  | node (q slot : Nat)
  | none
  deriving DecidableEq, Repr

/-- What an invalidation under way is for (R96, R97, R99, R399). -/
inductive RevKind where
  | revoke (handle : Nat)
  | close (ring handle : Nat)
  | destroy
  | pages (page : Option Nat)
  deriving DecidableEq, Repr

/-- A revocation, closing, destruction or invalidation in progress (R96): the quadrants whose filters, acknowledgements and
retirement reports are still awaited. -/
structure Revoke where
  kind    : RevKind
  node    : Nat
  gen     : Nat
  issuer  : Issuer
  filters : List Nat
  acks    : List Nat
  retire  : List Nat
  deriving DecidableEq, Repr

/-- A transaction forwarded to a peer package (R95, R339): who waits, the keyring that gets the entry, the kind of transaction (32 WALK,
33 OPEN, 35 STAT, 36 REVOKE, 37 DUP), where it went and for whom, the local path's components before it, the STAT address and the mount's
node. -/
structure Forward where
  issuer : Issuer
  ring   : Nat
  kind   : Nat
  tag    : PeerTag
  base   : Nat
  stat   : Word
  node   : Nat
  deriving DecidableEq, Repr

/-- Pages of physical memory that a node holds (R98): first page, count, node. -/
structure Extent where
  page  : Nat
  count : Nat
  node  : Nat
  deriving DecidableEq, Repr

/-- A filter entry at the home units of a quadrant (R96): requests of the node below the generation are refused. -/
structure Filter where
  quadrant : Nat
  node     : Nat
  gen      : Nat
  rid      : Nat
  deriving DecidableEq, Repr

/-- A context (R100, R199, R400). -/
structure Ctx where
  live    : Bool
  part    : Nat
  tenant  : Nat
  wdog    : Nat
  events  : Word
  root    : Nat
  commpc  : Word
  dbgctl  : Word
  haltv   : Word
  flcnt   : Nat
  log     : Sp Word
  counts  : Sp Word
  deriving DecidableEq, Repr

/-- A partition record installed by the key core (R132). -/
structure Partition where
  v       : Bool
  tenants : List Nat
  rot     : Nat
  slice   : Nat
  qsp     : List Nat
  ports   : BitVec 16
  harts   : Word
  cores   : List Nat
  slices  : List Nat
  memory  : List (Nat × Nat)
  routes  : List (Nat × Nat)
  exports : Nat
  raw     : List Byte
  /-- the rotation tenant whose slice it is, and the cycle at which the slice began (R165) -/
  turn    : Nat
  began   : Nat
  deriving DecidableEq, Repr

/-- A graph queue (R105). -/
structure GQueue where
  v        : Bool
  node     : Nat
  owner    : Nat
  slots    : Nat
  ring     : Word
  head     : Nat
  tail     : Nat
  stopped  : Bool
  resident : Bool
  accept   : Nat
  skip     : Bool
  gang     : Nat
  graph    : Bool
  seqno    : Nat
  tumbler  : Nat
  ready    : List Nat
  deriving DecidableEq, Repr

/-- A decoded record (R107, R108). -/
structure Record where
  kind  : Nat
  ver   : Nat
  npred : Nat
  nsucc : Nat
  flags : Nat
  cont  : Nat
  succ  : List Nat
  doneA : Word
  doneV : Word
  body  : List Byte
  deriving DecidableEq, Repr

/-- A node fetched and not ended (R114): phase 1 waiting, 2 ready, 3 running. -/
structure GNode where
  rec_   : Record
  phase  : Nat
  began  : Nat
  /-- the launch dispatched, the word a gate watches, or the next operation of a bind-set -/
  launch : Nat
  /-- releases have passed NPRED while the node runs: it ends with EXCESS (R114) -/
  excess : Bool
  deriving DecidableEq, Repr

/-- A launch (R137 to R143, R169 to R181). -/
structure Launch where
  v        : Bool
  ctx      : Nat
  part     : Nat
  tenant   : Nat
  queue    : Nat
  slot     : Nat
  entry    : Word
  xs       : List Word
  nthr     : Nat
  /-- threads placed so far: the next pending thread's id -/
  next     : Nat
  live     : Nat
  /-- the id of the next spawned thread, from NTHR on (R143) -/
  ids      : Nat
  mode     : Nat
  steal    : Nat
  vwin     : Bool
  spsplit  : Nat
  cores    : List Nat
  trapped  : Bool
  /-- the segment map of a travelling launch: handle, offset, length, default live mask, choice, replicas less one, homes (R169) -/
  segs     : List (List Nat)
  /-- the code node whose segments are pinned and its generation at dispatch (R171, R183) -/
  code     : Nat
  codeGen  : Nat
  spill    : Word
  cap      : Nat
  maxtid   : Nat
  events   : Word
  deriving DecidableEq, Repr

/-- A stream endpoint of a member (R341 to R347): its send buffers, and for each landing slot the SEQ that fills it, whether a
re-stitched result does, its payload units and landing words so far. -/
structure Member where
  core   : Nat
  land   : Nat
  next   : Nat
  lcc    : Nat
  send   : List Chunk
  slots  : Sp (List Nat)
  rejoin : Bool
  deriving DecidableEq, Repr

/-- A stream entry of a router: the header's fields, the stream's node, and the four hinge-set words (R37, R38). -/
structure RouterEnt where
  v       : Bool
  part    : Nat
  stream  : Nat
  node    : Nat
  cur     : Nat
  nseq    : Nat
  failed  : Bool
  altUsed : Bool
  tmo     : Nat
  sets    : List Word
  deriving DecidableEq, Repr

/-- A collective stream (R37 to R47): stations are the nodes of its combine tree, or the members of its ring, each with input
buffers. -/
structure Stream where
  v        : Bool
  part     : Nat
  num      : Nat
  op       : Nat
  ring     : Bool
  dw       : Nat
  tmo      : Nat
  nland    : Nat
  slotsz   : Nat
  failed   : Bool
  frozen   : Bool
  restitched : Bool
  dead     : Option Nat
  resume   : Nat
  /-- survivors whose LCC is still awaited (R44) -/
  awaited  : List Nat
  members  : List Member
  /-- input buffers: station × 1024 + input ↦ chunks and markers waiting, oldest first -/
  bufs     : Sp (List Chunk)
  /-- running cycles for which an input has delivered nothing while another of its set holds a chunk waiting for it (R43) -/
  quiet    : Sp Nat
  /-- each station's router entry: router × 128 + entry (R37, R57) -/
  hosts    : Sp Nat
  /-- every router entry the stream has (R37, R342) -/
  entries  : List Nat
  /-- results that wait at the root, or at the members that complete them, for set 1, with the marker that steps to it (R40, R342, R345) -/
  held     : List Chunk
  /-- the ends of the global links that were down at creation, which its paths avoid (R26) -/
  avoid    : List (Nat × Nat)
  deriving DecidableEq, Repr

/-- A claimed media frame (R79 to R81): its RTP timestamp and alignment point, the deadline in PTP time and in GTIME, whether the servo has stayed locked
since the claim, the stream's format, ring and status area at the claim, the sequence numbers, byte runs of the slot, complete groups
and paths landed, and the PTP times of the first and last packet. -/
structure MFrame where
  node  : Nat
  frame : Nat
  rtpts : BitVec 32
  align : Nat
  dptp  : Nat
  dline : Nat
  lock  : Bool
  fmt   : Word
  ring  : Word
  stat  : Word
  seqs  : List Nat
  runs  : List (Nat × Nat)
  got   : List Nat
  paths : Sp Nat
  first : Word
  last  : Word
  /-- bytes of an ancillary frame's slot in use -/
  used  : Nat
  deriving DecidableEq, Repr

/-- The saved state of a gang in a save area, or of a context's threads whose slice has ended (R163, R166): the contexts, their threads
by hart, the cores, and what the switch drained. -/
structure Saved where
  v        : Bool
  part     : Nat
  ctxs     : List Nat
  threads  : Sp Thread
  cores    : Sp CoreSt
  splits   : Sp Nat
  journal  : Sp JEnt
  drained  : List Instr
  local_   : List Host.Cell
  localFe  : Sp Bool
  maps     : Sp MapEnt
  harts    : Sp (List (Nat × Nat × List Word))
  deriving DecidableEq, Repr

/-- An answer or message that leaves the package (R64, R67): to whom, the status, the result and the bytes. -/
structure HostReply where
  fn     : HostFn
  status : Nat
  value  : Word
  data   : List Byte
  deriving DecidableEq, Repr

/-- A port (R64 to R68, R72): 0 to 15 peer ports, 16 the host port, 17 and 18 the media ports; its lanes in use, good lanes, whether
it holds its traffic, for a lane's test or a retraining, and whether it retrains. -/
structure Port where
  up       : Bool
  gen      : Nat
  width    : Nat
  good     : Nat
  training : Bool
  retrain  : Bool
  /-- what waits to leave while the port retrains, oldest first (R68) -/
  held     : List HostReply
  deriving DecidableEq, Repr

/-- Package-wide state (R10 to R20, R31, R32, R73, R211). -/
structure Pkg where
  pkst      : Word
  powered   : Bool
  stage1    : Bool
  temp0     : Nat
  temp1     : Nat
  /-- frames in a row whose estimate was below 95% of the cap, 16 and above as 16 (R13) -/
  below95   : Nat
  /-- the number of the frame, by which its power estimate is known (R13; log 11) -/
  activity  : Nat
  /-- the cap in force, CAPW, and caps that apply in so many frame boundaries (R13, R130) -/
  cap       : Nat
  capw      : Nat
  capNext   : List (Nat × Nat)
  /-- the cycle plus one in which a frame boundary last set CAPHIT (R20) -/
  capSet    : Nat
  tds       : Sp Word
  tdsNow    : Sp Word
  tdctl     : Word
  linkDown  : List (Nat × Nat)
  /-- switch routes that are down, port and remote package (R71) -/
  routeDown : List (Nat × Nat)
  pod       : Nat
  ptpOff    : Word
  ptpTrim   : Word
  ptpLock   : Bool
  /-- the PTP domain of the media ports, the grandmasters seen on each by rank plus one, and the GTIME of the last steering (R72, R73) -/
  ptpDomain : Nat
  masters   : Sp Nat
  ptpAt     : Word
  fmtw      : Sp (List Word)
  deriving DecidableEq, Repr

/-- A firmware core: its private SRAM, its pc and scalar registers, and the causes for which it is awake, each with its cycle (R123, R125,
R133). -/
structure FwCore where
  sram   : Sp Byte
  pc     : Word
  x      : Sp Word
  causes : List (FwWake × Nat)
  deriving DecidableEq, Repr

/-- The firmware complex and its mailbox (R123 to R135). -/
structure Fw where
  hmotail  : Nat
  hmohead  : Nat
  hmitail  : Nat
  hmihead  : Nat
  outRing  : Sp (List Byte)
  inRing   : Sp Byte
  stage    : Sp Byte
  waitOut  : List (List Byte)
  slotImg0 : Sp Byte
  slotImg1 : Sp Byte
  running  : Nat
  minSec   : Nat
  updst    : Word
  phase    : Nat
  started  : Nat
  rolled   : Bool
  /-- wakes that wait for a live update to end: the queue, and whether the wake goes to the host (R133) -/
  held     : List (Nat × Bool)
  /-- the SPDM request being collected, and the messages exchanged since GET_VERSION (R127) -/
  spdm     : List Byte
  spdmLog  : List Byte
  /-- the handover structure of the update in progress (R134) -/
  handover : List Byte
  /-- master GTIME as that update quiesced -/
  quiesced : Word
  /-- NODEREQ messages that wait for a node record, each with the node (R89, R131) -/
  waitReq  : List (Nat × List Byte)
  /-- the policy core 0, the packet cores 1 to 6, the key core 7 (R123) -/
  cores    : Sp FwCore
  /-- the policy image has stopped for a hand-over (R133) -/
  stopped  : Bool
  /-- the timestamps set in the timestamp unit (R125) -/
  stamps   : List Word
  duty     : Word
  deriving DecidableEq, Repr

/-- Virtual functions (R121, R122) and the registers of R100 and R400. -/
structure Vf where
  vfen    : Word
  vfstat  : Word
  disable : Option Word
  acting  : Sp Nat
  ccparam : Word
  ccevent : Word
  ccres   : Word
  ctxsel  : Word
  deriving DecidableEq, Repr

/-- Gang registers of a partition (R161), and the cycle of the frame boundary that stands for a T passed when ARM was set, or 0. -/
structure Gang where
  gstime : Word
  gsctl  : Word
  late   : Nat
  deriving DecidableEq, Repr

/-- An error under test or in the log (R136): the unit, or the port of a lane; the row or lane; whether it was corrected. -/
structure ErrRec where
  unit  : Nat
  row   : Nat
  lane  : Bool
  fixed : Bool
  /-- 0 under test, 1 transient, 2 spared, 3 retired, 4 poisoned, 5 under test after a second error -/
  state : Nat
  time  : Word
  /-- the host is still to be sent the record (R135) -/
  due   : Bool
  /-- the cycle of the error, and the words written whole since one that was not corrected (R136) -/
  at_   : Nat
  clean : List Nat
  /-- TRIAGE as the test ended (R129) -/
  triage : Bool
  deriving DecidableEq, Repr

/-- A host-assisted miss (R89): node, the cycle it was raised, and what waits for it of the host, peers and agents, each with the component
of its path at which it waits. -/
structure Miss where
  node  : Nat
  since : Nat
  held  : List (Nat × Instr)
  /-- its MISS message has been sent -/
  sent  : Bool
  deriving DecidableEq, Repr

/-- A descriptor's words, 24 of 8 bytes (R380). -/
abbrev Desc := List Word

/-- A matrix operation under way: its hart and that hart's thread, descriptor address, program, descriptor, rows written, arrival actions
made and flags (R383). -/
structure MmRun where
  t     : Nat
  uid   : Nat
  p     : Word
  prog  : Word
  d     : Desc
  rows  : Nat
  arr   : Nat
  flags : BitVec 5
  /-- the fault at which the operation ends next (R254) -/
  fault : Option TrapInfo
  deriving DecidableEq, Repr

/-- The whole machine. -/
structure State where
  cycle     : Nat
  /-- cores, and engine harts counted as cores, that have issued in this cycle (R154) -/
  issued    : List Nat
  me        : Nat
  freeCount : Nat
  uids      : Nat
  turns     : List Turn
  pending   : List Instr
  out       : List HostReply
  pkg       : Pkg
  ports     : Sp Port
  parts     : Sp Partition
  ctxs      : Sp Ctx
  nodes     : Sp Node
  binds     : Sp (List Binding)
  keys      : Sp KeyEntry
  /-- the node records in the name engines' caches, four words each (R89) -/
  nodeCache : Sp (List Word)
  missing   : List Miss
  /-- nodes whose miss the host did not answer in time, for the accesses of agents that have still to fail (R89) -/
  timedOut  : List Nat
  filters   : List Filter
  revokes   : Sp Revoke
  forwards  : List Forward
  alloc     : List Extent
  mem       : List Host.Cell
  fe        : Sp Bool
  resv      : Sp Resv
  waits     : Sp (List WaitEnt)
  latches   : List LatchReg
  maps      : Sp MapEnt
  lines     : Sp LineT
  slices    : Sp Slice
  /-- the C lines of each quadrant's L2, by quadrant × 2^42 + line (R232) -/
  l2        : Sp CachedLine
  /-- the latest logical time of a store, or of an access that no lease orders, of any agent (R237; log 9) -/
  seen      : Nat
  powner    : Sp Nat
  threads   : Sp Thread
  cores     : Sp CoreSt
  journal   : Sp JEnt
  splits    : Sp Nat
  mmq       : Sp (List (Nat × Word × Word))
  /-- the operation each cluster's matrix engine runs (R385) -/
  mmrun     : Sp (Option MmRun)
  queues    : Sp GQueue
  /-- each tumbler's resident slot of the last fetch, plus one (R114) -/
  fetched   : Sp Nat
  gnodes    : Sp GNode
  launches  : Sp Launch
  streams   : Sp Stream
  routers   : Sp RouterEnt
  media     : List MFrame
  saves     : Sp Saved
  gangs     : Sp Gang
  harts     : Sp (List (Nat × Nat × List Word))
  fw        : Fw
  vf        : Vf
  errors    : List ErrRec
  deriving DecidableEq, Repr

/-- A keyring entry never allocated (R86). -/
def KeyEntry.free : KeyEntry := ⟨0, 0, 0, 0, 0, false, false, 0, 0, 0, 0, 0⟩

/-- A thread slot after reset: no thread, every register zero (R15 stage 4). -/
def Thread.reset : Thread :=
  ⟨0, 0, 0, 0, 0, 0, 0, [], [], [], [], [], [], 0, 0, 0, 0, 0, 0, 0, false, 0, [], .run, 0, none, 0, [], [], 0, [], none, 0, 0, 0, false, 0, 0, 0, 0, none, [], []⟩

/-- A core after reset. -/
def CoreSt.reset : CoreSt := ⟨0, [], [], [], [], none, [], [], [], [], [], [], [], [], 0, [], [], []⟩

/-- A node number that names no node. -/
def Node.none : Node := ⟨false, false, 0, 0, 0, 0, 0, 0, 0, 0, 0, 0⟩

/-- A context's empty private root directory (R100). -/
def Node.root (ctx : Nat) : Node := { Node.none with v := true, gen := 1, owner := ctx }

/-- A context id not in use. -/
def Ctx.none : Ctx := ⟨false, 0, 0, 32, 0, 0, 0, 0, 0, 0, [], []⟩

/-- A partition with no record installed. -/
def Partition.none : Partition := ⟨false, [], 0, 0, [], 0, 0, [], [], [], [], 0, [], 0, 0⟩

/-- A journal entry that is not live. -/
def JEnt.free : JEnt := ⟨8, 0, 0, 0, 0, 0, 0, false, 0, 0, 0, 0, 0, 0, 0, 0, 0, 0, 0, 0, false, none, 0, 0, 0, 0⟩

/-- A word no thread reserves (R315). -/
def Resv.free : Resv := ⟨none, false, none, []⟩

/-- A mapping entry with V = 0 (R223). -/
def MapEnt.reset : MapEnt := ⟨0, 0, [], 1, 0, 0⟩

/-- A C line that has not been accessed: LL is 8 (R231); the times are 0 (log 9). -/
def LineT.reset : LineT := ⟨0, 0, 8⟩

/-- A line that no cache holds. -/
def CachedLine.none : CachedLine := ⟨0, 0, []⟩

/-- An LLC slice after reset. -/
def Slice.reset : Slice := ⟨0, 0, []⟩

/-- A queue number not in use. -/
def GQueue.none : GQueue := ⟨false, 0, 0, 0, 0, 0, 0, false, false, 0, false, 0, false, 0, 0, []⟩

/-- A record slot that holds no fetched node. -/
def GNode.none : GNode := ⟨⟨0, 0, 0, 0, 0, 0, [], 0, 0, []⟩, 0, 0, 0, false⟩

/-- A launch number not in use. -/
def Launch.none : Launch := ⟨false, 0, 0, 0, 0, 0, 0, [], 0, 0, 0, 0, 0, 0, false, 0, [], false, [], 0, 0, 0, 0, 0, 0⟩

/-- A stream node whose stream is not live. -/
def Stream.idle : Stream := ⟨false, 0, 0, 0, false, 0, 0, 0, 0, false, false, false, none, 0, [], [], [], [], [], [], [], []⟩

/-- A router entry that is not valid (R37, R38). -/
def RouterEnt.free : RouterEnt := ⟨false, 0, 0, 0, 0, 0, false, false, 8, [0, 0, 0, 0]⟩

/-- An empty save area. -/
def Saved.none : Saved := ⟨false, 0, [], [], [], [], [], [], [], [], [], []⟩

/-- A port before training (R15): no lanes in use; generation 3 (log 4). -/
def Port.reset : Port := ⟨false, 3, 0, 0, false, false, []⟩

/-- The gang registers after reset (R161). -/
def Gang.reset : Gang := ⟨0, 0, 0⟩

/-- No revocation. -/
def Revoke.none : Revoke := ⟨.destroy, 0, 0, .none, [], [], []⟩

/-- The package registers after reset (R19, R31, R32, R13). -/
def Pkg.reset : Pkg :=
  { pkst := 0x0008000000000010, powered := true, stage1 := false, temp0 := 0, temp1 := 0, below95 := 0, activity := 0, cap := 3200,
    capw := 0xC80, capNext := [], capSet := 0, tds := [], tdsNow := [], tdctl := 6, linkDown := [], routeDown := [], pod := 0, ptpOff := 0, ptpTrim := 0,
    ptpLock := false, ptpDomain := 127, masters := [], ptpAt := 0, fmtw := [] }

/-- A firmware core asleep, its SRAM zero (R125; log 8). -/
def FwCore.reset : FwCore := ⟨[], 0, [], []⟩

/-- The firmware complex after reset: UPDST and DUTYMODE zero (R128, R135); the rest log 8. -/
def Fw.reset : Fw :=
  { hmotail := 0, hmohead := 0, hmitail := 0, hmihead := 0, outRing := [], inRing := [], stage := [], waitOut := [], slotImg0 := [],
    slotImg1 := [], running := 0, minSec := 0, updst := 0, phase := 0, started := 0, rolled := false, held := [], spdm := [],
    spdmLog := [], handover := [], quiesced := 0, waitReq := [], cores := [], stopped := false, stamps := [], duty := 0 }

/-- The virtual-function registers after reset (R121, R400; log 7). -/
def Vf.reset : Vf := ⟨0, 0, none, [], 0, 0, 0, 0⟩

/-- The machine after reset: bring-up stage 1 in progress, every array zero, every list empty (R15, R19). -/
def State.reset : State :=
  { cycle := 0, issued := [], me := 0, freeCount := 0, uids := 1, turns := [], pending := [], out := [], pkg := Pkg.reset, ports := [],
    parts := [], ctxs := [], nodes := [], binds := [],
    keys := [], nodeCache := [], missing := [], timedOut := [], filters := [], revokes := [], forwards := [], alloc := [], mem := [], fe := [], resv := [], waits := [],
    latches := [], maps := [], lines := [], slices := [], l2 := [], seen := 0, powner := [], threads := [], cores := [], journal := [], splits := [],
    mmq := [], mmrun := [], queues := [], fetched := [], gnodes := [], launches := [], streams := [], routers := [], media := [], saves := [], gangs := [], harts := [],
    fw := Fw.reset, vf := Vf.reset, errors := [] }

end Sys2Proof.Machine
end

