-- ==== Sys2Proof/Machine/Ops.lean ====
section
/-! DEFINITION. The named operations over harts, registers, control flow and traps: reading and writing registers with the queue
registers of slot 0, retiring an instruction, taken transfers, taking an exception and returning from one. -/

namespace Sys2Proof.Machine

/-- The outcome of a step. -/
abbrev Out := Host.Outcome State Fault Refusal

/-- The first engine hart's number: harts follow the 16,384 hardware threads (log 1). -/
def hart0 : Nat := 16384

/-- The hart is an engine hart (R401). -/
def isHart (t : Nat) : Bool := decide (hart0 ≤ t)

/-- The core of a hardware thread; an engine hart counts as a core of its own after the 1,024 (R154). -/
def coreOf (t : Nat) : Nat := if t < hart0 then t / 16 else 1024 + (t - hart0)

/-- The slot of a hardware thread (R154). -/
def slotOf (t : Nat) : Nat := if t < hart0 then t % 16 else 0

/-- The cluster of a hardware thread (R1). -/
def clusterOf (t : Nat) : Nat := coreOf t / 8

/-- The quadrant of a hart (R1, R22). -/
def quadOf (t : Nat) : Nat := if t < hart0 then t / 1024 else (t - hart0) / 4

/-- The die of a quadrant (R9). -/
def dieOf (q : Nat) : Nat := q / 8

/-- The state of a hart. -/
def getTh (s : State) (t : Nat) : Thread := spGet Thread.reset s.threads t

/-- Replaces the state of a hart. -/
def setTh (s : State) (t : Nat) (th : Thread) : State := { s with threads := spSet Thread.reset s.threads t th }

/-- Changes the state of a hart. -/
def modTh (s : State) (t : Nat) (f : Thread → Thread) : State := setTh s t (f (getTh s t))

/-- The hart that is issuing. -/
def cur (s : State) : Thread := getTh s s.me

/-- A core's own state. -/
def getCore (s : State) (c : Nat) : CoreSt := spGet CoreSt.reset s.cores c

/-- Replaces a core's own state. -/
def setCore (s : State) (c : Nat) (v : CoreSt) : State := { s with cores := spSet CoreSt.reset s.cores c v }

/-- Changes a core's own state. -/
def modCore (s : State) (c : Nat) (f : CoreSt → CoreSt) : State := setCore s c (f (getCore s c))

/-- A context. -/
def getCtx (s : State) (c : Nat) : Ctx := spGet Ctx.none s.ctxs c

/-- Changes a context. -/
def modCtx (s : State) (c : Nat) (f : Ctx → Ctx) : State := { s with ctxs := spSet Ctx.none s.ctxs c (f (getCtx s c)) }

/-- A partition's record. -/
def getPart (s : State) (p : Nat) : Partition := spGet Partition.none s.parts p

/-- Changes a partition's record. -/
def modPart (s : State) (p : Nat) (f : Partition → Partition) : State :=
  { s with parts := spSet Partition.none s.parts p (f (getPart s p)) }

/-- A launch. -/
def getLaunch (s : State) (l : Nat) : Launch := spGet Launch.none s.launches l

/-- Changes a launch. -/
def modLaunch (s : State) (l : Nat) (f : Launch → Launch) : State :=
  { s with launches := spSet Launch.none s.launches l (f (getLaunch s l)) }

/-- An event is under way: it takes place by a later turn. -/
def push (e : Instr) (s : State) : State := { s with pending := s.pending ++ [e] }

/-- Adds an event that is not under way already. -/
def pushOnce (e : Instr) (s : State) : State := if s.pending.contains e then s else push e s

/-- The next free value and the state that has used it (log 11). -/
def takeFree (s : State) : Word × State := (Config.freeWord s.freeCount, { s with freeCount := s.freeCount + 1 })

/-- Master GTIME: one count for every 3.3 core cycles since bring-up stage 1 ended (R10, R12). -/
def gtime (s : State) : Word := if s.pkg.stage1 then w64 (s.cycle * 10 / 33) else 0

/-- GTIME as a hart reads it: die 1 may run one count ahead of the master, and a thread never reads less than it has read before (R12). -/
def gtimeAt (s : State) (t : Nat) : Word :=
  let g := if dieOf (quadOf t) = 1 ∧ Config.die1Ahead (gtime s).toNat = true then gtime s + 1 else gtime s
  if g.toNat < (getTh s t).gread.toNat then (getTh s t).gread else g

/-- The thread has read GTIME (R12). -/
def noteGtime (t : Nat) (s : State) : State := modTh s t fun th => { th with gread := gtimeAt s t }

/-- The hart holds a thread. -/
def liveTh (th : Thread) : Bool := th.uid != 0

/-- The slot is empty and granted to no reservation (R138, R140). -/
def freeSlot (s : State) (c n : Nat) : Bool :=
  !liveTh (getTh s (16 * c + n)) && !(getCore s c).granted.contains n

/-- The lowest-numbered free slot of a core other than slot 0 (R138). -/
def lowestFree (s : State) (c : Nat) : Option Nat := ((upTo 15).map (· + 1)).find? (freeSlot s c)

/-! ### Status fields (R193) -/

/-- The trap level. -/
def tl (th : Thread) : Bool := bit th.thst 0

/-- The thread's mode: 0 ordinary, 1 migrating, 2 travelling. -/
def modeOf (th : Thread) : Nat := bits th.thst 2 1

/-- FRM. -/
def frmOf (th : Thread) : BitVec 3 := th.thst.extractLsb' 3 3

/-- ORs flags NV, DZ, OF, UF, NX (bits 0 to 4) into THST[10:6]. -/
def orFlags (th : Thread) (f : BitVec 5) : Thread :=
  { th with thst := th.thst ||| ((f.setWidth 64) <<< 6) }

/-! ### Counters (R168, R199) -/

/-- Adds to every counter of the thread whose EVENT is the code. -/
def countEv (code n : Nat) (th : Thread) : Thread :=
  { th with pcnt := th.pcnt.map fun e =>
      if e.2.toNat / 2 ^ 56 = code then
        (e.1, w64 (e.2.toNat / 2 ^ 48 * 2 ^ 48 + (e.2.toNat % 2 ^ 48 + n) % 2 ^ 48)) else e }

/-- The counter selects misses or accesses of the caches, whose contents the spec does not fix (R168, R232; log 24). -/
def cacheCount (w : Word) : Bool := decide (5 ≤ w.toNat / 2 ^ 56) && decide (w.toNat / 2 ^ 56 ≤ 7)

/-- A counter as it is observed: a count of cache events is a free value (log 24). -/
def seenCount (s : State) (w : Word) : Word := if cacheCount w then w64 (w.toNat / 2 ^ 56 * 2 ^ 56 + bits (Config.freeWord s.freeCount) 47 0) else w

/-- The free value of an observation has been used (log 11). -/
def freeUsed (used : Bool) (s : State) : State := if used then { s with freeCount := s.freeCount + 1 } else s

/-- An instruction issued is counted; an engine hart counts nothing (R168, R402). -/
def countIssue (t : Nat) (th : Thread) : Thread := if isHart t then th else countEv 1 1 th

/-! ### Registers (R186) -/

/-- A scalar register's value: x0 reads zero. -/
def xr (th : Thread) (r : Reg) : Word := if r = 0 then 0 else spGet 0 th.x r.toNat

/-- Writes a scalar register: x0 discards. -/
def xw (th : Thread) (r : Reg) (v : Word) : Thread := if r = 0 then th else { th with x := spSet 0 th.x r.toNat v }

/-- The register is a queue register of the hart: x8 to x11 in slot 0 (R186). -/
def isQ (t : Nat) (r : Reg) : Bool := decide (t < hart0) && slotOf t == 0 && decide (8 ≤ r.toNat) && decide (r.toNat ≤ 11)

/-- A core's inbound queue of a queue register (R159). -/
def inq (s : State) (t : Nat) (r : Reg) : List Word := spGet [] (getCore s (coreOf t)).inq (r.toNat - 8)

/-- A core's outbound queue of a queue register (R159). -/
def outq (s : State) (t : Nat) (r : Reg) : List Word := spGet [] (getCore s (coreOf t)).outq (r.toNat - 8)

/-- Writes register d of a hart; a queue register enqueues its value on the outbound queue (R159, R186). -/
def wr (t : Nat) (d : Reg) (v : Word) (s : State) : State :=
  if isQ t d then
    modCore s (coreOf t) fun c => { c with outq := spSet [] c.outq (d.toNat - 8) (spGet [] c.outq (d.toNat - 8) ++ [v]) }
  else modTh s t fun th => xw th d v

/-- Takes the head word of a queue register into the thread, where this instruction's operands read it (R186). -/
def deq (t : Nat) (s : State) (r : Reg) : State :=
  match inq s t r with
  | [] => s
  | w :: ws =>
    modTh (modCore s (coreOf t) fun c => { c with inq := spSet [] c.inq (r.toNat - 8) ws }) t fun th => xw th r w

/-- Parks the issuing thread: its wait starts, its pc stays. A wait it is already in goes on counting. -/
def park (w : Wait) (s : State) : State :=
  modTh s s.me fun th => { th with wait := w, wcount := if th.wait = w then th.wcount else 0 }

/-- The queue registers among the sources, each once (R186). -/
def qsources (t : Nat) (srcs : List Reg) : List Reg := (srcs.filter (isQ t)).eraseDups

/-- A late result for a queue register has returned and has still to be enqueued (R186). -/
def lateDue (s : State) (t : Nat) (r : Reg) : Bool := isQ t r && (getTh s t).late.any fun l => l.done && l.d == r

/-- The queue register the instruction must wait for, and whether to read it: an empty source, a full destination after it has dequeued, or
either while a returned late result for it is held (R158, R186). -/
def qblock (s : State) (srcs dst : List Reg) : Option (Reg × Bool) :=
  match (qsources s.me srcs).find? fun r => (inq s s.me r).isEmpty || lateDue s s.me r with
  | some r => some (r, true)
  | none => (dst.find? fun r => isQ s.me r && (decide (8 ≤ (outq s s.me r).length) || lateDue s s.me r)).map fun r => (r, false)

/-- Reads the sources of an instruction, then acts: dequeues each queue register once, or parks in the queue-register wait
(R158, R186). dst lists a destination written at issue. -/
def withRegs (srcs dst : List Reg) (s : State) (act : State → Out) : Out :=
  match qblock s srcs dst with
  | some (r, rd) => .next (park (.queueReg r rd) s)
  | none => act ((qsources s.me srcs).foldl (deq s.me) s)

/-! ### Taking an exception (R194, R246 to R249) -/

/-- TCAUSE of a trap (R195). -/
def causeWord (i : TrapInfo) (async : Bool) (jidx : Nat) (pjwf : Bool) : Word :=
  w64 (i.cause % 256 + i.reason % 256 * 256 + (if async then 65536 else 0) + jidx % 32 * 2 ^ 17 + (if pjwf then 2 ^ 22 else 0))

/-- THST at trap entry: SAVED takes the status, TL becomes 1, FRM and the flags clear, MODE is unchanged (R194). -/
def entryStatus (thst : Word) : Word :=
  w64 (thst.toNat % 65536 * 65536 + bits thst 2 1 * 2 + 1)

/-- A segment of a travelling launch: handle, offset, length, default live mask, choice, replicas less one, homes (R169). -/
def segInside (seg : List Nat) (a : Word) : Bool :=
  decide (hdl a = seg.getD 0 0) && decide (seg.getD 1 0 ≤ off a) && decide (off a < seg.getD 1 0 + seg.getD 2 0)

/-- The segment pinned on the hart's core, if any (R171). -/
def pinned (s : State) (t : Nat) : Option (List Nat) :=
  match (getCore s (coreOf t)).segment with
  | some (l, i, _) => (getLaunch s l).segs[i]?
  | none => none

/-- The thread travels: mode 2 (R193). -/
def travels (th : Thread) : Bool := modeOf th == 2

/-- The address lies outside the segment of a travelling thread's core (R172). -/
def leaves (s : State) (t : Nat) (a : Word) : Bool :=
  travels (getTh s t) && !(match pinned s t with | some g => segInside g a | none => false)

/-- The segment of the thread's launch that holds an address (R169). -/
def segOf (s : State) (t : Nat) (a : Word) : Option (List Nat) := (getLaunch s (getTh s t).launch).segs.find? (segInside · a)

/-- The loop stack holds a level in use (R190). -/
def loopUsed (th : Thread) : Bool := (upTo 4).any fun n => bit (spGet 0 th.lstk (2 * n + 1)) 0

/-- A queue entry that captures becomes the repetition of the commands captured (R372). -/
def VEntry.close (cmds : List VCmd) (e : VEntry) : VEntry := match e with | .capturing n => .rep cmds n 0 | e => e

/-- Ends a capture in progress: the commands captured so far are the repetition that its rep has queued in the slot queue (R372). -/
def closeCapture (th : Thread) : Thread :=
  match th.capture with
  | none => th
  | some c => { th with capture := none, vq := th.vq.map fun e => (e.1, e.2.close c.cmds) }

/-- Entries of a core's vector queue are executed by their own events (R353, R372). -/
def entryEvent (c : Nat) : VEntry → Instr
  | .cmd _ => .vectorCommandExec c
  | .capturing _ => .repSequenceStart c
  | .rep _ _ _ => .repSequenceStart c
  | .ended _ _ _ => .vectorCommandRetire c

/-- The slot of the core whose queue head was issued first (R353). -/
def oldestSlot (s : State) (c : Nat) : Option Nat :=
  (upTo 16).foldl (init := none) fun best n =>
    match (getTh s (16 * c + n)).vq, best with
    | [], b => b
    | _ :: _, none => some n
    | (o, _) :: _, some m =>
      match (getTh s (16 * c + m)).vq with
      | (p, _) :: _ => if o < p then some n else some m
      | [] => some n

/-- Moves commands from the slot queues into the core's 32-entry queue, in the order they issued (R353). -/
def feedVector (c : Nat) : Nat → State → State
  | 0, s => s
  | fuel + 1, s =>
    if (getCore s c).vqueue.length < 32 then
      match oldestSlot s c with
      | none => s
      | some n =>
        match (getTh s (16 * c + n)).vq with
        | [] => s
        | (_, e) :: rest =>
          feedVector c fuel (push (entryEvent c e)
            (modCore (modTh s (16 * c + n) fun th => { th with vq := rest, vout := th.vout + 1 }) c fun k =>
              { k with vqueue := k.vqueue ++ [(16 * c + n, e)] }))
    else s

/-- Ends the hart's capture, in its slot queue or in its core's (R372). -/
def endCapture (t : Nat) (s : State) : State :=
  match (getTh s t).capture with
  | none => s
  | some c =>
    modCore (modTh s t closeCapture) (coreOf t) fun k =>
      { k with vqueue := k.vqueue.map fun e => (e.1, if e.1 = t then e.2.close c.cmds else e.2) }

/-- The thread leaves for another core once its results and posted operations are done (R173): its departure event is under way. -/
def departTo (t : Nat) (target : Word) (live : BitVec 15) (s : State) : State :=
  push (.travelDeparture t) (endCapture t (modTh s t fun th => { th with wait := .settle (.depart target live), pc := target, wcount := 0 }))

/-- The default live mask of the segment that holds an address (R175). -/
def defLive (s : State) (t : Nat) (a : Word) : BitVec 15 :=
  match segOf s t a with
  | some g => BitVec.ofNat 15 (g.getD 3 0)
  | none => 0

/-- A trap is unhandled (R249): no handler, a trap at level 1, or a travelling thread whose handler it cannot depart to (R174). -/
def unhandled (s : State) (t : Nat) : Bool :=
  let th := getTh s t
  tl th || bits th.tvec 63 2 == 0
    || (leaves s t th.tvec && (loopUsed th || th.hold.isSome || (segOf s t th.tvec).isNone))

/-- Takes a trap (R194, R249): TEPC, TCAUSE and TVAL are written, THST saved and changed, and the pc goes to TVEC; an unhandled
trap ends the thread with a fault record once it has waited as at a marker park. -/
def enterTrap (t : Nat) (i : TrapInfo) (async : Bool) (jidx : Nat) (pjwf : Bool) (epc : Word) (s : State) : State :=
  let th := getTh s t
  let cw := causeWord i async jidx pjwf
  if unhandled s t then
    endCapture t (modTh s t fun th =>
      { th with wait := .settle (.dead epc cw i.tval (entryStatus th.thst)), wcount := 0 })
  else
    let s1 := endCapture t (modTh s t fun th =>
      { th with tepc := epc, tcause := cw, tval := i.tval, thst := entryStatus th.thst, wait := .run, wcount := 0, pc := th.tvec })
    if leaves s t th.tvec then departTo t th.tvec (BitVec.allOnes 15) s1 else s1

/-- The issuing thread takes an exact trap at its instruction (R247). -/
def trapHere (cause reason : Nat) (tval : Word) (s : State) : Out :=
  .next (enterTrap s.me ⟨cause, reason, tval⟩ false 0 false (cur s).pc s)

/-- The illegal-instruction trap of a base word (R246, R272). -/
def illegal (base : BitVec 32) (s : State) : Out := trapHere 1 0 (base.setWidth 64) s

/-- A refused access is recorded: its trap is taken when every late result has returned (R247). -/
def refuse (t : Nat) (pc : Word) (seq : Nat) (i : TrapInfo) (s : State) : State :=
  modTh s t fun th => { th with refused := th.refused ++ [⟨pc, seq, i⟩] }

/-- The first refused access in program order (R247). -/
def firstRefused : List Returned → Option Returned
  | [] => none
  | r :: rs =>
    match firstRefused rs with
    | some r' => if r'.seq < r.seq then some r' else some r
    | none => some r

/-- Takes the returned trap of the first refused access; the faults of the rest are discarded (R247). -/
def takeReturned (t : Nat) (r : Returned) (s : State) : State :=
  enterTrap t r.info false 0 false r.pc (modTh s t fun th => { th with refused := [], taken := [] })

/-! ### Flow of control -/

/-- Pops level 0 of the loop stack (R305). -/
def popLoop (th : Thread) : Thread :=
  let g := fun n => spGet 0 th.lstk n
  { th with lstk := ((((((((([] : Sp Word) |> fun m => spSet 0 m 0 (g 2)) |> fun m => spSet 0 m 1 (g 3)) |> fun m => spSet 0 m 2 (g 4))
      |> fun m => spSet 0 m 3 (g 5)) |> fun m => spSet 0 m 4 (g 6)) |> fun m => spSet 0 m 5 (g 7)) |> fun m => spSet 0 m 6 (g 6))
      |> fun m => spSet 0 m 7 (setBit (g 7) 0 false)) }

/-- Pushes a loop level; a push onto a full stack discards the old level 3 (R304). -/
def pushLoop (start word1 : Word) (th : Thread) : Thread :=
  let g := fun n => spGet 0 th.lstk n
  { th with lstk := (((((((([] : Sp Word) |> fun m => spSet 0 m 0 start) |> fun m => spSet 0 m 1 word1) |> fun m => spSet 0 m 2 (g 0))
      |> fun m => spSet 0 m 3 (g 1)) |> fun m => spSet 0 m 4 (g 2)) |> fun m => spSet 0 m 5 (g 3)) |> fun m => spSet 0 m 6 (g 4))
      |> fun m => spSet 0 m 7 (g 5) }

/-- Level 0 is in use (R190). -/
def loop0 (th : Thread) : Bool := bit (spGet 0 th.lstk 1) 0

/-- START of level 0. -/
def loopStart (th : Thread) : Word := spGet 0 th.lstk 0

/-- END of level 0: START + 4 × DIST in the offset alone (R190). -/
def loopEnd (th : Thread) : Word := offWrap (loopStart th) (4 * Int.ofNat (bits (spGet 0 th.lstk 1) 31 2))

/-- An address lies in level 0's range (R305, R306). -/
def inLoop (th : Thread) (a : Word) : Bool :=
  decide (hdl a = hdl (loopStart th)) && decide (off (loopStart th) ≤ off a)
    && decide (off a < off (loopStart th) + 4 * bits (spGet 0 th.lstk 1) 31 2)

/-- Loop-end matching at the completion of an instruction at own with next sequential address next (R305). -/
def loopMatch (own next : Word) : Nat → Thread → Thread × Word
  | 0, th => (th, next)
  | fuel + 1, th =>
    if loop0 th && inLoop th own && next == loopEnd th then
      let w := spGet 0 th.lstk 1
      if bits w 63 32 > 1 then
        ({ th with lstk := spSet 0 th.lstk 1 (setBits w 63 32 (bits w 63 32 - 1)) }, loopStart th)
      else loopMatch own next fuel (popLoop th)
    else (th, next)

/-- Pops for a taken branch, j or jr from own to target (R306). -/
def loopExits (own target : Word) : Nat → Thread → Thread
  | 0, th => th
  | fuel + 1, th =>
    if loop0 th && inLoop th own && !inLoop th target then loopExits own target fuel (popLoop th) else th

/-- The travel fault of a transfer that would depart (R174): LOOPSTK, NOSEG or RSVHELD. -/
def travelFault (s : State) (t : Nat) (target : Word) : Option Nat :=
  let th := getTh s t
  if loopUsed th then some 1 else if (segOf s t target).isNone then some 3 else if th.hold.isSome then some 4 else none

/-- A wait of R158 in which an instruction parks: that is its course, to which S adds no wait (R259). -/
def parked (w : Wait) : Bool :=
  match w with
  | .run => false
  | .marker => false
  | .missed _ => false
  | .slotReply _ => false
  | _ => true

/-- S = 1 holds the thread after its instruction until every late result has returned; one that has parked waits on only for a result of its own
(R157, R259; log 40). -/
def marks (w : Wait) (th : Thread) : Bool := !th.late.isEmpty && (!parked w || th.late.any (·.seq == th.seq))

/-- The issuing thread's instruction, begun in s0 and otherwise done in s, passes control to target: within the segment the pc
changes; outside it the thread departs, or takes the travel fault with no effect of the instruction (R172 to R175). With S = 1 it then
waits for its late results (R157). -/
def flow (s0 : State) (target : Word) (live : Option (BitVec 15)) (q : Bool) (s : State) : State :=
  let t := s.me
  if leaves s t target then
    match travelFault s t target with
    | some r => enterTrap t ⟨4, r, target⟩ false 0 false (getTh s0 t).pc s0
    | none =>
      departTo t target (live.getD (defLive s t target)) (modTh s t fun th => { th with seq := th.seq + 1, wcount := 0 })
  else
    modTh s t fun th =>
      { th with pc := target, seq := th.seq + 1, wcount := 0, wait := if q && marks (getTh s0 t).wait th then .marker else .run }

/-- Where control goes after an instruction of a length at own that takes no transfer, and the thread with its loop level stepped: past its
words, or back at a loop end, which trap level 1 does not match (R258, R305). -/
def seqNext (own : Word) (len : Nat) (th : Thread) : Thread × Word :=
  if tl th then (th, offWrap own len) else loopMatch own (offWrap own len) 5 th

/-- The instruction of the issuing thread completes without a taken transfer: the pc moves past its words, a loop end branches
back, and S = 1 parks the thread until its late results return; a travel live mask of its E word goes with a departure
(R157, R175, R258, R305). -/
def retireLive (s0 : State) (len : Nat) (live : Option (BitVec 15)) (q : Bool) (s : State) : State :=
  let n := seqNext (getTh s0 s.me).pc len (getTh s s.me)
  flow s0 n.2 live q (setTh s s.me n.1)

/-- The travel live mask of an instruction of a length that accepts none: 0 in its E word, where it has one (R175, R267; log 72). -/
def seqLive (len : Nat) : Option (BitVec 15) := if len = 12 ∨ len = 20 then some 0 else none

/-- As retireLive for a scalar instruction that accepts no travel live mask and has no literal without an E word. -/
def retire (s0 : State) (len : Nat) (q : Bool) (s : State) : State := retireLive s0 len (seqLive len) q s

/-- The travel fault of going on past the issuing thread's instruction, with its target (R174). -/
def seqFault (s : State) (len : Nat) : Option (Nat × Word) :=
  let n := seqNext (cur s).pc len (cur s)
  if leaves s s.me n.2 then (travelFault (setTh s s.me n.1) s.me n.2).map fun r => (r, n.2) else none

/-- An instruction that completes by a later event has no effect where going on past it is a travel fault (R174). -/
def unlessFault (s0 : State) (len : Nat) (o : Out) : Out :=
  match seqFault s0 len with
  | some (r, a) => trapHere 4 r a s0
  | none => o

/-- A transfer of the issuing thread to a target meets another exact fault: the travel fault of its departure comes first (R174, R248). -/
def travelFirst (s0 : State) (target : Word) (pops : Bool) (s : State) (o : Out) : Out :=
  let th := if pops then loopExits (cur s0).pc target 5 (cur s) else cur s
  match (if leaves s s.me target then travelFault (setTh s s.me th) s.me target else none) with
  | some r => trapHere 4 r target s0
  | none => o

/-- A transfer of the issuing thread to a target that is not a multiple of 4 (R174, R248, R264). -/
def misaligned (s0 : State) (target : Word) (pops : Bool) (s : State) : Out := travelFirst s0 target pops s (trapHere 3 0 target s0)

/-- The length in bytes of a transfer, which has an E word when it has a travel live mask (R258, R267). -/
def liveLen (l : Option (BitVec 15)) : Nat := if l.isSome then 12 else 4

/-- A transfer to target; pops says whether it pops loop levels when taken (R306). One to its own next sequential address is not taken: the
instruction completes in sequence (R300, R305). -/
def jump (s0 : State) (target : Word) (pops : Bool) (live : Option (BitVec 15)) (q : Bool) (s : State) : State :=
  let own := (getTh s0 s.me).pc
  let th := getTh s s.me
  if target = offWrap own (liveLen live) then retireLive s0 (liveLen live) live q s
  else flow s0 target live q (setTh s s.me (if pops then loopExits own target 5 th else th))

/-- Finishes an instruction: the next state is that of retire. -/
def done (s0 : State) (len : Nat) (q : Bool) (s : State) : Out := .next (retire s0 len q s)

/-- Writes d at once and finishes: an integer result (R156). -/
def result (s0 : State) (len : Nat) (q : Bool) (d : Reg) (v : Word) (s : State) : Out := done s0 len q (wr s.me d v s)

/-- A late result of the issuing thread whose value is known: it returns by its own event (R157). -/
def addLate (d : Reg) (v : Word) (s : State) : State :=
  push (.lateResultReturn s.me none)
    (modTh s s.me fun th => { th with late := th.late ++ [⟨d, v, true, th.seq, 6, 0, th.pc, 0⟩] })

/-- A late result of the issuing thread that is not known yet (R157). -/
def addLateOpen (d : Reg) (size : Nat) (addr : Word) (s : State) : State :=
  modTh s s.me fun th => { th with late := th.late ++ [⟨d, 0, false, th.seq, size, addr, th.pc, 0⟩] }

/-- Writes d late and finishes. -/
def lateResult (s0 : State) (len : Nat) (q : Bool) (d : Reg) (v : Word) (s : State) : Out := done s0 len q (addLate d v s)

/-! ### Returning from an exception (R194, R256) -/

/-- SAVED holds a status tret may restore: TL 0, the present MODE, FRM 0 to 4 and zero in [15:12] (R194). -/
def savedOk (th : Thread) : Bool :=
  let v := bits th.thst 31 16
  v % 2 == 0 && v / 2 % 4 == modeOf th && decide (v / 8 % 8 ≤ 4) && v / 4096 == 0

/-- tret at level 1 with a bad SAVED: the handler is entered again without nesting; one in another segment is departed to with all of x1 to x15,
unless that trap is unhandled (R174, R175, R180, R256). -/
def badStatus (s : State) : State :=
  let t := s.me
  let th := cur s
  let thst := setBits (setBits th.thst 11 6 0) 5 3 0
  let entered := { th with tcause := 7, tval := th.pc, thst := thst, seq := th.seq + 1, wait := .run, wcount := 0 }
  if !leaves s t th.tvec then setTh s t { entered with pc := th.tvec }
  else if loopUsed th || th.hold.isSome || (segOf s t th.tvec).isNone then
    endCapture t (setTh s t { th with wait := .settle (.dead th.tepc 7 th.pc thst), wcount := 0 })
  else departTo t th.tvec (BitVec.allOnes 15) (setTh s t entered)

/-- The status tret restores: THST[15:0] from SAVED, SAVED unchanged (R194). -/
def restoreStatus (thst : Word) : Word := w64 (bits thst 31 16 * 65536 + bits thst 31 16)

/-! ### Readiness -/

/-- The journal entries of a thread not yet acknowledged or refused: puts (0 and 1), posted (2, 3, 4) (R321). -/
def outstanding (s : State) (uid : Nat) (put post : Bool) : Bool :=
  s.journal.any fun e => e.2.uid == uid && decide (e.2.opk < 5) && !e.2.ref && ((put && decide (e.2.opk ≤ 1)) || (post && decide (2 ≤ e.2.opk)))

/-- The slot has no vector command or repetition left (R374). -/
def vectorIdle (th : Thread) : Bool := th.vq.isEmpty && th.capture.isNone && th.vout == 0

/-- The refused journal entry of the thread that is the oldest by order of issue of those whose trap has not been delivered (R196, R251). -/
def asyncEntry (s : State) (uid : Nat) : Option (Nat × JEnt) :=
  s.journal.foldl (init := none) fun best e =>
    if e.2.uid == uid && uid != 0 && e.2.ref && !e.2.told then
      match best with
      | none => some e
      | some b => if e.2.order < b.2.order then some e else some b
    else best

/-- An asynchronous trap is pending for the hart at trap level 0 (R249, R252). -/
def asyncPending (s : State) (t : Nat) : Bool :=
  let th := getTh s t
  !tl th && (asyncEntry s th.uid).isSome

/-- An asynchronous trap aimed at the hart exists, held or not (R396). -/
def asyncAimed (s : State) (t : Nat) : Bool := (asyncEntry s (getTh s t).uid).isSome

/-- The reason word lat.wait would return now, its timeout aside (R152). -/
def latchReason (s : State) (t : Nat) : Nat :=
  let th := getTh s t
  (upTo 4).foldl (init := 0) (fun n i => n + (if bit (spGet 0 th.latch i) 0 then 2 ^ i else 0))
    + (if asyncPending s t then 32 else 0) + (if th.reasons.getLsbD 0 then 64 else 0) + (if th.reasons.getLsbD 1 then 128 else 0)

end Sys2Proof.Machine
end

