-- ==== Sys2Proof/Machine/Access.lean ====
section
/-! DEFINITION. From an address to the bytes it names: handles, pages, views, local levels and mapped lines (R86 to R89, R211 to
R228), reading and writing them, and what every write serves: latches, wait lists and gates (R148, R151, R117). -/

namespace Sys2Proof.Machine

/-! ### Where bytes are kept -/

/-- The key of a byte of a core's scratchpad. -/
def scratchKey (core o : Nat) : Nat := 2 ^ 50 + core * 2 ^ 18 + o

/-- The key of a byte of a core's lane memory. -/
def laneKey (core o : Nat) : Nat := 2 ^ 51 + core * 2 ^ 17 + o

/-- The key of a byte of a quadrant's scratchpad. -/
def quadKey (q o : Nat) : Nat := 2 ^ 52 + q * 2 ^ 23 + o

/-- The key of a byte of a node's word block. -/
def nodeKey (node o : Nat) : Nat := 2 ^ 53 + node * 2 ^ 16 + o

/-- What an unlisted byte of memory reads as: bring-up writes every array zero (R15). -/
def memDefault : Byte := 0

/-- Reads a byte. -/
def rdByte (s : State) (key : Nat) : Byte := spGet memDefault s.mem key

/-- Writes a byte. -/
def wrByte (s : State) (key : Nat) (b : Byte) : State := { s with mem := spSet memDefault s.mem key b }

/-- Reads n bytes from a key on. -/
def rdRun (s : State) (key : Nat) : Nat → List Byte
  | 0 => []
  | n + 1 => rdByte s key :: rdRun s (key + 1) n

/-- Writes bytes from a key on. -/
def wrRun (s : State) (key : Nat) : List Byte → State
  | [] => s
  | b :: bs => wrRun (wrByte s key b) (key + 1) bs

/-- Reads an n-byte little-endian value at a key (R3). -/
def rdNum (s : State) (key n : Nat) : Nat := leNum (rdRun s key n)

/-- Reads a 64-bit word at a key. -/
def rdWord (s : State) (key : Nat) : Word := w64 (rdNum s key 8)

/-- Writes a 64-bit word at a key. -/
def wrWord (s : State) (key : Nat) (v : Word) : State := wrRun s key (leList 8 v.toNat)

/-- The full/empty bit of the word that holds a key (R235). -/
def feOf (s : State) (key : Nat) : Bool := spGet false s.fe (key / 8)

/-- Sets the full/empty bit of the word that holds a key. -/
def setFe (s : State) (key : Nat) (b : Bool) : State := { s with fe := spSet false s.fe (key / 8) b }

/-- A run of consecutive keys: where it starts, its length, the page kind (0 P, 1 S, 2 C, 3 a local level, 4 a node's words, 5 a global page
mapped to a local level), and the node and generation under which it is accessed. -/
structure Piece where
  key  : Nat
  len  : Nat
  kind : Nat
  node : Nat
  gen  : Nat
  deriving DecidableEq, Repr

/-- Reads the bytes of pieces in order. -/
def rdPieces (s : State) : List Piece → List Byte
  | [] => []
  | p :: ps => rdRun s p.key p.len ++ rdPieces s ps

/-- Writes bytes over pieces in order. -/
def wrPieces (s : State) : List Piece → List Byte → State
  | [], _ => s
  | p :: ps, bs => wrPieces (wrRun s p.key (bs.take p.len)) ps (bs.drop p.len)

/-- The words (key / 8) that pieces touch. -/
def wordsOf (ps : List Piece) : List Nat :=
  (ps.flatMap fun p => (upTo ((p.key + p.len + 7) / 8 - p.key / 8)).map (· + p.key / 8)).eraseDups

/-! ### Who accesses -/

/-- The tags of a request: context, partition, tenant, the core whose local levels handle 0xFFFF reaches (1,024 and above: none),
and the unit whose key cache serves it. -/
structure Who where
  ctx    : Nat
  part   : Nat
  tenant : Nat
  core   : Nat
  unit   : Nat
  deriving DecidableEq, Repr

/-- The tags of a hart's requests (R88, R402). -/
def whoOf (s : State) (t : Nat) : Who :=
  let th := getTh s t
  ⟨th.ctx, th.part, th.tenant, coreOf t, if t < hart0 then t / 16 else 1024 + (t - hart0) / 4⟩

/-- The tags of a request that a context's own agent makes: host, tumbler, name engine (R90, R117). -/
def whoCtx (s : State) (ctx : Nat) : Who :=
  ⟨ctx, (getCtx s ctx).part, (getCtx s ctx).tenant, 2000, 1100⟩

/-! ### The frame (R29, R31) -/

/-- The number that stands for the system where a partition's is asked for. -/
def systemRing : Nat := 20

/-- The partition of a packet that acts for a context; traffic of contexts 0 and 0xFFFF is the system's (R29). -/
def tenantOf (ctx part : Nat) : Option Nat := if ctx = 0 ∨ ctx = 0xFFFF ∨ part = systemRing then none else some part

/-- The partition that owns the present tenant slot of the frame, under the schedule in force (R31). -/
def slotOwner (s : State) : Option Nat :=
  let n := s.cycle / 32 % 64
  let e := bits (spGet 0 s.pkg.tdsNow (n / 8)) (8 * (n % 8) + 7) (8 * (n % 8))
  if 128 ≤ e then some (e % 32) else none

/-- The fabric moves a partition's packet now: lending mode always has a cycle for one; in strict mode a partition moves in its own slots alone, the
system whenever the owner leaves a cycle (R29). -/
def frameMoves (s : State) (part : Option Nat) : Bool :=
  bit s.pkg.tdctl 2 || (match part with | some p => slotOwner s == some p | none => true)

/-! ### Local levels (R220, R221, R165) -/

/-- The rotation set's size of a partition, 1 without one, and the tenant's place in it (R165). -/
def rotOf (s : State) (part tenant : Nat) : Nat × Nat :=
  let p := getPart s part
  let n := if p.v then (match p.rot with | 1 => 2 | 2 => 4 | _ => 1) else 1
  (n, if n = 1 then 0 else (p.tenants.take n).findIdx (· == tenant) % n)

/-- SPLIT of a cluster: 64 after reset (R141). -/
def splitOf (s : State) (cluster : Nat) : Nat := spGet 64 s.splits cluster

/-- QSP of a quadrant in MiB: what the installed records give it, 0 otherwise (R132, R220). -/
def qspOf (s : State) (q : Nat) : Nat :=
  s.parts.foldl (init := 0) fun n e => if e.2.v && decide (0 < e.2.qsp.getD q 0) then e.2.qsp.getD q 0 else n

/-- The byte of a local offset and how many bytes follow it in one run; none where no level holds it (R220, R221). rn and ri are
the rotation set's size and place. -/
def localAt (s : State) (core rn ri o : Nat) : Option (Nat × Nat) :=
  let sp := splitOf s (core / 8)
  let priv := 4096 * sp / rn
  let cl := 8 * (262144 - 4096 * sp) / rn
  let qs := qspOf s (core / 64) * 1048576 / rn
  if 1024 ≤ core then none
  else if o < priv then some (scratchKey core (ri * priv + o), priv - o)
  else if 0x40000 ≤ o ∧ o < 0x40000 + 131072 / rn then
    let a := o - 0x40000
    let w := 1024 / rn
    some (laneKey core (a / w * 1024 + ri * w + a % w), w - a % w)
  else if 0x100000 ≤ o ∧ o < 0x100000 + cl then
    let a := ri * cl + (o - 0x100000)
    some (scratchKey (core / 8 * 8 + a / 512 % 8) (4096 * sp + 512 * (a / 4096) + a % 512), 512 - a % 512)
  else if 0x1000000 ≤ o ∧ o < 0x1000000 + qs then
    some (quadKey (core / 64) (ri * qs + (o - 0x1000000)), qs - (o - 0x1000000))
  else none

/-- The level a local offset lies in: 1 core-private, 2 lane memory, 3 mapping table, 4 cluster memory, 5 quadrant scratchpad, 0
none (R220). Of each of the three tables a tenant of a rotation set has its part of the 16 entries (R165; log 69). -/
def localLevel (s : State) (core rn o : Nat) : Nat :=
  let sp := splitOf s (core / 8)
  if 1024 ≤ core then 0
  else if o < 4096 * sp / rn then 1
  else if 0x40000 ≤ o ∧ o < 0x40000 + 131072 / rn then 2
  else if 0x80000 ≤ o ∧ o < 0x80300 ∧ o % 256 < 256 / rn then 3
  else if 0x100000 ≤ o ∧ o < 0x100000 + 8 * (262144 - 4096 * sp) / rn then 4
  else if 0x1000000 ≤ o ∧ o < 0x1000000 + qspOf s (core / 64) * 1048576 / rn then 5
  else 0

/-- The runs of n local bytes from an offset, or the first offset that no level holds (R222). -/
def localRuns (s : State) (core rn ri : Nat) : Nat → Nat → Nat → Except Nat (List Piece)
  | 0, _, _ => .ok []
  | _ + 1, _, 0 => .ok []
  | fuel + 1, o, n =>
    match localAt s core rn ri o with
    | none => .error o
    | some (key, run) =>
      match localRuns s core rn ri fuel (o + min n run) (n - min n run) with
      | .ok ps => .ok (⟨key, min n run, 3, 0, 0⟩ :: ps)
      | .error e => .error e

/-! ### Physical addresses: memory, mapped lines and views (R213, R224, R226) -/

/-- One past the last byte of physical memory (R226). -/
def physEnd : Nat := 0x00C000000000

/-- Record and payload sizes of a FMT code (R211). -/
def fmtSizes (fmt : Nat) : Nat × Nat :=
  match fmt with
  | 0 => (17, 16)
  | 1 => (25, 24)
  | _ => (33, 32)

/-- A window's image fields: valid, FMT, NREC, PKBASE, PVBASE, SVBASE (R211). -/
structure Window where
  v    : Bool
  fmt  : Nat
  nrec : Nat
  pk   : Nat
  pv   : Nat
  sv   : Nat
  deriving DecidableEq, Repr

/-- The fields of a register image (R211). -/
def windowOf (img : List Word) : Window :=
  ⟨bit (img.getD 0 0) 7, bits (img.getD 0 0) 6 4, bits (img.getD 1 0) 33 0, bits (img.getD 2 0) 47 0, bits (img.getD 3 0) 47 0,
    bits (img.getD 4 0) 47 0⟩

/-- The valid windows. -/
def windows (s : State) : List Window := (s.pkg.fmtw.map fun e => windowOf e.2).filter (·.v)

/-- A range lies in [base, base + len). -/
def within (a base len : Nat) : Bool := decide (base ≤ a) && decide (a < base + len)

/-- The window whose payload view holds a physical address (R211). -/
def payloadWindow (s : State) (pa : Nat) : Option Window :=
  (windows s).find? fun w => within pa w.pv (w.nrec * (fmtSizes w.fmt).2)

/-- The window whose scale view holds a physical address. -/
def scaleWindow (s : State) (pa : Nat) : Option Window := (windows s).find? fun w => within pa w.sv w.nrec

/-- The address lies in the packed range of a valid window, which no translation reaches (R212). -/
def packedHit (s : State) (pa : Nat) : Bool := (windows s).any fun w => within pa w.pk (w.nrec * (fmtSizes w.fmt).1)

/-- The installed mapping entry that holds a physical page, with the page's place in it (R224). -/
def mappedPage (s : State) (page : Nat) : Option (Nat × MapEnt × Nat) :=
  s.maps.findSome? fun e =>
    if bit e.2.word1 63 && e.2.pages.contains page then some (e.1, e.2, e.2.pages.findIdx (· == page)) else none

/-- The core whose local offsets a mapping table's LOCAL field uses: the table's own core, or the first of its cluster or
quadrant (R223). -/
def tableCore (table : Nat) : Nat :=
  if table < 1024 then table else if table < 1152 then (table - 1024) * 8 else (table - 1152) * 64

/-- The bytes from a physical address of memory to the next packed range (R212). -/
def packedStart (s : State) (pa n : Nat) : Nat := (windows s).foldl (init := n) fun n w => if pa < w.pk then min n (w.pk - pa) else n

/-- The place of a packed byte's one copy: its byte of the payload or scale view (R209, R213). -/
def unpackedAt (w : Window) (key : Nat) : Option Nat :=
  let (b, q) := fmtSizes w.fmt
  if within key w.pk (w.nrec * b) then
    let o := key - w.pk
    some (if o % b = 0 then w.sv + o / b else w.pv + o / b * q + (o % b - 1))
  else none

/-- The packed place of a byte of a window's views (R209, R213). -/
def packedAt (w : Window) (pa : Nat) : Option Nat :=
  let (b, q) := fmtSizes w.fmt
  if within pa w.pv (w.nrec * q) then some (w.pk + (pa - w.pv) / q * b + 1 + (pa - w.pv) % q)
  else if within pa w.sv w.nrec then some (w.pk + (pa - w.sv) * b)
  else none

/-- How many bytes from a physical address on, within its page, are memory or bytes of one view: none of them packed (R212, R226). -/
def physRun (s : State) (pa : Nat) : Option Nat :=
  if packedHit s pa then none
  else if pa < physEnd then some (packedStart s pa (4096 - pa % 4096))
  else
    match payloadWindow s pa, scaleWindow s pa with
    | some w, _ => some (min (4096 - pa % 4096) (w.pv + w.nrec * (fmtSizes w.fmt).2 - pa))
    | _, some w => some (min (4096 - pa % 4096) (w.sv + w.nrec - pa))
    | _, _ => none

/-- The byte a physical address names and the bytes that follow it in one run; none where it is unmapped. While a window is valid the one copy of
each packed byte stands at its place in a view, whose lines, words and full/empty bits are the view's own; a mapped page's bytes stand in the local
level (R212, R213, R214, R224, R226). -/
def physAt (s : State) (pa : Nat) : Option (Nat × Nat) :=
  match physRun s pa with
  | none => none
  | some run =>
    match mappedPage s (pa / 4096) with
    | some (k, e, i) =>
      (localAt s (tableCore (k / 16)) e.rn e.ri (bits e.word1 31 0 + 4096 * i + pa % 4096)).map fun x => (x.1, min run x.2)
    | none => some (pa, run)

/-- The run of one byte of a view at a physical address, as an ordinary access reaches it (R213, R214, R224). -/
def viewByte (s : State) (pa : Nat) : List Piece :=
  match physAt s pa with
  | some (key, _) => [⟨key, 1, if 2 ^ 50 ≤ key then 3 else if spGet 0 s.powner (key / 4096) ≠ 0 then 0 else 2, 0, 0⟩]
  | none => []

/-- n bytes from a physical address on can all be reached. fuel bounds the runs (R212, R226). -/
def physWhole (s : State) : Nat → Nat → Nat → Bool
  | 0, _, n => n == 0
  | fuel + 1, pa, n =>
    n == 0 || (match physRun s pa with
      | some run => physWhole s fuel (pa + max 1 run) (n - max 1 run)
      | none => false)

/-! ### Handles and pages (R86, R88, R226) -/

/-- The keyring index of a context's handle. -/
def keyIdx (ctx h : Nat) : Nat := ctx * 65536 + h

/-- The keyring index of an entry of a partition's mount keyring (R101). -/
def mountIdx (part h : Nat) : Nat := (65536 + part) * 65536 + h

/-- A node. -/
def getNode (s : State) (n : Nat) : Node := spGet Node.none s.nodes n

/-- Changes a node. -/
def modNode (s : State) (n : Nat) (f : Node → Node) : State := { s with nodes := spSet Node.none s.nodes n (f (getNode s n)) }

/-- The record of a node in the system node table, its four words (R89). -/
def nodeRecord (s : State) (n : Nat) : List Word :=
  let x := getNode s n
  [w64 ((if x.v then 2 ^ 63 else 0) + (if x.dead then 2 ^ 62 else 0) + x.kind % 16 * 2 ^ 58 + x.gen % 65536 * 2 ^ 32 + n % 2 ^ 32), w64 x.limit,
    if x.kind = 1 ∨ x.kind = 6 ∨ x.kind = 8 then x.ptroot else Config.kindState n,
    w64 (x.owner % 65536 + x.tenant % 256 * 2 ^ 16 + x.part % 32 * 2 ^ 24)]

/-- The record of a node as its home engine has it: from its node cache, else from the table (R88, R89). -/
def engineRecord (s : State) (n : Nat) : List Word :=
  match spGet [] s.nodeCache n with
  | [] => nodeRecord s n
  | r => r

/-- The generation the home engine answers for a node: above every one for a record that is not valid or is DEAD (R88, R99). -/
def engineGen (s : State) (n : Nat) : Nat :=
  let w := (engineRecord s n).getD 0 0
  if bit w 63 && !bit w 62 then bits w 47 32 else 65536

/-- The engine's node cache holds a node's record (R89). -/
def nodeCached (s : State) (n : Nat) : Bool := !(spGet [] s.nodeCache n).isEmpty

/-- A node record changes in the table, and in the node cache where it stands there (R96). -/
def modRecord (s : State) (n : Nat) (f : Node → Node) : State :=
  let s1 := modNode s n f
  if nodeCached s1 n then { s1 with nodeCache := spSet [] s1.nodeCache n (nodeRecord s1 n) } else s1

/-- A unit's key cache: a core's, or that kept for the harts of a quadrant or a port (R88). -/
def keyCache (s : State) (unit : Nat) : List CachedKey := (getCore s unit).keys

/-- The descriptor of a handle and the node's generation, as the unit's key cache holds them or as a fill would read them now (R88,
log 10). -/
def lookupKey (s : State) (unit ctx h : Nat) : KeyEntry × Nat :=
  match (keyCache s unit).find? fun c => c.ctx == ctx && c.handle == h with
  | some c => (c.entry, c.gen)
  | none =>
    let e := spGet KeyEntry.free s.keys (keyIdx ctx h)
    (e, engineGen s e.node)

/-- The node whose record must come from the host before the handle can be used: host-assisted mode, not in the node cache (R89). -/
def hostMiss (s : State) (unit ctx h : Nat) : Option Nat :=
  if bit s.fw.duty 0 && h != 0 && h != 0xFFFF then
    match (keyCache s unit).find? fun c => c.ctx == ctx && c.handle == h with
    | some _ => none
    | none =>
      let e := spGet KeyEntry.free s.keys (keyIdx ctx h)
      if e.v && !e.peer && !nodeCached s e.node then some e.node else none
  else none

/-- An array row spoils a word it holds: a poisoned one now, one that has met an uncorrected error what it held then and has not been written
whole since (R136). -/
def rowSpoils (s : State) (word : Nat) (e : ErrRec) : Bool :=
  !e.lane && ((e.state == 4 && Config.rowHolds e.unit e.row word s.cycle)
    || (!e.fixed && Config.rowHolds e.unit e.row word e.at_ && !e.clean.contains word))

/-- The data of the word at a key of physical memory are uncorrectable (R136). -/
def badKey (s : State) (key : Nat) : Bool := s.errors.any (rowSpoils s (key / 8))

/-- One level of the page walk: the table entry's target; none where it is invalid, or its data are uncorrectable (R136, R226). -/
def pte (s : State) (table idx : Nat) (last : Bool) : Option (Nat × Nat) :=
  let w := rdWord s (table + 8 * idx)
  let kind := bits w 62 61
  if badKey s (table + 8 * idx) then none
  else if bit w 63 && bits w 60 48 == 0 && bits w 11 0 == 0 && (if last then kind != 3 else kind == 0) then
    some (bits w 47 12 * 4096, kind)
  else none

/-- The page walk from a root: the physical page and kind of an offset's page (R226). -/
def walkPage (s : State) (root page : Nat) : Option (Nat × Nat) :=
  match pte s root (page / 2 ^ 27 % 512) false with
  | none => none
  | some (t1, _) =>
    match pte s t1 (page / 2 ^ 18 % 512) false with
    | none => none
    | some (t2, _) =>
      match pte s t2 (page / 2 ^ 9 % 512) false with
      | none => none
      | some (t3, _) => pte s t3 (page % 512) true

/-- A page walk from a root meets a table word whose data are uncorrectable (R136). -/
def walkBad (s : State) (root page : Nat) : Bool :=
  let next := fun (table idx : Nat) => (pte s table idx false).map Prod.fst
  let at_ := fun (table : Option Nat) (idx : Nat) => match table with | some t => badKey s (t + 8 * idx) | none => false
  let t1 := next root (page / 2 ^ 27 % 512)
  let t2 := t1.bind fun t => next t (page / 2 ^ 18 % 512)
  let t3 := t2.bind fun t => next t (page / 2 ^ 9 % 512)
  !s.errors.isEmpty && (badKey s (root + 8 * (page / 2 ^ 27 % 512)) || at_ t1 (page / 2 ^ 18 % 512) || at_ t2 (page / 2 ^ 9 % 512) || at_ t3 (page % 512))

/-- The translation of a page as the unit's TLB holds it or as a walk gives it now (R88, log 10). -/
def lookupPage (s : State) (unit ctx h root page : Nat) : Option (Nat × Nat) :=
  match (getCore s unit).tlb.find? fun c => c.ctx == ctx && c.handle == h && c.page == page with
  | some c => some (c.pa, c.kind)
  | none => walkPage s root page

/-- What an access needs of a handle (R83): RD, WR, EX. -/
structure Need where
  rd : Bool
  wr : Bool
  ex : Bool
  deriving DecidableEq, Repr

/-- A load. -/
def needRd : Need := ⟨true, false, false⟩
/-- A store. -/
def needWr : Need := ⟨false, true, false⟩
/-- An atomic, full/empty or reservation access (R83). -/
def needRw : Need := ⟨true, true, false⟩
/-- Instruction fetch. -/
def needEx : Need := ⟨false, false, true⟩

/-- Where an access goes. -/
inductive Place where
  | mem (ps : List Piece)
  | unit (node kind o : Nat) (gen : Nat)
  | table (o : Nat)
  | peer (e : KeyEntry)
  deriving DecidableEq, Repr

/-- The unit whose key cache serves the firmware complex (R88, R124). -/
def fwUnit : Nat := 1120

/-- Rights of the granted set that the access needs and the kind gives a meaning: a save area is for the key core and the firmware alone, in the
system context too (R83, R162). -/
def rightsOk (e : KeyEntry) (w : Who) (n : Need) : Bool :=
  let ctx := w.ctx
  let sys := ctx == 0xFFFF || (ctx == 0 && w.unit == fwUnit)
  let rd := e.rights.getLsbD 0 && (e.kind != 8 || sys)
  let wr := e.rights.getLsbD 1 && e.kind != 6 && (e.kind != 7 || ctx == 0xFFFF) && (e.kind != 8 || sys)
  let ex := e.rights.getLsbD 2 && e.kind == 6
  (!n.rd || rd) && (!n.wr || wr) && (!n.ex || ex)

/-- The runs of n bytes at an offset of a paged node, or the first offset that is not mapped; a store or read-modify-write of a
read-shared page lacks the right (R226, R227). -/
def pageRuns (s : State) (w : Who) (h : Nat) (e : KeyEntry) (need : Need) : Nat → Nat → Nat → Except (Nat × Nat) (List Piece)
  | 0, _, _ => .ok []
  | _ + 1, _, 0 => .ok []
  | fuel + 1, o, n =>
    match lookupPage s w.unit w.ctx h e.ptroot.toNat (o / 4096) with
    | none => .error (4, o)
    | some (pa, kind) =>
      if need.wr && kind == 1 then .error (3, o)
      else
        match physAt s (pa + o % 4096) with
        | none => .error (4, o)
        | some (key, run0) =>
          let run := min n (min run0 (4096 - o % 4096))
          match pageRuns s w h e need fuel (o + run) (n - run) with
          | .ok ps => .ok (⟨key, run, if key < 2 ^ 50 then kind else 5, e.node, e.gen⟩ :: ps)
          | .error x => .error x

/-- The checks of R88 in order on n bytes at an address, and the place it names (R83, R87, R220). -/
def resolve (s : State) (w : Who) (a : Word) (n : Nat) (need : Need) : Except TrapInfo Place :=
  let h := hdl a
  let o := off a
  if h = 0xFFFF then
    if need.ex then .error ⟨2, 3, a⟩
    else
      let (rn, ri) := rotOf s w.part w.tenant
      if localLevel s w.core rn o = 3 ∧ localLevel s w.core rn (o + n - 1) = 3 ∧ (rn = 1 ∨ o / 256 = (o + n - 1) / 256) then .ok (.table o)
      else
        match localRuns s w.core rn ri (n + 1) o n with
        | .ok ps => .ok (.mem ps)
        | .error o' => .error ⟨2, 4, mkAddr h o'⟩
  else
    let (e, gen) := lookupKey s w.unit w.ctx h
    if h = 0 ∨ e.v = false then .error ⟨2, 1, a⟩
    else if e.peer then (if need.ex then .error ⟨2, 3, a⟩ else .ok (.peer e))
    else if e.gen ≠ gen then .error ⟨2, 2, a⟩
    else if rightsOk e w need = false then .error ⟨2, 3, a⟩
    else if o + n > 2 ^ 48 then .error ⟨2, 5, Config.carryAddress a (Int.ofNat n)⟩
    else if o + n > e.limit then .error ⟨2, 4, mkAddr h (max o e.limit)⟩
    else if e.kind = 1 ∨ e.kind = 6 ∨ e.kind = 8 then
      match pageRuns s w h e need (n + 1) o n with
      | .ok ps => .ok (.mem ps)
      | .error (r, o') =>
        if r = 4 ∧ walkBad s e.ptroot.toNat (o' / 4096) = true then .error ⟨0x0B, 0, mkAddr h o'⟩ else .error ⟨2, r, mkAddr h o'⟩
    else if e.kind = 4 then .ok (.mem [⟨nodeKey e.node o, n, 4, e.node, e.gen⟩])
    else if e.kind = 3 ∧ 8 ≤ o ∧ o + n ≤ 0x38 then .ok (.mem [⟨nodeKey e.node o, n, 4, e.node, e.gen⟩])
    else .ok (.unit e.node e.kind o e.gen)

/-! ### Homes (R96, R167, R228, R229) -/

/-- The address whose interleave homes a physical address: for a byte of a window's views or packed range, that of its group's scale line
(R213). -/
def homeAddr (s : State) (pa : Nat) : Nat :=
  match (windows s).findSome? fun w =>
    let (b, q) := fmtSizes w.fmt
    if within pa w.pk (w.nrec * b) then some (w.sv + (pa - w.pk) / (64 * b) * 64)
    else if within pa w.pv (w.nrec * q) then some (w.sv + (pa - w.pv) / (64 * q) * 64)
    else none with
  | some a => a
  | none => pa

/-- The physical slice that homes a physical address for a partition: PA[14:8] through its indirection table (R167, R213, R228). -/
def sliceOf (s : State) (part pa : Nat) : Nat :=
  let l := homeAddr s pa / 256 % 128
  let p := getPart s part
  if p.v then p.slices.getD l l else l

/-- The partition whose record's memory holds a physical address, a view's by its packed place (R132, R213). -/
def partAt (s : State) (pa : Nat) : Nat :=
  let a := ((windows s).findSome? fun w => packedAt w pa).getD pa
  ((s.parts.find? fun e => e.2.v && e.2.memory.any fun r => within a r.1 r.2).map Prod.fst).getD 20

/-- The slice that homes a C line, for its eviction and fill, through the table of the partition that owns it (R167, R213, R228). -/
def lineSlice (s : State) (line : Nat) : Nat := sliceOf s (partAt s (64 * line)) (64 * line)

/-- The times of a C line at its home: one that its slice does not hold is filled with the slice's largest (R229, R231). -/
def lineTimes (s : State) (line : Nat) : LineT :=
  let h := spGet LineT.reset s.lines line
  if h = LineT.reset then
    let sl := spGet Slice.reset s.slices (lineSlice s line)
    ⟨sl.mwts, sl.mrts, 8⟩
  else h

/-- The quadrant of the home of a key (R22, R221). -/
def homeQuad (s : State) (part key : Nat) : Nat :=
  if key < 2 ^ 50 then sliceOf s part key / 8
  else if key < 2 ^ 51 then (key - 2 ^ 50) / 2 ^ 18 / 64
  else if key < 2 ^ 52 then (key - 2 ^ 51) / 2 ^ 17 / 64
  else if key < 2 ^ 53 then (key - 2 ^ 52) / 2 ^ 23
  else (key - 2 ^ 53) / 2 ^ 16 / 2 ^ 28 % 16

/-- A unit's home refuses a request of its node at this generation (R96, R99). -/
def unitStale (s : State) (node gen : Nat) : Bool :=
  s.filters.any fun f => f.quadrant == node / 2 ^ 28 % 16 && f.node == node && decide (gen < f.gen)

/-- A home's filter refuses a request of the node at this generation (R96). -/
def filtered (s : State) (quadrant node gen : Nat) : Bool :=
  s.filters.any fun f => f.quadrant == quadrant && f.node == node && decide (gen < f.gen)

/-- The home of a piece refuses it (R96). -/
def refusesPiece (s : State) (part : Nat) (p : Piece) : Bool := p.kind != 3 && filtered s (homeQuad s part p.key) p.node p.gen

/-- The piece a home refuses, if one does (R96). -/
def refusedPiece (s : State) (part : Nat) (ps : List Piece) : Option Piece := ps.find? (refusesPiece s part)

/-- How many bytes of an access stand before the first piece that a home refuses (R96, R246). -/
def refusedAt (s : State) (part : Nat) : List Piece → Nat
  | [] => 0
  | p :: ps => if refusesPiece s part p then 0 else p.len + refusedAt s part ps

/-- The words whose error spoils a word: itself, and for a word of a view its whole line, the lines of both views and the packed words of the
records that the line covers (R214). -/
def spoilers (s : State) (word : Nat) : List Nat :=
  let line := fun (a : Nat) => (upTo 8).map (· + a / 64 * 8)
  match (windows s).find? fun w => (packedAt w (8 * word)).isSome with
  | none => [word]
  | some w =>
    let (b, q) := fmtSizes w.fmt
    let keys := (upTo 64).filterMap fun i => packedAt w (word / 8 * 64 + i)
    let recs := (keys.map fun k => (k - w.pk) / b).eraseDups
    line (8 * word) ++ (recs.flatMap fun r =>
      line (w.sv + r) ++ line (w.pv + r * q) ++ line (w.pv + r * q + q - 1) ++ (upTo b).map fun i => (w.pk + r * b + i) / 8).eraseDups

/-- A word of the pieces whose data are uncorrectable (R136, R214). -/
def badWord (s : State) (ps : List Piece) : Option Nat :=
  if s.errors.isEmpty then none else (wordsOf ps).find? fun w => (spoilers s w).any fun x => s.errors.any (rowSpoils s x)

/-- An array row that holds a word of the pieces is under test: accesses to it wait (R136). -/
def underTest (s : State) (ps : List Piece) : Bool :=
  s.errors.any fun e => !e.lane && (e.state == 0 || e.state == 5) && (wordsOf ps).any fun w => Config.rowHolds e.unit e.row w s.cycle

/-- The words that pieces cover whole. -/
def wholeWords (ps : List Piece) : List Nat :=
  (wordsOf ps).filter fun w => (upTo 8).all fun i => ps.any fun p => decide (p.key ≤ 8 * w + i) && decide (8 * w + i < p.key + p.len)

/-- Words written whole are good again (R136). -/
def cleanWords (ps : List Piece) (s : State) : State :=
  if s.errors.isEmpty then s
  else { s with errors := s.errors.map fun e => if e.lane || e.fixed then e else { e with clean := (e.clean ++ wholeWords ps).eraseDups } }

/-- The C lines that pieces touch: keys of 64-byte lines (R229). -/
def cLines (ps : List Piece) : List Nat :=
  (ps.flatMap fun p => if p.kind = 2 then (upTo ((p.key + p.len + 63) / 64 - p.key / 64)).map (· + p.key / 64) else []).eraseDups

/-- The 64 bytes of a line at its home. -/
def lineBytes (s : State) (line : Nat) : List Byte := rdRun s (64 * line) 64

/-- The key of a core's line in its quadrant's L2. -/
def l2Key (core line : Nat) : Nat := core / 64 * 2 ^ 42 + line

/-- A core's L1 and its quadrant's L2 hold a line; an agent that is no core caches nothing (R229, R232). -/
def keepLine (core line : Nat) (e : CachedLine) (s : State) : State :=
  if 1024 ≤ core then s
  else
    let s1 := modCore s core fun c => { c with leases := spSet CachedLine.none c.leases line e }
    { s1 with l2 := spSet CachedLine.none s1.l2 (l2Key core line) e }

/-- The line's slice has it not, and has no free miss register (R233). -/
def missesFull (s : State) (line : Nat) : Bool :=
  spGet LineT.reset s.lines line == LineT.reset && decide (64 ≤ (spGet Slice.reset s.slices (lineSlice s line)).misses.length)

/-- A line that its slice does not hold takes a miss register until its fill returns. With none free the request has waited for the oldest fill to
return (R233). -/
def takeMiss (line : Nat) (s : State) : State :=
  if spGet LineT.reset s.lines line == LineT.reset then
    let n := lineSlice s line
    let sl := spGet Slice.reset s.slices n
    push (.llcFillReturn line)
      { s with slices := spSet Slice.reset s.slices n { sl with misses := sl.misses.drop (sl.misses.length - 63) ++ [line] } }
  else s

/-- A read of a C line in bypass mode with no free miss register: memory serves it with a lease of length 0, at WTS = RTS = MRTS, and nothing keeps
the line (R233). -/
def bypassRead (core line : Nat) (s : State) : State :=
  let mrts := (spGet Slice.reset s.slices (lineSlice s line)).mrts
  let s1 := modCore s core fun c => { c with pts := max c.pts mrts, leases := spErase line c.leases }
  { s1 with l2 := spErase (l2Key core line) s1.l2 }

/-- A load of a C line at its home by a core or another agent: the read lease is extended, and twice as long where the request renews an unchanged
line; the reader keeps the line (R229, R233). -/
def homeFill (core : Nat) (renew : Bool) (s0 : State) (line : Nat) : State :=
  if missesFull s0 line && Config.llcBypass (lineSlice s0 line / 8) then bypassRead core line s0
  else
    let s := takeMiss line s0
    let c := getCore s core
    let h := lineTimes s line
    let rts := max h.rts (max (h.wts + h.ll) (c.pts + h.ll))
    let h' := { h with rts := rts, ll := if renew then min (2 * h.ll) 4096 else h.ll }
    keepLine core line ⟨rts, h.wts, lineBytes s line⟩
      (setCore { s with lines := spSet LineT.reset s.lines line h' } core { c with pts := max c.pts h.wts })

/-- A line that a cache holds may be read at a logical time (R229). -/
def CachedLine.live (e : CachedLine) (pts : Nat) : Bool := decide (0 < e.lease) && decide (pts ≤ e.lease)

/-- A core's request for a C line renews it: it holds a copy whose write time is still the line's (R229). -/
def renews (s : State) (core line : Nat) : Bool :=
  let own := spGet CachedLine.none (getCore s core).leases line
  decide (0 < own.lease) && own.wts == (lineTimes s line).wts

/-- A core's load of a C line: from its L1 while the lease lasts, from its quadrant's L2, or from the line's home (R229, R232). -/
def loadTimes (core : Nat) (s : State) (line : Nat) : State :=
  let c := getCore s core
  let own := spGet CachedLine.none c.leases line
  let near := spGet CachedLine.none s.l2 (l2Key core line)
  if core < 1024 ∧ own.live c.pts = true then s
  else if core < 1024 ∧ near.live c.pts = true then
    setCore s core { c with pts := max c.pts near.wts, leases := spSet CachedLine.none c.leases line near }
  else homeFill core (renews s core line) s line

/-- A store of a C line at its home: a new write time, the lease length back to 8; a core keeps the line (R229). -/
def storeTimes (core : Nat) (s0 : State) (line : Nat) : State :=
  let s := takeMiss line s0
  let c := getCore s core
  let h := lineTimes s line
  let wts := max c.pts (h.rts + 1)
  keepLine core line ⟨wts, wts, lineBytes s line⟩
    (setCore { s with lines := spSet LineT.reset s.lines line ⟨wts, wts, 8⟩ } core { c with pts := wts })

/-- The lines that a store has written are kept as they now are (R229). -/
def keepWritten (core : Nat) (ps : List Piece) (s : State) : State :=
  (cLines ps).foldl (init := s) fun s line => keepLine core line { spGet CachedLine.none (getCore s core).leases line with data := lineBytes s line } s

/-- A core whose thread goes on after an event of another has seen every store before it, and reads no older copy from then on (R237, R240; log 9). -/
def catchUp (core : Nat) (s : State) : State := modCore s core fun c => { c with pts := max c.pts s.seen }

/-- What an agent has done is before what others do once they have seen it (R237; log 9). -/
def noteSeen (core : Nat) (s : State) : State := { s with seen := max s.seen (getCore s core).pts }

/-- The access leaves the hart's cluster: it is a request on the fabric, but for a load of C lines of which its core holds live copies (R29, R229). -/
def leavesCluster (s : State) (t : Nat) (reads : Bool) (ps : List Piece) : Bool :=
  ps.any fun p =>
    if 2 ^ 50 ≤ p.key ∧ p.key < 2 ^ 51 then (p.key - 2 ^ 50) / 2 ^ 18 / 8 != clusterOf t
    else if 2 ^ 51 ≤ p.key ∧ p.key < 2 ^ 52 then (p.key - 2 ^ 51) / 2 ^ 17 / 8 != clusterOf t
    else
      !(reads && p.kind == 2 && decide (coreOf t < 1024)
        && (cLines [p]).all fun l => (spGet CachedLine.none (getCore s (coreOf t)).leases l).live (getCore s (coreOf t)).pts)

/-- The hart's packets move in this cycle (R29). -/
def hartMoves (s : State) (t : Nat) : Bool := frameMoves s (tenantOf (getTh s t).ctx (getTh s t).part)

/-- An access made at its home, whatever copy the core holds, has to wait for its partition's slot of the frame (R29). -/
def homeBarred (s : State) (ps : List Piece) : Bool := leavesCluster s s.me false ps && !hartMoves s s.me

/-- The access reaches bytes that no lease orders: a P page, a local level or a mapped line (R222, R224, R227). -/
def unleased (ps : List Piece) : Bool := ps.any fun p => p.kind != 1 && p.kind != 2

/-- An access that no lease orders takes its place after what came before it (R222, R237; log 9). -/
def meet (core : Nat) (s : State) : State := noteSeen core (catchUp core s)

/-- An access of pieces takes its place so where no lease orders one of them. -/
def meetOthers (core : Nat) (ps : List Piece) (s : State) : State := if unleased ps then meet core s else s

/-- No cache holds a copy of the lines that begin at these addresses (R215, R224). -/
def dropCopies (hit : Nat → Bool) (s : State) : State :=
  { s with
    cores := s.cores.map fun e => (e.1, { e.2 with leases := e.2.leases.filter fun l => !hit (64 * l.1) })
    l2 := s.l2.filter fun e => !hit (64 * (e.1 % 2 ^ 42)) }

/-- A P page's home makes the accessing core its owner; the old owner's lines are written back first, which no read can see
(R227). -/
def ownPages (core : Nat) (s : State) (ps : List Piece) : State :=
  ps.foldl (init := s) fun s p =>
    if p.kind = 0 ∧ core < 1024 then { s with powner := spSet 0 s.powner (p.key / 4096) (core + 1) } else s

/-- The bookkeeping of a load (R227, R229). -/
def homeLoad (core : Nat) (ps : List Piece) (s : State) : State := meetOthers core ps ((cLines ps).foldl (loadTimes core) (ownPages core s ps))

/-- The bookkeeping of a load that is performed at its home whatever a cache holds (R229). -/
def homeRead (core : Nat) (ps : List Piece) (s : State) : State :=
  meetOthers core ps ((cLines ps).foldl (homeFill core false) (ownPages core s ps))

/-- The home's bookkeeping of a store (R227, R229). -/
def homeStore (core : Nat) (ps : List Piece) (s : State) : State :=
  noteSeen core (meetOthers core ps ((cLines ps).foldl (storeTimes core) (ownPages core s ps)))

/-- A byte as a core's load finds it: of a C line, the copy that the core holds (R229). -/
def cachedByte (s : State) (core kind key : Nat) : Byte :=
  match (if kind = 2 ∧ core < 1024 then (spGet CachedLine.none (getCore s core).leases (key / 64)).data else []) with
  | [] => rdByte s key
  | d => d.getD (key % 64) 0

/-- The bytes of pieces as a core's load finds them, once its lines have been fetched (R229). -/
def rdCached (s : State) (core : Nat) (ps : List Piece) : List Byte :=
  ps.flatMap fun p => (upTo p.len).map fun i => cachedByte s core p.kind (p.key + i)

/-- A core's load of pieces: the bytes and the state (R229). -/
def loadPieces (core : Nat) (ps : List Piece) (s : State) : List Byte × State :=
  let s1 := homeLoad core ps s
  (rdCached s1 core ps, s1)

/-! ### What a write serves (R117, R148, R151) -/

/-- Acts as another hart. -/
def asHart (t : Nat) (f : State → State) (s : State) : State :=
  let r := f { s with me := t }
  { r with me := s.me }

/-- The tag by which a latch registration or a hold knows a thread that is saved (R153, R316). -/
def savedTag (uid : Nat) : Nat := 1000000 + uid

/-- Changes a thread that is saved, or restored and waiting for a slot, by its tag. -/
def modSaved (tag : Nat) (f : Thread → Thread) (s : State) : State :=
  let g := fun (th : Thread) => if savedTag th.uid = tag then f th else th
  { s with
    saves := s.saves.map fun e => (e.1, { e.2 with threads := e.2.threads.map fun x => (x.1, g x.2) })
    cores := s.cores.map fun e => (e.1, { e.2 with restored := e.2.restored.map fun x => (x.1, g x.2) }) }

/-- Sets HIT of every latch entry registered on the line of a word, a saved thread's too (R151, R153). -/
def hitLatches (word : Nat) (s : State) : State :=
  (s.latches.filter fun r => r.line == word / 8).foldl (init := s) fun s r =>
    let hit := fun (th : Thread) => { th with latch := spSet 0 th.latch r.entry (setBit (spGet 0 th.latch r.entry) 0 true) }
    if r.t < 1000000 then modTh s r.t hit else modSaved r.t hit s

/-- The word at a key has no line times: it lies in a local level or in a P page (R222, R227). -/
def untimed (s : State) (key : Nat) : Bool := decide (2 ^ 50 ≤ key) || spGet 0 s.powner (key / 4096) != 0

/-- A full/empty access that waited at a C line's home is a store performed there after what came meanwhile (R148, R229). -/
def homeAgain (core key : Nat) (s : State) : State :=
  if untimed s key then s else noteSeen core (dropCopies (· == key / 64 * 64) (storeTimes core s (key / 64)))

/-- A join that waited at a C line's home is a load there (R146, R229). -/
def joinAgain (core key : Nat) (s : State) : State := if untimed s key then s else homeFill core false s (key / 64)

/-- A listed wait is served: the waiting instruction completes with its value (R148). -/
def serve (t : Nat) (v : Word) (s : State) : State :=
  asHart t (fun s0 =>
    let s := catchUp (coreOf t) s0
    match (cur s).wait with
    | .word _ op _ d len q =>
      match op with
      | .join => retire s len q s
      | .give => retire s len q (addLate 0 0 s)
      | _ => retire s len q (addLate d v s)
    | _ => s) s

/-- The home serves a word's wait list, head first, until the head cannot be served (R148). fuel bounds the entries. -/
def serveList (word : Nat) : Nat → State → State
  | 0, s => s
  | fuel + 1, s =>
    match spGet [] s.waits word with
    | [] => s
    | e :: rest =>
      let key := word * 8
      let full := feOf s key
      let v := rdWord s key
      let go := fun s' => serveList word fuel { s' with waits := spSet [] s'.waits word rest }
      match e.op with
      | .peek => if full then go (serve e.t v (homeAgain (coreOf e.t) key s)) else s
      | .join => if v = 0 then go (serve e.t 0 (joinAgain (coreOf e.t) key s)) else s
      | .take => if full then go (serve e.t v (hitLatches word (setFe (homeAgain (coreOf e.t) key s) key false))) else s
      | .give => if full then s else go (serve e.t 0 (hitLatches word (setFe (wrWord (homeAgain (coreOf e.t) key s) key e.data) key true)))

/-- A gate's test on its counter (R111): 0 the counter is at least the value, 1 it equals it. -/
def gateHolds (r : Record) (v : Word) : Bool :=
  let target := wordAt r.body 8
  if bits (wordAt r.body 16) 1 0 = 0 then decide (target.toNat ≤ v.toNat) else v == target

/-- Every running gate on the word is tested again (R117). -/
def testGates (word : Nat) (s : State) : State :=
  (s.gnodes.filter fun e => e.2.rec_.kind == 4 && e.2.phase == 3 && e.2.launch == word).foldl (init := s) fun s e =>
    let e' := Instr.nodeComplete (e.1 / 65536) (e.1 % 65536) ⟨0, 0⟩
    if gateHolds e.2.rec_ (rdWord s (word * 8)) && !s.pending.contains e' then push e' s else s

/-- The word is held under a reservation: its copy is the holder's until the release (R315). -/
def heldWord (s : State) (word : Nat) : Bool := (spGet Resv.free s.resv word).holder.isSome

/-! ### Barrier objects (R323, R324) -/

/-- A barrier object's fields. -/
structure BarObj where
  waiters : Nat
  valid   : Bool
  overrun : Bool
  lastfl  : Nat
  curfl   : Nat
  phase   : Nat
  expect  : Nat
  arrived : Nat
  deriving DecidableEq, Repr

/-- The object's two words read as fields (R323). -/
def BarObj.ofWords (w0 w1 : Word) : BarObj :=
  ⟨bits w1 15 0, bit w0 39, bit w0 38, bits w0 37 33, bits w0 32 28, bits w0 27 24, bits w0 23 12, bits w0 11 0⟩

/-- The object's first word; its reserved bits keep what old holds (R323). -/
def BarObj.word0 (o : BarObj) (old : Word) : Word :=
  w64 (bits old 63 40 * 2 ^ 40 + (if o.valid then 2 ^ 39 else 0) + (if o.overrun then 2 ^ 38 else 0) + o.lastfl % 32 * 2 ^ 33
    + o.curfl % 32 * 2 ^ 28 + o.phase % 16 * 2 ^ 24 + o.expect % 4096 * 2 ^ 12 + o.arrived % 4096)

/-- The object's second word. -/
def BarObj.word1 (o : BarObj) (old : Word) : Word := w64 (bits old 63 16 * 65536 + o.waiters % 65536)

/-- The object at pieces of 16 bytes. -/
def barAt (s : State) (ps : List Piece) : BarObj :=
  let bs := rdPieces s ps
  BarObj.ofWords (wordAt bs 0) (wordAt bs 8)

/-- The object at a key. -/
def barKey (s : State) (key : Nat) : BarObj := BarObj.ofWords (rdWord s key) (rdWord s (key + 8))

/-- A thread leaves the WAITERS count of the object at a key (R324). -/
def lessWaiter (key : Nat) (s : State) : State :=
  hitLatches (key / 8 + 1) (wrWord s (key + 8) (BarObj.word1 { barKey s key with waiters := (barKey s key).waiters - 1 } (rdWord s (key + 8))))

/-- A parked bar.wait whose object has left its phase completes with the merged flags; the thread leaves WAITERS (R255, R323, R324). -/
def releaseWaiter (s : State) (t : Nat) : State :=
  match (getTh s t).wait with
  | .barrier key _ p _ d q =>
    let o := barKey s key
    if o.phase = p then s
    else
      asHart t (fun s => retire s 4 q (addLate d (w64 (o.lastfl + 256 * o.phase))
        (modTh s t fun th => orFlags th (BitVec.ofNat 5 o.lastfl)))) (catchUp (coreOf t) (lessWaiter key s))
  | _ => s

/-- The home tests again every bar.wait parked on an object whose first word is written (R323). -/
def testBarriers (word : Nat) (s : State) : State :=
  (s.threads.filter fun e => match e.2.wait with | .barrier key _ _ _ _ _ => key / 8 == word | _ => false).foldl
    (init := s) fun s e => releaseWaiter s e.1

/-- What follows a change of a word: latches, wait list, gates, barriers; a held word's are served at its release (R315). -/
def afterWord (s : State) (word : Nat) : State :=
  if heldWord s word then
    { s with resv := spSet Resv.free s.resv word { spGet Resv.free s.resv word with dirty := true } }
  else testBarriers word (testGates word (serveList word ((spGet [] s.waits word).length + 1) (hitLatches word s)))

/-- The word or its full/empty bit differs between two states. -/
def wordChanged (s0 s1 : State) (word : Nat) : Bool :=
  rdWord s0 (8 * word) != rdWord s1 (8 * word) || feOf s0 (8 * word) != feOf s1 (8 * word)

/-- What follows a write of pieces that took s0 to s: every word it changed is served (R151, R311). -/
def afterWrite (s0 : State) (ps : List Piece) (s : State) : State :=
  ((wordsOf ps).filter (wordChanged s0 s)).foldl afterWord (cleanWords ps s)

/-- A home's write: the bytes, the line times of the writer, then what the write serves. -/
def storePieces (core : Nat) (ps : List Piece) (data : List Byte) (s : State) : State :=
  afterWrite s ps (keepWritten core ps (wrPieces (homeStore core ps s) ps data))

/-! ### Reservation queues (R314, R315) -/

/-- The tag by which a word's queue knows the posted writes of a journal entry (R315; log 12). -/
def entryTag (core entry : Nat) : Nat := 2000000 + core * 32 + entry

/-- The tag by which a word's queue knows the command at the head of a core's vector unit (R315; log 12). -/
def commandTag (core : Nat) : Nat := 3000000 + core

/-- The tag by which a word's queue knows the operation at a cluster's matrix engine (R315; log 12). -/
def engineTag (cluster : Nat) : Nat := 4000000 + cluster

/-- The holder of a word is the thread with a number, at a hart or saved. -/
def holderIs (s : State) (uid h : Nat) : Bool := uid != 0 && (h == savedTag uid || (decide (h < 1000000) && (getTh s h).uid == uid))

/-- An access must wait for a word: a thread other than its own, mine, holds the word, or the word has been forwarded to another access, or others queue for
it before this one (R315). -/
def queueBlocks (s : State) (mine : Nat → Bool) (tag word : Nat) : Bool :=
  let r := spGet Resv.free s.resv word
  match r.holder with
  | some h => !mine h
  | none => r.granted != some tag && (r.granted.isSome || !r.queue.isEmpty)

/-- An access of a thread itself must wait for a word. -/
def resvBlocks (s : State) (t word : Nat) : Bool := queueBlocks s (· == t) t word

/-- The first of the words this thread must wait for (R315). -/
def resvBlocked (s : State) (t : Nat) (words : List Nat) : Option Nat := words.find? (resvBlocks s t)

/-- The first of the words that an access under way of a thread must wait for (R315). -/
def tagBlocked (s : State) (uid tag : Nat) (words : List Nat) : Option Nat := words.find? (queueBlocks s (holderIs s uid) tag)

/-- An access under way joins the queue of a word, once (R315). -/
def joinTag (tag word : Nat) (s : State) : State :=
  let r := spGet Resv.free s.resv word
  if r.queue.contains tag then s else { s with resv := spSet Resv.free s.resv word { r with queue := r.queue ++ [tag] } }

/-- Joins the word's reservation queue and parks in the reservation wait, its instruction to issue again (R158, R315, log 12). -/
def joinResv (word : Nat) (addr : Word) (s : State) : State :=
  let r := spGet Resv.free s.resv word
  let r' := if r.queue.contains s.me || r.holder == some s.me then r else { r with queue := r.queue ++ [s.me] }
  park (.resv word addr) { s with resv := spSet Resv.free s.resv word r' }

/-- The access a word was forwarded for is done: the next queued core is forwarded the word by its own event (R314). -/
def passResv (t word : Nat) (s : State) : State :=
  let r := spGet Resv.free s.resv word
  if r.granted = some t then
    let s' := { s with resv := spSet Resv.free s.resv word { r with granted := none } }
    if r.queue.isEmpty then s' else push (.reservationForward word) s'
  else s

/-- Releases a hold: what the held copy's writes serve is served, and the next queued requester is forwarded the word (R315). -/
def releaseHold (t word : Nat) (s : State) : State :=
  let r := spGet Resv.free s.resv word
  let s1 := modTh { s with resv := spSet Resv.free s.resv word { r with holder := none, dirty := false } } t fun th => { th with hold := none }
  let s2 := if r.dirty then afterWord s1 word else s1
  if r.queue.isEmpty then s2 else push (.reservationForward word) s2

/-- A thread that withdraws from every reservation queue: cancelled, saved or ended (R253). -/
def withdrawResv (t : Nat) (s : State) : State :=
  s.resv.foldl (init := s) fun s e =>
    if e.2.queue.contains t || e.2.granted == some t then
      let s' := { s with resv := spSet Resv.free s.resv e.1 <|
        { e.2 with queue := e.2.queue.filter (· != t), granted := if e.2.granted == some t then none else e.2.granted } }
      if e.2.granted == some t && !(e.2.queue.filter (· != t)).isEmpty then push (.reservationForward e.1) s' else s'
    else s

/-- Removes a thread from every wait list (R150). -/
def withdrawWaits (t : Nat) (s : State) : State :=
  s.waits.foldl (init := s) fun s e =>
    if e.2.any (·.t == t) then { s with waits := spSet [] s.waits e.1 (e.2.filter (·.t != t)) } else s

/-- The key of a byte of a mapping entry, by which latches are registered on it (R151, R223). -/
def mapByte (k o : Nat) : Nat := 2 ^ 55 + 16 * k + o % 16

/-- The home of a key for a partition: an LLC slice, a core's scratchpad with its lane memory and its mapping table, or a quadrant's scratchpad; a
cluster's mapping table is at its first core (R148, R149; log 71). -/
def homeOf (s : State) (part key : Nat) : Nat × Nat :=
  if 2 ^ 55 ≤ key then
    let table := (key - 2 ^ 55) / 256
    if table < 1024 then (1, table) else if table < 1152 then (1, (table - 1024) * 8) else (2, table - 1152)
  else if key < 2 ^ 50 then (0, sliceOf s part key)
  else if key < 2 ^ 51 then (1, (key - 2 ^ 50) / 2 ^ 18)
  else if key < 2 ^ 52 then (1, (key - 2 ^ 51) / 2 ^ 17)
  else (2, homeQuad s part key)

/-- The entries a word's home has in use, each waiter's by its own partition's interleave, and how many it holds (R149). -/
def homeEntries (s : State) (part word : Nat) : Nat × Nat :=
  let h := homeOf s part (8 * word)
  (s.waits.foldl (init := 0) fun n e => n + (e.2.filter fun w => homeOf s (getTh s w.t).part (8 * e.1) == h).length, if h.1 = 0 then 4096 else 64)

/-- The retries outstanding for a home, by the time of their first attempt: each freed entry goes to the earliest (R149). -/
def earliestRetry (s : State) (part word : Nat) : Option (Nat × Nat) :=
  s.threads.foldl (init := none) fun best e =>
    match e.2.wait with
    | .retry k _ _ _ first _ =>
      if homeOf s e.2.part k == homeOf s part (word * 8) then
        match best with
        | some (t, f) => if first < f then some (e.1, first) else some (t, f)
        | none => some (e.1, first)
      else best
    | _ => best

end Sys2Proof.Machine
end

