-- ==== Sys2Proof/Machine/Operands.lean ====
section
/-! DEFINITION. Operand forms: immediates, displacements, effective addresses, and the sizes and extensions of loads and stores
(R87, R261 to R264, R312). -/

namespace Sys2Proof.Machine

/-- imm15 sign-extended (R261). -/
def imm (i : BitVec 15) : Word := i.signExtend 64

/-- The bytes of a load (R262). -/
def LoadSize.bytes : LoadSize → Nat
  | .i8 => 1 | .n8 => 1 | .i16 => 2 | .n16 => 2 | .i32 => 4 | .n32 => 4 | .d64 => 8

/-- The size code of a load (R262). -/
def LoadSize.code : LoadSize → Nat
  | .i8 => 0 | .n8 => 1 | .i16 => 2 | .n16 => 3 | .i32 => 4 | .n32 => 5 | .d64 => 6

/-- A loaded value extended as its size states (R262). -/
def LoadSize.extend (z : LoadSize) (v : Nat) : Word :=
  match z with
  | .i8 => (BitVec.ofNat 8 v).signExtend 64
  | .n8 => w64 (v % 2 ^ 8)
  | .i16 => (BitVec.ofNat 16 v).signExtend 64
  | .n16 => w64 (v % 2 ^ 16)
  | .i32 => (BitVec.ofNat 32 v).signExtend 64
  | .n32 => w64 (v % 2 ^ 32)
  | .d64 => w64 v

/-- The bytes of a store (R262). -/
def StoreSize.bytes : StoreSize → Nat
  | .s8 => 1 | .s16 => 2 | .s32 => 4 | .s64 => 8

/-- The byte displacement of a full/empty or reservation form (R312). -/
def WordDisp.value : WordDisp → Int
  | .base d => (d ++ 0#3).toInt
  | .ext d => (d ++ 0#3).toInt

/-- The length of such a form. -/
def WordDisp.len : WordDisp → Nat
  | .base _ => 4
  | .ext _ => 12

/-- The length of a form that may carry an E word. -/
def extLen (x : Bool) : Nat := if x then 12 else 4

/-- The effective address: the displacement is added to the offset alone, and leaving it is offset carry (R87). -/
def effAddr (a : Word) (disp : Int) : Except TrapInfo Word :=
  match offAdd a disp with
  | some e => .ok e
  | none => .error ⟨2, 5, Config.carryAddress a disp⟩

/-- The target of a B- or J-format transfer: own address plus 4 × the displacement, in the offset alone; a carry is the access
fault with TVAL the instruction's address (R264). -/
def branchTarget (own : Word) (disp : Int) : Except TrapInfo Word :=
  match offAdd own (4 * disp) with
  | some e => .ok e
  | none => .error ⟨2, 5, own⟩

/-- The link value of a call: the next sequential address; a carry faults as a target does (R300). -/
def linkOf (own : Word) (len : Nat) : Except TrapInfo Word :=
  match offAdd own (Int.ofNat len) with
  | some e => .ok e
  | none => .error ⟨2, 5, own⟩

/-- An exact trap of the issuing thread (R247). -/
def exact (i : TrapInfo) (s : State) : Out := trapHere i.cause i.reason i.tval s

/-- An exact trap of the checks of an instruction of this length that takes no transfer: a travel fault of going on past it comes first (R248). -/
def exactAt (len : Nat) (i : TrapInfo) (s : State) : Out := unlessFault s len (exact i s)

/-- Whether a branch condition holds (R263). -/
def condHolds (c : BrCond) (a b : Word) : Bool :=
  match c with
  | .eq => a == b
  | .ne => a != b
  | .lt => a.slt b
  | .ge => !a.slt b
  | .ltn => a.ult b
  | .gen => !a.ult b
  | .bs => a.getLsbD (b.toNat % 64)
  | .bc => !a.getLsbD (b.toNat % 64)

end Sys2Proof.Machine
end

