-- ==== Sys2Proof/Machine/Control.lean ====
section
/-! DEFINITION. Control transfers and loops, majors 0x20 to 0x23 (R300 to R307). -/

namespace Sys2Proof.Machine

/-- A conditional branch: taken, it transfers to its target and pops loop levels; not taken, it forms no target (R264, R301,
R306). -/
def branch (len : Nat) (q : Bool) (c : BrCond) (a b : Reg) (disp : Int) (live : Option (BitVec 15)) (s : State) : Out :=
  withRegs [a, b] [] s fun s' =>
    if condHolds c (xr (cur s') a) (xr (cur s') b) then
      match branchTarget (cur s').pc disp with
      | .ok t => .next (jump s t true live q s')
      | .error i => exact i s
    else .next (retireLive s len live q s')

/-- b.eq (R301). -/
def execBEq (q : Bool) (a b : Reg) (i : BitVec 12) (s : State) : Out := branch 4 q .eq a b i.toInt none s
/-- b.ne (R301). -/
def execBNe (q : Bool) (a b : Reg) (i : BitVec 12) (s : State) : Out := branch 4 q .ne a b i.toInt none s
/-- b.lt (R301). -/
def execBLt (q : Bool) (a b : Reg) (i : BitVec 12) (s : State) : Out := branch 4 q .lt a b i.toInt none s
/-- b.ge (R301). -/
def execBGe (q : Bool) (a b : Reg) (i : BitVec 12) (s : State) : Out := branch 4 q .ge a b i.toInt none s
/-- b.ltn (R301). -/
def execBLtn (q : Bool) (a b : Reg) (i : BitVec 12) (s : State) : Out := branch 4 q .ltn a b i.toInt none s
/-- b.gen (R301). -/
def execBGen (q : Bool) (a b : Reg) (i : BitVec 12) (s : State) : Out := branch 4 q .gen a b i.toInt none s
/-- b.bs (R301). -/
def execBBs (q : Bool) (a b : Reg) (i : BitVec 12) (s : State) : Out := branch 4 q .bs a b i.toInt none s
/-- b.bc (R301). -/
def execBBc (q : Bool) (a b : Reg) (i : BitVec 12) (s : State) : Out := branch 4 q .bc a b i.toInt none s
/-- The extended conditional branch (R264, R301). -/
def execBCondX (q : Bool) (a b : Reg) (c : BrCond) (disp : BitVec 32) (live : BitVec 15) (s : State) : Out :=
  branch 12 q c a b disp.toInt (some live) s

/-- A jump to a displacement (R302). -/
def jumpDisp (q : Bool) (disp : Int) (live : Option (BitVec 15)) (s : State) : Out :=
  match branchTarget (cur s).pc disp with
  | .ok t => .next (jump s t true live q s)
  | .error i => exact i s

/-- j (R302). -/
def execJ (q : Bool) (j : BitVec 23) (s : State) : Out := jumpDisp q j.toInt none s
/-- j, extended (R302). -/
def execJX (q : Bool) (disp : BitVec 32) (live : BitVec 15) (s : State) : Out := jumpDisp q disp.toInt (some live) s

/-- jr: a target that is not a multiple of 4 is misaligned (R264, R303). -/
def execJr (q : Bool) (a : Reg) (live : Option (BitVec 15)) (s : State) : Out :=
  withRegs [a] [] s fun s' =>
    let t := xr (cur s') a
    if bits t 1 0 = 0 then .next (jump s t true live q s') else misaligned s t true s'

/-- callr: reads x[a] before it writes x14; calls pop no loop level (R303, R306). -/
def execCallr (q : Bool) (a : Reg) (live : Option (BitVec 15)) (s : State) : Out :=
  withRegs [a] [] s fun s' =>
    let t := xr (cur s') a
    if bits t 1 0 = 0 then
      match linkOf (cur s').pc (liveLen live) with
      | .ok l => .next (jump s t false live q (wr s.me 14 l s'))
      | .error i => travelFirst s t false s' (exact i s)
    else misaligned s t false s'

/-- call: the extended form alone (R303). -/
def execCall (q : Bool) (disp : BitVec 32) (live : BitVec 15) (s : State) : Out :=
  match branchTarget (cur s).pc disp.toInt, linkOf (cur s).pc 12 with
  | .ok t, .ok l => .next (jump s t false (some live) q (wr s.me 14 l s))
  | .error i, _ => exact i s
  | .ok t, .error i => travelFirst s t false s (exact i s)

/-- ret (R303). -/
def execRet (q : Bool) (live : Option (BitVec 15)) (s : State) : Out :=
  let t := xr (cur s) 14
  if bits t 1 0 = 0 then .next (jump s t false live q s) else misaligned s t false s

/-- lp: pushes a loop level, or skips the body for count 0; illegal at trap level 1 (R190, R304). -/
def execLp (q : Bool) (a : Reg) (i : BitVec 15) (s : State) : Out :=
  if tl (cur s) then illegal (encI 0#2 q 0x23#6 0#4 a i) s
  else
    withRegs [a] [] s fun s' =>
      let own := (cur s').pc
      let c := (xr (cur s') a).toNat
      match offAdd own 4, offAdd own (4 + 4 * Int.ofNat i.toNat) with
      | some start, some stop =>
        if c = 0 then .next (jump s stop false none q s')
        else
          done s 4 q (modTh s' s'.me
            (pushLoop start (w64 (min c (2 ^ 32 - 1) * 2 ^ 32 + i.toNat * 4 + 1))))
      | _, _ => trapHere 2 5 own s

end Sys2Proof.Machine
end

