-- ==== Sys2Proof/Machine/Flags.lean ====
section
/-! DEFINITION. Flag computations: the compare mask, saturation, and the floating-point flags in the order of THST[10:6] (R193,
R201, R205, R295). -/

namespace Sys2Proof.Machine

/-- The flags NV, DZ, OF, UF, NX as bits 0 to 4, the order of THST[10:6] (R193, R323). -/
abbrev FFlags := BitVec 5

/-- No flag. -/
def fNone : FFlags := 0
/-- NV, invalid. -/
def fNV : FFlags := 1
/-- DZ, division by zero. -/
def fDZ : FFlags := 2
/-- OF with NX, overflow (R205). -/
def fOF : FFlags := 20
/-- UF with NX, underflow: tiny and inexact (R205). -/
def fUF : FFlags := 24
/-- NX, inexact. -/
def fNX : FFlags := 16

/-- The compare mask of u against w: LT, EQ, LTN in bits 0 to 2 (R295). -/
def cmpMask (u w : Word) : Word :=
  (if u.slt w then 1 else 0) + (if u = w then 2 else 0) + (if u.ult w then 4 else 0)

/-- Clamps an exact integer to the signed range of n bits (R201). -/
def clampS (n : Nat) (v : Int) : Int := max (-(2 ^ (n - 1))) (min v (2 ^ (n - 1) - 1))

/-- Clamps an exact integer to the unsigned range of n bits (R201). -/
def clampU (n : Nat) (v : Int) : Int := max 0 (min v (2 ^ n - 1))

/-- IDZ, sticky integer divide by zero, is THST[11] (R193, R202). -/
def setIdz (thst : Word) : Word := thst ||| 0x800

end Sys2Proof.Machine
end

