-- ==== Sys2Proof/Machine/Float.lean ====
section
/-! DEFINITION. Floating-point formats, rounding, flags and conversions (R203 to R209): values are exact dyadic numbers, rounded once. -/

namespace Sys2Proof.Machine

/-- A binary format: exponent and fraction bits, bias, the code of its largest finite magnitude, its width and its NaN code
(R203, R204). -/
structure FFmt where
  eb   : Nat
  mb   : Nat
  bias : Nat
  top  : Nat
  nan  : Nat
  deriving DecidableEq, Repr

/-- f32 (R203). -/
def fmtF32 : FFmt := ⟨8, 23, 127, 0x7F7FFFFF, 0x7FC00000⟩
/-- f16 (R203). -/
def fmtF16 : FFmt := ⟨5, 10, 15, 0x7BFF, 0x7E00⟩
/-- bf16 (R203). -/
def fmtBf16 : FFmt := ⟨8, 7, 127, 0x7F7F, 0x7FC0⟩
/-- f8 (R204). -/
def fmtF8 : FFmt := ⟨4, 3, 8, 0x7F, 0x80⟩
/-- f6: it has no NaN; one converts to 0 (R204, R206). -/
def fmtF6 : FFmt := ⟨3, 2, 3, 0x1F, 0⟩

/-- The number of the sign bit. -/
def FFmt.sign (f : FFmt) : Nat := f.eb + f.mb

/-- The format has infinities and NaNs in its top exponent (R203). -/
def FFmt.ieee (f : FFmt) : Bool := decide (f.top < 2 ^ f.sign - 1)

/-- A value: NaN, signalling or not; an infinity; or ± m × 2^e exactly. -/
inductive FVal where
  | nan (signal : Bool)
  | inf (neg : Bool)
  | fin (neg : Bool) (m : Nat) (e : Int)
  deriving DecidableEq, Repr

/-- The value of a code (R203, R204). -/
def FFmt.decode (f : FFmt) (c : Nat) : FVal :=
  let neg := decide (c / 2 ^ f.sign % 2 = 1)
  let ex := c / 2 ^ f.mb % 2 ^ f.eb
  let fr := c % 2 ^ f.mb
  if !f.ieee && f.nan != 0 && c == f.nan then .nan false
  else if f.ieee && ex == 2 ^ f.eb - 1 then
    if fr = 0 then .inf neg else .nan (decide (fr < 2 ^ (f.mb - 1)))
  else if ex = 0 then .fin neg fr (1 - Int.ofNat f.bias - Int.ofNat f.mb)
  else .fin neg (2 ^ f.mb + fr) (Int.ofNat ex - Int.ofNat f.bias - Int.ofNat f.mb)

/-- Whether a magnitude rounds up: kept part, remainder, half of the unit, and whether more follows the remainder (R193). Modes 0
nearest even, 1 toward zero, 2 toward −∞, 3 toward +∞, 4 nearest with ties away. -/
def roundsUp (mode : Nat) (neg : Bool) (kept rem half : Nat) (more : Bool) : Bool :=
  match mode with
  | 0 => decide (half < rem) || (rem == half && (more || kept % 2 == 1) && half != 0)
  | 1 => false
  | 2 => neg && (rem != 0 || more)
  | 3 => !neg && (rem != 0 || more)
  | _ => decide (half ≤ rem) && half != 0

/-- A magnitude in units of 2^sh: the rounded count and whether it was inexact. -/
def roundAt (mode : Nat) (neg : Bool) (m : Nat) (sh : Int) (more : Bool) : Nat × Bool :=
  if sh ≤ 0 then
    let k := m * 2 ^ (-sh).toNat
    (if roundsUp mode neg k 0 0 more then k + 1 else k, more)
  else
    let n := sh.toNat
    let k := m / 2 ^ n
    let r := m % 2 ^ n
    (if roundsUp mode neg k r (2 ^ (n - 1)) more then k + 1 else k, r != 0 || more)

/-- The sign bit of a format. -/
def FFmt.signBit (f : FFmt) (neg : Bool) : Nat := if neg then 2 ^ f.sign else 0

/-- The canonical NaN as a result (R203). -/
def FFmt.nanCode (f : FFmt) : Nat := f.nan

/-- An infinity as a result: formats without one take their largest magnitude with NV (R206). -/
def FFmt.infCode (f : FFmt) (neg : Bool) : Nat × FFlags :=
  if f.ieee then (f.signBit neg + (2 ^ f.eb - 1) * 2 ^ f.mb, fNone) else (f.signBit neg + f.top, fNV)

/-- A rounded magnitude past the largest finite value: infinity or the largest value as the mode says; formats without infinities
saturate (R205, R206). -/
def FFmt.overflow (f : FFmt) (mode : Nat) (neg : Bool) : Nat × FFlags :=
  let inf := f.ieee && (mode == 0 || mode == 4 || (mode == 2 && neg) || (mode == 3 && !neg))
  (f.signBit neg + (if inf then f.top + 1 else f.top), fOF)

/-- A zero as a result: f8 has no negative zero (R204, R206). -/
def FFmt.zero (f : FFmt) (neg : Bool) : Nat := if f.nan = 2 ^ f.sign then 0 else f.signBit neg

/-- Rounds ± (m and, if more, a little above it) × 2^e, m not 0, into a format; tininess is detected after rounding (R205). -/
def FFmt.round (f : FFmt) (mode : Nat) (neg : Bool) (m : Nat) (e : Int) (more : Bool) : Nat × FFlags :=
  if m = 0 then (f.zero neg, fNone)
  else
    let len := Int.ofNat (Nat.log2 m + 1)
    let emin : Int := 1 - Int.ofNat f.bias
    let qmin := emin - Int.ofNat f.mb
    let qfree := len - Int.ofNat (f.mb + 1) + e
    let q := max qfree qmin
    let (k, inexact) := roundAt mode neg m (q - e) more
    let code := (q - qmin).toNat * 2 ^ f.mb + k
    if f.top < code then f.overflow mode neg
    else
      let tiny := decide (qfree < qmin) &&
        (let (k', _) := roundAt mode neg m (qfree - e) more
         decide (Int.ofNat (Nat.log2 k') + qfree < emin))
      (if code = 0 then f.zero neg else f.signBit neg + code, if inexact then (if tiny then fUF else fNX) else fNone)

/-- Rounds an exact signed value n × 2^e; zeroNeg is the sign of an exact zero. -/
def FFmt.ofExact (f : FFmt) (mode : Nat) (n : Int) (e : Int) (zeroNeg : Bool) : Nat × FFlags :=
  if n = 0 then (f.zero zeroNeg, fNone) else f.round mode (decide (n < 0)) n.natAbs e false

/-- The sign of an exact sum of zero: negative only toward −∞, or when both addends are negative zeros (R205). -/
def zeroSign (mode : Nat) (a b : Bool) : Bool := if a = b then a else mode == 2

/-- The signed significand of a finite value. -/
def signed (neg : Bool) (m : Nat) : Int := if neg then -Int.ofNat m else Int.ofNat m

/-- The sum of two scaled integers: significand and exponent. -/
def alignAdd (a : Int) (ea : Int) (b : Int) (eb : Int) : Int × Int :=
  let e := min ea eb
  (a * 2 ^ (ea - e).toNat + b * 2 ^ (eb - e).toNat, e)

/-- A signalling NaN raises NV (R205). -/
def FVal.sig : FVal → FFlags
  | .nan true => fNV
  | _ => fNone

/-- The value is a NaN. -/
def FVal.isNaN : FVal → Bool
  | .nan _ => true
  | _ => false

/-- The value with its sign changed. -/
def FVal.neg : FVal → FVal
  | .nan g => .nan g
  | .inf n => .inf (!n)
  | .fin n m e => .fin (!n) m e

/-- a + b rounded into a format (R205). -/
def fAdd (f : FFmt) (mode : Nat) (a b : FVal) : Nat × FFlags :=
  match a, b with
  | .nan g, y => (f.nan, (FVal.nan g).sig ||| y.sig)
  | x, .nan g => (f.nan, x.sig ||| (FVal.nan g).sig)
  | .inf s, .inf t => if s = t then f.infCode s else (f.nan, fNV)
  | .inf s, _ => f.infCode s
  | _, .inf t => f.infCode t
  | .fin s m e, .fin t n g =>
    let (v, ex) := alignAdd (signed s m) e (signed t n) g
    f.ofExact mode v ex (zeroSign mode s t)

/-- a − b (R205). -/
def fSub (f : FFmt) (mode : Nat) (a b : FVal) : Nat × FFlags := fAdd f mode a b.neg

/-- a × b (R205). -/
def fMul (f : FFmt) (mode : Nat) (a b : FVal) : Nat × FFlags :=
  match a, b with
  | .nan g, y => (f.nan, (FVal.nan g).sig ||| y.sig)
  | x, .nan g => (f.nan, x.sig ||| (FVal.nan g).sig)
  | .inf s, .inf t => f.infCode (s != t)
  | .inf s, .fin t n _ => if n = 0 then (f.nan, fNV) else f.infCode (s != t)
  | .fin s m _, .inf t => if m = 0 then (f.nan, fNV) else f.infCode (s != t)
  | .fin s m e, .fin t n g => if m * n = 0 then (f.zero (s != t), fNone) else f.round mode (s != t) (m * n) (e + g) false

/-- a × b + c with one rounding (R205). -/
def fFma (f : FFmt) (mode : Nat) (a b c : FVal) : Nat × FFlags :=
  let sig := a.sig ||| b.sig ||| c.sig
  let prod : FVal × FFlags :=
    match a, b with
    | .nan _, _ => (.nan false, fNone)
    | _, .nan _ => (.nan false, fNone)
    | .inf s, .inf t => (.inf (s != t), fNone)
    | .inf s, .fin t n _ => if n = 0 then (.nan false, fNV) else (.inf (s != t), fNone)
    | .fin s m _, .inf t => if m = 0 then (.nan false, fNV) else (.inf (s != t), fNone)
    | .fin s m e, .fin t n g => (.fin (s != t) (m * n) (e + g), fNone)
  let (r, fl) := fAdd f mode prod.1 (match c with | .nan _ => .nan false | x => x)
  (r, fl ||| sig ||| prod.2)

/-- a / b (R205). -/
def fDiv (f : FFmt) (mode : Nat) (a b : FVal) : Nat × FFlags :=
  match a, b with
  | .nan g, y => (f.nan, (FVal.nan g).sig ||| y.sig)
  | x, .nan g => (f.nan, x.sig ||| (FVal.nan g).sig)
  | .inf _, .inf _ => (f.nan, fNV)
  | .inf s, .fin t _ _ => f.infCode (s != t)
  | .fin s _ _, .inf t => (f.zero (s != t), fNone)
  | .fin s m e, .fin t n g =>
    if n = 0 then (if m = 0 then (f.nan, fNV) else ((f.infCode (s != t)).1, 2))
    else if m = 0 then (f.zero (s != t), fNone)
    else
      let k := f.mb + 4 + Nat.log2 n
      let num := m * 2 ^ k
      f.round mode (s != t) (num / n) (e - g - Int.ofNat k) (num % n != 0)

/-- The integer square root by bits, most significant first. -/
def isqrtGo : Nat → Nat → Nat → Nat
  | 0, _, r => r
  | n + 1, v, r =>
    let t := r + 2 ^ n
    isqrtGo n v (if t * t ≤ v then t else r)

/-- The integer square root. -/
def isqrt (v : Nat) : Nat := isqrtGo (Nat.log2 v / 2 + 1) v 0

/-- The square root: negative nonzero is invalid, and √−0 is −0 (R205). -/
def fSqrt (f : FFmt) (mode : Nat) (a : FVal) : Nat × FFlags :=
  match a with
  | .nan g => (f.nan, (FVal.nan g).sig)
  | .inf s => if s then (f.nan, fNV) else f.infCode false
  | .fin s m e =>
    if m = 0 then (f.zero s, fNone)
    else if s then (f.nan, fNV)
    else
      let k := 2 * (f.mb + 4) + (if (e % 2) = 0 then 0 else 1)
      let v := m * 2 ^ k
      let r := isqrt v
      f.round mode false r ((e - Int.ofNat k) / 2) (r * r != v)

/-! ### Exponentials and logarithms, correctly rounded (R205, R359) -/

/-- Fraction bits of the working precision: far beyond what separates any result from a rounding boundary. -/
def prec : Nat := 320

/-- ln 2 × 2^320. -/
def ln2 : Nat := 1480553391661173448385607439722553250922680800745876974795605978609098082859138712941075737848984

/-- The Taylor series of e^y for y < 1 in fixed point: n terms left, the k-th term, the sum. -/
def expSeries (y : Nat) : Nat → Nat → Nat → Nat → Nat
  | 0, _, _, acc => acc
  | n + 1, k, term, acc =>
    let t := term * y / 2 ^ prec / k
    expSeries y n (k + 1) t (acc + t)

/-- 2^x for a finite x that is no integer, as m × 2^e with more following; x an integer is exact. -/
def exp2Parts (neg : Bool) (m : Nat) (e : Int) : Nat × Int × Bool :=
  let n : Int := signed neg m
  if e ≥ 0 then (1, n * 2 ^ e.toNat, false)
  else
    let d : Nat := 2 ^ (-e).toNat
    let fl := n / Int.ofNat d
    let fr := (n % Int.ofNat d).toNat
    if fr = 0 then (1, fl, false)
    else
      let y := fr * ln2 / d
      (expSeries y 100 1 (2 ^ prec) (2 ^ prec), fl - Int.ofNat prec, true)

/-- exp2: magnitudes past 2^10 overflow or vanish whatever their low bits are. -/
def fExp2 (f : FFmt) (mode : Nat) (a : FVal) : Nat × FFlags :=
  match a with
  | .nan g => (f.nan, (FVal.nan g).sig)
  | .inf s => if s then (f.zero false, fNone) else f.infCode false
  | .fin s m e =>
    if m = 0 then f.round mode false 1 0 false
    else if 10 ≤ Int.ofNat (Nat.log2 m) + e then
      if s then f.round mode false 1 (-2048) true else f.round mode false 1 2048 true
    else
      let (k, q, more) := exp2Parts s m e
      f.round mode false k q more

/-- The series of 2 atanh z in fixed point, z2 = z²: terms left, 2k + 1, z^(2k+1), the sum. -/
def atanhSeries (z2 : Nat) : Nat → Nat → Nat → Nat → Nat
  | 0, _, _, acc => 2 * acc
  | n + 1, k, p, acc => atanhSeries z2 n (k + 2) (p * z2 / 2 ^ prec) (acc + p / k)

/-- log2 of m ≥ 1 × 2^e: for a power of two exactly, else in fixed point. -/
def fLog2 (f : FFmt) (mode : Nat) (a : FVal) : Nat × FFlags :=
  match a with
  | .nan g => (f.nan, (FVal.nan g).sig)
  | .inf s => if s then (f.nan, fNV) else f.infCode false
  | .fin s m e =>
    if m = 0 then ((f.infCode true).1, 2)
    else if s then (f.nan, fNV)
    else
      let l := Nat.log2 m
      let n : Int := Int.ofNat l + e
      if m = 2 ^ l then f.ofExact mode n 0 false
      else
        let num := (m - 2 ^ l) * 2 ^ prec
        let z := num / (m + 2 ^ l)
        let ln := atanhSeries (z * z / 2 ^ prec) 110 1 z 0
        let v : Int := n * 2 ^ prec + Int.ofNat (ln * 2 ^ prec / ln2)
        if v < 0 then f.round mode true (v.natAbs - 1) (-Int.ofNat prec) true
        else f.round mode false v.natAbs (-Int.ofNat prec) true

/-! ### Comparisons, minima and maxima -/

/-- The order of two values that are no NaN: less, equal, greater, with +0 = −0. -/
def fCmp (a b : FVal) : Ordering :=
  match a, b with
  | .inf s, .inf t => if s = t then .eq else if s then .lt else .gt
  | .inf s, _ => if s then .lt else .gt
  | _, .inf t => if t then .gt else .lt
  | .fin s m e, .fin t n g =>
    let (v, _) := alignAdd (signed s m) e (signed (!t) n) g
    if v < 0 then .lt else if v = 0 then .eq else .gt
  | _, _ => .eq

/-- The sign of a value that is no NaN. -/
def FVal.negative : FVal → Bool
  | .nan _ => false
  | .inf s => s
  | .fin s _ _ => s

/-- IEEE 754-2019 maximum (or minimum) of two codes: any NaN gives the canonical NaN, and −0 < +0 (R41, R205). -/
def fExtreme (f : FFmt) (wantMax : Bool) (ca cb : Nat) : Nat × FFlags :=
  let a := f.decode ca
  let b := f.decode cb
  if a.isNaN || b.isNaN then (f.nan, a.sig ||| b.sig)
  else
    let aLess := match fCmp a b with | .lt => true | .gt => false | .eq => a.negative && !b.negative
    (if aLess = wantMax then cb else ca, fNone)

/-! ### Conversions (R206 to R208) -/

/-- A value rounded into a format, NaNs and infinities as R206 says; f6 takes a NaN as 0 with NV. -/
def FFmt.ofVal (f : FFmt) (mode : Nat) (v : FVal) : Nat × FFlags :=
  match v with
  | .nan g => (f.nan, if f.nan = 0 then fNV else (FVal.nan g).sig)
  | .inf s => f.infCode s
  | .fin s m e => if m = 0 then (f.zero s, fNone) else f.round mode s m e false

/-- A value rounded to an integer under a mode, and whether that was inexact. -/
def roundInt (mode : Nat) (neg : Bool) (m : Nat) (e : Int) : Int × Bool :=
  let (k, x) := roundAt mode neg m (-e) false
  (signed neg k, x)

/-- A value converted to an integer range, saturating with NV (R206). -/
def toIntRange (mode : Nat) (lo hi : Int) (v : FVal) : Int × FFlags :=
  match v with
  | .nan _ => (0, fNV)
  | .inf s => (if s then lo else hi, fNV)
  | .fin s m e =>
    let (n, x) := roundInt mode s m e
    if n < lo then (lo, fNV) else if hi < n then (hi, fNV) else (n, if x then fNX else fNone)

/-- The two elements of a q4 byte, even then odd, and whether it is 0x88 (R207). -/
def q4Pair (b : Nat) : Int × Int × Bool :=
  let lo := b % 16
  let hi := b / 16 % 16
  let nib := fun n : Nat => if n < 8 then Int.ofNat n else Int.ofNat n - 16
  let out := fun n : Nat => (if n / 8 % 2 = 1 then -1 else 1) * Int.ofNat ((2 + n % 2) * 2 ^ (n / 2 % 4 + 2))
  if lo = 8 ∧ hi = 8 then (0, 0, true)
  else if lo = 8 then (out hi, 0, false)
  else if hi = 8 then (0, out lo, false)
  else (nib lo, nib hi, false)

/-- The magnitudes of a q4 outlier with their codes (R207). -/
def q4Mags : List Nat := [8, 12, 16, 24, 32, 48, 64, 96]

/-- An outlier's magnitude n (an integer above 7) rounded under the mode to the set of R208, as a code 0 to 7, with flags; ties go
to the even mantissa. -/
def q4Outlier (mode : Nat) (neg : Bool) (n : Nat) : Nat × FFlags :=
  if 96 < n then (7, fOF)
  else
    let lo := ((upTo 8).filter fun i => decide (q4Mags.getD i 0 ≤ n)).length - 1
    let a := q4Mags.getD lo 0
    if a = n then (lo, fNone)
    else
      let b := q4Mags.getD (lo + 1) 0
      let up := match mode with
        | 1 => false
        | 2 => neg
        | 3 => !neg
        | 0 => decide (2 * n > a + b) || (2 * n == a + b && lo % 2 == 1)
        | _ => decide (2 * n > a + b) || (2 * n == a + b && lo % 2 == 1)
      (if up then lo + 1 else lo, fNX)

/-- The byte that stands for a pair with the outlier −8: any but 0x88 (R207; log 66). -/
def q4EightByte (even : Bool) (partner : Int) : Nat :=
  let n := (Config.q4MinusEight even partner).val
  if n < 0x88 then n else n + 1

/-- The byte of a pair of values converted to q4 under a mode, with the flags of each of its elements; an infinity is larger than every finite value
(R208). -/
def q4Pack (mode : Nat) (a b : FVal) : Nat × FFlags × FFlags :=
  if a.isNaN || b.isNaN then (0, fNV, fNV)
  else
    let rnd := fun (inf : Nat) (v : FVal) => match v with
      | .fin s m e => let (n, x) := roundInt mode s m e; (n, if x then fNX else fNone)
      | .inf s => (if s then -Int.ofNat inf else Int.ofNat inf, fNone)
      | .nan _ => ((0 : Int), fNone)
    let inf := 97 + (rnd 0 a).1.natAbs + (rnd 0 b).1.natAbs
    let (x, fx) := rnd inf a
    let (y, fy) := rnd inf b
    let nib := fun n : Int => (n % 16).toNat
    if -7 ≤ x ∧ x ≤ 7 ∧ -7 ≤ y ∧ y ≤ 7 then (nib x + 16 * nib y, fx, fy)
    else
      let even := decide (y.natAbs ≤ x.natAbs)
      let (big, small) := if even then (x, y) else (y, x)
      let (code, fo) := q4Outlier mode (decide (big < 0)) big.natAbs
      let other := (if big < 0 then 8 else 0) + code
      let lost := if small = 0 then fNone else fNX
      (if other = 8 then q4EightByte even small else if even then 8 + 16 * other else other + 128,
        if even then fx ||| fo else fx ||| lost, if even then fy ||| lost else fy ||| fo)

/-- The scale of a scale byte as m × 2^e; none for a NaN block (R209). -/
def scaleVal (s : Nat) : Option (Nat × Int) :=
  let e := s / 8 % 32
  let m := s % 8
  if e = 31 then none else if e = 0 then some (m, -22) else some (8 + m, Int.ofNat e - 23)

/-- The sum of a power-of-two count of values by pairs, each level rounded by rnd (R217). fuel bounds the levels. -/
def pairTree (rnd : Nat → Nat → Nat × FFlags) : Nat → List Nat → Nat × FFlags
  | 0, ps => (ps.headD 0, fNone)
  | fuel + 1, ps =>
    match ps with
    | [] => (0, fNone)
    | [p] => (p, fNone)
    | _ =>
      let rec level : List Nat → List Nat × FFlags
        | a :: b :: rest =>
          let (r, f) := rnd a b
          let (rs, g) := level rest
          (r :: rs, f ||| g)
        | l => (l, fNone)
      let (qs, f) := level ps
      let (r, g) := pairTree rnd fuel qs
      (r, f ||| g)

end Sys2Proof.Machine
end

