-- ==== Sys2Proof/Machine/Attention.lean ====
section
/-! DEFINITION. Attention partials: the row record, the combine and the finish (R48 to R55), and the element operations of a reduction
station (R41, R42). -/

namespace Sys2Proof.Machine

/-- A row record: M, S, ROW, the flag word and the lanes, as 32-bit codes (R49). -/
structure Row where
  m  : Nat
  s  : Nat
  id : Nat
  fl : Nat
  v  : List Nat
  deriving DecidableEq, Repr

/-- 32-bit words of a byte list. -/
def words32 : Nat → List Byte → List Nat
  | 0, _ => []
  | n + 1, bs => leNum (bs.take 4) :: words32 n (bs.drop 4)

/-- The bytes of 32-bit words. -/
def bytes32 (ws : List Nat) : List Byte := ws.flatMap (leList 4)

/-- A row of d lanes from its bytes. -/
def Row.ofBytes (d : Nat) (bs : List Byte) : Row :=
  let w := words32 (4 + d) bs
  ⟨w.getD 0 0, w.getD 1 0, w.getD 2 0, w.getD 3 0, w.drop 4⟩

/-- The bytes of a row. -/
def Row.toBytes (r : Row) : List Byte := bytes32 (r.m :: r.s :: r.id :: r.fl :: r.v)

/-- FINISHED (R49). -/
def Row.finished (r : Row) : Bool := r.fl % 2 == 1

/-- The f32 value of a code. -/
def v32 (c : Nat) : FVal := fmtF32.decode c

/-- A fully masked row (R51). -/
def Row.masked (r : Row) : Bool := r.m == 0xFF800000 && r.s == 0 && r.v.all (· == 0) && !r.finished

/-- The canonical NaN triple (R53). -/
def nanTriple (id d : Nat) : Row := ⟨0x7FC00000, 0x7FC00000, id, 4, List.replicate d 0x7FC00000⟩

/-- A signalling NaN in any m, s or v. -/
def Row.signals (r : Row) : FFlags := (r.m :: r.s :: r.v).foldl (init := fNone) fun f c => f ||| (v32 c).sig

/-- Applies a rounded operation lane by lane. -/
def lanes2 (op : Nat → Nat → Nat × FFlags) : List Nat → List Nat → List Nat × FFlags
  | a :: as, b :: bs =>
    let (r, f) := op a b
    let (rs, g) := lanes2 op as bs
    (r :: rs, f ||| g)
  | _, _ => ([], fNone)

/-- The combine of two rows, operand 1 and operand 2, with the flags vattc raises (R52, R370). -/
def combineRow (a b : Row) : Row × FFlags :=
  let sig := a.signals ||| b.signals
  let ma := v32 a.m
  let mb := v32 b.m
  if ma.isNaN || mb.isNaN || ma == .inf false || mb == .inf false || a.finished || b.finished then
    (nanTriple a.id a.v.length,
      sig ||| (if ma == .inf false || mb == .inf false || a.finished || b.finished then fNV else fNone))
  else if b.masked then ({ a with fl := a.fl % 8 }, sig)
  else if a.masked then ({ b with fl := b.fl % 8 }, sig)
  else
    match fCmp ma mb with
    | .eq =>
      let add := fun x y => fAdd fmtF32 0 (v32 x) (v32 y)
      let (s, fs) := add a.s b.s
      let (v, fv) := lanes2 add a.v b.v
      (⟨a.m, s, a.id, 0, v⟩, sig ||| fs ||| fv)
    | o =>
      let (big, small) := if o = .gt then (a, b) else (b, a)
      let (sc, fsc) : Nat × FFlags :=
        if small.m = 0xFF800000 then (0, fNone)
        else
          let (dd, fd) := fSub fmtF32 0 (v32 small.m) (v32 big.m)
          let (x, fx) := fExp2 fmtF32 0 (v32 dd)
          (x, fd ||| fx)
      let fuse := fun x y => fFma fmtF32 0 (v32 x) (v32 sc) (v32 y)
      let (s, fs) := fuse small.s big.s
      let (v, fv) := lanes2 fuse small.v big.v
      (⟨big.m, s, a.id, 0, v⟩, sig ||| fsc ||| fs ||| fv)

/-- The finish of a row, with the flags vattf raises (R55, R371). -/
def finishRow (a : Row) : Row × FFlags :=
  let m := v32 a.m
  if m.isNaN || m == .inf false || a.finished || (v32 a.s).isNaN then
    ({ nanTriple a.id a.v.length with fl := 5 },
      a.signals ||| (if m == .inf false || a.finished then fNV else fNone))
  else if a.s % 2 ^ 31 = 0 then (⟨a.m, a.s, a.id, 3, a.v.map fun _ => 0⟩, fNone)
  else
    let (v, f) := lanes2 (fun x y => fDiv fmtF32 0 (v32 x) (v32 y)) a.v (a.v.map fun _ => a.s)
    (⟨a.m, a.s, a.id, 1, v⟩, a.signals ||| f)

/-! ### Reduction stations (R41, R42) -/

/-- Combines two payloads element by element of n bytes; what is left over of a longer one is dropped. fuel bounds the elements. -/
def elementwise (n : Nat) (op : Nat → Nat → Nat) : Nat → List Byte → List Byte → List Byte
  | 0, _, _ => []
  | fuel + 1, a, b =>
    if a.isEmpty || b.isEmpty then []
    else leList n (op (leNum (a.take n)) (leNum (b.take n))) ++ elementwise n op fuel (a.drop n) (b.drop n)

/-- A two's-complement reading of n bits. -/
def toS (n v : Nat) : Int := if v % 2 ^ n < 2 ^ (n - 1) then Int.ofNat (v % 2 ^ n) else Int.ofNat (v % 2 ^ n) - 2 ^ n

/-- The lane width d of an OP 12 stream from DW (R341). -/
def dwLanes (dw : Nat) : Nat := if dw = 1 then 64 else if dw = 2 then 128 else 256

/-- Combines the row records of two chunks position by position (R50). -/
def combineRows (d : Nat) : Nat → List Byte → List Byte → List Byte
  | 0, _, _ => []
  | fuel + 1, a, b =>
    if a.isEmpty || b.isEmpty then []
    else
      let n := 16 + 4 * d
      (combineRow (Row.ofBytes d (a.take n)) (Row.ofBytes d (b.take n))).1.toBytes ++ combineRows d fuel (a.drop n) (b.drop n)

/-- A station's result of operand 1 and operand 2 for the operations with equal lengths (R41). -/
def stationOp (op dw : Nat) (a b : List Byte) : List Byte :=
  let f := fun (n : Nat) (g : Nat → Nat → Nat) => elementwise n g (a.length + 1) a b
  match op with
  | 1 => f 4 fun x y => (fAdd fmtF32 0 (v32 x) (v32 y)).1
  | 2 => f 2 fun x y => (fAdd fmtBf16 0 (fmtBf16.decode x) (fmtBf16.decode y)).1
  | 3 => f 4 fun x y => (x + y) % 2 ^ 32
  | 4 => f 8 fun x y => (x + y) % 2 ^ 64
  | 5 => f 4 fun x y => (fExtreme fmtF32 true x y).1
  | 6 => f 4 fun x y => (fExtreme fmtF32 false x y).1
  | 7 => f 4 fun x y => if toS 32 x < toS 32 y then y else x
  | 8 => f 4 fun x y => if toS 32 y < toS 32 x then y else x
  | 9 => f 8 fun x y => if toS 64 x < toS 64 y then y else x
  | 10 => f 8 fun x y => if toS 64 y < toS 64 x then y else x
  | 12 => combineRows (dwLanes dw) 16 a b
  | _ => a

/-- Index and value pairs of a sparse payload (R42). -/
def pairsOf : Nat → List Byte → List (Nat × Nat)
  | 0, _ => []
  | n + 1, bs => (leNum (bs.take 4), leNum ((bs.drop 4).take 4)) :: pairsOf n (bs.drop 8)

/-- The bytes of pairs. -/
def pairBytes (ps : List (Nat × Nat)) : List Byte := ps.flatMap fun p => leList 4 p.1 ++ leList 4 p.2

/-- The strictly ascending run at the head of a payload, and what follows its break (R42). -/
def ascending : List (Nat × Nat) → List (Nat × Nat) × List (Nat × Nat)
  | [] => ([], [])
  | [p] => ([p], [])
  | p :: q :: r =>
    if p.1 < q.1 then
      let (run, rest) := ascending (q :: r)
      (p :: run, rest)
    else ([p], q :: r)

/-- Merges two ascending runs until 512 pairs are out: the merged pairs, and what is left of each (R42). -/
def mergeRuns : Nat → Nat → List (Nat × Nat) → List (Nat × Nat) → List (Nat × Nat) × List (Nat × Nat) × List (Nat × Nat)
  | 0, _, a, b => ([], a, b)
  | fuel + 1, n, a, b =>
    if 512 ≤ n then ([], a, b)
    else
      match a, b with
      | [], [] => ([], [], [])
      | p :: a', [] => let (o, x, y) := mergeRuns fuel (n + 1) a' []; (p :: o, x, y)
      | [], q :: b' => let (o, x, y) := mergeRuns fuel (n + 1) [] b'; (q :: o, x, y)
      | p :: a', q :: b' =>
        if p.1 < q.1 then let (o, x, y) := mergeRuns fuel (n + 1) a' (q :: b'); (p :: o, x, y)
        else if q.1 < p.1 then let (o, x, y) := mergeRuns fuel (n + 1) (p :: a') b'; (q :: o, x, y)
        else
          let v := (fAdd fmtF32 0 (v32 p.2) (v32 q.2)).1
          let (o, x, y) := mergeRuns fuel (n + 1) a' b'
          ((p.1, v) :: o, x, y)

/-- The sparse merge of two payloads: the merged payload and the rest (R42). -/
def sparseMerge (a b : List Byte) : List Byte × List Byte :=
  let (ra, xa) := ascending (pairsOf (a.length / 8) a)
  let (rb, xb) := ascending (pairsOf (b.length / 8) b)
  let (o, la, lb) := mergeRuns 1025 0 ra rb
  (pairBytes o, pairBytes (la ++ xa ++ lb ++ xb))

end Sys2Proof.Machine
end

