-- ==== Sys2Proof/Machine/StreamCore.lean ====
section
/-! DEFINITION. Collective streams: creation, the flow of chunks and markers through the stations, landing, death and failure (R37 to
R47, R56 to R63, R341 to R347). -/

namespace Sys2Proof.Machine

/-- A stream node's stream. -/
def getStream (s : State) (n : Nat) : Stream := spGet Stream.idle s.streams n

/-- Replaces a stream. -/
def setStream (s : State) (n : Nat) (v : Stream) : State := { s with streams := spSet Stream.idle s.streams n v }

/-- Changes a stream. -/
def modStream (s : State) (n : Nat) (f : Stream → Stream) : State := setStream s n (f (getStream s n))

/-- A member's endpoint after creation. -/
def Member.idle : Member := ⟨0, 0, 0, 0, [], [], false⟩

/-- A member of a stream. -/
def Stream.member (st : Stream) (m : Nat) : Member := st.members.getD m Member.idle

/-- Changes a member. -/
def Stream.modMember (st : Stream) (m : Nat) (f : Member → Member) : Stream :=
  { st with members := st.members.set m (f (st.member m)) }

/-- The member is not the dead one (R44). -/
def Stream.alive (st : Stream) (m : Nat) : Bool := st.dead != some m

/-- The members that live. -/
def Stream.survivors (st : Stream) : List Nat := (upTo st.members.length).filter st.alive

/-- Some member of a range lives. -/
def Stream.anyAlive (st : Stream) (lo hi : Nat) : Bool := (upTo (hi + 1 - lo)).any fun i => st.alive (lo + i)

/-- A station of the tree is the node over members lo to hi (R57). -/
def station (lo hi : Nat) : Nat := lo * 256 + hi

/-- The station above a subtree over l to r, and the input it feeds: the deepest node above it with a living member on either side
(R57, R62). -/
def Stream.above (st : Stream) : Nat → Nat → Nat → Nat → Nat → Option (Nat × Nat) → Option (Nat × Nat)
  | 0, _, _, _, _, best => best
  | fuel + 1, lo, hi, l, r, best =>
    if lo = l ∧ hi = r then best
    else
      let mid := lo + (hi - lo + 2) / 2 - 1
      let side := if r ≤ mid then 0 else 1
      let best' := if st.anyAlive lo mid && st.anyAlive (mid + 1) hi then some (station lo hi, side) else best
      if r ≤ mid then st.above fuel lo mid l r best' else st.above fuel (mid + 1) hi l r best'

/-- Where the chunks of the subtree over l to r go next: a station's input, or none when they are results. A ring's stations are its
members, and OP 0 forwards member 0's chunks alone (R58, R342). -/
def Stream.next (st : Stream) (l r : Nat) : Option (Nat × Nat) :=
  if st.op = 0 ∨ st.ring then none else st.above 10 0 (st.members.length - 1) l r none

/-- The station and input that a member's own chunks reach first. -/
def Stream.entry (st : Stream) (m : Nat) : Option (Nat × Nat) :=
  if st.op = 0 then some (0, m) else if st.ring then some (m, 0) else st.next m m

/-! ### Router entries (R21, R24, R37, R38, R57) -/

/-- A router entry by its key. -/
def getRouter (s : State) (k : Nat) : RouterEnt := spGet RouterEnt.free s.routers k

/-- Changes a router entry. -/
def modRouter (s : State) (k : Nat) (f : RouterEnt → RouterEnt) : State := { s with routers := spSet RouterEnt.free s.routers k (f (getRouter s k)) }

/-- The global link of a quadrant that leads to another (R21). -/
def linkTo (q p : Nat) : Nat := (p + 15 - q) % 16

/-- The routers of the minimal route from one router to another, both ends among them (R21, R24). -/
def directPath (a b : Nat) : List Nat :=
  let q := a / 8
  let p := b / 8
  if q = p then (if a = b then [a] else [a, b])
  else
    let x := q * 8 + linkTo q p / 2
    let y := p * 8 + linkTo p q / 2
    [a] ++ (if x = a then [] else [x]) ++ [y] ++ if y = b then [] else [b]

/-- The routers of the route from one router to another: the minimal one, or where its global link is down the one through the lowest-numbered
quadrant whose links to both ends are up (R21, R24, R26). With no such quadrant it is the minimal one. -/
def routePath (down : List (Nat × Nat)) (a b : Nat) : List Nat :=
  let q := a / 8
  let p := b / 8
  let up := fun q p => !down.contains (q, linkTo q p)
  if q = p ∨ up q p = true then directPath a b
  else
    match (upTo 16).find? fun m => m != q && m != p && up q m && up m p with
    | some m =>
      let y := m * 8 + linkTo m q / 2
      directPath a y ++ (directPath y b).drop 1
    | none => directPath a b

/-- The port of a router that leads to a neighbour (R21). -/
def portTo (a b : Nat) : Nat := if a / 8 = b / 8 then (b % 8 + 7 - a % 8) % 8 else 7 + linkTo (a / 8) (b / 8) % 2

/-- The ports by which a path enters a router and leaves it: the endpoint port 9 at the path's own ends (R21). -/
def portsAt (path : List Nat) (r : Nat) : Nat × Nat :=
  let before := path.takeWhile (· != r)
  ((before.getLast?.map (portTo r)).getD 9, ((path.drop (before.length + 1)).head?.map (portTo r)).getD 9)

/-- A hinge-set word (R38). -/
def hingeWord (op : Nat) (ins outs : List Nat) (av : Bool) (alt : Nat) : Word :=
  let mask := fun (ps : List Nat) => (ps.eraseDups).foldl (fun n p => n + 2 ^ p) 0
  w64 (op * 2 ^ 60 + ins.length * 2 ^ 57 + (List.zipWith (fun i p => p * 2 ^ (41 + 4 * i)) (upTo ins.length) ins).sum + mask outs * 2 ^ 31
    + mask ins * 2 ^ 21 + (if av then 2 ^ 20 else 0) + alt * 2 ^ 18)

/-- The nodes of the combine tree over members lo to hi, the root last (R57). -/
def treeNodes : Nat → Nat → Nat → List Nat
  | 0, _, _ => []
  | fuel + 1, lo, hi =>
    if hi ≤ lo then []
    else
      let mid := lo + (hi - lo + 2) / 2 - 1
      treeNodes fuel lo mid ++ treeNodes fuel (mid + 1) hi ++ [station lo hi]

/-- The stations of a stream: its tree's nodes, a ring's members, or the one that forwards member 0's chunks (R57, R58, R342). -/
def Stream.stations (st : Stream) : List Nat :=
  if st.op = 0 then [0] else if st.ring then upTo st.members.length else treeNodes 10 0 (st.members.length - 1)

/-- What feeds a station's inputs, in the order of its operands: a member (true), or a station (R38, R56 to R58). -/
def Stream.sources (st : Stream) (a : Nat) : List (Bool × Nat) :=
  if st.op = 0 then [(true, 0)]
  else if st.ring then (if a = 0 then [(true, 0), (false, st.members.length - 1)] else [(false, a - 1), (true, a)])
  else
    let lo := a / 256
    let hi := a % 256
    let mid := lo + (hi - lo + 2) / 2 - 1
    [if lo = mid then (true, lo) else (false, station lo mid), if mid + 1 = hi then (true, hi) else (false, station (mid + 1) hi)]

/-- The station that takes what a station sends on, if it is not the root (R57, R58). -/
def Stream.parent (st : Stream) (a : Nat) : Option Nat :=
  if st.op = 0 then none
  else if st.ring then some ((a + 1) % st.members.length)
  else (st.above 10 0 (st.members.length - 1) (a / 256) (a % 256) none).map Prod.fst

/-- The router a station is best placed at: that of the first member on its second input's side (log 43). -/
def Stream.wishes (st : Stream) (a : Nat) : Nat :=
  let m := if st.op = 0 then 0 else if st.ring then a else a / 256 + (a % 256 - a / 256 + 2) / 2
  (st.member m).core / 8

/-- A router for each station, since a router has one station and each combines one node: the one it wishes, else the next that is not taken;
none when the routers cannot host the shape (R57, R343; log 43). -/
def placeStations (st : Stream) : List Nat → Option (Sp Nat)
  | [] => some []
  | a :: rest =>
    match placeStations st rest with
    | none => none
    | some m =>
      let taken := m.map Prod.snd
      (((upTo 128).map fun i => (st.wishes a + i) % 128).find? fun r => !taken.contains r).map fun r => spSet 128 m a r

/-- The router of what feeds a station: a member's own, or the feeding station's. -/
def Stream.sourceRouter (st : Stream) (at_ : Sp Nat) (x : Bool × Nat) : Nat := if x.1 then (st.member x.2).core / 8 else spGet 0 at_ x.2

/-- The station that takes what an input delivers and what delivers it, for each input that is not the member gone (R44, R57, R58). -/
def Stream.feeds (st : Stream) (gone : Option Nat) : List (Nat × Bool × Nat) :=
  st.stations.flatMap fun a => ((st.sources a).filter fun x => !(x.1 && gone == some x.2)).map fun x => (a, x)

/-- The route of an input's chunks to its station. -/
def Stream.feedPath (st : Stream) (at_ : Sp Nat) (f : Nat × Bool × Nat) : List Nat :=
  routePath st.avoid (st.sourceRouter at_ f.2) (spGet 0 at_ f.1)

/-- The routes of a sequence set's chunks, a member gone left out: to the stations under set 0; under set 1 back down a tree, or on round a ring and to
its members; OP 0 has the one set, which forwards member 0's chunks to every member (R58, R59, R342). -/
def Stream.routes (st : Stream) (at_ : Sp Nat) (gone : Option Nat) (k : Nat) : List (List Nat) :=
  if st.op = 0 then
    (st.feeds none).map (st.feedPath at_)
      ++ ((upTo st.members.length).filter fun m => gone != some m).map fun m => routePath st.avoid (spGet 0 at_ 0) ((st.member m).core / 8)
  else (st.feeds gone).map fun f => if k = 0 ∨ (st.ring && !f.2.1) = true then st.feedPath at_ f else (st.feedPath at_ f).reverse

/-- Every router the stream needs: those of its stations and members, and those between them (R37, R343). -/
def Stream.needs (st : Stream) (at_ : Sp Nat) : List Nat := (st.routes at_ none 0).flatten.eraseDups

/-- A sequence set's word at a router, a member gone left out (R38, R56 to R59, R342). The router of a station combines the station's inputs in their
order under set 0 and sends on to the next station, a ring's to its own member too; under set 1 what comes from above, or round the ring, goes
to what feeds the station, or on and to the member. A router that holds no station forwards what passes it: every way through it is listed, up to
the four inputs a word has. -/
def Stream.setWord (st : Stream) (at_ : Sp Nat) (r : Nat) (gone : Option Nat) (k : Nat) : Word :=
  let through := ((st.routes at_ gone k).filter (·.contains r)).map (portsAt · r)
  match (at_.find? fun e => e.2 == r).map Prod.fst with
  | none => hingeWord 0 ((through.map Prod.fst).eraseDups.take 4) (through.map Prod.snd) false 0
  | some a =>
    let mine := (st.feeds gone).filter fun f => f.1 == a
    let ins := mine.map fun f => (portsAt (st.feedPath at_ f) r).1
    let next := (st.parent a).map fun b => routePath st.avoid r (spGet 0 at_ b)
    let on := (next.map fun p => (portsAt p r).2).getD 9
    let home := (mine.filter (·.2.1)).map fun f => (portsAt (st.feedPath at_ f).reverse r).2
    if st.op = 0 then hingeWord 0 ins ((st.members.map fun m => (portsAt (routePath st.avoid r (m.core / 8)) r).2)) false 0
    else if st.ring then
      let back := (mine.filter fun f => !f.2.1).map fun f => (portsAt (st.feedPath at_ f) r).1
      if k = 0 then hingeWord (if ins.length = 1 then 0 else st.op) ins (on :: home) false 0 else hingeWord 0 back (on :: home) false 0
    else if k = 0 then hingeWord (if ins.length = 1 then 0 else st.op) ins [on] false 0
    else hingeWord 0 [on] (mine.map fun f => (portsAt (st.feedPath at_ f).reverse r).2) false 0

/-- The member whose alternative a router holds: the lowest whose loss changes the router's sets; none under OP 0 (R44, R342; log 43). -/
def Stream.spared (st : Stream) (at_ : Sp Nat) (r : Nat) : Option Nat :=
  if st.op = 0 then none
  else (upTo st.members.length).find? fun m => st.setWord at_ r (some m) 0 != st.setWord at_ r none 0

/-- The four hinge-set words of a router: sets 0 and 1, and their alternatives (R38, R342). -/
def Stream.setsAt (st : Stream) (at_ : Sp Nat) (r : Nat) : List Word :=
  let set := fun gone k => if st.op = 0 ∧ k = 1 then 0 else st.setWord at_ r gone k
  match st.spared at_ r with
  | some m => [set none 0 ||| w64 (2 ^ 20 + 2 * 2 ^ 18), set none 1 ||| w64 (2 ^ 20 + 3 * 2 ^ 18), set (some m) 0, set (some m) 1]
  | none => [set none 0, set none 1, 0, 0]

/-- The lowest free entry of a router, of its 128 (R37). -/
def freeRouterEntry (s : State) (r : Nat) : Option Nat := ((upTo 128).map fun e => r * 128 + e).find? fun k => !(getRouter s k).v

/-- Installs the stream's entries in the routers it needs; none where one has no free entry (R37, R342). -/
def installEntries (node : Nat) (st : Stream) (at_ : Sp Nat) (s : State) : Option (Stream × State) :=
  (st.needs at_).foldl (init := some (st, s)) fun acc r =>
    match acc with
    | none => none
    | some (x, s) =>
      match freeRouterEntry s r with
      | none => none
      | some k =>
        let a := (at_.find? fun e => e.2 == r).map Prod.fst
        let ent : RouterEnt := ⟨true, st.part, st.num, node, 0, if st.op = 0 then 0 else 1, false, false, st.tmo, st.setsAt at_ r⟩
        some ({ x with entries := x.entries ++ [k], hosts := match a with | some a => spSet 16384 x.hosts a k | none => x.hosts },
          { s with routers := spSet RouterEnt.free s.routers k ent })

/-- The buffers a router's entries reserve at its station: two for each input of a combining hinge set (R42). -/
def buffersTaken (s : State) (r : Nat) : Nat :=
  ((s.routers.filter fun e => e.1 / 128 == r && e.2.v).map fun e =>
    let n := bits (e.2.sets.getD 0 0) 59 57
    if 2 ≤ n then 2 * n else 0).sum

/-- A station of the stream has fewer buffers than the entries at its router reserve (R37, R42, R343). -/
def lacksBuffers (s : State) (x : Stream) : Bool :=
  x.hosts.any fun h => decide (Config.stationBuffers (h.2 / 128) < buffersTaken s (h.2 / 128))

/-- Changes every router entry of a stream. -/
def modEntries (node : Nat) (f : RouterEnt → RouterEnt) (s : State) : State :=
  { s with routers := s.routers.map fun e => if e.2.node = node ∧ e.2.v = true then (e.1, f e.2) else e }

/-- The hinge set in force at a station's router (R40). -/
def stationCur (s : State) (node a : Nat) : Nat := (getRouter s (spGet 16384 (getStream s node).hosts a)).cur

/-- The routers of a stream's stations. -/
def Stream.places (st : Stream) : Sp Nat := st.hosts.map fun h => (h.1, h.2 / 128)

/-- A station's router steps to set 1 as it passes the marker on, and with it each router that holds no station once the stations of every way through it
have stepped (R40). -/
def stepStation (node a : Nat) (s : State) : State :=
  let st := getStream s node
  let s1 := modRouter s (spGet 16384 st.hosts a) fun e => { e with cur := 1 }
  let behind := ((st.feeds none).filter fun f => stationCur s1 node f.1 == 0).flatMap (st.feedPath st.places)
  (st.entries.filter fun k => !(st.hosts.any fun h => h.2 == k) && !behind.contains (k / 128)).foldl (init := s1) fun s k =>
    modRouter s k fun e => { e with cur := 1 }

/-- The input is one of the stream's: its station stands in the tree or ring over the living members, and its router holds a valid entry
(R46, R62). -/
def hasInput (s : State) (node a i : Nat) : Bool :=
  let st := getStream s node
  st.stations.contains a && (getRouter s (spGet 16384 st.hosts a)).v
    && (if st.op = 0 then i == 0
      else if st.ring then st.alive a && i == 0
      else
        let mid := a / 256 + (a % 256 - a / 256 + 2) / 2 - 1
        decide (i < 2) && st.anyAlive (a / 256) mid && st.anyAlive (mid + 1) (a % 256))

/-- The key of a station's input buffers. -/
def bufKey (station input : Nat) : Nat := station * 1024 + input

/-- An event of a stream's chunks in flight. -/
def chunkEvent (node : Nat) : Instr → Bool
  | .chunkArrival n _ _ _ => n == node
  | .markerArrival n _ _ _ => n == node
  | .chunkLanding n _ _ => n == node
  | _ => false

/-- Chunks in flight to a station's input. -/
def inFlight (s : State) (node st input : Nat) : Nat :=
  (s.pending.filter fun e => match e with
    | .chunkArrival n a b _ => n == node && a == st && b == input
    | .markerArrival n a b _ => n == node && a == st && b == input
    | _ => false).length

/-- Results in flight to a member. -/
def landings (s : State) (node m : Nat) : List Chunk :=
  s.pending.filterMap fun e => match e with
    | .chunkLanding n k c => if n = node ∧ k = m then some c else none
    | _ => none

/-- Every member can be sent one more result. -/
def resultRoom (s : State) (node : Nat) : Bool :=
  (getStream s node).survivors.all fun m => decide ((landings s node m).length < 2)

/-- The marker that steps the stream to set 1 has passed every station: what is held goes out, and nothing new is combined until the final
marker has (R40, R345). -/
def Stream.stepped (st : Stream) : Bool := st.held.any (·.mark)

/-- Sends a chunk or marker as a result to every living member (R59). -/
def toMembers (node : Nat) (c : Chunk) (s : State) : State :=
  (getStream s node).survivors.foldl (init := s) fun s m => push (.chunkLanding node m c) s

/-- Sends a chunk or marker on: to a station's input; or as a result, which waits for set 1, but for OP 0, whose one set forwards it at once
(R40, R59, R342, R345; log 43). -/
def sendOn (node : Nat) (dst : Option (Nat × Nat)) (c : Chunk) (s : State) : State :=
  match dst with
  | some (st, i) => push (if c.mark then .markerArrival node st i c else .chunkArrival node st i c) s
  | none => if (getStream s node).op = 0 then toMembers node c s else modStream s node fun x => { x with held := x.held ++ [c] }

/-- Where a chunk goes next has room for n more: buffers of a station's input, or the place where results wait (R42). -/
def roomFor (s : State) (node n : Nat) (dst : Option (Nat × Nat)) : Bool :=
  match dst with
  | some (a, i) => decide ((spGet [] (getStream s node).bufs (bufKey a i)).length + inFlight s node a i + n ≤ 2)
  | none => if (getStream s node).op = 0 then resultRoom s node else !(getStream s node).stepped

/-- Sends what a member's send buffers hold while credits permit (R345). -/
def drainSend (node m : Nat) : Nat → State → State
  | 0, s => s
  | fuel + 1, s =>
    let st := getStream s node
    match (st.member m).send with
    | [] => s
    | c :: rest =>
      if roomFor s node 1 (st.entry m) && !st.frozen then
        drainSend node m fuel (sendOn node (st.entry m) c (modStream s node fun x => x.modMember m fun k => { k with send := rest }))
      else s

/-- The chunks of an input that stand before its first marker and may be matched (R40). -/
def matchable (cs : List Chunk) : List Chunk := cs.takeWhile fun c => !c.mark

/-- The inputs of a station. -/
def Stream.inputs (st : Stream) (a : Nat) : List Nat := if st.op = 0 then [0] else if st.ring then [a] else [0, 1]

/-- Removes the first chunk of a SEQ that may be an operand. -/
def removeSeq (seq : Nat) : List Chunk → List Chunk
  | [] => []
  | c :: cs => if c.seq = seq ∧ c.unm = false then cs else c :: removeSeq seq cs

/-- The operand of a SEQ at an input (R41). -/
def operandOf (seq : Nat) (cs : List Chunk) : Option Chunk := (matchable cs).find? fun c => c.seq == seq && !c.unm

/-- Wakes the communication thread of each living member's core with a reason, where slot 0 holds one of the stream's own context
(R44, R45, R152, R160). -/
def wakeMembers (node which : Nat) (s : State) : State :=
  let st := getStream s node
  st.survivors.foldl (init := s) fun s m =>
    let t := 16 * (st.member m).core
    let th := getTh s t
    if liveTh th && th.ctx == (getNode s node).owner then
      modTh s t fun th => { th with reasons := th.reasons ||| (if which = 0 then 1 else 2) }
    else s

/-- Discards every chunk and marker of the stream, buffered or in flight (R44, R347). -/
def purgeStream (node : Nat) (s : State) : State :=
  modStream { s with pending := s.pending.filter fun e => !chunkEvent node e } node fun x =>
    { x with bufs := [], quiet := [], held := [], members := x.members.map fun k => { k with send := [] } }

/-- The stream fails (R45, R46). -/
def failStream (node : Nat) (s : State) : State :=
  let st := getStream s node
  if st.v && !st.failed then
    wakeMembers node 1 (modEntries node (fun e => { e with failed := true })
      (modStream (purgeStream node s) node fun x => { x with failed := true, frozen := false, awaited := [] }))
  else s

/-- A chunk's length suits the stream's operation (R41, R50). -/
def Stream.lengthOk (st : Stream) (n : Nat) : Bool :=
  n % 8 == 0 && decide (n ≤ 4096) && (st.op != 12 || n % (16 + 4 * dwLanes st.dw) == 0)

/-- The units a ring cuts a payload in: whole rows for OP 12, 8 bytes otherwise. -/
def Stream.unit (st : Stream) : Nat := if st.op = 12 then 16 + 4 * dwLanes st.dw else 8

/-- Segment g of n of a payload (R58). -/
def Stream.segment (st : Stream) (n g : Nat) (bs : List Byte) : List Byte :=
  let u := bs.length / st.unit
  let a := g * u / n
  let b := (g + 1) * u / n
  (bs.drop (a * st.unit)).take ((b - a) * st.unit)

/-- One combine of two chunks, operand 1 and operand 2: the chunks it sends; none where the lengths break R41. -/
def Stream.combine (st : Stream) (a b : Chunk) : Option (List Chunk) :=
  let c : Chunk := { a with member := min a.member b.member, rst := a.rst || b.rst }
  if st.op = 11 then
    let (o, rest) := sparseMerge a.data b.data
    some ({ c with data := o } :: (if rest.isEmpty then [] else [{ c with data := rest, unm := true, split := true }]))
  else if a.data.length = b.data.length ∧ st.lengthOk a.data.length then some [{ c with data := stationOp st.op st.dw a.data b.data }]
  else none

/-- The result of a ring's segment g of n, from the chunks of the living members ms: from member g + 1 on round the ring, the path omitting the
dead, the lower index being operand 1 (R56, R58, R62). -/
def Stream.ringSegment (st : Stream) (n g : Nat) (ms : List Nat) (cs : List Chunk) : Option (List Chunk) :=
  let order := ((upTo n).map fun i => (g + 1 + i) % n).filter ms.contains
  let part := fun m => (cs[ms.findIdx (· == m)]?).map fun c => { c with data := st.segment n g c.data }
  match order with
  | [] => none
  | m0 :: rest =>
    rest.foldl (init := (part m0).map fun c => [c]) fun acc m =>
      match acc, part m with
      | some (x :: extra), some y =>
        (st.combine (if x.member ≤ y.member then x else y) (if x.member ≤ y.member then y else x)).map (· ++ extra)
      | _, _ => none

/-- The common SEQ that every one of these inputs holds an operand of, in the order of the first. -/
def commonSeq (bufs : List (List Chunk)) : Option Nat :=
  match bufs with
  | [] => none
  | b :: bs => ((matchable b).filter fun c => !c.unm).map (·.seq) |>.find? fun q => bs.all fun l => (operandOf q l).isSome

/-- One step at a station of a tree under set 0: a combine, an unmerged chunk forwarded after the station's own of its SEQ, or the markers of
every input passed on as one, which steps the router to set 1 (R40 to R42); none when the station waits. A sparse merge may send two chunks. -/
def stepTree (node a : Nat) (s : State) : Option State :=
  let st := getStream s node
  let buf := fun i => spGet [] st.bufs (bufKey a i)
  let put := fun (s : State) i cs => modStream s node fun x => { x with bufs := spSet [] x.bufs (bufKey a i) cs }
  let dst := st.next (a / 256) (a % 256)
  if stationCur s node a ≠ 0 ∨ roomFor s node 1 dst = false then none
  else
    match [0, 1].find? fun i => match buf i with | c :: _ => c.unm && !c.mark | [] => false with
    | some i => match buf i with
      | c :: rest => some (sendOn node dst c (put s i rest))
      | [] => none
    | none =>
      match commonSeq [buf 0, buf 1] with
      | some q =>
        match operandOf q (buf 0), operandOf q (buf 1) with
        | some x, some y =>
          let s1 := put (put s 0 (removeSeq q (buf 0))) 1 (removeSeq q (buf 1))
          match st.combine x y with
          | some cs => if roomFor s node cs.length dst then some (cs.foldl (init := s1) fun s c => sendOn node dst c s) else none
          | none => some (failStream node s)
        | _, _ => none
      | none =>
        match buf 0, buf 1 with
        | x :: xs, y :: ys => if x.mark && y.mark then some (stepStation node a (sendOn node dst x (put (put s 0 xs) 1 ys))) else none
        | _, _ => none

/-- One step of a ring or of OP 0: the results of a SEQ whose chunks are all present, or the marker of every member passed on (R58, R63). A ring
is stepped as a whole, and an empty segment sends nothing (log 43). -/
def stepFlat (node : Nat) (s : State) : Option State :=
  let st := getStream s node
  let ms := if st.op = 0 then [0] else st.survivors
  let key := fun m => if st.op = 0 then bufKey 0 0 else bufKey m 0
  let buf := fun m => spGet [] st.bufs (key m)
  let put := fun (s : State) m cs => modStream s node fun x => { x with bufs := spSet [] x.bufs (key m) cs }
  if !roomFor s node 1 none then none
  else
    match commonSeq (ms.map buf) with
    | some q =>
      let s1 := ms.foldl (init := s) fun s m => put s m (removeSeq q (buf m))
      let cs := ms.filterMap fun m => operandOf q (buf m)
      if st.op = 0 then some (cs.foldl (init := s1) fun s c => sendOn node none c s)
      else
        match (upTo st.members.length).foldl (init := some []) fun acc g =>
          match acc, st.ringSegment st.members.length g ms cs with
          | some l, some r => some (l ++ r.filter fun c => !c.data.isEmpty)
          | _, _ => none with
        | some rs => if (cs.all fun c => c.data.length == (cs.headD ⟨0, 0, 0, false, false, false, false, []⟩).data.length) || st.op == 11
            then some (rs.foldl (init := s1) fun s c => sendOn node none c s) else some (failStream node s)
        | none => some (failStream node s)
    | none =>
      if ms.all fun m => match buf m with | c :: _ => c.mark | [] => false then
        match ms.head? with
        | some m0 =>
          match buf m0 with
          | c :: _ =>
            let s1 := ms.foldl (init := s) fun s m => put s m ((buf m).drop 1)
            let s2 := if st.op = 0 then s1 else ms.foldl (init := s1) fun s m => stepStation node m s
            some (sendOn node none c s2)
          | [] => none
        | none => none
      else none

/-- Set 1: the oldest held result goes to every member; the marker after the last is the final marker, and steps every router back to set 0
(R40, R59, R345). -/
def releaseHeld (node : Nat) (s : State) : Option State :=
  let st := getStream s node
  match st.held with
  | [] => none
  | c :: rest =>
    if st.stepped && resultRoom s node then
      let s1 := toMembers node c (modStream s node fun x => { x with held := rest })
      some (if c.mark then modEntries node (fun e => { e with cur := 0 }) s1 else s1)
    else none

/-- Runs the stations until every one waits, then lets the send buffers drain. fuel bounds the steps. -/
def pumpStream (node : Nat) : Nat → State → State
  | 0, s => s
  | fuel + 1, s =>
    let st := getStream s node
    if st.failed || st.frozen || !st.v then s
    else
      let s := (upTo st.members.length).foldl (init := s) fun s m => drainSend node m 2 s
      let next :=
        if st.op = 0 ∨ st.ring then stepFlat node s
        else (((spKeys st.bufs).map (· / 1024)).eraseDups).findSome? fun a => stepTree node a s
      match (match next with | some s' => some s' | none => releaseHeld node s) with
      | some s' => pumpStream node fuel s'
      | none => s

/-- A chunk or marker reaches a station: one that no input of the stream awaits, past the buffers, or of a length R41 forbids fails the stream
(R41, R42, R46). A marker of another member than 0 has no effect under OP 0 (R342). -/
def enterStation (node a i : Nat) (c : Chunk) (s : State) : State :=
  let st := getStream s node
  if !st.v || st.failed || st.frozen then s
  else if st.op = 0 ∧ a = 0 ∧ i ≠ 0 ∧ c.mark = true then s
  else
    let b := spGet [] st.bufs (bufKey a i)
    if hasInput s node a i = false ∨ 2 ≤ b.length ∨ (c.mark = false ∧ c.unm = false ∧ c.split = false ∧ st.lengthOk c.data.length = false) then
      failStream node s
    else
      pumpStream node 2048 (modStream s node fun x =>
        { x with bufs := spSet [] x.bufs (bufKey a i) (b ++ [c]), quiet := spErase (bufKey a i) x.quiet })

/-! ### Landing (R341, R346) -/

/-- The landing slot of a SEQ (R341). -/
def Stream.slotOf (st : Stream) (seq : Nat) : Nat := (seq + st.nland - 1) % st.nland

/-- The runs of a member's landing slot from a byte on, in its core's private part. -/
def landRuns (s : State) (node : Nat) (k : Member) (o n : Nat) : List Piece :=
  let nd := getNode s node
  let (rn, ri) := rotOf s nd.part nd.tenant
  match localRuns s k.core rn ri (n + 1) o n with
  | .ok ps => ps
  | .error _ => []

/-- The SEQ whose slot a landing takes: a final marker lands in the slot of NEXT − 1 (R346). -/
def landSeq (k : Member) (c : Chunk) : Nat := if c.mark then k.next - 1 else c.seq

/-- A landing must wait: a new SEQ finds its slot's first landing word still full (R346). -/
def landingWaits (s : State) (node m : Nat) (c : Chunk) : Bool :=
  let st := getStream s node
  let k := st.member m
  let seq := landSeq k c
  let slot := st.slotOf seq
  match landRuns s node k (k.land + slot * st.slotsz * 4096) 8 with
  | p :: _ => feOf s p.key && (spGet [] k.slots slot).getD 0 0 != seq + 1
  | [] => false

/-- A landing word (R346). -/
def landingWord (st : Stream) (c : Chunk) (seq o8 : Nat) : Word :=
  w64 (seq % 2 ^ 24 * 2 ^ 40 + st.num * 2 ^ 28 + (if c.mark then 2 ^ 27 else 0) + (if c.unm then 2 ^ 26 else 0)
    + (if c.rst then 2 ^ 25 else 0) + (if c.mark then 0 else o8) * 2 ^ 14 + (if c.mark then 0 else c.data.length / 8) * 16)

/-- Writes bytes at a member's core and serves what they change; full sets the bits of the words. -/
def landWrite (ps : List Piece) (data : List Byte) (full : Bool) (s : State) : State :=
  let s1 := wrPieces s ps data
  let s2 := if full then (wordsOf ps).foldl (fun s w => setFe s (w * 8) true) s1 else s1
  afterWrite s ps s2

/-- Where a landing goes in its slot (R346): the slot is new to the SEQ; landing words so far; the payload's place in units of 8 bytes. -/
def landPlace (k : Member) (slot : Nat) (c : Chunk) : Bool × Nat × Nat :=
  let old := spGet [] k.slots slot
  let fresh := old.getD 0 0 != landSeq k c + 1
  let again := !fresh && c.rst && old.getD 1 0 == 0
  (fresh, if fresh then 0 else old.getD 3 0, if fresh || again then 0 else old.getD 2 0)

/-- The words a landing writes. -/
def landWords (s : State) (node m : Nat) (c : Chunk) : List Nat :=
  let st := getStream s node
  let k := st.member m
  let slot := st.slotOf (landSeq k c)
  let base := k.land + slot * st.slotsz * 4096
  let (_, words, o8) := landPlace k slot c
  wordsOf ((if c.mark then [] else landRuns s node k (base + 64 + 8 * o8) c.data.length) ++ landRuns s node k (base + 8 * words) 8)

/-- A result chunk or a final marker lands at a member: payload, then its landing word set full, copied to q0 where a communication
thread of the stream's context finds room (R346, R160). Past the slot's end, or a ninth word, the stream fails. -/
def landChunk (node m : Nat) (c : Chunk) (s : State) : State :=
  let st := getStream s node
  let k := st.member m
  let seq := landSeq k c
  let slot := st.slotOf seq
  let base := k.land + slot * st.slotsz * 4096
  let old := spGet [] k.slots slot
  let (fresh, words, o8) := landPlace k slot c
  let n8 := if c.mark then 0 else c.data.length / 8
  if 8 ≤ words ∨ st.slotsz * 4096 < 64 + 8 * (o8 + n8) then failStream node s
  else
    let w := landingWord st c seq o8
    let s1 := if c.mark then s else landWrite (landRuns s node k (base + 64 + 8 * o8) c.data.length) c.data false s
    let s2 := landWrite (landRuns s node k (base + 8 * words) 8) (leList 8 w.toNat) true s1
    let t := 16 * k.core
    let th := getTh s2 t
    let s3 :=
      if liveTh th && th.ctx == (getNode s node).owner && decide ((spGet [] (getCore s2 k.core).inq 0).length < 8) then
        modCore s2 k.core fun x => { x with inq := spSet [] x.inq 0 (spGet [] x.inq 0 ++ [w]) }
      else s2
    let more := ((landings s node m) ++ st.held).any fun x => x.seq == c.seq && !x.mark
    modStream s3 node fun x => x.modMember m fun k =>
      { k with
        lcc := if c.mark || more then k.lcc else c.seq
        slots := spSet [] k.slots slot [seq + 1, if c.rst then 1 else (if fresh then 0 else old.getD 1 0), o8 + n8, words + 1] }

/-! ### Death and re-stitch (R43 to R45, R62) -/

/-- Step 3 of R44 at one router: each sequence hinge set that has an alternative is replaced with it: the set without the dead member (log 43). -/
def useAlternatives (sets : List Word) (e : RouterEnt) : RouterEnt :=
  { e with
    altUsed := true
    sets := (upTo e.sets.length).map fun i =>
      let w := e.sets.getD i 0
      if i ≤ e.nseq ∧ bit w 20 = true then sets.getD i 0 else w }

/-- A path goes over the global link between two quadrants. -/
def crosses (path : List Nat) (q p : Nat) : Bool :=
  (path.zip (path.drop 1)).any fun h => (h.1 / 8 == q && h.2 / 8 == p) || (h.1 / 8 == p && h.2 / 8 == q)

/-- The routers at the ends of the down links that a path goes over. -/
def downEnds (down : List (Nat × Nat)) (path : List Nat) : List Nat :=
  ((path.zip (path.drop 1)).filter fun h => h.1 / 8 != h.2 / 8 && down.contains (h.1 / 8, linkTo (h.1 / 8) (h.2 / 8))).flatMap fun h => [h.1, h.2]

/-- The router entries next to a dead member or link: that of the station the member feeds, and those at the ends of a down link on the member's way to it
(R44). -/
def nextTo (s : State) (st : Stream) (m : Nat) : List Nat :=
  ((st.feeds none).filter fun f => f.2.1 && f.2.2 == m).flatMap fun f =>
    spGet 16384 st.hosts f.1 :: st.entries.filter fun k => (downEnds s.pkg.linkDown (st.feedPath st.places f)).contains (k / 128)

/-- A death needs an alternative that its router does not have (R45): of a member that no station takes an input of its own from, or at a router whose set
has AV 0. -/
def noAlternative (s : State) (st : Stream) (m : Nat) : Bool :=
  (nextTo s st m).isEmpty || (nextTo s st m).any fun k => !bit ((getRouter s k).sets.getD 0 0) 20

/-- An input declared dead takes its member out: the first death freezes and purges the stream, replaces the hinge sets next to the member and
asks each survivor's LCC; another, one before the re-stitch ends, or one whose alternative is missing fails it (R44, R45). The purge takes
the stream's markers with it and leaves every router at set 0, of which R44 says nothing (DESIGN CHOICE; log 43). -/
def declareDead (node m : Nat) (s : State) : State :=
  let st := getStream s node
  if !st.v || st.failed || !decide (m < st.members.length) || st.dead == some m && !st.frozen then s
  else if st.dead.isSome || st.frozen || noAlternative s st m then failStream node s
  else
    let sets := fun (k : Nat) => [st.setWord st.places (k / 128) (some m) 0, st.setWord st.places (k / 128) (some m) 1]
    let s0 := (nextTo s st m).foldl (fun s k => modRouter s k (useAlternatives (sets k))) (modEntries node (fun e => { e with cur := 0 }) s)
    let s1 := modStream (purgeStream node s0) node fun x =>
      { x with frozen := true, dead := some m, awaited := (upTo x.members.length).filter (· != m) }
    ((upTo st.members.length).filter (· != m)).foldl (init := s1) fun s k => push (.lccReport node k) s

/-- The inputs of a stream that a path over any of some global links feeds: the living member an input is the endpoint's of, or none for one that a station
feeds (R43). Under OP 0 the ways to the members count as well. -/
def Stream.lost (st : Stream) (cut : List Nat → Bool) : List (Option Nat) :=
  let at_ := st.places
  let fed := ((st.feeds none).filter fun f => cut (st.feedPath at_ f) && (!f.2.1 || st.alive f.2.2)).map fun f => if f.2.1 then some f.2.2 else none
  let sent := if st.op = 0 then ((upTo st.members.length).filter fun m => cut (routePath st.avoid (spGet 0 at_ 0) ((st.member m).core / 8))).map some else []
  fed ++ sent

/-- A stream's inputs over these links are gone: one that a station feeds has no alternative and fails the stream (R45); else the lowest member is
declared dead, one input at a time (R43). -/
def loseInputs (node : Nat) (gone : List (Option Nat)) (s : State) : State :=
  if gone.contains none then failStream node s
  else
    match (upTo 256).find? fun m => gone.contains (some m) with
    | some m => pushOnce (.inputDeadDeclare node m) s
    | none => s

/-- A survivor's LCC reaches the name engine; when all are in, the resume point is set, the entry unfrozen and the survivors woken
(R44); an input whose link is still down is judged afresh (R43). -/
def reportLcc (node m : Nat) (s : State) : State :=
  let st := getStream s node
  if st.frozen && st.awaited.contains m then
    let left := st.awaited.filter (· != m)
    if left.isEmpty then
      let least := st.survivors.foldl (init := 2 ^ 32) fun n k => min n (st.member k).lcc
      loseInputs node (st.lost fun p => !(downEnds s.pkg.linkDown p).isEmpty) (wakeMembers node 0 (modStream s node fun x =>
        { x with
          awaited := [], frozen := false, restitched := true, resume := least + 1
          quiet := []
          members := x.members.map fun k => { k with rejoin := true } }))
    else modStream s node fun x => { x with awaited := left }
  else s

/-- The lowest member index under an input of a station: the one a timeout declares dead (R43). -/
def Stream.inputMember (st : Stream) (a i : Nat) : Nat :=
  if st.op = 0 then 0
  else if st.ring then a
  else
    let lo := a / 256
    let hi := a % 256
    let mid := lo + (hi - lo + 2) / 2 - 1
    let from_ := if i = 0 then lo else mid + 1
    let upto := if i = 0 then mid else hi
    ((upTo (upto + 1 - from_)).map (· + from_)).find? st.alive |>.getD from_

/-- Another input of the same set holds a chunk or marker that waits for this one (R43). -/
def Stream.waitsFor (st : Stream) (a i : Nat) : Bool :=
  let buf := fun a i => spGet [] st.bufs (bufKey a i)
  let others := if st.ring then (st.survivors.filter (· != a)).map fun m => buf m 0 else [buf a (1 - i)]
  let mine := buf a i
  st.op != 0 && others.any fun b =>
    ((matchable b).any fun c => !c.unm && (operandOf c.seq mine).isNone) || ((b.headD ⟨0, 0, 0, false, false, false, false, []⟩).mark && !(mine.headD ⟨0, 0, 0, false, false, false, false, []⟩).mark)

/-- The inputs that may be waited for: those of the stations under set 0 at which something stands. -/
def watchedInputs (s : State) (node : Nat) : List (Nat × Nat) :=
  let st := getStream s node
  if st.ring then (if st.stepped || st.bufs.isEmpty then [] else st.survivors.map fun m => (m, 0))
  else
    (((spKeys st.bufs).map (· / 1024)).eraseDups.filter fun a => stationCur s node a == 0 && hasInput s node a 0).flatMap fun a => [(a, 0), (a, 1)]

/-- A running cycle of a stream passes: an input that another waits for has been quiet for one cycle more, and one that none waits for is not
counted (R43). -/
def ageStream (s : State) (node : Nat) : State :=
  let st := getStream s node
  if !st.v || st.failed || st.frozen then s
  else
    modStream s node fun x => { x with
      quiet := ((watchedInputs s node).filter fun i => x.waitsFor i.1 i.2).foldl (init := []) fun m i =>
        spSet 0 m (bufKey i.1 i.2) (spGet 0 x.quiet (bufKey i.1 i.2) + 1) }

/-- An input has delivered nothing for TMO × 1,024 running cycles while another of its set holds a chunk waiting for it (R43). -/
def Stream.silent (st : Stream) (a i : Nat) : Bool :=
  st.v && !st.failed && !st.frozen && st.op != 0 && decide (0 < st.tmo) && decide (st.tmo * 1024 ≤ spGet 0 st.quiet (bufKey a i))

/-- The input a stream declares dead when several are silent: of the stations over the fewest members the one whose input covers the lowest member
(R43; log 43). -/
def Stream.silentInput (st : Stream) : Option (Nat × Nat) :=
  let rank := fun (x : Nat × Nat) => (if st.ring then 0 else x.1 % 256 - x.1 / 256) * 1024 + st.inputMember x.1 x.2
  (((spKeys st.quiet).map fun k => (k / 1024, k % 1024)).filter fun x => st.silent x.1 x.2).foldl (init := none) fun best x =>
    match best with
    | none => some x
    | some b => if rank x < rank b then some x else some b

/-- The input is a member's own: the endpoint's (R43). -/
def Stream.memberFed (st : Stream) (a i : Nat) : Bool :=
  if st.op = 0 ∨ st.ring then true else ((st.sources a)[i]?.map Prod.fst).getD false

/-! ### The stream node (R341 to R343) -/

/-- SDESC as stored: its reset value holds TMO 8 (R341). -/
def sdescOf (s : State) (node : Nat) : Word := rdWord s (nodeKey node 8) ^^^ w64 (8 * 2 ^ 29)

/-- Member k's words as stored. -/
def memberWord (s : State) (node k w : Nat) : Word := rdWord s (nodeKey node (0x100 + 16 * k + 8 * w))

/-- The cores of a partition: those of its record; without one no core. -/
def inPartition (s : State) (part core : Nat) : Bool :=
  let p := getPart s part
  p.v && p.cores.contains core

/-- Creation of a collective stream with start value v: the code of R343 and the state. The links that are down then are left out of its paths (R26). -/
def createStream (node : Nat) (v : Word) (s : State) : Int × State :=
  let nd := getNode s node
  let d := sdescOf s node
  let op := bits d 63 60
  let ring := bit d 59
  let dw := bits d 58 57
  let num := bits d 56 45
  let tmo := bits d 44 29
  let nmem := bits d 28 20
  let nland := bits d 19 16
  let slotsz := bits d 15 12
  let cores := (upTo nmem).map fun k => bits (memberWord s node k 0) 9 0
  let lands := (upTo nmem).map fun k => (memberWord s node k 1).toNat
  let rn := (rotOf s nd.part nd.tenant).1
  let st : Stream :=
    { v := true, part := nd.part, num := num, op := op, ring := ring, dw := dw, tmo := tmo, nland := nland, slotsz := slotsz,
      failed := false, frozen := false, restitched := false, dead := none, resume := 0, awaited := [],
      members := List.zipWith (fun c l => ⟨c, l, bits v 31 0, 0, [], [], false⟩) cores lands, bufs := [], quiet := [], hosts := [], entries := [],
      held := [], avoid := s.pkg.linkDown }
  let landOk := fun (c l : Nat) => l % 4096 == 0 && decide (l + nland * slotsz * 4096 ≤ 4096 * splitOf s (c / 8) / rn)
  if (getStream s node).v then (-4, s)
  else if 13 ≤ op ∨ (if op = 12 then dw = 0 else dw ≠ 0) ∨ nmem < 2 ∨ 240 < nmem ∨ nland < 1 ∨ slotsz < 1 ∨ 4 < slotsz ∨ tmo < 8
      ∨ bits d 11 0 ≠ 0 ∨ ((upTo nmem).any fun k => bits (memberWord s node k 0) 63 10 != 0) = true ∨ cores.eraseDups.length ≠ cores.length ∨ (List.zipWith landOk cores lands).all (· == true) = false
      ∨ bits v 31 0 = 0 ∨ bits v 63 32 ≠ 0 then (-3, s)
  else if s.streams.any fun e => e.2.v && e.2.part == nd.part && e.2.num == num then (-4, s)
  else if cores.all (inPartition s nd.part) = false then (-5, s)
  else
    match placeStations st st.stations with
    | none => (-5, s)
    | some at_ =>
      match installEntries node st at_ s with
      | none => (-1, s)
      | some (x, s1) => if lacksBuffers s1 x then (-2, s) else (0, setStream s1 node x)

/-- Closes a stream: purged, its entries freed; DEAD and RESUME stay for inspection (R347). -/
def closeStream (node : Nat) (s : State) : State :=
  let st := getStream s node
  setStream { s with
      pending := s.pending.filter fun e => !chunkEvent node e, routers := s.routers.filter fun e => !(e.2.node == node && e.2.v) } node
    { Stream.idle with dead := st.dead, resume := st.resume, restitched := st.restitched }

/-- A collective stream node's words (R341). -/
def streamWord (s : State) (node o : Nat) : Word :=
  let st := getStream s node
  if o = 0 then
    w64 ((if st.v then 2 ^ 63 else 0) + (if st.failed then 2 ^ 62 else 0) + (if st.restitched then 2 ^ 61 else 0) + st.resume % 2 ^ 32)
  else if o = 8 then sdescOf s node
  else if o = 0x18 then (match st.dead with | some m => w64 (2 ^ 63 + m) | none => 0)
  else if o = 0x10 ∨ 0x100 ≤ o then rdWord s (nodeKey node o)
  else 0

/-- The bits of a collective stream node's word that a write stores (R341). -/
def streamMask (o : Nat) : Word :=
  if o = 8 then 0xFFFFFFFFFFFFF000
  else if 0x100 ≤ o then BitVec.allOnes 64
  else 0

end Sys2Proof.Machine
end

