-- ==== Sys2Proof/Machine/Units.lean ====
section
/-! DEFINITION. The words of queue, engine, stream and window nodes, the mapping tables, and the accesses that agents other than
threads make (R83, R102 to R106, R223 to R225, R341, R401, R74, R75). -/

namespace Sys2Proof.Machine

/-! ### Accesses of agents -/

/-- Writes pieces, setting the full/empty bits of whole words: fe 0 leaves them, 1 fills, 2 empties (R65). -/
def storeFe (core : Nat) (ps : List Piece) (data : List Byte) (fe : Nat) (s : State) : State :=
  let s1 := keepWritten core ps (wrPieces (homeStore core ps s) ps data)
  let s2 := if fe = 0 then s1 else (wholeWords ps).foldl (fun s w => setFe s (8 * w) (fe == 1)) s1
  afterWrite s ps s2

/-! ### Queue nodes (R102 to R106) -/

/-- A queue by its number. -/
def getQueue (s : State) (q : Nat) : GQueue := spGet GQueue.none s.queues q

/-- Changes a queue. -/
def modQueue (s : State) (q : Nat) (f : GQueue → GQueue) : State := { s with queues := spSet GQueue.none s.queues q (f (getQueue s q)) }

/-- An agent's access through a handle whose node record the host did not supply in time (R89). -/
def agentLate (s : State) (w : Who) (a : Word) : Bool :=
  match hostMiss s w.unit w.ctx (hdl a) with
  | some n => s.timedOut.contains n
  | none => false

/-- The pieces of n bytes of a queue's ring from a byte on, through its owner's handle as it stands at each access, or why there are none.
DESIGN CHOICE: the spec does not say that the ring is fixed at the queue's creation (R105; log 70). -/
def ringPieces (s : State) (q : GQueue) (o n : Nat) (need : Need) : Except TrapInfo (List Piece) :=
  let w := whoCtx s q.owner
  if agentLate s w q.ring then .error ⟨2, 7, q.ring⟩
  else
  match resolve s w (offWrap q.ring (Int.ofNat o)) n need with
  | .ok (.mem ps) => if (refusedPiece s w.part ps).isSome then .error ⟨2, 2, q.ring⟩ else .ok ps
  | .ok _ => .error ⟨2, 3, q.ring⟩
  | .error i => .error i

/-- The header word of a ring slot is full (R103). -/
def slotFull (s : State) (q : GQueue) (slot : Nat) : Bool :=
  match ringPieces s q (128 * slot) 8 needRd with
  | .ok (p :: _) => feOf s p.key
  | _ => false

/-- QINFO of a message queue (R102). -/
def qinfo (s : State) (q : GQueue) : Word :=
  w64 (q.slots % 65536 * 2 ^ 48 + ((upTo q.slots).filter (slotFull s q)).length % 65536 * 2 ^ 32 + q.seqno % 2 ^ 32)

/-- GQINFO of a graph queue (R105). -/
def gqinfo (q : GQueue) : Word :=
  w64 (q.slots % 65536 * 2 ^ 48 + q.head * 2 ^ 32 + q.tail * 2 ^ 16 + (if q.stopped then 2 ^ 15 else 0)
    + (if q.resident then 2 ^ 14 else 0) + q.accept % 4 * 2 ^ 12 + (if q.skip then 2 ^ 11 else 0) + 1)

/-- Word 2 of a STAT record of a queue (R93, R102, R105). -/
def queueStat (s : State) (q : GQueue) : Word := if q.graph then gqinfo q else qinfo s q

/-- Appends one message of 1 to 64 bytes at a window offset: data and sequence first, then the header, set full; a full tail slot refuses it, and
a longer message is refused as by a full queue (R102, R103, R318). -/
def queueAppendTo (qn o ctx tenant pkg : Nat) (a : Word) (data : List Byte) (s : State) : Except TrapInfo State :=
  let q := getQueue s qn
  if q.graph ∨ data.length = 0 ∨ 0x1000 < o + data.length then .error ⟨2, 4, a⟩
  else if 64 < data.length then .error ⟨2, 6, a⟩
  else
    match ringPieces s q (128 * q.tail) 8 needWr, ringPieces s q (128 * q.tail + 8) 120 needWr with
    | .ok hd, .ok body =>
      if slotFull s q q.tail then .error ⟨2, 6, a⟩
      else
        let header := o % 4096 * 2 ^ 52 + data.length * 2 ^ 45 + ctx * 2 ^ 29 + tenant * 2 ^ 21
        let word1 := q.seqno % 2 ^ 32 * 2 ^ 32 + pkg % 256 * 2 ^ 24
        let bytes := leList 8 word1 ++ data ++ List.replicate (64 - data.length) 0 ++ List.replicate 48 0
        let s1 := storeFe 2000 body bytes 0 s
        let s2 := storeFe 2000 hd (leList 8 header) 1 s1
        .ok (modQueue s2 qn fun q => { q with tail := (q.tail + 1) % q.slots, seqno := (q.seqno + 1) % 2 ^ 32 })
    | .error i, _ => .error ⟨2, i.reason, a⟩
    | _, .error i => .error ⟨2, i.reason, a⟩

/-- Posted slots of a graph queue (R106). -/
def posted (q : GQueue) : Nat := if q.slots = 0 then 0 else (q.tail + q.slots - q.head) % q.slots

/-- A TAIL store is refused (R106). -/
def tailRefused (q : GQueue) (size : Nat) (v : Word) : Bool :=
  size != 8 || bits v 63 16 != 0 || decide (q.slots ≤ bits v 15 0)
    || decide (q.slots ≤ posted q + (bits v 15 0 + q.slots - q.tail) % q.slots)

/-- The wake of a queue that is not resident: with DOORB a message to the host, else of a packet core; the mode is that of the cycle that raises it
(R120, R125, R129). -/
def queueWake (qn : Nat) (s : State) : State :=
  pushOnce (.fwCoreWake (if bit s.fw.duty 1 then .doorbell qn else .packet (Config.packetCore qn) qn)) s

/-- A TAIL store that is accepted: a resident queue's tumbler fetches; otherwise the node record takes it and a packet core wakes to
ask for a mapping decision (R106, R120). -/
def tailStore (qn : Nat) (v : Word) (s : State) : State :=
  let s1 := modQueue s qn fun q => { q with tail := bits v 15 0 }
  if (getQueue s qn).resident then pushOnce (.recordFetch qn) s1
  else queueWake qn s1

/-- GQCTL.RESUME: STOPPED clears and fetching resumes at HEAD (R116). -/
def resumeQueue (qn : Nat) (s : State) : State :=
  pushOnce (.recordFetch qn) (modQueue s qn fun q => { q with stopped := false })

/-- A store of 1 to n bytes at a queue node's offset, judged by every byte it reaches (R102, R105, R106). -/
def queueStore (qn o ctx tenant : Nat) (a : Word) (data : List Byte) (s : State) : Except TrapInfo State :=
  let q := getQueue s qn
  let last := o + data.length
  if o < 0x1000 then queueAppendTo qn o ctx tenant s.pkg.pod a data s
  else if !q.graph ∨ 0x1020 < last ∨ 0x1020 ≤ o then .error ⟨2, 3, a⟩
  else if o < 0x1010 ∧ 0x1008 < last then
    let v := w64 (leNum data)
    if o ≠ 0x1008 ∨ tailRefused q data.length v then .error ⟨2, 6, a⟩ else .ok (tailStore qn v s)
  else
    .ok (if o = 0x1010 ∧ (data.headD 0).getLsbD 0 then resumeQueue qn s else s)

/-- A queue node's word (R102, R105). -/
def queueWord (s : State) (qn o : Nat) : Word :=
  let q := getQueue s qn
  if o = 0x1000 then queueStat s q
  else if q.graph ∧ o = 0x1008 then w64 q.tail
  else if q.graph ∧ o = 0x1018 then w64 qn
  else 0

/-! ### Engine nodes (R401) -/

/-- A hart's kick queue: engine node, context, and the entry and arguments, with the record that kicked at the end. -/
def kicks (s : State) (h : Nat) : List (Nat × Nat × List Word) := spGet [] s.harts h

/-- A kick at an engine node: its words join the hart's 16-entry queue; none when the queue is full. -/
def kickHart (h node ctx : Nat) (words : List Word) (s : State) : Option State :=
  if 16 ≤ (kicks s h).length then none
  else some (pushOnce (.engineHartStart h) { s with harts := spSet [] s.harts h (kicks s h ++ [(node, ctx, words)]) })

/-- ESTAT (R401). -/
def estat (s : State) (h : Nat) : Word :=
  w64 ((if liveTh (getTh s (hart0 + h)) then 2 ^ 63 else 0) + (kicks s h).length)

/-- ENTRY and ARG0 to ARG3 as they stand at an engine node. -/
def engineWords (s : State) (node : Nat) : List Word := (upTo 5).map fun i => rdWord s (nodeKey node (0x10 + 8 * i))

/-- A store at an engine node's offset that is not plain memory. -/
def engineStore (node o ctx : Nat) (a : Word) (data : List Byte) (s : State) : Except TrapInfo State :=
  if o = 0 ∧ data.length = 8 then
    match kickHart (getNode s node).arg node ctx (engineWords s node) s with
    | some s' => .ok s'
    | none => .error ⟨2, 6, a⟩
  else if 0x38 ≤ o ∧ o + data.length ≤ 0x40 then .ok s
  else .error ⟨2, 3, a⟩

/-! ### Media stream nodes (R74, R75) -/

/-- Numerator and denominator of a frame rate code (R75). -/
def mediaRate (r : Nat) : Nat × Nat :=
  match r with
  | 1 => (24, 1) | 2 => (25, 1) | 3 => (30000, 1001) | 4 => (30, 1) | 5 => (50, 1) | 6 => (60000, 1001) | _ => (60, 1)

/-- A media node's word. -/
def mediaWord (s : State) (node o : Nat) : Word := rdWord s (nodeKey node o)

/-- Bytes of a pixel group pair times pairs in a line, and the pitch (R76). -/
def mediaLine (f : Word) : Nat × Nat :=
  let b := bits f 47 34 / 2 * (if bit f 14 then 6 else 5)
  (b, (b + 511) / 512 * 512)

/-- Groups of a frame (R77). -/
def mediaGroups (f : Word) : Nat := if bits f 7 6 = 0 then (bits f 33 20 + bits f 19 15 - 1) / bits f 19 15 else 1

/-- Bytes of a ring slot (R76). -/
def mediaSlotBytes (f : Word) : Nat := if bits f 7 6 = 0 then (mediaLine f).2 * bits f 33 20 else 65536

/-- Stride of the status records (R77). -/
def mediaStride (f : Word) : Nat := (64 + 8 * mediaGroups f + 63) / 64 * 64

/-- The format is one R75 admits; the video fields of an ancillary stream are not looked at (log 21). -/
def mediaFmtOk (f : Word) : Bool :=
  let kind := bits f 7 6
  decide (1 ≤ bits f 51 48) && decide (bits f 51 48 ≤ 7) && decide (kind ≤ 1) && decide (2 ≤ bits f 12 8)
    && (kind == 1 || (bits f 47 34 % 2 == 0 && decide (2 ≤ bits f 47 34) && decide (bits f 47 34 ≤ 7680) && decide (1 ≤ bits f 33 20)
      && decide (bits f 33 20 ≤ 4320) && decide (1 ≤ bits f 19 15) && decide (bits f 19 15 ≤ 16)))

/-- n bytes from an address lie in a memory region the node's owner can write. -/
def regionHolds (s : State) (owner : Nat) (a : Word) (n : Nat) : Bool :=
  let (e, gen) := lookupKey s (whoCtx s owner).unit owner (hdl a)
  e.v && !e.peer && e.gen == gen && e.kind == 1 && e.rights.getLsbD 1 && decide (off a + n ≤ e.limit)

/-- EN may be set (R75): enough slots for the latency, and regions large enough. A format or latency outside its range is stored at its write
and refused here (R74, R75; log 21). -/
def mediaCanStart (s : State) (node : Nat) : Bool :=
  let f := mediaWord s node 8
  let (num, den) := mediaRate (bits f 51 48)
  let l := bits (mediaWord s node 0x30) 31 0
  let owner := (getNode s node).owner
  mediaFmtOk f && decide (l ≤ 500000000)
    && decide (2 + (l * num + den * 1000000000 - 1) / (den * 1000000000) ≤ bits f 12 8)
    && regionHolds s owner (mediaWord s node 0x20) (bits f 12 8 * mediaSlotBytes f)
    && regionHolds s owner (mediaWord s node 0x28) (bits f 12 8 * mediaStride f)

/-- PTPOFF as it stands: as the servo left it while locked, moving at its last rate trim in holdover (R73). -/
def ptpOffset (s : State) : Word :=
  if s.pkg.ptpLock || s.pkg.ptpTrim == 0 then s.pkg.ptpOff
  else s.pkg.ptpOff + Config.ptpDrift s.pkg.ptpTrim (gtime s - s.pkg.ptpAt).toNat

/-- PTP time: GTIME + PTPOFF, in nanoseconds (R73). -/
def ptpTime (s : State) : Word := gtime s + ptpOffset s

/-- Alignment point of a frame in PTP nanoseconds (R79). -/
def alignment (f : Word) (frame : Nat) : Nat :=
  let (num, den) := mediaRate (bits f 51 48)
  frame * 1000000000 * den / num

/-- The time to claim a frame has come: PTP time is at least its alignment point less a period (R79). -/
def claimTime (s : State) (f : Word) (frame : Nat) : Bool :=
  let (num, den) := mediaRate (bits f 51 48)
  decide (alignment f frame * num ≤ (ptpTime s).toNat * num + den * 1000000000)

/-- The first frame whose claim time has not passed (R79). -/
def nextFrame (s : State) (f : Word) : Nat :=
  let (num, den) := mediaRate (bits f 51 48)
  let now := (ptpTime s).toNat * num
  let n := (now + den * 1000000000 - 1) / (den * 1000000000) + 1
  if alignment f n * num < now + den * 1000000000 then n + 1 else n

/-- A write of MSCTL: DUAL is written, and EN is set only when the stream can start, from the first frame it can claim on (R74, R75,
R79). -/
def mediaControl (node : Nat) (v : Word) (s : State) : State :=
  let on := bit (mediaWord s node 0) 0
  let en := bit v 0 && (on || mediaCanStart s node)
  let s1 := if en && !on then modNode s node fun n => { n with arg2 := nextFrame s (mediaWord s node 8) } else s
  wrWord s1 (nodeKey node 0) (w64 ((if en then 1 else 0) + (if bit v 1 then 2 else 0)))

/-- The bits of a media node's word that a write stores: none of the setting words while EN = 1, none of MSCNT (R74, R75). -/
def mediaMask (o : Nat) : Word :=
  match o with
  | 0x08 => 0x000FFFFFFFFFFFC0
  | 0x10 => 0x807FFFFFFFFFFFFF
  | 0x18 => 0x807FFFFFFFFFFFFF
  | 0x20 => BitVec.allOnes 64
  | 0x28 => BitVec.allOnes 64
  | 0x30 => 0xFFFFFFFF
  | _ => 0

/-! ### Words and stores of every unit -/

/-- A word of a media port's node: 0 its link is up, 8 the PTP domain of the media ports (R16, R72; log 63). -/
def portWord (s : State) (port o : Nat) : Word :=
  if o = 0 then (if (spGet Port.reset s.ports (16 + port)).up then 1 else 0) else if o = 8 then w64 s.pkg.ptpDomain else 0

/-- A word of a node that is not plain memory; kind 15 stands for the device's own nodes, the node table and the media ports (R16, R83, R89; log
63). -/
def unitWord (s : State) (node kind o : Nat) : Word :=
  let n := getNode s node
  match kind with
  | 2 => queueWord s n.arg o
  | 3 => if o = 0x38 then estat s n.arg else if 8 ≤ o ∧ o < 0x38 then rdWord s (nodeKey node o) else 0
  | 5 => if n.arg = 1 then mediaWord s node o else streamWord s node o
  | 7 => (spGet [] s.pkg.fmtw n.arg).getD (o / 8) 0
  | 15 => if n.arg = 0 then (nodeRecord s (o / 32)).getD (o % 32 / 8) 0 else portWord s n.arg o
  | _ => 0

/-- n bytes of a unit's words from an offset. -/
def unitRead (s : State) (node kind o : Nat) : Nat → List Byte
  | 0 => []
  | n + 1 => BitVec.ofNat 8 ((unitWord s node kind (o / 8 * 8)).toNat / 2 ^ (8 * (o % 8))) :: unitRead s node kind (o + 1) n

/-- A word with bytes from place i replaced. -/
def mergeBytes (w : Word) (i : Nat) (data : List Byte) : Word :=
  w64 (leNum ((leList 8 w.toNat).take i ++ data ++ (leList 8 w.toNat).drop (i + data.length)))

/-- A store into the word of a collective or media stream node. -/
def streamStoreWord (node o i : Nat) (data : List Byte) (s : State) : State :=
  let media := (getNode s node).arg = 1
  let old := unitWord s node 5 o
  let v := mergeBytes old i data
  if media then
    if o = 0 then mediaControl node v s
    else if bit (mediaWord s node 0) 0 then s
    else wrWord s (nodeKey node o) ((v &&& mediaMask o) ||| (old &&& ~~~mediaMask o))
  else if o = 0x10 then
    let (code, s') := createStream node v s
    if code = 0 then wrWord s' (nodeKey node 0x10) v else s
  else if (getStream s node).v then s
  else if o = 8 then wrWord s (nodeKey node 8) ((v &&& streamMask 8) ^^^ w64 (8 * 2 ^ 29))
  else wrWord s (nodeKey node o) ((v &&& streamMask o) ||| (rdWord s (nodeKey node o) &&& ~~~streamMask o))

/-- A store of bytes at a stream node's offset, word by word. fuel bounds the words. -/
def streamStore (node : Nat) (a : Word) : Nat → Nat → List Byte → State → Except TrapInfo State
  | 0, _, _, s => .ok s
  | fuel + 1, o, data, s =>
    if data.isEmpty then .ok s
    else if (getNode s node).arg ≠ 1 ∧ 0x20 ≤ o ∧ o < 0x100 then .error ⟨2, 3, a⟩
    else
      let n := min data.length (8 - o % 8)
      streamStore node a fuel (o + n) (data.drop n) (streamStoreWord node (o / 8 * 8) (o % 8) (data.take n) s)

/-- The bytes of a line of a unit's words. -/
def unitLine (s : State) (node kind line : Nat) : List Word := (upTo 8).map fun i => unitWord s node kind (64 * line + 8 * i)

/-- The latch registrations on a unit's lines of which a store has changed a byte are hit (R151, R325). -/
def hitUnit (node kind : Nat) (s0 s : State) : State :=
  let base := nodeKey node 0 / 64
  (((s.latches.map (·.line)).filter fun l => decide (base ≤ l) && decide (l < base + 1024)
    && unitLine s0 node kind (l - base) != unitLine s node kind (l - base)).eraseDups).foldl (fun s l => hitLatches (8 * l) s) s

/-- The effect of a store at a node that is not plain memory, or the access fault at its home (R83). -/
def unitEffect (ctx tenant node kind o : Nat) (a : Word) (data : List Byte) (s : State) : Except TrapInfo State :=
  match kind with
  | 2 => queueStore (getNode s node).arg o ctx tenant a data s
  | 3 => engineStore node o ctx a data s
  | 5 => streamStore node a (data.length + 1) o data s
  | 15 =>
    if (getNode s node).arg ≠ 0 ∧ o = 8 ∧ data.length = 8 then .ok { s with pkg := { s.pkg with ptpDomain := leNum data % 128 } }
    else .error ⟨2, 3, a⟩
  | _ => .error ⟨2, 3, a⟩

/-- A store at a node that is not plain memory: its effect and the latches it hits, or the access fault at its home (R83, R151). -/
def unitStore (ctx tenant node kind o : Nat) (a : Word) (data : List Byte) (s : State) : Except TrapInfo State :=
  match unitEffect ctx tenant node kind o a data s with
  | .ok s' => .ok (hitUnit node kind s s')
  | .error i => .error i

/-- Reads n bytes at an address for an agent (R88, R111). -/
def agentRead (s : State) (w : Who) (a : Word) (n : Nat) : Except TrapInfo (List Byte) :=
  if agentLate s w a then .error ⟨2, 7, a⟩
  else
  match resolve s w a n needRd with
  | .error i => .error i
  | .ok (.mem ps) =>
    if (refusedPiece s w.part ps).isSome then .error ⟨2, 2, a⟩
    else if (badWord s ps).isSome then .error ⟨0x0B, 0, a⟩
    else .ok (rdPieces s ps)
  | .ok (.unit node kind o gen) => if unitStale s node gen then .error ⟨2, 2, a⟩ else .ok (unitRead s node kind o n)
  | .ok _ => .error ⟨2, 3, a⟩

/-- Writes bytes at an address for an agent; fe as in storeFe (R65, R88, R111). -/
def agentWrite (w : Who) (a : Word) (data : List Byte) (fe : Nat) (s : State) : Except TrapInfo State :=
  if agentLate s w a then .error ⟨2, 7, a⟩
  else
  match resolve s w a data.length (if fe = 0 then needWr else needRw) with
  | .error i => .error i
  | .ok (.mem ps) => if (refusedPiece s w.part ps).isSome then .error ⟨2, 2, a⟩ else .ok (storeFe w.core ps data fe s)
  | .ok (.unit node kind o gen) =>
    if unitStale s node gen then .error ⟨2, 2, a⟩
    else if fe = 0 then unitStore w.ctx w.tenant node kind o a data s
    else .error ⟨2, 3, a⟩
  | .ok _ => .error ⟨2, 3, a⟩

/-! ### Scratchpad mapping tables (R223 to R225) -/

/-- The key of the mapping entry at a table offset as a core reaches it: its own, its cluster's or its quadrant's table, of which a tenant of a
rotation set has its part (R165; log 69). -/
def mapKey (s : State) (w : Who) (o : Nat) : Nat :=
  let (rn, ri) := rotOf s w.part w.tenant
  let t := (o - 0x80000) / 256
  (if t = 0 then w.core else if t = 1 then 1024 + w.core / 8 else 1152 + w.core / 64) * 16 + ri * (16 / rn) + (o - 0x80000) % 256 / 16

/-- A mapping entry. -/
def getMap (s : State) (k : Nat) : MapEnt := spGet MapEnt.reset s.maps k

/-- A word of a mapping table (R223). -/
def tableWord (s : State) (w : Who) (o : Nat) : Word := if o / 8 % 2 = 0 then (getMap s (mapKey s w o)).gaddr else (getMap s (mapKey s w o)).word1

/-- n bytes of a mapping table. -/
def tableRead (s : State) (w : Who) (o : Nat) : Nat → List Byte
  | 0 => []
  | n + 1 => BitVec.ofNat 8 ((tableWord s w (o / 8 * 8)).toNat / 2 ^ (8 * (o % 8))) :: tableRead s w (o + 1) n

/-- The level a table serves: the core's private part and lane memory, cluster memory, the quadrant's scratchpad (R223). -/
def tableLevel (table level : Nat) : Bool :=
  if table < 1024 then level == 1 || level == 2 else if table < 1152 then level == 4 else level == 5

/-- The pages of a range through a handle that must all be mapped C pages, every byte of which can be reached: their physical pages, or the reason
(R212, R224). -/
def mapPages (s : State) (w : Who) (h : Nat) (e : KeyEntry) (page : Nat) : Nat → Except Nat (List Nat)
  | 0 => .ok []
  | n + 1 =>
    if e.limit < (page + 1) * 4096 then .error 4
    else
      match lookupPage s w.unit w.ctx h e.ptroot.toNat page with
      | none => .error 4
      | some (pa, kind) =>
        if !physWhole s 4096 pa 4096 then .error 4
        else if kind ≠ 2 then .error 3
        else
          match mapPages s w h e (page + 1) n with
          | .ok ps => .ok (pa / 4096 :: ps)
          | .error r => .error r

/-- Two ranges of pages overlap. -/
def overlaps (a n b m : Nat) : Bool := decide (a < b + m) && decide (b < a + n)

/-- Copies n bytes and their full/empty bits between keys. -/
def copyCells (src dst : Nat) : Nat → State → State
  | 0, s => s
  | n + 1, s =>
    let s1 := wrByte s dst (rdByte s src)
    copyCells (src + 1) (dst + 1) n (if dst % 8 = 0 ∧ src % 8 = 0 then setFe s1 dst (feOf s src) else s1)

/-- Copies n bytes and their full/empty bits between keys, and what that changes is served as after any write (R151). -/
def copyRun (src dst n : Nat) (s : State) : State := afterWrite s [⟨dst, n, 3, 0, 0⟩] (copyCells src dst n s)

/-- Copies local runs, one after another, from a physical address on, or to it. -/
def copyPage (load : Bool) : List Piece → Nat → State → State
  | [], _, s => s
  | p :: ps, pa, s => copyPage load ps (pa + p.len) (if load then copyRun pa p.key p.len s else copyRun p.key pa p.len s)

/-- Writes back the bytes of a run of a local level from a page on; those that a window has made unreachable stand elsewhere or nowhere (R212, R215,
R225). -/
def backPage : List Piece → Nat → State → State
  | [], _, s => s
  | p :: ps, pa, s =>
    backPage ps (pa + p.len) ((upTo p.len).foldl (init := s) fun s' i =>
      if (physRun s (pa + i)).isSome then copyRun (p.key + i) (pa + i) 1 s' else s')

/-- Copies the pages of an installed entry from memory into the local range, or back, by the runs of the local level (R221, R225). -/
def mapCopy (k : Nat) (e : MapEnt) (load : Bool) (s : State) : State :=
  (upTo e.pages.length).foldl (init := s) fun s i =>
    match localRuns s (tableCore (k / 16)) e.rn e.ri 4097 (bits e.word1 31 0 + 4096 * i) 4096 with
    | .ok ps => if load || (windows s).isEmpty then copyPage load ps (e.pages.getD i 0 * 4096) s else backPage ps (e.pages.getD i 0 * 4096) s
    | .error _ => s

/-- Installs a mapping entry with word 1 v, or the reason of the access fault (R224). -/
def mapInstall (w : Who) (k : Nat) (v : Word) (s : State) : Except Nat State :=
  let old := getMap s k
  let table := k / 16
  let npg := bits v 42 32
  let l := bits v 31 0
  let (rn, ri) := rotOf s w.part w.tenant
  let core := tableCore table
  let lv := localLevel s core rn l
  let h := hdl old.gaddr
  let (e, gen) := lookupKey s w.unit w.ctx h
  if h = 0 ∨ e.v = false then .error 1
  else if e.peer then .error 3
  else if e.gen ≠ gen then .error 2
  else if rightsOk e w needRw = false ∨ e.kind ≠ 1 then .error 3
  else
    match mapPages s w h e (off old.gaddr / 4096) npg with
    | .error r => .error r
    | .ok pages =>
      if npg = 0 ∨ l % 4096 ≠ 0 ∨ tableLevel table lv = false ∨ localLevel s core rn (l + 4096 * npg - 1) ≠ lv
          ∨ (s.maps.any fun m => m.1 / 16 == table && m.1 != k && bit m.2.word1 63
              && overlaps (bits m.2.word1 31 0 / 4096) (bits m.2.word1 42 32) (l / 4096) npg) then .error 4
      else if pages.eraseDups.length ≠ pages.length ∨ (pages.any fun p => (mappedPage s p).isSome) = true then .error 3
      else
        let ent : MapEnt := ⟨old.gaddr, v &&& 0xC00007FFFFFFFFFF, pages, rn, ri, w.ctx⟩
        let s0 := dropCopies (fun pa => pages.contains (pa / 4096)) s
        let s1 := if bit v 62 then mapCopy k ent true s0 else s0
        .ok { s1 with maps := spSet MapEnt.reset s1.maps k ent }

/-- Removes an installed entry: the local contents are written back to the global lines (R225). -/
def mapRemove (k : Nat) (v : Word) (s : State) : State :=
  let e := getMap s k
  let s1 := mapCopy k e false s
  { s1 with maps := spSet MapEnt.reset s1.maps k ⟨e.gaddr, v &&& 0x400007FFFFFFFFFF, [], 1, 0, 0⟩ }

/-- The effect of a store to a mapping table: 8 bytes only; word 0 is ignored while the entry is installed (R223). -/
def tableEffect (w : Who) (o : Nat) (a : Word) (data : List Byte) (s : State) : Except TrapInfo State :=
  let k := mapKey s w o
  let e := getMap s k
  let v := w64 (leNum data)
  if data.length ≠ 8 ∨ o % 8 ≠ 0 then .error ⟨2, 3, a⟩
  else if o / 8 % 2 = 0 then
    .ok (if bit e.word1 63 then s else { s with maps := spSet MapEnt.reset s.maps k { e with gaddr := v &&& ~~~0xFFF } })
  else if bit v 63 && !bit e.word1 63 then
    match mapInstall w k v s with
    | .ok s' => .ok s'
    | .error r => .error ⟨2, r, a⟩
  else if bit e.word1 63 then .ok (if bit v 63 then s else mapRemove k v s)
  else .ok { s with maps := spSet MapEnt.reset s.maps k { e with word1 := v &&& 0x400007FFFFFFFFFF } }

/-- A store to a mapping table, with the latches on the entry's line where it changes a word (R151, R223, R325). -/
def tableStore (w : Who) (o : Nat) (a : Word) (data : List Byte) (s : State) : Except TrapInfo State :=
  match tableEffect w o a data s with
  | .ok s' =>
    .ok (if getMap s (mapKey s w o) = getMap s' (mapKey s w o) then s' else hitLatches (mapByte (mapKey s w o) 0 / 8) s')
  | .error i => .error i

end Sys2Proof.Machine
end

