-- ==== Sys2Proof/Machine/Posted.lean ====
section
/-! DEFINITION. The posted-operation journal and what uses it: puts, posted stores, block copies, peer stores, their landings and
acknowledgements (R33, R34, R250, R317 to R320). -/

namespace Sys2Proof.Machine

/-! ### Peers (R70, R71, R244) -/

/-- A route, a port with a remote package, is up: its port is, and the route has not gone down (R71). -/
def routeUp (s : State) (pkg port : Nat) : Bool := (spGet Port.reset s.ports port).up && !s.pkg.routeDown.contains (port, pkg)


/-- The partition whose record lists a peer port; one that no record lists is the system's (R70; log 61). -/
def portOwner (s : State) (port : Nat) : Option Nat := (s.parts.find? fun e => e.2.v && e.2.ports.getLsbD port).map Prod.fst

/-- The status with which a port refuses a context's packet to a peer: NOTOWNED, UNREACH, or none; the system's packets leave by its ports alone,
for which no record lists routes; a route that was down when the record lost it stays unreachable (R67, R70, R71; log 61). -/
def portRefusal (s : State) (ctx part pkg port : Nat) : Option Nat :=
  let owned := match tenantOf ctx part with
    | none => (portOwner s port).isNone
    | some n => let p := getPart s n; p.v && p.ports.getLsbD port && p.routes.contains (port, pkg)
  if !owned then some 5 else if routeUp s pkg port then none else some 4

/-- The access-fault reason of a Corzen Link status (R246). -/
def statusReason (st : Nat) : Nat :=
  match st with
  | 2 => 3 | 3 => 2 | 4 => 8 | 5 => 9 | _ => 10

/-- The journal code of a Corzen Link status (R250). -/
def statusCode (st : Nat) : Nat :=
  match st with
  | 2 => 2 | 3 => 1 | 4 => 5 | 5 => 6 | _ => 8

/-- The port that serves a function: the host's, or a peer's; none for the firmware cores and the board (R64, R65). -/
def portOf (fn : HostFn) : Option Nat :=
  match fn with
  | .pf => some 16
  | .vf _ => some 16
  | .peer g => some g.port
  | _ => none

/-- A message leaves the package: nothing leaves through a port that is down, and one that retrains holds its traffic (R17, R64, R68). -/
def emit (r : HostReply) (s : State) : State :=
  match portOf r.fn with
  | none => { s with out := s.out ++ [r] }
  | some p =>
    let q := spGet Port.reset s.ports p
    if !q.up then s
    else if q.training then { s with ports := spSet Port.reset s.ports p { q with held := q.held ++ [r] } }
    else { s with out := s.out ++ [r] }

/-- Sends a request to a peer package with the sender's tags: its kind, the remote address and its data. Kinds 16 load, 17 store, 18 put
segment or line of a block copy, 19 counter action, 32 and above name transactions (R29, R66, R88). -/
def sendPeer (g : PeerTag) (kind : Nat) (value : Word) (data : List Byte) (s : State) : State := emit ⟨.peer g, kind, value, data⟩ s

/-- The tags with which a context's request leaves through a peer entry (R66, R88). -/
def tagOf (s : State) (k : KeyEntry) (part ctx : Nat) : PeerTag := ⟨k.pkg, k.port, part, (getCtx s ctx).tenant, ctx⟩

/-- The address of a peer access at the remote package: RHDL with the offset (R86). -/
def remoteAddr (e : KeyEntry) (a : Word) : Word := mkAddr e.rhdl (off a)

/-! ### Entries (R250) -/

/-- A core's journal entry. -/
def getJ (s : State) (c e : Nat) : JEnt := spGet JEnt.free s.journal (c * 32 + e)

/-- Replaces a journal entry. -/
def setJ (s : State) (c e : Nat) (j : JEnt) : State := { s with journal := spSet JEnt.free s.journal (c * 32 + e) j }

/-- The entry is live (R250). -/
def JEnt.live (j : JEnt) : Bool := decide (j.opk ≤ 4)

/-- The lowest free entry of a core's journal. -/
def freeEntry (s : State) (c : Nat) : Option Nat := (upTo 32).find? fun e => !(getJ s c e).live

/-- A new entry of the issuing thread. -/
def newEntry (s : State) (opk : Nat) (addr caddr : Word) (gen size node : Nat) : JEnt :=
  let th := cur s
  { JEnt.free with
    opk := opk, addr := addr, caddr := caddr, gen := gen, size := size, uid := th.uid, ctx := th.ctx, part := th.part,
    slot := slotOf s.me, launch := th.launch, node := node, order := s.uids, pc := th.pc, seq := th.seq }

/-- Takes a free journal entry and goes on, or parks until one frees: the thread's instruction issues again (R158, R250). -/
def withEntry (s0 s : State) (act : Nat → State → Out) : Out :=
  match freeEntry s (coreOf s.me) with
  | none => .next (park .journal s0)
  | some e => act e { s with uids := s.uids + 1 }

/-- A launch whose threads have all been placed and have exited, with nothing left of its continuations and journal entries, ends
(R117, R142). -/
def launchEnds (s : State) (l : Nat) : Bool :=
  let x := getLaunch s l
  x.v && x.next == x.nthr && x.live == 0
    && !(s.cores.any fun e => e.2.deque.any (·.launch == l) || e.2.spill.any (·.launch == l))
    && !(s.journal.any fun e => e.2.live && !e.2.ref && e.2.launch == l)

/-- Tells the tumbler of a launch that has ended; EXEC if a thread ended by a trap it did not handle (R117). -/
def checkLaunch (l : Nat) (s : State) : State :=
  if launchEnds s l then
    let x := getLaunch s l
    pushOnce (.nodeComplete x.queue x.slot ⟨if x.trapped then 0x0E else 0, 0⟩) s
  else s

/-- A word of a journal entry; one that is not live reads 0 (R250). -/
def journalWord (j : JEnt) (w : Nat) : Word :=
  if !j.live then 0
  else
    match w with
    | 0 => w64 (j.gen % 65536 * 2 ^ 48 + j.code % 256 * 2 ^ 40 + j.opk % 8 * 2 ^ 37 + (if j.ref then 2 ^ 36 else 0) + 2 ^ 35
        + j.slot % 32 * 2 ^ 30 + j.size % 8192)
    | 1 => j.addr
    | 2 => j.caddr
    | _ => j.time

/-- The hart that holds the thread with a number. -/
def hartOf (s : State) (uid : Nat) : Option Nat := (s.threads.find? fun e => e.2.uid == uid && uid != 0).map Prod.fst

/-- Changes the thread with a number: on its hart, or where it waits for a slot or is kept while its slice or gang does not run (R163, R166,
R408). -/
def modUid (s : State) (uid : Nat) (f : Thread → Thread) : State :=
  let g := fun (e : Nat × Thread) => if e.2.uid == uid && uid != 0 then (e.1, f e.2) else e
  match hartOf s uid with
  | some t => modTh s t f
  | none => { s with
      saves := s.saves.map fun e => (e.1, { e.2 with threads := e.2.threads.map g })
      cores := s.cores.map fun e => (e.1, { e.2 with restored := e.2.restored.map g }) }

/-- The thread with a number is on a hart, waits for a slot or is kept while its slice or gang does not run. -/
def threadStands (s : State) (uid : Nat) : Bool :=
  (hartOf s uid).isSome || (s.saves.any fun e => e.2.threads.any fun x => x.2.uid == uid) || s.cores.any fun e => e.2.restored.any fun x => x.2.uid == uid

/-- Bytes of a thread's put have landed: counted for it or, once it has ended, in its context's total where the context's default events name the code (R168,
R199; log 24). -/
def countLanded (uid ctx bytes : Nat) (s : State) : State :=
  if threadStands s uid then modUid s uid (countEv 0x0A bytes)
  else modCtx s ctx fun c => if (upTo 8).any fun n => bits c.events (8 * n + 7) (8 * n) == 0x0A then { c with counts := spSet 0 c.counts 0x0A (spGet 0 c.counts 0x0A + w64 bytes) } else c

/-- Writes the 32-byte record of a refused entry at the PJBASE of the hart that holds its thread: nothing at 0. The address of a write that
faults is kept for the trap (R196). -/
def writeRecord (t c e : Nat) (s : State) : State :=
  let j := getJ s c e
  let base := (getTh s t).pjbase
  if base = 0 then setJ s c e { j with recd := some none }
  else
    let a := offWrap base (32 * Int.ofNat e)
    match agentWrite (whoOf s t) a ((upTo 4).flatMap fun w => leList 8 (journalWord j w).toNat) 0 s with
    | .ok s1 => setJ s1 c e { j with recd := some none }
    | .error i => setJ s c e { j with recd := some (some (if i.cause = 2 then i.tval else a)) }

/-- The thread with a number has not exited: it is on a hart, saved, waiting for a slot, or in a parcel (R163, R177, R250, R408). -/
def lives (s : State) (uid : Nat) : Bool :=
  let is := fun (e : Nat × Thread) => e.2.uid == uid
  let parcel := fun (e : Instr) => match e with | .parcelArrival p => p.uid == uid | .travelArrival p => p.uid == uid | _ => false
  uid != 0 && (s.threads.any is || (s.saves.any fun e => e.2.threads.any is || e.2.drained.any parcel)
    || (s.cores.any fun e => e.2.restored.any is || (e.2.arrivals ++ e.2.spilled).any fun p => p.uid == uid) || s.pending.any parcel)

/-- An entry is acknowledged and frees, or becomes refused: the first refusal is kept, and its record is written where the thread is on a
hart; else when the thread is again. The entry of a thread that has exited frees (R34, R173, R196, R250, R251). -/
def retireEntry (c e : Nat) (r : Option Refused) (s : State) : State :=
  let j := getJ s c e
  if j.live && !j.ref then
    match r with
    | none => checkLaunch j.launch (setJ s c e JEnt.free)
    | some f =>
      if lives s j.uid then
        let s1 := setJ s c e { j with ref := true, code := f.code, addr := f.addr, time := gtime s }
        checkLaunch j.launch (match hartOf s j.uid with | some t => writeRecord t c e s1 | none => s1)
      else checkLaunch j.launch (setJ s c e JEnt.free)
  else s

/-! ### Places of posted writes, from what the entry captured at issue -/

/-- The descriptor a posted write carries: the node and generation of the entry, as the handle gave them at issue (R34, R97). -/
def nodeEntry (s : State) (node gen : Nat) : KeyEntry :=
  let n := getNode s node
  { KeyEntry.free with ptroot := n.ptroot, limit := n.limit, v := true, kind := n.kind, rights := BitVec.allOnes 5, gen := gen, node := node }

/-- The packet of an entry's operation. -/
def packetOf (c e : Nat) (j : JEnt) : Packet := ⟨c, e, j.order, j.opk, j.node, j.gen, j.uid, j.ctx, j.part⟩

/-- The tags of a packet's access. -/
def packetWho (s : State) (p : Packet) : Who := ⟨p.ctx, p.part, (getCtx s p.ctx).tenant, p.core, 9999⟩

/-- The node has been destroyed: it is DEAD and its destruction is past step 4 (R99). -/
def nodeGone (s : State) (node : Nat) : Bool :=
  (getNode s node).dead && !(s.revokes.any fun r => r.2.kind == .destroy && r.2.node == node && !r.2.acks.isEmpty)

/-- The peer descriptor through which an address of a context's posted operation goes, whose node the operation has captured as 0 (R86, R244). -/
def peerVia (s : State) (ctx node : Nat) (a : Word) : Option KeyEntry :=
  let k := spGet KeyEntry.free s.keys (keyIdx ctx (hdl a))
  if k.v && k.peer && hdl a != 0xFFFF && node == 0 then some k else none

/-- The place of n bytes at an address for a posted operation, or the refusal code of R250; no access reaches a node that has been destroyed
(R99). -/
def postedPlace (s : State) (w : Who) (node gen : Nat) (a : Word) (n : Nat) (need : Need) : Except Nat Place :=
  if hdl a = 0xFFFF then
    match resolve s w a n need with
    | .ok p => .ok p
    | .error _ => .error 3
  else
    let nd := getNode s node
    if nodeGone s node then .error 1
    else if filtered s (node / 2 ^ 28 % 16) node gen && nd.kind != 1 && nd.kind != 6 then .error 1
    else if nd.kind = 1 ∨ nd.kind = 6 then
      match pageRuns s w (hdl a) (nodeEntry s node gen) need (n + 1) (off a) n with
      | .ok ps => if (refusedPiece s w.part ps).isSome then .error 1 else .ok (.mem ps)
      | .error (r, _) => .error (if r = 3 then 2 else 3)
    else if nd.kind = 4 ∨ (nd.kind = 3 ∧ 8 ≤ off a ∧ off a + n ≤ 0x38) then .ok (.mem [⟨nodeKey node (off a), n, 4, node, gen⟩])
    else .ok (.unit node nd.kind (off a) gen)

/-- The refusal code of an access fault's reason at a unit (R250). -/
def reasonCode (r : Nat) : Nat :=
  match r with
  | 2 => 1 | 3 => 2 | 6 => 4 | _ => 3

/-- Performs a posted write of bytes at its home; fe as in storeFe. -/
def postedWrite (w : Who) (node gen : Nat) (a : Word) (data : List Byte) (fe : Nat) (s : State) : Except Nat State :=
  match postedPlace s w node gen a data.length needWr with
  | .error r => .error r
  | .ok (.mem ps) => .ok (storeFe w.core ps data fe s)
  | .ok (.unit n kind o _) =>
    if fe ≠ 0 then .error 2
    else
      match unitStore w.ctx w.tenant n kind o a data s with
      | .ok s' => .ok s'
      | .error i => .error (reasonCode i.reason)
  | .ok (.table o) =>
    if fe ≠ 0 then .error 2
    else
      match tableStore w o a data s with
      | .ok s' => .ok s'
      | .error i => .error (reasonCode i.reason)
  | .ok _ => .error 2

/-- The bytes at a place. -/
def placeRead (s : State) (w : Who) (n : Nat) (p : Place) : List Byte :=
  match p with
  | .mem ps => rdPieces s ps
  | .unit nd kind o _ => unitRead s nd kind o n
  | .table o => tableRead s w o n
  | .peer _ => []

/-- The bytes that a posted access of n bytes reaches, a unit's words and a mapping entry's by keys of their own: for the reservations it must wait
behind (R315), and the lines whose writes by one thread keep their order (R236, R319). -/
def postedPieces (s : State) (w : Who) (node gen : Nat) (a : Word) (n : Nat) (need : Need) : List Piece :=
  if node = 0 ∧ hdl a ≠ 0xFFFF then []
  else
    match postedPlace s w node gen a n need with
    | .ok (.mem ps) => ps
    | .ok (.unit nd _ o g) => [⟨nodeKey nd o, n, 4, nd, g⟩]
    | .ok (.table o) => [⟨mapByte (mapKey s w o) o, n, 3, 0, 0⟩]
    | _ => []

/-! ### Segments and lines -/

/-- The pieces of n bytes cut at each multiple of m of the destination offset: place in the data and length (R33). -/
def cuts (m : Nat) : Nat → Nat → Nat → Nat → List (Nat × Nat)
  | 0, _, _, _ => []
  | fuel + 1, o, at_, n =>
    if n = 0 then []
    else
      let k := min n (m - o % m)
      (at_, k) :: cuts m fuel (o + k) (at_ + k) (n - k)

/-- The journal entry that a packet or an answer belongs to is still its own: it is live and of its order of issue (R250). -/
def entryIs (s : State) (c e order : Nat) : Bool := (getJ s c e).live && (getJ s c e).order == order

/-- How many of n bytes at an address a posted write performs at once: what lies in its first 64-byte line, each line being an event of its own; a queue
takes a segment as one message (R102, R235). -/
def lineLen (s : State) (node : Nat) (a : Word) (n : Nat) : Nat := if (getNode s node).kind = 2 ∧ hdl a ≠ 0xFFFF then n else min n (64 - off a % 64)

/-- The bytes of the segment whose last bytes, data, stand at o of a put's destination (R33). -/
def segmentBytesTo (dst : Word) (o : Nat) (data : List Byte) : Nat := o + data.length - ((off dst + o) / 512 * 512 - off dst)

/-- The landing of the first line of what is left of a put segment or posted store, whatever has become of its entry; a segment is answered with an
acknowledgement once its last line has landed, or with a refusal (R33, R34, R235, R319). -/
def landSegment (p : Packet) (dst : Word) (o : Nat) (data : List Byte) (s : State) : State :=
  let a := offWrap dst (Int.ofNat o)
  let n := lineLen s p.node a data.length
  let refused := fun (r : Nat) => push (.putSegmentAck p data.length (some ⟨r, a⟩)) s
  match postedPlace s (packetWho s p) p.node p.gen a data.length needWr with
  | .error r => refused r
  | .ok _ =>
    match postedWrite (packetWho s p) p.node p.gen a (data.take n) 0 s with
    | .ok s' => push (if n < data.length then .putSegmentLand p dst (o + n) (data.drop n) else .putSegmentAck p (segmentBytesTo dst o data) none) s'
    | .error r => refused r

/-- A segment or store leaves for the peer package that holds its node, or is refused at the port (R70, R71, R244). -/
def sendSegment (p : Packet) (k : KeyEntry) (dst : Word) (o : Nat) (data : List Byte) (s : State) : State :=
  let a := offWrap dst (Int.ofNat o)
  match portRefusal s p.ctx p.part k.pkg k.port with
  | none => sendPeer (tagOf s k p.part p.ctx) (if p.opk = 0 ∨ p.opk = 3 then 18 else 17) (remoteAddr k a) data s
  | some st =>
    push (if p.opk = 0 then .putSegmentAck p data.length (some ⟨statusCode st, a⟩) else .postedAck p.core ⟨p.entry, p.order⟩ (some ⟨statusCode st, a⟩)) s

/-- A line of n bytes of a block copy is written: the next line is under way, or the copy is done (R320). -/
def copyDone (p : Packet) (n : Nat) (s : State) : State :=
  let j := getJ s p.core p.entry
  push (if j.done + n < j.left then .putSegmentLand p j.addr (j.done + n) [] else .postedAck p.core ⟨p.entry, p.order⟩ none)
    (setJ s p.core p.entry { j with done := j.done + n })

/-- Where the next line of a block copy is read and written, and how many bytes it takes (R320). -/
def copyAt (j : JEnt) : Word × Word × Nat :=
  let a := offWrap j.addr (Int.ofNat j.done)
  (offWrap j.src (Int.ofNat j.done), a, min (j.left - j.done) (64 - off a % 64))

/-- The source bytes of a block copy's line are written; one to a peer package goes on with its acknowledgement (R244, R320). -/
def copyTo (p : Packet) (data : List Byte) (s : State) : State :=
  let j := getJ s p.core p.entry
  match peerVia s p.ctx j.node j.addr with
  | some k => sendSegment p k j.addr j.done data s
  | none =>
    match postedWrite (packetWho s p) j.node j.gen (copyAt j).2.1 data 0 s with
    | .error r => push (.postedAck p.core ⟨p.entry, p.order⟩ (some ⟨r, (copyAt j).2.1⟩)) s
    | .ok s' => copyDone p data.length s'

/-- One line of a block copy: the source bytes it takes are read and written, those of a peer package once its answer has brought them; the first
refusal ends the copy (R244, R320). The entry keeps the source's node and generation with the counter's fields. -/
def copyLine (p : Packet) (brought : List Byte) (s : State) : State :=
  let w := packetWho s p
  let j := getJ s p.core p.entry
  let (src, _, n) := copyAt j
  let stop := fun (r : Nat) => push (.postedAck p.core ⟨p.entry, p.order⟩ (some ⟨r, src⟩)) s
  match peerVia s p.ctx j.cnode j.src with
  | some k =>
    if !brought.isEmpty then copyTo p brought s
    else
      match portRefusal s p.ctx p.part k.pkg k.port with
      | some st => stop (statusCode st)
      | none => sendPeer (tagOf s k p.part p.ctx) 16 (remoteAddr k src) (leList 8 n) s
  | none =>
    match postedPlace s w j.cnode j.cgen src n needRd with
    | .error r => stop r
    | .ok (.mem ps) => if (badWord s ps).isSome then stop 7 else copyTo p (rdPieces s ps) (homeRead p.core ps s)
    | .ok place => copyTo p (placeRead s w n place) s

/-- What a segment, posted store or line of a block copy does as its turn comes. -/
def landPacket (p : Packet) (dst : Word) (o : Nat) (data : List Byte) (s : State) : State :=
  if p.opk = 3 then (if entryIs s p.core p.entry p.order && !(getJ s p.core p.entry).ref then copyLine p data s else s)
  else
    match peerVia s p.ctx p.node dst with
    | some k => sendSegment p k dst o data s
    | none => landSegment p dst o data s

/-- The words that a landing reaches: those it writes next, and the source of a block copy's line (R33, R315, R320). -/
def segmentWords (s : State) (p : Packet) (dst : Word) (o : Nat) (data : List Byte) : List Nat :=
  let w := packetWho s p
  let j := getJ s p.core p.entry
  if p.opk = 3 then
    let (src, a, n) := copyAt j
    wordsOf (postedPieces s w j.node j.gen a n needWr ++ postedPieces s w j.cnode j.cgen src n needRd)
  else
    let a := offWrap dst (Int.ofNat o)
    wordsOf (postedPieces s w p.node p.gen a (lineLen s p.node a data.length) needWr)

/-- An access under way that words were forwarded to has been made: each goes on to the next in its queue (R315). -/
def passTag (tag : Nat) (words : List Nat) (s : State) : State := if s.resv.isEmpty then s else words.foldl (fun s w => passResv tag w s) s

/-- The event is a landing under way of a journal entry. -/
def landingOf (core entry : Nat) (e : Instr) : Bool :=
  match e with
  | .putSegmentLand p _ _ _ => p.core == core && p.entry == entry
  | _ => false

/-- The event belongs to the operation of a journal entry. -/
def eventOf (core entry : Nat) (e : Instr) : Bool :=
  landingOf core entry e || match e with
    | .putSegmentAck p _ _ => p.core == core && p.entry == entry
    | .putCounterAction c ⟨k, _⟩ => c == core && k == entry
    | .postedAck c ⟨k, _⟩ _ => c == core && k == entry
    | _ => false

/-- The address in a word of pieces that begin at an address. -/
def wordAddr (a : Word) : List Piece → Nat → Word
  | [], _ => a
  | p :: ps, w =>
    if p.key / 8 ≤ w ∧ 8 * w < p.key + p.len then offWrap a (Int.ofNat (8 * w) - Int.ofNat p.key) else wordAddr (offWrap a (Int.ofNat p.len)) ps w

/-- The address by which a journal entry's posted write reaches a word (R253). -/
def entryAddress (s : State) (core entry word : Nat) : Word :=
  let j := getJ s core entry
  match s.pending.find? (landingOf core entry) with
  | some (.putSegmentLand p dst o data) =>
    let w := packetWho s p
    if p.opk = 3 then
      let (src, a, n) := copyAt j
      let ps := postedPieces s w j.node j.gen a n needWr
      if (wordsOf ps).contains word then wordAddr a ps word else wordAddr src (postedPieces s w j.cnode j.cgen src n needRd) word
    else
      let a := offWrap dst (Int.ofNat o)
      wordAddr a (postedPieces s w p.node p.gen a (lineLen s p.node a data.length) needWr) word
  | _ => j.caddr

/-- A posted write that has waited too long behind a hold is withdrawn with what of it is still to come (R253, R315; log 12). -/
def withdrawEntry (core entry : Nat) (s : State) : State :=
  withdrawResv (entryTag core entry) { setJ s core entry JEnt.free with pending := s.pending.filter (!eventOf core entry ·) }

/-- PUT_SEGMENT_LAND: a line of a segment, posted store or block copy takes effect at its home (R33, R34, R235, R319, R320). -/
def execPutSegmentLand (p : Packet) (dst : Word) (off_ : Nat) (data : List Byte) (s : State) : Out :=
  .next (passTag (entryTag p.core p.entry) (segmentWords s p dst off_ data) (landPacket p dst off_ data s))

/-- A landing under way of a thread's posted write through a handle of a context. -/
def landingVia (uid ctx h : Nat) (e : Instr) : Bool :=
  match e with
  | .putSegmentLand p dst _ _ => p.uid == uid && p.ctx == ctx && hdl dst == h
  | _ => false

/-- The posted writes under way through a queue handle land before a later store through it (R25, R104). fuel bounds the lines. -/
def landEarlier (uid ctx h : Nat) : Nat → State → State
  | 0, s => s
  | fuel + 1, s =>
    match s.pending.find? (landingVia uid ctx h) with
    | some (.putSegmentLand p dst o data) =>
      landEarlier uid ctx h fuel (landPacket p dst o data { s with pending := s.pending.erase (.putSegmentLand p dst o data) })
    | _ => s

/-- PUT_SEGMENT_ACK: when every segment is answered, the counter action is sent, unless a segment was refused; a posted store's entry
is done; a block copy goes on with its next line (R33, R34, R320). A put's landed bytes are counted as their acknowledgement reaches the sender (R168). -/
def execPutSegmentAck (p : Packet) (bytes : Nat) (refused : Option Refused) (s0 : State) : Out :=
  let s := if p.opk = 0 ∧ refused = none then countLanded p.uid p.ctx bytes s0 else s0
  let j := getJ s p.core p.entry
  if !entryIs s p.core p.entry p.order || j.left = 0 then .next s
  else if p.opk = 3 then .next (if refused.isSome then push (.postedAck p.core ⟨p.entry, p.order⟩ refused) s else copyDone p bytes s)
  else
    let s1 := setJ s p.core p.entry { j with left := j.left - 1 }
    let s2 := match refused with
      | some f => retireEntry p.core p.entry (some f) s1
      | none => s1
    if 1 < j.left ∨ (getJ s2 p.core p.entry).ref = true then .next s2
    else if j.opk ≠ 0 ∨ j.action = 0 then .next (push (.postedAck p.core ⟨p.entry, p.order⟩ none) s2)
    else .next (push (.putCounterAction p.core ⟨p.entry, p.order⟩) s2)

/-- The counter's new value and full/empty effect: add, set, fill (R33). -/
def counterValue (action : Nat) (old v : Word) : Word := if action = 1 then old + v else v

/-- PUT_COUNTER_ACTION: the action at the counter's home, then its acknowledgement or refusal (R33, R34). A counter on a peer package
is acted on there. -/
def execPutCounterAction (core : Nat) (entry : JRef) (s : State) : Out :=
  let j := getJ s core entry.entry
  if !entryIs s core entry.entry entry.order || j.ref then .next s
  else
    let s1 := setJ s core entry.entry { j with opk := 1, gen := j.cgen, node := j.cnode, size := 8 }
    let w := packetWho s (packetOf core entry.entry j)
    let tag := entryTag core entry.entry
    let words := wordsOf (postedPieces s w j.cnode j.cgen j.caddr 8 needRw)
    let answer := fun (r : Option Refused) (s' : State) => Host.Outcome.next (push (.postedAck core entry r) (passTag tag words s'))
    match peerVia s j.ctx j.cnode j.caddr with
    | some k =>
      match portRefusal s j.ctx j.part k.pkg k.port with
      | some st => answer (some ⟨statusCode st, j.caddr⟩) s1
      | none => .next (sendPeer (tagOf s k j.part j.ctx) 19 (remoteAddr k j.caddr) (leList 8 j.action ++ leList 8 j.value.toNat) s1)
    | none =>
      match postedPlace s w j.cnode j.cgen j.caddr 8 needRw with
      | .ok (.mem ps) =>
        if j.action = 1 ∧ (badWord s ps).isSome = true then answer (some ⟨7, j.caddr⟩) s1
        else
          let v := counterValue j.action (w64 (leNum (rdPieces s ps))) j.value
          answer none (storeFe core ps (leList 8 v.toNat) (if j.action = 3 then 1 else 0) s1)
      | .ok p =>
        let v := counterValue j.action (w64 (leNum (placeRead s w 8 p))) j.value
        match postedWrite w j.cnode j.cgen j.caddr (leList 8 v.toNat) (if j.action = 3 then 1 else 0) s1 with
        | .ok s2 => answer none s2
        | .error r => answer (some ⟨r, j.caddr⟩) s1
      | .error r => answer (some ⟨r, j.caddr⟩) s1

/-- POSTED_ACK: an acknowledgement frees the entry; a refusal marks it and raises its thread's posted-refusal trap (R250, R251). -/
def execPostedAck (core : Nat) (entry : JRef) (refused : Option Refused) (s : State) : Out :=
  .next (if entryIs s core entry.entry entry.order then retireEntry core entry.entry refused s else s)

/-! ### Issuing (R308, R317 to R320) -/

/-- The node and generation an address names, for the entry of an operation through it; a peer handle and handle 0xFFFF name none. -/
def captured (s : State) (a : Word) : Nat × Nat :=
  if hdl a = 0xFFFF then (0, 0)
  else
    let (k, _) := lookupKey s (whoOf s s.me).unit (cur s).ctx (hdl a)
    if k.peer then (0, k.gen) else (k.node, k.gen)

/-- The peer descriptor an address names, if it names one. -/
def peerOf (p : Place) : Option KeyEntry :=
  match p with
  | .peer k => some k
  | _ => none

/-- A place that only a packet reaches: a unit's or a peer package's (R29). -/
def onFabric (p : Place) : Bool := match p with | .unit _ _ _ _ => true | .peer _ => true | _ => false

/-- Resolves an address of the issuing thread and goes on, an error being the exact access fault; a node record the host must supply
parks the thread in the translation wait, and one whose partition owns no cycle now waits for its slot (R29, R88, R89). s0 is the state before the instruction. -/
def withPlace (s0 s : State) (len : Nat) (a : Word) (n : Nat) (need : Need) (act : Place → Out) : Out :=
  let w := whoOf s s.me
  match hostMiss s w.unit w.ctx (hdl a) with
  | some node =>
    if (cur s0).wait = .missed node then exactAt len ⟨2, 7, a⟩ s0
    else .next (pushOnce (.nodeCacheMiss node ⟨w.ctx, true⟩) (park (.fetch node a none) s0))
  | none =>
    match resolve s w a n need with
    | .error i => exactAt len i s0
    | .ok p => if onFabric p && !hartMoves s s.me then .next s0 else act p

/-- As withPlace for an operation that holds a journal entry of kind opk for addr, caddr and size: a host that does not answer in time refuses it there
with code 0x09 (R89, R250). -/
def withPosted (s0 s : State) (len opk : Nat) (q : Bool) (addr caddr : Word) (size : Nat) (a : Word) (n : Nat) (need : Need) (act : Place → Out) : Out :=
  let w := whoOf s s.me
  match hostMiss s w.unit w.ctx (hdl a) with
  | some node =>
    if (cur s0).wait = .missed node then
      withEntry s0 s fun e s1 =>
        let (dnode, gen) := captured s addr
        let j := newEntry s1 opk addr caddr gen size dnode
        done s0 len q (push (.postedAck (coreOf s.me) ⟨e, j.order⟩ (some ⟨9, a⟩)) (setJ s1 (coreOf s.me) e j))
    else .next (pushOnce (.nodeCacheMiss node ⟨w.ctx, true⟩) (park (.fetch node a none) s0))
  | none =>
    match resolve s w a n need with
    | .error i => exactAt len i s0
    | .ok p => act p

/-- The pieces of memory at a place. -/
def placePieces (p : Place) : List Piece := match p with | .mem ps => ps | _ => []

/-- The source of a put: n bytes of one local level (R220, R318). -/
def putSource (s : State) (src : Word) (n : Nat) : Option Place :=
  let w := whoOf s s.me
  let rn := (rotOf s w.part w.tenant).1
  let lv := localLevel s w.core rn (off src)
  if lv = 0 ∨ localLevel s w.core rn (off src + n - 1) ≠ lv then none
  else match resolve s w src n needRd with | .ok p => some p | .error _ => none

/-- An earlier write of the packet's thread through its peer handle is still to leave: a segment, a store or a put's counter action, which this one
must follow (R236, R244). -/
def peerBusy (s : State) (p : Packet) (h : Nat) : Bool :=
  s.pending.any (landingVia p.uid p.ctx h)
    || s.journal.any fun e => e.2.live && !e.2.ref && e.2.opk == 0 && e.2.action != 0 && e.2.uid == p.uid && hdl e.2.caddr == h

/-- A segment or store sets out: to its home, or to the peer package of its place at once where nothing earlier is to leave first. s0 is the state
before the operation. -/
def sendOff (s0 : State) (p : Packet) (place : Place) (dst : Word) (o : Nat) (data : List Byte) (s : State) : State :=
  match peerOf place with
  | none => push (.putSegmentLand p dst o data) s
  | some k => if peerBusy s0 p (hdl dst) then push (.putSegmentLand p dst o data) s else sendSegment p k dst o data s

/-- A put: the checks, the capture of the source bytes, a journal entry, then its segments under way (R317, R318). action 0 none, 1
add, 2 set, 3 fill. -/
def putOp (q : Bool) (action : Nat) (d a b : Reg) (s : State) : Out :=
  withRegs (if action = 0 then [a, b] else [a, b, d, d + 1]) [] s fun s1 =>
    let th := cur s1
    let dst := xr th a
    let n := bits (xr th b) 43 32 + 1
    let src := mkAddr 0xFFFF (bits (xr th b) 31 0)
    let ctr := if action = 0 then 0 else xr th d
    withPosted s s1 4 0 q dst ctr n dst n needWr fun p =>
      let go : Out :=
        match putSource s1 src n with
        | none => exactAt 4 ⟨2, 4, src⟩ s
        | some sp =>
          match resvBlocked s1 s.me (wordsOf (placePieces sp)) with
          | some word => unlessFault s 4 (.next (joinResv word (wordAddr src (placePieces sp) word) s))
          | none =>
            withEntry s s1 fun e s2 =>
              let (node, gen) := captured s1 dst
              let (cnode, cgen) := if action = 0 then (0, 0) else captured s1 ctr
              let segs := cuts 512 (n + 1) (off dst) 0 n
              let c := coreOf s.me
              let j := { newEntry s2 0 dst ctr gen n node with
                left := segs.length, action := action, value := if action = 0 then 0 else xr th (d + 1), cnode := cnode, cgen := cgen }
              let s3 := homeLoad c (placePieces sp) (setJ s2 c e j)
              let data := placeRead s1 (whoOf s1 s.me) n sp
              if (badWord s1 (placePieces sp)).isSome then done s 4 q (push (.postedAck c ⟨e, j.order⟩ (some ⟨7, src⟩)) s3)
              else
                let s4 := segs.foldl (fun s4 g => sendOff s1 (packetOf c e j) p j.addr g.1 ((data.drop g.1).take g.2) s4) s3
                done s 4 q ((wordsOf (placePieces sp)).foldl (fun s5 wd => passResv s.me wd s5) s4)
      if action = 0 then go
      else
        withPosted s s1 4 0 q dst ctr n ctr 8 needRw fun _ => if ctr.toNat % 8 ≠ 0 then exactAt 4 ⟨3, 0, ctr⟩ s else go

/-- put.add (R317, R318). -/
def execPutAdd (q : Bool) (d a b : Reg) (s : State) : Out := putOp q 1 d a b s
/-- put.set (R317, R318). -/
def execPutSet (q : Bool) (d a b : Reg) (s : State) : Out := putOp q 2 d a b s
/-- put.fill (R317, R318). -/
def execPutFill (q : Bool) (d a b : Reg) (s : State) : Out := putOp q 3 d a b s
/-- put.nc (R317, R318). -/
def execPutNc (q : Bool) (a b : Reg) (s : State) : Out := putOp q 0 0 a b s

/-- A store that holds a journal entry until it is acknowledged: OPK 2 a posted store, 4 a store through a peer handle (R311, R319). -/
def postStore (s0 s : State) (len opk : Nat) (q : Bool) (a : Word) (data : List Byte) (p : Place) : Out :=
  withEntry s0 s fun e s1 =>
    let c := coreOf s.me
    let (node, gen) := captured s a
    let j := { newEntry s1 opk a 0 gen data.length node with left := 1 }
    done s0 len q (sendOff s (packetOf c e j) p j.addr 0 data (setJ s1 c e j))

/-- A posted store (R319). -/
def pstOp (len : Nat) (q : Bool) (r a : Reg) (z : StoreSize) (disp : Int) (s : State) : Out :=
  withRegs [a, r] [] s fun s1 =>
    match effAddr (xr (cur s1) a) disp with
    | .error i => exactAt len i s
    | .ok ea =>
      let n := StoreSize.bytes z
      withPosted s s1 len 2 q ea 0 n ea n needWr fun p =>
        postStore s s1 len 2 q ea (leList n (xr (cur s1) r).toNat) p

/-- pst (R319). -/
def execPst (q : Bool) (sreg a : Reg) (z : StoreSize) (i : BitVec 12) (s : State) : Out := pstOp 4 q sreg a z i.toInt s
/-- pst, extended (R319). -/
def execPstX (q : Bool) (sreg a : Reg) (z : StoreSize) (disp : BitVec 32) (s : State) : Out := pstOp 12 q sreg a z disp.toInt s

/-- bcopy: checks, a journal entry, then its first line under way (R320). The entry keeps the length in left and the source's node and
generation in the counter's fields. -/
def execBcopy (q : Bool) (d a b : Reg) (s : State) : Out :=
  withRegs [a, b, d] [] s fun s1 =>
    let th := cur s1
    let len := (xr th b).toNat
    let src := xr th a
    let dst := xr th d
    if len = 0 then done s 4 q s1
    else if 2 ^ 20 < len then exactAt 4 ⟨2, 4, src⟩ s
    else
      withPosted s s1 4 3 q dst 0 (min len 4096) src len needRd fun _ =>
        withPosted s s1 4 3 q dst 0 (min len 4096) dst len needWr fun _ =>
          withEntry s s1 fun e s2 =>
            let c := coreOf s.me
            let (node, gen) := captured s1 dst
            let (snode, sgen) := captured s1 src
            let j := { newEntry s2 3 dst 0 gen (min len 4096) node with src := src, left := len, cnode := snode, cgen := sgen }
            done s 4 q (push (.putSegmentLand (packetOf c e j) j.addr 0 []) (setJ s2 c e j))

end Sys2Proof.Machine
end

