-- ==== Sys2Proof/Machine/Memory.lean ====
section
/-! DEFINITION. Loads, stores, full/empty operations, atomics and reservations, majors 0x10 to 0x14 (R308 to R316), and the events at
the homes of words (R227 to R233, R314, R315). -/

namespace Sys2Proof.Machine

/-- Where an access to a C page would move a migrating thread: the cluster at its home slice, where that is not the thread's own. The home is that of
the access's first byte (R147; log 65). -/
def migratesTo (s : State) (t : Nat) (a : Word) : Option Nat :=
  let th := getTh s t
  let w := whoOf s t
  if modeOf th = 1 ∧ t < hart0 ∧ th.stay = false ∧ loopUsed th = false ∧ hdl a ≠ 0xFFFF
      ∧ ((upTo 4).all fun i => !bit (spGet 0 th.latch i) 1) = true then
    match lookupPage s w.unit w.ctx (hdl a) (lookupKey s w.unit w.ctx (hdl a)).1.ptroot.toNat (off a / 4096) with
    | some (pa, kind) =>
      let home := sliceOf s th.part (pa + off a % 4096)
      if kind = 2 ∧ home ≠ clusterOf t then some home else none
    | none => none
  else none

/-- Makes an ordinary access of the issuing thread to memory pieces: it waits for its partition's slot of the frame and for a row under test, migrates first, waits behind another thread's hold, is refused
by a filter or reads uncorrectable data and returns its fault, or acts (R29, R96, R136, R147, R247, R308, R315). act gets the state after the access's reservation turn. -/
def withMemory (s0 s : State) (len : Nat) (q : Bool) (a : Word) (migrates reads : Bool) (ps : List Piece) (act : State → Out) : Out :=
  if underTest s ps || (leavesCluster s s.me reads ps && !hartMoves s s.me) then .next s0
  else
  match (if migrates then migratesTo s s.me a else none) with
  | some cluster =>
    if (cur s).late.isEmpty && (cur s).refused.isEmpty then
      .next (push (.slotReservationRequest ⟨s.me, (cur s).uid, .migrate, cluster * 8, 0, 4, none, (getCore s (coreOf s.me)).pts⟩) (park .slotAsk s0))
    else .next (park .marker s0)
  | none =>
    match resvBlocked s s.me (wordsOf ps) with
    | some w => unlessFault s0 len (.next (joinResv w (wordAddr a ps w) s0))
    | none =>
      let s1 := (wordsOf ps).foldl (fun s w => passResv s.me w s) (modTh s s.me fun th => { th with stay := false })
      match refusedPiece s (cur s).part ps with
      | some _ => done s0 len q (refuse s.me (cur s0).pc (cur s0).seq ⟨2, 2, offWrap a (Int.ofNat (refusedAt s (cur s).part ps))⟩ s1)
      | none =>
        if reads && (badWord s ps).isSome then done s0 len q (refuse s.me (cur s0).pc (cur s0).seq ⟨0x0B, 0, a⟩ s1) else act s1

/-- A load (R310). -/
def loadOp (len : Nat) (q : Bool) (d a : Reg) (z : LoadSize) (disp : Int) (s : State) : Out :=
  withRegs [a] [] s fun s1 =>
    match effAddr (xr (cur s1) a) disp with
    | .error i => exactAt len i s
    | .ok ea =>
      let n := LoadSize.bytes z
      let give := fun (bs : List Byte) (s2 : State) => lateResult s len q d (LoadSize.extend z (leNum bs)) s2
      withPlace s s1 len ea n needRd fun p =>
        match p with
        | .mem ps =>
          withMemory s s1 len q ea true true ps fun s2 => give (loadPieces (coreOf s.me) ps s2).1 (loadPieces (coreOf s.me) ps s2).2
        | .unit node kind o gen =>
          if unitStale s1 node gen then done s len q (refuse s.me (cur s).pc (cur s).seq ⟨2, 2, ea⟩ s1)
          else give (unitRead s1 node kind o n) (meet (coreOf s.me) s1)
        | .table o => give (tableRead s1 (whoOf s1 s.me) o n) (meet (coreOf s.me) s1)
        | .peer k =>
          match portRefusal s1 (cur s1).ctx (cur s1).part k.pkg k.port with
          | some st => done s len q (refuse s.me (cur s).pc (cur s).seq ⟨2, statusReason st, ea⟩ s1)
          | none =>
            done s len q (addLateOpen d (LoadSize.code z) ea (sendPeer (tagOf s1 k (cur s1).part (cur s1).ctx) 16 (remoteAddr k ea) (leList 8 n) s1))

/-- ld (R310). -/
def execLd (q : Bool) (d a : Reg) (z : LoadSize) (i : BitVec 12) (s : State) : Out := loadOp 4 q d a z i.toInt s
/-- ld, extended (R310). -/
def execLdX (q : Bool) (d a : Reg) (z : LoadSize) (disp : BitVec 32) (s : State) : Out := loadOp 12 q d a z disp.toInt s

/-- A store (R311). -/
def storeOp (len : Nat) (q : Bool) (r a : Reg) (z : StoreSize) (disp : Int) (s : State) : Out :=
  withRegs [a, r] [] s fun s1 =>
    match effAddr (xr (cur s1) a) disp with
    | .error i => exactAt len i s
    | .ok ea =>
      let n := StoreSize.bytes z
      let data := leList n (xr (cur s1) r).toNat
      withPlace s s1 len ea n needWr fun p =>
        match p with
        | .mem ps => withMemory s s1 len q ea true false ps fun s2 => done s len q (storePieces (coreOf s.me) ps data s2)
        | .unit node kind o gen =>
          if unitStale s1 node gen then done s len q (refuse s.me (cur s).pc (cur s).seq ⟨2, 2, ea⟩ s1)
          else
            match unitStore (cur s1).ctx (cur s1).tenant node kind o ea data (meet (coreOf s.me) (if kind = 2 then landEarlier (cur s1).uid (cur s1).ctx (hdl ea) 512 s1 else s1)) with
            | .ok s2 => done s len q s2
            | .error i => done s len q (refuse s.me (cur s).pc (cur s).seq i s1)
        | .table o =>
          match tableStore (whoOf s1 s.me) o ea data (meet (coreOf s.me) s1) with
          | .ok s2 => done s len q s2
          | .error i => exactAt len i s
        | .peer _ => postStore s s1 len 4 q ea data p

/-- st (R311). -/
def execSt (q : Bool) (sreg a : Reg) (z : StoreSize) (i : BitVec 12) (s : State) : Out := storeOp 4 q sreg a z i.toInt s
/-- st, extended (R311). -/
def execStX (q : Bool) (sreg a : Reg) (z : StoreSize) (disp : BitVec 32) (s : State) : Out := storeOp 12 q sreg a z disp.toInt s

/-! ### Words (R309, R312 to R316) -/

/-- The thread holds the word (R315). -/
def holds (s : State) (t key : Nat) : Bool :=
  match (getTh s t).hold with
  | some (w, _) => w == key / 8
  | none => false

/-- The address of a word form, aligned and resolved to memory, then act with its key and pieces: misalignment, offset carry and the
checks of R88 are exact, and no other kind of node or table is accepted; bad names the keys that a form refuses with missing rights. The access is
made at the word's home, whatever copy the core holds (R29, R248, R308, R309, R316). -/
def withWord (s0 s1 : State) (len : Nat) (q : Bool) (x : Word) (disp : Int) (n : Nat) (migrates reads : Bool) (bad : Nat → Bool)
    (act : Word → Nat → List Piece → State → Out) : Out :=
  let at_ := offWrap x disp
  if at_.toNat % n ≠ 0 then exactAt len ⟨3, 0, at_⟩ s0
  else
    match effAddr x disp with
    | .error i => exactAt len i s0
    | .ok ea =>
      withPlace s0 s1 len ea n needRw fun p =>
        match p with
        | .mem ps =>
          let key := (ps.headD ⟨0, 0, 0, 0, 0⟩).key
          if bad key then exactAt len ⟨2, 3, ea⟩ s0
          else if homeBarred s1 ps then .next s0
          else withMemory s0 s1 len q ea migrates reads ps fun s2 => act ea key ps s2
        | _ => exactAt len ⟨2, 3, ea⟩ s0

/-- A wait of the same condition is listed at the word: full for takes and peeks, empty for gives, zero for joins (R148). -/
def listedSame (s : State) (key : Nat) (op : WaitOp) : Bool :=
  let cls := fun o => match o with | .take => 0 | .peek => 0 | .give => 1 | .join => 2
  (spGet [] s.waits (key / 8)).any fun e => cls e.op == cls op

/-- Joins the word's wait list and leaves the rotation, or polls again later when the home's entries are all used or a retry is ahead; a wait that a
gang switch withdrew goes on counting (R148, R149, R150). A P page's home makes the core its owner first (R227). -/
def joinList (s0 s1 : State) (ps : List Piece) (op : WaitOp) (a : Word) (d : Reg) (data : Word) (len : Nat) (q : Bool) : Out :=
  let s := ownPages (coreOf s1.me) s1 ps
  let key := (ps.headD ⟨0, 0, 0, 0, 0⟩).key
  let (used, cap) := homeEntries s (cur s).part (key / 8)
  let mine := match (cur s0).wait with | .retry _ _ _ _ f _ => some f | _ => none
  let ahead := match earliestRetry s (cur s).part (key / 8) with | some (t, _) => t != s.me | none => false
  let waited := match (cur s0).wait with | .retry _ _ _ _ _ _ => (cur s0).wcount | .word _ _ _ _ _ _ => (cur s0).wcount | _ => 0
  if cap ≤ used ∨ (ahead = true) then
    let iv := match (cur s0).wait with | .retry _ _ _ i _ _ => min 65536 (2 * i) | _ => 64
    .next (modTh s0 s0.me fun th =>
      { th with wait := .retry key op a iv (mine.getD (gtime s0).toNat) (waited + iv), wcount := waited })
  else
    unlessFault s0 len (.next (modTh (park (.word key op a d len q)
      { s with waits := spSet [] s.waits (key / 8) (spGet [] s.waits (key / 8) ++ [⟨s.me, op, data⟩]) }) s.me fun th => { th with wcount := waited }))

/-- ld.take (R313). -/
def execLdTake (q : Bool) (d a : Reg) (i : WordDisp) (s : State) : Out :=
  let len := WordDisp.len i
  withRegs [a] [] s fun s1 =>
    withWord s s1 len q (xr (cur s1) a) (WordDisp.value i) 8 false true (holds s s.me) fun ea key ps s2 =>
      if feOf s2 key && !listedSame s2 key .take then
        let v := rdWord s2 key
        let s3 := afterWrite s2 ps (setFe (homeStore (coreOf s.me) ps s2) key false)
        lateResult s len q d v s3
      else joinList s s2 ps .take ea d 0 len q

/-- ld.peek (R313). -/
def execLdPeek (q : Bool) (d a : Reg) (i : WordDisp) (s : State) : Out :=
  let len := WordDisp.len i
  withRegs [a] [] s fun s1 =>
    withWord s s1 len q (xr (cur s1) a) (WordDisp.value i) 8 false true (holds s s.me) fun ea key ps s2 =>
      if feOf s2 key && !listedSame s2 key .peek then
        lateResult s len q d (rdWord s2 key) (homeStore (coreOf s.me) ps s2)
      else joinList s s2 ps .peek ea d 0 len q

/-- st.give: its late result is 0 and is discarded (R313). -/
def execStGive (q : Bool) (sreg a : Reg) (i : WordDisp) (s : State) : Out :=
  let len := WordDisp.len i
  withRegs [a, sreg] [] s fun s1 =>
    let v := xr (cur s1) sreg
    withWord s s1 len q (xr (cur s1) a) (WordDisp.value i) 8 false false (holds s s.me) fun ea key ps s2 =>
      if !feOf s2 key && !listedSame s2 key .give then
        lateResult s len q 0 0 (storeFe (coreOf s.me) ps (leList 8 v.toNat) 1 s2)
      else joinList s s2 ps .give ea 0 v len q

/-- st.fill (R313). -/
def execStFill (q : Bool) (sreg a : Reg) (i : WordDisp) (s : State) : Out :=
  let len := WordDisp.len i
  withRegs [a, sreg] [] s fun s1 =>
    let v := xr (cur s1) sreg
    withWord s s1 len q (xr (cur s1) a) (WordDisp.value i) 8 false false (fun _ => false) fun _ _ ps s2 =>
      done s len q (storeFe (coreOf s.me) ps (leList 8 v.toNat) 1 s2)

/-- fe.rd (R313). -/
def execFeRd (q : Bool) (d a : Reg) (i : WordDisp) (s : State) : Out :=
  let len := WordDisp.len i
  withRegs [a] [] s fun s1 =>
    withWord s s1 len q (xr (cur s1) a) (WordDisp.value i) 8 false true (fun _ => false) fun _ key ps s2 =>
      lateResult s len q d (if feOf s2 key then 1 else 0) (homeStore (coreOf s.me) ps s2)

/-- fe.clr (R313). -/
def execFeClr (q : Bool) (a : Reg) (i : WordDisp) (s : State) : Out :=
  let len := WordDisp.len i
  withRegs [a] [] s fun s1 =>
    withWord s s1 len q (xr (cur s1) a) (WordDisp.value i) 8 false false (fun _ => false) fun _ key ps s2 =>
      done s len q (afterWrite s2 ps (setFe (homeStore (coreOf s.me) ps s2) key false))

/-- An atomic: old and operand at the form's width give the new value; the result is old, sign-extended (R314). -/
def amo (q : Bool) (d a b : Reg) (w : Bool) (f : (n : Nat) → BitVec n → BitVec n → BitVec n → BitVec n) (srcs : List Reg) (s : State) : Out :=
  withRegs srcs [] s fun s1 =>
    let th := cur s1
    let n := if w then 32 else 64
    withWord s s1 4 q (xr th a) 0 (n / 8) true true (fun _ => false) fun _ _ ps s2 =>
      let old := BitVec.ofNat n (leNum (rdPieces s2 ps))
      let new := f n old ((xr th b).setWidth n) ((xr th d).setWidth n)
      lateResult s 4 q d (old.signExtend 64) (storePieces (coreOf s.me) ps (leList (n / 8) new.toNat) s2)

/-- amo.add (R314). -/
def execAmoAdd (q : Bool) (d a b : Reg) (w : Bool) (s : State) : Out := amo q d a b w (fun _ o x _ => o + x) [a, b] s
/-- amo.and (R314). -/
def execAmoAnd (q : Bool) (d a b : Reg) (w : Bool) (s : State) : Out := amo q d a b w (fun _ o x _ => o &&& x) [a, b] s
/-- amo.or (R314). -/
def execAmoOr (q : Bool) (d a b : Reg) (w : Bool) (s : State) : Out := amo q d a b w (fun _ o x _ => o ||| x) [a, b] s
/-- amo.xor (R314). -/
def execAmoXor (q : Bool) (d a b : Reg) (w : Bool) (s : State) : Out := amo q d a b w (fun _ o x _ => o ^^^ x) [a, b] s
/-- amo.min (R314). -/
def execAmoMin (q : Bool) (d a b : Reg) (w : Bool) (s : State) : Out := amo q d a b w (fun _ o x _ => if x.slt o then x else o) [a, b] s
/-- amo.max (R314). -/
def execAmoMax (q : Bool) (d a b : Reg) (w : Bool) (s : State) : Out := amo q d a b w (fun _ o x _ => if o.slt x then x else o) [a, b] s
/-- amo.minn (R314). -/
def execAmoMinn (q : Bool) (d a b : Reg) (w : Bool) (s : State) : Out := amo q d a b w (fun _ o x _ => if x.ult o then x else o) [a, b] s
/-- amo.maxn (R314). -/
def execAmoMaxn (q : Bool) (d a b : Reg) (w : Bool) (s : State) : Out := amo q d a b w (fun _ o x _ => if o.ult x then x else o) [a, b] s
/-- amo.swap (R314). -/
def execAmoSwap (q : Bool) (d a b : Reg) (w : Bool) (s : State) : Out := amo q d a b w (fun _ _ x _ => x) [a, b] s
/-- amo.cas reads x[d] before the result overwrites it (R314). -/
def execAmoCas (q : Bool) (d a b : Reg) (w : Bool) (s : State) : Out :=
  amo q d a b w (fun _ o x c => if o = c then x else o) [a, b, d] s

/-- rsv: the thread holds the word and reads it; it holds at most one (R315, R316). -/
def execRsv (q : Bool) (d a : Reg) (i : WordDisp) (s : State) : Out :=
  let len := WordDisp.len i
  withRegs [a] [] s fun s1 =>
    withWord s s1 len q (xr (cur s1) a) (WordDisp.value i) 8 false true (fun _ => (cur s).hold.isSome) fun ea key ps s2 =>
      let r := spGet Resv.free s2.resv (key / 8)
      let s3 := { homeStore (coreOf s.me) ps s2 with resv := spSet Resv.free s2.resv (key / 8) { r with holder := some s.me, dirty := false } }
      lateResult s len q d (rdWord s2 key) (modTh s3 s.me fun th => { th with hold := some (key / 8, 0), holdAt := ea })

/-- Releases the issuing thread's held word, written first with v where one is given; of another word it is the access fault (R315,
R316). -/
def release (len : Nat) (q : Bool) (srcs : List Reg) (a : Reg) (i : WordDisp) (v : State → Option Word) (s : State) : Out :=
  withRegs srcs [] s fun s1 =>
    withWord s s1 len q (xr (cur s1) a) (WordDisp.value i) 8 false false (fun key => !holds s s.me key) fun _ key ps s2 =>
      let s3 := match v s1 with
        | some w => storePieces (coreOf s.me) ps (leList 8 w.toNat) s2
        | none => s2
      done s len q (releaseHold s.me (key / 8) s3)

/-- rls (R315). -/
def execRls (q : Bool) (sreg a : Reg) (i : WordDisp) (s : State) : Out :=
  release (WordDisp.len i) q [a, sreg] a i (fun s1 => some (xr (cur s1) sreg)) s
/-- rls.n (R315). -/
def execRlsN (q : Bool) (a : Reg) (i : WordDisp) (s : State) : Out := release (WordDisp.len i) q [a] a i (fun _ => none) s

/-! ### Events at homes -/

/-- RESERVATION_FORWARD: the word's home forwards it to the thread queued first, whose access then issues (R314, R315). -/
def execReservationForward (key : Nat) (s : State) : Out :=
  let r := spGet Resv.free s.resv key
  match r.queue with
  | t :: rest =>
    if r.holder.isSome || r.granted.isSome then .next s
    else .next { s with resv := spSet Resv.free s.resv key { r with granted := some t, queue := rest } }
  | [] => .next s

/-- HOME_LOAD: a core's load of a C line at its home; a renewal of an unchanged line doubles its lease length (R229). -/
def execHomeLoad (core line : Nat) (renew : Bool) (s : State) : Out := .next (homeFill core (renew && renews s core line) s line)

/-- HOME_STORE: a core's store of a C line at its home sets a new write time (R229). -/
def execHomeStore (core line : Nat) (s : State) : Out := .next (noteSeen core (storeTimes core s line))

/-- A line leaves its slice and gives up its times into the slice's largest; bytes stay, for a dirty line is written back (R213, R231). -/
def evictLine (line : Nat) (s : State) : State :=
  let h := spGet LineT.reset s.lines line
  let sl := spGet Slice.reset s.slices (lineSlice s line)
  { s with
    lines := spErase line s.lines
    slices := spSet Slice.reset s.slices (lineSlice s line) { sl with mwts := max sl.mwts h.wts, mrts := max sl.mrts h.rts } }

/-- LLC_EVICTION (R231). -/
def execLlcEviction (line : Nat) (s : State) : Out := .next (evictLine line s)

/-- LLC_FILL_RETURN: the miss register frees; a line still without times takes the slice's MWTS and MRTS, LL starting at 8 (R231, R233). -/
def execLlcFillReturn (line : Nat) (s : State) : Out :=
  let sl := spGet Slice.reset s.slices (lineSlice s line)
  .next { s with
    lines := if spGet LineT.reset s.lines line = LineT.reset then spSet LineT.reset s.lines line ⟨sl.mwts, sl.mrts, 8⟩ else s.lines
    slices := spSet Slice.reset s.slices (lineSlice s line) { sl with misses := sl.misses.filter (· != line) } }

/-- PTS_TICK (R229). -/
def execPtsTick (core : Nat) (s : State) : Out := .next (modCore s core fun c => { c with pts := c.pts + 1 })

/-- MAP_ENTRY_INSTALL: a store of word 1 with V = 1 at a thread's core; a refused one leaves V at 0 (R224). -/
def execMapEntryInstall (t table entry : Nat) (v : Word) (s : State) : Out :=
  let k := table * 16 + entry % 16
  if bit v 63 && !bit (getMap s k).word1 63 then
    match mapInstall (whoOf s t) k v s with
    | .ok s' => .next s'
    | .error _ => .next s
  else .next s

/-- MAP_ENTRY_REMOVE: a store of word 1 with V = 0 to an installed entry (R225). -/
def execMapEntryRemove (t table entry : Nat) (v : Word) (s : State) : Out :=
  let k := table * 16 + entry % 16
  if !bit v 63 && bit (getMap s k).word1 63 && decide (t < hart0 + 64) then .next (mapRemove k v s) else .next s

/-- WAIT_RETRY_POLL: the interval has passed and the waiting instruction issues again (R149). -/
def execWaitRetryPoll (t : Nat) (s : State) : Out :=
  match (getTh s t).wait with
  | .retry k op a i f due =>
    .next (if due ≤ (getTh s t).wcount then modTh s t fun th => { th with wait := .retry k op a i f 0 } else s)
  | _ => .next s

end Sys2Proof.Machine
end

