-- ==== Sys2Proof/Machine/Names.lean ====
section
/-! DEFINITION. The name tree's transactions at the name engines: WALK to CREATE, revocation, closing and destruction, and the memory
that nodes hold (R83 to R101). -/

namespace Sys2Proof.Machine

/-! ### Results (R90) -/

/-- A failure's result word: bits [63:12] ones, the reason in [11:3], the component in [2:0]. -/
def failWord (reason idx : Nat) : Word := 0xFFFFFFFFFFFFF000 + w64 (reason * 8 + idx % 8)

/-- How a transaction ends at its engine: it fails, is done with a result, gives a STAT record, waits for acknowledgements under a
number, goes on at a peer package, or misses a node record the host must supply, at a component of its path (R89, R90, R95, R96). -/
inductive TxOut where
  | fail (reason idx : Nat)
  | done (v : Nat) (s : State)
  | stat (data : List Byte)
  | wait (rid : Nat) (s : State)
  | away (f : Forward) (value : Word) (data : List Byte)
  | miss (node idx : Nat)
  deriving DecidableEq, Repr

/-- Who a transaction acts for: the keyring it uses (a context's, or 65,536 and a partition for its mount keyring), context, partition,
tenant, the quadrant of a new node, the peer package and port that ask, and who waits. -/
structure Tx where
  ring   : Nat
  ctx    : Nat
  part   : Nat
  tenant : Nat
  quad   : Nat
  pkg    : Nat
  port   : Nat
  issuer : Issuer
  deriving DecidableEq, Repr

/-! ### Physical memory of nodes (R98, log 6) -/

/-- Takes an extent out of a range of free pages. -/
def cutExtent (x : Extent) (r : Nat × Nat) : List (Nat × Nat) :=
  if x.page + x.count ≤ r.1 ∨ r.2 ≤ x.page then [r]
  else (if r.1 < x.page then [(r.1, x.page)] else []) ++ (if x.page + x.count < r.2 then [(x.page + x.count, r.2)] else [])

/-- The pages of ranges that no node holds. -/
def freePages (s : State) (ranges : List (Nat × Nat)) : List (Nat × Nat) :=
  s.alloc.foldl (init := ranges) fun rs x => rs.flatMap (cutExtent x)

/-- A partition's memory ranges in pages (R132). -/
def partRanges (s : State) (part : Nat) : List (Nat × Nat) := (getPart s part).memory.map fun m => (m.1 / 4096, (m.1 + m.2) / 4096)

/-- System memory: physical memory in no installed partition's ranges; page 0 is kept (R98, log 6). -/
def systemRanges (s : State) : List (Nat × Nat) :=
  ((s.parts.filter fun e => e.2.v).flatMap fun e => e.2.memory).foldl (init := [(1, physEnd / 4096)]) fun rs m =>
    rs.flatMap (cutExtent ⟨m.1 / 4096, m.2 / 4096, 0⟩)

/-- The first n pages of ranges. -/
def takePages : List (Nat × Nat) → Nat → Option (List (Nat × Nat))
  | _, 0 => some []
  | [], _ + 1 => none
  | (lo, hi) :: rest, n + 1 =>
    if hi ≤ lo then takePages rest (n + 1)
    else if n + 1 ≤ hi - lo then some [(lo, n + 1)]
    else (takePages rest (n + 1 - (hi - lo))).map ((lo, hi - lo) :: ·)

/-- A key lies in one of these page runs. -/
def inPages (runs : List (Nat × Nat)) (key : Nat) : Bool := runs.any fun r => within key (r.1 * 4096) (r.2 * 4096)

/-- Writes pages zero with every full/empty bit empty; no cache keeps what they held. -/
def clearPages (runs : List (Nat × Nat)) (s : State) : State :=
  { dropCopies (inPages runs) s with mem := s.mem.filter (fun e => !inPages runs e.1), fe := s.fe.filter fun e => !inPages runs (e.1 * 8) }

/-- Gives a node pages from ranges, written zero. -/
def allocPages (ranges : List (Nat × Nat)) (node n : Nat) (s : State) : Option (List (Nat × Nat) × State) :=
  (takePages (freePages s ranges) n).map fun runs =>
    (runs, clearPages runs { s with alloc := s.alloc ++ runs.map fun r => ⟨r.1, r.2, node⟩ })

/-- The table an entry names, made from a system page where the entry is not valid (R226). -/
def subTable (node at_ : Nat) (s : State) : Option (Nat × State) :=
  let w := rdWord s at_
  if bit w 63 then some (bits w 47 12 * 4096, s)
  else
    match allocPages (systemRanges s) node 1 s with
    | some ((p, _) :: _, s1) => some (p * 4096, wrWord s1 at_ (w64 (2 ^ 63 + p * 4096)))
    | _ => none

/-- Maps one page of a node's offset space (R226). -/
def mapPage (node root page pa kind : Nat) (s : State) : Option State :=
  match subTable node (root + 8 * (page / 2 ^ 27 % 512)) s with
  | none => none
  | some (t1, s1) =>
    match subTable node (t1 + 8 * (page / 2 ^ 18 % 512)) s1 with
    | none => none
    | some (t2, s2) =>
      match subTable node (t2 + 8 * (page / 2 ^ 9 % 512)) s2 with
      | none => none
      | some (t3, s3) => some (wrWord s3 (t3 + 8 * (page % 512)) (w64 (2 ^ 63 + kind * 2 ^ 61 + pa)))

/-- Maps pages from one on to consecutive physical pages. -/
def mapRun (node root kind : Nat) : Nat → Nat → Nat → State → Option State
  | 0, _, _, s => some s
  | n + 1, page, pa, s =>
    match mapPage node root page pa kind s with
    | none => none
    | some s1 => mapRun node root kind n (page + 1) (pa + 4096) s1

/-- Maps page runs one after another. -/
def mapRuns (node root kind : Nat) : List (Nat × Nat) → Nat → State → Option State
  | [], _, s => some s
  | r :: rest, page, s =>
    match mapRun node root kind r.2 page (r.1 * 4096) s with
    | none => none
    | some s1 => mapRuns node root kind rest (page + r.2) s1

/-- A page-table root for a node and the mapping of its runs. -/
def makeTable (node kind : Nat) (runs : List (Nat × Nat)) (s : State) : Option (Nat × State) :=
  match allocPages (systemRanges s) node 1 s with
  | some ((p, _) :: _, s1) => (mapRuns node (p * 4096) kind runs 0 s1).map fun s2 => (p * 4096, s2)
  | _ => none

/-- The ranges a context's nodes take memory from: the system context's from system memory (R98). -/
def rangesOf (s : State) (ctx part : Nat) : List (Nat × Nat) := if ctx = 0 then systemRanges s else partRanges s part

/-! ### Keyrings (R86, R101) -/

/-- An entry of a keyring. -/
def getKey (s : State) (ring h : Nat) : KeyEntry := spGet KeyEntry.free s.keys (keyIdx ring h)

/-- Writes an entry of a keyring. -/
def setKey (ring h : Nat) (e : KeyEntry) (s : State) : State := { s with keys := spSet KeyEntry.free s.keys (keyIdx ring h) e }

/-- An entry is being closed (R97). -/
def closing (s : State) (ring h : Nat) : Bool := s.revokes.any fun e => e.2.kind == .close ring h

/-- A keyring's entries in use: allocated, or not yet free because a CLOSE of them awaits its acknowledgements (R97). -/
def usedHandles (s : State) (ring : Nat) : List Nat :=
  ((s.keys.filter fun e => e.1 / 65536 == ring).map fun e => e.1 % 65536)
    ++ s.revokes.filterMap fun e => match e.2.kind with | .close r h => if r = ring then some h else none | _ => none

/-- Entries of a keyring kept free for transactions under way at peer packages, whose answers make one (R90, R95). -/
def reservedHandles (s : State) (ring : Nat) : Nat := (s.forwards.filter fun f => f.ring == ring && decide (32 ≤ f.kind) && f.kind != 35).length

/-- The lowest free handle of a keyring (R86). -/
def lowHandle (s : State) (ring : Nat) : Nat :=
  let used := usedHandles s ring
  (((upTo (used.length + 1)).map (· + 1)).find? fun h => !used.contains h).getD 65535

/-- A free handle of a keyring: the spec does not say which, so any may be given (R86, log 6). -/
def freeHandle (s : State) (ring : Nat) : Option Nat :=
  let used := usedHandles s ring
  let c := Config.handleChoice ring s.cycle s.uids used
  if 0xFFFE ≤ used.length + reservedHandles s ring then none
  else if 1 ≤ c ∧ c ≤ 0xFFFE ∧ c ∉ used then some c
  else if lowHandle s ring ≤ 0xFFFE then some (lowHandle s ring) else none

/-- A new entry for a node, from its record as the node's home engine has it (R86, R89). -/
def entryOf (s : State) (node : Nat) (rights ceil : BitVec 5) : KeyEntry :=
  let r := engineRecord s node
  let kind := bits (r.getD 0 0) 61 58
  { ptroot := if kind = 1 ∨ kind = 6 ∨ kind = 8 then r.getD 2 0 else (getNode s node).ptroot, pkg := 0, port := 0, rhdl := 0
    limit := (r.getD 1 0).toNat, v := true, peer := false, kind := kind, rights := rights, ceil := ceil, gen := bits (r.getD 0 0) 47 32
    node := node }

/-- Makes an entry in the issuer's keyring; a mount keyring's entries record who asked (R101). -/
def makeEntry (x : Tx) (e : KeyEntry) (s : State) : Option (Nat × State) :=
  (freeHandle s x.ring).map fun h =>
    (h, setKey x.ring h (if 65536 ≤ x.ring then { e with pkg := x.pkg, port := x.port } else e) s)

/-- Answers with a new entry's handle, or KEYFULL. -/
def newHandle (x : Tx) (e : KeyEntry) (s : State) : TxOut :=
  match makeEntry x e s with
  | some (h, s1) => .done h s1
  | none => .fail 8 0

/-- The node record must come from the host first (R89). -/
def recordMissing (s : State) (node : Nat) : Bool := bit s.fw.duty 0 && !nodeCached s node

/-- Steps 1 and 2 of R88 on a handle operand, then act; a peer entry is checked at its own package (R91). -/
def withHandle (x : Tx) (h : Nat) (s : State) (act : KeyEntry → TxOut) : TxOut :=
  let e := getKey s x.ring h
  if h = 0 ∨ h = 0xFFFF ∨ e.v = false ∨ closing s x.ring h = true then .fail 6 0
  else if e.peer then act e
  else if recordMissing s e.node then .miss e.node 0
  else if e.gen ≠ engineGen s e.node then .fail 7 0
  else act e

/-- A transaction that goes on at the package of a peer entry or mount: the port must be the partition's, up and of generation 3, and the
issuer's keyring keeps an entry free for the answer (R70, R90, R95, R339). -/
def sendAway (x : Tx) (kind pkg port base idx : Nat) (stat : Word) (node : Nat) (value : Word) (data : List Byte) (s : State) : TxOut :=
  if (portRefusal s x.ctx x.part pkg port).isSome ∨ (spGet Port.reset s.ports port).gen ≠ 3 then .fail 4 idx
  else if kind ≠ 35 ∧ (freeHandle s x.ring).isNone then .fail 8 idx
  else .away ⟨x.issuer, x.ring, kind, ⟨pkg, port, x.part, x.tenant, x.ctx % 65536⟩, base, stat, node⟩ value data

/-! ### Paths (R84, R85) -/

/-- Component i of a path record, when it obeys R84 and R85. -/
def component (bs : List Byte) (i : Nat) : Option (List Byte) :=
  let n := (bs.getD (8 + 16 * i) 0).toNat
  let name := (bs.drop (9 + 16 * i)).take n
  let pad := ((bs.drop (9 + 16 * i)).take 15).drop n
  if n < 1 ∨ 15 < n ∨ name.length ≠ n ∨ (name.all fun b => decide (0x21 ≤ b.toNat) && decide (b.toNat ≤ 0x7E) && b != 0x2F) = false
      ∨ name = [0x2E] ∨ name = [0x2E, 0x2E] ∨ (pad.all (· == 0)) = false then none
  else some name

/-- Components i to the count of a path record, or the first faulty one. -/
def components (bs : List Byte) : Nat → Nat → Except Nat (List (List Byte))
  | 0, _ => .ok []
  | n + 1, i =>
    match component bs i with
    | none => .error i
    | some c =>
      match components bs n (i + 1) with
      | .ok cs => .ok (c :: cs)
      | .error j => .error j

/-- The components of a path record, or the index BADNAME reports. -/
def parsePath (bs : List Byte) : Except Nat (List (List Byte)) :=
  let n := (bs.getD 0 0).toNat
  if n < 1 ∨ 8 < n ∨ (((bs.drop 1).take 7).all (· == 0)) = false then .error 0 else components bs n 0

/-- The one component that BIND, UNBIND and CREATE take. -/
def parseName (bs : List Byte) : Option (List Byte) :=
  match parsePath bs with
  | .ok [c] => some c
  | _ => none

/-- A path record of these components, as a walk across a mount sends it on. -/
def pathBytes (cs : List (List Byte)) : List Byte :=
  [BitVec.ofNat 8 cs.length] ++ List.replicate 7 0
    ++ cs.flatMap fun c => [BitVec.ofNat 8 c.length] ++ c ++ List.replicate (15 - c.length) 0

/-! ### Directories (R91, R92) -/

/-- RD, WR, EX, BD: the ceiling of a private root and of an export directory (R91, R100). -/
def rootCeil : BitVec 5 := 0xF

/-- The bindings of a directory. -/
def bindingsOf (s : State) (node : Nat) : List Binding := spGet [] s.binds node

/-- The binding of a name. -/
def lookupName (s : State) (node : Nat) (name : List Byte) : Option Binding := (bindingsOf s node).find? (·.name == name)

/-- Writes a directory's bindings. -/
def setBindings (node : Nat) (bs : List Binding) (s : State) : State := { s with binds := spSet [] s.binds node bs }

/-- Where a walk stops. -/
inductive WalkEnd where
  | reached (node : Nat) (ceil : BitVec 5)
  | cross (mount : Nat) (rest : List (List Byte)) (ceil : BitVec 5) (idx : Nat)
  | failed (reason idx : Nat)
  | missing (node idx : Nat)
  deriving DecidableEq, Repr

/-- The steps of WALK, by the records as the home engines have them; the record of the last node belongs to the last component (R89, R92). -/
def walkFrom (s : State) : List (List Byte) → Nat → Nat → BitVec 5 → WalkEnd
  | cs, i, n, k =>
    let w := (engineRecord s n).getD 0 0
    if recordMissing s n then .missing n (if cs.isEmpty then i - 1 else i)
    else if bits w 61 58 = 9 then .cross n cs k i
    else
      match cs with
      | [] => .reached n k
      | c :: rest =>
        if bits w 61 58 ≠ 0 ∨ bit w 63 = false then .failed 3 i
        else if k.getLsbD 2 = false then .failed 2 i
        else
          match lookupName s n c with
          | none => .failed 1 i
          | some b => walkFrom s rest (i + 1) b.node (k &&& b.ceil)

/-- Ends a walk: the new entry, or the rest of the path goes across a mount (R92, R95). -/
def endWalk (x : Tx) (s : State) (e : WalkEnd) : TxOut :=
  match e with
  | .reached n k => newHandle x (entryOf s n 0 k) s
  | .failed r i => .fail r i
  | .missing n i => .miss n i
  | .cross m rest k i =>
    let n := getNode s m
    sendAway x 32 n.arg2 n.arg i i 0 m (w64 (k.toNat * 65536)) (pathBytes rest) s

/-- WALK: start 0 is the private root, or for a peer the partition's export directory under the ceiling it sends (R91, R95, R101). -/
def txWalk (x : Tx) (start : Nat) (ceil : BitVec 5) (path : List Byte) (s : State) : TxOut :=
  let go := fun (act : List (List Byte) → TxOut) => match parsePath path with | .error i => .fail 5 i | .ok cs => act cs
  if start = 0 then
    go fun cs =>
      if 65536 ≤ x.ring then endWalk x s (walkFrom s cs 0 (getPart s x.part).exports ceil)
      else endWalk x s (walkFrom s cs 0 (getCtx s x.ctx).root rootCeil)
  else
    withHandle x start s fun e =>
      go fun cs =>
        if e.peer then sendAway x 32 e.pkg e.port 0 0 0 e.node (w64 e.rhdl) path s
        else endWalk x s (walkFrom s cs 0 e.node e.ceil)

/-- A walk across a mount that reaches the export directory itself (R95). -/
def txExport (x : Tx) (ceil : BitVec 5) (s : State) : TxOut :=
  let dir := (getPart s x.part).exports
  if dir = 0 then .fail 1 0 else if recordMissing s dir then .miss dir 0 else newHandle x (entryOf s dir 0 ceil) s

/-- OPEN (R91). -/
def txOpen (x : Tx) (h : Nat) (w : Word) (s : State) : TxOut :=
  withHandle x h s fun e =>
      let m : BitVec 5 := w.setWidth 5
      if bits w 63 5 ≠ 0 then .fail 13 0
      else if e.peer then sendAway x 33 e.pkg e.port 0 0 0 e.node (w64 e.rhdl) (leList 8 w.toNat) s
      else if m &&& ~~~e.ceil ≠ 0 then .fail 2 0
      else newHandle x (entryOf s e.node m e.ceil) s

/-- DUP (R91). -/
def txDup (x : Tx) (h : Nat) (w : Word) (s : State) : TxOut :=
  withHandle x h s fun e =>
      let m : BitVec 5 := w.setWidth 5
      if bits w 63 5 ≠ 0 then .fail 13 0
      else if e.peer then sendAway x 37 e.pkg e.port 0 0 0 e.node (w64 e.rhdl) (leList 8 w.toNat) s
      else newHandle x (entryOf s e.node (e.rights &&& m) (e.ceil &&& m)) s

/-- Kind-specific word 2 of a STAT record: a directory's bindings, a queue's mode and occupancy (R93). -/
def statWord2 (s : State) (node : Nat) : Word :=
  let n := getNode s node
  match n.kind with
  | 0 => w64 (bindingsOf s node).length
  | 2 => queueStat s (getQueue s n.arg)
  | _ => 0

/-- Word 0 of a keyring entry (R86). -/
def keyWord0 (e : KeyEntry) : Word :=
  w64 ((if e.v then 2 ^ 63 else 0) + (if e.peer then 2 ^ 62 else 0) + e.kind % 16 * 2 ^ 58 + e.rights.toNat * 2 ^ 53 + e.ceil.toNat * 2 ^ 48
    + e.gen % 65536 * 2 ^ 32 + e.node % 2 ^ 32)

/-- The 32-byte STAT record of an entry (R93). -/
def statBytes (s : State) (e : KeyEntry) : List Byte :=
  let n := getNode s e.node
  leList 8 (keyWord0 { e with gen := n.gen }).toNat ++ leList 8 e.limit ++ leList 8 (statWord2 s e.node).toNat ++ leList 8 n.made.toNat

/-- STAT (R91, R93). -/
def txStat (x : Tx) (h : Nat) (addr : Word) (s : State) : TxOut :=
  withHandle x h s fun e =>
    if e.peer then sendAway x 35 e.pkg e.port 0 0 addr e.node (w64 e.rhdl) [] s else .stat (statBytes s e)

/-! ### Nodes: references and numbers (R98, R99) -/

/-- A binding, a keyring entry, a context's root or a partition's export directory names the node (R99). -/
def referenced (s : State) (node : Nat) : Bool :=
  (s.binds.any fun e => e.2.any (·.node == node)) || (s.keys.any fun e => e.2.v && !e.2.peer && e.2.node == node)
    || (s.ctxs.any fun e => e.2.live && e.2.root == node) || (s.parts.any fun e => e.2.v && e.2.exports == node)

/-- A node that lost a reference is destroyed when it was the last (R99). -/
def dropRef (node : Nat) (s : State) : State :=
  if (getNode s node).v && !(getNode s node).dead && !referenced s node then pushOnce (.nodeDestroy node) s else s

/-- The lowest number of a quadrant's engine, from 1, that no node has had: the records stand in rising order (R98). -/
def lowNode (s : State) (quad : Nat) : Nat := s.nodes.foldl (init := quad * 2 ^ 28 + 1) fun n e => if e.1 = n then n + 1 else n

/-- A number of a quadrant's engine for a new node: the spec does not say which, so any that no node has had may be given (R98, log 6). -/
def newNode (s : State) (quad : Nat) : Option Nat :=
  let used := s.nodes.map (·.1)
  let c := Config.nodeChoice quad s.cycle s.uids used
  if 1 ≤ c ∧ c < 2 ^ 28 ∧ quad * 2 ^ 28 + c ∉ used then some (quad * 2 ^ 28 + c)
  else if lowNode s quad < (quad + 1) * 2 ^ 28 then some (lowNode s quad) else none

/-- A new node of a kind, generation 1, owned by the issuer (R98). -/
def freshNode (s : State) (x : Tx) (kind limit : Nat) : Node :=
  { Node.none with v := true, kind := kind, gen := 1, limit := limit, owner := x.ctx, tenant := x.tenant, part := x.part, made := gtime s }

/-- Adds a node record. -/
def addNode (num : Nat) (n : Node) (s : State) : State := { s with nodes := spSet Node.none s.nodes num n }

/-- Binds a name in a directory. -/
def addBinding (dir : Nat) (name : List Byte) (node : Nat) (ceil : BitVec 5) (s : State) : State :=
  setBindings dir ((bindingsOf s dir).filter (·.name != name) ++ [⟨name, node, ceil⟩]) s

/-- A handle operand of a directory of the local package that the issuer may bind in: kind, BD, private (R91, R98). Directory 0 of a host
function or of a bind-set names the private root of the context it acts through, where the host places nodes and to which no transaction gives
a handle (R91; log 60). -/
def withDir (x : Tx) (h : Nat) (sysOk : Bool) (s : State) (act : KeyEntry → TxOut) : TxOut :=
  let check := fun (d : KeyEntry) =>
    if d.peer ∨ d.kind ≠ 0 then TxOut.fail 6 0
    else if d.rights.getLsbD 3 = false ∨ ((getNode s d.node).owner ≠ x.ctx ∧ (sysOk && x.ctx == 0) = false) then .fail 2 0
    else act d
  let root := (getCtx s x.ctx).root
  match x.issuer with
  | .thread _ => withHandle x h s check
  | _ =>
    if h ≠ 0 then withHandle x h s check
    else if recordMissing s root then .miss root 0
    else check (entryOf s root rootCeil rootCeil)

/-- BIND with the bind word of R340 (R91). DESIGN CHOICE: with MKDIR and no node number left the reason is NORES, which the table gives for CREATE
alone (R90; log 68). -/
def txBind (x : Tx) (path : List Byte) (w : Word) (s : State) : TxOut :=
  let t := bits w 31 16
  let c : BitVec 5 := BitVec.ofNat 5 (bits w 36 32)
  match parseName path with
  | none => .fail 5 0
  | some name =>
    if bits w 63 42 ≠ 0 ∨ bits w 39 37 ≠ 0 then .fail 13 0
    else
      withDir x (bits w 15 0) false s fun d =>
        let old := lookupName s d.node name
        let put := fun (node : Nat) (ceil : BitVec 5) (s : State) =>
          let s1 := addBinding d.node name node ceil s
          TxOut.done 0 (match old with | some b => dropRef b.node s1 | none => s1)
        if old.isSome ∧ bit w 40 = false then .fail 9 0
        else if old.isNone ∧ 4096 ≤ (bindingsOf s d.node).length then .fail 11 0
        else if bit w 41 then
          if t ≠ 0 then .fail 6 0
          else
            match newNode s x.quad with
            | none => .fail 14 0
            | some n => put n c (addNode n (freshNode s x 0 0) s)
        else
          withHandle x t s fun e =>
            if e.peer then .fail 6 0 else put e.node (c &&& e.ceil) s

/-- UNBIND (R91). -/
def txUnbind (x : Tx) (path : List Byte) (w : Word) (s : State) : TxOut :=
  match parseName path with
  | none => .fail 5 0
  | some name =>
    if bits w 63 16 ≠ 0 then .fail 13 0
    else
      withDir x (bits w 15 0) false s fun d =>
        match lookupName s d.node name with
        | none => .fail 1 0
        | some b => .done 0 (dropRef b.node (setBindings d.node ((bindingsOf s d.node).filter (·.name != name)) s))

/-! ### Revocation, closing and destruction (R96, R97, R99) -/

/-- The sixteen quadrants. -/
def quadrants : List Nat := upTo 16

/-- A revocation. -/
def getRevoke (s : State) (rid : Nat) : Revoke := spGet Revoke.none s.revokes rid

/-- Replaces a revocation. -/
def setRevoke (rid : Nat) (r : Revoke) (s : State) : State := { s with revokes := spSet Revoke.none s.revokes rid r }

/-- Starts an invalidation: with filters first for a revocation or destruction, straight at the caches for the rest (R96, R97,
R399). -/
def startRevoke (kind : RevKind) (node gen : Nat) (issuer : Issuer) (s : State) : Nat × State :=
  let rid := s.uids
  let filters := match kind with | .revoke _ => quadrants | .destroy => quadrants | _ => []
  let s1 := setRevoke rid ⟨kind, node, gen, issuer, filters, quadrants, filters⟩ { s with uids := s.uids + 1 }
  (rid, quadrants.foldl (init := s1) fun s q => push (if filters.isEmpty then .keyInvalidate rid q else .filterInstall rid q) s)

/-- REVOKE: the generation rises at once, and the new entry is made (R91, R96). -/
def txRevoke (x : Tx) (h : Nat) (s : State) : TxOut :=
  withHandle x h s fun e =>
    if e.peer then sendAway x 36 e.pkg e.port 0 0 0 e.node (w64 e.rhdl) [] s
    else if e.rights.getLsbD 4 = false then .fail 2 0
    else if e.gen = 0xFFFF then .fail 10 0
    else
      let s1 := modRecord s e.node fun n => { n with gen := e.gen + 1 }
      match makeEntry x (entryOf s1 e.node e.rights e.ceil) s1 with
      | none => .fail 8 0
      | some (h', s2) =>
        let (rid, s3) := startRevoke (.revoke h') e.node (e.gen + 1) x.issuer s2
        .wait rid s3

/-- CLOSE makes step 1 of R88 only; a mount keyring's entry is closed for the peer that asked for it alone (R91, R97, R101). -/
def txClose (x : Tx) (h : Nat) (s : State) : TxOut :=
  let e := getKey s x.ring h
  if h = 0 ∨ h = 0xFFFF ∨ e.v = false ∨ closing s x.ring h = true ∨ (65536 ≤ x.ring ∧ (e.pkg ≠ x.pkg ∨ e.port ≠ x.port)) then .fail 6 0
  else
    let (rid, s1) := startRevoke (.close x.ring h) e.node e.gen x.issuer s
    .wait rid s1

/-- A keyring entry leaves every key cache and TLB of the package (R97, R101). -/
def uncache (ring h : Nat) (s : State) : State :=
  s.cores.foldl (init := s) fun s' e =>
    if e.2.keys.any (fun k => k.ctx == ring && k.handle == h) || e.2.tlb.any (fun p => p.ctx == ring && p.handle == h) then
      modCore s' e.1 fun c =>
        { c with keys := c.keys.filter fun k => !(k.ctx == ring && k.handle == h), tlb := c.tlb.filter fun p => !(p.ctx == ring && p.handle == h) }
    else s'

/-- Frees an entry: its node may lose its last reference, and a peer's entry is closed there (R97, R339). -/
def freeKey (ring h : Nat) (s : State) : State :=
  let e := getKey s ring h
  let s1 := uncache ring h (setKey ring h KeyEntry.free s)
  if !e.v then s
  else if e.peer then sendPeer (tagOf s e (getCtx s ring).part ring) 34 (w64 e.rhdl) [] s1
  else dropRef e.node s1

/-- Removes the bindings and entries of a destroyed node; a mount's entries on peers are closed (R99, R101). -/
def unname (node : Nat) (s : State) : State :=
  let s1 : State := { s with binds := spFilter (fun _ b => !b.isEmpty) (s.binds.map fun e => (e.1, e.2.filter (·.node != node))) }
  let peers : Sp KeyEntry := s1.keys.filter fun e => e.2.v && e.2.peer && e.2.node == node
  let s2 := peers.foldl (init := s1) fun s e => freeKey (e.1 / 65536) (e.1 % 65536) s
  { s2 with keys := s2.keys.filter fun e => !(e.2.node == node && e.2.v && !e.2.peer) }

/-- Releases what a destroyed node holds (R99). -/
def releaseNode (node : Nat) (s : State) : State :=
  let n := getNode s node
  let runs := (s.alloc.filter (·.node == node)).map fun x => (x.page, x.count)
  let s1 := if runs.isEmpty then s else clearPages runs { s with alloc := s.alloc.filter (·.node != node) }
  match n.kind with
  | 0 =>
    let bs := bindingsOf s1 node
    bs.foldl (init := setBindings node [] s1) fun s b => dropRef b.node s
  | 2 =>
    if (getQueue s1 n.arg).node = node then { s1 with queues := spErase n.arg s1.queues, gnodes := s1.gnodes.filter fun e => e.1 / 65536 != n.arg }
    else s1
  | 5 =>
    if n.arg = 1 then wrWord { s1 with media := s1.media.filter (·.node != node) } (nodeKey node 0) 0
    else if (getStream s1 node).v then closeStream node s1 else s1
  | 8 => { s1 with saves := spErase node s1.saves }
  | _ => s1

/-- Words 0 and 1 of a new entry of a mount keyring, which go to the peer package with its handle (R95, R101). -/
def peerWords (s : State) (ring v : Nat) : List Byte :=
  if 65536 ≤ ring ∧ 0 < v ∧ v < 0xFFFF then leList 8 (keyWord0 (getKey s ring v)).toNat ++ leList 8 (getKey s ring v).limit else []

/-- The keyring of the issuer of a transaction, where a peer package's is a mount keyring (R101). -/
def issuerRing (i : Issuer) : Nat := match i with | .host (.peer g) => 65536 + g.part | _ => 0

/-- Tells whoever waits that a transaction is done with a result word; a thread that goes on has seen what came before (R95, R237). -/
def tellIssuer (i : Issuer) (rid : Nat) (v : Word) (s : State) : State :=
  match i with
  | .thread t =>
    asHart t (fun s =>
      match (cur s).wait with
      | .name r d q => if r = rid then retire s 4 q (if d = 0 then s else addLate d v s) else s
      | _ => s) (catchUp (coreOf t) s)
  | .host fn => emit ⟨fn, 0, v, peerWords s (issuerRing i) v.toNat⟩ s
  | .node _ _ => s
  | .none => s

/-- Every acknowledgement is in: the invalidation's own effect and its answer, then the retirement reports are awaited (R96 steps 4
and 5, R97, R99 steps 4 and 5). -/
def acknowledged (rid : Nat) (s : State) : State :=
  let r := getRevoke s rid
  let s1 := match r.kind with
    | .revoke h => tellIssuer r.issuer rid (w64 h) s
    | .close ring h => tellIssuer r.issuer rid 0 (freeKey ring h s)
    | .destroy => tellIssuer r.issuer rid 0 (releaseNode r.node (unname r.node s))
    | .pages _ => tellIssuer r.issuer rid 0 s
  if r.retire.isEmpty then { s1 with revokes := spErase rid s1.revokes }
  else r.retire.foldl (init := s1) fun s q => push (.journalRetireReport rid q) s

/-- Filter entries in use at a quadrant's home units (R96). -/
def filtersAt (s : State) (q : Nat) : Nat := (s.filters.filter (·.quadrant == q)).length

/-- FILTER_INSTALL: the home units of a quadrant refuse the node's older generations from now on, unless their filter is full; after
the last, the caches are invalidated (R96 steps 2 and 3). -/
def execFilterInstall (rid quadrant : Nat) (s : State) : Out :=
  let r := getRevoke s rid
  if !r.filters.contains quadrant || decide (32 ≤ filtersAt s quadrant) then .next s
  else
    let left := r.filters.filter (· != quadrant)
    let s1 := setRevoke rid { r with filters := left } { s with filters := s.filters ++ [⟨quadrant, r.node, r.gen, rid⟩] }
    .next (if left.isEmpty then quadrants.foldl (init := s1) fun s q => push (.keyInvalidate rid q) s else s1)

/-- The quadrant of a unit that keeps a key cache; the host and the ports count as quadrant 0 (R22, R88). -/
def unitQuad (unit : Nat) : Nat := if unit < 1024 then unit / 64 else if unit < 1040 then unit - 1024 else 0

/-- What an invalidation drops from a key cache: a node's entries, or one handle's. -/
def dropsKey (r : Revoke) (c : CachedKey) : Bool :=
  match r.kind with
  | .close ring h => c.ctx == ring && c.handle == h
  | .pages _ => false
  | _ => c.entry.node == r.node && !c.entry.peer

/-- What an invalidation drops from a TLB. -/
def dropsPage (r : Revoke) (c : CachedPage) : Bool :=
  match r.kind with
  | .close ring h => c.ctx == ring && c.handle == h
  | .pages (some p) => c.node == r.node && c.page == p
  | _ => c.node == r.node

/-- The node of a handle in a context. -/
def handleNode (s : State) (ctx h : Nat) : Nat := (getKey s ctx h).node

/-- The pinned segment of a core comes from the node (R183). -/
def segmentOf (s : State) (c : CoreSt) (node : Nat) : Bool :=
  match c.segment with
  | some (l, _, _) => (getLaunch s l).code == node
  | none => false

/-- KEY_INVALIDATE: the caches of a quadrant's cores, harts and ports drop the entries, a pinned segment of the node becomes stale,
and the acknowledgement is under way (R96 step 3, R183). -/
def execKeyInvalidate (rid quadrant : Nat) (s : State) : Out :=
  let r := getRevoke s rid
  if !r.acks.contains quadrant || !r.filters.isEmpty then .next s
  else
    let stale := match r.kind with | .revoke _ => true | .destroy => true | _ => false
    let s1 := s.cores.foldl (init := s) fun s' e =>
      if unitQuad e.1 = quadrant then
        modCore s' e.1 fun c =>
          { c with
            keys := c.keys.filter fun k => !dropsKey r k
            tlb := c.tlb.filter fun p => !dropsPage r p
            segment := if stale && segmentOf s c r.node then c.segment.map fun g => (g.1, g.2.1, true) else c.segment }
      else s'
    .next (push (.revokeAck rid quadrant) s1)

/-- A thread of the quadrant has an access through the node that waits at its home, in a wait list or behind a hold, or whose late result has not
returned: its core does not acknowledge yet (R96 step 3, R399). -/
def accessOpen (s : State) (r : Revoke) (quadrant : Nat) : Bool :=
  s.threads.any fun e =>
    let via := fun (a : Word) =>
      hdl a != 0xFFFF && handleNode s e.2.ctx (hdl a) == r.node
        && (match r.kind with
            | .close ring h => ring == e.2.ctx && h == hdl a
            | .pages (some p) => off a / 4096 == p
            | _ => true)
    quadOf e.1 == quadrant &&
      ((match e.2.wait with
        | .word _ _ a _ _ _ => via a
        | .resv _ a => via a
        | _ => false)
      || e.2.late.any fun l => l.addr != 0 && via l.addr)

/-- REVOKE_ACK: an acknowledgement reaches the engine; the last one ends the transaction (R96 step 4). -/
def execRevokeAck (rid quadrant : Nat) (s : State) : Out :=
  let r := getRevoke s rid
  if !r.acks.contains quadrant || !r.filters.isEmpty || accessOpen s r quadrant then .next s
  else
    let left := r.acks.filter (· != quadrant)
    let s1 := setRevoke rid { r with acks := left } s
    .next (if left.isEmpty then acknowledged rid s1 else s1)

/-- The quadrant of a core, or of an engine hart counted as one (R22, R154). -/
def coreQuad (core : Nat) : Nat := if core < 1024 then core / 64 else (core - 1024) / 4

/-- A quadrant's cores and harts hold a live journal entry of the node issued before the invalidation, or a packet of one that was refused, or
whose thread is gone, is still under way (R96 step 5). -/
def entriesLeft (s : State) (r : Revoke) (quadrant : Nat) : Bool :=
  (s.journal.any fun e => e.2.live && !e.2.ref && coreQuad (e.1 / 32) == quadrant
    && ((e.2.node == r.node && decide (e.2.gen < r.gen)) || (e.2.cnode == r.node && decide (e.2.cgen < r.gen))))
  || s.pending.any fun e => match e with
    | .putSegmentLand p _ _ _ => coreQuad p.core == quadrant && p.node == r.node && decide (p.gen < r.gen)
    | _ => false

/-- JOURNAL_RETIRE_REPORT: a quadrant's cores report that their journal entries through the node have retired; when all have, the
filters go (R96 step 5, R99 step 6). -/
def execJournalRetireReport (rid quadrant : Nat) (s : State) : Out :=
  let r := getRevoke s rid
  if !r.retire.contains quadrant || !r.acks.isEmpty || entriesLeft s r quadrant then .next s
  else
    let left := r.retire.filter (· != quadrant)
    .next (if left.isEmpty then { s with revokes := spErase rid s.revokes, filters := s.filters.filter (·.rid != rid) }
      else setRevoke rid { r with retire := left } s)

/-- NODE_DESTROY: the node is marked DEAD and its filters, at a generation above every one, are under way (R99 steps 1 and 2). -/
def execNodeDestroy (node : Nat) (s : State) : Out :=
  if !(getNode s node).v || (getNode s node).dead then .next s
  else .next (startRevoke .destroy node 65536 .none (modRecord s node fun n => { n with dead := true })).2

/-! ### CREATE (R98) -/

/-- What CREATE makes before the node is bound: the node record and the state, or the reason. -/
abbrev Made := Except Nat (Node × State)

/-- A memory region (R98). -/
def makeRegion (x : Tx) (num : Nat) (w1 w2 w3 : Word) (s : State) : Made :=
  let size := w1.toNat
  if size % 4096 ≠ 0 ∨ size < 4096 ∨ 2 ^ 47 < size ∨ 2 < w2.toNat ∨ w3.toNat % 4096 ≠ 0 ∨ 2 ^ 48 ≤ w3.toNat then .error 13
  else
    let n := freshNode s x 1 size
    if w3 ≠ 0 then
      if x.ctx ≠ 0 then .error 15
      else
        match makeTable num w2.toNat [(w3.toNat / 4096, size / 4096)] s with
        | some (root, s1) => .ok ({ n with ptroot := w64 root }, s1)
        | none => .error 14
    else
      match allocPages (rangesOf s x.ctx x.part) num (size / 4096) s with
      | none => .error 14
      | some (runs, s1) =>
        match makeTable num w2.toNat runs s1 with
        | some (root, s2) => .ok ({ n with ptroot := w64 root }, s2)
        | none => .error 14

/-- The lowest free queue number (R98). -/
def freeQueue (s : State) : Option Nat :=
  let q := s.queues.foldl (init := 0) fun q e => if e.1 = q then q + 1 else q
  if q < 8192 then some q else none

/-- The queues of a queue gang. -/
def gangQueues (s : State) (gang : Nat) : List Nat := (s.queues.filter fun e => e.2.v && e.2.graph && e.2.gang == gang).map Prod.fst

/-- A resident slot of a tumbler is free (R105). -/
def tumblerFree (s : State) (tumbler slot : Nat) : Bool :=
  decide (slot < 64) && !(s.queues.any fun e => e.2.v && e.2.resident && e.2.tumbler == tumbler * 64 + slot)

/-- Unmaps a whole gang (R119). -/
def unmapQueues (gang : Nat) (s : State) : State :=
  (gangQueues s gang).foldl (fun s i => modQueue s i fun x => { x with resident := false, tumbler := 0 }) s

/-- A queue is added under a number. One that joins a mapped gang takes the lowest free slot of the gang's tumbler, so that the gang stays mapped as a
whole; with none free the gang is unmapped, and a store to the TAIL of one of its queues wakes a packet core (R119, R125; log 64). -/
def addQueue (q : Nat) (x other : GQueue) (s : State) : State :=
  let t := other.tumbler / 64
  match (if x.graph && x.gang == other.gang && other.v && other.resident then some ((upTo 64).find? (tumblerFree s t)) else none) with
  | none => { s with queues := spSet GQueue.none s.queues q x }
  | some (some p) => { s with queues := spSet GQueue.none s.queues q { x with resident := true, tumbler := t * 64 + p } }
  | some none => unmapQueues x.gang { s with queues := spSet GQueue.none s.queues q x }

/-- A queue, message or graph (R98, R102, R105). The gang a queue starts is known by the queue's node. -/
def makeQueue (x : Tx) (num : Nat) (w1 w2 w3 : Word) (s : State) : Made :=
  let slots := bits w1 16 0
  let graph := bit w1 17
  let accept := bits w1 19 18
  let ring := resolve s { whoCtx s x.ctx with unit := 9999 } w2 (slots * 128) needRd
  let inRegion := match ring with
    | .ok (.mem _) => (getKey s x.ctx (hdl w2)).kind == 1
    | _ => false
  let other := getQueue s (bits w3 12 0)
  if bits w1 63 21 ≠ 0 ∨ slots < 2 ∨ 65536 < slots ∨ w2.toNat % 128 ≠ 0 ∨ inRegion = false
      ∨ (graph = true ∧ (accept = 0 ∨ bits w3 63 16 ≠ 0 ∨ bits w3 14 13 ≠ 0)) ∨ (graph = false ∧ (accept ≠ 0 ∨ bit w1 20 = true ∨ w3 ≠ 0)) then
    .error 13
  else if graph = true ∧ bit w3 15 = false ∧ (other.v && other.graph && other.owner == x.ctx) = false then .error 13
  else if graph = true ∧ bit w3 15 = false ∧ 64 ≤ (gangQueues s other.gang).length then .error 14
  else
    match freeQueue s with
    | none => .error 14
    | some q =>
      let gq : GQueue := { GQueue.none with
        v := true, node := num, owner := x.ctx, slots := slots, ring := w2, accept := accept, skip := bit w1 20, graph := graph,
        gang := if bit w3 15 then num else other.gang }
      .ok ({ freshNode s x 2 0x2000 with arg := q }, addQueue q gq (if bit w3 15 then GQueue.none else other) s)

/-- A code node copies its source bytes (R98). -/
def makeCode (x : Tx) (num : Nat) (w1 w2 w3 : Word) (s : State) : Made :=
  let size := w1.toNat
  let h := hdl w2
  let e := getKey s x.ring h
  if size % 4 ≠ 0 ∨ size < 4 ∨ 2 ^ 47 < size ∨ w3 ≠ 0 then .error 13
  else if h = 0 ∨ h = 0xFFFF ∨ e.v = false ∨ e.peer = true then .error 6
  else
    match agentRead s { whoCtx s x.ctx with unit := 9999 } w2 size with
    | .error i => .error (match i.reason with | 2 => 7 | 3 => 2 | _ => 13)
    | .ok data =>
      match allocPages (rangesOf s x.ctx x.part) num ((size + 4095) / 4096) s with
      | none => .error 14
      | some (runs, s1) =>
        match makeTable num 1 runs s1 with
        | none => .error 14
        | some (root, s2) =>
          let ps := runs.map fun r => (⟨r.1 * 4096, r.2 * 4096, 1, num, 1⟩ : Piece)
          .ok ({ freshNode s x 6 size with ptroot := w64 root }, wrPieces s2 ps data)

/-- The node record of a code node's source, or of a queue's ring, that must come from the host first (R89). -/
def sourceMiss (x : Tx) (kind : Nat) (w2 : Word) (s : State) : Option Nat :=
  let e := getKey s x.ring (hdl w2)
  if (kind = 2 ∨ kind = 6) ∧ hdl w2 ≠ 0 ∧ hdl w2 ≠ 0xFFFF ∧ e.v = true ∧ e.peer = false ∧ recordMissing s e.node = true then some e.node else none

/-- The node of a creation record's kind, its resources taken (R98). The 257th media stream node is refused with NORES (R74; log 6). Format windows and save areas are the key core's; their record is
read as a window number, and as a size and the partition's number (R162; log 6). -/
def makeNode (x : Tx) (num kind : Nat) (w1 w2 w3 : Word) (s : State) : Made :=
  let p := getPart s x.part
  let plain := fun (ok : Bool) (n : Node) => (if ok then .ok (n, s) else .error 13 : Made)
  match kind with
  | 0 => plain (w1 == 0 && w2 == 0 && w3 == 0) (freshNode s x 0 0)
  | 1 => makeRegion x num w1 w2 w3 s
  | 2 => makeQueue x num w1 w2 w3 s
  | 3 =>
    if bits w1 63 6 ≠ 0 ∨ w2 ≠ 0 ∨ w3 ≠ 0 then .error 13
    else
      let hart := 4 * bits w1 3 0 + bits w1 5 4
      if p.v && p.harts.getLsbD hart then .ok ({ freshNode s x 3 0x1000 with arg := hart }, s) else .error 15
  | 4 => plain (w1 == 0 && w2 == 0 && w3 == 0) (freshNode s x 4 8)
  | 5 =>
    if 1 < w1.toNat ∨ w2 ≠ 0 ∨ w3 ≠ 0 then .error 13
    else if w1 = 1 ∧ 256 ≤ (s.nodes.filter fun e => e.2.v && !e.2.dead && e.2.kind == 5 && e.2.arg == 1).length then .error 14
    else .ok ({ freshNode s x 5 (if w1 = 1 then 0x40 else 0x1000) with arg := w1.toNat }, s)
  | 6 => makeCode x num w1 w2 w3 s
  | 7 => if x.ctx ≠ 0xFFFF then .error 15 else plain (decide (w1.toNat < 16) && w2 == 0 && w3 == 0) { freshNode s x 7 0x40 with arg := w1.toNat }
  | 8 =>
    if x.ctx ≠ 0xFFFF then .error 15
    else
      match (if w3.toNat < 20 then makeRegion { x with ctx := 0 } num w1 w2 0 s else .error 13) with
      | .ok (n, s1) => .ok ({ n with kind := 8, owner := x.ctx, part := w3.toNat }, s1)
      | .error r => .error r
  | 9 =>
    let port := bits w1 3 0
    let pkg := bits w1 15 8
    if bits w1 63 16 ≠ 0 ∨ bits w1 7 4 ≠ 0 ∨ w2 ≠ 0 ∨ w3 ≠ 0 then .error 13
    else if p.v && p.ports.getLsbD port && p.routes.contains (port, pkg) then
      .ok ({ freshNode s x 9 0 with arg := port, arg2 := pkg }, s)
    else .error 15
  | _ => .error 13

/-- CREATE: the record and the name, the directory, the node, its binding, its entry; a failure changes nothing (R98). DESIGN CHOICE: the entry of a
save area, which the key core makes for the firmware, goes to the system context's keyring, where GSCTL names it (R161, R162; log 67). -/
def txCreate (x : Tx) (path : List Byte) (rec_ : List Word) (s : State) : TxOut :=
  let w0 := rec_.getD 0 0
  let ceil : BitVec 5 := BitVec.ofNat 5 (bits w0 59 55)
  match parseName path with
  | none => .fail 5 0
  | some name =>
    if bits w0 49 16 ≠ 0 then .fail 13 0
    else
      withDir x (bits w0 15 0) true s fun d =>
        if (lookupName s d.node name).isSome then .fail 9 0
        else if 4096 ≤ (bindingsOf s d.node).length then .fail 11 0
        else
          match sourceMiss x (bits w0 63 60) (rec_.getD 2 0) s with
          | some n => .miss n 0
          | none =>
          match newNode s (if bit w0 54 then bits w0 53 50 else x.quad) with
          | none => .fail 14 0
          | some num =>
            match makeNode x num (bits w0 63 60) (rec_.getD 1 0) (rec_.getD 2 0) (rec_.getD 3 0) s with
            | .error r => .fail r 0
            | .ok (n, s1) =>
              let s2 := addBinding d.node name num ceil (addNode num n s1)
              match makeEntry (if bits w0 63 60 = 8 then { x with ring := 0 } else x) (entryOf s2 num ceil ceil) s2 with
              | none => .fail 14 0
              | some (h, s3) => .done h s3

/-! ### Answers of peer packages (R95, R339) -/

/-- The reason that a status of R67 gives a forwarded transaction. -/
def statusFail (st : Nat) : Nat :=
  match st with
  | 2 => 2 | 3 => 7 | 4 => 4 | 5 => 4 | 7 => 4 | _ => 13

/-- Ends a forwarded transaction with its answer: the result word, and for STAT the record to write. A new local entry has PEER = 1,
with the kind, rights, ceiling and generation of the remote entry, words 0 and 1 of which the answer carries (R95, log 6). Where the local
keyring is full, the remote entry is closed again (R90). -/
def endForward (f : Forward) (a : RemoteAnswer) (s : State) : Word × List Byte × State :=
  if a.status ≠ 0 then (failWord (statusFail a.status) f.base, [], s)
  else if 0xFFFFFFFFFFFFF000 ≤ a.value.toNat then (failWord (bits a.value 11 3) (bits a.value 2 0 + f.base), [], s)
  else if f.kind = 35 then (0, a.data.take 32, s)
  else
    let w0 := wordAt a.data 0
    let e : KeyEntry := { KeyEntry.free with
      pkg := f.tag.pkg, port := f.tag.port, rhdl := bits a.value 15 0, limit := bits (wordAt a.data 8) 47 0, v := true, peer := true,
      kind := bits w0 61 58, rights := BitVec.ofNat 5 (bits w0 57 53), ceil := BitVec.ofNat 5 (bits w0 52 48), gen := bits w0 47 32,
      node := f.node }
    match freeHandle { s with forwards := s.forwards.erase f } f.ring with
    | none => (failWord 8 0, [], sendPeer f.tag 34 (w64 e.rhdl) [] s)
    | some h => (w64 h, [], setKey f.ring h e s)

end Sys2Proof.Machine
end

