-- ==== Sys2Proof/Machine/NameInstr.lean ====
section
/-! DEFINITION. The name transaction instructions, major 0x2A (R338 to R340). -/

namespace Sys2Proof.Machine

/-- The issuing thread's transactions (R338). -/
def txOf (s : State) : Tx :=
  let th := cur s
  ⟨th.ctx, th.ctx, th.part, th.tenant, quadOf s.me, 0, 0, .thread s.me⟩

/-- Ends a name instruction: its result is late, and the thread stays out of the rotation until it returns, whatever S holds (R339);
a record the host must supply makes it wait and issue again (R89). store writes a STAT record. -/
def endName (d : Reg) (addr : Word) (store : List Byte → State → State) (s0 s : State) (o : TxOut) : Out :=
  match o with
  | .fail r i => lateResult s0 4 true d (failWord r i) s
  | .done v s1 => lateResult s0 4 true d (w64 v) s1
  | .stat bytes => lateResult s0 4 true d 0 (store bytes s)
  | .wait rid s1 => unlessFault s0 4 (.next (park (.name rid d true) s1))
  | .away f v data => unlessFault s0 4 (.next (park (.remote d true) (sendPeer f.tag f.kind v data { s with forwards := s.forwards ++ [f] })))
  | .miss n i => .next (pushOnce (.nodeCacheMiss n ⟨(cur s).ctx, true⟩) (park (.fetch n addr (some (d, true, i))) s0))

/-- The checks of R339 step 1 on n bytes at an operand address, then act with its place. -/
def withRecord (s0 s : State) (a : Word) (align n : Nat) (need : Need) (act : Place → Out) : Out :=
  if a.toNat % align ≠ 0 then exactAt 4 ⟨3, 0, a⟩ s0
  else
    withPlace s0 s 4 a n need fun p =>
      match p with
      | .peer _ => exactAt 4 ⟨2, 3, a⟩ s0
      | _ => act p

/-- Reads n bytes of a record by ordinary loads (R339 step 2). -/
def readRecord (s0 s : State) (q : Bool) (a : Word) (align n : Nat) (act : List Byte → State → Out) : Out :=
  withRecord s0 s a align n needRd fun p =>
    match p with
    | .mem ps => withMemory s0 s 4 q a false true ps fun s1 => act (loadPieces (coreOf s.me) ps s1).1 (loadPieces (coreOf s.me) ps s1).2
    | .unit node kind o gen =>
      if unitStale s node gen then done s0 4 q (refuse s.me (cur s0).pc (cur s0).seq ⟨2, 2, a⟩ s) else act (unitRead s node kind o n) s
    | .table o => act (tableRead s (whoOf s s.me) o n) s
    | .peer _ => exactAt 4 ⟨2, 3, a⟩ s0

/-- Reads a path record: its header, then 16 bytes a component; a count that is not allowed fails with BADNAME at index 0 (R339). -/
def withPath (s0 s : State) (q : Bool) (d : Reg) (a : Word) (single : Bool) (act : List Byte → State → Out) : Out :=
  readRecord s0 s q a 8 8 fun head s1 =>
    let n := (head.getD 0 0).toNat
    if n < 1 ∨ 8 < n ∨ (single = true ∧ n ≠ 1) then lateResult s0 4 true d (failWord 5 0) s1
    else
      match effAddr a 8 with
      | .error i => exactAt 4 i s0
      | .ok a' => readRecord s0 s1 q a' 8 (16 * n) fun rest s2 => act (head ++ rest) s2

/-- A handle operand: bits [63:16] are reserved (R338). -/
def withOperand (d : Reg) (v : Word) (s0 s : State) (act : Nat → Out) : Out :=
  if bits v 63 16 ≠ 0 then lateResult s0 4 true d (failWord 13 0) s else act (bits v 15 0)

/-- No STAT record is written. -/
def noStore (_ : List Byte) (s : State) : State := s

/-- nwalk (R338). -/
def execNwalk (q : Bool) (d a b : Reg) (s : State) : Out :=
  withRegs [a, b] [] s fun s1 =>
    let y := xr (cur s1) b
    withPath s s1 q d y false fun path s2 =>
      withOperand d (xr (cur s2) a) s s2 fun h => endName d y noStore s s2 (txWalk (txOf s2) h 0 path s2)

/-- nopen (R338). -/
def execNopen (q : Bool) (d a b : Reg) (s : State) : Out :=
  withRegs [a, b] [] s fun s1 =>
    let _ := q
    withOperand d (xr (cur s1) a) s s1 fun h => endName d 0 noStore s s1 (txOpen (txOf s1) h (xr (cur s1) b) s1)

/-- nclose (R338). -/
def execNclose (q : Bool) (d a : Reg) (s : State) : Out :=
  withRegs [a] [] s fun s1 =>
    let _ := q
    withOperand d (xr (cur s1) a) s s1 fun h => endName d 0 noStore s s1 (txClose (txOf s1) h s1)

/-- nbind (R338, R340). -/
def execNbind (q : Bool) (d a b : Reg) (s : State) : Out :=
  withRegs [a, b] [] s fun s1 =>
    let x := xr (cur s1) a
    withPath s s1 q d x true fun path s2 => endName d x noStore s s2 (txBind (txOf s2) path (xr (cur s2) b) s2)

/-- nunbind (R338). -/
def execNunbind (q : Bool) (d a b : Reg) (s : State) : Out :=
  withRegs [a, b] [] s fun s1 =>
    let x := xr (cur s1) a
    withPath s s1 q d x true fun path s2 => endName d x noStore s s2 (txUnbind (txOf s2) path (xr (cur s2) b) s2)

/-- The store of a STAT record at a node that is not plain memory or at a mapping table: a refusal there is a returned trap of the instruction at
pc (R247, R339). -/
def storeRecord (pc : Word) (seq : Nat) (y : Word) (p : Place) (bytes : List Byte) (s : State) : State :=
  let put := fun (r : Except TrapInfo State) => match r with | .ok s1 => s1 | .error i => refuse s.me pc seq i s
  match p with
  | .unit node kind o gen =>
    if unitStale s node gen then refuse s.me pc seq ⟨2, 2, y⟩ s else put (unitStore (cur s).ctx (cur s).tenant node kind o y bytes s)
  | .table o => put (tableStore (whoOf s s.me) o y bytes s)
  | _ => s

/-- nstat: the core writes the record as one ordinary store (R338, R339). -/
def execNstat (q : Bool) (d a b : Reg) (s : State) : Out :=
  withRegs [a, b] [] s fun s1 =>
    let y := xr (cur s1) b
    withRecord s s1 y 32 32 needWr fun p =>
      withOperand d (xr (cur s1) a) s s1 fun h =>
        match p with
        | .mem ps =>
          withMemory s s1 4 q y false false ps fun s2 =>
            endName d y (storePieces (coreOf s.me) ps) s s2 (txStat (txOf s2) h y s2)
        | p => endName d y (storeRecord (cur s).pc (cur s).seq y p) s s1 (txStat (txOf s1) h y s1)

/-- nrevoke (R338). -/
def execNrevoke (q : Bool) (d a : Reg) (s : State) : Out :=
  withRegs [a] [] s fun s1 =>
    let _ := q
    withOperand d (xr (cur s1) a) s s1 fun h => endName d 0 noStore s s1 (txRevoke (txOf s1) h s1)

/-- ndup (R338). -/
def execNdup (q : Bool) (d a b : Reg) (s : State) : Out :=
  withRegs [a, b] [] s fun s1 =>
    let _ := q
    withOperand d (xr (cur s1) a) s s1 fun h => endName d 0 noStore s s1 (txDup (txOf s1) h (xr (cur s1) b) s1)

/-- ncreate: the creation record is read as the path record is (R338, R339). -/
def execNcreate (q : Bool) (d a b : Reg) (s : State) : Out :=
  withRegs [a, b] [] s fun s1 =>
    let x := xr (cur s1) a
    let y := xr (cur s1) b
    withRecord s s1 x 8 8 needRd fun _ =>
      withRecord s s1 y 8 32 needRd fun _ =>
        withPath s s1 q d x true fun path s2 =>
          readRecord s s2 q y 8 32 fun r s3 =>
            endName d x noStore s s3 (txCreate (txOf s3) path ((upTo 4).map fun i => wordAt r (8 * i)) s3)

end Sys2Proof.Machine
end

