-- ==== Sys2Proof/Machine/Sync.lean ====
section
/-! DEFINITION. Fences, cache operations, barrier objects and latches, majors 0x17 to 0x19 (R321 to R325, R151, R152). -/

namespace Sys2Proof.Machine

/-! ### Fences and cache operations -/

/-- A fence: out of the rotation until the covered operations are acknowledged or refused (R321); what follows it comes after them (R238). -/
def fenceOp (q put post : Bool) (s : State) : Out :=
  if outstanding s (cur s).uid put post then unlessFault s 4 (.next (park (.fence put post) s)) else done s 4 q (catchUp (coreOf s.me) s)

/-- fence.put (R321). -/
def execFencePut (q : Bool) (s : State) : Out := fenceOp q true false s
/-- fence.post (R321). -/
def execFencePost (q : Bool) (s : State) : Out := fenceOp q false true s
/-- fence.all (R321). -/
def execFenceAll (q : Bool) (s : State) : Out := fenceOp q true true s

/-- The pieces of the 64-byte line of a global address, when it passes R88 for a need and is neither a local level, a view line nor a peer's
(R322). -/
def cacheLine (s : State) (need : Need) (a : Word) : List Piece :=
  if hdl a = 0xFFFF then []
  else
    match resolve s (whoOf s s.me) (offWrap a (-Int.ofNat (off a % 64))) 64 need with
    | .ok (.mem ps) => if ps.length = 1 ∧ (ps.all fun p => decide (p.key < physEnd)) = true then ps else []
    | _ => []

/-- cpf: a read lease on a line that may be read; it adds no order (R322). -/
def execCpf (q : Bool) (a : Reg) (s : State) : Out :=
  withRegs [a] [] s fun s1 =>
    let ps := cacheLine s1 needRd (xr (cur s1) a)
    done s 4 q ((cLines ps).foldl (loadTimes (coreOf s.me)) (ownPages (coreOf s.me) s1 ps))

/-- cwb: a write back changes no value (R322). -/
def execCwb (q : Bool) (a : Reg) (s : State) : Out := withRegs [a] [] s fun s1 => done s 4 q s1

/-- A line leaves a core's L1 and its quadrant's L2. -/
def dropLine (core line : Nat) (s : State) : State :=
  let s1 := modCore s core fun c => { c with leases := spErase line c.leases }
  { s1 with l2 := spErase (l2Key core line) s1.l2 }

/-- cfl: the core's L1 and its quadrant's L2 keep the line no longer (R322). -/
def execCfl (q : Bool) (a : Reg) (s : State) : Out :=
  withRegs [a] [] s fun s1 =>
    done s 4 q ((cLines (cacheLine s1 ⟨false, false, false⟩ (xr (cur s1) a))).foldl (init := s1) fun s2 line =>
      dropLine (coreOf s.me) line s2)

/-! ### Barrier objects (R323, R324) -/

/-- Writes the object at pieces. -/
def barPut (core : Nat) (ps : List Piece) (o : BarObj) (s : State) : State :=
  let bs := rdPieces s ps
  storePieces core ps (leList 8 (BarObj.word0 o (wordAt bs 0)).toNat ++ leList 8 (BarObj.word1 o (wordAt bs 8)).toNat) s

/-- Resolves a barrier object: 16-byte aligned, in a core-private part or cluster memory through handle 0xFFFF alone; it waits behind
a hold of its words (R308, R309, R315). -/
def withBar (s0 s1 : State) (q : Bool) (a : Word) (act : List Piece → State → Out) : Out :=
  if a.toNat % 16 ≠ 0 then exactAt 4 ⟨3, 0, a⟩ s0
  else
    let w := whoOf s1 s1.me
    if hdl a ≠ 0xFFFF then
      match resolve s1 w a 16 needRw with
      | .error i => exactAt 4 i s0
      | .ok _ => exactAt 4 ⟨2, 3, a⟩ s0
    else
      let (rn, ri) := rotOf s1 w.part w.tenant
      let lv := localLevel s1 w.core rn (off a)
      if lv = 0 then exactAt 4 ⟨2, 4, a⟩ s0
      else if lv ≠ 1 ∧ lv ≠ 4 then exactAt 4 ⟨2, 3, a⟩ s0
      else
        match localRuns s1 w.core rn ri 17 (off a) 16 with
        | .error o => exactAt 4 ⟨2, 4, mkAddr 0xFFFF o⟩ s0
        | .ok ps => withMemory s0 s1 4 q a false true ps fun s2 => act ps s2

/-- The barrier overrun trap (R246, R324). -/
def barOverrun (a : Word) (s : State) : Out := exactAt 4 ⟨5, 0, a⟩ s

/-- bar.init (R324). -/
def execBarInit (q : Bool) (a b : Reg) (s : State) : Out :=
  withRegs [a, b] [] s fun s1 =>
    let x := xr (cur s1) a
    let n := bits (xr (cur s1) b) 11 0
    withBar s s1 q x fun ps s2 =>
      let o := barAt s2 ps
      if n = 0 ∨ (o.valid = true ∧ o.waiters ≠ 0) then barOverrun x s
      else
        done s 4 q (storePieces (coreOf s.me) ps (leList 8 (BarObj.word0 ⟨0, true, false, 0, 0, 0, n, 0⟩ 0).toNat ++ leList 8 0) s2)

/-- An arrival with count c and the thread's flags: the object after it, and x[d] (R324). -/
def barArrive (o : BarObj) (c fl : Nat) : BarObj × Word :=
  let o1 := { o with arrived := o.arrived + c, curfl := (BitVec.ofNat 5 o.curfl ||| BitVec.ofNat 5 fl).toNat }
  if o1.arrived = o1.expect then
    ({ o1 with lastfl := o1.curfl, curfl := 0, arrived := 0, phase := (o.phase + 1) % 16 }, w64 (o.phase + 256))
  else (o1, w64 o.phase)

/-- bar.arr: a refused arrival leaves OVERRUN set alone (R247, R324). -/
def barArrOp (q : Bool) (d a b : Reg) (s : State) : Out :=
  withRegs [a, b] [d] s fun s1 =>
    let x := xr (cur s1) a
    let c := bits (xr (cur s1) b) 11 0
    withBar s s1 q x fun ps s2 =>
      let o := barAt s2 ps
      if o.valid = false ∨ c = 0 then barOverrun x s
      else if o.expect < o.arrived + c then unlessFault s 4 (exact ⟨5, 0, x⟩ (barPut (coreOf s.me) ps { o with overrun := true } s))
      else
        let (o', r) := barArrive o c (bits (cur s2).thst 10 6)
        result s 4 q d r (barPut (coreOf s.me) ps o' s2)

/-- bar.arr (R324). -/
def execBarArr (q : Bool) (d a b : Reg) (s : State) : Out := barArrOp q d a b s

/-- bar.arrf waits as fence.all first (R324). -/
def execBarArrf (q : Bool) (d a b : Reg) (s : State) : Out :=
  if outstanding s (cur s).uid true true then unlessFault s 4 (.next (park (.fence true true) s)) else barArrOp q d a b (catchUp (coreOf s.me) s)

/-- The bar.wait result of a phase that has ended: the merged flags are returned and ORed into THST (R255, R324). -/
def barEnd (q : Bool) (d : Reg) (o : BarObj) (s0 s : State) : Out :=
  lateResult s0 4 q d (w64 (o.lastfl + 256 * o.phase)) (modTh (catchUp (coreOf s.me) s) s.me fun th => orFlags th (BitVec.ofNat 5 o.lastfl))

/-- bar.wait: tests the phase, and waits while it is the one named, counted in the object's WAITERS; the writes of the object test it from then on
(R323, R324). -/
def execBarWait (q : Bool) (d a b : Reg) (s : State) : Out :=
  withRegs [a, b] [] s fun s1 =>
    let x := xr (cur s1) a
    let phase := bits (xr (cur s1) b) 3 0
    let left := bits (xr (cur s1) b) 63 32
    withBar s s1 q x fun ps s2 =>
      let o := barAt s2 ps
      if o.valid = false then barOverrun x s
      else if o.phase ≠ phase then barEnd q d o s s2
      else if left = 0 then lateResult s 4 q d (w64 (2 ^ 63 + 256 * o.phase)) s2
      else
        unlessFault s 4 (.next (park (.barrier ((ps.headD ⟨0, 0, 0, 0, 0⟩).key) x phase left d q)
          (barPut (coreOf s2.me) ps { o with waiters := o.waiters + 1 } s2)))

/-- Takes a thread out of the WAITERS count of the object it waits on (R252, R324). -/
def leaveBarrier (t : Nat) (s : State) : State :=
  match (getTh s t).wait with
  | .barrier key _ _ _ _ _ => lessWaiter key s
  | _ => s

/-- BARRIER_WAIT_TIMEOUT: the timeout has passed with the phase unchanged: TMO (R324). -/
def execBarrierWaitTimeout (t : Nat) (s : State) : Out :=
  match (getTh s t).wait with
  | .barrier key _ p left d q =>
    if left ≠ 0 then .next s
    else if (barKey s key).phase ≠ p then .next (releaseWaiter s t)
    else .next (asHart t (fun s => retire s 4 q (addLate d (w64 (2 ^ 63 + 256 * p)) (leaveBarrier t s))) s)
  | _ => .next s

/-! ### Latches (R151, R152, R325) -/

/-- The partition of the thread a latch registration is for, saved ones too (R151, R153). -/
def latchPart (s : State) (r : LatchReg) : Nat :=
  if r.t < 1000000 then (getTh s r.t).part
  else
    let here := fun (e : Nat × Thread) => savedTag e.2.uid == r.t
    match s.saves.findSome? fun e => e.2.threads.find? here, s.cores.findSome? fun e => e.2.restored.find? here with
    | some e, _ => e.2.part
    | _, some e => e.2.part
    | _, _ => 0

/-- The latch registrations at a line's home, each by its own thread's interleave, and how many it holds (R151). -/
def latchHome (s : State) (part line : Nat) : Nat × Nat :=
  let h := homeOf s part (line * 64)
  ((s.latches.filter fun r => homeOf s (latchPart s r) (r.line * 64) == h).length, if h.1 = 0 then 8192 else 64)

/-- Withdraws a thread's latch entry: ARMED and HIT clear (R325). -/
def disarm (t i : Nat) (s : State) : State :=
  modTh { s with latches := s.latches.filter fun r => !(r.t == t && r.entry == i) } t fun th =>
    { th with latch := spSet 0 th.latch i (spGet 0 th.latch i &&& ~~~3) }

/-- Withdraws every latch entry of a thread (R173, R334). -/
def disarmAll (t : Nat) (s : State) : State := (upTo 4).foldl (fun s i => disarm t i s) s

/-- The line that an armed address names, its home's refusal apart: of memory, of a node's words or of a mapping table (R151, R308; log 71). -/
def latchLine (s : State) (p : Place) : Option Nat :=
  match p with
  | .mem (pc :: _) => some (pc.key / 64)
  | .unit node _ o _ => some (nodeKey node o / 64)
  | .table o => some (mapByte (mapKey s (whoOf s s.me) o) o / 64)
  | _ => none

/-- The home of a place refuses a request made now (R96). -/
def placeRefused (s : State) (p : Place) : Bool :=
  match p with
  | .mem ps => (refusedPiece s (cur s).part ps).isSome
  | .unit node _ _ gen => unitStale s node gen
  | _ => false

/-- lat.arm: registers the line at its home, or answers 1 when the home is full (R151, R325). -/
def execLatArm (q : Bool) (d a : Reg) (i : BitVec 2) (s : State) : Out :=
  withRegs [a] [] s fun s1 =>
    let x := xr (cur s1) a
    let la := offWrap x (-Int.ofNat (off x % 64))
    withPlace s s1 4 x 1 needRd fun p =>
      match latchLine s1 p with
      | some line =>
        if placeRefused s1 p then done s 4 q (refuse s.me (cur s).pc (cur s).seq ⟨2, 2, x⟩ s1)
        else
          let s2 := disarm s.me i.toNat (meet (coreOf s.me) s1)
          let (used, cap) := latchHome s2 (cur s2).part line
          if cap ≤ used then lateResult s 4 q d 1 s2
          else
            lateResult s 4 q d 0
              (modTh { s2 with latches := s2.latches ++ [⟨line, s.me, i.toNat⟩] } s.me fun th =>
                { th with latch := spSet 0 th.latch i.toNat (la ||| 2) })
      | none => exactAt 4 ⟨2, 3, x⟩ s

/-- Answers lat.wait with a reason word: HIT, RESTITCH and SFAIL clear, the entries stay armed; with INTR the word is written before the trap is taken
(R152). -/
def latchReturn (len : Nat) (q : Bool) (d : Reg) (r : Nat) (s0 s : State) : State :=
  retire s0 len (q || r.testBit 5) (addLate d (w64 r) (modTh (catchUp (coreOf s.me) s) s.me fun th =>
    { th with
      reasons := 0
      latch := (upTo 4).foldl (fun m i => spSet 0 m i (setBit (spGet 0 m i) 0 false)) th.latch }))

/-- lat.wait with a count of running cycles left: it returns its reasons, or TMO when none is left, or waits (R152). -/
def latTest (q : Bool) (d : Reg) (left : Nat) (s0 s1 : State) : Out :=
  let r := latchReason s1 s1.me
  if r ≠ 0 then .next (latchReturn 4 q d r s0 s1)
  else if left = 0 then .next (latchReturn 4 q d 16 s0 s1)
  else unlessFault s0 4 (.next (park (.latch left d q) s1))

/-- lat.wait (R152, R325). A thread already waiting has read its operand. -/
def execLatWait (q : Bool) (d b : Reg) (s : State) : Out :=
  match (cur s).wait with
  | .latch left _ _ => latTest q d left s s
  | _ => withRegs [b] [] s fun s1 => latTest q d (xr (cur s1) b).toNat s s1

/-- LATCH_WAIT_TIMEOUT: the reason word with TMO (R152). -/
def execLatchWaitTimeout (t : Nat) (s : State) : Out :=
  match (getTh s t).wait with
  | .latch left d q =>
    if left = 0 then .next (asHart t (fun s => latchReturn 4 q d (latchReason s t + 16) s s) s) else .next s
  | _ => .next s

/-- lat.clr (R325). -/
def execLatClr (q : Bool) (i : BitVec 2) (s : State) : Out := done s 4 q (disarm s.me i.toNat s)

end Sys2Proof.Machine
end

