-- ==== Sys2Proof/Machine/HostPort.lean ====
section
/-! DEFINITION. What comes in over the host port, and from peer packages: name transactions, reads and writes, contexts, and
the misses the host serves (R17, R65 to R71, R89, R100, R121). -/

namespace Sys2Proof.Machine

/-! ### The host mailbox (R131) -/

/-- A message leaves through the outbound ring; one that finds it full waits in the device (R131). -/
def sendMsg (m : List Byte) (s : State) : State :=
  let f := s.fw
  if (f.hmotail + 1) % 512 = f.hmohead then { s with fw := { f with waitOut := f.waitOut ++ [m] } }
  else { s with fw := { f with outRing := spSet [] f.outRing f.hmotail m, hmotail := (f.hmotail + 1) % 512 } }

/-- Messages that waited take the places the host has freed. fuel bounds them. -/
def drainMsgs : Nat → State → State
  | 0, s => s
  | n + 1, s =>
    match s.fw.waitOut with
    | [] => s
    | m :: rest =>
      if (s.fw.hmotail + 1) % 512 = s.fw.hmohead then s
      else drainMsgs n (sendMsg m { s with fw := { s.fw with waitOut := rest } })

/-- A 64-byte message (R131). -/
def message (type tag len : Nat) (last : Bool) (payload : List Byte) : List Byte :=
  leList 8 (type + tag % 65536 * 2 ^ 16 + len % 65536 * 2 ^ 32 + (if last then 2 ^ 48 else 0))
    ++ payload.take 56 ++ List.replicate (56 - payload.length) 0

/-- The RESULT of an inbound message, with its TAG (R131). -/
def sendResult (m : List Byte) (v : Word) (s : State) : State :=
  sendMsg (message 10 (bits (wordAt m 0) 31 16) 8 false (leList 8 v.toNat)) s

/-- The inbound message at an entry. -/
def inMessage (s : State) (n : Nat) : List Byte := (upTo 64).map fun i => spGet 0 s.fw.inRing (64 * n + i)

/-- A message waits in the inbound ring. -/
def inWaiting (s : State) : Bool := s.fw.hmihead != s.fw.hmitail

/-- The TYPE of the message at the head of the inbound ring, 0 for one whose TYPE, TARGET or reserved bits are not allowed (R131). -/
def headType (s : State) : Nat :=
  let w := wordAt (inMessage s s.fw.hmihead) 0
  let ty := bits w 7 0
  let target := bits w 11 8
  let want := match ty with | 2 => 0 | 4 => 0 | 6 => 1 | 7 => 1 | 8 => 1 | 9 => 0 | 11 => 0 | _ => 16
  if target ≠ want ∨ bits w 15 12 ≠ 0 ∨ bits w 63 49 ≠ 0 ∨ (ty ≠ 6 ∧ bit w 48 = true) then 0 else ty

/-- The event that takes the message at the head (R131). -/
def inboundEvent (s : State) : Instr :=
  match headType s with
  | 2 => .hmbFill | 4 => .hmbMap | 6 => .hmbSpdm | 7 => .hmbImgw | 8 => .hmbPartrec | 9 => .hmbNodereq | 11 => .hmbDefrag
  | _ => .hmbBadType

/-- The wake of a message at the head: the key core's for TARGET 1, the policy core's otherwise (R125, R131). -/
def inboundWake (s : State) : FwWake := .mailbox (bits (wordAt (inMessage s s.fw.hmihead) 0) 11 8 == 1)

/-- The firmware core a wake event is for: 0 the policy core, 1 to 6 the packet cores, 7 the key core (R123, R125). -/
def wakeCore (w : FwWake) : Nat :=
  match w with
  | .packet n _ => n.val + 1
  | .deferred n => n.val + 1
  | .mailbox key => if key then 7 else 0
  | .policyRequest => 7
  | .update => 7
  | _ => 0

/-- A firmware core. -/
def fwCore (s : State) (n : Nat) : FwCore := spGet FwCore.reset s.fw.cores n

/-- Changes a firmware core. -/
def modFwCore (s : State) (n : Nat) (f : FwCore → FwCore) : State :=
  { s with fw := { s.fw with cores := spSet FwCore.reset s.fw.cores n (f (fwCore s n)) } }

/-- The first event of a cause is served: a core with none left sleeps, its SRAM kept (R125). -/
def served (w : FwWake) (s : State) : State :=
  modFwCore s (wakeCore w) fun c => { c with causes := match c.causes.find? (·.1 == w) with | some x => c.causes.erase x | none => c.causes }

/-! ### Functions (R65, R70, R90, R100, R121) -/

/-- A function's place in the table of contexts it acts through. -/
def fnCode (fn : HostFn) : Nat :=
  match fn with
  | .pf => 0
  | .vf n => n.val + 1
  | _ => 1000

/-- The tenant a virtual function is bound to (R121; log 30). -/
def vfTenant (n : Nat) : Nat := n % 256

/-- READY (R17). -/
def ready (s : State) : Bool := bit s.pkg.pkst 8

/-- The policy core has been started, at bring-up stage 7, and with it the firmware's cores can wake (R15, R19). -/
def policyUp (s : State) : Bool := decide (8 ≤ bits s.pkg.pkst 7 4)

/-- The port a function's requests come in by works: before stage 5 has ended the host port has not trained (R17, R68). -/
def portUp (s : State) (fn : HostFn) : Bool :=
  match portOf fn with
  | some p => (spGet Port.reset s.ports p).up
  | none => true

/-- The partition a peer's packet belongs to, when its record here owns the port and the route to the sending package (R70). A port that no record
owns is the system's, and serves its packets alone; on this package they find no mount keyring but an empty one (log 61). -/
def peerPart (s : State) (g : PeerTag) : Option Nat :=
  match tenantOf g.ctx g.part with
  | none => if (portOwner s g.port).isSome then none else some systemRing
  | some n => if portOwner s g.port == some n && (getPart s n).routes.contains (g.port, g.pkg) then some n else none

/-- The partition whose record lists a tenant (R100). -/
def tenantPart (s : State) (tenant : Nat) : Option Nat := (s.parts.find? fun e => e.2.v && e.2.tenants.contains tenant).map Prod.fst

/-- The generation of the port a function's requests come in by (R65). -/
def fnGen (s : State) (fn : HostFn) : Nat :=
  match portOf fn with
  | some p => (spGet Port.reset s.ports p).gen
  | none => 3

/-- Who a function's transactions act for, or the status that refuses them (R17, R67, R70, R90, R122). The generation of its port must
allow the transaction's revision (R65). A packet core acts through the system context, as the policy core does (R124). -/
def txHost (s : State) (fn : HostFn) (rev2 : Bool) : Except Nat Tx :=
  let viaCtx := fun (c : Nat) =>
    let x := getCtx s c
    (⟨c, c, x.part, x.tenant, 0, 0, 0, .host fn⟩ : Tx)
  let ofGen := fun (x : Tx) => if rev2 && fnGen s fn != 3 then Except.error 7 else .ok x
  if !ready s then .error 1
  else
    match fn with
    | .peer g =>
      match peerPart s g with
      | none => .error 5
      | some p => ofGen ⟨65536 + p, 65536 + p, p, g.tenant, 0, g.pkg, g.port, .host fn⟩
    | .key => .ok (viaCtx 0xFFFF)
    | .policy => .ok (viaCtx 0)
    | .packet _ => .ok (viaCtx 0)
    | .board => .error 1
    | .pf => ofGen (viaCtx (spGet 0 s.vf.acting 0))
    | .vf n =>
      let c := spGet 0 s.vf.acting (n.val + 1)
      if bit s.vf.vfen 0 = false ∨ bit s.vf.vfstat 0 = true ∨ c = 0 ∨ (getCtx s c).live = false then .error 2 else ofGen (viaCtx c)

/-- Answers a function. -/
def reply (fn : HostFn) (status : Nat) (v : Word) (data : List Byte) (s : State) : State := emit ⟨fn, status, v, data⟩ s

/-- A transaction or an agent's event waits for a node record the host must supply, at a component of its path (R89). -/
def holdFor (node idx : Nat) (ctx : Nat) (e : Instr) (s : State) : State :=
  let s1 := pushOnce (.nodeCacheMiss node ⟨ctx, true⟩) s
  if s.missing.any (·.node == node) then
    { s1 with missing := s1.missing.map fun m => if m.node = node then { m with held := m.held ++ [(idx, e)] } else m }
  else { s1 with missing := s1.missing ++ [⟨node, s.cycle, [(idx, e)], false⟩] }

/-- Ends a transaction of a function; store puts a STAT record where the function asked for it (R67, R90, R93). A new entry's words 0
and 1 go to a peer with its handle (R95). What goes on at a peer package needs revision 2 on the asking port too (R65). -/
def endHost (fn : HostFn) (x : Tx) (e : Instr) (store : List Byte → State → Out) (s : State) (o : TxOut) : Out :=
  match o with
  | .fail r i => .next (reply fn 0 (failWord r i) [] s)
  | .done v s1 =>
    .next (reply fn 0 (w64 v) (peerWords s1 x.ring v) s1)
  | .stat bytes => store bytes s
  | .wait _ s1 => .next s1
  | .away f v data =>
    if fnGen s fn ≠ 3 then .next (reply fn 7 0 [] s)
    else .next (sendPeer f.tag f.kind v data { s with forwards := s.forwards ++ [f] })
  | .miss n i => .next (holdFor n i x.ctx e s)

/-- The function is a peer package: its WALK, OPEN and STAT are forwarded ones, which need revision 2 (R65, R95, R339). -/
def isPeer (fn : HostFn) : Bool := match fn with | .peer _ => true | _ => false

/-- A policy or packet core reaches a tenant's node only while the key core's grant for a duty stands: that of a defragmentation of its partition, or
to read what an array row that failed holds, for the triage of its error (R124; log 8). -/
def fwDenied (s : State) (fn : HostFn) (node : Nat) (need : Need) : Bool :=
  let n := getNode s node
  let holds := fun (e : ErrRec) => !e.lane && (e.state == 0 || e.state == 5 || e.due) && s.alloc.any fun x =>
    x.node == node && (upTo (512 * x.count)).any fun i => Config.rowHolds e.unit e.row (512 * x.page + i) e.at_
  (match fn with | .policy => true | .packet _ => true | _ => false) && n.owner != 0 && n.owner != 0xFFFF
    && !(s.pending.any fun e => match e with | .defragmentation p _ _ => p == n.part | _ => false)
    && (need.wr || !s.errors.any holds)

/-- What a policy or packet core asks of the name engines gives it no entry of a tenant's node without a grant, which the key core holds back
(R124). -/
def fwGrant (s : State) (fn : HostFn) (x : Tx) (o : TxOut) : TxOut :=
  match o with
  | .done v s1 => if v ≠ 0 ∧ fwDenied s fn (getKey s1 x.ring v).node needRd = true then .fail 2 0 else o
  | .wait rid s1 =>
    let r := getRevoke s1 rid
    if (match r.kind with | .revoke _ => true | _ => false) && fwDenied s fn r.node needWr then .fail 2 0 else o
  | o => o

/-- Runs a transaction of a function. -/
def hostTx (fn : HostFn) (rev2 : Bool) (e : Instr) (s : State) (act : Tx → TxOut) : Out :=
  match txHost s fn rev2 with
  | .error st => .next (reply fn st 0 [] s)
  | .ok x => endHost fn x e (fun bytes s => .next (reply fn 0 0 bytes s)) s (fwGrant s fn x (act x))

/-- A handle operand of a function's transaction: bits above [15:0] are reserved (R338). -/
def hostHandle (h : Nat) (act : TxOut) : TxOut := if 65536 ≤ h then .fail 13 0 else act

/-- HOST_WALK: a peer sends its running ceiling in bits [20:16] of the start, and no component when the mount was the last (R92, R95,
R101). -/
def execHostWalk (fn : HostFn) (start : Nat) (path : List Byte) (s : State) : Out :=
  hostTx fn (isPeer fn) (.hostWalk fn start path) s fun x =>
    let ceil : BitVec 5 := BitVec.ofNat 5 (start / 65536)
    if 65536 ≤ x.ring then
      if start % 65536 = 0 ∧ path.headD 0 = 0 then txExport x ceil s else txWalk x (start % 65536) ceil path s
    else hostHandle start (txWalk x start 0 path s)

/-- HOST_OPEN (R91). -/
def execHostOpen (fn : HostFn) (h : Nat) (w : Word) (s : State) : Out :=
  hostTx fn (isPeer fn) (.hostOpen fn h w) s fun x => hostHandle h (txOpen x h w s)

/-- HOST_CLOSE (R91, R97). -/
def execHostClose (fn : HostFn) (h : Nat) (s : State) : Out :=
  hostTx fn false (.hostClose fn h) s fun x => hostHandle h (txClose x h s)

/-- HOST_BIND (R91, R340). A peer's is never forwarded (R339). -/
def execHostBind (fn : HostFn) (path : List Byte) (word : Word) (s : State) : Out :=
  hostTx fn true (.hostBind fn path word) s fun x => if 65536 ≤ x.ring then .fail 6 0 else txBind x path word s

/-- HOST_UNBIND (R91). -/
def execHostUnbind (fn : HostFn) (path : List Byte) (d : Nat) (s : State) : Out :=
  hostTx fn true (.hostUnbind fn path d) s fun x => if 65536 ≤ x.ring then .fail 6 0 else txUnbind x path (w64 d) s

/-- The tags of a function's accesses; a peer's use the ingress port's own key cache, the firmware complex its own (R88, R95, R124). -/
def whoHost (x : Tx) : Who :=
  ⟨x.ctx, x.part, x.tenant, 2000,
    match x.issuer with
    | .host (.peer g) => 1101 + g.port
    | .host .policy => fwUnit
    | .host (.packet _) => fwUnit
    | .host .key => fwUnit
    | _ => 1100⟩

/-- HOST_STAT: the record is written through the context, which needs WR there, or goes back to a peer (R91, R93). -/
def execHostStat (fn : HostFn) (h : Nat) (record : Word) (s : State) : Out :=
  match txHost s fn (isPeer fn) with
  | .error st => .next (reply fn st 0 [] s)
  | .ok x =>
    let store := fun (bytes : List Byte) (s : State) =>
      if 65536 ≤ x.ring then Host.Outcome.next (reply fn 0 0 bytes s)
      else
        let w := whoHost x
        match hostMiss s w.unit w.ctx (hdl record) with
        | some n => .next (holdFor n 0 w.ctx (.hostStat fn h record) s)
        | none =>
          if hdl record ≠ 0xFFFF ∧ fwDenied s fn (lookupKey s w.unit w.ctx (hdl record)).1.node needWr = true then .next (reply fn 2 0 [] s)
          else
            match agentWrite w record bytes 0 s with
            | .ok s1 => .next (reply fn 0 0 [] s1)
            | .error _ => .next (reply fn 2 0 [] s)
    endHost fn x (.hostStat fn h record) store s (hostHandle h (txStat x h record s))

/-- HOST_REVOKE (R91, R96). -/
def execHostRevoke (fn : HostFn) (h : Nat) (s : State) : Out :=
  hostTx fn true (.hostRevoke fn h) s fun x => hostHandle h (txRevoke x h s)

/-- HOST_DUP (R91). -/
def execHostDup (fn : HostFn) (h : Nat) (w : Word) (s : State) : Out :=
  hostTx fn true (.hostDup fn h w) s fun x => hostHandle h (txDup x h w s)

/-- HOST_CREATE (R98). -/
def execHostCreate (fn : HostFn) (path : List Byte) (record : List Word) (s : State) : Out :=
  hostTx fn true (.hostCreate fn path record) s fun x => if 65536 ≤ x.ring then .fail 6 0 else txCreate x path record s

/-! ### Reads and writes through handles (R65, R67, R88, R95) -/

/-- The status of an access fault's reason (R67; log 31). -/
def reasonStatus (r : Nat) : Nat :=
  match r with
  | 1 => 2 | 2 => 3 | 3 => 2 | 8 => 4 | 9 => 5 | _ => 6

/-- The tag of an access that goes on to a peer package: a peer's own tenant and context go with it (R66, R88). -/
def onwardTag (fn : HostFn) (x : Tx) (k : KeyEntry) : PeerTag :=
  match fn with
  | .peer g => ⟨k.pkg, k.port, g.part, g.tenant, g.ctx⟩
  | _ => ⟨k.pkg, k.port, x.part, x.tenant, x.ctx % 65536⟩

/-- An access of a function: refused by a status, held for a node record, sent on through a peer entry, or performed. A node's homes refuse one
that a filter of its node meets (R96, R99). -/
def hostAccess (fn : HostFn) (a : Word) (n : Nat) (need : Need) (kind : Nat) (data : List Byte) (e : Instr) (s : State)
    (act : Tx → Place → Out) : Out :=
  match txHost s fn false with
  | .error st => .next (reply fn st 0 [] s)
  | .ok x =>
    let w := whoHost x
    match hostMiss s w.unit w.ctx (hdl a) with
    | some node => .next (holdFor node 0 w.ctx e s)
    | none =>
      match resolve s w a n need with
      | .error i => .next (reply fn (reasonStatus i.reason) 0 [] s)
      | .ok (.peer k) =>
        match portRefusal s x.ctx x.part k.pkg k.port with
        | some st => .next (reply fn st 0 [] s)
        | none =>
          let g := onwardTag fn x k
          .next (sendPeer g kind (remoteAddr k a) data { s with forwards := s.forwards ++ [⟨x.issuer, x.ring, kind, g, 0, a, k.node⟩] })
      | .ok p =>
        let stale := match p with
          | .mem ps => (refusedPiece s x.part ps).isSome
          | .unit node _ _ gen => unitStale s node gen
          | _ => false
        let node := match p with
          | .mem ps => (ps.headD ⟨0, 0, 0, 0, 0⟩).node
          | .unit node _ _ _ => node
          | _ => 0
        if fwDenied s fn node need then .next (reply fn 2 0 [] s) else if stale then .next (reply fn 3 0 [] s) else act x p

/-- HOST_READ (R65, R88). Uncorrectable data are refused (R136; log 31). -/
def execHostRead (fn : HostFn) (addr : Word) (n : Nat) (s : State) : Out :=
  hostAccess fn addr n needRd 16 (leList 8 n) (.hostRead fn addr n) s fun _ p =>
    match p with
    | .mem ps =>
      if (badWord s ps).isSome then .next (reply fn 6 0 [] s)
      else .next (reply fn 0 0 (rdPieces s ps) s)
    | .unit node kind o _ => .next (reply fn 0 0 (unitRead s node kind o n) s)
    | _ => .next (reply fn 6 0 [] s)

/-- The kind of a store sent on to a peer package: 17, or 23 where it fills and 24 where it empties the words it writes (R65). -/
def storeKind (fe : BitVec 2) : Nat := match fe.toNat with | 1 => 23 | 2 => 24 | _ => 17

/-- The store of a function at a node that is not plain memory: a peer's shows its own context, tenant and package (R103). -/
def fnStore (fn : HostFn) (x : Tx) (node kind o : Nat) (a : Word) (data : List Byte) (s : State) : Except TrapInfo State :=
  match fn with
  | .peer g =>
    if kind = 2 ∧ o < 0x1000 then queueAppendTo (getNode s node).arg o g.ctx g.tenant g.pkg a data s
    else unitStore g.ctx g.tenant node kind o a data s
  | _ => unitStore x.ctx x.tenant node kind o a data s

/-- The counter action of a peer package's put at a word here: data are its action and its value, as they are sent (R33, R244; log 13). -/
def peerCounter (fn : HostFn) (addr : Word) (data : List Byte) (s : State) : Out :=
  let action := leNum (data.take 8)
  let v := w64 (leNum (data.drop 8))
  if addr.toNat % 8 ≠ 0 then .next (reply fn 6 0 [] s)
  else
    hostAccess fn addr 8 needRw 19 data (.hostWrite fn addr data 3) s fun x p =>
      match p with
      | .mem ps =>
        if action = 1 ∧ (badWord s ps).isSome = true then .next (reply fn 6 0 [] s)
        else
          let w := counterValue action (w64 (leNum (rdPieces s ps))) v
          .next (reply fn 0 0 [] (storeFe 2000 ps (leList 8 w.toNat) (if action = 3 then 1 else 0) s))
      | .unit node kind o _ =>
        if action = 3 then .next (reply fn 2 0 [] s)
        else
          match fnStore fn x node kind o addr (leList 8 (counterValue action (w64 (leNum (unitRead s node kind o 8))) v).toNat) s with
          | .ok s1 => .next (reply fn 0 0 [] s1)
          | .error i => .next (reply fn (reasonStatus i.reason) 0 [] s)
      | _ => .next (reply fn 6 0 [] s)

/-- The write is a peer package's counter action: FE 3, which no WRITE has, with 16 bytes (R33, R65; log 13). -/
def countsHere (fn : HostFn) (data : List Byte) (fe : BitVec 2) : Bool :=
  (match fn with | .peer _ => true | _ => false) && fe == 3 && data.length == 16

/-- HOST_WRITE: FE 1 fills and 2 empties the whole words written, and 3 is malformed (R65, R88). A peer package's counter action comes as one too
(R33). -/
def execHostWrite (fn : HostFn) (addr : Word) (data : List Byte) (fe : BitVec 2) (s : State) : Out :=
  if ready s ∧ countsHere fn data fe = true then peerCounter fn addr data s
  else if ready s ∧ fe = 3 then .next (reply fn 6 0 [] s)
  else
    hostAccess fn addr data.length (if fe = 0 then needWr else needRw) (storeKind fe) data (.hostWrite fn addr data fe) s fun x p =>
      match p with
      | .mem ps => .next (reply fn 0 0 [] (storeFe 2000 ps data fe.toNat s))
      | .unit node kind o _ =>
        if fe ≠ 0 then .next (reply fn 2 0 [] s)
        else
          match fnStore fn x node kind o addr data s with
          | .ok s1 => .next (reply fn 0 0 [] s1)
          | .error i => .next (reply fn (reasonStatus i.reason) 0 [] s)
      | _ => .next (reply fn 6 0 [] s)

/-- QUEUE_APPEND: a store reaches a message queue's write window with its sender's tags (R102, R103). -/
def execQueueAppend (node off_ ctx pkg : Nat) (data : List Byte) (s : State) : Out :=
  let n := getNode s node
  if n.v && !n.dead && n.kind == 2 && decide (off_ < 0x1000) then
    match queueAppendTo n.arg off_ ctx (getCtx s ctx).tenant pkg 0 data s with
    | .ok s1 => .next s1
    | .error _ => .next s
  else .next s

/-! ### Key caches and node caches (R88, R89) -/

/-- A slot's KMASK holds the descriptor in its core's key cache (R197). -/
def heldKey (s : State) (unit : Nat) (k : CachedKey) : Bool :=
  decide (unit < 1024) && (upTo 16).any fun n =>
    let th := getTh s (16 * unit + n)
    liveTh th && bit th.kmask 17 && th.ctx == k.ctx && bits th.kmask 15 0 == k.handle

/-- Room for one more of a unit's 64 key-cache entries: the oldest that KMASK does not hold goes (R88, R197). -/
def makeRoom (s : State) (unit : Nat) (ks : List CachedKey) : List CachedKey :=
  if ks.length < 64 then ks
  else match ks.find? fun k => !heldKey s unit k with
    | some k => ks.erase k
    | none => ks.drop 1

/-- KEY_CACHE_MISS: a unit reads the keyring entry and asks the node's home for its generation; one that matches is kept, with the
page the access names; an entry being closed is not (R88, R97, R197). -/
def execKeyCacheMiss (unit ctx : Nat) (addr : Word) (s : State) : Out :=
  let h := hdl addr
  let e := getKey s ctx h
  if h = 0 ∨ h = 0xFFFF ∨ e.v = false ∨ closing s ctx h = true then .next s
  else if !e.peer && recordMissing s e.node then .next (if s.timedOut.contains e.node then s else holdFor e.node 0 ctx (.keyCacheMiss unit ctx addr) s)
  else
    let gen := engineGen s e.node
    if !e.peer && e.gen != gen then .next s
    else
      let page : List CachedPage := match walkPage s e.ptroot.toNat (off addr / 4096) with
        | some (pa, kind) => if e.peer ∨ (e.kind ≠ 1 ∧ e.kind ≠ 6 ∧ e.kind ≠ 8) then [] else [⟨ctx, h, off addr / 4096, e.node, pa, kind⟩]
        | none => []
      .next (modCore s unit fun c =>
        let old := c.keys.filter fun k => !(k.ctx == ctx && k.handle == h)
        let tlb := c.tlb.filter fun p => !(p.ctx == ctx && p.handle == h && p.page == off addr / 4096)
        { c with keys := makeRoom s unit old ++ [⟨ctx, h, e, if e.peer then e.gen else gen⟩], tlb := tlb ++ page })

/-- What waits for a node goes on: what the host, peers and agents asked is under way again (R89). -/
def resumeMiss (node : Nat) (s : State) : State :=
  let held := (s.missing.filter (·.node == node)).flatMap fun m => m.held.map (·.2)
  { s with missing := s.missing.filter (·.node != node), pending := s.pending ++ held }

/-- NODE_CACHE_MISS: in hardware mode the engine reads the node table; in host-assisted mode one MISS message goes to the host. The event carries
the mode in which the miss was raised (R89, R129, R131). -/
def execNodeCacheMiss (node : Nat) (by_ : MissBy) (s : State) : Out :=
  if nodeCached s node then .next (resumeMiss node s)
  else if !by_.assisted then .next (resumeMiss node { s with nodeCache := spSet [] s.nodeCache node (nodeRecord s node) })
  else if s.missing.any fun m => m.node == node && m.sent then .next s
  else
    let old := s.missing.filter (·.node == node)
    let m : Miss := ⟨node, (old.map (·.since)).headD s.cycle, old.flatMap (·.held), true⟩
    .next (sendMsg (message 1 0 10 false (leList 8 node ++ leList 2 by_.ctx)) { s with missing := s.missing.filter (·.node != node) ++ [m] })

/-- A held transaction fails with MISSTMO at its component, a held read or write with UNREACH, for its function; an agent's event takes place with
its accesses through the node failing (R89; log 31). -/
def missTimeout (node idx : Nat) (e : Instr) (s : State) : State :=
  let fail := fun fn => reply fn 0 (failWord 12 idx) [] s
  match e with
  | .hostWalk fn _ _ => fail fn
  | .hostOpen fn _ _ => fail fn
  | .hostClose fn _ => fail fn
  | .hostBind fn _ _ => fail fn
  | .hostUnbind fn _ _ => fail fn
  | .hostStat fn _ _ => fail fn
  | .hostRevoke fn _ => fail fn
  | .hostDup fn _ _ => fail fn
  | .hostCreate fn _ _ => fail fn
  | .hostRead fn _ _ => reply fn 4 0 [] s
  | .hostWrite fn _ _ _ => reply fn 4 0 [] s
  | .hmbNodereq =>
    match s.fw.waitReq.find? (·.1 == node) with
    | some m => sendResult m.2 (failWord 12 idx) { s with fw := { s.fw with waitReq := s.fw.waitReq.erase m } }
    | none => s
  | .bindSetRun q slot => push (.nodeComplete q slot ⟨0x0E, 12 * 32 + (spGet GNode.none s.gnodes (q * 65536 + slot)).launch % 32⟩) s
  | e => push e s

/-- NODE_MISS_TIMEOUT: 2^24 cycles have passed: a name instruction and a function's transaction fail with MISSTMO, and an access
issues again to take its fault or refusal (R89). -/
def execNodeMissTimeout (node : Nat) (s : State) : Out :=
  match s.missing.find? (·.node == node) with
  | none => .next s
  | some m =>
    if nodeCached s node then .next s
    else
      let s1 := m.held.foldl (fun s e => missTimeout node e.1 e.2 s) { s with missing := s.missing.filter (·.node != node), timedOut := (s.timedOut ++ [node]).eraseDups }
      .next (s1.threads.foldl (init := s1) fun s e =>
        match e.2.wait with
        | .fetch n _ tx =>
          if n = node then
            match tx with
            | none => modTh s e.1 fun th => { th with wait := .missed node }
            | some (d, q, i) => asHart e.1 (fun s => retire s 4 q (addLate d (failWord 12 i) s)) s
          else s
        | _ => s)

/-- Takes the message at the head; the next one wakes its core (R125, R131). -/
def takeMessage (s : State) : State :=
  let s1 := served (inboundWake s) { s with fw := { s.fw with hmihead := (s.fw.hmihead + 1) % 512 } }
  if inWaiting s1 then pushOnce (.fwCoreWake (inboundWake s1)) s1 else s1

/-- HMB_FILL: the node record of the message reaches the engine's cache, late or not, and what waited for it goes on (R89, R131). -/
def execHmbFill (s : State) : Out :=
  if !inWaiting s ∨ headType s ≠ 2 then .next s
  else
    let m := inMessage s s.fw.hmihead
    let node := bits (wordAt m 8) 31 0
    .next (takeMessage (resumeMiss node { s with nodeCache := spSet [] s.nodeCache node ((upTo 4).map fun i => wordAt m (16 + 8 * i)) }))

/-! ### Contexts (R100) -/

/-- A context operation's answer in CCRES, with BUSY clear (R100). -/
def ccAnswer (err : Bool) (v : Nat) (s : State) : State :=
  { s with vf := { s.vf with ccres := w64 ((if err then 2 ^ 62 else 0) + v) } }

/-- A function may use the context registers at all (R17, R100, R122). -/
def ccRefused (s : State) (fn : HostFn) : Option Nat :=
  if !ready s then some 1
  else
    match fn with
    | .vf _ => if bit s.vf.vfen 0 = false ∨ bit s.vf.vfstat 0 = true then some 2 else none
    | .pf => none
    | _ => some 2

/-- A function may act for a context: the physical function for any, a virtual function for its own tenant's (R100, R400). -/
def fnOwns (s : State) (fn : HostFn) (ctx : Nat) : Bool :=
  match fn with
  | .pf => true
  | .vf n => (getCtx s ctx).tenant == vfTenant n.val && ctx != 0 && ctx != 0xFFFF
  | _ => false

/-- The lowest free context id (R100). -/
def freeCtx (s : State) : Nat := s.ctxs.foldl (init := 1) fun c e => if e.1 = c ∧ e.2.live = true then c + 1 else c

/-- CC_CREATE (R100): id, keyring and private root, data region in entry 1, watchdog, events and context block. -/
def execCcCreate (fn : HostFn) (s : State) : Out :=
  match ccRefused s fn with
  | some st => .next (reply fn st 0 [] s)
  | none =>
    let p := s.vf.ccparam
    let e := bits p 57 52
    let pages := bits p 23 0
    let tenant := match fn with | .vf n => vfTenant n.val | _ => bits p 46 39
    let part := match fn with | .vf n => tenantPart s (vfTenant n.val) | _ => some (bits p 51 47)
    let c := freeCtx s
    match part with
    | none => .next (ccAnswer true 2 s)
    | some part =>
      if (getPart s part).v = false ∨ (getPart s part).tenants.contains tenant = false then .next (ccAnswer true 2 s)
      else if (e ≠ 0 ∧ (e < 20 ∨ 48 < e)) ∨ pages = 0 then .next (ccAnswer true 4 s)
      else if 0xFFFE < c ∨ 4096 ≤ (s.ctxs.filter fun x => x.2.live).length then .next (ccAnswer true 1 s)
      else
        let x : Tx := ⟨c, c, part, tenant, 0, 0, 0, .host fn⟩
        match newNode s 0 with
        | none => .next (ccAnswer true 5 s)
        | some root =>
          let s1 := addNode root (freshNode s x 0 0) s
          match allocPages (systemRanges s1) root 512 s1, newNode s1 0 with
          | some (_, s2), some num =>
            match makeRegion x num (w64 (pages * 4096)) 2 0 s2 with
            | .error _ => .next (ccAnswer true 5 s)
            | .ok (n, s3) =>
              let s4 := addNode num n s3
              let s5 := setKey c 1 (entryOf s4 num 3 3) s4
              let ctx : Ctx := { Ctx.none with
                live := true, part := part, tenant := tenant, wdog := if e = 0 then 32 else e, events := s.vf.ccevent, root := root }
              .next (ccAnswer false c { s5 with ctxs := spSet Ctx.none s5.ctxs c ctx })
          | _, _ => .next (ccAnswer true 5 s)

/-- A context has work that lives: threads, launches, resident queue gangs (R100). -/
def ctxBusy (s : State) (c : Nat) : Bool :=
  (s.threads.any fun e => liveTh e.2 && e.2.ctx == c) || (s.launches.any fun e => e.2.v && e.2.ctx == c)
    || (s.queues.any fun e => e.2.v && e.2.graph && e.2.resident && e.2.owner == c)
    || (s.saves.any fun e => e.2.v && e.2.threads.any fun x => x.2.ctx == c)

/-- Frees every keyring entry of a context, and drops it from every cache (R97, R100). -/
def freeKeyring (c : Nat) (s : State) : State :=
  let s1 := s.cores.foldl (init := s) fun s' e =>
    modCore s' e.1 fun k => { k with keys := k.keys.filter (·.ctx != c), tlb := k.tlb.filter (·.ctx != c) }
  (s.keys.filter fun e => e.1 / 65536 == c).foldl (init := s1) fun s e => freeKey c (e.1 % 65536) s

/-- Ends a context: keyring freed, private root unreferenced (R100). -/
def endCtx (c : Nat) (s : State) : State :=
  let root := (getCtx s c).root
  let s1 := freeKeyring c s
  let s2 : State := { s1 with ctxs := spSet Ctx.none s1.ctxs c Ctx.none, vf := { s1.vf with acting := s1.vf.acting.filter fun e => e.2 != c } }
  dropRef root { s2 with alloc := s2.alloc.filter fun x => !(x.node == root) }

/-- CC_DESTROY (R100). -/
def execCcDestroy (fn : HostFn) (ctx : Nat) (s : State) : Out :=
  match ccRefused s fn with
  | some st => .next (reply fn st 0 [] s)
  | none =>
    if ctx = 0 ∨ ctx = 0xFFFF ∨ (getCtx s ctx).live = false then .next (ccAnswer true 4 s)
    else if !fnOwns s fn ctx then .next (ccAnswer true 2 s)
    else if ctxBusy s ctx then .next (ccAnswer true 3 s)
    else .next (ccAnswer false 0 (endCtx ctx s))

/-- CC_ACT_THROUGH: the key-core context is the key core's alone (R100). -/
def execCcActThrough (fn : HostFn) (ctx : Nat) (s : State) : Out :=
  match ccRefused s fn with
  | some st => .next (reply fn st 0 [] s)
  | none =>
    if (getCtx s ctx).live = false then .next (ccAnswer true 4 s)
    else if !fnOwns s fn ctx || ctx == 0xFFFF then .next (ccAnswer true 2 s)
    else .next (ccAnswer false 0 { s with vf := { s.vf with acting := spSet 0 s.vf.acting (fnCode fn) ctx } })

end Sys2Proof.Machine
end

