-- ==== Sys2Proof/Machine/Threads.lean ====
section
/-! DEFINITION. Threads: how they start, end, spawn, fork, are stolen and move, majors 0x28 and 0x29, and the events of slots,
reservations and parcels (R35, R36, R139 to R147, R329 to R337, R403, R408). -/

namespace Sys2Proof.Machine

/-! ### Starting a thread (R139, R199) -/

/-- The context data handle (R100). -/
def dataHandle : Word := 0x0001000000000000

/-- The counters of a new thread: its context's default events, counts 0 (R199). -/
def freshCounters (events : Word) : Sp Word :=
  (upTo 8).foldl (init := []) fun m n => spSet 0 m n (w64 (events.toNat / 2 ^ (8 * n) % 256 * 2 ^ 56))

/-- Registers x1 on from a list. -/
def regsFrom (xs : List Word) : Sp Word := (upTo xs.length).foldl (init := []) fun m i => spSet 0 m (i + 1) (xs.getD i 0)

/-- A new thread of a launch (R139): pc, registers from x1 on, id and counters. -/
def freshThread (s : State) (l : Nat) (pc : Word) (xs : List Word) (id : BitVec 32) (pcnt : Sp Word) : Thread :=
  let x := getLaunch s l
  { Thread.reset with
    uid := s.uids, ctx := x.ctx, part := x.part, tenant := x.tenant, launch := l, id := id, pc := pc,
    x := spSet 0 (regsFrom xs) 15 dataHandle, thst := w64 (x.mode * 2), vwin := x.vwin, pcnt := pcnt }

/-- Puts a thread in a slot. -/
def occupy (t : Nat) (th : Thread) (s : State) : State :=
  modCore (setTh { s with uids := s.uids + 1 } t th) (coreOf t) fun c => { c with granted := c.granted.filter (· != slotOf t) }

/-- A thread starts that a release, a kick or a fork has made possible: it comes after what that event came after (R236, R240). -/
def seat (t : Nat) (th : Thread) (s : State) : State := occupy t th (catchUp (coreOf t) s)

/-- The launch's next pending thread starts in a slot (R138, R140). -/
def placeNext (l t : Nat) (s : State) : State :=
  let x := getLaunch s l
  let th := freshThread s l x.entry x.xs (BitVec.ofNat 32 x.next) (freshCounters (getCtx s x.ctx).events)
  modLaunch (seat t th s) l fun x => { x with next := x.next + 1, live := x.live + 1 }

/-! ### Ending a thread (R249, R334, R403) -/

/-- Adds a thread's counts to its context's totals (R199, R334). -/
def addCounts (th : Thread) (s : State) : State :=
  modCtx (freeUsed (th.pcnt.any fun e => cacheCount e.2) s) th.ctx fun c =>
    { c with counts := (th.pcnt.map fun e => (e.1, seenCount s e.2)).foldl (init := c.counts) fun m e =>
        let code := e.2.toNat / 2 ^ 56
        if 1 ≤ code ∧ code ≤ 12 then spSet 0 m code (spGet 0 m code + w64 (e.2.toNat % 2 ^ 48)) else m }

/-- Writes a fault record in a context's log (R249, R400). -/
def faultRecord (ctx : Nat) (rec_ : List Word) (s : State) : State :=
  modCtx s ctx fun c =>
    { c with
      log := (upTo 4).foldl (init := c.log) fun m i => spSet 0 m (4 * (c.flcnt % 64) + i) (rec_.getD i 0)
      flcnt := min (c.flcnt + 1) 0xFFFFFFFF }

/-- The slot empties and is offered (R140). -/
def vacate (t : Nat) (s : State) : State :=
  let s1 := setTh (withdrawWaits t (withdrawResv t (disarmAll t s))) t Thread.reset
  if isHart t then s1 else push (.slotFree (coreOf t) (slotOf t)) s1

/-- Frees the refused journal entries of a thread that exits (R250). -/
def dropRefused (uid : Nat) (s : State) : State := { s with journal := s.journal.filter fun e => !(e.2.uid == uid && e.2.ref) }

/-- A held reservation is released as rls.n does (R316, R334). -/
def dropHold (t : Nat) (s : State) : State :=
  match (getTh s t).hold with
  | some (w, _) => releaseHold t w s
  | none => s

/-- Cores outside a launch's placement that hold a continuation of it. -/
def leftCores (s : State) (l : Nat) : List Nat :=
  (s.cores.filter fun e => (e.2.deque.any fun c => c.launch == l) && !(getLaunch s l).cores.contains e.1).map Prod.fst

/-- Once the last thread of a launch has exited, each core outside its placement that holds a continuation of it is offered its lowest free slot
(R142; log 65). -/
def offerLeft (l : Nat) (s : State) : State :=
  let x := getLaunch s l
  if x.v && x.live == 0 && x.next == x.nthr then
    (leftCores s l).foldl (init := s) fun s c => match lowestFree s c with | some n => push (.slotFree c n) s | none => s
  else s

/-- A thread in a slot ends: its reservation, latches and counts, then its slot, and its launch when it was the last (R334). -/
def endThread (t : Nat) (trapped : Bool) (s : State) : State :=
  let th := getTh s t
  let s1 := vacate t (dropRefused th.uid (addCounts th (dropHold t s)))
  if th.launch = 0 then s1
  else
    checkLaunch th.launch (offerLeft th.launch (modLaunch s1 th.launch fun x => { x with live := x.live - 1, trapped := x.trapped || trapped }))

/-- Loads a saved thread into a slot or hart: its latch registrations and its hold know it by its place again, its results can return, its
departure goes on, and its commands go to the vector unit (R153, R163, R316, R407, R408). -/
def loadThread (t : Nat) (th : Thread) (s : State) : State :=
  let s1 := setTh { s with latches := s.latches.map fun r => if r.t = savedTag th.uid then { r with t := t } else r } t th
  let s2 := match th.hold with
    | some (w, _) => { s1 with resv := spSet Resv.free s1.resv w { spGet Resv.free s1.resv w with holder := some t } }
    | none => s1
  let s3 := th.late.foldl (init := s2) fun s l => if l.done then push (.lateResultReturn t none) s else s
  let s4 := match th.wait with
    | .settle (.depart _ _) => push (.travelDeparture t) s3
    | .barrier _ _ _ _ _ _ => releaseWaiter s3 t
    | _ => s3
  feedVector (coreOf t) 64 s4

/-- A hart that a restored program waits for takes it, ahead of the next kick (R163, R408). -/
def nextProgram (t : Nat) (s : State) : State :=
  match (getCore s (coreOf t)).restored with
  | (_, th) :: rest => loadThread t th (modCore s (coreOf t) fun c => { c with restored := rest })
  | [] => if (kicks s (t - hart0)).isEmpty then s else pushOnce (.engineHartStart (t - hart0)) s

/-- An engine program ends: MBOX is stored and set full, the record that kicked it ends, and the hart takes the next kick (R117,
R403). The hart's thread keeps its engine node as id and its record as launch. -/
def endHart (t : Nat) (v : Word) (s : State) : State :=
  let th := getTh s t
  let key := nodeKey th.id.toNat 8
  let s1 := storeFe 2000 [⟨key, 8, 4, th.id.toNat, 0⟩] (leList 8 v.toNat) 1 (dropHold t s)
  let s2 := vacate t (dropRefused th.uid s1)
  nextProgram t
    (if th.launch = 0 then s2
    else push (.nodeComplete ((th.launch - 1) / 65536) ((th.launch - 1) % 65536) (if bit v 63 then ⟨0x0E, bits v 9 0⟩ else ⟨0, 0⟩)) s2)

/-- An unhandled trap ends the thread with a fault record (R249, R403). -/
def endDead (t : Nat) (tepc tcause tval thst : Word) (s : State) : State :=
  let s1 := faultRecord (getTh s t).ctx [tepc, tcause, tval, thst] s
  if isHart t then endHart t (0x8000000000000000 + w64 (bits tcause 7 0)) s1 else endThread t true s1

/-- The issuing engine hart's program ends with a value once its operations are fenced and its results have returned (R403). -/
def hartEnd (v : Word) (s : State) : Out :=
  if outstanding s (cur s).uid true true then .next (park (.fence true true) s)
  else if !(cur s).late.isEmpty then .next (park .marker s)
  else .next (endHart s.me v s)

/-- A thread that ends as it issues has that counted, in a lent position too, before its counts go to its context (R154, R168). -/
def countExit (s : State) (th : Thread) : Thread := if s.cycle % 16 = slotOf s.me then countEv 1 1 th else countEv 2 1 (countEv 1 1 th)

/-- exit (R334, R403). -/
def execExit (q : Bool) (s : State) : Out :=
  let _ := q
  if isHart s.me then hartEnd 0 s
  else
    let s0 := endCapture s.me s
    if (cur s0).late.isEmpty && vectorIdle (cur s0) then .next (endThread s.me false (modTh s0 s.me (countExit s)))
    else .next (park (.settle .exit) s0)

/-! ### Thread ids (R198, R337) -/

/-- The TID word of a thread in a slot. -/
def tidWord (core slot launch : Nat) (id : BitVec 32) : Word :=
  w64 (slot % 16 * 2 ^ 60 + core % 1024 * 2 ^ 50 + launch % 65536 * 2 ^ 34 + id.toNat)

/-- The TID word of the thread at a hart. -/
def tidOf (s : State) (t : Nat) : Word := tidWord (coreOf t) (slotOf t) (if isHart t then 0 else (getTh s t).launch) (getTh s t).id

/-- tid: a late result (R337). -/
def execTid (q : Bool) (d : Reg) (s : State) : Out := lateResult s 4 q d (tidOf s s.me) s

/-! ### Reservations (R36, R140, R143) -/

/-- The home cores of a travelling launch, in map order (R169, R178). -/
def homesOf (x : Launch) : List Nat := x.segs.flatMap fun g => (g.drop 6).take (g.getD 5 0 + 1)

/-- The bytes of a segment of a launch as its code node holds them; none where they cannot be read (R171). -/
def segmentBytes (s : State) (x : Launch) (g : List Nat) : Option (List Byte) :=
  match pageRuns s { whoCtx s x.ctx with unit := 9999 } (g.getD 0 0) (nodeEntry s x.code x.codeGen) needEx (g.getD 2 0 + 1) (g.getD 1 0) (g.getD 2 0) with
  | .ok ps => if (badWord s ps).isSome then none else some (rdPieces s ps)
  | .error _ => none

/-- A home core of another live travelling launch takes no thread of this one (R170). -/
def heldByTravel (s : State) (core l : Nat) : Bool :=
  s.launches.any fun e => e.1 != l && e.2.v && e.2.mode == 2 && (homesOf e.2).contains core

/-- A launch has a pending thread for the core (R140, R170). -/
def pendingHere (s : State) (core l : Nat) : Bool :=
  let x := getLaunch s l
  x.v && decide (x.next < x.nthr) && x.cores.contains core && !heldByTravel s core l

/-- The launches whose threads a slot of this core may serve now: under slot rotation those of the tenant whose slice it is (R166). -/
def servedHere (s : State) (l : Nat) : Bool :=
  let x := getLaunch s l
  let (n, ri) := rotOf s x.part x.tenant
  n == 1 || (getPart s x.part).turn == ri

/-- A free slot of the core would go to a restored thread, or to a pending thread of one of these launches, first (R140, R143, R408). -/
def claimedBy (s : State) (core : Nat) (ls : List Nat) : Bool :=
  ((getCore s core).restored.any fun e => e.1 != 0) || ls.any fun l => pendingHere s core l && servedHere s l

/-- A free slot of the core would go to a restored or pending thread first (R140, R143, R408). -/
def slotClaimed (s : State) (core : Nat) : Bool := claimedBy s core (getCore s core).launches

/-- The threads of a launch and those it has still to place (R179). -/
def Launch.owed (x : Launch) : Nat := x.live + (x.nthr - x.next)

/-- The core's logical time is at least the sender's when a reservation or a thread arrives (R229). -/
def raisePts (core pts : Nat) (s : State) : State := modCore s core fun c => { c with pts := max c.pts pts }

/-- The launch of a reservation: that of the parcel to be sent, or of the thread that asks. -/
def askLaunch (s : State) (ask : SlotAsk) : Nat :=
  match ask.body with
  | some p => p.launch
  | none => (getTh s ask.tid).launch

/-- The thread that asks waits for the answer as at a marker: spawnc (R330). -/
def askWaits (s : State) (ask : SlotAsk) : Bool :=
  (getTh s ask.tid).uid == ask.uid && (match (getTh s ask.tid).wait with | .slotAsk => true | _ => false) && ask.seq == (getTh s ask.tid).seq

/-- SLOT_RESERVATION_REQUEST: the destination core grants its lowest free slot, or refuses. A spawn granted takes the launch's next thread id (R36,
R143, R179). A spawnc that would take a travel fault as it goes on is granted nothing: it issues again and takes it (R174; log 65). -/
def execSlotReservationRequest (ask : SlotAsk) (s0 : State) : Out :=
  let s := raisePts ask.core ask.pts s0
  let l := askLaunch s ask
  let x := getLaunch s l
  let may := !slotClaimed s ask.core && !heldByTravel s ask.core l
    && !(ask.kind == .spawn && x.mode == 2 && !(decide (x.owed < x.cap) && decide (x.ids ≤ x.maxtid)))
  match (if may then lowestFree s ask.core else none) with
  | none => .next (push (.slotReservationReply ask none) s)
  | some n =>
    let s1 := modCore s ask.core fun c => { c with granted := c.granted ++ [n] }
    match ask.body with
    | none => .next (push (.slotReservationReply ask (some n)) s1)
    | some p =>
      if askWaits s ask && (seqFault { s with me := ask.tid } ask.len).isSome then .next (push (.slotReservationReply ask (some 0)) s)
      else
        .next (push (.slotReservationReply { ask with body := some { p with slot := n, tid := BitVec.ofNat 32 x.ids } } (some n))
          (modLaunch s1 l fun x => { x with ids := x.ids + 1, live := x.live + 1 }))

/-- The parcel of a thread that moves (R35): its registers, status, counters and trap registers, and beside them what moves with it. -/
def parcelOf (s : State) (t : Nat) (kind : ParcelKind) (core slot : Nat) (pc : Word) (goReg : Option Reg) : Parcel :=
  let th := getTh s t
  { kind := kind, part := th.part, tenant := th.tenant, ctx := th.ctx, core := core, slot := slot, reinj := false, launch := th.launch,
    tid := th.id, pc := pc, thst := th.thst.setWidth 16, xs := (upTo 15).map fun i => spGet 0 th.x (i + 1),
    pcnt := (upTo 8).map fun i => spGet 0 th.pcnt i,
    trap := if tl th then [th.tepc, th.tcause, th.tval, w64 (bits th.thst 31 16)] else [0, 0, 0, 0],
    pts := (getCore s (coreOf t)).pts, aside := [th.tvec, th.pjbase, th.kmask, th.mcell.setWidth 64, if th.vwin then 1 else 0, th.gread], uid := th.uid, hold := th.hold,
    holdAt := th.holdAt, goReg := goReg }

/-- A thread as it arrives in a parcel. A thread at trap level 0 brings no SAVED (R35). -/
def arrived (p : Parcel) : Thread :=
  let saved := if p.thst.getLsbD 0 then (p.trap.getD 3 0).toNat else 0
  let th : Thread := { Thread.reset with
    uid := p.uid, ctx := p.ctx, part := p.part, tenant := p.tenant, launch := p.launch, id := p.tid, pc := p.pc,
    x := regsFrom p.xs, thst := w64 (saved % 65536 * 65536 + p.thst.toNat), pcnt := (upTo 8).foldl (init := []) fun m i => spSet 0 m i (p.pcnt.getD i 0),
    tepc := p.trap.getD 0 0, tcause := p.trap.getD 1 0, tval := p.trap.getD 2 0, tvec := p.aside.getD 0 0, pjbase := p.aside.getD 1 0,
    kmask := p.aside.getD 2 0, mcell := (p.aside.getD 3 0).setWidth 2, vwin := p.aside.getD 4 0 == 1, gread := p.aside.getD 5 0, hold := p.hold, holdAt := p.holdAt }
  countEv 0x0B 1 (match p.goReg with | some d => xw th d 1 | none => th)

/-- Moves a thread out of its slot: a hold moves with it to the new hart (R315). -/
def leaveSlot (t t' : Nat) (s : State) : State :=
  let th := getTh s t
  let s1 := match th.hold with
    | some (w, _) => { s with resv := spSet Resv.free s.resv w { spGet Resv.free s.resv w with holder := some t' } }
    | none => s
  push (.slotFree (coreOf t) (slotOf t)) (setTh (withdrawResv t s1) t Thread.reset)

/-- A late result of a thread becomes known and can return (R157). -/
def resolveLate (t seq : Nat) (v : Word) (s : State) : State :=
  push (.lateResultReturn t none)
    (modTh s t fun th => { th with late := th.late.map fun l => if l.seq = seq ∧ l.done = false then { l with v := v, done := true } else l })

/-- A granted slot that nobody takes is free again, and offered (R36, R140). -/
def ungrant (core : Nat) (slot : Option Nat) (s : State) : State :=
  match slot with
  | some n => push (.slotFree core n) (modCore s core fun c => { c with granted := c.granted.filter (· != n) })
  | none => s

/-- SLOT_RESERVATION_REPLY: spawn sends its parcel and its result is known; spawnc and go issue again on the answer; a migrating thread
leaves, asks the cluster's next core, or stays (R36, R147, R330, R335). DESIGN CHOICE: R147 does not say whether a core of the home cluster that lies
outside the thread's partition is asked; all eight are (log 65). -/
def execSlotReservationReply (ask : SlotAsk) (slot : Option Nat) (s : State) : Out :=
  let t := ask.tid
  let th := getTh s t
  match ask.body with
  | some p =>
    match slot with
    | some 0 => .next (if askWaits s ask then modTh s t fun th => { th with wait := .slotReply (some 0) } else s)
    | some n =>
      let s1 := push (.parcelArrival p) s
      let r := tidWord ask.core n p.launch p.tid
      if askWaits s ask then .next (modTh s1 t fun th => { th with wait := .slotReply (some r.toNat) })
      else .next (if th.uid = ask.uid then resolveLate t ask.seq r s1 else s1)
    | none =>
      if askWaits s ask then .next (modTh s t fun th => { th with wait := .slotReply none })
      else .next (if th.uid = ask.uid then resolveLate t ask.seq 0 s else s)
  | none =>
  if th.uid ≠ ask.uid then .next (ungrant ask.core slot s)
  else
    match ask.kind with
    | .migrate =>
      if th.wait ≠ .slotAsk then .next (ungrant ask.core slot s)
      else
        match slot with
        | some n =>
          let p := parcelOf s t .migrate ask.core n th.pc none
          .next (push (.parcelArrival p) (leaveSlot t (16 * ask.core + n) s))
        | none =>
          if ask.core % 8 = 7 then .next (modTh s t fun th => { th with stay := true, wait := .run, wcount := 0 })
          else .next (push (.slotReservationRequest { ask with core := ask.core + 1 }) s)
    | _ =>
      if th.wait ≠ .slotAsk then .next (ungrant ask.core slot s)
      else .next (modTh s t fun th => { th with wait := .slotReply slot })

/-- The thread a parcel brings: one that moved as it left, a spawned one new with x1 to x4, x15 and the spawner's events (R35, R139,
R143). -/
def parcelThread (p : Parcel) (s : State) : Thread :=
  match p.kind with
  | .travel => arrived p
  | .migrate => arrived p
  | .go => arrived p
  | _ =>
    let th := freshThread s p.launch p.pc (p.xs.take 4) p.tid
      ((upTo 8).foldl (init := []) fun m i => spSet 0 m i (w64 ((p.pcnt.getD i 0).toNat / 2 ^ 56 * 2 ^ 56)))
    countEv 0x0B 1 { th with x := spSet 0 th.x 15 (p.xs.getD 14 0) }

/-- A parcel's thread takes a slot; a hold it brings is its own there (R139, R177, R315). -/
def seatParcel (p : Parcel) (n : Nat) (s : State) : State :=
  let t := 16 * p.core + n
  let s1 := raisePts p.core p.pts (occupy t (parcelThread p s) s)
  match p.hold with
  | some (w, _) => { s1 with resv := spSet Resv.free s1.resv w { spGet Resv.free s1.resv w with holder := some t } }
  | none => s1

/-- PARCEL_ARRIVAL: a spawn, handler, migrate or go parcel starts its thread in the reserved slot (R35, R139, R143). -/
def execParcelArrival (p : Parcel) (s : State) : Out :=
  if p.kind = .travel ∨ p.slot = 0 ∨ 15 < p.slot ∨ 1024 ≤ p.core ∨ liveTh (getTh s (16 * p.core + p.slot)) = true then .next s
  else .next (seatParcel p p.slot s)

/-! ### Slots, steals and arrivals (R140, R145, R177, R408) -/

/-- Pops the oldest continuation of a launch a core's spill area and deque hold; spilled ones are older (R144, R145). -/
def takeOldest (l : Nat) (c : CoreSt) : Option (Continuation × CoreSt) :=
  match c.spill.find? (·.launch == l) with
  | some e => some (e, { c with spill := c.spill.erase e })
  | none =>
    match c.deque.find? (·.launch == l) with
    | some e => some (e, { c with deque := c.deque.erase e })
    | none => none

/-- Cores of the domain at a STEAL level (R112). -/
def domainSize (level : Nat) : Nat :=
  match level with | 0 => 1 | 1 => 8 | 2 => 64 | 3 => 512 | _ => 1024

/-- The cores a thief searches, itself first, rising cyclically within its domain (R145). -/
def thiefOrder (core level : Nat) : List Nat :=
  let n := domainSize level
  (upTo n).map fun i => core / n * n + (core % n + i) % n

/-- The launches with no thread left of which a core outside their placement still holds a continuation: it runs it itself, as a steal (R142; log 65). -/
def leftBehind (s : State) (core : Nat) : List Nat :=
  (((getCore s core).deque.map (·.launch)).eraseDups).filter fun l =>
    (getLaunch s l).v && (getLaunch s l).live == 0 && (getLaunch s l).next == (getLaunch s l).nthr && !(getLaunch s l).cores.contains core

/-- The first continuation within reach of a core, with the core that gives it up (R145). -/
def findSteal (s : State) (core : Nat) : Option (Nat × Continuation × CoreSt) :=
  ((getCore s core).launches ++ leftBehind s core).findSome? fun l =>
    let x := getLaunch s l
    if x.v && servedHere s l && !heldByTravel s core l then
      if x.cores.contains core then
        (thiefOrder core x.steal).findSome? fun c => (takeOldest l (getCore s c)).map fun r => (c, r.1, r.2)
      else (takeOldest l (getCore s core)).map fun r => (core, r.1, r.2)
    else none

/-- A stolen continuation as a thread (R145). -/
def stolenThread (s : State) (e : Continuation) : Thread :=
  let x := getLaunch s e.launch
  freshThread s e.launch e.pc (e.xs.take 7) e.id (freshCounters (getCtx s x.ctx).events)

/-- The address of a launch's spill area word or entry (R178). -/
def spillAddr (x : Launch) (o : Nat) : Word := offWrap x.spill (Int.ofNat o)

/-- Writes bytes of a launch's spill area as its own context's hardware does; a write that its region refuses does nothing (R178). -/
def spillWrite (x : Launch) (o : Nat) (data : List Byte) (s : State) : State :=
  match agentWrite { whoCtx s x.ctx with unit := 9999 } (spillAddr x o) data 0 s with
  | .ok s' => s'
  | .error _ => s

/-- Reads a word of a launch's spill area; 0 where it cannot be read. -/
def spillRead (x : Launch) (o : Nat) (s : State) : Word :=
  match agentRead s { whoCtx s x.ctx with unit := 9999 } (spillAddr x o) 8 with
  | .ok bs => wordAt bs 0
  | .error _ => 0

/-- The place of a core's ring descriptor in its launch's spill area (R178). -/
def ringSlot (x : Launch) (core : Nat) : Nat := 0x100 + 16 * (homesOf x).findIdx (· == core)

/-- The bytes of a parcel with its extension (R35). -/
def parcelBytes (p : Parcel) : List Byte :=
  let kind := match p.kind with | .spawn => 1 | .handler => 2 | .migrate => 3 | .travel => 4 | .go => 5
  let header := kind * 2 ^ 120 + p.part % 32 * 2 ^ 115 + p.tenant % 256 * 2 ^ 107 + p.ctx % 65536 * 2 ^ 91 + p.core % 1024 * 2 ^ 81
    + p.slot % 16 * 2 ^ 77 + (if p.reinj then 2 ^ 76 else 0) + p.launch % 65536 * 2 ^ 60 + hdl p.pc * 2 ^ 44 + p.tid.toNat * 2 ^ 12 + 1
  leList 16 header ++ leList 8 (p.thst.toNat * 2 ^ 48 + off p.pc) ++ (p.xs.flatMap fun w => leList 8 w.toNat)
    ++ (p.pcnt.flatMap fun w => leList 8 w.toNat) ++ p.trap.flatMap fun w => leList 8 w.toNat

/-- Writes a travel parcel to the tail of its core's spill ring: an entry is taken from FREE and linked after TAIL (R177, R178). -/
def spillIn (p : Parcel) (s : State) : State :=
  let x := getLaunch s p.launch
  let j := bits (spillRead x 8 s) 31 0
  let entry := 0x4100 + 256 * j
  let next := bits (spillRead x (entry + 240) s) 31 0
  let d := ringSlot x p.core
  let w0 := spillRead x d s
  let empty := bits w0 31 0 == 0xFFFFFFFF
  let s1 := spillWrite x 8 (leList 8 next) s
  let s2 := spillWrite x entry (parcelBytes p ++ leList 4 0xFFFFFFFF ++ List.replicate 12 0) s1
  let s3 := if empty then s2 else spillWrite x (0x4100 + 256 * bits w0 31 0 + 240) (leList 4 j) s2
  let s4 := spillWrite x d (leList 8 ((if empty then j else bits w0 63 32) * 2 ^ 32 + j)
    ++ leList 8 ((bits (spillRead x (d + 8) s) 63 32 + 1) * 2 ^ 32 + p.core)) s3
  modCore s4 p.core fun c => { c with spilled := c.spilled ++ [p] }

/-- Takes the head of a core's spill ring into its arrival queue; the entry goes back to FREE (R177, R178). -/
def spillOut (core : Nat) (s : State) : State :=
  match (getCore s core).spilled with
  | [] => s
  | p :: rest =>
    let x := getLaunch s p.launch
    let d := ringSlot x core
    let w0 := spillRead x d s
    let j := bits w0 63 32
    let next := bits (spillRead x (0x4100 + 256 * j + 240) s) 31 0
    let s1 := spillWrite x (0x4100 + 256 * j + 240) (leList 4 (bits (spillRead x 8 s) 31 0)) s
    let s2 := spillWrite x 8 (leList 8 j) s1
    let s3 := spillWrite x d (leList 8 (if rest.isEmpty then 2 ^ 64 - 1 else next * 2 ^ 32 + bits w0 31 0)
      ++ leList 8 ((bits (spillRead x (d + 8) s) 63 32 - 1) * 2 ^ 32 + core)) s2
    modCore s3 core fun c => { c with spilled := rest, arrivals := c.arrivals ++ [p] }

/-- Places a saved thread: in its own slot or hart where that is free, else in the lowest free slot but 0, else it waits (R408). -/
def placeSaved (t : Nat) (th : Thread) (s : State) : State :=
  let c := coreOf t
  let wait := modCore s c fun k => { k with restored := k.restored ++ [(slotOf t, th)] }
  if isHart t then (if liveTh (getTh s t) then wait else loadThread t th s)
  else if freeSlot s c (slotOf t) then loadThread t th s
  else if slotOf t = 0 then wait
  else
    match lowestFree s c with
    | some n => loadThread (16 * c + n) th s
    | none => wait

/-- SLOT_FREE: a free slot is offered to a restored thread, then to the first pending thread, then to a steal, then to the travel
arrivals (R140, R145, R177, R408). Slot 0 takes a restored communication thread alone (R159). -/
def execSlotFree (core slot : Nat) (s : State) : Out :=
  let c := getCore s core
  let t := 16 * core + slot
  if 1024 ≤ core ∨ 15 < slot ∨ freeSlot s core slot = false then .next s
  else
    match c.restored.find? fun e => (e.1 == 0) == (slot == 0) with
    | some e => .next (loadThread t e.2 (modCore s core fun c => { c with restored := c.restored.erase e }))
    | none =>
      if slot = 0 then .next s
      else
        match c.launches.find? fun l => pendingHere s core l && servedHere s l with
        | some l => .next (placeNext l t s)
        | none =>
          match findSteal s core with
          | some (from_, e, c') =>
            let s1 := setCore s from_ c'
            .next (modLaunch (seat t (stolenThread s1 e) s1) e.launch fun x => { x with live := x.live + 1 })
          | none =>
            match c.arrivals with
            | p :: rest =>
              .next (spillOut core (seatParcel p slot (modCore s core fun c => { c with arrivals := rest })))
            | [] => .next s

/-! ### spawn and spawnc (R330) -/

/-- The core may be asked for a slot by the issuing thread's spawn: it lies in the partition, and in travelling mode is a home core;
a thread of no launch may ask none (R179, R330). -/
def spawnable (s : State) (c : Word) : Bool :=
  let th := cur s
  decide (c.toNat < 1024) && inPartition s th.part c.toNat && th.launch != 0 && !isHart s.me
    && (modeOf th != 2 || (homesOf (getLaunch s th.launch)).contains c.toNat)

/-- The parcel a spawn sends: the target, x1 to x15, the status of a new thread and the spawner's events (R143, R199). -/
def spawnParcel (s : State) (target : Word) (core : Nat) : Parcel :=
  { parcelOf s s.me .spawn core 0 target none with thst := BitVec.ofNat 16 (modeOf (cur s) * 2), trap := [0, 0, 0, 0], aside := [], hold := none }

/-- spawn never waits for the reservation: its result is late (R330). -/
def execSpawn (q : Bool) (d a b : Reg) (s : State) : Out :=
  withRegs [a, b] [] s fun s1 =>
    let th := cur s1
    let t := xr th a
    let c := xr th b
    if bits t 1 0 ≠ 0 then exactAt 4 ⟨3, 0, t⟩ s
    else if !spawnable s1 c then lateResult s 4 q d (BitVec.allOnes 64) s1
    else
      let ask : SlotAsk := ⟨s.me, th.uid, .spawn, c.toNat, th.seq, 4, some (spawnParcel s1 t c.toNat), (getCore s1 (coreOf s.me)).pts⟩
      done s 4 q (push (.slotReservationRequest ask) (addLateOpen d 8 0 s1))

/-- The operands that a spawnc or go has taken are kept until it completes (R330, R335). -/
def keepTaken (ws : List Word) (s : State) : State := modTh s s.me fun th => { th with taken := ws }

/-- spawnc's inline call of a target with its result (R300, R330). s0 is the state before the instruction. -/
def spawnInline (q : Bool) (d : Reg) (live : Option (BitVec 15)) (t r : Word) (s0 s : State) : Out :=
  match linkOf (cur s).pc (liveLen live) with
  | .error i => travelFirst s0 t false s (exact i s0)
  | .ok l => .next (jump s0 t false live q (wr s.me 14 l (wr s.me d r (keepTaken [] s))))

/-- spawnc takes its operands and asks at its issue, waits as at a marker until the answer is known, then completes or makes the inline call
(R157, R330). -/
def execSpawnc (q : Bool) (d a b : Reg) (live : Option (BitVec 15)) (s : State) : Out :=
  let len := liveLen live
  let ones : Word := BitVec.allOnes 64
  match (cur s).wait with
  | .slotReply none => spawnInline q d live ((cur s).taken.headD 0) 0 s s
  | .slotReply (some r) =>
    if r = ones.toNat then spawnInline q d live ((cur s).taken.headD 0) ones s s
    else .next (retireLive s len live q (wr s.me d (w64 r) (keepTaken [] s)))
  | _ =>
    withRegs [a, b] [] s fun s1 =>
      let th := cur s1
      let t := xr th a
      let c := xr th b
      if bits t 1 0 ≠ 0 then (if spawnable s1 c then trapHere 3 0 t s else misaligned s t false s1)
      else if !spawnable s1 c then
        (if th.late.isEmpty then spawnInline q d live t ones s s1 else .next (park (.slotReply (some ones.toNat)) (keepTaken [t] s1)))
      else
        let ask : SlotAsk := ⟨s.me, th.uid, .spawn, c.toNat, th.seq, len, some (spawnParcel s1 t c.toNat), (getCore s1 (coreOf s.me)).pts⟩
        .next (push (.slotReservationRequest ask) (park .slotAsk (keepTaken [t] s1)))

/-! ### fork, unfork and join (R144, R331 to R333) -/

/-- Pushes a continuation at the young end: a full deque first moves its 16 oldest, or as many as there is room for, to the spill area, which only a placement core of
its launch has; none when both are full (R144; log 65). -/
def pushDeque (placed : Bool) (e : Continuation) (c : CoreSt) : Option CoreSt :=
  if c.deque.length < 64 then some { c with deque := c.deque ++ [e] }
  else if placed && decide (c.spill.length < 1984) then
    let n := min 16 (1984 - c.spill.length)
    some { c with spill := c.spill ++ c.deque.take n, deque := c.deque.drop n ++ [e] }
  else none

/-- A deque that pops have emptied refills with the 16 youngest of its spill area (R144). -/
def refillDeque (c : CoreSt) : CoreSt :=
  if c.deque.isEmpty then
    { c with deque := c.spill.drop (c.spill.length - 16), spill := c.spill.take (c.spill.length - 16) }
  else c

/-- fork (R331). -/
def execFork (q : Bool) (d a : Reg) (live : Option (BitVec 15)) (s : State) : Out :=
  withRegs [a] [] s fun s1 =>
    let th := cur s1
    let f := xr th a
    let core := coreOf s.me
    if bits f 1 0 ≠ 0 then misaligned s f false s1
    else
      match linkOf th.pc (liveLen live) with
      | .error i => travelFirst s f false s1 (exact i s)
      | .ok link =>
        let e : Continuation := ⟨link, (upTo 7).map fun i => spGet 0 th.x (i + 1), th.launch, slotOf s.me, th.id⟩
        let placed := (getLaunch s1 th.launch).cores.contains core
        match (if modeOf th = 2 ∨ isHart s.me = true then none else pushDeque placed e (getCore s1 core)) with
        | some c => .next (jump s f false live q (addLate d 1 (wr s.me 14 link (setCore s1 core c))))
        | none => .next (jump s f false live q (addLate d 0 (wr s.me 14 link s1)))

/-- unfork (R332). -/
def execUnfork (q : Bool) (a : Reg) (live : Option (BitVec 15)) (s : State) : Out :=
  withRegs [a] [] s fun s1 =>
    let th := cur s1
    let core := coreOf s.me
    let c := refillDeque (getCore s1 core)
    if xr th a = 0 then
      let t := xr th 14
      if bits t 1 0 = 0 then .next (jump s t false live q s1) else misaligned s t false s1
    else
      match c.deque.getLast? with
      | some e =>
        if e.launch = th.launch ∧ e.slot = slotOf s.me ∧ e.id = th.id ∧ isHart s.me = false then
          let s2 := setCore s1 core { c with deque := c.deque.dropLast }
          let s3 := modTh s2 s.me fun th => { th with x := (upTo 7).foldl (init := th.x) fun m i => spSet 0 m (i + 1) (e.xs.getD i 0) }
          .next (jump s e.pc false live q s3)
        else execExit q s1
      | none => execExit q s1

/-- join: waits until the word at x[a] reads 0; RD is enough (R146, R333). -/
def execJoin (q : Bool) (a : Reg) (s : State) : Out :=
  withRegs [a] [] s fun s1 =>
    let ea := xr (cur s1) a
    if ea.toNat % 8 ≠ 0 then exactAt 4 ⟨3, 0, ea⟩ s
    else
      withPlace s s1 4 ea 8 needRd fun p =>
        match p with
        | .mem ps =>
          if homeBarred s1 ps then .next s
          else withMemory s s1 4 q ea false true ps fun s2 =>
            let key := (ps.headD ⟨0, 0, 0, 0, 0⟩).key
            if rdWord s2 key = 0 ∧ listedSame s2 key .join = false then done s 4 q (homeRead (coreOf s.me) ps s2)
            else joinList s s2 ps .join ea 0 0 4 q
        | _ => exactAt 4 ⟨2, 3, ea⟩ s

/-! ### go and yield (R335, R336) -/

/-- A thread whose go has taken its core waits as steps 1 and 2 of R173 until its results have returned and its operations are answered, and then asks
for the slot (R173, R335). -/
def askGo (s : State) : State :=
  let th := cur s
  let c := (th.taken.headD 0).toNat
  if !th.late.isEmpty || outstanding s th.uid true true then park (.fence true true) s
  else push (.slotReservationRequest ⟨s.me, th.uid, .go, c, th.seq, 4, none, (getCore s (coreOf s.me)).pts⟩) (park .slotAsk s)

/-- go (R335): refused where the thread cannot move; otherwise steps 1 and 2 of R173, a reservation, and the parcel. The core is taken at its
issue (R157). -/
def execGo (q : Bool) (d b : Reg) (s : State) : Out :=
  match (cur s).wait with
  | .slotReply (some n) =>
    let c := ((cur s).taken.headD 0).toNat
    let s2 := retire s 4 false (keepTaken [] s)
    let p := parcelOf s2 s.me .go c n (cur s2).pc (some d)
    .next (push (.parcelArrival p) (leaveSlot s.me (16 * c + n) s2))
  | .slotReply none => lateResult s 4 q d 0 (keepTaken [] s)
  | .fence _ _ => .next (askGo s)
  | _ =>
    withRegs [b] [] s fun s1 =>
      let th := cur s1
      let c := xr th b
      if isHart s.me then lateResult s 4 q d (BitVec.allOnes 64) s1
      else if c = w64 (coreOf s.me) then lateResult s 4 q d 1 s1
      else if 1024 ≤ c.toNat ∨ inPartition s1 th.part c.toNat = false ∨ modeOf th = 2 ∨ th.vwin = true ∨ loopUsed th = true
          ∨ ((upTo 4).any fun i => bit (spGet 0 th.latch i) 1) = true ∨ th.hold.isSome = true then
        lateResult s 4 q d (BitVec.allOnes 64) s1
      else .next (askGo (keepTaken [c] s1))

/-- yield: not ready until its (n + 1)-th own position (R336). -/
def execYield (q : Bool) (b : Reg) (s : State) : Out :=
  withRegs [b] [] s fun s1 =>
    let n := bits (xr (cur s1) b) 15 0
    let s2 := retire s 4 false s1
    .next (modTh s2 s.me fun th => if th.wait = .run ∨ th.wait = .marker then { th with wait := .yielding (n + 1) q } else th)

/-- YIELD_EXPIRY: the thread is ready again (R336). -/
def execYieldExpiry (t : Nat) (s : State) : Out :=
  match (getTh s t).wait with
  | .yielding left q =>
    if left = 0 ∨ asyncPending s t = true then
      .next (modTh s t fun th => { th with wait := if q && !th.late.isEmpty then .marker else .run, wcount := 0 })
    else .next s
  | _ => .next s

end Sys2Proof.Machine
end

