-- ==== Sys2Proof/Machine/System.lean ====
section
/-! DEFINITION. System instructions, majors 0x3C and 0x3D (R192 to R199, R392 to R400), and the events of a thread's waits: late results,
watchdogs, wfi (R157, R186, R253, R396). -/

namespace Sys2Proof.Machine

/-! ### Control registers (R192 to R199) -/

/-- PJHEAD, computed from the thread's journal entries (R196). -/
def pjHead (s : State) (t : Nat) : Word :=
  let uid := (getTh s t).uid
  let mine := s.journal.filter fun e => e.2.live && e.2.uid == uid && uid != 0
  let first := fun (l : Sp JEnt) => l.foldl (init := (none : Option (Nat × JEnt))) fun best e =>
    match best with
    | none => some e
    | some b => if e.2.order < b.2.order then some e else some b
  let head := match first mine with | some e => e.1 % 32 | none => 0
  match first (mine.filter (·.2.ref)) with
  | some e => w64 (65536 + e.1 % 32 * 2048 + mine.length % 64 * 32 + head)
  | none => w64 (mine.length % 64 * 32 + head)

/-- KMASK as read: PRES says whether the key cache holds the descriptor; PREF reads 0 (R197). -/
def kmaskRead (s : State) (t : Nat) : Word :=
  let th := getTh s t
  let pres := (keyCache s (whoOf s t).unit).any fun c => c.ctx == th.ctx && c.handle == bits th.kmask 15 0
  if pres then th.kmask ||| 0x40000 else th.kmask

/-- SEGID (R171, R198). -/
def segId (s : State) (t : Nat) : Word :=
  match (getCore s (coreOf t)).segment with
  | some (_, i, _) => w64 (256 + i % 256)
  | none => 0

/-- The value of a control register; none for a number that names none (R192). -/
def ctlValue (s : State) (t n : Nat) : Option Word :=
  let th := getTh s t
  if n = 0 then some th.thst
  else if n = 1 then some th.tvec
  else if n = 2 then some th.tepc
  else if n = 3 then some th.tcause
  else if n = 4 then some th.tval
  else if n = 8 then some (pjHead s t)
  else if n = 9 then some th.pjbase
  else if 0x10 ≤ n ∧ n < 0x18 then some (spGet 0 th.lstk (n - 0x10))
  else if 0x18 ≤ n ∧ n < 0x1C then some (spGet 0 th.latch (n - 0x18))
  else if n = 0x20 then some (kmaskRead s t)
  else if n = 0x21 then some (if th.vwin then 1 else 0)
  else if n = 0x22 then some (if tl th then 3 else th.mcell.setWidth 64)
  else if n = 0x23 then some (segId s t)
  else if n = 0x24 then some (tidOf s t)
  else if n = 0x30 then some (gtimeAt s t)
  else if 0x40 ≤ n ∧ n < 0x48 then some (if isHart t then spGet 0 th.pcnt (n - 0x40) else seenCount s (spGet 0 th.pcnt (n - 0x40)))
  else none

/-- THST after a write of v: the flags and FRM, a reserved FRM being left out; SAVED too at level 1 (R193). -/
def writeThst (th : Thread) (v : Word) : Word :=
  let w := setBits th.thst 11 6 (bits v 11 6)
  let w := if bits v 5 3 ≤ 4 then setBits w 5 3 (bits v 5 3) else w
  if tl th then setBits w 31 16 (bits v 31 16) else w

/-- The window, sidecars and masks after a write of VWIN; a migrating thread and an engine hart keep W at 0 (R187, R198, R402). -/
def writeVwin (t : Nat) (v : Word) (th : Thread) : Thread :=
  { th with vwin := bit v 0 && modeOf th != 1 && !isHart t, v := [], sc := [], k := [] }

/-- KMASK written: HOLD and HANDLE are kept, and PREF = 1 fetches the descriptor of an allocated handle (R197). -/
def writeKmask (t : Nat) (v : Word) (s : State) : State :=
  let s1 := modTh s t fun th => { th with kmask := v &&& 0x2FFFF }
  let h := bits v 15 0
  let ctx := (getTh s t).ctx
  if bit v 16 && h != 0 && h != 0xFFFF && (spGet KeyEntry.free s.keys (keyIdx ctx h)).v then
    push (.keyCacheMiss (whoOf s t).unit ctx (mkAddr h 0)) s1
  else s1

/-- The effect of a control register write that R192 lets happen (R193 to R199). -/
def ctlWrite (t n : Nat) (v : Word) (s : State) : State :=
  if n = 0 then modTh s t fun th => { th with thst := writeThst th v, thstAt := s.cycle + 1 }
  else if n = 1 then modTh s t fun th => { th with tvec := v &&& ~~~3 }
  else if n = 2 then modTh s t fun th => { th with tepc := v }
  else if n = 3 then modTh s t fun th => { th with tcause := v &&& 0x7FFFFF }
  else if n = 4 then modTh s t fun th => { th with tval := v }
  else if n = 9 then modTh s t fun th => { th with pjbase := v &&& ~~~0x3FF }
  else if 0x10 ≤ n ∧ n < 0x18 then
    modTh s t fun th => { th with lstk := spSet 0 th.lstk (n - 0x10) (if n % 2 = 1 then v &&& ~~~2 else v) }
  else if n = 0x20 then writeKmask t v s
  else if n = 0x21 then modTh s t (writeVwin t v)
  else if n = 0x22 then
    modTh s t fun th => if tl th || bits v 1 0 == 3 then th else { th with mcell := v.setWidth 2 }
  else if 0x40 ≤ n ∧ n < 0x48 then
    modTh s t fun th => { th with pcnt := spSet 0 th.pcnt (n - 0x40) (v &&& 0xFF00FFFFFFFFFFFF) }
  else s

/-- Reading the control register uses a free value (log 24). -/
def ctlFree (s : State) (t n : Nat) : Bool := decide (0x40 ≤ n) && decide (n < 0x48) && !isHart t && cacheCount (spGet 0 (getTh s t).pcnt (n - 0x40))

/-- The number may be written at the present trap level (R192). -/
def ctlWritable (s : State) (t n : Nat) : Bool := (ctlValue s t n).isSome && (tl (getTh s t) || !(decide (2 ≤ n) && decide (n ≤ 4)))

/-- The number of a control register from its two fields (R392). -/
def ctlNum (h : BitVec 4) (n : BitVec 8) : Nat := h.toNat * 256 + n.toNat

/-- What reading a control register leaves behind: a free value used, GTIME known to the thread (R12; log 24). -/
def ctlSeen (s : State) (t n : Nat) : State := if n = 0x30 then noteGtime t s else freeUsed (ctlFree s t n) s

/-- A write of a control register with a value computed from its present one; a write of VWIN waits as vfence first (R198, R393). -/
def ctlOp (base : BitVec 32) (q : Bool) (a : Reg) (n : Nat) (f : Word → Word → Word) (s : State) : Out :=
  if !ctlWritable s s.me n then illegal base s
  else
    let s0 := if n = 0x21 then endCapture s.me s else s
    if n = 0x21 ∧ vectorIdle (cur s0) = false then unlessFault s0 4 (.next (park .vjoin s0))
    else
      withRegs [a] [] s0 fun s1 =>
        done s0 4 q (ctlWrite s1.me n (f ((ctlValue s1 s1.me n).getD 0) (xr (cur s1) a)) (freeUsed (ctlFree s1 s1.me n) s1))

/-- ctl.rd (R393). -/
def execCtlRd (q : Bool) (d : Reg) (h : BitVec 4) (n : BitVec 8) (s : State) : Out :=
  match ctlValue s s.me (ctlNum h n) with
  | none => illegal (encA 0#2 q 0x3C#6 d 0#4 h (1#3 ++ n)) s
  | some v => withRegs [] [d] s fun s1 => result s 4 q d v (ctlSeen s1 s.me (ctlNum h n))

/-- ctl.wr (R393). -/
def execCtlWr (q : Bool) (a : Reg) (h : BitVec 4) (n : BitVec 8) (s : State) : Out :=
  ctlOp (encA 0#2 q 0x3C#6 0#4 a h (2#3 ++ n)) q a (ctlNum h n) (fun _ x => x) s

/-- ctl.set (R393). -/
def execCtlSet (q : Bool) (a : Reg) (h : BitVec 4) (n : BitVec 8) (s : State) : Out :=
  ctlOp (encA 0#2 q 0x3C#6 0#4 a h (3#3 ++ n)) q a (ctlNum h n) (fun r x => r ||| x) s

/-- ctl.clr (R393). -/
def execCtlClr (q : Bool) (a : Reg) (h : BitVec 4) (n : BitVec 8) (s : State) : Out :=
  ctlOp (encA 0#2 q 0x3C#6 0#4 a h (4#3 ++ n)) q a (ctlNum h n) (fun r x => r &&& ~~~x) s

/-! ### Traps and their returns (R256, R272, R394) -/

/-- trap: the software trap with its code and operand (R394). -/
def execTrap (q : Bool) (c : BitVec 4) (a : Reg) (e : BitVec 4) (s : State) : Out :=
  let _ := q
  withRegs [a] [] s fun s1 => trapHere 8 (c.toNat * 16 + e.toNat) (xr (cur s1) a) s

/-- brk: the breakpoint trap (R394). -/
def execBrk (q : Bool) (s : State) : Out :=
  let _ := q
  trapHere 9 0 0 s

/-- A return from a trap (R194, R256): SAVED is restored and the pc is TEPC; a travelling thread departs to a TEPC outside its core's
segment (R180). A TEPC that is not a multiple of 4 takes the misalignment trap (R264). An asynchronous trap held until now is taken before the
next instruction (R249). -/
def trapReturn (base : BitVec 32) (q : Bool) (live : Option (BitVec 15)) (s : State) : Out :=
  let th := cur s
  if !tl th then illegal base s
  else if !savedOk th then .next (badStatus s)
  else if bits th.tepc 1 0 ≠ 0 then misaligned s th.tepc false s
  else
    let held := fun (th : Thread) => if asyncAimed s s.me then th.seq + 1 else th.tretAt
    .next (jump s th.tepc false live q (modTh s s.me fun th => { th with thst := restoreStatus th.thst, tretAt := held th }))

/-- tret (R256). -/
def execTret (q : Bool) (s : State) : Out := trapReturn (encA 0#2 q 0x3C#6 0#4 0#4 0#4 2#11) q none s

/-- tret with a travel live mask (R256, R175). -/
def execTretX (q : Bool) (live : BitVec 15) (s : State) : Out := trapReturn (encA 1#2 q 0x3C#6 0#4 0#4 0#4 2#11) q (some live) s

/-- ILLEGAL_INSTRUCTION: an encoding that names no instruction, with its base word (R272). -/
def execIllegalInstruction (base : BitVec 32) (s : State) : Out := illegal base s

/-! ### Stops (R395, R396, R403) -/

/-- The thread is halted at the next instruction, x[a] stored in its context's HALTV (R395). -/
def haltThread (v : Word) (s0 s : State) : State :=
  let th := cur s
  let n := seqNext (cur s0).pc 4 th
  modCtx (setTh s s.me { n.1 with pc := n.2, seq := th.seq + 1, wait := .halted s.cycle, wcount := 0 }) th.ctx fun c => { c with haltv := v }

/-- halt: an engine program's end; in a slot the breakpoint trap, or with HALTEN the halted state once the late results are in
(R395, R403). -/
def execHalt (q : Bool) (a : Reg) (s : State) : Out :=
  let _ := q
  if isHart s.me then hartEnd (xr (cur s) a) s
  else if !bit (getCtx s (cur s).ctx).dbgctl 0 then trapHere 9 0 0 s
  else if !(cur s).late.isEmpty then .next (park .marker s)
  else withRegs [a] [] s fun s1 => unlessFault s 4 (.next (haltThread (xr (cur s1) a) s s1))

/-- wfi with a count of running cycles left: 1 when an asynchronous trap is pending or held, 0 when none are left (R396). -/
def wfiTest (q : Bool) (d : Reg) (left : Nat) (s0 s1 : State) : Out :=
  if asyncAimed s1 s1.me then result s0 4 q d 1 s1
  else if left = 0 then result s0 4 q d 0 s1
  else unlessFault s0 4 (.next (park (.wfi left d q) s1))

/-- wfi (R396). A thread already waiting has read its operand. -/
def execWfi (q : Bool) (d b : Reg) (s : State) : Out :=
  match (cur s).wait with
  | .wfi left _ _ => wfiTest q d left s s
  | _ => withRegs [b] [d] s fun s1 => wfiTest q d (xr (cur s1) b).toNat s s1

/-- WFI_TIMEOUT: the cycles have passed with no trap pending (R396). -/
def execWfiTimeout (t : Nat) (s : State) : Out :=
  match (getTh s t).wait with
  | .wfi 0 d q => .next (asHart t (fun s => retire s 4 q (wr t d (if asyncAimed s t then 1 else 0) s)) s)
  | _ => .next s

/-! ### Time, flags, journal (R397, R398) -/

/-- gtime (R397). -/
def execGtime (q : Bool) (d : Reg) (s : State) : Out :=
  withRegs [] [d] s fun s1 => result s 4 q d (gtimeAt s1 s.me) (noteGtime s.me s1)

/-- ffl: waits as vfence, then reads and clears THST[11:6] (R397). -/
def execFfl (q : Bool) (d : Reg) (s : State) : Out :=
  let s0 := endCapture s.me s
  if !vectorIdle (cur s0) then unlessFault s0 4 (.next (park .vjoin s0))
  else
    withRegs [] [d] s0 fun s1 =>
      result s0 4 q d (w64 (bits (cur s1).thst 11 6)) (modTh s1 s1.me fun th => { th with thst := setBits th.thst 11 6 0 })

/-- pj.rd: an entry of another context's thread reads 0 (R398). -/
def execPjRd (q : Bool) (d a : Reg) (s : State) : Out :=
  withRegs [a] [d] s fun s1 =>
    let x := xr (cur s1) a
    let j := getJ s1 (coreOf s.me) (bits x 4 0)
    result s 4 q d (if j.ctx = (cur s1).ctx then journalWord j (bits x 6 5) else 0) s1

/-- pj.clr frees a refused entry of this thread, which cancels a trap not yet delivered (R398). -/
def execPjClr (q : Bool) (d a : Reg) (s : State) : Out :=
  withRegs [a] [d] s fun s1 =>
    let e := bits (xr (cur s1) a) 4 0
    let j := getJ s1 (coreOf s.me) e
    if j.live && j.ref && j.uid == (cur s1).uid then result s 4 q d 1 (setJ s1 (coreOf s.me) e JEnt.free)
    else result s 4 q d 0 s1

/-! ### Key caches (R399) -/

/-- kc.inv of a node's pages: the handle is checked, and only the system context may go on; the thread waits until every unit has
acknowledged (R399). -/
def invalidateNode (q : Bool) (x : Word) (page : Option Nat) (s0 s : State) : Out :=
  let w := whoOf s s.me
  let h := hdl x
  match hostMiss s w.unit w.ctx h with
  | some node =>
    if (cur s0).wait = .missed node then exactAt 4 ⟨2, 7, x⟩ s0
    else .next (pushOnce (.nodeCacheMiss node ⟨w.ctx, true⟩) (park (.fetch node x none) s0))
  | none =>
    let (e, gen) := lookupKey s w.unit w.ctx h
    if h = 0 ∨ (h ≠ 0xFFFF ∧ e.v = false) then exactAt 4 ⟨2, 1, x⟩ s0
    else if h ≠ 0xFFFF ∧ e.peer = false ∧ e.gen ≠ gen then exactAt 4 ⟨2, 2, x⟩ s0
    else if h = 0xFFFF ∨ e.peer = true ∨ w.ctx ≠ 0 then exactAt 4 ⟨2, 3, x⟩ s0
    else
      let (rid, s1) := startRevoke (.pages page) e.node gen (.thread s.me) s
      unlessFault s0 4 (.next (park (.name rid 0 q) s1))

/-- kc.inv (R399). -/
def execKcInv (q : Bool) (a : Reg) (sc : BitVec 2) (s : State) : Out :=
  withRegs [a] [] s fun s1 =>
    let x := xr (cur s1) a
    let ctx := (cur s1).ctx
    let unit := (whoOf s1 s.me).unit
    match sc.toNat with
    | 0 => done s 4 q (modCore s1 unit fun c => { c with keys := c.keys.filter fun k => !(k.ctx == ctx && k.handle == bits x 15 0) })
    | 1 =>
      done s 4 q (modCore s1 unit fun c =>
        { c with tlb := c.tlb.filter fun p => !(p.ctx == ctx && p.handle == hdl x && p.page == bits x 47 12) })
    | 2 => invalidateNode q x (some (bits x 47 12)) s s1
    | _ => invalidateNode q x none s s1

/-! ### Late results (R157, R186, R244, R339) -/

/-- The oldest late result may be written now: its value is known, and an outbound queue it goes to has room (R157, R186). -/
def lateReady (s : State) (t : Nat) : Bool :=
  match (getTh s t).late with
  | [] => false
  | l :: _ => l.done && !(isQ t l.d && decide (8 ≤ (outq s t l.d).length))

/-- Writes the oldest late result (R157). -/
def popLate (t : Nat) (s : State) : State :=
  match (getTh s t).late with
  | [] => s
  | l :: rest => wr t l.d l.v (modTh s t fun th => { th with late := rest })

/-- A load's value from its size code and bytes (R262). -/
def loadValue (size : Nat) (v : Nat) : Word :=
  match size with
  | 0 => LoadSize.extend .i8 v
  | 1 => LoadSize.extend .n8 v
  | 2 => LoadSize.extend .i16 v
  | 3 => LoadSize.extend .n16 v
  | 4 => LoadSize.extend .i32 v
  | 5 => LoadSize.extend .n32 v
  | _ => LoadSize.extend .d64 v

/-- A peer package answers the oldest load of a thread through a peer handle; a refusal returns as an access fault (R244, R246). -/
def answerLoad (t : Nat) (l : Late) (a : RemoteAnswer) (s : State) : State :=
  if a.status = 0 then
    push (.lateResultReturn t none) (modTh s t fun th =>
      { th with late := th.late.map fun x => if x.seq = l.seq then { x with v := loadValue l.size a.value.toNat, done := true } else x })
  else
    refuse t l.pc l.seq ⟨2, statusReason a.status, l.addr⟩ (modTh s t fun th => { th with late := th.late.filter (·.seq != l.seq) })

/-- A forwarded transaction of an issuer, the oldest first. -/
def forwardOf (s : State) (i : Issuer) : Option Forward := s.forwards.find? (·.issuer == i)

/-- The core's one ordinary store of a STAT record at an address, for the issuing thread; a refusal is a returned trap (R247, R339). -/
def storeAnswer (a : Word) (bytes : List Byte) (s : State) : State :=
  let th := cur s
  match resolve s (whoOf s s.me) a 32 needWr with
  | .ok (.mem ps) =>
    if (refusedPiece s th.part ps).isSome then refuse s.me th.pc th.seq ⟨2, 2, a⟩ s else storePieces (coreOf s.me) ps bytes s
  | .ok p => storeRecord th.pc th.seq a p bytes s
  | .error i => refuse s.me th.pc th.seq i s

/-- Ends a thread's forwarded transaction: a STAT record is stored, and the result is late (R339). -/
def answerName (t : Nat) (f : Forward) (d : Reg) (q : Bool) (a : RemoteAnswer) (s : State) : State :=
  let s0 : State := { s with forwards := s.forwards.erase f }
  let (v, bytes, s1) := endForward f a s0
  let s2 := if bytes.isEmpty then s1 else asHart t (storeAnswer f.stat bytes) s1
  asHart t (fun s => retire s 4 q (addLate d v s)) (catchUp (coreOf t) s2)

/-- Ends a forwarded transaction of a function with its answer; a status never sent counts as BADFORM (R64, R67, R95). -/
def answerFunction (fn : HostFn) (f : Forward) (a : RemoteAnswer) (s : State) : State :=
  let s0 : State := { s with forwards := s.forwards.erase f }
  if f.kind < 32 then reply fn (if a.status < 8 then a.status else 6) a.value a.data s0
  else
    let (v, bytes, s1) := endForward f a s0
    if bytes.isEmpty then reply fn 0 v (peerWords s1 f.ring v.toNat) s1
    else if 65536 ≤ f.ring then reply fn 0 v bytes s1
    else
      match agentWrite (whoCtx s1 f.ring) f.stat bytes 0 s1 with
      | .ok s' => reply fn 0 v [] s'
      | .error _ => reply fn 2 0 [] s1

/-- A transaction that a function or a fill node sent on. -/
def Forward.ofHost (f : Forward) : Bool := match f.issuer with | .host _ => true | .node _ _ => true | _ => false

/-- Ends what a function or a fill node sent on with its answer: a refused fill faults its node (R64, R95, R111). -/
def answerForward (f : Forward) (a : RemoteAnswer) (s : State) : State :=
  match f.issuer with
  | .host fn => answerFunction fn f a s
  | .node q slot => push (.nodeComplete q slot ⟨if a.status = 0 then 0 else 0x0E, 0⟩) { s with forwards := s.forwards.erase f }
  | _ => { s with forwards := s.forwards.erase f }

/-- A peer package answers the oldest transaction a function or a fill node sent on (R64, R95, R111). -/
def answerHost (a : RemoteAnswer) (s : State) : State :=
  match s.forwards.find? Forward.ofHost with
  | some f => answerForward f a s
  | none => s

/-- LATE_RESULT_RETURN: the oldest late result whose value is known is written, or a peer package's answer reaches the thread's oldest
request to it (R157, R186, R244, R339). The number 65,536 stands for the host's transactions. -/
def execLateResultReturn (t : Nat) (answer : Option RemoteAnswer) (s : State) : Out :=
  match answer with
  | none => .next (if lateReady s t then popLate t s else s)
  | some a =>
    if t = 65536 then .next (answerHost a s)
    else
      match (getTh s t).late.find? fun l => !l.done && decide (l.size < 7) with
      | some l => .next (answerLoad t l a s)
      | none =>
        match (getTh s t).wait, forwardOf s (.thread t) with
        | .remote d q, some f => .next (answerName t f d q a s)
        | _, _ => .next s

/-! ### Watchdogs (R150, R253) -/

/-- The stall watchdog period of a thread's context (R100, R158). -/
def wdogPeriod (s : State) (t : Nat) : Nat := 2 ^ (getCtx s (getTh s t).ctx).wdog

/-- What a watchdog reports of a wait it counts: the reason and the address, object or queue register; none for a wait that has another
bound (R158, R246). -/
def wdogReport (s : State) (t : Nat) : Option (Nat × Word) :=
  match (getTh s t).wait with
  | .word _ op a _ _ _ => some (if op = .join then 2 else 1, a)
  | .retry _ op a _ _ _ => some (if op = .join then 2 else 1, a)
  | .resv w a => if (spGet Resv.free s.resv w).granted = some t then none else some (3, a)
  | .queueReg r _ => some (5, w64 (r.toNat - 8))
  | .marker =>
    match (getTh s t).late with
    | l :: _ => if l.done && isQ t l.d && decide (8 ≤ (outq s t l.d).length) then some (5, w64 (l.d.toNat - 8)) else none
    | [] => none
  | _ => none

/-- The running cycles a watchdog counts of a wait: of a late result held for a queue register, from its return on (R158, R186). -/
def wdogCount (s : State) (t : Nat) : Nat :=
  let th := getTh s t
  match th.wait with
  | .marker => match th.late with | l :: _ => l.held | [] => th.wcount
  | .queueReg r _ => match th.late.find? fun l => l.done && l.d == r with | some l => l.held | none => th.wcount
  | _ => th.wcount

/-- The word held for a full queue that the thread waits for is discarded (R186). -/
def dropHeld (t : Nat) (s : State) : State :=
  match (getTh s t).wait with
  | .marker => modTh s t fun th => { th with late := th.late.drop 1 }
  | .queueReg r _ => modTh s t fun th => { th with late := th.late.eraseP fun l => l.done && l.d == r }
  | _ => s

/-- A wait that waits for a word, a reservation or a barrier ends: its entries are withdrawn (R150, R252). -/
def cancelWait (t : Nat) (s : State) : State := withdrawWaits t (withdrawResv t (leaveBarrier t s))

/-- The watchdog trap of a thread at its pc (R253). -/
def watchdogTrap (t reason : Nat) (tval : Word) (s : State) : State :=
  let s1 := if isHart t then s else modTh s t (countEv 0x0C 1)
  enterTrap t ⟨6, reason, tval⟩ false 0 false (getTh s1 t).pc s1

/-- The thread to which a tag in a reservation queue belongs: a posted write's, a vector command's or a matrix operation's (R315). -/
def tagUid (s : State) (tag : Nat) : Nat :=
  if 4000000 ≤ tag then
    match spGet none s.mmrun (tag - 4000000), spGet [] s.mmq (tag - 4000000) with
    | some r, _ => r.uid
    | none, (t, _, _) :: _ => (getTh s t).uid
    | none, [] => 0
  else if 3000000 ≤ tag then
    match (getCore s (tag - 3000000)).vqueue with
    | (t, _) :: _ => (getTh s t).uid
    | [] => 0
  else if 2000000 ≤ tag then
    let j := spGet JEnt.free s.journal (tag - 2000000)
    if j.live then j.uid else 0
  else 0

/-- The accesses of a thread that wait behind a hold while the thread itself does not: their tags and words (R253, R315). -/
def waitsBehind (s : State) (uid : Nat) : List (Nat × Nat) :=
  s.resv.flatMap fun e => (e.2.queue.filter fun g => uid != 0 && tagUid s g == uid).map fun g => (g, e.1)

/-- One running cycle more of each such wait; a new one starts at its first (R253). -/
def ageBehind (s : State) (th : Thread) : List (Nat × Nat × Nat) :=
  if s.resv.isEmpty then []
  else (waitsBehind s th.uid).map fun x =>
    (x.1, x.2, 1 + match th.behind.find? fun b => b.1 == x.1 && b.2.1 == x.2 with | some b => b.2.2 | none => 0)

/-- The trap of an expired hold may be taken: the thread waits on nothing, or on a wait that can be withdrawn (R252, R253). -/
def interruptible (w : Wait) : Bool :=
  match w with
  | .matrix _ _ _ => false
  | .name _ _ _ => false
  | .remote _ _ => false
  | .slotAsk => false
  | .slotReply _ => false
  | .settle _ => false
  | _ => true

/-- RESERVATION_HOLD_EXPIRY: the core releases the word as it stands, and the thread traps, once its instruction is done (R253). -/
def execReservationHoldExpiry (t : Nat) (s : State) : Out :=
  let th := getTh s t
  match th.hold with
  | none => .next s
  | some (w, n) =>
    if n < wdogPeriod s t then .next s
    else
      let s1 := releaseHold t w s
      .next (if interruptible th.wait then watchdogTrap t 4 th.holdAt (cancelWait t s1) else modTh s1 t fun th => { th with expired := some th.holdAt })

end Sys2Proof.Machine
end

