-- ==== Sys2Proof/Machine/VecCore.lean ====
section
/-! DEFINITION. What a vector command does to its slot's window, memory aside: element access, masks, and the integer, floating-point,
conversion, permutation, reduction, attention and mask operations (R352 to R360, R365 to R371, R375). -/

namespace Sys2Proof.Machine

/-! ### Elements (R207, R352) -/

/-- n elements of w bits of a number, element 0 lowest. -/
def split (w : Nat) : Nat → Nat → List Nat
  | 0, _ => []
  | n + 1, v => v % 2 ^ w :: split w n (v / 2 ^ w)

/-- The number of elements of w bits, element 0 lowest. -/
def joinEls (w : Nat) : List Nat → Nat
  | [] => 0
  | x :: xs => x % 2 ^ w + 2 ^ w * joinEls w xs

/-- The elements of a register. -/
def elems (w : Nat) (v : VReg) : List Nat := split w (4096 / w) v.toNat

/-- A register of elements. -/
def ofElems (w : Nat) (l : List Nat) : VReg := BitVec.ofNat 4096 (joinEls w l)

/-- A register of the window. -/
def getV (th : Thread) (r : Nat) : VReg := spGet 0 th.v (r % 16)

/-- Writes a register of the window. -/
def setV (r : Nat) (v : VReg) (th : Thread) : Thread := { th with v := spSet 0 th.v (r % 16) v }

/-- A register's sidecar byte (R188). -/
def sideByte (th : Thread) (r j : Nat) : Nat := (spGet 0 th.sc (r % 16)).toNat / 2 ^ (8 * j) % 256

/-- A mask register. -/
def getK (th : Thread) (k : Nat) : BitVec 1024 := spGet 0 th.k (k % 4)

/-- Writes a mask register. -/
def setK (k : Nat) (v : BitVec 1024) (th : Thread) : Thread := { th with k := spSet 0 th.k (k % 4) v }

/-- Takes the heads of several lists in turn, n times: the elements of a register group in the order of R357. -/
def weave : Nat → List (List Nat) → List Nat
  | 0, _ => []
  | n + 1, ls => ls.map (·.headD 0) ++ weave n (ls.map (·.drop 1))

/-- Every r-th element, from the first of what is left. -/
def every (r : Nat) : Nat → List Nat → List Nat
  | 0, _ => []
  | n + 1, l =>
    match l with
    | [] => []
    | x :: _ => x :: every r n (l.drop r)

/-- The elements of w bits of a group of n registers from r on: element n·l + m is lane l of register r + m (R357). -/
def groupElems (th : Thread) (w n r : Nat) : List Nat := weave (4096 / w) ((upTo n).map fun m => elems w (getV th (r + m)))

/-- Writes the elements of a group of n registers. -/
def setGroup (w n r : Nat) (l : List Nat) (th : Thread) : Thread :=
  (upTo n).foldl (init := th) fun th m => setV (r + m) (ofElems w (every n (4096 / w) (l.drop m))) th

/-- The element reads as a signed or unsigned integer. -/
def readInt (u : Bool) (w n : Nat) : Int := if u then Int.ofNat n else toS w n

/-- An exact result as an element: wrapped, or clamped under SAT to the signed or unsigned range (R201). -/
def writeInt (sat u : Bool) (w : Nat) (e : Int) : Nat :=
  ((if sat then (if u then clampU w e else clampS w e) else e) % 2 ^ w).toNat

/-- The elements of a q4 register with, for each, whether its byte is 0x88 (R207). -/
def q4Elems (v : VReg) : List (Int × Bool) := (elems 8 v).flatMap fun b => let (x, y, bad) := q4Pair b; [(x, bad), (y, bad)]

/-! ### Commands and masks (R269, R354) -/

/-- vd of the command in its iteration (R269). -/
def vdOf (c : VCmd) : Nat := (c.g.vd.toNat + (c.it - 1) * c.g.svd.toNat) % 16
/-- va of the command in its iteration. -/
def vaOf (c : VCmd) : Nat := (c.g.va.toNat + (c.it - 1) * c.g.sva.toNat) % 16
/-- vb of the command in its iteration. -/
def vbOf (c : VCmd) : Nat := (c.g.vb.toNat + (c.it - 1) * c.g.svb.toNat) % 16

/-- SAT of the command. -/
def satOf (c : VCmd) : Bool := match c.g.e with | some e => e.sat | none => false

/-- DISP of the command. -/
def dispOf (c : VCmd) : Int := match c.g.e with | some e => e.disp.toInt | none => 0

/-- The registers of a widened group: 1, 2 or 4 (R269). -/
def groupOf (c : VCmd) : Nat := 2 ^ c.g.wid

/-- Whether the mask selects each of n elements, from element j on (R354). -/
def selFrom (c : VCmd) (th : Thread) (j n : Nat) : List Bool :=
  match c.g.e with
  | some e => if e.me then (upTo n).map fun i => (getK th e.ksel.toNat).getLsbD (j + i) else List.replicate n true
  | none => List.replicate n true

/-- Replaces the selected elements, with the flags of those alone. -/
def merge : List Bool → List Nat → List (Nat × FFlags) → List Nat × FFlags
  | m :: ms, o :: os, (r, f) :: rs =>
    let (l, g) := merge ms os rs
    if m then (r :: l, f ||| g) else (o :: l, g)
  | _, os, _ => (os, fNone)

/-- The vector unit's result: the window after it, its flags and its scalar result. -/
abbrev VOut := Thread × FFlags × Option Word

/-- Writes the selected of the group elements from r on. -/
def putGroup (c : VCmd) (th : Thread) (w n r : Nat) (res : List (Nat × FFlags)) : VOut :=
  let (l, f) := merge (selFrom c th 0 res.length) (groupElems th w n r) res
  (setGroup w n r l th, f, none)

/-- Writes the selected elements of vd. -/
def putV (c : VCmd) (th : Thread) (w : Nat) (res : List (Nat × FFlags)) : VOut := putGroup c th w 1 (vdOf c) res

/-- The b operand: vb's elements, or Q in every element under X (R352). -/
def bElems (c : VCmd) (th : Thread) (w : Nat) : List Nat :=
  if c.g.x then List.replicate (4096 / w) (c.qv.toNat % 2 ^ w) else elems w (getV th (vbOf c))

/-- Applies an operation to old destination, a and b elements. -/
def zip3 (f : Nat → Nat → Nat → Nat × FFlags) : List Nat → List Nat → List Nat → List (Nat × FFlags)
  | d :: ds, a :: as, b :: bs => f d a b :: zip3 f ds as bs
  | _, _, _ => []

/-- A command on each element of vd, va and vb. -/
def elementOp (c : VCmd) (th : Thread) (f : Nat → Nat → Nat → Nat × FFlags) : VOut :=
  let w := c.g.ty.width
  putV c th w (zip3 f (elems w (getV th (vdOf c))) (elems w (getV th (vaOf c))) (bElems c th w))

/-- A compare writes the selected bits 0 to N − 1 of k(vd) (R356, R360). -/
def compareOp (c : VCmd) (th : Thread) (f : Nat → Nat → Bool × FFlags) : VOut :=
  let w := c.g.ty.width
  let n := 4096 / w
  let old := getK th (vdOf c)
  let res := zip3 (fun _ a b => let (t, g) := f a b; ((if t then 1 else 0), g)) (List.replicate n 0) (elems w (getV th (vaOf c))) (bElems c th w)
  let (l, g) := merge (selFrom c th 0 n) (split 1 n old.toNat) res
  (setK (vdOf c) (BitVec.ofNat 1024 (old.toNat / 2 ^ n * 2 ^ n + joinEls 1 l)) th, g, none)

/-! ### Integer instructions (R356, R357) -/

/-- An integer operation on elements (R356). -/
def intOp (c : VCmd) (th : Thread) (f : Int → Int → Int → Int) : VOut :=
  let w := c.g.ty.width
  elementOp c th fun d a b => (writeInt (satOf c) c.g.u w (f (readInt c.g.u w d) (readInt c.g.u w a) (readInt c.g.u w b)), fNone)

/-- A bitwise or shift operation on elements (R356). -/
def bitOp (c : VCmd) (th : Thread) (f : Nat → Nat → Nat → Nat) : VOut :=
  let w := c.g.ty.width
  elementOp c th fun _ a b => (f w a b % 2 ^ w, fNone)

/-- An arithmetic or logical shift right (R356). -/
def shiftRight (u : Bool) (w a b : Nat) : Nat := (readInt u w a / 2 ^ (b % w) % 2 ^ w).toNat

/-- An integer compare (R356). -/
def intCmp (c : VCmd) (th : Thread) (f : Int → Int → Bool) : VOut :=
  let w := c.g.ty.width
  compareOp c th fun a b => (f (readInt c.g.u w a) (readInt c.g.u w b), fNone)

/-- vwmul and vwmac: exact products into a register group (R357). -/
def wideInt (c : VCmd) (th : Thread) (acc : Bool) : VOut :=
  let w := c.g.ty.width
  let n := (groupOf c)
  let rw := w * n
  putGroup c th rw n (vdOf c) (zip3 (fun d a b =>
      (writeInt (satOf c) c.g.u rw ((if acc then readInt c.g.u rw d else 0) + readInt c.g.u w a * readInt c.g.u w b), fNone))
    (groupElems th rw n (vdOf c)) (elems w (getV th (vaOf c))) (elems w (getV th (vbOf c))))

/-- The integer elements of a register for a dot product: value, and a q4 byte 0x88 (R357). -/
def dotElems (c : VCmd) (th : Thread) (r : Nat) : List (Int × Bool) :=
  if c.g.ty = .q4 then q4Elems (getV th r) else (elems c.g.ty.width (getV th r)).map fun x => (readInt c.g.u c.g.ty.width x, false)

/-- Sums of n products a lane. fuel bounds the lanes. -/
def dotLanes (n : Nat) : Nat → List (Int × Bool) → List (Int × Bool) → List (Int × Bool)
  | 0, _, _ => []
  | k + 1, a, b =>
    let t := List.zip (a.take n) (b.take n)
    (t.foldl (fun s p => s + p.1.1 * p.2.1) 0, t.any fun p => p.1.2 || p.2.2) :: dotLanes n k (a.drop n) (b.drop n)

/-- Pairs of a lane's old value and what the lane adds. -/
def addLanes (f : Nat → Int × Bool → Nat × FFlags) : List Nat → List (Int × Bool) → List (Nat × FFlags)
  | d :: ds, e :: es => f d e :: addLanes f ds es
  | _, _ => []

/-- vdot of integers (R357). -/
def dotInt (c : VCmd) (th : Thread) : VOut :=
  let n := 32 / c.g.ty.width
  putV c th 32 (addLanes (fun d e => (writeInt (satOf c) c.g.u 32 (readInt c.g.u 32 d + e.1), if e.2 then fNV else fNone))
    (elems 32 (getV th (vdOf c))) (dotLanes n 128 (dotElems c th (vaOf c)) (dotElems c th (vbOf c))))

/-! ### Floating-point instructions (R358 to R360) -/

/-- The format of a floating type. -/
def VTy.fmt : VTy → FFmt
  | .f8 => fmtF8
  | .bf16 => fmtBf16
  | .f16 => fmtF16
  | _ => fmtF32

/-- A floating operation on elements (R358). -/
def fltOp (c : VCmd) (th : Thread) (f : FFmt → Nat → FVal → FVal → FVal → Nat × FFlags) : VOut :=
  let m := VTy.fmt c.g.ty
  elementOp c th fun d a b => f m c.frm.toNat (m.decode d) (m.decode a) (m.decode b)

/-- |a|: a NaN gives the canonical NaN, with NV if signalling (R359). -/
def fAbs (f : FFmt) (a : FVal) : Nat × FFlags :=
  match a with
  | .nan g => (f.nan, (FVal.nan g).sig)
  | .inf _ => f.infCode false
  | .fin _ m e => if m = 0 then (0, fNone) else f.round 1 false m e false

/-- 1 as a value. -/
def fOne : FVal := .fin false 1 0

/-- 1/√a, correctly rounded (R359). -/
def fRsqrt (f : FFmt) (mode : Nat) (a : FVal) : Nat × FFlags :=
  match a with
  | .nan g => (f.nan, (FVal.nan g).sig)
  | .inf s => if s then (f.nan, fNV) else (0, fNone)
  | .fin s m e =>
    if m = 0 then ((f.infCode s).1, 2)
    else if s then (f.nan, fNV)
    else
      let (m, e) := if e % 2 = 0 then (m, e) else (2 * m, e - 1)
      let v := 2 ^ 160 / m
      let r := isqrt v
      f.round mode false r (-(e / 2) - 80) (r * r * m != 2 ^ 160)

/-- A floating compare: any NaN makes it false; quiet NaNs raise NV where noisy holds (R360). -/
def fltCmp (c : VCmd) (th : Thread) (noisy : Bool) (f : Ordering → Bool) : VOut :=
  let m := VTy.fmt c.g.ty
  compareOp c th fun a b =>
    let x := m.decode a
    let y := m.decode b
    if x.isNaN || y.isNaN then (false, if noisy then fNV else x.sig ||| y.sig) else (f (fCmp x y), fNone)

/-- vwmul and vwfma of floats into f32 pairs (R360). -/
def wideFlt (c : VCmd) (th : Thread) (acc : Bool) : VOut :=
  let m := VTy.fmt c.g.ty
  let mode := c.frm.toNat
  putGroup c th 32 2 (vdOf c) (zip3 (fun d a b =>
      if acc then fFma fmtF32 mode (m.decode a) (m.decode b) (v32 d) else fMul fmtF32 mode (m.decode a) (m.decode b))
    (groupElems th 32 2 (vdOf c)) (elems 16 (getV th (vaOf c))) (elems 16 (getV th (vbOf c))))

/-- A rounded f32 sum of two codes. -/
def addF32 (mode : Nat) (x y : Nat) : Nat × FFlags := fAdd fmtF32 mode (v32 x) (v32 y)

/-- Floating dot products of n elements a lane (R219, R360). fuel bounds the lanes. -/
def dotFltLanes (m : FFmt) (mode n : Nat) : Nat → List Nat → List Nat → List Nat → List (Nat × FFlags)
  | 0, _, _, _ => []
  | k + 1, d, a, b =>
    let ps := List.zipWith (fun x y => fMul fmtF32 mode (m.decode x) (m.decode y)) (a.take n) (b.take n)
    let (t, ft) := pairTree (addF32 mode) 3 (ps.map Prod.fst)
    let (r, fr) := addF32 mode (d.headD 0) t
    (r, ps.foldl (fun g p => g ||| p.2) (ft ||| fr)) :: dotFltLanes m mode n k (d.drop 1) (a.drop n) (b.drop n)

/-- vdot of floats (R360). -/
def dotFlt (c : VCmd) (th : Thread) : VOut :=
  let w := c.g.ty.width
  putV c th 32 (dotFltLanes (VTy.fmt c.g.ty) c.frm.toNat (32 / w) 128 (elems 32 (getV th (vdOf c))) (elems w (getV th (vaOf c))) (elems w (getV th (vbOf c))))

/-! ### Conversion and packing (R365 to R367) -/

/-- One element converted from a source type, unsigned if us, to a destination type, unsigned if ud (R206, R365). -/
def convert (mode : Nat) (sat : Bool) (src dst : VTy) (us ud : Bool) (x : Nat) : Nat × FFlags :=
  let w := dst.width
  let (lo, hi) : Int × Int := if ud then (0, 2 ^ w - 1) else (-(2 ^ (w - 1)), 2 ^ (w - 1) - 1)
  match src.isFloat, dst.isFloat with
  | true, true => (VTy.fmt dst).ofVal mode ((VTy.fmt src).decode x)
  | true, false =>
    let (n, f) := toIntRange mode lo hi ((VTy.fmt src).decode x)
    ((n % 2 ^ w).toNat, f)
  | false, true => (VTy.fmt dst).ofExact mode (readInt us src.width x) 0 false
  | false, false => (writeInt sat ud w (readInt us src.width x), fNone)

/-- vcvt: widened results fill a group, narrowed ones come from one (R365). -/
def convertOp (c : VCmd) (th : Thread) : VOut :=
  let src := c.g.srcTy
  let dst := c.g.ty
  let sw := src.width
  let dw := dst.width
  let xs := groupElems th sw (max 1 (sw / dw)) (vaOf c)
  putGroup c th dw (max 1 (dw / sw)) (vdOf c) (xs.map (convert c.frm.toNat (satOf c) src dst (c.g.vb.getLsbD 3) c.g.u))

/-- A block element's value in f32: scale × element, exact; a NaN block gives the canonical NaN (R209, R366). -/
def scaled (scale : Nat) (v : FVal) : Nat × FFlags :=
  match scaleVal scale with
  | none => (fmtF32.nan, fNone)
  | some (m, e) => fMul fmtF32 0 v (.fin false m e)

/-- An integer as a value; zero is positive. -/
def intVal (n : Int) : FVal := .fin (decide (n < 0)) n.natAbs 0

/-- The values of the elements of a block type with their q4 flag (R204, R207). -/
def blockElems (ty : VTy) (v : VReg) : List (FVal × Bool) :=
  match ty with
  | .q4 => (q4Elems v).map fun p => (intVal p.1, p.2)
  | .f8 => (elems 8 v).map fun x => (fmtF8.decode x, false)
  | _ => (elems 8 v).map fun x => (intVal (toS 8 x), false)

/-- vunpk: slice vb of va's elements times their scales (R366). -/
def unpackOp (c : VCmd) (th : Thread) : VOut :=
  let sl := c.g.vb.toNat
  let es := ((blockElems c.g.ty (getV th (vaOf c))).drop (128 * sl)).take 128
  putV c th 32 ((List.zip (upTo 128) es).map fun p =>
    let (r, f) := scaled (sideByte th (vaOf c) ((128 * sl + p.1) / 32)) p.2.1
    (r, f ||| (if p.2.2 then fNV else fNone)))

/-- The f6 codes of slice s of a register: lane j is element j mod 4 of its 24-bit group (R210, R366). -/
def f6Codes (v : VReg) (sl : Nat) : List Nat := split 6 128 (v.toNat / 2 ^ (768 * sl))

/-- vunpk6 (R366). -/
def unpack6Op (c : VCmd) (th : Thread) : VOut :=
  let sl := c.g.vb.toNat
  putV c th 32 ((List.zip (upTo 128) (f6Codes (getV th (vaOf c)) sl)).map fun p =>
    scaled (sideByte th (vaOf c) (4 * sl + p.1 / 32)) (fmtF6.decode p.2))

/-- The quotient of a value by a scale, as near as any rounding of R206 can tell (R367): 64 further bits and a sticky one. -/
def quotient (v : FVal) (m : Nat) (e : Int) : FVal :=
  match v with
  | .fin s k x => .fin s (k * 2 ^ 64 / m * 2 + (if k * 2 ^ 64 % m = 0 then 0 else 1)) (x - e - 65)
  | w => w

/-- The scale of a lane's block: none where the block is written as zeros (R367). -/
def packScale (s : Nat) : Option (Nat × Int) := if s = 0 then none else scaleVal s

/-- The codes of 128 lanes as elements of a block type; pairs of q4 are converted together (R208, R367). scale gives a lane's block
scale. fuel bounds the pairs. -/
def packLanes (mode : Nat) (one : FVal → Nat × FFlags) (q4 : Bool) (scale : Nat → Option (Nat × Int)) : Nat → Nat → List FVal → List (Nat × FFlags)
  | 0, _, _ => []
  | n + 1, j, vs =>
    let x := vs.headD fOne
    let y := (vs.drop 1).headD fOne
    (match scale j with
      | none => [(0, fNV), (0, fNV)]
      | some (m, e) =>
        if q4 then
          let (b, f, g) := q4Pack mode (quotient x m e) (quotient y m e)
          [(b % 16, f), (b / 16, g)]
        else [one (quotient x m e), one (quotient y m e)])
      ++ packLanes mode one q4 scale n (j + 2) (vs.drop 2)

/-- Writes the selected of 128 elements of w bits from element e0 of vd on. -/
def putSlice (c : VCmd) (th : Thread) (w e0 : Nat) (res : List (Nat × FFlags)) : VOut :=
  let old := (getV th (vdOf c)).toNat
  let lo := old % 2 ^ (w * e0)
  let (l, f) := merge (selFrom c th e0 128) (split w 128 (old / 2 ^ (w * e0))) res
  (setV (vdOf c) (BitVec.ofNat 4096 (old / 2 ^ (w * (e0 + 128)) * 2 ^ (w * (e0 + 128)) + joinEls w l * 2 ^ (w * e0) + lo)) th, f, none)

/-- vpk: the lanes of va over vd's own scales into slice vb of vd (R367). -/
def packOp (c : VCmd) (th : Thread) : VOut :=
  let sl := c.g.vb.toNat
  let mode := c.frm.toNat
  let one := fun v => match c.g.ty with
    | .f8 => fmtF8.ofVal mode v
    | _ => let (n, f) := toIntRange mode (-128) 127 v; ((n % 256).toNat, f)
  putSlice c th c.g.ty.width (128 * sl)
    (packLanes mode one (c.g.ty == .q4) (fun j => packScale (sideByte th (vdOf c) ((128 * sl + j) / 32))) 64 0 ((elems 32 (getV th (vaOf c))).map v32))

/-- vpk6 (R367). -/
def pack6Op (c : VCmd) (th : Thread) : VOut :=
  let sl := c.g.vb.toNat
  let mode := c.frm.toNat
  putSlice c th 6 (128 * sl)
    (packLanes mode (fmtF6.ofVal mode) false (fun j => packScale (sideByte th (vdOf c) (4 * sl + j / 32))) 64 0 ((elems 32 (getV th (vaOf c))).map v32))

/-! ### Permutations (R368) -/

/-- vperm. -/
def permOp (c : VCmd) (th : Thread) : VOut :=
  let w := c.g.ty.width
  let n := 4096 / w
  let v := (getV th (vaOf c)).toNat
  putV c th w ((elems w (getV th (vbOf c))).map fun i => (v / 2 ^ (w * (i % n)) % 2 ^ w, fNone))

/-- vslide. -/
def slideOp (c : VCmd) (th : Thread) : VOut :=
  let w := c.g.ty.width
  let n := 4096 / w
  let v := (getV th (vaOf c)).toNat
  putV c th w ((upTo n).map fun j =>
    let i := Int.ofNat j + c.qv.toInt
    (if 0 ≤ i ∧ i < Int.ofNat n then v / 2 ^ (w * i.toNat) % 2 ^ w else 0, fNone))

/-- vext. -/
def extOp (c : VCmd) (th : Thread) : VOut :=
  let w := c.g.ty.width
  let i := c.qv.toNat % (4096 / w)
  (th, fNone, some (BitVec.ofInt 64 (readInt c.g.u w ((getV th (vaOf c)).toNat / 2 ^ (w * i) % 2 ^ w))))

/-- vins. -/
def insOp (c : VCmd) (th : Thread) : VOut :=
  let w := c.g.ty.width
  let i := c.qv.toNat % (4096 / w)
  (setV (vdOf c) (ofElems w ((elems w (getV th (vdOf c))).set i (c.p.toNat % 2 ^ w))) th, fNone, none)

/-! ### Reductions (R369) and attention (R370, R371) -/

/-- The elements of va with an identity in place of those not selected. -/
def keepSel {α : Type} (ident : α) : List Bool → List α → List α
  | m :: ms, x :: xs => (if m then x else ident) :: keepSel ident ms xs
  | _, _ => []

/-- The integer elements of va and whether a selected q4 byte is 0x88. -/
def redInts (c : VCmd) (th : Thread) (ident : Int) : List Int × FFlags :=
  let xs := dotElems c th (vaOf c)
  let ys := keepSel (ident, false) (selFrom c th 0 xs.length) xs
  (ys.map Prod.fst, if ys.any (·.2) then fNV else fNone)

/-- vred.add. -/
def redAdd (c : VCmd) (th : Thread) : VOut :=
  if c.g.ty.isFloat then
    let f := VTy.fmt c.g.ty
    let xs := (elems c.g.ty.width (getV th (vaOf c))).map fun x => fmtF32.ofVal 0 (f.decode x)
    let ys := keepSel (0x80000000, fNone) (selFrom c th 0 xs.length) xs
    let (r, g) := pairTree (addF32 c.frm.toNat) 10 (ys.map Prod.fst)
    (th, ys.foldl (fun h p => h ||| p.2) g, some (w64 r))
  else
    let (xs, f) := redInts c th 0
    (th, f, some (BitVec.ofInt 64 (xs.foldl (· + ·) 0)))

/-- The extreme values of an integer type (R369). -/
def intRange (c : VCmd) : Int × Int :=
  let w := c.g.ty.width
  if c.g.ty = .q4 then (-96, 96) else if c.g.u then (0, 2 ^ w - 1) else (-(2 ^ (w - 1)), 2 ^ (w - 1) - 1)

/-- vred.max and vred.min. -/
def redExtreme (c : VCmd) (th : Thread) (wantMax : Bool) : VOut :=
  if c.g.ty.isFloat then
    let f := VTy.fmt c.g.ty
    let ident := (f.infCode wantMax).1
    let xs := elems c.g.ty.width (getV th (vaOf c))
    let (r, g) := (keepSel ident (selFrom c th 0 xs.length) xs).foldl (init := (ident, fNone)) fun acc x =>
      let (y, h) := fExtreme f wantMax acc.1 x
      (y, acc.2 ||| h)
    (th, g, some (w64 r))
  else
    let (lo, hi) := intRange c
    let ident := if wantMax then lo else hi
    let (xs, f) := redInts c th ident
    (th, f, some (BitVec.ofInt 64 (xs.foldl (fun a b => if wantMax then max a b else min a b) ident)))

/-- Lanes and registers of an attention width (R370). -/
def AttW.lanes : AttW → Nat
  | .d64 => 64 | .d128 => 128 | .d256 => 256

/-- The bytes of the group of registers that holds a record (R370). -/
def groupBytes (th : Thread) (w : AttW) (r : Nat) : List Byte :=
  ((upTo (2 ^ w.group)).flatMap fun m => elems 8 (getV th (r + m))).map (BitVec.ofNat 8)

/-- Writes a record over the first bytes of a group (R370). -/
def setRecord (w : AttW) (r : Nat) (bs : List Byte) (th : Thread) : Thread :=
  let all := bs ++ (groupBytes th w r).drop bs.length
  (upTo (2 ^ w.group)).foldl (init := th) fun th m => setV (r + m) (ofElems 8 (((all.drop (512 * m)).take 512).map BitVec.toNat)) th

/-- vattc: Combine of the group va, operand 1, and the group vb, operand 2 (R52, R370). -/
def attCombine (w : AttW) (c : VCmd) (th : Thread) : VOut :=
  let n := AttW.lanes w
  let (r, f) := combineRow (Row.ofBytes n (groupBytes th w (vaOf c))) (Row.ofBytes n (groupBytes th w (vbOf c)))
  (setRecord w (vdOf c) r.toBytes th, f, none)

/-- vattf: Finish of the group va (R55, R371). -/
def attFinish (w : AttW) (c : VCmd) (th : Thread) : VOut :=
  let (r, f) := finishRow (Row.ofBytes (AttW.lanes w) (groupBytes th w (vaOf c)))
  (setRecord w (vdOf c) r.toBytes th, f, none)

/-! ### Masks (R375) -/

/-- A mask operation on two masks. -/
def maskOp (c : VCmd) (th : Thread) (f : BitVec 1024 → BitVec 1024 → BitVec 1024) : VOut :=
  (setK (vdOf c) (f (getK th (vaOf c)) (getK th (vbOf c))) th, fNone, none)

/-- kset: bit j is j < P. -/
def maskBelow (p : Word) : BitVec 1024 := if 1024 ≤ p.toNat then BitVec.allOnes 1024 else BitVec.ofNat 1024 (2 ^ p.toNat - 1)

/-- kins: 64 bits at place 64 × Q[3:0]. -/
def maskInsert (k : BitVec 1024) (p qv : Word) : BitVec 1024 :=
  let sh := 64 * bits qv 3 0
  (k &&& ~~~(((BitVec.allOnes 64).setWidth 1024) <<< sh)) ||| ((p.setWidth 1024) <<< sh)

/-- The number of set bits of a mask. -/
def maskCount (k : BitVec 1024) : Nat := (split 1 1024 k.toNat).foldl (· + ·) 0

/-! ### Commands that touch no memory -/

/-- What a command that touches no memory does (R356 to R360, R365 to R371, R375); a memory command changes nothing here. -/
def vectorOp (c : VCmd) (th : Thread) : VOut :=
  match c.op with
  | .vadd => intOp c th fun _ a b => a + b
  | .vsub => intOp c th fun _ a b => a - b
  | .vmul => intOp c th fun _ a b => a * b
  | .vmulh => intOp c th fun _ a b => a * b / 2 ^ c.g.ty.width
  | .vmin => intOp c th fun _ a b => min a b
  | .vmax => intOp c th fun _ a b => max a b
  | .vand => bitOp c th fun _ a b => a &&& b
  | .vor => bitOp c th fun _ a b => a ||| b
  | .vxor => bitOp c th fun _ a b => a ^^^ b
  | .vsll => bitOp c th fun w a b => a * 2 ^ (b % w)
  | .vsr => bitOp c th fun w a b => shiftRight c.g.u w a b
  | .vabs => intOp c th fun _ a _ => Int.ofNat a.natAbs
  | .vmac => intOp c th fun d a b => d + a * b
  | .vwmul => wideInt c th false
  | .vwmac => wideInt c th true
  | .vdot => dotInt c th
  | .vceq => intCmp c th fun a b => a == b
  | .vclt => intCmp c th fun a b => decide (a < b)
  | .vcle => intCmp c th fun a b => decide (a ≤ b)
  | .vmov => bitOp c th fun _ a b => if c.g.x then b else a
  | .fadd => fltOp c th fun f m _ a b => fAdd f m a b
  | .fsub => fltOp c th fun f m _ a b => fSub f m a b
  | .fmul => fltOp c th fun f m _ a b => fMul f m a b
  | .fdiv => fltOp c th fun f m _ a b => fDiv f m a b
  | .ffma => fltOp c th fun f m d a b => fFma f m a b d
  | .fmin => elementOp c th fun _ a b => fExtreme (VTy.fmt c.g.ty) false a b
  | .fmax => elementOp c th fun _ a b => fExtreme (VTy.fmt c.g.ty) true a b
  | .fabs => fltOp c th fun f _ _ a _ => fAbs f a
  | .fsqrt => fltOp c th fun f m _ a _ => fSqrt f m a
  | .fexp2 => fltOp c th fun f m _ a _ => fExp2 f m a
  | .flog2 => fltOp c th fun f m _ a _ => fLog2 f m a
  | .frcp => fltOp c th fun f m _ a _ => fDiv f m fOne a
  | .frsq => fltOp c th fun f m _ a _ => fRsqrt f m a
  | .fwmul => wideFlt c th false
  | .fwfma => wideFlt c th true
  | .fdot => dotFlt c th
  | .fceq => fltCmp c th false fun o => o == .eq
  | .fclt => fltCmp c th true fun o => o == .lt
  | .fcle => fltCmp c th true fun o => o != .gt
  | .vcvt => convertOp c th
  | .vunpk => unpackOp c th
  | .vunpk6 => unpack6Op c th
  | .vpk => packOp c th
  | .vpk6 => pack6Op c th
  | .vperm => permOp c th
  | .vslide => slideOp c th
  | .vext => extOp c th
  | .vins => insOp c th
  | .vredAdd => redAdd c th
  | .vredMax => redExtreme c th true
  | .vredMin => redExtreme c th false
  | .vattc w => attCombine w c th
  | .vattf w => attFinish w c th
  | .kand => maskOp c th fun a b => a &&& b
  | .kor => maskOp c th fun a b => a ||| b
  | .kxor => maskOp c th fun a b => a ^^^ b
  | .knot => maskOp c th fun a _ => ~~~a
  | .kset => (setK (vdOf c) (maskBelow c.p) th, fNone, none)
  | .kins => (setK (vdOf c) (maskInsert (getK th (vdOf c)) c.p c.qv) th, fNone, none)
  | .kext => (th, fNone, some (((getK th (vaOf c)) >>> (64 * bits c.qv 3 0)).setWidth 64))
  | .kpop => (th, fNone, some (w64 (maskCount (getK th (vaOf c)))))
  | .vld => (th, fNone, none)
  | .vst => (th, fNone, none)
  | .vgather => (th, fNone, none)
  | .vscatter => (th, fNone, none)
  | .vldl => (th, fNone, none)
  | .vldlv => (th, fNone, none)
  | .vstl => (th, fNone, none)
  | .vstlv => (th, fNone, none)
  | .vldsc => (th, fNone, none)
  | .vstsc => (th, fNone, none)

end Sys2Proof.Machine
end

