-- ==== Sys2Proof/Machine/VecMem.lean ====
section
/-! DEFINITION. The vector commands that touch memory, element by element (R216, R243, R355, R361 to R364). -/

namespace Sys2Proof.Machine

/-- A fault of a vector command: its REASON and the element's address (R246, R355). -/
abbrev VFault := Option (Nat × Word)

/-- An element read: its bytes and the state, or the REASON (R355, R361). -/
def vecRead (t : Nat) (a : Word) (n : Nat) (s : State) : Except Nat (List Byte × State) :=
  let w := whoOf s t
  if (hostMiss s w.unit w.ctx (hdl a)).isSome then .error 7
  else
    match resolve s w a n needRd with
    | .error i => .error i.reason
    | .ok (.mem ps) => if (refusedPiece s w.part ps).isSome then .error 2 else if (badWord s ps).isSome then .error 0x11
      else .ok (loadPieces w.core ps s)
    | .ok (.unit node kind o gen) =>
      if filtered s (node / 2 ^ 28 % 16) node gen then .error 2 else .ok (unitRead s node kind o n, meet w.core s)
    | .ok (.table o) => .ok (tableRead s w o n, meet w.core s)
    | .ok (.peer _) => .error 3

/-- An element write, as f makes it from the bytes that stand there: the state, or the REASON. -/
def vecWrite (t : Nat) (a : Word) (n : Nat) (f : List Byte → List Byte) (s : State) : Except Nat State :=
  let w := whoOf s t
  let unitOut := fun (r : Except TrapInfo State) => (match r with | .ok s' => .ok s' | .error i => .error i.reason : Except Nat State)
  if (hostMiss s w.unit w.ctx (hdl a)).isSome then .error 7
  else
    match resolve s w a n needWr with
    | .error i => .error i.reason
    | .ok (.mem ps) => if (refusedPiece s w.part ps).isSome then .error 2 else .ok (storePieces w.core ps (f (rdPieces s ps)) s)
    | .ok (.unit node kind o gen) =>
      if filtered s (node / 2 ^ 28 % 16) node gen then .error 2
      else
        let s1 := meet w.core (if kind = 2 then landEarlier (getTh s t).uid w.ctx (hdl a) 512 s else s)
        unitOut (unitStore w.ctx w.tenant node kind o a (f (unitRead s1 node kind o n)) s1)
    | .ok (.table o) => unitOut (tableStore w o a (f (tableRead s w o n)) (meet w.core s))
    | .ok (.peer _) => .error 3

/-- Where an element of a command lies: its address, or the REASON with the address that names it. -/
abbrev Where := Nat → Except (Nat × Word) Word

/-- An address at a displacement from a base; leaving the offset's range is offset carry (R87). -/
def atDisp (a : Word) (d : Int) : Except (Nat × Word) Word :=
  match offAdd a d with
  | some x => .ok x
  | none => .error (5, Config.carryAddress a d)

/-- The address, if it is a multiple of n (R363, R364). -/
def alignedTo (n : Nat) (x : Except (Nat × Word) Word) : Except (Nat × Word) Word :=
  match x with
  | .ok a => if a.toNat % n = 0 then .ok a else .error (0x10, a)
  | e => e

/-- A byte with its low or high half replaced. -/
def putNibble (high : Bool) (v : Nat) (b : Byte) : Byte :=
  if high then BitVec.ofNat 8 (b.toNat % 16 + v % 16 * 16) else BitVec.ofNat 8 (b.toNat / 16 * 16 + v % 16)

/-- Loads the selected elements in ascending order until one faults: their values, the fault and its element, and the state. -/
def loadEls (t w : Nat) (at_ : Where) : Nat → List Bool → State → List (Option Nat) × Option (Nat × Nat × Word) × State
  | _, [], s => ([], none, s)
  | j, m :: ms, s =>
    if !m then
      let (l, f, s') := loadEls t w at_ (j + 1) ms s
      (none :: l, f, s')
    else
      match at_ j with
      | .error e => ([], some (j, e), s)
      | .ok a =>
        match vecRead t a ((w + 7) / 8) s with
        | .error r => ([], some (j, r, a), s)
        | .ok (bs, s1) =>
          let v := if w = 4 then leNum bs / 16 ^ (j % 2) % 16 else leNum bs
          let (l, f, s') := loadEls t w at_ (j + 1) ms s1
          (some v :: l, f, s')

/-- Stores the selected elements in ascending order until one faults. -/
def storeEls (t w : Nat) (at_ : Where) : Nat → List Bool → List Nat → State → VFault × State
  | j, m :: ms, v :: vs, s =>
    if !m then storeEls t w at_ (j + 1) ms vs s
    else
      match at_ j with
      | .error e => (some e, s)
      | .ok a =>
        let f := fun old => if w = 4 then old.map (putNibble (j % 2 == 1) v) else leList (w / 8) v
        match vecWrite t a ((w + 7) / 8) f s with
        | .error r => (some (r, a), s)
        | .ok s1 => storeEls t w at_ (j + 1) ms vs s1
  | _, _, _, s => (none, s)

/-- Elements with those that were loaded replaced. -/
def overlay : List Nat → List (Option Nat) → List Nat
  | o :: os, v :: vs => v.getD o :: overlay os vs
  | os, _ => os

/-- The displacement of a command's first byte from P: index, DISP, and n bytes an iteration (R361, R372). -/
def startDisp (c : VCmd) (n : Nat) : Int := c.qv.toInt + dispOf c + Int.ofNat ((c.it - 1) * n)

/-- Where the elements of vld and vst lie. -/
def runWhere (c : VCmd) : Where := fun j => atDisp c.p (startDisp c 512 + Int.ofNat (j * c.g.ty.width / 8))

/-- Where the elements of vgather and vscatter lie (R361, R363). -/
def indexWhere (c : VCmd) (th : Thread) : Where := fun j =>
  let w := c.g.ty.width
  let i := (getV th (vbOf c)).toNat / 2 ^ (w * j) % 2 ^ w
  alignedTo (w / 8) (atDisp c.p (dispOf c + Int.ofNat (w / 8 * i)))

/-- Where lane j's word lies in lane memory, reached as local memory (R364). -/
def laneWhere (s : State) (t : Nat) (c : VCmd) (perLane : Bool) : Where := fun j =>
  let th := getTh s t
  let rn := (rotOf s th.part th.tenant).1
  let lane := if perLane then (getV th (vbOf c)).toNat / 2 ^ (32 * j) % 2 ^ 32 else 0
  let o := (c.p + w64 lane + BitVec.ofInt 64 (dispOf c) + w64 ((c.it - 1) * 4)).toNat
  let a := offWrap (mkAddr 0xFFFF (0x40000 + j * (1024 / rn))) (Int.ofNat o)
  if o % 4 ≠ 0 then .error (0x10, a) else if 1024 / rn < o + 4 then .error (4, a) else .ok a

/-- The FMT code of the windows that a block type's loads match (R211, R216). -/
def fmtOf (ty : VTy) : Option Nat :=
  match ty with
  | .q4 => some 0
  | .f8 => some 2
  | .i8 => some 3
  | _ => none

/-- The payload view of matching FMT that an address translates into, with the record's number and place in it (R216). -/
def viewOf (s : State) (t : Nat) (ty : VTy) (a : Word) : Option (Window × Nat) :=
  let w := whoOf s t
  let (e, _) := lookupKey s w.unit w.ctx (hdl a)
  match fmtOf ty, lookupPage s w.unit w.ctx (hdl a) e.ptroot.toNat (off a / 4096) with
  | some f, some (page, _) =>
    let pa := page + off a % 4096
    match payloadWindow s pa with
    | some win => if physEnd ≤ pa ∧ hdl a ≠ 0xFFFF ∧ e.v = true ∧ e.peer = false ∧ win.fmt = f then some (win, (pa - win.pv) / (fmtSizes f).2) else none
    | none => none
  | _, _ => none

/-- Loads scale bytes of the records from k0 on into the bytes j and up of a sidecar, n of them (R188, R214, R362). -/
def fillSide (t r : Nat) (win : Window) (k0 : Nat) : Nat → Nat → State → State
  | 0, _, s => s
  | n + 1, j, s =>
    if win.nrec ≤ k0 + j then s
    else
      let (bs, s1) := loadPieces (coreOf t) (viewByte s (win.sv + k0 + j)) s
      let put := fun (old : Nat) => old - old / 2 ^ (8 * j) % 256 * 2 ^ (8 * j) + leNum bs % 256 * 2 ^ (8 * j)
      fillSide t r win k0 n (j + 1) (modTh s1 t fun th => { th with sc := spSet 0 th.sc r (BitVec.ofNat 256 (put (spGet 0 th.sc r).toNat)) })

/-- The first block of a view load whose scale byte is uncorrectable (R136, R214). -/
def badScale (s : State) (win : Window) (k0 blocks : Nat) : Option Nat :=
  (upTo blocks).find? fun j => decide (k0 + j < win.nrec) && (badWord s (viewByte s (win.sv + k0 + j))).isSome

/-- vld, a view load of a block type filling the sidecar too: an uncorrectable scale byte faults at its block's first element (R136, R361, R362). -/
def vecLoad (t : Nat) (c : VCmd) (s : State) : VFault × State :=
  let w := c.g.ty.width
  let n := 4096 / w
  let view := match runWhere c 0 with | .ok a => (viewOf s t c.g.ty a).map fun v => (a, v) | .error _ => none
  let bad := match view with | some (a, _) => a.toNat % (fmtSizes ((fmtOf c.g.ty).getD 0)).2 != 0 | none => false
  if bad then
    match view with
    | some (a, _) => (some (0x10, a), s)
    | none => (none, s)
  else
    let th := getTh s t
    let spoilt := match view with | some (_, win, k0) => badScale s win k0 (n / 32) | none => none
    let (l, f0, s1) := loadEls t w (runWhere c) 0 ((selFrom c th 0 n).take (match spoilt with | some j => 32 * j | none => n)) s
    let f := match f0, spoilt with
      | none, some j => some (32 * j, 0x11, offWrap ((runWhere c 0).toOption.getD 0) (Int.ofNat (32 * j * w / 8)))
      | f, _ => f
    let s2 := modTh s1 t fun th => setV (vdOf c) (ofElems w (overlay (elems w (getV th (vdOf c))) l)) th
    let upto := match f with | some (j, _) => j | none => n
    let s3 := match view with
      | some (_, win, k0) => fillSide t (vdOf c) win k0 (min (n / 32) (upto / 32)) 0 s2
      | none => s2
    (f.map fun x => x.2, s3)

/-- A load of elements from other places: vgather and vldl (R363, R364). -/
def vecLoadAt (t : Nat) (c : VCmd) (w : Nat) (at_ : Where) (s : State) : VFault × State :=
  let (l, f, s1) := loadEls t w at_ 0 (selFrom c (getTh s t) 0 (4096 / w)) s
  (f.map fun x => x.2, modTh s1 t fun th => setV (vdOf c) (ofElems w (overlay (elems w (getV th (vdOf c))) l)) th)

/-- A store of elements: vst, vscatter and vstl. -/
def vecStoreAt (t : Nat) (c : VCmd) (w : Nat) (at_ : Where) (s : State) : VFault × State :=
  let th := getTh s t
  storeEls t w at_ 0 (selFrom c th 0 (4096 / w)) (elems w (getV th (vdOf c))) s

/-- vldsc: 32 bytes into a sidecar, as one access (R362). -/
def sideLoad (t : Nat) (c : VCmd) (s : State) : VFault × State :=
  match atDisp c.p (startDisp c 32) with
  | .error e => (some e, s)
  | .ok a =>
    match vecRead t a 32 s with
    | .error r => (some (r, a), s)
    | .ok (bs, s1) => (none, modTh s1 t fun th => { th with sc := spSet 0 th.sc (vdOf c) (BitVec.ofNat 256 (leNum bs)) })

/-- vstsc. -/
def sideStore (t : Nat) (c : VCmd) (s : State) : VFault × State :=
  match atDisp c.p (startDisp c 32) with
  | .error e => (some e, s)
  | .ok a =>
    match vecWrite t a 32 (fun _ => leList 32 (spGet 0 (getTh s t).sc (vdOf c)).toNat) s with
    | .error r => (some (r, a), s)
    | .ok s1 => (none, s1)

/-- The elements of a memory command: the bytes of each, where each lies, and which are selected (R354, R361 to R364). -/
def vecPlaces (s : State) (t : Nat) (c : VCmd) : Nat × Where × List Bool :=
  let th := getTh s t
  let w := c.g.ty.width
  let all := selFrom c th 0 (4096 / w)
  let lanes := selFrom c th 0 128
  match c.op with
  | .vld => ((w + 7) / 8, runWhere c, all)
  | .vst => ((w + 7) / 8, runWhere c, all)
  | .vgather => (w / 8, indexWhere c th, all)
  | .vscatter => (w / 8, indexWhere c th, all)
  | .vldl => (4, laneWhere s t c false, lanes)
  | .vldlv => (4, laneWhere s t c true, lanes)
  | .vstl => (4, laneWhere s t c false, lanes)
  | .vstlv => (4, laneWhere s t c true, lanes)
  | .vldsc => (32, fun _ => atDisp c.p (startDisp c 32), [true])
  | .vstsc => (32, fun _ => atDisp c.p (startDisp c 32), [true])
  | _ => (0, fun _ => .error (0, 0), [])

/-- The words of memory that a command reaches (R315). -/
def vecWords (s : State) (t : Nat) (c : VCmd) : List Nat :=
  let (n, at_, sel) := vecPlaces s t c
  ((upTo sel.length).filter (sel.getD · false)).flatMap fun j =>
    match at_ j with
    | .ok a => (match resolve s (whoOf s t) a n ⟨false, false, false⟩ with | .ok (.mem ps) => wordsOf ps | _ => [])
    | .error _ => []

/-- The word that a command at the head of its core's queue must wait for: another thread holds it, or others came first (R315). -/
def vectorWaits (s : State) (t : Nat) (c : VCmd) : Option Nat :=
  if s.resv.isEmpty then none else tagBlocked s (getTh s t).uid (commandTag (coreOf t)) (vecWords s t c)

/-- The address by which a command reaches a word (R253). -/
def commandAddress (s : State) (t : Nat) (c : VCmd) (word : Nat) : Word :=
  let (n, at_, sel) := vecPlaces s t c
  (((upTo sel.length).filter (sel.getD · false)).findSome? fun j =>
    match at_ j with
    | .ok a =>
      match resolve s (whoOf s t) a n ⟨false, false, false⟩ with
      | .ok (.mem ps) => if (wordsOf ps).contains word then some (wordAddr a ps word) else none
      | _ => none
    | .error _ => none).getD 0

/-- What a memory command does; none for a command that touches no memory. -/
def memoryOp (t : Nat) (c : VCmd) (s : State) : Option (VFault × State) :=
  let th := getTh s t
  match c.op with
  | .vld => some (vecLoad t c s)
  | .vst => some (vecStoreAt t c c.g.ty.width (runWhere c) s)
  | .vgather => some (vecLoadAt t c c.g.ty.width (indexWhere c th) s)
  | .vscatter => some (vecStoreAt t c c.g.ty.width (indexWhere c th) s)
  | .vldl => some (vecLoadAt t c 32 (laneWhere s t c false) s)
  | .vldlv => some (vecLoadAt t c 32 (laneWhere s t c true) s)
  | .vstl => some (vecStoreAt t c 32 (laneWhere s t c false) s)
  | .vstlv => some (vecStoreAt t c 32 (laneWhere s t c true) s)
  | .vldsc => some (sideLoad t c s)
  | .vstsc => some (sideStore t c s)
  | _ => none

end Sys2Proof.Machine
end

