-- ==== Sys2Proof/Machine/Vector.lean ====
section
/-! DEFINITION. Vector instructions, majors 0x30 to 0x36 (R352 to R375): their issue, and the events of the vector unit. -/

namespace Sys2Proof.Machine

/-! ### Issue (R266, R353) -/

/-- An entry joins the slot's queue, numbered by its order of issue (R353). -/
def joinQueue (e : VEntry) (s : State) : State :=
  feedVector (coreOf s.me) 64 { (modTh s s.me fun th => { th with vq := th.vq ++ [(s.uids, e)] }) with uids := s.uids + 1 }

/-- A vector command enters the slot's queue, or the capture in progress (R353, R372). -/
def enqueue (v : VCmd) (s : State) : State :=
  match (cur s).capture with
  | some c =>
    let s1 := modTh s s.me fun th => { th with capture := some { c with left := c.left - 1, cmds := c.cmds ++ [v] } }
    if c.left ≤ 1 then endCapture s.me s1 else s1
  | none => joinQueue (.cmd v) s

/-- The operation writes a scalar register (R157). -/
def lateOp (op : VOp) : Bool :=
  match op with
  | .vext => true
  | .vredAdd => true
  | .vredMax => true
  | .vredMin => true
  | .kext => true
  | .kpop => true
  | _ => false

/-- The operation reaches memory through the handle of P (R361). -/
def handleOp (op : VOp) : Bool :=
  match op with
  | .vld => true
  | .vst => true
  | .vgather => true
  | .vscatter => true
  | .vldsc => true
  | .vstsc => true
  | _ => false

/-- The rounding mode of a command: RND of its E word, or FRM (R353). -/
def cmdMode (g : VArgs) (th : Thread) : BitVec 3 :=
  match g.e with
  | some e => if e.rnd = 0 then frmOf th else e.rnd - 1
  | none => frmOf th

/-- The bytes of a format V instruction (R259, R266). -/
def vecLen (g : VArgs) : Nat := 4 + (if g.e.isSome then 8 else 0) + (if g.k.isSome then 8 else 0)

/-- Issues a command whose scalar operands are sources: a full queue parks the thread, a node record the host must supply parks it too,
and a scalar result is late (R89, R157, R353). -/
def issueCommand (len : Nat) (op : VOp) (g : VArgs) (readA readB : Bool) (s : State) : Out :=
  let th := cur s
  if th.capture.isNone && decide (4 ≤ th.vq.length) then .next (park .vqueue s)
  else
    let srcs := (if readA then [g.va] else []) ++ (if readB then [g.vb] else [])
    withRegs srcs [] s fun s1 =>
      let p := if readA then xr (cur s1) g.va else 0
      let qv := match g.k with | some k => k | none => if readB then xr (cur s1) g.vb else 0
      let w := whoOf s1 s.me
      let miss := if handleOp op then hostMiss s1 w.unit w.ctx (hdl p) else none
      let go : Out :=
        let v : VCmd := ⟨op, g, p, qv, cmdMode g th, th.pc, th.seq, 0, true⟩
        let s2 := if lateOp op then addLateOpen g.vd 8 0 s1 else s1
        .next (retireLive s len none g.q (enqueue v s2))
      match miss with
      | some node =>
        if th.wait = .missed node then go
        else .next (pushOnce (.nodeCacheMiss node ⟨w.ctx, true⟩) (park (.fetch node p none) s))
      | none => go

/-- A format V instruction: illegal without a vector window (R187). -/
def issueVector (r : VRow) (op : VOp) (g : VArgs) (s : State) : Out :=
  if !(cur s).vwin then illegal (encVArgs r g).base s
  else issueCommand (vecLen g) op g (r.roleA g == .sca) (r.roleB g == .sca) s

/-- vaddInt (R356). -/
def execVaddInt (g : VArgs) (s : State) : Out := issueVector rowVaddInt .vadd g s
/-- vaddIntK (R356). -/
def execVaddIntK (g : VArgs) (s : State) : Out := issueVector rowVaddIntK .vadd g s
/-- vsubInt (R356). -/
def execVsubInt (g : VArgs) (s : State) : Out := issueVector rowVsubInt .vsub g s
/-- vmulInt (R356). -/
def execVmulInt (g : VArgs) (s : State) : Out := issueVector rowVmulInt .vmul g s
/-- vmulh (R356). -/
def execVmulh (g : VArgs) (s : State) : Out := issueVector rowVmulh .vmulh g s
/-- vminInt (R356). -/
def execVminInt (g : VArgs) (s : State) : Out := issueVector rowVminInt .vmin g s
/-- vmaxInt (R356). -/
def execVmaxInt (g : VArgs) (s : State) : Out := issueVector rowVmaxInt .vmax g s
/-- vand (R356). -/
def execVand (g : VArgs) (s : State) : Out := issueVector rowVand .vand g s
/-- vor (R356). -/
def execVor (g : VArgs) (s : State) : Out := issueVector rowVor .vor g s
/-- vxor (R356). -/
def execVxor (g : VArgs) (s : State) : Out := issueVector rowVxor .vxor g s
/-- vsll (R356). -/
def execVsll (g : VArgs) (s : State) : Out := issueVector rowVsll .vsll g s
/-- vsr (R356). -/
def execVsr (g : VArgs) (s : State) : Out := issueVector rowVsr .vsr g s
/-- vabsInt (R356). -/
def execVabsInt (g : VArgs) (s : State) : Out := issueVector rowVabsInt .vabs g s
/-- vmac (R356). -/
def execVmac (g : VArgs) (s : State) : Out := issueVector rowVmac .vmac g s
/-- vwmulInt (R357). -/
def execVwmulInt (g : VArgs) (s : State) : Out := issueVector rowVwmulInt .vwmul g s
/-- vwmac (R357). -/
def execVwmac (g : VArgs) (s : State) : Out := issueVector rowVwmac .vwmac g s
/-- vdotInt (R357). -/
def execVdotInt (g : VArgs) (s : State) : Out := issueVector rowVdotInt .vdot g s
/-- vceqInt (R356). -/
def execVceqInt (g : VArgs) (s : State) : Out := issueVector rowVceqInt .vceq g s
/-- vcltInt (R356). -/
def execVcltInt (g : VArgs) (s : State) : Out := issueVector rowVcltInt .vclt g s
/-- vcleInt (R356). -/
def execVcleInt (g : VArgs) (s : State) : Out := issueVector rowVcleInt .vcle g s
/-- vmov (R356). -/
def execVmov (g : VArgs) (s : State) : Out := issueVector rowVmov .vmov g s
/-- vaddFlt (R358). -/
def execVaddFlt (g : VArgs) (s : State) : Out := issueVector rowVaddFlt .fadd g s
/-- vaddFltX (R358). -/
def execVaddFltX (g : VArgs) (s : State) : Out := issueVector rowVaddFltX .fadd g s
/-- vsubFlt (R358). -/
def execVsubFlt (g : VArgs) (s : State) : Out := issueVector rowVsubFlt .fsub g s
/-- vmulFlt (R358). -/
def execVmulFlt (g : VArgs) (s : State) : Out := issueVector rowVmulFlt .fmul g s
/-- vmulFltK (R358). -/
def execVmulFltK (g : VArgs) (s : State) : Out := issueVector rowVmulFltK .fmul g s
/-- vdiv (R358). -/
def execVdiv (g : VArgs) (s : State) : Out := issueVector rowVdiv .fdiv g s
/-- vfma (R358). -/
def execVfma (g : VArgs) (s : State) : Out := issueVector rowVfma .ffma g s
/-- vminFlt (R358). -/
def execVminFlt (g : VArgs) (s : State) : Out := issueVector rowVminFlt .fmin g s
/-- vmaxFlt (R358). -/
def execVmaxFlt (g : VArgs) (s : State) : Out := issueVector rowVmaxFlt .fmax g s
/-- vabsFlt (R359). -/
def execVabsFlt (g : VArgs) (s : State) : Out := issueVector rowVabsFlt .fabs g s
/-- vsqrt (R358). -/
def execVsqrt (g : VArgs) (s : State) : Out := issueVector rowVsqrt .fsqrt g s
/-- vexp2 (R359). -/
def execVexp2 (g : VArgs) (s : State) : Out := issueVector rowVexp2 .fexp2 g s
/-- vlog2 (R359). -/
def execVlog2 (g : VArgs) (s : State) : Out := issueVector rowVlog2 .flog2 g s
/-- vrcp (R359). -/
def execVrcp (g : VArgs) (s : State) : Out := issueVector rowVrcp .frcp g s
/-- vrsq (R359). -/
def execVrsq (g : VArgs) (s : State) : Out := issueVector rowVrsq .frsq g s
/-- vwmulFlt (R360). -/
def execVwmulFlt (g : VArgs) (s : State) : Out := issueVector rowVwmulFlt .fwmul g s
/-- vwfma (R360). -/
def execVwfma (g : VArgs) (s : State) : Out := issueVector rowVwfma .fwfma g s
/-- vdotFlt (R360). -/
def execVdotFlt (g : VArgs) (s : State) : Out := issueVector rowVdotFlt .fdot g s
/-- vceqFlt (R360). -/
def execVceqFlt (g : VArgs) (s : State) : Out := issueVector rowVceqFlt .fceq g s
/-- vcltFlt (R360). -/
def execVcltFlt (g : VArgs) (s : State) : Out := issueVector rowVcltFlt .fclt g s
/-- vcleFlt (R360). -/
def execVcleFlt (g : VArgs) (s : State) : Out := issueVector rowVcleFlt .fcle g s
/-- vld (R361). -/
def execVld (g : VArgs) (s : State) : Out := issueVector rowVld .vld g s
/-- vldX (R361). -/
def execVldX (g : VArgs) (s : State) : Out := issueVector rowVldX .vld g s
/-- vst (R361). -/
def execVst (g : VArgs) (s : State) : Out := issueVector rowVst .vst g s
/-- vstX (R361). -/
def execVstX (g : VArgs) (s : State) : Out := issueVector rowVstX .vst g s
/-- vgather (R363). -/
def execVgather (g : VArgs) (s : State) : Out := issueVector rowVgather .vgather g s
/-- vscatter (R363). -/
def execVscatter (g : VArgs) (s : State) : Out := issueVector rowVscatter .vscatter g s
/-- vldl (R364). -/
def execVldl (g : VArgs) (s : State) : Out := issueVector rowVldl .vldl g s
/-- vldlV (R364). -/
def execVldlV (g : VArgs) (s : State) : Out := issueVector rowVldlV .vldlv g s
/-- vstl (R364). -/
def execVstl (g : VArgs) (s : State) : Out := issueVector rowVstl .vstl g s
/-- vstlV (R364). -/
def execVstlV (g : VArgs) (s : State) : Out := issueVector rowVstlV .vstlv g s
/-- vldsc (R362). -/
def execVldsc (g : VArgs) (s : State) : Out := issueVector rowVldsc .vldsc g s
/-- vstsc (R362). -/
def execVstsc (g : VArgs) (s : State) : Out := issueVector rowVstsc .vstsc g s
/-- vcvt (R365). -/
def execVcvt (g : VArgs) (s : State) : Out := issueVector rowVcvt .vcvt g s
/-- vcvtW (R365). -/
def execVcvtW (g : VArgs) (s : State) : Out := issueVector rowVcvtW .vcvt g s
/-- vunpk (R366). -/
def execVunpk (g : VArgs) (s : State) : Out := issueVector rowVunpk .vunpk g s
/-- vunpk6 (R366). -/
def execVunpk6 (g : VArgs) (s : State) : Out := issueVector rowVunpk6 .vunpk6 g s
/-- vpk (R367). -/
def execVpk (g : VArgs) (s : State) : Out := issueVector rowVpk .vpk g s
/-- vpk6 (R367). -/
def execVpk6 (g : VArgs) (s : State) : Out := issueVector rowVpk6 .vpk6 g s
/-- vperm (R368). -/
def execVperm (g : VArgs) (s : State) : Out := issueVector rowVperm .vperm g s
/-- vslide (R368). -/
def execVslide (g : VArgs) (s : State) : Out := issueVector rowVslide .vslide g s
/-- vext (R368). -/
def execVext (g : VArgs) (s : State) : Out := issueVector rowVext .vext g s
/-- vins (R368). -/
def execVins (g : VArgs) (s : State) : Out := issueVector rowVins .vins g s
/-- vredAdd (R369). -/
def execVredAdd (g : VArgs) (s : State) : Out := issueVector rowVredAdd .vredAdd g s
/-- vredMax (R369). -/
def execVredMax (g : VArgs) (s : State) : Out := issueVector rowVredMax .vredMax g s
/-- vredMin (R369). -/
def execVredMin (g : VArgs) (s : State) : Out := issueVector rowVredMin .vredMin g s

/-- vattc (R370). -/
def execVattc (w : AttW) (g : VArgs) (s : State) : Out := issueVector { rowVattc with fn := rowVattc.fn ||| (0#6 ++ w.code) } (.vattc w) g s
/-- vattf (R371). -/
def execVattf (w : AttW) (g : VArgs) (s : State) : Out := issueVector { rowVattf with fn := rowVattf.fn ||| (0#6 ++ w.code) } (.vattf w) g s

/-! ### Repetition, fences and masks (R372 to R375) -/

/-- An instruction of major 0x35 or 0x36: illegal without a vector window, and it ends a capture (R187, R372). -/
def withWindow (base : BitVec 32) (s : State) (act : State → Out) : Out :=
  if !(cur s).vwin then illegal base s else act (endCapture s.me s)

/-- rep joins the slot's queue and the commands it captures follow in its entry (R372). The core executes its queue one entry at a time, so that of its four
repetition buffers one is always free for the repetition at the head. -/
def execRep (q : Bool) (c : BitVec 3) (a : Reg) (s : State) : Out :=
  withWindow (encV 0#2 q 0x35#6 (0#1 ++ c) a 0#4 0#3 1#8) s fun s0 =>
    if 4 ≤ (cur s0).vq.length then .next (park .vqueue s0)
    else
      withRegs [a] [] s0 fun s1 =>
        let n := min (xr (cur s1) a).toNat 4096
        done s0 4 q (joinQueue (.capturing n) (modTh s1 s1.me fun th => { th with capture := some ⟨c.toNat + 1, [], n⟩ }))

/-- rep.wait (R373). -/
def execRepWait (q : Bool) (d : Reg) (s : State) : Out :=
  withWindow (encV 0#2 q 0x35#6 d 0#4 0#4 0#3 2#8) s fun s0 =>
    if !vectorIdle (cur s0) then unlessFault s0 4 (.next (park .vjoin s0)) else lateResult s0 4 q d (w64 (cur s0).lastRep) s0

/-- vfence (R374). -/
def execVfence (q : Bool) (s : State) : Out :=
  withWindow (encV 0#2 q 0x36#6 0#4 0#4 0#4 0#3 1#8) s fun s0 =>
    if !vectorIdle (cur s0) then unlessFault s0 4 (.next (park .vjoin s0)) else done s0 4 q s0

/-- vbusy (R374). -/
def execVbusy (q : Bool) (d : Reg) (s : State) : Out :=
  withWindow (encV 0#2 q 0x36#6 d 0#4 0#4 0#3 2#8) s fun s0 => lateResult s0 4 q d (if vectorIdle (cur s0) then 0 else 1) s0

/-- The fields of a mask command: mask registers and scalars in the places of R375. -/
def maskArgs (q : Bool) (vd va vb : Reg) : VArgs := ⟨q, vd, va, vb, .q4, false, false, none, none⟩

/-- A mask command (R375). -/
def issueMask (fn : BitVec 8) (op : VOp) (q : Bool) (vd va vb : Reg) (readA readB : Bool) (s : State) : Out :=
  withWindow (encV 0#2 q 0x36#6 vd va vb 0#3 fn) s (issueCommand 4 op (maskArgs q vd va vb) readA readB)

/-- A mask register's number as a register field. -/
def kReg (k : BitVec 2) : Reg := 0#2 ++ k

/-- kand (R375). -/
def execKand (q : Bool) (k j h : BitVec 2) (s : State) : Out := issueMask 0x10#8 .kand q (kReg k) (kReg j) (kReg h) false false s
/-- kor (R375). -/
def execKor (q : Bool) (k j h : BitVec 2) (s : State) : Out := issueMask 0x11#8 .kor q (kReg k) (kReg j) (kReg h) false false s
/-- kxor (R375). -/
def execKxor (q : Bool) (k j h : BitVec 2) (s : State) : Out := issueMask 0x12#8 .kxor q (kReg k) (kReg j) (kReg h) false false s
/-- knot (R375). -/
def execKnot (q : Bool) (k j : BitVec 2) (s : State) : Out := issueMask 0x13#8 .knot q (kReg k) (kReg j) 0 false false s
/-- kset (R375). -/
def execKset (q : Bool) (k : BitVec 2) (a : Reg) (s : State) : Out := issueMask 0x14#8 .kset q (kReg k) a 0 true false s
/-- kins (R375). -/
def execKins (q : Bool) (k : BitVec 2) (a b : Reg) (s : State) : Out := issueMask 0x15#8 .kins q (kReg k) a b true true s
/-- kext (R375). -/
def execKext (q : Bool) (d : Reg) (k : BitVec 2) (b : Reg) (s : State) : Out := issueMask 0x16#8 .kext q d (kReg k) b false true s
/-- kpop (R375). -/
def execKpop (q : Bool) (d : Reg) (k : BitVec 2) (s : State) : Out := issueMask 0x17#8 .kpop q d (kReg k) 0 false false s

/-! ### The vector unit (R353, R355, R372) -/

/-- The commands of a queue entry. -/
def entryCmds (e : VEntry) : List VCmd :=
  match e with
  | .cmd c => [c]
  | .capturing _ => []
  | .rep cs _ _ => cs
  | .ended c _ _ => [c]

/-- The event takes place at the vector unit of a core. -/
def vectorEvent (core : Nat) (e : Instr) : Bool :=
  match e with
  | .vectorCommandExec c => c == core
  | .vectorCommandRetire c => c == core
  | .repSequenceStart c => c == core
  | _ => false

/-- Late results that no command will give any more are not awaited. -/
def dropLate (t : Nat) (seqs : List Nat) (s : State) : State :=
  modTh s t fun th => { th with late := th.late.filter fun l => l.done || !seqs.contains l.seq }

/-- A vector fault: the rest of the command, every later command of the slot and its repetition are discarded, and the trap is recorded
for the command's instruction (R247, R355). -/
def vectorFault (core t : Nat) (c : VCmd) (f : TrapInfo) (s : State) : State :=
  let k := getCore s core
  let gone := (k.vqueue.filter (·.1 == t)).flatMap fun e => entryCmds e.2
  let th := getTh s t
  let rest := k.vqueue.filter (·.1 != t)
  let seqs := (gone ++ th.vq.flatMap (fun e => entryCmds e.2) ++ (match th.capture with | some x => x.cmds | none => [])).map (·.seq)
  let s1 := modTh (modCore s core fun k => { k with vqueue := rest }) t fun th =>
    { th with vq := [], vout := 0, capture := none, lastRep := if c.it = 0 then th.lastRep else c.it - 1 }
  let s2 : State := { s1 with pending := s1.pending.filter (!vectorEvent core ·) ++ rest.map fun e => entryEvent core e.2 }
  feedVector core 64 (refuse t c.pc c.seq f (dropLate t seqs s2))

/-- Runs a command: its effects, then its flags and scalar result, or its fault (R353, R355). -/
def runCommand (t : Nat) (c : VCmd) (s : State) : VFault × FFlags × Option Word × State :=
  match memoryOp t c s with
  | some (f, s1) => (f, fNone, none, s1)
  | none =>
    let (th, f, r) := vectorOp c (getTh s t)
    (none, f, r, setTh s t th)

/-- VECTOR_COMMAND_EXEC: the command at the head of the core's queue is executed; words forwarded to it go on to the next in their queues (R315,
R353). -/
def execVectorCommandExec (core : Nat) (s : State) : Out :=
  match (getCore s core).vqueue with
  | (t, .cmd c) :: _ =>
    let (f, fl, r, s0) := runCommand t c s
    let s1 := passTag (commandTag core) (if s.resv.isEmpty then [] else vecWords s t c) s0
    match f with
    | some x => .next (vectorFault core t c ⟨0x0C, x.1, x.2⟩ s1)
    | none =>
      .next (push (.vectorCommandRetire core) (modCore s1 core fun k => { k with vqueue := (t, .ended c fl r) :: k.vqueue.drop 1 }))
  | _ => .next s

/-- The flags of a retirement reach THST, unless an instruction wrote it in the same cycle: the write stands (R193). -/
def retireFlags (s : State) (fl : BitVec 5) (th : Thread) : Thread := if th.thstAt = s.cycle + 1 then th else orFlags th fl

/-- A repetition's command writes its scalar result in every iteration: what this one gives returns before the last one's (R157, R372). -/
def writeLate (t seq : Nat) (v : Word) (s : State) : State :=
  let now := fun (l : Late) => if l.seq = seq ∧ l.done = false then [{ l with v := v, done := true }, l] else [l]
  push (.lateResultReturn t none) (modTh s t fun th => { th with late := th.late.flatMap now })

/-- VECTOR_COMMAND_RETIRE: the executed command's flags are ORed into THST and its scalar result can return, in every iteration of a repetition (R193,
R353, R372). -/
def execVectorCommandRetire (core : Nat) (s : State) : Out :=
  match (getCore s core).vqueue with
  | (t, .ended c fl r) :: rest =>
    let s1 := modTh (modCore s core fun k => { k with vqueue := rest }) t fun th =>
      countEv 8 1 { retireFlags s fl th with vout := if c.it = 0 then th.vout - 1 else th.vout }
    let s2 := match r with
      | some v => if c.last then resolveLate t c.seq v s1 else writeLate t c.seq v s1
      | none => s1
    .next (feedVector core 64 s2)
  | _ => .next s

/-- REP_SEQUENCE_START: the sequencer issues the next iteration of the repetition at the head of the queue, or the repetition ends
(R372). -/
def execRepSequenceStart (core : Nat) (s : State) : Out :=
  match (getCore s core).vqueue with
  | (t, .rep cmds n i) :: rest =>
    if i < n then
      let run := cmds.map fun c => (t, VEntry.cmd { c with it := i + 1, last := i + 1 == n })
      let s1 := modCore s core fun k => { k with vqueue := run ++ (t, .rep cmds n (i + 1)) :: rest }
      .next (push (.repSequenceStart core) (run.foldl (fun s _ => push (.vectorCommandExec core) s) s1))
    else
      let s1 := modTh (modCore s core fun k => { k with vqueue := rest }) t fun th => { th with vout := th.vout - 1, lastRep := n }
      .next (feedVector core 64 (if n = 0 then dropLate t (cmds.map (·.seq)) s1 else s1))
  | _ => .next s

end Sys2Proof.Machine
end

