-- ==== Sys2Proof/Machine/Matrix.lean ====
section
/-! DEFINITION. Matrix instructions, major 0x38, and the matrix engine of a cluster (R218, R234, R379 to R387); the end of a wait
that a watchdog counts (R150, R253). -/

namespace Sys2Proof.Machine

/-! ### Cell programs (R379, R386) -/

/-- The place of a program slot in a core's slots: each tenant of a rotation set has its own four (R386). -/
def progKey (s : State) (t i : Nat) : Nat :=
  let th := getTh s t
  (rotOf s th.part th.tenant).2 * 4 + i % 4

/-- A program slot of the issuing hart's core. -/
def getProg (s : State) (t i : Nat) : Word := spGet 0 (getCore s (coreOf t)).cellprog (progKey s t i)

/-- Writes a program slot. -/
def setProg (t i : Nat) (v : Word) (s : State) : State :=
  modCore s (coreOf t) fun c => { c with cellprog := spSet 0 c.cellprog (progKey s t i) v }

/-- An operation of a program: OPC, X, Y, Z (R386). -/
structure CellOp where
  opc : Nat
  x   : Nat
  y   : Nat
  z   : Nat
  deriving DecidableEq, Repr

/-- The fields of a 12-bit operation. -/
def CellOp.ofBits (v : Nat) : CellOp := ⟨v / 512 % 8, v / 64 % 8, v / 8 % 8, v % 8⟩

/-- The operation's codes are not reserved, and the fields it does not use are zero (R386). -/
def CellOp.ok (o : CellOp) : Bool :=
  decide (o.opc ≤ 6) && decide (o.x ≤ 5) && (if o.opc = 6 then o.y == 0 else decide (o.y ≤ 5)) && (if o.opc = 3 then decide (o.z ≤ 5) else o.z == 0)

/-- The operations of a program, 0 to NOP. -/
def progOps (w : Word) : List CellOp := (upTo (bits w 62 61 + 1)).map fun n => CellOp.ofBits (w.toNat / 2 ^ (12 * n) % 4096)

/-- mcload accepts the word (R386). -/
def progOk (w : Word) : Bool :=
  bit w 63 && bits w 60 48 == 0 && (progOps w).all CellOp.ok
    && (upTo 4).all fun n => decide (n ≤ bits w 62 61) || w.toNat / 2 ^ (12 * n) % 4096 == 0

/-- mcload (R386). -/
def execMcload (q : Bool) (d b : Reg) (i : BitVec 2) (s : State) : Out :=
  if i = 3 ∧ tl (cur s) = false then illegal (encA 0#2 q 0x38#6 d 0#4 b (0x4#9 ++ i)) s
  else
    withRegs [b] [d] s fun s1 =>
      let w := xr (cur s1) b
      if progOk w then result s 4 q d 0 (setProg s.me i.toNat w s1) else result s 4 q d 1 s1

/-- mcrd (R379). -/
def execMcrd (q : Bool) (d : Reg) (i : BitVec 2) (s : State) : Out :=
  withRegs [] [d] s fun s1 => result s 4 q d (getProg s1 s.me i.toNat) s1

/-- mcclr (R379). -/
def execMcclr (q : Bool) (i : BitVec 2) (s : State) : Out :=
  if i = 3 ∧ tl (cur s) = false then illegal (encA 0#2 q 0x38#6 0#4 0#4 0#4 (0xC#9 ++ i)) s
  else done s 4 q (setProg s.me i.toNat 0 s)

/-! ### mm (R383) -/

/-- Entries of a cluster's engine queue: hart, descriptor address and program copied. -/
def mmQueue (s : State) (cluster : Nat) : List (Nat × Word × Word) := spGet [] s.mmq cluster

/-- mm: the descriptor's address is checked, the program copied, and the operation queued; the thread waits until it ends (R383). -/
def execMm (q : Bool) (d a : Reg) (s : State) : Out :=
  if !(cur s).vwin then illegal (encA 0#2 q 0x38#6 d a 0#4 1#11) s
  else
    withRegs [a] [d] s fun s1 =>
      let p := xr (cur s1) a
      if bits p 5 0 ≠ 0 then exactAt 4 ⟨3, 0, p⟩ s
      else
        withPlace s s1 4 p 192 needRw fun pl =>
          match pl with
          | .mem _ =>
            let prog := getProg s1 s.me (if tl (cur s1) then 3 else (cur s1).mcell.toNat)
            let cl := clusterOf s.me
            unlessFault s 4 (.next (push (.mmEngineRun cl) (park (.matrix d 4 q) { s1 with mmq := spSet [] s1.mmq cl (mmQueue s1 cl ++ [(s.me, p, prog)]) })))
          | _ => exactAt 4 ⟨2, 3, p⟩ s

/-! ### The descriptor (R380 to R382) -/

/-- Word at a byte offset of the descriptor. -/
def Desc.at (d : Desc) (o : Nat) : Word := List.getD d (o / 8) 0

/-- K/32. -/
def Desc.kb (d : Desc) : Nat := bits (Desc.at d 0x10) 39 31
/-- The type code of A, or of B. -/
def Desc.ty (d : Desc) (b : Bool) : Nat := if b then bits (Desc.at d 0x10) 27 25 else bits (Desc.at d 0x10) 30 28
/-- ACC. -/
def Desc.acc (d : Desc) : Bool := bit (Desc.at d 0x10) 24
/-- CPROG. -/
def Desc.cprog (d : Desc) : Bool := bit (Desc.at d 0x10) 23
/-- BCTL of a band. -/
def Desc.band (d : Desc) (g : Nat) : Word := Desc.at d (0x40 + 16 * g)
/-- BARR of a band. -/
def Desc.arrival (d : Desc) (g : Nat) : Word := Desc.at d (0x48 + 16 * g)
/-- The band is enabled. -/
def Desc.enabled (d : Desc) (g : Nat) : Bool := bit (Desc.band d g) 63

/-- The unit of a type: the payload of its records, or 64 bytes (R380). -/
def mmUnit (ty : Nat) : Nat :=
  match ty with
  | 0 => 16
  | 1 => 24
  | 2 => 32
  | 3 => 32
  | _ => 64

/-- The enabled band's row region lies in the core-private part of a core of the partition (R381). -/
def bandOk (s : State) (t : Nat) (w : Word) : Bool :=
  let th := getTh s t
  let core := bits w 41 32
  let o := bits w 31 0
  inPartition s th.part core && o % 512 == 0 && decide (o + 8192 ≤ 4096 * splitOf s (core / 8) / (rotOf s th.part th.tenant).1)

/-- The offset of the first word of a descriptor that R382 refuses; the program is the one copied. -/
def descBad (s : State) (t : Nat) (prog : Word) (d : Desc) : Option Nat :=
  let ctl := Desc.at d 0x10
  let ta := Desc.ty d false
  let tb := Desc.ty d true
  let str := Desc.at d 0x18
  let ctx := (getTh s t).ctx
  let unit := (whoOf s t).unit
  let peer := fun (x : Word) => hdl x != 0xFFFF && (lookupKey s unit ctx (hdl x)).1.peer
  let checks : List (Nat × Bool) :=
    [(0x00, decide (ta < 6) && off (Desc.at d 0) % mmUnit ta != 0), (0x08, decide (tb < 6) && off (Desc.at d 8) % mmUnit tb != 0),
      (0x10, bits ctl 63 40 != 0 || bits ctl 22 0 != 0 || Desc.kb d == 0 || decide (256 < Desc.kb d) || decide (6 ≤ ta) || decide (6 ≤ tb)
        || (decide (ta ≤ 3) != decide (tb ≤ 3)) || (Desc.cprog d && !bit prog 63)),
      (0x18, bits str 31 0 % mmUnit ta != 0 || bits str 63 32 % mmUnit tb != 0), (0x30, Desc.at d 0x30 != 0), (0x38, Desc.at d 0x38 != 0),
      (0x40, (upTo 8).all fun g => !Desc.enabled d g)]
    ++ (upTo 8).flatMap fun g =>
      let w := Desc.band d g
      let en := Desc.enabled d g
      let act := bits w 62 61
      let x := Desc.arrival d g
      [(0x40 + 16 * g, bits w 60 42 != 0 || (en && (act == 3 || !bandOk s t w))),
        (0x48 + 16 * g, en && (act == 1 || act == 2) && (x.toNat % 8 != 0 || peer x))]
  (checks.find? (·.2)).map Prod.fst

/-! ### Operands (R218, R380, R387) -/

/-- 32 elements of one row or column: their scale byte for a block type, their values, and a byte 0x88 among them. -/
structure Block where
  scale : Option Nat
  els   : List FVal
  bad   : Bool
  deriving DecidableEq, Repr

/-- The elements of a record's payload, or of 64 bytes of bf16 or f16 (R207, R210). -/
def mmElems (ty : Nat) (bs : List Byte) : List FVal × Bool :=
  let v := leNum bs
  match ty with
  | 0 =>
    let ps := bs.map fun b => q4Pair b.toNat
    (ps.flatMap fun p => [intVal p.1, intVal p.2.1], ps.any fun p => p.2.2)
  | 1 => ((split 6 32 v).map fmtF6.decode, false)
  | 2 => ((split 8 32 v).map fmtF8.decode, false)
  | 3 => ((split 8 32 v).map fun x => intVal (toS 8 x), false)
  | 4 => ((split 16 32 v).map fmtBf16.decode, false)
  | _ => ((split 16 32 v).map fmtF16.decode, false)

/-- What a fetch of the engine gives, or its fault, and the state after its loads. -/
abbrev Fetch (α : Type) := Except TrapInfo α × State

/-- A fetch after another, which a fault ends. -/
def andThen {α β : Type} (x : Fetch α) (f : α → State → Fetch β) : Fetch β :=
  match x with
  | (.ok a, s) => f a s
  | (.error i, s) => (.error i, s)

/-- Reads bytes for a hart by an ordinary load (R234, R242, R383). -/
def engineLoad (t : Nat) (a : Word) (n : Nat) (s : State) : Fetch (List Byte) :=
  let w := whoOf s t
  if (hostMiss s w.unit w.ctx (hdl a)).isSome then (.error ⟨2, 7, a⟩, s)
  else
    match resolve s w a n needRd with
    | .error i => (.error i, s)
    | .ok (.mem ps) =>
      if (refusedPiece s w.part ps).isSome then (.error ⟨2, 2, offWrap a (Int.ofNat (refusedAt s w.part ps))⟩, s)
      else if (badWord s ps).isSome then (.error ⟨0x0B, 0, a⟩, s)
      else (.ok (loadPieces w.core ps s).1, (loadPieces w.core ps s).2)
    | .ok (.unit node kind o _) => (.ok (unitRead s node kind o n), meet w.core s)
    | .ok _ => (.error ⟨2, 4, a⟩, s)

/-- Reads bytes of A or B; a local address is admitted in the quadrant's scratchpad alone, and for bf16 and f16 (R382). -/
def mmRead (t ty : Nat) (a : Word) (n : Nat) (s : State) : Fetch (List Byte) :=
  let w := whoOf s t
  if hdl a = 0xFFFF ∧ (ty ≤ 3 ∨ localLevel s w.core (rotOf s w.part w.tenant).1 (off a) ≠ 5) then (.error ⟨2, 4, a⟩, s)
  else engineLoad t a n s

/-- The payload window of a type's FMT that a byte's address translates into, and the physical address (R211, R382). -/
def viewAt (s : State) (t ty : Nat) (a : Word) : Option (Window × Nat) :=
  let w := whoOf s t
  let (e, _) := lookupKey s w.unit w.ctx (hdl a)
  match lookupPage s w.unit w.ctx (hdl a) e.ptroot.toNat (off a / 4096) with
  | some (page, _) =>
    let pa := page + off a % 4096
    match payloadWindow s pa with
    | some win => if physEnd ≤ pa ∧ win.fmt = ty then some (win, pa) else none
    | none => none
  | none => none

/-- The payload window that a record at an address begins in, with the record's number; every byte of it lies in a view of the FMT (R380, R382). -/
def mmView (s : State) (t ty : Nat) (a : Word) : Option (Window × Nat) :=
  if (upTo (mmUnit ty)).all fun i => (viewAt s t ty (offWrap a (Int.ofNat i))).isSome then
    (viewAt s t ty a).map fun x => (x.1, (x.2 - x.1.pv) / mmUnit ty)
  else none

/-- A block of 32 elements at an address, with the scale byte of its record (R211, R380). -/
def mmBlock (t ty : Nat) (a : Word) (s : State) : Fetch Block :=
  andThen (mmRead t ty a (mmUnit ty) s) fun bs s1 =>
    let (els, bad) := mmElems ty bs
    if 4 ≤ ty then (.ok ⟨none, els, false⟩, s1)
    else
      match mmView s1 t ty a with
      | some (win, k) =>
        let ps := viewByte s1 (win.sv + k)
        if (badWord s1 ps).isSome then (.error ⟨0x0B, 0, a⟩, s1)
        else
          let (b, s2) := loadPieces (coreOf t) ps s1
          (.ok ⟨some (leNum b), els, bad⟩, s2)
      | none => (.error ⟨2, 4, a⟩, s1)

/-- The n blocks of a row or column from displacement disp of a base on. -/
def mmRun (t ty : Nat) (base : Word) : Nat → Nat → State → Fetch (List Block)
  | 0, _, s => (.ok [], s)
  | n + 1, disp, s =>
    match offAdd base (Int.ofNat disp) with
    | none => (.error ⟨2, 5, Config.carryAddress base (Int.ofNat disp)⟩, s)
    | some a =>
      andThen (mmBlock t ty a s) fun b s1 =>
        andThen (mmRun t ty base n (disp + mmUnit ty) s1) fun bs s2 => (.ok (b :: bs), s2)

/-- The 128 columns of B, from column j on; n are left. -/
def mmColumns (t : Nat) (d : Desc) : Nat → Nat → State → Fetch (List (List Block))
  | 0, _, s => (.ok [], s)
  | n + 1, j, s =>
    andThen (mmRun t (Desc.ty d true) (Desc.at d 8) (Desc.kb d) (j * bits (Desc.at d 0x18) 63 32) s) fun c s1 =>
      andThen (mmColumns t d n (j + 1) s1) fun cs s2 => (.ok (c :: cs), s2)

/-! ### Cells (R218, R387) -/

/-- The exact sum of products of elements that are no NaN, as a scaled integer. -/
def exactDot : List FVal → List FVal → Int × Int
  | .fin s m e :: xs, .fin t n f :: ys =>
    let (v, x) := exactDot xs ys
    alignAdd (signed s m * signed t n) (e + f) v x
  | _ :: xs, _ :: ys => exactDot xs ys
  | _, _ => (0, 0)

/-- An accumulator to which a NaN is added: the canonical NaN, the old value's own flags raised (R205, R218). -/
def addNan (acc : Nat) (f : FFlags) : Nat × FFlags := (fmtF32.nan, f ||| (addF32 0 acc fmtF32.nan).2)

/-- One block of R218 added to an accumulator. -/
def blockStep (acc : Nat) (a b : Block) : Nat × FFlags :=
  match a.scale, b.scale with
  | some sa, some sb =>
    let bad : FFlags := if a.bad || b.bad then fNV else fNone
    match scaleVal sa, scaleVal sb with
    | some (m, e), some (n, f) =>
      if (a.els ++ b.els).any FVal.isNaN then addNan acc bad
      else
        let (v, x) := exactDot a.els b.els
        let (p, fp) := fmtF32.ofExact 0 (v * Int.ofNat (m * n)) (x + e + f) false
        let (r, fr) := addF32 0 acc p
        (r, bad ||| fp ||| fr)
    | _, _ => addNan acc bad
  | _, _ =>
    let ps := List.zipWith (fun x y => fMul fmtF32 0 x y) a.els b.els
    let (t, ft) := pairTree (addF32 0) 6 (ps.map Prod.fst)
    let (r, fr) := addF32 0 acc t
    (r, ps.foldl (fun g p => g ||| p.2) (ft ||| fr))

/-- A cell under R218. -/
def cellSum (acc : Nat) : List Block → List Block → Nat × FFlags
  | a :: as, b :: bs =>
    let (x, f) := blockStep acc a b
    let (r, g) := cellSum x as bs
    (r, f ||| g)
  | _, _ => (acc, fNone)

/-- An element in f32: element × scale for a block type (R387). -/
def progElem (scale : Option Nat) (v : FVal) : Nat × FFlags :=
  match scale with
  | some sc => if v.isNaN then (fmtF32.nan, fNone) else scaled sc v
  | none => fmtF32.ofVal 0 v

/-- One operation of a cell program (R386). -/
def cellOp (a b s r : Nat) (o : CellOp) : Nat × FFlags :=
  let src := fun c => match c with | 0 => a | 1 => b | 2 => s | 3 => r | 4 => 0 | _ => 0x3F800000
  let x := src o.x
  let y := src o.y
  match o.opc with
  | 0 => fAdd fmtF32 0 (v32 x) (v32 y)
  | 1 => fSub fmtF32 0 (v32 x) (v32 y)
  | 2 => fMul fmtF32 0 (v32 x) (v32 y)
  | 3 => fFma fmtF32 0 (v32 x) (v32 y) (v32 (src o.z))
  | 4 => fExtreme fmtF32 true x y
  | 5 => fExtreme fmtF32 false x y
  | _ => fAbs fmtF32 (v32 x)

/-- The program run for one pair of elements: s becomes the last operation's result. -/
def progStep (ops : List CellOp) (s a b : Nat) : Nat × FFlags :=
  ops.foldl (init := (0, fNone)) fun acc o =>
    let (r, f) := cellOp a b s acc.1 o
    (r, acc.2 ||| f)

/-- The program over a block's elements in ascending k. -/
def progBlock (ops : List CellOp) (sa sb : Option Nat) : Nat → List FVal → List FVal → Nat × FFlags
  | s, x :: xs, y :: ys =>
    let (a, fa) := progElem sa x
    let (b, fb) := progElem sb y
    let (r, f) := progStep ops s a b
    let (z, g) := progBlock ops sa sb r xs ys
    (z, fa ||| fb ||| f ||| g)
  | s, _, _ => (s, fNone)

/-- A cell under R387. -/
def cellProg (ops : List CellOp) : Nat → List Block → List Block → Nat × FFlags
  | s, a :: as, b :: bs =>
    let (r, f) := progBlock ops a.scale b.scale s a.els b.els
    let (z, g) := cellProg ops r as bs
    (z, f ||| g ||| (if a.bad || b.bad then fNV else fNone))
  | s, _, _ => (s, fNone)

/-! ### Running an operation (R383 to R385) -/

/-- MMST of an operation (R384). -/
def mmStatus (r : MmRun) (st cause reason : Nat) : Word :=
  w64 (st * 2 ^ 60 + cause % 256 * 2 ^ 52 + reason % 256 * 2 ^ 44 + r.rows % 256 * 2 ^ 16 + r.arr % 256 * 2 ^ 8)

/-- Writes MMST at its home. -/
def writeMmst (r : MmRun) (v : Word) (s : State) : Except TrapInfo State :=
  match agentWrite (whoOf s r.t) (offWrap r.p 0x28) (leList 8 v.toNat) 0 s with
  | .ok s' => .ok s'
  | .error i => .error { i with tval := offWrap r.p 0x28 }


/-- The pieces of row i of band g in its core's private part (R381). -/
def rowPieces (s : State) (r : MmRun) (g i : Nat) : Except TrapInfo (List Piece) :=
  let th := getTh s r.t
  let (rn, ri) := rotOf s th.part th.tenant
  let w := Desc.band r.d g
  let o := bits w 31 0 + 512 * i
  match localRuns s (bits w 41 32) rn ri 513 o 512 with
  | .ok ps => .ok ps
  | .error o' => .error ⟨2, 4, mkAddr 0xFFFF o'⟩

/-- The 128 cells of a row. -/
def rowCells (r : MmRun) (old : List Nat) (a : List Block) : List (List Block) → List Nat × FFlags
  | [] => ([], fNone)
  | b :: bs =>
    let start := if Desc.acc r.d then old.headD 0 else if Desc.cprog r.d then bits (Desc.at r.d 0x20) 31 0 else 0
    let (x, f) := if Desc.cprog r.d then cellProg (progOps r.prog) start a b else cellSum start a b
    let (l, g) := rowCells r (old.drop 1) a bs
    (x :: l, f ||| g)

/-- One row: fetch, compute, write (R383). -/
def mmRow (r : MmRun) (g i : Nat) (s0 : State) : Fetch MmRun :=
  let row := 16 * g + i
  andThen (mmRun r.t (Desc.ty r.d false) (Desc.at r.d 0) (Desc.kb r.d) (row * bits (Desc.at r.d 0x18) 31 0) s0) fun a s1 =>
    andThen (mmColumns r.t r.d 128 0 s1) fun bs s =>
      match rowPieces s r g i with
      | .error x => (.error x, s)
      | .ok ps =>
        if Desc.acc r.d && (badWord s ps).isSome then (.error ⟨0x0B, 0, mkAddr 0xFFFF (bits (Desc.band r.d g) 31 0 + 512 * i)⟩, s)
        else
          let (cells, f) := rowCells r (split 32 128 (leNum (rdPieces s ps))) a bs
          (.ok { r with rows := r.rows + 1, flags := r.flags ||| f }, storePieces (coreOf r.t) ps (bytes32 cells) s)

/-- The row the operation writes next: band and row of the band, enabled bands and rows ascending (R383). -/
def MmRun.next (r : MmRun) : Option (Nat × Nat) :=
  (((upTo 8).filter (Desc.enabled r.d))[r.rows / 16]?).map fun g => (g, r.rows % 16)

/-- The band whose arrival action comes next (R383). -/
def MmRun.arrival (r : MmRun) : Option Nat :=
  (upTo 8).find? fun g => Desc.enabled r.d g && bits (Desc.band r.d g) 62 61 != 0 && !r.arr.testBit g

/-- A band's arrival action at its word (R381). -/
def mmArrive (r : MmRun) (g : Nat) (s : State) : Except TrapInfo State :=
  let w := whoOf s r.t
  let x := Desc.arrival r.d g
  if (hostMiss s w.unit w.ctx (hdl x)).isSome then .error ⟨2, 7, x⟩
  else
  match resolve s w x 8 needRw with
  | .error i => .error { i with tval := x }
  | .ok (.mem ps) =>
    if (refusedPiece s w.part ps).isSome then .error ⟨2, 2, x⟩
    else if bits (Desc.band r.d g) 62 61 = 1 then
      if (badWord s ps).isSome then .error ⟨0x0B, 0, x⟩
      else .ok (storePieces w.core ps (leList 8 ((leNum (rdPieces s ps) + 1) % 2 ^ 64)) s)
    else .ok (storeFe w.core ps (leList 8 (bits (Desc.at r.d 0x20) 63 32)) 1 s)
  | .ok _ => .error ⟨2, 3, x⟩

/-- Cycles the array computes for (R385). -/
def mmCycles (r : MmRun) (duty : Nat) : Nat :=
  let k := 32 * Desc.kb r.d
  let base := if 4 ≤ Desc.ty r.d false then 2 * k else if Desc.ty r.d false = 0 ∧ Desc.ty r.d true = 0 then k / 2 else k
  base * (if Desc.cprog r.d then bits r.prog 62 61 + 1 else 1) * 8 / max 1 duty

/-- The cycles for which an operation has used the array: those of the rows before the one that comes next (R168, R385; log 24). -/
def mmActive (r : MmRun) (duty : Nat) : Nat :=
  match r.next with
  | some (g, i) => if r.rows = 0 then 0 else mmCycles r duty * (16 * g + i) / 128
  | none => mmCycles r duty

/-- The flags of the operation's rows reach THST and its cycles are counted (R168, R383). -/
def mmCount (r : MmRun) (s : State) : State :=
  modTh s r.t fun th => countEv 9 (mmActive r (bits s.pkg.pkst 51 48)) (orFlags th r.flags)

/-- The operation faults: MMST says so, the flags of its rows reach THST, and the mm traps exactly (R254, R383). A refused write of MMST
is the fault instead. -/
def mmFault (r : MmRun) (i : TrapInfo) (s : State) : State :=
  let (i', s1) := match writeMmst r (mmStatus r 3 i.cause i.reason) s with
    | .ok s' => (i, s')
    | .error j => (j, s)
  let s2 := mmCount r s1
  enterTrap r.t i' false 0 false (getTh s2 r.t).pc s2

/-- The operation ends: MMST is final, its flags reach THST, x[d] takes MMST and the thread goes on (R383). -/
def mmEnd (r : MmRun) (s : State) : State :=
  let v := mmStatus r 2 0 0
  match writeMmst r v s with
  | .error i => mmFault r i s
  | .ok s1 =>
    asHart r.t (fun s =>
      match (cur s).wait with
      | .matrix d len q => retire s len q (wr r.t d v (catchUp (coreOf r.t) (mmCount r s)))
      | _ => s) s1

/-- The engine of the hart's cluster runs the operation on: its next event is under way. -/
def mmGoOn (r : MmRun) (s : State) : State :=
  push (.mmEngineRun (clusterOf r.t)) { s with mmrun := spSet none s.mmrun (clusterOf r.t) (some r) }

/-- An operation's next event: the end of a fault, the row it writes next, the next arrival action after the last row, or its end (R254, R383, R237). -/
def mmAdvance (r : MmRun) (s : State) : State :=
  match r.fault, r.next, r.arrival with
  | some x, _, _ => mmFault r x s
  | none, some (g, i), _ =>
    match mmRow r g i s with
    | (.error x, s') => mmGoOn { r with fault := some x } s'
    | (.ok r', s') => mmGoOn r' s'
  | none, none, some g =>
    match mmArrive r g s with
    | .error x => mmGoOn { r with fault := some x } s
    | .ok s' => mmGoOn { r with arr := r.arr + 2 ^ g } s'
  | none, none, none => mmEnd r s

/-- An operation reaches the head of the queue: its descriptor is read and checked, and MMST says that it runs (R382, R383). -/
def mmStart (t : Nat) (p prog : Word) (s : State) : State :=
  let r : MmRun := ⟨t, (getTh s t).uid, p, prog, [], 0, 0, fNone, none⟩
  match engineLoad t p 192 s with
  | (.error i, s1) => mmFault r i s1
  | (.ok bs, s1) =>
    let r := { r with d := (upTo 24).map fun i => wordAt bs (8 * i) }
    match descBad s1 t prog r.d with
    | some o => mmFault r ⟨2, 3, offWrap p (Int.ofNat o)⟩ s1
    | none =>
      match writeMmst r (mmStatus r 1 0 0) s1 with
      | .error i => mmFault r i s1
      | .ok s2 => mmGoOn r s2

/-- The hart waits for a matrix operation. -/
def awaitsMatrix (th : Thread) : Bool :=
  match th.wait with
  | .matrix _ _ _ => true
  | _ => false

/-- The words of memory that bytes at an address of a hart are in. -/
def wordsAt (s : State) (t : Nat) (a : Word) (n : Nat) : List Nat :=
  match resolve s (whoOf s t) a n ⟨false, false, false⟩ with
  | .ok (.mem ps) => wordsOf ps
  | _ => []

/-- The accesses of an operation's run of blocks: each block, and its scale byte (R380). -/
def runWords (s : State) (t ty : Nat) (base : Word) (n disp : Nat) : List Nat :=
  (upTo n).flatMap fun k =>
    let a := offWrap base (Int.ofNat (disp + k * mmUnit ty))
    wordsAt s t a (mmUnit ty) ++ match (if ty ≤ 3 then mmView s t ty a else none) with
      | some (win, j) => wordsOf (viewByte s (win.sv + j))
      | none => []

/-- The words that an operation's next event reaches (R315, R383). -/
def MmRun.words (r : MmRun) (s : State) : List Nat :=
  let status := wordsAt s r.t (offWrap r.p 0x28) 8
  match r.fault, r.next, r.arrival with
  | some _, _, _ => status
  | none, some (g, i), _ =>
    let str := Desc.at r.d 0x18
    runWords s r.t (Desc.ty r.d false) (Desc.at r.d 0) (Desc.kb r.d) ((16 * g + i) * bits str 31 0)
      ++ ((upTo 128).flatMap fun j => runWords s r.t (Desc.ty r.d true) (Desc.at r.d 8) (Desc.kb r.d) (j * bits str 63 32))
      ++ match rowPieces s r g i with | .ok ps => wordsOf ps | .error _ => []
  | none, none, some g => wordsAt s r.t (Desc.arrival r.d g) 8
  | none, none, none => status

/-- The words that a cluster's engine reaches next: those of the operation it has begun, or the descriptor of the one it takes next. -/
def matrixWords (s : State) (cluster : Nat) : List Nat :=
  match spGet none s.mmrun cluster, mmQueue s cluster with
  | some r, _ => r.words s
  | none, (t, p, _) :: _ => wordsAt s t p 192
  | none, [] => []

/-- The hart of the operation at which a cluster's engine is. -/
def engineHart (s : State) (cluster : Nat) : Option Nat :=
  match spGet none s.mmrun cluster with
  | some r => some r.t
  | none => (mmQueue s cluster).head?.map Prod.fst

/-- The word that the engine must wait for: another thread holds it, or others came first (R315). -/
def engineWaits (s : State) (cluster : Nat) : Option Nat :=
  match engineHart s cluster with
  | some t => if s.resv.isEmpty then none else tagBlocked s (getTh s t).uid (engineTag cluster) (matrixWords s cluster)
  | none => none

/-- MM_ENGINE_RUN: the engine runs the operation it has begun one event on, or takes the head of its queue (R383, R385). Rows and arrival
actions are events of their own (R237, R242). -/
def execMmEngineRun (cluster : Nat) (s0 : State) : Out :=
  let s := passTag (engineTag cluster) (if s0.resv.isEmpty then [] else matrixWords s0 cluster) s0
  match spGet none s.mmrun cluster with
  | some r =>
    let s1 : State := { s with mmrun := spSet none s.mmrun cluster none }
    .next (if awaitsMatrix (getTh s r.t) && (getTh s r.t).uid == r.uid then mmAdvance r s1 else s1)
  | none =>
    match mmQueue s cluster with
    | [] => .next s
    | (t, p, prog) :: rest =>
      let s1 : State := { s with mmq := spSet [] s.mmq cluster rest }
      .next (if awaitsMatrix (getTh s t) then mmStart t p prog s1 else s1)

/-! ### The stall watchdog (R150, R253) -/

/-- The first address at which an operation's next event reaches a word (R253). -/
def MmRun.wordAddress (r : MmRun) (s : State) (word : Nat) : Word :=
  let at_ := fun (a : Word) (n : Nat) =>
    match resolve s (whoOf s r.t) a n ⟨false, false, false⟩ with
    | .ok (.mem ps) => if (wordsOf ps).contains word then some (wordAddr a ps word) else none
    | _ => none
  let run := fun (ty : Nat) (base : Word) (disp : Nat) => (upTo (Desc.kb r.d)).findSome? fun k => at_ (offWrap base (Int.ofNat (disp + k * mmUnit ty))) (mmUnit ty)
  let str := Desc.at r.d 0x18
  match r.next, r.arrival with
  | some (g, i), _ =>
    ((run (Desc.ty r.d false) (Desc.at r.d 0) ((16 * g + i) * bits str 31 0)).orElse fun _ =>
      (upTo 128).findSome? fun j => run (Desc.ty r.d true) (Desc.at r.d 8) (j * bits str 63 32)).getD
        (mkAddr 0xFFFF (bits (Desc.band r.d g) 31 0 + 512 * i))
  | none, some g => Desc.arrival r.d g
  | none, none => r.p

/-- An operation of the engine that has waited too long behind a hold ends in the watchdog's trap, exact at the mm: MMST says so unless it is the word held,
or the operation has not begun (R253, R254; log 12). -/
def withdrawEngine (t cluster word : Nat) (s0 : State) : State :=
  let s := modTh s0 t (countEv 0x0C 1)
  let trap := fun (a : Word) (s : State) => enterTrap t ⟨6, 3, a⟩ false 0 false (getTh s t).pc s
  let named := fun (a : Word) (n : Nat) => (match resolve s (whoOf s t) a n ⟨false, false, false⟩ with | .ok (.mem ps) => wordAddr a ps word | _ => a)
  match spGet none s.mmrun cluster, mmQueue s cluster with
  | some r, _ =>
    if (wordsAt s t (offWrap r.p 0x28) 8).contains word then
      trap (offWrap r.p 0x28) (mmCount r { s with mmrun := spSet none s.mmrun cluster none })
    else { s with mmrun := spSet none s.mmrun cluster (some { r with fault := some ⟨6, 3, r.wordAddress s word⟩ }) }
  | none, (_, p, _) :: rest => trap (named p 192) { s with mmq := spSet [] s.mmq cluster rest }
  | none, [] => s

/-- An access on which its thread does not wait is withdrawn with no effect: its trap is a returned one at that access (R247, R253; log 12). -/
def withdrawBehind (t tag word : Nat) (s : State) : State :=
  let count := fun (s : State) => modTh s t (countEv 0x0C 1)
  if 4000000 ≤ tag then withdrawEngine t (tag - 4000000) word (withdrawResv tag s)
  else if 3000000 ≤ tag then
    match (getCore s (tag - 3000000)).vqueue with
    | (_, .cmd c) :: _ => vectorFault (tag - 3000000) t c ⟨6, 3, commandAddress s t c word⟩ (count (withdrawResv tag s))
    | _ => s
  else
    let (core, k) := ((tag - 2000000) / 32, (tag - 2000000) % 32)
    let j := getJ s core k
    refuse t j.pc j.seq ⟨6, 3, entryAddress s core k word⟩ (count (withdrawEntry core k s))

/-- WATCHDOG_EXPIRY: a counted wait has lasted W running cycles. A posted write, vector command or matrix operation behind a
hold is withdrawn and gives its trap; the thread's own wait is cancelled, a late result held for a full queue is discarded, and the thread traps (R150, R186, R253). -/
def execWatchdogExpiry (t : Nat) (s : State) : Out :=
  match (getTh s t).behind.find? fun b => decide (wdogPeriod s t ≤ b.2.2) && (waitsBehind s (getTh s t).uid).contains (b.1, b.2.1) with
  | some (tag, word, _) => .next (withdrawBehind t tag word s)
  | none =>
    match wdogReport s t with
    | none => .next s
    | some (reason, tval) =>
      if wdogCount s t < wdogPeriod s t then .next s
      else .next (watchdogTrap t reason tval (cancelWait t (dropHeld t s)))

end Sys2Proof.Machine
end

