-- ==== Sys2Proof/Machine/Sha3.lean ====
section
/-! DEFINITION. The hash functions of FIPS 202 that R126 and R134 name: Keccak-f[1600], SHA3-512, and the SHAKE functions of FIPS 204. -/

namespace Sys2Proof.Machine

/-- The state of Keccak-f[1600]: lane (x, y) at place x + 5y. -/
abbrev Keccak := List Word

/-- A lane. -/
def lane (k : Keccak) (x y : Nat) : Word := k.getD (x % 5 + 5 * (y % 5)) 0

/-- A state from its lanes. -/
def ofLanes (f : Nat → Nat → Word) : Keccak := (upTo 25).map fun i => f (i % 5) (i / 5)

/-- θ. -/
def keccakTheta (k : Keccak) : Keccak :=
  let c := (upTo 5).map fun x => (upTo 5).foldl (fun w y => w ^^^ lane k x y) 0
  let d := (upTo 5).map fun x => c.getD ((x + 4) % 5) 0 ^^^ (c.getD ((x + 1) % 5) 0).rotateLeft 1
  ofLanes fun x y => lane k x y ^^^ d.getD x 0

/-- The lane that ρ's walk over the lanes other than (0, 0) stands at after t steps: from (1, 0) on, (x, y) is followed by (y, 2x + 3y). -/
def rhoLane : Nat → Nat × Nat
  | 0 => (1, 0)
  | t + 1 => ((rhoLane t).2, (2 * (rhoLane t).1 + 3 * (rhoLane t).2) % 5)

/-- The rotation of lane x + 5y in ρ: the triangular number of its step of the walk; none for lane (0, 0). -/
def rhoTurn (i : Nat) : Nat :=
  match (upTo 24).find? fun t => (rhoLane t).1 + 5 * (rhoLane t).2 == i with
  | some t => (t + 1) * (t + 2) / 2
  | none => 0

/-- ρ and π: lane (x, y) takes lane (x + 3y, x), rotated. -/
def keccakRhoPi (k : Keccak) : Keccak :=
  ofLanes fun x y =>
    let i := (x + 3 * y) % 5 + 5 * x
    (k.getD i 0).rotateLeft (rhoTurn i)

/-- χ. -/
def keccakChi (k : Keccak) : Keccak := ofLanes fun x y => lane k x y ^^^ (~~~lane k (x + 1) y &&& lane k (x + 2) y)

/-- The shift register of ι after t steps, as a polynomial of degree below 8: x to the t modulo x⁸ + x⁶ + x⁵ + x⁴ + 1. -/
def iotaRegister : Nat → Nat
  | 0 => 1
  | t + 1 => let r := 2 * iotaRegister t; if r < 256 then r else r ^^^ 0x171

/-- The constant of ι in a round: its bit 2ʲ − 1 is the constant term of the register after 7 × round + j steps. -/
def iotaWord (round : Nat) : Word :=
  w64 ((upTo 7).foldl (init := 0) fun n j => n + iotaRegister (7 * round + j) % 2 * 2 ^ (2 ^ j - 1))

/-- Keccak-f[1600]. -/
def keccakF (k : Keccak) : Keccak :=
  (upTo 24).foldl (init := k) fun k round =>
    let m := keccakChi (keccakRhoPi (keccakTheta k))
    m.modify 0 fun a => a ^^^ iotaWord round

/-- A block of rate bytes is taken in. -/
def absorbBlock (k : Keccak) (block : List Byte) : Keccak :=
  keccakF ((upTo 25).map fun i => k.getD i 0 ^^^ wordAt block (8 * i))

/-- Blocks of rate bytes are taken in; n bounds them. -/
def absorb (rate : Nat) : Nat → List Byte → Keccak → Keccak
  | 0, _, k => k
  | n + 1, bs, k => if bs.isEmpty then k else absorb rate n (bs.drop rate) (absorbBlock k (bs.take rate))

/-- A message padded to whole blocks: the suffix with the first padding bit, and the last bit of the last byte. -/
def padded (rate : Nat) (suffix : Byte) (m : List Byte) : List Byte :=
  let n := rate - m.length % rate
  if n = 1 then m ++ [suffix ||| 0x80] else m ++ suffix :: List.replicate (n - 2) 0 ++ [0x80]

/-- n blocks of rate bytes are given out. -/
def squeeze (rate : Nat) : Nat → Keccak → List Byte
  | 0, _ => []
  | n + 1, k => (k.flatMap fun w => leList 8 w.toNat).take rate ++ squeeze rate n (keccakF k)

/-- The first n bytes of the sponge's output. -/
def sponge (rate : Nat) (suffix : Byte) (m : List Byte) (n : Nat) : List Byte :=
  let p := padded rate suffix m
  (squeeze rate ((n + rate - 1) / rate) (absorb rate (p.length / rate) p (List.replicate 25 0))).take n

/-- SHA3-512 (R126, R134). -/
def sha3 (m : List Byte) : List Byte := sponge 72 0x06 m 64

/-- SHAKE128: n bytes. -/
def shake128 (m : List Byte) (n : Nat) : List Byte := sponge 168 0x1F m n

/-- SHAKE256: n bytes. -/
def shake256 (m : List Byte) (n : Nat) : List Byte := sponge 136 0x1F m n

end Sys2Proof.Machine
end

