-- ==== Sys2Proof/Machine/MlDsa.lean ====
section
/-! DEFINITION. The verification of an ML-DSA-87 signature (FIPS 204), with the empty context string, which R126 asks for. -/

namespace Sys2Proof.Machine

/-- The modulus q. -/
def dsaQ : Nat := 8380417

/-- A polynomial of 256 coefficients below q, or its transform. -/
abbrev Poly := List Nat

/-- A polynomial from its coefficients. -/
def polyOf (f : Nat → Nat) : Poly := (upTo 256).map f

/-- A number of eight bits, its bits in the other order. -/
def bitRev8 (n : Nat) : Nat := (upTo 8).foldl (fun r i => r + n / 2 ^ i % 2 * 2 ^ (7 - i)) 0

/-- The powers 0 to 511 of the 512th root of unity 1753. -/
def dsaRoots : List Nat := (upTo 511).foldl (fun l _ => l ++ [(l.getLastD 1) * 1753 % dsaQ]) [1]

/-- The transform: entry i is the value at the root's power 2·bitRev8 i + 1. -/
def ntt (roots : List Nat) (p : Poly) : Poly :=
  polyOf fun i => (p.foldl (fun (r : Nat × Nat) c => (r.1 + c * roots.getD ((2 * bitRev8 i + 1) * r.2 % 512) 0, r.2 + 1)) (0, 0)).1 % dsaQ

/-- The inverse transform; 8347681 is the inverse of 256. -/
def invNtt (roots : List Nat) (p : Poly) : Poly :=
  polyOf fun j =>
    (p.foldl (fun (r : Nat × Nat) c => (r.1 + c * roots.getD ((512 - (2 * bitRev8 r.2 + 1) * j % 512) % 512) 0, r.2 + 1)) (0, 0)).1 % dsaQ
      * 8347681 % dsaQ

/-- Products, sums and differences entry by entry. -/
def polyMul (a b : Poly) : Poly := List.zipWith (fun x y => x * y % dsaQ) a b
/-- The sum of two polynomials. -/
def polyAdd (a b : Poly) : Poly := List.zipWith (fun x y => (x + y) % dsaQ) a b
/-- The difference of two polynomials. -/
def polySub (a b : Poly) : Poly := List.zipWith (fun x y => (x + dsaQ - y) % dsaQ) a b

/-- The i-th field of n bits of a byte string, least significant bit first. -/
def fieldAt (bs : List Byte) (n i : Nat) : Nat := leNum ((bs.drop (n * i / 8)).take 4) / 2 ^ (n * i % 8) % 2 ^ n

/-- The public key: its 32-byte seed and the eight polynomials t1, of 10-bit coefficients. -/
def keySeed (pk : List Byte) : List Byte := pk.take 32
/-- Polynomial i of t1. -/
def keyT1 (pk : List Byte) (i : Nat) : Poly := let bs := (pk.drop (32 + 320 * i)).take 320; polyOf (fieldAt bs 10)

/-- Polynomial i of the signature's z, of seven: 20-bit coefficients, each 2^19 less the field. -/
def sigZ (sig : List Byte) (i : Nat) : Poly :=
  let bs := (sig.drop (64 + 640 * i)).take 640
  polyOf fun n => (2 ^ 19 + dsaQ - fieldAt bs 20 n) % dsaQ

/-- The distance of a coefficient from 0 modulo q. -/
def centred (c : Nat) : Nat := min c (dsaQ - c)

/-- The places of the hint's ones in polynomial i: from one limit to the next of the 83 bytes of the hint. -/
def hintPlaces (h : List Byte) (i : Nat) : List Nat :=
  let limit := fun (k : Nat) => if k = 0 then 0 else (h.getD (74 + k) 0).toNat
  ((h.take (limit (i + 1))).drop (limit i)).map (·.toNat)

/-- The hint is well formed: limits that do not fall and do not pass 75, places that rise, zeros after the last. -/
def hintOk (h : List Byte) : Bool :=
  let limit := fun (k : Nat) => if k = 0 then 0 else (h.getD (74 + k) 0).toNat
  let rises := fun (l : List Nat) => (l.zip (l.drop 1)).all fun p => decide (p.1 < p.2)
  ((upTo 8).all fun i => decide (limit i ≤ limit (i + 1)) && decide (limit (i + 1) ≤ 75) && rises (hintPlaces h i))
    && ((h.take 75).drop (limit 8)).all (· == 0)

/-- Coefficients below q among three-byte groups, up to 256. -/
def rejectNtt (bs : List Byte) : Poly :=
  (((upTo (bs.length / 3)).map fun i => leNum ((bs.drop (3 * i)).take 3) % 2 ^ 23).filter (· < dsaQ)).take 256

/-- Entry (r, c) of the matrix, already transformed. The 840 bytes hold 256 coefficients but with a chance below 2^-100; more are taken then. -/
def matrixEntry (seed : List Byte) (r c : Nat) : Poly :=
  let m := seed ++ [BitVec.ofNat 8 c, BitVec.ofNat 8 r]
  let p := rejectNtt (shake128 m 840)
  if p.length = 256 then p else rejectNtt (shake128 m 8400)

/-- The challenge with 60 coefficients 1 or −1: each byte that is at most the next place changes it; the first eight bytes are the signs. -/
def sampleBall (seed : List Byte) : Poly :=
  let bs := shake256 seed 1360
  let signs := leNum (bs.take 8)
  ((bs.drop 8).foldl (init := (List.replicate 256 0, 196)) fun (r : Poly × Nat) b =>
    let (c, i) := r
    let j := b.toNat
    if i < 256 ∧ j ≤ i then ((c.set i (c.getD j 0)).set j (if signs / 2 ^ (i - 196) % 2 = 0 then 1 else dsaQ - 1), i + 1) else r).1

/-- The high part of a coefficient, 0 to 15, with the sign of the rest: twice (q − 1) / 32 is 523776. -/
def decompose (r : Nat) : Nat × Bool :=
  let low := r % 523776
  if low ≤ 261888 then ((if r - low = dsaQ - 1 then 0 else (r - low) / 523776), decide (0 < low) && r - low != dsaQ - 1)
  else ((if r + 523776 - low = dsaQ - 1 then 0 else (r + 523776 - low) / 523776), false)

/-- The high part of a coefficient as a hint corrects it. -/
def useHint (h : Bool) (r : Nat) : Nat :=
  let (high, up) := decompose r
  if !h then high else if up then (high + 1) % 16 else (high + 15) % 16

/-- Eight polynomials of 4-bit coefficients as bytes. -/
def packHigh (p : List Nat) : List Byte := (upTo 128).map fun i => BitVec.ofNat 8 (p.getD (2 * i) 0 + 16 * p.getD (2 * i + 1) 0)

/-- ML-DSA.Verify of ML-DSA-87: 2592 bytes of key, 4627 of signature (R126). DESIGN CHOICE: pure ML-DSA, not HashML-DSA, with an empty context string
(log 77). -/
def mldsaVerify (pk msg sig : List Byte) : Bool :=
  if pk.length ≠ 2592 ∨ sig.length ≠ 4627 then false
  else
    let roots := dsaRoots
    let h := sig.drop 4544
    let z := (upTo 7).map (sigZ sig)
    let mu := shake256 (shake256 pk 64 ++ [0, 0] ++ msg) 64
    let c := ntt roots (sampleBall (sig.take 64))
    let zs := z.map (ntt roots)
    let w := (upTo 8).map fun r =>
      let az := (upTo 7).foldl (fun p k => polyAdd p (polyMul (matrixEntry (keySeed pk) r k) (zs.getD k []))) (List.replicate 256 0)
      let t := ntt roots ((keyT1 pk r).map fun x => x * 8192 % dsaQ)
      let v := invNtt roots (polySub az (polyMul c t))
      let ones := hintPlaces h r
      packHigh ((upTo 256).map fun n => useHint (ones.contains n) (v.getD n 0))
    hintOk h && (z.all fun p => p.all fun x => decide (centred x < 524168)) && shake256 (mu ++ w.flatMap id) 64 == sig.take 64

end Sys2Proof.Machine
end

