-- ==== Sys2Proof/Machine/Power.lean ====
section
/-! DEFINITION. Reset and bring-up, the status register, power, temperature and the schedule of the time-division frame (R10 to R20,
R31, R32, R130). -/

namespace Sys2Proof.Machine

/-! ### Reset (R15) -/

/-- Either reset: everything is as after reset but the image slots with the record of the running one, and what lies outside the machine:
the turns to come, the answers given, the count of free values (R15, R126; log 3). -/
def restart (s : State) : State :=
  { State.reset with
    turns := s.turns, out := s.out, freeCount := s.freeCount
    fw := { Fw.reset with slotImg0 := s.fw.slotImg0, slotImg1 := s.fw.slotImg1, running := s.fw.running, minSec := s.fw.minSec } }

/-- COLD_RESET: power-up or the reset pin starts bring-up at stage 1 (R14, R15). -/
def execColdReset (s : State) : Out := .next (restart s)

/-- The host port has trained: bring-up is past stage 5 (R17). -/
def hostTrained (s : State) : Bool := decide (6 ≤ bits s.pkg.pkst 7 4)

/-- PKST_WARM_RESET: a write of WRST, which the host port takes once it has trained (R17, R19). -/
def execPkstWarmReset (bmi : Bool) (s : State) : Out := .next (if bmi || hostTrained s then restart s else s)

/-- A write of 1 to CAPHIT: a frame boundary that lowers D in the same cycle leaves it set (R20). -/
def clearCaphit (s : State) : State :=
  if s.pkg.capSet = s.cycle + 1 then s else { s with pkg := { s.pkg with pkst := setBit s.pkg.pkst 11 false } }

/-- PKST_CAPHIT_CLEAR (R17, R20). -/
def execPkstCaphitClear (bmi : Bool) (s : State) : Out := .next (if bmi || hostTrained s then clearCaphit s else s)

/-- BMI_READ_PKST: the register, little-endian, as it stands in this cycle (R18, R20). -/
def execBmiReadPkst (s : State) : Out := .next (reply .board 0 s.pkg.pkst (leList 8 s.pkg.pkst.toNat) s)

/-- BMI_WRITE_PKST: a write under the register's map (R18, R19). -/
def execBmiWritePkst (v : Word) (s : State) : Out :=
  .next (if bit v 52 then restart s else if bit v 11 then clearCaphit s else s)

/-- BMI_UNKNOWN_COMMAND: the interface serves 0x10 and 0x11; every other command is not acknowledged and has no effect (R18). -/
def execBmiUnknownCommand (cmd : Byte) (s : State) : Out :=
  let _ := cmd
  .next s

/-! ### Bring-up (R15 to R17) -/

/-- The image of a slot. -/
def imageOf (f : Fw) (slot : Nat) : Sp Byte := if slot = 0 then f.slotImg0 else f.slotImg1

/-- The manifest of a slot. -/
def manifestOf (f : Fw) (slot : Nat) : List Byte := Config.slotPart (imageOf f slot) 0

/-- A slot's manifest is signed with the key whose digest is fused, over its SHA3-512 digest, and every part has the digest the manifest gives
(R126). -/
def slotSigned (f : Fw) (slot : Nat) : Bool :=
  let part := Config.slotPart (imageOf f slot)
  let m := manifestOf f slot
  sha3 (part 6) == Config.fusedKey && mldsaVerify (part 6) (sha3 m) (part 5) && [1, 2, 3, 4].all fun n => sha3 (part n) == Config.manifestDigest m n

/-- The security version of a slot (R126). -/
def slotSecurity (f : Fw) (slot : Nat) : Nat := (Config.manifestSecurity (manifestOf f slot)).toNat

/-- A slot passes the boot check: signature, digests, and the fused minimum security version (R126). -/
def slotGood (f : Fw) (slot : Nat) : Bool := slotSigned f slot && decide (f.minSec ≤ slotSecurity f slot)

/-- The slot that boots: the one last recorded as running, else the other (R126). -/
def bootSlot (f : Fw) : Option Nat :=
  if slotGood f f.running then some f.running else if slotGood f (1 - f.running) then some (1 - f.running) else none

/-- The cap in force: the lowest of CAPW, the board's cap and 3,200 W, and at least 1,000 W (R13, R130). -/
def capInForce (s : State) : Nat := max 1000 (min (min s.pkg.capw (Config.boardCap (Config.slotPart (imageOf s.fw s.fw.running) 4))) 3200)

/-- The FAIL ball follows PKST.FAIL (R18). -/
def failBall (s : State) : Bool := bit s.pkg.pkst 9

/-- Bring-up stops with a code (R15). -/
def stageFail (code : Nat) (s : State) : State :=
  { s with pkg := { s.pkg with pkst := setBits (setBit s.pkg.pkst 9 true) 3 0 code } }

/-- STAGE changes. -/
def setStage (n : Nat) (s : State) : State := { s with pkg := { s.pkg with pkst := setBits s.pkg.pkst 7 4 n } }

/-- A port trains with its lanes at a generation (R15, R65). -/
def trainPort (p lanes gen : Nat) (s : State) : State :=
  { s with ports := spSet Port.reset s.ports p ⟨true, gen, lanes, lanes, false, false, []⟩ }

/-- The boot check of stage 2 passes with a slot (R13, R69, R126). -/
def bootWith (slot : Nat) (s : State) : State :=
  let s1 : State := { s with fw := { s.fw with running := slot }, pkg := { s.pkg with pkst := setBits s.pkg.pkst 12 12 slot } }
  { s1 with pkg := { s1.pkg with pod := (Config.podNumber (imageOf s.fw slot)).toNat, cap := capInForce s1 } }

/-- Stage 6: the peer ports whose bits are set train, with PEEROK, at the generation each negotiates, 2 where bit 32 + n is set and else 3, and the
media ports of bits 16 and 17. The words of a media port node the spec does not lay out: its report of a link that stays down is the port's
own state (R15, R16, R65; log 63). -/
def trainPorts (mask : Word) (s : State) : State :=
  let s1 := (upTo 18).foldl (init := s) fun s n =>
    if bit mask n then (if n < 16 then trainPort n 8 (if bit mask (32 + n) then 2 else 3) s else trainPort (n + 1) 0 3 s) else s
  { s1 with pkg := { s1.pkg with pkst := setBits s1.pkg.pkst 31 16 (bits mask 15 0) } }

/-- The device's own nodes, of kind 15, which the spec describes and gives no kind: the node table and the two media ports, with their names in the
system context's root (R16, R72, R89; log 63). -/
def deviceNodes : List (Nat × Node × List Byte) :=
  let node := fun (arg limit : Nat) => { Node.none with v := true, kind := 15, gen := 1, limit := limit, arg := arg }
  [(3, node 0 (2 ^ 37), [0x6E, 0x6F, 0x64, 0x65, 0x73]), (4, node 1 0x40, [0x6D, 0x65, 0x64, 0x69, 0x61, 0x30]),
    (5, node 2 0x40, [0x6D, 0x65, 0x64, 0x69, 0x61, 0x31])]

/-- Stage 7: the policy core runs, and the root of the name tree is built: the contexts the device makes, 0 of the system and 0xFFFF of the key
core, each with a private root, the key core's empty and the system's with the device's own nodes (R15, R100; logs 6 and 63). -/
def startPolicy (s : State) : State :=
  { s with
    pkg := { s.pkg with pkst := setBit s.pkg.pkst 8 true }
    ctxs := spSet Ctx.none (spSet Ctx.none s.ctxs 0 { Ctx.none with live := true, root := 1 }) 0xFFFF { Ctx.none with live := true, root := 2 }
    nodes := deviceNodes.foldl (fun m d => spSet Node.none m d.1 d.2.1) (spSet Node.none (spSet Node.none s.nodes 1 (Node.root 0)) 2 (Node.root 0xFFFF))
    binds := spSet [] s.binds 1 (deviceNodes.map fun d => ⟨d.2.2, d.1, 3⟩) }

/-- BRINGUP_STAGE_DONE: the stage in progress ends, well or with its failure code. The mask tells the stacks that trained in stage 3,
the generation in bits 1 and 0 at stage 5 (2, or else 3), and the ports at stage 6 (R15, R16). -/
def execBringupStageDone (ok : Bool) (mask : Word) (s : State) : Out :=
  let n := bits s.pkg.pkst 7 4
  if bit s.pkg.pkst 9 ∨ n = 0 ∨ 8 ≤ n then .next s
  else if n = 2 then
    match bootSlot s.fw with
    | some slot => .next (setStage 3 (bootWith slot s))
    | none => .next (stageFail 2 s)
  else if n = 6 then .next (setStage 7 (trainPorts mask s))
  else if n = 3 ∧ (ok = false ∨ bits mask 15 0 ≠ 0xFFFF) then
    .next (stageFail 3 { s with pkg := { s.pkg with pkst := setBits s.pkg.pkst 47 32 (bits mask 15 0) } })
  else if !ok then .next (stageFail n s)
  else
    match n with
    | 1 => .next (setStage 2 { s with cycle := 0, issued := [], pkg := { s.pkg with stage1 := true } })
    | 3 =>
      .next (setStage 4 { s with
        pkg := { s.pkg with pkst := setBits s.pkg.pkst 47 32 0xFFFF }
        mem := s.mem.filter fun c => decide (2 ^ 50 ≤ c.1), fe := s.fe.filter fun c => decide (2 ^ 47 ≤ c.1) })
    | 4 =>
      .next (setStage 5 { s with
        mem := s.mem.filter fun c => decide (c.1 < 2 ^ 50), fe := s.fe.filter fun c => decide (c.1 < 2 ^ 47), threads := [], cores := [] })
    | 5 => .next (setStage 6 (trainPort 16 16 (if bits mask 1 0 = 2 then 2 else 3) s))
    | _ => .next (setStage 8 (startPolicy s))

/-! ### Power and temperature (R13, R14, R130) -/

/-- The duty D (R13). -/
def dutyOf (s : State) : Nat := bits s.pkg.pkst 51 48

/-- Next D from the trip, the present D, the estimate, the cap, and the run of frames below 95% of the cap, this one counted (R13). -/
def nextDuty (trip : Bool) (d est cap run : Nat) : Nat :=
  if trip then 1 else if cap < est then max 1 (d - 1) else if 16 ≤ run then min 8 (d + 1) else d

/-- The caps written take one boundary less; one that is due is the cap from this boundary on (R130). -/
def stepCaps : List (Nat × Nat) → Nat → List (Nat × Nat) × Nat
  | [], cap => ([], cap)
  | (w, n) :: r, cap => if n ≤ 1 then stepCaps r w else let (l, c) := stepCaps r cap; ((w, n - 1) :: l, c)

/-- The power controller's part of a frame boundary; each of the 16 frames is held against the cap in force at its own boundary, where the spec
does not say (R13, R20; log 55). -/
def powerFrame (s : State) : State :=
  let p := s.pkg
  let (left, cap) := stepCaps p.capNext p.cap
  let est := Config.powerEstimate p.activity
  let run := if 100 * est < 95 * cap then min 16 (p.below95 + 1) else 0
  let d := dutyOf s
  let d' := nextDuty (bit p.pkst 10) d est cap run
  let hit := decide (d' < 8) && decide (8 ≤ d)
  let pkst := setBits p.pkst 51 48 d'
  { s with pkg := { p with
      capNext := left, cap := cap, activity := p.activity + 1, below95 := run
      pkst := if hit then setBit pkst 11 true else pkst
      capSet := if hit then s.cycle + 1 else p.capSet } }

/-- The schedule's part: a table that waits is taken with its mode, and SWAP clears (R32). -/
def scheduleFrame (s : State) : State :=
  let p := s.pkg
  if bit p.tdctl 0 then
    { s with pkg := { p with tdsNow := p.tds, tdctl := setBit (setBit p.tdctl 0 false) 2 (bit p.tdctl 1) } }
  else s

/-- The next frame boundary has come: frames of 2,048 cycles are counted from the end of bring-up stage 1 (R13). -/
def frameDue (s : State) : Bool := s.pkg.stage1 && decide ((s.pkg.activity + 1) * 2048 ≤ s.cycle)

/-- FRAME_BOUNDARY (R13, R32). -/
def execFrameBoundary (s : State) : Out := .next (if frameDue s then scheduleFrame (powerFrame s) else s)

/-- A sensor's reading is known. The spec does not say how many sensors a die has: one reading, the highest, stands for a die's (R14; log 55). -/
def setTemp (die temp : Nat) (s : State) : State :=
  { s with pkg := if die = 0 then { s.pkg with temp0 := temp } else { s.pkg with temp1 := temp } }

/-- A reading: 115 °C removes power, 105 °C starts a trip, and a trip ends when every sensor reads below 95 °C (R14). -/
def reading (s : State) : State :=
  let hot := max s.pkg.temp0 s.pkg.temp1
  if 115 ≤ hot then { s with pkg := { s.pkg with powered := false } }
  else if 105 ≤ hot then { s with pkg := { s.pkg with pkst := setBit s.pkg.pkst 10 true } }
  else if hot < 95 then { s with pkg := { s.pkg with pkst := setBit s.pkg.pkst 10 false } }
  else s

/-- THERMAL_TRIP (R14). -/
def execThermalTrip (die temp : Nat) (s : State) : Out := .next (reading (setTemp die temp s))

/-- THERMAL_TRIP_END (R14). -/
def execThermalTripEnd (temp0 temp1 : Nat) (s : State) : Out := .next (reading (setTemp 1 temp1 (setTemp 0 temp0 s)))

/-- THERMAL_SHUTDOWN: power is removed; the next power-up is a cold reset (R14). -/
def execThermalShutdown (die temp : Nat) (s : State) : Out := .next (reading (setTemp die temp s))

/-- The cap now in force by CAPW and the board applies from the second frame boundary on (R130). -/
def applyCap (s : State) : State := { s with pkg := { s.pkg with capNext := s.pkg.capNext ++ [(capInForce s, 2)] } }

/-- CAPW is written (R130). -/
def setCap (v : Word) (s : State) : State := applyCap { s with pkg := { s.pkg with capw := bits v 11 0 } }

/-- PWRCAP_WRITE: the physical function writes CAPW (R17, R130). -/
def execPwrcapWrite (fn : HostFn) (v : Word) (s : State) : Out :=
  if fn ≠ .pf then .next s
  else if !ready s then .next (reply fn 1 0 [] s)
  else .next (setCap v s)

/-! ### The schedule (R31, R32) -/

/-- A slot entry of the shadow table (R31). -/
def slotEntry (s : State) (n : Nat) : Nat := bits (spGet 0 s.pkg.tds (n / 8)) (8 * (n % 8) + 7) (8 * (n % 8))

/-- The key core refuses the table: an owner above 19, or no free slot (R32). -/
def tableRefused (s : State) : Bool :=
  (upTo 64).any (fun n => decide (128 ≤ slotEntry s n) && decide (19 < slotEntry s n % 32)) || (upTo 64).all fun n => decide (128 ≤ slotEntry s n)

/-- SWAP is set: the shadow table waits for the next frame boundary, unless the key core refuses it (R32). -/
def swapTable (s : State) : State :=
  if tableRefused s then s else { s with pkg := { s.pkg with tdctl := setBit s.pkg.tdctl 0 true } }

/-- TDCTL_SWAP (R32). -/
def execTdctlSwap (s : State) : Out := .next (swapTable s)

end Sys2Proof.Machine
end

