-- ==== Sys2Proof/Machine/Tumbler.lean ====
section
/-! DEFINITION. Graph queues and their tumblers: fetch, release, dispatch and completion of nodes, and queue gangs (R105 to R120,
R211, R212, R215). -/

namespace Sys2Proof.Machine

/-! ### Status words (R113) -/

/-- A node's key. -/
def nodeAt (q slot : Nat) : Nat := q * 65536 + slot

/-- A node fetched and not ended. -/
def getG (s : State) (q slot : Nat) : GNode := spGet GNode.none s.gnodes (nodeAt q slot)

/-- Replaces a node. -/
def setG (q slot : Nat) (g : GNode) (s : State) : State := { s with gnodes := spSet GNode.none s.gnodes (nodeAt q slot) g }

/-- A status word's runs. -/
def statusPieces (s : State) (q slot : Nat) : Except TrapInfo (List Piece) := ringPieces s (getQueue s q) (128 * slot + 16) 8 needRw

/-- A status word; 0 where its ring cannot be reached. -/
def readStatus (s : State) (q slot : Nat) : Word :=
  match statusPieces s q slot with
  | .ok ps => w64 (leNum (rdPieces s ps))
  | .error _ => 0

/-- Writes a status word; fe as in storeFe. -/
def writeStatus (q slot : Nat) (v : Word) (fe : Nat) (s : State) : State :=
  match statusPieces s q slot with
  | .ok ps => storeFe 2000 ps (leList 8 v.toNat) fe s
  | .error _ => s

/-- A status word with a STATE. -/
def withState (v : Word) (n : Nat) : Word := setBits v 63 60 n

/-- ORIGQ and ORIGSLOT of a queue's slot. -/
def origOf (q slot : Nat) : Nat := q % 8192 * 65536 + slot % 65536

/-- The status word at a node's end: RELEASED and PFAIL stay; ORIG is the node's own but under PREDFAIL, which keeps the first faulted
predecessor's (R113, R115). -/
def endStatus (v : Word) (q slot code detail : Nat) : Word :=
  let orig := if code = 0 ∨ code = 0x0B then bits v 28 0 else origOf q slot
  w64 ((if code = 0 then 4 else 5) * 2 ^ 60 + code * 2 ^ 52 + bits v 51 39 * 2 ^ 39 + detail % 1024 * 2 ^ 29 + orig)

/-! ### Records (R107 to R112) -/

/-- CRC-16 with polynomial 0x1021, one byte, most significant bit first (R109). -/
def crcByte (c : BitVec 16) (b : Byte) : BitVec 16 :=
  (upTo 8).foldl (init := c ^^^ (b.setWidth 16 <<< 8)) fun c _ => if c.getLsbD 15 then (c <<< 1) ^^^ 0x1021 else c <<< 1

/-- CHK of a head slot (R109). -/
def checkCode (bs : List Byte) : BitVec 16 :=
  let ver := (bs.getD 1 0).toNat % 16
  (bs.take 14 ++ (bs.drop 24).take 24 ++ (if ver = 2 then (bs.drop 48).take 16 else [])).foldl crcByte 0xFFFF

/-- The header as two words (R108). -/
def recordHeader (bs : List Byte) : Word × Word := (wordAt bs 0, wordAt bs 8)

/-- CONT of a head slot. -/
def contOf (bs : List Byte) : Nat := (bs.getD 8 0).toNat % 16

/-- The fields of a record's bytes (R107, R108). -/
def decodeRecord (bs : List Byte) : Record :=
  let (h, _) := recordHeader bs
  let ver := bits h 11 8
  { kind := bits h 7 0, ver := ver, npred := bits h 23 12, nsucc := bits h 27 24, flags := bits h 39 28, cont := contOf bs
    succ := (upTo 6).map fun i => leNum ((bs.drop (24 + 4 * i)).take 4)
    doneA := if ver = 2 then wordAt bs 48 else 0, doneV := if ver = 2 then wordAt bs 56 else 0
    body := bs.drop (if ver = 2 then 64 else 48) }

/-- RUNANY. -/
def Record.runany (r : Record) : Bool := r.flags % 2 == 1
/-- DONEFILL. -/
def Record.doneFill (r : Record) : Bool := r.flags / 2 % 2 == 1
/-- DONEADD. -/
def Record.doneAdd (r : Record) : Bool := r.flags / 4 % 2 == 1

/-- The bytes a kind's body needs; none for an unknown kind (R111). -/
def bodyNeed (r : Record) : Option Nat :=
  match r.kind with
  | 1 => some 72 | 2 => some 48 | 3 => some 24 | 4 => some 24 | 5 => some 0 | 6 => some 16
  | 7 => some (8 + 32 * bits (wordAt r.body 0) 5 0)
  | 8 => some 72
  | _ => none

/-- A reserved code or a nonzero reserved bit stands in the body (R111, R112). -/
def bodyReserved (r : Record) : Bool :=
  let w := fun i => wordAt r.body i
  match r.kind with
  | 1 =>
    let l := w 8
    bits l 63 48 != 0 || decide (2 ≤ bits l 47 46) || decide (5 ≤ bits l 37 35) || bits l 33 32 == 3
      || (if bits l 47 46 = 0 then bits (w 16) 63 29 != 0 else bits (w 16) 63 13 != 0)
      || (bits l 33 32 != 2 && (w 56 != 0 || w 64 != 0))
  | 2 => off (w 0) != 0
  | 3 => bits (w 16) 63 2 != 0 || bits (w 16) 1 0 == 3
  | 4 => bits (w 16) 31 2 != 0 || decide (2 ≤ bits (w 16) 1 0)
  | 6 => off (w 0) != 0
  | 7 =>
    let n := bits (w 0) 5 0
    bits (w 0) 63 6 != 0 || n == 0 || decide (32 < n)
      || (upTo n).any fun i =>
        let x := w (8 + 32 * i)
        bits x 39 37 != 0 || decide (4 ≤ bits x 47 40) || bits x 63 48 != 0 || w (16 + 32 * i) != 0
          || (bits x 47 40 == 3 && bits x 36 16 != 0)
  | 8 => bits (w 0) 63 4 != 0
  | _ => false

/-- A successor reference: queue, slot, edge kind (R110). -/
def refOf (v : Nat) : Nat × Nat × Nat := (v / 2 ^ 19, v / 8 % 65536, v % 8)

/-- The reference is valid from a queue (R110). -/
def refValid (s : State) (q v : Nat) : Bool :=
  let (t, slot, kind) := refOf v
  let x := getQueue s t
  x.v && x.graph && x.gang == (getQueue s q).gang && decide (slot < x.slots) && decide (kind ≤ 1)

/-- The first check of R115 that fails, in table order, on the record at a slot; bad says that a slot's data are uncorrectable. -/
def recordFault (s : State) (q slot : Nat) (bs : List Byte) (bad : Bool) : Option Nat :=
  let x := getQueue s q
  let (h, g) := recordHeader bs
  let r := decodeRecord bs
  if bad then some 0x01
  else if BitVec.ofNat 16 (bits g 63 48) ≠ checkCode bs then some 0x02
  else if r.ver < 1 ∨ 2 < r.ver ∨ x.accept / r.ver % 2 = 0 then some 0x03
  else if bits h 55 40 ≠ x.owner ∨ bits h 63 56 ≠ (getCtx s x.owner).tenant then some 0x04
  else
    match bodyNeed r with
    | none => some 0x05
    | some need =>
      if r.kind = 8 ∧ x.owner ≠ 0xFFFF then some 0x06
      else if bits g 47 4 ≠ 0 ∨ 8 ≤ r.flags ∨ (r.ver = 1 ∧ 2 ≤ r.flags) ∨ (r.doneFill && r.doneAdd) = true ∨ 6 < r.nsucc
          ∨ ((r.succ.drop r.nsucc).any (· != 0)) = true ∨ (2 > r.flags ∧ (r.doneA ≠ 0 ∨ r.doneV ≠ 0)) ∨ bodyReserved r = true then some 0x07
      else if x.slots ≤ slot + r.cont then some 0x08
      else if r.body.length < need then some 0x09
      else if ((r.succ.take r.nsucc).all (refValid s q)) = false then some 0x0A
      else none

/-! ### Releases (R114, R116, R117) -/

/-- Releases the valid successors of a list, in reference order: the releases with one origin reach their homes in the order sent (log 1). -/
def releaseAll (q : Nat) (refs : List Nat) (faulted : Bool) (orig : Nat) (s : State) : State :=
  (refs.filter (refValid s q)).foldl (init := s) fun s v =>
    let (t, slot, kind) := refOf v
    push (.nodeRelease t slot (kind == 1) faulted (orig / 65536) (orig % 65536)) s

/-- A node becomes ready: it is dispatched in its turn, or waits until its queue gang is mapped (R114, R119). -/
def makeReady (q slot : Nat) (s : State) : State :=
  let s1 := writeStatus q slot (withState (readStatus s q slot) 2) 0 s
  let s2 := setG q slot { getG s q slot with phase := 2 } (modQueue s1 q fun x => { x with ready := x.ready ++ [slot] })
  if (getQueue s q).resident then push (.nodeDispatch q) s2 else queueWake q s2

/-! ### Accesses of a node's work (R111, R117) -/

/-- Adds v to a word as the owner's access; the address must be aligned. -/
def agentAdd (w : Who) (a v : Word) (s : State) : Except TrapInfo State :=
  if agentLate s w a then .error ⟨2, 7, a⟩
  else
  match resolve s w a 8 needRw with
  | .error i => .error i
  | .ok (.mem ps) =>
    if (refusedPiece s w.part ps).isSome then .error ⟨2, 2, a⟩
    else if (badWord s ps).isSome then .error ⟨0x0B, 0, a⟩
    else .ok (storeFe w.core ps (leList 8 (w64 (leNum (rdPieces s ps)) + v).toNat) 0 s)
  | .ok _ => .error ⟨2, 3, a⟩

/-- A fill record's access, or a completion action: 0 store and set full, 1 atomic add, 2 store leaving the bit; none where it faults
(R111). -/
def tumblerWrite (s : State) (owner action : Nat) (a v : Word) : Option State :=
  let w := whoCtx s owner
  if hdl a = 0xFFFF ∨ (action ≠ 2 ∧ a.toNat % 8 ≠ 0) then none
  else
    match (if action = 1 then agentAdd w a v s else agentWrite w a (leList 8 v.toNat) (if action = 0 then 1 else 0) s) with
    | .ok s' => some s'
    | .error _ => none

/-- A fill that only stores, through a peer handle: the store goes on to the package, and its answer ends the node; none where the target is no
peer's (R86, R95, R111). -/
def fillAway (q slot : Nat) (a v : Word) (s : State) : Option State :=
  let owner := (getQueue s q).owner
  let w := whoCtx s owner
  match resolve s w a 8 needWr with
  | .ok (.peer k) =>
    match portRefusal s w.ctx w.part k.pkg k.port with
    | some _ => some (push (.nodeComplete q slot ⟨0x0E, 0⟩) s)
    | none =>
      let g := tagOf s k w.part owner
      some (sendPeer g 17 (remoteAddr k a) (leList 8 v.toNat) { s with forwards := s.forwards ++ [⟨.node q slot, owner, 17, g, 0, a, k.node⟩] })
  | _ => none

/-! ### The end of a node (R115 to R117) -/

/-- A completion of this node. -/
def completes (q slot : Nat) (e : Instr) : Bool :=
  match e with
  | .nodeComplete a b _ => a == q && b == slot
  | _ => false

/-- Offers a core's free slots to what waits there. -/
def offerSlots (s : State) (core : Nat) : State :=
  let c := getCore s core
  if c.launches.isEmpty && c.arrivals.isEmpty && c.restored.isEmpty then s
  else ((upTo 16).filter (freeSlot s core)).foldl (init := s) fun s n => pushOnce (.slotFree core n) s

/-- A core forgets a launch, and the segment it pinned for it (R142, R171). -/
def CoreSt.forget (l : Nat) (k : CoreSt) : CoreSt :=
  let k1 := { k with launches := k.launches.filter (· != l) }
  match k.segment with
  | some (m, _, _) => if m = l then { k1 with segment := none, segBytes := [] } else k1
  | none => k1

/-- A launch ends: its number is free, its cores forget it, and the free slots that a travelling launch kept are offered (R140, R142, R170, R171). -/
def endLaunch (l : Nat) (s : State) : State :=
  let homes := ((getLaunch s l).segs.flatMap fun g => g.drop 6).eraseDups
  homes.foldl offerSlots ((spKeys s.cores).foldl (init := { s with launches := spErase l s.launches }) fun s c => modCore s c (CoreSt.forget l))

/-- A node ends: completion action, status word set full, successors (R117). A failed action makes a done node EXEC. -/
def endNode (q slot code detail : Nat) (s : State) : State :=
  let x := getQueue s q
  let g := getG s q slot
  let r := g.rec_
  let acted := if r.doneFill then tumblerWrite s x.owner 0 r.doneA r.doneV
    else if r.doneAdd then tumblerWrite s x.owner 1 r.doneA r.doneV else some s
  let (s1, code) := match acted with
    | some s' => (s', code)
    | none => (s, if code = 0 then 0x0E else code)
  let v := endStatus (readStatus s1 q slot) q slot code detail
  let s2 := writeStatus q slot v 1 s1
  let s3 := releaseAll q (r.succ.take r.nsucc) (code != 0) (if code = 0 then origOf q slot else bits v 28 0) s2
  let s4 : State := { setG q slot GNode.none s3 with pending := s3.pending.filter fun e => !completes q slot e }
  let s5 := if r.kind = 1 ∧ g.phase = 3 ∧ g.launch ≠ 0 then endLaunch g.launch s4 else s4
  pushOnce (.recordFetch q) (modQueue s5 q fun x => { x with ready := x.ready.filter (· != slot) })

/-- A running node's work ends: with EXCESS where releases have passed NPRED meanwhile (R114). -/
def endWork (q slot : Nat) (out : NodeEnd) (s : State) : State :=
  if (getG s q slot).excess && out.code == 0 then endNode q slot 0x0C 0 s else endNode q slot out.code out.detail s

/-- A launch node's work ends with its launch (R117). -/
def workOver (s : State) (g : GNode) : Bool := g.phase == 3 && (g.rec_.kind != 1 || !(getLaunch s g.launch).v || launchEnds s g.launch)

/-- NODE_COMPLETE (R117). -/
def execNodeComplete (queue slot : Nat) (out : NodeEnd) (s : State) : Out :=
  .next (if workOver s (getG s queue slot) then endWork queue slot out s else s)

/-! ### Fetch (R114 to R116) -/

/-- The bytes of a record that lie in the ring from a slot on, and whether they are uncorrectable; none where the ring cannot be read. -/
def recordAt (s : State) (q slot : Nat) : Option (List Byte × Bool) :=
  let x := getQueue s q
  match ringPieces s x (128 * slot) 128 needRd with
  | .error _ => none
  | .ok ps =>
    let n := min (1 + contOf (rdPieces s ps)) (x.slots - slot)
    match ringPieces s x (128 * slot) (128 * n) needRd with
    | .ok ps => some (rdPieces s ps, (badWord s ps).isSome)
    | .error _ => none

/-- The tumbler holds fetches during a live update (R133). -/
def fetchHeld (s : State) : Bool := bit s.fw.updst 0

/-- The queue's tumbler may fetch at HEAD: 1 + CONT slots are posted, and the head slot is not a live vertex (R114). -/
def fetchable (s : State) (q : Nat) : Bool :=
  let x := getQueue s q
  x.v && x.graph && x.resident && !x.stopped && !fetchHeld s
    && (match recordAt s q x.head with
      | some (bs, _) => decide (1 + contOf bs ≤ posted x) && !(decide (1 ≤ bits (wordAt bs 16) 63 60) && decide (bits (wordAt bs 16) 63 60 ≤ 3))
      | none => false)

/-- It is this queue's turn among the resident queues of its tumbler that can fetch: the first after the slot of the last fetch (R114). -/
def fetchTurn (s : State) (q : Nat) : Bool :=
  let t := (getQueue s q).tumbler / 64
  let after := fun (x : GQueue) => (x.tumbler % 64 + 64 - spGet 0 s.fetched t) % 64
  s.queues.all fun e => !(e.2.resident && e.2.tumbler / 64 == t && decide (after e.2 < after (getQueue s q)) && fetchable s e.1
    && s.pending.contains (.recordFetch e.1))

/-- HEAD advances, and the next fetch is under way. -/
def advance (q n : Nat) (s : State) : State :=
  pushOnce (.recordFetch q) (modQueue s q fun x => { x with head := (x.head + n) % x.slots })

/-- A fault found at fetch (R116). -/
def fetchFault (q slot code : Nat) (bs : List Byte) (s : State) : State :=
  let x := getQueue s q
  let r := decodeRecord bs
  let v := endStatus (readStatus s q slot) q slot code 0
  let s1 := writeStatus q slot v 1 s
  let s2 := if 3 ≤ code then releaseAll q (r.succ.take r.nsucc) true (origOf q slot) s1 else s1
  let s3 := advance q (if 3 ≤ code ∧ slot + r.cont < x.slots then 1 + r.cont else 1) s2
  if x.skip then s3 else modQueue s3 q fun x => { x with stopped := true }

/-- RECORD_FETCH (R114 to R116). -/
def execRecordFetch (queue : Nat) (s0 : State) : Out :=
  let x := getQueue s0 queue
  let slot := x.head
  let s : State := { s0 with fetched := spSet 0 s0.fetched (x.tumbler / 64) (x.tumbler % 64 + 1) }
  if !fetchable s0 queue then .next s0
  else
    match recordAt s queue slot with
    | none => .next s0
    | some (bs, bad) =>
      match recordFault s queue slot bs bad with
      | some code => .next (fetchFault queue slot code bs s)
      | none =>
        let r := decodeRecord bs
        let v := readStatus s queue slot
        let s1 := writeStatus queue slot (withState v 1) 2 s
        let s2 := advance queue (1 + r.cont) (setG queue slot ⟨r, 1, s.cycle, 0, false⟩ s1)
        let rel := bits v 51 40
        .next (if rel = r.npred then makeReady queue slot s2 else if r.npred < rel then endNode queue slot 0x0C 0 s2 else s2)

/-- NODE_RELEASE: RELEASED rises at the status word's home; the first faulted dependence leaves PFAIL and its origin; the last release
makes a waiting node ready, and one too many faults it (R114, R115). DESIGN CHOICE: the 12-bit RELEASED of a node not yet fetched goes from 4,095 to 0 at one
release more (log 74). -/
def execNodeRelease (queue slot : Nat) (order faulted : Bool) (origq origslot : Nat) (s : State) : Out :=
  let v := readStatus s queue slot
  let rel := bits v 51 40 + 1
  let v1 := setBits v 51 40 (rel % 4096)
  let v2 := if faulted && !order && !bit v 39 then setBits (setBit v1 39 true) 28 0 (origOf origq origslot) else v1
  let s1 := writeStatus queue slot v2 0 s
  let g := getG s queue slot
  if g.phase = 0 then .next s1
  else if g.rec_.npred < rel then
    .next (if g.phase = 3 then setG queue slot { g with excess := true } s1 else endNode queue slot 0x0C 0 s1)
  else if rel = g.rec_.npred ∧ g.phase = 1 then .next (makeReady queue slot s1)
  else .next s1

/-- The stall watchdog period of a queue's owner (R114, R158). -/
def ownerPeriod (s : State) (q : Nat) : Nat := 2 ^ (getCtx s (getQueue s q).owner).wdog

/-- NODE_WAIT_TIMEOUT (R114). -/
def execNodeWaitTimeout (queue slot : Nat) (s : State) : Out :=
  let g := getG s queue slot
  .next (if g.phase = 1 ∧ ownerPeriod s queue < s.cycle - g.began then endNode queue slot 0x0D 0 s else s)

/-- A gate's timeout in cycles (R111). -/
def gatePeriod (s : State) (q : Nat) (r : Record) : Nat :=
  let n := bits (wordAt r.body 16) 63 32
  if n = 0 then ownerPeriod s q else n * 1024

/-- The end of a node is under way already: a gate's test has held (R117). -/
def endsAlready (s : State) (queue slot : Nat) : Bool :=
  s.pending.any fun e => match e with | .nodeComplete q k _ => q == queue && k == slot | _ => false

/-- GATE_TIMEOUT (R117). -/
def execGateTimeout (queue slot : Nat) (s : State) : Out :=
  let g := getG s queue slot
  .next (if g.phase = 3 ∧ g.rec_.kind = 4 ∧ gatePeriod s queue g.rec_ ≤ s.cycle - g.began ∧ endsAlready s queue slot = false then endWork queue slot ⟨0x0E, 0⟩ s else s)

/-! ### Work (R111, R117) -/

/-- A gate begins: its test holds at once, or it watches the counter (R117). -/
def startGate (q slot : Nat) (g : GNode) (s : State) : State :=
  let a := wordAt g.rec_.body 0
  let w := whoCtx s (getQueue s q).owner
  let fail := push (.nodeComplete q slot ⟨0x0E, 0⟩) s
  if hdl a = 0xFFFF ∨ a.toNat % 8 ≠ 0 ∨ agentLate s w a = true then fail
  else
    match resolve s w a 8 needRd with
    | .ok (.mem ps) =>
      let key := (ps.headD ⟨0, 0, 0, 0, 0⟩).key
      if (refusedPiece s w.part ps).isSome || (badWord s ps).isSome then fail
      else if gateHolds g.rec_ (rdWord s key) then push (.nodeComplete q slot ⟨0, 0⟩) s
      else setG q slot { g with launch := key / 8, began := s.cycle } s
    | _ => fail

/-- An engine run kicks its hart with the record's own words, followed by the record that kicked (R111, R401). -/
def startEngine (q slot : Nat) (r : Record) (s : State) : State :=
  let owner := (getQueue s q).owner
  let a := wordAt r.body 0
  let fail := push (.nodeComplete q slot ⟨0x0E, 0⟩) s
  if agentLate s (whoCtx s owner) a then fail
  else
  match resolve s (whoCtx s owner) a 8 needWr with
  | .ok (.unit node 3 0 gen) =>
    if filtered s (node / 2 ^ 28 % 16) node gen then fail
    else
      match kickHart (getNode s node).arg node owner (((upTo 5).map fun i => wordAt r.body (8 + 8 * i)) ++ [w64 q, w64 slot]) s with
      | some s' => s'
      | none => fail
  | _ => fail

/-- A stream start is stored to the node's START word (R111, R115, R343). DESIGN CHOICE: one whose handle names no plain stream node of this package, so that no
stream node refuses it, ends with EXEC (R117; log 73). -/
def startStream (q slot : Nat) (r : Record) (s : State) : State :=
  let owner := (getQueue s q).owner
  let a := mkAddr (hdl (wordAt r.body 0)) 0x10
  let fail := push (.nodeComplete q slot ⟨0x0E, 0⟩) s
  if agentLate s (whoCtx s owner) a then fail
  else
  match resolve s (whoCtx s owner) a 8 needWr with
  | .ok (.unit node 5 _ gen) =>
    if filtered s (node / 2 ^ 28 % 16) node gen || (getNode s node).arg == 1 then fail
    else
      let (code, s1) := createStream node (wordAt r.body 8) s
      if code = 0 then push (.nodeComplete q slot ⟨0, 0⟩) (wrWord s1 (nodeKey node 0x10) (wordAt r.body 8))
      else push (.nodeComplete q slot ⟨0x0F, code.natAbs⟩) s
  | _ => fail

/-- The work of a node that runs (R111, R117). -/
def dispatchWork (q slot : Nat) (g : GNode) (s : State) : State :=
  let r := g.rec_
  let w := fun i => wordAt r.body i
  match r.kind with
  | 1 => push (.launchDispatch q slot) s
  | 2 => startEngine q slot r s
  | 3 =>
    match (if bits (w 16) 1 0 = 2 then fillAway q slot (w 0) (w 8) s else none) with
    | some s' => s'
    | none =>
      match tumblerWrite s (getQueue s q).owner (bits (w 16) 1 0) (w 0) (w 8) with
      | some s' => push (.nodeComplete q slot ⟨0, 0⟩) s'
      | none => push (.nodeComplete q slot ⟨0x0E, 0⟩) s
  | 4 => startGate q slot g s
  | 5 => push (.nodeComplete q slot ⟨0, 0⟩) s
  | 6 => startStream q slot r s
  | 7 => push (.bindSetRun q slot) s
  | _ => push (.formatWindowInstall q slot (bits (w 0) 3 0) ((upTo 8).map fun i => w (8 + 8 * i))) s

/-- NODE_DISPATCH: the node that became ready first in a resident queue runs, or faults with PREDFAIL (R114). -/
def execNodeDispatch (queue : Nat) (s : State) : Out :=
  let x := getQueue s queue
  match x.ready with
  | [] => .next s
  | slot :: rest =>
    if !x.resident then .next s
    else
      let g := getG s queue slot
      let v := readStatus s queue slot
      let s1 := modQueue s queue fun x => { x with ready := rest }
      if bit v 39 && !g.rec_.runany then .next (endNode queue slot 0x0B 0 s1)
      else
        let g' := { g with phase := 3, began := s.cycle }
        .next (dispatchWork queue slot g' (setG queue slot g' (writeStatus queue slot (withState v 3) 0 s1)))

/-- Who a bind-set's operations are transactions of (R117). DESIGN CHOICE: a directory that one makes has its home engine in quadrant 0, whichever tumbler runs
the record (log 75). -/
def ownerTx (s : State) (q : Nat) : Tx :=
  let o := (getQueue s q).owner
  ⟨o, o, (getCtx s o).part, (getCtx s o).tenant, 0, 0, 0, .none⟩

/-- One operation of a bind-set, 32 bytes (R111). -/
def bindOp (x : Tx) (op : List Byte) (s : State) : TxOut :=
  let w := wordAt op 0
  let path := [1] ++ List.replicate 7 0 ++ (op.drop 16).take 16
  if bits w 47 40 = 3 then txUnbind x path (w64 (bits w 15 0)) s
  else txBind x path (w64 (bits w 36 0 + (if bits w 47 40 = 1 then 2 ^ 40 else 0) + (if bits w 47 40 = 2 then 2 ^ 41 else 0))) s

/-- The operations of a bind-set from the i-th on; n are left. -/
def bindOps (q slot : Nat) (r : Record) : Nat → Nat → State → State
  | 0, _, s => push (.nodeComplete q slot ⟨0, 0⟩) s
  | n + 1, i, s =>
    match bindOp (ownerTx s q) ((r.body.drop (8 + 32 * i)).take 32) s with
    | .done _ s' => bindOps q slot r n (i + 1) s'
    | .fail reason _ => push (.nodeComplete q slot ⟨0x0E, reason % 32 * 32 + i % 32⟩) s
    | .miss node idx => holdFor node idx (getQueue s q).owner (.bindSetRun q slot) (setG q slot { getG s q slot with launch := i } s)
    | _ => s

/-- BIND_SET_RUN: the operations in order; the first failure ends the node (R117). One that a node record from the host held goes on
where it stopped (R89). -/
def execBindSetRun (queue slot : Nat) (s : State) : Out :=
  let g := getG s queue slot
  let n := bits (wordAt g.rec_.body 0) 5 0
  if g.phase ≠ 3 ∨ g.rec_.kind ≠ 7 then .next s else .next (bindOps queue slot g.rec_ (n - g.launch) g.launch s)

/-! ### Format windows (R211, R212, R215) -/

/-- The ranges of a window: packed, payload view, scale view. -/
def windowRanges (w : Window) : List (Nat × Nat) :=
  [(w.pk, w.nrec * (fmtSizes w.fmt).1), (w.pv, w.nrec * (fmtSizes w.fmt).2), (w.sv, w.nrec)]

/-- No two ranges of a list overlap. -/
def disjoint : List (Nat × Nat) → Bool
  | [] => true
  | r :: rs => (rs.all fun x => !overlaps r.1 r.2 x.1 x.2) && disjoint rs

/-- The image may be installed in a window (R211, R212). -/
def imageOk (s : State) (n : Nat) (img : List Word) : Bool :=
  let w := windowOf img
  let others := (s.pkg.fmtw.filter fun e => e.1 != n).map fun e => windowOf e.2
  let view := fun (b len : Nat) => b % 4096 == 0 && decide (2 ^ 47 ≤ b) && decide (b + len ≤ 2 ^ 48)
  bits (img.getD 0 0) 63 8 == 0 && bits (img.getD 0 0) 3 0 == 0 && decide (w.fmt ≤ 3) && bits (img.getD 1 0) 63 34 == 0
    && bits (img.getD 2 0) 63 48 == 0 && bits (img.getD 3 0) 63 48 == 0 && bits (img.getD 4 0) 63 48 == 0
    && ((upTo 3).all fun i => img.getD (5 + i) 0 == 0)
    && (!w.v
      || (w.nrec % 64 == 0 && decide (64 ≤ w.nrec) && w.pk % 64 == 0 && decide (w.pk + w.nrec * (fmtSizes w.fmt).1 ≤ physEnd)
        && view w.pv (w.nrec * (fmtSizes w.fmt).2) && view w.sv w.nrec
        && disjoint (windowRanges w ++ (others.filter (·.v)).flatMap windowRanges)))

/-- Where the byte of a physical address stands: in the local range of an installed mapping entry, else in memory (R224). -/
def byteHome (s : State) (pa : Nat) : Nat :=
  match mappedPage s (pa / 4096) with
  | some (k, e, i) => ((localAt s (tableCore (k / 16)) e.rn e.ri (bits e.word1 31 0 + 4096 * i + pa % 4096)).map Prod.fst).getD pa
  | none => pa

/-- The bytes that move and the address of each: those that memory lists and no mapping entry holds, and those of installed mapping entries. -/
def movingBytes (s : State) (dest : Nat → Option Nat) : List (Nat × Byte) :=
  (s.mem.filter fun c => (dest c.1).isSome && (mappedPage s (c.1 / 4096)).isNone)
    ++ (s.maps.filter fun e => bit e.2.word1 63).flatMap fun e => e.2.pages.flatMap fun p =>
      ((upTo 4096).map (p * 4096 + ·)).filterMap fun pa => (dest pa).map fun _ => (pa, rdByte s (byteHome s pa))

/-- Bytes move to other places, from wherever they stand; what they leave reads as memory nothing has written (R215, R224). -/
def moveCells (dest : Nat → Option Nat) (s : State) : State :=
  let left := (s.mem.filter fun c => (dest c.1).isSome).foldl (fun s c => wrByte s c.1 memDefault) s
  (movingBytes s dest).foldl (init := left) fun s' c =>
    match dest c.1 with
    | some k => wrByte s' (byteHome s k) c.2
    | none => s'

/-- The lines of a range are written back and leave their slices, and no cached copy of them is left above (R215, R227, R231). -/
def dropLines (hit : Nat → Bool) (s : State) : State :=
  let s1 := ((spKeys s.lines).filter fun l => hit (64 * l)).foldl (fun s l => evictLine l s) s
  { dropCopies hit s1 with powner := s1.powner.filter fun e => !hit (4096 * e.1) }

/-- The register image of a window changes: the old window's bytes go back to their packed places, and the new one's come from theirs, so that
the packed bytes read the same (R213, R215). -/
def setWindow (n : Nat) (img : List Word) (s : State) : State :=
  let old := windowOf (spGet [] s.pkg.fmtw n)
  let new := windowOf img
  let s1 := if old.v then moveCells (packedAt old) (dropLines (fun pa => (packedAt old pa).isSome) s) else s
  let s2 := if new.v then moveCells (unpackedAt new) (dropLines (fun pa => (unpackedAt new pa).isSome) s1) else s1
  { s2 with pkg := { s2.pkg with fmtw := spSet [] s2.pkg.fmtw n img } }

/-- FORMAT_WINDOW_INSTALL: the image is held everywhere from then on (R212, R215). -/
def execFormatWindowInstall (queue slot window : Nat) (image : List Word) (s : State) : Out :=
  let g := getG s queue slot
  if g.phase ≠ 3 ∨ g.rec_.kind ≠ 8 then .next s
  else if !imageOk s window image then .next (push (.nodeComplete queue slot ⟨0x0E, 0⟩) s)
  else .next (push (.nodeComplete queue slot ⟨0, 0⟩) (setWindow window image s))

/-! ### Tails and residency (R106, R116, R119, R120) -/

/-- A TAIL store that reaches a queue, refused or accepted (R106). -/
def tailArrives (q size : Nat) (v : Word) (s : State) : State :=
  let x := getQueue s q
  if !x.v || !x.graph || tailRefused x size v then s else tailStore q v s

/-- GQ_TAIL_STORE: the tail filter of a resident queue takes it (R106, R120). -/
def execGqTailStore (queue size : Nat) (v : Word) (s : State) : Out := .next (tailArrives queue size v s)

/-- GQ_TAIL_NONRESIDENT: the node record takes it, and a packet core wakes (R120). -/
def execGqTailNonresident (queue size : Nat) (v : Word) (s : State) : Out := .next (tailArrives queue size v s)

/-- GQCTL_RESUME (R116). -/
def execGqctlResume (queue : Nat) (s : State) : Out :=
  .next (if (getQueue s queue).v && (getQueue s queue).graph then resumeQueue queue s else s)

/-- The queues of the gang that a queue is of, in rising order. -/
def gangOf (s : State) (q : Nat) : List Nat :=
  (s.queues.filter fun e => e.2.v && e.2.graph && e.2.gang == (getQueue s q).gang).map Prod.fst

/-- Maps a queue onto a resident slot: its posted records are fetched and its ready nodes dispatched. -/
def mapQueue (q place : Nat) (s : State) : State :=
  let s1 := modQueue s q fun x => { x with resident := true, tumbler := place }
  pushOnce (.recordFetch q) ((getQueue s q).ready.foldl (fun s _ => push (.nodeDispatch q) s) s1)

/-- The gang of a queue can be mapped from a slot on: no queue of it is mapped and the slots are free (R119). -/
def gangFits (s : State) (q tumbler first : Nat) : Bool :=
  (getQueue s q).v && (getQueue s q).graph && decide (tumbler < 16) && ((gangOf s q).all fun i => !(getQueue s i).resident)
    && (upTo (gangOf s q).length).all fun i => tumblerFree s tumbler (first + i)

/-- Maps a whole gang. -/
def mapGang (q tumbler first : Nat) (s : State) : State :=
  (upTo (gangOf s q).length).foldl (init := s) fun s i => mapQueue ((gangOf s q).getD i 0) (tumbler * 64 + first + i) s

/-- QGANG_MAP: the gang that this queue is of is mapped as a whole, if it fits (R119). -/
def execQgangMap (gang tumbler first : Nat) (s : State) : Out :=
  .next (if gangFits s gang tumbler first then (gangOf s gang).foldl (fun s q => served (.mapping q) s) (mapGang gang tumbler first s) else s)

/-- QGANG_UNMAP: the gang that this queue is of is unmapped as a whole, between fetches (R119). -/
def execQgangUnmap (gang : Nat) (s : State) : Out :=
  .next (if (getQueue s gang).v && (getQueue s gang).graph then unmapQueues (getQueue s gang).gang s else s)

end Sys2Proof.Machine
end

