-- ==== Sys2Proof/Machine/Launch.lean ====
section
/-! DEFINITION. Dispatching a launch: its checks, the placement of its threads, the scratchpad split, and what a travelling launch pins
and builds (R112, R137 to R141, R169 to R171, R178, R181). -/

namespace Sys2Proof.Machine

/-! ### Placement (R112, R137, R138) -/

/-- The placement cores in order; none where PWORD names none that placement accepts (R137, R138). -/
def placementCores (s : State) (part : Nat) (lword pword : Word) : Option (List Nat) :=
  if bits lword 47 46 = 0 then
    let stride := bits pword 28 21
    let n := bits pword 20 10
    let first := bits pword 9 0
    let l := (upTo n).map fun i => first + i * stride
    if stride = 0 ∨ n = 0 ∨ 1023 < first + (n - 1) * stride ∨ (l.all (inPartition s part)) = false then none else some l
  else
    let level := bits pword 2 0
    let size := domainSize level
    let i := bits pword 12 3
    if 4 < level ∨ 1024 ≤ i * size then none else some (((upTo size).map (· + i * size)).filter (inPartition s part))

/-- Threads outside slot 0 of a core. -/
def busyThreads (s : State) (core : Nat) : List Thread := ((upTo 15).map fun n => getTh s (16 * core + n + 1)).filter liveTh

/-- The clusters of a list of cores. -/
def clustersOf (cores : List Nat) : List Nat := (cores.map (· / 8)).eraseDups

/-- A launch may set a cluster's split: the cluster is the partition's, and its threads outside slot 0 are of launches that accept it
(R132, R141). -/
def splitAllowed (s : State) (part split cluster : Nat) : Bool :=
  (upTo 8).all fun i =>
    inPartition s part (cluster * 8 + i)
      && (busyThreads s (cluster * 8 + i)).all fun th => (getLaunch s th.launch).spsplit == 0 || (getLaunch s th.launch).spsplit == split

/-- SPSPLIT is 0, or in range and allowed in every cluster of the placement (R137, R141). -/
def splitOk (s : State) (part split : Nat) (cores : List Nat) : Bool :=
  split == 0 || (decide (32 ≤ split) && decide (split ≤ 64) && (clustersOf cores).all (splitAllowed s part split))

/-! ### Travelling launches (R169 to R171, R178, R181) -/

/-- An entry of a segment map, 32 bytes, as a segment; none where its fields are not admitted (R169, R170). -/
def segmentOf32 (bs : List Byte) : Option (List Nat) :=
  let v : BitVec 256 := BitVec.ofNat 256 (leNum (bs.take 32))
  let f := fun (hi lo : Nat) => v.toNat / 2 ^ lo % 2 ^ (hi + 1 - lo)
  let len := f 80 64
  let n := f 88 87
  let homes := [f 137 128, f 147 138, f 157 148, f 167 158]
  if f 255 168 ≠ 0 ∨ f 127 105 ≠ 0 ∨ f 86 81 ≠ 0 ∨ len < 4 ∨ 65536 < len ∨ len % 4 ≠ 0 ∨ f 63 0 % 4 ≠ 0
      ∨ ((homes.drop (n + 1)).any (· != 0)) = true then none
  else some ([f 63 48, f 47 0, len, f 104 90, f 89 89, n] ++ homes.take (n + 1))

/-- The entries of a map. -/
def segmentsOf (bs : List Byte) : Nat → Option (List (List Nat))
  | 0 => some []
  | n + 1 =>
    match segmentOf32 bs, segmentsOf (bs.drop 32) n with
    | some g, some gs => some (g :: gs)
    | _, _ => none

/-- The segment map at an address, as the owner's context reads it (R169). -/
def readMap (s : State) (ctx : Nat) (a : Word) : Option (List (List Nat)) :=
  match agentRead s (whoCtx s ctx) a 32 with
  | .error _ => none
  | .ok hd =>
    let n := bits (wordAt hd 0) 8 0
    if a.toNat % 32 ≠ 0 ∨ bits (wordAt hd 0) 63 9 ≠ 0 ∨ ((hd.drop 8).any (· != 0)) = true ∨ n < 1 ∨ 256 < n then none
    else
      match agentRead s (whoCtx s ctx) (offWrap a 32) (32 * n) with
      | .error _ => none
      | .ok bs => segmentsOf bs n

/-- The segments overlap nowhere. -/
def segmentsApart (gs : List (List Nat)) : Bool := disjoint (gs.map fun g => (g.getD 1 0, g.getD 2 0))

/-- The node bytes from an address can be fetched by the owner (R171). -/
def fetchableRun (s : State) (ctx : Nat) (a : Word) (n : Nat) : Bool :=
  match resolve s (whoCtx s ctx) a n needEx with
  | .ok (.mem ps) => (refusedPiece s (getCtx s ctx).part ps).isNone && (badWord s ps).isNone
  | _ => false

/-- The spill area is a writable memory region that reaches the end of the last trap record, and every byte of it after CAP and MAXTID is zero (R178). -/
def spillOk (s : State) (ctx : Nat) (a : Word) (cap maxtid : Nat) : Bool :=
  let n := 0x4100 + 256 * cap + 32 * (maxtid + 1)
  a.toNat % 256 == 0 && regionHolds s ctx a n
    && (upTo (n / 32)).all fun i =>
      match agentRead s (whoCtx s ctx) (offWrap a (Int.ofNat (32 * i))) 32 with
      | .ok bs => (if i = 0 then bs.drop 8 else bs).all (· == 0)
      | .error _ => false

/-- A home core is free for a travelling launch: no thread outside slot 0, none on its way to a granted slot, and no other travelling launch's home (R170). -/
def homeFree (s : State) (core : Nat) : Bool := (busyThreads s core).isEmpty && (getCore s core).granted.isEmpty && !heldByTravel s core 0

/-- The checks of a travelling launch (R170, R171, R181): its segments, spill capacity and highest thread id. -/
def travelCheck (s : State) (ctx part nthr : Nat) (entry map spill : Word) (cores : List Nat) : Option (List (List Nat) × Nat × Nat) :=
  match readMap s ctx map, agentRead s (whoCtx s ctx) spill 8 with
  | some gs, .ok w =>
    let homes := gs.flatMap fun g => g.drop 6
    let cap := bits (wordAt w 0) 31 0
    let maxtid := bits (wordAt w 0) 63 32
    if (gs.all fun g => g.getD 0 0 == hdl entry) && segmentsApart gs && (gs.any fun g => segInside g entry)
        && decide (homes.eraseDups.length = homes.length) && homes.all (inPartition s part) && cores.all homes.contains
        && homes.all (homeFree s) && (getPart s part).rot == 0 && decide (1 ≤ cap) && decide (cap ≤ 2 ^ 24) && decide (nthr ≤ cap)
        && decide (nthr ≤ maxtid + 1) && spillOk s ctx spill cap maxtid
        && gs.all fun g => fetchableRun s ctx (mkAddr (g.getD 0 0) (g.getD 1 0)) (g.getD 2 0) then
      some (gs, cap, maxtid)
    else none
  | _, _ => none

/-- Pins each segment in the instruction stores of its home cores, which hold its bytes as they are then (R171). -/
def pinSegments (l : Nat) (x : Launch) (s : State) : State :=
  (upTo x.segs.length).foldl (init := s) fun s i =>
    let g := x.segs.getD i []
    let bytes := (segmentBytes s x g).getD []
    (g.drop 6).foldl (fun s c => modCore s c fun k => { k with segment := some (l, i, false), segBytes := bytes }) s

/-- Builds the free list and the ring descriptors of the spill area (R178). -/
def buildSpill (x : Launch) (s : State) : State :=
  let s1 := (upTo x.cap).foldl (init := spillWrite x 8 (leList 8 0) s) fun s j =>
    spillWrite x (0x4100 + 256 * j + 240) (leList 4 (if j + 1 < x.cap then j + 1 else 0xFFFFFFFF)) s
  (upTo (homesOf x).length).foldl (init := s1) fun s h =>
    spillWrite x (0x100 + 16 * h) (leList 8 (2 ^ 64 - 1) ++ leList 8 ((homesOf x).getD h 0)) s

/-! ### Dispatch (R137 to R142) -/

/-- The lowest free launch number; 0 names no launch. -/
def freeLaunch (s : State) : Nat := s.launches.foldl (init := 1) fun n e => if e.1 = n then n + 1 else n

/-- The launch a record asks for, checked; none where it is refused (R137, R170). -/
def makeLaunch (s : State) (q slot : Nat) (r : Record) : Option Launch :=
  let owner := (getQueue s q).owner
  let c := getCtx s owner
  let w := fun i => wordAt r.body i
  let lword := w 8
  let mode := bits lword 33 32
  let split := bits lword 45 38
  let nthr := bits lword 31 0
  match placementCores s c.part lword (w 16) with
  | none => none
  | some cores =>
    if nthr = 0 ∨ splitOk s c.part split cores = false ∨ (mode = 1 ∧ bit lword 34 = true) ∨ 65535 < freeLaunch s then none
    else
      let x : Launch := { Launch.none with
        v := true, ctx := owner, part := c.part, tenant := c.tenant, queue := q, slot := slot, entry := w 0
        xs := [w 24, w 32, w 40, w 48], nthr := nthr, ids := nthr, mode := mode, steal := bits lword 37 35, vwin := bit lword 34
        spsplit := split, cores := cores, events := c.events }
      if mode ≠ 2 then some x
      else
        match travelCheck s owner c.part nthr (w 0) (w 56) (w 64) cores with
        | some (gs, cap, maxtid) => let code := handleNode s owner (hdl (w 0))
          some { x with segs := gs, code := code, codeGen := (getNode s code).gen, spill := w 64, cap := cap, maxtid := maxtid }
        | none => none

/-- One thread on a core in a pass, where the launch has one pending and the core a free slot that no earlier thread waits for (R138,
R140, R408). -/
def placeOn (l : Nat) (s : State) (core : Nat) : State :=
  match lowestFree s core with
  | some n =>
    if pendingHere s core l && servedHere s l && !claimedBy s core ((getCore s core).launches.takeWhile (· != l)) then placeNext l (16 * core + n) s else s
  | none => s

/-- Passes over the placement cores; a core has fifteen slots to give (R138). -/
def placePasses (l : Nat) (cores : List Nat) : Nat → State → State
  | 0, s => s
  | n + 1, s => placePasses l cores n (cores.foldl (placeOn l) s)

/-- A communication thread of a context starts in an empty slot 0 of a core (R160): its queues are empty; where its tenant's slice does not
run, the slot is handed over (R166). -/
def startComm (ctx : Nat) (s : State) (core : Nat) : State :=
  let c := getCtx s ctx
  if c.commpc = 0 ∨ freeSlot s core 0 = false ∨ ((getCore s core).restored.any (·.1 == 0)) = true then s
  else
    let th : Thread := { freshThread s 0 c.commpc [w64 core, w64 ctx] 0xFFFFFFFF (freshCounters c.events) with
      ctx := ctx, part := c.part, tenant := c.tenant, thst := 0, vwin := false }
    let (n, ri) := rotOf s c.part c.tenant
    let s1 := seat (16 * core) th (modCore s core fun k => { k with inq := [], outq := [] })
    if n ≠ 1 ∧ (getPart s c.part).turn ≠ ri then pushOnce (.sliceEnd c.part) s1 else s1

/-- A launch accepted begins: splits are set, segments pinned, the spill area built, the communication threads started, and its threads
placed (R138, R141, R160, R171, R178). -/
def beginLaunch (l : Nat) (x : Launch) (s : State) : State :=
  let s1 : State := { s with launches := spSet Launch.none s.launches l x }
  let s2 := if x.spsplit = 0 then s1 else
    { s1 with splits := (clustersOf x.cores).foldl (fun m c => spSet 64 m c x.spsplit) s1.splits }
  let s3 := if x.mode = 2 then buildSpill x (pinSegments l x s2) else s2
  let s4 := x.cores.foldl (init := s3) fun s c => modCore s c fun k => { k with launches := k.launches ++ [l] }
  placePasses l x.cores 15 (x.cores.foldl (startComm x.ctx) s4)

/-- LAUNCH_DISPATCH (R137). -/
def execLaunchDispatch (queue slot : Nat) (s : State) : Out :=
  let g := getG s queue slot
  if g.phase ≠ 3 ∨ g.rec_.kind ≠ 1 ∨ g.launch ≠ 0 then .next s
  else
    match makeLaunch s queue slot g.rec_ with
    | none => .next (endWork queue slot ⟨0x0F, 0⟩ s)
    | some x => .next (beginLaunch (freeLaunch s) x (setG queue slot { g with launch := freeLaunch s } s))

end Sys2Proof.Machine
end

