-- ==== Sys2Proof/Machine/Travel.lean ====
section
/-! DEFINITION. Departures and arrivals of travelling threads (R172 to R181). -/

namespace Sys2Proof.Machine

/-- A home core's load: busy slots among 1 to 15, arrival-queue entries, spill-ring entries (R176). -/
def homeLoadOf (s : State) (core : Nat) : Nat :=
  (busyThreads s core).length + (getCore s core).arrivals.length + (getCore s core).spilled.length

/-- The first core of a list with the least load (R176). -/
def leastLoaded (s : State) : List Nat → Option Nat
  | [] => none
  | c :: cs =>
    match leastLoaded s cs with
    | some d => if homeLoadOf s d < homeLoadOf s c then some d else some c
    | none => some c

/-- The destination of a departure into a segment (R176). -/
def destination (s : State) (id : BitVec 32) (seg : List Nat) : Nat :=
  let homes := (seg.drop 6).take (seg.getD 5 0 + 1)
  if seg.getD 4 0 = 0 then homes.getD (id.toNat % (seg.getD 5 0 + 1)) 0 else (leastLoaded s homes).getD 0

/-- Steps 1 and 2 of a departure are over: results returned, no returned fault, vector work retired, posted operations answered (R173). -/
def settled (s : State) (t : Nat) : Bool :=
  let th := getTh s t
  th.late.isEmpty && th.refused.isEmpty && vectorIdle th && !outstanding s th.uid true true

/-- The registers of a live set; the others arrive as zero (R175). -/
def liveOnly (live : BitVec 15) (xs : List Word) : List Word := (upTo 15).map fun i => if live.getLsbD i then xs.getD i 0 else 0

/-- The trap record of a thread at trap level 1 (R178, R180). -/
def writeTrapRecord (t : Nat) (s : State) : State :=
  let th := getTh s t
  let x := getLaunch s th.launch
  if tl th then
    spillWrite x (0x4100 + 256 * x.cap + 32 * th.id.toNat)
      (leList 8 th.tepc.toNat ++ leList 8 th.tcause.toNat ++ leList 8 th.tval.toNat ++ leList 8 (bits th.thst 31 16)) s
  else s

/-- TRAVEL_DEPARTURE: once settled, the latches are disarmed and the thread leaves in a travel parcel (R173, R175, R176, R180). -/
def execTravelDeparture (t : Nat) (s : State) : Out :=
  let th := getTh s t
  match th.wait with
  | .settle (.depart target live) =>
    match segOf s t target with
    | none => .next s
    | some seg =>
      if !settled s t then .next s
      else
        let s1 := writeTrapRecord t (disarmAll t (catchUp (coreOf t) s))
        let p := parcelOf s1 t .travel (destination s1 th.id seg) 0 target none
        .next (push (.travelArrival { p with xs := liveOnly live p.xs }) (leaveSlot t t s1))
  | _ => .next s

/-- TRAVEL_ARRIVAL: the parcel claims a free slot that no restored or pending thread waits for, joins the arrival queue, or is written to the spill ring (R177). -/
def execTravelArrival (p : Parcel) (s : State) : Out :=
  let c := getCore s p.core
  if !c.spilled.isEmpty || decide (1024 ≤ p.core) then .next (spillIn p s)
  else
    match (if c.arrivals.isEmpty && !slotClaimed s p.core then lowestFree s p.core else none) with
    | some n => .next (seatParcel p n s)
    | none =>
      if c.arrivals.length < 16 then .next (modCore s p.core fun c => { c with arrivals := c.arrivals ++ [p] }) else .next (spillIn p s)

end Sys2Proof.Machine
end

