-- ==== Sys2Proof/Machine/Gang.lean ====
section
/-! DEFINITION. Gang switches, slot rotation and defragmentation (R161 to R167, R182, R225, R407, R408). -/

namespace Sys2Proof.Machine

/-! ### Who is stopped -/

/-- The key of the save area of a context's own whose slice has ended (R166). -/
def sliceArea (ctx : Nat) : Nat := 2 ^ 40 + ctx

/-- The context's gang is switched out (R163). -/
def ctxOut (s : State) (c : Nat) : Bool := s.saves.any fun e => decide (e.1 < 2 ^ 40) && e.2.v && e.2.ctxs.contains c

/-- The contexts of the gang that a partition runs (R161). -/
def gangCtxs (s : State) (p : Nat) : List Nat :=
  (s.ctxs.filter fun e => e.2.live && e.1 != 0 && e.1 != 0xFFFF && e.2.part == p && !ctxOut s e.1).map Prod.fst

/-- A partition's gang registers. -/
def getGang (s : State) (p : Nat) : Gang := spGet Gang.reset s.gangs p

/-- Changes a partition's gang registers. -/
def modGang (s : State) (p : Nat) (f : Gang → Gang) : State := { s with gangs := spSet Gang.reset s.gangs p (f (getGang s p)) }

/-- An armed switch's time has come: T, or the frame boundary that stands for it (R161, R163). -/
def switchTime (s : State) (p : Nat) : Bool :=
  let g := getGang s p
  bit g.gsctl 2 && (if g.late = 0 then decide (g.gstime.toNat ≤ (gtime s).toNat) else decide (g.late ≤ s.cycle))

/-- A defragmentation of the partition has begun and holds its gang stopped (R167). -/
def defragWaits (s : State) (p : Nat) : Bool := s.pending.any fun e => match e with | .defragmentation q _ _ => q == p | _ => false

/-- The gang of a partition stops or is stopped (R163, R167). -/
def gangStops (s : State) (p : Nat) : Bool := (switchTime s p && bit (getGang s p).gsctl 0) || defragWaits s p

/-- A tenant of a rotation set whose slice does not run (R165). -/
def offSlice (s : State) (part tenant : Nat) : Bool :=
  let (n, ri) := rotOf s part tenant
  n != 1 && (getPart s part).turn != ri

/-- A context's threads may not issue and its work may not start: its gang stops or is out (R163). -/
def ctxStopped (s : State) (c : Nat) : Bool := c != 0 && c != 0xFFFF && (ctxOut s c || gangStops s (getCtx s c).part)

/-- A slot holds a thread whose slice has ended. -/
def outgoing (s : State) (t : Nat) : Bool := liveTh (getTh s t) && offSlice s (getTh s t).part (getTh s t).tenant

/-- The thread of a slot stops for the next tenant of the set: one of slots 1 to 15 from the first cycle of its position after the slice's end, which
is a frame boundary; slot 0 once those of its core have been handed over (R166). -/
def sliceStops (s : State) (t : Nat) : Bool :=
  outgoing s t && decide ((getPart s (getTh s t).part).began + slotOf t ≤ s.cycle)
    && (slotOf t != 0 || !((upTo 15).any fun n => outgoing s (t + n + 1)))

/-- A thread issues nothing more: its gang stops, or its slice has ended (R163, R166). -/
def stopped (s : State) (t : Nat) : Bool := ctxStopped s (getTh s t).ctx || (sliceStops s t && !isHart t)

/-! ### Arming (R161, R162) -/

/-- The node of a save area of a partition that a system-context handle names. -/
def saveArea (s : State) (p h : Nat) : Option Nat :=
  let k := getKey s 0 h
  let n := getNode s k.node
  if k.v && !k.peer && n.v && !n.dead && n.kind == 8 && k.gen == n.gen && n.part == p && h != 0 then some k.node else none

/-- Bytes a save area of the partition must hold (R162). -/
def saveSize (s : State) (p : Nat) : Nat :=
  let x := getPart s p
  592 * 1024 * x.cores.length + 8 * 1048576 * (x.qsp.filter (0 < ·)).length + 64 * 1024 * (clustersOf x.cores).length

/-- A save area of the partition, large enough. -/
def areaOk (s : State) (p h : Nat) : Bool :=
  match saveArea s p h with
  | some n => decide (saveSize s p ≤ (getNode s n).limit)
  | none => false

/-- The arm is refused (R161). -/
def armFault (s : State) (p : Nat) : Bool :=
  let g := (getGang s p).gsctl
  let running := !(gangCtxs s p).isEmpty
  (bit g 0 && (!areaOk s p (bits g 31 16) || !running)) || (bit g 1 && (!areaOk s p (bits g 47 32) || (!bit g 0 && running)))

/-- ARM is written: the switch is armed at T, or refused; a T that has passed is taken as the next frame boundary (R161). -/
def armGang (part : Nat) (s : State) : State :=
  if bit (getGang s part).gsctl 2 then s
  else if armFault s part then modGang s part fun g => { g with gsctl := setBit g.gsctl 3 true }
  else
    modGang s part fun g =>
      { g with
        gsctl := setBit (setBit g.gsctl 3 false) 2 true
        late := if g.gstime.toNat < (gtime s).toNat then (s.cycle / 2048 + 1) * 2048 else 0 }

/-- The host writes the gang registers, not the policy core (R129, R161). -/
def hostArms (s : State) : Bool := bit s.fw.duty 2

/-- GANG_ARM: the host's or the policy core's write of ARM; the host's is refused before READY (R17, R161). -/
def execGangArm (part : Nat) (s : State) : Out :=
  .next (if hostArms s && !ready s then reply .pf 1 0 [] s else if ready s || policyUp s then armGang part s else s)

/-! ### Coming to rest (R163, R407) -/

/-- A matrix operation of the hart has started and not ended (R385). -/
def runsMatrix (s : State) (t : Nat) : Bool :=
  match spGet none s.mmrun (clusterOf t) with
  | some r => r.t == t && r.uid == (getTh s t).uid
  | none => false

/-- A thread's results have returned, but for one held for a full queue, and it waits for nothing that must end first. -/
def threadRests (s : State) (t : Nat) : Bool :=
  let th := getTh s t
  (th.late.all (·.done)) && !lateReady s t && !runsMatrix s t
    && (match th.wait with | .name _ _ _ => false | .remote _ _ => false | .slotAsk => false | .fetch n _ _ => nodeCached s n | _ => true)

/-- A core's vector unit has retired what it accepted: nothing is left, or a repetition stands at a boundary (R163). -/
def vectorRests (s : State) (core : Nat) : Bool :=
  match (getCore s core).vqueue with
  | [] => true
  | (_, .rep _ _ _) :: _ => true
  | (_, .capturing _) :: _ => true
  | _ => false

/-- The harts that hold threads of contexts. -/
def threadsOf (s : State) (cs : List Nat) : List Nat := (s.threads.filter fun e => liveTh e.2 && cs.contains e.2.ctx).map Prod.fst

/-- A partition's gang has come to rest (R163 step 2). -/
def gangRests (s : State) (p : Nat) : Bool :=
  (threadsOf s (gangCtxs s p)).all (threadRests s) && (getPart s p).cores.all (vectorRests s)

/-- The commands of a core's queue that belong to these threads go back to their slots' queues, in order. -/
def recallVector (keep : Nat → Bool) (s : State) (core : Nat) : State :=
  let k := getCore s core
  let own := (upTo k.vqueue.length).filterMap fun i => (k.vqueue[i]?).bind fun e => if keep e.1 then some (e.1, i, e.2) else none
  let rest := k.vqueue.filter fun e => !keep e.1
  let s1 := modCore s core fun k => { k with vqueue := rest }
  let s2 : State := withdrawResv (commandTag core)
    { s1 with pending := s1.pending.filter (!vectorEvent core ·) ++ rest.map fun e => entryEvent core e.2 }
  (own.map (·.1)).eraseDups.foldl (init := s2) fun s t =>
    modTh s t fun th => { th with vq := ((own.filter (·.1 == t)).map (·.2)) ++ th.vq, vout := 0 }

/-- The thread's matrix operations that have not started are withdrawn (R385). -/
def withdrawMatrix (t : Nat) (s : State) : State :=
  let cl := clusterOf t
  let s1 : State := { s with mmq := spSet [] s.mmq cl ((mmQueue s cl).filter (·.1 != t)) }
  if engineHart s cl == some t then withdrawResv (engineTag cl) s1 else s1

/-- Events that concern a hart alone. -/
def hartEvent (e : Instr) : Option Nat :=
  match e with
  | .waitRetryPoll t => some t
  | .watchdogExpiry t => some t
  | .reservationHoldExpiry t => some t
  | .latchWaitTimeout t => some t
  | .lateResultReturn t none => some t
  | .travelDeparture t => some t
  | .yieldExpiry t => some t
  | .wfiTimeout t => some t
  | .barrierWaitTimeout t => some t
  | _ => none

/-- A thread's wait as it is saved: an unstarted matrix operation and an access whose record has come issue again, and a go that was granted a slot asks anew
(R150, R163, R385). -/
def savedWait (w : Wait) : Wait :=
  match w with
  | .matrix _ _ _ => .run
  | .fetch _ _ _ => .run
  | .slotReply (some n) => if 1 ≤ n ∧ n < 16 then .fence true true else w
  | _ => w

/-- Takes a thread off its slot: its entries on lists are withdrawn, its latch registrations and its hold stay at their homes under its
own number (R150, R153, R163, R316). -/
def takeThread (t : Nat) (s : State) : Thread × State :=
  let s0 := match (getTh s t).wait with
    | .slotReply (some n) =>
      if 1 ≤ n ∧ n < 16 then ungrant ((getTh s t).taken.headD 0).toNat (some n) (withdrawMatrix t (withdrawWaits t (withdrawResv t s)))
      else withdrawMatrix t (withdrawWaits t (withdrawResv t s))
    | _ => withdrawMatrix t (withdrawWaits t (withdrawResv t s))
  let th0 := getTh s0 t
  let th := { th0 with wait := savedWait th0.wait, wcount := if savedWait th0.wait = th0.wait then th0.wcount else 0 }
  let tag := savedTag th.uid
  let s1 := match th.hold with
    | some (w, _) => { s0 with resv := spSet Resv.free s0.resv w { spGet Resv.free s0.resv w with holder := some tag } }
    | none => s0
  (th, setTh { s1 with
    latches := s1.latches.map fun r => if r.t = t then { r with t := tag } else r
    pending := s1.pending.filter fun e => hartEvent e != some t } t Thread.reset)

/-- Takes threads off their slots, into a table by hart. -/
def takeThreads (ts : List Nat) (s : State) : Sp Thread × State :=
  ts.foldl (init := (([] : Sp Thread), s)) fun r t =>
    let (th, s') := takeThread t r.2
    (spSet Thread.reset r.1 t th, s')

/-! ### The local levels and mappings of a partition -/

/-- A key of local memory belongs to a partition: its cores' scratchpads and lane memories, and the quadrant scratchpad it carved. -/
def localKey (x : Partition) (key : Nat) : Bool :=
  if key < 2 ^ 50 then false
  else if key < 2 ^ 51 then x.cores.contains ((key - 2 ^ 50) / 2 ^ 18)
  else if key < 2 ^ 52 then x.cores.contains ((key - 2 ^ 51) / 2 ^ 17)
  else if key < 2 ^ 53 then decide (0 < x.qsp.getD ((key - 2 ^ 52) / 2 ^ 23) 0)
  else false

/-- A mapping entry is a partition's: one that a context of it installed; otherwise one of a table at its cores or quadrants, of which a
cluster's can serve several partitions (R132, R223, R225). -/
def mapOf (s : State) (part k : Nat) (e : MapEnt) : Bool :=
  let x := getPart s part
  let table := k / 16
  if bit e.word1 63 then (getCtx s e.ctx).part == part
  else if table < 1024 then x.cores.contains table
  else if table < 1152 then x.cores.any fun c => c / 8 == table - 1024
  else decide (0 < x.qsp.getD (table - 1152) 0)

/-- Removes the entries that a partition's contexts installed as a store of V = 0 does (R225). -/
def unmapAll (part : Nat) (s : State) : State :=
  (s.maps.filter fun e => mapOf s part e.1 e.2 && bit e.2.word1 63).foldl (init := s) fun s e => mapRemove e.1 (setBit e.2.word1 63 false) s

/-- Puts a saved mapping entry back: an installed one is installed again with LOAD = 1 through GADDR, with the checks of an installation, and one
that fails them keeps V = 0 (R224, R225; log 33). -/
def remap (s : State) (k : Nat) (e : MapEnt) : State :=
  let c := getCtx s e.ctx
  let s0 : State := { s with maps := spSet MapEnt.reset s.maps k ⟨e.gaddr, setBit e.word1 63 false, [], 1, 0, 0⟩ }
  if bit e.word1 63 then
    match mapInstall ⟨e.ctx, c.part, c.tenant, tableCore (k / 16), 9999⟩ k (setBit e.word1 62 true) s0 with
    | .ok s1 => s1
    | .error _ => s0
  else s0

/-! ### What falls out of the fabric (R163 step 3, R164, R47) -/

/-- A pending event is a packet of the gang, or an acknowledgement of one, that falls out at its router. -/
def drains (s : State) (cs : List Nat) (e : Instr) : Bool :=
  let entry := fun (c n : Nat) => cs.contains (getJ s c n).ctx
  let ofStream := fun (n : Nat) => cs.contains (getNode s n).owner
  match e with
  | .putSegmentLand p _ _ _ => cs.contains p.ctx
  | .putSegmentAck p _ _ => cs.contains p.ctx
  | .putCounterAction c ⟨n, _⟩ => entry c n
  | .postedAck c ⟨n, _⟩ _ => entry c n
  | .parcelArrival p => cs.contains p.ctx
  | .travelArrival p => cs.contains p.ctx
  | .chunkArrival n _ _ _ => ofStream n
  | .markerArrival n _ _ _ => ofStream n
  | .chunkLanding n _ _ => ofStream n
  | .streamInputTimeout n _ _ => ofStream n
  | .inputDeadDeclare n _ => ofStream n
  | .lccReport n _ => ofStream n
  | _ => false

/-- Deaths are processed before any chunk (R47). -/
def isDeath (e : Instr) : Bool :=
  match e with
  | .streamInputTimeout _ _ _ => true
  | .inputDeadDeclare _ _ => true
  | .lccReport _ _ => true
  | _ => false

/-- A parcel that falls out keeps no slot; a hold it carries stays at its home under the thread's own number (R163, R316, R408). -/
def drainParcel (s : State) (e : Instr) : State :=
  match e with
  | .parcelArrival p =>
    let s1 := modCore s p.core fun c => { c with granted := c.granted.filter (· != p.slot) }
    match p.hold with
    | some (w, _) => { s1 with resv := spSet Resv.free s1.resv w { spGet Resv.free s1.resv w with holder := some (savedTag p.uid) } }
    | none => s1
  | _ => s

/-- The generation an entry captured is no longer its node's (R164). -/
def staleAt (s : State) (node gen : Nat) : Bool := node != 0 && ((getNode s node).dead || !(getNode s node).v || (getNode s node).gen != gen)

/-- A drained packet as it enters its router again: one through a stale generation is refused into its entry, and a parcel takes its
place as an arrival (R163, R164, R408). -/
def reinject (s : State) (e : Instr) : Instr :=
  match e with
  | .putSegmentLand p dst o d =>
    let j := getJ s p.core p.entry
    let a := offWrap dst (Int.ofNat o)
    if p.opk = 3 then
      (if staleAt s p.node p.gen || staleAt s j.cnode j.cgen then .postedAck p.core ⟨p.entry, p.order⟩ (some ⟨1, a⟩) else e)
    else if staleAt s p.node p.gen then .putSegmentAck p d.length (some ⟨1, a⟩)
    else e
  | .putCounterAction c ⟨n, o⟩ =>
    let j := getJ s c n
    if staleAt s j.cnode j.cgen then .postedAck c ⟨n, o⟩ (some ⟨1, j.caddr⟩) else e
  | .parcelArrival p => .travelArrival { p with reinj := true }
  | .travelArrival p => .travelArrival { p with reinj := true }
  | e => e

/-! ### Saving and restoring (R163, R182, R408) -/

/-- A core's state as it is left when its gang is saved: caches of the gang invalidated, times and leases kept. -/
def emptyCore (c : CoreSt) : CoreSt := { CoreSt.reset with pts := c.pts, keys := c.keys, tlb := c.tlb, leases := c.leases, ran := c.ran }

/-- Saves the gang of a partition, whose threads are at rest (R163 steps 3 to 5). -/
def saveGang (p : Nat) (s : State) : Saved × State :=
  let x := getPart s p
  let cs := gangCtxs s p
  let ts := threadsOf s cs
  let s1 := x.cores.foldl (recallVector fun _ => true) s
  let out := s1.pending.filter (drains s1 cs)
  let s2 := out.foldl drainParcel { s1 with pending := s1.pending.filter fun e => !drains s1 cs e }
  let posts := (s2.journal.filter fun e => cs.contains e.2.ctx).map fun e => entryTag (e.1 / 32) (e.1 % 32)
  let (threads, s3) := takeThreads ts (posts.foldl (fun s g => withdrawResv g s) s2)
  let mine := fun (k : Nat) => x.cores.contains k || (decide (1024 ≤ k) && (s3.cores.any fun e => e.1 == k && e.2.restored.any fun r => cs.contains r.2.ctx))
  let maps := s3.maps.filter fun e => mapOf s3 p e.1 e.2
  let s4 := unmapAll p s3
  let saved : Saved :=
    { v := true, part := p, ctxs := cs, threads := threads, cores := s4.cores.filter fun e => mine e.1
      splits := s4.splits.filter fun e => (clustersOf x.cores).contains e.1, journal := s4.journal.filter fun e => cs.contains e.2.ctx
      drained := out.filter isDeath ++ out.filter (!isDeath ·), local_ := s4.mem.filter fun c => localKey x c.1
      localFe := s4.fe.filter fun e => localKey x (8 * e.1), maps := maps
      harts := s4.harts.foldl (init := []) fun m e => spSet [] m e.1 (e.2.filter fun k => cs.contains k.2.1) }
  (saved, { s4 with
    cores := s4.cores.foldl (init := []) fun m e =>
      let c := if mine e.1 then emptyCore e.2 else e.2
      spSet CoreSt.reset m e.1 { c with keys := c.keys.filter fun k => !cs.contains k.ctx, tlb := c.tlb.filter fun k => !cs.contains k.ctx }
    journal := s4.journal.filter fun e => !cs.contains e.2.ctx
    harts := s4.harts.foldl (init := []) fun m e => spSet [] m e.1 (e.2.filter fun k => !cs.contains k.2.1) })

/-- A saved core is loaded: its pinned segment is read again, and is stale if the launch's code has been revoked (R171, R182). -/
def loadCore (s : State) (e : Nat × CoreSt) : State :=
  let x := getLaunch s ((e.2.segment.map (·.1)).getD 0)
  let bytes := match e.2.segment with
    | some (_, i, _) => segmentBytes s x (x.segs.getD i [])
    | none => some []
  let stale := e.2.segment.isSome && (staleAt s x.code x.codeGen || bytes.isNone)
  modCore s e.1 fun c =>
    { e.2 with
      pts := max c.pts e.2.pts, keys := c.keys, tlb := c.tlb, leases := c.leases, granted := c.granted, vqueue := []
      segment := e.2.segment.map fun g => (g.1, g.2.1, g.2.2 || stale), segBytes := bytes.getD []
      restored := c.restored ++ e.2.restored }

/-- Restores a saved gang: local levels with their splits, mappings, cores with their segments and arrival queues, the journal, the
threads and programs, then the drained packets (R163, R164, R182, R225, R408). -/
def loadGang (g : Saved) (s : State) : State :=
  let x := getPart s g.part
  let s1 : State := { s with
    splits := g.splits.foldl (init := s.splits.filter fun e => !(clustersOf x.cores).contains e.1) fun m e => spSet 64 m e.1 e.2
    mem := g.local_.foldl (init := s.mem.filter fun c => !localKey x c.1) fun m c => spSet memDefault m c.1 c.2
    fe := g.localFe.foldl (init := s.fe.filter fun e => !localKey x (8 * e.1)) fun m e => spSet false m e.1 e.2
    journal := g.journal.foldl (fun m e => spSet JEnt.free m e.1 e.2) s.journal
    harts := g.harts.foldl (init := s.harts) fun m e => spSet [] m e.1 (e.2 ++ spGet [] m e.1) }
  let s2 := g.cores.foldl loadCore (g.maps.foldl (fun s e => remap s e.1 e.2) s1)
  let s3 := g.threads.foldl (fun s e => placeSaved e.1 e.2 s) s2
  let s4 := g.harts.foldl (fun s e => pushOnce (.engineHartStart e.1) s) s3
  let s5 : State := { s4 with pending := s4.pending ++ g.drained.map (reinject s4) }
  x.cores.foldl offerSlots s5

/-- An armed switch has completed: DONE is set and ARM clears (R161). -/
def switchDone (p : Nat) (s : State) : State := modGang s p fun g => { g with gsctl := setBit (setBit g.gsctl 4 true) 2 false, late := 0 }

/-- The rest of a switch: the restore, or its end (R163). -/
def afterStop (p : Nat) (s : State) : State := if bit (getGang s p).gsctl 1 then pushOnce (.gangRestore p) s else switchDone p s

/-- GANG_STOP: at T, once the gang has come to rest, it is saved to OUTSA and its slots are free; then RESUME, if set (R163). -/
def execGangStop (part : Nat) (s : State) : Out :=
  if !switchTime s part then .next s
  else if !bit (getGang s part).gsctl 0 then .next (afterStop part s)
  else if !gangRests s part then .next s
  else
    let (g, s1) := saveGang part s
    match saveArea s part (bits (getGang s part).gsctl 31 16) with
    | some n => .next (afterStop part { s1 with saves := spSet Saved.none s1.saves n g })
    | none => .next (afterStop part s1)

/-- GANG_RESTORE: the gang saved in INSA is loaded, DONE is set and ARM clears (R163). -/
def execGangRestore (part : Nat) (s : State) : Out :=
  if !switchTime s part then .next s
  else
    match saveArea s part (bits (getGang s part).gsctl 47 32) with
    | some n =>
      let g := spGet Saved.none s.saves n
      let s1 : State := { s with saves := spErase n s.saves }
      .next (switchDone part (if g.v then loadGang g s1 else s1))
    | none => .next (switchDone part s)

/-! ### Slot rotation (R165, R166) -/

/-- The slice that runs has lasted its frames. -/
def sliceDue (s : State) (p : Nat) : Bool :=
  let x := getPart s p
  x.v && x.rot != 0 && decide (x.began + 2048 * x.slice ≤ s.cycle)

/-- The core's outbound queues are empty (R166). -/
def outEmpty (s : State) (core : Nat) : Bool := (getCore s core).outq.all fun e => e.2.isEmpty

/-- A slot can be handed over: its thread has stopped and its results have returned; slot 0 once its outbound queues are empty too (R166). -/
def canHand (s : State) (t : Nat) : Bool :=
  sliceStops s t && threadRests s t && vectorRests s (coreOf t) && (slotOf t != 0 || outEmpty s (coreOf t))

/-- The cycle from which a thread loaded in place of another may issue: its position's in the following rotation (R166). -/
def firstTurn (s : State) (t : Nat) : Nat := (s.cycle / 16 + 1) * 16 + slotOf t

/-- The outgoing thread of a slot is saved to its context's area; slot 0 takes its inbound words with it (R166). -/
def handOut (s : State) (t : Nat) : State :=
  if !canHand s t then s
  else
    let c := coreOf t
    let ctx := (getTh s t).ctx
    let (th, s1) := takeThread t (recallVector (· == t) s c)
    let a := spGet Saved.none s1.saves (sliceArea ctx)
    let inq := (getCore s1 c).inq
    let a' : Saved := { a with
      v := true, part := th.part, ctxs := [ctx], threads := spSet Thread.reset a.threads t th
      cores := if slotOf t = 0 then spSet CoreSt.reset a.cores c { CoreSt.reset with inq := inq } else a.cores }
    let s2 : State := { s1 with saves := spSet Saved.none s1.saves (sliceArea ctx) a' }
    if slotOf t = 0 then modCore s2 c fun k => { k with inq := [] } else s2

/-- A saved thread can be loaded in a slot: its position has come since the slice began, and its slot has been handed over, slot 0 last (R166). -/
def canTake (s : State) (part t : Nat) : Bool :=
  decide ((getPart s part).began + slotOf t ≤ s.cycle) && !outgoing s t && (slotOf t != 0 || !((upTo 15).any fun n => outgoing s (t + n + 1)))

/-- A saved thread of the slice that begins is loaded once its slot has been handed over, and issues from its position in the next rotation on
(R166). -/
def handIn (ctx : Nat) (s : State) (e : Nat × Thread) : State :=
  if !canTake s e.2.part e.1 then s
  else
    let a := spGet Saved.none s.saves (sliceArea ctx)
    let c := coreOf e.1
    let words := (spGet CoreSt.reset a.cores c).inq
    let left : Saved := { a with
      threads := spErase e.1 a.threads, cores := if slotOf e.1 = 0 then spErase c a.cores else a.cores }
    let s1 : State := { s with saves := if left.threads.isEmpty then spErase (sliceArea ctx) s.saves else spSet Saved.none s.saves (sliceArea ctx) left }
    placeSaved e.1 { e.2 with startAt := firstTurn s e.1 } (if slotOf e.1 = 0 then modCore s1 c fun k => { k with inq := words } else s1)

/-- The contexts of a partition whose slice runs and whose threads are saved. -/
def incoming (s : State) (p : Nat) : List (Nat × Saved) :=
  (s.saves.filter fun e => decide (2 ^ 40 ≤ e.1) && e.2.part == p && !offSlice s p (getCtx s (e.1 - 2 ^ 40)).tenant
    && !ctxOut s (e.1 - 2 ^ 40)).map fun e => (e.1 - 2 ^ 40, e.2)

/-- Hands over every slot of a partition that can be: 1 to 15 first (R166). -/
def handOver (p : Nat) (s : State) : State :=
  let x := getPart s p
  let slots := x.cores.flatMap fun c => (upTo 16).map fun n => 16 * c + (n + 1) % 16
  let s1 := slots.foldl handOut s
  (incoming s1 p).foldl (init := s1) fun s e => e.2.threads.foldl (handIn e.1) s

/-- A slot of the partition is still to be handed over. -/
def handing (s : State) (p : Nat) : Bool := s.threads.any fun e => e.2.part == p && !isHart e.1 && outgoing s e.1

/-- SLICE_END: the turn passes to the next tenant of the set, and each core hands its slots over as they can be (R165, R166). -/
def execSliceEnd (part : Nat) (s : State) : Out :=
  let due := sliceDue s part
  let s1 := if due then modPart s part fun x =>
      { x with turn := (x.turn + 1) % (if x.rot = 1 then 2 else 4), began := s.cycle / 2048 * 2048 } else s
  let s2 := handOver part s1
  let s3 := if handing s2 part || !(incoming s2 part).isEmpty then pushOnce (.sliceEnd part) s2 else s2
  .next ((getPart s part).cores.foldl offerSlots s3)

/-! ### Defragmentation (R167) -/

/-- A copy of a logical slice to a physical slice may be made: the partition is installed and the target is free (R167). -/
def defragOk (s : State) (part slice target : Nat) : Bool :=
  (getPart s part).v && decide (slice < 128) && decide (target < 128) && !(s.parts.any fun e => e.2.v && e.2.slices.contains target)

/-- DEFRAGMENTATION: its gang stops while it waits, and once the gang has come to rest it is saved, the moved slice's table entry is rewritten, and it is restored. The copy
changes no byte that an address names (R167). -/
def execDefragmentation (part slice target : Nat) (s : State) : Out :=
  if !defragOk s part slice target then .next s
  else if !gangRests s part then .next (pushOnce (.defragmentation part slice target) s)
  else
    let (g, s1) := saveGang part s
    .next (loadGang g (modPart s1 part fun x => { x with slices := x.slices.set slice target }))

end Sys2Proof.Machine
end

