-- ==== Sys2Proof/Machine/Engine.lean ====
section
/-! DEFINITION. Engine harts: kicks and the start of their programs (R401, R402). -/

namespace Sys2Proof.Machine

/-- ENGINE_KICK: a kick at an engine node joins its hart's queue; one that finds 16 queued is refused (R401). -/
def execEngineKick (hart node ctx : Nat) (words : List Word) (s : State) : Out :=
  let n := getNode s node
  if n.v && !n.dead && n.kind == 3 && n.arg == hart then
    match kickHart hart node ctx (words.take 5) s with
    | some s' => .next s'
    | none => .next s
  else .next s

/-- The program a kick starts (R402): its pc and x1 to x4 from the kick's words, x15 the kicker's data handle. The thread keeps the engine
node as its id, and as its launch the record that kicked, plus one. -/
def programThread (s : State) (node ctx : Nat) (words : List Word) : Thread :=
  let c := getCtx s ctx
  { Thread.reset with
    uid := s.uids, ctx := ctx, part := c.part, tenant := c.tenant, id := BitVec.ofNat 32 node
    launch := if words.length = 7 then (words.getD 5 0).toNat * 65536 + (words.getD 6 0).toNat + 1 else 0
    pc := words.getD 0 0, x := spSet 0 (regsFrom ((words.drop 1).take 4)) 15 dataHandle }

/-- ENGINE_HART_START: an idle hart takes the next kick in order (R402); a kick whose context is no more is dropped, and one whose gang
stops waits (R163). -/
def execEngineHartStart (hart : Nat) (s : State) : Out :=
  let t := hart0 + hart
  match kicks s hart with
  | [] => .next s
  | (node, ctx, words) :: rest =>
    if 64 ≤ hart ∨ liveTh (getTh s t) = true ∨ ctxStopped s ctx = true then .next s
    else
      let s1 : State := { s with harts := spSet [] s.harts hart rest }
      if (getCtx s ctx).live then .next (seat t (programThread s node ctx words) s1)
      else .next (if rest.isEmpty then s1 else pushOnce (.engineHartStart hart) s1)

end Sys2Proof.Machine
end

