-- ==== Sys2Proof/Machine/Links.lean ====
section
/-! DEFINITION. Links and arrays that fail: global links, flits, lanes, ports, peer links and SRAM rows, with their self-tests and the
error log (R26, R64, R68, R71, R136). -/

namespace Sys2Proof.Machine

/-! ### Global links and flits (R26, R64) -/

/-- GLOBAL_LINK_DOWN: both ends of the link are marked, link 14 − j being the far quadrant's number of it; the stream inputs on it are dead, and the
re-routing of the rest keeps every order and value (R21, R26, R43; log 13). -/
def execGlobalLinkDown (quadrant j : Nat) (s : State) : Out :=
  if 16 ≤ quadrant ∨ 15 ≤ j ∨ s.pkg.linkDown.contains (quadrant, j) = true then .next s
  else
    let far := (quadrant + j + 1) % 16
    .next ((s.streams.filter fun e => e.2.v && !e.2.failed).foldl (fun s e => loseInputs e.1 (e.2.lost (crosses · quadrant far)) s)
      { s with pkg := { s.pkg with linkDown := s.pkg.linkDown ++ [(quadrant, j), (far, 14 - j)] } })

/-- FLIT_BAD_CHECK: the flit is replayed, invisibly above the link (R64). -/
def execFlitBadCheck (port : Nat) (s : State) : Out :=
  let _ := port
  .next s

/-! ### The error log (R135, R136) -/

/-- The 32 bytes of an error record: unit, row or lane, what it is, and the master GTIME (R136; log 8). -/
def errorBytes (e : ErrRec) : List Byte :=
  leList 8 e.unit ++ leList 8 e.row ++ leList 8 (e.state % 16 + (if e.fixed then 16 else 0) + (if e.lane then 32 else 0)) ++ leList 8 e.time.toNat

/-- A live update is in progress (R133, R135). -/
def updating (s : State) : Bool := bit s.fw.updst 0

/-- Reports an ended test: the policy core wakes, and with TRIAGE as the test ended the record goes to the host; during an update both wait in the log
(R125, R129, R135, R136). -/
def reportError (e : ErrRec) (s : State) : State :=
  let s1 := push (.fwCoreWake .error) s
  if e.triage then sendMsg (message 5 0 32 false (errorBytes e)) s1 else s1

/-- Records that waited for an update to end are reported (R135). -/
def reportHeld (s : State) : State :=
  let due := s.errors.filter (·.due)
  due.foldl (fun s e => reportError e s) { s with errors := s.errors.map fun e => { e with due := false } }

/-- The record of a row or lane that is under test. -/
def testOf (s : State) (lane : Bool) (unit row : Nat) : Option ErrRec :=
  s.errors.find? fun e => e.lane == lane && e.unit == unit && e.row == row && (e.state == 0 || e.state == 5)

/-- Changes records of the log. -/
def mapErrors (f : ErrRec → ErrRec) (s : State) : State := { s with errors := s.errors.map f }

/-- An error starts a test, or counts against the test in progress (R136). -/
def startTest (lane : Bool) (unit row : Nat) (corrected : Bool) (s : State) : State :=
  match testOf s lane unit row with
  | some r => mapErrors (fun e => if e = r then { e with
      state := 5, fixed := e.fixed && corrected, at_ := if e.fixed then s.cycle else e.at_ } else e) s
  | none => { s with errors := s.errors ++ [⟨unit, row, lane, corrected, 0, 0, false, s.cycle, [], false⟩] }

/-- A test ends with its record in the log (R136). -/
def endTest (r : ErrRec) (state : Nat) (s : State) : State :=
  let r' : ErrRec := { r with state := state, time := gtime s, due := updating s, triage := bit s.fw.duty 4 }
  let s1 := mapErrors (fun e => if e = r then r' else e) s
  if updating s then s1 else reportError r' s1

/-- Spare rows of a unit in use (R136). -/
def sparesUsed (s : State) (unit : Nat) : Nat := (s.errors.filter fun e => !e.lane && e.unit == unit && e.state == 2).length

/-- SRAM_ROW_ERROR: a targeted self-test of the row starts (R136). -/
def execSramRowError (unit row : Nat) (corrected : Bool) (s : State) : Out := .next (startTest false unit row corrected s)

/-- ROW_SELFTEST_DONE: transient, or lasting: spared, and poisoned with no spare left (R136). -/
def execRowSelftestDone (unit row : Nat) (passed : Bool) (s : State) : Out :=
  match testOf s false unit row with
  | none => .next s
  | some r =>
    .next (endTest r (if passed && r.state == 0 then 1 else if sparesUsed s unit < Config.spareRows unit then 2 else 4) s)

/-- A port holds its traffic (R68). -/
def holdPort (port : Nat) (s : State) : State :=
  let p := spGet Port.reset s.ports port
  if p.up then { s with ports := spSet Port.reset s.ports port { p with training := true } } else s

/-- A port that neither retrains nor has a lane under test releases the traffic it holds, in its order (R68, R136). -/
def releasePort (port : Nat) (s : State) : State :=
  let p := spGet Port.reset s.ports port
  if p.retrain || s.errors.any fun e => e.lane && e.unit == port && (e.state == 0 || e.state == 5) then s
  else p.held.foldl (fun s r => emit r s) { s with ports := spSet Port.reset s.ports port { p with training := false, held := [] } }

/-- LANE_ERROR: a test of the lane starts while its port holds traffic (R68, R136). -/
def execLaneError (port : Nat) (lane : LaneFault) (s : State) : Out := .next (holdPort port (startTest true port lane.lane lane.fixed s))

/-! ### Ports (R68, R71, R101) -/

/-- A peer's UNREACH answer (R67). -/
def unreach : RemoteAnswer := ⟨4, 0, []⟩

/-- The peer entry through which a context's address goes, when the packages and ports that failed include it. -/
def failedEntry (s : State) (hit : Nat → Nat → Bool) (ctx : Nat) (a : Word) : Bool :=
  let k := getKey s ctx (hdl a)
  k.v && k.peer && hit k.pkg k.port

/-- The outstanding loads of a thread through a failed link are answered (R71, R244). -/
def failLoads (hit : Nat → Nat → Bool) (t : Nat) (s : State) : State :=
  let th := getTh s t
  (th.late.filter fun l => !l.done && decide (l.size < 7) && failedEntry s hit th.ctx l.addr).foldl (fun s l => answerLoad t l unreach s) s

/-- A forwarded transaction is answered (R71). -/
def failForward (f : Forward) (s : State) : State :=
  match f.issuer with
  | .thread t =>
    match (getTh s t).wait with
    | .remote d q => answerName t f d q unreach s
    | _ => { s with forwards := s.forwards.erase f }
  | _ => answerForward f unreach s

/-- A journal entry waits for an answer through a failed link: its destination, its counter, or the source of a copy. -/
def entryFails (s : State) (hit : Nat → Nat → Bool) (j : JEnt) : Bool :=
  j.live && !j.ref
    && (if j.opk = 1 then failedEntry s hit j.ctx j.caddr
        else failedEntry s hit j.ctx j.addr || (j.opk == 3 && failedEntry s hit j.ctx j.src))

/-- What goes through these packages and ports is answered UNREACH, and the mount entries reached through them are freed (R71, R101). -/
def loseRoutes (hit : Nat → Nat → Bool) (s : State) : State :=
  let s1 := (spKeys s.threads).foldl (fun s t => failLoads hit t s) s
  let s2 := (s1.forwards.filter fun f => hit f.tag.pkg f.tag.port).foldl (fun s f => failForward f s) s1
  let s3 := (s2.journal.filter fun e => entryFails s2 hit e.2).foldl (init := s2) fun s e =>
    retireEntry (e.1 / 32) (e.1 % 32) (some ⟨5, if e.2.opk = 1 then e.2.caddr else e.2.addr⟩) s
  (s3.keys.filter fun e => decide (65536 * 65536 ≤ e.1) && e.2.v && hit e.2.pkg e.2.port).foldl (init := s3) fun s e =>
    freeKey (e.1 / 65536) (e.1 % 65536) s

/-- A port's link goes down; a peer port's bit of PEEROK clears with it (R19, R71). -/
def portDown (port : Nat) (s : State) : State :=
  let s1 : State := { s with ports := spSet Port.reset s.ports port { spGet Port.reset s.ports port with up := false, training := false, retrain := false, held := [] } }
  if port < 16 then loseRoutes (fun _ p => p == port) { s1 with pkg := { s1.pkg with pkst := setBit s1.pkg.pkst (16 + port) false } } else s1

/-- PEER_LINK_DOWN: a peer port's link, or one route, a switch's way from the port to a package, goes down (R71). -/
def execPeerLinkDown (link : PeerLink) (s : State) : Out :=
  .next (if 16 ≤ link.port then s
    else
      match link.route with
      | none => portDown link.port s
      | some g =>
        if s.pkg.routeDown.contains (link.port, g) then s
        else loseRoutes (fun pkg p => p == link.port && pkg == g) { s with pkg := { s.pkg with routeDown := s.pkg.routeDown ++ [(link.port, g)] } })

/-- LANE_SELFTEST_DONE: a lane that fails is retired; its port retrains at the next lower width, or goes down with fewer than two good
lanes (R68, R136). -/
def execLaneSelftestDone (port lane : Nat) (passed : Bool) (s : State) : Out :=
  match testOf s true port lane with
  | none => .next s
  | some r =>
    if passed && r.state == 0 then .next (releasePort port (endTest r 1 s))
    else
      let p := spGet Port.reset s.ports port
      let p' : Port := { p with good := p.good - 1, width := max 2 (p.width / 2), training := true, retrain := true }
      let s1 := endTest r 3 { s with ports := spSet Port.reset s.ports port p' }
      .next (if p.good < 3 then portDown port s1 else s1)

/-- PORT_RETRAIN_DONE: the port works at its lower width and the traffic it held goes on (R68). -/
def execPortRetrainDone (port : Nat) (s : State) : Out :=
  .next (releasePort port { s with ports := spSet Port.reset s.ports port { spGet Port.reset s.ports port with retrain := false } })

end Sys2Proof.Machine
end

