-- ==== Sys2Proof/Machine/Firmware.lean ====
section
/-! DEFINITION. The firmware complex: its wakes, the host mailbox's messages, SPDM, partition records and live update (R120, R123 to
R135). -/

namespace Sys2Proof.Machine

/-! ### Wakes (R120, R125, R129) -/

/-- A firmware core is awake for a cause; one more event while it is awake is kept (R125). -/
def wakeNow (w : FwWake) (s : State) : State := modFwCore s (wakeCore w) fun c => { c with causes := c.causes ++ [(w, s.cycle)] }

/-- A non-resident queue's wake waits for a live update to end; host says that it goes there (R133). -/
def holdWake (q : Nat) (host : Bool) (s : State) : State :=
  { s with fw := { s.fw with held := if s.fw.held.contains (q, host) then s.fw.held else s.fw.held ++ [(q, host)] } }

/-- The packet core that asked for a mapping has done so. -/
def askedMapping (q : Nat) (s : State) : State := (List.finRange 6).foldl (fun s n => served (.packet n q) s) s

/-- The policy image runs: the core has been started and has not stopped for a hand-over (R15, R133). -/
def policyRuns (s : State) : Bool := policyUp s && !s.fw.stopped

/-! ### Mailbox messages (R131) -/

/-- A negative RESULT code. -/
def codeResult (n : Int) : Word := BitVec.ofInt 64 n

/-- Takes the message at the head when its type is the one given. -/
def withMessage (type : Nat) (s : State) (act : List Byte → State → State) : Out :=
  if inWaiting s && headType s == type then .next (takeMessage (act (inMessage s s.fw.hmihead) s)) else .next s

/-- A byte of a message. -/
def byteAt (m : List Byte) (i : Nat) : Nat := (m.getD i 0).toNat

/-- HMB_MAP: the policy core applies the mapping decision (R119, R129, R131). -/
def execHmbMap (s : State) : Out :=
  withMessage 4 s fun m s =>
    let q := leNum ((m.drop 8).take 2)
    push (if byteAt m 10 % 2 = 1 then .qgangMap q (byteAt m 10 / 2 % 16) (byteAt m 11) else .qgangUnmap q) s

/-- HMB_DEFRAG: with DEFRAG = 1 the copy the host names begins (R129, R131, R167). DESIGN CHOICE: with DEFRAG = 0 it gets RESULT −1 (log 78). -/
def execHmbDefrag (s : State) : Out :=
  withMessage 11 s fun m s =>
    if bit s.fw.duty 3 && defragOk s (byteAt m 8) (byteAt m 9) (byteAt m 10) then
      sendResult m 0 (push (.defragmentation (byteAt m 8) (byteAt m 9) (byteAt m 10)) s)
    else sendResult m (codeResult (-1)) s

/-- HMB_BAD_TYPE: RESULT −1 and nothing else (R131). -/
def execHmbBadType (s : State) : Out := withMessage 0 s fun m s => sendResult m (codeResult (-1)) s

/-- The payload length of a message. -/
def lenOf (m : List Byte) : Nat := bits (wordAt m 0) 47 32

/-- Writes image bytes into the slot that does not run. -/
def writeImage (o : Nat) (data : List Byte) (f : Fw) : Fw :=
  let put := fun (m : Sp Byte) => (upTo data.length).foldl (init := m) fun m i => spSet 0 m (o + i) (data.getD i 0)
  if f.running = 0 then { f with slotImg1 := put f.slotImg1 } else { f with slotImg0 := put f.slotImg0 }

/-- HMB_IMGW (R131, R133). -/
def execHmbImgw (s : State) : Out :=
  withMessage 7 s fun m s =>
    let o := leNum ((m.drop 8).take 4)
    let n := lenOf m
    if o % 4 ≠ 0 ∨ n < 4 ∨ 48 < n then sendResult m (codeResult (-1)) s
    else sendResult m 0 { s with fw := writeImage o ((m.drop 12).take (n - 4)) s.fw }

/-- A CREATE of a NODEREQ through the physical function's context: its RESULT, or it waits for a node record (R89, R90, R131). -/
def nodeRequest (m : List Byte) (s : State) : State :=
  let path : List Byte := [1, 0, 0, 0, 0, 0, 0, 0] ++ (m.drop 8).take 16
  match txHost s .pf false with
  | .error _ => sendResult m (codeResult (-1)) s
  | .ok x =>
    match txCreate x path ((upTo 4).map fun i => wordAt m (24 + 8 * i)) s with
    | .done v s1 => sendResult m (w64 v) s1
    | .fail r i => sendResult m (failWord r i) s
    | .miss n i => holdFor n i x.ctx .hmbNodereq { s with fw := { s.fw with waitReq := s.fw.waitReq ++ [(n, m)] } }
    | _ => s

/-- HMB_NODEREQ: the oldest whose node record has come, or the message at the head (R131). -/
def execHmbNodereq (s : State) : Out :=
  match s.fw.waitReq.find? fun r => !(s.missing.any (·.node == r.1)) with
  | some r => .next (nodeRequest r.2 { s with fw := { s.fw with waitReq := s.fw.waitReq.erase r } })
  | none => withMessage 9 s nodeRequest

/-! ### Partition records (R132) -/

/-- Bits set in a byte list. -/
def bitsOf (bs : List Byte) : List Nat := (upTo (8 * bs.length)).filter fun n => (bs.getD (n / 8) 0).getLsbD (n % 8)

/-- The memory ranges of a record: entries up to one of size 0. -/
def memoryOf (bs : List Byte) : Nat → List (Nat × Nat)
  | 0 => []
  | n + 1 =>
    let size := (wordAt bs 8).toNat
    if size = 0 then [] else ((wordAt bs 0).toNat, size) :: memoryOf (bs.drop 16) n

/-- The switch routes of a record: port and package. -/
def routesOf (bs : List Byte) : List (Nat × Nat) :=
  (upTo 64).filterMap fun i =>
    let v := leNum ((bs.drop (4 * i)).take 4)
    if v / 2 ^ 31 = 1 then some (v % 16, v / 256 % 256) else none

/-- The reserved bits of a record are zero and its fields in range, for a partition number (R132). -/
def recordOk (part : Nat) (bs : List Byte) : Bool :=
  let w := fun i => wordAt bs i
  let zero := fun (o n : Nat) => ((bs.drop o).take n).all (· == 0)
  let rot := bits (w 8) 1 0
  bits (w 0) 4 0 == part && decide (part < 20) && bit (w 0) 5 && bits (w 0) 7 6 == 0 && bits (w 0) 15 13 == 0 && bits (w 0) 31 16 == 1
    && bits (w 0) 63 32 == 0 && bits (w 8) 15 2 == 0 && bits (w 8) 63 32 == 0 && decide (rot ≤ 2) && decide (2 ^ rot ≤ bits (w 0) 12 8 + 1)
    && ((upTo 16).all fun q => decide (bits (w 0x30) (4 * q + 3) (4 * q) ≤ 8)) && bits (w 0x38) 63 16 == 0 && zero 0x48 56
    && ((upTo 128).all fun l => decide (byteAt bs (0x100 + l) < 128))
    && ((memoryOf (bs.drop 0x180) 32).all fun r => r.1 % 2097152 == 0 && r.2 % 2097152 == 0 && decide (r.1 + r.2 ≤ physEnd))
    && ((upTo 64).all fun i => let v := leNum ((bs.drop (0x380 + 4 * i)).take 4); v / 16 % 16 == 0 && v / 65536 % 32768 == 0)
    && zero 0x480 2944

/-- A record as a partition (R132). -/
def partitionOf (bs : List Byte) : Partition :=
  { Partition.none with
    v := true, tenants := (upTo (bits (wordAt bs 0) 12 8 + 1)).map fun i => byteAt bs (16 + i), rot := bits (wordAt bs 8) 1 0
    slice := bits (wordAt bs 8) 31 16 + 1, qsp := (upTo 16).map fun q => bits (wordAt bs 0x30) (4 * q + 3) (4 * q)
    ports := (wordAt bs 0x38).setWidth 16, harts := wordAt bs 0x40, cores := bitsOf ((bs.drop 0x80).take 128)
    slices := (upTo 128).map fun l => byteAt bs (0x100 + l), memory := memoryOf (bs.drop 0x180) 32, routes := routesOf (bs.drop 0x380)
    raw := bs.take 4096 }

/-- Two ranges of bytes overlap. -/
def rangesMeet (a b : Nat × Nat) : Bool := decide (a.1 < b.1 + b.2) && decide (b.1 < a.1 + a.2)

/-- Another installed partition holds a core, hart, range, slice or port of this one (R132). -/
def heldElsewhere (s : State) (part : Nat) (p : Partition) : Bool :=
  s.parts.any fun e => e.2.v && e.1 != part
    && (p.cores.any e.2.cores.contains || p.harts &&& e.2.harts != 0 || p.slices.any e.2.slices.contains || p.ports &&& e.2.ports != 0
      || p.memory.any fun r => e.2.memory.any (rangesMeet r))

/-- A context of the partition lives. -/
def partLives (s : State) (part : Nat) : Bool := s.ctxs.any fun e => e.2.live && e.1 != 0 && e.1 != 0xFFFF && e.2.part == part

/-- A resource of the installed record that live contexts of the partition use is missing from the new one (R132): a core with a thread, running
or saved, a launch, a home of a travelling launch or a stream of it, a hart with a program or kicks, memory of its nodes, a slice, quadrant scratchpad, a port or route that an entry goes through,
or a tenant (log 22). -/
def losesUsed (s : State) (part : Nat) (new : Partition) : Bool :=
  let old := getPart s part
  let own := fun (c : Nat) => (getCtx s c).part == part && c != 0
  let usedCore := fun (c : Nat) => ((upTo 16).any fun n => let th := getTh s (16 * c + n); liveTh th && th.part == part)
    || (s.saves.any fun e => e.2.v && e.2.threads.any fun x => coreOf x.1 == c && x.2.part == part)
    || ((getCore s c).restored.any fun x => x.2.part == part)
    || (s.launches.any fun l => l.2.v && l.2.part == part && (l.2.cores.contains c || l.2.segs.any fun g => (g.drop 6).contains c))
    || s.streams.any fun t => t.2.v && t.2.part == part && t.2.members.any fun k => k.core == c
  let usedHart := fun (h : Nat) => (liveTh (getTh s (hart0 + h)) && own (getTh s (hart0 + h)).ctx) || (kicks s h).any fun k => own k.2.1
  let usedRange := fun (r : Nat × Nat) => s.alloc.any fun x =>
    (getNode s x.node).part == part && (getNode s x.node).owner != 0 && rangesMeet r (x.page * 4096, x.count * 4096)
      && !(new.memory.any fun m => decide (m.1 ≤ x.page * 4096) && decide (x.page * 4096 + x.count * 4096 ≤ m.1 + m.2))
  let usedPort := fun (p : Nat) => s.keys.any fun k => k.2.v && k.2.peer && k.2.port == p && own (k.1 / 65536)
  let usedRoute := fun (r : Nat × Nat) => s.keys.any fun k => k.2.v && k.2.peer && k.2.port == r.1 && k.2.pkg == r.2 && own (k.1 / 65536)
  old.v && partLives s part
    && ((old.cores.any fun c => !new.cores.contains c && usedCore c)
      || ((upTo 64).any fun h => old.harts.getLsbD h && !new.harts.getLsbD h && usedHart h)
      || old.memory.any usedRange || (old.slices.any fun k => !new.slices.contains k)
      || ((upTo 16).any fun q => decide (new.qsp.getD q 0 < old.qsp.getD q 0)) || (old.routes.any fun r => !new.routes.contains r && usedRoute r)
      || ((upTo 16).any fun p => old.ports.getLsbD p && !new.ports.getLsbD p && usedPort p)
      || old.tenants.any fun t => !new.tenants.contains t && s.ctxs.any fun e => e.2.live && own e.1 && e.2.tenant == t)

/-- The name of a partition's export directory in the system context's root (R101; log 22): export and two digits. -/
def exportName (part : Nat) : List Byte :=
  [0x65, 0x78, 0x70, 0x6F, 0x72, 0x74, BitVec.ofNat 8 (0x30 + part / 10), BitVec.ofNat 8 (0x30 + part % 10)]

/-- Routes of an old record that a new one lacks are lost (R71, R132). -/
def dropRoutes (old new : Partition) (s : State) : State :=
  loseRoutes (fun pkg port => old.routes.contains (port, pkg) && !new.routes.contains (port, pkg)) s

/-- Installs a checked record: its export directory is made with the first, and the slices of a rotation begin at a frame boundary (R101,
R132, R165). -/
def installRecord (part : Nat) (new : Partition) (s : State) : State :=
  let old := getPart s part
  let begun := (s.cycle + 2047) / 2048 * 2048
  if old.v then
    dropRoutes old new { s with parts := spSet Partition.none s.parts part { new with exports := old.exports, turn := 0, began := begun } }
  else
    match newNode s 0 with
    | none => s
    | some n =>
      let dir : Node := { Node.none with v := true, gen := 1, owner := 0, part := part, made := gtime s }
      let s1 := addBinding (getCtx s 0).root (exportName part) n rootCeil (addNode n dir s)
      { s1 with parts := spSet Partition.none s1.parts part { new with exports := n, began := begun } }

/-- Removes a record: splits return to 64, routes are lost, and the export directory goes (R101, R132). -/
def removeRecord (part : Nat) (s : State) : State :=
  let old := getPart s part
  let s1 := dropRoutes old Partition.none { s with
    parts := spErase part s.parts, splits := s.splits.filter fun e => !(clustersOf old.cores).contains e.1 }
  let s2 := (s1.keys.filter fun e => e.1 / 65536 == 65536 + part).foldl (init := s1) fun s e => freeKey (e.1 / 65536) (e.1 % 65536) s
  dropRef old.exports (setBindings (getCtx s2 0).root ((bindingsOf s2 (getCtx s2 0).root).filter (·.node != old.exports)) s2)

/-- No key storage is left for one more record; a record whose export directory finds no node number counts as one that finds none (R132; log 22). -/
def storageFull (s : State) : Bool := decide (Config.keyStorage ≤ (s.parts.filter (·.2.v)).length) || (newNode s 0).isNone

/-- HMB_PARTREC: the key core checks the staged record and installs it, or removes one (R132). -/
def execHmbPartrec (s : State) : Out :=
  withMessage 8 s fun m s =>
    let w := wordAt m 8
    let part := bits w 4 0
    let bs := (upTo 4096).map fun i => spGet 0 s.fw.stage i
    if bits w 7 5 ≠ 0 ∨ bits w 63 9 ≠ 0 ∨ 19 < part then sendResult m (codeResult (-1)) s
    else if bit w 8 then
      if partLives s part then sendResult m (codeResult (-3)) s
      else sendResult m 0 (if (getPart s part).v then removeRecord part s else s)
    else if !recordOk part bs then sendResult m (codeResult (-1)) s
    else if heldElsewhere s part (partitionOf bs) then sendResult m (codeResult (-2)) s
    else if losesUsed s part (partitionOf bs) then sendResult m (codeResult (-3)) s
    else if !(getPart s part).v && storageFull s then sendResult m (codeResult (-4)) s
    else sendResult m 0 (installRecord part (partitionOf bs) s)

/-! ### SPDM (R127; message codes of DMTF SPDM 1.3, log 8) -/

/-- Sends an SPDM message in fragments of up to 56 bytes. fuel bounds them. -/
def sendSpdm : Nat → List Byte → State → State
  | 0, _, s => s
  | n + 1, bs, s =>
    let s1 := sendMsg (message 6 0 (min 56 bs.length) (bs.length ≤ 56) (bs.take 56)) s
    if bs.length ≤ 56 then s1 else sendSpdm n (bs.drop 56) s1

/-- The measurement blocks by index, each with its DMTF value type (R127; log 8): boot ROM; key-core image with its security version; policy image;
packet images; board configuration; the partition table with the schedule in force. -/
def measured (s : State) : List (Nat × Nat × List Byte) :=
  let part := Config.slotPart (imageOf s.fw s.fw.running)
  let table := (s.parts.flatMap fun e => e.2.raw) ++ (upTo 8).flatMap fun i => leList 8 (spGet 0 s.pkg.tdsNow i).toNat
  [(1, 0, sha3 Config.bootRom), (2, 1, sha3 (part 1) ++ leList 4 (slotSecurity s.fw s.fw.running)), (3, 1, sha3 (part 2)), (4, 1, sha3 (part 3)),
    (5, 3, sha3 (part 4)), (6, 3, sha3 (table ++ leList 8 s.pkg.tdctl.toNat))]

/-- The head of an SPDM answer: version, response code, two parameters. -/
def spdmHead (version code p1 p2 : Nat) : List Byte := [version, code, p1, p2].map (BitVec.ofNat 8)

/-- A measurement block in the DMTF form: index, specification, size, type, length, value. -/
def spdmBlock (b : Nat × Nat × List Byte) : List Byte :=
  leList 1 b.1 ++ [1] ++ leList 2 (b.2.2.length + 3) ++ leList 1 b.2.1 ++ leList 2 b.2.2.length ++ b.2.2

/-- A nonce of 32 bytes: four free values (log 11). -/
def spdmNonce (s : State) : List Byte := (upTo 4).flatMap fun i => leList 8 (Config.freeWord (s.freeCount + i)).toNat

/-- The signature of the messages so far with an answer: 4,627 bytes of ML-DSA-87 over their SHA3-512 digest (R127, FIPS 204). -/
def spdmSign (m : List Byte) : List Byte := (upTo 4627).map fun i => (Config.identitySign Config.identityKeys (sha3 m)).getD i 0

/-- Answers a request, with a signature where it asks for one; the messages since GET_VERSION are kept for the next (R127). -/
def spdmAnswer (req body : List Byte) (signed : Bool) (s : State) : State :=
  let log := s.fw.spdmLog ++ req
  let ans := body ++ (if signed then spdmSign (log ++ body) else [])
  sendSpdm (ans.length + 1) ans { s with freeCount := s.freeCount + 4, fw := { s.fw with spdmLog := log ++ ans } }

/-- The event that answers a request, by its code. -/
def spdmEvent (req : List Byte) : Instr :=
  match byteAt req 1 with
  | 0x84 => .spdmGetVersion req
  | 0xE1 => .spdmGetCapabilities req
  | 0xE3 => .spdmNegotiateAlgorithms req
  | 0x81 => .spdmGetDigests req
  | 0x82 => .spdmGetCertificate req
  | 0x83 => .spdmChallenge req
  | 0xE0 => .spdmGetMeasurements req
  | _ => .spdmUnsupported req

/-- HMB_SPDM: fragments are collected until LAST completes a request (R127, R131). -/
def execHmbSpdm (s : State) : Out :=
  withMessage 6 s fun m s =>
    let req := s.fw.spdm ++ (m.drop 8).take (min 56 (lenOf m))
    if bit (wordAt m 0) 48 then push (spdmEvent req) { s with fw := { s.fw with spdm := [] } }
    else { s with fw := { s.fw with spdm := req } }

/-- SPDM_GET_VERSION begins the messages anew; the one version is 1.3 (R127). -/
def execSpdmGetVersion (req : List Byte) (s : State) : Out :=
  .next (spdmAnswer req (spdmHead 0x10 0x04 0 0 ++ [0, 1] ++ leList 2 0x1300) false { s with fw := { s.fw with spdmLog := [] } })

/-- SPDM_GET_CAPABILITIES: certificates, challenges and signed measurements, no sessions (R127). -/
def execSpdmGetCapabilities (req : List Byte) (s : State) : Out :=
  .next (spdmAnswer req (spdmHead 0x13 0x61 0 0 ++ [0] ++ leList 1 (Config.spdmFigure 0) ++ leList 2 0 ++ leList 4 0x16 ++ leList 4 (Config.spdmFigure 1)
    ++ leList 4 (Config.spdmFigure 2)) false s)

/-- SPDM_NEGOTIATE_ALGORITHMS: SHA3-512 for hashes and measurements, and ML-DSA-87 as the one signing algorithm (R127). -/
def execSpdmNegotiateAlgorithms (req : List Byte) (s : State) : Out :=
  .next (spdmAnswer req (spdmHead 0x13 0x63 0 0 ++ leList 2 40 ++ [1, 0] ++ leList 4 0x40 ++ leList 4 0 ++ leList 4 0x20 ++ List.replicate 12 0 ++ [1, 0]
    ++ leList 2 0 ++ leList 4 Config.mlDsaCode.toNat) false s)

/-- SPDM_GET_DIGESTS: the digest of the one certificate chain (R127). -/
def execSpdmGetDigests (req : List Byte) (s : State) : Out := .next (spdmAnswer req (spdmHead 0x13 0x01 1 1 ++ sha3 Config.certChain) false s)

/-- SPDM_GET_CERTIFICATE: the part of the chain that the request names (R127). -/
def execSpdmGetCertificate (req : List Byte) (s : State) : Out :=
  let rest := Config.certChain.drop (leNum ((req.drop 4).take 2))
  let part := rest.take (leNum ((req.drop 6).take 2))
  .next (spdmAnswer req (spdmHead 0x13 0x02 (byteAt req 2) 0 ++ leList 2 part.length ++ leList 2 (rest.length - part.length) ++ part) false s)

/-- SPDM_CHALLENGE: the chain's digest, a nonce, the measurement summary where one is asked for, and the signature (R127). -/
def execSpdmChallenge (req : List Byte) (s : State) : Out :=
  let summary := if byteAt req 3 = 0 then [] else sha3 ((measured s).flatMap spdmBlock)
  .next (spdmAnswer req (spdmHead 0x13 0x03 (byteAt req 2) 1 ++ sha3 Config.certChain ++ spdmNonce s ++ summary ++ leList 2 0 ++ (req.drop 36).take 8)
    true s)

/-- SPDM_GET_MEASUREMENTS: the number of blocks, all of them, or one; a block that is not there is an invalid request (R127). -/
def execSpdmGetMeasurements (req : List Byte) (s : State) : Out :=
  let op := byteAt req 3
  let signed := bit (w64 (byteAt req 2)) 0
  let blocks := if op = 0xFF then measured s else (measured s).filter (·.1 == op)
  let bytes := blocks.flatMap spdmBlock
  if op ≠ 0 ∧ blocks.isEmpty = true then .next (sendSpdm 2 [0x13, 0x7F, 0x01, 0] s)
  else
    .next (spdmAnswer req (spdmHead 0x13 0x60 (if op = 0 then 6 else 0) 0 ++ leList 1 blocks.length ++ leList 3 bytes.length ++ bytes ++ spdmNonce s
      ++ leList 2 0 ++ (req.drop (if signed then 37 else 4)).take 8) signed s)

/-- SPDM_UNSUPPORTED: ERROR UnsupportedRequest with the request's code (R127). -/
def execSpdmUnsupported (req : List Byte) (s : State) : Out :=
  .next (sendSpdm 2 [0x13, 0x7F, 0x07, BitVec.ofNat 8 (byteAt req 1)] s)

/-! ### Live update (R133 to R135) -/

/-- UPDST with RESULT, PHASE and GO (R135). -/
def updWord (result phase : Nat) (go : Bool) : Word := w64 (result % 16 * 16 + phase % 8 * 2 + if go then 1 else 0)

/-- The entries of the resident queue gangs: tumbler and slot base, queue count, owner, first queue number (R134). DESIGN CHOICE: the first field is
tumbler × 64 + slot base (log 76). -/
def handoverGangs (s : State) : List (List Byte) :=
  let resident := s.queues.filter fun e => e.2.v && e.2.graph && e.2.resident
  ((resident.map fun e => e.2.gang).eraseDups).map fun g =>
    let qs := resident.filter fun e => e.2.gang == g
    let first := qs.headD (0, GQueue.none)
    leList 2 first.2.tumbler ++ leList 2 qs.length ++ leList 4 first.2.owner ++ leList 8 first.1

/-- The handover structure (R134). -/
def handoverOf (s : State) : List Byte :=
  let gangs := handoverGangs s
  let tail := gangs.flatMap id ++ s.fw.held.flatMap fun q => leList 8 (q.1 % 8192)
  leList 2 1 ++ leList 2 0 ++ leList 4 (128 + tail.length) ++ leList 8 (Config.manifestVersion (manifestOf s.fw s.fw.running)).toNat
    ++ leList 8 s.fw.quiesced.toNat ++ leList 8 s.fw.duty.toNat ++ leList 8 s.pkg.cap ++ leList 4 gangs.length ++ leList 4 s.fw.held.length
    ++ List.replicate 16 0 ++ sha3 tail ++ tail

/-- Packet cores and fetching resume: held wakes are served and posted records fetched (R133). -/
def resumeFetch (s : State) : State :=
  let held := s.fw.held
  let s1 := held.foldl (init := { s with fw := { s.fw with held := [] } }) fun s q =>
    pushOnce (.fwCoreWake (if q.2 then .doorbell q.1 else .packet (Config.packetCore q.1) q.1)) s
  (s1.queues.filter fun e => e.2.v && e.2.graph && e.2.resident && e.2.head != e.2.tail).foldl (init := s1) fun s e =>
    pushOnce (.recordFetch e.1) s

/-- An update ends with a result (R135). -/
def endUpdate (result : Nat) (s : State) : State :=
  reportHeld (resumeFetch (served .update { s with fw := { s.fw with updst := updWord result 0 false, rolled := false, stopped := false, handover := [] } }))

/-- GO is written: refused while busy; else the update begins at its first step (R133, R135). -/
def startUpdate (s : State) : State :=
  if updating s ∨ bit s.vf.vfstat 0 = true then { s with fw := { s.fw with updst := setBits s.fw.updst 7 4 5 } }
  else push (.fwCoreWake .update) (wakeNow .update { s with fw := { s.fw with updst := updWord 0 1 true } })

/-- UPDST_GO (R17, R133, R135). -/
def execUpdstGo (fn : HostFn) (s : State) : Out :=
  if fn ≠ .pf then .next s
  else if !ready s then .next (reply fn 1 0 [] s)
  else .next (startUpdate s)

/-- A packet core has a packet in hand (R133). -/
def packetsBusy (s : State) : Bool := (upTo 6).any fun n => !(fwCore s (n + 1)).causes.isEmpty

/-- The address of the handover structure in the policy core's SRAM, on a 64-byte boundary (R134; log 8). -/
def handoverAddr : Nat := 64 * (Config.handoverPlace % 2048)

/-- The bytes of the policy core's private SRAM (R123). -/
def policySram : Nat := 262144

/-- Bytes are written to the policy core's SRAM, which ends with its 256 KiB (R123). -/
def putSram (m : Sp Byte) (o : Nat) (bs : List Byte) : Sp Byte :=
  (upTo bs.length).foldl (fun m i => if o + i < policySram then spSet 0 m (o + i) (bs.getD i 0) else m) m

/-- The policy core's images start at their entry with the structure's address in x1, and their heartbeat is awaited (R133, R135). -/
def startImages (s : State) : State :=
  let s1 := modFwCore s 0 fun c => { c with pc := Config.policyEntry, x := spSet 0 c.x 1 (w64 handoverAddr) }
  { s1 with fw := { s1.fw with updst := setBits s1.fw.updst 3 1 5, started := s.cycle, stopped := false } }

/-- The next step of an update: quiesce, verify, hand over, start; a slot that fails its check leaves the old image running (R126, R133,
R134). -/
def updateStep (s : State) : State :=
  let slot := 1 - s.fw.running
  let go := fun (n : Nat) (s : State) => push (.fwCoreWake .update) { s with fw := { s.fw with updst := setBits s.fw.updst 3 1 n } }
  match bits s.fw.updst 3 1 with
  | 1 => if packetsBusy s then pushOnce (.fwCoreWake .update) s else go 2 { s with fw := { s.fw with quiesced := gtime s } }
  | 2 =>
    if !slotSigned s.fw slot then endUpdate 2 s
    else if slotSecurity s.fw slot < s.fw.minSec then endUpdate 3 s
    else go 3 s
  | 3 =>
    let bs := handoverOf s
    go 4 (modFwCore { s with fw := { s.fw with handover := bs, stopped := true } } 0 fun c => { c with sram := putSram c.sram handoverAddr bs })
  | 4 => startImages s
  | _ => s

/-- FW_CORE_WAKE. A non-resident queue's wake waits during an update; it goes to the host with DOORB, or to a packet core, which asks the policy core
for a mapping; none wakes before bring-up stage 7 has started them. The policy and the key core take the mailbox message at the head when it is theirs; the key core takes a step of an update (R120, R15,
R125, R129, R131, R133). -/
def execFwCoreWake (core : FwWake) (s : State) : Out :=
  if !policyUp s then .next s
  else
  match core with
  | .packet n q => .next (if updating s then holdWake q false s else pushOnce (.fwCoreWake (.mapping q)) (wakeNow (.packet n q) s))
  | .doorbell q =>
    .next (if updating s then holdWake q true s else sendMsg (message 3 0 4 false (leList 2 q ++ leList 2 (getQueue s q).tail)) s)
  | .mapping q => .next (wakeNow core (askedMapping q s))
  | .mailbox _ => .next (if inWaiting s && inboundWake s == core then pushOnce (inboundEvent s) (wakeNow core s) else s)
  | .deferred _ => .next (if updating s then pushOnce (.fwCoreWake core) s else wakeNow core s)
  | .update => .next (if updating s then updateStep s else s)
  | c => .next (wakeNow c s)

/-- The images that were started can accept the structure in the policy core's SRAM: its version is one they know and its digest is right
(R134). -/
def handoverGood (s : State) : Bool :=
  let c := fwCore s 0
  let bs := (upTo s.fw.handover.length).map fun i => spGet 0 c.sram ((spGet 0 c.x 1).toNat + i)
  let slot := if s.fw.rolled then s.fw.running else 1 - s.fw.running
  Config.acceptsHandover (Config.slotPart (imageOf s.fw slot) 2) (leNum (bs.take 2)) && sha3 (bs.drop 128) == (bs.drop 64).take 64

/-- 10 ms of the core clock (R10, R133). -/
def heartbeatCycles : Nat := 33000000

/-- The heartbeat is awaited and comes in time (R133). -/
def heartbeatDue (s : State) : Bool := updating s && bits s.fw.updst 3 1 == 5 && decide (s.cycle < s.fw.started + heartbeatCycles) && handoverGood s

/-- UPDATE_HEARTBEAT: the images that were started run: after a roll back the old ones, whose result stands (R133, R135). -/
def execUpdateHeartbeat (s : State) : Out :=
  if !heartbeatDue s then .next s
  else if s.fw.rolled then .next (endUpdate 4 s)
  else
    let slot := 1 - s.fw.running
    let s1 : State := { s with fw := { s.fw with running := slot }, pkg := { s.pkg with pkst := setBits s.pkg.pkst 12 12 slot } }
    .next (endUpdate 1 (applyCap s1))

/-- HEARTBEAT_TIMEOUT: the first missed heartbeat rolls back to the old images, with the same structure; the second starts a warm reset (R135). -/
def execHeartbeatTimeout (s : State) : Out :=
  if !updating s ∨ bits s.fw.updst 3 1 ≠ 5 ∨ s.cycle < s.fw.started + heartbeatCycles then .next s
  else if s.fw.rolled then .next (restart s)
  else .next (reportHeld (startImages { s with fw := { s.fw with rolled := true, updst := updWord 4 5 true } }))

end Sys2Proof.Machine
end

