-- ==== Sys2Proof/Machine/Integer.lean ====
section
/-! DEFINITION. Integer instructions, majors 0x00 to 0x0A (R290 to R298). -/

namespace Sys2Proof.Machine

/-- A two-source integer instruction: the result is written at once (R156, R290). -/
def int2 (len : Nat) (q : Bool) (d a b : Reg) (f : Word → Word → Word) (s : State) : Out :=
  withRegs [a, b] [d] s fun s' => result s len q d (f (xr (cur s') a) (xr (cur s') b)) s'

/-- A one-source integer instruction. -/
def int1 (len : Nat) (q : Bool) (d a : Reg) (f : Word → Word) (s : State) : Out :=
  withRegs [a] [d] s fun s' => result s len q d (f (xr (cur s') a)) s'

/-- A one-source instruction with a literal and no E word, and so no travel live mask (R175, R258). -/
def int1K (q : Bool) (d a : Reg) (f : Word → Word) (s : State) : Out :=
  withRegs [a] [d] s fun s' => .next (retireLive s 12 none q (wr s'.me d (f (xr (cur s') a)) s'))

/-- A two-source instruction that also reads its destination (R296, R298). -/
def int3 (q : Bool) (d a b : Reg) (f : Word → Word → Word → Word) (s : State) : Out :=
  withRegs [a, b, d] [d] s fun s' => result s 4 q d (f (xr (cur s') d) (xr (cur s') a) (xr (cur s') b)) s'

/-- A sum saturated to the range of i64 (R291). -/
def satAddS (a b : Word) : Word := BitVec.ofInt 64 (clampS 64 (a.toInt + b.toInt))
/-- A difference saturated to the range of i64. -/
def satSubS (a b : Word) : Word := BitVec.ofInt 64 (clampS 64 (a.toInt - b.toInt))
/-- A sum saturated to the range of n64. -/
def satAddU (a b : Word) : Word := BitVec.ofInt 64 (clampU 64 (Int.ofNat a.toNat + Int.ofNat b.toNat))
/-- A difference saturated to the range of n64: a negative result gives 0. -/
def satSubU (a b : Word) : Word := BitVec.ofInt 64 (clampU 64 (Int.ofNat a.toNat - Int.ofNat b.toNat))
/-- A product saturated to the range of i64 (R297). -/
def satMulS (a b : Word) : Word := BitVec.ofInt 64 (clampS 64 (a.toInt * b.toInt))
/-- A product saturated to the range of n64. -/
def satMulU (a b : Word) : Word := BitVec.ofInt 64 (clampU 64 (Int.ofNat (a.toNat * b.toNat)))
/-- A shift count: bits [5:0]. -/
def sh (b : Word) : Nat := b.toNat % 64

/-- add (R291). -/
def execAdd (q : Bool) (d a b : Reg) (x : Bool) (s : State) : Out := int2 (extLen x) q d a b (· + ·) s
/-- add.sat (R291). -/
def execAddSat (q : Bool) (d a b : Reg) (s : State) : Out := int2 12 q d a b satAddS s
/-- sub (R291). -/
def execSub (q : Bool) (d a b : Reg) (x : Bool) (s : State) : Out := int2 (extLen x) q d a b (· - ·) s
/-- sub.sat (R291). -/
def execSubSat (q : Bool) (d a b : Reg) (s : State) : Out := int2 12 q d a b satSubS s
/-- addn: the bits of add (R291). -/
def execAddn (q : Bool) (d a b : Reg) (x : Bool) (s : State) : Out := int2 (extLen x) q d a b (· + ·) s
/-- addn.sat (R291). -/
def execAddnSat (q : Bool) (d a b : Reg) (s : State) : Out := int2 12 q d a b satAddU s
/-- subn: the bits of sub (R291). -/
def execSubn (q : Bool) (d a b : Reg) (x : Bool) (s : State) : Out := int2 (extLen x) q d a b (· - ·) s
/-- subn.sat (R291). -/
def execSubnSat (q : Bool) (d a b : Reg) (s : State) : Out := int2 12 q d a b satSubU s
/-- and (R291). -/
def execAnd (q : Bool) (d a b : Reg) (s : State) : Out := int2 4 q d a b (· &&& ·) s
/-- or (R291). -/
def execOr (q : Bool) (d a b : Reg) (s : State) : Out := int2 4 q d a b (· ||| ·) s
/-- xor (R291). -/
def execXor (q : Bool) (d a b : Reg) (s : State) : Out := int2 4 q d a b (· ^^^ ·) s
/-- andn (R291). -/
def execAndn (q : Bool) (d a b : Reg) (s : State) : Out := int2 4 q d a b (fun u v => u &&& ~~~v) s
/-- orn (R291). -/
def execOrn (q : Bool) (d a b : Reg) (s : State) : Out := int2 4 q d a b (fun u v => u ||| ~~~v) s
/-- xnor (R291). -/
def execXnor (q : Bool) (d a b : Reg) (s : State) : Out := int2 4 q d a b (fun u v => ~~~(u ^^^ v)) s
/-- sll (R291). -/
def execSll (q : Bool) (d a b : Reg) (s : State) : Out := int2 4 q d a b (fun u v => u <<< sh v) s
/-- srl (R291). -/
def execSrl (q : Bool) (d a b : Reg) (s : State) : Out := int2 4 q d a b (fun u v => u >>> sh v) s
/-- sra (R291). -/
def execSra (q : Bool) (d a b : Reg) (s : State) : Out := int2 4 q d a b (fun u v => u.sshiftRight (sh v)) s
/-- rol (R291). -/
def execRol (q : Bool) (d a b : Reg) (s : State) : Out := int2 4 q d a b (fun u v => u.rotateLeft (sh v)) s
/-- ror (R291). -/
def execRor (q : Bool) (d a b : Reg) (s : State) : Out := int2 4 q d a b (fun u v => u.rotateRight (sh v)) s

/-- ahdl (R292). -/
def execAhdl (q : Bool) (d a : Reg) (s : State) : Out := int1 4 q d a (fun u => w64 (hdl u)) s
/-- aoff (R292). -/
def execAoff (q : Bool) (d a : Reg) (s : State) : Out := int1 4 q d a (fun u => w64 (off u)) s
/-- amake (R292). -/
def execAmake (q : Bool) (d a b : Reg) (s : State) : Out := int2 4 q d a b (fun u v => mkAddr (u.toNat % 65536) (off v)) s
/-- aadd: the only integer instruction that traps, on offset carry, with x[d] unchanged (R292). -/
def execAadd (q : Bool) (d a b : Reg) (s : State) : Out :=
  withRegs [a, b] [d] s fun s' =>
    match offAdd (xr (cur s') a) (xr (cur s') b).toInt with
    | some v => result s 4 q d v s'
    | none => exactAt 4 ⟨2, 5, xr (cur s') a⟩ s
/-- adiff (R292). -/
def execAdiff (q : Bool) (d a b : Reg) (s : State) : Out := int2 4 q d a b (fun u v => w64 (off u) - w64 (off v)) s

/-- addi (R293). -/
def execAddi (q : Bool) (d a : Reg) (i : BitVec 15) (x : Bool) (s : State) : Out := int1 (extLen x) q d a (· + imm i) s
/-- addi.sat (R293). -/
def execAddiSat (q : Bool) (d a : Reg) (i : BitVec 15) (s : State) : Out := int1 12 q d a (satAddS · (imm i)) s
/-- addi with a literal (R293). -/
def execAddiK (q : Bool) (d a : Reg) (k : Word) (x : Bool) (s : State) : Out := if x then int1 20 q d a (· + k) s else int1K q d a (· + k) s
/-- addi.sat with a literal (R293). -/
def execAddiSatK (q : Bool) (d a : Reg) (k : Word) (s : State) : Out := int1 20 q d a (satAddS · k) s
/-- andi (R293). -/
def execAndi (q : Bool) (d a : Reg) (i : BitVec 15) (s : State) : Out := int1 4 q d a (· &&& imm i) s
/-- andi with a literal (R293). -/
def execAndiK (q : Bool) (d a : Reg) (k : Word) (s : State) : Out := int1K q d a (· &&& k) s
/-- ori (R293). -/
def execOri (q : Bool) (d a : Reg) (i : BitVec 15) (s : State) : Out := int1 4 q d a (· ||| imm i) s
/-- ori with a literal (R293). -/
def execOriK (q : Bool) (d a : Reg) (k : Word) (s : State) : Out := int1K q d a (· ||| k) s
/-- xori (R293). -/
def execXori (q : Bool) (d a : Reg) (i : BitVec 15) (s : State) : Out := int1 4 q d a (· ^^^ imm i) s
/-- xori with a literal (R293). -/
def execXoriK (q : Bool) (d a : Reg) (k : Word) (s : State) : Out := int1K q d a (· ^^^ k) s
/-- slli (R294). -/
def execSlli (q : Bool) (d a : Reg) (h : BitVec 6) (s : State) : Out := int1 4 q d a (· <<< h.toNat) s
/-- srli (R294). -/
def execSrli (q : Bool) (d a : Reg) (h : BitVec 6) (s : State) : Out := int1 4 q d a (· >>> h.toNat) s
/-- srai (R294). -/
def execSrai (q : Bool) (d a : Reg) (h : BitVec 6) (s : State) : Out := int1 4 q d a (·.sshiftRight h.toNat) s
/-- rori (R294). -/
def execRori (q : Bool) (d a : Reg) (h : BitVec 6) (s : State) : Out := int1 4 q d a (·.rotateRight h.toNat) s
/-- li (R293). -/
def execLi (q : Bool) (d : Reg) (i : BitVec 15) (s : State) : Out :=
  withRegs [] [d] s fun s' => result s 4 q d (imm i) s'
/-- li with a literal (R293). -/
def execLiK (q : Bool) (d : Reg) (k : Word) (s : State) : Out :=
  withRegs [] [d] s fun s' => .next (retireLive s 12 none q (wr s'.me d k s'))
/-- cmpi (R295). -/
def execCmpi (q : Bool) (d a : Reg) (i : BitVec 15) (s : State) : Out := int1 4 q d a (cmpMask · (imm i)) s
/-- cmpi with a literal (R295). -/
def execCmpiK (q : Bool) (d a : Reg) (k : Word) (s : State) : Out := int1K q d a (cmpMask · k) s

/-- mul (R297). -/
def execMul (q : Bool) (d a b : Reg) (x : Bool) (s : State) : Out := int2 (extLen x) q d a b (· * ·) s
/-- mul.sat (R297). -/
def execMulSat (q : Bool) (d a b : Reg) (s : State) : Out := int2 12 q d a b satMulS s
/-- muln (R297). -/
def execMuln (q : Bool) (d a b : Reg) (x : Bool) (s : State) : Out := int2 (extLen x) q d a b (· * ·) s
/-- muln.sat (R297). -/
def execMulnSat (q : Bool) (d a b : Reg) (s : State) : Out := int2 12 q d a b satMulU s
/-- mulh: bits [127:64] of the signed product (R297). -/
def execMulh (q : Bool) (d a b : Reg) (s : State) : Out :=
  int2 4 q d a b (fun u v => BitVec.ofInt 64 (u.toInt * v.toInt / 2 ^ 64)) s
/-- mulhn: bits [127:64] of the unsigned product (R297). -/
def execMulhn (q : Bool) (d a b : Reg) (s : State) : Out := int2 4 q d a b (fun u v => w64 (u.toNat * v.toNat / 2 ^ 64)) s

/-- A division or remainder: a zero divisor sets IDZ at issue (R202, R297). -/
def divide (q : Bool) (d a b : Reg) (f : Word → Word → Word) (s : State) : Out :=
  withRegs [a, b] [d] s fun s' =>
    let u := xr (cur s') a
    let v := xr (cur s') b
    let s2 := if v = 0 then modTh s' s'.me fun th => { th with thst := setIdz th.thst } else s'
    result s 4 q d (f u v) s2

/-- div (R202). -/
def execDiv (q : Bool) (d a b : Reg) (s : State) : Out :=
  divide q d a b (fun u v => if v = 0 then BitVec.allOnes 64 else u.sdiv v) s
/-- divn (R202). -/
def execDivn (q : Bool) (d a b : Reg) (s : State) : Out :=
  divide q d a b (fun u v => if v = 0 then BitVec.allOnes 64 else u / v) s
/-- rem (R202). -/
def execRem (q : Bool) (d a b : Reg) (s : State) : Out := divide q d a b (fun u v => if v = 0 then u else u.srem v) s
/-- remn (R202). -/
def execRemn (q : Bool) (d a b : Reg) (s : State) : Out := divide q d a b (fun u v => if v = 0 then u else u % v) s

/-- The position of a bit field (R298). -/
def fieldPos (b : Word) : Nat := b.toNat % 64
/-- The width used: w' = Min(w, 64 - p) (R298). -/
def fieldWidth (b : Word) : Nat := min (bits b 13 8 + 1) (64 - fieldPos b)
/-- A mask of n low ones. -/
def lowMask (n : Nat) : Word := BitVec.allOnes 64 >>> (64 - n)
/-- Sign-extends the low n bits of a word. -/
def sextLow (v : Word) (n : Nat) : Word := (v <<< (64 - n)).sshiftRight (64 - n)
/-- Leading zero bits of a word, looking at n bits. -/
def clzFrom (v : Word) : Nat → Nat
  | 0 => 0
  | n + 1 => if v.getLsbD n then 0 else clzFrom v n + 1
/-- Trailing zero bits of a word from bit i on, n bits. -/
def ctzFrom (v : Word) (i : Nat) : Nat → Nat
  | 0 => 0
  | n + 1 => if v.getLsbD i then 0 else ctzFrom v (i + 1) n + 1
/-- One bits among the n low bits. -/
def popFrom (v : Word) : Nat → Nat
  | 0 => 0
  | n + 1 => (if v.getLsbD n then 1 else 0) + popFrom v n

/-- bext (R298). -/
def execBext (q : Bool) (d a b : Reg) (s : State) : Out := int2 4 q d a b (fun u v => sextLow (u >>> fieldPos v) (fieldWidth v)) s
/-- bextn (R298). -/
def execBextn (q : Bool) (d a b : Reg) (s : State) : Out :=
  int2 4 q d a b (fun u v => (u >>> fieldPos v) &&& lowMask (fieldWidth v)) s
/-- bins: the other bits of x[d] are kept (R298). -/
def execBins (q : Bool) (d a b : Reg) (s : State) : Out :=
  int3 q d a b (fun old u v =>
    let m := lowMask (fieldWidth v) <<< fieldPos v
    (old &&& ~~~m) ||| ((u <<< fieldPos v) &&& m)) s
/-- clz (R298). -/
def execClz (q : Bool) (d a : Reg) (s : State) : Out := int1 4 q d a (fun u => w64 (clzFrom u 64)) s
/-- ctz (R298). -/
def execCtz (q : Bool) (d a : Reg) (s : State) : Out := int1 4 q d a (fun u => w64 (ctzFrom u 0 64)) s
/-- popc (R298). -/
def execPopc (q : Bool) (d a : Reg) (s : State) : Out := int1 4 q d a (fun u => w64 (popFrom u 64)) s
/-- brev (R298). -/
def execBrev (q : Bool) (d a : Reg) (s : State) : Out := int1 4 q d a (·.reverse) s
/-- bswap (R298). -/
def execBswap (q : Bool) (d a : Reg) (s : State) : Out := int1 4 q d a (fun u => w64 (leNum (leList 8 u.toNat).reverse)) s

/-- seq (R296). -/
def execSeq (q : Bool) (d a b : Reg) (s : State) : Out := int2 4 q d a b (fun u v => if u = v then 1 else 0) s
/-- sne (R296). -/
def execSne (q : Bool) (d a b : Reg) (s : State) : Out := int2 4 q d a b (fun u v => if u = v then 0 else 1) s
/-- slt (R296). -/
def execSlt (q : Bool) (d a b : Reg) (s : State) : Out := int2 4 q d a b (fun u v => if u.slt v then 1 else 0) s
/-- sltn (R296). -/
def execSltn (q : Bool) (d a b : Reg) (s : State) : Out := int2 4 q d a b (fun u v => if u.ult v then 1 else 0) s
/-- cmp (R296). -/
def execCmp (q : Bool) (d a b : Reg) (s : State) : Out := int2 4 q d a b cmpMask s
/-- sel: x[a] if the old x[d] is not 0, else x[b] (R296). -/
def execSel (q : Bool) (d a b : Reg) (s : State) : Out := int3 q d a b (fun old u v => if old = 0 then v else u) s
/-- min, signed (R296). -/
def execMin (q : Bool) (d a b : Reg) (s : State) : Out := int2 4 q d a b (fun u v => if u.slt v then u else v) s
/-- max, signed (R296). -/
def execMax (q : Bool) (d a b : Reg) (s : State) : Out := int2 4 q d a b (fun u v => if u.slt v then v else u) s
/-- minn, unsigned (R296). -/
def execMinn (q : Bool) (d a b : Reg) (s : State) : Out := int2 4 q d a b (fun u v => if u.ult v then u else v) s
/-- maxn, unsigned (R296). -/
def execMaxn (q : Bool) (d a b : Reg) (s : State) : Out := int2 4 q d a b (fun u v => if u.ult v then v else u) s

end Sys2Proof.Machine
end

