-- ==== Sys2Proof/Machine/Media.lean ====
section
/-! DEFINITION. Media ports: PTP time, and the frames of media streams (R72 to R81). -/

namespace Sys2Proof.Machine

/-! ### PTP (R73) -/

/-- A media port works. -/
def mediaUp (s : State) (port : Nat) : Bool := decide (port < 2) && (spGet Port.reset s.ports (17 + port)).up

/-- No grandmaster seen on either port is better than this one; a lower rank is better (R72; log 21). -/
def bestMaster (s : State) (master : Nat) : Bool :=
  [0, 1].all fun p => let m := spGet 0 s.pkg.masters p; m == 0 || decide (master + 1 ≤ m)

/-- PTP_MESSAGE: a message of another domain, or at a port that is down, is not heard. The best of the grandmasters seen on the two ports steers PTPOFF
and the rate trim, and the servo gains or loses lock by it (R72, R73; log 21). -/
def execPtpMessage (from_ : PtpFrom) (offset trim : Word) (locked : Bool) (s : State) : Out :=
  if mediaUp s from_.port = false ∨ from_.domain ≠ s.pkg.ptpDomain then .next s
  else
    let s1 : State := { s with pkg := { s.pkg with masters := spSet 0 s.pkg.masters from_.port (from_.master + 1) } }
    if !bestMaster s1 from_.master then .next s1
    else
      .next { s1 with
        pkg := { s1.pkg with ptpOff := offset, ptpTrim := trim, ptpLock := locked, ptpAt := gtime s }
        media := if locked then s1.media else s1.media.map fun f => { f with lock := false } }

/-- PTP_HOLDOVER: no grandmaster is seen any more: PTP time goes on at its last trim, and open frames record PTPLOCK = 0 (R73). -/
def execPtpHoldover (s : State) : Out :=
  .next { s with pkg := { s.pkg with ptpLock := false, masters := [] }, media := s.media.map fun f => { f with lock := false } }

/-! ### Streams and their frames (R75 to R79) -/

/-- A live media stream node with EN = 1. -/
def mediaOn (s : State) (node : Nat) : Bool :=
  let n := getNode s node
  n.v && !n.dead && n.kind == 5 && n.arg == 1 && bit (mediaWord s node 0) 0

/-- MEDIA_ENABLE: a write of MSCTL (R74, R75). -/
def execMediaEnable (node : Nat) (v : Word) (s : State) : Out :=
  let n := getNode s node
  .next (if n.v && !n.dead && n.kind == 5 && n.arg == 1 then mediaControl node v s else s)

/-- Raises a 16-bit saturating count of MSCNT, by its low bit: DUPS 0, DROPS 16, EARLY 32, LATE 48 (R74). -/
def mediaCount (node lo : Nat) (s : State) : State :=
  let w := mediaWord s node 0x38
  wrWord s (nodeKey node 0x38) (setBits w (lo + 15) lo (min (bits w (lo + 15) lo + 1) 0xFFFF))

/-- RTP timestamp of a frame (R79). -/
def rtpOf (f : Word) (frame : Nat) : BitVec 32 :=
  let (num, den) := mediaRate (bits f 51 48)
  BitVec.ofNat 32 (frame * 90000 * den / num)

/-- The address of a frame's status record, of its ring slot (R76, R77). -/
def recordAddr (f stat : Word) (frame : Nat) : Word := offWrap stat (Int.ofNat (frame % bits f 12 8 * mediaStride f))
/-- The address of a frame's ring slot (R76). -/
def slotAddr (f ring : Word) (frame : Nat) : Word := offWrap ring (Int.ofNat (frame % bits f 12 8 * mediaSlotBytes f))

/-- The ingest writes as its stream's owner; a write that is refused lands nowhere (log 21). -/
def ingestWrite (node : Nat) (a : Word) (data : List Byte) (fe : Nat) (s : State) : Option State :=
  match agentWrite (whoCtx s (getNode s node).owner) a data fe s with
  | .ok s' => some s'
  | .error _ => none

/-- The full/empty bit of a status word, and the bytes of a record's group words, as the owner reaches them. -/
def recordState (s : State) (node : Nat) (a : Word) (groups : Nat) : Option (Bool × List Byte) :=
  match resolve s (whoCtx s (getNode s node).owner) a 8 needRw, agentRead s (whoCtx s (getNode s node).owner) (offWrap a 64) (8 * groups) with
  | .ok (.mem (p :: _)), .ok bs => some (feOf s p.key, bs)
  | _, _ => none

/-- FRAME_CLAIM: the frame's slot is claimed when its FSTAT is empty: its group words are set empty and its deadline fixed; else the
frame is skipped and counted in DROPS (R79). -/
def execFrameClaim (node frame : Nat) (s : State) : Out :=
  let f := mediaWord s node 8
  if !mediaOn s node ∨ (getNode s node).arg2 ≠ frame ∨ claimTime s f frame = false then .next s
  else
    let stat := mediaWord s node 0x28
    let a := recordAddr f stat frame
    let s1 := modNode s node fun n => { n with arg2 := frame + 1 }
    match recordState s1 node a (mediaGroups f) with
    | some (false, bs) =>
      match ingestWrite node (offWrap a 64) bs 2 s1 with
      | some s2 =>
        let t := alignment f frame
        let l := bits (mediaWord s node 0x30) 31 0
        let m : MFrame :=
          { node := node, frame := frame, rtpts := rtpOf f frame, align := t, dptp := t + l, dline := (w64 (t + l) - ptpOffset s).toNat
            lock := s.pkg.ptpLock
            fmt := f, ring := mediaWord s node 0x20, stat := stat, seqs := [], runs := [], got := [], paths := [], first := 0, last := 0, used := 0 }
        .next { s2 with media := s2.media ++ [m] }
      | none => .next (mediaCount node 16 s1)
    | _ => .next (mediaCount node 16 s1)

/-! ### Landing (R76, R78, R80) -/

/-- Byte runs cover a range. fuel bounds the runs used. -/
def covered (runs : List (Nat × Nat)) (hi : Nat) : Nat → Nat → Bool
  | 0, lo => decide (hi ≤ lo)
  | fuel + 1, lo =>
    if hi ≤ lo then true
    else
      match runs.find? fun r => decide (r.1 ≤ lo) && decide (lo < r.1 + r.2) with
      | some r => covered runs hi fuel (r.1 + r.2)
      | none => false

/-- Every byte of every line of a video group has landed (R80). -/
def groupWhole (m : MFrame) (g : Nat) : Bool :=
  let f := m.fmt
  let (b, p) := mediaLine f
  let lpg := bits f 19 15
  (upTo lpg).all fun i =>
    let y := g * lpg + i
    decide (bits f 33 20 ≤ y) || covered m.runs (y * p + b) (m.runs.length + 1) (y * p)

/-- A group status word (R78). -/
def groupWord (m : MFrame) (g : Nat) (lost : Bool) (arrival : Nat) : Word :=
  w64 (m.rtpts.toNat * 2 ^ 32 + (if lost then 2 ^ 31 else 0) + spGet 0 m.paths g % 4 * 2 ^ 29 + arrival % 2 ^ 28)

/-- Writes a group's word and sets it full (R80, R81). -/
def writeGroup (m : MFrame) (g : Nat) (w : Word) (s : State) : State :=
  (ingestWrite m.node (offWrap (recordAddr m.fmt m.stat m.frame) (64 + 8 * Int.ofNat g)) (leList 8 w.toNat) 1 s).getD s

/-- ARRIVAL of a group whose last byte lands now: 4 ns units after the alignment point, saturating; before that point the spec states no
value, and it is free (R78; log 11). -/
def arrivalOf (m : MFrame) (s : State) : Nat × State :=
  let now := (ptpTime s).toNat
  if now < m.align then
    let (v, s1) := takeFree s
    (bits v 27 0, s1)
  else (min ((now - m.align) / 4) 0xFFFFFFF, s)

/-- A group is complete: its word is written once. -/
def completeGroup (m : MFrame) (g : Nat) (s : State) : MFrame × State :=
  if m.got.contains g then (m, s)
  else
    let (a, s1) := arrivalOf m s
    ({ m with got := m.got ++ [g] }, writeGroup m g (groupWord m g false a) s1)

/-- One row of a video packet lands in its group of the frame's slot; samples outside the frame have no place there (R76, R80). -/
def landRow (port : Nat) (r : MFrame × State) (row : MediaRow) : MFrame × State :=
  let (m, s) := r
  let f := m.fmt
  let (b, p) := mediaLine f
  let x := row.x / 2 * (if bit f 14 then 6 else 5)
  let o := row.row * p + x
  if bits f 33 20 ≤ row.row ∨ b < x + row.data.length ∨ row.data.isEmpty = true then r
  else
    match ingestWrite m.node (offWrap (slotAddr f m.ring m.frame) (Int.ofNat o)) row.data 0 s with
    | none => r
    | some s1 =>
      let g := row.row / bits f 19 15
      let m1 := { m with
        runs := m.runs ++ [(o, row.data.length)]
        paths := spSet 0 m.paths g ((BitVec.ofNat 2 (spGet 0 m.paths g) ||| BitVec.ofNat 2 (2 ^ port)).toNat) }
      if groupWhole m1 g then completeGroup m1 g s1 else (m1, s1)

/-- A frame notes a packet that lands: its sequence number, and the PTP times of the first and last (R77, R80). -/
def MFrame.note (m : MFrame) (p : MediaPacket) (now : Word) : MFrame :=
  { m with seqs := m.seqs ++ [p.seq.toNat], first := if m.seqs.isEmpty then now else m.first, last := now }

/-- An ancillary packet lands whole after those before it; one past the slot is counted in DROPS (R76). The packet with the marker
completes the frame (log 21). -/
def landAncillary (port : Nat) (m : MFrame) (p : MediaPacket) (s : State) : MFrame × State :=
  let data := p.rows.flatMap (·.data)
  if 65536 < m.used + data.length then (m, mediaCount m.node 16 s)
  else
    match ingestWrite m.node (offWrap (slotAddr m.fmt m.ring m.frame) (Int.ofNat m.used)) data 0 s with
    | none => (m, s)
    | some s1 =>
      let m1 := { m.note p (ptpTime s) with
        used := m.used + data.length
        paths := spSet 0 m.paths 0 ((BitVec.ofNat 2 (spGet 0 m.paths 0) ||| BitVec.ofNat 2 (2 ^ port)).toNat) }
      if p.last then completeGroup m1 0 s1 else (m1, s1)

/-- The rows of a video packet land; one of which no row has a place or is taken does not land (R76, R80). -/
def landVideo (port : Nat) (m : MFrame) (p : MediaPacket) (s : State) : MFrame × State :=
  let (m1, s1) := p.rows.foldl (landRow port) (m, s)
  (if m.runs.length < m1.runs.length then m1.note p (ptpTime s) else m1, s1)

/-- A packet of a claimed frame before its deadline lands, unless it is already present (R80). -/
def fileMediaPacket (port : Nat) (m : MFrame) (p : MediaPacket) (s : State) : State :=
  if m.seqs.contains p.seq.toNat then (if bit (mediaWord s m.node 0) 1 then mediaCount m.node 0 s else s)
  else
    let (m1, s1) := if bits m.fmt 7 6 = 0 then landVideo port m p s else landAncillary port m p s
    { s1 with media := s1.media.map fun x => if x.node = m.node ∧ x.frame = m.frame then m1 else x }

/-- The packet is of a stream: its payload type, UDP port and destination are those of the stream's path at the port (R74). -/
def pathMatches (s : State) (node port : Nat) (p : MediaPacket) : Bool :=
  let w := mediaWord s node (0x10 + 8 * port)
  bit w 63 && bits w 54 48 == p.pt.toNat && bits w 47 32 == p.port.toNat && bits w 31 0 == p.dst.toNat

/-- A packet of a stream: it lands in its claimed frame, is late for one that is past, or early for one not yet claimed (R80, R81). A video packet
with more than three sample rows is not supported and discarded (R72; log 21). -/
def streamPacket (node port : Nat) (p : MediaPacket) (s : State) : State :=
  if bits (mediaWord s node 8) 7 6 = 0 ∧ 3 < p.rows.length then s
  else
  match s.media.find? fun m => m.node == node && m.rtpts == p.rtpts with
  | some m => if (gtime s).toNat < m.dline then fileMediaPacket port m p s else mediaCount node 48 s
  | none =>
    let next := rtpOf (mediaWord s node 8) (getNode s node).arg2
    mediaCount node (if (p.rtpts - next).toNat < 2 ^ 31 then 32 else 48) s

/-- MEDIA_PACKET_ARRIVAL (R80). -/
def execMediaPacketArrival (port : Nat) (p : MediaPacket) (s : State) : Out :=
  if mediaUp s port = false then .next s
  else .next (((spKeys s.nodes).filter fun n => mediaOn s n && pathMatches s n port p).foldl (fun s n => streamPacket n port p s) s)

/-- FSTAT of a frame (R77). -/
def fstatOf (m : MFrame) (lost : Nat) : Word := w64 (m.rtpts.toNat * 2 ^ 32 + lost % 65536 * 65536 + (if m.lock then 32768 else 0))

/-- FRAME_DEADLINE: incomplete groups are written lost and set full, then the frame status line is written and FSTAT filled (R77,
R81). -/
def execFrameDeadline (node frame : Nat) (s : State) : Out :=
  match s.media.find? fun m => m.node == node && m.frame == frame with
  | none => .next s
  | some m =>
    if (gtime s).toNat < m.dline then .next s
    else
      let lost := (upTo (mediaGroups m.fmt)).filter fun g => !m.got.contains g
      let s1 := lost.foldl (init := s) fun s g => writeGroup m g (groupWord m g true 0xFFFFFFF) s
      let a := recordAddr m.fmt m.stat frame
      let line := [m.first, m.last, w64 m.dptp, w64 m.dline, 0, 0, 0].flatMap fun w => leList 8 w.toNat
      let s2 := (ingestWrite node (offWrap a 8) line 0 s1).getD s1
      let s3 := (ingestWrite node a (leList 8 (fstatOf m lost.length).toNat) 1 s2).getD s2
      .next { s3 with media := s3.media.filter fun x => !(x.node == node && x.frame == frame) }

end Sys2Proof.Machine
end

