-- ==== Sys2Proof/Machine/Vf.lean ====
section
/-! DEFINITION. Disabling and enabling the virtual functions (R121, R122). -/

namespace Sys2Proof.Machine

/-- The start of the disable sequence of the virtual functions: GEN clears, BUSY is set, and T is agreed: the master GTIME of the write plus
4,096 (R122). -/
def startDisable (s : State) : State :=
  if bit s.vf.vfstat 0 ∨ bit s.vf.vfen 0 = false then s
  else
    { s with vf := { s.vf with
      vfen := setBit s.vf.vfen 0 false, vfstat := setBits (setBit s.vf.vfstat 0 true) 15 8 0, disable := some (gtime s + 4096) } }

/-- VF_DISABLE: the host's write of 0 to GEN, refused before READY (R17, R122). -/
def execVfDisable (s : State) : Out := .next (if ready s then startDisable s else reply .pf 1 0 [] s)

/-- The tenant is bound to a virtual function (R121). -/
def boundTenant (tenant : Nat) : Bool := (upTo 128).any fun n => vfTenant n == tenant

/-- The contexts of the bound tenants. -/
def boundCtxs (s : State) : List Nat :=
  (s.ctxs.filter fun e => e.2.live && e.1 != 0 && e.1 != 0xFFFF && boundTenant e.2.tenant).map Prod.fst

/-- The nodes that the bound tenants own and that have not been destroyed, system nodes apart. -/
def boundNodes (s : State) : List Nat :=
  (s.nodes.filter fun e => e.2.v && e.2.owner != 0 && e.2.owner != 0xFFFF && boundTenant e.2.tenant && !nodeGone s e.1).map Prod.fst

/-- Events of these contexts that are under way and are lost with them (R122 step 3): packets, the work of their queues, programs and
harts. -/
def lostEvent (s : State) (cs : List Nat) (e : Instr) : Bool :=
  let queue := fun (q : Nat) => cs.contains (getQueue s q).owner
  drains s cs e
    || (match hartEvent e with | some t => cs.contains (getTh s t).ctx | none => false)
    || (match e with
      | .launchDispatch q _ => queue q
      | .nodeRelease q _ _ _ _ _ => queue q
      | .nodeDispatch q => queue q
      | .recordFetch q => queue q
      | .nodeComplete q _ _ => queue q
      | .bindSetRun q _ => queue q
      | .slotReservationRequest a => cs.contains (getTh s a.tid).ctx
      | .slotReservationReply a _ => cs.contains (getTh s a.tid).ctx
      | _ => false)

/-- A thread is lost: what it listed is withdrawn, a hold is released as it stands, and its slot is free (R122). -/
def loseThread (s : State) (t : Nat) : State :=
  let s1 := match (getTh s t).hold with
    | some (w, _) => releaseHold t w s
    | none => s
  vacate t (withdrawMatrix t s1)

/-- Saved or waiting threads of these contexts are lost too; a hold of one is released. -/
def loseSaved (cs : List Nat) (s : State) : State :=
  let gone := (s.saves.flatMap fun e => e.2.threads.map (·.2)) ++ s.cores.flatMap fun e => e.2.restored.map (·.2)
  let s1 := (gone.filter fun th => cs.contains th.ctx).foldl (init := s) fun s th =>
    let s' : State := { s with latches := s.latches.filter fun r => r.t != savedTag th.uid }
    match th.hold with
    | some (w, _) => releaseHold (savedTag th.uid) w s'
    | none => s'
  { s1 with
    saves := s1.saves.foldl (init := []) fun m e =>
      let ctxs := e.2.ctxs.filter fun c => !cs.contains c
      spSet Saved.none m e.1 (if ctxs.isEmpty then Saved.none else
        { e.2 with ctxs := ctxs, threads := e.2.threads.filter fun x => !cs.contains x.2.ctx, journal := e.2.journal.filter fun j => !cs.contains j.2.ctx })
    cores := s1.cores.map fun e => (e.1, { e.2 with restored := e.2.restored.filter fun x => !cs.contains x.2.ctx }) }

/-- The work of contexts is lost (R122 steps 2 to 4): threads, packets and journal entries, vector and matrix work, launches, programs
with their kicks, the nodes and mappings of their queues, whose numbers go with their nodes (R99); nothing is written. -/
def loseWork (cs : List Nat) (s : State) : State :=
  let ts := threadsOf s cs
  let s0 : State := { s with pending := s.pending.filter fun e => !lostEvent s cs e }
  let s1 := (s0.cores.map (·.1)).foldl (init := s0) fun s c => recallVector (fun t => cs.contains (getTh s t).ctx) s c
  let s2 := loseSaved cs (ts.foldl loseThread s1)
  let gone := fun (l : Nat) => (getLaunch s l).v && cs.contains (getLaunch s l).ctx
  let queues := (s2.queues.filter fun e => e.2.graph && cs.contains e.2.owner).map Prod.fst
  { s2 with
    journal := s2.journal.filter fun e => !cs.contains e.2.ctx
    launches := s2.launches.filter fun e => !cs.contains e.2.ctx
    cores := s2.cores.map fun e => (e.1, { e.2 with
      launches := e.2.launches.filter (!gone ·), deque := e.2.deque.filter (!gone ·.launch), spill := e.2.spill.filter (!gone ·.launch)
      arrivals := e.2.arrivals.filter fun p => !cs.contains p.ctx, spilled := e.2.spilled.filter fun p => !cs.contains p.ctx
      segment := e.2.segment.filter fun g => !gone g.1, segBytes := if e.2.segment.any fun g => gone g.1 then [] else e.2.segBytes })
    harts := s2.harts.foldl (init := []) fun m e => spSet [] m e.1 (e.2.filter fun k => !cs.contains k.2.1)
    gnodes := s2.gnodes.filter fun e => !queues.contains (e.1 / 65536)
    queues := s2.queues.map fun e => if queues.contains e.1 then (e.1, { e.2 with stopped := true, resident := false, tumbler := 0, slots := 0, head := 0, tail := 0, ready := [] }) else e }

/-- VF_DISABLE_AT_T: at T the contexts of the bound tenants lose their work, their keyrings are freed, the contexts end and their nodes are
destroyed; when every node is gone the sequence ends, with its pages scrubbed if SCRUB = 1 (R122). -/
def execVfDisableAtT (s : State) : Out :=
  match s.vf.disable with
  | none => .next s
  | some t =>
    if !bit s.vf.vfstat 0 ∨ (gtime s).toNat < t.toNat then .next s
    else
      let cs := boundCtxs s
      let nodes := boundNodes s
      if cs.isEmpty ∧ nodes.isEmpty then
        .next { s with vf := { s.vf with
          disable := none, vfstat := setBit (setBit (setBit s.vf.vfstat 0 false) 1 true) 2 (bit s.vf.vfen 1) } }
      else
        let tenants := ((cs.map fun c => (getCtx s c).tenant) ++ nodes.map fun n => (getNode s n).tenant).eraseDups.length
        let s1 := cs.foldl (fun s c => endCtx c s) (loseWork cs s)
        let s2 := nodes.foldl (fun s n => if (getNode s n).dead then s else pushOnce (.nodeDestroy n) s) s1
        .next (pushOnce .vfDisableAtT (if bits s.vf.vfstat 15 8 ≠ 0 then s2 else
          { s2 with vf := { s2.vf with vfstat := setBits s2.vf.vfstat 15 8 tenants } }))

/-- GEN is set: the virtual functions are enabled again, unless a disable sequence is in progress; each tenant starts with no context (R121,
R122). -/
def enableFunctions (s : State) : State :=
  if bit s.vf.vfstat 0 then s else { s with vf := { s.vf with vfen := setBit s.vf.vfen 0 true } }

/-- VF_ENABLE: the host's write of 1 to GEN, refused before READY (R17, R122). -/
def execVfEnable (s : State) : Out := .next (if ready s then enableFunctions s else reply .pf 1 0 [] s)

end Sys2Proof.Machine
end

