-- ==== Sys2Proof/Machine/Registers.lean ====
section
/-! DEFINITION. The registers of the configuration region: their writes and reads, each with its effect at once (R4, R17, R19, R31, R32, R100, R121,
R128 to R132, R135, R161, R400). -/

namespace Sys2Proof.Machine

/-- The schedule registers' offsets in the key core's space (R31, R32; log 32). -/
def tdsBase : Nat := 0x600

/-- Writes a word of the inbound ring or of PRSTAGE. -/
def putBytes (m : Sp Byte) (o : Nat) (v : Word) : Sp Byte :=
  (upTo 8).foldl (init := m) fun m i => spSet 0 m (o + i) (BitVec.ofNat 8 (v.toNat / 2 ^ (8 * i)))

/-- The selected context, when the writer may reach its block (R400). -/
def selected (s : State) (fn : HostFn) : Option Nat :=
  let c := bits s.vf.ctxsel 15 0
  if (getCtx s c).live && fnOwns s fn c then some c else none

/-- Every halted thread of the context goes on at its next instruction; one that halts in the same cycle stays (R395, R400). -/
def resumeHalted (ctx : Nat) (s : State) : State :=
  s.threads.foldl (init := s) fun s e =>
    if e.2.ctx = ctx ∧ (match e.2.wait with | .halted n => n != s.cycle | _ => false) = true then modTh s e.1 fun th => { th with wait := .run, wcount := 0 } else s

/-- A write in the window of the selected context's block (R400). -/
def blockWrite (fn : HostFn) (o : Nat) (v : Word) (s : State) : State :=
  match selected s fn with
  | none => s
  | some c =>
    if o = 0x100 then
      let s1 := modCtx s c fun x => { x with dbgctl := v &&& 1 }
      if bit v 1 then resumeHalted c s1 else s1
    else if o = 0x118 then modCtx s c fun x => { x with commpc := v }
    else s

/-- GSCTL and GSTIME of a partition: ignored while ARM reads 1 but for DONE, and written by the host only while GANGT = 1 (R129,
R161). -/
def gangWrite (fn : HostFn) (part : Nat) (ctl : Bool) (v : Word) (s : State) : State :=
  let g := spGet Gang.reset s.gangs part
  let allowed := if bit s.fw.duty 2 then fn == .pf else fn == .policy
  let put := fun (g : Gang) (s : State) => { s with gangs := spSet Gang.reset s.gangs part g }
  if !allowed || decide (19 < part) then s
  else if !ctl then (if bit g.gsctl 2 then s else put { g with gstime := v } s)
  else
    let cleared := if bit v 4 then setBit g.gsctl 4 false else g.gsctl
    if bit g.gsctl 2 then put { g with gsctl := cleared } s
    else
      let s1 := put { g with gsctl := (cleared &&& 0x18) ||| (v &&& 0x0000FFFFFFFF0003) } s
      if bit v 2 then armGang part s1 else s1

/-- A register that only the key core may write is written by another firmware core: an access fault, missing rights (R124). -/
def keyOnly (fn : HostFn) (s : State) : State := if fn = .policy ∨ (∃ n, fn = .packet n) then reply fn 2 0 [] s else s

/-- A write of a register of the configuration region by the physical function or a firmware core (R4). -/
def configWrite (fn : HostFn) (o : Nat) (v : Word) (s : State) : State :=
  let host := fn == .pf
  if o = 0x100 then
    if !host then s
    else
      let s1 := if bit v 11 then clearCaphit s else s
      if bit v 52 then restart s1 else s1
  else if o = 0x200 then
    if !host || bit s.vf.vfstat 0 then s
    else
      let s1 : State := { s with vf := { s.vf with vfen := (s.vf.vfen &&& 1) ||| (v &&& 2) } }
      if bit v 0 then enableFunctions s1 else if !bit v 0 && bit s.vf.vfen 0 then startDisable s1 else s1
  else if o = 0x208 then
    if host && bit v 1 then { s with vf := { s.vf with vfstat := setBit s.vf.vfstat 1 false } } else s
  else if o = 0x300 then if host then { s with fw := { s.fw with duty := v &&& 0x1F } } else s
  else if o = 0x308 then if host then setCap v s else s
  else if o = 0x310 then if host && bit v 0 then startUpdate s else s
  else if o = 0x408 then if host then drainMsgs 512 { s with fw := { s.fw with hmohead := bits v 8 0 } } else s
  else if o = 0x410 then
    if host then
      let s1 : State := { s with fw := { s.fw with hmitail := bits v 8 0 } }
      if inWaiting s1 then pushOnce (.fwCoreWake (inboundWake s1)) s1 else s1
    else s
  else if tdsBase ≤ o ∧ o < tdsBase + 64 then
    if fn == .key && !bit s.pkg.tdctl 0 then
      { s with pkg := { s.pkg with tds := spSet 0 s.pkg.tds ((o - tdsBase) / 8) (v &&& 0x9F9F9F9F9F9F9F9F) } }
    else keyOnly fn s
  else if o = tdsBase + 64 then
    if fn == .key && !bit s.pkg.tdctl 0 then
      let s1 : State := { s with pkg := { s.pkg with tdctl := setBit s.pkg.tdctl 1 (bit v 1) } }
      if bit v 0 then swapTable s1 else s1
    else keyOnly fn s
  else if 0x1000 ≤ o ∧ o < 0x1140 then gangWrite fn ((o - 0x1000) / 16) (o / 8 % 2 == 1) v s
  else if 0x18000 ≤ o ∧ o < 0x20000 then
    if host then { s with fw := { s.fw with inRing := putBytes s.fw.inRing (o - 0x18000) v } } else s
  else if 0x20000 ≤ o ∧ o < 0x21000 then
    if host then { s with fw := { s.fw with stage := putBytes s.fw.stage (o - 0x20000) v } } else keyOnly fn s
  else s

/-- Eight bytes of a ring or window. -/
def bytesAt (m : Sp Byte) (o : Nat) : Word := w64 (leNum ((upTo 8).map fun i => spGet 0 m (o + i)))

/-- The value of a register of the configuration region for the physical function or a firmware core: RO and RW bits as they stand, WO and RZ
bits and unlisted offsets 0 (R4, R19, R31, R32, R121, R128 to R132, R135, R161). -/
def configRead (fn : HostFn) (o : Nat) (s : State) : Word :=
  let host := fn == .pf
  if o = 0x100 then s.pkg.pkst &&& 0x000FFFFFFFFF1FFF
  else if o = 0x300 then s.fw.duty &&& 0x1F
  else if tdsBase ≤ o ∧ o < tdsBase + 64 then spGet 0 s.pkg.tds ((o - tdsBase) / 8)
  else if o = tdsBase + 64 then s.pkg.tdctl &&& 7
  else if 0x1000 ≤ o ∧ o < 0x1140 then
    let g := spGet Gang.reset s.gangs ((o - 0x1000) / 16)
    if o / 8 % 2 = 1 then g.gsctl else g.gstime
  else if !host then 0
  else if o = 0x200 then s.vf.vfen &&& 3
  else if o = 0x208 then s.vf.vfstat &&& 0xFF07
  else if o = 0x308 then w64 s.pkg.capw
  else if o = 0x310 then s.fw.updst &&& 0xFF
  else if o = 0x400 then w64 s.fw.hmotail
  else if o = 0x408 then w64 s.fw.hmohead
  else if o = 0x410 then w64 s.fw.hmitail
  else if o = 0x418 then w64 s.fw.hmihead
  else if 0x10000 ≤ o ∧ o < 0x18000 then wordAt (spGet [] s.fw.outRing ((o - 0x10000) / 64)) (o % 64)
  else if 0x18000 ≤ o ∧ o < 0x20000 then bytesAt s.fw.inRing (o - 0x18000)
  else if 0x20000 ≤ o ∧ o < 0x21000 then bytesAt s.fw.stage (o - 0x20000)
  else 0

/-- The window of the selected context's block: 0 where the reader may not reach it; a total of cache events is a free value (R400; log 24). -/
def blockRead (fn : HostFn) (o : Nat) (s : State) : Word :=
  match selected s fn with
  | none => 0
  | some c =>
    let x := getCtx s c
    if 8 ≤ o ∧ o ≤ 0x60 then (if 5 ≤ o / 8 ∧ o / 8 ≤ 7 then Config.freeWord s.freeCount else spGet 0 x.counts (o / 8))
    else if o = 0x100 then
      let halted := (s.threads.filter fun e => e.2.ctx == c && (match e.2.wait with | .halted _ => true | _ => false)).length
      w64 ((x.dbgctl &&& 1).toNat + min halted 65535 * 2 ^ 32)
    else if o = 0x108 then x.haltv
    else if o = 0x110 then w64 x.flcnt
    else if o = 0x118 then x.commpc
    else if 0x800 ≤ o ∧ o < 0x1000 then spGet 0 x.log ((o - 0x800) / 8)
    else 0

/-- The value of a context register (R100, R400). -/
def contextRead (fn : HostFn) (o : Nat) (s : State) : Word :=
  if o = 0x2000 then s.vf.ctxsel
  else if o = 0x2100 then s.vf.ccparam
  else if o = 0x2108 then s.vf.ccevent
  else if o = 0x2118 then s.vf.ccres
  else if 0x3000 ≤ o ∧ o < 0x4000 then blockRead fn (o - 0x3000) s
  else 0

/-- A write of the context registers, which virtual functions reach too; a command is ignored while BUSY (R100, R400). -/
def contextWrite (fn : HostFn) (o : Nat) (v : Word) (s : State) : State :=
  if o = 0x2000 then
    let c := bits v 15 0
    let ok := (getCtx s c).live && fnOwns s fn c
    match fn with
    | .vf _ => if ok then { s with vf := { s.vf with ctxsel := w64 (65536 + c) } } else s
    | _ => { s with vf := { s.vf with ctxsel := w64 ((if ok then 65536 else 0) + c) } }
  else if o = 0x2100 then { s with vf := { s.vf with ccparam := v &&& 0x03FFFF8000FFFFFF } }
  else if o = 0x2108 then { s with vf := { s.vf with ccevent := v } }
  else if o = 0x2110 then
    let s1 : State := { s with vf := { s.vf with ccres := setBit s.vf.ccres 63 true } }
    if bit s.vf.ccres 63 then s
    else
      match bits v 1 0 with
      | 1 => push (.ccCreate fn) s1
      | 2 => push (.ccDestroy fn (bits v 31 16)) s1
      | 3 => push (.ccActThrough fn (bits v 31 16)) s1
      | _ => s
  else if 0x3000 ≤ o ∧ o < 0x4000 then blockWrite fn (o - 0x3000) v s
  else s

/-- The offset is a context register's. -/
def isContextReg (o : Nat) : Bool := o == 0x2000 || (decide (0x2100 ≤ o) && decide (o < 0x2120)) || (decide (0x3000 ≤ o) && decide (o < 0x4000))

/-- A write of the region by a function that may make it: before READY the host reaches PKST alone, from the end of stage 5, and the policy core
none until stage 7 has started it (R4, R17, R19). -/
def regionWrite (fn : HostFn) (o : Nat) (v : Word) (s : State) : State :=
  match fn with
  | .peer _ => reply fn 2 0 [] s
  | .board => s
  | .vf _ =>
    match ccRefused s fn with
    | some st => reply fn st 0 [] s
    | none => if isContextReg o then contextWrite fn o v s else reply fn 2 0 [] s
  | .pf => if !ready s && o != 0x100 then reply fn 1 0 [] s else if isContextReg o then contextWrite fn o v s else configWrite fn o v s
  | .policy => if policyUp s then configWrite fn o v s else s
  | .packet _ => if policyUp s then configWrite fn o v s else s
  | .key => configWrite fn o v s

/-- REGISTER_WRITE: 8 bytes. Where the spec is silent (log 62): an offset that is no multiple of 8 names the register below it, and an unlisted
offset takes no write (R4). -/
def execRegisterWrite (fn : HostFn) (off_ : Nat) (v : Word) (s : State) : Out :=
  .next (if portUp s fn then regionWrite fn (off_ / 8 * 8) v s else s)

/-- A read of 8 bytes of the region, answered to the reader; an offset that is no multiple of 8 names the register below it (R4, R17, R19; log
62). A total of cache events uses up its free value. DESIGN CHOICE: a virtual function or a peer package gets NORIGHT for a register that R100 and R400 do
not give it, and a firmware core reads 0 from VFEN, VFSTAT, PWRCAP, UPDST, the mailbox and PRSTAGE (log 62). -/
def registerRead (fn : HostFn) (off_ : Nat) (s : State) : State :=
  let o := off_ / 8 * 8
  let answer := fun (v : Word) => reply fn 0 v (leList 8 v.toNat) { s with freeCount := s.freeCount + 1 }
  let read := answer (if isContextReg o then contextRead fn o s else configRead fn o s)
  if !portUp s fn then s
  else
    match fn with
    | .peer _ => reply fn 2 0 [] s
    | .board => s
    | .vf _ =>
      match ccRefused s fn with
      | some st => reply fn st 0 [] s
      | none => if isContextReg o then read else reply fn 2 0 [] s
    | .pf => if !ready s && o != 0x100 then reply fn 1 0 [] s else read
    | .policy => if policyUp s then answer (configRead fn o s) else s
    | .packet _ => if policyUp s then answer (configRead fn o s) else s
    | .key => answer (configRead fn o s)

/-- DEBUG_RESUME (R17, R400). -/
def execDebugResume (fn : HostFn) (ctx : Nat) (s : State) : Out := .next (if !ready s || !fnOwns s fn ctx then s else resumeHalted ctx s)

end Sys2Proof.Machine
end

