-- ==== Sys2Proof/Machine/Streams.lean ====
section
/-! DEFINITION. Stream instructions, major 0x2B (R343 to R347), and the events of chunks, markers, landings, deaths and re-stitches (R40
to R46, R346). -/

namespace Sys2Proof.Machine

/-! ### Instructions (R344) -/

/-- A code of R343 as a result word. -/
def codeWord (c : Int) : Word := BitVec.ofInt 64 c

/-- The stream node that an address names: the handle is checked for the rights, kind stream and collective, its offset ignored; a
filter's refusal is returned (R96, R344). -/
def withStream (q : Bool) (x : Word) (need : Need) (s0 s : State) (act : Nat → Out) : Out :=
  let w := whoOf s s.me
  match hostMiss s w.unit w.ctx (hdl x) with
  | some node =>
    if (cur s0).wait = .missed node then exactAt 4 ⟨2, 7, x⟩ s0
    else .next (pushOnce (.nodeCacheMiss node ⟨w.ctx, true⟩) (park (.fetch node x none) s0))
  | none =>
    match resolve s w (mkAddr (hdl x) 0) 0 need with
    | .error i => exactAt 4 ⟨i.cause, i.reason, x⟩ s0
    | .ok (.unit node 5 _ gen) =>
      if (getNode s node).arg = 1 then exactAt 4 ⟨2, 3, x⟩ s0
      else if filtered s (node / 2 ^ 28 % 16) node gen then done s0 4 q (refuse s.me (cur s0).pc (cur s0).seq ⟨2, 2, x⟩ s)
      else act node
    | .ok _ => exactAt 4 ⟨2, 3, x⟩ s0

/-- The index of the issuing core in a stream node's member table: of a live stream its members, a dead one being out (R44). -/
def memberIndex (s : State) (node : Nat) : Option Nat :=
  let st := getStream s node
  let core := coreOf s.me
  if st.v then (upTo st.members.length).find? fun m => (st.member m).core == core && st.alive m
  else (upTo (bits (sdescOf s node) 28 20)).find? fun m => bits (memberWord s node m 0) 9 0 == core

/-- The form's member: NOTMEMBER and NOTLIVE are its first answers (R343, R344). -/
def withMember (q : Bool) (d : Reg) (node : Nat) (s0 s : State) (act : Nat → Member → Out) : Out :=
  match memberIndex s node with
  | none => lateResult s0 4 q d (codeWord (-6)) s
  | some m =>
    let st := getStream s node
    if !st.v || st.failed then lateResult s0 4 q d (codeWord (-7)) s else act m (st.member m)

/-- Puts a chunk or marker in a member's send buffers and lets the stream run (R345). -/
def sendChunk (node m : Nat) (c : Chunk) (f : Member → Member) (s : State) : State :=
  pumpStream node 2048 (modStream s node fun x => x.modMember m fun k => f { k with send := k.send ++ [c] })

/-- A read right alone, whatever the form does at the node (R344). -/
def needStream : Need := ⟨true, false, false⟩

/-- vs.set (R343, R344). -/
def execVsSet (q : Bool) (d a b : Reg) (s : State) : Out :=
  withRegs [a, b] [] s fun s1 =>
    withStream q (xr (cur s1) a) needWr s s1 fun node =>
      let (code, s2) := createStream node (xr (cur s1) b) s1
      lateResult s 4 q d (codeWord code) (if code = 0 then wrWord s2 (nodeKey node 0x10) (xr (cur s1) b) else s1)

/-- The source bytes of vs.red, through handle 0xFFFF in one local level (R345). -/
def withSource (q : Bool) (o n : Nat) (s0 s : State) (act : List Byte → State → Out) : Out :=
  if n = 0 then act [] s
  else
    let w := whoOf s s.me
    let (rn, ri) := rotOf s w.part w.tenant
    let lv := localLevel s w.core rn o
    let x := mkAddr 0xFFFF o
    if lv = 0 ∨ lv = 3 ∨ localLevel s w.core rn (o + n - 1) ≠ lv then exactAt 4 ⟨2, 4, x⟩ s0
    else
      match localRuns s w.core rn ri (n + 1) o n with
      | .error _ => exactAt 4 ⟨2, 4, x⟩ s0
      | .ok ps => withMemory s0 s 4 q x false true ps fun s1 => act (rdPieces s1 ps) s1

/-- vs.red (R345). -/
def execVsRed (q : Bool) (d a b : Reg) (s : State) : Out :=
  withRegs [a, b] [] s fun s1 =>
    withStream q (xr (cur s1) a) needStream s s1 fun node =>
      withMember q d node s s1 fun m k =>
        let y := xr (cur s1) b
        let n := bits y 44 32
        let st := getStream s1 node
        if bits y 63 45 ≠ 0 ∨ st.lengthOk n = false then lateResult s 4 q d (codeWord (-8)) s1
        else
          withSource q (bits y 31 0) n s s1 fun data s2 =>
            if 2 ^ 32 ≤ k.next then lateResult s 4 q d (codeWord (-9)) s2
            else if 2 ≤ k.send.length then lateResult s 4 q d (codeWord (-10)) s2
            else
              lateResult s 4 q d (w64 k.next)
                (sendChunk node m ⟨k.next, m, st.op, false, false, false, st.restitched, data⟩ (fun k => { k with next := k.next + 1 }) s2)

/-- vs.mark (R344, R345). -/
def execVsMark (q : Bool) (d a : Reg) (s : State) : Out :=
  withRegs [a] [] s fun s1 =>
    withStream q (xr (cur s1) a) needStream s s1 fun node =>
      withMember q d node s s1 fun m k =>
        let st := getStream s1 node
        if 2 ≤ k.send.length then lateResult s 4 q d (codeWord (-10)) s1
        else lateResult s 4 q d 0 (sendChunk node m ⟨k.next, m, st.op, true, false, false, st.restitched, []⟩ id s1)

/-- vs.st (R344). -/
def execVsSt (q : Bool) (d a : Reg) (s : State) : Out :=
  withRegs [a] [] s fun s1 =>
    withStream q (xr (cur s1) a) needStream s s1 fun node =>
      withMember q d node s s1 fun _ k => lateResult s 4 q d (w64 (k.lcc * 2 ^ 32 + k.next % 2 ^ 32)) s1

/-- vs.rejoin: after a re-stitch NEXT becomes the resume point (R347). -/
def execVsRejoin (q : Bool) (d a : Reg) (s : State) : Out :=
  withRegs [a] [] s fun s1 =>
    withStream q (xr (cur s1) a) needStream s s1 fun node =>
      withMember q d node s s1 fun m k =>
        if k.rejoin then
          let r := (getStream s1 node).resume
          lateResult s 4 q d (w64 r) (modStream s1 node fun x => x.modMember m fun k => { k with next := r, rejoin := false })
        else lateResult s 4 q d (w64 (k.next % 2 ^ 32)) s1

/-- vs.close (R347). -/
def execVsClose (q : Bool) (d a : Reg) (s : State) : Out :=
  withRegs [a] [] s fun s1 =>
    withStream q (xr (cur s1) a) needWr s s1 fun node =>
      if (getStream s1 node).v then lateResult s 4 q d 0 (closeStream node s1)
      else lateResult s 4 q d (codeWord (-7)) s1

/-! ### Events -/

/-- STREAM_START_STORE: a store to START requests creation; one that fails changes nothing (R343). -/
def execStreamStartStore (node : Nat) (v : Word) (s : State) : Out :=
  let n := getNode s node
  if n.v && n.kind == 5 && n.arg == 0 then
    let (code, s1) := createStream node v s
    .next (if code = 0 then wrWord s1 (nodeKey node 0x10) v else s)
  else .next s

/-- CHUNK_ARRIVAL: a chunk enters an input of a station (R41, R42, R46). -/
def execChunkArrival (node station input : Nat) (c : Chunk) (s : State) : Out :=
  .next (enterStation node station input { c with mark := false } s)

/-- MARKER_ARRIVAL: a marker enters an input of a station (R40). -/
def execMarkerArrival (node station input : Nat) (c : Chunk) (s : State) : Out :=
  .next (enterStation node station input { c with mark := true, data := [] } s)

/-- STREAM_INPUT_TIMEOUT: an input silent past TMO is declared dead: its member's, or, where a station feeds it, one that has no alternative (R43, R45). -/
def execStreamInputTimeout (node station input : Nat) (s : State) : Out :=
  let st := getStream s node
  .next (if st.silent station input then
      if st.memberFed station input then pushOnce (.inputDeadDeclare node (st.inputMember station input)) s else failStream node s
    else s)

/-- INPUT_DEAD_DECLARE (R43 to R45). -/
def execInputDeadDeclare (node member : Nat) (s : State) : Out := .next (declareDead node member s)

/-- LCC_REPORT: a survivor's LCC reaches the name engine (R44). -/
def execLccReport (node member : Nat) (s : State) : Out := .next (pumpStream node 2048 (reportLcc node member s))

/-- CHUNK_LANDING: a result lands at a member, unless its slot's first landing word is still full (R346). -/
def execChunkLanding (node member : Nat) (c : Chunk) (s : State) : Out :=
  let st := getStream s node
  if !st.v || st.failed || !decide (member < st.members.length) || landingWaits s node member c then .next s
  else .next (pumpStream node 2048 (landChunk node member c s))

end Sys2Proof.Machine
end

