-- ==== Sys2Proof/Machine/Dispatch.lean ====
section
/-! DEFINITION. The meaning of every instruction and event: one arm per constructor, one call of its meaning each. -/

namespace Sys2Proof.Machine

/-- What an instruction of the hart that issues, or an event, does to the machine. -/
def exec (i : Instr) (s : State) : Host.Outcome State Fault Refusal :=
  match i with
  | .coldReset => Sys2Proof.Machine.execColdReset s
  | .pkstWarmReset bmi => Sys2Proof.Machine.execPkstWarmReset bmi s
  | .pkstCaphitClear bmi => Sys2Proof.Machine.execPkstCaphitClear bmi s
  | .bringupStageDone ok mask => Sys2Proof.Machine.execBringupStageDone ok mask s
  | .bmiReadPkst => Sys2Proof.Machine.execBmiReadPkst s
  | .bmiWritePkst v => Sys2Proof.Machine.execBmiWritePkst v s
  | .bmiUnknownCommand cmd => Sys2Proof.Machine.execBmiUnknownCommand cmd s
  | .frameBoundary => Sys2Proof.Machine.execFrameBoundary s
  | .thermalTrip die temp => Sys2Proof.Machine.execThermalTrip die temp s
  | .thermalTripEnd temp0 temp1 => Sys2Proof.Machine.execThermalTripEnd temp0 temp1 s
  | .thermalShutdown die temp => Sys2Proof.Machine.execThermalShutdown die temp s
  | .ptsTick core => Sys2Proof.Machine.execPtsTick core s
  | .tdctlSwap => Sys2Proof.Machine.execTdctlSwap s
  | .registerWrite fn off v => Sys2Proof.Machine.execRegisterWrite fn off v s
  | .globalLinkDown quadrant j => Sys2Proof.Machine.execGlobalLinkDown quadrant j s
  | .flitBadCheck port => Sys2Proof.Machine.execFlitBadCheck port s
  | .laneError port lane => Sys2Proof.Machine.execLaneError port lane s
  | .laneSelftestDone port lane passed => Sys2Proof.Machine.execLaneSelftestDone port lane passed s
  | .portRetrainDone port => Sys2Proof.Machine.execPortRetrainDone port s
  | .sramRowError unit row corrected => Sys2Proof.Machine.execSramRowError unit row corrected s
  | .rowSelftestDone unit row passed => Sys2Proof.Machine.execRowSelftestDone unit row passed s
  | .peerLinkDown link => Sys2Proof.Machine.execPeerLinkDown link s
  | .hostWalk fn start path => Sys2Proof.Machine.execHostWalk fn start path s
  | .hostOpen fn h w => Sys2Proof.Machine.execHostOpen fn h w s
  | .hostClose fn h => Sys2Proof.Machine.execHostClose fn h s
  | .hostBind fn path word => Sys2Proof.Machine.execHostBind fn path word s
  | .hostUnbind fn path d => Sys2Proof.Machine.execHostUnbind fn path d s
  | .hostStat fn h record => Sys2Proof.Machine.execHostStat fn h record s
  | .hostRevoke fn h => Sys2Proof.Machine.execHostRevoke fn h s
  | .hostDup fn h w => Sys2Proof.Machine.execHostDup fn h w s
  | .hostCreate fn path record => Sys2Proof.Machine.execHostCreate fn path record s
  | .hostRead fn addr n => Sys2Proof.Machine.execHostRead fn addr n s
  | .hostWrite fn addr data fe => Sys2Proof.Machine.execHostWrite fn addr data fe s
  | .keyCacheMiss unit ctx addr => Sys2Proof.Machine.execKeyCacheMiss unit ctx addr s
  | .nodeCacheMiss node by_ => Sys2Proof.Machine.execNodeCacheMiss node by_ s
  | .nodeMissTimeout node => Sys2Proof.Machine.execNodeMissTimeout node s
  | .filterInstall rid quadrant => Sys2Proof.Machine.execFilterInstall rid quadrant s
  | .keyInvalidate rid quadrant => Sys2Proof.Machine.execKeyInvalidate rid quadrant s
  | .revokeAck rid quadrant => Sys2Proof.Machine.execRevokeAck rid quadrant s
  | .journalRetireReport rid quadrant => Sys2Proof.Machine.execJournalRetireReport rid quadrant s
  | .nodeDestroy node => Sys2Proof.Machine.execNodeDestroy node s
  | .queueAppend node off ctx pkg data => Sys2Proof.Machine.execQueueAppend node off ctx pkg data s
  | .ccCreate fn => Sys2Proof.Machine.execCcCreate fn s
  | .ccDestroy fn ctx => Sys2Proof.Machine.execCcDestroy fn ctx s
  | .ccActThrough fn ctx => Sys2Proof.Machine.execCcActThrough fn ctx s
  | .gqTailStore queue size v => Sys2Proof.Machine.execGqTailStore queue size v s
  | .gqTailNonresident queue size v => Sys2Proof.Machine.execGqTailNonresident queue size v s
  | .gqctlResume queue => Sys2Proof.Machine.execGqctlResume queue s
  | .recordFetch queue => Sys2Proof.Machine.execRecordFetch queue s
  | .nodeRelease queue slot order faulted origq origslot => Sys2Proof.Machine.execNodeRelease queue slot order faulted origq origslot s
  | .nodeDispatch queue => Sys2Proof.Machine.execNodeDispatch queue s
  | .nodeWaitTimeout queue slot => Sys2Proof.Machine.execNodeWaitTimeout queue slot s
  | .gateTimeout queue slot => Sys2Proof.Machine.execGateTimeout queue slot s
  | .formatWindowInstall queue slot window image => Sys2Proof.Machine.execFormatWindowInstall queue slot window image s
  | .bindSetRun queue slot => Sys2Proof.Machine.execBindSetRun queue slot s
  | .nodeComplete queue slot out => Sys2Proof.Machine.execNodeComplete queue slot out s
  | .qgangMap gang tumbler first => Sys2Proof.Machine.execQgangMap gang tumbler first s
  | .qgangUnmap gang => Sys2Proof.Machine.execQgangUnmap gang s
  | .vfDisable => Sys2Proof.Machine.execVfDisable s
  | .vfDisableAtT => Sys2Proof.Machine.execVfDisableAtT s
  | .vfEnable => Sys2Proof.Machine.execVfEnable s
  | .fwCoreWake core => Sys2Proof.Machine.execFwCoreWake core s
  | .hmbFill => Sys2Proof.Machine.execHmbFill s
  | .hmbMap => Sys2Proof.Machine.execHmbMap s
  | .hmbSpdm => Sys2Proof.Machine.execHmbSpdm s
  | .spdmGetVersion req => Sys2Proof.Machine.execSpdmGetVersion req s
  | .spdmGetCapabilities req => Sys2Proof.Machine.execSpdmGetCapabilities req s
  | .spdmNegotiateAlgorithms req => Sys2Proof.Machine.execSpdmNegotiateAlgorithms req s
  | .spdmGetDigests req => Sys2Proof.Machine.execSpdmGetDigests req s
  | .spdmGetCertificate req => Sys2Proof.Machine.execSpdmGetCertificate req s
  | .spdmChallenge req => Sys2Proof.Machine.execSpdmChallenge req s
  | .spdmGetMeasurements req => Sys2Proof.Machine.execSpdmGetMeasurements req s
  | .spdmUnsupported req => Sys2Proof.Machine.execSpdmUnsupported req s
  | .hmbImgw => Sys2Proof.Machine.execHmbImgw s
  | .hmbPartrec => Sys2Proof.Machine.execHmbPartrec s
  | .hmbNodereq => Sys2Proof.Machine.execHmbNodereq s
  | .hmbDefrag => Sys2Proof.Machine.execHmbDefrag s
  | .hmbBadType => Sys2Proof.Machine.execHmbBadType s
  | .pwrcapWrite fn v => Sys2Proof.Machine.execPwrcapWrite fn v s
  | .updstGo fn => Sys2Proof.Machine.execUpdstGo fn s
  | .updateHeartbeat => Sys2Proof.Machine.execUpdateHeartbeat s
  | .heartbeatTimeout => Sys2Proof.Machine.execHeartbeatTimeout s
  | .launchDispatch queue slot => Sys2Proof.Machine.execLaunchDispatch queue slot s
  | .slotFree core slot => Sys2Proof.Machine.execSlotFree core slot s
  | .slotReservationRequest ask => Sys2Proof.Machine.execSlotReservationRequest ask s
  | .slotReservationReply ask slot => Sys2Proof.Machine.execSlotReservationReply ask slot s
  | .parcelArrival p => Sys2Proof.Machine.execParcelArrival p s
  | .waitRetryPoll t => Sys2Proof.Machine.execWaitRetryPoll t s
  | .watchdogExpiry t => Sys2Proof.Machine.execWatchdogExpiry t s
  | .reservationHoldExpiry t => Sys2Proof.Machine.execReservationHoldExpiry t s
  | .latchWaitTimeout t => Sys2Proof.Machine.execLatchWaitTimeout t s
  | .lateResultReturn t answer => Sys2Proof.Machine.execLateResultReturn t answer s
  | .gangArm part => Sys2Proof.Machine.execGangArm part s
  | .gangStop part => Sys2Proof.Machine.execGangStop part s
  | .gangRestore part => Sys2Proof.Machine.execGangRestore part s
  | .sliceEnd part => Sys2Proof.Machine.execSliceEnd part s
  | .defragmentation part slice target => Sys2Proof.Machine.execDefragmentation part slice target s
  | .travelDeparture t => Sys2Proof.Machine.execTravelDeparture t s
  | .travelArrival p => Sys2Proof.Machine.execTravelArrival p s
  | .putSegmentLand p dst off data => Sys2Proof.Machine.execPutSegmentLand p dst off data s
  | .putSegmentAck p bytes refused => Sys2Proof.Machine.execPutSegmentAck p bytes refused s
  | .putCounterAction core entry => Sys2Proof.Machine.execPutCounterAction core entry s
  | .postedAck core entry refused => Sys2Proof.Machine.execPostedAck core entry refused s
  | .chunkArrival node station input c => Sys2Proof.Machine.execChunkArrival node station input c s
  | .markerArrival node station input c => Sys2Proof.Machine.execMarkerArrival node station input c s
  | .streamInputTimeout node station input => Sys2Proof.Machine.execStreamInputTimeout node station input s
  | .inputDeadDeclare node member => Sys2Proof.Machine.execInputDeadDeclare node member s
  | .lccReport node member => Sys2Proof.Machine.execLccReport node member s
  | .chunkLanding node member c => Sys2Proof.Machine.execChunkLanding node member c s
  | .frameClaim node frame => Sys2Proof.Machine.execFrameClaim node frame s
  | .mediaPacketArrival port p => Sys2Proof.Machine.execMediaPacketArrival port p s
  | .frameDeadline node frame => Sys2Proof.Machine.execFrameDeadline node frame s
  | .ptpMessage from_ offset trim locked => Sys2Proof.Machine.execPtpMessage from_ offset trim locked s
  | .mediaEnable node v => Sys2Proof.Machine.execMediaEnable node v s
  | .homeLoad core line renew => Sys2Proof.Machine.execHomeLoad core line renew s
  | .homeStore core line => Sys2Proof.Machine.execHomeStore core line s
  | .llcEviction line => Sys2Proof.Machine.execLlcEviction line s
  | .llcFillReturn line => Sys2Proof.Machine.execLlcFillReturn line s
  | .reservationForward key => Sys2Proof.Machine.execReservationForward key s
  | .mapEntryInstall t table entry v => Sys2Proof.Machine.execMapEntryInstall t table entry v s
  | .mapEntryRemove t table entry v => Sys2Proof.Machine.execMapEntryRemove t table entry v s
  | .mmEngineRun cluster => Sys2Proof.Machine.execMmEngineRun cluster s
  | .vectorCommandExec core => Sys2Proof.Machine.execVectorCommandExec core s
  | .vectorCommandRetire core => Sys2Proof.Machine.execVectorCommandRetire core s
  | .repSequenceStart core => Sys2Proof.Machine.execRepSequenceStart core s
  | .engineKick hart node ctx words => Sys2Proof.Machine.execEngineKick hart node ctx words s
  | .engineHartStart hart => Sys2Proof.Machine.execEngineHartStart hart s
  | .debugResume fn ctx => Sys2Proof.Machine.execDebugResume fn ctx s
  | .yieldExpiry t => Sys2Proof.Machine.execYieldExpiry t s
  | .wfiTimeout t => Sys2Proof.Machine.execWfiTimeout t s
  | .barrierWaitTimeout t => Sys2Proof.Machine.execBarrierWaitTimeout t s
  | .add q d a b x => Sys2Proof.Machine.execAdd q d a b x s
  | .addSat q d a b => Sys2Proof.Machine.execAddSat q d a b s
  | .sub q d a b x => Sys2Proof.Machine.execSub q d a b x s
  | .subSat q d a b => Sys2Proof.Machine.execSubSat q d a b s
  | .addn q d a b x => Sys2Proof.Machine.execAddn q d a b x s
  | .addnSat q d a b => Sys2Proof.Machine.execAddnSat q d a b s
  | .subn q d a b x => Sys2Proof.Machine.execSubn q d a b x s
  | .subnSat q d a b => Sys2Proof.Machine.execSubnSat q d a b s
  | .and q d a b => Sys2Proof.Machine.execAnd q d a b s
  | .or q d a b => Sys2Proof.Machine.execOr q d a b s
  | .xor q d a b => Sys2Proof.Machine.execXor q d a b s
  | .andn q d a b => Sys2Proof.Machine.execAndn q d a b s
  | .orn q d a b => Sys2Proof.Machine.execOrn q d a b s
  | .xnor q d a b => Sys2Proof.Machine.execXnor q d a b s
  | .sll q d a b => Sys2Proof.Machine.execSll q d a b s
  | .srl q d a b => Sys2Proof.Machine.execSrl q d a b s
  | .sra q d a b => Sys2Proof.Machine.execSra q d a b s
  | .rol q d a b => Sys2Proof.Machine.execRol q d a b s
  | .ror q d a b => Sys2Proof.Machine.execRor q d a b s
  | .ahdl q d a => Sys2Proof.Machine.execAhdl q d a s
  | .aoff q d a => Sys2Proof.Machine.execAoff q d a s
  | .amake q d a b => Sys2Proof.Machine.execAmake q d a b s
  | .aadd q d a b => Sys2Proof.Machine.execAadd q d a b s
  | .adiff q d a b => Sys2Proof.Machine.execAdiff q d a b s
  | .addi q d a imm x => Sys2Proof.Machine.execAddi q d a imm x s
  | .addiSat q d a imm => Sys2Proof.Machine.execAddiSat q d a imm s
  | .addiK q d a k x => Sys2Proof.Machine.execAddiK q d a k x s
  | .addiSatK q d a k => Sys2Proof.Machine.execAddiSatK q d a k s
  | .andi q d a imm => Sys2Proof.Machine.execAndi q d a imm s
  | .andiK q d a k => Sys2Proof.Machine.execAndiK q d a k s
  | .ori q d a imm => Sys2Proof.Machine.execOri q d a imm s
  | .oriK q d a k => Sys2Proof.Machine.execOriK q d a k s
  | .xori q d a imm => Sys2Proof.Machine.execXori q d a imm s
  | .xoriK q d a k => Sys2Proof.Machine.execXoriK q d a k s
  | .slli q d a h => Sys2Proof.Machine.execSlli q d a h s
  | .srli q d a h => Sys2Proof.Machine.execSrli q d a h s
  | .srai q d a h => Sys2Proof.Machine.execSrai q d a h s
  | .rori q d a h => Sys2Proof.Machine.execRori q d a h s
  | .li q d imm => Sys2Proof.Machine.execLi q d imm s
  | .liK q d k => Sys2Proof.Machine.execLiK q d k s
  | .cmpi q d a imm => Sys2Proof.Machine.execCmpi q d a imm s
  | .cmpiK q d a k => Sys2Proof.Machine.execCmpiK q d a k s
  | .mul q d a b x => Sys2Proof.Machine.execMul q d a b x s
  | .mulSat q d a b => Sys2Proof.Machine.execMulSat q d a b s
  | .muln q d a b x => Sys2Proof.Machine.execMuln q d a b x s
  | .mulnSat q d a b => Sys2Proof.Machine.execMulnSat q d a b s
  | .mulh q d a b => Sys2Proof.Machine.execMulh q d a b s
  | .mulhn q d a b => Sys2Proof.Machine.execMulhn q d a b s
  | .div q d a b => Sys2Proof.Machine.execDiv q d a b s
  | .divn q d a b => Sys2Proof.Machine.execDivn q d a b s
  | .rem q d a b => Sys2Proof.Machine.execRem q d a b s
  | .remn q d a b => Sys2Proof.Machine.execRemn q d a b s
  | .bext q d a b => Sys2Proof.Machine.execBext q d a b s
  | .bextn q d a b => Sys2Proof.Machine.execBextn q d a b s
  | .bins q d a b => Sys2Proof.Machine.execBins q d a b s
  | .clz q d a => Sys2Proof.Machine.execClz q d a s
  | .ctz q d a => Sys2Proof.Machine.execCtz q d a s
  | .popc q d a => Sys2Proof.Machine.execPopc q d a s
  | .brev q d a => Sys2Proof.Machine.execBrev q d a s
  | .bswap q d a => Sys2Proof.Machine.execBswap q d a s
  | .seq q d a b => Sys2Proof.Machine.execSeq q d a b s
  | .sne q d a b => Sys2Proof.Machine.execSne q d a b s
  | .slt q d a b => Sys2Proof.Machine.execSlt q d a b s
  | .sltn q d a b => Sys2Proof.Machine.execSltn q d a b s
  | .cmp q d a b => Sys2Proof.Machine.execCmp q d a b s
  | .sel q d a b => Sys2Proof.Machine.execSel q d a b s
  | .min q d a b => Sys2Proof.Machine.execMin q d a b s
  | .max q d a b => Sys2Proof.Machine.execMax q d a b s
  | .minn q d a b => Sys2Proof.Machine.execMinn q d a b s
  | .maxn q d a b => Sys2Proof.Machine.execMaxn q d a b s
  | .ld q d a z imm => Sys2Proof.Machine.execLd q d a z imm s
  | .ldX q d a z disp => Sys2Proof.Machine.execLdX q d a z disp s
  | .st q sreg a z imm => Sys2Proof.Machine.execSt q sreg a z imm s
  | .stX q sreg a z disp => Sys2Proof.Machine.execStX q sreg a z disp s
  | .ldTake q d a imm => Sys2Proof.Machine.execLdTake q d a imm s
  | .ldPeek q d a imm => Sys2Proof.Machine.execLdPeek q d a imm s
  | .stGive q sreg a imm => Sys2Proof.Machine.execStGive q sreg a imm s
  | .stFill q sreg a imm => Sys2Proof.Machine.execStFill q sreg a imm s
  | .feRd q d a imm => Sys2Proof.Machine.execFeRd q d a imm s
  | .feClr q a imm => Sys2Proof.Machine.execFeClr q a imm s
  | .amoAdd q d a b w => Sys2Proof.Machine.execAmoAdd q d a b w s
  | .amoAnd q d a b w => Sys2Proof.Machine.execAmoAnd q d a b w s
  | .amoOr q d a b w => Sys2Proof.Machine.execAmoOr q d a b w s
  | .amoXor q d a b w => Sys2Proof.Machine.execAmoXor q d a b w s
  | .amoMin q d a b w => Sys2Proof.Machine.execAmoMin q d a b w s
  | .amoMax q d a b w => Sys2Proof.Machine.execAmoMax q d a b w s
  | .amoMinn q d a b w => Sys2Proof.Machine.execAmoMinn q d a b w s
  | .amoMaxn q d a b w => Sys2Proof.Machine.execAmoMaxn q d a b w s
  | .amoSwap q d a b w => Sys2Proof.Machine.execAmoSwap q d a b w s
  | .amoCas q d a b w => Sys2Proof.Machine.execAmoCas q d a b w s
  | .rsv q d a imm => Sys2Proof.Machine.execRsv q d a imm s
  | .rls q sreg a imm => Sys2Proof.Machine.execRls q sreg a imm s
  | .rlsN q a imm => Sys2Proof.Machine.execRlsN q a imm s
  | .putAdd q d a b => Sys2Proof.Machine.execPutAdd q d a b s
  | .putSet q d a b => Sys2Proof.Machine.execPutSet q d a b s
  | .putFill q d a b => Sys2Proof.Machine.execPutFill q d a b s
  | .putNc q a b => Sys2Proof.Machine.execPutNc q a b s
  | .pst q sreg a z imm => Sys2Proof.Machine.execPst q sreg a z imm s
  | .pstX q sreg a z disp => Sys2Proof.Machine.execPstX q sreg a z disp s
  | .fencePut q => Sys2Proof.Machine.execFencePut q s
  | .fencePost q => Sys2Proof.Machine.execFencePost q s
  | .fenceAll q => Sys2Proof.Machine.execFenceAll q s
  | .cpf q a => Sys2Proof.Machine.execCpf q a s
  | .cwb q a => Sys2Proof.Machine.execCwb q a s
  | .cfl q a => Sys2Proof.Machine.execCfl q a s
  | .barInit q a b => Sys2Proof.Machine.execBarInit q a b s
  | .barArr q d a b => Sys2Proof.Machine.execBarArr q d a b s
  | .barArrf q d a b => Sys2Proof.Machine.execBarArrf q d a b s
  | .barWait q d a b => Sys2Proof.Machine.execBarWait q d a b s
  | .latArm q d a imm => Sys2Proof.Machine.execLatArm q d a imm s
  | .latWait q d b => Sys2Proof.Machine.execLatWait q d b s
  | .latClr q imm => Sys2Proof.Machine.execLatClr q imm s
  | .bcopy q d a b => Sys2Proof.Machine.execBcopy q d a b s
  | .bEq q a b imm => Sys2Proof.Machine.execBEq q a b imm s
  | .bNe q a b imm => Sys2Proof.Machine.execBNe q a b imm s
  | .bLt q a b imm => Sys2Proof.Machine.execBLt q a b imm s
  | .bGe q a b imm => Sys2Proof.Machine.execBGe q a b imm s
  | .bLtn q a b imm => Sys2Proof.Machine.execBLtn q a b imm s
  | .bGen q a b imm => Sys2Proof.Machine.execBGen q a b imm s
  | .bBs q a b imm => Sys2Proof.Machine.execBBs q a b imm s
  | .bBc q a b imm => Sys2Proof.Machine.execBBc q a b imm s
  | .bCondX q a b c disp live => Sys2Proof.Machine.execBCondX q a b c disp live s
  | .j q j => Sys2Proof.Machine.execJ q j s
  | .jX q disp live => Sys2Proof.Machine.execJX q disp live s
  | .jr q a live => Sys2Proof.Machine.execJr q a live s
  | .callr q a live => Sys2Proof.Machine.execCallr q a live s
  | .call q disp live => Sys2Proof.Machine.execCall q disp live s
  | .ret q live => Sys2Proof.Machine.execRet q live s
  | .lp q a imm => Sys2Proof.Machine.execLp q a imm s
  | .spawn q d a b => Sys2Proof.Machine.execSpawn q d a b s
  | .spawnc q d a b live => Sys2Proof.Machine.execSpawnc q d a b live s
  | .fork q d a live => Sys2Proof.Machine.execFork q d a live s
  | .unfork q a live => Sys2Proof.Machine.execUnfork q a live s
  | .join q a => Sys2Proof.Machine.execJoin q a s
  | .exit q => Sys2Proof.Machine.execExit q s
  | .go q d b => Sys2Proof.Machine.execGo q d b s
  | .yield q b => Sys2Proof.Machine.execYield q b s
  | .tid q d => Sys2Proof.Machine.execTid q d s
  | .nwalk q d a b => Sys2Proof.Machine.execNwalk q d a b s
  | .nopen q d a b => Sys2Proof.Machine.execNopen q d a b s
  | .nclose q d a => Sys2Proof.Machine.execNclose q d a s
  | .nbind q d a b => Sys2Proof.Machine.execNbind q d a b s
  | .nunbind q d a b => Sys2Proof.Machine.execNunbind q d a b s
  | .nstat q d a b => Sys2Proof.Machine.execNstat q d a b s
  | .nrevoke q d a => Sys2Proof.Machine.execNrevoke q d a s
  | .ndup q d a b => Sys2Proof.Machine.execNdup q d a b s
  | .ncreate q d a b => Sys2Proof.Machine.execNcreate q d a b s
  | .vsSet q d a b => Sys2Proof.Machine.execVsSet q d a b s
  | .streamStartStore node v => Sys2Proof.Machine.execStreamStartStore node v s
  | .vsRed q d a b => Sys2Proof.Machine.execVsRed q d a b s
  | .vsMark q d a => Sys2Proof.Machine.execVsMark q d a s
  | .vsSt q d a => Sys2Proof.Machine.execVsSt q d a s
  | .vsRejoin q d a => Sys2Proof.Machine.execVsRejoin q d a s
  | .vsClose q d a => Sys2Proof.Machine.execVsClose q d a s
  | .vaddInt g => Sys2Proof.Machine.execVaddInt g s
  | .vaddIntK g => Sys2Proof.Machine.execVaddIntK g s
  | .vsubInt g => Sys2Proof.Machine.execVsubInt g s
  | .vmulInt g => Sys2Proof.Machine.execVmulInt g s
  | .vmulh g => Sys2Proof.Machine.execVmulh g s
  | .vminInt g => Sys2Proof.Machine.execVminInt g s
  | .vmaxInt g => Sys2Proof.Machine.execVmaxInt g s
  | .vand g => Sys2Proof.Machine.execVand g s
  | .vor g => Sys2Proof.Machine.execVor g s
  | .vxor g => Sys2Proof.Machine.execVxor g s
  | .vsll g => Sys2Proof.Machine.execVsll g s
  | .vsr g => Sys2Proof.Machine.execVsr g s
  | .vabsInt g => Sys2Proof.Machine.execVabsInt g s
  | .vmac g => Sys2Proof.Machine.execVmac g s
  | .vwmulInt g => Sys2Proof.Machine.execVwmulInt g s
  | .vwmac g => Sys2Proof.Machine.execVwmac g s
  | .vdotInt g => Sys2Proof.Machine.execVdotInt g s
  | .vceqInt g => Sys2Proof.Machine.execVceqInt g s
  | .vcltInt g => Sys2Proof.Machine.execVcltInt g s
  | .vcleInt g => Sys2Proof.Machine.execVcleInt g s
  | .vmov g => Sys2Proof.Machine.execVmov g s
  | .vaddFlt g => Sys2Proof.Machine.execVaddFlt g s
  | .vaddFltX g => Sys2Proof.Machine.execVaddFltX g s
  | .vsubFlt g => Sys2Proof.Machine.execVsubFlt g s
  | .vmulFlt g => Sys2Proof.Machine.execVmulFlt g s
  | .vmulFltK g => Sys2Proof.Machine.execVmulFltK g s
  | .vdiv g => Sys2Proof.Machine.execVdiv g s
  | .vfma g => Sys2Proof.Machine.execVfma g s
  | .vminFlt g => Sys2Proof.Machine.execVminFlt g s
  | .vmaxFlt g => Sys2Proof.Machine.execVmaxFlt g s
  | .vabsFlt g => Sys2Proof.Machine.execVabsFlt g s
  | .vsqrt g => Sys2Proof.Machine.execVsqrt g s
  | .vexp2 g => Sys2Proof.Machine.execVexp2 g s
  | .vlog2 g => Sys2Proof.Machine.execVlog2 g s
  | .vrcp g => Sys2Proof.Machine.execVrcp g s
  | .vrsq g => Sys2Proof.Machine.execVrsq g s
  | .vwmulFlt g => Sys2Proof.Machine.execVwmulFlt g s
  | .vwfma g => Sys2Proof.Machine.execVwfma g s
  | .vdotFlt g => Sys2Proof.Machine.execVdotFlt g s
  | .vceqFlt g => Sys2Proof.Machine.execVceqFlt g s
  | .vcltFlt g => Sys2Proof.Machine.execVcltFlt g s
  | .vcleFlt g => Sys2Proof.Machine.execVcleFlt g s
  | .vld g => Sys2Proof.Machine.execVld g s
  | .vldX g => Sys2Proof.Machine.execVldX g s
  | .vst g => Sys2Proof.Machine.execVst g s
  | .vstX g => Sys2Proof.Machine.execVstX g s
  | .vgather g => Sys2Proof.Machine.execVgather g s
  | .vscatter g => Sys2Proof.Machine.execVscatter g s
  | .vldl g => Sys2Proof.Machine.execVldl g s
  | .vldlV g => Sys2Proof.Machine.execVldlV g s
  | .vstl g => Sys2Proof.Machine.execVstl g s
  | .vstlV g => Sys2Proof.Machine.execVstlV g s
  | .vldsc g => Sys2Proof.Machine.execVldsc g s
  | .vstsc g => Sys2Proof.Machine.execVstsc g s
  | .vcvt g => Sys2Proof.Machine.execVcvt g s
  | .vcvtW g => Sys2Proof.Machine.execVcvtW g s
  | .vunpk g => Sys2Proof.Machine.execVunpk g s
  | .vunpk6 g => Sys2Proof.Machine.execVunpk6 g s
  | .vpk g => Sys2Proof.Machine.execVpk g s
  | .vpk6 g => Sys2Proof.Machine.execVpk6 g s
  | .vperm g => Sys2Proof.Machine.execVperm g s
  | .vslide g => Sys2Proof.Machine.execVslide g s
  | .vext g => Sys2Proof.Machine.execVext g s
  | .vins g => Sys2Proof.Machine.execVins g s
  | .vredAdd g => Sys2Proof.Machine.execVredAdd g s
  | .vredMax g => Sys2Proof.Machine.execVredMax g s
  | .vredMin g => Sys2Proof.Machine.execVredMin g s
  | .vattc w g => Sys2Proof.Machine.execVattc w g s
  | .vattf w g => Sys2Proof.Machine.execVattf w g s
  | .rep q c a => Sys2Proof.Machine.execRep q c a s
  | .repWait q d => Sys2Proof.Machine.execRepWait q d s
  | .vfence q => Sys2Proof.Machine.execVfence q s
  | .vbusy q d => Sys2Proof.Machine.execVbusy q d s
  | .kand q k j h => Sys2Proof.Machine.execKand q k j h s
  | .kor q k j h => Sys2Proof.Machine.execKor q k j h s
  | .kxor q k j h => Sys2Proof.Machine.execKxor q k j h s
  | .knot q k j => Sys2Proof.Machine.execKnot q k j s
  | .kset q k a => Sys2Proof.Machine.execKset q k a s
  | .kins q k a b => Sys2Proof.Machine.execKins q k a b s
  | .kext q d k b => Sys2Proof.Machine.execKext q d k b s
  | .kpop q d k => Sys2Proof.Machine.execKpop q d k s
  | .mm q d a => Sys2Proof.Machine.execMm q d a s
  | .mcload q d b imm => Sys2Proof.Machine.execMcload q d b imm s
  | .mcrd q d imm => Sys2Proof.Machine.execMcrd q d imm s
  | .mcclr q imm => Sys2Proof.Machine.execMcclr q imm s
  | .trap q c a e => Sys2Proof.Machine.execTrap q c a e s
  | .tret q => Sys2Proof.Machine.execTret q s
  | .tretX q live => Sys2Proof.Machine.execTretX q live s
  | .halt q a => Sys2Proof.Machine.execHalt q a s
  | .wfi q d b => Sys2Proof.Machine.execWfi q d b s
  | .gtime q d => Sys2Proof.Machine.execGtime q d s
  | .pjRd q d a => Sys2Proof.Machine.execPjRd q d a s
  | .pjClr q d a => Sys2Proof.Machine.execPjClr q d a s
  | .kcInv q a sreg => Sys2Proof.Machine.execKcInv q a sreg s
  | .ffl q d => Sys2Proof.Machine.execFfl q d s
  | .ctlRd q d h n => Sys2Proof.Machine.execCtlRd q d h n s
  | .ctlWr q a h n => Sys2Proof.Machine.execCtlWr q a h n s
  | .ctlSet q a h n => Sys2Proof.Machine.execCtlSet q a h n s
  | .ctlClr q a h n => Sys2Proof.Machine.execCtlClr q a h n s
  | .brk q => Sys2Proof.Machine.execBrk q s
  | .illegalInstruction base => Sys2Proof.Machine.execIllegalInstruction base s
  | .ptpHoldover => Sys2Proof.Machine.execPtpHoldover s

end Sys2Proof.Machine
end

