-- ==== Sys2Proof/Machine/Issue.lean ====
section
/-! DEFINITION. Issuing: fetching an instruction and decoding it, when a hart is ready, and what it does with its turn (R154, R158, R171,
R179, R183, R247 to R252, R258, R272). -/

namespace Sys2Proof.Machine

/-! ### Fetch (R88, R171, R174, R183, R258) -/

/-- What a fetch of bytes gives: the bytes, a fault, or a wait for a node record. -/
inductive Fetched where
  | got (bs : List Byte)
  | fault (i : TrapInfo)
  | miss (node : Nat)
  deriving DecidableEq, Repr

/-- Bytes from an address of the segment that a travelling thread's core has loaded: every fetch from inside it hits (R171). -/
def fetchPinned (s : State) (core : Nat) (g : List Nat) (a : Word) (n : Nat) : Fetched :=
  .got (((getCore s core).segBytes.drop (off a - g.getD 1 0)).take n)

/-- Bytes through the pc's handle (R88, R258). -/
def fetchNode (s : State) (t : Nat) (pc a : Word) (n : Nat) : Fetched :=
  let w := whoOf s t
  match hostMiss s w.unit w.ctx (hdl a) with
  | some node => if (getTh s t).wait = .missed node then .fault ⟨2, 7, pc⟩ else .miss node
  | none =>
    match resolve s w a n needEx with
    | .ok (.mem ps) =>
      if (refusedPiece s w.part ps).isSome then .fault ⟨2, 2, pc⟩
      else if (badWord s ps).isSome then .fault ⟨0x0B, 0, pc⟩
      else .got (rdPieces s ps)
    | .ok _ => .fault ⟨2, 3, pc⟩
    | .error i => .fault { i with tval := pc }

/-- Bytes from an offset after the pc, of the pinned segment for a travelling thread. -/
def fetchBytes (s : State) (t : Nat) (o n : Nat) : Fetched :=
  let th := getTh s t
  let a := offWrap th.pc (Int.ofNat o)
  match (if travels th then (getCore s (coreOf t)).segment else none) with
  | some (l, i, stale) => if stale then .fault ⟨2, 2, th.pc⟩ else fetchPinned s (coreOf t) ((getLaunch s l).segs.getD i []) a n
  | none => fetchNode s t th.pc a n

/-- An instruction that begins inside a travelling thread's segment ends past its last byte (R174). -/
def straddles (s : State) (t : Nat) (len : Nat) : Bool :=
  let th := getTh s t
  travels th && (match pinned s t with
    | some g => decide (g.getD 1 0 + g.getD 2 0 < off th.pc + len)
    | none => false)

/-- What a hart's turn finds at its pc: an instruction, an exact fault before it, a node record to wait for, or a departure. -/
inductive AtPc where
  | instr (i : Instr)
  | fault (i : TrapInfo)
  | miss (node : Nat)
  | depart
  deriving DecidableEq, Repr

/-- The words fetched at a pc are an instruction, or name none; at a pc that is not a multiple of 4 an instruction takes the misalignment trap (R248,
R257, R264, R272). -/
noncomputable def atWords (pc : Word) (bs : List Byte) : AtPc :=
  match decodeBytes bs with
  | .ok (i, _) => if bits pc 1 0 = 0 then .instr i else .fault ⟨3, 0, pc⟩
  | .error _ => .instr (.illegalInstruction (BitVec.ofNat 32 (leNat (bs.take 4))))

/-- What the issuing hart finds at its pc: a thread placed outside its core's segment departs first, or takes NOSEG; then come a fetch's fault, STRADDLE,
and what the words are (R174, R179, R248, R258; log 23). -/
noncomputable def atPc (s : State) : AtPc :=
  let t := s.me
  let pc := (cur s).pc
  if leaves s t pc then (if (segOf s t pc).isNone then .fault ⟨4, 3, pc⟩ else .depart)
  else
    match fetchBytes s t 0 4 with
    | .fault i => .fault i
    | .miss node => .miss node
    | .got b =>
      let len := lengthOf (BitVec.ofNat 32 (leNat b))
      if straddles s t len then .fault ⟨4, 2, pc⟩
      else if len = 4 then atWords pc b
      else
        match fetchBytes s t 4 (len - 4) with
        | .fault i => .fault i
        | .miss node => .miss node
        | .got r => atWords pc (b ++ r)

/-- The issuing hart does what it finds at its pc: it performs the instruction, takes the fault, waits for the node record, or departs (R89, R179,
R248). -/
noncomputable def runHart (s : State) : Out :=
  match atPc s with
  | .instr i => exec i s
  | .fault i => trapHere i.cause i.reason i.tval s
  | .miss node => .next (pushOnce (.nodeCacheMiss node ⟨(cur s).ctx, true⟩) (park (.fetch node (cur s).pc none) s))
  | .depart => .next (departTo s.me (cur s).pc (defLive s s.me (cur s).pc) s)

/-! ### Readiness (R154, R158) -/

/-- A wait of a hart has ended, so that the hart can take its turn: its instruction issues, or issues again (R158, R252). A pending
asynchronous trap ends the waits it can end. -/
def waitOver (s : State) (t : Nat) : Bool :=
  let th := getTh s t
  let async := asyncPending s t
  match th.wait with
  | .run => true
  | .marker => th.late.isEmpty
  | .fetch n _ _ => nodeCached s n
  | .missed _ => true
  | .word k _ _ _ _ _ => async || !((spGet [] s.waits (k / 8)).any fun e => e.t == t)
  | .retry _ _ _ _ _ due => async || due == 0
  | .resv w _ => async || !(spGet Resv.free s.resv w).queue.contains t
  | .latch _ _ _ => latchReason s t != 0
  | .barrier _ _ _ _ _ _ => async
  | .vqueue => decide (th.vq.length < 4)
  | .vjoin => vectorIdle th
  | .matrix _ _ _ => false
  | .queueReg r rd => async || (!lateDue s t r && if rd then !(inq s t r).isEmpty else decide ((outq s t r).length < 8))
  | .fence put post => !outstanding s th.uid put post && (th.taken.isEmpty || th.late.isEmpty)
  | .journal => (freeEntry s (coreOf t)).isSome
  | .name _ _ _ => false
  | .remote _ _ => false
  | .slotAsk => false
  | .slotReply _ => th.late.isEmpty
  | .settle (.depart _ _) => th.late.isEmpty && vectorIdle th && !th.refused.isEmpty
  | .settle (.dead _ _ _ _) => th.late.isEmpty && vectorIdle th && !(isHart t && outstanding s th.uid true true)
  | .settle _ => th.late.isEmpty && vectorIdle th
  | .yielding n q => async || (n == 0 && !(q && !th.late.isEmpty))
  | .wfi _ _ _ => asyncAimed s t
  | .halted _ => async

/-- Every access of a thread has returned, but for what a capture in progress holds (R247, R372). -/
def accessesIn (th : Thread) : Bool :=
  th.late.isEmpty && match th.capture with
    | some _ => decide (th.vq.length + th.vout ≤ 1)
    | none => vectorIdle th

/-- A slot or engine hart is ready; one that an access has been refused to waits for all its accesses first (R154, R163, R166, R247). -/
def readyHart (s : State) (t : Nat) : Bool :=
  let th := getTh s t
  liveTh th && decide (th.startAt ≤ s.cycle) && !stopped s t && waitOver s t && (th.refused.isEmpty || accessesIn th)

/-! ### Asynchronous and returned traps (R196, R247 to R252) -/

/-- The oldest undelivered refusal is delivered: a record not written while the thread was on no hart is written now, the wait is cancelled,
and the posted-refusal trap is entered (R173, R196, R251, R252). -/
def takeAsync (t : Nat) (s : State) : State :=
  match asyncEntry s (getTh s t).uid with
  | none => s
  | some (k, _) =>
    let s0 := if (spGet JEnt.free s.journal k).recd.isNone then writeRecord t (k / 32) (k % 32) s else s
    let j := spGet JEnt.free s0.journal k
    let bad := j.recd.getD none
    let s1 := cancelWait t { s0 with journal := spSet JEnt.free s0.journal k { j with told := true } }
    enterTrap t ⟨0x0A, j.code, bad.getD j.addr⟩ true (k % 32) bad.isSome (getTh s1 t).pc s1

/-- A wait whose instruction completes before an asynchronous trap is taken, or whose answer it must first act on: it has been served, or it is one of
those that end by themselves (R152, R252, R396). -/
def completesFirst (s : State) (t : Nat) : Bool :=
  match (getTh s t).wait with
  | .latch _ _ _ => true
  | .wfi _ _ _ => true
  | .slotReply _ => true
  | .missed _ => true
  | .settle _ => true
  | .fence _ _ => true
  | .vjoin => true
  | .resv w _ => (spGet Resv.free s.resv w).granted == some t
  | .queueReg r rd => !lateDue s t r && if rd then !(inq s t r).isEmpty else decide ((outq s t r).length < 8)
  | _ => false

/-- A wait that an asynchronous trap cancels: the waiting instruction does not issue first (R252, R395). -/
def cancelled (w : Wait) : Bool :=
  match w with
  | .word _ _ _ _ _ _ => true
  | .retry _ _ _ _ _ _ => true
  | .resv _ _ => true
  | .barrier _ _ _ _ _ _ => true
  | .queueReg _ _ => true
  | .halted _ => true
  | _ => false

/-- Between two states of a hart at trap level 0 its instruction took an exact trap (R248). -/
def tookExact (pc : Word) (th : Thread) : Bool :=
  match th.wait with
  | .settle (.dead epc cw _ _) => epc == pc && !bit cw 16
  | _ => tl th && th.tepc == pc && !bit th.tcause 16

/-- What a thread does whose wait as at a marker park is over: the first refused access is taken as a trap instead, but for a thread that
ends by an unhandled trap (R247, R249, R334). -/
def settle (t : Nat) (a : After) (s : State) : State :=
  match a, firstRefused (getTh s t).refused with
  | .dead tepc tcause tval thst, _ => endDead t tepc tcause tval thst s
  | _, some r => takeReturned t r s
  | .exit, none => endThread t false s
  | .depart _ _, none => s

/-- The instruction a thread is at has issued, and waits for its completion (R158). -/
def issuedWait (th : Thread) : Bool :=
  match th.wait with
  | .run => false
  | .marker => false
  | .fetch _ _ _ => false
  | .missed _ => false
  | .vqueue => false
  | .journal => false
  | .yielding _ _ => false
  | .slotAsk => !th.taken.isEmpty
  | .settle .exit => true
  | .settle _ => false
  | _ => true

/-- Between two states of a hart the instruction it found at its pc issued, and had not issued before: the thread went on, took its exact trap, or waits
for its completion, or the thread ended (R158, R168). -/
def issuedNow (f : AtPc) (a b : Thread) : Bool :=
  (match f with | .instr _ => true | _ => false) && !issuedWait a && (b.uid != a.uid || b.seq != a.seq || tookExact a.pc b || issuedWait b)

/-- Counts an instruction that has issued: for its thread, unless exit has counted it, and in a lent position for the position's owner too (R154, R168). -/
noncomputable def countTurn (s0 s : State) : State :=
  let t := s0.me
  let o := 16 * coreOf t + s0.cycle % 16
  if isHart t ∨ issuedNow (atPc s0) (cur s0) (getTh s t) = false then s
  else
    let s1 := if (getTh s t).uid = (cur s0).uid then modTh s t fun th => if o = t then countEv 1 1 th else countEv 2 1 (countEv 1 1 th) else s
    if o ≠ t ∧ liveTh (getTh s1 o) = true then modTh s1 o (countEv 3 1) else s1

/-- The issuing hart does what it finds at its pc, and that is counted. -/
noncomputable def runCounted (s : State) : Out :=
  match runHart s with
  | .next s' => .next (countTurn s s')
  | o => o

/-- The turn of a hart to which an asynchronous trap is due: the first instruction after a tret is not tried, nor one whose wait the trap cancels; wfi writes its
result first; of any other only an exact trap is taken, and the asynchronous one waits (R248, R249, R252, R396). -/
noncomputable def asyncTurn (s : State) : Out :=
  let t := s.me
  let th := cur s
  if th.tretAt = th.seq ∨ cancelled th.wait then .next (takeAsync t s)
  else
    match atPc s with
    | .instr (.wfi _ _ _) => runCounted s
    | _ =>
      match runCounted s with
      | .next s' => .next (if tookExact th.pc (getTh s' t) then s' else takeAsync t s)
      | o => o

/-- The turn of a ready hart: a thread that settles acts; a returned trap is taken once the results are in, then that of a hold that has expired; a pending
asynchronous trap comes before the next instruction; else the instruction issues (R154, R247, R252, R253). -/
noncomputable def takeTurn (s : State) : Out :=
  let t := s.me
  let th := cur s
  match th.wait with
  | .settle a => .next (settle t a s)
  | w =>
    match (if th.late.isEmpty then firstRefused th.refused else none) with
    | some r => .next (takeReturned t r (cancelWait t s))
    | none =>
      match (if completesFirst s t && parked w then none else th.expired) with
      | some a => .next (watchdogTrap t 4 a (cancelWait t (modTh s t fun th => { th with expired := none })))
      | none => if asyncPending s t && !completesFirst s t then asyncTurn s else runCounted s

/-- An access that a word was forwarded to, but that was not made, gives the word to the next in its queue (R314). -/
def ungrantWord (t : Nat) (w : Wait) (s : State) : State := match w with | .resv word _ => passResv t word s | _ => s

/-- A hart's turn to issue: nothing happens unless it is ready (R154). One that waited for an event goes on after it (R240). -/
noncomputable def issueHart (t : Nat) (s : State) : Out :=
  if readyHart s t then
    match takeTurn (match (getTh s t).wait with
      | .run => { s with me := t }
      | .marker => { s with me := t }
      | _ => catchUp (coreOf t) { s with me := t }) with
    | .next s' => .next (ungrantWord t (getTh s t).wait s')
    | o => o
  else .next s

end Sys2Proof.Machine
end

