-- ==== Sys2Proof/Machine/Agenda.lean ====
section
/-! DEFINITION. The agenda (log 1): which event under way can take place, what time brings on, the end of a core cycle, which hart
issues next, and what can come from outside. -/

namespace Sys2Proof.Machine

/-! ### The frame (R29, R31) -/

/-- A vector command reaches memory outside its cluster (R29). -/
def commandMoves (s : State) (t : Nat) (c : VCmd) : Bool :=
  let (n, at_, sel) := vecPlaces s t c
  handleOp c.op && (upTo sel.length).any fun j =>
    sel.getD j false && match at_ j with
      | .ok a =>
        (match resolve s (whoOf s t) a n ⟨false, false, false⟩ with
        | .ok (.mem ps) => leavesCluster s t false ps
        | .ok (.table _) => false
        | .ok _ => true
        | .error _ => false)
      | .error _ => false

/-- The addresses that a cluster's matrix engine reaches next: of the operation it has begun, or the descriptor of the one it takes next (R383). -/
def engineTouches (s : State) (cluster : Nat) : List (Nat × Word) :=
  match spGet none s.mmrun cluster, mmQueue s cluster with
  | some r, _ =>
    match r.fault, r.next, r.arrival with
    | none, some _, _ => [(r.t, Desc.at r.d 0), (r.t, Desc.at r.d 8)]
    | none, none, some g => [(r.t, Desc.arrival r.d g)]
    | _, _, _ => [(r.t, r.p)]
  | none, (t, p, _) :: _ => [(t, p)]
  | none, [] => []

/-- The partition whose packet an event under way is, if it is one that crosses the fabric for a partition (R29; log 13). -/
def packetPart (s : State) (e : Instr) : Option Nat :=
  let ofStream := fun (n : Nat) => tenantOf (getNode s n).owner (getStream s n).part
  let ofEntry := fun (c k : Nat) => tenantOf (getJ s c k).ctx (getJ s c k).part
  let ofThread := fun (t : Nat) => tenantOf (getTh s t).ctx (getTh s t).part
  let ofQueue := fun (q : Nat) => tenantOf (getQueue s q).owner (getCtx s (getQueue s q).owner).part
  match e with
  | .recordFetch q => ofQueue q
  | .launchDispatch q _ => ofQueue q
  | .mmEngineRun c => ((engineTouches s c).find? fun x => hdl x.2 != 0xFFFF).bind fun x => ofThread x.1
  | .vectorCommandExec c =>
    match (getCore s c).vqueue with
    | (t, .cmd v) :: _ => if commandMoves s t v then ofThread t else none
    | _ => none
  | .putSegmentLand p _ _ _ => tenantOf p.ctx p.part
  | .putSegmentAck p _ _ => tenantOf p.ctx p.part
  | .putCounterAction c ⟨k, _⟩ => ofEntry c k
  | .postedAck c ⟨k, _⟩ _ => ofEntry c k
  | .parcelArrival p => tenantOf p.ctx p.part
  | .travelArrival p => tenantOf p.ctx p.part
  | .slotReservationRequest a => ofThread a.tid
  | .slotReservationReply a _ => ofThread a.tid
  | .chunkArrival n _ _ _ => ofStream n
  | .markerArrival n _ _ _ => ofStream n
  | .chunkLanding n _ _ => ofStream n
  | _ => none

/-- The frame grants the event a cycle now: lending mode always has one; in strict mode a partition moves in its own slots alone (R29). -/
def granted (s : State) (e : Instr) : Bool := bit s.pkg.tdctl 2 || frameMoves s (packetPart s e)

/-! ### Order (R25, R40, R47, R104, R117, R236) -/

/-- A posted write in order: its thread, its operation's order of issue and its place in the operation, its handle when that is a queue's or a peer's, the
bytes it reaches next and those still to come (R235, R236). -/
structure PostedAt where
  uid   : Nat
  order : Nat
  at_   : Nat
  queue : Option Nat
  now   : List Piece
  left  : List Piece
  deriving DecidableEq, Repr

/-- The handle of an address, when it is a queue node's or a peer's. -/
def orderHandle (s : State) (ctx node : Nat) (a : Word) : Option Nat :=
  if hdl a ≠ 0xFFFF ∧ ((getNode s node).kind = 2 ∨ (peerVia s ctx node a).isSome = true) then some (hdl a) else none

/-- What a segment, posted store or block copy's line and those after it reach (R33, R235, R319, R320). -/
def segmentAt (s : State) (p : Packet) (dst : Word) (o : Nat) (data : List Byte) : PostedAt :=
  let j := getJ s p.core p.entry
  let w := packetWho s p
  let reach := fun (a : Word) (n : Nat) => postedPieces s w p.node p.gen a n needWr
  if p.opk = 3 then
    let (_, a, n) := copyAt j
    ⟨p.uid, p.order, j.done, orderHandle s p.ctx p.node dst, reach a n, reach a (j.left - j.done)⟩
  else
    let a := offWrap dst (Int.ofNat o)
    ⟨p.uid, p.order, o, orderHandle s p.ctx p.node dst, reach a (lineLen s p.node a data.length), reach a data.length⟩

/-- What the counter action of an entry reaches: it follows its operation's segments by their acknowledgements (R33). -/
def counterAt (s : State) (c k : Nat) : PostedAt :=
  let j := getJ s c k
  let ps := postedPieces s (packetWho s (packetOf c k j)) j.cnode j.cgen j.caddr 8 needRw
  ⟨j.uid, j.order, 2 ^ 64, orderHandle s j.ctx j.cnode j.caddr, ps, ps⟩

/-- Two runs of bytes share a 64-byte line. -/
def shareLine (a b : Piece) : Bool := decide (a.key / 64 ≤ (b.key + b.len - 1) / 64) && decide (b.key / 64 ≤ (a.key + a.len - 1) / 64)

/-- A posted write must follow an earlier one of its thread to the same line or through the same queue or peer handle; of one operation, segments to a queue
or peer keep their order (R104, R236, R318). -/
def PostedAt.follows (x y : PostedAt) : Bool :=
  y.uid == x.uid
    && ((decide (y.order < x.order) && ((x.queue.isSome && x.queue == y.queue) || x.now.any fun a => y.left.any (shareLine a)))
      || (y.order == x.order && decide (y.at_ < x.at_) && x.queue.isSome && x.queue == y.queue))

/-- An earlier posted write of the thread to the same line or through the same queue or peer handle is still to come: one under way, or the counter
action of a put (R104, R236). -/
def writeWaits (s : State) (x : PostedAt) : Bool :=
  (s.pending.any fun e => match e with
    | .putSegmentLand p dst o d => x.follows (segmentAt s p dst o d)
    | _ => false)
  || s.journal.any fun e => e.2.live && !e.2.ref && e.2.opk == 0 && e.2.action != 0 && x.follows (counterAt s (e.1 / 32) (e.1 % 32))

/-- An event under way that an earlier one must precede: chunks and markers of one input, results of one member, a stream's deaths before what
follows them, releases of one node (R25, R40, R47, R117). -/
def precedes (e later : Instr) : Bool :=
  match e, later with
  | .chunkArrival n a i _, .chunkArrival m b j _ => n == m && a == b && i == j
  | .chunkArrival n a i _, .markerArrival m b j _ => n == m && a == b && i == j
  | .markerArrival n a i _, .chunkArrival m b j _ => n == m && a == b && i == j
  | .markerArrival n a i _, .markerArrival m b j _ => n == m && a == b && i == j
  | .chunkLanding n k _, .chunkLanding m l _ => n == m && k == l
  | .nodeRelease _ _ _ _ q k, .nodeRelease _ _ _ _ p l => q == p && k == l
  | .streamInputTimeout n _ _, l => chunkEvent n l
  | .inputDeadDeclare n _, l => chunkEvent n l
  | .lccReport n _, l => chunkEvent n l
  | _, _ => false

/-! ### Events that wait for their condition -/

/-- None of these words is held under a reservation (R315). -/
def unheld (s : State) (words : List Nat) : Bool := words.all fun w => !heldWord s w

/-- The event that the head of a core's vector queue waits for; a repetition's sequence does not start while its thread is stopped
(R163, R353). -/
def vectorHead (s : State) (core : Nat) (e : Instr) : Bool :=
  match (getCore s core).vqueue with
  | (t, v) :: _ => entryEvent core v == e && (match v with
    | .rep _ _ _ => !stopped s t
    | .capturing _ => false
    | .cmd c => (vectorWaits s t c).isNone
    | .ended _ _ _ => true)
  | [] => false

/-- The word that a landing under way must wait for: another thread holds it, or others came first (R315). -/
def landingBlocked (s : State) (p : Packet) (dst : Word) (o : Nat) (data : List Byte) : Option Nat :=
  if s.resv.isEmpty then none else tagBlocked s p.uid (entryTag p.core p.entry) (segmentWords s p dst o data)

/-- The word that a counter action must wait for (R315). -/
def counterBlocked (s : State) (core entry : Nat) : Option Nat :=
  if s.resv.isEmpty then none else tagBlocked s (getJ s core entry).uid (entryTag core entry) (wordsOf (counterAt s core entry).now)

/-- What is before an mm in its thread's program has been done: its loads, vector commands and posted operations (R242). -/
def beforeMatrix (s : State) (t : Nat) : Bool :=
  let th := getTh s t
  (th.late.all fun l => l.done || decide (7 ≤ l.size)) && accessesIn { th with late := [] } && !outstanding s th.uid true true

/-- The engine of a cluster can go on: an operation that has not begun is not begun while its thread is stopped, and follows what is before it; no word it
reaches is held by another thread (R242, R315, R385). -/
def engineReady (s : State) (c : Nat) : Bool :=
  (engineWaits s c).isNone && match spGet none s.mmrun c, mmQueue s c with
    | none, (t, _, _) :: _ => !stopped s t && beforeMatrix s t
    | _, _ => true

/-- The disable sequence of the virtual functions has something to do at T: contexts to end, nodes to destroy, or its own end (R122). -/
def disableActs (s : State) (t : Word) : Bool :=
  decide (t.toNat ≤ (gtime s).toNat)
    && (!(boundCtxs s).isEmpty || (boundNodes s).isEmpty
      || (boundNodes s).any fun n => !(getNode s n).dead && !s.pending.contains (.nodeDestroy n))

/-- A slice has ended, or a slot can be handed over or loaded (R165, R166). -/
def sliceActs (s : State) (p : Nat) : Bool :=
  sliceDue s p || (s.threads.any fun e => e.2.part == p && canHand s e.1)
    || (incoming s p).any fun e => e.2.threads.any fun x => canTake s p x.1

/-- A duty that sends messages to the host waits while one it raised finds the outbound ring full (R131). -/
def dutyWaits (s : State) (e : Instr) : Bool :=
  !s.fw.waitOut.isEmpty && (match e with
    | .hmbImgw => true
    | .hmbPartrec => true
    | .hmbNodereq => true
    | .hmbDefrag => true
    | .hmbBadType => true
    | .hmbSpdm => true
    | .spdmGetVersion _ => true
    | .spdmGetCapabilities _ => true
    | .spdmNegotiateAlgorithms _ => true
    | .spdmGetDigests _ => true
    | .spdmGetCertificate _ => true
    | .spdmChallenge _ => true
    | .spdmGetMeasurements _ => true
    | .spdmUnsupported _ => true
    | .nodeCacheMiss _ ⟨_, a⟩ => a
    | .fwCoreWake (.doorbell _) => true
    | _ => false)

/-- A firmware core can take a wake: none before stage 7 has started them; the policy core is stopped for a hand-over; an update's first step waits
for the packet cores to finish the packets in hand, and they take no more (R15, R133). -/
def wakeTaken (s : State) (w : FwWake) : Bool :=
  policyUp s && match w with
    | .update => !(bits s.fw.updst 3 1 == 1 && packetsBusy s)
    | .deferred _ => !updating s
    | w => !(s.fw.stopped && wakeCore w == 0)

/-- The port of the peer entry that a context's address names. -/
def peerPort (s : State) (ctx : Nat) (a : Word) : Option Nat :=
  let k := getKey s ctx (hdl a)
  if k.v && k.peer && hdl a != 0xFFFF then some k.port else none

/-- The port by which an event comes in: a request, or a peer package's answer (R64, R72). -/
def eventPort (s : State) (e : Instr) : Option Nat :=
  match e with
  | .vfEnable => some 16
  | .vfDisable => some 16
  | .gangArm _ => if bit s.fw.duty 2 then some 16 else none
  | .lateResultReturn t (some _) =>
    match (getTh s t).late.find? fun l => !l.done && decide (l.size < 7) with
    | some l => peerPort s (getTh s t).ctx l.addr
    | none => (s.forwards.find? fun f => if t = 65536 then f.ofHost else f.issuer == .thread t).map (·.tag.port)
  | .putSegmentAck p _ _ => if p.node = 0 then peerPort s p.ctx (getJ s p.core p.entry).addr else none
  | .postedAck c ⟨k, _⟩ _ => let j := getJ s c k; peerPort s j.ctx (if j.opk = 1 then j.caddr else j.addr)
  | .putSegmentLand p _ _ (_ :: _) => if p.opk = 3 then peerPort s p.ctx (getJ s p.core p.entry).src else none
  | .registerWrite fn _ _ => portOf fn
  | .hostWalk fn _ _ => portOf fn
  | .hostOpen fn _ _ => portOf fn
  | .hostClose fn _ => portOf fn
  | .hostBind fn _ _ => portOf fn
  | .hostUnbind fn _ _ => portOf fn
  | .hostStat fn _ _ => portOf fn
  | .hostRevoke fn _ => portOf fn
  | .hostDup fn _ _ => portOf fn
  | .hostCreate fn _ _ => portOf fn
  | .hostRead fn _ _ => portOf fn
  | .hostWrite fn _ _ _ => portOf fn
  | .ccCreate fn => portOf fn
  | .ccDestroy fn _ => portOf fn
  | .ccActThrough fn _ => portOf fn
  | .pwrcapWrite fn _ => portOf fn
  | .updstGo fn => portOf fn
  | .debugResume fn _ => portOf fn
  | .ptpMessage p _ _ _ => some (17 + p.port)
  | .mediaPacketArrival p _ => some (17 + p)
  | _ => none

/-- The event is a request that comes in by a host or peer port (R64). -/
def requestPort (s : State) (e : Instr) : Option Nat :=
  match e with
  | .lateResultReturn _ _ => none
  | .putSegmentAck _ _ _ => none
  | .putSegmentLand _ _ _ _ => none
  | .postedAck _ _ _ => none
  | e => match eventPort s e with | some p => if p < 17 then some p else none | none => none

/-- The event's port holds its traffic (R68). -/
def portHolds (s : State) (e : Instr) : Bool := match eventPort s e with | some p => (spGet Port.reset s.ports p).training | none => false

/-- The event's port is down: nothing comes in by it (R17, R71). -/
def portShut (s : State) (e : Instr) : Bool := match eventPort s e with | some p => !(spGet Port.reset s.ports p).up | none => false

/-- Nothing under way before the event must precede it: no earlier request of its port, of those a port held or that waited for a node record (R64,
R68, R349). -/
def inOrder (s : State) (e : Instr) : Bool :=
  let port := requestPort s e
  (s.pending.takeWhile (· != e)).all fun f => !precedes f e && (port.isNone || requestPort s f != port)

/-- An earlier request of the event's port is still under way: a later one does not overtake it (R64, R349). -/
def behind (s : State) (e : Instr) : Bool := (requestPort s e).isSome && s.pending.any fun f => requestPort s f == requestPort s e

/-- The condition of its own rule on which an event under way can take place; every other event has none. -/
def eventReady (s : State) (e : Instr) : Bool :=
  let runs := fun (n : Nat) => !ctxStopped s (getNode s n).owner
  match e with
  | .lateResultReturn t none => lateReady s t
  | .frameBoundary => frameDue s
  | .chunkLanding n m c => runs n && !landingWaits s n m c && unheld s (landWords s n m c)
  | .chunkArrival n a i _ => runs n && decide ((spGet [] (getStream s n).bufs (bufKey a i)).length < 2)
  | .markerArrival n a i _ => runs n && decide ((spGet [] (getStream s n).bufs (bufKey a i)).length < 2)
  | .streamInputTimeout n _ _ => runs n
  | .inputDeadDeclare n _ => runs n
  | .lccReport n _ => runs n
  | .putSegmentLand p dst o d => (landingBlocked s p dst o d).isNone && !writeWaits s (segmentAt s p dst o d)
  | .putCounterAction c ⟨k, _⟩ => (counterBlocked s c k).isNone && !writeWaits s (counterAt s c k)
  | .slotReservationRequest a => !(s.pending.any fun f => match f with | .slotFree c _ => c == a.core | _ => false)
  | .mmEngineRun c => engineReady s c
  | .vectorCommandExec c => vectorHead s c e
  | .vectorCommandRetire c => vectorHead s c e
  | .repSequenceStart c => vectorHead s c e
  | .recordFetch q => fetchable s q && fetchTurn s q
  | .llcFillReturn line => spGet LineT.reset s.lines line == LineT.reset || (spGet Slice.reset s.slices (lineSlice s line)).misses.contains line
  | .filterInstall _ q => decide (filtersAt s q < 32)
  | .revokeAck r q => !accessOpen s (getRevoke s r) q
  | .journalRetireReport r q => !entriesLeft s (getRevoke s r) q
  | .travelDeparture t => settled s t && !stopped s t
  | .engineHartStart h =>
    !liveTh (getTh s (hart0 + h)) && (match kicks s h with | (_, c, _) :: _ => !ctxStopped s c | [] => false)
  | .launchDispatch q _ => !ctxStopped s (getQueue s q).owner
  | .reservationHoldExpiry t => match (getTh s t).wait with | .halted _ => false | _ => true
  | .gangStop p => switchTime s p && (!bit (getGang s p).gsctl 0 || gangRests s p)
  | .gangRestore p => switchTime s p
  | .sliceEnd p => sliceActs s p
  | .defragmentation p a b => !defragOk s p a b || gangRests s p
  | .frameClaim n f => claimTime s (mediaWord s n 8) f
  | .frameDeadline n f => s.media.all fun m => m.node != n || m.frame != f || decide (m.dline ≤ (gtime s).toNat)
  | .vfDisableAtT => match s.vf.disable with | some t => disableActs s t | none => true
  | .fwCoreWake w => wakeTaken s w
  | _ => true

/-! ### Agents that wait for a node record (R89) -/

/-- The accesses through handles with which an agent's event begins: who makes them, and the address (R88, R89; log 31). -/
def agentTouches (s : State) (e : Instr) : List (Who × Word) :=
  let own := fun (q : Nat) => whoCtx s (getQueue s q).owner
  let spill := fun (l : Nat) => ({ whoCtx s (getLaunch s l).ctx with unit := 9999 }, (getLaunch s l).spill)
  let media := fun (n : Nat) => (whoCtx s (getNode s n).owner, mediaWord s n 0x28)
  match e with
  | .recordFetch q => [(own q, (getQueue s q).ring)]
  | .queueAppend node _ _ _ _ => [(own (getNode s node).arg, (getQueue s (getNode s node).arg).ring)]
  | .putSegmentLand p _ _ _ =>
    let n := getNode s p.node
    if n.kind = 2 ∧ n.v = true then [(own n.arg, (getQueue s n.arg).ring)] else []
  | .nodeComplete q k _ =>
    let r := (getG s q k).rec_
    if r.doneFill || r.doneAdd then [(own q, r.doneA)] else []
  | .nodeDispatch q =>
    match (getQueue s q).ready with
    | k :: _ => let r := (getG s q k).rec_; if [2, 3, 4, 6].contains r.kind then [(own q, wordAt r.body 0)] else []
    | [] => []
  | .launchDispatch q k =>
    let b := (getG s q k).rec_.body
    if bits (wordAt b 8) 33 32 = 2 then [(own q, wordAt b 0), (own q, wordAt b 56), (own q, wordAt b 64)] else []
  | .travelArrival p => if 16 ≤ (getCore s p.core).arrivals.length then [spill p.launch] else []
  | .slotFree c _ => ((getCore s c).spilled.take 1).map fun p => spill p.launch
  | .mmEngineRun c => (engineTouches s c).map fun x => (whoOf s x.1, x.2)
  | .vectorCommandExec c =>
    match (getCore s c).vqueue with
    | (t, .cmd v) :: _ => if handleOp v.op then [(whoOf s t, v.p)] else []
    | _ => []
  | .frameClaim n _ => [media n]
  | .frameDeadline n _ => [media n]
  | .mediaPacketArrival _ _ => s.media.flatMap fun m => [media m.node, (whoCtx s (getNode s m.node).owner, m.ring)]
  | .postedAck c ⟨k, _⟩ (some _) =>
    match hartOf s (getJ s c k).uid with
    | some t => [(whoOf s t, (getTh s t).pjbase)]
    | none => []
  | _ => []

/-- The node record an agent's event must wait for the host to supply, with the context that asks; one the host did not supply in time is not
waited for (R89). -/
def agentMiss (s : State) (e : Instr) : Option (Nat × Nat) :=
  (agentTouches s e).findSome? fun x =>
    match hostMiss s x.1.unit x.1.ctx (hdl x.2) with
    | some n => if s.timedOut.contains n then none else some (n, x.1.ctx)
    | none => none

/-- The event waits for the record that it has asked for. -/
def recordWaits (s : State) (e : Instr) : Bool :=
  match agentMiss s e with
  | some (n, c) => (s.missing.any (·.node == n)) || s.pending.contains (.nodeCacheMiss n ⟨c, true⟩)
  | none => false

/-- The pieces of memory that an address names for an agent, from a word on. -/
def agentPieces (s : State) (w : Who) (a : Word) (n : Nat) : List Piece := match resolve s w a n needRd with | .ok (.mem ps) => ps | _ => []

/-- The event reaches an array row under test: it waits (R136). -/
def rowWaits (s : State) (e : Instr) : Bool :=
  if s.errors.isEmpty then false
  else
    underTest s (match e with
      | .putSegmentLand p dst o d => (segmentAt s p dst o d).now
      | .putCounterAction c ⟨k, _⟩ => (counterAt s c k).now
      | .hostRead fn a n => match txHost s fn false with | .ok x => agentPieces s (whoHost x) a n | .error _ => []
      | .hostWrite fn a d _ => match txHost s fn false with | .ok x => agentPieces s (whoHost x) a d.length | .error _ => []
      | e => (agentTouches s e).flatMap fun x => agentPieces s x.1 x.2 8)

/-- An event under way can take place now. -/
def eventEnabled (s : State) (e : Instr) : Bool :=
  eventReady s e && inOrder s e && granted s e && !dutyWaits s e && !portHolds s e && !recordWaits s e && !rowWaits s e

/-- The first event under way that can take place. -/
def firstEnabled (s : State) : Option Nat := (upTo s.pending.length).find? fun n => (s.pending[n]?).any (eventEnabled s)

/-! ### The end of a core cycle -/

/-- A thread is out of the rotation: it waits for something that has not come (R158); one that yields is in it (R336). -/
def outOfRotation (s : State) (t : Nat) : Bool :=
  match (getTh s t).wait with
  | .run => false
  | .yielding _ _ => false
  | _ => !waitOver s t

/-- One cycle more of a hart that runs: its wait, its hold, its late results and its counts (R152, R158, R168, R186, R253, R324, R336, R396). -/
def ageThread (s : State) (t : Nat) (th : Thread) : Thread :=
  let w := match th.wait with
    | .latch n d q => .latch (n - 1) d q
    | .wfi n d q => .wfi (n - 1) d q
    | .barrier k a p n d q => .barrier k a p (n - 1) d q
    | .yielding n q =>
      if isHart t || ((s.cycle + 1) % 16 == slotOf t && !stopped { s with cycle := s.cycle + 1 } t) then .yielding (n - 1) q else .yielding n q
    | w => w
  let halted := match th.wait with | .halted _ => true | _ => false
  let th1 := { th with
    wait := w, hold := th.hold.map fun h => (h.1, if halted then h.2 else h.2 + 1), behind := if halted then th.behind else ageBehind s th, wcount := if th.wait = .run then 0 else th.wcount + 1
    late := th.late.map fun l => if l.done then { l with held := l.held + 1 } else l }
  if outOfRotation s t && !isHart t then countEv 4 1 th1 else th1

/-- Every hart whose gang and slice run is one cycle older (R158). -/
def ageThreads (s : State) : State :=
  s.threads.foldl (init := s) fun s' e => if liveTh e.2 && !stopped s e.1 then modTh s' e.1 (ageThread s e.1) else s'

/-- The cores that hold a thread. -/
def busyCores (s : State) : List Nat := ((s.threads.filter fun e => liveTh e.2 && !isHart e.1).map fun e => coreOf e.1).eraseDups

/-- A core's time for reads of C lines moves on each 256 of its running cycles (R229). -/
def ageCore (s : State) (core : Nat) : State :=
  let n := (getCore s core).ran + 1
  if n < 256 then modCore s core fun c => { c with ran := n } else push (.ptsTick core) (modCore s core fun c => { c with ran := 0 })

/-- The streams whose owners run are one cycle older (R43, R47). -/
def ageStreams (s : State) : State :=
  (spKeys s.streams).foldl (init := s) fun s n => if ctxStopped s (getNode s n).owner then s else ageStream s n

/-- 1 µs of the core clock (R10, R125). -/
def microCycles : Nat := 3300

/-- A firmware core sleeps again when 1 µs has passed since a cause that no message ends (R125; log 8). -/
def ageFw (f : Fw) (cycle : Nat) : Fw :=
  let ends := fun (w : FwWake) => match w with | .stamp => true | .deferred _ => true | .error => true | .policyRequest => true | _ => false
  { f with cores := f.cores.map fun e => (e.1, { e.2 with causes := e.2.causes.filter fun c => !(ends c.1 && decide (c.2 + microCycles ≤ cycle)) }) }

/-- What is due for a hart (R149, R150, R152, R186, R253, R324, R336, R396). -/
def dueThread (s : State) (t : Nat) (th : Thread) : List Instr :=
  (if ((wdogReport s t).isSome && decide (wdogPeriod s t ≤ wdogCount s t)) || th.behind.any fun b => decide (wdogPeriod s t ≤ b.2.2) then
      [.watchdogExpiry t] else [])
    ++ (match th.hold with | some (_, n) => if wdogPeriod s t ≤ n then [.reservationHoldExpiry t] else [] | none => [])
    ++ (match th.wait with
      | .latch 0 _ _ => [.latchWaitTimeout t]
      | .wfi 0 _ _ => [.wfiTimeout t]
      | .barrier _ _ _ 0 _ _ => [.barrierWaitTimeout t]
      | .yielding 0 _ => [.yieldExpiry t]
      | .retry _ _ _ _ _ due => if due ≤ th.wcount then [.waitRetryPoll t] else []
      | _ => [])

/-- What is due for a node of a graph queue (R114, R117). -/
def dueNode (s : State) (k : Nat) (g : GNode) : List Instr :=
  let q := k / 65536
  let age := s.cycle - g.began
  if g.phase = 3 ∧ g.rec_.kind = 4 ∧ gatePeriod s q g.rec_ ≤ age then [.gateTimeout q (k % 65536)]
  else if g.phase = 1 ∧ ownerPeriod s q < age then [.nodeWaitTimeout q (k % 65536)]
  else []

/-- The input of a stream that has been silent too long, while its owner runs (R43, R47). -/
def dueStream (s : State) (n : Nat) (st : Stream) : List Instr :=
  if ctxStopped s (getNode s n).owner then []
  else match st.silentInput with | some (a, i) => [.streamInputTimeout n a i] | none => []

/-- What is due for a partition: its armed switch, the end of its slice (R163, R165). -/
def duePart (s : State) (p : Nat) : List Instr :=
  (if switchTime s p && !s.pending.contains (.gangRestore p) then [.gangStop p] else []) ++ (if sliceDue s p then [.sliceEnd p] else [])

/-- Everything whose time has come (R13, R43, R79, R89, R114, R117, R122, R135, R150, R163, R165). -/
def due (s : State) : List Instr :=
  (if frameDue s then [.frameBoundary] else [])
    ++ (s.threads.filter fun e => liveTh e.2 && !stopped s e.1).flatMap (fun e => dueThread s e.1 e.2)
    ++ s.gnodes.flatMap (fun e => dueNode s e.1 e.2)
    ++ s.streams.flatMap (fun e => dueStream s e.1 e.2)
    ++ (upTo 20).flatMap (duePart s)
    ++ (if updating s && bits s.fw.updst 3 1 == 5 && decide (s.fw.started + heartbeatCycles ≤ s.cycle) then [.heartbeatTimeout] else [])
    ++ ((s.nodes.filter fun e => mediaOn s e.1 && claimTime s (mediaWord s e.1 8) e.2.arg2).map fun e => .frameClaim e.1 e.2.arg2)
    ++ ((s.media.filter fun m => decide (m.dline ≤ (gtime s).toNat)).map fun m => .frameDeadline m.node m.frame)
    ++ (match s.vf.disable with | some t => if disableActs s t then [.vfDisableAtT] else [] | none => [])
    ++ ((s.missing.filter fun m => decide (2 ^ 24 ≤ s.cycle - m.since)).map fun m => .nodeMissTimeout m.node)

/-- An event whose time a rule fixes: it takes place before the cycle ends. -/
def timed (e : Instr) : Bool :=
  match e with
  | .frameBoundary => true
  | .ptsTick _ => true
  | .watchdogExpiry _ => true
  | .reservationHoldExpiry _ => true
  | .latchWaitTimeout _ => true
  | .wfiTimeout _ => true
  | .barrierWaitTimeout _ => true
  | .yieldExpiry _ => true
  | .waitRetryPoll _ => true
  | .gateTimeout _ _ => true
  | .nodeWaitTimeout _ _ => true
  | .streamInputTimeout _ _ _ => true
  | .gangStop _ => true
  | .gangRestore _ => true
  | .sliceEnd _ => true
  | .heartbeatTimeout => true
  | .frameClaim _ _ => true
  | .frameDeadline _ _ => true
  | .vfDisableAtT => true
  | .nodeMissTimeout _ => true
  | .fwCoreWake .stamp => true
  | _ => false

/-- A node whose record came too late is asked for anew once no event under way has still to fail for want of it (R89). -/
def stillLate (s : State) (n : Nat) : Bool :=
  s.pending.any fun e => (agentTouches s e).any fun x => hostMiss s x.1.unit x.1.ctx (hdl x.2) == some n

/-- The timestamps set in the timestamp unit that have come wake the policy core, each once (R12, R125). -/
def fireStamps (s : State) : State :=
  let come := fun (t : Word) => decide (t.toNat ≤ (gtime s).toNat)
  (s.fw.stamps.filter come).foldl (fun s _ => push (.fwCoreWake .stamp) s) { s with fw := { s.fw with stamps := s.fw.stamps.filter fun t => !come t } }

/-- Accesses on which no thread waits join the queues of words that others hold, as they come to their homes (R315; log 12). -/
def joinBehind (s : State) : State :=
  let join := fun (s : State) (tag : Nat) (w : Option Nat) => match w with | some w => joinTag tag w s | none => s
  if s.resv.isEmpty then s
  else
    s.pending.foldl (init := s) fun s e =>
      match e with
      | .putSegmentLand p dst o d =>
        if writeWaits s (segmentAt s p dst o d) then s else join s (entryTag p.core p.entry) (landingBlocked s p dst o d)
      | .putCounterAction c ⟨k, _⟩ => if writeWaits s (counterAt s c k) then s else join s (entryTag c k) (counterBlocked s c k)
      | .vectorCommandExec c =>
        match (getCore s c).vqueue with
        | (t, .cmd v) :: _ => join s (commandTag c) (vectorWaits s t v)
        | _ => s
      | .mmEngineRun c => join s (engineTag c) (engineWaits s c)
      | _ => s

/-- The core cycle ends: time passes for whatever runs, and what is due is under way (R12, R154, R158). -/
def tick (s : State) : State :=
  let s0 := joinBehind s
  let s1 := ageStreams ((busyCores s0).foldl ageCore (ageThreads s0))
  let s2 : State := { s1 with
    cycle := s1.cycle + 1, issued := [], fw := ageFw s1.fw (s1.cycle + 1), timedOut := s1.timedOut.filter (stillLate s1) }
  (due s2).foldl (fun s e => pushOnce e s) (fireStamps s2)

/-! ### Who issues (R154, R155) -/

/-- The slot of a core that may issue in this cycle: the owner of the position, else the first ready slot after it (R154). -/
def issuerOf (s : State) (core : Nat) : Option Nat := ((upTo 16).map fun n => 16 * core + (s.cycle + n) % 16).find? (readyHart s)

/-- A hart may issue now: its core has not issued in this cycle, and the position is its own or lent to it (R154, R155). -/
def mayIssue (s : State) (t : Nat) : Bool :=
  !s.issued.contains (coreOf t) && if isHart t then readyHart s t else issuerOf s (coreOf t) == some t

/-- A hart that may issue in this cycle. -/
def nextIssuer (s : State) : Option Nat := (s.threads.find? fun e => mayIssue s e.1).map Prod.fst

/-- The hart issues, and its core has issued in this cycle. -/
noncomputable def issueTurn (t : Nat) (s : State) : Out := issueHart t { s with issued := s.issued ++ [coreOf t] }

/-- The cycle may end: every core that can issue has, and nothing whose time has come is left (R154, R155). -/
def cycleOver (s : State) : Bool := (nextIssuer s).isNone && !(s.pending.any fun e => timed e && eventEnabled s e)

/-! ### What comes from outside -/

/-- The number of segmentsLeft of an entry that are under way in this package. -/
def segmentsLeft (s : State) (core entry : Nat) : Nat := (s.pending.filter (landingOf core entry)).length

/-- A peer package acknowledges or refuses an entry's operation that has been sent to it: a counter action, a posted store, or the reads of a block copy,
which it can only refuse (R95, R244, R311, R320). -/
def peerAnswers (s : State) (core entry : Nat) (refused : Bool) : Bool :=
  let j := getJ s core entry
  let away := fun (node : Nat) (a : Word) => (peerVia s j.ctx node a).isSome
  j.live && segmentsLeft s core entry == 0
    && ((j.opk == 1 && away j.cnode j.caddr) || (j.opk == 2 && away j.node j.addr) || (j.opk == 3 && refused && away j.cnode j.src))

/-- A peer package acknowledges or refuses a segment of a put, or a line of a block copy, that has been sent to it (R34, R239, R320). -/
def peerAcks (s : State) (p : Packet) : Bool :=
  let j := getJ s p.core p.entry
  entryIs s p.core p.entry p.order && p == packetOf p.core p.entry j && (peerVia s j.ctx j.node j.addr).isSome
    && if j.opk = 0 then decide (segmentsLeft s p.core p.entry < j.left) else j.opk == 3 && segmentsLeft s p.core p.entry == 0

/-- A peer package's answer brings the next line of a block copy's source (R244, R320). -/
def peerBrings (s : State) (p : Packet) (dst : Word) (o : Nat) (data : List Byte) : Bool :=
  let j := getJ s p.core p.entry
  p.opk == 3 && entryIs s p.core p.entry p.order && p == packetOf p.core p.entry j && (peerVia s j.ctx j.cnode j.src).isSome
    && segmentsLeft s p.core p.entry == 0 && dst == j.addr && o == j.done && decide (0 < data.length) && data.length == (copyAt j).2.2

/-- The events that can come from outside the machine, or from an agent whose choice the spec leaves to it: host, peers, board, sensors, firmware,
media, faults of the hardware, and what caches and cores may do at any time. Every other event is made by the machine. -/
def fromOutside (s : State) (e : Instr) : Bool :=
  match e with
  | .coldReset => true
  | .pkstWarmReset _ => true
  | .pkstCaphitClear _ => true
  | .bringupStageDone _ _ => true
  | .bmiReadPkst => true
  | .bmiWritePkst _ => true
  | .bmiUnknownCommand _ => true
  | .thermalTrip _ _ => true
  | .thermalTripEnd _ _ => true
  | .thermalShutdown _ _ => true
  | .tdctlSwap => true
  | .registerWrite _ _ _ => true
  | .globalLinkDown _ _ => true
  | .flitBadCheck _ => true
  | .laneError _ _ => true
  | .laneSelftestDone _ _ _ => true
  | .portRetrainDone _ => true
  | .sramRowError _ _ _ => true
  | .rowSelftestDone _ _ _ => true
  | .peerLinkDown _ => true
  | .hostWalk _ _ _ => true
  | .hostOpen _ _ _ => true
  | .hostClose _ _ => true
  | .hostBind _ _ _ => true
  | .hostUnbind _ _ _ => true
  | .hostStat _ _ _ => true
  | .hostRevoke _ _ => true
  | .hostDup _ _ _ => true
  | .hostCreate _ _ _ => true
  | .hostRead _ _ _ => true
  | .hostWrite _ _ _ _ => true
  | .keyCacheMiss _ _ _ => true
  | .nodeCacheMiss _ ⟨_, a⟩ => !a && !bit s.fw.duty 0
  | .nodeDestroy _ => true
  | .ccCreate _ => true
  | .ccDestroy _ _ => true
  | .ccActThrough _ _ => true
  | .qgangMap q _ _ => policyRuns s && (!bit s.fw.duty 1 || (fwCore s 0).causes.any (·.1 == .mapping q))
  | .qgangUnmap _ => policyRuns s && !bit s.fw.duty 1
  | .fwCoreWake (.deferred _) => true
  | .fwCoreWake .policyRequest => policyRuns s
  | .updateHeartbeat => true
  | .pwrcapWrite _ _ => true
  | .updstGo _ => true
  | .gangArm _ => true
  | .vfDisable => true
  | .vfEnable => true
  | .defragmentation _ _ _ => policyRuns s && !bit s.fw.duty 3
  | .mediaPacketArrival _ _ => true
  | .ptpMessage _ _ _ _ => true
  | .ptpHoldover => true
  | .homeLoad _ _ _ => true
  | .llcEviction _ => true
  | .llcFillReturn _ => true
  | .debugResume _ _ => true
  | .lateResultReturn _ (some _) => true
  | .putSegmentAck p _ _ => peerAcks s p
  | .putSegmentLand p dst o d => peerBrings s p dst o d
  | .postedAck c ⟨k, _⟩ r => peerAnswers s c k r.isSome
  | .slotFree _ _ => true
  | _ => false

/-! ### Turns -/

/-- An event takes place, once the host has supplied the node record that it needs first (R89). -/
def perform (e : Instr) (s : State) : Out :=
  match agentMiss s e with
  | some (n, c) => .next (pushOnce (.nodeCacheMiss n ⟨c, true⟩) (push e s))
  | none => exec e s

/-- The event with a number takes place, if it can. -/
def deliver (n : Nat) (s : State) : Out :=
  match s.pending[n]? with
  | some e => if eventEnabled s e then perform e { s with pending := s.pending.eraseIdx n } else .next s
  | none => .next s

/-- An input that waits for its condition: a wake, a copy that the policy core asks for while the gang runs, a peer package's answer (R125, R133,
R167). -/
def keptInput (e : Instr) : Bool :=
  match e with
  | .fwCoreWake _ => true
  | .defragmentation _ _ _ => true
  | .lateResultReturn _ _ => true
  | .putSegmentLand _ _ _ _ => true
  | _ => false

/-- An event comes from outside: nothing comes in by a port that is down; one that retrains holds it, it stays behind its port's earlier requests,
and it waits for an array row under test (R17, R64, R68, R136). -/
def arrive (e : Instr) (s : State) : Out :=
  if fromOutside s e = false ∨ portShut s e = true then .next s
  else if portHolds s e || behind s e || rowWaits s e || (!eventReady s e && keptInput e) then .next (push e s)
  else if eventReady s e then perform e s
  else .next s

/-- A turn of the agenda. An instruction is no event (log 1). -/
noncomputable def runTurn (u : Turn) (s : State) : Out :=
  match u with
  | .input e => if e.isEvent then arrive e s else .next s
  | .deliver n => deliver n s
  | .read fn o => .next (registerRead fn o s)
  | .issue t => if mayIssue s t then issueTurn t s else .next s
  | .stamp t => .next (if policyRuns s then { s with fw := { s.fw with stamps := s.fw.stamps ++ [t] } } else s)
  | .tick => .next (if cycleOver s then tick s else s)

/-- The turn that is taken when none is asked for: an event that can take place, else a core that can issue in this cycle, else the end of the
cycle. -/
noncomputable def ownTurn (s : State) : Out :=
  match firstEnabled s with
  | some n => deliver n s
  | none =>
    match nextIssuer s with
    | some t => issueTurn t s
    | none => .next (tick s)

/-- A cold reset is the one turn that an unpowered package takes (R14). -/
def powersUp (u : Turn) : Bool := match u with | .input .coldReset => true | _ => false

end Sys2Proof.Machine
end

