-- ==== Sys2Proof/Machine/Step.lean ====
section
/-! DEFINITION. One step of the machine, and a state whose next step fetches a given instruction. -/

namespace Sys2Proof.Machine

/-- One step: the next turn of the agenda, or the machine's own turn when the agenda asks for none (log 1). Without power nothing but a
cold reset happens (R14). -/
noncomputable def step (s : State) : Host.Outcome State Fault Refusal :=
  match s.turns with
  | [] => if s.pkg.powered then ownTurn s else .fault .unpowered
  | u :: rest => if s.pkg.powered || powersUp u then runTurn u { s with turns := rest } else .fault .unpowered

/-- The physical address of the first table of the code node that withFetchWord makes (log 2). -/
def codeTable : Nat := 0x10000

/-- The physical page of its code. -/
def codePage : Nat := 0x14000

/-- The code node: kind code, 4,096 bytes, generation 1, of context 1 (log 2). -/
def codeNode : Node := { Node.none with v := true, kind := 6, gen := 1, limit := 4096, ptroot := w64 codeTable, owner := 1 }

/-- Its keyring entry: execute and read rights (log 2). -/
def codeKey : KeyEntry := { KeyEntry.free with ptroot := w64 codeTable, limit := 4096, v := true, kind := 6, rights := 5, ceil := 5, gen := 1, node := 16 }

/-- The thread that a launch has placed at the node's first byte, with a vector window (log 2). -/
def codeThread (uid : Nat) : Thread := { Thread.reset with uid := uid, ctx := 1, pc := mkAddr 0x100 0, vwin := true }

/-- s with a program loaded whose first instruction has the bits w, in the opcode table's numbering, and a turn that issues it: a code node
with its page, a context with its handle, and a thread in slot 1 of core 0, whose position it is (log 2). -/
def State.withFetchWord (s : State) (nbits w : Nat) : State :=
  let s1 : State := { s with
    turns := [.issue 1]
    cycle := s.cycle / 16 * 16 + 1
    issued := []
    uids := s.uids + 1
    pkg := { s.pkg with powered := true }
    ctxs := spSet Ctx.none s.ctxs 1 { Ctx.none with live := true }
    nodes := spSet Node.none s.nodes 16 codeNode
    keys := spSet KeyEntry.free s.keys (keyIdx 1 0x100) codeKey
    threads := spSet Thread.reset s.threads 1 (codeThread s.uids) }
  let s2 := (upTo 4).foldl (init := s1) fun s i => wrWord s (codeTable + 4096 * i) (w64 (2 ^ 63 + codeTable + 4096 * (i + 1)))
  wrRun s2 codePage (leList 20 (w % 2 ^ nbits))

end Sys2Proof.Machine
end

