-- ==== Sys2Proof/Safety.lean ====
section
/-! DEFINITION. The terms in which claims are stated: the canonical form of memory, what an instruction leaves alone, and the operand
state of an instruction. -/

namespace Sys2Proof.Machine

/-- The canonical form of memory: addresses strictly rising, no entry equal to what an unlisted address reads as. -/
def Memory.wf (m : List Host.Cell) : Bool := spWf memDefault m

/-- The invariant of the whole machine: its memory is in canonical form. -/
def MemoryCanonical (s : State) : Prop := Memory.wf s.mem = true

/-- Every byte of memory reads as before. -/
def SameBytes (s t : State) : Prop := ∀ k, rdByte t k = rdByte s k

/-- Every full/empty bit reads as before. -/
def SameFullEmpty (s t : State) : Prop := ∀ k, feOf t k = feOf s k

/-- A key lies in one of the pieces. -/
def InPieces (ps : List Piece) (k : Nat) : Prop := ∃ p ∈ ps, p.key ≤ k ∧ k < p.key + p.len

/-- Every byte outside the pieces reads as before. -/
def SameBytesOutside (ps : List Piece) (s t : State) : Prop := ∀ k, ¬ InPieces ps k → rdByte t k = rdByte s k

/-- Every hart but one is as before. -/
def OtherHartsKept (h : Nat) (s t : State) : Prop := ∀ u, u ≠ h → getTh t u = getTh s u

/-- The state in which an instruction reads its operands: the head word of every inbound queue it names has been taken (R186). -/
def operandState (srcs : List Reg) (s : State) : State := (qsources s.me srcs).foldl (deq s.me) s

/-- No queue register holds the instruction back (R158, R186). -/
def QueuesReady (srcs dst : List Reg) (s : State) : Prop := qblock s srcs dst = none

/-- The value of a source register of the issuing instruction. -/
def operand (srcs : List Reg) (s : State) (r : Reg) : Word := xr (cur (operandState srcs s)) r

/-- The registers of a thread that only special instructions and traps write are as before: the handler, the trap registers, the journal
base, the watch mask, the window flag, the cell, the latches, the vector, scale, K and accumulator registers and the status word (R185 to R199). -/
def SpecialRegistersKept (th th' : Thread) : Prop :=
  th'.tvec = th.tvec ∧ th'.tepc = th.tepc ∧ th'.tcause = th.tcause ∧ th'.tval = th.tval ∧ th'.thst = th.thst ∧ th'.pjbase = th.pjbase
    ∧ th'.kmask = th.kmask ∧ th'.vwin = th.vwin ∧ th'.mcell = th.mcell ∧ th'.latch = th.latch ∧ th'.v = th.v ∧ th'.sc = th.sc
    ∧ th'.k = th.k ∧ th'.hold = th.hold ∧ th'.reasons = th.reasons

/-- Outside its harts, its cores and its counts the machine is as before: nodes, keyrings, memory, media, streams, queues, ports and
every other table. -/
def MachineKept (s t : State) : Prop :=
  t = { s with threads := t.threads, cores := t.cores, pending := t.pending, uids := t.uids }

end Sys2Proof.Machine
end

