-- ==== Sys2Proof/Certificates/Slice0/Obligations.lean ====
section
/-! DEFINITION. Statements about the machine, for the provers. Each form below is written from the spec's tables in whole numbers, apart
from the meanings it is compared with. -/

namespace Sys2Proof.Claims

open Sys2Proof Sys2Proof.Machine

/-- The words of an instruction: its base word alone, with an E word, with a literal, with both (R258). -/
inductive Shape where
  | base | ext | lit | extLit

/-- The length in bytes. -/
def Shape.len : Shape → Nat
  | .base => 4
  | .ext => 12
  | .lit => 12
  | .extLit => 20

/-- The travel live mask of an instruction that accepts none: 0 in its E word, where it has one (R175, R267). The model reads R175 so for
every form with an E word (log 72). -/
def Shape.live : Shape → Option (BitVec 15)
  | .base => none
  | .ext => some 0
  | .lit => none
  | .extLit => some 0

/-- An instruction that reads registers and writes one: its words, its S bit, the registers it reads, the one it writes, and its
result from the values read. -/
structure RegForm where
  shape : Shape
  q     : Bool
  srcs  : List Reg
  d     : Reg
  value : (Reg → Word) → Word

/-- An exact integer as a register holds it. -/
def ofI (n : Int) : Word := BitVec.ofInt 64 n

/-- A natural number as a register holds it. -/
def ofN (n : Nat) : Word := BitVec.ofNat 64 n

/-- An exact integer clamped to the range of i64 (R201). -/
def toI64 (n : Int) : Word := ofI (if n < -(2 ^ 63) then -(2 ^ 63) else if 2 ^ 63 ≤ n then 2 ^ 63 - 1 else n)

/-- An exact integer clamped to the range of n64 (R201). -/
def toN64 (n : Int) : Word := ofI (if n < 0 then 0 else if 2 ^ 64 ≤ n then 2 ^ 64 - 1 else n)

/-- A base word with or without an E word. -/
def withE (x : Bool) : Shape := if x then .ext else .base

/-- A word shifted left by n, zeros in. -/
def shl (u : Word) (n : Nat) : Word := ofN (u.toNat * 2 ^ n)
/-- A word shifted right by n, zeros in. -/
def shr (u : Word) (n : Nat) : Word := ofN (u.toNat / 2 ^ n)
/-- A word shifted right by n, bit 63 copied in. -/
def sar (u : Word) (n : Nat) : Word := ofI (u.toInt / 2 ^ n)
/-- A word rotated right by n, 0 to 63. -/
def rotr (u : Word) (n : Nat) : Word := ofN (u.toNat / 2 ^ n + u.toNat * 2 ^ (64 - n) % 2 ^ 64)
/-- A word rotated left by n, 0 to 63. -/
def rotl (u : Word) (n : Nat) : Word := ofN (u.toNat * 2 ^ n % 2 ^ 64 + u.toNat / 2 ^ (64 - n))

/-- Major 0x00 without the address operations (R291). -/
def aluForm : Instr → Option RegForm
  | .add q d a b x => some ⟨withE x, q, [a, b], d, fun r => ofI ((r a).toInt + (r b).toInt)⟩
  | .addSat q d a b => some ⟨.ext, q, [a, b], d, fun r => toI64 ((r a).toInt + (r b).toInt)⟩
  | .sub q d a b x => some ⟨withE x, q, [a, b], d, fun r => ofI ((r a).toInt - (r b).toInt)⟩
  | .subSat q d a b => some ⟨.ext, q, [a, b], d, fun r => toI64 ((r a).toInt - (r b).toInt)⟩
  | .addn q d a b x => some ⟨withE x, q, [a, b], d, fun r => ofN ((r a).toNat + (r b).toNat)⟩
  | .addnSat q d a b => some ⟨.ext, q, [a, b], d, fun r => toN64 ((r a).toNat + (r b).toNat)⟩
  | .subn q d a b x => some ⟨withE x, q, [a, b], d, fun r => ofI ((r a).toNat - (r b).toNat)⟩
  | .subnSat q d a b => some ⟨.ext, q, [a, b], d, fun r => toN64 ((r a).toNat - (r b).toNat)⟩
  | .and q d a b => some ⟨.base, q, [a, b], d, fun r => r a &&& r b⟩
  | .or q d a b => some ⟨.base, q, [a, b], d, fun r => r a ||| r b⟩
  | .xor q d a b => some ⟨.base, q, [a, b], d, fun r => r a ^^^ r b⟩
  | .andn q d a b => some ⟨.base, q, [a, b], d, fun r => r a &&& ~~~ r b⟩
  | .orn q d a b => some ⟨.base, q, [a, b], d, fun r => r a ||| ~~~ r b⟩
  | .xnor q d a b => some ⟨.base, q, [a, b], d, fun r => ~~~ (r a ^^^ r b)⟩
  | .sll q d a b => some ⟨.base, q, [a, b], d, fun r => shl (r a) ((r b).toNat % 64)⟩
  | .srl q d a b => some ⟨.base, q, [a, b], d, fun r => shr (r a) ((r b).toNat % 64)⟩
  | .sra q d a b => some ⟨.base, q, [a, b], d, fun r => sar (r a) ((r b).toNat % 64)⟩
  | .rol q d a b => some ⟨.base, q, [a, b], d, fun r => rotl (r a) ((r b).toNat % 64)⟩
  | .ror q d a b => some ⟨.base, q, [a, b], d, fun r => rotr (r a) ((r b).toNat % 64)⟩
  | _ => none

/-- The immediate and shift-immediate forms (R293, R294), with the address operations that cannot trap (R292). -/
def immForm : Instr → Option RegForm
  | .ahdl q d a => some ⟨.base, q, [a], d, fun r => ofN ((r a).toNat / 2 ^ 48)⟩
  | .aoff q d a => some ⟨.base, q, [a], d, fun r => ofN ((r a).toNat % 2 ^ 48)⟩
  | .amake q d a b => some ⟨.base, q, [a, b], d, fun r => ofN ((r a).toNat % 2 ^ 16 * 2 ^ 48 + (r b).toNat % 2 ^ 48)⟩
  | .adiff q d a b => some ⟨.base, q, [a, b], d, fun r => ofI (((r a).toNat % 2 ^ 48 : Nat) - ((r b).toNat % 2 ^ 48 : Nat) : Int)⟩
  | .addi q d a i x => some ⟨withE x, q, [a], d, fun r => ofI ((r a).toInt + i.toInt)⟩
  | .addiSat q d a i => some ⟨.ext, q, [a], d, fun r => toI64 ((r a).toInt + i.toInt)⟩
  | .addiK q d a k x => some ⟨if x then .extLit else .lit, q, [a], d, fun r => ofI ((r a).toInt + k.toInt)⟩
  | .addiSatK q d a k => some ⟨.extLit, q, [a], d, fun r => toI64 ((r a).toInt + k.toInt)⟩
  | .andi q d a i => some ⟨.base, q, [a], d, fun r => r a &&& ofI i.toInt⟩
  | .andiK q d a k => some ⟨.lit, q, [a], d, fun r => r a &&& k⟩
  | .ori q d a i => some ⟨.base, q, [a], d, fun r => r a ||| ofI i.toInt⟩
  | .oriK q d a k => some ⟨.lit, q, [a], d, fun r => r a ||| k⟩
  | .xori q d a i => some ⟨.base, q, [a], d, fun r => r a ^^^ ofI i.toInt⟩
  | .xoriK q d a k => some ⟨.lit, q, [a], d, fun r => r a ^^^ k⟩
  | .li q d i => some ⟨.base, q, [], d, fun _ => ofI i.toInt⟩
  | .liK q d k => some ⟨.lit, q, [], d, fun _ => k⟩
  | .slli q d a h => some ⟨.base, q, [a], d, fun r => shl (r a) h.toNat⟩
  | .srli q d a h => some ⟨.base, q, [a], d, fun r => shr (r a) h.toNat⟩
  | .srai q d a h => some ⟨.base, q, [a], d, fun r => sar (r a) h.toNat⟩
  | .rori q d a h => some ⟨.base, q, [a], d, fun r => rotr (r a) h.toNat⟩
  | _ => none

/-- The compare mask of u against w: LT, EQ and LTN (R295). -/
def mask3 (u w : Word) : Word :=
  ofN ((if u.toInt < w.toInt then 1 else 0) + (if u.toNat = w.toNat then 2 else 0) + (if u.toNat < w.toNat then 4 else 0))

/-- One where a condition holds, else zero. -/
def flag (p : Prop) [Decidable p] : Word := if p then 1 else 0

/-- Compares, selections, minima and maxima (R295, R296). -/
def compareForm : Instr → Option RegForm
  | .cmpi q d a i => some ⟨.base, q, [a], d, fun r => mask3 (r a) (ofI i.toInt)⟩
  | .cmpiK q d a k => some ⟨.lit, q, [a], d, fun r => mask3 (r a) k⟩
  | .cmp q d a b => some ⟨.base, q, [a, b], d, fun r => mask3 (r a) (r b)⟩
  | .seq q d a b => some ⟨.base, q, [a, b], d, fun r => flag ((r a).toNat = (r b).toNat)⟩
  | .sne q d a b => some ⟨.base, q, [a, b], d, fun r => flag ((r a).toNat ≠ (r b).toNat)⟩
  | .slt q d a b => some ⟨.base, q, [a, b], d, fun r => flag ((r a).toInt < (r b).toInt)⟩
  | .sltn q d a b => some ⟨.base, q, [a, b], d, fun r => flag ((r a).toNat < (r b).toNat)⟩
  | .sel q d a b => some ⟨.base, q, [a, b, d], d, fun r => if (r d).toNat ≠ 0 then r a else r b⟩
  | .min q d a b => some ⟨.base, q, [a, b], d, fun r => ofI (min (r a).toInt (r b).toInt)⟩
  | .max q d a b => some ⟨.base, q, [a, b], d, fun r => ofI (max (r a).toInt (r b).toInt)⟩
  | .minn q d a b => some ⟨.base, q, [a, b], d, fun r => ofN (min (r a).toNat (r b).toNat)⟩
  | .maxn q d a b => some ⟨.base, q, [a, b], d, fun r => ofN (max (r a).toNat (r b).toNat)⟩
  | _ => none

/-- Products (R297). -/
def productForm : Instr → Option RegForm
  | .mul q d a b x => some ⟨withE x, q, [a, b], d, fun r => ofI ((r a).toInt * (r b).toInt)⟩
  | .mulSat q d a b => some ⟨.ext, q, [a, b], d, fun r => toI64 ((r a).toInt * (r b).toInt)⟩
  | .muln q d a b x => some ⟨withE x, q, [a, b], d, fun r => ofN ((r a).toNat * (r b).toNat)⟩
  | .mulnSat q d a b => some ⟨.ext, q, [a, b], d, fun r => toN64 ((r a).toNat * (r b).toNat)⟩
  | .mulh q d a b => some ⟨.base, q, [a, b], d, fun r => ofI ((r a).toInt * (r b).toInt / 2 ^ 64)⟩
  | .mulhn q d a b => some ⟨.base, q, [a, b], d, fun r => ofN ((r a).toNat * (r b).toNat / 2 ^ 64)⟩
  | _ => none

/-- Quotients and remainders; a quotient by zero is all ones and a remainder by zero the dividend (R202, R297). -/
def quotientForm : Instr → Option RegForm
  | .div q d a b => some ⟨.base, q, [a, b], d, fun r =>
      if (r b).toNat = 0 then ofI (-1) else ofI ((r a).toInt.tdiv (r b).toInt)⟩
  | .divn q d a b => some ⟨.base, q, [a, b], d, fun r =>
      if (r b).toNat = 0 then ofI (-1) else ofN ((r a).toNat / (r b).toNat)⟩
  | .rem q d a b => some ⟨.base, q, [a, b], d, fun r =>
      if (r b).toNat = 0 then r a else ofI ((r a).toInt.tmod (r b).toInt)⟩
  | .remn q d a b => some ⟨.base, q, [a, b], d, fun r =>
      if (r b).toNat = 0 then r a else ofN ((r a).toNat % (r b).toNat)⟩
  | _ => none

/-- The divisor register of a quotient or remainder. -/
def divisor (f : RegForm) : Reg := f.srcs.getD 1 0

/-- The field position that x[b] names (R298). -/
def fieldAt (b : Word) : Nat := b.toNat % 64
/-- The field width used (R298). -/
def fieldLen (b : Word) : Nat := min (b.toNat / 2 ^ 8 % 64 + 1) (64 - fieldAt b)
/-- The field of a word that x[b] names. -/
def fieldOf (a b : Word) : Nat := a.toNat / 2 ^ fieldAt b % 2 ^ fieldLen b

/-- Bit fields and counts (R298). -/
def bitForm : Instr → Option RegForm
  | .bext q d a b => some ⟨.base, q, [a, b], d, fun r =>
      ofI (if 2 ^ (fieldLen (r b) - 1) ≤ fieldOf (r a) (r b) then (fieldOf (r a) (r b) : Int) - 2 ^ fieldLen (r b) else fieldOf (r a) (r b))⟩
  | .bextn q d a b => some ⟨.base, q, [a, b], d, fun r => ofN (fieldOf (r a) (r b))⟩
  | .bins q d a b => some ⟨.base, q, [a, b, d], d, fun r =>
      ofN ((r d).toNat - fieldOf (r d) (r b) * 2 ^ fieldAt (r b) + (r a).toNat % 2 ^ fieldLen (r b) * 2 ^ fieldAt (r b))⟩
  | .clz q d a => some ⟨.base, q, [a], d, fun r => ofN ((List.range 64).takeWhile fun i => !(r a).getLsbD (63 - i)).length⟩
  | .ctz q d a => some ⟨.base, q, [a], d, fun r => ofN ((List.range 64).takeWhile fun i => !(r a).getLsbD i).length⟩
  | .popc q d a => some ⟨.base, q, [a], d, fun r => ofN ((List.range 64).filter fun i => (r a).getLsbD i).length⟩
  | .brev q d a => some ⟨.base, q, [a], d, fun r => BitVec.ofFnLE fun i : Fin 64 => (r a).getLsbD (63 - i)⟩
  | .bswap q d a => some ⟨.base, q, [a], d, fun r => BitVec.ofFnLE fun i : Fin 64 => (r a).getLsbD ((7 - i.val / 8) * 8 + i.val % 8)⟩
  | _ => none

/-- Every integer instruction but aadd. -/
def integerForm (i : Instr) : Option RegForm :=
  aluForm i <|> immForm i <|> compareForm i <|> productForm i <|> quotientForm i <|> bitForm i

/-- The next state of an instruction of this form when no queue register holds it back: its operands are read, its result is written at once, and it
retires (R156, R186). -/
def RegForm.next (f : RegForm) (s : State) : State :=
  retireLive s f.shape.len f.shape.live f.q (wr s.me f.d (f.value (operand f.srcs s)) (operandState f.srcs s))

/-- The exact trap of the issuing thread at its own instruction (R247). -/
def TrapsHere (i : Instr) (s : State) (cause reason : Nat) (tval : Word) : Prop :=
  exec i s = .next (enterTrap s.me ⟨cause, reason, tval⟩ false 0 false (cur s).pc s)

/-- The exact trap of an instruction of a length that takes no transfer. For a travelling thread a travel fault of going on past the
instruction comes first (R174, R248). -/
def TrapsAt (i : Instr) (s : State) (len cause reason : Nat) (tval : Word) : Prop :=
  (seqFault s len = none → TrapsHere i s cause reason tval) ∧ (∀ r a, seqFault s len = some (r, a) → TrapsHere i s 4 r a)

/-- A register form runs as its table says in every state in which its queue registers are ready. -/
def Runs (form : Instr → Option RegForm) : Prop :=
  ∀ i f, form i = some f → ∀ s, QueuesReady f.srcs [f.d] s → exec i s = .next (f.next s)

end Sys2Proof.Claims

open Sys2Proof Sys2Proof.Machine Sys2Proof.Claims

/-! ## Integer instructions -/

/-- R291: sums, differences, logic and shifts write the results of the table, modulo 2^64 or saturated. -/
def Sys2Proof.Claims.AluResults : Prop := Runs aluForm

/-- R292 to R294: address fields, immediates and shift immediates. -/
def Sys2Proof.Claims.ImmediateResults : Prop := Runs immForm

/-- R295, R296: compare masks, conditions, selection, minima and maxima. -/
def Sys2Proof.Claims.CompareResults : Prop := Runs compareForm

/-- R297: products, low and high halves, wrapped or saturated. -/
def Sys2Proof.Claims.ProductResults : Prop := Runs productForm

/-- R202, R297: quotients and remainders, and IDZ set by a zero divisor at issue. -/
def Obligations.QuotientResults : Prop :=
  ∀ i f, quotientForm i = some f → ∀ s, QueuesReady f.srcs [f.d] s →
    exec i s = .next (retireLive s f.shape.len f.shape.live f.q (wr s.me f.d (f.value (operand f.srcs s))
      (if (operand f.srcs s (divisor f)).toNat = 0 then
        modTh (operandState f.srcs s) s.me fun th => { th with thst := th.thst ||| 2 ^ 11 }
       else operandState f.srcs s)))

/-- R298: bit fields, counts and reversals. -/
def Sys2Proof.Claims.BitFieldResults : Prop := Runs bitForm

/-- R292: aadd adds a signed register to the offset alone; where the sum leaves the offset it takes the access fault with reason 5 and TVAL
x[a], and x[d] is unchanged. -/
def Obligations.AaddResults : Prop :=
  ∀ q d a b s, QueuesReady [a, b] [d] s →
    let u := operand [a, b] s a
    let t : Int := (u.toNat % 2 ^ 48 : Nat) + (operand [a, b] s b).toInt
    (0 ≤ t → t < 2 ^ 48 →
      exec (.aadd q d a b) s = .next (retire s 4 q (wr s.me d (ofN (u.toNat / 2 ^ 48 * 2 ^ 48 + t.toNat)) (operandState [a, b] s)))) ∧
    (t < 0 ∨ 2 ^ 48 ≤ t → TrapsAt (.aadd q d a b) s 4 2 5 u)

/-- R158, R186: an integer instruction whose queue register cannot serve it waits, its pc and every register unchanged; one with no
queue register among its operands never does. -/
def Sys2Proof.Claims.QueueRegistersWait : Prop :=
  ∀ i f, integerForm i = some f → ∀ s,
    (∀ r rd, qblock s f.srcs [f.d] = some (r, rd) → exec i s = .next (park (.queueReg r rd) s)) ∧
    ((∀ r ∈ f.d :: f.srcs, isQ s.me r = false) → qblock s f.srcs [f.d] = none ∧ operandState f.srcs s = s)

/-- What an integer instruction leaves alone: outside harts, cores, events under way and order numbers nothing changes, no byte and no
full/empty bit. Of a thread that does not travel, no other hart changes, and of its own registers only the destination, the queue registers it
reads and IDZ of a division do. -/
def Obligations.IntegerFrame : Prop :=
  ∀ i f, integerForm i = some f → ∀ s t, exec i s = .next t →
    MachineKept s t ∧ SameBytes s t ∧ SameFullEmpty s t ∧
    (modeOf (cur s) ≠ 2 →
      OtherHartsKept s.me s t ∧
      (∀ r, r ≠ f.d → isQ s.me r = false → xr (cur t) r = xr (cur s) r) ∧
      (quotientForm i = none → SpecialRegistersKept (cur s) (cur t)) ∧
      (∀ n, n ≠ 11 → (cur t).thst.getLsbD n = (cur s).thst.getLsbD n))

/-- R185, R159, R186: a write of x0 is discarded; a write of x8 to x11 in slot 0 joins the outbound queue and no register; any other write changes
that register alone. -/
def Sys2Proof.Claims.RegisterWrites : Prop :=
  ∀ t d v s,
    (d = 0 → ∀ r, xr (getTh (wr t d v s) t) r = xr (getTh s t) r) ∧
    (isQ t d = true → getTh (wr t d v s) t = getTh s t ∧ outq (wr t d v s) t d = outq s t d ++ [v]) ∧
    (d ≠ 0 → isQ t d = false →
      xr (getTh (wr t d v s) t) d = v ∧ ∀ r, r ≠ d → xr (getTh (wr t d v s) t) r = xr (getTh s t) r) ∧
    (∀ u, u ≠ t → getTh (wr t d v s) u = getTh s u) ∧ MachineKept s (wr t d v s)

/-- R201, R291, R293 to R298: sums, differences, logic, shifts, immediates, compares, selections, products and bit fields write the results of the tables. -/
def Obligations.IntegerResults : Prop := AluResults ∧ ImmediateResults ∧ CompareResults ∧ ProductResults ∧ BitFieldResults

/-- R158, R159, R185, R186: writes of x0, of queue registers and of any other register; an instruction whose queue register cannot serve it waits. -/
def Obligations.RegisterRules : Prop := QueueRegistersWait ∧ RegisterWrites

namespace Sys2Proof.Claims

/-- The address n bytes past an address, in the offset alone (R258). -/
def nextAddr (a : Word) (n : Nat) : Word := ofN (a.toNat / 2 ^ 48 * 2 ^ 48 + (a.toNat % 2 ^ 48 + n) % 2 ^ 48)

/-- The target of a displacement in words, in the offset alone; none where it leaves the offset (R264). -/
def wordTarget (own : Word) (disp : Int) : Option Word :=
  let t : Int := (own.toNat % 2 ^ 48 : Nat) + 4 * disp
  if 0 ≤ t ∧ t < 2 ^ 48 then some (ofN (own.toNat / 2 ^ 48 * 2 ^ 48 + t.toNat)) else none

/-- An instruction at own with next sequential address next ends the body of loop level 0 (R305). -/
def EndsLoop (th : Thread) (own next : Word) : Prop :=
  tl th = false ∧ loop0 th = true ∧ inLoop th own = true ∧ next = loopEnd th

/-- COUNT of loop level 0 (R190). -/
def loopCount (th : Thread) : Nat := (spGet 0 th.lstk 1).toNat / 2 ^ 32

/-- The loop stack after a pop (R305, R306). -/
def Popped (th th' : Thread) : Prop :=
  ∀ n, n < 8 → spGet 0 th'.lstk n =
    if n < 6 then spGet 0 th.lstk (n + 2) else if n = 6 then spGet 0 th.lstk 6 else spGet 0 th.lstk 7 &&& ~~~1

/-- Whether a branch condition holds, in whole numbers (R263). -/
def holdsCond (c : BrCond) (u w : Word) : Prop :=
  match c with
  | .eq => u.toNat = w.toNat
  | .ne => u.toNat ≠ w.toNat
  | .lt => u.toInt < w.toInt
  | .ge => w.toInt ≤ u.toInt
  | .ltn => u.toNat < w.toNat
  | .gen => w.toNat ≤ u.toNat
  | .bs => u.toNat / 2 ^ (w.toNat % 64) % 2 = 1
  | .bc => u.toNat / 2 ^ (w.toNat % 64) % 2 = 0

/-- A conditional branch: its S bit, condition, registers, displacement in words, live mask and length. -/
structure BranchForm where
  q    : Bool
  c    : BrCond
  a    : Reg
  b    : Reg
  disp : Int
  live : Option (BitVec 15)
  len  : Nat

/-- The conditional branches (R263, R301). -/
def branchForm : Instr → Option BranchForm
  | .bEq q a b i => some ⟨q, .eq, a, b, i.toInt, none, 4⟩
  | .bNe q a b i => some ⟨q, .ne, a, b, i.toInt, none, 4⟩
  | .bLt q a b i => some ⟨q, .lt, a, b, i.toInt, none, 4⟩
  | .bGe q a b i => some ⟨q, .ge, a, b, i.toInt, none, 4⟩
  | .bLtn q a b i => some ⟨q, .ltn, a, b, i.toInt, none, 4⟩
  | .bGen q a b i => some ⟨q, .gen, a, b, i.toInt, none, 4⟩
  | .bBs q a b i => some ⟨q, .bs, a, b, i.toInt, none, 4⟩
  | .bBc q a b i => some ⟨q, .bc, a, b, i.toInt, none, 4⟩
  | .bCondX q a b c disp live => some ⟨q, c, a, b, disp.toInt, some live, 12⟩
  | _ => none

/-- TCAUSE of a cause, a reason, and an asynchronous trap's mark and entry (R195). -/
def causeOf (i : TrapInfo) (async : Bool) (entry : Nat) (pjwf : Bool) (w : Word) : Prop :=
  w.toNat = i.cause + 2 ^ 8 * i.reason + 2 ^ 16 * async.toNat + 2 ^ 17 * entry + 2 ^ 22 * pjwf.toNat

/-- What S = 1 makes of a thread whose instruction is done: held at its marker while late results are out, or after a wait of R158 in which the
instruction parked only while a late result of its own is (R157, R259; the model's reading of the two, log 40). -/
def HeldAtMarker (q : Bool) (before : Wait) (th : Thread) (w : Wait) : Prop :=
  let held := q = true ∧ th.late ≠ [] ∧ (parked before = true → ∃ l ∈ th.late, l.seq = th.seq)
  (held → w = .marker) ∧ (¬ held → w = .run)

end Sys2Proof.Claims

/-! ## Flow of control -/

/-- R258, R305: an instruction that completes without a taken transfer moves the pc past its words; at the end of loop level 0 it goes back to
START and counts down, or with COUNT at most 1 pops the level. S = 1 parks the thread at its marker while late results are out (R157), but for
an instruction that has parked (R259). Nothing
else of the thread changes but its counters and its order number. (A thread that travels: TravelLeaves.) -/
def Sys2Proof.Claims.InstructionRetires : Prop :=
  ∀ s0 s n q, modeOf (getTh s s.me) ≠ 2 →
    let th := getTh s s.me
    let t := retire s0 n q s
    let own := (getTh s0 s.me).pc
    let next := nextAddr own n
    (¬ EndsLoop th own next → (getTh t s.me).pc = next ∧ (getTh t s.me).lstk = th.lstk) ∧
    (EndsLoop th own next → 1 < loopCount th →
      (getTh t s.me).pc = loopStart th ∧ loopCount (getTh t s.me) = loopCount th - 1 ∧
        ∀ k, k ≠ 1 → spGet 0 (getTh t s.me).lstk k = spGet 0 th.lstk k) ∧
    (EndsLoop th own next → loopCount th ≤ 1 → bit (spGet 0 th.lstk 3) 0 = false →
      (getTh t s.me).pc = next ∧ Popped th (getTh t s.me)) ∧
    HeldAtMarker q (getTh s0 s.me).wait th (getTh t s.me).wait ∧
    (getTh t s.me).seq = th.seq + 1 ∧ (getTh t s.me).x = th.x ∧ (getTh t s.me).late = th.late ∧
    SpecialRegistersKept th (getTh t s.me) ∧ OtherHartsKept s.me s t ∧ MachineKept s t

/-- R300, R306: a taken transfer sets the pc to its target; one that pops leaves a loop level whose range it leaves, and keeps the
stack otherwise. A transfer to its own next sequential address is not taken and completes as InstructionRetires says. -/
def Sys2Proof.Claims.TransferTaken : Prop :=
  ∀ s0 s target pops live q, modeOf (getTh s s.me) ≠ 2 →
    let th := getTh s s.me
    let own := (getTh s0 s.me).pc
    let t := jump s0 target pops live q s
    let exits := pops = true ∧ loop0 th = true ∧ inLoop th own = true ∧ inLoop th target = false
    let len := if live.isSome then 12 else 4
    (target = nextAddr own len → t = retireLive s0 len live q s) ∧
    (target ≠ nextAddr own len → (getTh t s.me).pc = target ∧ (¬ exits → (getTh t s.me).lstk = th.lstk) ∧
      (exits → bit (spGet 0 th.lstk 3) 0 = false → Popped th (getTh t s.me))) ∧
    (getTh t s.me).x = th.x ∧ (getTh t s.me).seq = th.seq + 1 ∧ SpecialRegistersKept th (getTh t s.me) ∧ OtherHartsKept s.me s t ∧
    MachineKept s t

/-- R172, R174: a travelling thread's transfer inside the segment pinned on its core sets the pc; outside it takes the travel fault
LOOPSTK (1), NOSEG (3) or RSVHELD (4) with no effect, or departs. What log 57 fixes is the model's. -/
def Obligations.TravelLeaves : Prop :=
  ∀ s0 s target live q, modeOf (getTh s s.me) = 2 →
    let th := getTh s s.me
    let inside := ∃ g, pinned s s.me = some g ∧ hdl target = g.getD 0 0 ∧ g.getD 1 0 ≤ off target ∧ off target < g.getD 1 0 + g.getD 2 0
    (inside → ∃ w, HeldAtMarker q (getTh s0 s.me).wait th w ∧
      flow s0 target live q s = setTh s s.me { th with pc := target, seq := th.seq + 1, wcount := 0, wait := w }) ∧
    (¬ inside → loopUsed th = true → flow s0 target live q s = enterTrap s.me ⟨4, 1, target⟩ false 0 false (getTh s0 s.me).pc s0) ∧
    (¬ inside → loopUsed th = false → segOf s s.me target = none →
      flow s0 target live q s = enterTrap s.me ⟨4, 3, target⟩ false 0 false (getTh s0 s.me).pc s0) ∧
    (¬ inside → loopUsed th = false → segOf s s.me target ≠ none → th.hold ≠ none →
      flow s0 target live q s = enterTrap s.me ⟨4, 4, target⟩ false 0 false (getTh s0 s.me).pc s0) ∧
    (¬ inside → loopUsed th = false → segOf s s.me target ≠ none → th.hold = none →
      ∃ l, (getTh (flow s0 target live q s) s.me).wait = .settle (.depart target l) ∧ (∀ m, live = some m → l = m) ∧
        Instr.travelDeparture s.me ∈ (flow s0 target live q s).pending)

/-- R263, R264, R301: a conditional branch whose condition holds transfers to its own address plus 4 times the displacement, and takes
the access fault with reason 5 where that leaves the offset; one whose condition fails goes on in sequence. -/
def Sys2Proof.Claims.BranchResults : Prop :=
  ∀ i f, branchForm i = some f → ∀ s, QueuesReady [f.a, f.b] [] s →
    let u := operand [f.a, f.b] s f.a
    let w := operand [f.a, f.b] s f.b
    let s1 := operandState [f.a, f.b] s
    (¬ holdsCond f.c u w → exec i s = .next (retireLive s f.len f.live f.q s1)) ∧
    (holdsCond f.c u w → ∀ t, wordTarget (cur s).pc f.disp = some t → exec i s = .next (jump s t true f.live f.q s1)) ∧
    (holdsCond f.c u w → wordTarget (cur s).pc f.disp = none → TrapsHere i s 2 5 (cur s).pc)

/-- R264, R302, R303: j, jr, callr, call and ret. A call writes the next sequential address to x14 after its target is read; a register target
that is not a multiple of 4 takes the misalignment trap with nothing written. -/
def Sys2Proof.Claims.JumpResults : Prop :=
  ∀ s,
    (∀ q (d : BitVec 23) t, wordTarget (cur s).pc d.toInt = some t → exec (.j q d) s = .next (jump s t true none q s)) ∧
    (∀ q (d : BitVec 32) live t, wordTarget (cur s).pc d.toInt = some t → exec (.jX q d live) s = .next (jump s t true (some live) q s)) ∧
    (∀ q (d : BitVec 32) live t, wordTarget (cur s).pc d.toInt = some t → off (cur s).pc + 12 < 2 ^ 48 →
      exec (.call q d live) s = .next (jump s t false (some live) q (wr s.me 14 (nextAddr (cur s).pc 12) s))) ∧
    (∀ q a live, QueuesReady [a] [] s →
      let t := operand [a] s a
      (t.toNat % 4 = 0 → exec (.jr q a live) s = .next (jump s t true live q (operandState [a] s))) ∧
      (t.toNat % 4 = 0 → off (cur s).pc + (if live.isSome then 12 else 4) < 2 ^ 48 →
        exec (.callr q a live) s =
          .next (jump s t false live q (wr s.me 14 (nextAddr (cur s).pc (if live.isSome then 12 else 4)) (operandState [a] s)))) ∧
      (t.toNat % 4 ≠ 0 → leaves (operandState [a] s) s.me t = false → TrapsHere (.jr q a live) s 3 0 t ∧ TrapsHere (.callr q a live) s 3 0 t)) ∧
    (∀ q live,
      ((xr (cur s) 14).toNat % 4 = 0 → exec (.ret q live) s = .next (jump s (xr (cur s) 14) false live q s)) ∧
      ((xr (cur s) 14).toNat % 4 ≠ 0 → leaves s s.me (xr (cur s) 14) = false → TrapsHere (.ret q live) s 3 0 (xr (cur s) 14)))

/-- R190, R304: lp pushes START, COUNT and DIST with V = 1 as level 0 and moves the other levels down; COUNT 0 skips the body; at trap level 1
it is illegal. -/
def Obligations.LoopPush : Prop :=
  ∀ q a (i : BitVec 15) s, WellFormed (.lp q a i) →
    (tl (cur s) = true → TrapsHere (.lp q a i) s 1 0 ((encI 0#2 q 0x23#6 0#4 a i).setWidth 64)) ∧
    (1 ≤ i.toNat ∧ i.toNat ≤ 16383) ∧
    (tl (cur s) = false → QueuesReady [a] [] s → 2 ^ 48 ≤ off (cur s).pc + 4 + 4 * i.toNat → TrapsHere (.lp q a i) s 2 5 (cur s).pc) ∧
    (tl (cur s) = false → QueuesReady [a] [] s → off (cur s).pc + 4 + 4 * i.toNat < 2 ^ 48 →
      let s1 := operandState [a] s
      let c := (operand [a] s a).toNat
      (c = 0 → exec (.lp q a i) s = .next (jump s (nextAddr (cur s).pc (4 + 4 * i.toNat)) false none q s1)) ∧
      (c ≠ 0 → ∃ th, exec (.lp q a i) s = .next (retire s 4 q (setTh s1 s.me th)) ∧
        th = { cur s1 with lstk := th.lstk } ∧
        spGet 0 th.lstk 0 = nextAddr (cur s).pc 4 ∧
        spGet 0 th.lstk 1 = ofN (min c (2 ^ 32 - 1) * 2 ^ 32 + i.toNat * 4 + 1) ∧
        ∀ n, n < 6 → spGet 0 th.lstk (n + 2) = spGet 0 (cur s).lstk n))

/-! ## Traps -/

/-- R194, R195, R249: entry into a handler writes TEPC, TCAUSE and TVAL, saves THST[15:0], sets TL, clears FRM and the flags, keeps MODE, and
goes to TVEC; nothing else of the thread, no other register, no byte and no other thread changes. -/
def Sys2Proof.Claims.TrapEntry : Prop :=
  ∀ t i async entry pjwf epc s, i.cause < 256 → i.reason < 256 → entry < 32 →
    let th := getTh s t
    tl th = false → bits th.tvec 63 2 ≠ 0 → leaves s t th.tvec = false → th.capture = none →
    let s' := enterTrap t i async entry pjwf epc s
    let th' := getTh s' t
    th'.tepc = epc ∧ causeOf i async entry pjwf th'.tcause ∧ th'.tval = i.tval ∧ th'.pc = th.tvec ∧
    th'.thst.toNat = th.thst.toNat % 2 ^ 16 * 2 ^ 16 + (th.thst.toNat / 2 % 4) * 2 + 1 ∧
    th' = { th with tepc := epc, tcause := th'.tcause, tval := i.tval, thst := th'.thst, pc := th.tvec, wait := .run, wcount := 0 } ∧
    OtherHartsKept t s s' ∧ MachineKept s s'

/-- R249: a trap at trap level 1, or with no handler, or whose handler a travelling thread cannot depart to, is unhandled: the thread waits as at
a marker park and then ends with the record of the trap. -/
def Sys2Proof.Claims.UnhandledTrap : Prop :=
  ∀ t i async entry pjwf epc s, (getTh s t).capture = none →
    let th := getTh s t
    (tl th = true ∨ bits th.tvec 63 2 = 0 ∨
      (leaves s t th.tvec = true ∧ (loopUsed th = true ∨ th.hold ≠ none ∨ segOf s t th.tvec = none))) →
    ∃ cw st, getTh (enterTrap t i async entry pjwf epc s) t = { th with wait := .settle (.dead epc cw i.tval st), wcount := 0 } ∧
      st.toNat = th.thst.toNat % 2 ^ 16 * 2 ^ 16 + (th.thst.toNat / 2 % 4) * 2 + 1 ∧
      MachineKept s (enterTrap t i async entry pjwf epc s)

/-- R246, R272, R394, R395: an illegal word, trap, brk, and halt in a slot whose context has not enabled it take their exact traps
at the instruction itself. -/
def Sys2Proof.Claims.TrapInstructions : Prop :=
  ∀ s,
    (∀ base, TrapsHere (.illegalInstruction base) s 1 0 (base.setWidth 64)) ∧
    (∀ q c a e, QueuesReady [a] [] s → TrapsHere (.trap q c a e) s 8 (16 * c.toNat + e.toNat) (operand [a] s a)) ∧
    (∀ q, TrapsHere (.brk q) s 9 0 0) ∧
    (∀ q a, isHart s.me = false → bit (getCtx s (cur s).ctx).dbgctl 0 = false → TrapsHere (.halt q a) s 9 0 0)

/-- R194, R256: at trap level 0 tret is illegal. At level 1 with a SAVED that holds TL 0, the present MODE, FRM 0 to 4 and zero above bit 11 it
restores THST[15:0] from SAVED, which stays, and goes to TEPC, where an asynchronous trap held until then comes before the next instruction, or takes
the misalignment trap where TEPC is no multiple of 4; else the handler is entered again with cause bad status, TVAL the tret's address, FRM and flags clear, and TEPC, SAVED and the level unchanged. What log 35 fixes is the model's. -/
def Obligations.TrapReturn : Prop :=
  ∀ q live s i, (live = none ∧ i = Instr.tret q) ∨ (∃ l, live = some l ∧ i = Instr.tretX q l) →
    let th := cur s
    let saved := th.thst.toNat / 2 ^ 16 % 2 ^ 16
    let good := saved % 2 = 0 ∧ saved / 2 % 4 = th.thst.toNat / 2 % 4 ∧ saved / 8 % 8 ≤ 4 ∧ saved / 2 ^ 12 = 0
    (tl th = false → ∃ base, TrapsHere i s 1 0 base) ∧
    (tl th = true → good → th.tepc.toNat % 4 = 0 →
      exec i s = .next (jump s th.tepc false live q (setTh s s.me { th with
        thst := ofN (saved * 2 ^ 16 + saved), tretAt := if asyncAimed s s.me then th.seq + 1 else th.tretAt }))) ∧
    (tl th = true → good → th.tepc.toNat % 4 ≠ 0 → leaves s s.me th.tepc = false → TrapsHere i s 3 0 th.tepc) ∧
    (tl th = true → ¬ good → leaves s s.me th.tvec = false → ∃ w,
      exec i s = .next (setTh s s.me { th with tcause := 7, tval := th.pc, thst := w, pc := th.tvec, seq := th.seq + 1, wait := .run, wcount := 0 }) ∧
      ∀ n, n < 64 → w.getLsbD n = if 3 ≤ n ∧ n ≤ 11 then false else th.thst.getLsbD n)

/-- R258, R300, R305, R306: where the pc goes when an instruction completes, with its loop levels, and when a transfer is taken. What log 40 fixes is the model's. -/
def Obligations.InstructionEnds : Prop := InstructionRetires ∧ TransferTaken

/-- R263, R264, R301 to R303: conditional branches, jumps, calls and returns. -/
def Obligations.BranchesAndJumps : Prop := BranchResults ∧ JumpResults

/-- R194, R195, R246, R249, R272, R394, R395: entry into a handler, an unhandled trap, and the instructions and words that trap. -/
def Obligations.TrapEntryResults : Prop := TrapEntry ∧ UnhandledTrap ∧ TrapInstructions

namespace Sys2Proof.Claims

/-- What a read of a control register gives; none for a number that names none (R192 to R199). A count of cache events is a free value. -/
def ctlTable (s : State) (n : Nat) : Option Word :=
  let th := cur s
  if n = 0x000 then some th.thst
  else if n = 0x001 then some th.tvec
  else if n = 0x002 then some th.tepc
  else if n = 0x003 then some th.tcause
  else if n = 0x004 then some th.tval
  else if n = 0x008 then some (pjHead s s.me)
  else if n = 0x009 then some th.pjbase
  else if 0x010 ≤ n ∧ n ≤ 0x017 then some (spGet 0 th.lstk (n - 0x010))
  else if 0x018 ≤ n ∧ n ≤ 0x01B then some (spGet 0 th.latch (n - 0x018))
  else if n = 0x020 then some (kmaskRead s s.me)
  else if n = 0x021 then some (flag (th.vwin = true))
  else if n = 0x022 then some (if th.thst.getLsbD 0 then 3 else ofN th.mcell.toNat)
  else if n = 0x023 then some (segId s s.me)
  else if n = 0x024 then some (tidOf s s.me)
  else if n = 0x030 then some (gtimeAt s s.me)
  else if 0x040 ≤ n ∧ n ≤ 0x047 then some (if isHart s.me then spGet 0 th.pcnt (n - 0x040) else seenCount s (spGet 0 th.pcnt (n - 0x040)))
  else none

/-- The machine after the thread has read GTIME: the thread keeps what it read, and no later read of it gives less (R12). -/
def gtimeRead (s : State) : State := setTh s s.me { cur s with gread := gtimeAt s s.me }

/-- The register counts cache events, so that reading it uses a free value. -/
def ReadsCacheCount (s : State) (n : Nat) : Prop :=
  0x040 ≤ n ∧ n ≤ 0x047 ∧ isHart s.me = false ∧ 5 ≤ (spGet 0 (cur s).pcnt (n - 0x040)).toNat / 2 ^ 56 ∧
    (spGet 0 (cur s).pcnt (n - 0x040)).toNat / 2 ^ 56 ≤ 7

/-- THST after a write of v: the flags, FRM unless v names a reserved mode, and SAVED at trap level 1 (R193). -/
def thstWritten (old v : Word) : Word :=
  BitVec.ofFnLE fun i : Fin 64 =>
    if 6 ≤ i.val ∧ i.val ≤ 11 then v.getLsbD i
    else if 3 ≤ i.val ∧ i.val ≤ 5 ∧ v.toNat / 8 % 8 ≤ 4 then v.getLsbD i
    else if 16 ≤ i.val ∧ i.val ≤ 31 ∧ old.getLsbD 0 = true then v.getLsbD i
    else old.getLsbD i

/-- What a write of v does to the registers of a thread, KMASK and VWIN apart (R192 to R199); the cycle of a write of THST is kept, for the flags of vector
commands that retire in it (R193). -/
def ctlEffect (cycle n : Nat) (v : Word) (th : Thread) : Thread :=
  if n = 0x000 then { th with thst := thstWritten th.thst v, thstAt := cycle + 1 }
  else if n = 0x001 then { th with tvec := ofN (v.toNat / 4 * 4) }
  else if n = 0x002 then { th with tepc := v }
  else if n = 0x003 then { th with tcause := ofN (v.toNat % 2 ^ 23) }
  else if n = 0x004 then { th with tval := v }
  else if n = 0x009 then { th with pjbase := ofN (v.toNat / 2 ^ 10 * 2 ^ 10) }
  else if 0x010 ≤ n ∧ n ≤ 0x017 then { th with lstk := spSet 0 th.lstk (n - 0x010) (if n % 2 = 1 then v &&& ~~~2 else v) }
  else if n = 0x022 then { th with mcell := if th.thst.getLsbD 0 ∨ v.toNat % 4 = 3 then th.mcell else BitVec.ofNat 2 v.toNat }
  else if 0x040 ≤ n ∧ n ≤ 0x047 then
    { th with pcnt := spSet 0 th.pcnt (n - 0x040) (ofN (v.toNat / 2 ^ 56 * 2 ^ 56 + v.toNat % 2 ^ 48)) }
  else th

/-- The machine after a write of v; a write of a read-only register is ignored (R192). -/
def ctlState (n : Nat) (v : Word) (s : State) : State :=
  if n = 0x008 ∨ (0x018 ≤ n ∧ n ≤ 0x01B) ∨ n = 0x023 ∨ n = 0x024 ∨ n = 0x030 then s else setTh s s.me (ctlEffect s.cycle n v (cur s))

/-- A write of a control register: its S bit, register operand, the number's two fields, and the value from the present one and x[a]. -/
structure CtlForm where
  q : Bool
  a : Reg
  h : BitVec 4
  n : BitVec 8
  f : Word → Word → Word

/-- ctl.wr, ctl.set and ctl.clr (R393). -/
def ctlForm : Instr → Option CtlForm
  | .ctlWr q a h n => some ⟨q, a, h, n, fun _ x => x⟩
  | .ctlSet q a h n => some ⟨q, a, h, n, fun r x => r ||| x⟩
  | .ctlClr q a h n => some ⟨q, a, h, n, fun r x => r &&& ~~~x⟩
  | _ => none

/-- The number may be written at the present trap level (R192). -/
def CtlWritable (s : State) (n : Nat) : Prop := (ctlTable s n).isSome ∧ (tl (cur s) = true ∨ n < 2 ∨ 4 < n)

/-- The word w of a journal entry; an entry that is not live reads zero (R250). -/
def entryWord (j : JEnt) (w : Nat) : Word :=
  if 4 < j.opk then 0
  else if w = 0 then
    ofN (j.size % 2 ^ 13 + j.slot % 2 ^ 5 * 2 ^ 30 + 2 ^ 35 + j.ref.toNat * 2 ^ 36 + j.opk % 8 * 2 ^ 37 + j.code % 2 ^ 8 * 2 ^ 40 + j.gen % 2 ^ 16 * 2 ^ 48)
  else if w = 1 then j.addr
  else if w = 2 then j.caddr
  else j.time

/-- The stall reason and trap value of a wait that the watchdog counts (R158, R246). -/
def stallOf (w : Wait) : Option (Nat × Word) :=
  match w with
  | .word _ op a _ _ _ => some (if op = .join then 2 else 1, a)
  | .retry _ op a _ _ _ => some (if op = .join then 2 else 1, a)
  | .resv _ a => some (3, a)
  | .queueReg r _ => some (5, ofN (r.toNat - 8))
  | _ => none

/-- The running cycles the watchdog counts of such a wait: of a queue register for which a returned late result is held, from that result's
return on (R186). -/
def stallCount (th : Thread) : Nat :=
  match th.wait with
  | .queueReg r _ => match th.late.find? fun l => l.done && l.d == r with | some l => l.held | none => th.wcount
  | _ => th.wcount

/-- The machine without the late result the thread waits to write to a queue register, which its watchdog discards (R186). -/
def heldDropped (t : Nat) (s : State) : State :=
  match (getTh s t).wait with
  | .queueReg r _ => setTh s t { getTh s t with late := (getTh s t).late.eraseP fun l => l.done && l.d == r }
  | _ => s

end Sys2Proof.Claims

/-! ## System instructions -/

/-- R192, R393: ctl.rd writes the value of the register the number names, at once; a number that names none is illegal. -/
def Sys2Proof.Claims.ControlReads : Prop :=
  ∀ q d (h : BitVec 4) (n : BitVec 8) s,
    let k := h.toNat * 256 + n.toNat
    (ctlTable s k = none → ∃ base, TrapsHere (.ctlRd q d h n) s 1 0 base) ∧
    (∀ v, ctlTable s k = some v → QueuesReady [] [d] s →
      (¬ ReadsCacheCount s k → exec (.ctlRd q d h n) s = .next (retire s 4 q (wr s.me d v (if k = 0x030 then gtimeRead s else s)))) ∧
      (ReadsCacheCount s k → exec (.ctlRd q d h n) s = .next (retire s 4 q (wr s.me d v { s with freeCount := s.freeCount + 1 }))))

/-- R192, R193, R195 to R199, R393: ctl.wr, ctl.set and ctl.clr write their register's writable bits and nothing else; TEPC, TCAUSE and TVAL at trap level
0, and numbers that name no register, are illegal. (KMASK and VWIN: WindowWrites.) -/
def Obligations.ControlWrites : Prop :=
  ∀ i f, ctlForm i = some f → ∀ s,
    let k := f.h.toNat * 256 + f.n.toNat
    (¬ CtlWritable s k → ∃ base, TrapsHere i s 1 0 base) ∧
    (∀ reg, ctlTable s k = some reg → CtlWritable s k → k ≠ 0x020 → k ≠ 0x021 → ¬ ReadsCacheCount s k → QueuesReady [f.a] [] s →
      exec i s = .next (retire s 4 f.q (ctlState k (f.f reg (operand [f.a] s f.a)) (operandState [f.a] s))))

/-- R187, R197, R198: a write of VWIN waits until the slot's vector unit is idle, then sets W, left 0 for a migrating thread and an engine hart, and
clears the vector, scale and mask registers; a write of KMASK keeps HANDLE and HOLD. -/
def Sys2Proof.Claims.WindowWrites : Prop :=
  ∀ q a s,
    (vectorIdle (cur s) = true → QueuesReady [a] [] s →
      exec (.ctlWr q a 0 0x21) s = .next (retire s 4 q (setTh (operandState [a] s) s.me
        { cur (operandState [a] s) with
          vwin := (operand [a] s a).getLsbD 0 && modeOf (cur s) != 1 && !isHart s.me, v := [], sc := [], k := [] }))) ∧
    ((cur s).capture = none → vectorIdle (cur s) = false → seqFault s 4 = none → exec (.ctlWr q a 0 0x21) s = .next (park .vjoin s)) ∧
    (QueuesReady [a] [] s → (operand [a] s a).getLsbD 16 = false →
      exec (.ctlWr q a 0 0x20) s = .next (retire s 4 q (setTh (operandState [a] s) s.me
        { cur (operandState [a] s) with kmask := operand [a] s a &&& 0x2FFFF })))

/-- R397: gtime writes GTIME; ffl waits until the slot's vector commands have retired, then moves THST[11:6] to x[d] and clears it. -/
def Sys2Proof.Claims.TimeAndFlags : Prop :=
  ∀ q d s,
    (QueuesReady [] [d] s → exec (.gtime q d) s = .next (retire s 4 q (wr s.me d (gtimeAt s s.me) (gtimeRead s)))) ∧
    (vectorIdle (cur s) = true → QueuesReady [] [d] s →
      exec (.ffl q d) s = .next (retire s 4 q (wr s.me d (ofN ((cur s).thst.toNat / 2 ^ 6 % 2 ^ 6))
        (setTh s s.me { cur s with thst := (cur s).thst &&& ~~~0xFC0 })))) ∧
    ((cur s).capture = none → vectorIdle (cur s) = false → seqFault s 4 = none → exec (.ffl q d) s = .next (park .vjoin s))

/-- R398: pj.rd writes a word of a journal entry of the core, zero for another context's entry; pj.clr frees a refused entry of this thread and
writes 1, else writes 0 and changes nothing. -/
def Sys2Proof.Claims.JournalAccess : Prop :=
  ∀ q d a s, QueuesReady [a] [d] s →
    let x := (operand [a] s a).toNat
    let s1 := operandState [a] s
    let j := getJ s (coreOf s.me) (x % 32)
    exec (.pjRd q d a) s = .next (retire s 4 q (wr s.me d (if j.ctx = (cur s).ctx then entryWord j (x / 32 % 4) else 0) s1)) ∧
    (j.opk ≤ 4 ∧ j.ref = true ∧ j.uid = (cur s).uid →
      exec (.pjClr q d a) s = .next (retire s 4 q (wr s.me d 1 (setJ s1 (coreOf s.me) (x % 32) JEnt.free)))) ∧
    (¬ (j.opk ≤ 4 ∧ j.ref = true ∧ j.uid = (cur s).uid) → exec (.pjClr q d a) s = .next (retire s 4 q (wr s.me d 0 s1)))

/-- R399: kc.inv scopes 0 and 1 drop this core's key-cache entry or TLB entries at once; scopes 2 and 3 take the access fault with reason 3 outside the
system context, and in it wait as a name transaction. -/
def Sys2Proof.Claims.KeyCacheInvalidate : Prop :=
  ∀ q a s, isHart s.me = false → QueuesReady [a] [] s →
    let x := operand [a] s a
    let s1 := operandState [a] s
    let c := getCore s1 (coreOf s.me)
    exec (.kcInv q a 0) s = .next (retire s 4 q (setCore s1 (coreOf s.me)
      { c with keys := c.keys.filter fun k => !(k.ctx == (cur s).ctx && k.handle == x.toNat % 2 ^ 16) })) ∧
    exec (.kcInv q a 1) s = .next (retire s 4 q (setCore s1 (coreOf s.me)
      { c with tlb := c.tlb.filter fun p => !(p.ctx == (cur s).ctx && p.handle == hdl x && p.page == x.toNat / 2 ^ 12 % 2 ^ 36) })) ∧
    (∀ e gen, hostMiss s1 (coreOf s.me) (cur s).ctx (hdl x) = none → lookupKey s1 (coreOf s.me) (cur s).ctx (hdl x) = (e, gen) →
      hdl x ≠ 0 → hdl x ≠ 0xFFFF → e.v = true → e.peer = false → e.gen = gen →
      ((cur s).ctx ≠ 0 → TrapsAt (.kcInv q a 2) s 4 2 3 x ∧ TrapsAt (.kcInv q a 3) s 4 2 3 x) ∧
      ((cur s).ctx = 0 → seqFault s 4 = none → ∃ rid t, exec (.kcInv q a 3) s = .next t ∧ (cur t).wait = .name rid 0 q ∧ (getRevoke t rid).node = e.node))

/-- R395, R396, R403: halt with HALTEN stores x[a] in HALTV and halts the thread at the next instruction; wfi returns 1 when an asynchronous trap is
aimed at the thread, 0 when no cycle is left, and else waits. -/
def Obligations.HaltAndWait : Prop :=
  ∀ q d a s, isHart s.me = false →
    let x := operand [a] s a
    let s1 := operandState [a] s
    (bit (getCtx s (cur s).ctx).dbgctl 0 = true → (cur s).late = [] → QueuesReady [a] [] s → seqFault s 4 = none →
      ∃ t, exec (.halt q a) s = .next t ∧ (cur t).wait = .halted s.cycle ∧ (getCtx t (cur s).ctx).haltv = x ∧
        (¬ EndsLoop (cur s) (cur s).pc (nextAddr (cur s).pc 4) → (cur t).pc = nextAddr (cur s).pc 4)) ∧
    (bit (getCtx s (cur s).ctx).dbgctl 0 = true → (cur s).late ≠ [] → exec (.halt q a) s = .next (park .marker s)) ∧
    ((∀ l e r, (cur s).wait ≠ .wfi l e r) → QueuesReady [a] [d] s →
      (asyncAimed s s.me = true → exec (.wfi q d a) s = .next (retire s 4 q (wr s.me d 1 s1))) ∧
      (asyncAimed s s.me = false → x = 0 → exec (.wfi q d a) s = .next (retire s 4 q (wr s.me d 0 s1))) ∧
      (asyncAimed s s.me = false → x ≠ 0 → seqFault s 4 = none → exec (.wfi q d a) s = .next (park (.wfi x.toNat d q) s1)))

/-- R157: the oldest late result of a thread, once known, is written to its register; nothing else of the thread changes. -/
def Sys2Proof.Claims.LateResults : Prop :=
  ∀ t s l rest, (getTh s t).late = l :: rest → l.done = true → isQ t l.d = false →
    ∃ s', exec (.lateResultReturn t none) s = .next s' ∧ (getTh s' t).late = rest ∧
      (l.d ≠ 0 → xr (getTh s' t) l.d = l.v) ∧ (∀ r, r ≠ l.d → xr (getTh s' t) r = xr (getTh s t) r) ∧
      (getTh s' t).pc = (getTh s t).pc ∧ SpecialRegistersKept (getTh s t) (getTh s' t) ∧ OtherHartsKept t s s' ∧ MachineKept s s'

/-- R150, R186, R246, R253, R396: a counted wait that has lasted the watchdog period is withdrawn, a late result held for a full queue register is
discarded, and the thread traps at its pc; a wait whose word has been granted has no trap. A posted write of the thread that has waited so long behind a hold
is withdrawn, with a returned trap at its pst. A hold that has lasted the period is released and the thread traps with reason 4, once it is done with what
cannot be interrupted; before then nothing happens. A wfi with no cycle left returns 0. -/
def Sys2Proof.Claims.WatchdogsAndTimeouts : Prop :=
  ∀ t s,
    (∀ r v, stallOf (getTh s t).wait = some (r, v) → isHart t = false → (getTh s t).behind = [] →
      (∀ w a, (getTh s t).wait = .resv w a → (spGet Resv.free s.resv w).granted ≠ some t) →
      (wdogPeriod s t ≤ stallCount (getTh s t) →
        let s1 := modTh (cancelWait t (heldDropped t s)) t (countEv 0x0C 1)
        exec (.watchdogExpiry t) s = .next (enterTrap t ⟨6, r, v⟩ false 0 false (getTh s1 t).pc s1)) ∧
      (stallCount (getTh s t) < wdogPeriod s t → exec (.watchdogExpiry t) s = .next s)) ∧
    (∀ w a, (getTh s t).wait = .resv w a → (spGet Resv.free s.resv w).granted = some t → (getTh s t).behind = [] →
      exec (.watchdogExpiry t) s = .next s) ∧
    (∀ core e word n, (getTh s t).behind = [(2000000 + 32 * core + e, word, n)] → core < 2048 → e < 32 → isHart t = false →
      (2000000 + 32 * core + e, word) ∈ waitsBehind s (getTh s t).uid → wdogPeriod s t ≤ n → ∃ a s',
        exec (.watchdogExpiry t) s = .next s' ∧
        (getTh s' t).refused = (getTh s t).refused ++ [⟨(getJ s core e).pc, (getJ s core e).seq, ⟨6, 3, a⟩⟩] ∧
        getJ s' core e = JEnt.free ∧ (getTh s' t).pc = (getTh s t).pc ∧ SameBytes s s') ∧
    (∀ l rest, (getTh s t).behind = [] → (getTh s t).wait = .marker → (getTh s t).late = l :: rest → l.done = true → isQ t l.d = true → 8 ≤ (outq s t l.d).length →
      (wdogPeriod s t ≤ l.held →
        let s1 := modTh (cancelWait t (setTh s t { getTh s t with late := rest })) t (countEv 0x0C 1)
        exec (.watchdogExpiry t) s = .next (enterTrap t ⟨6, 5, ofN (l.d.toNat - 8)⟩ false 0 false (getTh s1 t).pc s1)) ∧
      (l.held < wdogPeriod s t → exec (.watchdogExpiry t) s = .next s)) ∧
    (∀ w n, (getTh s t).hold = some (w, n) → (getTh s t).wait = .run → isHart t = false → wdogPeriod s t ≤ n →
      let s1 := modTh (cancelWait t (releaseHold t w s)) t (countEv 0x0C 1)
      exec (.reservationHoldExpiry t) s = .next (enterTrap t ⟨6, 4, (getTh s t).holdAt⟩ false 0 false (getTh s1 t).pc s1)) ∧
    (∀ w n, (getTh s t).hold = some (w, n) → interruptible (getTh s t).wait = false → wdogPeriod s t ≤ n →
      exec (.reservationHoldExpiry t) s = .next (setTh (releaseHold t w s) t
        { getTh (releaseHold t w s) t with expired := some (getTh s t).holdAt })) ∧
    (∀ d q, (getTh s t).wait = .wfi 0 d q → asyncAimed s t = false →
      exec (.wfiTimeout t) s = .next (asHart t (fun s => retire s 4 q (wr t d 0 s)) s))

/-- R192, R393, R397, R398: what ctl.rd, gtime, ffl, pj.rd and pj.clr give. What log 24 fixes is the model's. -/
def Obligations.SystemReads : Prop := ControlReads ∧ TimeAndFlags ∧ JournalAccess

/-- R187, R197, R198, R399: writes of VWIN, and kc.inv. What logs 10, 51 fix is the model's. -/
def Obligations.WindowsAndKeyCaches : Prop := WindowWrites ∧ KeyCacheInvalidate

/-- R150, R157, R246, R253, R396: late results, the stall watchdog and the waits that end at a time. What logs 9, 12, 56, 58 fix is the model's. -/
def Obligations.TimeAndLateResults : Prop := LateResults ∧ WatchdogsAndTimeouts

namespace Sys2Proof.Claims

/-- The number that little-endian bytes spell (R3). -/
def leValue : List Byte → Nat
  | [] => 0
  | b :: bs => b.toNat + 2 ^ 8 * leValue bs

/-- The n low bytes of a number, lowest first (R3). -/
def leBytesOf (n v : Nat) : List Byte := (List.range n).map fun i => BitVec.ofNat 8 (v / 2 ^ (8 * i))

/-- A signed displacement added to the offset alone; none where it leaves the offset (R87). -/
def effOf (x : Word) (disp : Int) : Option Word :=
  let t : Int := (x.toNat % 2 ^ 48 : Nat) + disp
  if 0 ≤ t ∧ t < 2 ^ 48 then some (ofN (x.toNat / 2 ^ 48 * 2 ^ 48 + t.toNat)) else none

/-- An access of the issuing thread reaches bytes of memory at once: its node's record is here, the checks of R88 pass, no row of its words is under
test, it stays in the cluster or its partition's packets move in this cycle, it does not migrate, no other thread holds a word of it, no home refuses it,
and its data are good. A load that the core's own copies serve stays in the cluster. -/
def ReachesMemory (s : State) (a : Word) (n : Nat) (need : Need) (migrates loads : Bool) (ps : List Piece) : Prop :=
  let w := whoOf s s.me
  hostMiss s w.unit w.ctx (hdl a) = none ∧ resolve s w a n need = .ok (.mem ps) ∧ underTest s ps = false ∧
    (leavesCluster s s.me loads ps = false ∨ hartMoves s s.me = true) ∧
    (migrates = true → migratesTo s s.me a = none) ∧
    resvBlocked s s.me (wordsOf ps) = none ∧ refusedPiece s (cur s).part ps = none ∧ badWord s ps = none

/-- The state in which such an access acts: its turn at the words' reservation queues is used (R315). -/
def atTurn (ps : List Piece) (s : State) : State :=
  (wordsOf ps).foldl (fun t w => passResv s.me w t) (modTh s s.me fun th => { th with stay := false })

/-- A load: S bit, destination, address register, bytes, whether it extends a sign, displacement and length. -/
structure LoadForm where
  q : Bool
  d : Reg
  a : Reg
  n : Nat
  signed : Bool
  disp : Int
  len : Nat

/-- Bytes and sign of a load's size (R262). -/
def loadWidth : LoadSize → Nat × Bool
  | .i8 => (1, true) | .n8 => (1, false) | .i16 => (2, true) | .n16 => (2, false) | .i32 => (4, true) | .n32 => (4, false) | .d64 => (8, false)

/-- ld in its two forms (R310). -/
def loadForm : Instr → Option LoadForm
  | .ld q d a z i => some ⟨q, d, a, (loadWidth z).1, (loadWidth z).2, i.toInt, 4⟩
  | .ldX q d a z disp => some ⟨q, d, a, (loadWidth z).1, (loadWidth z).2, disp.toInt, 12⟩
  | _ => none

/-- A loaded number of n bytes as a register holds it (R262). -/
def loaded (signed : Bool) (n v : Nat) : Word :=
  let u := v % 2 ^ (8 * n)
  if signed = true ∧ 2 ^ (8 * n - 1) ≤ u then ofI ((u : Int) - 2 ^ (8 * n)) else ofN u

/-- A store: S bit, source, address register, bytes, displacement and length. -/
structure StoreForm where
  q : Bool
  r : Reg
  a : Reg
  n : Nat
  disp : Int
  len : Nat

/-- Bytes of a store's size (R262). -/
def storeWidth : StoreSize → Nat
  | .s8 => 1 | .s16 => 2 | .s32 => 4 | .s64 => 8

/-- st in its two forms (R311). -/
def storeForm : Instr → Option StoreForm
  | .st q r a z i => some ⟨q, r, a, storeWidth z, i.toInt, 4⟩
  | .stX q r a z disp => some ⟨q, r, a, storeWidth z, disp.toInt, 12⟩
  | _ => none

/-- pst in its two forms (R319). -/
def postedForm : Instr → Option StoreForm
  | .pst q r a z i => some ⟨q, r, a, storeWidth z, i.toInt, 4⟩
  | .pstX q r a z disp => some ⟨q, r, a, storeWidth z, disp.toInt, 12⟩
  | _ => none

/-- The displacement in bytes and the length of a word form (R312). -/
def wordDisp : WordDisp → Int × Nat
  | .base d => (8 * d.toInt, 4)
  | .ext d => (8 * d.toInt, 12)

/-- A full/empty or reservation form reaches its word: aligned to 8, its effective address in range and its access possible at once. -/
def ReachesWord (s : State) (x : Word) (i : WordDisp) (ea : Word) (key : Nat) (ps : List Piece) : Prop :=
  effOf x (wordDisp i).1 = some ea ∧ ea.toNat % 8 = 0 ∧ ReachesMemory s ea 8 needRw false false ps ∧ (∃ p r, ps = p :: r ∧ p.key = key)

/-- A wait of the same condition is listed at a word: full, empty, or a join's zero (R148). -/
def Listed (s : State) (key : Nat) (op : WaitOp) : Prop := listedSame s key op = true

/-- The new value of an atomic from the old one, x[b] and x[d], at n bits (R314). -/
def amoForm : Instr → Option (Bool × Reg × Reg × Reg × Bool × (Nat → Word → Word → Word → Word))
  | .amoAdd q d a b w => some (q, d, a, b, w, fun _ o x _ => ofN (o.toNat + x.toNat))
  | .amoAnd q d a b w => some (q, d, a, b, w, fun _ o x _ => o &&& x)
  | .amoOr q d a b w => some (q, d, a, b, w, fun _ o x _ => o ||| x)
  | .amoXor q d a b w => some (q, d, a, b, w, fun _ o x _ => o ^^^ x)
  | .amoMin q d a b w => some (q, d, a, b, w, fun n o x _ =>
      if (loaded true (n / 8) x.toNat).toInt < (loaded true (n / 8) o.toNat).toInt then x else o)
  | .amoMax q d a b w => some (q, d, a, b, w, fun n o x _ =>
      if (loaded true (n / 8) o.toNat).toInt < (loaded true (n / 8) x.toNat).toInt then x else o)
  | .amoMinn q d a b w => some (q, d, a, b, w, fun n o x _ => if x.toNat % 2 ^ n < o.toNat % 2 ^ n then x else o)
  | .amoMaxn q d a b w => some (q, d, a, b, w, fun n o x _ => if o.toNat % 2 ^ n < x.toNat % 2 ^ n then x else o)
  | .amoSwap q d a b w => some (q, d, a, b, w, fun _ _ x _ => x)
  | .amoCas q d a b w => some (q, d, a, b, w, fun n o x c => if c.toNat % 2 ^ n = o.toNat % 2 ^ n then x else o)
  | _ => none

/-- The registers an atomic reads: amo.cas its destination too (R314). -/
def amoSrcs (i : Instr) (a b d : Reg) : List Reg := match i with | .amoCas .. => [a, b, d] | _ => [a, b]

/-- Instructions that store nothing: register and control forms, loads, peeks, posted forms (whose bytes land by events), fences, cache operations, the
gathering and issue of vector commands, and reads of every kind. -/
def storesNothing (i : Instr) : Bool :=
  (integerForm i).isSome || (branchForm i).isSome || (loadForm i).isSome || (postedForm i).isSome || (ctlForm i).isSome ||
  match i with
  | .aadd .. | .j .. | .jX .. | .jr .. | .callr .. | .call .. | .ret .. | .lp .. | .ldPeek .. | .feRd .. | .rsv .. | .putAdd .. | .putSet ..
  | .putFill .. | .putNc .. | .bcopy .. | .fencePut .. | .fencePost .. | .fenceAll .. | .cpf .. | .cwb .. | .cfl .. | .latArm ..
  | .latWait .. | .latClr .. | .tid .. | .ctlRd .. | .gtime .. | .ffl .. | .pjRd .. | .pjClr .. | .tret .. | .tretX .. | .trap .. | .brk ..
  | .illegalInstruction .. => true
  | _ => false

end Sys2Proof.Claims

/-! ## Loads and stores -/

/-- R229, R262, R310: a load returns late the little-endian bytes at its effective address, extended as its size states; bytes outside C lines are
read at their home, those of a C line in the copy that the core's cache holds after the load (CachedLines). A displacement that leaves the offset
takes the access fault with reason 5. -/
def Sys2Proof.Claims.LoadResults : Prop :=
  ∀ i f, loadForm i = some f → ∀ s, QueuesReady [f.a] [] s →
    let x := operand [f.a] s f.a
    let s1 := operandState [f.a] s
    (∀ ea ps, effOf x f.disp = some ea → ReachesMemory s1 ea f.n needRd true true ps →
      let s2 := homeLoad (coreOf s.me) ps (atTurn ps s1)
      exec i s = .next (retire s f.len f.q (addLate f.d (loaded f.signed f.n (leValue (rdCached s2 (coreOf s.me) ps))) s2)) ∧
      ((∀ p ∈ ps, p.kind ≠ 2) → rdCached s2 (coreOf s.me) ps = rdPieces s1 ps)) ∧
    (effOf x f.disp = none → ∃ tval, TrapsAt i s f.len 2 5 tval)

/-- R311: a store writes the low bytes of its source, lowest first, at its effective address. -/
def Sys2Proof.Claims.StoreResults : Prop :=
  ∀ i f, storeForm i = some f → ∀ s, QueuesReady [f.a, f.r] [] s →
    let x := operand [f.a, f.r] s f.a
    let s1 := operandState [f.a, f.r] s
    (∀ ea ps, effOf x f.disp = some ea → ReachesMemory s1 ea f.n needWr true false ps →
      exec i s = .next (retire s f.len f.q
        (storePieces (coreOf s.me) ps (leBytesOf f.n (operand [f.a, f.r] s f.r).toNat) (atTurn ps s1)))) ∧
    (effOf x f.disp = none → ∃ tval, TrapsAt i s f.len 2 5 tval)

/-- What a store leaves alone: every byte outside the words it touches, but for the WAITERS word of a barrier object whose first word it writes while a
thread is parked there (R323); outside its own bytes too where no wait is listed at those words and no bar.wait is parked on them, and then no hart changes
but for its latch bits. The stored bytes read back. What log 9 fixes is the model's. -/
def Obligations.StoreFrame : Prop :=
  ∀ core ps data s,
    let t := storePieces core ps data s
    let parkedOn : Nat → Prop := fun key => ∃ h x p l d q, (getTh s h).wait = .barrier key x p l d q
    (∀ k, k / 8 ∉ wordsOf ps → (∀ key, parkedOn key → key / 8 ∈ wordsOf ps → k < key + 8 ∨ key + 16 ≤ k) → rdByte t k = rdByte s k) ∧
    ((∀ w ∈ wordsOf ps, spGet [] s.waits w = []) → (∀ key, parkedOn key → key / 8 ∉ wordsOf ps) →
      SameBytesOutside ps s t ∧ SameFullEmpty s t ∧ (∀ h, getTh t h = { getTh s h with latch := (getTh t h).latch }) ∧
      (∀ p, ps = [p] → data.length = p.len → rdRun t p.key p.len = data))

/-- Instructions that store nothing leave every byte of memory as it was, whichever way they end. -/
def Obligations.NonStoringFrame : Prop :=
  ∀ i, storesNothing i = true → ∀ s t, exec i s = .next t → SameBytes s t

/-- R83, R86 to R88: the checks on a global address in their order: an entry not allocated (reason 1), a stale generation (2), missing rights (3), a carry out
of the offset (5), and the node's limit (4). -/
def Sys2Proof.Claims.AccessChecks : Prop :=
  ∀ s w a n need, hdl a ≠ 0xFFFF →
    let e := (lookupKey s w.unit w.ctx (hdl a)).1
    let gen := (lookupKey s w.unit w.ctx (hdl a)).2
    (hdl a = 0 ∨ e.v = false → resolve s w a n need = .error ⟨2, 1, a⟩) ∧
    (hdl a ≠ 0 → e.v = true → e.peer = false →
      (e.gen ≠ gen → resolve s w a n need = .error ⟨2, 2, a⟩) ∧
      (e.gen = gen → rightsOk e w need = false → resolve s w a n need = .error ⟨2, 3, a⟩) ∧
      (e.gen = gen → rightsOk e w need = true → 2 ^ 48 < off a + n → ∃ v, resolve s w a n need = .error ⟨2, 5, v⟩) ∧
      (e.gen = gen → rightsOk e w need = true → off a + n ≤ 2 ^ 48 → e.limit < off a + n →
        resolve s w a n need = .error ⟨2, 4, mkAddr (hdl a) (max (off a) e.limit)⟩))

/-- R88, R247, R248: a load or store whose access fails a check takes the exact access fault that the check names, with no other effect. -/
def Sys2Proof.Claims.AccessFaults : Prop :=
  ∀ i (f : LoadForm ⊕ StoreForm), (∃ l, f = .inl l ∧ loadForm i = some l) ∨ (∃ l, f = .inr l ∧ storeForm i = some l) →
    let a := match f with | .inl l => l.a | .inr l => l.a
    let n := match f with | .inl l => l.n | .inr l => l.n
    let disp := match f with | .inl l => l.disp | .inr l => l.disp
    let srcs := match f with | .inl l => [l.a] | .inr l => [l.a, l.r]
    let need := match f with | .inl _ => needRd | .inr _ => needWr
    let len := match f with | .inl l => l.len | .inr l => l.len
    ∀ s, QueuesReady srcs [] s → ∀ ea info,
      let s1 := operandState srcs s
      let w := whoOf s1 s1.me
      effOf (operand srcs s a) disp = some ea → hostMiss s1 w.unit w.ctx (hdl ea) = none → resolve s1 w ea n need = .error info →
        TrapsAt i s len info.cause info.reason info.tval

/-! ## Full/empty words, atomics and reservations -/

/-- R313: ld.take of a full word returns it and empties it; ld.peek leaves it full; st.give of an empty word stores and fills it; st.fill stores and fills
whatever the word holds; fe.rd returns the full/empty bit; fe.clr clears it. -/
def Obligations.FullEmptyResults : Prop :=
  ∀ q d r a i s ea key ps,
    let len := (wordDisp i).2
    (QueuesReady [a] [] s →
      let x := operand [a] s a
      let s1 := operandState [a] s
      let s2 := atTurn ps s1
      ReachesWord s1 x i ea key ps →
      (feOf s1 key = true → ¬ Listed s1 key .take → holds s s.me key = false →
        exec (.ldTake q d a i) s = .next (retire s len q (addLate d (rdWord s1 key) (afterWrite s2 ps (setFe (homeStore (coreOf s.me) ps s2) key false))))) ∧
      (feOf s1 key = true → ¬ Listed s1 key .peek → holds s s.me key = false →
        exec (.ldPeek q d a i) s = .next (retire s len q (addLate d (rdWord s1 key) (homeStore (coreOf s.me) ps s2)))) ∧
      exec (.feRd q d a i) s = .next (retire s len q (addLate d (flag (feOf s1 key = true)) (homeStore (coreOf s.me) ps s2))) ∧
      exec (.feClr q a i) s = .next (retire s len q (afterWrite s2 ps (setFe (homeStore (coreOf s.me) ps s2) key false)))) ∧
    (QueuesReady [a, r] [] s →
      let x := operand [a, r] s a
      let data := leBytesOf 8 (operand [a, r] s r).toNat
      let s1 := operandState [a, r] s
      ReachesWord s1 x i ea key ps →
      (feOf s1 key = false → ¬ Listed s1 key .give → holds s s.me key = false →
        exec (.stGive q r a i) s = .next (retire s len q (addLate 0 0 (storeFe (coreOf s.me) ps data 1 (atTurn ps s1))))) ∧
      exec (.stFill q r a i) s = .next (retire s len q (storeFe (coreOf s.me) ps data 1 (atTurn ps s1))))

/-- R148, R150, R313: a take or peek of an empty word, and a give to a full one, joins the word's wait list behind those already listed and leaves
the rotation, its data captured and the word unchanged, an access that waited before a gang switch going on with the cycles it has waited, where its home has an entry free and serves no earlier retry, and going on past the
instruction is no travel fault (R174). -/
def Sys2Proof.Claims.FullEmptyWaits : Prop :=
  ∀ q d r a i s ea key ps,
    let len := (wordDisp i).2
    let roomAt : State → Prop := fun u =>
      (homeEntries u (cur u).part (key / 8)).1 < (homeEntries u (cur u).part (key / 8)).2 ∧ earliestRetry u (cur u).part (key / 8) = none
    let waited := match (cur s).wait with | .word _ _ _ _ _ _ => (cur s).wcount | _ => 0
    let joined : State → WaitOp → Reg → Word → State := fun u op d' data =>
      modTh (park (.word key op ea d' len q) { u with waits := spSet [] u.waits (key / 8) (spGet [] u.waits (key / 8) ++ [⟨u.me, op, data⟩]) })
        u.me fun th => { th with wcount := waited }
    seqFault s len = none → (∀ k o x i f n, (cur s).wait ≠ .retry k o x i f n) →
    (QueuesReady [a] [] s → ReachesWord (operandState [a] s) (operand [a] s a) i ea key ps → holds s s.me key = false →
      let s2 := ownPages (coreOf s.me) (atTurn ps (operandState [a] s)) ps
      feOf s key = false → roomAt s2 →
        exec (.ldTake q d a i) s = .next (joined s2 .take d 0) ∧ exec (.ldPeek q d a i) s = .next (joined s2 .peek d 0)) ∧
    (QueuesReady [a, r] [] s → ReachesWord (operandState [a, r] s) (operand [a, r] s a) i ea key ps → holds s s.me key = false →
      let s2 := ownPages (coreOf s.me) (atTurn ps (operandState [a, r] s)) ps
      feOf s key = true → roomAt s2 → exec (.stGive q r a i) s = .next (joined s2 .give 0 (operand [a, r] s r)))

/-- R248, R309: a full/empty, reservation or atomic form whose address is not a multiple of its width takes the misalignment trap with TVAL the address. -/
def Sys2Proof.Claims.MisalignedWords : Prop :=
  ∀ q d r a i s,
    let len := (wordDisp i).2
    (∀ x ea, QueuesReady [a] [] s → x = operand [a] s a → effOf x (wordDisp i).1 = some ea → ea.toNat % 8 ≠ 0 →
      TrapsAt (.ldTake q d a i) s len 3 0 ea ∧ TrapsAt (.ldPeek q d a i) s len 3 0 ea ∧ TrapsAt (.feRd q d a i) s len 3 0 ea ∧
      TrapsAt (.feClr q a i) s len 3 0 ea ∧ TrapsAt (.rsv q d a i) s len 3 0 ea ∧ TrapsAt (.rlsN q a i) s len 3 0 ea) ∧
    (∀ x ea, QueuesReady [a, r] [] s → x = operand [a, r] s a → effOf x (wordDisp i).1 = some ea → ea.toNat % 8 ≠ 0 →
      TrapsAt (.stGive q r a i) s len 3 0 ea ∧ TrapsAt (.stFill q r a i) s len 3 0 ea ∧ TrapsAt (.rls q r a i) s len 3 0 ea) ∧
    (∀ j g, amoForm j = some g → ∀ x, QueuesReady (amoSrcs j g.2.2.1 g.2.2.2.1 g.2.1) [] s →
      x = operand (amoSrcs j g.2.2.1 g.2.2.2.1 g.2.1) s g.2.2.1 → x.toNat % (if g.2.2.2.2.1 then 4 else 8) ≠ 0 → TrapsAt j s 4 3 0 x)

/-- R314: an atomic reads the old value, stores the new one at the form's width and returns the old one late, sign-extended from that width. What logs 9, 12 fix is the model's. -/
def Obligations.AtomicResults : Prop :=
  ∀ i q d a b w f, amoForm i = some (q, d, a, b, w, f) → ∀ s ps,
    let srcs := amoSrcs i a b d
    let s1 := operandState srcs s
    let ea := operand srcs s a
    let n := if w then 4 else 8
    QueuesReady srcs [] s → ea.toNat % n = 0 → ReachesMemory s1 ea n needRw true false ps →
      let old := loaded true n (leValue (rdPieces s1 ps))
      exec i s = .next (retire s 4 q (addLate d old
        (storePieces (coreOf s.me) ps (leBytesOf n (f (8 * n) old (operand srcs s b) (operand srcs s d)).toNat) (atTurn ps s1))))

/-- R315: rsv makes the thread the word's holder and returns the word late; rls writes the word it holds and releases it, rls.n releases it as it stands; the next
queued requester is forwarded it. Of a word it does not hold, or a second hold, each is the access fault with reason 3 (R316). What log 12 fixes is the model's. -/
def Obligations.ReservationResults : Prop :=
  ∀ q d r a i s ea key ps,
    let len := (wordDisp i).2
    (QueuesReady [a] [] s → ReachesWord (operandState [a] s) (operand [a] s a) i ea key ps →
      let s2 := atTurn ps (operandState [a] s)
      ((cur s).hold = none →
        exec (.rsv q d a i) s = .next (retire s len q (addLate d (rdWord s key)
          (modTh { homeStore (coreOf s.me) ps s2 with
              resv := spSet Resv.free s2.resv (key / 8) { spGet Resv.free s2.resv (key / 8) with holder := some s.me, dirty := false } }
            s.me fun th => { th with hold := some (key / 8, 0), holdAt := ea })))) ∧
      ((cur s).hold ≠ none → TrapsAt (.rsv q d a i) s len 2 3 ea) ∧
      (holds s s.me key = true → exec (.rlsN q a i) s = .next (retire s len q (releaseHold s.me (key / 8) s2))) ∧
      (holds s s.me key = false → TrapsAt (.rlsN q a i) s len 2 3 ea)) ∧
    (QueuesReady [a, r] [] s → ReachesWord (operandState [a, r] s) (operand [a, r] s a) i ea key ps →
      (holds s s.me key = true → exec (.rls q r a i) s = .next (retire s len q (releaseHold s.me (key / 8)
        (storePieces (coreOf s.me) ps (leBytesOf 8 (operand [a, r] s r).toNat) (atTurn ps (operandState [a, r] s)))))) ∧
      (holds s s.me key = false → TrapsAt (.rls q r a i) s len 2 3 ea))

/-- R253, R315: an access to a word that another thread holds parks in the reservation wait, for which its watchdog names the word, and joins the word's queue
once; its pc stays. -/
def Sys2Proof.Claims.ReservationWaits : Prop :=
  ∀ i f, loadForm i = some f → ∀ s ea ps word, QueuesReady [f.a] [] s →
    let s1 := operandState [f.a] s
    let w := whoOf s1 s1.me
    seqFault s f.len = none → effOf (operand [f.a] s f.a) f.disp = some ea → hostMiss s1 w.unit w.ctx (hdl ea) = none →
      resolve s1 w ea f.n needRd = .ok (.mem ps) → underTest s1 ps = false → (leavesCluster s1 s1.me true ps = false ∨ hartMoves s1 s1.me = true) →
      migratesTo s1 s1.me ea = none → resvBlocked s1 s1.me (wordsOf ps) = some word →
      ∃ t, exec i s = .next t ∧ (cur t).wait = .resv word (wordAddr ea ps word) ∧
        (∀ p, ps = [p] → p.key % 8 = 0 → wordAddr ea ps word = offWrap ea (8 * word - p.key)) ∧ (cur t).pc = (cur s).pc ∧ s.me ∈ (spGet Resv.free t.resv word).queue ∧ SameBytes s t

/-- R262, R310, R311: the value a load returns, and the bytes a store writes. What log 9 fixes is the model's. -/
def Obligations.LoadStoreResults : Prop := LoadResults ∧ StoreResults

/-- R83, R86 to R88, R247, R248, R309: the checks on an address in their order, and the traps of an access that fails one or is misaligned. What log 41 fixes is the model's. -/
def Obligations.AccessTraps : Prop := AccessChecks ∧ AccessFaults ∧ MisalignedWords

/-- R148, R313, R315: waits on a full/empty bit, and on a word that another thread holds. What logs 9, 12, 40 fix is the model's. -/
def Obligations.WordWaits : Prop := FullEmptyWaits ∧ ReservationWaits

namespace Sys2Proof.Claims

/-- A put: S bit, the counter's action (0 none, 1 add, 2 set, 3 fill), the counter's register pair, destination and source registers. -/
structure PutForm where
  q      : Bool
  action : Nat
  d      : Reg
  a      : Reg
  b      : Reg

/-- The puts (R317). -/
def putForm : Instr → Option PutForm
  | .putAdd q d a b => some ⟨q, 1, d, a, b⟩
  | .putSet q d a b => some ⟨q, 2, d, a, b⟩
  | .putFill q d a b => some ⟨q, 3, d, a, b⟩
  | .putNc q a b => some ⟨q, 0, 0, a, b⟩
  | _ => none

/-- The registers a put reads. -/
def PutForm.srcs (f : PutForm) : List Reg := if f.action = 0 then [f.a, f.b] else [f.a, f.b, f.d, f.d + 1]

/-- An address of the issuing thread whose node record is here passes the checks of R88 at this place. -/
def Resolves (s : State) (a : Word) (n : Nat) (need : Need) (p : Place) : Prop :=
  hostMiss s (whoOf s s.me).unit (whoOf s s.me).ctx (hdl a) = none ∧ resolve s (whoOf s s.me) a n need = .ok p

/-- The parts of n bytes at an offset that end at multiples of 512 bytes: place in the data and length (R33). -/
def segmentsOf (o n : Nat) : List (Nat × Nat) := cuts 512 (n + 1) o 0 n

/-- fence.put, fence.post and fence.all with the kinds they cover (R321). -/
def fenceForm : Instr → Option (Bool × Bool × Bool)
  | .fencePut q => some (q, true, false)
  | .fencePost q => some (q, false, true)
  | .fenceAll q => some (q, true, true)
  | _ => none

/-- A barrier object in a core's own part or cluster memory, at a multiple of 16, is reached through handle 0xFFFF at once (R324). -/
def ReachesBarrier (s : State) (a : Word) (ps : List Piece) : Prop :=
  let w := whoOf s s.me
  a.toNat % 16 = 0 ∧ hdl a = 0xFFFF ∧
    (localLevel s w.core (rotOf s w.part w.tenant).1 (off a) = 1 ∨ localLevel s w.core (rotOf s w.part w.tenant).1 (off a) = 4) ∧
    localRuns s w.core (rotOf s w.part w.tenant).1 (rotOf s w.part w.tenant).2 17 (off a) 16 = .ok ps ∧
    underTest s ps = false ∧ (leavesCluster s s.me true ps = false ∨ hartMoves s s.me = true) ∧ resvBlocked s s.me (wordsOf ps) = none ∧ refusedPiece s (cur s).part ps = none ∧ badWord s ps = none

/-- The object's fields in its two words (R323). -/
def barFields (w0 w1 : Nat) : BarObj :=
  { waiters := w1 % 2 ^ 16, valid := w0 / 2 ^ 39 % 2 == 1, overrun := w0 / 2 ^ 38 % 2 == 1, lastfl := w0 / 2 ^ 33 % 2 ^ 5,
    curfl := w0 / 2 ^ 28 % 2 ^ 5, phase := w0 / 2 ^ 24 % 2 ^ 4, expect := w0 / 2 ^ 12 % 2 ^ 12, arrived := w0 % 2 ^ 12 }

/-- The object at pieces of 16 bytes. -/
def barRead (s : State) (ps : List Piece) : BarObj :=
  barFields (leValue ((rdPieces s ps).take 8)) (leValue (((rdPieces s ps).drop 8).take 8))

/-- The flags NV, DZ, OF, UF and NX of a thread (R193, R255). -/
def thFlags (th : Thread) : Nat := th.thst.toNat / 2 ^ 6 % 2 ^ 5

/-- The object after an arrival of count c with flags fl that does not overrun, and x[d]: the phase, with bit 8 when the arrival completes it (R324). -/
def arrived (o : BarObj) (c fl : Nat) : BarObj × Word :=
  if o.arrived + c = o.expect then
    ({ o with arrived := 0, curfl := 0, lastfl := o.curfl ||| fl, phase := (o.phase + 1) % 16 }, ofN (o.phase + 2 ^ 8))
  else ({ o with arrived := o.arrived + c, curfl := o.curfl ||| fl }, ofN o.phase)

/-- The read time of a C line after a load or store at its home (R229). -/
def newReadTime (c : CoreSt) (h : LineT) : Nat := max h.rts (max (h.wts + h.ll) (c.pts + h.ll))

end Sys2Proof.Claims

/-! ## Puts, posted stores and copies -/

/-- R33, R317, R318: a put whose addresses pass takes the lowest free journal entry, captures its source bytes at issue, and sends them in segments that end at
multiples of 512 bytes; where both addresses pass, the counter register of a counted put must be a multiple of 8. -/
def Sys2Proof.Claims.PutIssues : Prop :=
  ∀ i f, putForm i = some f → ∀ s p sp e, QueuesReady f.srcs [] s →
    let x := operand f.srcs s
    let s1 := operandState f.srcs s
    let dst := x f.a
    let n := (x f.b).toNat / 2 ^ 32 % 2 ^ 12 + 1
    let src := mkAddr 0xFFFF ((x f.b).toNat % 2 ^ 32)
    let w := whoOf s1 s1.me
    let rot := rotOf s1 w.part w.tenant
    let level := localLevel s1 w.core rot.1
    let core := coreOf s.me
    (f.action ≠ 0 → (∃ pc, Resolves s1 (x f.d) 8 needRw pc) → Resolves s1 dst n needWr p → (x f.d).toNat % 8 ≠ 0 → TrapsAt i s 4 3 0 (x f.d)) ∧
    ((f.action ≠ 0 → (x f.d).toNat % 8 = 0 ∧ ∃ pc, Resolves s1 (x f.d) 8 needRw pc) → Resolves s1 dst n needWr p → peerOf p = none →
      level (off src) ≠ 0 → level (off src) ≠ 3 → level (off src + n - 1) = level (off src) →
      localRuns s1 w.core rot.1 rot.2 (n + 1) (off src) n = .ok sp → resvBlocked s1 s1.me (wordsOf sp) = none → badWord s1 sp = none →
      freeEntry s1 core = some e →
      ∃ t, exec i s = .next (retire s 4 f.q t) ∧ SameBytes s t ∧
        (getJ t core e).opk = 0 ∧ (getJ t core e).addr = dst ∧ (getJ t core e).size = n ∧ (getJ t core e).action = f.action ∧
        (getJ t core e).uid = (cur s).uid ∧ (getJ t core e).left = (segmentsOf (off dst) n).length ∧
        (f.action ≠ 0 → (getJ t core e).caddr = x f.d ∧ (getJ t core e).value = x (f.d + 1)) ∧
        ∀ g ∈ segmentsOf (off dst) n, Instr.putSegmentLand (packetOf core e (getJ t core e)) (getJ t core e).addr g.1 (((rdPieces s1 sp).drop g.1).take g.2) ∈ t.pending)

/-- R250, R319: a posted store takes a journal entry with its bytes captured and completes at issue; R320: a block copy of no bytes does nothing, one of more than 2^20
bytes takes the access fault with reason 4, and any other takes an entry and starts with its first line. With no free entry each parks. -/
def Sys2Proof.Claims.PostedIssues : Prop :=
  (∀ i f, postedForm i = some f → ∀ s ea p, QueuesReady [f.a, f.r] [] s →
    let x := operand [f.a, f.r] s
    let s1 := operandState [f.a, f.r] s
    let core := coreOf s.me
    effOf (x f.a) f.disp = some ea → Resolves s1 ea f.n needWr p → peerOf p = none →
      (∀ e, freeEntry s1 core = some e → ∃ t, exec i s = .next (retire s f.len f.q t) ∧ SameBytes s t ∧
        (getJ t core e).opk = 2 ∧ (getJ t core e).addr = ea ∧ (getJ t core e).size = f.n ∧ (getJ t core e).left = 1 ∧
        Instr.putSegmentLand (packetOf core e (getJ t core e)) (getJ t core e).addr 0 (leBytesOf f.n (x f.r).toNat) ∈ t.pending) ∧
      (freeEntry s1 core = none → exec i s = .next (park .journal s))) ∧
  (∀ q d a b s p1 p2, QueuesReady [a, b, d] [] s →
    let x := operand [a, b, d] s
    let s1 := operandState [a, b, d] s
    let core := coreOf s.me
    let len := (x b).toNat
    (len = 0 → exec (.bcopy q d a b) s = .next (retire s 4 q s1)) ∧
    (2 ^ 20 < len → TrapsAt (.bcopy q d a b) s 4 2 4 (x a)) ∧
    (0 < len → len ≤ 2 ^ 20 → Resolves s1 (x a) len needRd p1 → Resolves s1 (x d) len needWr p2 →
      ∀ e, freeEntry s1 core = some e → ∃ t, exec (.bcopy q d a b) s = .next (retire s 4 q t) ∧ SameBytes s t ∧
        (getJ t core e).opk = 3 ∧ (getJ t core e).addr = x d ∧ (getJ t core e).src = x a ∧ (getJ t core e).left = len ∧ (getJ t core e).done = 0 ∧
        Instr.putSegmentLand (packetOf core e (getJ t core e)) (getJ t core e).addr 0 [] ∈ t.pending))

/-- R33, R34, R168, R235, R250, R319: a segment or posted store lands its bytes at its destination line by line, whatever has become of its entry, and is answered
once its last line has landed, or with a refusal; the last answer of an uncounted entry acknowledges it, of a counted put acts on its counter first, of a block
copy's line brings its next line; an acknowledgement frees the entry, and a refusal keeps it with its code, address and time while its thread lives. An answer
whose entry is another's by now changes no entry. -/
def Sys2Proof.Claims.PostedLandings : Prop :=
  ∀ (p : Packet) s,
    let j := getJ s p.core p.entry
    let own := entryIs s p.core p.entry p.order
    (∀ (dst : Word) (o : Nat) data, p.opk ≠ 3 → peerVia s p.ctx p.node dst = none →
      let a := offWrap dst o
      let n := lineLen s p.node a data.length
      let made := passTag (entryTag p.core p.entry) (segmentWords s p dst o data)
      ((getNode s p.node).kind ≠ 2 → n = min data.length (64 - off a % 64)) ∧
      (∀ ps whole, postedPlace s (packetWho s p) p.node p.gen a data.length needWr = .ok whole →
        postedPlace s (packetWho s p) p.node p.gen a n needWr = .ok (.mem ps) →
        exec (.putSegmentLand p dst o data) s = .next (made (push
          (if n < data.length then .putSegmentLand p dst (o + n) (data.drop n) else .putSegmentAck p (segmentBytesTo dst o data) none)
          (storeFe p.core ps (data.take n) 0 s)))) ∧
      (∀ r, postedPlace s (packetWho s p) p.node p.gen a data.length needWr = .error r →
        exec (.putSegmentLand p dst o data) s = .next (made (push (.putSegmentAck p data.length (some ⟨r, a⟩)) s)))) ∧
    (∀ n, let c := if p.opk = 0 then countLanded p.uid p.ctx n s else s
      (own = false → exec (.putSegmentAck p n none) s = .next c) ∧
      (own = true → p.opk = 3 → j.left ≠ 0 → exec (.putSegmentAck p n none) s =
        .next (push (if j.done + n < j.left then .putSegmentLand p j.addr (j.done + n) [] else .postedAck p.core ⟨p.entry, p.order⟩ none)
          (setJ s p.core p.entry { j with done := j.done + n }))) ∧
      (own = true → p.opk ≠ 3 → 1 < j.left → exec (.putSegmentAck p n none) s = .next (setJ c p.core p.entry { j with left := j.left - 1 })) ∧
      (own = true → p.opk ≠ 3 → j.left = 1 → j.ref = false → (j.opk ≠ 0 ∨ j.action = 0) → exec (.putSegmentAck p n none) s =
        .next (push (.postedAck p.core ⟨p.entry, p.order⟩ none) (setJ c p.core p.entry { j with left := 0 }))) ∧
      (own = true → p.opk ≠ 3 → j.left = 1 → j.ref = false → j.opk = 0 → j.action ≠ 0 → exec (.putSegmentAck p n none) s =
        .next (push (.putCounterAction p.core ⟨p.entry, p.order⟩) (setJ c p.core p.entry { j with left := 0 })))) ∧
    (own = true → j.ref = false → launchEnds (setJ s p.core p.entry JEnt.free) j.launch = false →
      exec (.postedAck p.core ⟨p.entry, p.order⟩ none) s = .next (setJ s p.core p.entry JEnt.free)) ∧
    (own = true → j.ref = false → ∀ f, let refused := { j with ref := true, code := f.code, addr := f.addr, time := gtime s }
      (lives s j.uid = false → launchEnds (setJ s p.core p.entry JEnt.free) j.launch = false →
        exec (.postedAck p.core ⟨p.entry, p.order⟩ (some f)) s = .next (setJ s p.core p.entry JEnt.free)) ∧
      (lives s j.uid = true → hartOf s j.uid = none →
        let kept := setJ s p.core p.entry refused
        launchEnds kept j.launch = false → exec (.postedAck p.core ⟨p.entry, p.order⟩ (some f)) s = .next kept) ∧
      (∀ t, hartOf s j.uid = some t → (getTh s t).pjbase = 0 →
        let kept := setJ s p.core p.entry { refused with recd := some none }
        launchEnds kept j.launch = false → ∃ u, exec (.postedAck p.core ⟨p.entry, p.order⟩ (some f)) s = .next u ∧
          getJ u p.core p.entry = { refused with recd := some none } ∧ SameBytes s u)) ∧
    (own = true → j.ref = true → ∀ f, exec (.postedAck p.core ⟨p.entry, p.order⟩ (some f)) s = .next s)

/-- R33: the counter action of a put at its counter's home: add adds the value to the counter, set and fill replace it, and fill also sets the
full/empty bit; the action is acknowledged. -/
def Sys2Proof.Claims.CounterAction : Prop :=
  ∀ core e s ps,
    let j := getJ s core e
    let j1 := { j with opk := 1, gen := j.cgen, node := j.cnode, size := 8 }
    j.opk ≤ 4 → j.ref = false → (1 ≤ j.action ∧ j.action ≤ 3) →
      peerVia s j.ctx j.cnode j.caddr = none →
      postedPlace s (packetWho s (packetOf core e j)) j.cnode j.cgen j.caddr 8 needRw = .ok (.mem ps) → (j.action = 1 → badWord s ps = none) →
      let old := leValue (rdPieces s ps)
      let new := if j.action = 1 then (old + j.value.toNat) % 2 ^ 64 else j.value.toNat
      exec (.putCounterAction core ⟨e, j.order⟩) s = .next (push (.postedAck core ⟨e, j.order⟩ none)
        (passTag (entryTag core e) (wordsOf (postedPieces s (packetWho s (packetOf core e j)) j.cnode j.cgen j.caddr 8 needRw))
          (storeFe core ps (leBytesOf 8 new) (if j.action = 3 then 1 else 0) (setJ s core e j1))))

/-- R321: a fence completes when no put, or no posted store, copy or peer store, of the thread is unanswered, and waits until then. -/
def Sys2Proof.Claims.FenceResults : Prop :=
  ∀ i q put post, fenceForm i = some (q, put, post) → ∀ s,
    let open_ := ∃ e ∈ s.journal, e.2.uid = (cur s).uid ∧ e.2.ref = false ∧
      ((put = true ∧ e.2.opk ≤ 1) ∨ (post = true ∧ 2 ≤ e.2.opk ∧ e.2.opk ≤ 4))
    (¬ open_ → exec i s = .next (retire s 4 q (catchUp (coreOf s.me) s))) ∧
    (open_ → seqFault s 4 = none → exec i s = .next (park (.fence put post) s))

/-- R322: the cache operations complete without a trap whatever their address, and change no byte; cpf takes a lease on a line that may be read; cfl drops the line from the core's L1 and its quadrant's L2, and cwb drops nothing. -/
def Sys2Proof.Claims.CacheOperations : Prop :=
  ∀ q a s, QueuesReady [a] [] s →
    let s1 := operandState [a] s
    (∃ t, exec (.cpf q a) s = .next (retire s 4 q t) ∧ SameBytes s t ∧ SameFullEmpty s t ∧ (∀ h, getTh t h = getTh s1 h) ∧
      t = (cLines (cacheLine s1 needRd (operand [a] s a))).foldl (loadTimes (coreOf s.me))
        (ownPages (coreOf s.me) s1 (cacheLine s1 needRd (operand [a] s a)))) ∧
    exec (.cwb q a) s = .next (retire s 4 q s1) ∧
    ∃ t, exec (.cfl q a) s = .next (retire s 4 q t) ∧ SameBytes s t ∧
      ∀ line ∈ cLines (cacheLine s1 ⟨false, false, false⟩ (operand [a] s a)), spGet CachedLine.none (getCore t (coreOf s.me)).leases line = CachedLine.none ∧
        spGet CachedLine.none t.l2 (l2Key (coreOf s.me) line) = CachedLine.none

/-! ## Barriers and latches -/

/-- R323, R324: bar.init writes a valid object that expects x[b][11:0] arrivals in phase 0, and traps for an expectation of 0; an arrival adds its count and
the thread's flags, and the one that completes the phase starts the next; a count of 0 or past the expectation, or an object that is not valid, overruns. -/
def Sys2Proof.Claims.BarrierArrivals : Prop :=
  ∀ q d a b s ps, QueuesReady [a, b] [d] s →
    let x := operand [a, b] s a
    let c := (operand [a, b] s b).toNat % 2 ^ 12
    let s1 := operandState [a, b] s
    ReachesBarrier s1 x ps →
    let o := barRead s ps
    (c ≠ 0 → ¬ (o.valid = true ∧ o.waiters ≠ 0) →
      exec (.barInit q a b) s = .next (retire s 4 q (storePieces (coreOf s.me) ps (leBytesOf 8 (2 ^ 39 + c * 2 ^ 12) ++ leBytesOf 8 0) (atTurn ps s1)))) ∧
    (c = 0 ∨ (o.valid = true ∧ o.waiters ≠ 0) → TrapsAt (.barInit q a b) s 4 5 0 x) ∧
    (o.valid = true → c ≠ 0 → o.arrived + c ≤ o.expect →
      ∀ i u, ((i = .barArr q d a b ∧ u = s) ∨ (i = .barArrf q d a b ∧ outstanding s (cur s).uid true true = false ∧ u = catchUp (coreOf s.me) s)) →
        exec i s = .next (retire u 4 q (wr s.me d (arrived o c (thFlags (cur s))).2
          (barPut (coreOf s.me) ps (arrived o c (thFlags (cur s))).1 (atTurn ps (operandState [a, b] u)))))) ∧
    (outstanding s (cur s).uid true true = true → seqFault s 4 = none → exec (.barArrf q d a b) s = .next (park (.fence true true) s)) ∧
    (o.valid = false ∨ c = 0 → TrapsAt (.barArr q d a b) s 4 5 0 x) ∧
    (o.valid = true → c ≠ 0 → o.expect < o.arrived + c → seqFault s 4 = none →
      let marked := barPut (coreOf s.me) ps { o with overrun := true } s
      exec (.barArr q d a b) s = .next (enterTrap s.me ⟨5, 0, x⟩ false 0 false (cur marked).pc marked))

/-- R255, R324: bar.wait returns late the last flags and the present phase, its flags ORed into THST, when the phase is not the one it names; with no cycle left it
returns with bit 63 set; else it waits, counted among the object's waiters. A parked one whose object has left the phase leaves the waiters and returns in the
same way, as one does, with bit 63 set, at its timeout. -/
def Sys2Proof.Claims.BarrierWaits : Prop :=
  (∀ q d a b s ps, QueuesReady [a, b] [] s →
    let x := operand [a, b] s a
    let phase := (operand [a, b] s b).toNat % 2 ^ 4
    let left := (operand [a, b] s b).toNat / 2 ^ 32
    let s1 := operandState [a, b] s
    ReachesBarrier s1 x ps →
    let o := barRead s ps
    let s2 := atTurn ps s1
    o.valid = true →
    (o.phase ≠ phase → exec (.barWait q d a b) s = .next (retire s 4 q (addLate d (ofN (o.lastfl + 2 ^ 8 * o.phase))
      (modTh (catchUp (coreOf s.me) s2) s.me fun th => { th with thst := th.thst ||| ofN (o.lastfl * 2 ^ 6) })))) ∧
    (o.phase = phase → left = 0 → exec (.barWait q d a b) s = .next (retire s 4 q (addLate d (ofN (2 ^ 63 + 2 ^ 8 * o.phase)) s2))) ∧
    (o.phase = phase → left ≠ 0 → seqFault s 4 = none → ∃ key, exec (.barWait q d a b) s =
      .next (park (.barrier key x phase left d q) (barPut (coreOf s.me) ps { o with waiters := o.waiters + 1 } s2)))) ∧
  (∀ t key x p left d q s, (getTh s t).wait = .barrier key x p left d q →
    let o := barRead s [⟨key, 16, 3, 0, 0⟩]
    barRead (lessWaiter key s) [⟨key, 16, 3, 0, 0⟩] = { o with waiters := o.waiters - 1 } ∧
    (o.phase = p → releaseWaiter s t = s) ∧
    (o.phase ≠ p → releaseWaiter s t = asHart t (fun u => retire u 4 q (addLate d (ofN (o.lastfl + 2 ^ 8 * o.phase))
      (modTh u t fun th => { th with thst := th.thst ||| ofN (o.lastfl * 2 ^ 6) }))) (catchUp (coreOf t) (lessWaiter key s))) ∧
    (left = 0 → o.phase ≠ p → exec (.barrierWaitTimeout t) s = .next (releaseWaiter s t)) ∧
    (left = 0 → o.phase = p → exec (.barrierWaitTimeout t) s =
      .next (asHart t (fun u => retire u 4 q (addLate d (ofN (2 ^ 63 + 2 ^ 8 * p)) (lessWaiter key u))) s)) ∧
    (left ≠ 0 → exec (.barrierWaitTimeout t) s = .next s))

/-- R151, R152, R308, R325: lat.arm registers the line of its address, in memory, of a node's words or of a mapping table, answering 0, or answers 1 when the home is full; lat.clr withdraws an entry and clears its bits; lat.wait
returns the reasons at once or waits, and returns TMO when no cycle is left. -/
def Sys2Proof.Claims.LatchResults : Prop :=
  ∀ q d a (i : BitVec 2) s,
    (∀ p line, QueuesReady [a] [] s →
      let x := operand [a] s a
      let s1 := operandState [a] s
      let s2 := disarm s.me i.toNat (meet (coreOf s.me) s1)
      Resolves s1 x 1 needRd p → latchLine s1 p = some line → placeRefused s1 p = false → (onFabric p = false ∨ hartMoves s1 s.me = true) →
      ((latchHome s2 (cur s2).part line).1 < (latchHome s2 (cur s2).part line).2 →
        exec (.latArm q d a i) s = .next (retire s 4 q (addLate d 0
          (modTh { s2 with latches := s2.latches ++ [⟨line, s.me, i.toNat⟩] } s.me fun th =>
            { th with latch := spSet 0 th.latch i.toNat (ofN (x.toNat / 64 * 64 + 2)) })))) ∧
      ((latchHome s2 (cur s2).part line).2 ≤ (latchHome s2 (cur s2).part line).1 →
        exec (.latArm q d a i) s = .next (retire s 4 q (addLate d 1 s2)))) ∧
    (∃ t, exec (.latClr q i) s = .next (retire s 4 q t) ∧ (spGet 0 (cur t).latch i.toNat).toNat % 4 = 0 ∧
      (∀ k, k ≠ i.toNat → spGet 0 (cur t).latch k = spGet 0 (cur s).latch k) ∧ ∀ r ∈ t.latches, ¬ (r.t = s.me ∧ r.entry = i.toNat)) ∧
    ((∀ l e r, (cur s).wait ≠ .latch l e r) → QueuesReady [a] [] s →
      let s1 := operandState [a] s
      (latchReason s1 s.me ≠ 0 → exec (.latWait q d a) s = .next (latchReturn 4 q d (latchReason s1 s.me) s s1)) ∧
      (latchReason s1 s.me = 0 → operand [a] s a = 0 → exec (.latWait q d a) s = .next (latchReturn 4 q d 16 s s1)) ∧
      (latchReason s1 s.me = 0 → operand [a] s a ≠ 0 → seqFault s 4 = none → exec (.latWait q d a) s = .next (park (.latch (operand [a] s a).toNat d q) s1))) ∧
    (∀ t e r, (getTh s t).wait = .latch 0 e r →
      exec (.latchWaitTimeout t) s = .next (asHart t (fun u => latchReturn 4 r e (latchReason u t + 16) u u) s))

/-! ## Events at the homes of words and lines -/

/-- R229, R233: a core's load of a C line at its home extends the read lease, and a renewal of an unchanged line doubles the lease length up to 4,096; in bypass mode
with no miss register free it reads at MRTS and keeps nothing; a store sets a new write time past
every lease and the length back to 8; each moves the core's time on and leaves the core and its quadrant's L2 with the line's bytes. R231, R233: an evicted line gives its times to its
slice, and a filled one takes the slice's. R229, R232: a load reads the core's own copy while the lease lasts, else its quadrant's L2 copy while that lease lasts, else asks the home; what it finds is the copy
then held, and a byte outside C lines is the home's. -/
def Sys2Proof.Claims.LineTimes : Prop :=
  ∀ core line s, core < 1024 →
    let c := getCore s core
    let h := lineTimes s line
    let slice := lineSlice s line
    let own := spGet CachedLine.none c.leases line
    let near := spGet CachedLine.none s.l2 (l2Key core line)
    let good := fun (e : CachedLine) => 0 < e.lease ∧ c.pts ≤ e.lease
    let sl := spGet Slice.reset s.slices slice
    let holds : State → Nat → Nat → Nat → Prop := fun t pts lease wts =>
      getCore t core = { c with pts := pts, leases := spSet CachedLine.none c.leases line ⟨lease, wts, lineBytes s line⟩ } ∧
      spGet CachedLine.none t.l2 (l2Key core line) = ⟨lease, wts, lineBytes s line⟩
    let bypass := missesFull s line = true ∧ Config.llcBypass (slice / 8) = true
    (bypass → ∀ renew, ∃ t, exec (.homeLoad core line renew) s = .next t ∧ t.lines = s.lines ∧ SameBytes s t ∧
      getCore t core = { c with pts := max c.pts sl.mrts, leases := spErase line c.leases } ∧
      spGet CachedLine.none t.l2 (l2Key core line) = CachedLine.none) ∧
    (¬ bypass → ∀ renew, ∃ t, exec (.homeLoad core line renew) s = .next t ∧
      spGet LineT.reset t.lines line = ⟨h.wts, newReadTime c h, if renew = true ∧ 0 < own.lease ∧ own.wts = h.wts then min (2 * h.ll) 4096 else h.ll⟩ ∧
      holds t (max c.pts h.wts) (newReadTime c h) h.wts ∧
      (∀ k, k ≠ line → spGet LineT.reset t.lines k = spGet LineT.reset s.lines k) ∧ SameBytes s t) ∧
    (∃ t, exec (.homeStore core line) s = .next t ∧
      spGet LineT.reset t.lines line = ⟨max c.pts (h.rts + 1), max c.pts (h.rts + 1), 8⟩ ∧
      holds t (max c.pts (h.rts + 1)) (max c.pts (h.rts + 1)) (max c.pts (h.rts + 1)) ∧ SameBytes s t) ∧
    (∃ t, exec (.llcEviction line) s = .next t ∧ spGet LineT.reset t.lines line = LineT.reset ∧
      spGet Slice.reset t.slices slice = { sl with mwts := max sl.mwts (spGet LineT.reset s.lines line).wts, mrts := max sl.mrts (spGet LineT.reset s.lines line).rts } ∧ SameBytes s t) ∧
    (∃ t, exec (.llcFillReturn line) s = .next t ∧
      spGet LineT.reset t.lines line = (if spGet LineT.reset s.lines line = LineT.reset then ⟨sl.mwts, sl.mrts, 8⟩ else spGet LineT.reset s.lines line) ∧
      line ∉ (spGet Slice.reset t.slices slice).misses ∧ SameBytes s t) ∧
    exec (.ptsTick core) s = .next (setCore s core { c with pts := c.pts + 1 }) ∧
    (good own → loadTimes core s line = s) ∧
    (¬ good own → good near → loadTimes core s line = setCore s core { c with pts := max c.pts near.wts, leases := spSet CachedLine.none c.leases line near }) ∧
    (¬ good own → ¬ good near → ∃ renew, loadTimes core s line = homeFill core renew s line ∧
      (renew = true ↔ 0 < own.lease ∧ own.wts = (lineTimes s line).wts)) ∧
    (∀ k, own.data ≠ [] → k < 64 → cachedByte s core 2 (64 * line + k) = own.data.getD k 0) ∧
    (∀ k, own.data = [] → k < 64 → cachedByte s core 2 (64 * line + k) = rdByte s (64 * line + k)) ∧
    (∀ kind k, kind ≠ 2 → cachedByte s core kind k = rdByte s k) ∧
    SameBytes s (loadTimes core s line)

/-- R148, R149, R314, R315: a forwarded word goes to the first thread of its queue; a thread refused by a full wait list polls again when its interval has passed. -/
def Sys2Proof.Claims.WordQueues : Prop :=
  (∀ key s t rest, let r := spGet Resv.free s.resv key
    r.queue = t :: rest → r.holder = none → r.granted = none →
      exec (.reservationForward key) s = .next { s with resv := spSet Resv.free s.resv key { r with granted := some t, queue := rest } }) ∧
  (∀ t s k op a i f due, (getTh s t).wait = .retry k op a i f due →
    (due ≤ (getTh s t).wcount → exec (.waitRetryPoll t) s = .next (setTh s t { getTh s t with wait := .retry k op a i f 0 })) ∧
    ((getTh s t).wcount < due → exec (.waitRetryPoll t) s = .next s))

/-- R224, R225: installing a mapping entry keeps its global address and takes the store's V, F, NPG and LOCAL with the pages it maps, and the bytes of the global
pages when F asks for them; removing it writes them back and clears V. An entry whose checks fail, or that is installed already, stays as it is. -/
def Sys2Proof.Claims.MappingEntries : Prop :=
  ∀ t table entry v s, entry < 16 →
    let k := table * 16 + entry
    let old := getMap s k
    (bit v 63 = true → bit old.word1 63 = false → ∀ s', mapInstall (whoOf s t) k v s = .ok s' →
      exec (.mapEntryInstall t table entry v) s = .next s' ∧ (getMap s' k).gaddr = old.gaddr ∧ (getMap s' k).word1 = v &&& 0xC00007FFFFFFFFFF ∧
      (getMap s' k).pages ≠ []) ∧
    (bit v 63 = true → bit old.word1 63 = false → ∀ r, mapInstall (whoOf s t) k v s = .error r → exec (.mapEntryInstall t table entry v) s = .next s) ∧
    (bit v 63 = true → bit old.word1 63 = true → exec (.mapEntryInstall t table entry v) s = .next s) ∧
    (bit v 63 = false → bit old.word1 63 = true → t < 16384 → ∃ s', exec (.mapEntryRemove t table entry v) s = .next s' ∧
      bit (getMap s' k).word1 63 = false ∧ (getMap s' k).gaddr = old.gaddr ∧ (getMap s' k).pages = [])

/-- R33, R250, R317 to R320: puts, posted stores and block copies at issue. What logs 38, 39 fix is the model's. -/
def Obligations.PostedOperations : Prop := PutIssues ∧ PostedIssues

/-- R33, R34, R250, R319: how segments, counters and answers land. What logs 38, 46 fix is the model's. -/
def Obligations.PostedEvents : Prop := PostedLandings ∧ CounterAction

/-- R321, R322: fences and cache operations. What log 9 fixes is the model's. -/
def Obligations.FencesAndCaches : Prop := FenceResults ∧ CacheOperations

/-- R255, R323, R324: barrier arrivals and waits. What log 58 fixes is the model's. -/
def Obligations.BarrierResults : Prop := BarrierArrivals ∧ BarrierWaits

/-- R151, R152, R229, R325: latches, and the times of C lines. What logs 9, 10 fix is the model's. -/
def Obligations.LatchesAndLines : Prop := LatchResults ∧ LineTimes

/-- R148, R149, R224, R225, R314, R315: forwarded words, polls, and mapping entries. What log 50 fixes is the model's. -/
def Obligations.WordsAndMappings : Prop := WordQueues ∧ MappingEntries

namespace Sys2Proof.Claims

/-- The TID word (R198): slot, core, launch number and thread id. -/
def tidBits (slot core launch id : Nat) : Word := ofN (slot % 2 ^ 4 * 2 ^ 60 + core % 2 ^ 10 * 2 ^ 50 + launch % 2 ^ 16 * 2 ^ 34 + id)

/-- The core a spawn asks: of the package and the thread's partition, a home core for a travelling thread; a thread of no launch may ask none (R330). -/
def MaySpawnOn (s : State) (c : Word) : Prop :=
  c.toNat < 1024 ∧ inPartition s (cur s).part c.toNat = true ∧ (cur s).launch ≠ 0 ∧ isHart s.me = false ∧
    (modeOf (cur s) = 2 → c.toNat ∈ homesOf (getLaunch s (cur s).launch))

/-- A new thread of a launch (R139): its pc, x1 on from a list, x15 the context data handle, every other register zero, the launch's mode and window. -/
def NewThread (s : State) (l : Nat) (pc : Word) (xs : List Word) (id : Nat) (th : Thread) : Prop :=
  let x := getLaunch s l
  th.pc = pc ∧ th.launch = l ∧ th.ctx = x.ctx ∧ th.part = x.part ∧ th.tenant = x.tenant ∧ th.id = BitVec.ofNat 32 id ∧
    (∀ n, 1 ≤ n → n ≤ 14 → spGet 0 th.x n = xs.getD (n - 1) 0) ∧ spGet 0 th.x 15 = 0x0001000000000000 ∧
    th.thst = ofN (x.mode * 2) ∧ th.vwin = x.vwin ∧ th.wait = .run ∧ th.late = [] ∧ th.v = [] ∧ th.k = [] ∧ th.lstk = [] ∧ th.tvec = 0

end Sys2Proof.Claims

/-! ## Threads -/

/-- R330: spawn asks the destination core for a slot and goes on, its result late; a core it may not ask answers all ones at once (spawnc calls its target in line with all ones, after its
late results); a target that is not a multiple of 4 traps. spawnc takes its target at its issue and completes on the answer: a granted slot gives the new thread's id, a refusal calls the
target in line with 0 in x[d] and the link in x14. -/
def Sys2Proof.Claims.SpawnResults : Prop :=
  ∀ q d a b live s,
    let len := if live.isSome then 12 else 4
    let kept : State → List Word → State := fun u ws => setTh u s.me { cur u with taken := ws }
    let inLine : State → Word → Word → Out := fun u t r =>
      .next (jump s t false live q (wr s.me 14 (nextAddr (cur s).pc len) (wr s.me d r (kept u []))))
    (QueuesReady [a, b] [] s →
      let t := operand [a, b] s a
      let c := operand [a, b] s b
      let s1 := operandState [a, b] s
      (t.toNat % 4 ≠ 0 → TrapsAt (.spawn q d a b) s 4 3 0 t) ∧
      (t.toNat % 4 = 0 → ¬ MaySpawnOn s1 c → exec (.spawn q d a b) s = .next (retire s 4 q (addLate d (ofI (-1)) s1))) ∧
      (t.toNat % 4 = 0 → MaySpawnOn s1 c → ∃ p : Parcel, p.pc = t ∧ p.core = c.toNat ∧ p.launch = (cur s).launch ∧
        p.xs = (List.range 15).map (fun i => spGet 0 (cur s1).x (i + 1)) ∧
        exec (.spawn q d a b) s = .next (retire s 4 q
          (push (.slotReservationRequest ⟨s.me, (cur s).uid, .spawn, c.toNat, (cur s).seq, 4, some p, (getCore s1 (coreOf s.me)).pts⟩)
            (addLateOpen d 8 0 s1)))) ∧
      ((∀ r, (cur s).wait ≠ .slotReply r) →
        (t.toNat % 4 ≠ 0 → MaySpawnOn s1 c ∨ leaves s1 s.me t = false → TrapsHere (.spawnc q d a b live) s 3 0 t) ∧
        (t.toNat % 4 = 0 → ¬ MaySpawnOn s1 c → (cur s).late = [] → off (cur s).pc + len < 2 ^ 48 → exec (.spawnc q d a b live) s = inLine s1 t (ofI (-1))) ∧
        (t.toNat % 4 = 0 → ¬ MaySpawnOn s1 c → (cur s).late ≠ [] →
          exec (.spawnc q d a b live) s = .next (park (.slotReply (some (2 ^ 64 - 1))) (kept s1 [t]))) ∧
        (t.toNat % 4 = 0 → MaySpawnOn s1 c → ∃ u ask, exec (.spawnc q d a b live) s = .next u ∧ (cur u).wait = .slotAsk ∧ (cur u).pc = (cur s).pc ∧
          (cur u).taken = [t] ∧ Instr.slotReservationRequest ask ∈ u.pending ∧ ask.tid = s.me ∧ ask.core = c.toNat ∧ ask.kind = .spawn))) ∧
    (∀ t, (cur s).taken = [t] →
      (∀ r, (cur s).wait = .slotReply (some r) → r ≠ 2 ^ 64 - 1 → exec (.spawnc q d a b live) s = .next (retireLive s len live q (wr s.me d (ofN r) (kept s [])))) ∧
      ((cur s).wait = .slotReply (some (2 ^ 64 - 1)) → off (cur s).pc + len < 2 ^ 48 → exec (.spawnc q d a b live) s = inLine s t (ofI (-1))) ∧
      ((cur s).wait = .slotReply none → off (cur s).pc + len < 2 ^ 48 → exec (.spawnc q d a b live) s = inLine s t 0))

/-- R144, R331, R332: fork writes the link to x14, pushes a continuation with x1 to x7 when the deque has room, answers 1, and calls its target; a travelling thread answers 0 and
calls all the same. unfork of 0 returns through x14; of a set flag it pops the youngest continuation when that is its own, restores x1 to x7 and goes on there, and else exits. -/
def Sys2Proof.Claims.ForkResults : Prop :=
  ∀ q d a live s, QueuesReady [a] [] s →
    let f := operand [a] s a
    let s1 := operandState [a] s
    let core := coreOf s.me
    let c := getCore s1 core
    let len := if live.isSome then 12 else 4
    let link := nextAddr (cur s).pc len
    (f.toNat % 4 ≠ 0 → leaves s1 s.me f = false → TrapsHere (.fork q d a live) s 3 0 f) ∧
    (f.toNat % 4 = 0 → off (cur s).pc + len < 2 ^ 48 → modeOf (cur s) ≠ 2 → isHart s.me = false → c.deque.length < 64 →
      exec (.fork q d a live) s = .next (jump s f false live q (addLate d 1 (wr s.me 14 link (setCore s1 core
        { c with deque := c.deque ++ [⟨link, (List.range 7).map (fun i => spGet 0 (cur s1).x (i + 1)), (cur s).launch, slotOf s.me, (cur s).id⟩] }))))) ∧
    (f.toNat % 4 = 0 → off (cur s).pc + len < 2 ^ 48 → modeOf (cur s) = 2 →
      exec (.fork q d a live) s = .next (jump s f false live q (addLate d 0 (wr s.me 14 link s1)))) ∧
    (f = 0 → (xr (cur s1) 14).toNat % 4 = 0 → exec (.unfork q a live) s = .next (jump s (xr (cur s1) 14) false live q s1)) ∧
    (f ≠ 0 → ∀ rest e, c.deque = rest ++ [e] → e.launch = (cur s).launch → e.slot = slotOf s.me → e.id = (cur s).id → isHart s.me = false →
      ∃ th, exec (.unfork q a live) s = .next (jump s e.pc false live q (setTh (setCore s1 core { c with deque := rest }) s.me th)) ∧
        th = { cur s1 with x := th.x } ∧ (∀ i, i < 7 → spGet 0 th.x (i + 1) = e.xs.getD i 0) ∧
        ∀ n, (n = 0 ∨ 8 ≤ n) → spGet 0 th.x n = spGet 0 (cur s1).x n) ∧
    (f ≠ 0 → c.deque = [] → c.spill = [] → exec (.unfork q a live) s = exec (.exit q) s1)

/-- R146, R309, R333: join completes when its word reads 0, and waits in the word's list while it does not (where going on past it is no travel fault, R174); a word that is not 8-byte
aligned traps. -/
def Sys2Proof.Claims.JoinResults : Prop :=
  ∀ q a s, QueuesReady [a] [] s →
    let ea := operand [a] s a
    let s1 := operandState [a] s
    (ea.toNat % 8 ≠ 0 → TrapsAt (.join q a) s 4 3 0 ea) ∧
    (∀ p r, ea.toNat % 8 = 0 → ReachesMemory s1 ea 8 needRd false false (p :: r) →
      let s2 := atTurn (p :: r) s1
      let s3 := ownPages (coreOf s.me) s2 (p :: r)
      (rdWord s p.key = 0 → ¬ Listed s p.key .join → exec (.join q a) s = .next (retire s 4 q (homeRead (coreOf s.me) (p :: r) s2))) ∧
      (rdWord s p.key ≠ 0 → (homeEntries s3 (cur s3).part (p.key / 8)).1 < (homeEntries s3 (cur s3).part (p.key / 8)).2 →
        earliestRetry s3 (cur s3).part (p.key / 8) = none → (∀ k o x i f n, (cur s).wait ≠ .retry k o x i f n) → seqFault s 4 = none →
        ∃ t, exec (.join q a) s = .next t ∧ (cur t).wait = .word p.key .join ea 0 4 q ∧ (cur t).pc = (cur s).pc ∧
          ⟨s.me, .join, 0⟩ ∈ spGet [] t.waits (p.key / 8)))

/-- R334: exit with its results in and its vector commands done empties the slot, offers it again, frees the thread's refused journal entries and counts its launch down; else it waits as
at a marker first. In an engine hart exit ends the program with 0 in MBOX (R403). -/
def Sys2Proof.Claims.ExitResults : Prop :=
  ∀ q s,
    let s0 := endCapture s.me s
    let th := cur s
    (isHart s.me = false → (cur s0).late = [] → vectorIdle (cur s0) = true →
      ∃ t, exec (.exit q) s = .next t ∧ getTh t s.me = Thread.reset ∧ Instr.slotFree (coreOf s.me) (slotOf s.me) ∈ t.pending ∧
        (∀ e ∈ t.journal, ¬ (e.2.uid = th.uid ∧ e.2.ref = true)) ∧
        (th.launch ≠ 0 → (getLaunch t th.launch).live = (getLaunch s th.launch).live - 1)) ∧
    (isHart s.me = false → ((cur s0).late ≠ [] ∨ vectorIdle (cur s0) = false) → exec (.exit q) s = .next (park (.settle .exit) s0)) ∧
    (isHart s.me = true → outstanding s (cur s).uid true true = false → (cur s).late = [] → exec (.exit q) s = .next (endHart s.me 0 s)) ∧
    (∀ a, isHart s.me = true → outstanding s (cur s).uid true true = false → (cur s).late = [] →
      exec (.halt q a) s = .next (endHart s.me (xr (cur s) a) s))

/-- R333, R334: join of a word that reads 0 and that no join waits for, which the thread reaches at once, completes with the pc past its words and no register and no byte changed; exit of a
thread in a slot whose results have returned and whose vector commands have retired completes, its slot empty. What logs 9, 47 fix is the model's. -/
def Obligations.JoinAndExitComplete : Prop :=
  ∀ q s,
    (∀ a p r, QueuesReady [a] [] s → (operand [a] s a).toNat % 8 = 0 → ReachesMemory (operandState [a] s) (operand [a] s a) 8 needRd false false (p :: r) →
      rdWord s p.key = 0 → spGet [] s.waits (p.key / 8) = [] → modeOf (cur s) ≠ 2 →
      ∃ t, exec (.join q a) s = .next t ∧ SameBytes s t ∧ (cur t).x = (cur (operandState [a] s)).x ∧ (cur t).seq = (cur s).seq + 1 ∧
        (¬ EndsLoop (cur s) (cur s).pc (nextAddr (cur s).pc 4) → (cur t).pc = nextAddr (cur s).pc 4)) ∧
    (isHart s.me = false → (cur s).capture = none → (cur s).late = [] → (cur s).vq = [] → (cur s).vout = 0 →
      ∃ t, exec (.exit q) s = .next t ∧ getTh t s.me = Thread.reset)

/-- R335: go takes its core at its issue: to the thread's own it answers 1 at once; to a core outside the package, while travelling, with a window, loop, latch or hold in use, or in an engine hart
it answers all ones; else it waits for its results and operations and asks for a slot, and on a granted one the thread leaves in a parcel, its slot empty, on a refused one it answers 0.
R336, R337: yield stays away for its own positions; tid returns the thread's id word late. -/
def Sys2Proof.Claims.MoveResults : Prop :=
  ∀ q d b s,
    let th := cur s
    let kept : State → List Word → State := fun u ws => setTh u s.me { cur u with taken := ws }
    let asks : Word → Prop := fun c => ∃ t ask, exec (.go q d b) s = .next t ∧ (cur t).wait = .slotAsk ∧ (cur t).pc = th.pc ∧ (cur t).taken = [c] ∧
      Instr.slotReservationRequest ask ∈ t.pending ∧ ask.tid = s.me ∧ ask.kind = .go ∧ ask.core = c.toNat
    (QueuesReady [b] [] s → (∀ r, th.wait ≠ .slotReply r) → (∀ x y, th.wait ≠ .fence x y) →
      let c := operand [b] s b
      let s1 := operandState [b] s
      (isHart s.me = true → exec (.go q d b) s = .next (retire s 4 q (addLate d (ofI (-1)) s1))) ∧
      (isHart s.me = false → c.toNat = coreOf s.me → coreOf s.me < 1024 → exec (.go q d b) s = .next (retire s 4 q (addLate d 1 s1))) ∧
      (isHart s.me = false → c.toNat ≠ coreOf s.me →
        (1024 ≤ c.toNat ∨ inPartition s th.part c.toNat = false ∨ modeOf th = 2 ∨ th.vwin = true ∨ loopUsed th = true ∨
          (∃ i, i < 4 ∧ bit (spGet 0 th.latch i) 1 = true) ∨ th.hold ≠ none) →
        exec (.go q d b) s = .next (retire s 4 q (addLate d (ofI (-1)) s1))) ∧
      (isHart s.me = false → c.toNat ≠ coreOf s.me → c.toNat < 1024 → inPartition s th.part c.toNat = true → modeOf th ≠ 2 → th.vwin = false → loopUsed th = false →
        (∀ i, i < 4 → bit (spGet 0 th.latch i) 1 = false) → th.hold = none →
        (th.late = [] → outstanding s th.uid true true = false → asks c) ∧
        (th.late ≠ [] ∨ outstanding s th.uid true true = true → exec (.go q d b) s = .next (park (.fence true true) (kept s1 [c]))))) ∧
    (∀ c x y, th.taken = [c] → th.wait = .fence x y → th.late = [] → outstanding s th.uid true true = false → asks c) ∧
    (∀ c, th.taken = [c] →
      (∀ n, th.wait = .slotReply (some n) → ∃ t p, exec (.go q d b) s = .next t ∧ getTh t s.me = Thread.reset ∧ Instr.parcelArrival p ∈ t.pending ∧
        p.kind = .go ∧ p.core = c.toNat ∧ p.slot = n ∧ p.goReg = some d) ∧
      (th.wait = .slotReply none → exec (.go q d b) s = .next (retire s 4 q (addLate d 0 (kept s []))))) ∧
    (QueuesReady [b] [] s →
      let c := operand [b] s b
      (modeOf th ≠ 2 → ∃ t, exec (.yield q b) s = .next t ∧ (cur t).wait = .yielding (c.toNat % 2 ^ 16 + 1) q ∧
        (¬ EndsLoop th th.pc (nextAddr th.pc 4) → (cur t).pc = nextAddr th.pc 4))) ∧
    exec (.tid q d) s = .next (retire s 4 q (addLate d
      (tidBits (slotOf s.me) (coreOf s.me) (if isHart s.me then 0 else (cur s).launch) (cur s).id.toNat) s)) ∧
    (∀ t q', (getTh s t).wait = .yielding 0 q' → exec (.yieldExpiry t) s = .next (setTh s t { getTh s t with
      wait := if q' = true ∧ (getTh s t).late ≠ [] then .marker else .run, wcount := 0 }))

/-- R35, R36, R139, R140, R143, R179, R229: a core, its time raised to the asker's, grants its lowest free slot but 0 to a reservation, and refuses when it has none; a spawn granted takes its launch's next
thread id, counts it live, and its answer sends its parcel; the parcel starts the thread in the slot granted; a free slot takes the first pending thread of a launch of its core. -/
def Sys2Proof.Claims.SlotEvents : Prop :=
  (∀ ask s, let s1 := raisePts ask.core ask.pts s
    let granted := fun n => setCore s1 ask.core { getCore s1 ask.core with granted := (getCore s1 ask.core).granted ++ [n] }
    (∀ n, ask.body = none → slotClaimed s1 ask.core = false → heldByTravel s1 ask.core (getTh s1 ask.tid).launch = false → ask.kind ≠ .spawn → lowestFree s1 ask.core = some n →
      exec (.slotReservationRequest ask) s = .next (push (.slotReservationReply ask (some n)) (granted n))) ∧
    (lowestFree s1 ask.core = none → exec (.slotReservationRequest ask) s = .next (push (.slotReservationReply ask none) s1)) ∧
    (∀ n p, ask.body = some p → ask.kind = .spawn → slotClaimed s1 ask.core = false → heldByTravel s1 ask.core p.launch = false → lowestFree s1 ask.core = some n →
      let x := getLaunch s1 p.launch
      (x.mode = 2 → x.owed < x.cap ∧ x.ids ≤ x.maxtid) → askWaits s1 ask = false →
      exec (.slotReservationRequest ask) s =
        .next (push (.slotReservationReply { ask with body := some { p with slot := n, tid := BitVec.ofNat 32 x.ids } } (some n))
          (modLaunch (granted n) p.launch fun x => { x with ids := x.ids + 1, live := x.live + 1 })))) ∧
  (∀ ask s p n, ask.body = some p → n ≠ 0 → askWaits s ask = true →
    ∃ t, exec (.slotReservationReply ask (some n)) s = .next t ∧ Instr.parcelArrival p ∈ t.pending ∧
      (getTh t ask.tid).wait = .slotReply (some (tidBits n ask.core p.launch p.tid.toNat).toNat)) ∧
  (∀ p s, p.kind = .spawn → 1 ≤ p.slot → p.slot ≤ 15 → p.core < 1024 → (getTh s (16 * p.core + p.slot)).uid = 0 → p.hold = none →
    ∃ t, exec (.parcelArrival p) s = .next t ∧ (getTh t (16 * p.core + p.slot)).pc = p.pc ∧ (getTh t (16 * p.core + p.slot)).uid = s.uids ∧
      (∀ n, 1 ≤ n → n ≤ 4 → spGet 0 (getTh t (16 * p.core + p.slot)).x n = p.xs.getD (n - 1) 0) ∧
      p.slot ∉ (getCore t p.core).granted ∧ OtherHartsKept (16 * p.core + p.slot) s t) ∧
  (∀ core slot l s, core < 1024 → 1 ≤ slot → slot ≤ 15 → freeSlot s core slot = true → (getCore s core).restored = [] →
    ((getCore s core).launches.find? fun l => pendingHere s core l && servedHere s l) = some l → (getLaunch s l).xs.length ≤ 14 →
    ∃ t, exec (.slotFree core slot) s = .next t ∧
      NewThread s l (getLaunch s l).entry (getLaunch s l).xs (getLaunch s l).next (getTh t (16 * core + slot)) ∧
      (getLaunch t l).next = (getLaunch s l).next + 1 ∧ (getLaunch t l).live = (getLaunch s l).live + 1)

/-- R144, R330 to R332: spawn, spawnc, fork and unfork. What logs 47, 65 fix is the model's. -/
def Obligations.SpawnsAndForks : Prop := SpawnResults ∧ ForkResults

/-- R146, R309, R333, R334: join and exit. What log 47 fixes is the model's. -/
def Obligations.JoinsAndExits : Prop := JoinResults ∧ ExitResults

/-- R35, R36, R139, R140, R143, R335, R336: go, yield and tid, and the events of slots and parcels. What logs 20, 47, 65 fix is the model's. -/
def Obligations.MovesAndSlots : Prop := MoveResults ∧ SlotEvents

namespace Sys2Proof.Claims

/-- A handle operand of a transaction names a live local entry that is not being closed and whose generation is that of its node's record at the
name engine, the record of a live node (R88 steps 1 and 2, R89). -/
def LiveHandle (x : Tx) (h : Nat) (s : State) (e : KeyEntry) : Prop :=
  e = getKey s x.ring h ∧ h ≠ 0 ∧ h ≠ 0xFFFF ∧ e.v = true ∧ closing s x.ring h = false ∧ e.peer = false ∧ recordMissing s e.node = false ∧
    e.gen = engineGen s e.node

/-- The kind in a node's record as its home engine has it (R89). -/
def recKind (s : State) (n : Nat) : Nat := ((engineRecord s n).getD 0 0).toNat / 2 ^ 58 % 2 ^ 4

/-- The walk from a node under a ceiling along components: each step needs a directory, the ceiling's EX right and a binding, and narrows the ceiling; a
mount ends it elsewhere (R92). -/
inductive WalkTo (s : State) : List (List Byte) → Nat → BitVec 5 → Nat → BitVec 5 → Prop where
  | here (n k) : recordMissing s n = false → recKind s n ≠ 9 → WalkTo s [] n k n k
  | down (c rest n k b m j) : recordMissing s n = false → recKind s n = 0 → ((engineRecord s n).getD 0 0).getLsbD 63 = true → k.getLsbD 2 = true →
      lookupName s n c = some b → WalkTo s rest b.node (k &&& b.ceil) m j → WalkTo s (c :: rest) n k m j

/-- A new entry for a node in the issuer's keyring, from the node's record, at the free handle it gives (R86, R89; which one is free, log 6). -/
def GivesEntry (x : Tx) (node : Nat) (rights ceil : BitVec 5) (s : State) (o : TxOut) : Prop :=
  ∀ h, x.ring < 65536 → freeHandle s x.ring = some h →
    let r := engineRecord s node
    let kind := recKind s node
    o = .done h (setKey x.ring h
      { ptroot := if kind = 1 ∨ kind = 6 ∨ kind = 8 then r.getD 2 0 else (getNode s node).ptroot, pkg := 0, port := 0, rhdl := 0,
        limit := (r.getD 1 0).toNat, v := true, peer := false, kind := kind, rights := rights, ceil := ceil,
        gen := (r.getD 0 0).toNat / 2 ^ 32 % 2 ^ 16, node := node } s)

/-- A failure's result word: ones above, the reason in [11:3] and the component in [2:0] (R90). -/
def failBits (reason idx : Nat) : Word := ofN (2 ^ 64 - 2 ^ 12 + reason * 2 ^ 3 + idx % 2 ^ 3)

/-- The end of a name instruction whose transaction ended: its result is late and the thread is away until it returns, whatever S holds (R339). A
travelling thread that cannot go on past it takes that travel fault, and the transaction is not made (R174). -/
def NameEnds (i : Instr) (s s1 : State) (d : Reg) (o : TxOut) : Prop :=
  (∀ r k, o = .fail r k → exec i s = .next (retire s 4 true (addLate d (failBits r k) s1))) ∧
  (∀ v s2, o = .done v s2 → exec i s = .next (retire s 4 true (addLate d (ofN v) s2))) ∧
  (∀ rid s2, o = .wait rid s2 → seqFault s 4 = none → exec i s = .next (park (.name rid d true) s2)) ∧
  (∀ f v data, o = .away f v data → seqFault s 4 = none →
    exec i s = .next (park (.remote d true) (sendPeer f.tag f.kind v data { s1 with forwards := s1.forwards ++ [f] }))) ∧
  (∀ r a, seqFault s 4 = some (r, a) → ((∃ rid s2, o = .wait rid s2) ∨ ∃ f v data, o = .away f v data) → TrapsHere i s 4 r a)

/-- The machine after an ordinary load of pieces (R229, R315). -/
def afterLoad (ps : List Piece) (s : State) : State := homeLoad (coreOf s.me) ps (atTurn ps s)

/-- A path record is read at an address by ordinary loads: its 8-byte header, then 16 bytes for each of its 1 to 8 components (R84, R339). -/
def ReadsPath (s : State) (a : Word) (bs : List Byte) (s' : State) : Prop :=
  ∃ ps qs a' n, a.toNat % 8 = 0 ∧ ReachesMemory s a 8 needRd false true ps ∧
    n = ((rdCached (afterLoad ps s) (coreOf s.me) ps).getD 0 0).toNat ∧ 1 ≤ n ∧ n ≤ 8 ∧ effOf a 8 = some a' ∧
    ReachesMemory (afterLoad ps s) a' (16 * n) needRd false true qs ∧
    bs = rdCached (afterLoad ps s) (coreOf s.me) ps ++ rdCached (afterLoad qs (afterLoad ps s)) (coreOf s.me) qs ∧
    s' = afterLoad qs (afterLoad ps s)

end Sys2Proof.Claims

/-! ## Names -/

/-- R91, R92, R338: what the transactions give on live local handles. WALK gives an entry with no rights under the narrowed ceiling; OPEN one with the rights asked for when the ceiling
allows them, else fails with reason 2; DUP one with both narrowed; UNBIND removes the binding; a handle not allocated or being closed fails with reason 6, a stale one with 7,
before the mask of rights is looked at, whose reserved bits fail with reason 13. -/
def Sys2Proof.Claims.TransactionResults : Prop :=
  ∀ (x : Tx) s,
    (∀ path cs m j, x.ring < 65536 → parsePath path = .ok cs → WalkTo s cs (getCtx s x.ctx).root 0xF m j →
      GivesEntry x m 0 j s (txWalk x 0 0 path s)) ∧
    (∀ h path cs m j e, parsePath path = .ok cs → LiveHandle x h s e → WalkTo s cs e.node e.ceil m j → GivesEntry x m 0 j s (txWalk x h 0 path s)) ∧
    (∀ h w e, LiveHandle x h s e → w.toNat < 32 → BitVec.ofNat 5 w.toNat &&& ~~~e.ceil = 0 →
      GivesEntry x e.node (BitVec.ofNat 5 w.toNat) e.ceil s (txOpen x h w s)) ∧
    (∀ h w e, LiveHandle x h s e → w.toNat < 32 → BitVec.ofNat 5 w.toNat &&& ~~~e.ceil ≠ 0 → txOpen x h w s = .fail 2 0) ∧
    (∀ h w e, LiveHandle x h s e → w.toNat < 32 →
      GivesEntry x e.node (e.rights &&& BitVec.ofNat 5 w.toNat) (e.ceil &&& BitVec.ofNat 5 w.toNat) s (txDup x h w s)) ∧
    (∀ h w e, LiveHandle x h s e → 32 ≤ w.toNat → txOpen x h w s = .fail 13 0 ∧ txDup x h w s = .fail 13 0) ∧
    (∀ h w, (h = 0 ∨ h = 0xFFFF ∨ (getKey s x.ring h).v = false ∨ closing s x.ring h = true) →
      txOpen x h w s = .fail 6 0 ∧ txDup x h w s = .fail 6 0 ∧ txStat x h 0 s = .fail 6 0 ∧ txRevoke x h s = .fail 6 0 ∧ txClose x h s = .fail 6 0) ∧
    (∀ h w, h ≠ 0 → h ≠ 0xFFFF → closing s x.ring h = false → let e := getKey s x.ring h
      e.v = true → e.peer = false → recordMissing s e.node = false → e.gen ≠ engineGen s e.node →
        txOpen x h w s = .fail 7 0 ∧ txDup x h w s = .fail 7 0 ∧ txStat x h 0 s = .fail 7 0 ∧ txRevoke x h s = .fail 7 0) ∧
    (∀ path name w e b, parseName path = some name → w.toNat < 2 ^ 16 → LiveHandle x w.toNat s e → e.kind = 0 → e.rights.getLsbD 3 = true →
      (getNode s e.node).owner = x.ctx → lookupName s e.node name = some b →
      ∃ s', txUnbind x path w s = .done 0 s' ∧ lookupName s' e.node name = none ∧
        ∀ other, other ≠ name → lookupName s' e.node other = lookupName s e.node other)

/-- R96, R97, R99: REVOKE raises the node's generation at once, makes the new entry and waits for sixteen quadrants; CLOSE waits for them to drop the entry; both keep every
other node. A revocation needs the RV right (reason 2). -/
def Sys2Proof.Claims.RevocationStarts : Prop :=
  ∀ (x : Tx) h s e, LiveHandle x h s e → x.ring < 65536 →
    (e.rights.getLsbD 4 = false → txRevoke x h s = .fail 2 0) ∧
    (e.rights.getLsbD 4 = true → e.gen ≠ 0xFFFF → (freeHandle s x.ring).isSome →
      ∃ s', txRevoke x h s = .wait s.uids s' ∧ (getNode s' e.node).gen = e.gen + 1 ∧ (∀ n, n ≠ e.node → getNode s' n = getNode s n) ∧
        (getRevoke s' s.uids).acks = List.range 16 ∧ (getRevoke s' s.uids).filters = List.range 16 ∧
        ∀ q, q < 16 → Instr.filterInstall s.uids q ∈ s'.pending) ∧
    (∃ s', txClose x h s = .wait s.uids s' ∧ s'.nodes = s.nodes ∧ (getRevoke s' s.uids).kind = .close x.ring h ∧
      ∀ q, q < 16 → Instr.keyInvalidate s.uids q ∈ s'.pending)

/-- R338, R339: nopen, nclose, nrevoke and ndup run their transaction on the handle of x[a], and end as it ends; reserved bits of a handle operand fail with reason 13. -/
def Sys2Proof.Claims.NameHandleInstructions : Prop :=
  ∀ q d a b s,
    (QueuesReady [a, b] [] s →
      let s1 := operandState [a, b] s
      let h := (operand [a, b] s a).toNat
      let w := operand [a, b] s b
      (h < 2 ^ 16 → NameEnds (.nopen q d a b) s s1 d (txOpen (txOf s1) h w s1) ∧ NameEnds (.ndup q d a b) s s1 d (txDup (txOf s1) h w s1)) ∧
      (2 ^ 16 ≤ h → exec (.nopen q d a b) s = .next (retire s 4 true (addLate d (failBits 13 0) s1)) ∧
        exec (.ndup q d a b) s = .next (retire s 4 true (addLate d (failBits 13 0) s1)))) ∧
    (QueuesReady [a] [] s →
      let s1 := operandState [a] s
      let h := (operand [a] s a).toNat
      (h < 2 ^ 16 → NameEnds (.nclose q d a) s s1 d (txClose (txOf s1) h s1) ∧ NameEnds (.nrevoke q d a) s s1 d (txRevoke (txOf s1) h s1)) ∧
      (2 ^ 16 ≤ h → exec (.nclose q d a) s = .next (retire s 4 true (addLate d (failBits 13 0) s1)) ∧
        exec (.nrevoke q d a) s = .next (retire s 4 true (addLate d (failBits 13 0) s1))))

/-- R338, R339, R340: nwalk, nbind and nunbind read their path record by ordinary loads and run their transaction; ncreate reads its creation record too; nstat stores the
STAT record at x[b]. -/
def Sys2Proof.Claims.NameRecordInstructions : Prop :=
  ∀ q d a b s, QueuesReady [a, b] [] s →
    let x := operand [a, b] s a
    let y := operand [a, b] s b
    let s1 := operandState [a, b] s
    (∀ path s2, ReadsPath s1 y path s2 → x.toNat < 2 ^ 16 → NameEnds (.nwalk q d a b) s s2 d (txWalk (txOf s2) x.toNat 0 path s2)) ∧
    (∀ path s2, ReadsPath s1 x path s2 → (path.getD 0 0).toNat = 1 → NameEnds (.nbind q d a b) s s2 d (txBind (txOf s2) path y s2)) ∧
    (∀ path s2, ReadsPath s1 x path s2 → (path.getD 0 0).toNat = 1 → NameEnds (.nunbind q d a b) s s2 d (txUnbind (txOf s2) path y s2)) ∧
    (∀ ps h bytes, y.toNat % 32 = 0 → ReachesMemory s1 y 32 needWr false false ps → h = x.toNat → h < 2 ^ 16 →
      txStat (txOf (atTurn ps s1)) h y (atTurn ps s1) = .stat bytes →
      exec (.nstat q d a b) s = .next (retire s 4 true (addLate d 0 (storePieces (coreOf s.me) ps bytes (atTurn ps s1))))) ∧
    (∀ path s2 rs s3 p1 p2, Resolves s1 x 8 needRd p1 → peerOf p1 = none → Resolves s1 y 32 needRd p2 → onFabric p2 = false →
      ReadsPath s1 x path s2 → (path.getD 0 0).toNat = 1 → y.toNat % 8 = 0 → ReachesMemory s2 y 32 needRd false true rs →
      s3 = afterLoad rs s2 →
      NameEnds (.ncreate q d a b) s s3 d (txCreate (txOf s3) path ((List.range 4).map fun i => wordAt (rdCached s3 (coreOf s.me) rs) (8 * i)) s3))

/-- R64, R90, R91: a function that acts through a context runs the same transactions there, answered with status 0 and the result word; before READY each is refused with
status 1 and changes nothing else. What a firmware core asks gives it no entry of a tenant's node that the key core has not granted (R124): it fails with reason 2. An answer leaves through the
port the request came in by, held while that port retrains, unless the port is down (R17, R68). -/
def Sys2Proof.Claims.HostTransactions : Prop :=
  ∀ fn x s,
    let ends : Instr → TxOut → Prop := fun i asked =>
      let o := fwGrant s fn x asked
      ((o = asked ∨ o = .fail 2 0) ∧ ((∀ n, fwDenied s fn n needRd = false) → (∀ n, fwDenied s fn n needWr = false) → o = asked)) ∧
      (∀ r k, o = .fail r k → exec i s = .next (reply fn 0 (failBits r k) [] s)) ∧
      (∀ v s1, o = .done v s1 → exec i s = .next (reply fn 0 (ofN v) [] s1)) ∧
      (∀ rid s1, o = .wait rid s1 → exec i s = .next s1) ∧
      (∀ f v data, o = .away f v data →
        exec i s = .next (if fnGen s fn = 3 then sendPeer f.tag f.kind v data { s with forwards := s.forwards ++ [f] } else reply fn 7 0 [] s))
    (x.ring < 65536 →
      (txHost s fn false = .ok x →
        (∀ h path, h < 65536 → ends (.hostWalk fn h path) (txWalk x h 0 path s)) ∧
        (∀ h w, h < 65536 → ends (.hostOpen fn h w) (txOpen x h w s)) ∧
        (∀ h, h < 65536 → ends (.hostClose fn h) (txClose x h s)) ∧
        (∀ h rec_ bytes s1, h < 65536 → txStat x h rec_ s = .stat bytes → hostMiss s (whoHost x).unit x.ctx (hdl rec_) = none →
          (hdl rec_ ≠ 0xFFFF → fwDenied s fn (lookupKey s (whoHost x).unit x.ctx (hdl rec_)).1.node needWr = false) →
          agentWrite (whoHost x) rec_ bytes 0 s = .ok s1 →
          exec (.hostStat fn h rec_) s = .next (reply fn 0 0 [] s1))) ∧
      (txHost s fn true = .ok x →
        (∀ path w, ends (.hostBind fn path w) (txBind x path w s)) ∧
        (∀ path d, ends (.hostUnbind fn path d) (txUnbind x path (ofN d) s)) ∧
        (∀ h, h < 65536 → ends (.hostRevoke fn h) (txRevoke x h s)) ∧
        (∀ h w, h < 65536 → ends (.hostDup fn h w) (txDup x h w s)) ∧
        (∀ path rec_, ends (.hostCreate fn path rec_) (txCreate x path rec_ s)))) ∧
    (bit s.pkg.pkst 8 = false → ∀ i,
      (∃ h p w rec_ fe, i = .hostWalk fn h p ∨ i = .hostOpen fn h w ∨ i = .hostClose fn h ∨ i = .hostBind fn p w ∨ i = .hostUnbind fn p h ∨
        i = .hostStat fn h w ∨ i = .hostRevoke fn h ∨ i = .hostDup fn h w ∨ i = .hostCreate fn p rec_ ∨ i = .hostRead fn w h ∨ i = .hostWrite fn w p fe) →
      exec i s = .next (reply fn 1 0 [] s)) ∧
    (∀ st v data p, portOf fn = some p → let port := spGet Port.reset s.ports p
      (port.up = true → port.training = false → reply fn st v data s = { s with out := s.out ++ [⟨fn, st, v, data⟩] }) ∧
      (port.up = true → port.training = true → reply fn st v data s =
        { s with ports := spSet Port.reset s.ports p { port with held := port.held ++ [⟨fn, st, v, data⟩] } }) ∧
      (port.up = false → reply fn st v data s = s))

/-- R33, R65, R67, R88: a function's read answers the bytes, its write stores them (FE 1 fills the whole words written, 2 empties them), each after the checks of R88; a failed check is
answered by its status with nothing written, and FE 3 is malformed. A peer package's counter action adds to, sets or fills the counter here; that it comes as a WRITE of FE 3 with 16 bytes is
the model's choice (log 13). -/
def Sys2Proof.Claims.HostAccesses : Prop :=
  ∀ fn x addr s, txHost s fn false = .ok x → hostMiss s (whoHost x).unit (whoHost x).ctx (hdl addr) = none →
    (∀ n ps, resolve s (whoHost x) addr n needRd = .ok (.mem ps) → fwDenied s fn (ps.headD ⟨0, 0, 0, 0, 0⟩).node needRd = false →
      refusedPiece s x.part ps = none → badWord s ps = none →
      exec (.hostRead fn addr n) s = .next (reply fn 0 0 (rdPieces s ps) s)) ∧
    (∀ n i, resolve s (whoHost x) addr n needRd = .error i → ∃ st, st ≠ 0 ∧ exec (.hostRead fn addr n) s = .next (reply fn st 0 [] s)) ∧
    (∀ data (fe : BitVec 2) ps, fe ≠ 3 → let need := if fe = 0 then needWr else needRw
      resolve s (whoHost x) addr data.length need = .ok (.mem ps) →
      fwDenied s fn (ps.headD ⟨0, 0, 0, 0, 0⟩).node need = false → refusedPiece s x.part ps = none →
      exec (.hostWrite fn addr data fe) s = .next (reply fn 0 0 [] (storeFe 2000 ps data fe.toNat s))) ∧
    (∀ data (fe : BitVec 2) i, fe ≠ 3 → resolve s (whoHost x) addr data.length (if fe = 0 then needWr else needRw) = .error i →
      ∃ st, st ≠ 0 ∧ exec (.hostWrite fn addr data fe) s = .next (reply fn st 0 [] s)) ∧
    (∀ n ps, resolve s (whoHost x) addr n needRd = .ok (.mem ps) → fwDenied s fn (ps.headD ⟨0, 0, 0, 0, 0⟩).node needRd = false →
      (refusedPiece s x.part ps).isSome → exec (.hostRead fn addr n) s = .next (reply fn 3 0 [] s)) ∧
    (∀ data, ((∀ g, fn ≠ .peer g) ∨ data.length ≠ 16) → exec (.hostWrite fn addr data 3) s = .next (reply fn 6 0 [] s)) ∧
    (∀ g data ps, fn = .peer g → data.length = 16 → addr.toNat % 8 = 0 → resolve s (whoHost x) addr 8 needRw = .ok (.mem ps) →
      refusedPiece s x.part ps = none → badWord s ps = none →
      let action := leValue (data.take 8)
      let v := leValue (data.drop 8)
      exec (.hostWrite fn addr data 3) s = .next (reply fn 0 0 []
        (storeFe 2000 ps (leBytesOf 8 (if action = 1 then (leValue (rdPieces s ps) + v) % 2 ^ 64 else v)) (if action = 3 then 1 else 0) s)))

/-- R96, R99: a filter refuses a node's older generations at its quadrant, and after the last one the sixteen quadrants' caches are invalidated; an invalidated cache keeps no entry of the
node; the last acknowledgement ends the transaction for whoever waits; the last retirement report removes the filters; a node destroyed is DEAD and filtered. -/
def Sys2Proof.Claims.RevocationEvents : Prop :=
  ∀ rid quadrant s,
    let r := getRevoke s rid
    (quadrant ∈ r.filters → filtersAt s quadrant < 32 → ∃ t, exec (.filterInstall rid quadrant) s = .next t ∧
      (∀ gen, gen < r.gen → filtered t quadrant r.node gen = true) ∧ (getRevoke t rid).filters = r.filters.filter (· != quadrant) ∧
      ((∀ q ∈ r.filters, q = quadrant) → ∀ q, q < 16 → Instr.keyInvalidate rid q ∈ t.pending) ∧ SameBytes s t) ∧
    (quadrant ∈ r.acks → r.filters = [] → (∃ h, r.kind = .revoke h) → spWf CoreSt.reset s.cores = true → ∃ t, exec (.keyInvalidate rid quadrant) s = .next t ∧
      (∀ u, unitQuad u = quadrant → ∀ c ∈ (getCore t u).keys, c.entry.node = r.node → c.entry.peer = true) ∧
      Instr.revokeAck rid quadrant ∈ t.pending ∧ SameBytes s t) ∧
    (r.acks = [quadrant] → r.filters = [] → accessOpen s r quadrant = false →
      exec (.revokeAck rid quadrant) s = .next (acknowledged rid (setRevoke rid { r with acks := [] } s))) ∧
    (quadrant ∈ r.acks → r.acks.filter (· != quadrant) ≠ [] → r.filters = [] → accessOpen s r quadrant = false →
      exec (.revokeAck rid quadrant) s = .next (setRevoke rid { r with acks := r.acks.filter (· != quadrant) } s)) ∧
    (r.retire = [quadrant] → r.acks = [] → entriesLeft s r quadrant = false → ∃ t, exec (.journalRetireReport rid quadrant) s = .next t ∧
      getRevoke t rid = Revoke.none ∧ ∀ f ∈ t.filters, f.rid ≠ rid) ∧
    (∀ node, (getNode s node).v = true → (getNode s node).dead = false → ∃ t, exec (.nodeDestroy node) s = .next t ∧ (getNode t node).dead = true ∧
      (∀ n, n ≠ node → getNode t n = getNode s n) ∧ ∀ q, q < 16 → Instr.filterInstall s.uids q ∈ t.pending)

/-- R88, R89: a key-cache miss fills the unit's cache with the entry and its node's generation when they agree; a node-cache miss takes the record at once in hardware mode and sends a
MISS message with the node and the context in host-assisted mode; 2^24 cycles without an answer end the miss: an access that waited issues again to take its fault, and a name instruction fails
with reason 12 at its component. -/
def Sys2Proof.Claims.CacheMisses : Prop :=
  (∀ unit ctx addr s, let h := hdl addr; let e := getKey s ctx h
    h ≠ 0 → h ≠ 0xFFFF → e.v = true → closing s ctx h = false → e.peer = false → recordMissing s e.node = false → e.gen = engineGen s e.node →
    ∃ t, exec (.keyCacheMiss unit ctx addr) s = .next t ∧ ⟨ctx, h, e, e.gen⟩ ∈ (getCore t unit).keys ∧ SameBytes s t) ∧
  (∀ node ctx s, nodeCached s node = false → (∀ m ∈ s.missing, m.node ≠ node) →
    exec (.nodeCacheMiss node ⟨ctx, false⟩) s = .next { s with nodeCache := spSet [] s.nodeCache node (nodeRecord s node) } ∧
    ∃ t, exec (.nodeCacheMiss node ⟨ctx, true⟩) s = .next t ∧ (∃ m ∈ t.missing, m.node = node ∧ m.since = s.cycle) ∧ t.nodeCache = s.nodeCache ∧
      ((s.fw.hmotail + 1) % 512 ≠ s.fw.hmohead → t.fw.hmotail = (s.fw.hmotail + 1) % 512 ∧
        spGet [] t.fw.outRing s.fw.hmotail = leBytesOf 8 (1 + 10 * 2 ^ 32) ++ leBytesOf 8 node ++ leBytesOf 2 ctx ++ List.replicate 46 0)) ∧
  (∀ node s m t a, s.missing = [m] → m.node = node → m.held = [] → nodeCached s node = false → s.threads = [(t, getTh s t)] →
    let s1 := { s with missing := [], timedOut := (s.timedOut ++ [node]).eraseDups }
    ((getTh s t).wait = .fetch node a none →
      exec (.nodeMissTimeout node) s = .next (setTh s1 t { getTh s t with wait := .missed node })) ∧
    (∀ d q i, (getTh s t).wait = .fetch node a (some (d, q, i)) →
      exec (.nodeMissTimeout node) s = .next (asHart t (fun s => retire s 4 q (addLate d (failBits 12 i) s)) s1)))

/-- R100, R400: a context operation is refused before READY (status 1); an act-through or destruction of an id that is not live answers error 4; the physical function may act through any live context but the key core's, and destroys one
with no work left, whose id is then free; a creation with a bad watchdog exponent or no pages answers error 4; a resume lets every halted thread of the context go on, but one
that halts in the same cycle. What logs 6, 44 fix is the model's. -/
def Obligations.ContextEvents : Prop :=
  ∀ ctx s,
    (bit s.pkg.pkst 8 = false → exec (.ccCreate .pf) s = .next (reply .pf 1 0 [] s) ∧ exec (.ccDestroy .pf ctx) s = .next (reply .pf 1 0 [] s) ∧
      exec (.ccActThrough .pf ctx) s = .next (reply .pf 1 0 [] s)) ∧
    (bit s.pkg.pkst 8 = true →
      ((getCtx s ctx).live = false → exec (.ccActThrough .pf ctx) s = .next (ccAnswer true 4 s) ∧ exec (.ccDestroy .pf ctx) s = .next (ccAnswer true 4 s)) ∧
      ((getCtx s ctx).live = true → exec (.ccActThrough .pf ctx) s =
        .next (if ctx = 0xFFFF then ccAnswer true 2 s else ccAnswer false 0 { s with vf := { s.vf with acting := spSet 0 s.vf.acting 0 ctx } })) ∧
      ((getCtx s ctx).live = true → ctx ≠ 0 → ctx ≠ 0xFFFF → ctxBusy s ctx = true → exec (.ccDestroy .pf ctx) s = .next (ccAnswer true 3 s)) ∧
      ((getCtx s ctx).live = true → ctx ≠ 0 → ctx ≠ 0xFFFF → ctxBusy s ctx = false →
        ∃ t, exec (.ccDestroy .pf ctx) s = .next t ∧ getCtx t ctx = Ctx.none ∧ t.vf.ccres = 0) ∧
      (let p := (s.vf.ccparam.toNat / 2 ^ 47) % 2 ^ 5; let tenant := (s.vf.ccparam.toNat / 2 ^ 39) % 2 ^ 8
        (getPart s p).v = true → tenant ∈ (getPart s p).tenants →
        (s.vf.ccparam.toNat % 2 ^ 24 = 0 → exec (.ccCreate .pf) s = .next (ccAnswer true 4 s)) ∧
        (s.vf.ccparam.toNat % 2 ^ 24 ≠ 0 → s.vf.ccparam.toNat / 2 ^ 52 % 2 ^ 6 = 0 → freeCtx s ≤ 0xFFFE → (s.ctxs.filter fun x => x.2.live).length < 4096 →
          ∀ root num runs s2 n s3, let x : Tx := ⟨freeCtx s, freeCtx s, p, tenant, 0, 0, 0, .host .pf⟩; let s1 := addNode root (freshNode s x 0 0) s
          newNode s 0 = some root → allocPages (systemRanges s1) root 512 s1 = some (runs, s2) → newNode s1 0 = some num →
          makeRegion x num (ofN (s.vf.ccparam.toNat % 2 ^ 24 * 4096)) 2 0 s2 = .ok (n, s3) →
          ∃ t, exec (.ccCreate .pf) s = .next t ∧ t.vf.ccres = ofN (freeCtx s) ∧ (getCtx t (freeCtx s)).live = true ∧ (getCtx t (freeCtx s)).part = p ∧
            (getCtx t (freeCtx s)).tenant = tenant ∧ (getCtx t (freeCtx s)).root = root ∧ (getCtx t (freeCtx s)).wdog = 32 ∧ (getKey t (freeCtx s) 1).rights = 3))) ∧
    (∀ t n, spWf Thread.reset s.threads = true → (getTh s t).ctx = ctx → (getTh s t).wait = .halted n →
      ∃ u, exec (.debugResume .pf ctx) s = .next u ∧ getTh u t = if n = s.cycle then getTh s t else { getTh s t with wait := .run, wcount := 0 })

/-- R91, R92, R96, R97, R99, R338: what the name-tree transactions give, and how a revocation starts. What logs 6, 44, 48, 60, 67, 68 fix is the model's. -/
def Obligations.NameTransactions : Prop := TransactionResults ∧ RevocationStarts

/-- R338 to R340: the name instructions. What log 44 fixes is the model's. -/
def Obligations.NameInstructions : Prop := NameHandleInstructions ∧ NameRecordInstructions

/-- R64, R65, R67, R88, R90, R91: transactions and accesses of the host and of peers. What logs 13, 31, 44, 45, 60, 61 fix is the model's. -/
def Obligations.HostRequests : Prop := HostTransactions ∧ HostAccesses

/-- R88, R89, R96, R99: filters, acknowledgements and invalidations, and the misses of caches. What logs 10, 31, 48 fix is the model's. -/
def Obligations.RevocationsAndMisses : Prop := RevocationEvents ∧ CacheMisses

namespace Sys2Proof.Claims

/-- A format V instruction: its operation and fields, whether it reads x[va] as P and x[vb] as Q, whether its result is a late scalar, and
whether P is an address (R266, R352, R361). -/
structure VecForm where
  op   : VOp
  g    : VArgs
  p    : Bool
  q    : Bool
  late : Bool
  mem  : Bool

/-- The format V instructions, their scalar operands under X and K as R352 and R353 say. -/
def vecForm : Instr → Option VecForm
  | .vaddInt g => some ⟨.vadd, g, false, g.x && g.k.isNone, false, false⟩
  | .vaddIntK g => some ⟨.vadd, g, false, g.x && g.k.isNone, false, false⟩
  | .vsubInt g => some ⟨.vsub, g, false, g.x && g.k.isNone, false, false⟩
  | .vmulInt g => some ⟨.vmul, g, false, g.x && g.k.isNone, false, false⟩
  | .vmulh g => some ⟨.vmulh, g, false, g.x && g.k.isNone, false, false⟩
  | .vminInt g => some ⟨.vmin, g, false, g.x && g.k.isNone, false, false⟩
  | .vmaxInt g => some ⟨.vmax, g, false, g.x && g.k.isNone, false, false⟩
  | .vand g => some ⟨.vand, g, false, g.x && g.k.isNone, false, false⟩
  | .vor g => some ⟨.vor, g, false, g.x && g.k.isNone, false, false⟩
  | .vxor g => some ⟨.vxor, g, false, g.x && g.k.isNone, false, false⟩
  | .vsll g => some ⟨.vsll, g, false, g.x && g.k.isNone, false, false⟩
  | .vsr g => some ⟨.vsr, g, false, g.x && g.k.isNone, false, false⟩
  | .vmac g => some ⟨.vmac, g, false, g.x && g.k.isNone, false, false⟩
  | .vceqInt g => some ⟨.vceq, g, false, g.x && g.k.isNone, false, false⟩
  | .vcltInt g => some ⟨.vclt, g, false, g.x && g.k.isNone, false, false⟩
  | .vcleInt g => some ⟨.vcle, g, false, g.x && g.k.isNone, false, false⟩
  | .vmov g => some ⟨.vmov, g, false, g.x && g.k.isNone, false, false⟩
  | .vaddFlt g => some ⟨.fadd, g, false, g.x && g.k.isNone, false, false⟩
  | .vaddFltX g => some ⟨.fadd, g, false, g.x && g.k.isNone, false, false⟩
  | .vsubFlt g => some ⟨.fsub, g, false, g.x && g.k.isNone, false, false⟩
  | .vmulFlt g => some ⟨.fmul, g, false, g.x && g.k.isNone, false, false⟩
  | .vmulFltK g => some ⟨.fmul, g, false, g.x && g.k.isNone, false, false⟩
  | .vdiv g => some ⟨.fdiv, g, false, g.x && g.k.isNone, false, false⟩
  | .vfma g => some ⟨.ffma, g, false, g.x && g.k.isNone, false, false⟩
  | .vminFlt g => some ⟨.fmin, g, false, g.x && g.k.isNone, false, false⟩
  | .vmaxFlt g => some ⟨.fmax, g, false, g.x && g.k.isNone, false, false⟩
  | .vceqFlt g => some ⟨.fceq, g, false, g.x && g.k.isNone, false, false⟩
  | .vcltFlt g => some ⟨.fclt, g, false, g.x && g.k.isNone, false, false⟩
  | .vcleFlt g => some ⟨.fcle, g, false, g.x && g.k.isNone, false, false⟩
  | .vabsInt g => some ⟨.vabs, g, false, false, false, false⟩
  | .vwmulInt g => some ⟨.vwmul, g, false, false, false, false⟩
  | .vwmac g => some ⟨.vwmac, g, false, false, false, false⟩
  | .vdotInt g => some ⟨.vdot, g, false, false, false, false⟩
  | .vabsFlt g => some ⟨.fabs, g, false, false, false, false⟩
  | .vsqrt g => some ⟨.fsqrt, g, false, false, false, false⟩
  | .vexp2 g => some ⟨.fexp2, g, false, false, false, false⟩
  | .vlog2 g => some ⟨.flog2, g, false, false, false, false⟩
  | .vrcp g => some ⟨.frcp, g, false, false, false, false⟩
  | .vrsq g => some ⟨.frsq, g, false, false, false, false⟩
  | .vwmulFlt g => some ⟨.fwmul, g, false, false, false, false⟩
  | .vwfma g => some ⟨.fwfma, g, false, false, false, false⟩
  | .vdotFlt g => some ⟨.fdot, g, false, false, false, false⟩
  | .vcvt g => some ⟨.vcvt, g, false, false, false, false⟩
  | .vcvtW g => some ⟨.vcvt, g, false, false, false, false⟩
  | .vunpk g => some ⟨.vunpk, g, false, false, false, false⟩
  | .vunpk6 g => some ⟨.vunpk6, g, false, false, false, false⟩
  | .vpk g => some ⟨.vpk, g, false, false, false, false⟩
  | .vpk6 g => some ⟨.vpk6, g, false, false, false, false⟩
  | .vperm g => some ⟨.vperm, g, false, false, false, false⟩
  | .vld g => some ⟨.vld, g, true, true, false, true⟩
  | .vldX g => some ⟨.vld, g, true, true, false, true⟩
  | .vst g => some ⟨.vst, g, true, true, false, true⟩
  | .vstX g => some ⟨.vst, g, true, true, false, true⟩
  | .vldsc g => some ⟨.vldsc, g, true, true, false, true⟩
  | .vstsc g => some ⟨.vstsc, g, true, true, false, true⟩
  | .vgather g => some ⟨.vgather, g, true, false, false, true⟩
  | .vscatter g => some ⟨.vscatter, g, true, false, false, true⟩
  | .vldl g => some ⟨.vldl, g, true, false, false, false⟩
  | .vldlV g => some ⟨.vldlv, g, true, false, false, false⟩
  | .vstl g => some ⟨.vstl, g, true, false, false, false⟩
  | .vstlV g => some ⟨.vstlv, g, true, false, false, false⟩
  | .vslide g => some ⟨.vslide, g, false, true, false, false⟩
  | .vext g => some ⟨.vext, g, false, true, true, false⟩
  | .vins g => some ⟨.vins, g, true, true, false, false⟩
  | .vredAdd g => some ⟨.vredAdd, g, false, false, true, false⟩
  | .vredMax g => some ⟨.vredMax, g, false, false, true, false⟩
  | .vredMin g => some ⟨.vredMin, g, false, false, true, false⟩
  | .vattc w g => some ⟨.vattc w, g, false, false, false, false⟩
  | .vattf w g => some ⟨.vattf w, g, false, false, false, false⟩
  | _ => none

/-- The scalar registers a command reads at issue. -/
def VecForm.srcs (f : VecForm) : List Reg := (if f.p then [f.g.va] else []) ++ if f.q then [f.g.vb] else []

/-- P of a command (R266). -/
def VecForm.pOf (f : VecForm) (s : State) : Word := if f.p then operand f.srcs s f.g.va else 0

/-- Q of a command: K where it is present (R266, R353). -/
def VecForm.qOf (f : VecForm) (s : State) : Word := f.g.k.getD (if f.q then operand f.srcs s f.g.vb else 0)

/-- The rounding mode: E.RND less one, or FRM (R268, R353). -/
def modeOfCmd (g : VArgs) (th : Thread) : BitVec 3 :=
  match g.e with
  | some e => if e.rnd = 0 then th.thst.extractLsb' 3 3 else e.rnd - 1
  | none => th.thst.extractLsb' 3 3

/-- The command a form issues, with the order number and the mode of its thread (R353). -/
def VecForm.cmd (f : VecForm) (s : State) : VCmd := ⟨f.op, f.g, f.pOf s, f.qOf s, modeOfCmd f.g (cur s), (cur s).pc, (cur s).seq, 0, true⟩

/-- The bytes of a format V instruction: 8 more for each of E and K (R259). -/
def VecForm.len (f : VecForm) : Nat := 4 + (if f.g.e.isSome then 8 else 0) + if f.g.k.isSome then 8 else 0

/-- Lane j of a number of lanes of w bits (R352). -/
def lane (w j n : Nat) : Nat := n / 2 ^ (w * j) % 2 ^ w

/-- A lane's integer value, unsigned under U. -/
def laneInt (u : Bool) (w n : Nat) : Int := if u then n else if 2 ^ (w - 1) ≤ n then (n : Int) - 2 ^ w else n

/-- An exact result in a lane: clamped to the type's range under SAT, then modulo 2^w (R201). -/
def toLane (sat u : Bool) (w : Nat) (e : Int) : Nat :=
  let lo : Int := if u then 0 else -2 ^ (w - 1)
  let hi : Int := if u then 2 ^ w - 1 else 2 ^ (w - 1) - 1
  ((if sat then (if e < lo then lo else if hi < e then hi else e) else e) % 2 ^ w).toNat

/-- The integer operations lane by lane: width, SAT, U, X, then the old destination, a and b (R356). -/
def intLane (c : VCmd) : Option (Nat → Nat → Nat → Nat) :=
  let w := c.g.ty.width
  let u := c.g.u
  let sat := match c.g.e with | some e => e.sat | none => false
  let arith : (Int → Int → Int → Int) → Option (Nat → Nat → Nat → Nat) :=
    fun f => some fun d a b => toLane sat u w (f (laneInt u w d) (laneInt u w a) (laneInt u w b))
  match c.op with
  | .vadd => arith fun _ a b => a + b
  | .vsub => arith fun _ a b => a - b
  | .vmul => arith fun _ a b => a * b
  | .vmulh => arith fun _ a b => a * b / 2 ^ w
  | .vmin => arith fun _ a b => min a b
  | .vmax => arith fun _ a b => max a b
  | .vabs => arith fun _ a _ => if a < 0 then -a else a
  | .vmac => arith fun d a b => d + a * b
  | .vand => some fun _ a b => (a &&& b) % 2 ^ w
  | .vor => some fun _ a b => (a ||| b) % 2 ^ w
  | .vxor => some fun _ a b => (a ^^^ b) % 2 ^ w
  | .vsll => some fun _ a b => a * 2 ^ (b % w) % 2 ^ w
  | .vsr => some fun _ a b => (laneInt u w a / 2 ^ (b % w) % 2 ^ w).toNat
  | .vmov => some fun _ a b => if c.g.x then b else a
  | _ => none

/-- The integer compares (R356). -/
def intTest (c : VCmd) : Option (Nat → Nat → Bool) :=
  let w := c.g.ty.width
  match c.op with
  | .vceq => some fun a b => decide (a = b)
  | .vclt => some fun a b => decide (laneInt c.g.u w a < laneInt c.g.u w b)
  | .vcle => some fun a b => decide (laneInt c.g.u w a ≤ laneInt c.g.u w b)
  | _ => none

/-- The floating operations on values, with the flags of one lane (R358). -/
def floatLane (c : VCmd) : Option (FVal → FVal → FVal → Nat × FFlags) :=
  let f := VTy.fmt c.g.ty
  let m := c.frm.toNat
  match c.op with
  | .fadd => some fun _ a b => fAdd f m a b
  | .fsub => some fun _ a b => fSub f m a b
  | .fmul => some fun _ a b => fMul f m a b
  | .fdiv => some fun _ a b => fDiv f m a b
  | .ffma => some fun d a b => fFma f m a b d
  | .fabs => some fun _ a _ => fAbs f a
  | .fsqrt => some fun _ a _ => fSqrt f m a
  | .fexp2 => some fun _ a _ => fExp2 f m a
  | .flog2 => some fun _ a _ => fLog2 f m a
  | .frcp => some fun _ a _ => fDiv f m (.fin false 1 0) a
  | .frsq => some fun _ a _ => fRsqrt f m a
  | _ => none

/-- Whether the command's mask selects element j (R354). -/
def selects (c : VCmd) (th : Thread) (j : Nat) : Bool :=
  match c.g.e with
  | some e => !e.me || (getK th e.ksel.toNat).getLsbD j
  | none => true

/-- The operand b of lane j: vb's, or the low bits of Q under X (R352). -/
def laneB (c : VCmd) (th : Thread) (w j : Nat) : Nat := if c.g.x then c.qv.toNat % 2 ^ w else lane w j (getV th (vbOf c)).toNat

/-- Lane j of register r. -/
def laneV (th : Thread) (w r j : Nat) : Nat := lane w j (getV th r).toNat

/-- Registers of the window but one are as before, and everything else of the thread. -/
def OnlyV (r : Nat) (th th' : Thread) : Prop := th' = { th with v := th'.v } ∧ ∀ n, n < 16 → n ≠ r → getV th' n = getV th n

/-- Mask registers but one are as before, and everything else of the thread. -/
def OnlyK (r : Nat) (th th' : Thread) : Prop := th' = { th with k := th'.k } ∧ ∀ n, n < 4 → n ≠ r % 4 → getK th' n = getK th n

/-- A hardware thread whose core has nothing in its slots' vector queues and room in its own (R353). -/
def UnitFree (s : State) : Prop :=
  s.me < 16384 ∧ (∀ n, n < 16 → (getTh s (16 * coreOf s.me + n)).vq = []) ∧ (getCore s (coreOf s.me)).vqueue.length < 32

/-- The mask commands: operation, S, destination, the fields a and b, whether each names a scalar, whether the result is a late scalar
(R375). -/
def maskForm : Instr → Option (VOp × Bool × Reg × Reg × Reg × Bool × Bool × Bool)
  | .kand q k j h => some (.kand, q, k.setWidth 4, j.setWidth 4, h.setWidth 4, false, false, false)
  | .kor q k j h => some (.kor, q, k.setWidth 4, j.setWidth 4, h.setWidth 4, false, false, false)
  | .kxor q k j h => some (.kxor, q, k.setWidth 4, j.setWidth 4, h.setWidth 4, false, false, false)
  | .knot q k j => some (.knot, q, k.setWidth 4, j.setWidth 4, 0, false, false, false)
  | .kset q k a => some (.kset, q, k.setWidth 4, a, 0, true, false, false)
  | .kins q k a b => some (.kins, q, k.setWidth 4, a, b, true, true, false)
  | .kext q d k b => some (.kext, q, d, k.setWidth 4, b, false, true, true)
  | .kpop q d k => some (.kpop, q, d, k.setWidth 4, 0, false, false, true)
  | _ => none

/-- A mask command as a form. -/
def maskVec (m : VOp × Bool × Reg × Reg × Reg × Bool × Bool × Bool) : VecForm :=
  ⟨m.1, ⟨m.2.1, m.2.2.1, m.2.2.2.1, m.2.2.2.2.1, .q4, false, false, none, none⟩, m.2.2.2.2.2.1, m.2.2.2.2.2.2.1, m.2.2.2.2.2.2.2, false⟩

/-- A command issues: it enters the slot's queue with its operands' values, a scalar result late (R157, R266, R353). -/
def IssuesAs (i : Instr) (f : VecForm) (s : State) : Prop :=
  exec i s = .next (retireLive s f.len none f.g.q (enqueue (f.cmd s)
    (if f.late then addLateOpen f.g.vd 8 0 (operandState f.srcs s) else operandState f.srcs s)))

/-- R89, R157, R187, R266, R353: a format V instruction is illegal without a vector window, waits while its slot's queue holds four commands, waits for a
node record that the host must supply, and otherwise issues. -/
def VectorIssues : Prop :=
  ∀ i f, vecForm i = some f → WellFormed i → ∀ s,
    ((cur s).vwin = false → TrapsHere i s 1 0 ((encode i).base.setWidth 64)) ∧
    ((cur s).vwin = true → (cur s).capture = none → 4 ≤ (cur s).vq.length → exec i s = .next (park .vqueue s)) ∧
    ((cur s).vwin = true → ((cur s).capture ≠ none ∨ (cur s).vq.length < 4) → QueuesReady f.srcs [] s →
      let w := whoOf (operandState f.srcs s) s.me
      let miss := hostMiss (operandState f.srcs s) w.unit w.ctx (hdl (f.pOf s))
      ((∀ n, f.mem = true → miss = some n → (cur s).wait = .missed n) → IssuesAs i f s) ∧
        ∀ n, f.mem = true → miss = some n → (cur s).wait ≠ .missed n →
          exec i s = .next (pushOnce (.nodeCacheMiss n ⟨w.ctx, true⟩) (park (.fetch n (f.pOf s) none) s)))

/-- R353, R372: an issued command joins a capture in progress, whose last command makes the slot's queued entry the repetition, or its slot's queue, and
passes to the vector unit when the unit has room. -/
def CommandsQueue : Prop :=
  ∀ v s,
    (∀ c, (cur s).capture = some c → 1 < c.left →
      enqueue v s = modTh s s.me fun th => { th with capture := some { c with left := c.left - 1, cmds := c.cmds ++ [v] } }) ∧
    (∀ c o n, (cur s).capture = some c → c.left ≤ 1 → (cur s).vq = [(o, .capturing n)] →
      (cur (enqueue v s)).capture = none ∧ (cur (enqueue v s)).vq = [(o, .rep (c.cmds ++ [v]) n 0)]) ∧
    ((cur s).capture = none → UnitFree s →
      let t := enqueue v s
      (getCore t (coreOf s.me)).vqueue = (getCore s (coreOf s.me)).vqueue ++ [(s.me, .cmd v)] ∧ (cur t).vq = [] ∧
        (cur t).vout = (cur s).vout + 1 ∧ Instr.vectorCommandExec (coreOf s.me) ∈ t.pending ∧ OtherHartsKept s.me s t ∧ MachineKept s t)

/-- R187, R372 to R374: rep starts a capture; rep.wait, vfence and vbusy speak of the slot's commands; each ends a capture, and is illegal without a window. -/
def VectorControl : Prop :=
  ∀ s q c a d,
    ((cur s).vwin = false → ∀ i, i = .rep q c a ∨ i = .repWait q d ∨ i = .vfence q ∨ i = .vbusy q d →
      TrapsHere i s 1 0 ((encode i).base.setWidth 64)) ∧
    ((cur s).vwin = true → (cur s).capture = none →
      ((cur s).vq.length < 4 → QueuesReady [a] [] s → exec (.rep q c a) s = .next (retire s 4 q (joinQueue (.capturing (min (operand [a] s a).toNat 4096))
        (modTh (operandState [a] s) s.me fun th => { th with capture := some ⟨c.toNat + 1, [], min (operand [a] s a).toNat 4096⟩ })))) ∧
      (4 ≤ (cur s).vq.length → exec (.rep q c a) s = .next (park .vqueue s)) ∧
      (let idle := (cur s).vq = [] ∧ (cur s).vout = 0;
        (idle → exec (.repWait q d) s = .next (retire s 4 q (addLate d (ofN (cur s).lastRep) s)) ∧ exec (.vfence q) s = .next (retire s 4 q s) ∧
          exec (.vbusy q d) s = .next (retire s 4 q (addLate d 0 s))) ∧
        (¬ idle → (seqFault s 4 = none → exec (.repWait q d) s = .next (park .vjoin s) ∧ exec (.vfence q) s = .next (park .vjoin s)) ∧
          exec (.vbusy q d) s = .next (retire s 4 q (addLate d 1 s)))))

/-- R187, R375: mask commands issue as vector commands do, and are illegal without a window. -/
def MaskIssues : Prop :=
  ∀ i m, maskForm i = some m → ∀ s, let f := maskVec m
    ((cur s).vwin = false → TrapsHere i s 1 0 ((encode i).base.setWidth 64)) ∧
    ((cur s).vwin = true → (cur s).capture = none → 4 ≤ (cur s).vq.length → exec i s = .next (park .vqueue s)) ∧
    ((cur s).vwin = true → (cur s).capture = none → (cur s).vq.length < 4 → QueuesReady f.srcs [] s → IssuesAs i f s)

/-- R356: the integer operations in every lane. -/
def IntegerLanes : Prop :=
  ∀ c th f, intLane c = some f → let w := c.g.ty.width; let o := vectorOp c th
    (∀ j, j < 4096 / w → laneV o.1 w (vdOf c) j =
      if selects c th j then f (laneV th w (vdOf c) j) (laneV th w (vaOf c) j) (laneB c th w j) else laneV th w (vdOf c) j) ∧
    o.2 = (0, none) ∧ OnlyV (vdOf c) th o.1

/-- R356: the integer compares write the selected bits below N of k(vd). -/
def CompareBits : Prop :=
  ∀ c th f, intTest c = some f → let w := c.g.ty.width; let o := vectorOp c th
    (∀ j, j < 1024 → (getK o.1 (vdOf c)).getLsbD j =
      if j < 4096 / w ∧ selects c th j = true then f (laneV th w (vaOf c) j) (laneB c th w j) else (getK th (vdOf c)).getLsbD j) ∧
    o.2 = (0, none) ∧ OnlyK (vdOf c) th o.1

/-- R205, R354, R358: the floating operations in every lane under the command's mode, with the flags of the selected lanes. -/
def FloatLanes : Prop :=
  ∀ c th f, floatLane c = some f → c.g.ty = .bf16 ∨ c.g.ty = .f16 ∨ c.g.ty = .f32 →
    let w := c.g.ty.width; let m := VTy.fmt c.g.ty; let o := vectorOp c th
    let at_ : Nat → Nat × FFlags := fun j => f (m.decode (laneV th w (vdOf c) j)) (m.decode (laneV th w (vaOf c) j)) (m.decode (laneB c th w j))
    (∀ j, j < 4096 / w → laneV o.1 w (vdOf c) j = if selects c th j then (at_ j).1 % 2 ^ w else laneV th w (vdOf c) j) ∧
    (∀ n, n < 5 → o.2.1.getLsbD n = (List.range (4096 / w)).any fun j => selects c th j && (at_ j).2.getLsbD n) ∧
    o.2.2 = none ∧ OnlyV (vdOf c) th o.1

/-- R205, R359: the fixed results on special operands in bf16, f16 and f32; flags NV, DZ, OF, UF and NX are bits 0 to 4. -/
def FloatSpecials : Prop :=
  ∀ f, f = fmtF32 ∨ f = fmtF16 ∨ f = fmtBf16 → ∀ m g s t e,
    let nv (g : Bool) : FFlags := if g then 1 else 0
    let z : Bool → FVal := fun s => .fin s 0 e
    let inf : Bool → Nat := fun s => (if s then 2 ^ (f.eb + f.mb) else 0) + (2 ^ f.eb - 1) * 2 ^ f.mb
    fAbs f (.nan g) = (f.nan, nv g) ∧ fSqrt f m (.nan g) = (f.nan, nv g) ∧ fExp2 f m (.nan g) = (f.nan, nv g) ∧
    fLog2 f m (.nan g) = (f.nan, nv g) ∧ fRsqrt f m (.nan g) = (f.nan, nv g) ∧ fAdd f m (.nan g) (.inf s) = (f.nan, nv g) ∧
    fExp2 f m (.inf true) = (0, 0) ∧ fExp2 f m (.inf false) = (inf false, 0) ∧ fLog2 f m (z s) = (inf true, 2) ∧
    fLog2 f m (.inf true) = (f.nan, 1) ∧ (∀ k, k ≠ 0 → fLog2 f m (.fin true k e) = (f.nan, 1)) ∧ fLog2 f m (.inf false) = (inf false, 0) ∧
    fLog2 f m (.fin false 1 0) = (0, 0) ∧ fDiv f m (.fin false 1 0) (z s) = (inf s, 2) ∧ fRsqrt f m (z s) = (inf s, 2) ∧
    (∀ k, k ≠ 0 → fRsqrt f m (.fin true k e) = (f.nan, 1) ∧ fSqrt f m (.fin true k e) = (f.nan, 1)) ∧ fRsqrt f m (.inf true) = (f.nan, 1) ∧
    fRsqrt f m (.inf false) = (0, 0) ∧ fAdd f m (.inf s) (.inf (!s)) = (f.nan, 1) ∧ fMul f m (.inf s) (z t) = (f.nan, 1) ∧
    fDiv f m (z s) (z t) = (f.nan, 1) ∧ fDiv f m (.inf s) (.inf t) = (f.nan, 1)

/-- R368, R375: permutations, inserts and extracts, and the mask operations. -/
def PermutesAndMasks : Prop :=
  ∀ c th, let w := c.g.ty.width; let o := vectorOp c th; let kd := vdOf c
    (c.op = .vperm → ∀ j, j < 4096 / w → laneV o.1 w (vdOf c) j =
      if selects c th j then laneV th w (vaOf c) (laneV th w (vbOf c) j % (4096 / w)) else laneV th w (vdOf c) j) ∧
    (c.op = .vslide → ∀ j, j < 4096 / w → laneV o.1 w (vdOf c) j =
      if selects c th j then
        (if 0 ≤ (j : Int) + c.qv.toInt ∧ (j : Int) + c.qv.toInt < (4096 / w : Nat) then laneV th w (vaOf c) ((j : Int) + c.qv.toInt).toNat else 0)
      else laneV th w (vdOf c) j) ∧
    (c.op = .vext → o = (th, 0, some (ofI (laneInt c.g.u w (laneV th w (vaOf c) (c.qv.toNat % (4096 / w))))))) ∧
    (c.op = .vins → ∀ j, j < 4096 / w → laneV o.1 w (vdOf c) j =
      if j = c.qv.toNat % (4096 / w) then c.p.toNat % 2 ^ w else laneV th w (vdOf c) j) ∧
    (c.op = .kand → getK o.1 kd = getK th (vaOf c) &&& getK th (vbOf c)) ∧ (c.op = .kor → getK o.1 kd = getK th (vaOf c) ||| getK th (vbOf c)) ∧
    (c.op = .kxor → getK o.1 kd = getK th (vaOf c) ^^^ getK th (vbOf c)) ∧ (c.op = .knot → getK o.1 kd = ~~~ getK th (vaOf c)) ∧
    (c.op = .kset → ∀ j, j < 1024 → (getK o.1 kd).getLsbD j = decide (j < c.p.toNat)) ∧
    (c.op = .kins → ∀ j, j < 1024 → (getK o.1 kd).getLsbD j =
      if j / 64 = c.qv.toNat % 16 then c.p.getLsbD (j % 64) else (getK th kd).getLsbD j) ∧
    (c.op = .kext → o = (th, 0, some (ofN ((getK th (vaOf c)).toNat / 2 ^ (64 * (c.qv.toNat % 16)))))) ∧
    (c.op = .kpop → o = (th, 0, some (ofN ((List.range 1024).filter fun j => (getK th (vaOf c)).getLsbD j).length)))

end Sys2Proof.Claims

/-! ## Vector instructions -/

/-- R354, R356, R358, R359, R368, R375: what integer, floating, compare, permutation and mask commands write. What logs 11, 42, 66 fix is the model's. -/
def Obligations.VectorResults : Prop := IntegerLanes ∧ CompareBits ∧ FloatLanes ∧ FloatSpecials ∧ PermutesAndMasks

/-- R193, R353, R355, R372: the vector unit executes the command at its head, ends it, ORs its flags into THST (an instruction's write of THST in the same cycle stands) and lets its scalar result return; a vector fault discards
the slot's later commands and is refused as a returned trap; the sequencer issues each iteration of a repetition in turn, each of which writes its scalar
results, then counts it done. What logs 11, 42, 66 fix is the model's. -/
def Obligations.VectorUnit : Prop :=
  ∀ core s t rest,
    (∀ c, (getCore s core).vqueue = (t, .cmd c) :: rest →
      (∀ x, memoryOp t c s = none → vectorOp c (getTh s t) = x → ∃ u, exec (.vectorCommandExec core) s = .next u ∧
        (getCore u core).vqueue = (t, .ended c x.2.1 x.2.2) :: rest ∧ getTh u t = x.1 ∧ Instr.vectorCommandRetire core ∈ u.pending ∧ SameBytes s u) ∧
      (∀ s1, memoryOp t c s = some (none, s1) → ∃ u, exec (.vectorCommandExec core) s = .next u ∧ u.mem = s1.mem ∧ getTh u t = getTh s1 t) ∧
      (∀ r a s1, memoryOp t c s = some (some (r, a), s1) → ∃ u, exec (.vectorCommandExec core) s = .next u ∧ u.mem = s1.mem ∧ (getTh u t).vq = [] ∧
        (getTh u t).capture = none ∧ (∀ e ∈ (getCore u core).vqueue, e.1 ≠ t) ∧ ⟨c.pc, c.seq, ⟨0x0C, r, a⟩⟩ ∈ (getTh u t).refused)) ∧
    (∀ c fl r, (getCore s core).vqueue = (t, .ended c fl r) :: rest → ∃ u, exec (.vectorCommandRetire core) s = .next u ∧
      (∀ n, n < 64 → (getTh u t).thst.getLsbD n =
        ((getTh s t).thst.getLsbD n || ((getTh s t).thstAt != s.cycle + 1 && decide (6 ≤ n ∧ n < 11) && fl.getLsbD (n - 6)))) ∧
      (∀ v l, r = some v → l ∈ (getTh s t).late → l.seq = c.seq → l.done = false → Instr.lateResultReturn t none ∈ u.pending ∧
        { l with v := v, done := true } ∈ (getTh u t).late ∧ (c.last = false → l ∈ (getTh u t).late)) ∧
      ((∀ n, n < 16 → (getTh s (16 * core + n)).vq = []) → (getTh u t).vout = (getTh s t).vout - if c.it = 0 then 1 else 0) ∧ SameBytes s u) ∧
    (∀ cmds n i, (getCore s core).vqueue = (t, .rep cmds n i) :: rest →
      (i < n → ∃ u, exec (.repSequenceStart core) s = .next u ∧ (getCore u core).vqueue =
        cmds.map (fun c => (t, .cmd { c with it := i + 1, last := i + 1 == n })) ++ (t, .rep cmds n (i + 1)) :: rest ∧ u.threads = s.threads ∧ SameBytes s u) ∧
      (n ≤ i → ∃ u, exec (.repSequenceStart core) s = .next u ∧ (getTh u t).lastRep = n ∧
        (n = 0 → ∀ l ∈ (getTh u t).late, l.done = true ∨ l.seq ∉ cmds.map (·.seq)) ∧ SameBytes s u))

/-- R157, R187, R266, R353, R372 to R375: the issue of vector and mask commands, what becomes of one issued, repetition and the vector fences. -/
def Obligations.VectorIssue : Prop := VectorIssues ∧ CommandsQueue ∧ VectorControl ∧ MaskIssues

namespace Sys2Proof.Claims

/-- The address names a live collective stream node that the issuing thread may use: record here, rights, kind, no filter (R344). -/
def ReachesStream (s : State) (x : Word) (need : Need) (node : Nat) : Prop :=
  let w := whoOf s s.me
  hostMiss s w.unit w.ctx (hdl x) = none ∧
    (∃ o gen, resolve s w (ofN (hdl x * 2 ^ 48)) 0 need = .ok (.unit node 5 o gen) ∧ filtered s (node / 2 ^ 28 % 16) node gen = false) ∧
    (getNode s node).arg ≠ 1

/-- The issuing core is member m of the stream of a node, which runs (R343, R344). -/
def LiveMember (s : State) (node m : Nat) : Prop :=
  memberIndex s node = some m ∧ (getStream s node).v = true ∧ (getStream s node).failed = false

/-- The n bytes at a local offset lie in one level of the issuing core's local memory, as these pieces, and can be read at once (R345). -/
def LocalSource (s : State) (o n : Nat) (ps : List Piece) : Prop :=
  let w := whoOf s s.me
  let rot := rotOf s w.part w.tenant
  let level := localLevel s w.core rot.1
  n ≠ 0 ∧ level o ≠ 0 ∧ level o ≠ 3 ∧ level (o + n - 1) = level o ∧ localRuns s w.core rot.1 rot.2 (n + 1) o n = .ok ps ∧
    underTest s ps = false ∧ (leavesCluster s s.me true ps = false ∨ hartMoves s s.me = true) ∧ resvBlocked s s.me (wordsOf ps) = none ∧ refusedPiece s (cur s).part ps = none ∧ badWord s ps = none

/-- A late code of R343 as a name's failure is: a negative number. -/
def streamFails (i : Instr) (s s1 : State) (q : Bool) (d : Reg) (code : Int) : Prop := exec i s = .next (retire s 4 q (addLate d (ofI code) s1))

/-- A field of SDESC of a stream node (R341). -/
def sdescField (s : State) (node hi lo : Nat) : Nat := (sdescOf s node).toNat / 2 ^ lo % 2 ^ (hi + 1 - lo)

/-- R344, R345, R347: what the stream instructions return and do at a member of a running stream, and their first answers otherwise. -/
def StreamAnswers : Prop :=
  ∀ q d a s node, QueuesReady [a] [] s →
    let s1 := operandState [a] s
    let x := operand [a] s a
    (ReachesStream s1 x needStream node →
      (∀ i, i = .vsMark q d a ∨ i = .vsSt q d a ∨ i = .vsRejoin q d a →
        (memberIndex s1 node = none → streamFails i s s1 q d (-6)) ∧
        (∀ m, memberIndex s1 node = some m → (getStream s1 node).v = false ∨ (getStream s1 node).failed = true → streamFails i s s1 q d (-7))) ∧
      (∀ m, LiveMember s1 node m →
        let st := getStream s1 node
        let k := st.member m
        exec (.vsSt q d a) s = .next (retire s 4 q (addLate d (ofN (k.lcc * 2 ^ 32 + k.next % 2 ^ 32)) s1)) ∧
        (k.rejoin = false → exec (.vsRejoin q d a) s = .next (retire s 4 q (addLate d (ofN (k.next % 2 ^ 32)) s1))) ∧
        (k.rejoin = true → exec (.vsRejoin q d a) s = .next (retire s 4 q (addLate d (ofN st.resume)
          (modStream s1 node fun x => x.modMember m fun k => { k with next := st.resume, rejoin := false })))) ∧
        (2 ≤ k.send.length → streamFails (.vsMark q d a) s s1 q d (-10)) ∧
        (k.send.length < 2 → exec (.vsMark q d a) s = .next (retire s 4 q (addLate d 0
          (sendChunk node m ⟨k.next, m, st.op, true, false, false, st.restitched, []⟩ id s1)))))) ∧
    (ReachesStream s1 x needWr node →
      ((getStream s1 node).v = true → exec (.vsClose q d a) s = .next (retire s 4 q (addLate d 0 (closeStream node s1)))) ∧
      ((getStream s1 node).v = false → streamFails (.vsClose q d a) s s1 q d (-7)))

/-- R343, R345: vs.set creates the stream its node describes and stores START, or changes nothing; vs.red sends the described bytes as the chunk of the
member's NEXT, which it returns and counts on, after the checks of R345 in their order. -/
def StreamSends : Prop :=
  ∀ q d a b s node, QueuesReady [a, b] [] s →
    let s1 := operandState [a, b] s
    let x := operand [a, b] s a
    let y := operand [a, b] s b
    (ReachesStream s1 x needWr node → ∀ code s2, createStream node y s1 = (code, s2) →
      exec (.vsSet q d a b) s = .next (retire s 4 q (addLate d (ofI code) (if code = 0 then wrWord s2 (nodeKey node 0x10) y else s1)))) ∧
    (ReachesStream s1 x needStream node → ∀ m, LiveMember s1 node m →
      let st := getStream s1 node
      let k := st.member m
      let n := y.toNat / 2 ^ 32 % 2 ^ 13
      let good := y.toNat < 2 ^ 45 ∧ n % 8 = 0 ∧ n ≤ 4096 ∧ (st.op = 12 → n % (16 + 4 * dwLanes st.dw) = 0)
      let sends : List Byte → State → Prop := fun data s2 =>
        (2 ^ 32 ≤ k.next → streamFails (.vsRed q d a b) s s2 q d (-9)) ∧
        (k.next < 2 ^ 32 → 2 ≤ k.send.length → streamFails (.vsRed q d a b) s s2 q d (-10)) ∧
        (k.next < 2 ^ 32 → k.send.length < 2 → exec (.vsRed q d a b) s = .next (retire s 4 q (addLate d (ofN k.next)
          (sendChunk node m ⟨k.next, m, st.op, false, false, false, st.restitched, data⟩ (fun k => { k with next := k.next + 1 }) s2))))
      (¬ good → streamFails (.vsRed q d a b) s s1 q d (-8)) ∧ (good → n = 0 → sends [] s1) ∧
      (good → ∀ ps, LocalSource s1 (y.toNat % 2 ^ 32) n ps → sends (rdPieces s1 ps) (atTurn ps s1)))

/-- R26, R37, R42, R341, R343: creation changes the stream and its router entries alone: it is live, has the members, operation and number of SDESC, keeps off
the links that are down, every member's NEXT is START and its LCC 0, each of its router entries is valid, at set 0, with the stream's partition, number
and TMO, and every station it takes has the buffers reserved there; a refusal changes nothing: a live stream's is −4, an operation past 12's −3. A
store to START does the same, with no answer. -/
def StreamCreation : Prop :=
  ∀ node v s,
    (∀ s', createStream node v s = (0, s') →
      let st := getStream s' node
      s' = { s with streams := s'.streams, routers := s'.routers } ∧ (∀ n, n ≠ node → getStream s' n = getStream s n) ∧
      st.v = true ∧ st.failed = false ∧ st.frozen = false ∧ st.dead = none ∧ st.op = sdescField s node 63 60 ∧ st.num = sdescField s node 56 45 ∧
      st.tmo = sdescField s node 44 29 ∧ st.nland = sdescField s node 19 16 ∧ st.slotsz = sdescField s node 15 12 ∧
      st.members.length = sdescField s node 28 20 ∧ st.avoid = s.pkg.linkDown ∧
      (∀ h ∈ st.hosts, buffersTaken s' (h.2 / 128) ≤ Config.stationBuffers (h.2 / 128)) ∧
      (∀ r ∈ st.entries, let e := getRouter s' r; e.v = true ∧ e.node = node ∧ e.stream = st.num ∧ e.part = st.part ∧ e.cur = 0 ∧ e.failed = false ∧ e.altUsed = false ∧
        e.nseq = (if st.op = 0 then 0 else 1) ∧ e.tmo = st.tmo ∧ e.sets.length = 4) ∧
      ∀ k ∈ st.members, k.next = v.toNat % 2 ^ 32 ∧ k.lcc = 0 ∧ k.send = [] ∧ k.rejoin = false) ∧
    (∀ code s', createStream node v s = (code, s') → code ≠ 0 → s' = s) ∧
    ((getStream s node).v = true → createStream node v s = (-4, s)) ∧
    ((getStream s node).v = false → 13 ≤ sdescField s node 63 60 → createStream node v s = (-3, s)) ∧
    ((getNode s node).v = true → (getNode s node).kind = 5 → (getNode s node).arg = 0 → ∀ code s', createStream node v s = (code, s') →
      exec (.streamStartStore node v) s = .next (if code = 0 then wrWord s' (nodeKey node 0x10) v else s))

/-- R40 to R46: arrivals at a station join its input, or fail the stream past two buffers or at an input that is none of its own; a silent input of a member is
declared dead, a silent one that a station feeds has no alternative and fails the stream; the first death freezes the stream, replaces the hinge sets next to the member and asks every survivor for its LCC; a second, or one whose alternative is missing, fails it; after the
last report the stream resumes one past the least LCC with every member to rejoin. -/
def StreamEvents : Prop :=
  ∀ node s, let st := getStream s node; st.v = true → st.failed = false →
    (∀ a i c, st.frozen = false → st.op ≠ 0 → let b := spGet [] st.bufs (bufKey a i)
      let joins : Chunk → State := fun c => pumpStream node 2048 (modStream s node fun x =>
        { x with bufs := spSet [] x.bufs (bufKey a i) (b ++ [c]), quiet := spErase (bufKey a i) x.quiet })
      (2 ≤ b.length ∨ hasInput s node a i = false →
        exec (.chunkArrival node a i c) s = .next (failStream node s) ∧ exec (.markerArrival node a i c) s = .next (failStream node s)) ∧
      (b.length < 2 → hasInput s node a i = true → exec (.markerArrival node a i c) s = .next (joins { c with mark := true, data := [] })) ∧
      (b.length < 2 → hasInput s node a i = true → c.unm = false → c.split = false → c.data.length % 8 = 0 → c.data.length ≤ 4096 → st.op ≠ 12 →
        exec (.chunkArrival node a i c) s = .next (joins { c with mark := false })) ∧
      (b.length < 2 → c.unm = false → c.split = false → c.data.length % 8 ≠ 0 ∨ 4096 < c.data.length →
        exec (.chunkArrival node a i c) s = .next (failStream node s))) ∧
    (∀ a i, (st.silent a i = true → exec (.streamInputTimeout node a i) s =
        .next (if st.memberFed a i then pushOnce (.inputDeadDeclare node (st.inputMember a i)) s else failStream node s)) ∧
      (st.silent a i = false → exec (.streamInputTimeout node a i) s = .next s)) ∧
    (∀ m, m < st.members.length → st.frozen = false →
      (st.dead = none → noAlternative s st m = false → ∃ t, exec (.inputDeadDeclare node m) s = .next t ∧ (getStream t node).frozen = true ∧
        (getStream t node).dead = some m ∧ (∀ k ∈ nextTo s st m, (getRouter t k).altUsed = true) ∧
        (∀ k, k < st.members.length → k ≠ m → k ∈ (getStream t node).awaited ∧ Instr.lccReport node k ∈ t.pending) ∧ (getStream t node).bufs = [] ∧ SameBytes s t) ∧
      (st.dead = none → noAlternative s st m = true → ∃ t, exec (.inputDeadDeclare node m) s = .next t ∧ (getStream t node).failed = true ∧ SameBytes s t) ∧
      (∀ m', st.dead = some m' → m' ≠ m → ∃ t, exec (.inputDeadDeclare node m) s = .next t ∧ (getStream t node).failed = true ∧ SameBytes s t)) ∧
    (∀ m, st.frozen = true →
      (st.awaited = [m] → ∃ t, exec (.lccReport node m) s = .next t ∧
        (getStream t node).resume = (st.survivors.foldl (fun n k => min n (st.member k).lcc) (2 ^ 32)) + 1 ∧ (getStream t node).restitched = true) ∧
      (m ∈ st.awaited → st.awaited.filter (· != m) ≠ [] →
        exec (.lccReport node m) s = .next (modStream s node fun x => { x with awaited := st.awaited.filter (· != m) })))

/-- R341, R346: a result lands in its SEQ's slot: its bytes at 64 past the slot's start on, then a landing word set full that names SEQ, stream, offset and length; a landing waits while a new SEQ's first landing word is full. -/
def StreamLanding : Prop :=
  ∀ node m c s, let st := getStream s node; let k := st.member m; let base := k.land + st.slotOf c.seq * st.slotsz * 4096
    st.v = true → st.failed = false → m < st.members.length →
    (landingWaits s node m c = true → exec (.chunkLanding node m c) s = .next s) ∧
    (landingWaits s node m c = false → exec (.chunkLanding node m c) s = .next (pumpStream node 2048 (landChunk node m c s))) ∧
    (∀ p w, c.mark = false → c.unm = false → c.rst = false → c.data.length % 8 = 0 → (spGet [] k.slots (st.slotOf c.seq)).getD 0 0 ≠ c.seq + 1 →
      64 + c.data.length ≤ st.slotsz * 4096 → landRuns s node k (base + 64) c.data.length = [p] → landRuns s node k base 8 = [w] →
      p.len = c.data.length → w.len = 8 → w.key % 8 = 0 → (p.key + p.len ≤ w.key ∨ w.key + 8 ≤ p.key) →
      (∀ x ∈ wordsOf [p, w], spGet [] s.waits x = []) →
      let t := landChunk node m c s
      rdRun t p.key p.len = c.data ∧ feOf t w.key = true ∧
        rdWord t w.key = ofN (c.seq % 2 ^ 24 * 2 ^ 40 + st.num * 2 ^ 28 + c.data.length / 8 * 2 ^ 4) ∧
        SameBytesOutside [p, w] s t ∧ (getStream t node).failed = false)

/-- A 12-bit operation of a cell program uses allotted codes, and zero in the fields it does not use (R386). -/
def opAllowed (v : Nat) : Prop :=
  let opc := v / 2 ^ 9; let x := v / 2 ^ 6 % 8; let y := v / 2 ^ 3 % 8; let z := v % 8
  opc ≤ 6 ∧ x ≤ 5 ∧ (if opc = 6 then y = 0 else y ≤ 5) ∧ if opc = 3 then z ≤ 5 else z = 0

/-- A program word that mcload accepts (R386). -/
def programAllowed (w : Word) : Prop :=
  let top := w.toNat / 2 ^ 61 % 4
  2 ^ 63 ≤ w.toNat ∧ w.toNat / 2 ^ 48 % 2 ^ 13 = 0 ∧
    ∀ n, n < 4 → let v := w.toNat / 2 ^ (12 * n) % 2 ^ 12; if n ≤ top then opAllowed v else v = 0

/-- R379, R383, R386: mcload stores a program that obeys R386 and returns 0, else 1; mcrd returns a slot, mcclr clears it; slot 3 may be changed at trap level 1 alone. mm needs a vector window, 64-byte
alignment and a memory place; it joins its cluster's queue with its program and waits. -/
def MatrixInstructions : Prop :=
  ∀ q d a (i : BitVec 2) s, (tl (cur s) = true ∨ i ≠ 3) →
    (QueuesReady [a] [d] s → let s1 := operandState [a] s
      (programAllowed (operand [a] s a) →
        exec (.mcload q d a i) s = .next (retire s 4 q (wr s.me d 0 (setProg s.me i.toNat (operand [a] s a) s1)))) ∧
      (¬ programAllowed (operand [a] s a) → exec (.mcload q d a i) s = .next (retire s 4 q (wr s.me d 1 s1)))) ∧
    exec (.mcclr q i) s = .next (retire s 4 q (setProg s.me i.toNat 0 s)) ∧
    (∀ j, QueuesReady [] [d] s → exec (.mcrd q d j) s = .next (retire s 4 q (wr s.me d (getProg s s.me j.toNat) s))) ∧
    (∀ t w n, getProg (setProg s.me i.toNat w s) t n = if coreOf t = coreOf s.me ∧ progKey s t n = progKey s s.me i.toNat then w else getProg s t n) ∧
    (∀ x, tl (cur x) = false → TrapsHere (.mcload q d a 3) x 1 0 ((encode (.mcload q d a 3)).base.setWidth 64) ∧
      TrapsHere (.mcclr q 3) x 1 0 ((encode (.mcclr q 3)).base.setWidth 64)) ∧
    ((cur s).vwin = false → TrapsHere (.mm q d a) s 1 0 ((encode (.mm q d a)).base.setWidth 64)) ∧
    ((cur s).vwin = true → QueuesReady [a] [d] s →
      let s1 := operandState [a] s; let p := operand [a] s a; let cl := s.me / 128
      (p.toNat % 64 ≠ 0 → TrapsAt (.mm q d a) s 4 3 0 p) ∧
      (s.me < 16384 → p.toNat % 64 = 0 → seqFault s 4 = none → (let w := whoOf s1 s1.me; hostMiss s1 w.unit w.ctx (hdl p) = none ∧ ∃ ps, resolve s1 w p 192 needRw = .ok (.mem ps)) →
        ∃ t, exec (.mm q d a) s = .next t ∧ (cur t).wait = .matrix d 4 q ∧ (cur t).pc = (cur s).pc ∧
          spGet [] t.mmq cl = spGet [] s.mmq cl ++ [(s.me, p, getProg s1 s.me (if tl (cur s1) then 3 else (cur s1).mcell.toNat))] ∧
          Instr.mmEngineRun cl ∈ t.pending ∧ SameBytes s t))

/-- The engine of a cluster has an operation under way and its next event to come. -/
def runsOn (cl : Nat) (r : MmRun) (s : State) : State := push (.mmEngineRun cl) { s with mmrun := spSet none s.mmrun cl (some r) }

/-- MMST of an operation that is complete, its rows and arrival actions counted (R384). -/
def mmDone (r : MmRun) : Word := ofN (2 ^ 61 + r.rows % 2 ^ 8 * 2 ^ 16 + r.arr % 2 ^ 8 * 2 ^ 8)

/-- The state in which an engine's access is made: the words forwarded to it go on to the next in their queues (R315). -/
def atEngine (cl : Nat) (s : State) : State := passTag (engineTag cl) (if s.resv.isEmpty then [] else matrixWords s cl) s

/-- R382, R383: an idle engine takes the head of its queue and reads its descriptor; what the read runs into faults the mm, and a descriptor R382 refuses
faults it with reason 3 at its first bad word; else MMST says that the operation runs, and it is under way with no row written. -/
def MatrixStarts : Prop :=
  ∀ cl t p prog rest s dd len q bs, spGet none s.mmrun cl = none → mmQueue s cl = (t, p, prog) :: rest → t / 128 = cl → t < 16384 →
    (getTh s t).wait = .matrix dd len q →
    let s0 : State := { atEngine cl s with mmq := spSet [] s.mmq cl rest }
    let d : Desc := (List.range 24).map fun i => wordAt bs (8 * i)
    let r : MmRun := ⟨t, (getTh s t).uid, p, prog, d, 0, 0, 0, none⟩
    (∀ x s1, engineLoad t p 192 s0 = (.error x, s1) → exec (.mmEngineRun cl) s = .next (mmFault { r with d := [] } x s1)) ∧
    ∀ s1, engineLoad t p 192 s0 = (.ok bs, s1) →
      (∀ o, descBad s1 t prog d = some o → exec (.mmEngineRun cl) s = .next (mmFault r ⟨2, 3, offWrap p o⟩ s1)) ∧
      (∀ s2, descBad s1 t prog d = none → writeMmst r (ofN (2 ^ 60)) s1 = .ok s2 → exec (.mmEngineRun cl) s = .next (runsOn cl r s2))

/-- R383, R384: an operation under way writes its rows one by one, enabled bands and the rows of each ascending, then makes each enabled band's arrival action, bands ascending, and ends with MMST
state 2 in memory and in x[d], its thread going on; what a row or an arrival runs into ends the operation in a fault at its next event. -/
def MatrixGoesOn : Prop :=
  ∀ cl r s dd len q, spGet none s.mmrun cl = some r → r.t / 128 = cl → r.t < 16384 → (getTh s r.t).wait = .matrix dd len q → (getTh s r.t).uid = r.uid →
    let s1 : State := { atEngine cl s with mmrun := spSet none s.mmrun cl none }
    let bands := (List.range 8).filter fun g => bit (r.d.getD (8 + 2 * g) 0) 63
    let due := bands.filter fun g => (r.d.getD (8 + 2 * g) 0).toNat / 2 ^ 61 % 4 ≠ 0 && !r.arr.testBit g
    (∀ x, r.fault = some x → exec (.mmEngineRun cl) s = .next (mmFault r x s1)) ∧
    (r.fault = none → ∀ g, bands[r.rows / 16]? = some g →
      (∀ r' s2, mmRow r g (r.rows % 16) s1 = (.ok r', s2) →
        exec (.mmEngineRun cl) s = .next (runsOn cl r' s2) ∧ r'.rows = r.rows + 1 ∧ r'.arr = r.arr ∧ r'.d = r.d ∧ r'.t = r.t) ∧
      (∀ x s2, mmRow r g (r.rows % 16) s1 = (.error x, s2) → exec (.mmEngineRun cl) s = .next (runsOn cl { r with fault := some x } s2))) ∧
    (r.fault = none → 16 * bands.length ≤ r.rows → ∀ g, due.head? = some g →
      (∀ s2, mmArrive r g s1 = .ok s2 → exec (.mmEngineRun cl) s = .next (runsOn cl { r with arr := r.arr + 2 ^ g } s2)) ∧
      (∀ x, mmArrive r g s1 = .error x → exec (.mmEngineRun cl) s = .next (runsOn cl { r with fault := some x } s1))) ∧
    (r.fault = none → 16 * bands.length ≤ r.rows → due = [] → exec (.mmEngineRun cl) s = .next (mmEnd r s1) ∧
      ∀ s2, writeMmst r (mmDone r) s1 = .ok s2 → (getTh s2 r.t).wait = .matrix dd len q → isQ r.t dd = false → dd ≠ 0 → modeOf (getTh s2 r.t) ≠ 2 →
        xr (getTh (mmEnd r s1) r.t) dd = mmDone r)

end Sys2Proof.Claims

/-! ## Streams and the matrix engine -/

/-- R341, R343 to R345, R347: the stream instructions and the creation of streams. What logs 13, 43 fix is the model's. -/
def Obligations.StreamInstructions : Prop := StreamAnswers ∧ StreamSends ∧ StreamCreation

/-- R40 to R46, R346: what arrives at a stream's stations and members, and what becomes of a silent or dead input. What log 43 fixes is the model's. -/
def Obligations.StreamTraffic : Prop := StreamEvents ∧ StreamLanding

/-- R379, R382 to R384, R386: the matrix instructions and the cluster's engine. What logs 41, 49 fix is the model's. -/
def Obligations.MatrixResults : Prop := MatrixInstructions ∧ MatrixStarts ∧ MatrixGoesOn

namespace Sys2Proof.Claims

/-- Bits hi down to lo of the status register PKST (R19). -/
def pkst (s : State) (hi lo : Nat) : Nat := s.pkg.pkst.toNat / 2 ^ lo % 2 ^ (hi + 1 - lo)

/-- Every bit of PKST outside hi to lo is as before. -/
def PkstKept (hi lo : Nat) (s t : State) : Prop := ∀ n, n < 64 → n < lo ∨ hi < n → t.pkg.pkst.getLsbD n = s.pkg.pkst.getLsbD n

/-- Either reset's next state: as after reset but for the image slots with the record of the running one and what lies outside the machine (R15; log 3). -/
def Restarts (i : Instr) (s : State) : Prop :=
  exec i s = .next { State.reset with
    turns := s.turns, out := s.out, freeCount := s.freeCount
    fw := { Fw.reset with slotImg0 := s.fw.slotImg0, slotImg1 := s.fw.slotImg1, running := s.fw.running, minSec := s.fw.minSec } }

/-- R14, R15, R17 to R20: cold and warm reset, the management interface's read and writes of PKST, and the clearing of CAPHIT. -/
def ResetsAndStatus : Prop :=
  ∀ s v c,
    Restarts .coldReset s ∧ Restarts (.pkstWarmReset true) s ∧
    (6 ≤ pkst s 7 4 → Restarts (.pkstWarmReset false) s) ∧ (pkst s 7 4 < 6 → exec (.pkstWarmReset false) s = .next s ∧ exec (.pkstCaphitClear false) s = .next s) ∧
    (v.getLsbD 52 = true → Restarts (.bmiWritePkst v) s) ∧ (v.getLsbD 52 = false → v.getLsbD 11 = false → exec (.bmiWritePkst v) s = .next s) ∧
    (s.pkg.capSet ≠ s.cycle + 1 → ∀ i, i = .pkstCaphitClear true ∨ (i = .pkstCaphitClear false ∧ 6 ≤ pkst s 7 4) ∨
        (i = .bmiWritePkst v ∧ v.getLsbD 52 = false ∧ v.getLsbD 11 = true) →
      ∃ t, exec i s = .next t ∧ t = { s with pkg := { s.pkg with pkst := t.pkg.pkst } } ∧ pkst t 11 11 = 0 ∧ PkstKept 11 11 s t) ∧
    exec .bmiReadPkst s = .next { s with out := s.out ++ [⟨.board, 0, s.pkg.pkst, leBytesOf 8 s.pkg.pkst.toNat⟩] } ∧
    exec (.bmiUnknownCommand c) s = .next s

/-- R15, R16, R126: the stages of bring-up in their order: each that ends well makes STAGE the next, stage 2 by the slot that passes the boot check, stage 5 with the host port
trained, stage 6 with the peer ports and PEEROK and the media ports, stage 7 with the root of the name tree and READY; one that fails sets FAIL with its number as the code, and nothing follows. -/
def BringUp : Prop :=
  ∀ mask s, let n := pkst s 7 4
    let goes : Bool → Prop := fun ok => ∃ t, exec (.bringupStageDone ok mask) s = .next t ∧ pkst t 7 4 = n + 1 ∧ pkst t 9 9 = 0 ∧
      (n = 2 → bootSlot s.fw = some t.fw.running ∧ pkst t 12 12 = t.fw.running % 2) ∧ (n = 6 → pkst t 31 16 = mask.toNat % 2 ^ 16) ∧
      (n = 3 → pkst t 47 32 = 2 ^ 16 - 1) ∧ pkst t 8 8 = (if n = 7 then 1 else pkst s 8 8) ∧
      (n = 5 → spGet Port.reset t.ports 16 = ⟨true, if mask.toNat % 4 = 2 then 2 else 3, 16, 16, false, false, []⟩) ∧
      (n = 6 → ∀ p, p < 16 → spGet Port.reset t.ports p =
        if mask.getLsbD p = true then ⟨true, if mask.getLsbD (32 + p) = true then 2 else 3, 8, 8, false, false, []⟩ else spGet Port.reset s.ports p) ∧
      (n = 6 → ∀ p, p = 16 ∨ p = 17 → mask.getLsbD p = true → (spGet Port.reset t.ports (p + 1)).up = true) ∧
      (n = 7 → (getCtx t 0).live = true ∧ (getCtx t 0xFFFF).live = true ∧ (getNode t (getCtx t 0).root).v = true ∧ (getNode t (getCtx t 0xFFFF).root).v = true)
    let stops : Bool → Prop := fun ok => ∃ t, exec (.bringupStageDone ok mask) s = .next t ∧ pkst t 9 9 = 1 ∧ pkst t 3 0 = n ∧ pkst t 7 4 = n ∧ pkst t 8 8 = pkst s 8 8
    (pkst s 9 9 = 1 ∨ n = 0 ∨ 8 ≤ n → ∀ ok, exec (.bringupStageDone ok mask) s = .next s) ∧
    (pkst s 9 9 = 0 →
      (n = 1 ∨ n = 4 ∨ n = 5 ∨ n = 6 ∨ n = 7 → goes true) ∧ (n = 6 → goes false) ∧ (n = 1 ∨ n = 4 ∨ n = 5 ∨ n = 7 → stops false) ∧
      (n = 3 → mask.toNat % 2 ^ 16 = 2 ^ 16 - 1 → goes true) ∧ (n = 3 → mask.toNat % 2 ^ 16 ≠ 2 ^ 16 - 1 → ∀ ok, stops ok) ∧
      (n = 2 → bootSlot s.fw ≠ none → ∀ ok, goes ok) ∧ (n = 2 → bootSlot s.fw = none → ∀ ok, stops ok))

/-- R13, R20, R32, R130: at a frame boundary, which comes every 2,048 cycles, the duty becomes 1 in a trip, falls by one above the cap, rises by one after sixteen boundaries below 95% of it, and stays otherwise, always from 1 to 8; CAPHIT is set when it leaves 8; a table
that waits is taken. A cap written by the physical function counts from the second boundary on. -/
def FrameBoundaries : Prop :=
  ∀ s, let p := s.pkg; let est := Config.powerEstimate p.activity; let d := pkst s 51 48
    (p.stage1 = false ∨ s.cycle < (p.activity + 1) * 2048 → exec .frameBoundary s = .next s) ∧
    (p.stage1 = true → (p.activity + 1) * 2048 ≤ s.cycle → 1 ≤ d → d ≤ 8 → ∃ t, exec .frameBoundary s = .next t ∧ t = { s with pkg := t.pkg } ∧ t.pkg.activity = p.activity + 1 ∧ 1 ≤ pkst t 51 48 ∧ pkst t 51 48 ≤ 8 ∧
      (p.capNext = [] → t.pkg.cap = p.cap ∧
        t.pkg.below95 = (if 100 * est < 95 * p.cap then min 16 (p.below95 + 1) else 0) ∧
        pkst t 51 48 = (if pkst s 10 10 = 1 then 1 else if p.cap < est then max 1 (d - 1) else if 100 * est < 95 * p.cap ∧ 15 ≤ p.below95 then min 8 (d + 1) else d)) ∧
      (∀ c, p.capNext = [(c, 1)] → t.pkg.cap = c) ∧ (∀ c, p.capNext = [(c, 2)] → t.pkg.cap = p.cap ∧ t.pkg.capNext = [(c, 1)]) ∧
      (d = 8 → pkst t 51 48 < 8 → pkst t 11 11 = 1) ∧ (d < 8 → pkst t 11 11 = pkst s 11 11) ∧
      (p.tdctl.getLsbD 0 = true → t.pkg.tdsNow = p.tds ∧ t.pkg.tdctl.getLsbD 0 = false ∧ t.pkg.tdctl.getLsbD 2 = p.tdctl.getLsbD 1) ∧
      (p.tdctl.getLsbD 0 = false → t.pkg.tdsNow = p.tdsNow ∧ t.pkg.tdctl = p.tdctl)) ∧
    (∀ v, pkst s 8 8 = 0 → exec (.pwrcapWrite .pf v) s = .next (reply .pf 1 0 [] s)) ∧
    (∀ v, pkst s 8 8 = 1 → ∃ t, exec (.pwrcapWrite .pf v) s = .next t ∧ t = { s with pkg := t.pkg } ∧ t.pkg.capw = v.toNat % 2 ^ 12 ∧ t.pkg.cap = p.cap ∧
      t.pkg.capNext = p.capNext ++ [(max 1000 (min (min (v.toNat % 2 ^ 12) (Config.boardCap (Config.slotPart (imageOf s.fw s.fw.running) 4))) 3200), 2)]) ∧
    (∀ fn v, fn ≠ .pf → exec (.pwrcapWrite fn v) s = .next s)

/-- R14, R31, R32: a sensor at 115 °C removes power, at 105 °C starts a trip, and a trip ends when every sensor is below 95 °C; the key core refuses a schedule with an owner above 19 or no free slot, and any other waits for the boundary. -/
def ThermalAndSchedule : Prop :=
  ∀ s t0 t1 die,
    (115 ≤ max t0 t1 → ∃ t, exec (.thermalTripEnd t0 t1) s = .next t ∧ t.pkg.powered = false) ∧
    (max t0 t1 < 115 → 105 ≤ max t0 t1 → ∃ t, exec (.thermalTripEnd t0 t1) s = .next t ∧ pkst t 10 10 = 1 ∧ PkstKept 10 10 s t ∧ t.pkg.powered = s.pkg.powered) ∧
    (max t0 t1 < 95 → ∃ t, exec (.thermalTripEnd t0 t1) s = .next t ∧ pkst t 10 10 = 0 ∧ PkstKept 10 10 s t) ∧
    (95 ≤ max t0 t1 → max t0 t1 < 105 → ∃ t, exec (.thermalTripEnd t0 t1) s = .next t ∧ t.pkg.pkst = s.pkg.pkst) ∧
    (∀ i, i = .thermalTrip die t0 ∨ i = .thermalShutdown die t0 →
      (115 ≤ t0 → ∃ t, exec i s = .next t ∧ t.pkg.powered = false) ∧
      (105 ≤ t0 → max s.pkg.temp0 s.pkg.temp1 < 115 → t0 < 115 → ∃ t, exec i s = .next t ∧ pkst t 10 10 = 1)) ∧
    (let entry := fun n => (spGet 0 s.pkg.tds (n / 8)).toNat / 2 ^ (8 * (n % 8)) % 2 ^ 8
      let bad := (∃ n, n < 64 ∧ 128 ≤ entry n ∧ 19 < entry n % 32) ∨ ∀ n, n < 64 → 128 ≤ entry n
      (bad → exec .tdctlSwap s = .next s) ∧
      (¬ bad → ∃ t, exec .tdctlSwap s = .next t ∧ t.pkg.tdctl.getLsbD 0 = true ∧ t.pkg.tds = s.pkg.tds))

/-- R21, R26, R43, R64, R68, R71, R136: links and arrays that fail. Both ends of a global link are marked; of each running stream with inputs on it the lowest member is declared dead, or the
stream fails where a station feeds one. A bad flit is replayed unseen; a row or lane in error starts a test, during which a lane's port holds its traffic; it
ends transient, or with a spare row, or poisoned, or with the lane retired and its port retraining at half width, or down with fewer than two good lanes;
a port retrained, with no lane under test, sends what it held; a peer port down clears its bit of PEEROK, and a route down leaves its port as it is. -/
def LinkFailures : Prop :=
  ∀ s,
    (∀ q j, q < 16 → j < 15 → (q, j) ∉ s.pkg.linkDown → let far := (q + j + 1) % 16
      let s0 : State := { s with pkg := { s.pkg with linkDown := s.pkg.linkDown ++ [(q, j), (far, 14 - j)] } }
      ∃ t, exec (.globalLinkDown q j) s = .next t ∧ t.pkg = s0.pkg ∧ SameBytes s t ∧ (s.streams = [] → t = s0) ∧
      ∀ node st, (node, st) ∈ s.streams → getStream s node = st → st.v = true → st.failed = false → let lost := st.lost fun p => crosses p q far
        (none ∈ lost → (getStream t node).failed = true) ∧
        (none ∉ lost → ∀ m, m < 256 → some m ∈ lost → (∀ k, some k ∈ lost → m ≤ k) → Instr.inputDeadDeclare node m ∈ t.pending)) ∧
    (∀ p, exec (.flitBadCheck p) s = .next s) ∧
    (∀ unit row fixed, s.errors = [] →
      let e : Bool → ErrRec := fun lane => ⟨unit, row, lane, fixed, 0, 0, false, s.cycle, [], false⟩
      let p := spGet Port.reset s.ports unit
      exec (.sramRowError unit row fixed) s = .next { s with errors := [e false] } ∧
      exec (.laneError unit ⟨row, fixed⟩) s = .next { s with
        errors := [e true], ports := if p.up = true then spSet Port.reset s.ports unit { p with training := true } else s.ports }) ∧
    (∀ (r : ErrRec) unit row passed, s.errors = [r] → r.unit = unit → r.row = row → r.lane = false → (r.state = 0 ∨ r.state = 5) →
      ∃ t, exec (.rowSelftestDone unit row passed) s = .next t ∧ SameBytes s t ∧
        t.errors = [{ r with state := (if passed = true ∧ r.state = 0 then 1 else if 0 < Config.spareRows unit then 2 else 4), time := gtime s, due := s.fw.updst.getLsbD 0, triage := s.fw.duty.getLsbD 4 }]) ∧
    (∀ (r : ErrRec) port lane passed, s.errors = [r] → r.unit = port → r.row = lane → r.lane = true → (r.state = 0 ∨ r.state = 5) →
      let p := spGet Port.reset s.ports port
      (passed = true → r.state = 0 → p.held = [] → p.retrain = false → ∃ t, exec (.laneSelftestDone port lane passed) s = .next t ∧
        t.ports = spSet Port.reset s.ports port { p with training := false } ∧ ∃ e, t.errors = [e] ∧ e.state = 1) ∧
      (passed = false → 3 ≤ p.good → ∃ t, exec (.laneSelftestDone port lane passed) s = .next t ∧ (∃ e, t.errors = [e] ∧ e.state = 3) ∧
        spGet Port.reset t.ports port = { p with good := p.good - 1, width := max 2 (p.width / 2), training := true, retrain := true }) ∧
      (passed = false → p.good ≤ 2 → ∃ t, exec (.laneSelftestDone port lane passed) s = .next t ∧ (spGet Port.reset t.ports port).up = false)) ∧
    (∀ p, let x := spGet Port.reset s.ports p
      let testing := ∃ e ∈ s.errors, e.lane = true ∧ e.unit = p ∧ (e.state = 0 ∨ e.state = 5)
      x.up = true → (∀ r ∈ x.held, portOf r.fn = some p) → ∃ t, exec (.portRetrainDone p) s = .next t ∧ t = { s with ports := t.ports, out := t.out } ∧
        (∀ k, k ≠ p → spGet Port.reset t.ports k = spGet Port.reset s.ports k) ∧
        (testing → spGet Port.reset t.ports p = { x with retrain := false } ∧ t.out = s.out) ∧
        (¬ testing → spGet Port.reset t.ports p = { x with training := false, retrain := false, held := [] } ∧ t.out = s.out ++ x.held)) ∧
    (∀ p, p < 16 → ∃ t, exec (.peerLinkDown ⟨p, none⟩) s = .next t ∧ (spGet Port.reset t.ports p).up = false ∧ pkst t (16 + p) (16 + p) = 0 ∧
      (s.journal = [] → SameBytes s t)) ∧
    (∀ p g, p < 16 → (p, g) ∉ s.pkg.routeDown → ∃ t, exec (.peerLinkDown ⟨p, some g⟩) s = .next t ∧ t.pkg.routeDown = s.pkg.routeDown ++ [(p, g)] ∧
      (spGet Port.reset t.ports p).up = (spGet Port.reset s.ports p).up ∧ (s.journal = [] → SameBytes s t))

end Sys2Proof.Claims

/-! ## Power, bring-up and links -/

/-- R14 to R20, R126: the two resets, PKST and the stages of bring-up (what a reset keeps and the image slots: logs 3, 8). What logs 3, 8 fix is the model's. -/
def Obligations.ResetAndBringUp : Prop := ResetsAndStatus ∧ BringUp

/-- R13, R14, R20, R31, R32, R130: duty, caps, temperature and the schedule. What logs 11, 32, 55 fix is the model's. -/
def Obligations.PowerAndSchedule : Prop := FrameBoundaries ∧ ThermalAndSchedule

/-- R26, R64, R68, R71, R136: links and arrays that fail. What logs 8, 13, 52 fix is the model's. -/
def Obligations.LinksThatFail : Prop := LinkFailures

namespace Sys2Proof.Claims

/-- The status word of a slot is an aligned word of memory at a key on which nothing waits (R113). -/
def StatusAt (s : State) (q slot key : Nat) : Prop :=
  ∃ p, statusPieces s q slot = .ok [p] ∧ p.key = key ∧ p.len = 8 ∧ key % 8 = 0 ∧ spGet [] s.waits (key / 8) = []

/-- A field of a status word (R113). -/
def statusField (s : State) (key hi lo : Nat) : Nat := (rdWord s key).toNat / 2 ^ lo % 2 ^ (hi + 1 - lo)

/-- Bytes outside one word are as before. -/
def OnlyWord (key : Nat) (s t : State) : Prop := ∀ k, k < key ∨ key + 8 ≤ k → rdByte t k = rdByte s k

/-- A node's status word as a node's end writes it (R113, R115): STATE 4 or 5, CODE, RELEASED and PFAIL as they stood, DETAIL, and the origin of the fault. -/
def endWord (v q slot code detail : Nat) : Word :=
  ofN ((if code = 0 then 4 else 5) * 2 ^ 60 + code * 2 ^ 52 + v / 2 ^ 39 % 2 ^ 13 * 2 ^ 39 + detail % 2 ^ 10 * 2 ^ 29 +
    (if code = 0 ∨ code = 0x0B then v % 2 ^ 29 else q % 2 ^ 13 * 2 ^ 16 + slot % 2 ^ 16))

/-- The wake that a queue which is not resident raises: of the packet core that serves it, or with DOORB set a message to the host (R120, R129). -/
def wakeOf (s : State) (q : Nat) : FwWake := if s.fw.duty.getLsbD 1 = true then .doorbell q else .packet (Config.packetCore q) q

/-- R105, R106, R116, R119, R120: TAIL stores accepted or refused, RESUME, and the mapping of a queue gang as a whole. -/
def GraphQueues : Prop :=
  ∀ q size v s, let x := getQueue s q
    (x.v = true → x.graph = true →
      (∀ i, i = .gqTailStore q size v ∨ i = .gqTailNonresident q size v →
        let room := size = 8 ∧ v.toNat < x.slots ∧ v.toNat < 2 ^ 16 ∧ posted x + (v.toNat + x.slots - x.tail) % x.slots < x.slots
        (¬ room → exec i s = .next s) ∧
        (room → ∃ t, exec i s = .next t ∧ (getQueue t q) = { x with tail := v.toNat } ∧
          (if x.resident then Instr.recordFetch q else .fwCoreWake (wakeOf s q)) ∈ t.pending ∧ SameBytes s t)) ∧
      (∃ t, exec (.gqctlResume q) s = .next t ∧ getQueue t q = { x with stopped := false } ∧ Instr.recordFetch q ∈ t.pending ∧ SameBytes s t) ∧
      (∃ t, exec (.qgangUnmap q) s = .next t ∧ (∀ i ∈ gangOf s q, (getQueue t i).resident = false) ∧ SameBytes s t)) ∧
    (∀ tumbler first, gangFits s q tumbler first = true → spWf GQueue.none s.queues = true → ∃ t, exec (.qgangMap q tumbler first) s = .next t ∧ SameBytes s t ∧
      ∀ i, (h : i < (gangOf s q).length) → let g := getQueue t ((gangOf s q)[i]); g.resident = true ∧ g.tumbler = tumbler * 64 + first + i) ∧
    (∀ tumbler first, gangFits s q tumbler first = false → exec (.qgangMap q tumbler first) s = .next s)

/-- R114 to R116: a record fetched at HEAD waits with STATE 1 while its releases are fewer than NPRED, and becomes ready when they are all in; a faulty one ends at fetch, its queue stopped unless it skips; HEAD moves past its slots. -/
def RecordFetches : Prop :=
  ∀ q s bs bad key, let x := getQueue s q; let r := decodeRecord bs
    fetchable s q = true → recordAt s q x.head = some (bs, bad) → StatusAt s q x.head key →
    (recordFault s q x.head bs bad = none → ∃ t, exec (.recordFetch q) s = .next t ∧
      (statusField s key 51 40 < r.npred → getG t q x.head = ⟨r, 1, s.cycle, 0, false⟩ ∧ (getQueue t q).head = (x.head + 1 + r.cont) % x.slots ∧
        rdWord t key = ofN ((rdWord s key).toNat % 2 ^ 60 + 2 ^ 60) ∧ feOf t key = false ∧ Instr.recordFetch q ∈ t.pending ∧ OnlyWord key s t) ∧
      (statusField s key 51 40 = r.npred → (getG t q x.head).phase = 2 ∧ (getG t q x.head).rec_ = r ∧ x.head ∈ (getQueue t q).ready ∧
        Instr.nodeDispatch q ∈ t.pending ∧ (getQueue t q).head = (x.head + 1 + r.cont) % x.slots)) ∧
    (∀ code, recordFault s q x.head bs bad = some code → code < 2 ^ 8 → ∃ t, exec (.recordFetch q) s = .next t ∧
      (getQueue t q).stopped = (x.stopped || !x.skip) ∧ rdWord t key = endWord (rdWord s key).toNat q x.head code 0 ∧ feOf t key = true ∧ OnlyWord key s t)

/-- R113 to R115: a release counts in the status word, a faulted dependence leaves PFAIL and its origin once, the last one makes a waiting node ready, and one too many ends it with EXCESS, or marks one that runs. -/
def NodeReleases : Prop :=
  ∀ q slot order faulted oq os s key, StatusAt s q slot key →
    let g := getG s q slot
    let n := statusField s key 51 40 + 1
    let i := Instr.nodeRelease q slot order faulted oq os
    ∃ t, exec i s = .next t ∧
      (g.phase = 0 ∨ (n ≤ g.rec_.npred ∧ ¬ (n = g.rec_.npred ∧ g.phase = 1)) → statusField t key 51 40 = n % 2 ^ 12 ∧ OnlyWord key s t ∧ feOf t key = feOf s key ∧
        statusField t key 63 52 = statusField s key 63 52 ∧ statusField t key 38 29 = statusField s key 38 29 ∧
        (faulted = true → order = false → statusField s key 39 39 = 0 →
          statusField t key 39 39 = 1 ∧ statusField t key 28 0 = oq % 2 ^ 13 * 2 ^ 16 + os % 2 ^ 16) ∧
        (faulted = false ∨ order = true ∨ statusField s key 39 39 = 1 →
          statusField t key 39 39 = statusField s key 39 39 ∧ statusField t key 28 0 = statusField s key 28 0)) ∧
      (g.phase = 1 → n = g.rec_.npred → (getG t q slot).phase = 2 ∧ slot ∈ (getQueue t q).ready ∧
        ((getQueue s q).resident = true → Instr.nodeDispatch q ∈ t.pending) ∧ ((getQueue s q).resident = false → Instr.fwCoreWake (wakeOf s q) ∈ t.pending)) ∧
      (g.phase = 1 ∨ g.phase = 2 → g.rec_.npred < n → ∃ u, t = endNode q slot 0x0C 0 u ∧ OnlyWord key s u) ∧
      (g.phase = 3 → g.rec_.npred < n → getG t q slot = { g with excess := true })

/-- R114, R117: the node that became ready first in a resident queue runs its work with STATE 3, or ends with PREDFAIL; waits and gates end at their times, a gate unless its test has held already; a node whose work is over ends. -/
def NodeWork : Prop :=
  ∀ q slot rest s key, let x := getQueue s q; let g := getG s q slot
    (x.ready = slot :: rest → x.resident = true → StatusAt s q slot key →
      (statusField s key 39 39 = 1 → g.rec_.runany = false →
        exec (.nodeDispatch q) s = .next (endNode q slot 0x0B 0 (modQueue s q fun x => { x with ready := rest }))) ∧
      (statusField s key 39 39 = 0 ∨ g.rec_.runany = true → ∃ t, exec (.nodeDispatch q) s = .next t ∧
        (∀ e, (g.rec_.kind = 1 ∧ e = .launchDispatch q slot) ∨ (g.rec_.kind = 5 ∧ e = .nodeComplete q slot ⟨0, 0⟩) ∨ (g.rec_.kind = 7 ∧ e = .bindSetRun q slot) ∨
            (g.rec_.kind = 8 ∧ e = .formatWindowInstall q slot ((wordAt g.rec_.body 0).toNat % 16) ((List.range 8).map fun i => wordAt g.rec_.body (8 + 8 * i))) →
          e ∈ t.pending ∧ getG t q slot = { g with phase := 3, began := s.cycle } ∧ (getQueue t q).ready = rest ∧
            rdWord t key = ofN ((rdWord s key).toNat % 2 ^ 60 + 3 * 2 ^ 60) ∧ OnlyWord key s t))) ∧
    (let period := 2 ^ (getCtx s x.owner).wdog;
      (g.phase = 1 → period < s.cycle - g.began → exec (.nodeWaitTimeout q slot) s = .next (endNode q slot 0x0D 0 s)) ∧
      (g.phase ≠ 1 ∨ s.cycle - g.began ≤ period → exec (.nodeWaitTimeout q slot) s = .next s)) ∧
    (let n := (wordAt g.rec_.body 16).toNat / 2 ^ 32;
      g.phase = 3 → g.rec_.kind = 4 → (if n = 0 then 2 ^ (getCtx s x.owner).wdog else n * 1024) ≤ s.cycle - g.began →
        ((∀ out, Instr.nodeComplete q slot out ∉ s.pending) → exec (.gateTimeout q slot) s = .next (endNode q slot 0x0E 0 s)) ∧
        (∀ out, Instr.nodeComplete q slot out ∈ s.pending → exec (.gateTimeout q slot) s = .next s)) ∧
    (∀ code detail, g.phase = 3 → g.rec_.kind ≠ 1 →
      exec (.nodeComplete q slot ⟨code, detail⟩) s = .next (if g.excess = true ∧ code = 0 then endNode q slot 0x0C 0 s else endNode q slot code detail s)) ∧
    (g.phase = 3 → g.rec_.kind = 8 → ∀ w image,
      (imageOk s w image = true → exec (.formatWindowInstall q slot w image) s =
        .next (push (.nodeComplete q slot ⟨0, 0⟩) (setWindow w image s)) ∧
          (setWindow w image s).pkg = { s.pkg with fmtw := spSet [] s.pkg.fmtw w image }) ∧
      (imageOk s w image = false → exec (.formatWindowInstall q slot w image) s = .next (push (.nodeComplete q slot ⟨0x0E, 0⟩) s))) ∧
    (g.phase = 3 → g.rec_.kind = 7 → (wordAt g.rec_.body 0).toNat % 2 ^ 6 = g.launch + 1 →
      let out := bindOp (ownerTx s q) ((g.rec_.body.drop (8 + 32 * g.launch)).take 32) s
      (∀ v s', out = .done v s' → exec (.bindSetRun q slot) s = .next (push (.nodeComplete q slot ⟨0, 0⟩) s')) ∧
      (∀ reason k, out = .fail reason k → exec (.bindSetRun q slot) s = .next (push (.nodeComplete q slot ⟨0x0E, reason % 2 ^ 5 * 2 ^ 5 + g.launch % 2 ^ 5⟩) s)))

/-- R113, R116, R117: the end of a node with no completion action: its status word set full, its record gone, its valid successors released in their kinds, faulted when it is. -/
def NodeEnds : Prop :=
  ∀ q slot code detail s key, StatusAt s q slot key → code < 2 ^ 8 → let g := getG s q slot
    g.rec_.doneFill = false → g.rec_.doneAdd = false →
    let t := endNode q slot code detail s
    let w := endWord (rdWord s key).toNat q slot code detail
    rdWord t key = w ∧ feOf t key = true ∧ OnlyWord key s t ∧ getG t q slot = GNode.none ∧
      (∀ v ∈ g.rec_.succ.take g.rec_.nsucc, refValid s q v = true →
        Instr.nodeRelease (v / 2 ^ 19) (v / 2 ^ 3 % 2 ^ 16) (v % 8 == 1) (code != 0) (w.toNat / 2 ^ 16 % 2 ^ 13) (w.toNat % 2 ^ 16) ∈ t.pending)

/-- R112, R137 to R139: a launch that placement refuses ends REFUSED; one accepted takes the lowest free number and keeps what its record asked for, and each thread placed starts as R139 says with the next id. -/
def Launches : Prop :=
  ∀ q slot s, let g := getG s q slot; let l := freeLaunch s
    (g.phase = 3 → g.rec_.kind = 1 → g.launch = 0 →
      (makeLaunch s q slot g.rec_ = none → exec (.launchDispatch q slot) s = .next (endWork q slot ⟨0x0F, 0⟩ s)) ∧
      (∀ x, makeLaunch s q slot g.rec_ = some x → ∃ t, exec (.launchDispatch q slot) s = .next t ∧ (getG t q slot).launch = l ∧
        getLaunch t l = { x with next := (getLaunch t l).next, live := (getLaunch t l).live } ∧ x.queue = q ∧ x.slot = slot ∧ x.ctx = (getQueue s q).owner ∧
        x.entry = wordAt g.rec_.body 0 ∧ x.nthr = (wordAt g.rec_.body 8).toNat % 2 ^ 32 ∧ x.nthr ≠ 0)) ∧
    (∀ k t, (getLaunch s k).next < 2 ^ 32 → (getLaunch s k).v = true → (getLaunch s k).xs.length ≤ 14 →
      let u := placeNext k t s
      NewThread s k (getLaunch s k).entry (getLaunch s k).xs (getLaunch s k).next (getTh u t) ∧ (getTh u t).uid = s.uids ∧ OtherHartsKept t s u ∧
        getLaunch u k = { getLaunch s k with next := (getLaunch s k).next + 1, live := (getLaunch s k).live + 1 } ∧ SameBytes s u)

end Sys2Proof.Claims

/-! ## Graph queues and launches -/

/-- R105, R106, R113 to R116, R119, R120: tails, mapping, the fetch of records and the counting of releases. What logs 37, 64, 70, 74 fix is the model's. -/
def Obligations.GraphQueueResults : Prop := GraphQueues ∧ RecordFetches ∧ NodeReleases

/-- R112 to R117, R137 to R139: what becomes of a node that runs, its end, and the launches that nodes start. What logs 37, 47, 73 fix is the model's. -/
def Obligations.GraphNodeResults : Prop := NodeWork ∧ NodeEnds ∧ Launches

namespace Sys2Proof.Claims

/-- A message of a type stands at the head of the inbound ring (R131). -/
def AtHead (s : State) (type : Nat) (m : List Byte) : Prop :=
  s.fw.hmihead ≠ s.fw.hmitail ∧ headType s = type ∧ m = inMessage s s.fw.hmihead

/-- Bytes of a message as a number. -/
def field (m : List Byte) (o n : Nat) : Nat := leValue ((m.drop o).take n)

/-- R131: a message taken moves HMIHEAD on; MAP, FILL, DEFRAG, IMGW, SPDM, PARTREC and NODEREQ messages have their effects, an unknown type answers −1. -/
def MailboxMessages : Prop :=
  ∀ s m,
    (takeMessage s).fw.hmihead = (s.fw.hmihead + 1) % 512 ∧
    (AtHead s 4 m → let q := field m 8 2; let b := field m 10 1
      exec .hmbMap s = .next (takeMessage (push (if b % 2 = 1 then .qgangMap q (b / 2 % 16) (field m 11 1) else .qgangUnmap q) s))) ∧
    (AtHead s 2 m → ∃ t, exec .hmbFill s = .next t ∧ spGet [] t.nodeCache (field m 8 4) = (List.range 4).map (fun i => wordAt m (16 + 8 * i)) ∧
      (∀ x ∈ t.missing, x.node ≠ field m 8 4) ∧ (∀ x ∈ s.missing, x.node = field m 8 4 → ∀ e ∈ x.held, e.2 ∈ t.pending) ∧ SameBytes s t) ∧
    (AtHead s 0 m → exec .hmbBadType s = .next (takeMessage (sendResult m (ofI (-1)) s))) ∧
    (AtHead s 11 m → let p := field m 8 1; let slice := field m 9 1; let target := field m 10 1
      (s.fw.duty.getLsbD 3 = true → defragOk s p slice target = true →
        exec .hmbDefrag s = .next (takeMessage (sendResult m 0 (push (.defragmentation p slice target) s)))) ∧
      (s.fw.duty.getLsbD 3 = false → exec .hmbDefrag s = .next (takeMessage (sendResult m (ofI (-1)) s)))) ∧
    (AtHead s 7 m → let o := field m 8 4; let n := field m 4 2
      (o % 4 = 0 → 4 ≤ n → n ≤ 48 → exec .hmbImgw s =
        .next (takeMessage (sendResult m 0 { s with fw := writeImage o ((m.drop 12).take (n - 4)) s.fw }))) ∧
      (o % 4 ≠ 0 ∨ n < 4 ∨ 48 < n → exec .hmbImgw s = .next (takeMessage (sendResult m (ofI (-1)) s)))) ∧
    (AtHead s 6 m → let req := s.fw.spdm ++ (m.drop 8).take (min 56 (field m 4 2))
      (field m 6 1 % 2 = 1 → exec .hmbSpdm s = .next (takeMessage (push (spdmEvent req) { s with fw := { s.fw with spdm := [] } }))) ∧
      (field m 6 1 % 2 = 0 → exec .hmbSpdm s = .next (takeMessage { s with fw := { s.fw with spdm := req } }))) ∧
    (AtHead s 9 m → (s.fw.waitReq.find? fun r => !(s.missing.any (·.node == r.1))) = none → ∀ x, txHost s .pf false = .ok x →
      let out := txCreate x ([1, 0, 0, 0, 0, 0, 0, 0] ++ (m.drop 8).take 16) ((List.range 4).map fun i => wordAt m (24 + 8 * i)) s
      (∀ v s1, out = .done v s1 → exec .hmbNodereq s = .next (takeMessage (sendResult m (ofN v) s1))) ∧
      (∀ r k, out = .fail r k → exec .hmbNodereq s = .next (takeMessage (sendResult m (failBits r k) s))) ∧
      (∀ n i, out = .miss n i → exec .hmbNodereq s =
        .next (takeMessage (holdFor n i x.ctx .hmbNodereq { s with fw := { s.fw with waitReq := s.fw.waitReq ++ [(n, m)] } })))) ∧
    (AtHead s 8 m → let part := field m 8 1 % 2 ^ 5; let bs := (List.range 4096).map fun i => spGet 0 s.fw.stage i
      field m 8 8 / 2 ^ 9 = 0 → field m 8 1 < 2 ^ 5 → part ≤ 19 →
      (field m 9 1 % 2 = 1 → partLives s part = true → exec .hmbPartrec s = .next (takeMessage (sendResult m (ofI (-3)) s))) ∧
      (field m 9 1 % 2 = 1 → partLives s part = false → (getPart s part).v = true → exec .hmbPartrec s = .next (takeMessage (sendResult m 0 (removeRecord part s)))) ∧
      (field m 9 1 % 2 = 0 → recordOk part bs = false → exec .hmbPartrec s = .next (takeMessage (sendResult m (ofI (-1)) s))) ∧
      (field m 9 1 % 2 = 0 → recordOk part bs = true → heldElsewhere s part (partitionOf bs) = true →
        exec .hmbPartrec s = .next (takeMessage (sendResult m (ofI (-2)) s))) ∧
      (field m 9 1 % 2 = 0 → recordOk part bs = true → heldElsewhere s part (partitionOf bs) = false → losesUsed s part (partitionOf bs) = false →
        ((getPart s part).v = true ∨ storageFull s = false → exec .hmbPartrec s = .next (takeMessage (sendResult m 0 (installRecord part (partitionOf bs) s)))) ∧
        ((getPart s part).v = false → storageFull s = true → exec .hmbPartrec s = .next (takeMessage (sendResult m (ofI (-4)) s)))) ∧
      (field m 9 1 % 2 = 0 → recordOk part bs = true → heldElsewhere s part (partitionOf bs) = false → losesUsed s part (partitionOf bs) = true →
        exec .hmbPartrec s = .next (takeMessage (sendResult m (ofI (-3)) s))))

/-- A wake event is among the causes for which its firmware core is awake (R125). -/
def AwakeFor (w : FwWake) (s : State) : Prop := ∃ c ∈ (fwCore s (wakeCore w)).causes, c.1 = w

/-- A request is answered with a body, signed where it asks for it, and both join the messages since GET_VERSION (R127). -/
def SpdmSays (i : Instr) (s : State) (log req body : List Byte) (signed : Bool) : Prop :=
  let sign := (List.range 4627).map fun n => (Config.identitySign Config.identityKeys (sha3 (log ++ req ++ body))).getD n 0
  let ans := body ++ if signed then sign else []
  exec i s = .next (sendSpdm (ans.length + 1) ans { s with freeCount := s.freeCount + 4, fw := { s.fw with spdmLog := log ++ req ++ ans } })

/-- The bytes of numbers. -/
def octets (ns : List Nat) : List Byte := ns.map (BitVec.ofNat 8)

/-- The measurement blocks in the DMTF form: index, 1, size, type, length, value (R127; log 8). -/
def blockBytes (bs : List (Nat × Nat × List Byte)) : List Byte :=
  bs.flatMap fun b => octets [b.1, 1] ++ leBytesOf 2 (b.2.2.length + 3) ++ octets [b.2.1] ++ leBytesOf 2 b.2.2.length ++ b.2.2

/-- R127: the answers to the seven requests that are supported, in the layout of SPDM 1.3 (the model's: log 8), and to any other. ML-DSA-87 and SHA3-512
alone are offered, and six blocks can be measured. -/
def SpdmAnswers : Prop :=
  ∀ s req, let log := s.fw.spdmLog
    let at_ : Nat → Nat := fun i => (req.getD i 0).toNat
    let nonce := (List.range 4).flatMap fun i => leBytesOf 8 (Config.freeWord (s.freeCount + i)).toNat
    let chain := Config.certChain.drop (at_ 4 + 2 ^ 8 * at_ 5)
    let part := chain.take (at_ 6 + 2 ^ 8 * at_ 7)
    let blocks := if at_ 3 = 255 then measured s else (measured s).filter fun b => b.1 = at_ 3
    SpdmSays (.spdmGetVersion req) s [] req (octets [0x10, 4, 0, 0, 0, 1, 0, 0x13]) false ∧
    SpdmSays (.spdmGetCapabilities req) s log req (octets [0x13, 0x61, 0, 0, 0] ++ leBytesOf 1 (Config.spdmFigure 0) ++ octets [0, 0] ++ leBytesOf 4 0x16 ++
      leBytesOf 4 (Config.spdmFigure 1) ++ leBytesOf 4 (Config.spdmFigure 2)) false ∧
    SpdmSays (.spdmNegotiateAlgorithms req) s log req (octets [0x13, 0x63, 0, 0, 40, 0, 1, 0] ++ leBytesOf 4 0x40 ++ leBytesOf 4 0 ++ leBytesOf 4 0x20 ++
      List.replicate 12 0 ++ octets [1, 0, 0, 0] ++ leBytesOf 4 Config.mlDsaCode.toNat) false ∧
    SpdmSays (.spdmGetDigests req) s log req (octets [0x13, 1, 1, 1] ++ sha3 Config.certChain) false ∧
    SpdmSays (.spdmGetCertificate req) s log req
      (octets [0x13, 2, at_ 2, 0] ++ leBytesOf 2 part.length ++ leBytesOf 2 (chain.length - part.length) ++ part) false ∧
    SpdmSays (.spdmChallenge req) s log req (octets [0x13, 3, at_ 2, 1] ++ sha3 Config.certChain ++ nonce ++
      (if at_ 3 = 0 then [] else sha3 (blockBytes (measured s))) ++ octets [0, 0] ++ (req.drop 36).take 8) true ∧
    (let signed := decide (at_ 2 % 2 = 1);
      (at_ 3 = 0 ∨ blocks ≠ [] → SpdmSays (.spdmGetMeasurements req) s log req (octets [0x13, 0x60, if at_ 3 = 0 then 6 else 0, 0] ++ leBytesOf 1 blocks.length ++
        leBytesOf 3 (blockBytes blocks).length ++ blockBytes blocks ++ nonce ++ octets [0, 0] ++ (req.drop (if signed then 37 else 4)).take 8) signed) ∧
      (at_ 3 ≠ 0 → blocks = [] → exec (.spdmGetMeasurements req) s = .next (sendSpdm 2 [0x13, 0x7F, 1, 0] s))) ∧
    (measured s).map Prod.fst = [1, 2, 3, 4, 5, 6] ∧
    exec (.spdmUnsupported req) s = .next (sendSpdm 2 [0x13, 0x7F, 7, req.getD 1 0] s)

/-- R15, R120, R125, R129, R133: firmware wakes, from bring-up stage 8 on. -/
def FirmwareWakes : Prop :=
  ∀ s, (pkst s 7 4 < 8 → ∀ c, exec (.fwCoreWake c) s = .next s) ∧ (8 ≤ pkst s 7 4 →
    (∀ n q,
      (s.fw.updst.getLsbD 0 = true → ∃ t, exec (.fwCoreWake (.packet n q)) s = .next t ∧ (q, false) ∈ t.fw.held ∧ t = { s with fw := { s.fw with held := t.fw.held } }) ∧
      (s.fw.updst.getLsbD 0 = false → ∃ t, exec (.fwCoreWake (.packet n q)) s = .next t ∧ AwakeFor (.packet n q) t ∧
        Instr.fwCoreWake (.mapping q) ∈ t.pending ∧ SameBytes s t)) ∧
    (∀ q,
      (s.fw.updst.getLsbD 0 = true → ∃ t, exec (.fwCoreWake (.doorbell q)) s = .next t ∧ (q, true) ∈ t.fw.held ∧ t = { s with fw := { s.fw with held := t.fw.held } }) ∧
      (s.fw.updst.getLsbD 0 = false → exec (.fwCoreWake (.doorbell q)) s =
        .next (sendMsg (message 3 0 4 false (leList 2 q ++ leList 2 (getQueue s q).tail)) s)) ∧
      ∃ t, exec (.fwCoreWake (.mapping q)) s = .next t ∧ AwakeFor (.mapping q) t ∧ SameBytes s t) ∧
    (∀ key, let c := FwWake.mailbox key
      (s.fw.hmihead ≠ s.fw.hmitail → inboundWake s = c → ∃ t, exec (.fwCoreWake c) s = .next t ∧ AwakeFor c t ∧ inboundEvent s ∈ t.pending ∧ SameBytes s t) ∧
      (s.fw.hmihead = s.fw.hmitail ∨ inboundWake s ≠ c → exec (.fwCoreWake c) s = .next s)) ∧
    (∀ n c, c = .stamp ∨ (c = .deferred n ∧ s.fw.updst.getLsbD 0 = false) ∨ c = .policyRequest ∨ c = .error →
      ∃ t, exec (.fwCoreWake c) s = .next t ∧ AwakeFor c t ∧ SameBytes s t) ∧
    (∀ n, s.fw.updst.getLsbD 0 = true → exec (.fwCoreWake (.deferred n)) s = .next (pushOnce (.fwCoreWake (.deferred n)) s)))

/-- R126, R133, R135: a live update starts unless one is under way; its steps quiesce, verify the slot that does not run, hand over and start it; it ends with the result of its checks, or with its
images' heartbeat in time; the first heartbeat missed rolls back, the second resets. -/
def LiveUpdates : Prop :=
  ∀ s, let busy := s.fw.updst.getLsbD 0; let slot := 1 - s.fw.running; let phase := s.fw.updst.toNat / 2 % 2 ^ 3
    (∀ fn, fn ≠ .pf → exec (.updstGo fn) s = .next s) ∧
    (pkst s 8 8 = 0 → exec (.updstGo .pf) s = .next (reply .pf 1 0 [] s)) ∧
    (pkst s 8 8 = 1 →
      (busy = true ∨ s.vf.vfstat.getLsbD 0 = true → ∃ t, exec (.updstGo .pf) s = .next t ∧ t.fw.updst.toNat / 2 ^ 4 % 2 ^ 4 = 5 ∧
        t = { s with fw := { s.fw with updst := t.fw.updst } }) ∧
      (busy = false → s.vf.vfstat.getLsbD 0 = false → ∃ t, exec (.updstGo .pf) s = .next t ∧ t.fw.updst = ofN (1 * 2 + 1) ∧
        Instr.fwCoreWake .update ∈ t.pending ∧ t.fw.running = s.fw.running ∧ SameBytes s t)) ∧
    (busy = false → exec (.fwCoreWake .update) s = .next s) ∧
    (busy = true → 8 ≤ pkst s 7 4 →
      (phase = 1 → packetsBusy s = false → ∃ t, exec (.fwCoreWake .update) s = .next t ∧ t.fw.updst.toNat / 2 % 2 ^ 3 = 2 ∧ t.fw.quiesced = gtime s ∧
        Instr.fwCoreWake .update ∈ t.pending ∧ SameBytes s t) ∧
      (phase = 1 → packetsBusy s = true → exec (.fwCoreWake .update) s = .next (pushOnce (.fwCoreWake .update) s)) ∧
      (phase = 2 → slotSigned s.fw slot = false → exec (.fwCoreWake .update) s = .next (endUpdate 2 s)) ∧
      (phase = 2 → slotSigned s.fw slot = true → slotSecurity s.fw slot < s.fw.minSec → exec (.fwCoreWake .update) s = .next (endUpdate 3 s)) ∧
      (phase = 2 → slotSigned s.fw slot = true → s.fw.minSec ≤ slotSecurity s.fw slot → ∃ t, exec (.fwCoreWake .update) s = .next t ∧
        t.fw.updst.toNat / 2 % 2 ^ 3 = 3 ∧ Instr.fwCoreWake .update ∈ t.pending ∧ SameBytes s t) ∧
      (phase = 3 → ∃ t, exec (.fwCoreWake .update) s = .next t ∧ t.fw.updst.toNat / 2 % 2 ^ 3 = 4 ∧ t.fw.handover = handoverOf s ∧ t.fw.stopped = true ∧
        (∀ i, i < (handoverOf s).length → handoverAddr + i < 2 ^ 18 → spGet 0 (fwCore t 0).sram (handoverAddr + i) = (handoverOf s).getD i 0) ∧ handoverAddr % 64 = 0 ∧
        Instr.fwCoreWake .update ∈ t.pending ∧ SameBytes s t) ∧
      (phase = 4 → ∃ t, exec (.fwCoreWake .update) s = .next t ∧ t.fw.updst.toNat / 2 % 2 ^ 3 = 5 ∧ t.fw.started = s.cycle ∧ t.fw.stopped = false ∧
        spGet 0 (fwCore t 0).x 1 = ofN handoverAddr ∧ (fwCore t 0).pc = Config.policyEntry ∧ t.fw.running = s.fw.running ∧ SameBytes s t)) ∧
    (∀ r u, r < 16 → (endUpdate r u).fw.updst = ofN (r * 2 ^ 4)) ∧
    (heartbeatDue s = false → exec .updateHeartbeat s = .next s) ∧
    (busy = false ∨ phase ≠ 5 ∨ s.fw.started + 33000000 ≤ s.cycle ∨ handoverGood s = false → heartbeatDue s = false) ∧
    (busy = true → phase = 5 → s.cycle < s.fw.started + 33000000 → handoverGood s = true →
      (s.fw.rolled = true → exec .updateHeartbeat s = .next (endUpdate 4 s)) ∧
      (s.fw.rolled = false → ∃ t, exec .updateHeartbeat s = .next t ∧ t.fw.running = slot ∧ t.fw.updst = ofN (2 ^ 4) ∧ pkst t 12 12 = slot % 2)) ∧
    (busy = false ∨ phase ≠ 5 ∨ s.cycle < s.fw.started + 33000000 → exec .heartbeatTimeout s = .next s) ∧
    (busy = true → phase = 5 → s.fw.started + 33000000 ≤ s.cycle →
      (s.fw.rolled = true → Restarts .heartbeatTimeout s) ∧
      (s.fw.rolled = false → ∃ t, exec .heartbeatTimeout s = .next t ∧ t.fw.rolled = true ∧ t.fw.updst.toNat / 2 ^ 4 = 4 ∧ t.fw.running = s.fw.running ∧
        t.fw.started = s.cycle))

/-- R17, R121, R122: before READY a write of GEN is refused; disabling clears GEN and sets BUSY until the agreed time, when the bound tenants' contexts end and their nodes are destroyed, and the sequence ends when none is left; enabling waits for BUSY. -/
def VirtualFunctions : Prop :=
  ∀ s, let busy := s.vf.vfstat.getLsbD 0
    (pkst s 8 8 = 0 → exec .vfDisable s = .next (reply .pf 1 0 [] s) ∧ exec .vfEnable s = .next (reply .pf 1 0 [] s)) ∧
    (pkst s 8 8 = 1 → busy = false → s.vf.vfen.getLsbD 0 = true → ∃ t, exec .vfDisable s = .next t ∧ t = { s with vf := t.vf } ∧ t.vf.vfen.getLsbD 0 = false ∧
      t.vf.vfstat.getLsbD 0 = true ∧ t.vf.vfstat.toNat / 2 ^ 8 % 2 ^ 8 = 0 ∧ t.vf.disable = some (gtime s + 4096)) ∧
    (pkst s 8 8 = 1 → busy = true → exec .vfDisable s = .next s ∧ exec .vfEnable s = .next s) ∧
    (pkst s 8 8 = 1 → busy = false → ∃ t, exec .vfEnable s = .next t ∧ t = { s with vf := t.vf } ∧ t.vf.vfen.getLsbD 0 = true) ∧
    (∀ at_, s.vf.disable = some at_ → busy = true →
      ((gtime s).toNat < at_.toNat → exec .vfDisableAtT s = .next s) ∧
      (at_.toNat ≤ (gtime s).toNat →
        (boundCtxs s = [] → boundNodes s = [] → ∃ t, exec .vfDisableAtT s = .next t ∧ t = { s with vf := t.vf } ∧ t.vf.disable = none ∧
          t.vf.vfstat.getLsbD 0 = false ∧ t.vf.vfstat.getLsbD 1 = true ∧ t.vf.vfstat.getLsbD 2 = s.vf.vfen.getLsbD 1) ∧
        (∀ c, c ∈ boundCtxs s → ∃ t, exec .vfDisableAtT s = .next t ∧ getCtx t c = Ctx.none ∧ Instr.vfDisableAtT ∈ t.pending)))

/-- R17, R161 to R167: a gang switch is armed or refused, the host's before READY; at its time the gang at rest is saved with its threads' registers and its slots are free, then the one to restore is loaded; a slice that ends passes the turn on; a
defragmentation rewrites the slice table of a gang at rest. -/
def GangSwitches : Prop :=
  ∀ p s, let g := getGang s p
    (pkst s 8 8 = 0 → s.fw.duty.getLsbD 2 = true → exec (.gangArm p) s = .next (reply .pf 1 0 [] s)) ∧
    (pkst s 8 8 = 1 → bit g.gsctl 2 = false → armFault s p = true → exec (.gangArm p) s = .next (modGang s p fun g => { g with gsctl := setBit g.gsctl 3 true })) ∧
    (pkst s 8 8 = 1 → bit g.gsctl 2 = false → armFault s p = false → ∃ t, exec (.gangArm p) s = .next t ∧ bit (getGang t p).gsctl 2 = true ∧ bit (getGang t p).gsctl 3 = false ∧
      (g.gstime.toNat < (gtime s).toNat → (getGang t p).late = (s.cycle / 2048 + 1) * 2048) ∧ ((gtime s).toNat ≤ g.gstime.toNat → (getGang t p).late = 0)) ∧
    (switchTime s p = false → exec (.gangStop p) s = .next s ∧ exec (.gangRestore p) s = .next s) ∧
    (switchTime s p = true → bit g.gsctl 0 = true → gangRests s p = false → exec (.gangStop p) s = .next s) ∧
    (switchTime s p = true → bit g.gsctl 0 = true → gangRests s p = true → spWf Thread.reset s.threads = true → ∀ n, saveArea s p (bits g.gsctl 31 16) = some n →
      ∃ t, exec (.gangStop p) s = .next t ∧ (spGet Saved.none t.saves n).v = true ∧ (spGet Saved.none t.saves n).ctxs = gangCtxs s p ∧
        ∀ u ∈ threadsOf s (gangCtxs s p), getTh t u = Thread.reset ∧ (spGet Thread.reset (spGet Saved.none t.saves n).threads u).x = (getTh s u).x ∧
          (spGet Thread.reset (spGet Saved.none t.saves n).threads u).pc = (getTh s u).pc ∧ (spGet Thread.reset (spGet Saved.none t.saves n).threads u).thst = (getTh s u).thst) ∧
    (switchTime s p = true → ∀ n, saveArea s p (bits g.gsctl 47 32) = some n → (spGet Saved.none s.saves n).v = true →
      exec (.gangRestore p) s = .next (switchDone p (loadGang (spGet Saved.none s.saves n) { s with saves := spErase n s.saves }))) ∧
    (∀ u, bit (getGang (switchDone p u) p).gsctl 4 = true ∧ bit (getGang (switchDone p u) p).gsctl 2 = false) ∧
    (let x := getPart s p;
      x.v = true → x.rot ≠ 0 → x.began + 2048 * x.slice ≤ s.cycle → ∃ t, exec (.sliceEnd p) s = .next t ∧
        (getPart t p).turn = (x.turn + 1) % (if x.rot = 1 then 2 else 4) ∧ (getPart t p).began = s.cycle / 2048 * 2048) ∧
    (∀ a b, (defragOk s p a b = false → exec (.defragmentation p a b) s = .next s) ∧
      (defragOk s p a b = true → gangRests s p = false → exec (.defragmentation p a b) s = .next (pushOnce (.defragmentation p a b) s)) ∧
      (Instr.defragmentation p a b ∈ s.pending → gangStops s p = true) ∧
      (defragOk s p a b = true → gangRests s p = true → ∃ t, exec (.defragmentation p a b) s = .next t ∧ (getPart t p).slices = (getPart s p).slices.set a b))

/-- R173, R175 to R177: a thread that has settled leaves its slot in a travel parcel with the registers of its live mask; it takes the lowest free slot of its destination, joins the arrival queue of sixteen, or is spilled. -/
def TravelMoves : Prop :=
  ∀ s,
    (∀ t target live seg, (getTh s t).wait = .settle (.depart target live) → segOf s t target = some seg →
      (settled s t = false → exec (.travelDeparture t) s = .next s) ∧
      (settled s t = true → ∃ u p, exec (.travelDeparture t) s = .next u ∧ Instr.travelArrival p ∈ u.pending ∧ Instr.slotFree (coreOf t) (slotOf t) ∈ u.pending ∧
        getTh u t = Thread.reset ∧ p.pc = target ∧ p.launch = (getTh s t).launch ∧ p.tid = (getTh s t).id ∧ p.kind = .travel ∧
        (∀ i, i < 15 → p.xs.getD i 0 = if live.getLsbD i then spGet 0 (getTh s t).x (i + 1) else 0) ∧
        (seg.getD 4 0 = 0 → seg.length = 7 + seg.getD 5 0 → p.core = seg.getD (6 + (getTh s t).id.toNat % (seg.getD 5 0 + 1)) 0))) ∧
    (∀ p : Parcel, p.core < 1024 → (getCore s p.core).spilled = [] →
      (∀ n, (getCore s p.core).arrivals = [] → slotClaimed s p.core = false → lowestFree s p.core = some n →
        exec (.travelArrival p) s = .next (seatParcel p n s)) ∧
      ((getCore s p.core).arrivals ≠ [] ∨ slotClaimed s p.core = true ∨ lowestFree s p.core = none →
        ((getCore s p.core).arrivals.length < 16 → exec (.travelArrival p) s = .next (modCore s p.core fun c => { c with arrivals := c.arrivals ++ [p] })) ∧
        (16 ≤ (getCore s p.core).arrivals.length → exec (.travelArrival p) s = .next (spillIn p s))))

/-- R401, R402: a kick joins its hart's queue of sixteen; an idle hart starts the next with its pc, x1 to x4 and the kicker's data handle in x15. -/
def EngineKicks : Prop :=
  ∀ h node ctx words s,
    (let n := getNode s node;
      n.v = true → n.dead = false → n.kind = 3 → n.arg = h →
      (16 ≤ (kicks s h).length → exec (.engineKick h node ctx words) s = .next s) ∧
      ((kicks s h).length < 16 → ∃ t, exec (.engineKick h node ctx words) s = .next t ∧ kicks t h = kicks s h ++ [(node, ctx, words.take 5)] ∧
        Instr.engineHartStart h ∈ t.pending ∧ SameBytes s t)) ∧
    (∀ rest, kicks s h = (node, ctx, words) :: rest → h < 64 → (getTh s (16384 + h)).uid = 0 → ctxStopped s ctx = false → (getCtx s ctx).live = true →
      ∃ t, exec (.engineHartStart h) s = .next t ∧ kicks t h = rest ∧ OtherHartsKept (16384 + h) s t ∧ SameBytes s t ∧
        let th := getTh t (16384 + h)
        th.pc = words.getD 0 0 ∧ th.ctx = ctx ∧ th.uid = s.uids ∧ (∀ i, 1 ≤ i → i ≤ 4 → spGet 0 th.x i = words.getD i 0) ∧ spGet 0 th.x 15 = 0x0001000000000000 ∧ th.wait = .run)

/-- R72 to R75, R77, R79 to R81: PTP messages and holdover, MSCTL, the claim of a frame whose status word is empty, the counting of one that is not and of packets late or early, and the deadline that ends a frame. -/
def MediaResults : Prop :=
  ∀ node frame s, let f := mediaWord s node 8
    (ptpTime s = gtime s + ptpOffset s ∧ (s.pkg.ptpLock = true → ptpOffset s = s.pkg.ptpOff)) ∧
    (∀ port domain master o r l, (mediaUp s port = false ∨ domain ≠ s.pkg.ptpDomain → exec (.ptpMessage ⟨port, domain, master⟩ o r l) s = .next s) ∧
      (mediaUp s port = true → domain = s.pkg.ptpDomain →
        let seen : Pkg := { s.pkg with masters := spSet 0 s.pkg.masters port (master + 1) }
        let other := spGet 0 s.pkg.masters (1 - port)
        (other ≠ 0 → other < master + 1 → exec (.ptpMessage ⟨port, domain, master⟩ o r l) s = .next { s with pkg := seen }) ∧
        (other = 0 ∨ master + 1 ≤ other → ∃ t, exec (.ptpMessage ⟨port, domain, master⟩ o r l) s = .next t ∧
          t.pkg = { seen with ptpOff := o, ptpTrim := r, ptpLock := l, ptpAt := gtime s } ∧ (l = true → t.media = s.media) ∧
          (l = false → ∀ m ∈ t.media, m.lock = false) ∧ SameBytes s t))) ∧
    (∃ t, exec .ptpHoldover s = .next t ∧ t.pkg = { s.pkg with ptpLock := false, masters := [] } ∧ (∀ m ∈ t.media, m.lock = false) ∧ SameBytes s t) ∧
    (∀ v, (getNode s node).v = true → (getNode s node).dead = false → (getNode s node).kind = 5 → (getNode s node).arg = 1 →
      ∃ t, exec (.mediaEnable node v) s = .next t ∧
        mediaWord t node 0 = ofN ((if bit v 0 = true ∧ (bit (mediaWord s node 0) 0 = true ∨ mediaCanStart s node = true) then 1 else 0) + if bit v 1 then 2 else 0)) ∧
    (mediaOn s node = true → (getNode s node).arg2 = frame → claimTime s f frame = true →
      let s1 := modNode s node fun n => { n with arg2 := frame + 1 }
      let a := recordAddr f (mediaWord s node 0x28) frame
      (∀ bs s2, recordState s1 node a (mediaGroups f) = some (false, bs) → ingestWrite node (offWrap a 64) bs 2 s1 = some s2 →
        ∃ t m, exec (.frameClaim node frame) s = .next t ∧ t.media = s2.media ++ [m] ∧ t.mem = s2.mem ∧ m.node = node ∧ m.frame = frame ∧ m.got = [] ∧ m.seqs = [] ∧
          m.rtpts = rtpOf f frame ∧ m.align = alignment f frame ∧ m.dptp = alignment f frame + (mediaWord s node 0x30).toNat % 2 ^ 32 ∧
          m.dline = (ofN m.dptp - ptpOffset s).toNat ∧ m.lock = s.pkg.ptpLock) ∧
      (∀ bs, recordState s1 node a (mediaGroups f) = some (true, bs) → exec (.frameClaim node frame) s = .next (mediaCount node 16 s1))) ∧
    (∀ m, s.media = [m] → m.node = node → m.frame = frame →
      ((gtime s).toNat < m.dline → exec (.frameDeadline node frame) s = .next s) ∧
      (m.dline ≤ (gtime s).toNat → ∃ t, exec (.frameDeadline node frame) s = .next t ∧ t.media = []) ∧
      (∀ port p, port < 2 → (spGet Port.reset s.ports (17 + port)).up = true → (spKeys s.nodes).filter (fun n => mediaOn s n && pathMatches s n port p) = [node] →
        (f.toNat / 2 ^ 6 % 4 = 0 → 3 < p.rows.length → exec (.mediaPacketArrival port p) s = .next s) ∧ ((f.toNat / 2 ^ 6 % 4 = 0 → p.rows.length ≤ 3) →
        (m.rtpts = p.rtpts → (gtime s).toNat < m.dline → exec (.mediaPacketArrival port p) s = .next (fileMediaPacket port m p s)) ∧
        (m.rtpts = p.rtpts → m.dline ≤ (gtime s).toNat → exec (.mediaPacketArrival port p) s = .next (mediaCount node 48 s)) ∧
        (m.rtpts ≠ p.rtpts → exec (.mediaPacketArrival port p) s =
          .next (mediaCount node (if (p.rtpts - rtpOf f (getNode s node).arg2).toNat < 2 ^ 31 then 32 else 48) s))))) ∧
    (∀ lo, lo = 0 ∨ lo = 16 ∨ lo = 32 ∨ lo = 48 → let c := (mediaWord s node 0x38).toNat / 2 ^ lo % 2 ^ 16
      (mediaWord (mediaCount node lo s) node 0x38).toNat / 2 ^ lo % 2 ^ 16 = min (c + 1) (2 ^ 16 - 1))

/-- R4, R17, R32, R100, R121, R122, R129 to R131, R400: writes of the registers of the configuration region, each with its effect at once. -/
def ConfigWrites : Prop :=
  ∀ v s,
    (∀ fn o, portUp s fn = false → exec (.registerWrite fn o v) s = .next s) ∧
    (∀ g o, portUp s (.peer g) = true → exec (.registerWrite (.peer g) o v) s = .next (reply (.peer g) 2 0 [] s)) ∧
    (∀ n o, portUp s (.vf n) = true → pkst s 8 8 = 0 → exec (.registerWrite (.vf n) o v) s = .next (reply (.vf n) 1 0 [] s)) ∧
    (∀ fn, fn = .policy ∨ (∃ n, fn = .packet n) → 8 ≤ pkst s 7 4 → (∀ o, 0x600 ≤ o ∧ o < 0x648 ∨ 0x20000 ≤ o ∧ o < 0x21000 →
      exec (.registerWrite fn o v) s = .next (reply fn 2 0 [] s))) ∧
    (s.pkg.tdctl.getLsbD 0 = true → ∀ o, 0x600 ≤ o → o < 0x648 → exec (.registerWrite .key o v) s = .next s) ∧
    (s.pkg.tdctl.getLsbD 0 = false → let s1 : State := { s with pkg := { s.pkg with tdctl := setBit s.pkg.tdctl 1 (v.getLsbD 1) } }
      exec (.registerWrite .key 0x640 v) s = if v.getLsbD 0 then exec .tdctlSwap s1 else .next s1) ∧
    (portUp s .pf = true →
      (pkst s 8 8 = 0 → ∀ o, o / 8 * 8 ≠ 0x100 → exec (.registerWrite .pf o v) s = .next (reply .pf 1 0 [] s)) ∧
      (bit v 52 = true → Restarts (.registerWrite .pf 0x100 v) s) ∧
      (bit v 52 = false → exec (.registerWrite .pf 0x100 v) s = if bit v 11 then exec (.pkstCaphitClear true) s else .next s) ∧
      (pkst s 8 8 = 1 →
        exec (.registerWrite .pf 0x300 v) s = .next { s with fw := { s.fw with duty := v &&& 0x1F } } ∧
        exec (.registerWrite .pf 0x308 v) s = exec (.pwrcapWrite .pf v) s ∧
        exec (.registerWrite .pf 0x310 v) s = (if bit v 0 then exec (.updstGo .pf) s else .next s) ∧
        exec (.registerWrite .pf 0x2108 v) s = .next { s with vf := { s.vf with ccevent := v } } ∧
        (let busy : State := { s with vf := { s.vf with ccres := setBit s.vf.ccres 63 true } };
          (s.vf.ccres.getLsbD 63 = true → exec (.registerWrite .pf 0x2110 v) s = .next s) ∧
          (s.vf.ccres.getLsbD 63 = false →
            (v.toNat % 4 = 1 → exec (.registerWrite .pf 0x2110 v) s = .next (push (.ccCreate .pf) busy)) ∧
            (v.toNat % 4 = 2 → exec (.registerWrite .pf 0x2110 v) s = .next (push (.ccDestroy .pf (v.toNat / 2 ^ 16 % 2 ^ 16)) busy)) ∧
            (v.toNat % 4 = 3 → exec (.registerWrite .pf 0x2110 v) s = .next (push (.ccActThrough .pf (v.toNat / 2 ^ 16 % 2 ^ 16)) busy)))) ∧
        (bit v 0 = false → s.vf.vfstat.getLsbD 0 = false → s.vf.vfen.getLsbD 0 = true → ∃ t, exec (.registerWrite .pf 0x200 v) s = .next t ∧
          t.vf.vfen.getLsbD 0 = false ∧ t.vf.vfstat.getLsbD 0 = true ∧ t.vf.disable = some (gtime s + 4096)) ∧
        (bit v 0 = true → s.vf.vfstat.getLsbD 0 = false → s.vf.vfen.getLsbD 0 = false → ∃ t, exec (.registerWrite .pf 0x200 v) s = .next t ∧
          t.vf.vfen.getLsbD 0 = true ∧ t.vf.vfen.getLsbD 1 = v.getLsbD 1 ∧ t.vf.vfstat = s.vf.vfstat) ∧
        (∃ t, exec (.registerWrite .pf 0x410 v) s = .next t ∧ t.fw.hmitail = v.toNat % 2 ^ 9 ∧
          (s.fw.hmihead ≠ v.toNat % 2 ^ 9 → ∃ c, Instr.fwCoreWake c ∈ t.pending))))

/-- R4, R17, R19, R100, R121, R128, R130, R135: reads of the registers of the configuration region by the physical function: a RO or RW bit reads as it stands,
a WO or RZ bit as 0, and before READY PKST alone is read. -/
def ConfigReads : Prop :=
  ∀ s, portUp s .pf = true →
    let gives : Nat → Word → Prop := fun o v => registerRead .pf o s = reply .pf 0 v (leList 8 v.toNat) { s with freeCount := s.freeCount + 1 }
    gives 0x100 (s.pkg.pkst &&& 0x000FFFFFFFFF1FFF) ∧
    (pkst s 8 8 = 0 → ∀ o, o / 8 * 8 ≠ 0x100 → registerRead .pf o s = reply .pf 1 0 [] s) ∧
    (pkst s 8 8 = 1 →
      gives 0x300 (s.fw.duty &&& 0x1F) ∧ gives 0x310 (s.fw.updst &&& 0xFF) ∧ gives 0x308 (ofN s.pkg.capw) ∧ gives 0x200 (s.vf.vfen &&& 3) ∧
      gives 0x208 (s.vf.vfstat &&& 0xFF07) ∧ gives 0x640 (s.pkg.tdctl &&& 7) ∧ gives 0x2118 s.vf.ccres ∧ gives 0x2110 0 ∧
      (∀ i, i < 8 → gives (0x600 + 8 * i) (spGet 0 s.pkg.tds i)))

/-- R102, R103: a message appended to a queue lands in its tail slot: data and sequence number first, then the header set full with offset, length, context and tenant; the tail and the sequence move on; a full slot takes none. -/
def QueueAppends : Prop :=
  ∀ node o ctx pkg data s, let n := getNode s node; let x := getQueue s n.arg
    n.v = true → n.dead = false → n.kind = 2 → x.graph = false → 0 < data.length → data.length ≤ 64 → o + data.length ≤ 0x1000 → o < 0x1000 →
    ∀ p r, ringPieces s x (128 * x.tail) 8 needWr = .ok [p] → ringPieces s x (128 * x.tail + 8) 120 needWr = .ok [r] → ringPieces s x (128 * x.tail) 8 needRd = .ok [p] →
    p.len = 8 → p.key % 8 = 0 → r.len = 120 → r.key = p.key + 8 →
    (feOf s p.key = true → exec (.queueAppend node o ctx pkg data) s = .next s) ∧
    (feOf s p.key = false → (∀ w ∈ wordsOf [p, r], spGet [] s.waits w = []) → ctx < 2 ^ 16 → (getCtx s ctx).tenant < 2 ^ 8 → ∃ t, exec (.queueAppend node o ctx pkg data) s = .next t ∧
      feOf t p.key = true ∧ rdWord t p.key = ofN (o * 2 ^ 52 + data.length * 2 ^ 45 + ctx * 2 ^ 29 + (getCtx s ctx).tenant * 2 ^ 21) ∧
      rdWord t r.key = ofN (x.seqno % 2 ^ 32 * 2 ^ 32 + pkg % 2 ^ 8 * 2 ^ 24) ∧ rdRun t (r.key + 8) data.length = data ∧
      (getQueue t n.arg).tail = (x.tail + 1) % x.slots ∧ (getQueue t n.arg).seqno = (x.seqno + 1) % 2 ^ 32 ∧ SameBytesOutside [p, r] s t)

end Sys2Proof.Claims

/-! ## Firmware, virtual functions, gangs, engines and media -/

/-- R120, R125 to R127, R129, R131 to R133, R135: firmware wakes, mailbox messages, SPDM and live update. What logs 8, 22, 53, 54 fix is the model's. -/
def Obligations.FirmwareResults : Prop := MailboxMessages ∧ FirmwareWakes ∧ SpdmAnswers ∧ LiveUpdates

/-- R4, R17, R19, R100, R102, R103, R121, R122, R128, R130, R135, R400: configuration registers, virtual functions and message queues. What logs 7, 30, 36, 62 fix is the model's. -/
def Obligations.ConfigurationResults : Prop := ConfigWrites ∧ ConfigReads ∧ VirtualFunctions ∧ QueueAppends

/-- R161 to R167, R173, R175 to R177: gang switches, slices, defragmentation, departures and arrivals. What logs 20, 33, 34, 65 fix is the model's. -/
def Obligations.GangsAndTravel : Prop := GangSwitches ∧ TravelMoves

/-- R73 to R75, R77, R79 to R81, R401, R402: engine kicks, PTP and media frames. What logs 21, 51, 63 fix is the model's. -/
def Obligations.EnginesAndMedia : Prop := EngineKicks ∧ MediaResults

namespace Sys2Proof.Claims

/-- The machine as a hart that has been given the turn sees it: one whose wait for an event has ended goes on after that event (R240). -/
def turnView (t : Nat) (rest : List Turn) (s : State) : State :=
  let u : State := { s with turns := rest, issued := s.issued ++ [coreOf t], me := t }
  match (getTh s t).wait with
  | .run => u
  | .marker => u
  | _ => catchUp (coreOf t) u

/-- The hart's pc holds the bytes of one instruction: a base word, and the words its L field names, inside its segment (R174, R257, R258). -/
def Fetches (u : State) (t : Nat) (bs : List Byte) : Prop :=
  ∃ b, fetchBytes u t 0 4 = .got b ∧
    let len := lengthOf (BitVec.ofNat 32 (leNat b))
    straddles u t len = false ∧ (len = 4 → bs = b) ∧ (len ≠ 4 → ∃ r, fetchBytes u t 4 (len - 4) = .got r ∧ bs = b ++ r)

/-- What follows an instruction that has issued from a state: it is counted, in a lent position for the position's owner too, and a word forwarded for it
that it did not take goes on (R154, R168, R314). -/
noncomputable def counted (u : State) : Out → Out
  | .next v => .next (ungrantWord u.me (cur u).wait (countTurn u v))
  | o => o

/-- A hart that the rotation lets issue, with nothing to take first: no settling wait, no returned fault, no hold that has expired, no asynchronous trap, and a
pc inside the segment. -/
def MayIssue (s : State) (t : Nat) (rest : List Turn) : Prop :=
  s.turns = .issue t :: rest ∧ s.pkg.powered = true ∧ mayIssue { s with turns := rest } t = true ∧
    readyHart { s with turns := rest, issued := s.issued ++ [coreOf t] } t = true ∧ (∀ a, (getTh s t).wait ≠ .settle a) ∧
    ((getTh s t).late.isEmpty = true → firstRefused (getTh s t).refused = none) ∧
    ((getTh s t).expired = none ∨ (completesFirst (turnView t rest s) t = true ∧ parked (getTh s t).wait = true)) ∧
    (asyncPending (turnView t rest s) t = false ∨ completesFirst (turnView t rest s) t = true) ∧
    leaves (turnView t rest s) t (getTh s t).pc = false

end Sys2Proof.Claims

/-! ## The machine as a whole -/

/-- R6, R14, R154, R171, R248, R257, R258, R272; logs 1, 2: a turn to issue runs the instruction whose bytes stand at the hart's pc, at a pc that is no
multiple of 4 takes the misalignment trap, or the illegal-instruction trap where the bytes are none; a delivered event, an input, a read of a register, a
timestamp set, the machine's own turn, and an unpowered package. The agenda of turns is the model's (log 1). What logs 1, 2, 23 fix is the model's. -/
def Obligations.StepRunsDecoded : Prop :=
  ∀ s : State,
    (∀ t rest bs, MayIssue s t rest → Fetches (turnView t rest s) t bs →
      let u := turnView t rest s
      (∀ i n, decodeBytes bs = .ok (i, n) → (getTh s t).pc.toNat % 4 = 0 → step s = counted u (exec i u)) ∧
      (∀ i n, decodeBytes bs = .ok (i, n) → (getTh s t).pc.toNat % 4 ≠ 0 → step s = counted u (trapHere 3 0 (getTh s t).pc u)) ∧
      (∀ r, decodeBytes bs = .error r → step s = counted u (exec (.illegalInstruction (BitVec.ofNat 32 (leNat (bs.take 4)))) u))) ∧
    (∀ t o n ps, (travels (getTh s t) = false ∨ (getCore s (coreOf t)).segment = none) → let w := whoOf s t; let a := offWrap (getTh s t).pc (Int.ofNat o)
      hostMiss s w.unit w.ctx (hdl a) = none → resolve s w a n needEx = .ok (.mem ps) → refusedPiece s w.part ps = none → badWord s ps = none →
      fetchBytes s t o n = .got (rdPieces s ps)) ∧
    (∀ t o n l i, travels (getTh s t) = true → (getCore s (coreOf t)).segment = some (l, i, false) →
      fetchBytes s t o n = .got (((getCore s (coreOf t)).segBytes.drop
        (off (offWrap (getTh s t).pc (Int.ofNat o)) - ((getLaunch s l).segs.getD i []).getD 1 0)).take n)) ∧
    (∀ n e rest, s.turns = .deliver n :: rest → s.pkg.powered = true → s.pending[n]? = some e → eventEnabled { s with turns := rest } e = true →
      let u : State := { s with turns := rest, pending := s.pending.eraseIdx n }
      (agentMiss u e = none → step s = exec e u) ∧
      (∀ m c, agentMiss u e = some (m, c) → step s = .next (pushOnce (.nodeCacheMiss m ⟨c, true⟩) (push e u)))) ∧
    (∀ e rest, s.turns = .input e :: rest → e.isEvent = true → (s.pkg.powered = true ∨ e = .coldReset) → let u : State := { s with turns := rest }
      (fromOutside u e = false ∨ portShut u e = true → step s = .next u) ∧
      let waits := portHolds u e = true ∨ behind u e = true ∨ rowWaits u e = true ∨ (eventReady u e = false ∧ keptInput e = true)
      (fromOutside u e = true → portShut u e = false → waits → step s = .next (push e u)) ∧
      (fromOutside u e = true → portShut u e = false → ¬ waits → eventReady u e = true → agentMiss u e = none → step s = exec e u) ∧
      (fromOutside u e = true → portShut u e = false → ¬ waits → eventReady u e = false → step s = .next u)) ∧
    (∀ at_ rest, s.turns = .stamp at_ :: rest → s.pkg.powered = true → let u : State := { s with turns := rest }
      step s = .next (if policyRuns u then { u with fw := { u.fw with stamps := u.fw.stamps ++ [at_] } } else u)) ∧
    (∀ fn o rest, s.turns = .read fn o :: rest → s.pkg.powered = true → step s = .next (registerRead fn o { s with turns := rest })) ∧
    (∀ rest, s.turns = .tick :: rest → s.pkg.powered = true →
      (cycleOver { s with turns := rest } = true → ∃ t, step s = .next t ∧ t.cycle = s.cycle + 1 ∧ SameBytes s t) ∧
      (cycleOver { s with turns := rest } = false → step s = .next { s with turns := rest })) ∧
    (s.turns = [] → s.pkg.powered = true →
      (∀ n e, firstEnabled s = some n → s.pending[n]? = some e → agentMiss { s with pending := s.pending.eraseIdx n } e = none →
        step s = exec e { s with pending := s.pending.eraseIdx n }) ∧
      (firstEnabled s = none → ∀ t, nextIssuer s = some t → step s = issueHart t { s with issued := s.issued ++ [coreOf t] }) ∧
      (firstEnabled s = none → nextIssuer s = none → ∃ t, step s = .next t ∧ t.cycle = s.cycle + 1 ∧ SameBytes s t)) ∧
    (s.pkg.powered = false → (∀ rest, s.turns ≠ .input .coldReset :: rest) → step s = .fault .unpowered)

/-- R257 to R272, the examples of the spec's encoding tables: a few words decode to the instructions they stand for, a word with an unused field set and a word of zeros decode to none, and whatever decodes is well formed and is encoded as the words
read. -/
def Obligations.WordsDecode : Prop :=
  decodeTableWord 32 0x00890005 = some (.addi false 1 2 5 false) ∧
  decodeTableWord 96 0x0123456789ABCDEF83380000 = some (.liK false 7 0x0123456789ABCDEF) ∧
  decodeTableWord 32 0x28196010 = some (.ld true 3 2 .d64 16) ∧
  decodeTableWord 32 0x0889E000 = some (.st false 1 3 .s64 0) ∧
  decodeTableWord 32 0x10091FFD = some (.bNe false 1 2 0xFFD) ∧
  decodeTableWord 32 0x29AA1801 = some (.amoAdd true 5 4 3 false) ∧
  decodeTableWord 32 0x2C531002 = some (.barArr true 10 6 2) ∧
  decodeTableWord 32 0x3412B001 = some (.spawn true 2 5 6) ∧
  decodeTableWord 32 0x18989700 = some (.vaddFlt ⟨false, 3, 1, 2, .f32, false, false, none, none⟩) ∧
  decodeTableWord 32 0 = none ∧ decodeTableWord 32 0x0889D000 = none ∧
  (∀ base w1 w2 i, decode base w1 w2 = .ok i → i.wellFormed = true ∧ (encode i).base = base ∧
    (∀ e, (encode i).e = some e → e = w1) ∧ (∀ k, (encode i).k = some k → k = (if (encode i).e.isSome then w2 else w1)))

/-- R257 to R272: every instruction that is not of format V and admits its operands is read back from its bytes, whatever follows them. -/
def Obligations.ScalarEncodingsDecode : Prop :=
  ∀ (i : Instr) (rest : List Byte), i.wellFormed = true → i.isEvent = false → (∀ w, i ≠ .illegalInstruction w) → i.vrow = none →
    decodeBytes ((encode i).bytes ++ rest) = .ok (i, (encode i).length)

/-- R260, R265, R266, R268 to R272: every instruction of format V that admits its operands is read back from its bytes, whatever follows them. -/
def Obligations.VectorEncodingsDecode : Prop :=
  ∀ (i : Instr) (rest : List Byte) (r : VRow) (g : VArgs), i.vrow = some (r, g) → i.wellFormed = true →
    decodeBytes ((encode i).bytes ++ rest) = .ok (i, (encode i).length)

/-- R15, R17, R19, R31, R32, R100, R128, R135: what reset leaves: PKST with DUTY 8 and STAGE 1 and every other bit 0, every byte zero with its full/empty bit empty, no thread, partition, queue or context (stage 7 makes contexts 0 and 0xFFFF); memory is in
its canonical form. The image slots' contents are the model's choice (log 8). What logs 3, 5, 6, 8 fix is the model's. -/
def Obligations.ResetState : Prop :=
  let r := State.reset
  r.pkg.pkst = 0x0008000000000010 ∧ pkst r 51 48 = 8 ∧ pkst r 7 4 = 1 ∧ (∀ k, rdByte r k = 0) ∧ (∀ k, feOf r k = false) ∧
    (∀ t, (getTh r t).uid = 0) ∧ (∀ p, (getPart r p).v = false) ∧ (∀ q, (getQueue r q).v = false) ∧
    (∀ c, (getCtx r c).live = false) ∧ r.fw.updst = 0 ∧ r.fw.duty = 0 ∧ r.pkg.tdctl = 6 ∧ r.pending = [] ∧ MemoryCanonical r

/-- The invariant of the whole machine (R3, R15; the model's form of memory): no step leaves its memory's canonical form: addresses strictly rising, no entry that reads as an unlisted one. What log 5 fixes is the model's. -/
def Obligations.MemoryStaysCanonical : Prop :=
  ∀ s t : State, MemoryCanonical s → step s = .next t → MemoryCanonical t
end

