-- ==== Sys2Proof/Laws/Table.lean ====
section
/-! SUPPORT. Tables: a read after a write gives the value written, a write leaves every other key alone, and every operation keeps the
canonical form. -/

namespace Sys2Proof.Machine

variable {α : Type}

@[simp] theorem spGet_nil (d : α) (k : Nat) : spGet d [] k = d := rfl

theorem spGet_spErase_self (d : α) (k : Nat) (m : Sp α) : spGet d (spErase k m) k = d := by
  induction m with
  | nil => rfl
  | cons e r ih =>
    by_cases h : e.1 = k
    · simp [spErase, h, ih]
    · simp [spErase, spGet, h, ih]

theorem spGet_spErase_other (d : α) {k j : Nat} (h : j ≠ k) (m : Sp α) : spGet d (spErase k m) j = spGet d m j := by
  induction m with
  | nil => rfl
  | cons e r ih =>
    by_cases h1 : e.1 = k
    · simp [spErase, spGet, h1, ih, Ne.symm h]
    · simp [spErase, spGet, h1, ih]

theorem spGet_spIns_other (d : α) {k j : Nat} (h : j ≠ k) (v : α) (m : Sp α) : spGet d (spIns k v m) j = spGet d m j := by
  induction m with
  | nil => simp [spIns, spGet, Ne.symm h]
  | cons e r ih =>
    unfold spIns
    split
    · simp [spGet, Ne.symm h]
    · simp [spGet, ih]

theorem spGet_spIns_erased (d : α) (k : Nat) (v : α) (m : Sp α) : spGet d (spIns k v (spErase k m)) k = v := by
  induction m with
  | nil => simp [spErase, spIns, spGet]
  | cons e r ih =>
    by_cases h : e.1 = k
    · simp [spErase, h, ih]
    · simp only [spErase, h, if_false]
      unfold spIns
      split
      · simp [spGet]
      · simp [spGet, h, ih]

/-- A read after a write to the same key gives the value written. -/
@[simp] theorem spGet_spSet_self [DecidableEq α] (d : α) (m : Sp α) (k : Nat) (v : α) : spGet d (spSet d m k v) k = v := by
  unfold spSet
  split
  · next h => rw [spGet_spErase_self, h]
  · exact spGet_spIns_erased d k v m

/-- A write leaves every other key alone. -/
theorem spGet_spSet_other [DecidableEq α] (d : α) (m : Sp α) {k j : Nat} (h : j ≠ k) (v : α) :
    spGet d (spSet d m k v) j = spGet d m j := by
  unfold spSet
  split
  · exact spGet_spErase_other d h m
  · rw [spGet_spIns_other d h, spGet_spErase_other d h]

theorem spGet_spSet [DecidableEq α] (d : α) (m : Sp α) (k j : Nat) (v : α) :
    spGet d (spSet d m k v) j = if j = k then v else spGet d m j := by
  by_cases h : j = k
  · simp [h]
  · simp [h, spGet_spSet_other]

theorem spWfFrom_mono [DecidableEq α] (d : α) {b c : Nat} (h : b ≤ c) (m : Sp α) (w : spWfFrom d c m = true) : spWfFrom d b m = true := by
  cases m with
  | nil => rfl
  | cons e r =>
    simp only [spWfFrom, Bool.and_eq_true, decide_eq_true_eq] at w ⊢
    exact ⟨⟨by omega, w.1.2⟩, w.2⟩

theorem spWfFrom_spErase [DecidableEq α] (d : α) (k : Nat) (m : Sp α) : ∀ b, spWfFrom d b m = true → spWfFrom d b (spErase k m) = true := by
  induction m with
  | nil => intro b _; rfl
  | cons e r ih =>
    intro b w
    simp only [spWfFrom, Bool.and_eq_true, decide_eq_true_eq] at w
    unfold spErase
    split
    · exact ih b (spWfFrom_mono d (by omega) r w.2)
    · simp only [spWfFrom, Bool.and_eq_true, decide_eq_true_eq]
      exact ⟨w.1, ih _ w.2⟩

theorem spWfFrom_spIns [DecidableEq α] (d : α) (k : Nat) (v : α) (hv : v ≠ d) (m : Sp α) :
    ∀ b, b ≤ k → spWfFrom d b m = true → spGet d m k = d → spWfFrom d b (spIns k v m) = true := by
  induction m with
  | nil => intro b hb _ _; simp [spIns, spWfFrom, hb, hv]
  | cons e r ih =>
    intro b hb w hk
    simp only [spWfFrom, Bool.and_eq_true, decide_eq_true_eq] at w
    unfold spIns
    split
    · next h => simp only [spWfFrom, Bool.and_eq_true, decide_eq_true_eq]; exact ⟨⟨hb, hv⟩, ⟨by omega, w.1.2⟩, w.2⟩
    · next h =>
      have hne : e.1 ≠ k := by
        intro he
        simp [spGet, he] at hk
        exact w.1.2 hk
      simp only [spWfFrom, Bool.and_eq_true, decide_eq_true_eq]
      refine ⟨w.1, ih (e.1 + 1) (by omega) w.2 ?_⟩
      simpa [spGet, hne] using hk

/-- A removal keeps the canonical form. -/
theorem spWf_spErase [DecidableEq α] (d : α) (k : Nat) (m : Sp α) (w : spWf d m = true) : spWf d (spErase k m) = true :=
  spWfFrom_spErase d k m 0 w

/-- A write keeps the canonical form. -/
theorem spWf_spSet [DecidableEq α] (d : α) (m : Sp α) (k : Nat) (v : α) (w : spWf d m = true) : spWf d (spSet d m k v) = true := by
  unfold spSet
  split
  · exact spWf_spErase d k m w
  · next h => exact spWfFrom_spIns d k v h _ 0 (by omega) (spWf_spErase d k m w) (spGet_spErase_self d k m)

theorem spWfFrom_filter [DecidableEq α] (d : α) (p : Nat × α → Bool) (m : Sp α) : ∀ b, spWfFrom d b m = true → spWfFrom d b (m.filter p) = true := by
  induction m with
  | nil => intro b _; rfl
  | cons e r ih =>
    intro b w
    simp only [spWfFrom, Bool.and_eq_true, decide_eq_true_eq] at w
    rw [List.filter_cons]
    split
    · simp only [spWfFrom, Bool.and_eq_true, decide_eq_true_eq]
      exact ⟨w.1, ih _ w.2⟩
    · exact ih b (spWfFrom_mono d (by omega) r w.2)

/-- Keeping some entries keeps the canonical form. -/
theorem spWf_filter [DecidableEq α] (d : α) (p : Nat × α → Bool) (m : Sp α) (w : spWf d m = true) : spWf d (m.filter p) = true :=
  spWfFrom_filter d p m 0 w

theorem spWf_foldl_spSet [DecidableEq α] (d : α) (l : List (Nat × α)) : ∀ m : Sp α, spWf d m = true →
    spWf d (l.foldl (fun m e => spSet d m e.1 e.2) m) = true := by
  induction l with
  | nil => intro m w; exact w
  | cons e r ih => intro m w; exact ih _ (spWf_spSet d m e.1 e.2 w)

/-- In canonical form an entry that is listed is never the default. -/
theorem spWfFrom_get_lt [DecidableEq α] (d : α) (m : Sp α) : ∀ b k, spWfFrom d b m = true → k < b → spGet d m k = d := by
  induction m with
  | nil => intro b k _ _; rfl
  | cons e r ih =>
    intro b k w h
    simp only [spWfFrom, Bool.and_eq_true, decide_eq_true_eq] at w
    have : e.1 ≠ k := by omega
    simp only [spGet, this, if_false]
    exact ih (e.1 + 1) k w.2 (by omega)

/-- Equal readings are equal tables: in canonical form two tables that read alike at every key are equal. -/
theorem spWf_ext [DecidableEq α] (d : α) (m n : Sp α) : ∀ b c, spWfFrom d b m = true → spWfFrom d c n = true →
    (∀ k, spGet d m k = spGet d n k) → m = n := by
  induction m generalizing n with
  | nil =>
    intro b c _ wn h
    cases n with
    | nil => rfl
    | cons e r =>
      simp only [spWfFrom, Bool.and_eq_true, decide_eq_true_eq] at wn
      have := h e.1
      simp [spGet] at this
      exact absurd this.symm wn.1.2
  | cons e r ih =>
    intro b c wm wn h
    cases n with
    | nil =>
      simp only [spWfFrom, Bool.and_eq_true, decide_eq_true_eq] at wm
      have := h e.1
      simp [spGet] at this
      exact absurd this wm.1.2
    | cons f t =>
      simp only [spWfFrom, Bool.and_eq_true, decide_eq_true_eq] at wm wn
      have hef : e.1 = f.1 := by
        by_contra hne
        rcases Nat.lt_or_gt_of_ne hne with hlt | hgt
        · have := h e.1
          simp only [spGet, Ne.symm hne, if_false, if_true] at this
          rw [spWfFrom_get_lt d t (f.1 + 1) e.1 wn.2 (by omega)] at this
          exact wm.1.2 this
        · have := h f.1
          simp only [spGet, hne, if_false, if_true] at this
          rw [spWfFrom_get_lt d r (e.1 + 1) f.1 wm.2 (by omega)] at this
          exact wn.1.2 this.symm
      have hv : e.2 = f.2 := by
        have := h e.1
        simpa [spGet, hef] using this
      have hrt : r = t := by
        refine ih t (e.1 + 1) (f.1 + 1) wm.2 wn.2 ?_
        intro k
        by_cases hk : k = e.1
        · rw [spWfFrom_get_lt d r (e.1 + 1) k wm.2 (by omega), spWfFrom_get_lt d t (f.1 + 1) k wn.2 (by omega)]
        · have := h k
          simpa [spGet, Ne.symm hk, hef ▸ Ne.symm hk] using this
      rw [hrt]
      exact congrArg (· :: t) (Prod.ext hef hv)

end Sys2Proof.Machine
end

