-- ==== Sys2Proof/Laws/Names.lean ====
section
/-! SUPPORT. What an allocation of a handle or a node number can give: a number in its range, and one whenever the lowest free one is. -/

namespace Sys2Proof.Machine

theorem spErase_length {α : Type} (k : Nat) (m : Sp α) : (spErase k m).length ≤ m.length := by
  induction m with
  | nil => exact Nat.le_refl _
  | cons e r ih => unfold spErase; split <;> simp <;> omega

theorem spIns_length {α : Type} (k : Nat) (v : α) (m : Sp α) : (spIns k v m).length = m.length + 1 := by
  induction m with
  | nil => rfl
  | cons e r ih => unfold spIns; split <;> simp [*]

theorem fold_count_bounds (f : Nat → Nat → Nat) (hf : ∀ h k, h ≤ f h k ∧ f h k ≤ h + 1) {α : Type} (m : Sp α) (n : Nat) :
    n ≤ m.foldl (fun h e => f h e.1) n ∧ m.foldl (fun h e => f h e.1) n ≤ n + m.length := by
  induction m generalizing n with
  | nil => exact ⟨Nat.le_refl _, Nat.le_refl _⟩
  | cons e r ih =>
    have := ih (f n e.1)
    have := hf n e.1
    simp only [List.foldl_cons, List.length_cons]
    omega

/-- The lowest number that no node has had lies past the engine's base, by no more than the records there are. -/
theorem lowNode_bounds (s : State) (quad : Nat) :
    quad * 2 ^ 28 + 1 ≤ lowNode s quad ∧ lowNode s quad ≤ quad * 2 ^ 28 + 1 + s.nodes.length :=
  fold_count_bounds (fun n k => if k = n then n + 1 else n) (fun h k => by split <;> omega) s.nodes _

theorem lowHandle_pos (s : State) (ring : Nat) : 1 ≤ lowHandle s ring := by
  unfold lowHandle
  dsimp only
  cases e : ((upTo ((usedHandles s ring).length + 1)).map (· + 1)).find? fun h => !(usedHandles s ring).contains h with
  | none => decide
  | some h =>
    obtain ⟨i, _, rfl⟩ := List.mem_map.1 (List.mem_of_find?_eq_some e)
    exact Nat.le_add_left 1 i

/-- A handle that is given is a usable one (R86). -/
theorem freeHandle_range {s : State} {ring h : Nat} (e : freeHandle s ring = some h) : 1 ≤ h ∧ h ≤ 0xFFFE := by
  have := lowHandle_pos s ring
  unfold freeHandle at e
  dsimp only at e
  split at e
  · cases e
  · split at e
    · cases e; omega
    · split at e <;> cases e; omega

/-- A node number that is given belongs to the engine of its quadrant (R86). -/
theorem newNode_range {s : State} {quad n : Nat} (e : newNode s quad = some n) : quad * 2 ^ 28 < n ∧ n < (quad + 1) * 2 ^ 28 := by
  have := (lowNode_bounds s quad).1
  unfold newNode at e
  dsimp only at e
  split at e
  · cases e; omega
  · split at e <;> cases e; omega

theorem freeHandle_given {s : State} {ring : Nat} (h : lowHandle s ring ≤ 0xFFFE)
    (hu : (usedHandles s ring).length + reservedHandles s ring < 0xFFFE) : ∃ n, freeHandle s ring = some n := by
  unfold freeHandle
  dsimp only
  rw [if_neg (by omega)]
  split
  · exact ⟨_, rfl⟩
  · exact ⟨lowHandle s ring, rfl⟩

theorem newNode_given {s : State} {quad : Nat} (h : s.nodes.length < 2 ^ 28 - 1) : ∃ n, newNode s quad = some n := by
  have := (lowNode_bounds s quad).2
  unfold newNode
  dsimp only
  split
  · exact ⟨_, rfl⟩
  · exact ⟨lowNode s quad, by rw [if_pos (by omega)]⟩

/-- CREATE of a node that needs no memory of its own is done, when its record and name are good, its directory may bind, and numbers and
entries are left (R98). -/
theorem txCreate_done {x : Tx} {path : List Byte} {rec_ : List Word} {s : State} {name : List Byte} {d : KeyEntry} {make : Nat → Node}
    (hp : parseName path = some name)
    (hr : ¬ bits (rec_.getD 0 0) 49 16 ≠ 0)
    (hd : ∀ act, withDir x (bits (rec_.getD 0 0) 15 0) true s act = act d)
    (hl : (lookupName s d.node name).isSome = false) (hb : ¬ 4096 ≤ (bindingsOf s d.node).length) (hn : s.nodes.length < 2 ^ 28 - 1)
    (hk8 : ¬ bits (rec_.getD 0 0) 63 60 = 8) (hs : sourceMiss x (bits (rec_.getD 0 0) 63 60) (rec_.getD 2 0) s = none)
    (hm : ∀ num, makeNode x num (bits (rec_.getD 0 0) 63 60) (rec_.getD 1 0) (rec_.getD 2 0) (rec_.getD 3 0) s = .ok (make num, s))
    (hk : lowHandle s x.ring ≤ 0xFFFE) (hu : (usedHandles s x.ring).length + reservedHandles s x.ring < 0xFFFE) : ∃ h t, txCreate x path rec_ s = .done h t := by
  obtain ⟨num, e⟩ := newNode_given (quad := if bit (rec_.getD 0 0) 54 then bits (rec_.getD 0 0) 53 50 else x.quad) hn
  unfold txCreate
  simp only [hp, if_neg hr, hd, hl, Bool.false_eq_true, if_false, if_neg hb, hs, e, hm, if_neg hk8]
  unfold makeEntry
  obtain ⟨h, eh⟩ := freeHandle_given (s := addBinding d.node name num (BitVec.ofNat 5 (bits (rec_.getD 0 0) 59 55)) (addNode num (make num) s))
    (ring := x.ring) hk hu
  rw [eh]
  exact ⟨_, _, rfl⟩

end Sys2Proof.Machine
end

