-- ==== Sys2Proof/Laws/State.lean ====
section
/-! SUPPORT. One lemma for each field of State under each named update: the field written, and every other field unchanged. -/

namespace Sys2Proof.Machine

@[simp] theorem modTh_eq (s : State) (t : Nat) (f : Thread → Thread) : modTh s t f = setTh s t (f (getTh s t)) := rfl
@[simp] theorem modCore_eq (s : State) (c : Nat) (f : CoreSt → CoreSt) : modCore s c f = setCore s c (f (getCore s c)) := rfl

@[simp] theorem setTh_cycle (s : State) (t : Nat) (th : Thread) : (setTh s t th).cycle = s.cycle := rfl
@[simp] theorem setTh_issued (s : State) (t : Nat) (th : Thread) : (setTh s t th).issued = s.issued := rfl
@[simp] theorem setTh_me (s : State) (t : Nat) (th : Thread) : (setTh s t th).me = s.me := rfl
@[simp] theorem setTh_freeCount (s : State) (t : Nat) (th : Thread) : (setTh s t th).freeCount = s.freeCount := rfl
@[simp] theorem setTh_uids (s : State) (t : Nat) (th : Thread) : (setTh s t th).uids = s.uids := rfl
@[simp] theorem setTh_turns (s : State) (t : Nat) (th : Thread) : (setTh s t th).turns = s.turns := rfl
@[simp] theorem setTh_pending (s : State) (t : Nat) (th : Thread) : (setTh s t th).pending = s.pending := rfl
@[simp] theorem setTh_out (s : State) (t : Nat) (th : Thread) : (setTh s t th).out = s.out := rfl
@[simp] theorem setTh_pkg (s : State) (t : Nat) (th : Thread) : (setTh s t th).pkg = s.pkg := rfl
@[simp] theorem setTh_ports (s : State) (t : Nat) (th : Thread) : (setTh s t th).ports = s.ports := rfl
@[simp] theorem setTh_parts (s : State) (t : Nat) (th : Thread) : (setTh s t th).parts = s.parts := rfl
@[simp] theorem setTh_ctxs (s : State) (t : Nat) (th : Thread) : (setTh s t th).ctxs = s.ctxs := rfl
@[simp] theorem setTh_nodes (s : State) (t : Nat) (th : Thread) : (setTh s t th).nodes = s.nodes := rfl
@[simp] theorem setTh_binds (s : State) (t : Nat) (th : Thread) : (setTh s t th).binds = s.binds := rfl
@[simp] theorem setTh_keys (s : State) (t : Nat) (th : Thread) : (setTh s t th).keys = s.keys := rfl
@[simp] theorem setTh_nodeCache (s : State) (t : Nat) (th : Thread) : (setTh s t th).nodeCache = s.nodeCache := rfl
@[simp] theorem setTh_missing (s : State) (t : Nat) (th : Thread) : (setTh s t th).missing = s.missing := rfl
@[simp] theorem setTh_timedOut (s : State) (t : Nat) (th : Thread) : (setTh s t th).timedOut = s.timedOut := rfl
@[simp] theorem setTh_filters (s : State) (t : Nat) (th : Thread) : (setTh s t th).filters = s.filters := rfl
@[simp] theorem setTh_revokes (s : State) (t : Nat) (th : Thread) : (setTh s t th).revokes = s.revokes := rfl
@[simp] theorem setTh_forwards (s : State) (t : Nat) (th : Thread) : (setTh s t th).forwards = s.forwards := rfl
@[simp] theorem setTh_alloc (s : State) (t : Nat) (th : Thread) : (setTh s t th).alloc = s.alloc := rfl
@[simp] theorem setTh_mem (s : State) (t : Nat) (th : Thread) : (setTh s t th).mem = s.mem := rfl
@[simp] theorem setTh_fe (s : State) (t : Nat) (th : Thread) : (setTh s t th).fe = s.fe := rfl
@[simp] theorem setTh_resv (s : State) (t : Nat) (th : Thread) : (setTh s t th).resv = s.resv := rfl
@[simp] theorem setTh_waits (s : State) (t : Nat) (th : Thread) : (setTh s t th).waits = s.waits := rfl
@[simp] theorem setTh_latches (s : State) (t : Nat) (th : Thread) : (setTh s t th).latches = s.latches := rfl
@[simp] theorem setTh_maps (s : State) (t : Nat) (th : Thread) : (setTh s t th).maps = s.maps := rfl
@[simp] theorem setTh_lines (s : State) (t : Nat) (th : Thread) : (setTh s t th).lines = s.lines := rfl
@[simp] theorem setTh_slices (s : State) (t : Nat) (th : Thread) : (setTh s t th).slices = s.slices := rfl
@[simp] theorem setTh_l2 (s : State) (t : Nat) (th : Thread) : (setTh s t th).l2 = s.l2 := rfl
@[simp] theorem setTh_seen (s : State) (t : Nat) (th : Thread) : (setTh s t th).seen = s.seen := rfl
@[simp] theorem setTh_powner (s : State) (t : Nat) (th : Thread) : (setTh s t th).powner = s.powner := rfl
@[simp] theorem setTh_threads (s : State) (t : Nat) (th : Thread) : (setTh s t th).threads = spSet Thread.reset s.threads t th := rfl
@[simp] theorem setTh_cores (s : State) (t : Nat) (th : Thread) : (setTh s t th).cores = s.cores := rfl
@[simp] theorem setTh_journal (s : State) (t : Nat) (th : Thread) : (setTh s t th).journal = s.journal := rfl
@[simp] theorem setTh_splits (s : State) (t : Nat) (th : Thread) : (setTh s t th).splits = s.splits := rfl
@[simp] theorem setTh_mmq (s : State) (t : Nat) (th : Thread) : (setTh s t th).mmq = s.mmq := rfl
@[simp] theorem setTh_mmrun (s : State) (t : Nat) (th : Thread) : (setTh s t th).mmrun = s.mmrun := rfl
@[simp] theorem setTh_queues (s : State) (t : Nat) (th : Thread) : (setTh s t th).queues = s.queues := rfl
@[simp] theorem setTh_fetched (s : State) (t : Nat) (th : Thread) : (setTh s t th).fetched = s.fetched := rfl
@[simp] theorem setTh_gnodes (s : State) (t : Nat) (th : Thread) : (setTh s t th).gnodes = s.gnodes := rfl
@[simp] theorem setTh_launches (s : State) (t : Nat) (th : Thread) : (setTh s t th).launches = s.launches := rfl
@[simp] theorem setTh_streams (s : State) (t : Nat) (th : Thread) : (setTh s t th).streams = s.streams := rfl
@[simp] theorem setTh_routers (s : State) (t : Nat) (th : Thread) : (setTh s t th).routers = s.routers := rfl
@[simp] theorem setTh_media (s : State) (t : Nat) (th : Thread) : (setTh s t th).media = s.media := rfl
@[simp] theorem setTh_saves (s : State) (t : Nat) (th : Thread) : (setTh s t th).saves = s.saves := rfl
@[simp] theorem setTh_gangs (s : State) (t : Nat) (th : Thread) : (setTh s t th).gangs = s.gangs := rfl
@[simp] theorem setTh_harts (s : State) (t : Nat) (th : Thread) : (setTh s t th).harts = s.harts := rfl
@[simp] theorem setTh_fw (s : State) (t : Nat) (th : Thread) : (setTh s t th).fw = s.fw := rfl
@[simp] theorem setTh_vf (s : State) (t : Nat) (th : Thread) : (setTh s t th).vf = s.vf := rfl
@[simp] theorem setTh_errors (s : State) (t : Nat) (th : Thread) : (setTh s t th).errors = s.errors := rfl

@[simp] theorem setCore_cycle (s : State) (c : Nat) (v : CoreSt) : (setCore s c v).cycle = s.cycle := rfl
@[simp] theorem setCore_issued (s : State) (c : Nat) (v : CoreSt) : (setCore s c v).issued = s.issued := rfl
@[simp] theorem setCore_me (s : State) (c : Nat) (v : CoreSt) : (setCore s c v).me = s.me := rfl
@[simp] theorem setCore_freeCount (s : State) (c : Nat) (v : CoreSt) : (setCore s c v).freeCount = s.freeCount := rfl
@[simp] theorem setCore_uids (s : State) (c : Nat) (v : CoreSt) : (setCore s c v).uids = s.uids := rfl
@[simp] theorem setCore_turns (s : State) (c : Nat) (v : CoreSt) : (setCore s c v).turns = s.turns := rfl
@[simp] theorem setCore_pending (s : State) (c : Nat) (v : CoreSt) : (setCore s c v).pending = s.pending := rfl
@[simp] theorem setCore_out (s : State) (c : Nat) (v : CoreSt) : (setCore s c v).out = s.out := rfl
@[simp] theorem setCore_pkg (s : State) (c : Nat) (v : CoreSt) : (setCore s c v).pkg = s.pkg := rfl
@[simp] theorem setCore_ports (s : State) (c : Nat) (v : CoreSt) : (setCore s c v).ports = s.ports := rfl
@[simp] theorem setCore_parts (s : State) (c : Nat) (v : CoreSt) : (setCore s c v).parts = s.parts := rfl
@[simp] theorem setCore_ctxs (s : State) (c : Nat) (v : CoreSt) : (setCore s c v).ctxs = s.ctxs := rfl
@[simp] theorem setCore_nodes (s : State) (c : Nat) (v : CoreSt) : (setCore s c v).nodes = s.nodes := rfl
@[simp] theorem setCore_binds (s : State) (c : Nat) (v : CoreSt) : (setCore s c v).binds = s.binds := rfl
@[simp] theorem setCore_keys (s : State) (c : Nat) (v : CoreSt) : (setCore s c v).keys = s.keys := rfl
@[simp] theorem setCore_nodeCache (s : State) (c : Nat) (v : CoreSt) : (setCore s c v).nodeCache = s.nodeCache := rfl
@[simp] theorem setCore_missing (s : State) (c : Nat) (v : CoreSt) : (setCore s c v).missing = s.missing := rfl
@[simp] theorem setCore_timedOut (s : State) (c : Nat) (v : CoreSt) : (setCore s c v).timedOut = s.timedOut := rfl
@[simp] theorem setCore_filters (s : State) (c : Nat) (v : CoreSt) : (setCore s c v).filters = s.filters := rfl
@[simp] theorem setCore_revokes (s : State) (c : Nat) (v : CoreSt) : (setCore s c v).revokes = s.revokes := rfl
@[simp] theorem setCore_forwards (s : State) (c : Nat) (v : CoreSt) : (setCore s c v).forwards = s.forwards := rfl
@[simp] theorem setCore_alloc (s : State) (c : Nat) (v : CoreSt) : (setCore s c v).alloc = s.alloc := rfl
@[simp] theorem setCore_mem (s : State) (c : Nat) (v : CoreSt) : (setCore s c v).mem = s.mem := rfl
@[simp] theorem setCore_fe (s : State) (c : Nat) (v : CoreSt) : (setCore s c v).fe = s.fe := rfl
@[simp] theorem setCore_resv (s : State) (c : Nat) (v : CoreSt) : (setCore s c v).resv = s.resv := rfl
@[simp] theorem setCore_waits (s : State) (c : Nat) (v : CoreSt) : (setCore s c v).waits = s.waits := rfl
@[simp] theorem setCore_latches (s : State) (c : Nat) (v : CoreSt) : (setCore s c v).latches = s.latches := rfl
@[simp] theorem setCore_maps (s : State) (c : Nat) (v : CoreSt) : (setCore s c v).maps = s.maps := rfl
@[simp] theorem setCore_lines (s : State) (c : Nat) (v : CoreSt) : (setCore s c v).lines = s.lines := rfl
@[simp] theorem setCore_slices (s : State) (c : Nat) (v : CoreSt) : (setCore s c v).slices = s.slices := rfl
@[simp] theorem setCore_l2 (s : State) (c : Nat) (v : CoreSt) : (setCore s c v).l2 = s.l2 := rfl
@[simp] theorem setCore_seen (s : State) (c : Nat) (v : CoreSt) : (setCore s c v).seen = s.seen := rfl
@[simp] theorem setCore_powner (s : State) (c : Nat) (v : CoreSt) : (setCore s c v).powner = s.powner := rfl
@[simp] theorem setCore_threads (s : State) (c : Nat) (v : CoreSt) : (setCore s c v).threads = s.threads := rfl
@[simp] theorem setCore_cores (s : State) (c : Nat) (v : CoreSt) : (setCore s c v).cores = spSet CoreSt.reset s.cores c v := rfl
@[simp] theorem setCore_journal (s : State) (c : Nat) (v : CoreSt) : (setCore s c v).journal = s.journal := rfl
@[simp] theorem setCore_splits (s : State) (c : Nat) (v : CoreSt) : (setCore s c v).splits = s.splits := rfl
@[simp] theorem setCore_mmq (s : State) (c : Nat) (v : CoreSt) : (setCore s c v).mmq = s.mmq := rfl
@[simp] theorem setCore_mmrun (s : State) (c : Nat) (v : CoreSt) : (setCore s c v).mmrun = s.mmrun := rfl
@[simp] theorem setCore_queues (s : State) (c : Nat) (v : CoreSt) : (setCore s c v).queues = s.queues := rfl
@[simp] theorem setCore_fetched (s : State) (c : Nat) (v : CoreSt) : (setCore s c v).fetched = s.fetched := rfl
@[simp] theorem setCore_gnodes (s : State) (c : Nat) (v : CoreSt) : (setCore s c v).gnodes = s.gnodes := rfl
@[simp] theorem setCore_launches (s : State) (c : Nat) (v : CoreSt) : (setCore s c v).launches = s.launches := rfl
@[simp] theorem setCore_streams (s : State) (c : Nat) (v : CoreSt) : (setCore s c v).streams = s.streams := rfl
@[simp] theorem setCore_routers (s : State) (c : Nat) (v : CoreSt) : (setCore s c v).routers = s.routers := rfl
@[simp] theorem setCore_media (s : State) (c : Nat) (v : CoreSt) : (setCore s c v).media = s.media := rfl
@[simp] theorem setCore_saves (s : State) (c : Nat) (v : CoreSt) : (setCore s c v).saves = s.saves := rfl
@[simp] theorem setCore_gangs (s : State) (c : Nat) (v : CoreSt) : (setCore s c v).gangs = s.gangs := rfl
@[simp] theorem setCore_harts (s : State) (c : Nat) (v : CoreSt) : (setCore s c v).harts = s.harts := rfl
@[simp] theorem setCore_fw (s : State) (c : Nat) (v : CoreSt) : (setCore s c v).fw = s.fw := rfl
@[simp] theorem setCore_vf (s : State) (c : Nat) (v : CoreSt) : (setCore s c v).vf = s.vf := rfl
@[simp] theorem setCore_errors (s : State) (c : Nat) (v : CoreSt) : (setCore s c v).errors = s.errors := rfl

@[simp] theorem push_cycle (e : Instr) (s : State) : (push e s).cycle = s.cycle := rfl
@[simp] theorem push_issued (e : Instr) (s : State) : (push e s).issued = s.issued := rfl
@[simp] theorem push_me (e : Instr) (s : State) : (push e s).me = s.me := rfl
@[simp] theorem push_freeCount (e : Instr) (s : State) : (push e s).freeCount = s.freeCount := rfl
@[simp] theorem push_uids (e : Instr) (s : State) : (push e s).uids = s.uids := rfl
@[simp] theorem push_turns (e : Instr) (s : State) : (push e s).turns = s.turns := rfl
@[simp] theorem push_pending (e : Instr) (s : State) : (push e s).pending = s.pending ++ [e] := rfl
@[simp] theorem push_out (e : Instr) (s : State) : (push e s).out = s.out := rfl
@[simp] theorem push_pkg (e : Instr) (s : State) : (push e s).pkg = s.pkg := rfl
@[simp] theorem push_ports (e : Instr) (s : State) : (push e s).ports = s.ports := rfl
@[simp] theorem push_parts (e : Instr) (s : State) : (push e s).parts = s.parts := rfl
@[simp] theorem push_ctxs (e : Instr) (s : State) : (push e s).ctxs = s.ctxs := rfl
@[simp] theorem push_nodes (e : Instr) (s : State) : (push e s).nodes = s.nodes := rfl
@[simp] theorem push_binds (e : Instr) (s : State) : (push e s).binds = s.binds := rfl
@[simp] theorem push_keys (e : Instr) (s : State) : (push e s).keys = s.keys := rfl
@[simp] theorem push_nodeCache (e : Instr) (s : State) : (push e s).nodeCache = s.nodeCache := rfl
@[simp] theorem push_missing (e : Instr) (s : State) : (push e s).missing = s.missing := rfl
@[simp] theorem push_timedOut (e : Instr) (s : State) : (push e s).timedOut = s.timedOut := rfl
@[simp] theorem push_filters (e : Instr) (s : State) : (push e s).filters = s.filters := rfl
@[simp] theorem push_revokes (e : Instr) (s : State) : (push e s).revokes = s.revokes := rfl
@[simp] theorem push_forwards (e : Instr) (s : State) : (push e s).forwards = s.forwards := rfl
@[simp] theorem push_alloc (e : Instr) (s : State) : (push e s).alloc = s.alloc := rfl
@[simp] theorem push_mem (e : Instr) (s : State) : (push e s).mem = s.mem := rfl
@[simp] theorem push_fe (e : Instr) (s : State) : (push e s).fe = s.fe := rfl
@[simp] theorem push_resv (e : Instr) (s : State) : (push e s).resv = s.resv := rfl
@[simp] theorem push_waits (e : Instr) (s : State) : (push e s).waits = s.waits := rfl
@[simp] theorem push_latches (e : Instr) (s : State) : (push e s).latches = s.latches := rfl
@[simp] theorem push_maps (e : Instr) (s : State) : (push e s).maps = s.maps := rfl
@[simp] theorem push_lines (e : Instr) (s : State) : (push e s).lines = s.lines := rfl
@[simp] theorem push_slices (e : Instr) (s : State) : (push e s).slices = s.slices := rfl
@[simp] theorem push_l2 (e : Instr) (s : State) : (push e s).l2 = s.l2 := rfl
@[simp] theorem push_seen (e : Instr) (s : State) : (push e s).seen = s.seen := rfl
@[simp] theorem push_powner (e : Instr) (s : State) : (push e s).powner = s.powner := rfl
@[simp] theorem push_threads (e : Instr) (s : State) : (push e s).threads = s.threads := rfl
@[simp] theorem push_cores (e : Instr) (s : State) : (push e s).cores = s.cores := rfl
@[simp] theorem push_journal (e : Instr) (s : State) : (push e s).journal = s.journal := rfl
@[simp] theorem push_splits (e : Instr) (s : State) : (push e s).splits = s.splits := rfl
@[simp] theorem push_mmq (e : Instr) (s : State) : (push e s).mmq = s.mmq := rfl
@[simp] theorem push_mmrun (e : Instr) (s : State) : (push e s).mmrun = s.mmrun := rfl
@[simp] theorem push_queues (e : Instr) (s : State) : (push e s).queues = s.queues := rfl
@[simp] theorem push_fetched (e : Instr) (s : State) : (push e s).fetched = s.fetched := rfl
@[simp] theorem push_gnodes (e : Instr) (s : State) : (push e s).gnodes = s.gnodes := rfl
@[simp] theorem push_launches (e : Instr) (s : State) : (push e s).launches = s.launches := rfl
@[simp] theorem push_streams (e : Instr) (s : State) : (push e s).streams = s.streams := rfl
@[simp] theorem push_routers (e : Instr) (s : State) : (push e s).routers = s.routers := rfl
@[simp] theorem push_media (e : Instr) (s : State) : (push e s).media = s.media := rfl
@[simp] theorem push_saves (e : Instr) (s : State) : (push e s).saves = s.saves := rfl
@[simp] theorem push_gangs (e : Instr) (s : State) : (push e s).gangs = s.gangs := rfl
@[simp] theorem push_harts (e : Instr) (s : State) : (push e s).harts = s.harts := rfl
@[simp] theorem push_fw (e : Instr) (s : State) : (push e s).fw = s.fw := rfl
@[simp] theorem push_vf (e : Instr) (s : State) : (push e s).vf = s.vf := rfl
@[simp] theorem push_errors (e : Instr) (s : State) : (push e s).errors = s.errors := rfl

@[simp] theorem wrByte_cycle (s : State) (k : Nat) (b : Byte) : (wrByte s k b).cycle = s.cycle := rfl
@[simp] theorem wrByte_issued (s : State) (k : Nat) (b : Byte) : (wrByte s k b).issued = s.issued := rfl
@[simp] theorem wrByte_me (s : State) (k : Nat) (b : Byte) : (wrByte s k b).me = s.me := rfl
@[simp] theorem wrByte_freeCount (s : State) (k : Nat) (b : Byte) : (wrByte s k b).freeCount = s.freeCount := rfl
@[simp] theorem wrByte_uids (s : State) (k : Nat) (b : Byte) : (wrByte s k b).uids = s.uids := rfl
@[simp] theorem wrByte_turns (s : State) (k : Nat) (b : Byte) : (wrByte s k b).turns = s.turns := rfl
@[simp] theorem wrByte_pending (s : State) (k : Nat) (b : Byte) : (wrByte s k b).pending = s.pending := rfl
@[simp] theorem wrByte_out (s : State) (k : Nat) (b : Byte) : (wrByte s k b).out = s.out := rfl
@[simp] theorem wrByte_pkg (s : State) (k : Nat) (b : Byte) : (wrByte s k b).pkg = s.pkg := rfl
@[simp] theorem wrByte_ports (s : State) (k : Nat) (b : Byte) : (wrByte s k b).ports = s.ports := rfl
@[simp] theorem wrByte_parts (s : State) (k : Nat) (b : Byte) : (wrByte s k b).parts = s.parts := rfl
@[simp] theorem wrByte_ctxs (s : State) (k : Nat) (b : Byte) : (wrByte s k b).ctxs = s.ctxs := rfl
@[simp] theorem wrByte_nodes (s : State) (k : Nat) (b : Byte) : (wrByte s k b).nodes = s.nodes := rfl
@[simp] theorem wrByte_binds (s : State) (k : Nat) (b : Byte) : (wrByte s k b).binds = s.binds := rfl
@[simp] theorem wrByte_keys (s : State) (k : Nat) (b : Byte) : (wrByte s k b).keys = s.keys := rfl
@[simp] theorem wrByte_nodeCache (s : State) (k : Nat) (b : Byte) : (wrByte s k b).nodeCache = s.nodeCache := rfl
@[simp] theorem wrByte_missing (s : State) (k : Nat) (b : Byte) : (wrByte s k b).missing = s.missing := rfl
@[simp] theorem wrByte_timedOut (s : State) (k : Nat) (b : Byte) : (wrByte s k b).timedOut = s.timedOut := rfl
@[simp] theorem wrByte_filters (s : State) (k : Nat) (b : Byte) : (wrByte s k b).filters = s.filters := rfl
@[simp] theorem wrByte_revokes (s : State) (k : Nat) (b : Byte) : (wrByte s k b).revokes = s.revokes := rfl
@[simp] theorem wrByte_forwards (s : State) (k : Nat) (b : Byte) : (wrByte s k b).forwards = s.forwards := rfl
@[simp] theorem wrByte_alloc (s : State) (k : Nat) (b : Byte) : (wrByte s k b).alloc = s.alloc := rfl
@[simp] theorem wrByte_mem (s : State) (k : Nat) (b : Byte) : (wrByte s k b).mem = spSet memDefault s.mem k b := rfl
@[simp] theorem wrByte_fe (s : State) (k : Nat) (b : Byte) : (wrByte s k b).fe = s.fe := rfl
@[simp] theorem wrByte_resv (s : State) (k : Nat) (b : Byte) : (wrByte s k b).resv = s.resv := rfl
@[simp] theorem wrByte_waits (s : State) (k : Nat) (b : Byte) : (wrByte s k b).waits = s.waits := rfl
@[simp] theorem wrByte_latches (s : State) (k : Nat) (b : Byte) : (wrByte s k b).latches = s.latches := rfl
@[simp] theorem wrByte_maps (s : State) (k : Nat) (b : Byte) : (wrByte s k b).maps = s.maps := rfl
@[simp] theorem wrByte_lines (s : State) (k : Nat) (b : Byte) : (wrByte s k b).lines = s.lines := rfl
@[simp] theorem wrByte_slices (s : State) (k : Nat) (b : Byte) : (wrByte s k b).slices = s.slices := rfl
@[simp] theorem wrByte_l2 (s : State) (k : Nat) (b : Byte) : (wrByte s k b).l2 = s.l2 := rfl
@[simp] theorem wrByte_seen (s : State) (k : Nat) (b : Byte) : (wrByte s k b).seen = s.seen := rfl
@[simp] theorem wrByte_powner (s : State) (k : Nat) (b : Byte) : (wrByte s k b).powner = s.powner := rfl
@[simp] theorem wrByte_threads (s : State) (k : Nat) (b : Byte) : (wrByte s k b).threads = s.threads := rfl
@[simp] theorem wrByte_cores (s : State) (k : Nat) (b : Byte) : (wrByte s k b).cores = s.cores := rfl
@[simp] theorem wrByte_journal (s : State) (k : Nat) (b : Byte) : (wrByte s k b).journal = s.journal := rfl
@[simp] theorem wrByte_splits (s : State) (k : Nat) (b : Byte) : (wrByte s k b).splits = s.splits := rfl
@[simp] theorem wrByte_mmq (s : State) (k : Nat) (b : Byte) : (wrByte s k b).mmq = s.mmq := rfl
@[simp] theorem wrByte_mmrun (s : State) (k : Nat) (b : Byte) : (wrByte s k b).mmrun = s.mmrun := rfl
@[simp] theorem wrByte_queues (s : State) (k : Nat) (b : Byte) : (wrByte s k b).queues = s.queues := rfl
@[simp] theorem wrByte_fetched (s : State) (k : Nat) (b : Byte) : (wrByte s k b).fetched = s.fetched := rfl
@[simp] theorem wrByte_gnodes (s : State) (k : Nat) (b : Byte) : (wrByte s k b).gnodes = s.gnodes := rfl
@[simp] theorem wrByte_launches (s : State) (k : Nat) (b : Byte) : (wrByte s k b).launches = s.launches := rfl
@[simp] theorem wrByte_streams (s : State) (k : Nat) (b : Byte) : (wrByte s k b).streams = s.streams := rfl
@[simp] theorem wrByte_routers (s : State) (k : Nat) (b : Byte) : (wrByte s k b).routers = s.routers := rfl
@[simp] theorem wrByte_media (s : State) (k : Nat) (b : Byte) : (wrByte s k b).media = s.media := rfl
@[simp] theorem wrByte_saves (s : State) (k : Nat) (b : Byte) : (wrByte s k b).saves = s.saves := rfl
@[simp] theorem wrByte_gangs (s : State) (k : Nat) (b : Byte) : (wrByte s k b).gangs = s.gangs := rfl
@[simp] theorem wrByte_harts (s : State) (k : Nat) (b : Byte) : (wrByte s k b).harts = s.harts := rfl
@[simp] theorem wrByte_fw (s : State) (k : Nat) (b : Byte) : (wrByte s k b).fw = s.fw := rfl
@[simp] theorem wrByte_vf (s : State) (k : Nat) (b : Byte) : (wrByte s k b).vf = s.vf := rfl
@[simp] theorem wrByte_errors (s : State) (k : Nat) (b : Byte) : (wrByte s k b).errors = s.errors := rfl

@[simp] theorem setFe_cycle (s : State) (k : Nat) (b : Bool) : (setFe s k b).cycle = s.cycle := rfl
@[simp] theorem setFe_issued (s : State) (k : Nat) (b : Bool) : (setFe s k b).issued = s.issued := rfl
@[simp] theorem setFe_me (s : State) (k : Nat) (b : Bool) : (setFe s k b).me = s.me := rfl
@[simp] theorem setFe_freeCount (s : State) (k : Nat) (b : Bool) : (setFe s k b).freeCount = s.freeCount := rfl
@[simp] theorem setFe_uids (s : State) (k : Nat) (b : Bool) : (setFe s k b).uids = s.uids := rfl
@[simp] theorem setFe_turns (s : State) (k : Nat) (b : Bool) : (setFe s k b).turns = s.turns := rfl
@[simp] theorem setFe_pending (s : State) (k : Nat) (b : Bool) : (setFe s k b).pending = s.pending := rfl
@[simp] theorem setFe_out (s : State) (k : Nat) (b : Bool) : (setFe s k b).out = s.out := rfl
@[simp] theorem setFe_pkg (s : State) (k : Nat) (b : Bool) : (setFe s k b).pkg = s.pkg := rfl
@[simp] theorem setFe_ports (s : State) (k : Nat) (b : Bool) : (setFe s k b).ports = s.ports := rfl
@[simp] theorem setFe_parts (s : State) (k : Nat) (b : Bool) : (setFe s k b).parts = s.parts := rfl
@[simp] theorem setFe_ctxs (s : State) (k : Nat) (b : Bool) : (setFe s k b).ctxs = s.ctxs := rfl
@[simp] theorem setFe_nodes (s : State) (k : Nat) (b : Bool) : (setFe s k b).nodes = s.nodes := rfl
@[simp] theorem setFe_binds (s : State) (k : Nat) (b : Bool) : (setFe s k b).binds = s.binds := rfl
@[simp] theorem setFe_keys (s : State) (k : Nat) (b : Bool) : (setFe s k b).keys = s.keys := rfl
@[simp] theorem setFe_nodeCache (s : State) (k : Nat) (b : Bool) : (setFe s k b).nodeCache = s.nodeCache := rfl
@[simp] theorem setFe_missing (s : State) (k : Nat) (b : Bool) : (setFe s k b).missing = s.missing := rfl
@[simp] theorem setFe_timedOut (s : State) (k : Nat) (b : Bool) : (setFe s k b).timedOut = s.timedOut := rfl
@[simp] theorem setFe_filters (s : State) (k : Nat) (b : Bool) : (setFe s k b).filters = s.filters := rfl
@[simp] theorem setFe_revokes (s : State) (k : Nat) (b : Bool) : (setFe s k b).revokes = s.revokes := rfl
@[simp] theorem setFe_forwards (s : State) (k : Nat) (b : Bool) : (setFe s k b).forwards = s.forwards := rfl
@[simp] theorem setFe_alloc (s : State) (k : Nat) (b : Bool) : (setFe s k b).alloc = s.alloc := rfl
@[simp] theorem setFe_mem (s : State) (k : Nat) (b : Bool) : (setFe s k b).mem = s.mem := rfl
@[simp] theorem setFe_fe (s : State) (k : Nat) (b : Bool) : (setFe s k b).fe = spSet false s.fe (k / 8) b := rfl
@[simp] theorem setFe_resv (s : State) (k : Nat) (b : Bool) : (setFe s k b).resv = s.resv := rfl
@[simp] theorem setFe_waits (s : State) (k : Nat) (b : Bool) : (setFe s k b).waits = s.waits := rfl
@[simp] theorem setFe_latches (s : State) (k : Nat) (b : Bool) : (setFe s k b).latches = s.latches := rfl
@[simp] theorem setFe_maps (s : State) (k : Nat) (b : Bool) : (setFe s k b).maps = s.maps := rfl
@[simp] theorem setFe_lines (s : State) (k : Nat) (b : Bool) : (setFe s k b).lines = s.lines := rfl
@[simp] theorem setFe_slices (s : State) (k : Nat) (b : Bool) : (setFe s k b).slices = s.slices := rfl
@[simp] theorem setFe_l2 (s : State) (k : Nat) (b : Bool) : (setFe s k b).l2 = s.l2 := rfl
@[simp] theorem setFe_seen (s : State) (k : Nat) (b : Bool) : (setFe s k b).seen = s.seen := rfl
@[simp] theorem setFe_powner (s : State) (k : Nat) (b : Bool) : (setFe s k b).powner = s.powner := rfl
@[simp] theorem setFe_threads (s : State) (k : Nat) (b : Bool) : (setFe s k b).threads = s.threads := rfl
@[simp] theorem setFe_cores (s : State) (k : Nat) (b : Bool) : (setFe s k b).cores = s.cores := rfl
@[simp] theorem setFe_journal (s : State) (k : Nat) (b : Bool) : (setFe s k b).journal = s.journal := rfl
@[simp] theorem setFe_splits (s : State) (k : Nat) (b : Bool) : (setFe s k b).splits = s.splits := rfl
@[simp] theorem setFe_mmq (s : State) (k : Nat) (b : Bool) : (setFe s k b).mmq = s.mmq := rfl
@[simp] theorem setFe_mmrun (s : State) (k : Nat) (b : Bool) : (setFe s k b).mmrun = s.mmrun := rfl
@[simp] theorem setFe_queues (s : State) (k : Nat) (b : Bool) : (setFe s k b).queues = s.queues := rfl
@[simp] theorem setFe_fetched (s : State) (k : Nat) (b : Bool) : (setFe s k b).fetched = s.fetched := rfl
@[simp] theorem setFe_gnodes (s : State) (k : Nat) (b : Bool) : (setFe s k b).gnodes = s.gnodes := rfl
@[simp] theorem setFe_launches (s : State) (k : Nat) (b : Bool) : (setFe s k b).launches = s.launches := rfl
@[simp] theorem setFe_streams (s : State) (k : Nat) (b : Bool) : (setFe s k b).streams = s.streams := rfl
@[simp] theorem setFe_routers (s : State) (k : Nat) (b : Bool) : (setFe s k b).routers = s.routers := rfl
@[simp] theorem setFe_media (s : State) (k : Nat) (b : Bool) : (setFe s k b).media = s.media := rfl
@[simp] theorem setFe_saves (s : State) (k : Nat) (b : Bool) : (setFe s k b).saves = s.saves := rfl
@[simp] theorem setFe_gangs (s : State) (k : Nat) (b : Bool) : (setFe s k b).gangs = s.gangs := rfl
@[simp] theorem setFe_harts (s : State) (k : Nat) (b : Bool) : (setFe s k b).harts = s.harts := rfl
@[simp] theorem setFe_fw (s : State) (k : Nat) (b : Bool) : (setFe s k b).fw = s.fw := rfl
@[simp] theorem setFe_vf (s : State) (k : Nat) (b : Bool) : (setFe s k b).vf = s.vf := rfl
@[simp] theorem setFe_errors (s : State) (k : Nat) (b : Bool) : (setFe s k b).errors = s.errors := rfl

@[simp] theorem setJ_cycle (s : State) (c e : Nat) (j : JEnt) : (setJ s c e j).cycle = s.cycle := rfl
@[simp] theorem setJ_issued (s : State) (c e : Nat) (j : JEnt) : (setJ s c e j).issued = s.issued := rfl
@[simp] theorem setJ_me (s : State) (c e : Nat) (j : JEnt) : (setJ s c e j).me = s.me := rfl
@[simp] theorem setJ_freeCount (s : State) (c e : Nat) (j : JEnt) : (setJ s c e j).freeCount = s.freeCount := rfl
@[simp] theorem setJ_uids (s : State) (c e : Nat) (j : JEnt) : (setJ s c e j).uids = s.uids := rfl
@[simp] theorem setJ_turns (s : State) (c e : Nat) (j : JEnt) : (setJ s c e j).turns = s.turns := rfl
@[simp] theorem setJ_pending (s : State) (c e : Nat) (j : JEnt) : (setJ s c e j).pending = s.pending := rfl
@[simp] theorem setJ_out (s : State) (c e : Nat) (j : JEnt) : (setJ s c e j).out = s.out := rfl
@[simp] theorem setJ_pkg (s : State) (c e : Nat) (j : JEnt) : (setJ s c e j).pkg = s.pkg := rfl
@[simp] theorem setJ_ports (s : State) (c e : Nat) (j : JEnt) : (setJ s c e j).ports = s.ports := rfl
@[simp] theorem setJ_parts (s : State) (c e : Nat) (j : JEnt) : (setJ s c e j).parts = s.parts := rfl
@[simp] theorem setJ_ctxs (s : State) (c e : Nat) (j : JEnt) : (setJ s c e j).ctxs = s.ctxs := rfl
@[simp] theorem setJ_nodes (s : State) (c e : Nat) (j : JEnt) : (setJ s c e j).nodes = s.nodes := rfl
@[simp] theorem setJ_binds (s : State) (c e : Nat) (j : JEnt) : (setJ s c e j).binds = s.binds := rfl
@[simp] theorem setJ_keys (s : State) (c e : Nat) (j : JEnt) : (setJ s c e j).keys = s.keys := rfl
@[simp] theorem setJ_nodeCache (s : State) (c e : Nat) (j : JEnt) : (setJ s c e j).nodeCache = s.nodeCache := rfl
@[simp] theorem setJ_missing (s : State) (c e : Nat) (j : JEnt) : (setJ s c e j).missing = s.missing := rfl
@[simp] theorem setJ_timedOut (s : State) (c e : Nat) (j : JEnt) : (setJ s c e j).timedOut = s.timedOut := rfl
@[simp] theorem setJ_filters (s : State) (c e : Nat) (j : JEnt) : (setJ s c e j).filters = s.filters := rfl
@[simp] theorem setJ_revokes (s : State) (c e : Nat) (j : JEnt) : (setJ s c e j).revokes = s.revokes := rfl
@[simp] theorem setJ_forwards (s : State) (c e : Nat) (j : JEnt) : (setJ s c e j).forwards = s.forwards := rfl
@[simp] theorem setJ_alloc (s : State) (c e : Nat) (j : JEnt) : (setJ s c e j).alloc = s.alloc := rfl
@[simp] theorem setJ_mem (s : State) (c e : Nat) (j : JEnt) : (setJ s c e j).mem = s.mem := rfl
@[simp] theorem setJ_fe (s : State) (c e : Nat) (j : JEnt) : (setJ s c e j).fe = s.fe := rfl
@[simp] theorem setJ_resv (s : State) (c e : Nat) (j : JEnt) : (setJ s c e j).resv = s.resv := rfl
@[simp] theorem setJ_waits (s : State) (c e : Nat) (j : JEnt) : (setJ s c e j).waits = s.waits := rfl
@[simp] theorem setJ_latches (s : State) (c e : Nat) (j : JEnt) : (setJ s c e j).latches = s.latches := rfl
@[simp] theorem setJ_maps (s : State) (c e : Nat) (j : JEnt) : (setJ s c e j).maps = s.maps := rfl
@[simp] theorem setJ_lines (s : State) (c e : Nat) (j : JEnt) : (setJ s c e j).lines = s.lines := rfl
@[simp] theorem setJ_slices (s : State) (c e : Nat) (j : JEnt) : (setJ s c e j).slices = s.slices := rfl
@[simp] theorem setJ_l2 (s : State) (c e : Nat) (j : JEnt) : (setJ s c e j).l2 = s.l2 := rfl
@[simp] theorem setJ_seen (s : State) (c e : Nat) (j : JEnt) : (setJ s c e j).seen = s.seen := rfl
@[simp] theorem setJ_powner (s : State) (c e : Nat) (j : JEnt) : (setJ s c e j).powner = s.powner := rfl
@[simp] theorem setJ_threads (s : State) (c e : Nat) (j : JEnt) : (setJ s c e j).threads = s.threads := rfl
@[simp] theorem setJ_cores (s : State) (c e : Nat) (j : JEnt) : (setJ s c e j).cores = s.cores := rfl
@[simp] theorem setJ_journal (s : State) (c e : Nat) (j : JEnt) : (setJ s c e j).journal = spSet JEnt.free s.journal (c * 32 + e) j := rfl
@[simp] theorem setJ_splits (s : State) (c e : Nat) (j : JEnt) : (setJ s c e j).splits = s.splits := rfl
@[simp] theorem setJ_mmq (s : State) (c e : Nat) (j : JEnt) : (setJ s c e j).mmq = s.mmq := rfl
@[simp] theorem setJ_mmrun (s : State) (c e : Nat) (j : JEnt) : (setJ s c e j).mmrun = s.mmrun := rfl
@[simp] theorem setJ_queues (s : State) (c e : Nat) (j : JEnt) : (setJ s c e j).queues = s.queues := rfl
@[simp] theorem setJ_fetched (s : State) (c e : Nat) (j : JEnt) : (setJ s c e j).fetched = s.fetched := rfl
@[simp] theorem setJ_gnodes (s : State) (c e : Nat) (j : JEnt) : (setJ s c e j).gnodes = s.gnodes := rfl
@[simp] theorem setJ_launches (s : State) (c e : Nat) (j : JEnt) : (setJ s c e j).launches = s.launches := rfl
@[simp] theorem setJ_streams (s : State) (c e : Nat) (j : JEnt) : (setJ s c e j).streams = s.streams := rfl
@[simp] theorem setJ_routers (s : State) (c e : Nat) (j : JEnt) : (setJ s c e j).routers = s.routers := rfl
@[simp] theorem setJ_media (s : State) (c e : Nat) (j : JEnt) : (setJ s c e j).media = s.media := rfl
@[simp] theorem setJ_saves (s : State) (c e : Nat) (j : JEnt) : (setJ s c e j).saves = s.saves := rfl
@[simp] theorem setJ_gangs (s : State) (c e : Nat) (j : JEnt) : (setJ s c e j).gangs = s.gangs := rfl
@[simp] theorem setJ_harts (s : State) (c e : Nat) (j : JEnt) : (setJ s c e j).harts = s.harts := rfl
@[simp] theorem setJ_fw (s : State) (c e : Nat) (j : JEnt) : (setJ s c e j).fw = s.fw := rfl
@[simp] theorem setJ_vf (s : State) (c e : Nat) (j : JEnt) : (setJ s c e j).vf = s.vf := rfl
@[simp] theorem setJ_errors (s : State) (c e : Nat) (j : JEnt) : (setJ s c e j).errors = s.errors := rfl

@[simp] theorem modNode_cycle (s : State) (n : Nat) (f : Node → Node) : (modNode s n f).cycle = s.cycle := rfl
@[simp] theorem modNode_issued (s : State) (n : Nat) (f : Node → Node) : (modNode s n f).issued = s.issued := rfl
@[simp] theorem modNode_me (s : State) (n : Nat) (f : Node → Node) : (modNode s n f).me = s.me := rfl
@[simp] theorem modNode_freeCount (s : State) (n : Nat) (f : Node → Node) : (modNode s n f).freeCount = s.freeCount := rfl
@[simp] theorem modNode_uids (s : State) (n : Nat) (f : Node → Node) : (modNode s n f).uids = s.uids := rfl
@[simp] theorem modNode_turns (s : State) (n : Nat) (f : Node → Node) : (modNode s n f).turns = s.turns := rfl
@[simp] theorem modNode_pending (s : State) (n : Nat) (f : Node → Node) : (modNode s n f).pending = s.pending := rfl
@[simp] theorem modNode_out (s : State) (n : Nat) (f : Node → Node) : (modNode s n f).out = s.out := rfl
@[simp] theorem modNode_pkg (s : State) (n : Nat) (f : Node → Node) : (modNode s n f).pkg = s.pkg := rfl
@[simp] theorem modNode_ports (s : State) (n : Nat) (f : Node → Node) : (modNode s n f).ports = s.ports := rfl
@[simp] theorem modNode_parts (s : State) (n : Nat) (f : Node → Node) : (modNode s n f).parts = s.parts := rfl
@[simp] theorem modNode_ctxs (s : State) (n : Nat) (f : Node → Node) : (modNode s n f).ctxs = s.ctxs := rfl
@[simp] theorem modNode_nodes (s : State) (n : Nat) (f : Node → Node) : (modNode s n f).nodes = spSet Node.none s.nodes n (f (getNode s n)) := rfl
@[simp] theorem modNode_binds (s : State) (n : Nat) (f : Node → Node) : (modNode s n f).binds = s.binds := rfl
@[simp] theorem modNode_keys (s : State) (n : Nat) (f : Node → Node) : (modNode s n f).keys = s.keys := rfl
@[simp] theorem modNode_nodeCache (s : State) (n : Nat) (f : Node → Node) : (modNode s n f).nodeCache = s.nodeCache := rfl
@[simp] theorem modNode_missing (s : State) (n : Nat) (f : Node → Node) : (modNode s n f).missing = s.missing := rfl
@[simp] theorem modNode_timedOut (s : State) (n : Nat) (f : Node → Node) : (modNode s n f).timedOut = s.timedOut := rfl
@[simp] theorem modNode_filters (s : State) (n : Nat) (f : Node → Node) : (modNode s n f).filters = s.filters := rfl
@[simp] theorem modNode_revokes (s : State) (n : Nat) (f : Node → Node) : (modNode s n f).revokes = s.revokes := rfl
@[simp] theorem modNode_forwards (s : State) (n : Nat) (f : Node → Node) : (modNode s n f).forwards = s.forwards := rfl
@[simp] theorem modNode_alloc (s : State) (n : Nat) (f : Node → Node) : (modNode s n f).alloc = s.alloc := rfl
@[simp] theorem modNode_mem (s : State) (n : Nat) (f : Node → Node) : (modNode s n f).mem = s.mem := rfl
@[simp] theorem modNode_fe (s : State) (n : Nat) (f : Node → Node) : (modNode s n f).fe = s.fe := rfl
@[simp] theorem modNode_resv (s : State) (n : Nat) (f : Node → Node) : (modNode s n f).resv = s.resv := rfl
@[simp] theorem modNode_waits (s : State) (n : Nat) (f : Node → Node) : (modNode s n f).waits = s.waits := rfl
@[simp] theorem modNode_latches (s : State) (n : Nat) (f : Node → Node) : (modNode s n f).latches = s.latches := rfl
@[simp] theorem modNode_maps (s : State) (n : Nat) (f : Node → Node) : (modNode s n f).maps = s.maps := rfl
@[simp] theorem modNode_lines (s : State) (n : Nat) (f : Node → Node) : (modNode s n f).lines = s.lines := rfl
@[simp] theorem modNode_slices (s : State) (n : Nat) (f : Node → Node) : (modNode s n f).slices = s.slices := rfl
@[simp] theorem modNode_l2 (s : State) (n : Nat) (f : Node → Node) : (modNode s n f).l2 = s.l2 := rfl
@[simp] theorem modNode_seen (s : State) (n : Nat) (f : Node → Node) : (modNode s n f).seen = s.seen := rfl
@[simp] theorem modNode_powner (s : State) (n : Nat) (f : Node → Node) : (modNode s n f).powner = s.powner := rfl
@[simp] theorem modNode_threads (s : State) (n : Nat) (f : Node → Node) : (modNode s n f).threads = s.threads := rfl
@[simp] theorem modNode_cores (s : State) (n : Nat) (f : Node → Node) : (modNode s n f).cores = s.cores := rfl
@[simp] theorem modNode_journal (s : State) (n : Nat) (f : Node → Node) : (modNode s n f).journal = s.journal := rfl
@[simp] theorem modNode_splits (s : State) (n : Nat) (f : Node → Node) : (modNode s n f).splits = s.splits := rfl
@[simp] theorem modNode_mmq (s : State) (n : Nat) (f : Node → Node) : (modNode s n f).mmq = s.mmq := rfl
@[simp] theorem modNode_mmrun (s : State) (n : Nat) (f : Node → Node) : (modNode s n f).mmrun = s.mmrun := rfl
@[simp] theorem modNode_queues (s : State) (n : Nat) (f : Node → Node) : (modNode s n f).queues = s.queues := rfl
@[simp] theorem modNode_fetched (s : State) (n : Nat) (f : Node → Node) : (modNode s n f).fetched = s.fetched := rfl
@[simp] theorem modNode_gnodes (s : State) (n : Nat) (f : Node → Node) : (modNode s n f).gnodes = s.gnodes := rfl
@[simp] theorem modNode_launches (s : State) (n : Nat) (f : Node → Node) : (modNode s n f).launches = s.launches := rfl
@[simp] theorem modNode_streams (s : State) (n : Nat) (f : Node → Node) : (modNode s n f).streams = s.streams := rfl
@[simp] theorem modNode_routers (s : State) (n : Nat) (f : Node → Node) : (modNode s n f).routers = s.routers := rfl
@[simp] theorem modNode_media (s : State) (n : Nat) (f : Node → Node) : (modNode s n f).media = s.media := rfl
@[simp] theorem modNode_saves (s : State) (n : Nat) (f : Node → Node) : (modNode s n f).saves = s.saves := rfl
@[simp] theorem modNode_gangs (s : State) (n : Nat) (f : Node → Node) : (modNode s n f).gangs = s.gangs := rfl
@[simp] theorem modNode_harts (s : State) (n : Nat) (f : Node → Node) : (modNode s n f).harts = s.harts := rfl
@[simp] theorem modNode_fw (s : State) (n : Nat) (f : Node → Node) : (modNode s n f).fw = s.fw := rfl
@[simp] theorem modNode_vf (s : State) (n : Nat) (f : Node → Node) : (modNode s n f).vf = s.vf := rfl
@[simp] theorem modNode_errors (s : State) (n : Nat) (f : Node → Node) : (modNode s n f).errors = s.errors := rfl

@[simp] theorem modCtx_cycle (s : State) (c : Nat) (f : Ctx → Ctx) : (modCtx s c f).cycle = s.cycle := rfl
@[simp] theorem modCtx_issued (s : State) (c : Nat) (f : Ctx → Ctx) : (modCtx s c f).issued = s.issued := rfl
@[simp] theorem modCtx_me (s : State) (c : Nat) (f : Ctx → Ctx) : (modCtx s c f).me = s.me := rfl
@[simp] theorem modCtx_freeCount (s : State) (c : Nat) (f : Ctx → Ctx) : (modCtx s c f).freeCount = s.freeCount := rfl
@[simp] theorem modCtx_uids (s : State) (c : Nat) (f : Ctx → Ctx) : (modCtx s c f).uids = s.uids := rfl
@[simp] theorem modCtx_turns (s : State) (c : Nat) (f : Ctx → Ctx) : (modCtx s c f).turns = s.turns := rfl
@[simp] theorem modCtx_pending (s : State) (c : Nat) (f : Ctx → Ctx) : (modCtx s c f).pending = s.pending := rfl
@[simp] theorem modCtx_out (s : State) (c : Nat) (f : Ctx → Ctx) : (modCtx s c f).out = s.out := rfl
@[simp] theorem modCtx_pkg (s : State) (c : Nat) (f : Ctx → Ctx) : (modCtx s c f).pkg = s.pkg := rfl
@[simp] theorem modCtx_ports (s : State) (c : Nat) (f : Ctx → Ctx) : (modCtx s c f).ports = s.ports := rfl
@[simp] theorem modCtx_parts (s : State) (c : Nat) (f : Ctx → Ctx) : (modCtx s c f).parts = s.parts := rfl
@[simp] theorem modCtx_ctxs (s : State) (c : Nat) (f : Ctx → Ctx) : (modCtx s c f).ctxs = spSet Ctx.none s.ctxs c (f (getCtx s c)) := rfl
@[simp] theorem modCtx_nodes (s : State) (c : Nat) (f : Ctx → Ctx) : (modCtx s c f).nodes = s.nodes := rfl
@[simp] theorem modCtx_binds (s : State) (c : Nat) (f : Ctx → Ctx) : (modCtx s c f).binds = s.binds := rfl
@[simp] theorem modCtx_keys (s : State) (c : Nat) (f : Ctx → Ctx) : (modCtx s c f).keys = s.keys := rfl
@[simp] theorem modCtx_nodeCache (s : State) (c : Nat) (f : Ctx → Ctx) : (modCtx s c f).nodeCache = s.nodeCache := rfl
@[simp] theorem modCtx_missing (s : State) (c : Nat) (f : Ctx → Ctx) : (modCtx s c f).missing = s.missing := rfl
@[simp] theorem modCtx_timedOut (s : State) (c : Nat) (f : Ctx → Ctx) : (modCtx s c f).timedOut = s.timedOut := rfl
@[simp] theorem modCtx_filters (s : State) (c : Nat) (f : Ctx → Ctx) : (modCtx s c f).filters = s.filters := rfl
@[simp] theorem modCtx_revokes (s : State) (c : Nat) (f : Ctx → Ctx) : (modCtx s c f).revokes = s.revokes := rfl
@[simp] theorem modCtx_forwards (s : State) (c : Nat) (f : Ctx → Ctx) : (modCtx s c f).forwards = s.forwards := rfl
@[simp] theorem modCtx_alloc (s : State) (c : Nat) (f : Ctx → Ctx) : (modCtx s c f).alloc = s.alloc := rfl
@[simp] theorem modCtx_mem (s : State) (c : Nat) (f : Ctx → Ctx) : (modCtx s c f).mem = s.mem := rfl
@[simp] theorem modCtx_fe (s : State) (c : Nat) (f : Ctx → Ctx) : (modCtx s c f).fe = s.fe := rfl
@[simp] theorem modCtx_resv (s : State) (c : Nat) (f : Ctx → Ctx) : (modCtx s c f).resv = s.resv := rfl
@[simp] theorem modCtx_waits (s : State) (c : Nat) (f : Ctx → Ctx) : (modCtx s c f).waits = s.waits := rfl
@[simp] theorem modCtx_latches (s : State) (c : Nat) (f : Ctx → Ctx) : (modCtx s c f).latches = s.latches := rfl
@[simp] theorem modCtx_maps (s : State) (c : Nat) (f : Ctx → Ctx) : (modCtx s c f).maps = s.maps := rfl
@[simp] theorem modCtx_lines (s : State) (c : Nat) (f : Ctx → Ctx) : (modCtx s c f).lines = s.lines := rfl
@[simp] theorem modCtx_slices (s : State) (c : Nat) (f : Ctx → Ctx) : (modCtx s c f).slices = s.slices := rfl
@[simp] theorem modCtx_l2 (s : State) (c : Nat) (f : Ctx → Ctx) : (modCtx s c f).l2 = s.l2 := rfl
@[simp] theorem modCtx_seen (s : State) (c : Nat) (f : Ctx → Ctx) : (modCtx s c f).seen = s.seen := rfl
@[simp] theorem modCtx_powner (s : State) (c : Nat) (f : Ctx → Ctx) : (modCtx s c f).powner = s.powner := rfl
@[simp] theorem modCtx_threads (s : State) (c : Nat) (f : Ctx → Ctx) : (modCtx s c f).threads = s.threads := rfl
@[simp] theorem modCtx_cores (s : State) (c : Nat) (f : Ctx → Ctx) : (modCtx s c f).cores = s.cores := rfl
@[simp] theorem modCtx_journal (s : State) (c : Nat) (f : Ctx → Ctx) : (modCtx s c f).journal = s.journal := rfl
@[simp] theorem modCtx_splits (s : State) (c : Nat) (f : Ctx → Ctx) : (modCtx s c f).splits = s.splits := rfl
@[simp] theorem modCtx_mmq (s : State) (c : Nat) (f : Ctx → Ctx) : (modCtx s c f).mmq = s.mmq := rfl
@[simp] theorem modCtx_mmrun (s : State) (c : Nat) (f : Ctx → Ctx) : (modCtx s c f).mmrun = s.mmrun := rfl
@[simp] theorem modCtx_queues (s : State) (c : Nat) (f : Ctx → Ctx) : (modCtx s c f).queues = s.queues := rfl
@[simp] theorem modCtx_fetched (s : State) (c : Nat) (f : Ctx → Ctx) : (modCtx s c f).fetched = s.fetched := rfl
@[simp] theorem modCtx_gnodes (s : State) (c : Nat) (f : Ctx → Ctx) : (modCtx s c f).gnodes = s.gnodes := rfl
@[simp] theorem modCtx_launches (s : State) (c : Nat) (f : Ctx → Ctx) : (modCtx s c f).launches = s.launches := rfl
@[simp] theorem modCtx_streams (s : State) (c : Nat) (f : Ctx → Ctx) : (modCtx s c f).streams = s.streams := rfl
@[simp] theorem modCtx_routers (s : State) (c : Nat) (f : Ctx → Ctx) : (modCtx s c f).routers = s.routers := rfl
@[simp] theorem modCtx_media (s : State) (c : Nat) (f : Ctx → Ctx) : (modCtx s c f).media = s.media := rfl
@[simp] theorem modCtx_saves (s : State) (c : Nat) (f : Ctx → Ctx) : (modCtx s c f).saves = s.saves := rfl
@[simp] theorem modCtx_gangs (s : State) (c : Nat) (f : Ctx → Ctx) : (modCtx s c f).gangs = s.gangs := rfl
@[simp] theorem modCtx_harts (s : State) (c : Nat) (f : Ctx → Ctx) : (modCtx s c f).harts = s.harts := rfl
@[simp] theorem modCtx_fw (s : State) (c : Nat) (f : Ctx → Ctx) : (modCtx s c f).fw = s.fw := rfl
@[simp] theorem modCtx_vf (s : State) (c : Nat) (f : Ctx → Ctx) : (modCtx s c f).vf = s.vf := rfl
@[simp] theorem modCtx_errors (s : State) (c : Nat) (f : Ctx → Ctx) : (modCtx s c f).errors = s.errors := rfl

end Sys2Proof.Machine
end

