-- ==== Sys2Proof/Laws/Ops.lean ====
section
/-! SUPPORT. What the shared operations over harts, registers, control flow and traps can do: reads after writes, and that none of them
touches the machine outside its harts, its cores, the events under way and the order numbers. -/

namespace Sys2Proof.Machine

@[simp] theorem getTh_setTh_self (s : State) (t : Nat) (th : Thread) : getTh (setTh s t th) t = th := spGet_spSet_self _ _ _ _

theorem getTh_setTh (s : State) (t u : Nat) (th : Thread) : getTh (setTh s t th) u = if u = t then th else getTh s u :=
  spGet_spSet _ _ _ _ _

theorem getTh_setTh_other (s : State) {t u : Nat} (h : u ≠ t) (th : Thread) : getTh (setTh s t th) u = getTh s u :=
  spGet_spSet_other _ _ h _

@[simp] theorem getCore_setCore_self (s : State) (c : Nat) (v : CoreSt) : getCore (setCore s c v) c = v := spGet_spSet_self _ _ _ _

theorem getCore_setCore_other (s : State) {c e : Nat} (h : e ≠ c) (v : CoreSt) : getCore (setCore s c v) e = getCore s e :=
  spGet_spSet_other _ _ h _

@[simp] theorem getTh_setCore (s : State) (c : Nat) (v : CoreSt) (t : Nat) : getTh (setCore s c v) t = getTh s t := rfl
@[simp] theorem getCore_setTh (s : State) (t : Nat) (th : Thread) (c : Nat) : getCore (setTh s t th) c = getCore s c := rfl
@[simp] theorem getTh_push (e : Instr) (s : State) (t : Nat) : getTh (push e s) t = getTh s t := rfl
@[simp] theorem getCore_push (e : Instr) (s : State) (c : Nat) : getCore (push e s) c = getCore s c := rfl
@[simp] theorem cur_setTh_me (s : State) (th : Thread) : cur (setTh s s.me th) = th := by simp [cur]

/-! ### Registers -/

@[simp] theorem xr_zero (th : Thread) : xr th 0 = 0 := by simp [xr]

theorem xr_xw (th : Thread) (d r : Reg) (v : Word) : xr (xw th d v) r = if r = d ∧ r ≠ 0 then v else xr th r := by
  unfold xr xw
  by_cases hd : d = 0
  · subst hd
    by_cases hr : r = 0 <;> simp [hr]
  · by_cases hr : r = 0
    · simp [hr]
    · simp only [hd, hr, if_false, ne_eq, not_false_eq_true, and_true, spGet_spSet]
      simp [BitVec.toNat_inj]

theorem xw_kept (th : Thread) (d : Reg) (v : Word) : xw th d v = { th with x := (xw th d v).x } := by
  unfold xw; split <;> rfl

/-! ### Bytes -/

@[simp] theorem rdByte_wrByte_self (s : State) (k : Nat) (b : Byte) : rdByte (wrByte s k b) k = b := spGet_spSet_self _ _ _ _

theorem rdByte_wrByte_other (s : State) {k j : Nat} (h : j ≠ k) (b : Byte) : rdByte (wrByte s k b) j = rdByte s j :=
  spGet_spSet_other _ _ h _

theorem rdByte_wrRun_outside (bs : List Byte) : ∀ (s : State) (key k : Nat), k < key ∨ key + bs.length ≤ k →
    rdByte (wrRun s key bs) k = rdByte s k := by
  induction bs with
  | nil => intros; rfl
  | cons b r ih =>
    intro s key k h
    simp only [List.length_cons] at h
    rw [wrRun, ih _ _ _ (by omega), rdByte_wrByte_other _ (by omega)]

theorem rdRun_congr (s t : State) : ∀ (n key : Nat), (∀ k, key ≤ k → k < key + n → rdByte t k = rdByte s k) → rdRun t key n = rdRun s key n := by
  intro n
  induction n with
  | zero => intros; rfl
  | succ n ih =>
    intro key h
    rw [rdRun, rdRun, h key (by omega) (by omega), ih (key + 1) (fun k h1 h2 => h k (by omega) (by omega))]

/-- Bytes read back as they were written. -/
theorem rdRun_wrRun_self (bs : List Byte) : ∀ (s : State) (key : Nat), rdRun (wrRun s key bs) key bs.length = bs := by
  induction bs with
  | nil => intros; rfl
  | cons b r ih =>
    intro s key
    simp only [List.length_cons, rdRun, wrRun]
    rw [ih, rdByte_wrRun_outside _ _ _ _ (by omega), rdByte_wrByte_self]

theorem feOf_setFe (s : State) (k j : Nat) (b : Bool) : feOf (setFe s k b) j = if j / 8 = k / 8 then b else feOf s j :=
  spGet_spSet _ _ _ _ _

theorem rdByte_wrPieces_outside (ps : List Piece) : ∀ (s : State) (bs : List Byte) (k : Nat), ¬ InPieces ps k →
    rdByte (wrPieces s ps bs) k = rdByte s k := by
  induction ps with
  | nil => intros; rfl
  | cons p r ih =>
    intro s bs k h
    have h1 : ¬ InPieces r k := fun ⟨p', hp, hk⟩ => h ⟨p', List.mem_cons_of_mem _ hp, hk⟩
    have h2 : ¬ (p.key ≤ k ∧ k < p.key + p.len) := fun hk => h ⟨p, List.mem_cons_self .., hk⟩
    rw [wrPieces, ih _ _ _ h1, rdByte_wrRun_outside]
    have := List.length_take_le p.len bs
    omega

/-! ### The canonical form of memory -/

theorem memoryCanonical_of_mem {s t : State} (h : t.mem = s.mem) (w : MemoryCanonical s) : MemoryCanonical t := by
  unfold MemoryCanonical at *; rw [h]; exact w

theorem memoryCanonical_wrByte {s : State} (w : MemoryCanonical s) (k : Nat) (b : Byte) : MemoryCanonical (wrByte s k b) :=
  spWf_spSet _ _ _ _ w

theorem memoryCanonical_wrRun (bs : List Byte) : ∀ {s : State}, MemoryCanonical s → ∀ key, MemoryCanonical (wrRun s key bs) := by
  induction bs with
  | nil => intro s w _; exact w
  | cons b r ih => intro s w key; exact ih (memoryCanonical_wrByte w key b) (key + 1)

theorem memoryCanonical_wrWord {s : State} (w : MemoryCanonical s) (key : Nat) (v : Word) : MemoryCanonical (wrWord s key v) :=
  memoryCanonical_wrRun _ w key

theorem memoryCanonical_wrPieces (ps : List Piece) : ∀ {s : State}, MemoryCanonical s → ∀ bs, MemoryCanonical (wrPieces s ps bs) := by
  induction ps with
  | nil => intro s w _; exact w
  | cons p r ih => intro s w bs; exact ih (memoryCanonical_wrRun _ w p.key) _

theorem memoryCanonical_reset : MemoryCanonical State.reset := rfl

/-! ### What the shared operations keep -/

theorem machineKept_refl (s : State) : MachineKept s s := rfl

theorem machineKept_trans {s t u : State} (h : MachineKept s t) (k : MachineKept t u) : MachineKept s u := by
  unfold MachineKept at *; rw [k, h]

theorem machineKept_setTh {s t : State} (h : MachineKept s t) (n : Nat) (th : Thread) : MachineKept s (setTh t n th) :=
  machineKept_trans h rfl

theorem machineKept_setCore {s t : State} (h : MachineKept s t) (n : Nat) (c : CoreSt) : MachineKept s (setCore t n c) :=
  machineKept_trans h rfl

theorem machineKept_push {s t : State} (h : MachineKept s t) (e : Instr) : MachineKept s (push e t) := machineKept_trans h rfl

theorem machineKept_mem {s t : State} (h : MachineKept s t) : t.mem = s.mem := by rw [h]

theorem machineKept_fe {s t : State} (h : MachineKept s t) : t.fe = s.fe := by rw [h]

theorem machineKept_me {s t : State} (h : MachineKept s t) : t.me = s.me := by rw [h]

theorem machineKept_sameBytes {s t : State} (h : MachineKept s t) : SameBytes s t := fun k => by
  unfold rdByte; rw [machineKept_mem h]

theorem machineKept_sameFullEmpty {s t : State} (h : MachineKept s t) : SameFullEmpty s t := fun k => by
  unfold feOf; rw [machineKept_fe h]

theorem machineKept_wr (t : Nat) (d : Reg) (v : Word) (s : State) : MachineKept s (wr t d v s) := by
  unfold wr; split <;> rfl

theorem machineKept_deq (t : Nat) (s : State) (r : Reg) : MachineKept s (deq t s r) := by
  unfold deq; split <;> rfl

theorem machineKept_foldl {α : Type} (f : State → α → State) (h : ∀ s a, MachineKept s (f s a)) (l : List α) :
    ∀ s, MachineKept s (l.foldl f s) := by
  induction l with
  | nil => intro s; rfl
  | cons a r ih => intro s; exact machineKept_trans (h s a) (ih _)

theorem machineKept_operandState (srcs : List Reg) (s : State) : MachineKept s (operandState srcs s) :=
  machineKept_foldl _ (machineKept_deq s.me) _ s

theorem machineKept_feedVector (c fuel : Nat) : ∀ s, MachineKept s (feedVector c fuel s) := by
  induction fuel with
  | zero => intro s; rfl
  | succ n ih =>
    intro s
    unfold feedVector
    split
    · split
      · rfl
      · split
        · rfl
        · exact machineKept_trans (machineKept_push (machineKept_setCore (machineKept_setTh (machineKept_refl s) _ _) _ _) _) (ih _)
    · rfl

theorem machineKept_endCapture (t : Nat) (s : State) : MachineKept s (endCapture t s) := by
  unfold endCapture; split
  · rfl
  · exact machineKept_setCore (machineKept_setTh (machineKept_refl s) _ _) _ _

theorem machineKept_departTo (t : Nat) (a : Word) (l : BitVec 15) (s : State) : MachineKept s (departTo t a l s) := by
  unfold departTo
  exact machineKept_push (machineKept_trans (machineKept_setTh (machineKept_refl s) _ _) (machineKept_endCapture t _)) _

theorem machineKept_enterTrap (t : Nat) (i : TrapInfo) (async : Bool) (j : Nat) (p : Bool) (epc : Word) (s : State) :
    MachineKept s (enterTrap t i async j p epc s) := by
  have h : ∀ th, MachineKept s (endCapture t (setTh s t th)) := fun th =>
    machineKept_trans (machineKept_setTh (machineKept_refl s) _ _) (machineKept_endCapture t _)
  unfold enterTrap
  simp only [modTh_eq]
  split
  · exact h _
  · split
    · exact machineKept_trans (h _) (machineKept_departTo _ _ _ _)
    · exact h _

theorem machineKept_flow {s0 s : State} (h : MachineKept s0 s) (a : Word) (l : Option (BitVec 15)) (q : Bool) : MachineKept s0 (flow s0 a l q s) := by
  unfold flow
  simp only [modTh_eq]
  split
  · split
    · exact machineKept_enterTrap _ _ _ _ _ _ _
    · exact machineKept_trans h (machineKept_trans (machineKept_setTh (machineKept_refl s) _ _) (machineKept_departTo _ _ _ _))
  · exact machineKept_setTh h _ _

theorem machineKept_retireLive {s0 s : State} (h : MachineKept s0 s) (n : Nat) (l : Option (BitVec 15)) (q : Bool) :
    MachineKept s0 (retireLive s0 n l q s) :=
  machineKept_flow (machineKept_setTh h _ _) _ _ _

theorem machineKept_retire {s0 s : State} (h : MachineKept s0 s) (n : Nat) (q : Bool) : MachineKept s0 (retire s0 n q s) :=
  machineKept_retireLive h n (seqLive n) q

theorem machineKept_jump {s0 s : State} (h : MachineKept s0 s) (a : Word) (p : Bool) (l : Option (BitVec 15)) (q : Bool) :
    MachineKept s0 (jump s0 a p l q s) := by
  unfold jump
  dsimp only
  split
  · exact machineKept_retireLive h _ _ _
  · exact machineKept_flow (machineKept_setTh h _ _) _ _ _

theorem machineKept_park (w : Wait) (s : State) : MachineKept s (park w s) := rfl

/-! ### What a next state of a register form is -/

/-- withRegs parks the hart in the queue-register wait, or goes on in the operand state. -/
theorem withRegs_eq (srcs dst : List Reg) (s : State) (act : State → Out) :
    withRegs srcs dst s act =
      match qblock s srcs dst with
      | some (r, rd) => .next (park (.queueReg r rd) s)
      | none => act (operandState srcs s) := rfl

theorem withRegs_ready {srcs dst : List Reg} {s : State} (h : QueuesReady srcs dst s) (act : State → Out) :
    withRegs srcs dst s act = act (operandState srcs s) := by
  rw [withRegs_eq, show qblock s srcs dst = none from h]

theorem operandState_me (srcs : List Reg) (s : State) : (operandState srcs s).me = s.me := machineKept_me (machineKept_operandState srcs s)

/-- A retired instruction of a thread that does not travel, with no loop end at its next word: the pc moves past its words. -/
theorem flow_stays {s0 s : State} {a : Word} (h : leaves s s.me a = false) (l : Option (BitVec 15)) (q : Bool) :
    flow s0 a l q s = setTh s s.me { getTh s s.me with
      pc := a, seq := (getTh s s.me).seq + 1, wcount := 0, wait := if q && marks (getTh s0 s.me).wait (getTh s s.me) then .marker else .run } := by
  unfold flow; simp [h]

end Sys2Proof.Machine
end

