-- ==== Sys2Proof/Laws/PerInstr.lean ====
section
/-! SUPPORT. One lemma per instruction: the L field of its base word names exactly the words its encoding carries (R257). -/

namespace Sys2Proof.Laws

/-- The L field of a base word. -/
def LengthField.field (w : BitVec 32) : BitVec 2 := w.extractLsb' 30 2

/-- An instruction's base word names its own length; events have no words, and an illegal word names none (R257). -/
def LengthField.Statement (i : Instr) : Prop :=
  match i with
  | .illegalInstruction _ => True
  | i => i.isEvent = true ∨ lengthOf (encode i).base = (encode i).length

/-- The length in bytes that an L field names (R257). -/
def LengthField.bytes (l : BitVec 2) : Nat :=
  match l.toNat with
  | 0 => 4
  | 3 => 20
  | _ => 12

theorem lengthOf_field (w : BitVec 32) : lengthOf w = LengthField.bytes (LengthField.field w) := rfl

@[simp] theorem field_encA (l : BitVec 2) (q : Bool) (m : BitVec 6) (d a b : Reg) (fn : BitVec 11) : LengthField.field (encA l q m d a b fn) = l := by
  apply BitVec.eq_of_getLsbD_eq
  intro n hi
  have h : (encA l q m d a b fn).getLsbD (30 + n) = l.getLsbD n := by
    unfold encA
    erw [BitVec.getLsbD_append, if_neg (by omega)]
    erw [BitVec.getLsbD_append, if_neg (by omega)]
    erw [BitVec.getLsbD_append, if_neg (by omega)]
    erw [BitVec.getLsbD_append, if_neg (by omega)]
    erw [BitVec.getLsbD_append, if_neg (by omega)]
    erw [BitVec.getLsbD_append, if_neg (by omega)]
    congr 1; omega
  simp only [LengthField.field, BitVec.getLsbD_extractLsb', hi, decide_true, Bool.true_and, h]

theorem len_encA (l : BitVec 2) (q : Bool) (m : BitVec 6) (d a b : Reg) (fn : BitVec 11) : lengthOf (encA l q m d a b fn) = LengthField.bytes l := by rw [lengthOf_field, field_encA]

@[simp] theorem field_encI (l : BitVec 2) (q : Bool) (m : BitVec 6) (d a : Reg) (i : BitVec 15) : LengthField.field (encI l q m d a i) = l := by
  apply BitVec.eq_of_getLsbD_eq
  intro n hi
  have h : (encI l q m d a i).getLsbD (30 + n) = l.getLsbD n := by
    unfold encI
    erw [BitVec.getLsbD_append, if_neg (by omega)]
    erw [BitVec.getLsbD_append, if_neg (by omega)]
    erw [BitVec.getLsbD_append, if_neg (by omega)]
    erw [BitVec.getLsbD_append, if_neg (by omega)]
    erw [BitVec.getLsbD_append, if_neg (by omega)]
    congr 1; omega
  simp only [LengthField.field, BitVec.getLsbD_extractLsb', hi, decide_true, Bool.true_and, h]

theorem len_encI (l : BitVec 2) (q : Bool) (m : BitVec 6) (d a : Reg) (i : BitVec 15) : lengthOf (encI l q m d a i) = LengthField.bytes l := by rw [lengthOf_field, field_encI]

@[simp] theorem field_encM (l : BitVec 2) (q : Bool) (m : BitVec 6) (d a : Reg) (z : BitVec 3) (i : BitVec 12) : LengthField.field (encM l q m d a z i) = l := by
  apply BitVec.eq_of_getLsbD_eq
  intro n hi
  have h : (encM l q m d a z i).getLsbD (30 + n) = l.getLsbD n := by
    unfold encM
    erw [BitVec.getLsbD_append, if_neg (by omega)]
    erw [BitVec.getLsbD_append, if_neg (by omega)]
    erw [BitVec.getLsbD_append, if_neg (by omega)]
    erw [BitVec.getLsbD_append, if_neg (by omega)]
    erw [BitVec.getLsbD_append, if_neg (by omega)]
    erw [BitVec.getLsbD_append, if_neg (by omega)]
    congr 1; omega
  simp only [LengthField.field, BitVec.getLsbD_extractLsb', hi, decide_true, Bool.true_and, h]

theorem len_encM (l : BitVec 2) (q : Bool) (m : BitVec 6) (d a : Reg) (z : BitVec 3) (i : BitVec 12) : lengthOf (encM l q m d a z i) = LengthField.bytes l := by rw [lengthOf_field, field_encM]

@[simp] theorem field_encB (l : BitVec 2) (q : Bool) (m : BitVec 6) (a b : Reg) (c : BitVec 3) (i : BitVec 12) : LengthField.field (encB l q m a b c i) = l := by
  apply BitVec.eq_of_getLsbD_eq
  intro n hi
  have h : (encB l q m a b c i).getLsbD (30 + n) = l.getLsbD n := by
    unfold encB
    erw [BitVec.getLsbD_append, if_neg (by omega)]
    erw [BitVec.getLsbD_append, if_neg (by omega)]
    erw [BitVec.getLsbD_append, if_neg (by omega)]
    erw [BitVec.getLsbD_append, if_neg (by omega)]
    erw [BitVec.getLsbD_append, if_neg (by omega)]
    erw [BitVec.getLsbD_append, if_neg (by omega)]
    congr 1; omega
  simp only [LengthField.field, BitVec.getLsbD_extractLsb', hi, decide_true, Bool.true_and, h]

theorem len_encB (l : BitVec 2) (q : Bool) (m : BitVec 6) (a b : Reg) (c : BitVec 3) (i : BitVec 12) : lengthOf (encB l q m a b c i) = LengthField.bytes l := by rw [lengthOf_field, field_encB]

@[simp] theorem field_encJ (l : BitVec 2) (q : Bool) (m : BitVec 6) (j : BitVec 23) : LengthField.field (encJ l q m j) = l := by
  apply BitVec.eq_of_getLsbD_eq
  intro n hi
  have h : (encJ l q m j).getLsbD (30 + n) = l.getLsbD n := by
    unfold encJ
    erw [BitVec.getLsbD_append, if_neg (by omega)]
    erw [BitVec.getLsbD_append, if_neg (by omega)]
    erw [BitVec.getLsbD_append, if_neg (by omega)]
    congr 1; omega
  simp only [LengthField.field, BitVec.getLsbD_extractLsb', hi, decide_true, Bool.true_and, h]

theorem len_encJ (l : BitVec 2) (q : Bool) (m : BitVec 6) (j : BitVec 23) : lengthOf (encJ l q m j) = LengthField.bytes l := by rw [lengthOf_field, field_encJ]

@[simp] theorem field_encV (l : BitVec 2) (q : Bool) (m : BitVec 6) (d a b : Reg) (ty : BitVec 3) (fn : BitVec 8) : LengthField.field (encV l q m d a b ty fn) = l := by
  apply BitVec.eq_of_getLsbD_eq
  intro n hi
  have h : (encV l q m d a b ty fn).getLsbD (30 + n) = l.getLsbD n := by
    unfold encV
    erw [BitVec.getLsbD_append, if_neg (by omega)]
    erw [BitVec.getLsbD_append, if_neg (by omega)]
    erw [BitVec.getLsbD_append, if_neg (by omega)]
    erw [BitVec.getLsbD_append, if_neg (by omega)]
    erw [BitVec.getLsbD_append, if_neg (by omega)]
    erw [BitVec.getLsbD_append, if_neg (by omega)]
    erw [BitVec.getLsbD_append, if_neg (by omega)]
    congr 1; omega
  simp only [LengthField.field, BitVec.getLsbD_extractLsb', hi, decide_true, Bool.true_and, h]

theorem len_encV (l : BitVec 2) (q : Bool) (m : BitVec 6) (d a b : Reg) (ty : BitVec 3) (fn : BitVec 8) : lengthOf (encV l q m d a b ty fn) = LengthField.bytes l := by rw [lengthOf_field, field_encV]

theorem lengthField_v (r : VRow) (g : VArgs) : lengthOf (encVArgs r g).base = (encVArgs r g).length := by
  rw [lengthOf_field]
  unfold encVArgs Encoded.length
  rcases g with ⟨q, vd, va, vb, ty, u, x, e, k⟩
  cases e <;> cases k <;> simp [field_encV, LengthField.bytes, ofB]

theorem lengthField_w (q : Bool) (m : BitVec 6) (d a : Reg) (op : BitVec 3) (i : WordDisp) :
    lengthOf (encW q m d a op i).base = (encW q m d a op i).length := by
  rw [lengthOf_field]
  cases i <;> (simp only [encW, field_encM]; rfl)

theorem lengthField_l (q : Bool) (m : BitVec 6) (d a b : Reg) (fn : BitVec 11) (l : Option (BitVec 15)) :
    lengthOf (encL q m d a b fn l).base = (encL q m d a b fn l).length := by
  rw [lengthOf_field]
  cases l <;> (simp only [encL, field_encA]; rfl)

theorem lengthField_x (q : Bool) (m : BitVec 6) (d a b : Reg) (fn : BitVec 11) (x : Bool) :
    lengthOf (encA (xl x) q m d a b fn) = 4 + (if (xe x).isSome then 8 else 0) := by
  rw [lengthOf_field]
  cases x <;> (simp only [field_encA]; rfl)

theorem LengthField.coldReset : LengthField.Statement (.coldReset) := Or.inl rfl
theorem LengthField.pkstWarmReset (bmi : Bool) : LengthField.Statement (.pkstWarmReset bmi) := Or.inl rfl
theorem LengthField.pkstCaphitClear (bmi : Bool) : LengthField.Statement (.pkstCaphitClear bmi) := Or.inl rfl
theorem LengthField.bringupStageDone (ok : Bool) (mask : Word) : LengthField.Statement (.bringupStageDone ok mask) := Or.inl rfl
theorem LengthField.bmiReadPkst : LengthField.Statement (.bmiReadPkst) := Or.inl rfl
theorem LengthField.bmiWritePkst (v : Word) : LengthField.Statement (.bmiWritePkst v) := Or.inl rfl
theorem LengthField.bmiUnknownCommand (cmd : Byte) : LengthField.Statement (.bmiUnknownCommand cmd) := Or.inl rfl
theorem LengthField.frameBoundary : LengthField.Statement (.frameBoundary) := Or.inl rfl
theorem LengthField.thermalTrip (die temp : Nat) : LengthField.Statement (.thermalTrip die temp) := Or.inl rfl
theorem LengthField.thermalTripEnd (temp0 temp1 : Nat) : LengthField.Statement (.thermalTripEnd temp0 temp1) := Or.inl rfl
theorem LengthField.thermalShutdown (die temp : Nat) : LengthField.Statement (.thermalShutdown die temp) := Or.inl rfl
theorem LengthField.ptsTick (core : Nat) : LengthField.Statement (.ptsTick core) := Or.inl rfl
theorem LengthField.tdctlSwap : LengthField.Statement (.tdctlSwap) := Or.inl rfl
theorem LengthField.registerWrite (fn : HostFn) (off : Nat) (v : Word) : LengthField.Statement (.registerWrite fn off v) := Or.inl rfl
theorem LengthField.globalLinkDown (quadrant j : Nat) : LengthField.Statement (.globalLinkDown quadrant j) := Or.inl rfl
theorem LengthField.flitBadCheck (port : Nat) : LengthField.Statement (.flitBadCheck port) := Or.inl rfl
theorem LengthField.laneError (port : Nat) (lane : LaneFault) : LengthField.Statement (.laneError port lane) := Or.inl rfl
theorem LengthField.laneSelftestDone (port lane : Nat) (passed : Bool) : LengthField.Statement (.laneSelftestDone port lane passed) := Or.inl rfl
theorem LengthField.portRetrainDone (port : Nat) : LengthField.Statement (.portRetrainDone port) := Or.inl rfl
theorem LengthField.sramRowError (unit row : Nat) (corrected : Bool) : LengthField.Statement (.sramRowError unit row corrected) := Or.inl rfl
theorem LengthField.rowSelftestDone (unit row : Nat) (passed : Bool) : LengthField.Statement (.rowSelftestDone unit row passed) := Or.inl rfl
theorem LengthField.peerLinkDown (link : PeerLink) : LengthField.Statement (.peerLinkDown link) := Or.inl rfl
theorem LengthField.hostWalk (fn : HostFn) (start : Nat) (path : List Byte) : LengthField.Statement (.hostWalk fn start path) := Or.inl rfl
theorem LengthField.hostOpen (fn : HostFn) (h : Nat) (w : Word) : LengthField.Statement (.hostOpen fn h w) := Or.inl rfl
theorem LengthField.hostClose (fn : HostFn) (h : Nat) : LengthField.Statement (.hostClose fn h) := Or.inl rfl
theorem LengthField.hostBind (fn : HostFn) (path : List Byte) (word : Word) : LengthField.Statement (.hostBind fn path word) := Or.inl rfl
theorem LengthField.hostUnbind (fn : HostFn) (path : List Byte) (d : Nat) : LengthField.Statement (.hostUnbind fn path d) := Or.inl rfl
theorem LengthField.hostStat (fn : HostFn) (h : Nat) (record : Word) : LengthField.Statement (.hostStat fn h record) := Or.inl rfl
theorem LengthField.hostRevoke (fn : HostFn) (h : Nat) : LengthField.Statement (.hostRevoke fn h) := Or.inl rfl
theorem LengthField.hostDup (fn : HostFn) (h : Nat) (w : Word) : LengthField.Statement (.hostDup fn h w) := Or.inl rfl
theorem LengthField.hostCreate (fn : HostFn) (path : List Byte) (record : List Word) : LengthField.Statement (.hostCreate fn path record) := Or.inl rfl
theorem LengthField.hostRead (fn : HostFn) (addr : Word) (n : Nat) : LengthField.Statement (.hostRead fn addr n) := Or.inl rfl
theorem LengthField.hostWrite (fn : HostFn) (addr : Word) (data : List Byte) (fe : BitVec 2) : LengthField.Statement (.hostWrite fn addr data fe) := Or.inl rfl
theorem LengthField.keyCacheMiss (unit ctx : Nat) (addr : Word) : LengthField.Statement (.keyCacheMiss unit ctx addr) := Or.inl rfl
theorem LengthField.nodeCacheMiss (node : Nat) (by_ : MissBy) : LengthField.Statement (.nodeCacheMiss node by_) := Or.inl rfl
theorem LengthField.nodeMissTimeout (node : Nat) : LengthField.Statement (.nodeMissTimeout node) := Or.inl rfl
theorem LengthField.filterInstall (rid quadrant : Nat) : LengthField.Statement (.filterInstall rid quadrant) := Or.inl rfl
theorem LengthField.keyInvalidate (rid quadrant : Nat) : LengthField.Statement (.keyInvalidate rid quadrant) := Or.inl rfl
theorem LengthField.revokeAck (rid quadrant : Nat) : LengthField.Statement (.revokeAck rid quadrant) := Or.inl rfl
theorem LengthField.journalRetireReport (rid quadrant : Nat) : LengthField.Statement (.journalRetireReport rid quadrant) := Or.inl rfl
theorem LengthField.nodeDestroy (node : Nat) : LengthField.Statement (.nodeDestroy node) := Or.inl rfl
theorem LengthField.queueAppend (node off ctx pkg : Nat) (data : List Byte) : LengthField.Statement (.queueAppend node off ctx pkg data) := Or.inl rfl
theorem LengthField.ccCreate (fn : HostFn) : LengthField.Statement (.ccCreate fn) := Or.inl rfl
theorem LengthField.ccDestroy (fn : HostFn) (ctx : Nat) : LengthField.Statement (.ccDestroy fn ctx) := Or.inl rfl
theorem LengthField.ccActThrough (fn : HostFn) (ctx : Nat) : LengthField.Statement (.ccActThrough fn ctx) := Or.inl rfl
theorem LengthField.gqTailStore (queue size : Nat) (v : Word) : LengthField.Statement (.gqTailStore queue size v) := Or.inl rfl
theorem LengthField.gqTailNonresident (queue size : Nat) (v : Word) : LengthField.Statement (.gqTailNonresident queue size v) := Or.inl rfl
theorem LengthField.gqctlResume (queue : Nat) : LengthField.Statement (.gqctlResume queue) := Or.inl rfl
theorem LengthField.recordFetch (queue : Nat) : LengthField.Statement (.recordFetch queue) := Or.inl rfl
theorem LengthField.nodeRelease (queue slot : Nat) (order faulted : Bool) (origq origslot : Nat) : LengthField.Statement (.nodeRelease queue slot order faulted origq origslot) := Or.inl rfl
theorem LengthField.nodeDispatch (queue : Nat) : LengthField.Statement (.nodeDispatch queue) := Or.inl rfl
theorem LengthField.nodeWaitTimeout (queue slot : Nat) : LengthField.Statement (.nodeWaitTimeout queue slot) := Or.inl rfl
theorem LengthField.gateTimeout (queue slot : Nat) : LengthField.Statement (.gateTimeout queue slot) := Or.inl rfl
theorem LengthField.formatWindowInstall (queue slot window : Nat) (image : List Word) : LengthField.Statement (.formatWindowInstall queue slot window image) := Or.inl rfl
theorem LengthField.bindSetRun (queue slot : Nat) : LengthField.Statement (.bindSetRun queue slot) := Or.inl rfl
theorem LengthField.nodeComplete (queue slot : Nat) (out : NodeEnd) : LengthField.Statement (.nodeComplete queue slot out) := Or.inl rfl
theorem LengthField.qgangMap (gang tumbler first : Nat) : LengthField.Statement (.qgangMap gang tumbler first) := Or.inl rfl
theorem LengthField.qgangUnmap (gang : Nat) : LengthField.Statement (.qgangUnmap gang) := Or.inl rfl
theorem LengthField.vfDisable : LengthField.Statement (.vfDisable) := Or.inl rfl
theorem LengthField.vfDisableAtT : LengthField.Statement (.vfDisableAtT) := Or.inl rfl
theorem LengthField.vfEnable : LengthField.Statement (.vfEnable) := Or.inl rfl
theorem LengthField.fwCoreWake (core : FwWake) : LengthField.Statement (.fwCoreWake core) := Or.inl rfl
theorem LengthField.hmbFill : LengthField.Statement (.hmbFill) := Or.inl rfl
theorem LengthField.hmbMap : LengthField.Statement (.hmbMap) := Or.inl rfl
theorem LengthField.hmbSpdm : LengthField.Statement (.hmbSpdm) := Or.inl rfl
theorem LengthField.spdmGetVersion (req : List Byte) : LengthField.Statement (.spdmGetVersion req) := Or.inl rfl
theorem LengthField.spdmGetCapabilities (req : List Byte) : LengthField.Statement (.spdmGetCapabilities req) := Or.inl rfl
theorem LengthField.spdmNegotiateAlgorithms (req : List Byte) : LengthField.Statement (.spdmNegotiateAlgorithms req) := Or.inl rfl
theorem LengthField.spdmGetDigests (req : List Byte) : LengthField.Statement (.spdmGetDigests req) := Or.inl rfl
theorem LengthField.spdmGetCertificate (req : List Byte) : LengthField.Statement (.spdmGetCertificate req) := Or.inl rfl
theorem LengthField.spdmChallenge (req : List Byte) : LengthField.Statement (.spdmChallenge req) := Or.inl rfl
theorem LengthField.spdmGetMeasurements (req : List Byte) : LengthField.Statement (.spdmGetMeasurements req) := Or.inl rfl
theorem LengthField.spdmUnsupported (req : List Byte) : LengthField.Statement (.spdmUnsupported req) := Or.inl rfl
theorem LengthField.hmbImgw : LengthField.Statement (.hmbImgw) := Or.inl rfl
theorem LengthField.hmbPartrec : LengthField.Statement (.hmbPartrec) := Or.inl rfl
theorem LengthField.hmbNodereq : LengthField.Statement (.hmbNodereq) := Or.inl rfl
theorem LengthField.hmbDefrag : LengthField.Statement (.hmbDefrag) := Or.inl rfl
theorem LengthField.hmbBadType : LengthField.Statement (.hmbBadType) := Or.inl rfl
theorem LengthField.pwrcapWrite (fn : HostFn) (v : Word) : LengthField.Statement (.pwrcapWrite fn v) := Or.inl rfl
theorem LengthField.updstGo (fn : HostFn) : LengthField.Statement (.updstGo fn) := Or.inl rfl
theorem LengthField.updateHeartbeat : LengthField.Statement (.updateHeartbeat) := Or.inl rfl
theorem LengthField.heartbeatTimeout : LengthField.Statement (.heartbeatTimeout) := Or.inl rfl
theorem LengthField.launchDispatch (queue slot : Nat) : LengthField.Statement (.launchDispatch queue slot) := Or.inl rfl
theorem LengthField.slotFree (core slot : Nat) : LengthField.Statement (.slotFree core slot) := Or.inl rfl
theorem LengthField.slotReservationRequest (ask : SlotAsk) : LengthField.Statement (.slotReservationRequest ask) := Or.inl rfl
theorem LengthField.slotReservationReply (ask : SlotAsk) (slot : Option Nat) : LengthField.Statement (.slotReservationReply ask slot) := Or.inl rfl
theorem LengthField.parcelArrival (p : Parcel) : LengthField.Statement (.parcelArrival p) := Or.inl rfl
theorem LengthField.waitRetryPoll (t : Nat) : LengthField.Statement (.waitRetryPoll t) := Or.inl rfl
theorem LengthField.watchdogExpiry (t : Nat) : LengthField.Statement (.watchdogExpiry t) := Or.inl rfl
theorem LengthField.reservationHoldExpiry (t : Nat) : LengthField.Statement (.reservationHoldExpiry t) := Or.inl rfl
theorem LengthField.latchWaitTimeout (t : Nat) : LengthField.Statement (.latchWaitTimeout t) := Or.inl rfl
theorem LengthField.lateResultReturn (t : Nat) (answer : Option RemoteAnswer) : LengthField.Statement (.lateResultReturn t answer) := Or.inl rfl
theorem LengthField.gangArm (part : Nat) : LengthField.Statement (.gangArm part) := Or.inl rfl
theorem LengthField.gangStop (part : Nat) : LengthField.Statement (.gangStop part) := Or.inl rfl
theorem LengthField.gangRestore (part : Nat) : LengthField.Statement (.gangRestore part) := Or.inl rfl
theorem LengthField.sliceEnd (part : Nat) : LengthField.Statement (.sliceEnd part) := Or.inl rfl
theorem LengthField.defragmentation (part slice target : Nat) : LengthField.Statement (.defragmentation part slice target) := Or.inl rfl
theorem LengthField.travelDeparture (t : Nat) : LengthField.Statement (.travelDeparture t) := Or.inl rfl
theorem LengthField.travelArrival (p : Parcel) : LengthField.Statement (.travelArrival p) := Or.inl rfl
theorem LengthField.putSegmentLand (p : Packet) (dst : Word) (off : Nat) (data : List Byte) : LengthField.Statement (.putSegmentLand p dst off data) := Or.inl rfl
theorem LengthField.putSegmentAck (p : Packet) (bytes : Nat) (refused : Option Refused) : LengthField.Statement (.putSegmentAck p bytes refused) := Or.inl rfl
theorem LengthField.putCounterAction (core : Nat) (entry : JRef) : LengthField.Statement (.putCounterAction core entry) := Or.inl rfl
theorem LengthField.postedAck (core : Nat) (entry : JRef) (refused : Option Refused) : LengthField.Statement (.postedAck core entry refused) := Or.inl rfl
theorem LengthField.chunkArrival (node station input : Nat) (c : Chunk) : LengthField.Statement (.chunkArrival node station input c) := Or.inl rfl
theorem LengthField.markerArrival (node station input : Nat) (c : Chunk) : LengthField.Statement (.markerArrival node station input c) := Or.inl rfl
theorem LengthField.streamInputTimeout (node station input : Nat) : LengthField.Statement (.streamInputTimeout node station input) := Or.inl rfl
theorem LengthField.inputDeadDeclare (node member : Nat) : LengthField.Statement (.inputDeadDeclare node member) := Or.inl rfl
theorem LengthField.lccReport (node member : Nat) : LengthField.Statement (.lccReport node member) := Or.inl rfl
theorem LengthField.chunkLanding (node member : Nat) (c : Chunk) : LengthField.Statement (.chunkLanding node member c) := Or.inl rfl
theorem LengthField.frameClaim (node frame : Nat) : LengthField.Statement (.frameClaim node frame) := Or.inl rfl
theorem LengthField.mediaPacketArrival (port : Nat) (p : MediaPacket) : LengthField.Statement (.mediaPacketArrival port p) := Or.inl rfl
theorem LengthField.frameDeadline (node frame : Nat) : LengthField.Statement (.frameDeadline node frame) := Or.inl rfl
theorem LengthField.ptpMessage (from_ : PtpFrom) (offset trim : Word) (locked : Bool) : LengthField.Statement (.ptpMessage from_ offset trim locked) := Or.inl rfl
theorem LengthField.mediaEnable (node : Nat) (v : Word) : LengthField.Statement (.mediaEnable node v) := Or.inl rfl
theorem LengthField.homeLoad (core line : Nat) (renew : Bool) : LengthField.Statement (.homeLoad core line renew) := Or.inl rfl
theorem LengthField.homeStore (core line : Nat) : LengthField.Statement (.homeStore core line) := Or.inl rfl
theorem LengthField.llcEviction (line : Nat) : LengthField.Statement (.llcEviction line) := Or.inl rfl
theorem LengthField.llcFillReturn (line : Nat) : LengthField.Statement (.llcFillReturn line) := Or.inl rfl
theorem LengthField.reservationForward (key : Nat) : LengthField.Statement (.reservationForward key) := Or.inl rfl
theorem LengthField.mapEntryInstall (t table entry : Nat) (v : Word) : LengthField.Statement (.mapEntryInstall t table entry v) := Or.inl rfl
theorem LengthField.mapEntryRemove (t table entry : Nat) (v : Word) : LengthField.Statement (.mapEntryRemove t table entry v) := Or.inl rfl
theorem LengthField.mmEngineRun (cluster : Nat) : LengthField.Statement (.mmEngineRun cluster) := Or.inl rfl
theorem LengthField.vectorCommandExec (core : Nat) : LengthField.Statement (.vectorCommandExec core) := Or.inl rfl
theorem LengthField.vectorCommandRetire (core : Nat) : LengthField.Statement (.vectorCommandRetire core) := Or.inl rfl
theorem LengthField.repSequenceStart (core : Nat) : LengthField.Statement (.repSequenceStart core) := Or.inl rfl
theorem LengthField.engineKick (hart node ctx : Nat) (words : List Word) : LengthField.Statement (.engineKick hart node ctx words) := Or.inl rfl
theorem LengthField.engineHartStart (hart : Nat) : LengthField.Statement (.engineHartStart hart) := Or.inl rfl
theorem LengthField.debugResume (fn : HostFn) (ctx : Nat) : LengthField.Statement (.debugResume fn ctx) := Or.inl rfl
theorem LengthField.yieldExpiry (t : Nat) : LengthField.Statement (.yieldExpiry t) := Or.inl rfl
theorem LengthField.wfiTimeout (t : Nat) : LengthField.Statement (.wfiTimeout t) := Or.inl rfl
theorem LengthField.barrierWaitTimeout (t : Nat) : LengthField.Statement (.barrierWaitTimeout t) := Or.inl rfl
theorem LengthField.add (q : Bool) (d a b : Reg) (x : Bool) : LengthField.Statement (.add q d a b x) := Or.inr (lengthField_x _ _ _ _ _ _ _)
theorem LengthField.addSat (q : Bool) (d a b : Reg) : LengthField.Statement (.addSat q d a b) := Or.inr (len_encA _ _ _ _ _ _ _)
theorem LengthField.sub (q : Bool) (d a b : Reg) (x : Bool) : LengthField.Statement (.sub q d a b x) := Or.inr (lengthField_x _ _ _ _ _ _ _)
theorem LengthField.subSat (q : Bool) (d a b : Reg) : LengthField.Statement (.subSat q d a b) := Or.inr (len_encA _ _ _ _ _ _ _)
theorem LengthField.addn (q : Bool) (d a b : Reg) (x : Bool) : LengthField.Statement (.addn q d a b x) := Or.inr (lengthField_x _ _ _ _ _ _ _)
theorem LengthField.addnSat (q : Bool) (d a b : Reg) : LengthField.Statement (.addnSat q d a b) := Or.inr (len_encA _ _ _ _ _ _ _)
theorem LengthField.subn (q : Bool) (d a b : Reg) (x : Bool) : LengthField.Statement (.subn q d a b x) := Or.inr (lengthField_x _ _ _ _ _ _ _)
theorem LengthField.subnSat (q : Bool) (d a b : Reg) : LengthField.Statement (.subnSat q d a b) := Or.inr (len_encA _ _ _ _ _ _ _)
theorem LengthField.and (q : Bool) (d a b : Reg) : LengthField.Statement (.and q d a b) := Or.inr (len_encA _ _ _ _ _ _ _)
theorem LengthField.or (q : Bool) (d a b : Reg) : LengthField.Statement (.or q d a b) := Or.inr (len_encA _ _ _ _ _ _ _)
theorem LengthField.xor (q : Bool) (d a b : Reg) : LengthField.Statement (.xor q d a b) := Or.inr (len_encA _ _ _ _ _ _ _)
theorem LengthField.andn (q : Bool) (d a b : Reg) : LengthField.Statement (.andn q d a b) := Or.inr (len_encA _ _ _ _ _ _ _)
theorem LengthField.orn (q : Bool) (d a b : Reg) : LengthField.Statement (.orn q d a b) := Or.inr (len_encA _ _ _ _ _ _ _)
theorem LengthField.xnor (q : Bool) (d a b : Reg) : LengthField.Statement (.xnor q d a b) := Or.inr (len_encA _ _ _ _ _ _ _)
theorem LengthField.sll (q : Bool) (d a b : Reg) : LengthField.Statement (.sll q d a b) := Or.inr (len_encA _ _ _ _ _ _ _)
theorem LengthField.srl (q : Bool) (d a b : Reg) : LengthField.Statement (.srl q d a b) := Or.inr (len_encA _ _ _ _ _ _ _)
theorem LengthField.sra (q : Bool) (d a b : Reg) : LengthField.Statement (.sra q d a b) := Or.inr (len_encA _ _ _ _ _ _ _)
theorem LengthField.rol (q : Bool) (d a b : Reg) : LengthField.Statement (.rol q d a b) := Or.inr (len_encA _ _ _ _ _ _ _)
theorem LengthField.ror (q : Bool) (d a b : Reg) : LengthField.Statement (.ror q d a b) := Or.inr (len_encA _ _ _ _ _ _ _)
theorem LengthField.ahdl (q : Bool) (d a : Reg) : LengthField.Statement (.ahdl q d a) := Or.inr (len_encA _ _ _ _ _ _ _)
theorem LengthField.aoff (q : Bool) (d a : Reg) : LengthField.Statement (.aoff q d a) := Or.inr (len_encA _ _ _ _ _ _ _)
theorem LengthField.amake (q : Bool) (d a b : Reg) : LengthField.Statement (.amake q d a b) := Or.inr (len_encA _ _ _ _ _ _ _)
theorem LengthField.aadd (q : Bool) (d a b : Reg) : LengthField.Statement (.aadd q d a b) := Or.inr (len_encA _ _ _ _ _ _ _)
theorem LengthField.adiff (q : Bool) (d a b : Reg) : LengthField.Statement (.adiff q d a b) := Or.inr (len_encA _ _ _ _ _ _ _)
theorem LengthField.addi (q : Bool) (d a : Reg) (i : BitVec 15) (x : Bool) : LengthField.Statement (.addi q d a i x) := by cases x <;> exact Or.inr (len_encI _ _ _ _ _ _)
theorem LengthField.addiSat (q : Bool) (d a : Reg) (i : BitVec 15) : LengthField.Statement (.addiSat q d a i) := Or.inr (len_encI _ _ _ _ _ _)
theorem LengthField.addiK (q : Bool) (d a : Reg) (k : Word) (x : Bool) : LengthField.Statement (.addiK q d a k x) := by cases x <;> exact Or.inr (len_encI _ _ _ _ _ _)
theorem LengthField.addiSatK (q : Bool) (d a : Reg) (k : Word) : LengthField.Statement (.addiSatK q d a k) := Or.inr (len_encI _ _ _ _ _ _)
theorem LengthField.andi (q : Bool) (d a : Reg) (i : BitVec 15) : LengthField.Statement (.andi q d a i) := Or.inr (len_encI _ _ _ _ _ _)
theorem LengthField.andiK (q : Bool) (d a : Reg) (k : Word) : LengthField.Statement (.andiK q d a k) := Or.inr (len_encI _ _ _ _ _ _)
theorem LengthField.ori (q : Bool) (d a : Reg) (i : BitVec 15) : LengthField.Statement (.ori q d a i) := Or.inr (len_encI _ _ _ _ _ _)
theorem LengthField.oriK (q : Bool) (d a : Reg) (k : Word) : LengthField.Statement (.oriK q d a k) := Or.inr (len_encI _ _ _ _ _ _)
theorem LengthField.xori (q : Bool) (d a : Reg) (i : BitVec 15) : LengthField.Statement (.xori q d a i) := Or.inr (len_encI _ _ _ _ _ _)
theorem LengthField.xoriK (q : Bool) (d a : Reg) (k : Word) : LengthField.Statement (.xoriK q d a k) := Or.inr (len_encI _ _ _ _ _ _)
theorem LengthField.slli (q : Bool) (d a : Reg) (h : BitVec 6) : LengthField.Statement (.slli q d a h) := Or.inr (len_encI _ _ _ _ _ _)
theorem LengthField.srli (q : Bool) (d a : Reg) (h : BitVec 6) : LengthField.Statement (.srli q d a h) := Or.inr (len_encI _ _ _ _ _ _)
theorem LengthField.srai (q : Bool) (d a : Reg) (h : BitVec 6) : LengthField.Statement (.srai q d a h) := Or.inr (len_encI _ _ _ _ _ _)
theorem LengthField.rori (q : Bool) (d a : Reg) (h : BitVec 6) : LengthField.Statement (.rori q d a h) := Or.inr (len_encI _ _ _ _ _ _)
theorem LengthField.li (q : Bool) (d : Reg) (i : BitVec 15) : LengthField.Statement (.li q d i) := Or.inr (len_encI _ _ _ _ _ _)
theorem LengthField.liK (q : Bool) (d : Reg) (k : Word) : LengthField.Statement (.liK q d k) := Or.inr (len_encI _ _ _ _ _ _)
theorem LengthField.cmpi (q : Bool) (d a : Reg) (i : BitVec 15) : LengthField.Statement (.cmpi q d a i) := Or.inr (len_encI _ _ _ _ _ _)
theorem LengthField.cmpiK (q : Bool) (d a : Reg) (k : Word) : LengthField.Statement (.cmpiK q d a k) := Or.inr (len_encI _ _ _ _ _ _)
theorem LengthField.mul (q : Bool) (d a b : Reg) (x : Bool) : LengthField.Statement (.mul q d a b x) := Or.inr (lengthField_x _ _ _ _ _ _ _)
theorem LengthField.mulSat (q : Bool) (d a b : Reg) : LengthField.Statement (.mulSat q d a b) := Or.inr (len_encA _ _ _ _ _ _ _)
theorem LengthField.muln (q : Bool) (d a b : Reg) (x : Bool) : LengthField.Statement (.muln q d a b x) := Or.inr (lengthField_x _ _ _ _ _ _ _)
theorem LengthField.mulnSat (q : Bool) (d a b : Reg) : LengthField.Statement (.mulnSat q d a b) := Or.inr (len_encA _ _ _ _ _ _ _)
theorem LengthField.mulh (q : Bool) (d a b : Reg) : LengthField.Statement (.mulh q d a b) := Or.inr (len_encA _ _ _ _ _ _ _)
theorem LengthField.mulhn (q : Bool) (d a b : Reg) : LengthField.Statement (.mulhn q d a b) := Or.inr (len_encA _ _ _ _ _ _ _)
theorem LengthField.div (q : Bool) (d a b : Reg) : LengthField.Statement (.div q d a b) := Or.inr (len_encA _ _ _ _ _ _ _)
theorem LengthField.divn (q : Bool) (d a b : Reg) : LengthField.Statement (.divn q d a b) := Or.inr (len_encA _ _ _ _ _ _ _)
theorem LengthField.rem (q : Bool) (d a b : Reg) : LengthField.Statement (.rem q d a b) := Or.inr (len_encA _ _ _ _ _ _ _)
theorem LengthField.remn (q : Bool) (d a b : Reg) : LengthField.Statement (.remn q d a b) := Or.inr (len_encA _ _ _ _ _ _ _)
theorem LengthField.bext (q : Bool) (d a b : Reg) : LengthField.Statement (.bext q d a b) := Or.inr (len_encA _ _ _ _ _ _ _)
theorem LengthField.bextn (q : Bool) (d a b : Reg) : LengthField.Statement (.bextn q d a b) := Or.inr (len_encA _ _ _ _ _ _ _)
theorem LengthField.bins (q : Bool) (d a b : Reg) : LengthField.Statement (.bins q d a b) := Or.inr (len_encA _ _ _ _ _ _ _)
theorem LengthField.clz (q : Bool) (d a : Reg) : LengthField.Statement (.clz q d a) := Or.inr (len_encA _ _ _ _ _ _ _)
theorem LengthField.ctz (q : Bool) (d a : Reg) : LengthField.Statement (.ctz q d a) := Or.inr (len_encA _ _ _ _ _ _ _)
theorem LengthField.popc (q : Bool) (d a : Reg) : LengthField.Statement (.popc q d a) := Or.inr (len_encA _ _ _ _ _ _ _)
theorem LengthField.brev (q : Bool) (d a : Reg) : LengthField.Statement (.brev q d a) := Or.inr (len_encA _ _ _ _ _ _ _)
theorem LengthField.bswap (q : Bool) (d a : Reg) : LengthField.Statement (.bswap q d a) := Or.inr (len_encA _ _ _ _ _ _ _)
theorem LengthField.seq (q : Bool) (d a b : Reg) : LengthField.Statement (.seq q d a b) := Or.inr (len_encA _ _ _ _ _ _ _)
theorem LengthField.sne (q : Bool) (d a b : Reg) : LengthField.Statement (.sne q d a b) := Or.inr (len_encA _ _ _ _ _ _ _)
theorem LengthField.slt (q : Bool) (d a b : Reg) : LengthField.Statement (.slt q d a b) := Or.inr (len_encA _ _ _ _ _ _ _)
theorem LengthField.sltn (q : Bool) (d a b : Reg) : LengthField.Statement (.sltn q d a b) := Or.inr (len_encA _ _ _ _ _ _ _)
theorem LengthField.cmp (q : Bool) (d a b : Reg) : LengthField.Statement (.cmp q d a b) := Or.inr (len_encA _ _ _ _ _ _ _)
theorem LengthField.sel (q : Bool) (d a b : Reg) : LengthField.Statement (.sel q d a b) := Or.inr (len_encA _ _ _ _ _ _ _)
theorem LengthField.min (q : Bool) (d a b : Reg) : LengthField.Statement (.min q d a b) := Or.inr (len_encA _ _ _ _ _ _ _)
theorem LengthField.max (q : Bool) (d a b : Reg) : LengthField.Statement (.max q d a b) := Or.inr (len_encA _ _ _ _ _ _ _)
theorem LengthField.minn (q : Bool) (d a b : Reg) : LengthField.Statement (.minn q d a b) := Or.inr (len_encA _ _ _ _ _ _ _)
theorem LengthField.maxn (q : Bool) (d a b : Reg) : LengthField.Statement (.maxn q d a b) := Or.inr (len_encA _ _ _ _ _ _ _)
theorem LengthField.ld (q : Bool) (d a : Reg) (z : LoadSize) (i : BitVec 12) : LengthField.Statement (.ld q d a z i) := Or.inr (len_encM _ _ _ _ _ _ _)
theorem LengthField.ldX (q : Bool) (d a : Reg) (z : LoadSize) (disp : BitVec 32) : LengthField.Statement (.ldX q d a z disp) := Or.inr (len_encM _ _ _ _ _ _ _)
theorem LengthField.st (q : Bool) (s a : Reg) (z : StoreSize) (i : BitVec 12) : LengthField.Statement (.st q s a z i) := Or.inr (len_encM _ _ _ _ _ _ _)
theorem LengthField.stX (q : Bool) (s a : Reg) (z : StoreSize) (disp : BitVec 32) : LengthField.Statement (.stX q s a z disp) := Or.inr (len_encM _ _ _ _ _ _ _)
theorem LengthField.ldTake (q : Bool) (d a : Reg) (i : WordDisp) : LengthField.Statement (.ldTake q d a i) := Or.inr (lengthField_w _ _ _ _ _ _)
theorem LengthField.ldPeek (q : Bool) (d a : Reg) (i : WordDisp) : LengthField.Statement (.ldPeek q d a i) := Or.inr (lengthField_w _ _ _ _ _ _)
theorem LengthField.stGive (q : Bool) (s a : Reg) (i : WordDisp) : LengthField.Statement (.stGive q s a i) := Or.inr (lengthField_w _ _ _ _ _ _)
theorem LengthField.stFill (q : Bool) (s a : Reg) (i : WordDisp) : LengthField.Statement (.stFill q s a i) := Or.inr (lengthField_w _ _ _ _ _ _)
theorem LengthField.feRd (q : Bool) (d a : Reg) (i : WordDisp) : LengthField.Statement (.feRd q d a i) := Or.inr (lengthField_w _ _ _ _ _ _)
theorem LengthField.feClr (q : Bool) (a : Reg) (i : WordDisp) : LengthField.Statement (.feClr q a i) := Or.inr (lengthField_w _ _ _ _ _ _)
theorem LengthField.amoAdd (q : Bool) (d a b : Reg) (w : Bool) : LengthField.Statement (.amoAdd q d a b w) := Or.inr (len_encA _ _ _ _ _ _ _)
theorem LengthField.amoAnd (q : Bool) (d a b : Reg) (w : Bool) : LengthField.Statement (.amoAnd q d a b w) := Or.inr (len_encA _ _ _ _ _ _ _)
theorem LengthField.amoOr (q : Bool) (d a b : Reg) (w : Bool) : LengthField.Statement (.amoOr q d a b w) := Or.inr (len_encA _ _ _ _ _ _ _)
theorem LengthField.amoXor (q : Bool) (d a b : Reg) (w : Bool) : LengthField.Statement (.amoXor q d a b w) := Or.inr (len_encA _ _ _ _ _ _ _)
theorem LengthField.amoMin (q : Bool) (d a b : Reg) (w : Bool) : LengthField.Statement (.amoMin q d a b w) := Or.inr (len_encA _ _ _ _ _ _ _)
theorem LengthField.amoMax (q : Bool) (d a b : Reg) (w : Bool) : LengthField.Statement (.amoMax q d a b w) := Or.inr (len_encA _ _ _ _ _ _ _)
theorem LengthField.amoMinn (q : Bool) (d a b : Reg) (w : Bool) : LengthField.Statement (.amoMinn q d a b w) := Or.inr (len_encA _ _ _ _ _ _ _)
theorem LengthField.amoMaxn (q : Bool) (d a b : Reg) (w : Bool) : LengthField.Statement (.amoMaxn q d a b w) := Or.inr (len_encA _ _ _ _ _ _ _)
theorem LengthField.amoSwap (q : Bool) (d a b : Reg) (w : Bool) : LengthField.Statement (.amoSwap q d a b w) := Or.inr (len_encA _ _ _ _ _ _ _)
theorem LengthField.amoCas (q : Bool) (d a b : Reg) (w : Bool) : LengthField.Statement (.amoCas q d a b w) := Or.inr (len_encA _ _ _ _ _ _ _)
theorem LengthField.rsv (q : Bool) (d a : Reg) (i : WordDisp) : LengthField.Statement (.rsv q d a i) := Or.inr (lengthField_w _ _ _ _ _ _)
theorem LengthField.rls (q : Bool) (s a : Reg) (i : WordDisp) : LengthField.Statement (.rls q s a i) := Or.inr (lengthField_w _ _ _ _ _ _)
theorem LengthField.rlsN (q : Bool) (a : Reg) (i : WordDisp) : LengthField.Statement (.rlsN q a i) := Or.inr (lengthField_w _ _ _ _ _ _)
theorem LengthField.putAdd (q : Bool) (d a b : Reg) : LengthField.Statement (.putAdd q d a b) := Or.inr (len_encA _ _ _ _ _ _ _)
theorem LengthField.putSet (q : Bool) (d a b : Reg) : LengthField.Statement (.putSet q d a b) := Or.inr (len_encA _ _ _ _ _ _ _)
theorem LengthField.putFill (q : Bool) (d a b : Reg) : LengthField.Statement (.putFill q d a b) := Or.inr (len_encA _ _ _ _ _ _ _)
theorem LengthField.putNc (q : Bool) (a b : Reg) : LengthField.Statement (.putNc q a b) := Or.inr (len_encA _ _ _ _ _ _ _)
theorem LengthField.pst (q : Bool) (s a : Reg) (z : StoreSize) (i : BitVec 12) : LengthField.Statement (.pst q s a z i) := Or.inr (len_encM _ _ _ _ _ _ _)
theorem LengthField.pstX (q : Bool) (s a : Reg) (z : StoreSize) (disp : BitVec 32) : LengthField.Statement (.pstX q s a z disp) := Or.inr (len_encM _ _ _ _ _ _ _)
theorem LengthField.fencePut (q : Bool) : LengthField.Statement (.fencePut q) := Or.inr (len_encA _ _ _ _ _ _ _)
theorem LengthField.fencePost (q : Bool) : LengthField.Statement (.fencePost q) := Or.inr (len_encA _ _ _ _ _ _ _)
theorem LengthField.fenceAll (q : Bool) : LengthField.Statement (.fenceAll q) := Or.inr (len_encA _ _ _ _ _ _ _)
theorem LengthField.cpf (q : Bool) (a : Reg) : LengthField.Statement (.cpf q a) := Or.inr (len_encA _ _ _ _ _ _ _)
theorem LengthField.cwb (q : Bool) (a : Reg) : LengthField.Statement (.cwb q a) := Or.inr (len_encA _ _ _ _ _ _ _)
theorem LengthField.cfl (q : Bool) (a : Reg) : LengthField.Statement (.cfl q a) := Or.inr (len_encA _ _ _ _ _ _ _)
theorem LengthField.barInit (q : Bool) (a b : Reg) : LengthField.Statement (.barInit q a b) := Or.inr (len_encA _ _ _ _ _ _ _)
theorem LengthField.barArr (q : Bool) (d a b : Reg) : LengthField.Statement (.barArr q d a b) := Or.inr (len_encA _ _ _ _ _ _ _)
theorem LengthField.barArrf (q : Bool) (d a b : Reg) : LengthField.Statement (.barArrf q d a b) := Or.inr (len_encA _ _ _ _ _ _ _)
theorem LengthField.barWait (q : Bool) (d a b : Reg) : LengthField.Statement (.barWait q d a b) := Or.inr (len_encA _ _ _ _ _ _ _)
theorem LengthField.latArm (q : Bool) (d a : Reg) (i : BitVec 2) : LengthField.Statement (.latArm q d a i) := Or.inr (len_encA _ _ _ _ _ _ _)
theorem LengthField.latWait (q : Bool) (d b : Reg) : LengthField.Statement (.latWait q d b) := Or.inr (len_encA _ _ _ _ _ _ _)
theorem LengthField.latClr (q : Bool) (i : BitVec 2) : LengthField.Statement (.latClr q i) := Or.inr (len_encA _ _ _ _ _ _ _)
theorem LengthField.bcopy (q : Bool) (d a b : Reg) : LengthField.Statement (.bcopy q d a b) := Or.inr (len_encA _ _ _ _ _ _ _)
theorem LengthField.bEq (q : Bool) (a b : Reg) (i : BitVec 12) : LengthField.Statement (.bEq q a b i) := Or.inr (len_encB _ _ _ _ _ _ _)
theorem LengthField.bNe (q : Bool) (a b : Reg) (i : BitVec 12) : LengthField.Statement (.bNe q a b i) := Or.inr (len_encB _ _ _ _ _ _ _)
theorem LengthField.bLt (q : Bool) (a b : Reg) (i : BitVec 12) : LengthField.Statement (.bLt q a b i) := Or.inr (len_encB _ _ _ _ _ _ _)
theorem LengthField.bGe (q : Bool) (a b : Reg) (i : BitVec 12) : LengthField.Statement (.bGe q a b i) := Or.inr (len_encB _ _ _ _ _ _ _)
theorem LengthField.bLtn (q : Bool) (a b : Reg) (i : BitVec 12) : LengthField.Statement (.bLtn q a b i) := Or.inr (len_encB _ _ _ _ _ _ _)
theorem LengthField.bGen (q : Bool) (a b : Reg) (i : BitVec 12) : LengthField.Statement (.bGen q a b i) := Or.inr (len_encB _ _ _ _ _ _ _)
theorem LengthField.bBs (q : Bool) (a b : Reg) (i : BitVec 12) : LengthField.Statement (.bBs q a b i) := Or.inr (len_encB _ _ _ _ _ _ _)
theorem LengthField.bBc (q : Bool) (a b : Reg) (i : BitVec 12) : LengthField.Statement (.bBc q a b i) := Or.inr (len_encB _ _ _ _ _ _ _)
theorem LengthField.bCondX (q : Bool) (a b : Reg) (c : BrCond) (disp : BitVec 32) (live : BitVec 15) : LengthField.Statement (.bCondX q a b c disp live) := Or.inr (len_encB _ _ _ _ _ _ _)
theorem LengthField.j (q : Bool) (j : BitVec 23) : LengthField.Statement (.j q j) := Or.inr (len_encJ _ _ _ _)
theorem LengthField.jX (q : Bool) (disp : BitVec 32) (live : BitVec 15) : LengthField.Statement (.jX q disp live) := Or.inr (len_encJ _ _ _ _)
theorem LengthField.jr (q : Bool) (a : Reg) (live : Option (BitVec 15)) : LengthField.Statement (.jr q a live) := Or.inr (lengthField_l _ _ _ _ _ _ _)
theorem LengthField.callr (q : Bool) (a : Reg) (live : Option (BitVec 15)) : LengthField.Statement (.callr q a live) := Or.inr (lengthField_l _ _ _ _ _ _ _)
theorem LengthField.call (q : Bool) (disp : BitVec 32) (live : BitVec 15) : LengthField.Statement (.call q disp live) := Or.inr (len_encA _ _ _ _ _ _ _)
theorem LengthField.ret (q : Bool) (live : Option (BitVec 15)) : LengthField.Statement (.ret q live) := Or.inr (lengthField_l _ _ _ _ _ _ _)
theorem LengthField.lp (q : Bool) (a : Reg) (i : BitVec 15) : LengthField.Statement (.lp q a i) := Or.inr (len_encI _ _ _ _ _ _)
theorem LengthField.spawn (q : Bool) (d a b : Reg) : LengthField.Statement (.spawn q d a b) := Or.inr (len_encA _ _ _ _ _ _ _)
theorem LengthField.spawnc (q : Bool) (d a b : Reg) (live : Option (BitVec 15)) : LengthField.Statement (.spawnc q d a b live) := Or.inr (lengthField_l _ _ _ _ _ _ _)
theorem LengthField.fork (q : Bool) (d a : Reg) (live : Option (BitVec 15)) : LengthField.Statement (.fork q d a live) := Or.inr (lengthField_l _ _ _ _ _ _ _)
theorem LengthField.unfork (q : Bool) (a : Reg) (live : Option (BitVec 15)) : LengthField.Statement (.unfork q a live) := Or.inr (lengthField_l _ _ _ _ _ _ _)
theorem LengthField.join (q : Bool) (a : Reg) : LengthField.Statement (.join q a) := Or.inr (len_encA _ _ _ _ _ _ _)
theorem LengthField.exit (q : Bool) : LengthField.Statement (.exit q) := Or.inr (len_encA _ _ _ _ _ _ _)
theorem LengthField.go (q : Bool) (d b : Reg) : LengthField.Statement (.go q d b) := Or.inr (len_encA _ _ _ _ _ _ _)
theorem LengthField.yield (q : Bool) (b : Reg) : LengthField.Statement (.yield q b) := Or.inr (len_encA _ _ _ _ _ _ _)
theorem LengthField.tid (q : Bool) (d : Reg) : LengthField.Statement (.tid q d) := Or.inr (len_encA _ _ _ _ _ _ _)
theorem LengthField.nwalk (q : Bool) (d a b : Reg) : LengthField.Statement (.nwalk q d a b) := Or.inr (len_encA _ _ _ _ _ _ _)
theorem LengthField.nopen (q : Bool) (d a b : Reg) : LengthField.Statement (.nopen q d a b) := Or.inr (len_encA _ _ _ _ _ _ _)
theorem LengthField.nclose (q : Bool) (d a : Reg) : LengthField.Statement (.nclose q d a) := Or.inr (len_encA _ _ _ _ _ _ _)
theorem LengthField.nbind (q : Bool) (d a b : Reg) : LengthField.Statement (.nbind q d a b) := Or.inr (len_encA _ _ _ _ _ _ _)
theorem LengthField.nunbind (q : Bool) (d a b : Reg) : LengthField.Statement (.nunbind q d a b) := Or.inr (len_encA _ _ _ _ _ _ _)
theorem LengthField.nstat (q : Bool) (d a b : Reg) : LengthField.Statement (.nstat q d a b) := Or.inr (len_encA _ _ _ _ _ _ _)
theorem LengthField.nrevoke (q : Bool) (d a : Reg) : LengthField.Statement (.nrevoke q d a) := Or.inr (len_encA _ _ _ _ _ _ _)
theorem LengthField.ndup (q : Bool) (d a b : Reg) : LengthField.Statement (.ndup q d a b) := Or.inr (len_encA _ _ _ _ _ _ _)
theorem LengthField.ncreate (q : Bool) (d a b : Reg) : LengthField.Statement (.ncreate q d a b) := Or.inr (len_encA _ _ _ _ _ _ _)
theorem LengthField.vsSet (q : Bool) (d a b : Reg) : LengthField.Statement (.vsSet q d a b) := Or.inr (len_encA _ _ _ _ _ _ _)
theorem LengthField.streamStartStore (node : Nat) (v : Word) : LengthField.Statement (.streamStartStore node v) := Or.inl rfl
theorem LengthField.vsRed (q : Bool) (d a b : Reg) : LengthField.Statement (.vsRed q d a b) := Or.inr (len_encA _ _ _ _ _ _ _)
theorem LengthField.vsMark (q : Bool) (d a : Reg) : LengthField.Statement (.vsMark q d a) := Or.inr (len_encA _ _ _ _ _ _ _)
theorem LengthField.vsSt (q : Bool) (d a : Reg) : LengthField.Statement (.vsSt q d a) := Or.inr (len_encA _ _ _ _ _ _ _)
theorem LengthField.vsRejoin (q : Bool) (d a : Reg) : LengthField.Statement (.vsRejoin q d a) := Or.inr (len_encA _ _ _ _ _ _ _)
theorem LengthField.vsClose (q : Bool) (d a : Reg) : LengthField.Statement (.vsClose q d a) := Or.inr (len_encA _ _ _ _ _ _ _)
theorem LengthField.vaddInt (g : VArgs) : LengthField.Statement (.vaddInt g) := Or.inr (lengthField_v _ _)
theorem LengthField.vaddIntK (g : VArgs) : LengthField.Statement (.vaddIntK g) := Or.inr (lengthField_v _ _)
theorem LengthField.vsubInt (g : VArgs) : LengthField.Statement (.vsubInt g) := Or.inr (lengthField_v _ _)
theorem LengthField.vmulInt (g : VArgs) : LengthField.Statement (.vmulInt g) := Or.inr (lengthField_v _ _)
theorem LengthField.vmulh (g : VArgs) : LengthField.Statement (.vmulh g) := Or.inr (lengthField_v _ _)
theorem LengthField.vminInt (g : VArgs) : LengthField.Statement (.vminInt g) := Or.inr (lengthField_v _ _)
theorem LengthField.vmaxInt (g : VArgs) : LengthField.Statement (.vmaxInt g) := Or.inr (lengthField_v _ _)
theorem LengthField.vand (g : VArgs) : LengthField.Statement (.vand g) := Or.inr (lengthField_v _ _)
theorem LengthField.vor (g : VArgs) : LengthField.Statement (.vor g) := Or.inr (lengthField_v _ _)
theorem LengthField.vxor (g : VArgs) : LengthField.Statement (.vxor g) := Or.inr (lengthField_v _ _)
theorem LengthField.vsll (g : VArgs) : LengthField.Statement (.vsll g) := Or.inr (lengthField_v _ _)
theorem LengthField.vsr (g : VArgs) : LengthField.Statement (.vsr g) := Or.inr (lengthField_v _ _)
theorem LengthField.vabsInt (g : VArgs) : LengthField.Statement (.vabsInt g) := Or.inr (lengthField_v _ _)
theorem LengthField.vmac (g : VArgs) : LengthField.Statement (.vmac g) := Or.inr (lengthField_v _ _)
theorem LengthField.vwmulInt (g : VArgs) : LengthField.Statement (.vwmulInt g) := Or.inr (lengthField_v _ _)
theorem LengthField.vwmac (g : VArgs) : LengthField.Statement (.vwmac g) := Or.inr (lengthField_v _ _)
theorem LengthField.vdotInt (g : VArgs) : LengthField.Statement (.vdotInt g) := Or.inr (lengthField_v _ _)
theorem LengthField.vceqInt (g : VArgs) : LengthField.Statement (.vceqInt g) := Or.inr (lengthField_v _ _)
theorem LengthField.vcltInt (g : VArgs) : LengthField.Statement (.vcltInt g) := Or.inr (lengthField_v _ _)
theorem LengthField.vcleInt (g : VArgs) : LengthField.Statement (.vcleInt g) := Or.inr (lengthField_v _ _)
theorem LengthField.vmov (g : VArgs) : LengthField.Statement (.vmov g) := Or.inr (lengthField_v _ _)
theorem LengthField.vaddFlt (g : VArgs) : LengthField.Statement (.vaddFlt g) := Or.inr (lengthField_v _ _)
theorem LengthField.vaddFltX (g : VArgs) : LengthField.Statement (.vaddFltX g) := Or.inr (lengthField_v _ _)
theorem LengthField.vsubFlt (g : VArgs) : LengthField.Statement (.vsubFlt g) := Or.inr (lengthField_v _ _)
theorem LengthField.vmulFlt (g : VArgs) : LengthField.Statement (.vmulFlt g) := Or.inr (lengthField_v _ _)
theorem LengthField.vmulFltK (g : VArgs) : LengthField.Statement (.vmulFltK g) := Or.inr (lengthField_v _ _)
theorem LengthField.vdiv (g : VArgs) : LengthField.Statement (.vdiv g) := Or.inr (lengthField_v _ _)
theorem LengthField.vfma (g : VArgs) : LengthField.Statement (.vfma g) := Or.inr (lengthField_v _ _)
theorem LengthField.vminFlt (g : VArgs) : LengthField.Statement (.vminFlt g) := Or.inr (lengthField_v _ _)
theorem LengthField.vmaxFlt (g : VArgs) : LengthField.Statement (.vmaxFlt g) := Or.inr (lengthField_v _ _)
theorem LengthField.vabsFlt (g : VArgs) : LengthField.Statement (.vabsFlt g) := Or.inr (lengthField_v _ _)
theorem LengthField.vsqrt (g : VArgs) : LengthField.Statement (.vsqrt g) := Or.inr (lengthField_v _ _)
theorem LengthField.vexp2 (g : VArgs) : LengthField.Statement (.vexp2 g) := Or.inr (lengthField_v _ _)
theorem LengthField.vlog2 (g : VArgs) : LengthField.Statement (.vlog2 g) := Or.inr (lengthField_v _ _)
theorem LengthField.vrcp (g : VArgs) : LengthField.Statement (.vrcp g) := Or.inr (lengthField_v _ _)
theorem LengthField.vrsq (g : VArgs) : LengthField.Statement (.vrsq g) := Or.inr (lengthField_v _ _)
theorem LengthField.vwmulFlt (g : VArgs) : LengthField.Statement (.vwmulFlt g) := Or.inr (lengthField_v _ _)
theorem LengthField.vwfma (g : VArgs) : LengthField.Statement (.vwfma g) := Or.inr (lengthField_v _ _)
theorem LengthField.vdotFlt (g : VArgs) : LengthField.Statement (.vdotFlt g) := Or.inr (lengthField_v _ _)
theorem LengthField.vceqFlt (g : VArgs) : LengthField.Statement (.vceqFlt g) := Or.inr (lengthField_v _ _)
theorem LengthField.vcltFlt (g : VArgs) : LengthField.Statement (.vcltFlt g) := Or.inr (lengthField_v _ _)
theorem LengthField.vcleFlt (g : VArgs) : LengthField.Statement (.vcleFlt g) := Or.inr (lengthField_v _ _)
theorem LengthField.vld (g : VArgs) : LengthField.Statement (.vld g) := Or.inr (lengthField_v _ _)
theorem LengthField.vldX (g : VArgs) : LengthField.Statement (.vldX g) := Or.inr (lengthField_v _ _)
theorem LengthField.vst (g : VArgs) : LengthField.Statement (.vst g) := Or.inr (lengthField_v _ _)
theorem LengthField.vstX (g : VArgs) : LengthField.Statement (.vstX g) := Or.inr (lengthField_v _ _)
theorem LengthField.vgather (g : VArgs) : LengthField.Statement (.vgather g) := Or.inr (lengthField_v _ _)
theorem LengthField.vscatter (g : VArgs) : LengthField.Statement (.vscatter g) := Or.inr (lengthField_v _ _)
theorem LengthField.vldl (g : VArgs) : LengthField.Statement (.vldl g) := Or.inr (lengthField_v _ _)
theorem LengthField.vldlV (g : VArgs) : LengthField.Statement (.vldlV g) := Or.inr (lengthField_v _ _)
theorem LengthField.vstl (g : VArgs) : LengthField.Statement (.vstl g) := Or.inr (lengthField_v _ _)
theorem LengthField.vstlV (g : VArgs) : LengthField.Statement (.vstlV g) := Or.inr (lengthField_v _ _)
theorem LengthField.vldsc (g : VArgs) : LengthField.Statement (.vldsc g) := Or.inr (lengthField_v _ _)
theorem LengthField.vstsc (g : VArgs) : LengthField.Statement (.vstsc g) := Or.inr (lengthField_v _ _)
theorem LengthField.vcvt (g : VArgs) : LengthField.Statement (.vcvt g) := Or.inr (lengthField_v _ _)
theorem LengthField.vcvtW (g : VArgs) : LengthField.Statement (.vcvtW g) := Or.inr (lengthField_v _ _)
theorem LengthField.vunpk (g : VArgs) : LengthField.Statement (.vunpk g) := Or.inr (lengthField_v _ _)
theorem LengthField.vunpk6 (g : VArgs) : LengthField.Statement (.vunpk6 g) := Or.inr (lengthField_v _ _)
theorem LengthField.vpk (g : VArgs) : LengthField.Statement (.vpk g) := Or.inr (lengthField_v _ _)
theorem LengthField.vpk6 (g : VArgs) : LengthField.Statement (.vpk6 g) := Or.inr (lengthField_v _ _)
theorem LengthField.vperm (g : VArgs) : LengthField.Statement (.vperm g) := Or.inr (lengthField_v _ _)
theorem LengthField.vslide (g : VArgs) : LengthField.Statement (.vslide g) := Or.inr (lengthField_v _ _)
theorem LengthField.vext (g : VArgs) : LengthField.Statement (.vext g) := Or.inr (lengthField_v _ _)
theorem LengthField.vins (g : VArgs) : LengthField.Statement (.vins g) := Or.inr (lengthField_v _ _)
theorem LengthField.vredAdd (g : VArgs) : LengthField.Statement (.vredAdd g) := Or.inr (lengthField_v _ _)
theorem LengthField.vredMax (g : VArgs) : LengthField.Statement (.vredMax g) := Or.inr (lengthField_v _ _)
theorem LengthField.vredMin (g : VArgs) : LengthField.Statement (.vredMin g) := Or.inr (lengthField_v _ _)
theorem LengthField.vattc (w : AttW) (g : VArgs) : LengthField.Statement (.vattc w g) := Or.inr (lengthField_v _ _)
theorem LengthField.vattf (w : AttW) (g : VArgs) : LengthField.Statement (.vattf w g) := Or.inr (lengthField_v _ _)
theorem LengthField.rep (q : Bool) (c : BitVec 3) (a : Reg) : LengthField.Statement (.rep q c a) := Or.inr (len_encV _ _ _ _ _ _ _ _)
theorem LengthField.repWait (q : Bool) (d : Reg) : LengthField.Statement (.repWait q d) := Or.inr (len_encV _ _ _ _ _ _ _ _)
theorem LengthField.vfence (q : Bool) : LengthField.Statement (.vfence q) := Or.inr (len_encV _ _ _ _ _ _ _ _)
theorem LengthField.vbusy (q : Bool) (d : Reg) : LengthField.Statement (.vbusy q d) := Or.inr (len_encV _ _ _ _ _ _ _ _)
theorem LengthField.kand (q : Bool) (k j h : BitVec 2) : LengthField.Statement (.kand q k j h) := Or.inr (len_encV _ _ _ _ _ _ _ _)
theorem LengthField.kor (q : Bool) (k j h : BitVec 2) : LengthField.Statement (.kor q k j h) := Or.inr (len_encV _ _ _ _ _ _ _ _)
theorem LengthField.kxor (q : Bool) (k j h : BitVec 2) : LengthField.Statement (.kxor q k j h) := Or.inr (len_encV _ _ _ _ _ _ _ _)
theorem LengthField.knot (q : Bool) (k j : BitVec 2) : LengthField.Statement (.knot q k j) := Or.inr (len_encV _ _ _ _ _ _ _ _)
theorem LengthField.kset (q : Bool) (k : BitVec 2) (a : Reg) : LengthField.Statement (.kset q k a) := Or.inr (len_encV _ _ _ _ _ _ _ _)
theorem LengthField.kins (q : Bool) (k : BitVec 2) (a b : Reg) : LengthField.Statement (.kins q k a b) := Or.inr (len_encV _ _ _ _ _ _ _ _)
theorem LengthField.kext (q : Bool) (d : Reg) (k : BitVec 2) (b : Reg) : LengthField.Statement (.kext q d k b) := Or.inr (len_encV _ _ _ _ _ _ _ _)
theorem LengthField.kpop (q : Bool) (d : Reg) (k : BitVec 2) : LengthField.Statement (.kpop q d k) := Or.inr (len_encV _ _ _ _ _ _ _ _)
theorem LengthField.mm (q : Bool) (d a : Reg) : LengthField.Statement (.mm q d a) := Or.inr (len_encA _ _ _ _ _ _ _)
theorem LengthField.mcload (q : Bool) (d b : Reg) (i : BitVec 2) : LengthField.Statement (.mcload q d b i) := Or.inr (len_encA _ _ _ _ _ _ _)
theorem LengthField.mcrd (q : Bool) (d : Reg) (i : BitVec 2) : LengthField.Statement (.mcrd q d i) := Or.inr (len_encA _ _ _ _ _ _ _)
theorem LengthField.mcclr (q : Bool) (i : BitVec 2) : LengthField.Statement (.mcclr q i) := Or.inr (len_encA _ _ _ _ _ _ _)
theorem LengthField.trap (q : Bool) (c : BitVec 4) (a : Reg) (e : BitVec 4) : LengthField.Statement (.trap q c a e) := Or.inr (len_encA _ _ _ _ _ _ _)
theorem LengthField.tret (q : Bool) : LengthField.Statement (.tret q) := Or.inr (len_encA _ _ _ _ _ _ _)
theorem LengthField.tretX (q : Bool) (live : BitVec 15) : LengthField.Statement (.tretX q live) := Or.inr (len_encA _ _ _ _ _ _ _)
theorem LengthField.halt (q : Bool) (a : Reg) : LengthField.Statement (.halt q a) := Or.inr (len_encA _ _ _ _ _ _ _)
theorem LengthField.wfi (q : Bool) (d b : Reg) : LengthField.Statement (.wfi q d b) := Or.inr (len_encA _ _ _ _ _ _ _)
theorem LengthField.gtime (q : Bool) (d : Reg) : LengthField.Statement (.gtime q d) := Or.inr (len_encA _ _ _ _ _ _ _)
theorem LengthField.pjRd (q : Bool) (d a : Reg) : LengthField.Statement (.pjRd q d a) := Or.inr (len_encA _ _ _ _ _ _ _)
theorem LengthField.pjClr (q : Bool) (d a : Reg) : LengthField.Statement (.pjClr q d a) := Or.inr (len_encA _ _ _ _ _ _ _)
theorem LengthField.kcInv (q : Bool) (a : Reg) (s : BitVec 2) : LengthField.Statement (.kcInv q a s) := Or.inr (len_encA _ _ _ _ _ _ _)
theorem LengthField.ffl (q : Bool) (d : Reg) : LengthField.Statement (.ffl q d) := Or.inr (len_encA _ _ _ _ _ _ _)
theorem LengthField.ctlRd (q : Bool) (d : Reg) (h : BitVec 4) (n : BitVec 8) : LengthField.Statement (.ctlRd q d h n) := Or.inr (len_encA _ _ _ _ _ _ _)
theorem LengthField.ctlWr (q : Bool) (a : Reg) (h : BitVec 4) (n : BitVec 8) : LengthField.Statement (.ctlWr q a h n) := Or.inr (len_encA _ _ _ _ _ _ _)
theorem LengthField.ctlSet (q : Bool) (a : Reg) (h : BitVec 4) (n : BitVec 8) : LengthField.Statement (.ctlSet q a h n) := Or.inr (len_encA _ _ _ _ _ _ _)
theorem LengthField.ctlClr (q : Bool) (a : Reg) (h : BitVec 4) (n : BitVec 8) : LengthField.Statement (.ctlClr q a h n) := Or.inr (len_encA _ _ _ _ _ _ _)
theorem LengthField.brk (q : Bool) : LengthField.Statement (.brk q) := Or.inr (len_encA _ _ _ _ _ _ _)
theorem LengthField.illegalInstruction (base : BitVec 32) : LengthField.Statement (.illegalInstruction base) := trivial
theorem LengthField.ptpHoldover : LengthField.Statement (.ptpHoldover) := Or.inl rfl

end Sys2Proof.Laws
end

