-- ==== Sys2Proof/Tests/Slice0.lean ====
section
/-! SUPPORT. Tests: ill-formed terms that are refused, words written out from the spec's encoding tables, single steps whose results come
from the spec's examples or its formulas, and for every statement a state and operands that meet its hypotheses. -/

namespace Sys2Proof.Tests

open Sys2Proof Sys2Proof.Machine Sys2Proof.Claims

set_option maxRecDepth 16000

/-! ### Small states -/

/-- A thread at byte 0 of handle 0x100 with these registers. -/
def thread (x : Sp Word) : Thread := { Thread.reset with uid := 1, ctx := 1, pc := mkAddr 0x100 0, x := x }

/-- The machine whose slot 1 of core 0 holds a thread and issues. -/
def machine (th : Thread) : State :=
  { State.reset with me := 1, uids := 2, threads := [(1, th)], ctxs := [(0, { Ctx.none with live := true, root := 1 }), (1, { Ctx.none with live := true })] }

/-- Such a machine with these registers. -/
def regs (x : Sp Word) : State := machine (thread x)

/-- An address in the core's own part of its scratchpad. -/
def own (o : Nat) : Word := mkAddr 0xFFFF o

/-- The register r of the thread that issued, after a step. -/
def after (o : Out) (r : Reg) : Option Word :=
  match o with
  | .next t => some (xr (cur t) r)
  | _ => none

/-- Something of the thread that issued, after a step. -/
def seen {α : Type} (o : Out) (f : State → α) : Option α :=
  match o with
  | .next t => some (f t)
  | _ => none

/-! ### Ill-formed terms (R269, R272, R304, R317, R352) -/

theorem test_wf_put_odd : (Instr.putAdd false 3 1 2).wellFormed = false := rfl
theorem test_wf_put_zero : (Instr.putFill false 0 1 2).wellFormed = false := rfl
theorem test_wf_lp_zero : (Instr.lp false 2 0).wellFormed = false := rfl
theorem test_wf_lp_negative : (Instr.lp false 2 0x4000).wellFormed = false := rfl
theorem test_wf_ctl_unlisted : (Instr.ctlRd false 1 0 5).wellFormed = false := rfl
theorem test_wf_vector_type : (Instr.vaddFlt ⟨false, 3, 1, 2, .i8, false, false, none, none⟩).wellFormed = false := rfl
theorem test_wf_vector_unused_field : (Instr.vsqrt ⟨false, 3, 1, 2, .f32, false, false, none, none⟩).wellFormed = false := rfl
theorem test_wf_vector_round_code : (Instr.vaddFltX ⟨false, 3, 1, 2, .f32, false, false, some ⟨0, 0, 0, 0, false, 0, 6, false, 0⟩, none⟩).wellFormed = false := rfl
theorem test_wf_vector_mask_unused : (Instr.vaddFltX ⟨false, 3, 1, 2, .f32, false, false, some ⟨0, 0, 0, 0, false, 1, 0, false, 0⟩, none⟩).wellFormed = false := rfl
theorem test_wf_vector_pair : (Instr.vwmulInt ⟨false, 3, 4, 5, .i8, false, false, some ⟨0, 0, 0, 0, false, 0, 0, false, 1⟩, none⟩).wellFormed = false := rfl
theorem test_wf_vector_width_code : (Instr.vwmulInt ⟨false, 4, 4, 5, .i8, false, false, some ⟨0, 0, 0, 0, false, 0, 0, false, 3⟩, none⟩).wellFormed = false := rfl
theorem test_wf_vector_disp : (Instr.vaddFltX ⟨false, 3, 1, 2, .f32, false, false, some ⟨8, 0, 0, 0, false, 0, 0, false, 0⟩, none⟩).wellFormed = false := rfl
theorem test_wf_vector_saturate : (Instr.vaddFltX ⟨false, 3, 1, 2, .f32, false, false, some ⟨0, 0, 0, 0, false, 0, 0, true, 0⟩, none⟩).wellFormed = false := rfl
theorem test_wf_vector_literal : (Instr.vaddInt ⟨false, 3, 1, 2, .i8, false, false, none, some 5⟩).wellFormed = false := rfl
theorem test_wf_vunpk6_slice : (Instr.vunpk6 ⟨false, 3, 1, 5, .q4, false, false, none, none⟩).wellFormed = false := rfl
theorem test_wf_vredmin_unsigned_float : (Instr.vredMin ⟨false, 3, 1, 0, .f32, true, false, none, none⟩).wellFormed = false := rfl
theorem test_wf_vdot_unsigned_q4 : (Instr.vdotInt ⟨false, 3, 1, 2, .q4, true, false, none, none⟩).wellFormed = false := rfl

theorem test_wf_vector_stagger_unused : (Instr.vsqrt ⟨false, 3, 1, 0, .f32, false, false, some ⟨0, 0, 0, 1, false, 0, 0, false, 0⟩, none⟩).wellFormed = false := rfl
theorem test_wf_vector_stagger_group : (Instr.vwmulInt ⟨false, 4, 4, 5, .i8, false, false, some ⟨0, 1, 0, 0, false, 0, 0, false, 1⟩, none⟩).wellFormed = false := rfl
theorem test_wf_vattf_group : (Instr.vattf .d256 ⟨false, 2, 4, 0, .f32, false, false, none, none⟩).wellFormed = false := rfl
theorem test_wf_vattc_group : (Instr.vattc .d128 ⟨false, 0, 1, 4, .f32, false, false, none, none⟩).wellFormed = false := rfl
theorem test_wf_vcvt_q4 : (Instr.vcvt ⟨false, 3, 1, 0, .f32, false, false, none, none⟩).wellFormed = false := rfl
theorem test_wf_vcvt_ratio : (Instr.vcvt ⟨false, 3, 1, 5, .f32, false, false, none, none⟩).wellFormed = false := rfl
theorem test_wf_vpk_slice : (Instr.vpk ⟨false, 3, 1, 9, .q4, false, false, none, none⟩).wellFormed = false := rfl
theorem test_wf_vunpk_slice : (Instr.vunpk ⟨false, 3, 1, 9, .q4, false, false, none, none⟩).wellFormed = false := rfl
theorem test_wf_vpk6_slice : (Instr.vpk6 ⟨false, 3, 1, 5, .q4, false, false, none, none⟩).wellFormed = false := rfl
theorem test_wf_shift_lanes : (Instr.vdiv ⟨false, 3, 1, 2, .f16, true, false, none, none⟩).wellFormed = false := rfl

/-! ### Words of the spec's encoding tables (R260 to R272 and the tables of the instruction chapters) -/

theorem test_dec_add : decodeTableWord 32 0x00189001 = some (.add false 3 1 2 false) := rfl
theorem test_dec_add_sat : decodeTableWord 96 0x0000000000010000_40189001 = some (.addSat false 3 1 2) := rfl
theorem test_dec_aadd : decodeTableWord 32 0x001A1823 = some (.aadd false 3 4 3) := rfl
theorem test_dec_addi_negative : decodeTableWord 32 0x00897FFF = some (.addi false 1 2 0x7FFF false) := rfl
theorem test_dec_addi_literal : decodeTableWord 96 0x0000000000004E20_80890000 = some (.addiK false 1 2 20000 false) := rfl
theorem test_dec_addi_sat : decodeTableWord 96 0x0000000000010000_40890005 = some (.addiSat false 1 2 5) := rfl
theorem test_dec_addi_x : decodeTableWord 96 0x0000000000000000_40890005 = some (.addi false 1 2 5 true) := rfl
theorem test_dec_srai : decodeTableWord 32 0x02A22003 = some (.srai false 4 4 3) := rfl
theorem test_dec_cmpi : decodeTableWord 32 0x03AB000A = some (.cmpi false 5 6 10) := rfl
theorem test_dec_mul : decodeTableWord 32 0x041AB801 = some (.mul false 3 5 7 false) := rfl
theorem test_dec_div : decodeTableWord 32 0x043C4805 = some (.div false 7 8 9) := rfl
theorem test_dec_bext : decodeTableWord 32 0x0491A001 = some (.bext false 2 3 4) := rfl
theorem test_dec_sel : decodeTableWord 32 0x05091806 = some (.sel false 1 2 3) := rfl
theorem test_dec_ld_extended : decodeTableWord 96 0x0001234500000000_48196000 = some (.ldX false 3 2 .d64 0x12345) := rfl
theorem test_dec_ld_byte : decodeTableWord 32 0x28339003 = some (.ld true 6 7 .n8 3) := rfl
theorem test_dec_ld_take : decodeTableWord 32 0x2922E008 = some (.ldTake true 4 5 (.base 1)) := rfl
theorem test_dec_st_give : decodeTableWord 32 0x090AE00A = some (.stGive false 1 5 (.base 1)) := rfl
theorem test_dec_bar_init : decodeTableWord 32 0x0C031001 = some (.barInit false 6 2) := rfl
theorem test_dec_bar_wait : decodeTableWord 32 0x2C6B5804 = some (.barWait true 13 6 11) := rfl
theorem test_dec_fence : decodeTableWord 32 0x0B800001 = some (.fencePut false) := rfl
theorem test_dec_cfl : decodeTableWord 32 0x0B828012 = some (.cfl false 5) := rfl
theorem test_dec_b_eq : decodeTableWord 32 0x10180005 = some (.bEq false 3 0 5) := rfl
theorem test_dec_j : decodeTableWord 32 0x10FFFFF6 = some (.j false 0x7FFFF6) := rfl
theorem test_dec_callr : decodeTableWord 32 0x11028002 = some (.callr false 5 none) := rfl
theorem test_dec_call : decodeTableWord 96 0x0000006400000000_51000003 = some (.call false 100 0) := rfl
theorem test_dec_ret : decodeTableWord 32 0x11000004 = some (.ret false none) := rfl
theorem test_dec_lp : decodeTableWord 32 0x11810002 = some (.lp false 2 2) := rfl
theorem test_dec_fork : decodeTableWord 96 0x0000000000060000_541B8003 = some (.fork false 3 7 (some 3)) := rfl
theorem test_dec_vadd_masked : decodeTableWord 96 0x00000000000A8000_58989700 =
    some (.vaddFltX ⟨false, 3, 1, 2, .f32, false, false, some ⟨0, 0, 0, 0, true, 1, 2, false, 0⟩, none⟩) := rfl
theorem test_dec_vadd_bad_round : decodeTableWord 96 0x0000000000018000_58989700 = none := rfl
theorem test_dec_vadd_int : decodeTableWord 32 0x18091B00 = some (.vaddInt ⟨false, 1, 2, 3, .i32, false, false, none, none⟩) := rfl
theorem test_dec_vmin : decodeTableWord 32 0x1822B284 = some (.vminInt ⟨false, 4, 5, 6, .i16, true, false, none, none⟩) := rfl
theorem test_dec_vmul_literal : decodeTableWord 96 0x000000003F000000_98910742 =
    some (.vmulFltK ⟨false, 2, 2, 0, .f32, false, true, none, some 0x3F000000⟩) := rfl
theorem test_dec_mm : decodeTableWord 32 0x1C1A0001 = some (.mm false 3 4) := rfl
theorem test_dec_mcload : decodeTableWord 32 0x1C102811 = some (.mcload false 2 5 1) := rfl

/-! ### Integer instructions: the examples of R201, R202, R291 to R298, and the hypotheses of the statements -/

theorem test_add_wraps : after (exec (.add false 3 1 2 false) (regs [(1, 0x7FFFFFFFFFFFFFFF), (2, 1)])) 3 = some 0x8000000000000000 := by decide
theorem test_add_sat : after (exec (.addSat false 3 1 2) (regs [(1, 0x7FFFFFFFFFFFFFFF), (2, 1)])) 3 = some 0x7FFFFFFFFFFFFFFF := by decide
theorem test_subn_sat : after (exec (.subnSat false 3 1 2) (regs [(1, 1), (2, 2)])) 3 = some 0 := by decide
theorem test_aadd_keeps_handle : after (exec (.aadd false 3 1 2) (regs [(1, 0x0100000000000010), (2, 0xFFFFFFFFFFFFFFF0)])) 3 = some 0x0100000000000000 := by decide
theorem test_x0_discards : after (exec (.addi false 0 1 5 false) (regs [(1, 1)])) 0 = some 0 := by decide
theorem test_bext : after (exec (.bext false 5 3 4) (regs [(3, 0xF3A0), (4, 0x0304)])) 5 = some 0xFFFFFFFFFFFFFFFA := by decide
theorem test_bextn : after (exec (.bextn false 5 3 4) (regs [(3, 0xF3A0), (4, 0x0304)])) 5 = some 0xA := by decide
theorem test_div_zero : seen (exec (.div false 5 3 4) (regs [(3, 7)])) (fun t => (xr (cur t) 5, (cur t).thst.getLsbD 11)) = some (0xFFFFFFFFFFFFFFFF, true) := by decide
theorem test_div_min : after (exec (.div false 5 3 4) (regs [(3, 0x8000000000000000), (4, 0xFFFFFFFFFFFFFFFF)])) 5 = some 0x8000000000000000 := by decide
theorem test_rem_sign : after (exec (.rem false 5 3 4) (regs [(3, 0xFFFFFFFFFFFFFFF9), (4, 2)])) 5 = some 0xFFFFFFFFFFFFFFFF := by decide
theorem test_cmpi_mask : after (exec (.cmpi false 5 3 1) (regs [(3, 0xFFFFFFFFFFFFFFFF)])) 5 = some 1 := by decide
theorem test_mulhn : after (exec (.mulhn false 5 3 4) (regs [(3, 0xFFFFFFFFFFFFFFFF), (4, 2)])) 5 = some 1 := by decide

theorem witness_QuotientResults : (quotientForm (.div false 5 3 4)).isSome = true ∧ QueuesReady [3, 4] [5] (regs [(3, 7)]) ∧
    (operand [3, 4] (regs [(3, 7)]) 4).toNat = 0 := by unfold QueuesReady; decide
/-- The sums 2^48 - 1 and 2^48, 0 and -1 of the offset. -/
theorem witness_AaddResults :
    let sum := fun u w => (((operand [1, 2] (regs [(1, u), (2, w)]) 1).toNat % 2 ^ 48 : Nat) + (operand [1, 2] (regs [(1, u), (2, w)]) 2).toInt : Int)
    QueuesReady [1, 2] [3] (regs [(1, 0x0100FFFFFFFFFFFE), (2, 1)]) ∧ sum 0x0100FFFFFFFFFFFE 1 = 2 ^ 48 - 1 ∧ sum 0x0100FFFFFFFFFFFE 2 = 2 ^ 48 ∧
    sum 0x0100000000000001 0xFFFFFFFFFFFFFFFF = 0 ∧ sum 0x0100000000000000 0xFFFFFFFFFFFFFFFF = -1 := by unfold QueuesReady; decide
theorem witness_IntegerFrame : (integerForm (.add false 3 1 2 false)).isSome = true ∧ modeOf (cur (regs [])) ≠ 2 ∧
    (after (exec (.add false 3 1 2 false) (regs [])) 3).isSome = true := by decide
theorem witness_IntegerResults : (aluForm (.sub false 3 1 2 false)).isSome = true ∧ (immForm (.li false 3 1)).isSome = true ∧
    (compareForm (.sel false 3 1 2)).isSome = true ∧ (productForm (.mulh false 3 1 2)).isSome = true ∧ (bitForm (.bins false 3 1 2)).isSome = true ∧
    QueuesReady [1, 2, 3] [3] (regs []) := by unfold QueuesReady; decide
/-- A queue register with nothing inbound, one with a word, and one whose outbound queue is full (slot 0). -/
theorem witness_RegisterRules :
    let s : State := { regs [] with me := 0 }
    let full : State := { s with cores := [(0, { CoreSt.reset with outq := [(0, [1, 2, 3, 4, 5, 6, 7, 8])], inq := [(1, [9])] })] }
    qblock s [8] [3] = some (8, true) ∧ qblock full [9] [3] = none ∧ qblock full [3] [8] = some (8, false) ∧ isQ 0 8 = true ∧ isQ 0 11 = true ∧ isQ 0 7 = false ∧
    isQ 0 12 = false ∧ isQ 1 8 = false ∧ operand [9] full 9 = 9 := by decide

/-! ### Flow of control, traps and system instructions -/

/-- Byte o of the test's code handle. -/
def at_ (o : Nat) : Word := mkAddr 0x100 o

/-- A thread at byte 4 in a loop of two words with COUNT n. -/
def looping (n : Nat) : Thread := { thread [] with pc := at_ 4, lstk := [(0, at_ 0), (1, ofN (n * 2 ^ 32 + 2 * 4 + 1))] }

/-- A thread of a launch with two segments that travels; its core has pinned the first. -/
def travelling (th : Thread) : State :=
  { machine { th with launch := 5, thst := 4 } with
    launches := [(5, { Launch.none with v := true, ctx := 1, mode := 2, cores := [0], segs := [[0x100, 0, 64, 1, 0, 0, 0], [0x100, 64, 64, 1, 0, 0, 0]] })]
    cores := [(0, { CoreSt.reset with segment := some (5, 0, false) })] }

/-- A context whose halts are taken. -/
def halting (th : Thread) : State := { machine th with ctxs := [(1, { Ctx.none with live := true, dbgctl := 1 })] }

/-- A journal with one refused entry of the test's thread, not told of yet. -/
def refusedEntry : JEnt := { JEnt.free with opk := 2, ref := true, uid := 1, ctx := 1, code := 1, addr := own 8 }

theorem test_loop_end : seen (exec (.addi false 0 0 0 false) (machine (looping 2))) (fun t => ((cur t).pc, loopCount (cur t))) = some (at_ 0, 1) := by decide
theorem test_loop_pops : seen (exec (.addi false 0 0 0 false) (machine (looping 1))) (fun t => ((cur t).pc, loop0 (cur t))) = some (at_ 8, false) := by decide
theorem test_branch_back : seen (exec (.bNe false 1 2 0xFFD) (machine { thread [(1, 1)] with pc := at_ 16 })) (fun t => (cur t).pc) = some (at_ 4) := by decide
theorem test_callr_x14 : seen (exec (.callr false 14 none) (regs [(14, at_ 64)])) (fun t => ((cur t).pc, xr (cur t) 14)) = some (at_ 64, at_ 4) := by decide
theorem test_lp_skips : seen (exec (.lp false 2 2) (regs [])) (fun t => ((cur t).pc, loop0 (cur t))) = some (at_ 12, false) := by decide
theorem test_trap_enters : seen (exec (.trap false 1 2 3) (machine { thread [(2, 7)] with tvec := at_ 128 }))
    (fun t => ((cur t).pc, (cur t).tcause, (cur t).tval, (cur t).thst)) = some (at_ 128, 0x1308, 7, 1) := by decide
theorem test_tret : seen (exec (.tret false) (machine { thread [] with thst := 0x00400001, tepc := at_ 32 })) (fun t => ((cur t).pc, (cur t).thst)) =
    some (at_ 32, 0x00400040) := by decide
theorem test_tret_bad_status : seen (exec (.tret false) (machine { thread [] with thst := 0x00010001, tvec := at_ 128 })) (fun t => ((cur t).pc, (cur t).tcause)) =
    some (at_ 128, 7) := by decide
theorem test_ffl : seen (exec (.ffl false 3) (machine { thread [] with thst := 0xFC0 })) (fun t => (xr (cur t) 3, (cur t).thst)) = some (0x3F, 0) := by decide
theorem test_ctl_frm_reserved : seen (exec (.ctlWr false 1 0 0) (regs [(1, 0x28)])) (fun t => (cur t).thst) = some 0 := by decide

theorem witness_TravelLeaves :
    let s := travelling (thread [])
    let l := travelling { thread [] with lstk := [(1, 1)] }
    let h := travelling { thread [] with hold := some (3, 0) }
    modeOf (cur s) = 2 ∧ pinned s 1 = some [0x100, 0, 64, 1, 0, 0, 0] ∧ leaves s 1 (at_ 0) = false ∧ leaves s 1 (at_ 63) = false ∧
    leaves s 1 (at_ 64) = true ∧ (segOf s 1 (at_ 64)).isSome = true ∧ (segOf s 1 (at_ 127)).isSome = true ∧ segOf s 1 (at_ 128) = none ∧
    loopUsed (cur s) = false ∧ loopUsed (cur l) = true ∧ (cur h).hold ≠ none ∧ leaves h 1 (at_ 64) = true ∧ (cur s).hold = none := by decide
/-- DIST 1 and 16,383; an END of 2^48 - 4 and of 2^48; counts 0 and 2^32. -/
theorem witness_LoopPush : WellFormed (.lp false 2 1) ∧ WellFormed (.lp false 2 16383) ∧ tl (cur (machine { thread [] with thst := 1 })) = true ∧
    tl (cur (regs [(2, 0x100000000)])) = false ∧ QueuesReady [2] [] (regs [(2, 0x100000000)]) ∧ (operand [2] (regs [(2, 0x100000000)]) 2).toNat = 2 ^ 32 ∧
    off (cur (machine { thread [] with pc := at_ (2 ^ 48 - 12) })).pc + 4 + 4 * (1 : BitVec 15).toNat < 2 ^ 48 ∧
    2 ^ 48 ≤ off (cur (machine { thread [] with pc := at_ (2 ^ 48 - 8) })).pc + 4 + 4 * (1 : BitVec 15).toNat ∧
    (operand [2] (regs []) 2).toNat = 0 := by unfold QueuesReady; decide
theorem witness_TrapReturn : tl (thread []) = false ∧ tl { thread [] with thst := 0x08200001 } = true ∧ at_ 32 = 0x0100000000000020 ∧
    (0x08200001 : Word).toNat / 2 ^ 16 % 2 ^ 16 / 8 % 8 = 4 ∧ (0x08200001 : Word).toNat / 2 ^ 16 % 2 ^ 16 / 2 ^ 12 = 0 ∧ (0x10000001 : Word).toNat / 2 ^ 16 % 2 ^ 16 / 2 ^ 12 = 1 := by decide
theorem witness_InstructionEnds :
    let own_ := (looping 2).pc
    modeOf (looping 2) ≠ 2 ∧ EndsLoop (looping 2) own_ (nextAddr own_ 4) ∧ ¬ EndsLoop (looping 2) own_ (nextAddr own_ 12) ∧ 1 < loopCount (looping 2) ∧
    EndsLoop (looping 1) own_ (nextAddr own_ 4) ∧ loopCount (looping 1) ≤ 1 ∧ bit (spGet 0 (looping 1).lstk 3) 0 = false ∧
    loop0 (looping 1) = true ∧ inLoop (looping 1) own_ = true ∧ inLoop (looping 1) (at_ 8) = false ∧ inLoop (looping 1) (at_ 0) = true := by
  unfold EndsLoop; decide
/-- Every condition holds and fails somewhere; targets at 0 and just below it. -/
theorem witness_BranchesAndJumps : (branchForm (.bCondX false 1 2 .lt 0 0)).isSome = true ∧ QueuesReady [1, 2] [] (regs []) ∧
    (∀ c ∈ [BrCond.eq, .ne, .lt, .ge, .ltn, .gen, .bs, .bc], (holdsCond c 0 1 ∨ holdsCond c 1 1 ∨ holdsCond c 2 1) ∧ ¬ (holdsCond c 0 1 ∧ holdsCond c 1 1 ∧ holdsCond c 2 1)) ∧
    wordTarget (at_ 4) (-1) = some (at_ 0) ∧ wordTarget (at_ 0) (-1) = none ∧ wordTarget (at_ (2 ^ 48 - 4)) 1 = none ∧
    (operand [5] (regs [(5, at_ 8)]) 5).toNat % 4 = 0 ∧ (operand [5] (regs [(5, at_ 9)]) 5).toNat % 4 ≠ 0 ∧ off (cur (regs [])).pc + 12 < 2 ^ 48 := by
  refine ⟨rfl, rfl, ?_, by decide, by decide, by decide, by decide, by decide, by decide⟩
  intro c h; cases c <;> unfold holdsCond <;> decide
theorem witness_TrapEntryResults :
    let th : Thread := { thread [] with tvec := at_ 128 }
    tl th = false ∧ bits th.tvec 63 2 ≠ 0 ∧ leaves (machine th) 1 th.tvec = false ∧ th.capture = none ∧ tl { th with thst := 1 } = true ∧
    bits (thread []).tvec 63 2 = 0 ∧ leaves (travelling { th with lstk := [(1, 1)] }) 1 th.tvec = true ∧
    segOf (travelling th) 1 th.tvec = none ∧ QueuesReady [1] [] (machine th) ∧ isHart 1 = false ∧ bit (getCtx (machine th) 1).dbgctl 0 = false := by
  unfold QueuesReady; decide
theorem witness_ControlWrites : (ctlForm (.ctlSet false 1 0 0)).isSome = true ∧ ¬ CtlWritable (regs []) 2 ∧ ¬ CtlWritable (regs []) 4 ∧ ¬ CtlWritable (regs []) 5 ∧
    CtlWritable (regs []) 1 ∧ CtlWritable (machine { thread [] with thst := 1 }) 2 ∧ CtlWritable (regs []) 0x47 ∧ ¬ ReadsCacheCount (regs []) 0x47 ∧
    QueuesReady [1] [] (regs []) := by unfold CtlWritable ReadsCacheCount QueuesReady; decide
theorem witness_HaltAndWait :
    bit (getCtx (halting (thread [])) 1).dbgctl 0 = true ∧ (cur (halting (thread []))).late = [] ∧ QueuesReady [1] [3] (halting (thread [])) ∧
    (cur (halting { thread [] with late := [⟨3, 0, true, 0, 0, 0, 0, 0⟩] })).late ≠ [] ∧ isHart 1 = false ∧ asyncAimed (regs []) 1 = false ∧
    asyncAimed { regs [] with journal := [(0, refusedEntry)] } 1 = true ∧ operand [1] (regs []) 1 = 0 ∧ operand [1] (regs [(1, 1)]) 1 ≠ 0 := by
  unfold QueuesReady; decide
theorem witness_SystemReads : ctlTable (regs []) 5 = none ∧ (ctlTable (regs []) 4).isSome = true ∧ ctlTable (regs []) 0x1C = none ∧ (ctlTable (regs []) 0x1B).isSome = true ∧
    ReadsCacheCount (machine { thread [] with pcnt := [(0, 0x0500000000000000)] }) 0x40 ∧ ReadsCacheCount (machine { thread [] with pcnt := [(7, 0x0700000000000000)] }) 0x47 ∧
    ¬ ReadsCacheCount (machine { thread [] with pcnt := [(0, 0x0800000000000000)] }) 0x40 ∧ vectorIdle (thread []) = true ∧
    vectorIdle { thread [] with vout := 1 } = false ∧ { thread [] with vout := 1 }.capture = none ∧ QueuesReady [1] [3] (regs []) ∧ refusedEntry.opk ≤ 4 ∧
    refusedEntry.ref = true ∧ refusedEntry.uid = (thread []).uid := by unfold ReadsCacheCount QueuesReady; decide
theorem witness_WindowsAndKeyCaches : vectorIdle (cur (regs [(1, 1)])) = true ∧ QueuesReady [1] [] (regs [(1, 1)]) ∧ (operand [1] (regs [(1, 1)]) 1).getLsbD 16 = false ∧
    isHart 1 = false ∧ hostMiss (regs []) 0 1 0x101 = none ∧ hdl (at_ 0) ≠ 0 ∧ hdl (at_ 0) ≠ 0xFFFF ∧
    lookupKey { regs [] with keys := [(keyIdx 1 0x101, { KeyEntry.free with v := true, node := 3 })], nodes := [(3, { Node.none with v := true })] } 0 1 0x101 =
      ({ KeyEntry.free with v := true, node := 3 }, 0) := by unfold QueuesReady; decide
theorem witness_TimeAndLateResults :
    let w : Thread := { thread [] with wait := .word (8 * 5) .take (own 40) 3 4 false, wcount := 2 ^ 32 }
    stallOf w.wait = some (1, own 40) ∧ wdogPeriod (machine w) 1 ≤ w.wcount ∧ { w with wcount := 2 ^ 32 - 1 }.wcount < wdogPeriod (machine w) 1 ∧
    isQ 1 3 = false ∧ { thread [] with hold := some (5, 2 ^ 32) }.hold = some (5, 2 ^ 32) ∧ (thread []).wait = .run ∧
    { thread [] with wait := .wfi 0 3 false }.wait = .wfi 0 3 false ∧ { thread [] with late := [⟨3, 0, true, 0, 0, 0, 0, 0⟩] }.late ≠ [] := by decide

/-! ### Memory (R3, R262, R310 to R321) -/

/-- The piece of memory that n bytes at byte o of core 0's scratchpad are. -/
def ownPiece (o n : Nat) : Piece := ⟨scratchKey 0 o, n, 3, 0, 0⟩

/-- x1 = the address of word 5 of the scratchpad, x2 = data. -/
def atWord (th : Thread := thread []) : State := machine { th with x := [(1, own 40), (2, 7)] }

/-- That machine with its word full. -/
def fullWord : State := setFe (atWord) (scratchKey 0 40) true

/-- That machine with its word reserved by slot 2, or by the thread itself. -/
def reserved (t : Nat) : State :=
  { atWord { thread [] with hold := if t = 1 then some (scratchKey 0 40 / 8, 0) else none } with
    resv := [(scratchKey 0 40 / 8, { Resv.free with holder := some t })] }

theorem witness_Memory_LoadResults : (loadForm (.ld false 3 1 .i8 0xFF8)).isSome = true ∧ QueuesReady [1] [] atWord ∧
    effOf (own 40) (-40) = some (own 0) ∧ effOf (own 40) (-41) = none ∧ effOf (mkAddr 7 (2 ^ 48 - 1)) 1 = none ∧
    ReachesMemory (operandState [1] atWord) (own 40) 8 needRd true true [ownPiece 40 8] ∧
    ReachesMemory (operandState [1] atWord) (own 41) 1 needRd true true [ownPiece 41 1] := by
  unfold QueuesReady ReachesMemory; decide
theorem witness_Memory_StoreResults : (storeForm (.stX false 2 1 .s32 (-8))).isSome = true ∧ QueuesReady [1, 2] [] atWord ∧
    ReachesMemory (operandState [1, 2] atWord) (own 32) 4 needWr true false [ownPiece 32 4] := by unfold QueuesReady ReachesMemory; decide
theorem witness_StoreFrame : (∀ w ∈ wordsOf [ownPiece 38 4], spGet [] atWord.waits w = []) ∧ wordsOf [ownPiece 38 4] = [scratchKey 0 32 / 8, scratchKey 0 40 / 8] ∧
    scratchKey 0 48 / 8 ∉ wordsOf [ownPiece 38 4] ∧ [1, 2, 3, 4].length = (ownPiece 38 4).len := by decide
theorem witness_NonStoringFrame : storesNothing (.ldPeek false 3 1 (.base 0)) = true ∧
    seen (exec (.ldPeek false 3 1 (.base 0)) fullWord) (fun t => (cur t).wait) = some .run := by decide
theorem witness_LoadStoreResults : (loadForm (.ldX false 3 1 .d64 0)).isSome = true ∧ (storeForm (.st false 2 1 .s8 0)).isSome = true ∧
    QueuesReady [1] [] atWord ∧ QueuesReady [1, 2] [] atWord ∧ effOf (mkAddr 7 (2 ^ 48 - 1)) 0 = some (mkAddr 7 (2 ^ 48 - 1)) ∧
    ReachesMemory (operandState [1] atWord) (own 40) 8 needRd true true [ownPiece 40 8] ∧
    ReachesMemory (operandState [1, 2] atWord) (own 40) 1 needWr true false [ownPiece 40 1] := by unfold QueuesReady ReachesMemory; decide
theorem witness_FullEmptyResults : ReachesWord (operandState [1] fullWord) (own 40) (.base 0) (own 40) (scratchKey 0 40) [ownPiece 40 8] ∧
    ReachesWord (operandState [1, 2] atWord) (own 40) (.ext (-1)) (own 32) (scratchKey 0 32) [ownPiece 32 8] ∧
    feOf (operandState [1] fullWord) (scratchKey 0 40) = true ∧ feOf (operandState [1, 2] atWord) (scratchKey 0 32) = false ∧
    holds fullWord 1 (scratchKey 0 40) = false ∧ QueuesReady [1, 2] [] atWord ∧
    (∀ op ∈ [WaitOp.take, .peek, .give], ¬ Listed (operandState [1] fullWord) (scratchKey 0 40) op) := by
  refine ⟨⟨by decide, by decide, by unfold ReachesMemory; decide, _, _, rfl, rfl⟩, ⟨by decide, by decide, by unfold ReachesMemory; decide, _, _, rfl, rfl⟩, by decide, by decide, by decide,
    by unfold QueuesReady; decide, by unfold Listed; decide⟩
theorem witness_AtomicResults : (amoForm (.amoCas false 3 1 2 true)).isSome = true ∧ (own 40).toNat % 8 = 0 ∧ QueuesReady [1, 2, 3] [] atWord ∧
    ReachesMemory (operandState [1, 2, 3] atWord) (own 40) 4 needRw true false [ownPiece 40 4] ∧ (own 44).toNat % 4 = 0 := by unfold QueuesReady ReachesMemory; decide
theorem witness_ReservationResults : ReachesWord (operandState [1, 2] atWord) (own 40) (.base 0) (own 40) (scratchKey 0 40) [ownPiece 40 8] ∧
    ReachesWord (operandState [1] (reserved 1)) (own 40) (.base 0) (own 40) (scratchKey 0 40) [ownPiece 40 8] ∧
    (cur atWord).hold = none ∧ (cur (reserved 1)).hold ≠ none ∧ holds (reserved 1) 1 (scratchKey 0 40) = true ∧ holds atWord 1 (scratchKey 0 40) = false := by
  refine ⟨⟨by decide, by decide, by unfold ReachesMemory; decide, _, _, rfl, rfl⟩, ⟨by decide, by decide, by unfold ReachesMemory; decide, _, _, rfl, rfl⟩, by decide, by decide, by decide, by decide⟩
/-- Entries in the order of the checks: free, of another generation, without rights, and with a limit of 64. -/
theorem witness_AccessTraps :
    let k (e : KeyEntry) : State := { atWord with keys := [(keyIdx 1 0x101, e)], nodes := [(3, { Node.none with v := true })] }
    let r : KeyEntry := { KeyEntry.free with v := true, node := 3, kind := 1, limit := 64, rights := 1 }
    let w : Who := whoOf (k r) 1
    let a : Word := mkAddr 0x101 0
    hdl a ≠ 0xFFFF ∧ (lookupKey (k KeyEntry.free) w.unit w.ctx 0x101).1.v = false ∧
    (lookupKey (k { r with gen := 1 }) w.unit w.ctx 0x101) = ({ r with gen := 1 }, 0) ∧ lookupKey (k r) w.unit w.ctx 0x101 = (r, 0) ∧
    rightsOk r w needWr = false ∧ rightsOk r w needRd = true ∧ r.limit < off (mkAddr 0x101 57) + 8 ∧ ¬ r.limit < off (mkAddr 0x101 56) + 8 ∧
    2 ^ 48 < off (mkAddr 0x101 (2 ^ 48 - 7)) + 8 ∧ ¬ 2 ^ 48 < off (mkAddr 0x101 (2 ^ 48 - 8)) + 8 ∧ hostMiss (k r) w.unit w.ctx 0x101 = none ∧
    resolve (k r) w (mkAddr 0x101 57) 8 needRd = .error ⟨2, 4, mkAddr 0x101 64⟩ ∧ QueuesReady [1] [] atWord ∧ QueuesReady [1, 2] [] atWord ∧
    effOf (own 41) 0 = some (own 41) ∧ (own 41).toNat % 8 ≠ 0 ∧ (own 42).toNat % 4 ≠ 0 ∧ (amoForm (.amoAdd false 3 1 2 true)).isSome = true := by
  unfold QueuesReady; decide
theorem witness_WordWaits : (loadForm (.ld false 3 1 .d64 0)).isSome = true ∧ (cur atWord).hold = none ∧ feOf atWord (scratchKey 0 40) = false ∧
    feOf fullWord (scratchKey 0 40) = true ∧ ReachesWord (operandState [1] atWord) (own 40) (.base 0) (own 40) (scratchKey 0 40) [ownPiece 40 8] ∧
    ReachesWord (operandState [1, 2] fullWord) (own 40) (.base 0) (own 40) (scratchKey 0 40) [ownPiece 40 8] ∧
    (let s2 := atTurn [ownPiece 40 8] (operandState [1] atWord)
     (homeEntries s2 (cur s2).part (scratchKey 0 40 / 8)).1 < (homeEntries s2 (cur s2).part (scratchKey 0 40 / 8)).2 ∧ earliestRetry s2 (cur s2).part (scratchKey 0 40 / 8) = none) ∧
    QueuesReady [1] [] (reserved 2) ∧ resolve (operandState [1] (reserved 2)) (whoOf (reserved 2) 1) (own 40) 8 needRd = .ok (.mem [ownPiece 40 8]) ∧
    migratesTo (operandState [1] (reserved 2)) 1 (own 40) = none ∧
    resvBlocked (operandState [1] (reserved 2)) 1 (wordsOf [ownPiece 40 8]) = some (scratchKey 0 40 / 8) := by
  refine ⟨by decide, by decide, by decide, by decide, ⟨by decide, by decide, by unfold ReachesMemory; decide, _, _, rfl, rfl⟩,
    ⟨by decide, by decide, by unfold ReachesMemory; decide, _, _, rfl, rfl⟩, by decide, by unfold QueuesReady; decide, by decide, by decide, by decide⟩

/-! ### Posted operations, fences, barriers and latches (R33, R229, R250, R321 to R325) -/

/-- x1 a destination, x2 a source of 8 bytes, x4 and x5 a counter and its value, x6 the length of a copy. -/
def putting : State := regs [(1, own 64), (2, 0x0000000700000028), (4, own 96), (5, 3), (6, 8), (7, own 41)]

/-- Core 0's journal holds one live entry 3 and is otherwise full or free. -/
def journalled (j : JEnt) (full : Bool) : State :=
  { putting with journal := if full then (List.range 32).map fun e => (e, j) else [(3, j)] }

/-- A posted store of the test's thread, and a put with its counter. -/
def aPst : JEnt := { JEnt.free with opk := 2, uid := 1, ctx := 1, addr := own 64, size := 8, left := 1 }
def aPut : JEnt := { aPst with opk := 0, action := 3, caddr := own 96, value := 3 }

theorem witness_PostedOperations : (putForm (.putFill false 4 1 2)).isSome = true ∧ (putForm (.putNc false 1 2)).isSome = true ∧
    (postedForm (.pst false 2 1 .s64 0)).isSome = true ∧
    QueuesReady [1, 2, 4, 5] [] putting ∧ Resolves (operandState [1, 2, 4, 5] putting) (own 96) 8 needRw (.mem [ownPiece 96 8]) ∧
    Resolves (operandState [1, 2, 4, 5] putting) (own 64) 8 needWr (.mem [ownPiece 64 8]) ∧ peerOf (.mem [ownPiece 64 8]) = none ∧
    (let s1 := operandState [1, 2, 4, 5] putting
     let w := whoOf s1 s1.me
     let rot := rotOf s1 w.part w.tenant
     localLevel s1 w.core rot.1 40 = 1 ∧ localLevel s1 w.core rot.1 47 = 1 ∧ localRuns s1 w.core rot.1 rot.2 9 40 8 = .ok [ownPiece 40 8] ∧
     resvBlocked s1 s1.me (wordsOf [ownPiece 40 8]) = none ∧ badWord s1 [ownPiece 40 8] = none ∧ freeEntry s1 0 = some 0) ∧
    (operand [1, 2, 7, 8] putting 7).toNat % 8 ≠ 0 ∧ effOf (own 64) 0 = some (own 64) ∧
    (operand [1, 2, 6] putting 6).toNat ≤ 2 ^ 20 ∧ Resolves (operandState [1, 6, 4] putting) (own 64) 8 needRd (.mem [ownPiece 64 8]) := by
  unfold QueuesReady Resolves; decide
theorem witness_PostedOperations_full : freeEntry (journalled aPst true) 0 = none ∧ QueuesReady [1, 2] [] (journalled aPst true) ∧
    Resolves (operandState [1, 2] (journalled aPst true)) (own 64) 8 needWr (.mem [ownPiece 64 8]) := by unfold QueuesReady Resolves; decide
/-- The store's packet, the put's first segment's, and one through another node. -/
def pstPacket : Packet := ⟨0, 3, 0, 2, 0, 0, 1, 1, 0⟩
def putPacket : Packet := { pstPacket with opk := 0 }
def farPacket : Packet := { pstPacket with node := 9 }

theorem witness_PostedEvents :
    let s := journalled aPst false
    let p := journalled aPut false
    let two (j : JEnt) : State := journalled { j with left := 2 } false
    entryIs s 0 3 0 = true ∧ entryIs (regs []) 0 3 0 = false ∧ entryIs s 0 3 1 = false ∧ pstPacket.opk ≠ 3 ∧
    localLevel s 0 (rotOf s pstPacket.part (packetWho s pstPacket).tenant).1 (off (own 64)) ≠ 3 ∧
    postedPlace s (packetWho s pstPacket) 0 0 (own 64) 8 needWr = .ok (.mem [ownPiece 64 8]) ∧
    postedPlace { s with nodes := [(9, { Node.none with v := true, kind := 1 })] } (packetWho s farPacket) 9 0 (mkAddr 9 0) 8 needWr = .error 3 ∧
    1 < (getJ (two aPst) 0 3).left ∧ (getJ s 0 3).left = 1 ∧ (getJ s 0 3).ref = false ∧ (getJ s 0 3).opk ≠ 0 ∧ (getJ p 0 3).left = 1 ∧ (getJ p 0 3).opk = 0 ∧ (getJ p 0 3).action ≠ 0 ∧
    launchEnds (setJ s 0 3 JEnt.free) aPst.launch = false ∧ hartOf s (getJ s 0 3).uid = some 1 ∧ (getTh s 1).pjbase = 0 ∧
    hartOf (journalled { aPst with uid := 9 } false) 9 = none ∧
    launchEnds (setJ { s with uids := s.uids + 1 } 0 3 { aPst with ref := true, code := 1, recd := some none }) aPst.launch = false ∧
    (getJ (journalled { aPst with ref := true } false) 0 3).ref = true ∧ entryIs (journalled { aPst with ref := true } false) 0 3 0 = true ∧
    (getJ p 0 3).opk ≤ 4 ∧ 1 ≤ aPut.action ∧ aPut.action ≤ 3 ∧ (spGet KeyEntry.free p.keys (keyIdx aPut.ctx (hdl aPut.caddr))).peer = false ∧
    postedPlace p (packetWho p (packetOf 0 3 aPut)) aPut.cnode aPut.cgen aPut.caddr 8 needRw = .ok (.mem [ownPiece 96 8]) ∧ badWord p [ownPiece 96 8] = none := by decide
theorem witness_FencesAndCaches : (fenceForm (.fencePut false)).isSome = true ∧ QueuesReady [5] [] putting ∧
    (∃ e ∈ (journalled aPst false).journal, e.2.uid = (cur putting).uid ∧ e.2.ref = false ∧ 2 ≤ e.2.opk ∧ e.2.opk ≤ 4) ∧
    ¬ (∃ e ∈ (journalled aPst false).journal, e.2.opk ≤ 1) ∧ (∃ e ∈ (journalled aPut false).journal, e.2.opk ≤ 1) := by unfold QueuesReady; decide

/-- A valid object at byte 64 that expects 2 arrivals, with one. -/
def object (o : BarObj) : State := barPut 0 [ownPiece 64 16] o (regs [(1, own 64), (2, 1), (3, 0x0000000500000000)])
def pair : BarObj := ⟨0, true, false, 0, 0, 0, 2, 1⟩

theorem witness_BarrierResults :
    let s := object pair
    QueuesReady [1, 2] [3] s ∧ ReachesBarrier (operandState [1, 2] s) (own 64) [ownPiece 64 16] ∧ barRead s [ownPiece 64 16] = pair ∧
    (operand [1, 2] s 2).toNat % 2 ^ 12 = 1 ∧ pair.arrived + 1 = pair.expect ∧ pair.expect < pair.arrived + 2 ∧ (operand [1, 3] s 3).toNat % 2 ^ 12 = 0 ∧
    (operand [1, 3] s 3).toNat / 2 ^ 32 = 5 ∧ pair.phase = (operand [1, 3] s 3).toNat % 2 ^ 4 ∧ pair.phase ≠ (operand [1, 2] s 2).toNat % 2 ^ 4 ∧
    outstanding s 1 true true = false ∧ barRead (object { pair with valid := false }) [ownPiece 64 16] = { pair with valid := false } ∧
    (cur s).wait = .run ∧ (barRead (object { pair with waiters := 1 }) [ownPiece 64 16]).phase = 0 := by
  refine ⟨by unfold QueuesReady; decide, by unfold ReachesBarrier; decide, by decide, by decide, by decide, by decide, by decide, by decide, by decide, by decide, by decide,
    by decide, by decide, by decide⟩
theorem witness_LatchesAndLines :
    let s := regs [(1, own 64)]
    let full := { s with latches := (List.range 64).map fun k => ⟨scratchKey 0 64 / 64, 2, k⟩ }
    QueuesReady [1] [] s ∧ Resolves (operandState [1] s) (own 64) 1 needRd (.mem (ownPiece 64 1 :: [])) ∧
    refusedPiece (operandState [1] s) (cur s).part [ownPiece 64 1] = none ∧
    (latchHome (disarm 1 3 (operandState [1] s)) (cur s).part (scratchKey 0 64 / 64)).1 < (latchHome (disarm 1 3 (operandState [1] s)) (cur s).part (scratchKey 0 64 / 64)).2 ∧
    latchReason s 1 = 0 ∧ latchReason (regs []) 1 = 0 ∧ operand [2] s 2 = 0 ∧ operand [1] s 1 ≠ 0 ∧
    latchReason (machine { thread [] with latch := [(2, 0x3)] }) 1 ≠ 0 ∧ (cur s).wait = .run ∧
    ({ thread [] with wait := .latch 0 3 false }).wait = .latch 0 3 false ∧ (latchHome full (cur full).part (scratchKey 0 64 / 64)) = (64, 64) := by
  refine ⟨by unfold QueuesReady; decide, by unfold Resolves; decide, by decide, by decide, by decide, by decide, by decide, by decide, by decide, by decide, by decide, by decide⟩
theorem witness_WordsAndMappings :
    let v := ofN (2 ^ 63 + 2 ^ 32)
    let s := { regs [] with
      resv := [(5, { Resv.free with queue := [1, 2] })]
      cores := [(0, { CoreSt.reset with tlb := [⟨1, 0x101, 0, 3, 0x5000, 2⟩] })]
      keys := [(keyIdx 1 0x101, { KeyEntry.free with v := true, node := 3, kind := 1, limit := 4096, rights := 3 })]
      nodes := [(3, { Node.none with v := true })]
      maps := [(0, { MapEnt.reset with gaddr := mkAddr 0x101 0 }), (1, { MapEnt.reset with word1 := v + 0x4000 })] }
    (spGet Resv.free s.resv 5).queue = 1 :: [2] ∧ (spGet Resv.free s.resv 5).holder = none ∧ (spGet Resv.free s.resv 5).granted = none ∧
    ({ thread [] with wait := .retry 5 .take (own 40) 64 0 64 }).wait = .retry 5 .take (own 40) 64 0 64 ∧ bit v 63 = true ∧
    bit (getMap s 0).word1 63 = false ∧ bit (getMap s 1).word1 63 = true ∧ bit (0 : Word) 63 = false ∧
    (mapInstall (whoOf s 1) 0 v s).isOk = true ∧ (mapInstall (whoOf s 1) 16 v s).isOk = false ∧ (mapInstall (whoOf s 1) 15 v s).isOk = false := by decide

/-! ### Threads (R139 to R146, R330 to R337) -/

/-- A machine whose thread belongs to launch 5 on core 0, with work pending there. -/
def launched (th : Thread) : State :=
  { machine { th with launch := 5 } with
    launches := [(5, { Launch.none with v := true, ctx := 1, cores := [0], entry := at_ 0, xs := [7], nthr := 9, ids := 9 })]
    parts := [(0, { Partition.none with v := true, cores := [0, 1, 1023, 1024] })]
    cores := [(0, { CoreSt.reset with launches := [5] })] }

/-- A spawn's request for core 1, and its parcel in slot n. -/
def spawnParcel (n : Nat) : Parcel := 
  ⟨.spawn, 0, 0, 1, 1, n, false, 5, 0, at_ 0, 0, [1, 2], [], [], 0, [], 0, none, 0, none⟩
def spawnAsk : SlotAsk := ⟨1, 1, .spawn, 1, 0, 4, some (spawnParcel 0), 0⟩

theorem witness_SpawnsAndForks :
    let s := launched (thread [(1, at_ 64), (2, 1023), (3, 1024), (4, at_ 65)])
    let c : Continuation := ⟨at_ 16, [1, 2, 3, 4, 5, 6, 7], 5, 1, 0⟩
    let f := { s with cores := [(0, { CoreSt.reset with deque := [c, c] })] }
    QueuesReady [1, 2] [] s ∧ QueuesReady [4, 2] [] s ∧ (operand [1, 2] s 1).toNat % 4 = 0 ∧ (operand [4, 2] s 4).toNat % 4 ≠ 0 ∧ MaySpawnOn (operandState [1, 2] s) 1023 ∧
    ¬ MaySpawnOn (operandState [1, 2] s) 1024 ∧ ¬ MaySpawnOn (regs []) 1 ∧ (cur s).late = [] ∧ off (cur s).pc + 12 < 2 ^ 48 ∧ modeOf (cur s) ≠ 2 ∧
    modeOf (cur (travelling (thread []))) = 2 ∧ isHart s.me = false ∧ (getCore s 0).deque = [] ∧ (getCore s 0).spill = [] ∧
    (getCore f 0).deque = [c] ++ [c] ∧ c.launch = (cur f).launch ∧ c.slot = slotOf f.me ∧ c.id = (cur f).id ∧ (xr (cur (operandState [1] s)) 14).toNat % 4 = 0 := by
  unfold QueuesReady MaySpawnOn; decide
theorem witness_JoinsAndExits :
    let s := regs [(1, own 40), (2, own 44)]
    let f := wrWord s (scratchKey 0 40) 3
    let h : State := { s with me := 16384, threads := [(16384, thread [])] }
    QueuesReady [1] [] s ∧ QueuesReady [2] [] s ∧ (operand [2] s 2).toNat % 8 ≠ 0 ∧ ReachesMemory (operandState [1] s) (own 40) 8 needRd false false (ownPiece 40 8 :: []) ∧
    ReachesMemory (operandState [1] f) (own 40) 8 needRd false false (ownPiece 40 8 :: []) ∧ rdWord s (scratchKey 0 40) = 0 ∧ rdWord f (scratchKey 0 40) ≠ 0 ∧
    ¬ Listed s (scratchKey 0 40) .join ∧ (cur s).capture = none ∧ isHart s.me = false ∧ (cur s).late = [] ∧ vectorIdle (cur s) = true ∧ (cur s).launch = 0 ∧
    vectorIdle { thread [] with vout := 1 } = false ∧ isHart h.me = true ∧ outstanding h (cur h).uid true true = false ∧ (cur h).late = [] ∧ (cur h).capture = none ∧
    (let s2 := atTurn [ownPiece 40 8] (operandState [1] f)
     (homeEntries s2 (cur s2).part (scratchKey 0 40 / 8)).1 < (homeEntries s2 (cur s2).part (scratchKey 0 40 / 8)).2 ∧ earliestRetry s2 (cur s2).part (scratchKey 0 40 / 8) = none) := by
  unfold QueuesReady ReachesMemory Listed; decide
theorem witness_MovesAndSlots :
    let s := launched (thread [(2, 1), (3, 1024)])
    let a := launched { thread [(2, 1)] with wait := .slotAsk }
    QueuesReady [2] [] s ∧ QueuesReady [4] [] s ∧ coreOf s.me = (operand [4] s 4).toNat ∧ coreOf s.me < 1024 ∧ (operand [2] s 2).toNat ≠ coreOf s.me ∧
    1024 ≤ (operand [3] s 3).toNat ∧ inPartition (operandState [2] s) (cur s).part 1 = true ∧ modeOf (cur s) ≠ 2 ∧ (cur s).vwin = false ∧ loopUsed (cur s) = false ∧
    (∀ i, i < 4 → bit (spGet 0 (cur s).latch i) 1 = false) ∧ (cur s).hold = none ∧ (cur s).late = [] ∧ outstanding (operandState [2] s) 1 true true = false ∧
    ¬ EndsLoop (cur s) (cur s).pc (nextAddr (cur s).pc 4) ∧ slotClaimed s 1 = false ∧ heldByTravel s 1 5 = false ∧ lowestFree s 1 = some 1 ∧
    lowestFree { s with threads := (List.range 15).map fun k => (17 + k, thread []) } 1 = none ∧
    (getTh a spawnAsk.tid).uid = spawnAsk.uid ∧ (getTh a 1).wait = .slotAsk ∧ spawnAsk.seq = (getTh a 1).seq ∧ spawnAsk.body = some (spawnParcel 0) ∧
    1 ≤ (spawnParcel 15).slot ∧ (spawnParcel 15).slot ≤ 15 ∧ (spawnParcel 15).core < 1024 ∧ (getTh s (16 + 15)).uid = 0 ∧ (spawnParcel 15).hold = none ∧
    freeSlot s 0 2 = true ∧ freeSlot s 0 15 = true ∧ (getCore s 0).restored = [] ∧
    ((getCore s 0).launches.find? fun l => pendingHere s 0 l && servedHere s l) = some 5 ∧ (getLaunch s 5).xs.length ≤ 14 := by
  unfold QueuesReady EndsLoop; decide

/-! ### The name tree (R64 to R67, R83 to R101, R338 to R340) -/

/-- The one-component path "a". -/
def pathA : List Byte := [1, 0, 0, 0, 0, 0, 0, 0, 1, 0x61, 0, 0, 0, 0, 0, 0, 0, 0, 0, 0, 0, 0, 0, 0]

/-- The entry 1 of context 1: a directory with every right, generation 1, node 3. -/
def dirKey : KeyEntry := { KeyEntry.free with v := true, rights := 0x1F, ceil := 0x0F, gen := 1, node := 3 }

/-- A context whose private root is node 3, where the name "a" leads to the region 4; x1 = the directory's handle, x2 an empty word, x3 the path
record at byte 64, x4 a handle with a bit above. -/
def named : State :=
  wrRun { machine (thread [(1, 1), (3, own 64), (4, 0x10001), (5, own 96)]) with
      ctxs := [(1, { Ctx.none with live := true, root := 3 })]
      nodes := [(3, { Node.none with v := true, gen := 1, owner := 1 }), (4, { Node.none with v := true, kind := 1, gen := 1, limit := 4096 })]
      binds := [(3, [⟨[0x61], 4, 0x3⟩])]
      keys := [(keyIdx 1 1, dirKey), (keyIdx 1 2, { dirKey with gen := 0 })] }
    (scratchKey 0 64) pathA

/-- The length of the STAT record a transaction gives. -/
def statLength (o : TxOut) : Option Nat := match o with | .stat bs => some bs.length | _ => none

theorem walk_a (s : State) (k : BitVec 5) (h3 : recordMissing s 3 = false ∧ recKind s 3 = 0 ∧ ((engineRecord s 3).getD 0 0).getLsbD 63 = true) (h4 : recordMissing s 4 = false ∧ recKind s 4 ≠ 9)
    (hk : k.getLsbD 2 = true) (hb : lookupName s 3 [0x61] = some ⟨[0x61], 4, 0x3⟩) : WalkTo s [[0x61]] 3 k 4 (k &&& 0x3) :=
  .down _ _ _ _ ⟨[0x61], 4, 0x3⟩ _ _ h3.1 h3.2.1 h3.2.2 hk hb (.here _ _ h4.1 h4.2)

theorem witness_NameTransactions :
    let x := txOf named
    x.ring < 65536 ∧ parsePath pathA = .ok [[0x61]] ∧ parseName pathA = some [0x61] ∧ WalkTo named [[0x61]] (getCtx named x.ctx).root 0xF 4 0x3 ∧
    LiveHandle x 1 named dirKey ∧ (5 : Word).toNat < 32 ∧ (31 : Word).toNat < 32 ∧ BitVec.ofNat 5 5 &&& ~~~dirKey.ceil = 0 ∧ BitVec.ofNat 5 31 &&& ~~~dirKey.ceil ≠ 0 ∧
    (getKey named 1 3).v = false ∧ (getKey named 1 2).gen ≠ (getNode named (getKey named 1 2).node).gen ∧ dirKey.rights.getLsbD 3 = true ∧ dirKey.rights.getLsbD 4 = true ∧
    (getNode named dirKey.node).owner = x.ctx ∧ lookupName named dirKey.node [0x61] = some ⟨[0x61], 4, 0x3⟩ ∧ (∃ h, freeHandle named 1 = some h) ∧
    ({ dirKey with rights := 0xF } : KeyEntry).rights.getLsbD 4 = false :=
  ⟨by decide, rfl, rfl, walk_a named 0xF (by decide) (by decide) (by decide) (by decide), by unfold LiveHandle; decide, by decide, by decide, by decide, by decide, by decide,
    by decide, by decide, by decide, by decide, by decide, freeHandle_given (by decide) (by decide), by decide⟩

theorem witness_NameInstructions :
    let s1 := operandState [1, 3] named
    QueuesReady [1, 3] [] named ∧ (operand [1, 3] named 1).toNat < 2 ^ 16 ∧ 2 ^ 16 ≤ (operand [4, 3] named 4).toNat ∧ (pathA.getD 0 0).toNat = 1 ∧
    ReadsPath s1 (own 64) pathA (homeLoad 0 [ownPiece 72 16] (atTurn [ownPiece 72 16] (homeLoad 0 [ownPiece 64 8] (atTurn [ownPiece 64 8] s1)))) ∧
    Resolves s1 (own 64) 8 needRd (.mem [ownPiece 64 8]) ∧ Resolves s1 (own 96) 32 needRd (.mem [ownPiece 96 32]) ∧ (own 96).toNat % 32 = 0 ∧
    ReachesMemory s1 (own 96) 32 needWr false false [ownPiece 96 32] ∧
    statLength (txStat (txOf (atTurn [ownPiece 96 32] s1)) 1 (own 96) (atTurn [ownPiece 96 32] s1)) = some 32 := by
  refine ⟨by unfold QueuesReady; decide, by decide, by decide, by decide, ⟨[ownPiece 64 8], [ownPiece 72 16], own 72, 1, by decide, by unfold ReachesMemory; decide, by decide,
    by decide, by decide, by decide, by unfold ReachesMemory; decide, by decide, rfl⟩, by unfold Resolves; decide, by unfold Resolves; decide, by decide,
    by unfold ReachesMemory; decide, by decide⟩

/-- The machine once READY, at generation 3 of the host's port. -/
def readied (s : State) : State := { s with pkg := { s.pkg with pkst := 0x100 } }

/-- A region of the system context, through entry 1, whose page the host's port has at 0x5000. -/
def hosted : State :=
  { readied named with
    ctxs := [(0, { Ctx.none with live := true, root := 3 })]
    keys := [(keyIdx 0 1, dirKey), (keyIdx 0 2, { dirKey with kind := 1, limit := 4096, rights := 3, node := 4 })]
    cores := [(1100, { CoreSt.reset with tlb := [⟨0, 2, 0, 4, 0x5000, 0⟩] })] }

theorem witness_HostRequests :
    let x : Tx := ⟨0, 0, 0, 0, 0, 0, 0, .host .pf⟩
    let a := mkAddr 2 0
    let ps : List Piece := [⟨0x5000, 8, 0, 4, 1⟩]
    txHost hosted .pf false = .ok x ∧ txHost hosted .pf true = .ok x ∧ x.ring < 65536 ∧ hostMiss hosted (whoHost x).unit (whoHost x).ctx (hdl a) = none ∧
    resolve hosted (whoHost x) a 8 needRd = .ok (.mem ps) ∧ resolve hosted (whoHost x) a 8 needWr = .ok (.mem ps) ∧ resolve hosted (whoHost x) a 8 needRw = .ok (.mem ps) ∧
    refusedPiece hosted x.part ps = none ∧ badWord hosted ps = none ∧ resolve hosted (whoHost x) (mkAddr 2 4096) 1 needRd = .error ⟨2, 4, mkAddr 2 4096⟩ ∧
    resolve hosted (whoHost x) (mkAddr 3 0) 8 needWr = .error ⟨2, 1, mkAddr 3 0⟩ ∧ bit named.pkg.pkst 8 = false ∧
    (agentWrite (whoCtx hosted 0) a (List.replicate 32 0) 0 hosted).isOk = true ∧
    statLength (txStat x 1 a hosted) = some 32 := by decide

theorem witness_RevocationsAndMisses :
    let r : Revoke := ⟨.revoke 2, 3, 2, .thread 1, [0, 15], [0, 15], [0, 15]⟩
    let s : State := { named with revokes := [(9, r), (10, { r with filters := [] }), (11, { r with filters := [], acks := [15] }), (12, { r with acks := [], retire := [15] })] }
    let f : State := { s with threads := [(1, { thread [] with wait := .fetch 7 (own 0) none })], missing := [⟨7, 0, [], true⟩] }
    15 ∈ (getRevoke s 9).filters ∧ filtersAt s 15 < 32 ∧ 15 ∈ (getRevoke s 10).acks ∧ (getRevoke s 10).filters = [] ∧ (getRevoke s 10).acks.filter (· != 15) ≠ [] ∧
    spWf CoreSt.reset s.cores = true ∧ (getRevoke s 11).acks = [15] ∧ (getRevoke s 11).filters = [] ∧ accessOpen s (getRevoke s 11) 15 = false ∧
    (getRevoke s 12).retire = [15] ∧ (getRevoke s 12).acks = [] ∧ entriesLeft s (getRevoke s 12) 15 = false ∧ (getNode s 4).v = true ∧ (getNode s 4).dead = false ∧
    getKey s 1 1 = dirKey ∧ recordMissing s 3 = false ∧ dirKey.gen = (getNode s 3).gen ∧ nodeCached s 7 = false ∧
    f.missing = [⟨7, 0, [], true⟩] ∧ f.threads = [(1, getTh f 1)] ∧ (getTh f 1).wait = .fetch 7 (own 0) none := by decide

/-- READY with one partition of 16 MiB, and CCPARAM for one page in it. -/
def contexts : State :=
  { readied (regs []) with
    parts := [(0, { Partition.none with v := true, tenants := [0], cores := [0], memory := [(2 ^ 30, 2 ^ 24)] })]
    ctxs := [(0, { Ctx.none with live := true, root := 1 }), (2, { Ctx.none with live := true })]
    vf := { Vf.reset with ccparam := 1 } }

theorem witness_ContextEvents :
    let s := contexts
    let h : State := { s with threads := [(1, { thread [] with wait := .halted 0 })] }
    bit (regs []).pkg.pkst 8 = false ∧ bit s.pkg.pkst 8 = true ∧ (getCtx s 3).live = false ∧ (getCtx s 2).live = true ∧ ctxBusy s 2 = false ∧
    ctxBusy { s with ctxs := [(1, { Ctx.none with live := true })] } 1 = true ∧ freeCtx s = 1 ∧ (s.ctxs.filter fun x => x.2.live).length < 4096 ∧
    s.vf.ccparam.toNat % 2 ^ 24 ≠ 0 ∧ s.vf.ccparam.toNat / 2 ^ 52 % 2 ^ 6 = 0 ∧ (0 : Word).toNat % 2 ^ 24 = 0 ∧ (getPart s 0).v = true ∧ 0 ∈ (getPart s 0).tenants ∧
    spWf Thread.reset h.threads = true ∧ (getTh h 1).ctx = 1 ∧ (getTh h 1).wait = .halted 0 ∧ h.cycle = 0 ∧ ({ h with cycle := 5 } : State).cycle ≠ 0 := by decide

theorem getD_of_given {o : Option Nat} (h : ∃ n, o = some n) : o = some (o.getD 0) := by obtain ⟨n, rfl⟩ := h; rfl

theorem witness_ContextEvents_creates :
    let s := contexts
    let x : Tx := ⟨1, 1, 0, 0, 0, 0, 0, .host .pf⟩
    let root := (newNode s 0).getD 0
    let s1 := addNode root (freshNode s x 0 0) s
    let num := (newNode s1 0).getD 0
    newNode s 0 = some root ∧ newNode s1 0 = some num ∧
    ((allocPages (systemRanges s1) root 512 s1).bind fun a => (makeRegion x num (ofN 4096) 2 0 a.2).toOption).isSome = true :=
  ⟨getD_of_given (newNode_given (by decide)),
   getD_of_given (newNode_given (Nat.lt_of_le_of_lt (show (addNode _ _ contexts).nodes.length ≤ 8 from by
     unfold addNode; rw [spSet]; split
     · exact Nat.le_trans (spErase_length _ _) (by decide)
     · rw [spIns_length]; exact Nat.succ_le_succ (Nat.le_trans (spErase_length _ _) (by decide))) (by decide))),
   by decide +kernel⟩

/-! ### The vector unit (R157, R187, R193, R352 to R375) -/

/-- A thread with a vector window, x1 = a scratchpad address, x2 = a count. -/
def windowed : Thread := { thread [(1, own 0), (2, 5)] with vwin := true }

/-- Fields of a plain format V instruction. -/
def plain (ty : VTy) : VArgs := ⟨false, 3, 1, 2, ty, false, false, none, none⟩

/-- A queued command. -/
def command (op : VOp) (ty : VTy) : VCmd := ⟨op, plain ty, own 0, 5, 0, at_ 0, 0, 0, true⟩

/-- The machine whose core's vector queue is this. -/
def queued (es : List (Nat × VEntry)) : State := { machine { windowed with vout := 1 } with cores := [(0, { CoreSt.reset with vqueue := es })] }

set_option exponentiation.threshold 5000 in
theorem test_vadd_wraps : laneV (vectorOp (command .vadd .i8) { windowed with v := [(1, 0xFF), (2, 0x0302)] }).1 8 3 0 = 1 := by decide
set_option exponentiation.threshold 5000 in
theorem test_kset : getK (vectorOp { command .kset .q4 with p := 5 } windowed).1 3 = 0x1F := by decide

/-- Lane 0 and the last lane of each width; every lane operation and compare. -/
theorem witness_VectorResults : ([VOp.vadd, .vsub, .vmul, .vmulh, .vmin, .vmax, .vabs, .vmac, .vand, .vor, .vxor, .vsll, .vsr, .vmov].all fun op => (intLane (command op .i32)).isSome) = true ∧
    ([VOp.vceq, .vclt, .vcle].all fun op => (intTest (command op .i16)).isSome) = true ∧
    ([VOp.fadd, .fsub, .fmul, .fdiv, .ffma, .fabs, .fsqrt, .fexp2, .flog2, .frcp, .frsq].all fun op => (floatLane (command op .f16)).isSome) = true ∧
    (command .fadd .bf16).g.ty = .bf16 ∧ (command .fadd .f32).g.ty = .f32 ∧ 0 < 4096 / VTy.i32.width ∧ 127 < 4096 / VTy.i32.width ∧ ¬ 128 < 4096 / VTy.i32.width ∧
    (511 : Nat) < 4096 / VTy.i8.width ∧ ¬ 512 < 4096 / VTy.i8.width ∧ (command .kpop .q4).op = .kpop := by
  refine ⟨rfl, rfl, rfl, by decide, by decide, by decide, by decide, by decide, by decide, by decide, by decide⟩

theorem witness_VectorUnit :
    let c := command .vadd .i32
    let v := command .vld .i32
    let s := queued [(1, .cmd c), (2, .cmd v)]
    (getCore s 0).vqueue = (1, .cmd c) :: [(2, .cmd v)] ∧ memoryOp 1 c s = none ∧
    (getCore (queued [(1, .cmd v)]) 0).vqueue = (1, .cmd v) :: [] ∧ ((memoryOp 1 { v with qv := 0 } (queued [(1, .cmd v)])).map fun x => x.1) = some none ∧
    ((memoryOp 1 { v with p := mkAddr 3 0 } (queued [(1, .cmd v)])).map fun x => x.1.isSome) = some true ∧
    (getCore (queued [(1, .ended c 0x1F (some 7))]) 0).vqueue = (1, .ended c 0x1F (some 7)) :: [] ∧ c.last = true ∧
    ⟨3, 0, false, 0, 8, 0, 0, 0⟩ ∈ ({ windowed with late := [⟨3, 0, false, 0, 8, 0, 0, 0⟩] }).late ∧
    (getCore (queued [(1, .rep [c] 4096 4095)]) 0).vqueue = (1, .rep [c] 4096 4095) :: [] ∧ (4095 : Nat) < 4096 := by decide

theorem witness_VectorIssue :
    let f (p : Nat) : State := machine { windowed with vq := List.replicate p (0, .cmd (command .vadd .i32)) }
    (vecForm (.vaddInt (plain .i32))).isSome = true ∧ WellFormed (.vaddInt (plain .i32)) ∧ (vecForm (.vld (plain .i32))).isSome = true ∧ WellFormed (.vld (plain .i32)) ∧
    (cur (regs [])).vwin = false ∧ (cur (f 0)).vwin = true ∧ (cur (f 0)).capture = none ∧ 4 ≤ (cur (f 4)).vq.length ∧ (cur (f 3)).vq.length < 4 ∧ QueuesReady [1, 2] [] (f 0) ∧
    hostMiss (f 0) (whoOf (f 0) 1).unit (whoOf (f 0) 1).ctx (hdl (own 0)) = none ∧ UnitFree (f 0) ∧ (cur (f 0)).vq = [] ∧ (cur (f 0)).vout = 0 ∧ (cur (f 3)).vq ≠ [] ∧
    (({ windowed with capture := some ⟨2, [], 5⟩ } : Thread).capture.map fun c => c.left) = some 2 ∧ (maskForm (.kext false 1 2 3)).isSome = true ∧ (maskForm (.kset false 2 3)).isSome = true := by
  refine ⟨rfl, by decide, rfl, by decide, by decide, by decide, by decide, by decide, by decide, by unfold QueuesReady; decide, by decide, ⟨by decide, ?_, by decide⟩, by decide, by decide,
    by decide, by decide, rfl, rfl⟩
  decide

/-! ### Streams (R37 to R47, R341 to R347) -/

/-- SDESC: OP, members 2, number 3, TMO 9, NLAND 2, SLOTSZ 1. -/
def sdescBits (op : Nat) : Word := ofN (op * 2 ^ 60 + 3 * 2 ^ 45 + 9 * 2 ^ 29 + 2 * 2 ^ 20 + 2 * 2 ^ 16 + 2 ^ 12)

/-- A stream node 7 with this SDESC and cores 0 and 1; entry 1 of context 1 is it. x1 names it, x2 is a count or an address. -/
def streamed (op : Nat) (st : Stream) (x2 : Word) : State :=
  wrWord (wrWord { regs [(1, mkAddr 1 0), (2, x2)] with
      parts := [(0, { Partition.none with v := true, cores := [0, 1] })]
      nodes := [(7, { Node.none with v := true, kind := 5, gen := 1, owner := 1 })]
      keys := [(keyIdx 1 1, { KeyEntry.free with v := true, kind := 5, rights := 3, gen := 1, node := 7, limit := 4096 })]
      splits := [(0, 32)]
      streams := [(7, st)] }
    (nodeKey 7 8) (sdescBits op ^^^ ofN (8 * 2 ^ 29))) (nodeKey 7 0x110) 1

/-- A running stream of three members. -/
def running : Stream := { Stream.idle with v := true, op := 1, tmo := 9, nland := 2, slotsz := 1, members := [⟨0, 0, 1, 0, [], [], false⟩, ⟨1, 0, 1, 0, [], [], false⟩, ⟨2, 0, 1, 0, [], [], false⟩] }

def aChunk : Chunk := ⟨1, 0, 1, false, false, false, false, List.replicate 8 1⟩
def twoSent : Stream := { running with members := [⟨0, 0, 1, 0, [aChunk, aChunk], [], false⟩] }

theorem witness_StreamInstructions :
    let s1 := operandState [1, 2] (streamed 1 running 0x0000000800000000)
    let other := { running with members := [⟨5, 0, 1, 0, [], [], false⟩] }
    QueuesReady [1] [] s1 ∧ QueuesReady [1, 2] [] s1 ∧ ReachesStream s1 (mkAddr 1 0) needStream 7 ∧ ReachesStream s1 (mkAddr 1 0) needWr 7 ∧ LiveMember s1 7 0 ∧
    memberIndex (streamed 1 other 0) 7 = none ∧ memberIndex (streamed 1 Stream.idle 0) 7 = some 0 ∧ (getStream (streamed 1 Stream.idle 0) 7).v = false ∧
    2 ≤ ((getStream (streamed 1 twoSent 0) 7).member 0).send.length ∧ (running.member 0).send.length < 2 ∧ (running.member 0).rejoin = false ∧
    (running.member 0).next < 2 ^ 32 ∧ 2 ^ 32 ≤ ({ running.member 0 with next := 2 ^ 32 } : Member).next ∧ LocalSource s1 0 8 [ownPiece 0 8] ∧
    (createStream 7 1 (streamed 0 Stream.idle 0)).1 = 0 ∧ (createStream 7 1 (streamed 13 Stream.idle 0)).1 = -3 ∧ 13 ≤ sdescField (streamed 13 Stream.idle 0) 7 63 60 ∧
    (getStream s1 7).v = true ∧ (getNode s1 7).v = true ∧ (getNode s1 7).kind = 5 ∧ (getNode s1 7).arg = 0 := by
  refine ⟨by unfold QueuesReady; decide, by unfold QueuesReady; decide, ⟨by decide, ⟨0, 1, by decide, by decide⟩, by decide⟩, ⟨by decide, ⟨0, 1, by decide, by decide⟩, by decide⟩,
    by unfold LiveMember; decide, by decide, by decide, by decide, by decide, by decide, by decide, by decide, by decide, by unfold LocalSource; decide, by decide, by decide, by decide,
    by decide, by decide, by decide, by decide⟩

theorem witness_StreamTraffic :
    let st : Stream := { running with bufs := [(bufKey (station 0 1) 0, [aChunk])], quiet := [(bufKey (station 0 1) 1, 9 * 1024)] }
    let s := streamed 1 st 0
    let full := streamed 1 { st with bufs := [(bufKey (station 0 1) 0, [aChunk, aChunk])] } 0
    let froze := streamed 1 { st with frozen := true, dead := some 0, awaited := [1, 2] } 0
    (getStream s 7).v = true ∧ (getStream s 7).failed = false ∧ (getStream s 7).frozen = false ∧ (getStream s 7).op ≠ 0 ∧
    2 ≤ (spGet [] (getStream full 7).bufs (bufKey (station 0 1) 0)).length ∧ (spGet [] (getStream s 7).bufs (bufKey (station 0 1) 0)).length < 2 ∧
    aChunk.unm = false ∧ aChunk.split = false ∧ aChunk.data.length % 8 = 0 ∧ aChunk.data.length ≤ 4096 ∧ aChunk.rst = false ∧ aChunk.mark = false ∧ (getStream s 7).op ≠ 12 ∧
    (getStream s 7).silent (station 0 1) 1 = true ∧ (getStream s 7).silent (station 0 1) 0 = false ∧ 2 < (getStream s 7).members.length ∧ (getStream s 7).dead = none ∧
    (getStream froze 7).frozen = true ∧ (getStream froze 7).dead = some 0 ∧ 2 ∈ (getStream froze 7).awaited ∧ (getStream froze 7).awaited.filter (· != 2) ≠ [] ∧
    (getStream (streamed 1 { st with frozen := true, dead := some 0, awaited := [1] } 0) 7).awaited = [1] ∧
    landingWaits s 7 0 aChunk = false ∧ landingWaits (setFe s (scratchKey 0 0) true) 7 0 aChunk = true ∧
    (spGet [] ((getStream s 7).member 0).slots ((getStream s 7).slotOf 1)).getD 0 0 ≠ 1 + 1 ∧ 64 + aChunk.data.length ≤ (getStream s 7).slotsz * 4096 ∧
    landRuns s 7 ((getStream s 7).member 0) 64 8 = [ownPiece 64 8] ∧ landRuns s 7 ((getStream s 7).member 0) 0 8 = [ownPiece 0 8] ∧ (ownPiece 0 8).key % 8 = 0 ∧
    (ownPiece 0 8).key + 8 ≤ (ownPiece 64 8).key ∧ (∀ x ∈ wordsOf [ownPiece 64 8, ownPiece 0 8], spGet [] s.waits x = []) := by decide

/-! ### The matrix engine (R379 to R387) -/

/-- A descriptor of one band: A and B in the quadrant's scratchpad, K/32 = 1, both bf16, rows at 0x2000 of core 0. -/
def mmDesc : List Word :=
  [mkAddr 0xFFFF 0x1000000, mkAddr 0xFFFF 0x1000000, 0xC8000000, 0, 0, 0, 0, 0, 0x8000000000002000, 0, 0, 0, 0, 0, 0, 0, 0, 0, 0, 0, 0, 0, 0, 0]

/-- A machine with this memory whose thread waits for the engine. -/
def mmState (m : List Host.Cell) : State :=
  { machine { windowed with wait := .matrix 3 4 false } with
    parts := [(0, { Partition.none with v := true, cores := [0], qsp := List.replicate 16 8 })]
    mem := m }

theorem wrRun_mmState (bs : List Byte) : ∀ m key, ∃ m', wrRun (mmState m) key bs = mmState m' := by
  induction bs with
  | nil => exact fun m _ => ⟨m, rfl⟩
  | cons b bs ih => exact fun m key => ih (spSet memDefault m key b) (key + 1)

theorem afterWords_mmState (ws : List Nat) : ∀ m, ws.foldl afterWord (mmState m) = mmState m := by
  induction ws with
  | nil => exact fun _ => rfl
  | cons w ws ih => exact fun m => ih m

theorem store_mmState (p : Piece) (h : p.kind = 3) (bs : List Byte) (m : List Host.Cell) : ∃ m', storePieces 0 [p] bs (mmState m) = mmState m' := by
  obtain ⟨m', e⟩ := wrRun_mmState (bs.take p.len) m p.key
  have : wrPieces (homeStore 0 [p] (mmState m)) [p] bs = mmState m' := by
    have k : homeStore 0 [p] (mmState m) = mmState m := by simp [homeStore, ownPages, cLines, h, meetOthers, unleased]; rfl
    rw [k]; exact e
  have k : keepWritten 0 [p] (mmState m') = mmState m' := by simp [keepWritten, cLines, h]
  have c : cleanWords [p] (mmState m') = mmState m' := rfl
  exact ⟨m', by unfold storePieces afterWrite; rw [this, k, c]; exact afterWords_mmState _ _⟩

theorem localAt_mmState (m : List Host.Cell) : localAt (mmState m) = localAt (mmState []) := rfl

theorem localLevel_mmState (m : List Host.Cell) : localLevel (mmState m) = localLevel (mmState []) := rfl

theorem localRuns_mmState (m : List Host.Cell) (c rn ri : Nat) : ∀ f o n, localRuns (mmState m) c rn ri f o n = localRuns (mmState []) c rn ri f o n := by
  intro f
  induction f with
  | zero => exact fun _ _ => rfl
  | succ f ih =>
    intro o n
    cases n with
    | zero => rfl
    | succ n => simp only [localRuns, localAt_mmState m, ih]

theorem whoOf_mmState (m : List Host.Cell) : whoOf (mmState m) 1 = whoOf (mmState []) 1 := rfl

theorem rotOf_mmState (m : List Host.Cell) : rotOf (mmState m) = rotOf (mmState []) := rfl

theorem resolve_mmState (m : List Host.Cell) (w : Who) (a : Word) (n : Nat) (need : Need) (h : hdl a = 0xFFFF) :
    resolve (mmState m) w a n need = resolve (mmState []) w a n need := by
  unfold resolve
  simp only [h, if_true, rotOf_mmState m, localLevel_mmState m, localRuns_mmState m]

theorem refused_mmState (m : List Host.Cell) (p : Nat) (ps : List Piece) : refusedPiece (mmState m) p ps = refusedPiece (mmState []) p ps := rfl

theorem bad_mmState (m : List Host.Cell) (ps : List Piece) : badWord (mmState m) ps = badWord (mmState []) ps := rfl

theorem miss_mmState (m : List Host.Cell)  : hostMiss (mmState m) = hostMiss (mmState []) := rfl

/-- 64 bytes of the quadrant's scratchpad. -/
def quadPiece : Piece := ⟨quadKey 0 0, 64, 3, 0, 0⟩

theorem load_mmState (p : Piece) (h : p.kind = 3) (m : List Host.Cell) : loadPieces 0 [p] (mmState m) = (rdPieces (mmState m) [p], mmState m) := by
  have k : homeLoad 0 [p] (mmState m) = mmState m := by simp [homeLoad, ownPages, cLines, h, meetOthers, unleased]; rfl
  have r : rdCached (mmState m) 0 [p] = rdPieces (mmState m) [p] := by
    have hr : ∀ n key, (List.range n).map (fun i => rdByte (mmState m) (key + i)) = rdRun (mmState m) key n := by
      intro n
      induction n with
      | zero => exact fun _ => rfl
      | succ n ih =>
        intro key
        rw [List.range_succ_eq_map, List.map_cons, List.map_map, rdRun, ← ih (key + 1)]
        refine congrArg₂ List.cons rfl (List.map_congr_left fun i _ => ?_)
        simp only [Function.comp, Nat.succ_eq_add_one]
        congr 1
        omega
    simp [rdCached, cachedByte, h, rdPieces, upTo, hr]
  unfold loadPieces
  simp only [k, r]

theorem read_mmState (m : List Host.Cell) :
    mmRead 1 4 (mkAddr 0xFFFF 0x1000000) 64 (mmState m) = (.ok (rdPieces (mmState m) [quadPiece]), mmState m) := by
  have ha : hdl (mkAddr 0xFFFF 0x1000000) = 0xFFFF := by decide
  have hl : localLevel (mmState []) (whoOf (mmState []) 1).core (rotOf (mmState []) (whoOf (mmState []) 1).part (whoOf (mmState []) 1).tenant).1 (off (mkAddr 0xFFFF 0x1000000)) = 5 := by
    decide +kernel
  have hm : hostMiss (mmState []) (whoOf (mmState []) 1).unit (whoOf (mmState []) 1).ctx 0xFFFF = none := by decide +kernel
  have h : resolve (mmState m) (whoOf (mmState []) 1) (mkAddr 0xFFFF 0x1000000) 64 needRd = .ok (.mem [quadPiece]) := by
    rw [resolve_mmState m _ _ _ _ ha]; decide +kernel
  have hr : refusedPiece (mmState m) (whoOf (mmState []) 1).part [quadPiece] = none := by rw [refused_mmState]; decide +kernel
  have hb : badWord (mmState m) [quadPiece] = none := by rw [bad_mmState]; decide +kernel
  have hc : (whoOf (mmState []) 1).core = 0 := rfl
  simp only [mmRead, engineLoad, whoOf_mmState m, rotOf_mmState m, localLevel_mmState m, miss_mmState m, ha, hm, h, hr, hb, hc, load_mmState quadPiece rfl m]
  rfl

theorem run_mmState (m : List Host.Cell) : ∃ a, mmRun 1 4 (mkAddr 0xFFFF 0x1000000) 1 0 (mmState m) = (.ok a, mmState m) := by
  have h : offAdd (mkAddr 0xFFFF 0x1000000) (Int.ofNat 0) = some (mkAddr 0xFFFF 0x1000000) := by decide
  have hb : mmBlock 1 4 (mkAddr 0xFFFF 0x1000000) (mmState m) = (.ok ⟨none, (mmElems 4 (rdPieces (mmState m) [quadPiece])).1, false⟩, mmState m) := by
    unfold mmBlock
    rw [show mmUnit 4 = 64 from rfl, read_mmState m]
    rfl
  exact ⟨[⟨none, (mmElems 4 (rdPieces (mmState m) [quadPiece])).1, false⟩], by simp only [mmRun, h, hb, andThen]⟩

theorem columns_mmState (m : List Host.Cell) : ∀ n j, ∃ b, mmColumns 1 mmDesc n j (mmState m) = (.ok b, mmState m) := by
  intro n
  induction n with
  | zero => exact fun _ => ⟨[], rfl⟩
  | succ n ih =>
    intro j
    obtain ⟨c, hc⟩ := run_mmState m
    obtain ⟨cs, hs⟩ := ih (j + 1)
    refine ⟨c :: cs, ?_⟩
    have hc' : mmRun 1 (Desc.ty mmDesc true) (Desc.at mmDesc 8) (Desc.kb mmDesc) (j * bits (Desc.at mmDesc 0x18) 63 32) (mmState m) = (.ok c, mmState m) := by
      rw [show j * bits (Desc.at mmDesc 0x18) 63 32 = 0 from Nat.mul_zero j]; exact hc
    unfold mmColumns
    simp only [hc', hs, andThen]

theorem rows_mmState (m : List Host.Cell) (r : MmRun) (i : Nat) (hi : i < 16) : rowPieces (mmState m) { r with t := 1, d := mmDesc } 0 i = .ok [ownPiece (0x2000 + 512 * i) 512] := by
  have h : rowPieces (mmState m) { r with t := 1, d := mmDesc } 0 i = rowPieces (mmState []) ⟨1, 0, 0, 0, mmDesc, 0, 0, 0, none⟩ 0 i := by
    unfold rowPieces
    simp only [localRuns_mmState m]
    rfl
  rw [h]
  interval_cases i <;> decide +kernel

theorem row_mmState (r : MmRun) (i : Nat) (hi : i < 16) (m : List Host.Cell) :
    ∃ (r' : MmRun) (m' : List Host.Cell), mmRow { r with t := 1, d := mmDesc } 0 i (mmState m) = (.ok { r' with t := 1, d := mmDesc }, mmState m') := by
  obtain ⟨a, ha⟩ := run_mmState m
  obtain ⟨b, hb⟩ := columns_mmState m 128 0
  have hp := rows_mmState m r i hi
  have h1 : mmRun 1 (Desc.ty mmDesc false) (Desc.at mmDesc 0) (Desc.kb mmDesc) ((16 * 0 + i) * bits (Desc.at mmDesc 0x18) 31 0) (mmState m) = (.ok a, mmState m) := by
    rw [show (16 * 0 + i) * bits (Desc.at mmDesc 0x18) 31 0 = 0 from Nat.mul_zero _]; exact ha
  let k := rowCells { r with t := 1, d := mmDesc } (split 32 128 (leNum (rdPieces (mmState m) [ownPiece (0x2000 + 512 * i) 512]))) a b
  obtain ⟨m', hs⟩ := store_mmState (ownPiece (0x2000 + 512 * i) 512) rfl (bytes32 k.1) m
  refine ⟨{ r with rows := r.rows + 1, flags := r.flags ||| k.2 }, m', ?_⟩
  unfold mmRow
  simp only [h1, hb, hp, andThen, show Desc.acc mmDesc = false by decide, Bool.false_and, Bool.false_eq_true, if_false]
  exact congrArg (Prod.mk _) hs

/-- The descriptor's bytes. -/
def mmBytes : List Byte := mmDesc.flatMap fun w => leList 8 w.toNat

theorem fetch_mmState (m : List Host.Cell) (e : wrRun (mmState []) (scratchKey 0 64) mmBytes = mmState m) : engineLoad 1 (own 64) 192 (mmState m) = (.ok mmBytes, mmState m) := by
  have hr : resolve (mmState m) (whoOf (mmState m) 1) (own 64) 192 needRd = .ok (.mem [ownPiece 64 192]) := by
    rw [whoOf_mmState m, resolve_mmState m _ _ _ _ (by decide)]; decide +kernel
  have hd : rdPieces (mmState m) [ownPiece 64 192] = mmBytes := by
    have hl : rdRun (mmState m) (scratchKey 0 64) mmBytes.length = mmBytes := by rw [← e]; exact rdRun_wrRun_self _ _ _
    have hn : mmBytes.length = 192 := by decide +kernel
    rw [hn] at hl
    exact (List.append_nil _).trans hl
  have hf : refusedPiece (mmState m) (whoOf (mmState m) 1).part [ownPiece 64 192] = none := by rw [whoOf_mmState m, refused_mmState m]; decide +kernel
  have hg : badWord (mmState m) [ownPiece 64 192] = none := by rw [bad_mmState m]; decide +kernel
  have hm : hostMiss (mmState m) (whoOf (mmState m) 1).unit (whoOf (mmState m) 1).ctx (hdl (own 64)) = none := by
    rw [miss_mmState m, whoOf_mmState m]; decide +kernel
  simp only [engineLoad, hr, hf, hg, hm, show (whoOf (mmState m) 1).core = 0 from rfl, load_mmState (ownPiece 64 192) rfl m, hd]
  rfl

theorem desc_mmState (m : List Host.Cell) : descBad (mmState m) 1 0 mmDesc = none := by
  have : descBad (mmState m) 1 0 mmDesc = descBad (mmState []) 1 0 mmDesc := rfl
  rw [this]; decide +kernel

theorem status_mmState (m : List Host.Cell) (n : Nat) (v : Word) : ∃ m1, writeMmst ⟨1, 1, own 64, 0, mmDesc, n, 0, 0, none⟩ v (mmState m) = .ok (mmState m1) := by
  obtain ⟨m1, h1⟩ := store_mmState (ownPiece 104 8) rfl (leList 8 v.toNat) m
  refine ⟨m1, ?_⟩
  have hr : resolve (mmState m) (whoOf (mmState m) 1) (own 104) 8 needWr = .ok (.mem [ownPiece 104 8]) := by
    rw [whoOf_mmState m, resolve_mmState m _ _ _ _ (by decide)]; decide +kernel
  have ha : agentWrite (whoOf (mmState m) 1) (own 104) (leList 8 v.toNat) 0 (mmState m) = .ok (mmState m1) := by
    have hl : agentLate (mmState m) (whoOf (mmState m) 1) (own 104) = false := by unfold agentLate; split <;> rfl
    unfold agentWrite
    rw [show (leList 8 v.toNat).length = 8 from rfl, if_pos rfl, hr, hl]
    exact congrArg Except.ok h1
  unfold writeMmst
  rw [show offWrap (own 64) 0x28 = own 104 by decide, ha]

/-- The operation queued passes every check and starts. -/
theorem witness_MatrixResults_starts : ∃ m, let s := { mmState m with mmq := [(0, [(1, own 64, 0)])] }
    spGet none s.mmrun 0 = none ∧ mmQueue s 0 = (1, own 64, 0) :: [] ∧ (getTh s 1).wait = .matrix 3 4 false ∧ { atEngine 0 s with mmq := spSet [] s.mmq 0 [] } = mmState m ∧
    engineLoad 1 (own 64) 192 (mmState m) = (.ok mmBytes, mmState m) ∧ ((List.range 24).map fun i => wordAt mmBytes (8 * i)) = mmDesc ∧ descBad (mmState m) 1 0 mmDesc = none ∧
    ∃ s1, writeMmst ⟨1, (getTh s 1).uid, own 64, 0, mmDesc, 0, 0, 0, none⟩ (ofN (2 ^ 60)) (mmState m) = .ok s1 := by
  obtain ⟨m, e⟩ := wrRun_mmState mmBytes [] (scratchKey 0 64)
  obtain ⟨m1, h1⟩ := status_mmState m 0 (ofN (2 ^ 60))
  exact ⟨m, rfl, rfl, rfl, rfl, fetch_mmState m e, by decide +kernel, desc_mmState m, mmState m1, h1⟩

/-- A row is written, then the operation ends; with an arrival action in band 0 that is made first. A and an arrival word behind a handle that names
nothing fault. -/
theorem witness_MatrixResults_goesOn :
    let r (d : Desc) (n : Nat) : MmRun := ⟨1, 1, own 64, 0, d, n, 0, 0, none⟩
    let s (d : Desc) (n : Nat) : State := { mmState [] with mmrun := [(0, some (r d n))] }
    let bands := fun (d : Desc) => (List.range 8).filter fun g => bit (d.getD (8 + 2 * g) 0) 63
    let due := fun (d : Desc) => (bands d).filter fun g => (d.getD (8 + 2 * g) 0).toNat / 2 ^ 61 % 4 ≠ 0 && !(0 : Nat).testBit g
    let adds := (mmDesc.set 8 0xA000000000002000).set 9 (own 40)
    spGet none (s mmDesc 0).mmrun 0 = some (r mmDesc 0) ∧ (getTh (s mmDesc 0) 1).wait = .matrix 3 4 false ∧ (getTh (s mmDesc 0) 1).uid = 1 ∧
    { atEngine 0 (s mmDesc 0) with mmrun := spSet none (s mmDesc 0).mmrun 0 none } = mmState [] ∧ (bands mmDesc)[0 / 16]? = some 0 ∧
    (∃ r' s2, mmRow (r mmDesc 0) 0 0 (mmState []) = (.ok r', s2)) ∧ (mmRow (r (mmDesc.set 0 (mkAddr 7 0)) 0) 0 0 (mmState [])).1.toOption = none ∧ (r mmDesc 0).fault = none ∧
    16 * (bands mmDesc).length ≤ 16 ∧ due mmDesc = [] ∧ (due adds).head? = some 0 ∧ (mmArrive (r adds 16) 0 (mmState [])).isOk = true ∧
    (mmArrive (r (adds.set 9 (mkAddr 7 0)) 16) 0 (mmState [])).isOk = false ∧
    (∃ m1, writeMmst (r mmDesc 16) (mmDone (r mmDesc 16)) (mmState []) = .ok (mmState m1) ∧ (getTh (mmState m1) 1).wait = .matrix 3 4 false ∧ modeOf (getTh (mmState m1) 1) ≠ 2) ∧
    isQ 1 3 = false := by
  obtain ⟨r', m', h⟩ := row_mmState ⟨1, 1, own 64, 0, mmDesc, 0, 0, 0, none⟩ 0 (by decide) []
  obtain ⟨m1, h1⟩ := status_mmState [] 16 (mmDone ⟨1, 1, own 64, 0, mmDesc, 16, 0, 0, none⟩)
  exact ⟨rfl, rfl, rfl, rfl, by decide, ⟨_, _, h⟩, by decide +kernel, rfl, by decide, by decide, by decide, by decide +kernel, by decide +kernel, ⟨m1, h1, rfl, (by decide : modeOf (getTh (mmState []) 1) ≠ 2)⟩,
    by decide⟩

theorem witness_MatrixResults :
    let s := machine { windowed with x := [(1, own 64), (2, own 65), (4, 0x8000000000000100)] }
    (tl (cur s) = false ∧ tl (cur (machine { thread [] with thst := 1 })) = true ∧ (3 : BitVec 2) ≠ 2) ∧ QueuesReady [1] [3] s ∧ QueuesReady [] [3] s ∧
    (cur s).vwin = true ∧ (cur (regs [])).vwin = false ∧ (operand [1] s 1).toNat % 64 = 0 ∧ (operand [2] s 2).toNat % 64 ≠ 0 ∧ s.me < 16384 ∧
    hostMiss s (whoOf s 1).unit (whoOf s 1).ctx (hdl (own 64)) = none ∧ resolve (operandState [1] s) (whoOf s 1) (own 64) 192 needRw = .ok (.mem [ownPiece 64 192]) ∧
    descBad (mmState []) 1 0 (mmDesc.set 0 1) = some 0 := by
  unfold QueuesReady; decide +kernel

theorem witness_programAllowed : programAllowed 0x8000000000000100 ∧ ¬ programAllowed 0 := by
  refine ⟨⟨by decide, by decide, ?_⟩, fun h => absurd h.1 (by decide)⟩
  intro n h
  interval_cases n <;> unfold opAllowed <;> decide

/-! ### Power, bring-up and links (R13 to R20, R26, R31, R32, R64, R71, R126, R136) -/

/-- The machine after reset with this PKST. -/
def statused (v : Word) : State := { State.reset with pkg := { Pkg.reset with pkst := v } }

theorem witness_ResetAndBringUp : 6 ≤ pkst (statused 0x60) 7 4 ∧ pkst (statused 0x50) 7 4 < 6 ∧ (0x0010000000000000 : Word).getLsbD 52 = true ∧ (0 : Word).getLsbD 52 = false ∧
    (0x800 : Word).getLsbD 11 = true ∧ (statused 0).pkg.capSet ≠ (statused 0).cycle + 1 ∧ pkst (statused 0x200) 9 9 = 1 ∧ pkst (statused 0x10) 9 9 = 0 ∧
    (∀ n, n < 9 → pkst (statused (ofN (n * 16))) 7 4 = n) ∧ (0xFFFF : Word).toNat % 2 ^ 16 = 2 ^ 16 - 1 ∧ (0x7FFF : Word).toNat % 2 ^ 16 ≠ 2 ^ 16 - 1 := by decide
theorem witness_PowerAndSchedule :
    let s := statused 0x0008000000000010
    let p (q : Pkg) : State := { s with pkg := q }
    let t : Nat → Nat := fun n => (spGet 0 (p { s.pkg with tds := [(0, 0x94)] }).pkg.tds (n / 8)).toNat / 2 ^ (8 * (n % 8)) % 2 ^ 8
    s.pkg.stage1 = false ∧ (p { s.pkg with stage1 := true }).pkg.stage1 = true ∧ pkst s 51 48 = 8 ∧ pkst (statused 0x0001000000000000) 51 48 = 1 ∧ s.pkg.capNext = [] ∧
    (p { s.pkg with capNext := [(1000, 1)] }).pkg.capNext = [(1000, 1)] ∧ (p { s.pkg with capNext := [(1000, 2)] }).pkg.capNext = [(1000, 2)] ∧
    (p { s.pkg with tdctl := 7 }).pkg.tdctl.getLsbD 0 = true ∧ s.pkg.tdctl.getLsbD 0 = false ∧ pkst (statused 0x400) 10 10 = 1 ∧ pkst s 10 10 = 0 ∧
    128 ≤ t 0 ∧ 19 < t 0 % 32 ∧ (∀ n, n < 64 → ¬ 128 ≤ (spGet 0 s.pkg.tds (n / 8)).toNat / 2 ^ (8 * (n % 8)) % 2 ^ 8) ∧
    (115 ≤ max 115 20 ∧ max 114 20 < 115 ∧ 105 ≤ max 105 20 ∧ max 94 94 < 95 ∧ 95 ≤ max 95 20 ∧ max 104 20 < 105) ∧ max s.pkg.temp0 s.pkg.temp1 < 115 := by decide
theorem witness_LinksThatFail :
    let r : ErrRec := ⟨3, 4, false, false, 0, 0, false, 0, [], false⟩
    let s : State := { State.reset with errors := [r], ports := [(5, { Port.reset with up := true, good := 3, width := 4, held := [⟨.peer ⟨9, 5, 0, 0, 0⟩, 0, 0, []⟩] })] }
    State.reset.errors = [] ∧ (15, 14) ∉ State.reset.pkg.linkDown ∧ s.errors = [r] ∧ r.unit = 3 ∧ r.row = 4 ∧ r.lane = false ∧ r.state = 0 ∧ ({ r with state := 5 } : ErrRec).state = 5 ∧
    ({ r with lane := true } : ErrRec).lane = true ∧ 3 ≤ (spGet Port.reset s.ports 5).good ∧ (spGet Port.reset s.ports 4).good ≤ 2 ∧ (spGet Port.reset s.ports 5).up = true ∧
    (spGet Port.reset s.ports 4).held = [] ∧ (∀ x ∈ (spGet Port.reset s.ports 5).held, portOf x.fn = some 5) ∧ (5, 9) ∉ s.pkg.routeDown := by decide

/-! ### Graph queues (R105 to R120, R137 to R139) -/

/-- A record of one slot with no predecessor: kind 5, version 1, owner 1, and its check code. -/
def recordBytes (chk : Nat) : List Byte := leList 8 (5 + 2 ^ 8 + 2 ^ 40) ++ leList 8 (chk * 2 ^ 48) ++ List.replicate 112 0

/-- Queue 5 of context 1: eight slots in a region whose page is at 0x5000, its first record written. -/
def graphed (x : GQueue → GQueue) (g : Sp GNode) : State :=
  wrRun { regs [] with
      keys := [(keyIdx 1 2, { KeyEntry.free with v := true, kind := 1, rights := 3, limit := 4096, node := 3 })]
      nodes := [(3, { Node.none with v := true, kind := 1, limit := 4096 })]
      cores := [(1100, { CoreSt.reset with tlb := [⟨1, 2, 0, 3, 0x5000, 0⟩] })]
      queues := [(5, x { GQueue.none with v := true, graph := true, owner := 1, slots := 8, ring := mkAddr 2 0, tail := 1, accept := 3, gang := 5 })]
      gnodes := g }
    0x5000 (recordBytes (checkCode (recordBytes 0)).toNat)

def resident5 (q : GQueue) : GQueue := { q with resident := true }
def aRecord (kind npred : Nat) : Record := ⟨kind, 1, npred, 0, 0, 0, [], 0, 0, List.replicate 80 0⟩

/-- A status word of slot n, at 128 n + 16. -/
theorem status_at (s : State) (n : Nat) (h : statusPieces s 5 n = .ok [⟨0x5000 + 128 * n + 16, 8, 0, 3, 0⟩]) (hw : spGet [] s.waits ((0x5000 + 128 * n + 16) / 8) = []) :
    StatusAt s 5 n (0x5000 + 128 * n + 16) := ⟨_, h, rfl, rfl, by omega, hw⟩

set_option exponentiation.threshold 1100 in
theorem witness_GraphQueueResults :
    let s := graphed resident5 []
    let w := graphed id [(nodeAt 5 0, ⟨aRecord 5 1, 1, 0, 0, false⟩)]
    let r := graphed id [(nodeAt 5 0, ⟨aRecord 5 0, 3, 0, 0, false⟩)]
    fetchable s 5 = true ∧ recordAt s 5 (getQueue s 5).head = some (recordBytes (checkCode (recordBytes 0)).toNat, false) ∧ StatusAt s 5 0 0x5010 ∧
    recordFault s 5 0 (recordBytes (checkCode (recordBytes 0)).toNat) false = none ∧ recordFault s 5 0 (recordBytes 0) false = some 2 ∧
    statusField s 0x5010 51 40 = (decodeRecord (recordBytes 0)).npred ∧
    (getQueue s 5).v = true ∧ (getQueue s 5).graph = true ∧ posted (getQueue s 5) + ((7 : Word).toNat + 8 - (getQueue s 5).tail) % 8 < 8 ∧
    ¬ posted (getQueue s 5) + ((0 : Word).toNat + 8 - (getQueue s 5).tail) % 8 < 8 ∧ ¬ (8 : Word).toNat < (getQueue s 5).slots ∧
    gangFits (graphed id []) 5 15 63 = true ∧ gangFits (graphed id []) 5 16 0 = false ∧ gangFits s 5 0 0 = false ∧ spWf GQueue.none (graphed id []).queues = true ∧
    StatusAt w 5 0 0x5010 ∧ (getG w 5 0).phase = 1 ∧ (statusField w 0x5010 51 40 + 1) % 2 ^ 12 = (getG w 5 0).rec_.npred ∧ (getQueue w 5).resident = false ∧
    (getG r 5 0).phase = 3 ∧ (getG r 5 0).rec_.npred < (statusField r 0x5010 51 40 + 1) % 2 ^ 12 ∧ (getG s 5 0).phase = 0 ∧ statusField w 0x5010 39 39 = 0 := by
  refine ⟨by decide +kernel, by decide +kernel, status_at _ 0 (by decide +kernel) (by decide), by decide +kernel, by decide +kernel, by decide +kernel, by decide, by decide, by decide,
    by decide, by decide, by decide, by decide, by decide, by decide, status_at _ 0 (by decide +kernel) (by decide), by decide, by decide +kernel, by decide, by decide, by decide +kernel,
    by decide, by decide +kernel⟩

/-- A launch record: one thread at byte 0 of handle 0x100, on core 0. -/
def launchRecord : Record := { aRecord 1 0 with body := leList 8 0x0100000000000000 ++ leList 8 1 ++ leList 8 (2 ^ 21 + 2 ^ 10) ++ List.replicate 56 0 }

theorem witness_GraphNodeResults :
    let g (k : Nat) : GNode := ⟨aRecord k 0, 3, 0, 0, false⟩
    let s := graphed (fun q => { q with resident := true, ready := [0] }) [(nodeAt 5 0, { g 5 with phase := 2 })]
    let l := graphed id [(nodeAt 5 0, { g 1 with rec_ := launchRecord })]
    let p : State := { l with parts := [(0, { Partition.none with v := true, cores := [0] })] }
    let t : State := { graphed id [(nodeAt 5 0, { g 1 with phase := 1 })] with cycle := 2 ^ 33 }
    (getQueue s 5).ready = 0 :: [] ∧ (getQueue s 5).resident = true ∧ StatusAt s 5 0 0x5010 ∧ statusField s 0x5010 39 39 = 0 ∧
    statusField (wrWord s 0x5010 (2 ^ 39)) 0x5010 39 39 = 1 ∧ (getG s 5 0).rec_.runany = false ∧ (getG t 5 0).phase = 1 ∧ 2 ^ (getCtx t (getQueue t 5).owner).wdog < t.cycle - (getG t 5 0).began ∧
    (∀ k, k < 9 → (getG (graphed id [(nodeAt 5 0, g k)]) 5 0).rec_.kind = k) ∧ (getG l 5 0).phase = 3 ∧ (getG l 5 0).launch = 0 ∧ makeLaunch l 5 0 launchRecord = none ∧
    (makeLaunch p 5 0 launchRecord).isSome = true ∧ imageOk s 0 (List.replicate 8 0) = true ∧ imageOk s 0 [2 ^ 8] = false ∧
    (launchRecord.doneFill = false ∧ launchRecord.doneAdd = false) ∧ (getLaunch (launched (thread [])) 5).v = true ∧ (getLaunch (launched (thread [])) 5).next < 2 ^ 32 ∧
    (getLaunch (launched (thread [])) 5).xs.length ≤ 14 ∧ (wordAt ({ aRecord 7 0 with body := 1 :: List.replicate 79 0 } : Record).body 0).toNat % 2 ^ 6 = 0 + 1 := by
  refine ⟨by decide, by decide, status_at _ 0 (by decide +kernel) (by decide), by decide +kernel, by decide +kernel, by decide, by decide, by decide, by decide, by decide, by decide, by decide +kernel,
    by decide +kernel, by decide +kernel, by decide +kernel, by decide, by decide, by decide, by decide, by decide⟩

/-! ### Firmware, virtual functions, gangs, engines and media (R73 to R81, R100 to R103, R119 to R135, R161 to R167, R173 to R177, R400 to R402) -/

/-- Bytes as a sparse table. -/
def sparse (bs : List Byte) : Sp Byte := (List.range bs.length).filterMap fun i => let b := bs.getD i 0; if b = 0 then none else some (i, b)

/-- A machine with a message at the head of the inbound ring. -/
def mailed (bs : List Byte) (f : Fw → Fw := id) (s : State := hosted) : State := { s with fw := f { s.fw with hmitail := 1, inRing := sparse bs } }

/-- The message at the head as 64 bytes. -/
def msg (bs : List Byte) : List Byte := bs ++ List.replicate (64 - bs.length) 0

/-- A record of partition 0 with one tenant, no core and physical slice 0 alone. -/
def aPartition : List Byte := [0x20, 0, 1] ++ List.replicate 4093 0

/-- NODEREQ for a directory "b" in the directory that handle 1 names. -/
def nodereq : List Byte := [9, 0, 0, 0, 56, 0, 0, 0, 1, 0x62] ++ List.replicate 14 0 ++ [1]

theorem atHead (s : State) (bs : List Byte) (type : Nat) (h : s.fw.hmihead ≠ s.fw.hmitail) (ht : headType s = type) (hm : inMessage s s.fw.hmihead = msg bs) : AtHead s type (msg bs) := ⟨h, ht, hm.symm⟩

theorem nodereq_creates :
    ∃ v t, txCreate ⟨0, 0, 0, 0, 0, 0, 0, .host .pf⟩ ([1, 0, 0, 0, 0, 0, 0, 0] ++ ((msg nodereq).drop 8).take 16)
      ((List.range 4).map fun i => wordAt (msg nodereq) (24 + 8 * i)) (mailed nodereq) = .done v t :=
  txCreate_done (name := [0x62]) (d := dirKey) (make := fun _ => freshNode (mailed nodereq) ⟨0, 0, 0, 0, 0, 0, 0, .host .pf⟩ 0 0)
    (by decide +kernel) (by decide +kernel) (fun _ => rfl) (by decide +kernel) (by decide +kernel) (by decide +kernel) (by decide +kernel) (by decide +kernel) (fun _ => rfl)
    (by decide +kernel) (by decide +kernel)

theorem witness_FirmwareResults :
    let x : Tx := ⟨0, 0, 0, 0, 0, 0, 0, .host .pf⟩
    let part (o : Byte) : List Byte := [8, 1, 0, 0, 8, 0, 0, 0, 0, o]
    let other := { hosted with parts := [(1, { Partition.none with v := true, slices := [0] })] }
    AtHead (mailed [4, 0, 0, 0, 4, 0, 0, 0, 5, 0, 0x1F, 63]) 4 (msg [4, 0, 0, 0, 4, 0, 0, 0, 5, 0, 0x1F, 63]) ∧ AtHead (mailed [2, 0, 0, 0, 4, 0, 0, 0, 7]) 2 (msg [2, 0, 0, 0, 4, 0, 0, 0, 7]) ∧
    AtHead (mailed [5]) 0 (msg [5]) ∧ AtHead (mailed [11, 0, 0, 0, 3, 0, 0, 0, 0, 1, 2]) 11 (msg [11, 0, 0, 0, 3, 0, 0, 0, 0, 1, 2]) ∧
    AtHead (mailed [7, 1, 0, 0, 48, 0, 0, 0, 4]) 7 (msg [7, 1, 0, 0, 48, 0, 0, 0, 4]) ∧ AtHead (mailed [6, 1, 0, 0, 56, 0, 1]) 6 (msg [6, 1, 0, 0, 56, 0, 1]) ∧
    AtHead (mailed nodereq) 9 (msg nodereq) ∧ AtHead (mailed (part 0)) 8 (msg (part 0)) ∧ AtHead (mailed (part 1)) 8 (msg (part 1)) ∧
    field (msg [7, 1, 0, 0, 48, 0, 0, 0, 4]) 4 2 = 48 ∧ field (msg [7, 1, 0, 0, 48, 0, 0, 0, 4]) 8 4 % 4 = 0 ∧ field (msg [6, 1, 0, 0, 56, 0, 1]) 6 1 % 2 = 1 ∧
    defragOk { hosted with parts := [(0, { Partition.none with v := true, slices := [0, 1] })] } 0 1 2 = true ∧ (8 : Word).getLsbD 3 = true ∧
    (mailed nodereq).fw.waitReq = [] ∧ txHost (mailed nodereq) .pf false = .ok x ∧
    (∃ v t, txCreate x ([1, 0, 0, 0, 0, 0, 0, 0] ++ ((msg nodereq).drop 8).take 16) ((List.range 4).map fun i => wordAt (msg nodereq) (24 + 8 * i)) (mailed nodereq) =
      .done v t) ∧
    txCreate x ([1, 0, 0, 0, 0, 0, 0, 0] ++ List.replicate 16 0) [0, 0, 0, 0] hosted = .fail 5 0 ∧
    partLives named 0 = true ∧ partLives hosted 0 = false ∧ (getPart other 1).v = true ∧ field (msg (part 0)) 8 8 / 2 ^ 9 = 0 ∧ field (msg (part 1)) 9 1 % 2 = 1 ∧
    ((List.range 4096).map fun i => spGet 0 (sparse [0x20, 0, 1]) i) = aPartition ∧ recordOk 0 aPartition = true ∧ recordOk 1 aPartition = false ∧
    heldElsewhere hosted 0 (partitionOf aPartition) = false ∧ heldElsewhere other 0 (partitionOf aPartition) = true ∧ losesUsed hosted 0 (partitionOf aPartition) = false ∧
    (∃ n, newNode hosted 0 = some n) ∧ inboundWake (mailed nodereq) = .mailbox false ∧ (State.reset.fw.updst.getLsbD 0 = false ∧ State.reset.vf.vfstat.getLsbD 0 = false) ∧
    (0xB : Word).getLsbD 0 = true ∧ (33000000 : Nat) ≤ 33000000 := by
  refine ⟨atHead _ _ _ ?_ ?_ ?_, atHead _ _ _ ?_ ?_ ?_, atHead _ _ _ ?_ ?_ ?_, atHead _ _ _ ?_ ?_ ?_, atHead _ _ _ ?_ ?_ ?_, atHead _ _ _ ?_ ?_ ?_, atHead _ _ _ ?_ ?_ ?_, atHead _ _ _ ?_ ?_ ?_,
    atHead _ _ _ ?_ ?_ ?_, ?_, ?_, ?_, ?_, ?_, ?_, ?_, nodereq_creates, ?_, ?_, ?_, ?_, ?_, ?_, ?_, ?_, ?_, ?_, ?_, ?_, newNode_given (by decide), ?_, ?_, ?_, ?_⟩ <;>
    decide +kernel

theorem witness_ConfigurationResults :
    let e (v : Vf) : State := { statused 0x100 with vf := v, cycle := 1000000, pkg := { (statused 0x100).pkg with stage1 := true } }
    let b := { e { Vf.reset with vfstat := 1, disable := some 4096 } with ctxs := [(1, { Ctx.none with live := true })] }
    let q := { graphed (fun q => { q with graph := false, tail := 7 }) [] with nodes := [(3, { Node.none with v := true, kind := 1, limit := 4096 }), (8, { Node.none with v := true, kind := 2, arg := 5 })] }
    pkst (statused 0) 8 8 = 0 ∧ pkst (statused 0x100) 8 8 = 1 ∧ pkst (statused 0) 7 4 < 6 ∧ (0x00050003 : Word).toNat % 4 = 3 ∧ (e { Vf.reset with vfen := 1 }).vf.vfen.getLsbD 0 = true ∧
    (e Vf.reset).vf.vfstat.getLsbD 0 = false ∧ b.vf.disable = some 4096 ∧ b.vf.vfstat.getLsbD 0 = true ∧ (4096 : Word).toNat ≤ (gtime b).toNat ∧ 1 ∈ boundCtxs b ∧
    boundCtxs (e Vf.reset) = [] ∧ boundNodes (e Vf.reset) = [] ∧ (gtime b).toNat < (0x100000 : Word).toNat ∧
    (getNode q 8).v = true ∧ (getNode q 8).dead = false ∧ (getNode q 8).kind = 2 ∧ (getQueue q (getNode q 8).arg).graph = false ∧ 0xFC0 + 64 ≤ 0x1000 ∧
    ringPieces q (getQueue q 5) (128 * (getQueue q 5).tail) 8 needWr = .ok [⟨0x5380, 8, 0, 3, 0⟩] ∧ ringPieces q (getQueue q 5) (128 * (getQueue q 5).tail) 8 needRd = .ok [⟨0x5380, 8, 0, 3, 0⟩] ∧
    ringPieces q (getQueue q 5) (128 * (getQueue q 5).tail + 8) 120 needWr = .ok [⟨0x5388, 120, 0, 3, 0⟩] ∧ feOf q 0x5380 = false ∧ feOf (setFe q 0x5380 true) 0x5380 = true ∧
    (∀ w ∈ wordsOf [⟨0x5380, 8, 0, 3, 0⟩, ⟨0x5388, 120, 0, 3, 0⟩], spGet [] q.waits w = []) ∧ (getCtx q 1).tenant < 2 ^ 8 := by decide +kernel

theorem witness_GangsAndTravel :
    let g (c : Word) : State := { regs [] with
      gangs := [(0, ⟨0, c, 0⟩)], parts := [(0, { Partition.none with v := true, cores := [0], slices := [0, 1], rot := 1, slice := 1 })]
      keys := [(keyIdx 0 2, { KeyEntry.free with v := true, kind := 8, node := 8 })], nodes := [(8, { Node.none with v := true, kind := 8, limit := 2 ^ 30 })], cycle := 4096 }
    let busy := { g 0x20005 with threads := [(1, { thread [] with wait := .slotAsk })] }
    let r := { g 0x200000006 with saves := [(8, { Saved.none with v := true })] }
    let t := travelling { thread [] with wait := .settle (.depart (at_ 64) 0x7FFF) }
    let full := { travelling (thread []) with threads := (List.range 15).map fun k => (1 + k, thread []) }
    bit (getGang (g 0x20001) 0).gsctl 2 = false ∧ armFault (g 0x20001) 0 = false ∧ armFault (g 0x30001) 0 = true ∧ (getGang (g 0) 0).gstime.toNat ≤ (gtime (g 0)).toNat ∧
    switchTime (g 0x20001) 0 = false ∧ switchTime (g 0x20005) 0 = true ∧ bit (getGang (g 0x20005) 0).gsctl 0 = true ∧ gangRests (g 0x20005) 0 = true ∧ gangRests busy 0 = false ∧
    spWf Thread.reset (g 0x20005).threads = true ∧ saveArea (g 0x20005) 0 (bits (getGang (g 0x20005) 0).gsctl 31 16) = some 8 ∧ 1 ∈ threadsOf (g 0x20005) (gangCtxs (g 0x20005) 0) ∧
    switchTime r 0 = true ∧ saveArea r 0 (bits (getGang r 0).gsctl 47 32) = some 8 ∧ (spGet Saved.none r.saves 8).v = true ∧ (getPart (g 0) 0).rot ≠ 0 ∧
    (getPart (g 0) 0).began + 2048 * (getPart (g 0) 0).slice ≤ (g 0).cycle ∧ defragOk (g 0) 0 1 2 = true ∧ defragOk (g 0) 0 1 1 = false ∧
    (getTh t 1).wait = .settle (.depart (at_ 64) 0x7FFF) ∧ segOf t 1 (at_ 64) = some [0x100, 64, 64, 1, 0, 0, 0] ∧ settled t 1 = true ∧
    settled (travelling { thread [] with late := [⟨3, 0, false, 0, 8, 0, 0, 0⟩] }) 1 = false ∧ (getCore t 0).spilled = [] ∧ (getCore t 0).arrivals = [] ∧ lowestFree t 0 = some 2 ∧
    lowestFree full 0 = none ∧ (getCore full 0).arrivals.length < 16 ∧ 16 ≤ (List.replicate 16 (spawnParcel 0)).length := by decide +kernel

/-- A media stream node 9 of context 1 with EN, an ancillary format at 25 frames a second, and its status records in the region that handle 2 names. -/
def mediaed (ms : List MFrame) : State :=
  let s := { graphed id [] with
    nodes := [(3, { Node.none with v := true, kind := 1, limit := 4096 }), (9, { Node.none with v := true, kind := 5, arg := 1, arg2 := 1, owner := 1 })], media := ms
    ports := [(17, { Port.reset with up := true })] }
  wrWord (wrWord (wrWord (wrWord s (nodeKey 9 0) 1) (nodeKey 9 8) 0x0002000000000240) (nodeKey 9 0x28) (mkAddr 2 0)) (nodeKey 9 0x10) 0x8060138900000001

def aFrame : MFrame := ⟨9, 1, 3600, 0, 0, 0, false, 0, 0, 0, [], [], [], [], 0, 0, 0⟩

theorem witness_EnginesAndMedia :
    let e : State := { regs [] with nodes := [(10, { Node.none with v := true, kind := 3, arg := 63 })], harts := [(63, [(10, 1, [at_ 0, 1, 2, 3, 4])])] }
    let m := mediaed []
    let s1 := modNode m 9 fun n => { n with arg2 := 2 }
    let a := recordAddr (mediaWord m 9 8) (mediaWord m 9 0x28) 1
    (getNode e 10).v = true ∧ (getNode e 10).dead = false ∧ (getNode e 10).kind = 3 ∧ (getNode e 10).arg = 63 ∧ (kicks e 63).length < 16 ∧
    16 ≤ (kicks { e with harts := [(63, List.replicate 16 (10, 1, []))] } 63).length ∧ kicks e 63 = (10, 1, [at_ 0, 1, 2, 3, 4]) :: [] ∧ (getTh e (16384 + 63)).uid = 0 ∧
    ctxStopped e 1 = false ∧ (getCtx e 1).live = true ∧ (spGet Port.reset m.ports (17 + 0)).up = true ∧ (getNode m 9).kind = 5 ∧ (getNode m 9).arg = 1 ∧ (getNode m 9).v = true ∧
    (getNode m 9).dead = false ∧ mediaOn m 9 = true ∧ (getNode m 9).arg2 = 1 ∧ claimTime m (mediaWord m 9 8) 1 = true ∧
    recordState s1 9 a (mediaGroups (mediaWord m 9 8)) = some (false, List.replicate 8 0) ∧ (ingestWrite 9 (offWrap a 64) (List.replicate 8 0) 2 s1).isSome = true ∧
    (recordState (setFe s1 0x5080 true) 9 a (mediaGroups (mediaWord m 9 8))) = some (true, List.replicate 8 0) ∧ (mediaed [aFrame]).media = [aFrame] ∧
    aFrame.dline ≤ (gtime m).toNat ∧ (gtime m).toNat < ({ aFrame with dline := 1 } : MFrame).dline ∧
    (spKeys m.nodes).filter (fun n => mediaOn m n && pathMatches m n 0 ⟨1, 5001, 96, 3600, 0, true, []⟩) = [9] := by decide +kernel

/-! ### The machine as a whole (R6, R154, R257 to R272; logs 1, 2) -/

/-- x3 = x1 + x2 of R1's first encoding example, placed where the next step fetches. -/
def placed : State := State.reset.withFetchWord 32 0x00189001

theorem test_step_runs : ∃ t, step placed = .next t ∧ (getTh t 1).pc = mkAddr 0x100 4 ∧ xr (getTh t 1) 3 = 0 := ⟨_, rfl, by decide +kernel, by decide +kernel⟩

theorem witness_StepRunsDecoded_issue : MayIssue placed 1 [] ∧ Fetches (turnView 1 [] placed) 1 [0x01, 0x90, 0x18, 0x00] ∧
    decodeBytes [0x01, 0x90, 0x18, 0x00] = .ok (.add false 3 1 2 false, 4) ∧ ∃ r, decodeBytes [0, 0, 0, 0] = .error r :=
  ⟨⟨rfl, rfl, by decide +kernel, by decide +kernel, fun a h => (nomatch (show Wait.run = .settle a from h)), fun _ => rfl, .inl (by decide +kernel), by decide +kernel, by decide +kernel⟩,
    ⟨[0x01, 0x90, 0x18, 0x00], by decide +kernel, by decide +kernel, fun _ => rfl, fun h => absurd (by decide +kernel) h⟩, rfl, _, rfl⟩

/-- A completion whose address the host must first supply a node record for. -/
def unrecorded (held : List Miss) : State :=
  { graphed id [(nodeAt 5 0, ⟨{ aRecord 5 0 with flags := 2, doneA := mkAddr 0x101 0 }, 3, 0, 0, false⟩)] with
    keys := [(keyIdx 1 0x101, { KeyEntry.free with v := true, kind := 1, rights := 3, limit := 4096, node := 3 })]
    fw := { Fw.reset with duty := 1 }, missing := held, pending := [.nodeComplete 5 0 ⟨0, 0⟩] }

theorem witness_StepRunsDecoded :
    let p := State.reset
    let e : State := { p with pending := [.ptpHoldover, .frameBoundary], cycle := 2048, pkg := { p.pkg with stage1 := true } }
    let m : State := machine (thread [])
    let w := whoOf placed 1
    let port (t : Bool) : State := { p with ports := [(16, { Port.reset with up := true, training := t })] }
    travels (getTh placed 1) = false ∧ hostMiss placed w.unit w.ctx 0x100 = none ∧ resolve placed w (mkAddr 0x100 0) 4 needEx = .ok (.mem [⟨codePage, 4, 0, 16, 1⟩]) ∧
    refusedPiece placed w.part [⟨codePage, 4, 0, 16, 1⟩] = none ∧ badWord placed [⟨codePage, 4, 0, 16, 1⟩] = none ∧ travels (getTh (travelling (thread [])) 1) = true ∧
    (getCore (travelling (thread [])) (coreOf 1)).segment = some (5, 0, false) ∧ p.pkg.powered = true ∧ p.turns = [] ∧
    e.pending[1]? = some .frameBoundary ∧ eventEnabled { e with turns := [] } .frameBoundary = true ∧ agentMiss { e with turns := [], pending := [.ptpHoldover] } .frameBoundary = none ∧
    eventEnabled (unrecorded []) (.nodeComplete 5 0 ⟨0, 0⟩) = true ∧ agentMiss { unrecorded [] with pending := [] } (.nodeComplete 5 0 ⟨0, 0⟩) = some (3, 1) ∧
    (Instr.coldReset).isEvent = true ∧ fromOutside p .coldReset = true ∧ portShut p .coldReset = false ∧ portHolds p .coldReset = false ∧ eventReady p .coldReset = true ∧
    agentMiss p .coldReset = none ∧ fromOutside p .frameBoundary = false ∧ (Instr.frameBoundary).isEvent = true ∧ portShut p (.ccCreate .pf) = true ∧
    fromOutside (port true) (.ccCreate .pf) = true ∧ portShut (port true) (.ccCreate .pf) = false ∧ portHolds (port true) (.ccCreate .pf) = true ∧ cycleOver p = true ∧ cycleOver m = false ∧
    firstEnabled e = some 0 ∧ agentMiss { e with pending := [.frameBoundary] } .ptpHoldover = none ∧ firstEnabled p = none ∧ nextIssuer p = none ∧ firstEnabled m = none ∧
    nextIssuer { m with cycle := 1 } = some 1 ∧ ({ p with pkg := { p.pkg with powered := false } } : State).pkg.powered = false := by decide +kernel

/-- The largest and smallest operands of each scalar shape. -/
theorem witness_ScalarEncodingsDecode : ∀ i ∈ [Instr.add true 15 15 15 true, .liK true 15 0xFFFFFFFFFFFFFFFF, .jX true 0xFFFFFFFF 0x7FFF, .ldX true 15 15 .d64 0xFFFFFFFF, .lp true 15 16383,
      .lp false 0 1, .ctlRd true 15 0 0, .putFill true 14 15 15, .pjRd true 15 0, .sel true 15 15 15], i.wellFormed = true ∧ i.isEvent = false ∧ i.vrow = none := by
  intro i h
  simp only [List.mem_cons, List.not_mem_nil, or_false] at h
  rcases h with rfl | rfl | rfl | rfl | rfl | rfl | rfl | rfl | rfl | rfl <;> refine ⟨rfl, rfl, rfl⟩

theorem witness_VectorEncodingsDecode : (Instr.vaddFltX ⟨true, 15, 15, 15, .f32, false, false, some ⟨0, 0, 0, 0, true, 3, 5, false, 0⟩, none⟩).vrow.isSome = true ∧
    (Instr.vaddFltX ⟨true, 15, 15, 15, .f32, false, false, some ⟨0, 0, 0, 0, true, 3, 5, false, 0⟩, none⟩).wellFormed = true ∧
    (Instr.vaddInt ⟨false, 0, 0, 0, .i32, false, false, none, none⟩).wellFormed = true := ⟨rfl, rfl, rfl⟩

theorem witness_MemoryStaysCanonical : MemoryCanonical placed ∧ ∃ t, step placed = .next t := ⟨by unfold MemoryCanonical; decide +kernel, _, rfl⟩

/-! ### The remaining clauses: travelling threads, waits, refusals and both sides of each bound -/

/-- A travelling thread at the last word of its segment, in a loop. -/
def lastWord (x : Sp Word := []) : Thread := { thread x with pc := at_ 60, lstk := [(1, 1)] }

/-- Going on past an instruction is a travel fault at the segment's last word with a loop in use (TrapsAt); a target outside a segment is misaligned. -/
theorem witness_travelFaults : seqFault (regs []) 4 = none ∧ seqFault (regs []) 12 = none ∧ seqFault (travelling (lastWord [])) 4 = some (1, at_ 64) ∧
    seqFault (travelling { lastWord [] with pc := at_ 52 }) 4 = none ∧ seqFault (travelling { lastWord [] with pc := at_ 52 }) 12 = some (1, at_ 64) ∧
    leaves (regs []) 1 (at_ 9) = false ∧ leaves (travelling (lastWord [])) 1 (at_ 65) = true ∧ leaves (travelling (lastWord [])) 1 (at_ 9) = false ∧ (at_ 9).toNat % 4 ≠ 0 ∧
    QueuesReady [1, 2] [3] (travelling (lastWord [])) := by unfold QueuesReady; decide
theorem witness_AaddResults_travels : QueuesReady [1, 2] [3] (travelling (lastWord [(1, 0x0100000000000000), (2, 0xFFFFFFFFFFFFFFFF)])) ∧
    ((operand [1, 2] (travelling (lastWord [(1, 0x0100000000000000), (2, 0xFFFFFFFFFFFFFFFF)])) 1).toNat % 2 ^ 48 : Nat) +
      (operand [1, 2] (travelling (lastWord [(1, 0x0100000000000000), (2, 0xFFFFFFFFFFFFFFFF)])) 2).toInt = (-1 : Int) := by unfold QueuesReady; decide
theorem witness_TrapReturn_misaligned :
    let th : Thread := { thread [] with thst := 0x08200001, tepc := at_ 33, tvec := at_ 128 }
    tl th = true ∧ th.tepc.toNat % 4 ≠ 0 ∧ leaves (machine th) 1 th.tepc = false ∧ leaves (machine th) 1 th.tvec = false := by decide

/-- Slot 0 with a late word for q0, whose outbound queue is full, held for n running cycles. -/
def heldWord (w : Wait) (k : Nat) : State :=
  { regs [] with
    me := 0
    threads := [(0, { thread [] with wait := w, wcount := 2 ^ 32, late := [⟨8, 0, true, 7, 0, 0, 0, k⟩] })]
    cores := [(0, { CoreSt.reset with outq := [(0, [1, 2, 3, 4, 5, 6, 7, 8])] })] }

theorem witness_TimeAndLateResults_held :
    let s (n : Nat) : State := heldWord .marker n
    let q (n : Nat) : State := heldWord (.queueReg 8 false) n
    (getTh (s 0) 0).wait = .marker ∧ (getTh (s 0) 0).late = [⟨8, 0, true, 7, 0, 0, 0, 0⟩] ∧ isQ 0 8 = true ∧ 8 ≤ (outq (s 0) 0 8).length ∧ isHart 0 = false ∧
    wdogPeriod (s 0) 0 ≤ 2 ^ 32 ∧ 2 ^ 32 - 1 < wdogPeriod (s 0) 0 ∧ stallOf (getTh (q 0) 0).wait = some (5, 0) ∧
    stallCount (getTh (q 5) 0) = 5 ∧ stallCount (getTh (q (2 ^ 32)) 0) = 2 ^ 32 ∧ stallCount { getTh (q 5) 0 with late := [] } = 2 ^ 32 := by decide

theorem witness_WordWaits_first : (∀ k o x i f n, (cur atWord).wait ≠ .retry k o x i f n) ∧ underTest (operandState [1] (reserved 2)) [ownPiece 40 8] = false ∧
    seqFault atWord 4 = none ∧ seqFault (reserved 2) 12 = none := by refine ⟨fun _ _ _ _ _ _ => (nomatch ·), by decide, by decide, by decide⟩

/-- A load of a C line: its bytes are those that the core's copy holds after it. -/
theorem witness_LoadStoreResults_lines : (∀ p ∈ [ownPiece 40 8], p.kind ≠ 2) ∧ underTest atWord [ownPiece 40 8] = false ∧
    (⟨64, 8, 2, 0, 0⟩ : Piece).kind = 2 ∧ (rdCached (homeLoad 0 [⟨64, 8, 2, 0, 0⟩] (regs [])) 0 [⟨64, 8, 2, 0, 0⟩]).length = 8 := by decide

/-- The machine whose core 0 and quadrant hold these copies of line 3. -/
def lined (own near : CachedLine) : State :=
  { regs [] with cores := [(0, { CoreSt.reset with pts := 5, leases := spSet CachedLine.none [] 3 own })], l2 := spSet CachedLine.none [] (l2Key 0 3) near }

/-- A lease that lasts, one that has ended, and none, in the core and in its quadrant's L2; polls before, at and after their time. -/
theorem witness_LatchesAndLines_copies :
    let live : CachedLine := ⟨5, 1, [7]⟩
    let old : CachedLine := ⟨4, 0, [7]⟩
    let own := fun (s : State) => spGet CachedLine.none (getCore s 0).leases 3
    let near := fun (s : State) => spGet CachedLine.none s.l2 (l2Key 0 3)
    own (lined live old) = live ∧ (getCore (lined live old) 0).pts = 5 ∧ own (lined old live) = old ∧ near (lined old live) = live ∧ own (lined CachedLine.none old) = CachedLine.none ∧
    CachedLine.none.data = [] ∧ CachedLine.none.lease = 0 ∧ 0 < old.lease ∧ old.wts = (lineTimes (lined old old) 3).wts ∧ live.wts ≠ (lineTimes (lined live old) 3).wts ∧
    ({ thread [] with wait := .retry 5 .take (Sys2Proof.Tests.own 40) 64 0 64, wcount := 64 }).wcount = 64 := by decide

theorem test_join_completes : seen (exec (.join false 1) (regs [(1, own 40)])) (fun t => ((cur t).pc, (cur t).wait)) = some (at_ 4, .run) := by decide
theorem test_exit_completes : (match exec (.exit false) (regs []) with | .next t => (getTh t 1).uid | _ => 1) = 0 := by decide
theorem witness_JoinAndExitComplete :
    let s := regs [(1, own 40)]
    QueuesReady [1] [] s ∧ (operand [1] s 1).toNat % 8 = 0 ∧ ReachesMemory (operandState [1] s) (operand [1] s 1) 8 needRd false false (ownPiece 40 8 :: []) ∧
    rdWord s (ownPiece 40 8).key = 0 ∧ spGet [] s.waits ((ownPiece 40 8).key / 8) = [] ∧ modeOf (cur s) ≠ 2 ∧ ¬ EndsLoop (cur s) (cur s).pc (nextAddr (cur s).pc 4) ∧
    isHart s.me = false ∧ (cur s).capture = none ∧ (cur s).late = [] ∧ (cur s).vq = [] ∧ (cur s).vout = 0 := by unfold QueuesReady ReachesMemory EndsLoop; decide

/-- Reservations of a launch that spawns, of one at its CAP or past its MAXTID, and of a spawnc that waits for its answer. -/
theorem witness_MovesAndSlots_spawns :
    let l (c m : Nat) : State :=
      { launched (thread []) with launches := [(5, { Launch.none with v := true, ctx := 1, cores := [0], mode := 2, live := 3, ids := 3, cap := c, maxtid := m })] }
    let s := raisePts spawnAsk.core spawnAsk.pts (launched (thread []))
    let x := getLaunch (l 4 3) 5
    let y := getLaunch (l 3 2) 5
    spawnAsk.body = some (spawnParcel 0) ∧ spawnAsk.kind = .spawn ∧ slotClaimed s 1 = false ∧ heldByTravel s 1 5 = false ∧ lowestFree s 1 = some 1 ∧
    (getLaunch s 5).mode ≠ 2 ∧ x.mode = 2 ∧ x.owed < x.cap ∧ x.ids ≤ x.maxtid ∧ ¬ y.owed < y.cap ∧ ¬ y.ids ≤ y.maxtid ∧ askWaits s spawnAsk = false ∧
    askWaits (launched { thread [] with wait := .slotAsk }) spawnAsk = true ∧ ({ spawnAsk with body := none, kind := .go } : SlotAsk).kind ≠ .spawn := by decide
theorem witness_SpawnsAndForks_answers : MaySpawnOn (operandState [1, 2] (launched { thread [(1, at_ 64), (2, 1)] with wait := .slotReply (some 7) })) 1 ∧
    ({ thread [] with wait := .slotReply (some 7) }).wait = .slotReply (some 7) ∧ ({ thread [] with wait := .slotReply none }).wait = .slotReply none ∧
    (∀ r, (thread []).wait ≠ .slotReply r) ∧ leaves (travelling (lastWord [])) 1 (at_ 66) = true ∧ leaves (launched (thread [])) 1 (at_ 65) = false := by
  refine ⟨by unfold MaySpawnOn; decide, rfl, rfl, fun _ => (nomatch ·), by decide, by decide⟩

/-- Entries that are being closed; a transaction that must wait with a travel fault ahead of it. -/
theorem witness_NameTransactions_closing : closing named 1 1 = false ∧ closing { named with revokes := [(9, ⟨.close 1 1, 3, 0, .thread 1, [0], [], []⟩)] } 1 1 = true ∧
    engineGen named 3 = 1 ∧ dirKey.gen = engineGen named dirKey.node ∧ ({ dirKey with gen := 0 } : KeyEntry).gen ≠ engineGen named 3 ∧ recordMissing named 3 = false := by decide
theorem witness_NameInstructions_waits : (∃ rid s2, txClose (txOf named) 1 named = .wait rid s2) ∧ seqFault named 4 = none ∧ seqFault (travelling (lastWord [])) 4 = some (1, at_ 64) :=
  ⟨⟨_, _, rfl⟩, by decide, by decide⟩

/-- The host's port up, down and in training; a function of firmware at a tenant's node and at the system's. -/
theorem witness_HostRequests_ports :
    let p (u t : Bool) : State := { hosted with ports := [(16, { Port.reset with up := u, training := t })] }
    portOf .pf = some 16 ∧ portOf (.vf 127) = some 16 ∧ portOf (.peer ⟨1, 5, 0, 0, 0⟩) = some 5 ∧ portOf .policy = none ∧ (spGet Port.reset (p true false).ports 16).up = true ∧
    (spGet Port.reset (p true false).ports 16).training = false ∧ (spGet Port.reset (p false false).ports 16).up = false ∧ fwDenied hosted .pf 4 needWr = false ∧
    fwDenied { hosted with nodes := [(4, { Node.none with v := true, owner := 1 })] } .policy 4 needWr = true ∧ fwDenied hosted .policy 4 needWr = false ∧
    (0 : BitVec 2) ≠ 3 ∧ (2 : BitVec 2) ≠ 3 ∧ ([⟨0x5000, 8, 0, 4, 1⟩] : List Piece).headD ⟨0, 0, 0, 0, 0⟩ = ⟨0x5000, 8, 0, 4, 1⟩ ∧
    (refusedPiece { hosted with filters := (List.range 16).map fun q => ⟨q, 4, 2, 9⟩ } 0 [⟨0x5000, 8, 0, 4, 1⟩]).isSome = true := by
  decide +kernel

/-- Both modes of a node-cache miss, the outbound ring with room and full, and a name instruction that waits at component 2. -/
theorem witness_RevocationsAndMisses_both :
    let w : Wait := .fetch 7 (own 0) (some (3, true, 2))
    let f : State := { named with threads := [(1, { thread [] with wait := w })], missing := [⟨7, 0, [], true⟩] }
    nodeCached named 7 = false ∧ (∀ m ∈ named.missing, m.node ≠ 7) ∧ (named.fw.hmotail + 1) % 512 ≠ named.fw.hmohead ∧ ({ Fw.reset with hmotail := 511 }.hmotail + 1) % 512 = Fw.reset.hmohead ∧
    (getTh f 1).wait = w ∧ f.threads = [(1, getTh f 1)] ∧ f.missing = [⟨7, 0, [], true⟩] ∧ nodeCached f 7 = false ∧ dirKey.gen = engineGen named dirKey.node := by decide
theorem witness_ContextEvents_keyCore :
    let s : State := { contexts with ctxs := [(0xFFFF, { Ctx.none with live := true }), (3, { Ctx.none with live := true })] }
    bit s.pkg.pkst 8 = true ∧ (getCtx s 0xFFFF).live = true ∧ (getCtx s 3).live = true ∧ (3 : Nat) ≠ 0 ∧ (3 : Nat) ≠ 0xFFFF ∧ (0 : Nat) = s.cycle ∧ (7 : Nat) ≠ s.cycle := by decide
/-- Flags that retire in the cycle of a write of THST, and after it. -/
theorem witness_VectorUnit_flags : ({ windowed with thstAt := 1 }).thstAt = State.reset.cycle + 1 ∧ windowed.thstAt ≠ State.reset.cycle + 1 := by decide

/-- A stream of two members, on core 0 and another, as its creation leaves it where every station has the buffers. -/
def made (core : Nat) : State :=
  let st : Stream := { Stream.idle with v := true, num := 3, op := 1, tmo := 9, nland := 2, slotsz := 1, members := [⟨0, 0, 1, 0, [], [], false⟩, ⟨core, 0, 1, 0, [], [], false⟩] }
  match (placeStations st st.stations).bind fun at_ => installEntries 7 st at_ (streamed 1 Stream.idle 0) with
  | some (x, s) => setStream s 7 x
  | none => State.reset

/-- A created stream of two members on cores 0 and 1 of one cluster. -/
def created : State := made 1

theorem witness_StreamInstructions_created : (createStream 7 1 (streamed 0 Stream.idle 0)).1 = 0 ∧ (getStream created 7).entries ≠ [] ∧ underTest created [ownPiece 0 8] = false := by
  decide +kernel
theorem witness_StreamTraffic_inputs :
    let st := getStream created 7
    st.v = true ∧ st.failed = false ∧ st.frozen = false ∧ st.op ≠ 0 ∧ hasInput created 7 (station 0 1) 0 = true ∧ hasInput created 7 (station 0 1) 1 = true ∧
    hasInput created 7 (station 0 1) 2 = false ∧ hasInput created 7 (station 4 5) 0 = false ∧ 0 < st.members.length ∧ st.dead = none ∧
    noAlternative created st 0 = false ∧ noAlternative { created with routers := created.routers.map fun e => (e.1, { e.2 with sets := [0, 0, 0, 0] }) } st 0 = true := by decide +kernel

/-- A stream of members on cores 0 and 64, whose chunks cross the global link 0 of quadrant 0. -/
def spread : State := made 64

/-- A stream that a global link carries; a route that is down; a lane and a row under test, once and twice. -/
theorem witness_LinksThatFail_streams :
    (0, 0) ∉ spread.pkg.linkDown ∧ ((getStream spread 7).lost fun p => crosses p 0 1) ≠ [] ∧ spread.streams ≠ [] ∧ (getStream spread 7).v = true ∧ (5, 9) ∉ State.reset.pkg.routeDown ∧
    State.reset.journal = [] ∧ (⟨3, 4, false, false, 5, 0, false, 0, [], false⟩ : ErrRec).state = 5 ∧ (⟨3, 4, true, false, 0, 0, false, 0, [], false⟩ : ErrRec).lane = true := by decide +kernel
theorem witness_ResetAndBringUp_stages : ∀ n ∈ [1, 4, 5, 6, 7], pkst (statused (ofN (n * 16))) 7 4 = n ∧ pkst (statused (ofN (n * 16))) 9 9 = 0 := by decide
theorem witness_PowerAndSchedule_frames :
    let s (n : Nat) : State := { State.reset with cycle := n, pkg := { Pkg.reset with stage1 := true, activity := 1 } }
    (s 4096).pkg.stage1 = true ∧ ((s 4096).pkg.activity + 1) * 2048 ≤ (s 4096).cycle ∧ (s 4095).cycle < ((s 4095).pkg.activity + 1) * 2048 ∧ pkst (s 0) 51 48 = 8 ∧
    pkst (statused 0) 8 8 = 0 ∧ pkst (statused 0x100) 8 8 = 1 ∧ (HostFn.vf 3) ≠ .pf := by decide

/-- What the key core finds of a new record: live contexts that lose a slice, and no key storage left, however much the device has. -/
def losing : State :=
  { named with parts := [(0, { Partition.none with v := true, slices := [5] })], fw := hosted.fw, pkg := hosted.pkg }
def filled : State := { hosted with parts := (List.range (Config.keyStorage)).map fun i => (i + 1, { Partition.none with v := true }) }
theorem witness_FirmwareResults_records : losesUsed losing 0 (partitionOf aPartition) = true ∧ heldElsewhere losing 0 (partitionOf aPartition) = false ∧ (getPart losing 0).v = true ∧
    partLives losing 0 = true ∧ (getPart { hosted with parts := losing.parts } 0).v = true ∧ partLives { hosted with parts := losing.parts } 0 = false := by decide +kernel
theorem filled_part : getPart filled 0 = Partition.none := by
  have : ∀ (n : Nat) (v : Partition), spGet Partition.none ((List.range n).map fun i => (i + 1, v)) 0 = Partition.none := by
    intro n v
    have h : ∀ l : List Nat, spGet Partition.none (l.map fun i => (i + 1, v)) 0 = Partition.none := by
      intro l; induction l with
      | nil => rfl
      | cons a l ih => simpa [spGet] using ih
    exact h _
  exact this _ _
theorem witness_FirmwareResults_full : storageFull filled = true ∧ (getPart filled 0).v = false ∧ heldElsewhere filled 0 (partitionOf aPartition) = false ∧
    losesUsed filled 0 (partitionOf aPartition) = false := by
  refine ⟨?_, by rw [filled_part]; rfl, ?_, ?_⟩
  · simp [storageFull, filled, List.filter_map, Function.comp_def]
  · simp [heldElsewhere, filled, Partition.none]
  · simp only [losesUsed, filled_part]; rfl

/-- A NODEREQ in a directory whose record the host keeps. -/
def keptByHost : State := { mailed nodereq with fw := { (mailed nodereq).fw with duty := 1 } }
theorem witness_FirmwareResults_miss : (keptByHost.fw.waitReq.find? fun r => !(keptByHost.missing.any (·.node == r.1))) = none ∧
    (match txCreate ⟨0, 0, 0, 0, 0, 0, 0, .host .pf⟩ ([1, 0, 0, 0, 0, 0, 0, 0] ++ ((msg nodereq).drop 8).take 16) ((List.range 4).map fun i => wordAt (msg nodereq) (24 + 8 * i)) keptByHost with
      | .miss _ _ => true | _ => false) = true ∧ AtHead keptByHost 9 (msg nodereq) := by
  refine ⟨rfl, by decide +kernel, atHead _ _ _ (by decide +kernel) (by decide +kernel) (by decide +kernel)⟩
/-- Wakes in and out of an update, a message for each core, each phase of an update, and a heartbeat at its last cycle and past it. Whether a slot is signed, its
security version and what an image accepts are free values: one of the two sides holds. -/
theorem witness_FirmwareResults_updates :
    let u (p : Nat) : State := { hosted with fw := { hosted.fw with updst := ofN (2 * p + 1) } }
    (u 1).fw.updst.getLsbD 0 = true ∧ hosted.fw.updst.getLsbD 0 = false ∧ inboundWake (mailed [6, 1, 0, 0, 56, 0, 1]) = .mailbox true ∧ inboundWake (mailed [4, 0, 0, 0]) = .mailbox false ∧
    (∀ p, p < 6 → (u p).fw.updst.toNat / 2 % 2 ^ 3 = p) ∧ packetsBusy (u 1) = false ∧
    packetsBusy { u 1 with fw := { (u 1).fw with cores := [(1, { FwCore.reset with causes := [(.packet 0 5, 0)] })] } } = true ∧ hosted.fw.hmihead = hosted.fw.hmitail ∧
    (mailed [4]).fw.hmihead ≠ (mailed [4]).fw.hmitail ∧ (32999999 : Nat) < (u 5).fw.started + 33000000 ∧ (u 5).fw.started + 33000000 ≤ 33000000 ∧ (u 5).fw.rolled = false ∧
    heartbeatDue (u 4) = false ∧ (slotSigned (u 2).fw 1 = true ∨ slotSigned (u 2).fw 1 = false) := by
  refine ⟨by decide, by decide, by decide +kernel, by decide +kernel, by decide, by decide, by decide, by decide, by decide, by decide, by decide, by decide, by decide, ?_⟩
  exact (Bool.eq_false_or_eq_true _)

theorem witness_GangsAndTravel_waits :
    let g : State := { regs [] with parts := [(0, { Partition.none with v := true, cores := [0], slices := [0, 1] })], ctxs := [(1, { Ctx.none with live := true })],
                                    threads := [(1, { thread [] with wait := .slotAsk })], pending := [.defragmentation 0 1 2] }
    let c : State := { launched (thread []) with launches := [(5, { Launch.none with v := true, ctx := 1, cores := [0], nthr := 9, next := 1 })] }
    defragOk g 0 1 2 = true ∧ gangRests g 0 = false ∧ Instr.defragmentation 0 1 2 ∈ g.pending ∧ slotClaimed c 0 = true ∧ slotClaimed (travelling (thread [])) 0 = false := by decide +kernel
theorem witness_EnginesAndMedia_masters :
    let m := mediaed []
    let p (r : Nat) : MediaPacket := ⟨1, 5001, 96, 3600, 0, true, List.replicate r ⟨0, 0, []⟩⟩
    mediaUp m 0 = true ∧ mediaUp m 1 = false ∧ m.pkg.ptpDomain ≠ 5 ∧ spGet 0 m.pkg.masters 1 = 0 ∧
    spGet 0 { m.pkg with masters := [(1, 3)] }.masters 1 ≠ 0 ∧ (3 : Nat) < 3 + 1 ∧ (3 : Nat) + 1 ≤ 4 ∧ 3 < (p 4).rows.length ∧ (p 3).rows.length ≤ 3 ∧
    (mediaWord m 9 8).toNat / 2 ^ 6 % 4 = 1 ∧ m.pkg.ptpLock = false ∧ (p 0).rtpts = 3600 := by decide +kernel
theorem witness_ConfigurationResults_ports :
    let s (v : Word) (u : Bool) : State := { statused v with ports := [(16, { Port.reset with up := u }), (5, { Port.reset with up := u })] }
    portUp (s 0 false) .pf = false ∧ portUp (s 0 true) .pf = true ∧ portUp (s 0 true) (.vf 9) = true ∧ portUp (s 0 true) (.peer ⟨1, 5, 0, 0, 0⟩) = true ∧ pkst (s 0 true) 8 8 = 0 ∧
    pkst (s 0x100 true) 8 8 = 1 ∧ 8 ≤ pkst (s 0x180 true) 7 4 ∧ (0x308 : Nat) / 8 * 8 ≠ 0x100 ∧ (s 0x100 true).vf.ccres.getLsbD 63 = false ∧ (0x8000000000000000 : Word).getLsbD 63 = true ∧
    (0x50001 : Word).toNat % 4 = 1 ∧ (0x50002 : Word).toNat % 4 = 2 ∧ (s 0x100 true).fw.hmihead ≠ (5 : Word).toNat % 2 ^ 9 := by decide

/-- `li x7` with its constant, 12 bytes, placed where the next step fetches. -/
def placed12 : State := State.reset.withFetchWord 96 0x0123456789ABCDEF83380000

theorem witness_StepRunsDecoded_long : MayIssue placed12 1 [] ∧
    Fetches (turnView 1 [] placed12) 1 [0x00, 0x00, 0x38, 0x83, 0xEF, 0xCD, 0xAB, 0x89, 0x67, 0x45, 0x23, 0x01] ∧
    decodeBytes [0x00, 0x00, 0x38, 0x83, 0xEF, 0xCD, 0xAB, 0x89, 0x67, 0x45, 0x23, 0x01] = .ok (.liK false 7 0x0123456789ABCDEF, 12) ∧
    ({ placed12 with turns := [.read .pf 0x100] } : State).turns = .read .pf 0x100 :: [] :=
  ⟨⟨rfl, rfl, by decide +kernel, by decide +kernel, fun a h => (nomatch (show Wait.run = .settle a from h)), fun _ => rfl, .inl (by decide +kernel), by decide +kernel, by decide +kernel⟩,
    ⟨[0x00, 0x00, 0x38, 0x83], by decide +kernel, by decide +kernel, fun h => absurd h (by decide +kernel), fun _ => ⟨[0xEF, 0xCD, 0xAB, 0x89, 0x67, 0x45, 0x23, 0x01], by decide +kernel, rfl⟩⟩, rfl, rfl⟩

/-! ### Both sides of what holds a thread, a port or an engine -/

/-- A result still out of the instruction with order number n. -/
def owed (n : Nat) : Late := ⟨3, 0, false, n, 8, 0, 0, 0⟩

/-- S = 1 with results out, of the instruction itself and of an earlier one, before and after a wait. -/
theorem witness_InstructionEnds_marker :
    let th : Thread := { thread [] with seq := 4, late := [owed 4] }
    let early : Thread := { thread [] with seq := 4, late := [owed 2] }
    th.late ≠ [] ∧ parked (.fence true true) = true ∧ parked .run = false ∧ (∃ l ∈ th.late, l.seq = th.seq) ∧ ¬ (∃ l ∈ early.late, l.seq = early.seq) ∧
    early.late ≠ [] ∧ (thread []).late = [] := by decide
theorem witness_TrapReturn_held :
    let s : State := { machine { thread [] with thst := 0x00400001, tepc := at_ 32 } with journal := [(0, refusedEntry)] }
    tl (cur s) = true ∧ asyncAimed s s.me = true ∧ asyncAimed { s with journal := [] } s.me = false := by decide

/-- Word 8 of the scratchpad is held by slot 2; the posted store of entry 3 waits behind it. -/
def storeBehind (n : Nat) : State :=
  let s := journalled aPst false
  let e := 2000000 + 3
  { s with
    threads := [(1, { thread [] with behind := [(e, scratchKey 0 64 / 8, n)] })]
    resv := [(scratchKey 0 64 / 8, { Resv.free with holder := some 2, queue := [e] })] }

theorem witness_TimeAndLateResults_holds :
    let w := scratchKey 0 40 / 8
    let s (g : Option Nat) : State :=
      { machine { thread [] with wait := .resv w (own 40), wcount := 2 ^ 32 } with resv := [(w, { Resv.free with holder := some 2, granted := g })] }
    let h (x : Wait) : Thread := { thread [] with hold := some (5, 2 ^ 32), wait := x }
    stallOf (getTh (s none) 1).wait = some (3, own 40) ∧ (getTh (s none) 1).behind = [] ∧ (spGet Resv.free (s none).resv w).granted ≠ some 1 ∧
    (spGet Resv.free (s (some 1)).resv w).granted = some 1 ∧ (getTh (storeBehind (2 ^ 32)) 1).behind = [(2000000 + 32 * 0 + 3, scratchKey 0 64 / 8, 2 ^ 32)] ∧
    (2000000 + 32 * 0 + 3, scratchKey 0 64 / 8) ∈ waitsBehind (storeBehind 5) (getTh (storeBehind 5) 1).uid ∧ wdogPeriod (storeBehind 5) 1 ≤ 2 ^ 32 ∧
    interruptible (h (.matrix 3 4 false)).wait = false ∧ interruptible (h .run).wait = true ∧ (h .run).hold = some (5, 2 ^ 32) := by decide

/-- A core's partition that owns no cycle now, in strict mode, for a word of another cluster; one whose copy of the line lasts stays in its cluster. -/
theorem witness_LoadStoreResults_leaves :
    let far : Piece := ⟨scratchKey 8 40, 8, 3, 0, 0⟩
    let line : Piece := ⟨64 * 3, 8, 2, 0, 0⟩
    let s : State := regs []
    let strict : State := { s with pkg := { s.pkg with tdctl := 2 } }
    leavesCluster s 1 true [ownPiece 40 8] = false ∧ leavesCluster s 1 true [far] = true ∧ hartMoves s 1 = true ∧ hartMoves strict 1 = false ∧
    leavesCluster (lined ⟨5, 1, [7]⟩ CachedLine.none) 1 true [line] = false ∧ leavesCluster (lined ⟨5, 1, [7]⟩ CachedLine.none) 1 false [line] = true ∧
    leavesCluster (lined ⟨4, 1, [7]⟩ CachedLine.none) 1 true [line] = true := by decide
theorem witness_ReservationWaits_word :
    let p := ownPiece 41 2
    p.key % 8 ≠ 0 ∧ (ownPiece 40 8).key % 8 = 0 ∧ wordAddr (own 41) [p] (scratchKey 0 40 / 8) = own 40 ∧ wordAddr (own 36) [ownPiece 36 8] (scratchKey 0 40 / 8) = own 40 := by decide
/-- A bar.wait parked on the object at byte 64, whose first word a store may write, and one that waits elsewhere. -/
theorem witness_StoreFrame_parked :
    let s := machine { thread [] with wait := .barrier (scratchKey 0 64) (own 64) 0 0 3 false }
    (getTh s 1).wait = .barrier (scratchKey 0 64) (own 64) 0 0 3 false ∧ scratchKey 0 64 / 8 ∈ wordsOf [ownPiece 64 8] ∧ scratchKey 0 64 / 8 ∉ wordsOf [ownPiece 72 8] ∧
    scratchKey 0 64 / 8 ∉ wordsOf [ownPiece 38 4] ∧ (spGet [] s.waits (scratchKey 0 64 / 8)) = [] := by decide

/-- A counted put whose counter is no multiple of 8; a posted store that goes over a line's end, one of a thread that has gone and one of a thread that is
on its way; a block copy under way. -/
theorem witness_PostedOperations_lines :
    let s := machine { thread [(1, own 64), (2, 0x0000000700000028), (4, own 97)] with seq := 1 }
    let c : JEnt := { aPst with opk := 3, addr := own 100, src := own 40, left := 200 }
    let gone := journalled { aPst with uid := 9 } false
    let moving : State := { gone with pending := [.parcelArrival { spawnParcel 1 with uid := 9 }] }
    (∃ pc, Resolves (operandState [1, 2, 4, 5] s) (own 97) 8 needRw pc) ∧ (operand [1, 2, 4, 5] s 4).toNat % 8 ≠ 0 ∧
    Resolves (operandState [1, 2, 4, 5] s) (own 64) 8 needWr (.mem [ownPiece 64 8]) ∧
    peerVia (journalled aPst false) 1 0 (own 64) = none ∧ lineLen (journalled aPst false) 0 (own 60) 8 = 4 ∧ lineLen (journalled aPst false) 0 (own 64) 8 = 8 ∧
    (getNode (journalled aPst false) 0).kind ≠ 2 ∧ lives gone 9 = false ∧ lives moving 9 = true ∧ hartOf moving 9 = none ∧
    launchEnds (setJ moving 0 3 { aPst with uid := 9, ref := true, code := 1 }) aPst.launch = false ∧ launchEnds (setJ gone 0 3 JEnt.free) aPst.launch = false ∧
    (getJ (journalled c false) 0 3).left ≠ 0 ∧ c.done + 28 < c.left ∧ ¬ { c with done := 164 }.done + 36 < c.left ∧ entryIs (journalled c false) 0 3 0 = true :=
  ⟨⟨.mem [ownPiece 97 8], by unfold Resolves; decide⟩, by decide, by unfold Resolves; decide, by decide, by decide, by decide, by decide, by decide, by decide, by decide,
    by decide, by decide, by decide, by decide, by decide, by decide⟩

/-- A thread parked on the object at byte 64 for phase p, with and without a timeout that has run out. -/
def parkedOn (p left : Nat) : State := { object { pair with waiters := 1 } with threads := [(1, { thread [] with wait := .barrier (scratchKey 0 64) (own 64) p left 3 false })] }

theorem witness_BarrierResults_parked :
    (getTh (parkedOn 0 0) 1).wait = .barrier (scratchKey 0 64) (own 64) 0 0 3 false ∧ (barRead (parkedOn 0 0) [⟨scratchKey 0 64, 16, 3, 0, 0⟩]).phase = 0 ∧
    (barRead (parkedOn 1 9) [⟨scratchKey 0 64, 16, 3, 0, 0⟩]).phase ≠ 1 ∧ (barRead (parkedOn 1 9) [⟨scratchKey 0 64, 16, 3, 0, 0⟩]).waiters = 1 := by decide
/-- Lines of a node's words and of a mapping table; a slice whose 64 miss registers are taken. Whether a quadrant bypasses is a free value: one of the two sides holds. -/
theorem witness_LatchesAndLines_places :
    let s := regs []
    let full : State := { s with slices := spSet Slice.reset [] (lineSlice s 3) { Slice.reset with misses := List.range 64 } }
    latchLine s (.unit 7 5 8 1) = some (nodeKey 7 8 / 64) ∧ (latchLine s (.table 0x80000)).isSome = true ∧ placeRefused s (.unit 7 5 8 1) = false ∧
    placeRefused s (.table 0x80000) = false ∧ onFabric (.table 0x80000) = false ∧ onFabric (.unit 7 5 8 1) = true ∧ hartMoves s 1 = true ∧
    missesFull full 3 = true ∧ missesFull s 3 = false ∧ (Config.llcBypass 0 = true ∨ Config.llcBypass 0 = false) := by
  refine ⟨by decide, by decide, by decide, by decide, by decide, by decide, by decide, by decide +kernel, by decide, Bool.eq_false_or_eq_true _⟩

/-- A spawnc that took its target, with the answer that asks nothing of a core; a go at its fence with its core taken, its results in and still out. -/
theorem witness_MovesAndSlots_taken :
    let c (r : Option Nat) : Thread := { thread [] with taken := [at_ 64], wait := .slotReply r }
    let g : Thread := { thread [] with taken := [1], wait := .fence true true }
    (c (some (2 ^ 64 - 1))).taken = [at_ 64] ∧ (c (some (2 ^ 64 - 1))).wait = .slotReply (some (2 ^ 64 - 1)) ∧ (c (some 7)).wait = .slotReply (some 7) ∧ (7 : Nat) ≠ 2 ^ 64 - 1 ∧
    (c none).wait = .slotReply none ∧ off (c none).pc + 12 < 2 ^ 48 ∧ { thread [] with late := [owed 0] }.late ≠ [] ∧
    g.taken = [1] ∧ g.wait = .fence true true ∧ g.late = [] ∧ outstanding (machine g) g.uid true true = false ∧ outstanding (journalled aPst false) 1 true true = true ∧
    (∀ r, (thread []).wait ≠ .slotReply r) ∧ (∀ x y, (thread []).wait ≠ .fence x y) ∧ isHart 16384 = true :=
  ⟨by decide, by decide, by decide, by decide, by decide, by decide, by decide, by decide, by decide, by decide, by decide, by decide, fun _ => (nomatch ·), fun _ _ => (nomatch ·), by decide⟩

/-- A host's function is never denied a node, a firmware core some; a directory's record gives its kind; a peer's counter action, and what is none. -/
theorem witness_HostRequests_grants :
    let e : State := { hosted with nodes := [(4, { Node.none with v := true, owner := 1 })] }
    (∀ n, fwDenied e .pf n needRd = false) ∧ (∀ n, fwDenied e .pf n needWr = false) ∧ fwDenied e .policy 4 needRd = true ∧ hdl (mkAddr 2 0) ≠ 0xFFFF ∧
    (lookupKey hosted (whoHost ⟨0, 0, 0, 0, 0, 0, 0, .host .pf⟩).unit 0 2).1.node = 4 ∧ recKind named 3 = 0 ∧ recKind named 4 = 1 ∧
    (leBytesOf 8 1 ++ leBytesOf 8 5).length = 16 ∧ leValue ((leBytesOf 8 1 ++ leBytesOf 8 5).take 8) = 1 ∧ (HostFn.peer ⟨1, 5, 0, 0, 0⟩) ≠ .pf ∧
    (mkAddr 2 8).toNat % 8 = 0 := by
  refine ⟨fun _ => rfl, fun _ => rfl, ?_⟩
  decide

/-- A memory command whose node record the host must supply, before and after it has; the last command of a repetition, and a result that returns in each of its iterations. -/
theorem witness_VectorIssue_missed :
    let s : State := { machine windowed with
      keys := [(keyIdx 1 0x101, { KeyEntry.free with v := true, kind := 1, rights := 3, limit := 4096, node := 3 })], fw := { Fw.reset with duty := 1 } }
    hostMiss s (whoOf s 1).unit (whoOf s 1).ctx 0x101 = some 3 ∧ (cur s).wait ≠ .missed 3 ∧ ({ windowed with wait := .missed 3 } : Thread).wait = .missed 3 ∧
    ({ windowed with capture := some ⟨1, [command .vadd .i32], 5⟩, vq := [(1, .capturing 5)] } : Thread).vq = [(1, .capturing 5)] ∧ (1 : Nat) ≤ 1 ∧
    ({ command .vadd .i32 with last := false } : VCmd).last = false ∧ (∀ n, n < 16 → (getTh (queued []) (16 * 0 + n)).vq = []) := by decide

/-- An input that a member feeds and one that a station feeds; a stream whose chunks a down link carried. -/
theorem witness_StreamTraffic_fed :
    let st := getStream created 7
    let far := getStream spread 7
    st.memberFed (station 0 1) 0 = true ∧ st.memberFed (station 0 1) 2 = false ∧ (nextTo created st 0) ≠ [] ∧
    (∃ m, m < 2 ∧ some m ∈ far.lost fun p => crosses p 0 1) ∧ none ∉ (st.lost fun p => crosses p 0 1) ∧ created.pkg.linkDown = [] := by decide +kernel

/-- A descriptor whose page faults; an operation that has run into a fault. -/
theorem witness_MatrixResults_faults :
    (engineLoad 1 (mkAddr 7 0) 192 (mmState [])).1.toOption = none ∧ ({ (⟨1, 1, own 64, 0, mmDesc, 0, 0, 0, none⟩ : MmRun) with fault := some ⟨2, 1, own 8⟩ }).fault = some ⟨2, 1, own 8⟩ := by
  decide +kernel

/-- A lane under test and one that is not, on a port that retrains. -/
theorem witness_LinksThatFail_lanes :
    let r : ErrRec := ⟨5, 4, true, false, 0, 0, false, 0, [], false⟩
    let p : Port := { Port.reset with up := true, good := 3, width := 4, training := true, retrain := true }
    let s : State := { State.reset with errors := [r], ports := [(5, p)] }
    (∃ e ∈ s.errors, e.lane = true ∧ e.unit = 5 ∧ (e.state = 0 ∨ e.state = 5)) ∧ ¬ (∃ e ∈ s.errors, e.lane = true ∧ e.unit = 6 ∧ (e.state = 0 ∨ e.state = 5)) ∧
    (spGet Port.reset s.ports 5).up = true ∧ (spGet Port.reset s.ports 5).held = [] ∧ ({ p with retrain := false } : Port).retrain = false ∧ (0x3FFFF : Word).getLsbD 16 = true := by decide

/-- A gate whose end is under way, and one whose test has not held. -/
theorem witness_GraphNodeResults_gates :
    let g := graphed id [(nodeAt 5 0, ⟨aRecord 4 0, 3, 0, 0, false⟩)]
    let s : State := { g with pending := [.nodeComplete 5 0 ⟨0, 0⟩], cycle := 2 ^ 33 }
    Instr.nodeComplete 5 0 ⟨0, 0⟩ ∈ s.pending ∧ (∀ out, Instr.nodeComplete 5 0 out ∉ g.pending) ∧ (getG s 5 0).phase = 3 ∧ (getG s 5 0).rec_.kind = 4 ∧
    (if (wordAt (getG s 5 0).rec_.body 16).toNat / 2 ^ 32 = 0 then 2 ^ (getCtx s (getQueue s 5).owner).wdog else 0) ≤ s.cycle - (getG s 5 0).began := by
  refine ⟨by decide, fun out => ?_, by decide, by decide, by decide +kernel⟩
  rw [show (graphed id [(nodeAt 5 0, ⟨aRecord 4 0, 3, 0, 0, false⟩)]).pending = [] by decide +kernel]
  exact List.not_mem_nil

/-- Bring-up stages before and at the policy core's start, a write of the host before and at READY; measurements asked for by index and for all; key core writes of the
schedule armed and not. -/
theorem witness_FirmwareResults_stages :
    pkst (statused 0x70) 7 4 < 8 ∧ 8 ≤ pkst (statused 0x80) 7 4 ∧ (statused 0x80).fw.updst.getLsbD 0 = false ∧ (0x1F : Word).getLsbD 2 = true ∧ Fw.reset.duty.getLsbD 2 = false ∧
    ((measured State.reset).filter fun b => b.1 = 9) = [] ∧ ((measured State.reset).filter fun b => b.1 = 6) ≠ [] ∧
    ({ State.reset.pkg with tdctl := 1 } : Pkg).tdctl.getLsbD 0 = true ∧ State.reset.pkg.tdctl.getLsbD 0 = false ∧ (1 : Word).getLsbD 0 = true ∧ (0x640 : Nat) < 0x648 := by
  have h (s : State) : (measured s).map Prod.fst = [1, 2, 3, 4, 5, 6] := rfl
  refine ⟨by decide, by decide, by decide, by decide, by decide, ?_, ?_, by decide, by decide, by decide, by decide⟩
  · rw [List.filter_eq_nil_iff]
    intro b hb
    have := List.mem_map_of_mem (f := Prod.fst) hb
    rw [h] at this
    simp only [List.mem_cons, List.not_mem_nil, or_false] at this
    simp only [decide_eq_true_eq]
    omega
  · intro hn
    rw [List.filter_eq_nil_iff] at hn
    obtain ⟨b, hb, e⟩ := List.mem_map.1 (show 6 ∈ (measured State.reset).map Prod.fst by rw [h]; decide)
    exact hn b hb (by simp [e])

/-- A pc that is no multiple of 4; an input behind an earlier request of its port, one kept until it is ready and one dropped; a set timestamp before and after the
policy core starts. -/
theorem witness_StepRunsDecoded_waits :
    let s : State := { State.reset with ports := [(16, { Port.reset with up := true })], pkg := { Pkg.reset with pkst := 0x180 } }
    let p : State := { s with pending := [.hostRead .pf (mkAddr 2 0) 8] }
    (at_ 2).toNat % 4 ≠ 0 ∧ leaves (machine { thread [] with pc := at_ 2 }) 1 (at_ 2) = false ∧ behind p (.hostWrite .pf (mkAddr 2 0) [] 0) = true ∧
    behind s (.hostWrite .pf (mkAddr 2 0) [] 0) = false ∧ keptInput (.defragmentation 0 1 2) = true ∧ keptInput (.hostRead .pf (mkAddr 2 0) 8) = false ∧
    rowWaits s (.hostRead .pf (mkAddr 2 0) 8) = false ∧ policyRuns s = true ∧ policyRuns State.reset = false := by decide +kernel

end Sys2Proof.Tests
end

section
/-! Quotients and remainders (R202, R297): the machine's words against the whole numbers of the table, the next state of a
division whose queue registers are ready, and the statement over every form. -/

namespace Sys2Proof.Machine

open Sys2Proof.Claims

theorem sdiv_eq_ofI_tdiv (u v : Word) : u.sdiv v = ofI (u.toInt.tdiv v.toInt) :=
  BitVec.eq_of_toInt_eq (by rw [BitVec.toInt_sdiv, ofI, BitVec.toInt_ofInt])

theorem srem_eq_ofI_tmod (u v : Word) : u.srem v = ofI (u.toInt.tmod v.toInt) := by
  rw [ofI, ← BitVec.toInt_srem, BitVec.ofInt_toInt]

theorem udiv_eq_ofN_div (u v : Word) : u / v = ofN (u.toNat / v.toNat) := by
  rw [ofN, ← BitVec.toNat_udiv, BitVec.ofNat_toNat, BitVec.setWidth_eq]

theorem umod_eq_ofN_mod (u v : Word) : u % v = ofN (u.toNat % v.toNat) := by
  rw [ofN, ← BitVec.toNat_umod, BitVec.ofNat_toNat, BitVec.setWidth_eq]

theorem ofI_neg_one : ofI (-1) = BitVec.allOnes 64 := rfl

theorem word_eq_zero_iff (v : Word) : v = 0 ↔ v.toNat = 0 := BitVec.toNat_inj.symm

theorem setIdz_eq (thst : Word) : setIdz thst = thst ||| 2 ^ 11 := rfl

/-- An integer result of an instruction of one base word, which is written for the issuing thread and has no travel live mask. -/
theorem result_base {s0 s : State} (h : s.me = s0.me) (q : Bool) (d : Reg) (v : Word) :
    result s0 4 q d v s = .next (retireLive s0 4 none q (wr s0.me d v s)) := by
  rw [result, h]
  rfl

/-- The next state of a division whose queue registers hold nothing back: IDZ is set first where the divisor is zero, and the result
is written in that state (R202). -/
theorem divide_ready {q : Bool} {d a b : Reg} {s : State} (h : QueuesReady [a, b] [d] s) (f : Word → Word → Word) :
    divide q d a b f s = .next (retireLive s 4 none q (wr s.me d (f (operand [a, b] s a) (operand [a, b] s b))
      (if (operand [a, b] s b).toNat = 0 then
        modTh (operandState [a, b] s) s.me fun th => { th with thst := th.thst ||| 2 ^ 11 }
       else operandState [a, b] s))) := by
  have hme : (operandState [a, b] s).me = s.me := operandState_me [a, b] s
  unfold divide
  rw [withRegs_ready h]
  simp only [operand, ← word_eq_zero_iff, ← setIdz_eq, hme, modTh_eq]
  split
  · exact result_base ((setTh_me _ _ _).trans hme) q d _
  · exact result_base hme q d _

theorem exec_div (q : Bool) (d a b : Reg) (s : State) : exec (.div q d a b) s =
    divide q d a b (fun u v => if v.toNat = 0 then ofI (-1) else ofI (u.toInt.tdiv v.toInt)) s := by
  have h : exec (.div q d a b) s = execDiv q d a b s := rfl
  rw [h, execDiv]
  simp only [word_eq_zero_iff, ofI_neg_one, sdiv_eq_ofI_tdiv]

theorem exec_divn (q : Bool) (d a b : Reg) (s : State) : exec (.divn q d a b) s =
    divide q d a b (fun u v => if v.toNat = 0 then ofI (-1) else ofN (u.toNat / v.toNat)) s := by
  have h : exec (.divn q d a b) s = execDivn q d a b s := rfl
  rw [h, execDivn]
  simp only [word_eq_zero_iff, ofI_neg_one, udiv_eq_ofN_div]

theorem exec_rem (q : Bool) (d a b : Reg) (s : State) : exec (.rem q d a b) s =
    divide q d a b (fun u v => if v.toNat = 0 then u else ofI (u.toInt.tmod v.toInt)) s := by
  have h : exec (.rem q d a b) s = execRem q d a b s := rfl
  rw [h, execRem]
  simp only [word_eq_zero_iff, srem_eq_ofI_tmod]

theorem exec_remn (q : Bool) (d a b : Reg) (s : State) : exec (.remn q d a b) s =
    divide q d a b (fun u v => if v.toNat = 0 then u else ofN (u.toNat % v.toNat)) s := by
  have h : exec (.remn q d a b) s = execRemn q d a b s := rfl
  rw [h, execRemn]
  simp only [word_eq_zero_iff, umod_eq_ofN_mod]

/-- Every quotient and remainder form is a division of its two operands by the function of its table. -/
theorem exec_of_quotientForm {i : Instr} {f : RegForm} (h : quotientForm i = some f) :
    ∃ q d a b g, f = ⟨.base, q, [a, b], d, fun r => g (r a) (r b)⟩ ∧ ∀ s, exec i s = divide q d a b g s := by
  unfold quotientForm at h
  split at h
  case h_1 q d a b => exact ⟨q, d, a, b, _, (Option.some.inj h).symm, exec_div q d a b⟩
  case h_2 q d a b => exact ⟨q, d, a, b, _, (Option.some.inj h).symm, exec_divn q d a b⟩
  case h_3 q d a b => exact ⟨q, d, a, b, _, (Option.some.inj h).symm, exec_rem q d a b⟩
  case h_4 q d a b => exact ⟨q, d, a, b, _, (Option.some.inj h).symm, exec_remn q d a b⟩
  case h_5 => cases h

/-- Settles O1: each form is a division, whose next state divide_ready gives. -/
theorem quotientResults : Obligations.QuotientResults := by
  unfold Obligations.QuotientResults
  intro i f h s hq
  obtain ⟨q, d, a, b, g, rfl, hexec⟩ := exec_of_quotientForm h
  rw [hexec, divide_ready hq]
  rfl

end Sys2Proof.Machine
end

section
/-! Branches, jumps, calls and returns (R263, R264, R301 to R303): the machine's targets, link values and conditions against the
statements' whole numbers, the transfer instructions with ready queue registers, and the statement over every form. -/

namespace Sys2Proof.Machine

open Sys2Proof.Claims

/-! ### Addresses -/

/-- An address of the handle of another and an offset within range, in whole numbers. -/
theorem mkAddr_hdl (a : Word) {o : Nat} (h : o < 2 ^ 48) : mkAddr (hdl a) o = ofN (a.toNat / 2 ^ 48 * 2 ^ 48 + o) := by
  rw [mkAddr, hdl, Nat.mod_eq_of_lt (b := 65536) (by omega), Nat.mod_eq_of_lt h]
  rfl

theorem offAdd_within {a : Word} {d : Int} (h0 : 0 ≤ (off a : Int) + d) (h1 : (off a : Int) + d < 2 ^ 48) :
    offAdd a d = some (ofN (a.toNat / 2 ^ 48 * 2 ^ 48 + ((off a : Int) + d).toNat)) := by
  rw [← mkAddr_hdl a (by omega)]
  exact if_neg (fun h => h.elim (Int.not_lt.2 h0) (Int.not_le.2 h1))

theorem offAdd_outside {a : Word} {d : Int} (h : ¬ (0 ≤ (off a : Int) + d ∧ (off a : Int) + d < 2 ^ 48)) : offAdd a d = none :=
  if_pos (by rwa [not_and_or, Int.not_le, Int.not_lt] at h)

/-- The machine's sum of an address and a displacement in words is the statements' target. -/
theorem offAdd_words (own : Word) (disp : Int) : offAdd own (4 * disp) = wordTarget own disp := by
  by_cases h : 0 ≤ (off own : Int) + 4 * disp ∧ (off own : Int) + 4 * disp < 2 ^ 48
  · exact (offAdd_within h.1 h.2).trans (if_pos h).symm
  · exact (offAdd_outside h).trans (if_neg h).symm

theorem branchTarget_of_some {own t : Word} {disp : Int} (h : wordTarget own disp = some t) : branchTarget own disp = .ok t := by
  rw [branchTarget, offAdd_words, h]

theorem branchTarget_of_none {own : Word} {disp : Int} (h : wordTarget own disp = none) : branchTarget own disp = .error ⟨2, 5, own⟩ := by
  rw [branchTarget, offAdd_words, h]

theorem linkOf_of_lt {own : Word} {n : Nat} (h : off own + n < 2 ^ 48) : linkOf own n = .ok (nextAddr own n) := by
  have hs : offAdd own (n : Int) = some (ofN (own.toNat / 2 ^ 48 * 2 ^ 48 + (off own + n))) :=
    offAdd_within (by omega) (by omega)
  rw [linkOf, Int.ofNat_eq_natCast, hs, nextAddr, ← off, Nat.mod_eq_of_lt h]

theorem bits_one_zero (v : Word) : bits v 1 0 = v.toNat % 4 := by simp [bits]

/-! ### Conditions -/

theorem condHolds_iff (c : BrCond) (u w : Word) : condHolds c u w = true ↔ holdsCond c u w := by
  cases c with
  | eq => simp [condHolds, holdsCond, BitVec.toNat_inj]
  | ne => simp [condHolds, holdsCond, BitVec.toNat_inj]
  | lt => simp [condHolds, holdsCond, BitVec.slt_iff_toInt_lt]
  | ge => simp [condHolds, holdsCond, BitVec.slt_eq_decide]
  | ltn => simp [condHolds, holdsCond, BitVec.ult_iff_lt, BitVec.lt_def]
  | gen => simp [condHolds, holdsCond, BitVec.ult_eq_decide]
  | bs => simp [condHolds, holdsCond, BitVec.getLsbD, Nat.testBit_eq_decide_div_mod_eq]
  | bc => simp [condHolds, holdsCond, BitVec.getLsbD, Nat.testBit_eq_decide_div_mod_eq]

/-! ### Reading operands keeps the pc -/

theorem deq_pc (t u : Nat) (s : State) (r : Reg) : (getTh (deq t s r) u).pc = (getTh s u).pc := by
  unfold deq
  split
  · rfl
  · rw [modTh_eq, getTh_setTh]
    split
    · next h => rw [h, xw_kept]; rfl
    · rfl

theorem foldl_deq_pc (t u : Nat) (rs : List Reg) : ∀ s, (getTh (rs.foldl (deq t) s) u).pc = (getTh s u).pc := by
  induction rs with
  | nil => intro s; rfl
  | cons r rs ih => intro s; exact (ih _).trans (deq_pc t u s r)

theorem operandState_pc (srcs : List Reg) (s : State) : (cur (operandState srcs s)).pc = (cur s).pc := by
  rw [cur, operandState_me]
  exact foldl_deq_pc _ _ _ s

/-! ### Conditional branches -/

theorem exec_of_branchForm {i : Instr} {f : BranchForm} (h : branchForm i = some f) (s : State) :
    exec i s = branch f.len f.q f.c f.a f.b f.disp f.live s := by
  unfold branchForm at h
  split at h
  case h_10 => cases h
  all_goals
    obtain rfl := Option.some.inj h
    rfl

/-- A conditional branch whose queue registers are ready goes by its condition alone: in sequence, to its target, or to the trap of a target
that leaves the offset. -/
theorem branch_ready {a b : Reg} {s : State} (hq : QueuesReady [a, b] [] s) (len : Nat) (q : Bool) (c : BrCond) (disp : Int)
    (live : Option (BitVec 15)) :
    branch len q c a b disp live s =
      if condHolds c (operand [a, b] s a) (operand [a, b] s b) then
        match branchTarget (cur s).pc disp with
        | .ok t => .next (jump s t true live q (operandState [a, b] s))
        | .error i => exact i s
      else .next (retireLive s len live q (operandState [a, b] s)) := by
  rw [branch, withRegs_ready hq, operandState_pc]
  rfl

theorem branchResults : BranchResults := by
  intro i f hf s hq
  rw [exec_of_branchForm hf, TrapsHere, exec_of_branchForm hf, branch_ready hq]
  simp only [← condHolds_iff]
  refine ⟨fun hc => if_neg hc, fun hc t ht => ?_, fun hc ht => ?_⟩
  · rw [if_pos hc, branchTarget_of_some ht]
  · rw [if_pos hc, branchTarget_of_none ht]
    rfl

/-! ### Jumps -/

theorem jumpDisp_of_some {s : State} {disp : Int} {t : Word} (h : wordTarget (cur s).pc disp = some t) (q : Bool) (live : Option (BitVec 15)) :
    jumpDisp q disp live s = .next (jump s t true live q s) := by
  rw [jumpDisp, branchTarget_of_some h]

theorem execCall_of_some {s : State} {d : BitVec 32} {t : Word} (ht : wordTarget (cur s).pc d.toInt = some t)
    (hl : off (cur s).pc + 12 < 2 ^ 48) (q : Bool) (live : BitVec 15) :
    execCall q d live s = .next (jump s t false (some live) q (wr s.me 14 (nextAddr (cur s).pc 12) s)) := by
  rw [execCall, branchTarget_of_some ht, linkOf_of_lt hl]

/-- A target that stays where the thread may go meets no travel fault: a misaligned one takes its own trap (R264). -/
theorem misaligned_stays {s : State} {target : Word} (h : leaves s s.me target = false) (s0 : State) (pops : Bool) :
    misaligned s0 target pops s = trapHere 3 0 target s0 := by
  simp [misaligned, travelFirst, h]

section

variable {a : Reg} {s : State}

theorem execJr_aligned (hq : QueuesReady [a] [] s) (h : (operand [a] s a).toNat % 4 = 0) (q : Bool) (live : Option (BitVec 15)) :
    execJr q a live s = .next (jump s (operand [a] s a) true live q (operandState [a] s)) := by
  rw [execJr, withRegs_ready hq]
  exact if_pos ((bits_one_zero _).trans h)

theorem execJr_misaligned (hq : QueuesReady [a] [] s) (h : (operand [a] s a).toNat % 4 ≠ 0)
    (hs : leaves (operandState [a] s) s.me (operand [a] s a) = false) (q : Bool) (live : Option (BitVec 15)) :
    execJr q a live s = trapHere 3 0 (operand [a] s a) s := by
  rw [← operandState_me [a] s] at hs
  rw [execJr, withRegs_ready hq, ← misaligned_stays hs s true]
  exact if_neg (bits_one_zero _ ▸ h)

theorem execCallr_aligned (hq : QueuesReady [a] [] s) (h : (operand [a] s a).toNat % 4 = 0) {live : Option (BitVec 15)}
    (hl : off (cur s).pc + liveLen live < 2 ^ 48) (q : Bool) :
    execCallr q a live s =
      .next (jump s (operand [a] s a) false live q (wr s.me 14 (nextAddr (cur s).pc (liveLen live)) (operandState [a] s))) := by
  rw [execCallr, withRegs_ready hq, operandState_pc, linkOf_of_lt hl]
  exact if_pos ((bits_one_zero _).trans h)

theorem execCallr_misaligned (hq : QueuesReady [a] [] s) (h : (operand [a] s a).toNat % 4 ≠ 0)
    (hs : leaves (operandState [a] s) s.me (operand [a] s a) = false) (q : Bool) (live : Option (BitVec 15)) :
    execCallr q a live s = trapHere 3 0 (operand [a] s a) s := by
  rw [← operandState_me [a] s] at hs
  rw [execCallr, withRegs_ready hq, ← misaligned_stays hs s false]
  exact if_neg (bits_one_zero _ ▸ h)

theorem execRet_aligned (h : (xr (cur s) 14).toNat % 4 = 0) (q : Bool) (live : Option (BitVec 15)) :
    execRet q live s = .next (jump s (xr (cur s) 14) false live q s) :=
  if_pos ((bits_one_zero _).trans h)

theorem execRet_misaligned (h : (xr (cur s) 14).toNat % 4 ≠ 0) (hs : leaves s s.me (xr (cur s) 14) = false) (q : Bool)
    (live : Option (BitVec 15)) : execRet q live s = trapHere 3 0 (xr (cur s) 14) s :=
  (if_neg (bits_one_zero _ ▸ h)).trans (misaligned_stays hs s false)

end

theorem jumpResults : JumpResults := fun _ =>
  ⟨fun q _ _ ht => jumpDisp_of_some ht q none,
    fun q _ live _ ht => jumpDisp_of_some ht q (some live),
    fun q _ live _ ht hl => execCall_of_some ht hl q live,
    fun q _ live hq =>
      ⟨fun h => execJr_aligned hq h q live, fun h hl => execCallr_aligned hq h hl q,
        fun h hs => ⟨execJr_misaligned hq h hs q live, execCallr_misaligned hq h hs q live⟩⟩,
    fun q live => ⟨fun h => execRet_aligned h q live, fun h hs => execRet_misaligned h hs q live⟩⟩

/-- Settles O10: branches go by branch_ready and condHolds_iff, and each jump has a lemma for each way it goes. -/
theorem branchesAndJumps : Obligations.BranchesAndJumps := ⟨branchResults, jumpResults⟩

end Sys2Proof.Machine
end

section
/-! Trap entry and the instructions that trap (R194, R195, R246, R249, R272, R394, R395): the words that entry writes against the
statements' whole numbers, the next state of a trap with a handler and of one without, and the instructions that take an exact trap. -/

namespace Sys2Proof.Machine

open Sys2Proof.Claims

/-! ### The words that trap entry writes -/

/-- Trap entry saves THST[15:0] in its upper half, keeps MODE and sets TL; FRM and the flags are zero (R194). -/
theorem entryStatus_toNat (thst : Word) :
    (entryStatus thst).toNat = thst.toNat % 2 ^ 16 * 2 ^ 16 + thst.toNat / 2 % 4 * 2 + 1 := by
  simp only [entryStatus, w64, bits, BitVec.toNat_ofNat, Nat.pow_one]
  omega

/-- The fields of TCAUSE fit side by side in the word (R195). -/
theorem causeOf_causeWord {i : TrapInfo} (hc : i.cause < 256) (hr : i.reason < 256) {entry : Nat} (he : entry < 32) (async pjwf : Bool) :
    causeOf i async entry pjwf (causeWord i async entry pjwf) := by
  have ha : (if async then 65536 else 0) = 2 ^ 16 * async.toNat := by cases async <;> rfl
  have hp : (if pjwf then 2 ^ 22 else 0) = 2 ^ 22 * pjwf.toNat := by cases pjwf <;> rfl
  have ha1 := async.toNat_le
  have hp1 := pjwf.toNat_le
  simp only [causeOf, causeWord, w64, BitVec.toNat_ofNat, ha, hp]
  omega

/-! ### The two ends of a trap -/

theorem unhandled_eq_true_iff (s : State) (t : Nat) :
    unhandled s t = true ↔ tl (getTh s t) = true ∨ bits (getTh s t).tvec 63 2 = 0 ∨
      (leaves s t (getTh s t).tvec = true ∧
        (loopUsed (getTh s t) = true ∨ (getTh s t).hold ≠ none ∨ segOf s t (getTh s t).tvec = none)) := by
  simp only [unhandled, Bool.or_eq_true, Bool.and_eq_true, beq_iff_eq, Option.isSome_iff_ne_none, Option.isNone_iff_eq_none, or_assoc]

/-- A thread at trap level 0 with a handler that it need not travel to takes its trap. -/
theorem unhandled_eq_false {s : State} {t : Nat} (h0 : tl (getTh s t) = false) (hv : bits (getTh s t).tvec 63 2 ≠ 0)
    (hl : leaves s t (getTh s t).tvec = false) : unhandled s t = false := by
  rw [Bool.eq_false_iff, ne_eq, unhandled_eq_true_iff]
  simp [h0, hv, hl]

/-- An update that leaves no capture in progress has none to end. -/
theorem endCapture_modTh_of_none {s : State} {t : Nat} {f : Thread → Thread} (h : (f (getTh s t)).capture = none) :
    endCapture t (modTh s t f) = setTh s t (f (getTh s t)) := by
  simp only [endCapture, modTh_eq, getTh_setTh_self, h]

section

variable {s : State} {t : Nat} (i : TrapInfo) (async : Bool) (entry : Nat) (pjwf : Bool) (epc : Word)

/-- The whole next state of a trap whose handler the thread need not travel to, with no capture in progress. -/
theorem enterTrap_handled (hu : unhandled s t = false) (hl : leaves s t (getTh s t).tvec = false) (hc : (getTh s t).capture = none) :
    enterTrap t i async entry pjwf epc s = setTh s t { getTh s t with
      tepc := epc, tcause := causeWord i async entry pjwf, tval := i.tval, thst := entryStatus (getTh s t).thst,
      wait := .run, wcount := 0, pc := (getTh s t).tvec } := by
  unfold enterTrap
  rw [if_neg (Bool.eq_false_iff.1 hu), if_neg (Bool.eq_false_iff.1 hl)]
  exact endCapture_modTh_of_none hc

/-- The whole next state of an unhandled trap with no capture in progress: the thread settles before it ends with the record. -/
theorem enterTrap_unhandled (hu : unhandled s t = true) (hc : (getTh s t).capture = none) :
    enterTrap t i async entry pjwf epc s = setTh s t { getTh s t with
      wait := .settle (.dead epc (causeWord i async entry pjwf) i.tval (entryStatus (getTh s t).thst)), wcount := 0 } := by
  unfold enterTrap
  rw [if_pos hu]
  exact endCapture_modTh_of_none hc

end

theorem otherHartsKept_setTh (s : State) (t : Nat) (th : Thread) : OtherHartsKept t s (setTh s t th) :=
  fun _ hu => getTh_setTh_other s hu th

theorem trapEntry : TrapEntry := by
  intro t i async entry pjwf epc s hcause hreason hentry th h0 hv hl hc s' th'
  have hs : s' = setTh s t _ := enterTrap_handled i async entry pjwf epc (unhandled_eq_false h0 hv hl) hl hc
  have hth : th' = _ := (congrArg (getTh · t) hs).trans (getTh_setTh_self s t _)
  have hkept : OtherHartsKept t s s' := hs ▸ otherHartsKept_setTh s t _
  rw [hth]
  exact ⟨rfl, causeOf_causeWord hcause hreason hentry async pjwf, rfl, rfl, entryStatus_toNat th.thst, rfl, hkept,
    machineKept_enterTrap t i async entry pjwf epc s⟩

theorem unhandledTrap : UnhandledTrap := by
  intro t i async entry pjwf epc s hc th hu
  refine ⟨causeWord i async entry pjwf, entryStatus th.thst, ?_, entryStatus_toNat th.thst, machineKept_enterTrap t i async entry pjwf epc s⟩
  rw [enterTrap_unhandled i async entry pjwf epc ((unhandled_eq_true_iff s t).2 hu) hc, getTh_setTh_self]

/-! ### The instructions that trap -/

/-- trap takes its code from its fields and TVAL from its register, with the queue's head word not taken (R394). -/
theorem execTrap_ready {a : Reg} {s : State} (hq : QueuesReady [a] [] s) (q : Bool) (c e : BitVec 4) :
    execTrap q c a e s = trapHere 8 (16 * c.toNat + e.toNat) (operand [a] s a) s := by
  rw [execTrap, withRegs_ready hq, Nat.mul_comm]
  rfl

/-- halt in a slot whose context has not enabled it is a breakpoint (R395). -/
theorem execHalt_disabled {s : State} (hs : isHart s.me = false) (he : bit (getCtx s (cur s).ctx).dbgctl 0 = false) (q : Bool) (a : Reg) :
    execHalt q a s = trapHere 9 0 0 s := by
  simp [execHalt, hs, he]

theorem trapInstructions : TrapInstructions := fun _ =>
  ⟨fun _ => rfl, fun q c _ e hq => execTrap_ready hq q c e, fun _ => rfl, fun q a hs he => execHalt_disabled hs he q a⟩

/-- Settles O11: entry is enterTrap_handled, an unhandled trap enterTrap_unhandled, with the words of entryStatus_toNat and
causeOf_causeWord, and each instruction that traps does so at once. -/
theorem trapEntryResults : Obligations.TrapEntryResults := ⟨trapEntry, unhandledTrap, trapInstructions⟩

end Sys2Proof.Machine
end


section
/-! Encodings (R257 to R272): the fields of an encoded base word are those it was built from, the one candidate of the words of a
well-formed instruction is that instruction, and so it is read back from its bytes. -/

namespace Sys2Proof

/-! ### Little-endian bytes -/

@[simp] theorem length_leBytes (n v : Nat) : (leBytes n v).length = n := by
  induction n generalizing v with
  | zero => rfl
  | succ n ih => simp [leBytes, ih]

theorem leNat_leBytes {n v : Nat} (h : v < 256 ^ n) : leNat (leBytes n v) = v := by
  induction n generalizing v with
  | zero => simp_all [leBytes, leNat]
  | succ n ih =>
    have hq : v / 256 < 256 ^ n := Nat.div_lt_of_lt_mul (by rwa [Nat.pow_succ, Nat.mul_comm] at h)
    rw [leBytes, leNat, ih hq, BitVec.toNat_ofNat]
    omega

/-- A word is spelled by its eight bytes. -/
theorem ofNat_leNat_word (w : Word) : BitVec.ofNat 64 (leNat (leBytes 8 w.toNat)) = w := by
  rw [leNat_leBytes w.isLt, BitVec.ofNat_toNat, BitVec.setWidth_eq]

theorem ofNat_leNat_base (w : BitVec 32) : BitVec.ofNat 32 (leNat (leBytes 4 w.toNat)) = w := by
  rw [leNat_leBytes w.isLt, BitVec.ofNat_toNat, BitVec.setWidth_eq]

/-! ### Fields of the formats (R260) -/

/-- The fields that the decoder reads from encoded words. -/
def Encoded.fields (w : Encoded) : Fields := Fields.of w.base (w.e.getD 0) (w.k.getD 0)

/-- L of the words that are present (R257). -/
def lField : Option Word → Option Word → BitVec 2
  | none, none => 0
  | some _, none => 1
  | none, some _ => 2
  | some _, some _ => 3

/-- The words carry what L names, and an instruction is their one candidate. -/
def ReadsBack (w : Encoded) (i : Instr) : Prop := w.fields.l = lField w.e w.k ∧ candidate w.fields = some i

theorem getLsbD_ofB (q : Bool) : (ofB q).getLsbD 0 = q := by cases q <;> rfl

theorem encM_eq_encI (l : BitVec 2) (q : Bool) (m : BitVec 6) (d a : Reg) (z : BitVec 3) (i : BitVec 12) :
    encM l q m d a z i = encI l q m d a (z ++ i) :=
  BitVec.append_assoc

theorem encV_eq_encA (l : BitVec 2) (q : Bool) (m : BitVec 6) (d a b : Reg) (t : BitVec 3) (fn : BitVec 8) :
    encV l q m d a b t fn = encA l q m d a b (t ++ fn) :=
  BitVec.append_assoc

section

variable (l : BitVec 2) (q : Bool) (m : BitVec 6) (d a b : Reg) (e k : Word)

theorem fields_encA (fn : BitVec 11) : Fields.of (encA l q m d a b fn) e k =
    ⟨l, q, m, d, a, b, fn, (encA l q m d a b fn).extractLsb' 0 15, (encA l q m d a b fn).extractLsb' 0 23, e, k,
      encA l q m d a b fn⟩ := by
  have h : ∀ w : BitVec (2 + 1 + 6 + 4 + 4 + 4 + 11), w = l ++ ofB q ++ m ++ d ++ a ++ b ++ fn →
      w.extractLsb' 30 2 = l ∧ w.getLsbD 29 = q ∧ w.extractLsb' 23 6 = m ∧ w.extractLsb' 19 4 = d ∧ w.extractLsb' 15 4 = a ∧
        w.extractLsb' 11 4 = b ∧ w.extractLsb' 0 11 = fn := by
    rintro _ rfl
    simp (disch := omega) only [BitVec.extractLsb'_append_eq_of_add_le, BitVec.extractLsb'_append_eq_of_le, Nat.reduceSub,
      BitVec.extractLsb'_eq_self, BitVec.getLsbD_append, Nat.reduceLT, if_true, if_false, getLsbD_ofB, and_self]
  simp only [Fields.of, Fields.mk.injEq, and_true]
  exact h _ rfl

theorem fields_encI (i : BitVec 15) : Fields.of (encI l q m d a i) e k =
    ⟨l, q, m, d, a, (encI l q m d a i).extractLsb' 11 4, (encI l q m d a i).extractLsb' 0 11, i,
      (encI l q m d a i).extractLsb' 0 23, e, k, encI l q m d a i⟩ := by
  have h : ∀ w : BitVec (2 + 1 + 6 + 4 + 4 + 15), w = l ++ ofB q ++ m ++ d ++ a ++ i →
      w.extractLsb' 30 2 = l ∧ w.getLsbD 29 = q ∧ w.extractLsb' 23 6 = m ∧ w.extractLsb' 19 4 = d ∧ w.extractLsb' 15 4 = a ∧
        w.extractLsb' 0 15 = i := by
    rintro _ rfl
    simp (disch := omega) only [BitVec.extractLsb'_append_eq_of_add_le, BitVec.extractLsb'_append_eq_of_le, Nat.reduceSub,
      BitVec.extractLsb'_eq_self, BitVec.getLsbD_append, Nat.reduceLT, if_true, if_false, getLsbD_ofB, and_self]
  simp only [Fields.of, Fields.mk.injEq, and_true, true_and]
  exact h _ rfl

theorem fields_encJ (j : BitVec 23) : Fields.of (encJ l q m j) e k =
    ⟨l, q, m, (encJ l q m j).extractLsb' 19 4, (encJ l q m j).extractLsb' 15 4, (encJ l q m j).extractLsb' 11 4,
      (encJ l q m j).extractLsb' 0 11, (encJ l q m j).extractLsb' 0 15, j, e, k, encJ l q m j⟩ := by
  have h : ∀ w : BitVec (2 + 1 + 6 + 23), w = l ++ ofB q ++ m ++ j →
      w.extractLsb' 30 2 = l ∧ w.getLsbD 29 = q ∧ w.extractLsb' 23 6 = m ∧ w.extractLsb' 0 23 = j := by
    rintro _ rfl
    simp (disch := omega) only [BitVec.extractLsb'_append_eq_of_add_le, BitVec.extractLsb'_append_eq_of_le, Nat.reduceSub,
      BitVec.extractLsb'_eq_self, BitVec.getLsbD_append, Nat.reduceLT, if_true, if_false, getLsbD_ofB, and_self]
  simp only [Fields.of, Fields.mk.injEq, and_true, true_and]
  exact h _ rfl

theorem low_encA (fn : BitVec 11) {s n : Nat} (h : s + n ≤ 11) : (encA l q m d a b fn).extractLsb' s n = fn.extractLsb' s n :=
  BitVec.extractLsb'_append_eq_of_add_le h

/-- The low 15 bits of a format I word, as formats M and B and the shifts cut them (R260, R294). -/
theorem low_encI (i : BitVec 15) {s n : Nat} (h : s + n ≤ 15) : (encI l q m d a i).extractLsb' s n = i.extractLsb' s n :=
  BitVec.extractLsb'_append_eq_of_add_le h

theorem size_encM (z : BitVec 3) (i : BitVec 12) : (encM l q m d a z i).extractLsb' 12 3 = z := by
  rw [encM_eq_encI, low_encI _ _ _ _ _ _ (by omega), BitVec.extractLsb'_append_eq_of_le (by omega), BitVec.extractLsb'_eq_self]

theorem low_encM (z : BitVec 3) (i : BitVec 12) {s n : Nat} (h : s + n ≤ 12) : (encM l q m d a z i).extractLsb' s n = i.extractLsb' s n := by
  rw [encM_eq_encI, low_encI _ _ _ _ _ _ (by omega), BitVec.extractLsb'_append_eq_of_add_le h]

end

/-! ### E words (R267) -/

section

variable (disp : BitVec 32) (live : BitVec 15) (sat : Bool)

theorem extS_fields : (extS disp live sat).extractLsb' 32 32 = disp ∧ (extS disp live sat).extractLsb' 17 15 = live ∧
    (extS disp live sat).getLsbD 16 = sat := by
  have h : ∀ w : BitVec (32 + 15 + 1 + 16), w = disp ++ live ++ ofB sat ++ 0#16 →
      w.extractLsb' 32 32 = disp ∧ w.extractLsb' 17 15 = live ∧ w.getLsbD 16 = sat := by
    rintro _ rfl
    simp (disch := omega) only [BitVec.extractLsb'_append_eq_of_le, BitVec.extractLsb'_append_eq_of_add_le, Nat.reduceSub,
      BitVec.extractLsb'_eq_self, BitVec.getLsbD_append, Nat.reduceLT, if_true, if_false, getLsbD_ofB, and_self]
  exact h _ rfl

@[simp] theorem disp_extS : (extS disp live sat).extractLsb' 32 32 = disp := (extS_fields disp live sat).1
@[simp] theorem live_extS : (extS disp live sat).extractLsb' 17 15 = live := (extS_fields disp live sat).2.1
@[simp] theorem sat_extS : (extS disp live sat).getLsbD 16 = sat := (extS_fields disp live sat).2.2

end

/-! ### Words that read back -/

section

variable {l : BitVec 2} {q : Bool} {m : BitVec 6} {d a b : Reg} {e k : Option Word} {i : Instr}

/-- The L field of words that carry what it names. -/
theorem readsBack_encA {fn : BitVec 11} (hl : l = lField e k)
    (h : ∀ x y w, candidate ⟨l, q, m, d, a, b, fn, x, y, e.getD 0, k.getD 0, w⟩ = some i) :
    ReadsBack ⟨encA l q m d a b fn, e, k⟩ i := by
  unfold ReadsBack Encoded.fields
  rw [fields_encA]
  exact ⟨hl, h _ _ _⟩

theorem readsBack_encV {t : BitVec 3} {fn : BitVec 8} (hl : l = lField e k)
    (h : ∀ x y w, candidate ⟨l, q, m, d, a, b, t ++ fn, x, y, e.getD 0, k.getD 0, w⟩ = some i) :
    ReadsBack ⟨encV l q m d a b t fn, e, k⟩ i := by
  rw [encV_eq_encA]
  exact readsBack_encA hl h

theorem readsBack_encI {n : BitVec 15} (hl : l = lField e k)
    (h : ∀ x y z, candidate ⟨l, q, m, d, a, x, y, n, z, e.getD 0, k.getD 0, encI l q m d a n⟩ = some i) :
    ReadsBack ⟨encI l q m d a n, e, k⟩ i := by
  unfold ReadsBack Encoded.fields
  rw [fields_encI]
  exact ⟨hl, h _ _ _⟩

theorem readsBack_encJ {j : BitVec 23} (hl : l = lField e k)
    (h : ∀ x y z u v w, candidate ⟨l, q, m, x, y, z, u, v, j, e.getD 0, k.getD 0, w⟩ = some i) :
    ReadsBack ⟨encJ l q m j, e, k⟩ i := by
  unfold ReadsBack Encoded.fields
  rw [fields_encJ]
  exact ⟨hl, h _ _ _ _ _ _⟩

end

section

variable {base : BitVec 32} {e k : Option Word}

theorem hasE_of_field (h : base.extractLsb' 30 2 = lField e k) : base.getLsbD 30 = e.isSome := by
  have h0 : (base.extractLsb' 30 2).getLsbD 0 = base.getLsbD 30 := BitVec.getLsbD_extractLsb' _ _ _ _
  rw [← h0, h]
  cases e <;> cases k <;> simp [lField]

theorem hasK_of_field (h : base.extractLsb' 30 2 = lField e k) : base.getLsbD 31 = k.isSome := by
  have h0 : (base.extractLsb' 30 2).getLsbD 1 = base.getLsbD 31 := BitVec.getLsbD_extractLsb' _ _ _ _
  rw [← h0, h]
  cases e <;> cases k <;> simp [lField]

theorem lengthOf_of_field (h : base.extractLsb' 30 2 = lField e k) :
    lengthOf base = (⟨base, e, k⟩ : Encoded).length := by
  rw [lengthOf, h]
  cases e <;> cases k <;> rfl

/-- The decoder's words after the base word are the E and K words where L names them (R257). -/
theorem decode_words {i : Instr} (h : base.extractLsb' 30 2 = lField e k)
    (hc : candidate (Fields.of base (e.getD 0) (k.getD 0)) = some i) (he : encode i = ⟨base, e, k⟩) (hwf : i.wellFormed = true) {w1 w2 : Word}
    (h1 : ∀ v, e = some v → w1 = v) (h2 : ∀ v, k = some v → (if e.isSome then w2 else w1) = v) : decode base w1 w2 = .ok i := by
  have hev : (if e.isSome = true then w1 else 0) = e.getD 0 := by
    cases e with
    | none => rfl
    | some v => exact h1 v rfl
  have hkv : (if k.isSome = true then (if e.isSome = true then w2 else w1) else 0) = k.getD 0 := by
    cases k with
    | none => rfl
    | some v => exact h2 v rfl
  have hee : (if e.isSome = true then some (e.getD 0) else none) = e := by cases e <;> rfl
  have hkk : (if k.isSome = true then some (k.getD 0) else none) = k := by cases k <;> rfl
  simp only [decode, hasE_of_field h, hasK_of_field h, hev, hkv, hc, hee, hkk, he, hwf, if_true]

end

/-! ### The words in the bytes read -/

/-- The bytes of an E or K word, where it is present. -/
def wordBytes : Option Word → List Byte
  | some v => leBytes 8 v.toNat
  | none => []

theorem bytes_eq (w : Encoded) : w.bytes = leBytes 4 w.base.toNat ++ (wordBytes w.e ++ wordBytes w.k) := by
  obtain ⟨base, e, k⟩ := w
  cases e <;> cases k <;> exact List.append_assoc _ _ _

theorem take_base (w : Encoded) (rest : List Byte) : BitVec.ofNat 32 (leNat ((w.bytes ++ rest).take 4)) = w.base := by
  rw [bytes_eq, List.append_assoc, List.take_left' (length_leBytes 4 _), ofNat_leNat_base]

theorem take_word (v : Word) (rest : List Byte) : BitVec.ofNat 64 (leNat ((leBytes 8 v.toNat ++ rest).take 8)) = v := by
  rw [List.take_left' (length_leBytes 8 _), ofNat_leNat_word]

theorem length_bytes (w : Encoded) : w.bytes.length = w.length := by
  obtain ⟨base, e, k⟩ := w
  cases e <;> cases k <;> simp [Encoded.bytes, Encoded.length]

theorem drop_base (w : Encoded) (rest : List Byte) : (w.bytes ++ rest).drop 4 = wordBytes w.e ++ (wordBytes w.k ++ rest) := by
  rw [bytes_eq, List.append_assoc, List.append_assoc, List.drop_left' (length_leBytes 4 _)]

theorem first_word {w : Encoded} {v : Word} (h : w.e = some v) (rest : List Byte) :
    BitVec.ofNat 64 (leNat (((w.bytes ++ rest).drop 4).take 8)) = v := by
  rw [drop_base, h]
  exact take_word v _

theorem literal_word {w : Encoded} {v : Word} (h : w.k = some v) (rest : List Byte) :
    (if w.e.isSome then BitVec.ofNat 64 (leNat (((w.bytes ++ rest).drop 12).take 8))
      else BitVec.ofNat 64 (leNat (((w.bytes ++ rest).drop 4).take 8))) = v := by
  have h12 : (w.bytes ++ rest).drop 12 = ((w.bytes ++ rest).drop 4).drop 8 := by rw [List.drop_drop]
  rw [h12, drop_base, h]
  cases w.e with
  | none => exact take_word v rest
  | some u =>
    have hu : (wordBytes (some u) ++ (wordBytes (some v) ++ rest)).drop 8 = wordBytes (some v) ++ rest :=
      List.drop_left' (length_leBytes 8 _)
    rw [hu]
    exact take_word v rest

/-- Words that carry what L names and whose one candidate is the instruction they encode decode to it, whatever follows (R257, R272). -/
theorem decodeBytes_encode {i : Instr} (h : ReadsBack (encode i) i) (hwf : i.wellFormed = true) (rest : List Byte) :
    decodeBytes ((encode i).bytes ++ rest) = .ok (i, (encode i).length) := by
  obtain ⟨hl, hc⟩ := h
  have hlen : lengthOf (encode i).base = (encode i).length := lengthOf_of_field hl
  have h4 : 4 ≤ (encode i).length := by simp [Encoded.length, Nat.add_assoc]
  have hdec := decode_words hl hc rfl hwf (fun _ h => first_word h rest) (fun _ h => literal_word h rest)
  simp only [decodeBytes, take_base, hlen, hdec, List.length_append, length_bytes]
  rw [if_neg (by omega), if_neg (by omega)]

end Sys2Proof
end

section
/-! Every scalar instruction is the one candidate of its words (R271). -/

namespace Sys2Proof

theorem low_append {v w : Nat} (x : BitVec v) (y : BitVec w) : (x ++ y).extractLsb' 0 w = y := by
  rw [BitVec.extractLsb'_append_eq_of_add_le (by omega), BitVec.extractLsb'_eq_self]

theorem toNat_append_div {v w : Nat} (x : BitVec v) (y : BitVec w) : (x ++ y).toNat / 2 ^ w = x.toNat := by
  rw [BitVec.toNat_append, ← Nat.shiftLeft_add_eq_or_of_lt y.isLt, Nat.shiftLeft_eq, Nat.mul_comm, Nat.mul_add_div (Nat.two_pow_pos w),
    Nat.div_eq_of_lt y.isLt, Nat.add_zero]

theorem toNat_append_mod {v w : Nat} (x : BitVec v) (y : BitVec w) : (x ++ y).toNat % 2 ^ w = y.toNat := by
  rw [BitVec.toNat_append, ← Nat.shiftLeft_add_eq_or_of_lt y.isLt, Nat.shiftLeft_eq, Nat.mul_comm, Nat.mul_add_mod,
    Nat.mod_eq_of_lt y.isLt]

theorem two_bits : ∀ i : BitVec 2, i = 0#2 ∨ i = 1#2 ∨ i = 2#2 ∨ i = 3#2 := by decide

@[simp] theorem LoadSize.ofCode_code (z : LoadSize) : LoadSize.ofCode z.code = some z := by cases z <;> rfl
@[simp] theorem StoreSize.ofCode_code (z : StoreSize) : StoreSize.ofCode z.code = some z := by cases z <;> rfl
@[simp] theorem BrCond.ofCode_code (c : BrCond) : BrCond.ofCode c.code = c := by cases c <;> rfl

/-- A part of the displacement, at its place in the E word (R267). -/
theorem disp_part (disp : BitVec 32) {live : BitVec 15} {sat : Bool} {s n : Nat} (h : s + n ≤ 32) :
    (extS disp live sat).extractLsb' (32 + s) n = disp.extractLsb' s n := by
  have hd : ∀ j, j < 32 → (extS disp live sat).getLsbD (32 + j) = disp.getLsbD j := fun j hj => by
    conv_rhs => rw [← disp_extS disp live sat, BitVec.getLsbD_extractLsb', decide_eq_true hj, Bool.true_and]
  ext j hj
  rw [BitVec.getElem_extractLsb', BitVec.getElem_extractLsb', Nat.add_assoc, hd _ (by omega)]

section

variable {q : Bool} {m : BitVec 6} {d a : Reg} {i : Instr}

/-- A form of majors 0x12 and 0x14, its operation and displacement in the base or the E word (R312). -/
theorem readsBack_encW {op : BitVec 3} {n : WordDisp}
    (h : ∀ f : Fields, f.maj = m → f.wop = op.toNat → f.wdisp = n → f.q = q → f.d = d → f.a = a → candidate f = some i) :
    ReadsBack (encW q m d a op n) i := by
  have append_fields : ∀ {v : Nat} (x : BitVec v), (x ++ op).extractLsb' 0 3 = op ∧ (x ++ op).extractLsb' 3 v = x := fun x =>
    ⟨low_append x op, by rw [BitVec.extractLsb'_append_eq_of_le (Nat.le_refl 3), Nat.sub_self, BitVec.extractLsb'_eq_self]⟩
  cases n with
  | base n =>
    have ho : (encM 0#2 q m d a 6#3 (n ++ op)).extractLsb' 0 3 = op := (low_encM _ _ _ _ _ _ _ (by omega)).trans (append_fields n).1
    have hn : (encM 0#2 q m d a 6#3 (n ++ op)).extractLsb' 3 9 = n := (low_encM _ _ _ _ _ _ _ (by omega)).trans (append_fields n).2
    rw [encM_eq_encI] at ho hn
    rw [encW, encM_eq_encI]
    exact readsBack_encI rfl fun _ _ _ => h _ rfl (by simp [Fields.wop, Fields.hasE, ho]) (by simp [Fields.wdisp, Fields.hasE, hn]) rfl rfl rfl
  | ext n =>
    have ho : (extS (n ++ op) 0#15 false).extractLsb' 32 3 = op := (disp_part (n ++ op) (by omega)).trans (append_fields n).1
    have hn : (extS (n ++ op) 0#15 false).extractLsb' 35 29 = n := (disp_part (n ++ op) (by omega)).trans (append_fields n).2
    rw [encW, encM_eq_encI]
    exact readsBack_encI rfl fun _ _ _ => h _ rfl (by simp [Fields.wop, Fields.hasE, ho]) (by simp [Fields.wdisp, Fields.hasE, hn]) rfl rfl rfl

/-- A form of format M: its size field and displacement (R260). -/
theorem readsBack_encM {l : BitVec 2} {e k : Option Word} {z : BitVec 3} {n : BitVec 12} (hl : l = lField e k)
    (h : ∀ f : Fields, f.l = l → f.maj = m → f.size = z → f.d12 = n → f.e = e.getD 0 → f.q = q → f.d = d → f.a = a → candidate f = some i) :
    ReadsBack ⟨encM l q m d a z n, e, k⟩ i := by
  have hz := size_encM l q m d a z n
  have hn : (encM l q m d a z n).extractLsb' 0 12 = n := (low_encM _ _ _ _ _ _ _ (by omega)).trans BitVec.extractLsb'_eq_self
  rw [encM_eq_encI] at hz hn ⊢
  exact readsBack_encI hl fun _ _ _ => h _ rfl rfl hz hn rfl rfl rfl rfl

end

/-- A format A form that may carry a live mask (R267). -/
theorem readsBack_encL {q : Bool} {m : BitVec 6} {d a b : Reg} {fn : BitVec 11} {live : Option (BitVec 15)} {i : Instr}
    (h : ∀ f : Fields, f.maj = m → f.fn = fn → f.live? = live → f.q = q → f.d = d → f.a = a → f.b = b → candidate f = some i) :
    ReadsBack (encL q m d a b fn live) i := by
  cases live with
  | none => exact readsBack_encA rfl fun _ _ _ => h _ rfl rfl (by simp [Fields.live?, Fields.hasE]) rfl rfl rfl rfl
  | some live => exact readsBack_encA rfl fun _ _ _ => h _ rfl rfl (by simp [Fields.live?, Fields.hasE, Fields.live]) rfl rfl rfl rfl

/-! ### Fields inside fields, at the widths of their formats -/

theorem low_mask (k : BitVec 2) : (0#2 ++ k : BitVec 4).extractLsb' 0 2 = k := low_append 0#2 k

theorem low_repCount (c : BitVec 3) : (0#1 ++ c : BitVec 4).extractLsb' 0 3 = c := low_append 0#1 c

theorem ctl_group (g : BitVec 3) (n : BitVec 8) : (g ++ n : BitVec 11).toNat / 256 = g.toNat := toNat_append_div g n

theorem ctl_number (g : BitVec 3) (n : BitVec 8) : (g ++ n : BitVec 11).extractLsb' 0 8 = n := low_append g n

theorem shift_op (q : Bool) (d a : Reg) (z : BitVec 3) (h : BitVec 6) :
    (encI 0#2 q 5#6 d a (z ++ 0#6 ++ h)).extractLsb' 12 3 = z := by
  rw [low_encI _ _ _ _ _ _ (by omega), BitVec.extractLsb'_append_eq_of_le (by omega), BitVec.extractLsb'_append_eq_of_le (by omega),
    BitVec.extractLsb'_eq_self]

theorem shift_count (q : Bool) (d a : Reg) (z : BitVec 3) (h : BitVec 6) :
    (encI 0#2 q 5#6 d a (z ++ 0#6 ++ h)).extractLsb' 0 6 = h := by
  rw [low_encI _ _ _ _ _ _ (by omega), low_append]

/-! ### Majors whose rows have fields of their own -/

theorem candidate_fullEmpty {f : Fields} (h : f.maj = 0x12#6) : candidate f = candFullEmpty f := by rw [candidate, h]; rfl

theorem candidate_reserve {f : Fields} (h : f.maj = 0x14#6) : candidate f = candReserve f := by rw [candidate, h]; rfl

theorem candidate_branch {f : Fields} (h : f.maj = 0x20#6) : candidate f = candBranch f := by rw [candidate, h]; rfl

theorem candidate_thread {f : Fields} (h : f.maj = 0x28#6) : candidate f = candThread f := by rw [candidate, h]; rfl

theorem candidate_regJump {f : Fields} (h : f.maj = 0x22#6) : candidate f = candRegJump f := by rw [candidate, h]; rfl

theorem candidate_system {f : Fields} (h : f.maj = 0x3C#6) : candidate f = candSystem f := by rw [candidate, h]; rfl

theorem candidate_rep {f : Fields} (h : f.maj = 0x35#6) : candidate f = candVCtl f := by rw [candidate, h]; rfl

theorem candidate_mask {f : Fields} (h : f.maj = 0x36#6) : candidate f = candVCtl f := by rw [candidate, h]; rfl

/-- Every scalar instruction is the one candidate of its words, which carry what L names. -/
theorem readsBack_encodeScalar {i : Instr} (hev : i.isEvent = false) (hill : ∀ w, i ≠ .illegalInstruction w) (hv : i.vrow = none) :
    ReadsBack (encodeScalar i) i := by
  cases i
  all_goals cases hev
  all_goals cases hv
  case illegalInstruction w => exact absurd rfl (hill w)
  -- format A, with no field inside fn
  case and | or | xor | andn | orn | xnor | sll | srl | sra | rol | ror | amake | aadd | adiff | mulh | mulhn | div | divn | rem | remn
      | bext | bextn | bins | seq | sne | slt | sltn | cmp | sel | min | max | minn | maxn | putAdd | putSet | putFill | barArr | barArrf
      | barWait | bcopy | spawn | nwalk | nopen | nbind | nunbind | nstat | ndup | ncreate | vsSet | vsRed | ahdl | aoff | clz | ctz | popc
      | brev | bswap | nclose | nrevoke | vsMark | vsSt | vsRejoin | vsClose | mm | putNc | barInit | fencePut | fencePost | fenceAll | exit
      | brk | cpf | cwb | cfl | join | latWait | go | yield | tid =>
    exact readsBack_encA rfl fun _ _ _ => rfl
  case pjRd | pjClr | tret | halt | wfi | gtime | ffl | trap =>
    exact readsBack_encA rfl fun _ _ _ => by
      rw [candidate_system rfl]
      simp [candSystem, Fields.hasE]
  -- an E word that saturates, one of zeros, or none
  case addSat | subSat | addnSat | subnSat | mulSat | mulnSat =>
    exact readsBack_encA rfl fun _ _ _ => by simp [candidate, candAlu, candMul, Fields.sat, Fields.hasE, satE]
  case add q d a b x | sub q d a b x | addn q d a b x | subn q d a b x | mul q d a b x | muln q d a b x =>
    cases x <;> exact readsBack_encA rfl fun _ _ _ => by simp [candidate, candAlu, candMul, Fields.sat, Fields.hasE, xl, xe, ofB]
  case addi q d a n x | addiK q d a n x =>
    cases x <;> exact readsBack_encI rfl fun _ _ _ => by
      simp [candidate, candAddi, Fields.sat, Fields.hasE, Fields.hasK, xl, xe, ofB]
  case addiSat | addiSatK =>
    exact readsBack_encI rfl fun _ _ _ => by simp [candidate, candAddi, Fields.sat, Fields.hasE, Fields.hasK, satE]
  -- formats I and J
  case andi | ori | xori | cmpi | andiK | oriK | xoriK | cmpiK | li | liK =>
    exact readsBack_encI rfl fun _ _ _ => by simp [candidate, Fields.hasK]
  case lp => exact readsBack_encI rfl fun _ _ _ => rfl
  case j => exact readsBack_encJ rfl fun _ _ _ _ _ _ => by simp [candidate, Fields.hasE]
  case jX q disp live =>
    exact readsBack_encJ rfl fun _ _ _ _ _ _ => by
      simp [candidate, Fields.hasE, Fields.disp, Fields.live]
  -- shifts: the operation and the count lie in the immediate
  case slli q d a h | srli q d a h | srai q d a h | rori q d a h =>
    exact readsBack_encI rfl fun _ _ _ => by
      simp only [candidate, candShift, Fields.size, shift_op, shift_count]
      rfl
  -- format M
  case ld | ldX =>
    exact readsBack_encM rfl fun f hl hm hz hn he hq hd ha => by
      simp [candidate, Fields.hasE, Fields.disp, hl, hm, hz, hn, he, hq, hd, ha]
  case st | stX | pst | pstX =>
    exact readsBack_encM rfl fun f hl hm hz hn he hq hd ha => by
      simp [candidate, Fields.hasE, Fields.disp, hl, hm, hz, hn, he, hq, hd, ha]
  case bEq | bNe | bLt | bGe | bLtn | bGen | bBs | bBc =>
    exact readsBack_encM rfl fun f hl hm hz hn he hq hd ha => by
      rw [candidate_branch hm]
      simp [candBranch, BrCond.ofCode, Fields.hasE, hl, hz, hn, hq, hd, ha]
  case bCondX =>
    exact readsBack_encM rfl fun f hl hm hz hn he hq hd ha => by
      rw [candidate_branch hm]
      simp [candBranch, Fields.hasE, Fields.disp, Fields.live, hl, hz, he, hq, hd, ha]
  case ldTake | ldPeek | feRd | stGive | stFill | feClr =>
    exact readsBack_encW fun f hm ho hn hq hd ha => by
      rw [candidate_fullEmpty hm]
      simp [candFullEmpty, ho, hn, hq, hd, ha]
  case rsv | rls | rlsN =>
    exact readsBack_encW fun f hm ho hn hq hd ha => by
      rw [candidate_reserve hm]
      simp [candReserve, ho, hn, hq, hd, ha]
  -- a live mask
  case call =>
    exact readsBack_encA rfl fun _ _ _ => by
      rw [candidate_regJump rfl]
      simp [candRegJump, Fields.disp, Fields.live]
  case tretX =>
    exact readsBack_encA rfl fun _ _ _ => by
      rw [candidate_system rfl]
      simp [candSystem, Fields.hasE, Fields.live]
  case jr | callr | ret =>
    exact readsBack_encL fun f hm hf hl hq hd ha hb => by
      rw [candidate_regJump hm]
      simp [candRegJump, hf, hl, hq, ha]
  case unfork | spawnc | fork =>
    exact readsBack_encL fun f hm hf hl hq hd ha hb => by
      rw [candidate_thread hm]
      simp [candThread, hf, hl, hq, hd, ha, hb]
  -- a field inside fn
  case amoAdd q d a b w | amoAnd q d a b w | amoOr q d a b w | amoXor q d a b w | amoMin q d a b w | amoMax q d a b w
      | amoMinn q d a b w | amoMaxn q d a b w | amoSwap q d a b w | amoCas q d a b w =>
    cases w <;> exact readsBack_encA rfl fun _ _ _ => by simp [candidate, candAmo, ofB]
  case latArm q d a n | mcload q d a n | latClr q n | mcclr q n | mcrd q d n =>
    obtain rfl | rfl | rfl | rfl := two_bits n <;> exact readsBack_encA rfl fun _ _ _ => rfl
  case kcInv =>
    exact readsBack_encA rfl fun _ _ _ => by
      rw [candidate_system rfl]
      simp [candSystem, low_mask]
  case ctlRd | ctlWr | ctlSet | ctlClr =>
    exact readsBack_encA rfl fun _ _ _ => by
      rw [candidate_system rfl]
      simp [candSystem, ctl_group, ctl_number]
  -- majors 0x35 and 0x36
  case repWait | rep =>
    exact readsBack_encV rfl fun _ _ _ => by
      rw [candidate_rep rfl]
      simp [candVCtl, low_repCount]
  case vfence | vbusy | kand | kor | kxor | knot | kset | kins | kext | kpop =>
    exact readsBack_encV rfl fun _ _ _ => by
      rw [candidate_mask rfl]
      simp [candVCtl, low_mask]

/-- Settles O57: a scalar instruction is the one candidate of its words (readsBack_encodeScalar), which is what decodes. -/
theorem scalarEncodingsDecode : Obligations.ScalarEncodingsDecode := by
  intro i rest hwf hev hill hv
  refine decodeBytes_encode ?_ hwf rest
  rw [encode, hv]
  exact readsBack_encodeScalar hev hill hv

end Sys2Proof
end

section
/-! Every vector instruction is the one candidate of its words (R265 to R269, R352). -/

namespace Sys2Proof

@[simp] theorem VTy.ofCode_code (t : VTy) : VTy.ofCode t.code = t := by cases t <;> rfl

/-- The fields of a vector E word are those it was built from (R268). -/
theorem VExt.ofWord_word (e : VExt) : VExt.ofWord e.word = e := by
  obtain ⟨disp, svd, sva, svb, me, ksel, rnd, sat, wid⟩ := e
  have h : ∀ w : BitVec (32 + 4 + 4 + 4 + 1 + 2 + 3 + 1 + 2 + 11),
      w = disp ++ svd ++ sva ++ svb ++ ofB me ++ ksel ++ rnd ++ ofB sat ++ wid ++ 0#11 →
      w.extractLsb' 32 32 = disp ∧ w.extractLsb' 28 4 = svd ∧ w.extractLsb' 24 4 = sva ∧ w.extractLsb' 20 4 = svb ∧
        w.getLsbD 19 = me ∧ w.extractLsb' 17 2 = ksel ∧ w.extractLsb' 14 3 = rnd ∧ w.getLsbD 13 = sat ∧ w.extractLsb' 11 2 = wid := by
    rintro _ rfl
    simp (disch := omega) only [BitVec.extractLsb'_append_eq_of_le, BitVec.extractLsb'_append_eq_of_add_le, Nat.reduceSub,
      BitVec.extractLsb'_eq_self, BitVec.getLsbD_append, Nat.reduceLT, if_true, if_false, getLsbD_ofB, and_self]
  simp only [VExt.ofWord, VExt.mk.injEq]
  exact h _ rfl

/-! ### fn with its U and X bits -/

/-- The fn field of a row, with the U and X bits of the operands (R352). -/
def VRow.fnBits (r : VRow) (g : VArgs) : BitVec 8 := r.fn ||| (ofB g.u ++ 0#7) ||| (0#1 ++ ofB g.x ++ 0#6)

variable {r : VRow} {g : VArgs}

theorem fnBits_u : (r.fnBits g).getLsbD 7 = (r.fn.getLsbD 7 || g.u) := by
  unfold VRow.fnBits
  cases g.u <;> cases g.x <;> simp [ofB]

theorem fnBits_x : (r.fnBits g).getLsbD 6 = (r.fn.getLsbD 6 || g.x) := by
  unfold VRow.fnBits
  cases g.u <;> cases g.x <;> simp [ofB]

theorem fnBits_mod_64 (h : r.fn.toNat < 64) : (r.fnBits g).toNat % 64 = r.fn.toNat := by
  have hmod : ∀ a b : Nat, (a ||| b) % 64 = a % 64 ||| b % 64 := fun a b => @Nat.or_mod_two_pow a b 6
  unfold VRow.fnBits
  cases g.u <;> cases g.x <;> simp [ofB, hmod, Nat.mod_eq_of_lt h]

theorem fnBits_mod_128 (h : r.fn.toNat < 128) (hx : g.x = false) : (r.fnBits g).toNat % 128 = r.fn.toNat := by
  have hmod : ∀ a b : Nat, (a ||| b) % 128 = a % 128 ||| b % 128 := fun a b => @Nat.or_mod_two_pow a b 7
  rw [VRow.fnBits, hx]
  cases g.u <;> simp [ofB, hmod, Nat.mod_eq_of_lt h]

theorem fnBits_of_no_bits (hu : g.u = false) (hx : g.x = false) : r.fnBits g = r.fn := by
  simp [VRow.fnBits, hu, hx, ofB]

/-! ### Rows that read back -/

/-- What the decoder reads from a format V instruction: its major, its fn, which words are present, and its operands where the major's
U and X bits are those of the row (R352). -/
theorem readsBack_encVArgs {i : Instr}
    (h : ∀ f : Fields, f.maj = r.major → f.fn.toNat % 256 = (r.fnBits g).toNat → f.hasE = g.e.isSome → f.hasK = g.k.isSome →
      (∀ u x, (u && (r.fnBits g).getLsbD 7) = g.u → (x && (r.fnBits g).getLsbD 6) = g.x → f.vargs u x = g) → candidate f = some i) :
    ReadsBack (encVArgs r g) i := by
  have hw : encVArgs r g = ⟨encA (ofB g.k.isSome ++ ofB g.e.isSome) g.q r.major g.vd g.va g.vb (g.ty.code ++ r.fnBits g),
      g.e.map VExt.word, g.k⟩ := by
    rw [encVArgs, encV_eq_encA]
    rfl
  have hty : (encA (ofB g.k.isSome ++ ofB g.e.isSome) g.q r.major g.vd g.va g.vb (g.ty.code ++ r.fnBits g)).extractLsb' 8 3 = g.ty.code := by
    rw [low_encA _ _ _ _ _ _ _ (by omega), BitVec.extractLsb'_append_eq_of_le (Nat.le_refl 8), BitVec.extractLsb'_eq_self]
  have hl : (ofB g.k.isSome ++ ofB g.e.isSome : BitVec 2) = lField (g.e.map VExt.word) g.k := by
    cases g.e <;> cases g.k <;> simp [lField, ofB]
  have hE : (ofB g.k.isSome ++ ofB g.e.isSome : BitVec 2).getLsbD 0 = g.e.isSome := by
    cases g.e <;> cases g.k <;> simp [ofB]
  have hK : (ofB g.k.isSome ++ ofB g.e.isSome : BitVec 2).getLsbD 1 = g.k.isSome := by
    cases g.e <;> cases g.k <;> simp [ofB]
  rw [hw, ReadsBack, Encoded.fields, fields_encA]
  refine ⟨hl, h _ rfl (toNat_append_mod g.ty.code (r.fnBits g)) hE hK fun u x hu hx => ?_⟩
  have hfn : ∀ j, j < 8 → (g.ty.code ++ r.fnBits g : BitVec 11).getLsbD j = (r.fnBits g).getLsbD j := fun j hj =>
    (BitVec.getLsbD_append ..).trans (if_pos hj)
  have he : (if g.e.isSome = true then some (VExt.ofWord ((g.e.map VExt.word).getD 0)) else none) = g.e := by
    cases g.e with
    | none => rfl
    | some e => exact congrArg some (VExt.ofWord_word e)
  have hk : (if g.k.isSome = true then some (g.k.getD 0) else none) = g.k := by cases g.k <;> rfl
  simp only [Fields.vargs, Fields.hasE, Fields.hasK, hE, hK, hty, hfn _ (by omega : 7 < 8), hfn _ (by omega : 6 < 8), hu, hx, he, hk,
    VTy.ofCode_code]

theorem candidate_vint {f : Fields} (h : f.maj = 0x30#6) : candidate f = candVInt f := by rw [candidate, h]; rfl
theorem candidate_vflt {f : Fields} (h : f.maj = 0x31#6) : candidate f = candVFlt f := by rw [candidate, h]; rfl
theorem candidate_vmem {f : Fields} (h : f.maj = 0x32#6) : candidate f = candVMem f := by rw [candidate, h]; rfl
theorem candidate_vcvt {f : Fields} (h : f.maj = 0x33#6) : candidate f = candVCvt f := by rw [candidate, h]; rfl
theorem candidate_vred {f : Fields} (h : f.maj = 0x34#6) : candidate f = candVRed f := by rw [candidate, h]; rfl

/-- Majors 0x30 and 0x31 have U and X beside a fn of six bits. -/
theorem readsBack_arith {i : Instr} (hfn : r.fn.toNat < 64)
    (h : ∀ f : Fields, f.maj = r.major → f.fn.toNat % 64 = r.fn.toNat → f.hasE = g.e.isSome → f.hasK = g.k.isSome →
      f.vargs true true = g → candidate f = some i) : ReadsBack (encVArgs r g) i := by
  have hbit : ∀ j, 6 ≤ j → r.fn.getLsbD j = false := fun j hj =>
    Nat.testBit_lt_two_pow (Nat.lt_of_lt_of_le hfn (Nat.pow_le_pow_right (Nat.succ_pos 1) hj))
  refine readsBack_encVArgs fun f hm hf hE hK hv => h f hm ?_ hE hK (hv true true ?_ ?_)
  · rw [← fnBits_mod_64 hfn, ← hf, Nat.mod_mod_of_dvd _ (by omega)]
  · rw [fnBits_u, hbit 7 (by omega), Bool.true_and, Bool.false_or]
  · rw [fnBits_x, hbit 6 (by omega), Bool.true_and, Bool.false_or]

/-- Majors 0x33 and 0x34 have U beside a fn of seven bits, and their rows no X. -/
theorem readsBack_convert {i : Instr} (hfn : r.fn.toNat < 128) (hx : g.x = false)
    (h : ∀ f : Fields, f.maj = r.major → f.fn.toNat % 128 = r.fn.toNat → f.vargs true false = g → candidate f = some i) :
    ReadsBack (encVArgs r g) i := by
  have hbit : r.fn.getLsbD 7 = false := Nat.testBit_lt_two_pow hfn
  refine readsBack_encVArgs fun f hm hf _ _ hv => h f hm ?_ (hv true false ?_ hx.symm)
  · rw [← fnBits_mod_128 hfn hx, ← hf, Nat.mod_mod_of_dvd _ (by omega)]
  · rw [fnBits_u, hbit, Bool.true_and, Bool.false_or]

/-- Major 0x32 has neither U nor X. -/
theorem readsBack_memory {i : Instr} (hu : g.u = false) (hx : g.x = false) 
    (h : ∀ f : Fields, f.maj = r.major → f.fn.toNat % 256 = r.fn.toNat → f.hasE = g.e.isSome → f.vargs false false = g → candidate f = some i) :
    ReadsBack (encVArgs r g) i :=
  readsBack_encVArgs fun f hm hf hE _ hv => h f hm (by rw [hf, fnBits_of_no_bits hu hx]) hE (hv false false hu.symm hx.symm)

/-! ### What R272 admits -/

theorem u_of_ok (h : r.ok g = true) (hr : r.u = false) : g.u = false := by
  simp only [VRow.ok, Bool.and_eq_true, hr, Bool.false_or, Bool.not_eq_true'] at h
  exact h.1.1.1.1.1.1.2

theorem x_of_ok (h : r.ok g = true) (hr : r.x = false) : g.x = false := by
  simp only [VRow.ok, Bool.and_eq_true, hr, Bool.false_or, Bool.not_eq_true'] at h
  exact h.1.1.1.1.1.2

/-- A well-formed format V instruction obeys its row (R272). -/
theorem ok_of_wellFormed {i : Instr} (hv : i.vrow = some (r, g)) (hwf : i.wellFormed = true) : r.ok g = true := by
  cases i
  all_goals cases hv
  all_goals simp only [Instr.wellFormed, Bool.and_eq_true, and_assoc] at hwf
  case vattc | vattf => cases ‹AttW› <;> exact hwf.1
  all_goals exact hwf.1

/-- Every vector instruction is the one candidate of its words, which carry what L names. -/
theorem readsBack_vector {i : Instr} (hv : i.vrow = some (r, g)) (hwf : i.wellFormed = true) : ReadsBack (encVArgs r g) i := by
  have hok := ok_of_wellFormed hv hwf
  cases i
  all_goals cases hv
  -- major 0x30
  case vsubInt | vmulInt | vmulh | vminInt | vmaxInt | vand | vor | vxor | vsll | vsr | vabsInt | vmac | vwmulInt | vwmac | vdotInt
      | vceqInt | vcltInt | vcleInt | vmov =>
    exact readsBack_arith (by decide) fun f hm hf _ _ hg => by
      rw [candidate_vint hm, candVInt, hf, hg]
      rfl
  case vaddInt | vaddIntK =>
    simp only [Instr.wellFormed, Bool.and_eq_true, Option.isNone_iff_eq_none] at hwf
    exact readsBack_arith (by decide) fun f hm hf _ hk hg => by
      rw [candidate_vint hm, candVInt, hf, hg, hk, hwf.2]
      rfl
  -- major 0x31
  case vsubFlt | vdiv | vfma | vminFlt | vmaxFlt | vabsFlt | vsqrt | vexp2 | vlog2 | vrcp | vrsq | vwmulFlt | vwfma | vdotFlt | vceqFlt
      | vcltFlt | vcleFlt =>
    exact readsBack_arith (by decide) fun f hm hf _ _ hg => by
      rw [candidate_vflt hm, candVFlt, hf, hg]
      rfl
  case vmulFlt | vmulFltK =>
    simp only [Instr.wellFormed, Bool.and_eq_true, Option.isNone_iff_eq_none] at hwf
    exact readsBack_arith (by decide) fun f hm hf _ hk hg => by
      rw [candidate_vflt hm, candVFlt, hf, hg, hk, hwf.2]
      rfl
  case vaddFlt | vaddFltX =>
    simp only [Instr.wellFormed, Bool.and_eq_true, Option.isNone_iff_eq_none] at hwf
    exact readsBack_arith (by decide) fun f hm hf he _ hg => by
      rw [candidate_vflt hm, candVFlt, hf, hg, he, hwf.2]
      rfl
  -- major 0x32
  case vgather | vscatter | vldl | vldlV | vstl | vstlV | vldsc | vstsc =>
    exact readsBack_memory (u_of_ok hok rfl) (x_of_ok hok rfl) fun f hm hf _ hg => by
      rw [candidate_vmem hm, candVMem, hf, hg]
      rfl
  case vld | vldX | vst | vstX =>
    simp only [Instr.wellFormed, Bool.and_eq_true, Option.isNone_iff_eq_none] at hwf
    exact readsBack_memory (u_of_ok hok rfl) (x_of_ok hok rfl) fun f hm hf he hg => by
      rw [candidate_vmem hm, candVMem, hf, hg, he, hwf.2]
      rfl
  -- major 0x33
  case vunpk | vunpk6 | vpk | vpk6 | vperm | vslide | vext | vins =>
    exact readsBack_convert (by decide) (x_of_ok hok rfl) fun f hm hf hg => by
      rw [candidate_vcvt hm, candVCvt, hf, hg]
      rfl
  case vcvt | vcvtW =>
    simp only [Instr.wellFormed, Bool.and_eq_true, bne_iff_ne, beq_iff_eq] at hwf
    exact readsBack_convert (by decide) (x_of_ok hok rfl) fun f hm hf hg => by
      rw [candidate_vcvt hm, candVCvt, hf, hg]
      simp [rowVcvt, rowVcvtW, hwf.2]
  -- major 0x34
  case vredAdd | vredMax | vredMin =>
    exact readsBack_convert (by decide) (x_of_ok hok rfl) fun f hm hf hg => by
      rw [candidate_vred hm, candVRed, hf, hg]
      rfl
  case vattc | vattf =>
    cases ‹AttW› <;> exact readsBack_convert (by decide) (x_of_ok hok rfl) fun f hm hf hg => by
      rw [candidate_vred hm, candVRed, hf, hg]
      rfl

/-- Settles O58: a vector instruction is the one candidate of its words (readsBack_vector), which is what decodes. -/
theorem vectorEncodingsDecode : Obligations.VectorEncodingsDecode := by
  intro i rest r g hv hwf
  refine decodeBytes_encode ?_ hwf rest
  rw [encode, hv]
  exact readsBack_vector hv hwf

end Sys2Proof
end

section
/-! Words of the spec's tables (R257 to R272). -/

namespace Sys2Proof

/-- What decodes has passed the decoder's checks: it is well formed, and its words are the words read (R272). -/
theorem decode_ok {base : BitVec 32} {w1 w2 : Word} {i : Instr} (h : decode base w1 w2 = .ok i) :
    i.wellFormed = true ∧ encode i = ⟨base, if base.getLsbD 30 then some w1 else none,
      if base.getLsbD 31 then some (if base.getLsbD 30 then w2 else w1) else none⟩ := by
  have he : ∀ (b : Bool) (v : Word), (if b then some (if b then v else 0) else none) = if b then some v else none := by
    intro b v
    cases b <;> rfl
  simp only [decode, he] at h
  cases hc : candidate (Fields.of base (if base.getLsbD 30 then w1 else 0)
      (if base.getLsbD 31 then (if base.getLsbD 30 then w2 else w1) else 0)) with
  | none =>
    rw [hc] at h
    cases h
  | some j =>
    simp only [hc] at h
    by_cases hj : encode j = ⟨base, if base.getLsbD 30 then some w1 else none,
        if base.getLsbD 31 then some (if base.getLsbD 30 then w2 else w1) else none⟩
    · by_cases hwf : j.wellFormed = true
      · rw [if_pos hj, if_pos hwf] at h
        cases h
        exact ⟨hwf, hj⟩
      · rw [if_pos hj, if_neg hwf] at h
        cases h
    · rw [if_neg hj] at h
      cases h

/-- Settles O56: the listed words by evaluation, and whatever decodes by decode_ok. -/
theorem wordsDecode : Obligations.WordsDecode := by
  refine ⟨rfl, rfl, rfl, rfl, rfl, rfl, rfl, rfl, rfl, rfl, rfl, fun base w1 w2 i h => ?_⟩
  obtain ⟨hwf, he⟩ := decode_ok h
  rw [he]
  cases base.getLsbD 30 <;> cases base.getLsbD 31 <;> simp [hwf]

end Sys2Proof
end

section
/-! The meaning that exec gives each instruction and event named below. -/

namespace Sys2Proof.Machine

theorem exec_coldReset : ∀ (s : State), exec .coldReset s = execColdReset s := fun _ => rfl
theorem exec_pkstWarmReset : ∀ bmi (s : State), exec (.pkstWarmReset bmi) s = execPkstWarmReset bmi s := fun _ _ => rfl
theorem exec_pkstCaphitClear : ∀ bmi (s : State), exec (.pkstCaphitClear bmi) s = execPkstCaphitClear bmi s := fun _ _ => rfl
theorem exec_bringupStageDone : ∀ ok mask (s : State), exec (.bringupStageDone ok mask) s = execBringupStageDone ok mask s := fun _ _ _ => rfl
theorem exec_bmiReadPkst : ∀ (s : State), exec .bmiReadPkst s = execBmiReadPkst s := fun _ => rfl
theorem exec_bmiWritePkst : ∀ v (s : State), exec (.bmiWritePkst v) s = execBmiWritePkst v s := fun _ _ => rfl
theorem exec_bmiUnknownCommand : ∀ cmd (s : State), exec (.bmiUnknownCommand cmd) s = execBmiUnknownCommand cmd s := fun _ _ => rfl
theorem exec_frameBoundary : ∀ (s : State), exec .frameBoundary s = execFrameBoundary s := fun _ => rfl
theorem exec_thermalTrip : ∀ die temp (s : State), exec (.thermalTrip die temp) s = execThermalTrip die temp s := fun _ _ _ => rfl
theorem exec_thermalTripEnd : ∀ temp0 temp1 (s : State), exec (.thermalTripEnd temp0 temp1) s = execThermalTripEnd temp0 temp1 s := fun _ _ _ => rfl
theorem exec_thermalShutdown : ∀ die temp (s : State), exec (.thermalShutdown die temp) s = execThermalShutdown die temp s := fun _ _ _ => rfl
theorem exec_ptsTick : ∀ core (s : State), exec (.ptsTick core) s = execPtsTick core s := fun _ _ => rfl
theorem exec_tdctlSwap : ∀ (s : State), exec .tdctlSwap s = execTdctlSwap s := fun _ => rfl
theorem exec_registerWrite : ∀ fn off v (s : State), exec (.registerWrite fn off v) s = execRegisterWrite fn off v s := fun _ _ _ _ => rfl
theorem exec_globalLinkDown : ∀ quadrant j (s : State), exec (.globalLinkDown quadrant j) s = execGlobalLinkDown quadrant j s := fun _ _ _ => rfl
theorem exec_flitBadCheck : ∀ port (s : State), exec (.flitBadCheck port) s = execFlitBadCheck port s := fun _ _ => rfl
theorem exec_laneError : ∀ port lane (s : State), exec (.laneError port lane) s = execLaneError port lane s := fun _ _ _ => rfl
theorem exec_laneSelftestDone : ∀ port lane passed (s : State), exec (.laneSelftestDone port lane passed) s = execLaneSelftestDone port lane passed s := fun _ _ _ _ => rfl
theorem exec_portRetrainDone : ∀ port (s : State), exec (.portRetrainDone port) s = execPortRetrainDone port s := fun _ _ => rfl
theorem exec_sramRowError : ∀ unit row corrected (s : State), exec (.sramRowError unit row corrected) s = execSramRowError unit row corrected s := fun _ _ _ _ => rfl
theorem exec_rowSelftestDone : ∀ unit row passed (s : State), exec (.rowSelftestDone unit row passed) s = execRowSelftestDone unit row passed s := fun _ _ _ _ => rfl
theorem exec_peerLinkDown : ∀ link (s : State), exec (.peerLinkDown link) s = execPeerLinkDown link s := fun _ _ => rfl
theorem exec_hostWalk : ∀ fn start path (s : State), exec (.hostWalk fn start path) s = execHostWalk fn start path s := fun _ _ _ _ => rfl
theorem exec_hostOpen : ∀ fn h w (s : State), exec (.hostOpen fn h w) s = execHostOpen fn h w s := fun _ _ _ _ => rfl
theorem exec_hostClose : ∀ fn h (s : State), exec (.hostClose fn h) s = execHostClose fn h s := fun _ _ _ => rfl
theorem exec_hostBind : ∀ fn path word (s : State), exec (.hostBind fn path word) s = execHostBind fn path word s := fun _ _ _ _ => rfl
theorem exec_hostUnbind : ∀ fn path d (s : State), exec (.hostUnbind fn path d) s = execHostUnbind fn path d s := fun _ _ _ _ => rfl
theorem exec_hostStat : ∀ fn h record (s : State), exec (.hostStat fn h record) s = execHostStat fn h record s := fun _ _ _ _ => rfl
theorem exec_hostRevoke : ∀ fn h (s : State), exec (.hostRevoke fn h) s = execHostRevoke fn h s := fun _ _ _ => rfl
theorem exec_hostDup : ∀ fn h w (s : State), exec (.hostDup fn h w) s = execHostDup fn h w s := fun _ _ _ _ => rfl
theorem exec_hostCreate : ∀ fn path record (s : State), exec (.hostCreate fn path record) s = execHostCreate fn path record s := fun _ _ _ _ => rfl
theorem exec_hostRead : ∀ fn addr n (s : State), exec (.hostRead fn addr n) s = execHostRead fn addr n s := fun _ _ _ _ => rfl
theorem exec_hostWrite : ∀ fn addr data fe (s : State), exec (.hostWrite fn addr data fe) s = execHostWrite fn addr data fe s := fun _ _ _ _ _ => rfl
theorem exec_keyCacheMiss : ∀ unit ctx addr (s : State), exec (.keyCacheMiss unit ctx addr) s = execKeyCacheMiss unit ctx addr s := fun _ _ _ _ => rfl
theorem exec_nodeCacheMiss : ∀ node by_ (s : State), exec (.nodeCacheMiss node by_) s = execNodeCacheMiss node by_ s := fun _ _ _ => rfl
theorem exec_nodeMissTimeout : ∀ node (s : State), exec (.nodeMissTimeout node) s = execNodeMissTimeout node s := fun _ _ => rfl
theorem exec_filterInstall : ∀ rid quadrant (s : State), exec (.filterInstall rid quadrant) s = execFilterInstall rid quadrant s := fun _ _ _ => rfl
theorem exec_keyInvalidate : ∀ rid quadrant (s : State), exec (.keyInvalidate rid quadrant) s = execKeyInvalidate rid quadrant s := fun _ _ _ => rfl
theorem exec_revokeAck : ∀ rid quadrant (s : State), exec (.revokeAck rid quadrant) s = execRevokeAck rid quadrant s := fun _ _ _ => rfl
theorem exec_journalRetireReport : ∀ rid quadrant (s : State), exec (.journalRetireReport rid quadrant) s = execJournalRetireReport rid quadrant s := fun _ _ _ => rfl
theorem exec_nodeDestroy : ∀ node (s : State), exec (.nodeDestroy node) s = execNodeDestroy node s := fun _ _ => rfl
theorem exec_queueAppend : ∀ node off ctx pkg data (s : State), exec (.queueAppend node off ctx pkg data) s = execQueueAppend node off ctx pkg data s := fun _ _ _ _ _ _ => rfl
theorem exec_ccCreate : ∀ fn (s : State), exec (.ccCreate fn) s = execCcCreate fn s := fun _ _ => rfl
theorem exec_ccDestroy : ∀ fn ctx (s : State), exec (.ccDestroy fn ctx) s = execCcDestroy fn ctx s := fun _ _ _ => rfl
theorem exec_ccActThrough : ∀ fn ctx (s : State), exec (.ccActThrough fn ctx) s = execCcActThrough fn ctx s := fun _ _ _ => rfl
theorem exec_gqTailStore : ∀ queue size v (s : State), exec (.gqTailStore queue size v) s = execGqTailStore queue size v s := fun _ _ _ _ => rfl
theorem exec_gqTailNonresident : ∀ queue size v (s : State), exec (.gqTailNonresident queue size v) s = execGqTailNonresident queue size v s := fun _ _ _ _ => rfl
theorem exec_gqctlResume : ∀ queue (s : State), exec (.gqctlResume queue) s = execGqctlResume queue s := fun _ _ => rfl
theorem exec_recordFetch : ∀ queue (s : State), exec (.recordFetch queue) s = execRecordFetch queue s := fun _ _ => rfl
theorem exec_nodeRelease : ∀ queue slot order faulted origq origslot (s : State), exec (.nodeRelease queue slot order faulted origq origslot) s = execNodeRelease queue slot order faulted origq origslot s := fun _ _ _ _ _ _ _ => rfl
theorem exec_nodeDispatch : ∀ queue (s : State), exec (.nodeDispatch queue) s = execNodeDispatch queue s := fun _ _ => rfl
theorem exec_nodeWaitTimeout : ∀ queue slot (s : State), exec (.nodeWaitTimeout queue slot) s = execNodeWaitTimeout queue slot s := fun _ _ _ => rfl
theorem exec_gateTimeout : ∀ queue slot (s : State), exec (.gateTimeout queue slot) s = execGateTimeout queue slot s := fun _ _ _ => rfl
theorem exec_formatWindowInstall : ∀ queue slot window image (s : State), exec (.formatWindowInstall queue slot window image) s = execFormatWindowInstall queue slot window image s := fun _ _ _ _ _ => rfl
theorem exec_bindSetRun : ∀ queue slot (s : State), exec (.bindSetRun queue slot) s = execBindSetRun queue slot s := fun _ _ _ => rfl
theorem exec_nodeComplete : ∀ queue slot out (s : State), exec (.nodeComplete queue slot out) s = execNodeComplete queue slot out s := fun _ _ _ _ => rfl
theorem exec_qgangMap : ∀ gang tumbler first (s : State), exec (.qgangMap gang tumbler first) s = execQgangMap gang tumbler first s := fun _ _ _ _ => rfl
theorem exec_qgangUnmap : ∀ gang (s : State), exec (.qgangUnmap gang) s = execQgangUnmap gang s := fun _ _ => rfl
theorem exec_vfDisable : ∀ (s : State), exec .vfDisable s = execVfDisable s := fun _ => rfl
theorem exec_vfDisableAtT : ∀ (s : State), exec .vfDisableAtT s = execVfDisableAtT s := fun _ => rfl
theorem exec_vfEnable : ∀ (s : State), exec .vfEnable s = execVfEnable s := fun _ => rfl
theorem exec_fwCoreWake : ∀ core (s : State), exec (.fwCoreWake core) s = execFwCoreWake core s := fun _ _ => rfl
theorem exec_hmbFill : ∀ (s : State), exec .hmbFill s = execHmbFill s := fun _ => rfl
theorem exec_hmbMap : ∀ (s : State), exec .hmbMap s = execHmbMap s := fun _ => rfl
theorem exec_hmbSpdm : ∀ (s : State), exec .hmbSpdm s = execHmbSpdm s := fun _ => rfl
theorem exec_spdmGetVersion : ∀ req (s : State), exec (.spdmGetVersion req) s = execSpdmGetVersion req s := fun _ _ => rfl
theorem exec_spdmGetCapabilities : ∀ req (s : State), exec (.spdmGetCapabilities req) s = execSpdmGetCapabilities req s := fun _ _ => rfl
theorem exec_spdmNegotiateAlgorithms : ∀ req (s : State), exec (.spdmNegotiateAlgorithms req) s = execSpdmNegotiateAlgorithms req s := fun _ _ => rfl
theorem exec_spdmGetDigests : ∀ req (s : State), exec (.spdmGetDigests req) s = execSpdmGetDigests req s := fun _ _ => rfl
theorem exec_spdmGetCertificate : ∀ req (s : State), exec (.spdmGetCertificate req) s = execSpdmGetCertificate req s := fun _ _ => rfl
theorem exec_spdmChallenge : ∀ req (s : State), exec (.spdmChallenge req) s = execSpdmChallenge req s := fun _ _ => rfl
theorem exec_spdmGetMeasurements : ∀ req (s : State), exec (.spdmGetMeasurements req) s = execSpdmGetMeasurements req s := fun _ _ => rfl
theorem exec_spdmUnsupported : ∀ req (s : State), exec (.spdmUnsupported req) s = execSpdmUnsupported req s := fun _ _ => rfl
theorem exec_hmbImgw : ∀ (s : State), exec .hmbImgw s = execHmbImgw s := fun _ => rfl
theorem exec_hmbPartrec : ∀ (s : State), exec .hmbPartrec s = execHmbPartrec s := fun _ => rfl
theorem exec_hmbNodereq : ∀ (s : State), exec .hmbNodereq s = execHmbNodereq s := fun _ => rfl
theorem exec_hmbDefrag : ∀ (s : State), exec .hmbDefrag s = execHmbDefrag s := fun _ => rfl
theorem exec_hmbBadType : ∀ (s : State), exec .hmbBadType s = execHmbBadType s := fun _ => rfl
theorem exec_pwrcapWrite : ∀ fn v (s : State), exec (.pwrcapWrite fn v) s = execPwrcapWrite fn v s := fun _ _ _ => rfl
theorem exec_updstGo : ∀ fn (s : State), exec (.updstGo fn) s = execUpdstGo fn s := fun _ _ => rfl
theorem exec_updateHeartbeat : ∀ (s : State), exec .updateHeartbeat s = execUpdateHeartbeat s := fun _ => rfl
theorem exec_heartbeatTimeout : ∀ (s : State), exec .heartbeatTimeout s = execHeartbeatTimeout s := fun _ => rfl
theorem exec_launchDispatch : ∀ queue slot (s : State), exec (.launchDispatch queue slot) s = execLaunchDispatch queue slot s := fun _ _ _ => rfl
theorem exec_slotFree : ∀ core slot (s : State), exec (.slotFree core slot) s = execSlotFree core slot s := fun _ _ _ => rfl
theorem exec_slotReservationRequest : ∀ ask (s : State), exec (.slotReservationRequest ask) s = execSlotReservationRequest ask s := fun _ _ => rfl
theorem exec_slotReservationReply : ∀ ask slot (s : State), exec (.slotReservationReply ask slot) s = execSlotReservationReply ask slot s := fun _ _ _ => rfl
theorem exec_parcelArrival : ∀ p (s : State), exec (.parcelArrival p) s = execParcelArrival p s := fun _ _ => rfl
theorem exec_waitRetryPoll : ∀ t (s : State), exec (.waitRetryPoll t) s = execWaitRetryPoll t s := fun _ _ => rfl
theorem exec_watchdogExpiry : ∀ t (s : State), exec (.watchdogExpiry t) s = execWatchdogExpiry t s := fun _ _ => rfl
theorem exec_reservationHoldExpiry : ∀ t (s : State), exec (.reservationHoldExpiry t) s = execReservationHoldExpiry t s := fun _ _ => rfl
theorem exec_latchWaitTimeout : ∀ t (s : State), exec (.latchWaitTimeout t) s = execLatchWaitTimeout t s := fun _ _ => rfl
theorem exec_lateResultReturn : ∀ t answer (s : State), exec (.lateResultReturn t answer) s = execLateResultReturn t answer s := fun _ _ _ => rfl
theorem exec_gangArm : ∀ part (s : State), exec (.gangArm part) s = execGangArm part s := fun _ _ => rfl
theorem exec_gangStop : ∀ part (s : State), exec (.gangStop part) s = execGangStop part s := fun _ _ => rfl
theorem exec_gangRestore : ∀ part (s : State), exec (.gangRestore part) s = execGangRestore part s := fun _ _ => rfl
theorem exec_sliceEnd : ∀ part (s : State), exec (.sliceEnd part) s = execSliceEnd part s := fun _ _ => rfl
theorem exec_defragmentation : ∀ part slice target (s : State), exec (.defragmentation part slice target) s = execDefragmentation part slice target s := fun _ _ _ _ => rfl
theorem exec_travelDeparture : ∀ t (s : State), exec (.travelDeparture t) s = execTravelDeparture t s := fun _ _ => rfl
theorem exec_travelArrival : ∀ p (s : State), exec (.travelArrival p) s = execTravelArrival p s := fun _ _ => rfl
theorem exec_putSegmentLand : ∀ p dst off data (s : State), exec (.putSegmentLand p dst off data) s = execPutSegmentLand p dst off data s := fun _ _ _ _ _ => rfl
theorem exec_putSegmentAck : ∀ p bytes refused (s : State), exec (.putSegmentAck p bytes refused) s = execPutSegmentAck p bytes refused s := fun _ _ _ _ => rfl
theorem exec_putCounterAction : ∀ core entry (s : State), exec (.putCounterAction core entry) s = execPutCounterAction core entry s := fun _ _ _ => rfl
theorem exec_postedAck : ∀ core entry refused (s : State), exec (.postedAck core entry refused) s = execPostedAck core entry refused s := fun _ _ _ _ => rfl
theorem exec_chunkArrival : ∀ node station input c (s : State), exec (.chunkArrival node station input c) s = execChunkArrival node station input c s := fun _ _ _ _ _ => rfl
theorem exec_markerArrival : ∀ node station input c (s : State), exec (.markerArrival node station input c) s = execMarkerArrival node station input c s := fun _ _ _ _ _ => rfl
theorem exec_streamInputTimeout : ∀ node station input (s : State), exec (.streamInputTimeout node station input) s = execStreamInputTimeout node station input s := fun _ _ _ _ => rfl
theorem exec_inputDeadDeclare : ∀ node member (s : State), exec (.inputDeadDeclare node member) s = execInputDeadDeclare node member s := fun _ _ _ => rfl
theorem exec_lccReport : ∀ node member (s : State), exec (.lccReport node member) s = execLccReport node member s := fun _ _ _ => rfl
theorem exec_chunkLanding : ∀ node member c (s : State), exec (.chunkLanding node member c) s = execChunkLanding node member c s := fun _ _ _ _ => rfl
theorem exec_frameClaim : ∀ node frame (s : State), exec (.frameClaim node frame) s = execFrameClaim node frame s := fun _ _ _ => rfl
theorem exec_mediaPacketArrival : ∀ port p (s : State), exec (.mediaPacketArrival port p) s = execMediaPacketArrival port p s := fun _ _ _ => rfl
theorem exec_frameDeadline : ∀ node frame (s : State), exec (.frameDeadline node frame) s = execFrameDeadline node frame s := fun _ _ _ => rfl
theorem exec_ptpMessage : ∀ from_ offset trim locked (s : State), exec (.ptpMessage from_ offset trim locked) s = execPtpMessage from_ offset trim locked s := fun _ _ _ _ _ => rfl
theorem exec_mediaEnable : ∀ node v (s : State), exec (.mediaEnable node v) s = execMediaEnable node v s := fun _ _ _ => rfl
theorem exec_homeLoad : ∀ core line renew (s : State), exec (.homeLoad core line renew) s = execHomeLoad core line renew s := fun _ _ _ _ => rfl
theorem exec_homeStore : ∀ core line (s : State), exec (.homeStore core line) s = execHomeStore core line s := fun _ _ _ => rfl
theorem exec_llcEviction : ∀ line (s : State), exec (.llcEviction line) s = execLlcEviction line s := fun _ _ => rfl
theorem exec_llcFillReturn : ∀ line (s : State), exec (.llcFillReturn line) s = execLlcFillReturn line s := fun _ _ => rfl
theorem exec_reservationForward : ∀ key (s : State), exec (.reservationForward key) s = execReservationForward key s := fun _ _ => rfl
theorem exec_mapEntryInstall : ∀ t table entry v (s : State), exec (.mapEntryInstall t table entry v) s = execMapEntryInstall t table entry v s := fun _ _ _ _ _ => rfl
theorem exec_mapEntryRemove : ∀ t table entry v (s : State), exec (.mapEntryRemove t table entry v) s = execMapEntryRemove t table entry v s := fun _ _ _ _ _ => rfl
theorem exec_mmEngineRun : ∀ cluster (s : State), exec (.mmEngineRun cluster) s = execMmEngineRun cluster s := fun _ _ => rfl
theorem exec_vectorCommandExec : ∀ core (s : State), exec (.vectorCommandExec core) s = execVectorCommandExec core s := fun _ _ => rfl
theorem exec_vectorCommandRetire : ∀ core (s : State), exec (.vectorCommandRetire core) s = execVectorCommandRetire core s := fun _ _ => rfl
theorem exec_repSequenceStart : ∀ core (s : State), exec (.repSequenceStart core) s = execRepSequenceStart core s := fun _ _ => rfl
theorem exec_engineKick : ∀ hart node ctx words (s : State), exec (.engineKick hart node ctx words) s = execEngineKick hart node ctx words s := fun _ _ _ _ _ => rfl
theorem exec_engineHartStart : ∀ hart (s : State), exec (.engineHartStart hart) s = execEngineHartStart hart s := fun _ _ => rfl
theorem exec_debugResume : ∀ fn ctx (s : State), exec (.debugResume fn ctx) s = execDebugResume fn ctx s := fun _ _ _ => rfl
theorem exec_yieldExpiry : ∀ t (s : State), exec (.yieldExpiry t) s = execYieldExpiry t s := fun _ _ => rfl
theorem exec_wfiTimeout : ∀ t (s : State), exec (.wfiTimeout t) s = execWfiTimeout t s := fun _ _ => rfl
theorem exec_barrierWaitTimeout : ∀ t (s : State), exec (.barrierWaitTimeout t) s = execBarrierWaitTimeout t s := fun _ _ => rfl
theorem exec_add : ∀ q d a b x (s : State), exec (.add q d a b x) s = execAdd q d a b x s := fun _ _ _ _ _ _ => rfl
theorem exec_addSat : ∀ q d a b (s : State), exec (.addSat q d a b) s = execAddSat q d a b s := fun _ _ _ _ _ => rfl
theorem exec_sub : ∀ q d a b x (s : State), exec (.sub q d a b x) s = execSub q d a b x s := fun _ _ _ _ _ _ => rfl
theorem exec_subSat : ∀ q d a b (s : State), exec (.subSat q d a b) s = execSubSat q d a b s := fun _ _ _ _ _ => rfl
theorem exec_addn : ∀ q d a b x (s : State), exec (.addn q d a b x) s = execAddn q d a b x s := fun _ _ _ _ _ _ => rfl
theorem exec_addnSat : ∀ q d a b (s : State), exec (.addnSat q d a b) s = execAddnSat q d a b s := fun _ _ _ _ _ => rfl
theorem exec_subn : ∀ q d a b x (s : State), exec (.subn q d a b x) s = execSubn q d a b x s := fun _ _ _ _ _ _ => rfl
theorem exec_subnSat : ∀ q d a b (s : State), exec (.subnSat q d a b) s = execSubnSat q d a b s := fun _ _ _ _ _ => rfl
theorem exec_and : ∀ q d a b (s : State), exec (.and q d a b) s = execAnd q d a b s := fun _ _ _ _ _ => rfl
theorem exec_or : ∀ q d a b (s : State), exec (.or q d a b) s = execOr q d a b s := fun _ _ _ _ _ => rfl
theorem exec_xor : ∀ q d a b (s : State), exec (.xor q d a b) s = execXor q d a b s := fun _ _ _ _ _ => rfl
theorem exec_andn : ∀ q d a b (s : State), exec (.andn q d a b) s = execAndn q d a b s := fun _ _ _ _ _ => rfl
theorem exec_orn : ∀ q d a b (s : State), exec (.orn q d a b) s = execOrn q d a b s := fun _ _ _ _ _ => rfl
theorem exec_xnor : ∀ q d a b (s : State), exec (.xnor q d a b) s = execXnor q d a b s := fun _ _ _ _ _ => rfl
theorem exec_sll : ∀ q d a b (s : State), exec (.sll q d a b) s = execSll q d a b s := fun _ _ _ _ _ => rfl
theorem exec_srl : ∀ q d a b (s : State), exec (.srl q d a b) s = execSrl q d a b s := fun _ _ _ _ _ => rfl
theorem exec_sra : ∀ q d a b (s : State), exec (.sra q d a b) s = execSra q d a b s := fun _ _ _ _ _ => rfl
theorem exec_rol : ∀ q d a b (s : State), exec (.rol q d a b) s = execRol q d a b s := fun _ _ _ _ _ => rfl
theorem exec_ror : ∀ q d a b (s : State), exec (.ror q d a b) s = execRor q d a b s := fun _ _ _ _ _ => rfl
theorem exec_ahdl : ∀ q d a (s : State), exec (.ahdl q d a) s = execAhdl q d a s := fun _ _ _ _ => rfl
theorem exec_aoff : ∀ q d a (s : State), exec (.aoff q d a) s = execAoff q d a s := fun _ _ _ _ => rfl
theorem exec_amake : ∀ q d a b (s : State), exec (.amake q d a b) s = execAmake q d a b s := fun _ _ _ _ _ => rfl
theorem exec_aadd : ∀ q d a b (s : State), exec (.aadd q d a b) s = execAadd q d a b s := fun _ _ _ _ _ => rfl
theorem exec_adiff : ∀ q d a b (s : State), exec (.adiff q d a b) s = execAdiff q d a b s := fun _ _ _ _ _ => rfl
theorem exec_addi : ∀ q d a imm x (s : State), exec (.addi q d a imm x) s = execAddi q d a imm x s := fun _ _ _ _ _ _ => rfl
theorem exec_addiSat : ∀ q d a imm (s : State), exec (.addiSat q d a imm) s = execAddiSat q d a imm s := fun _ _ _ _ _ => rfl
theorem exec_addiK : ∀ q d a k x (s : State), exec (.addiK q d a k x) s = execAddiK q d a k x s := fun _ _ _ _ _ _ => rfl
theorem exec_addiSatK : ∀ q d a k (s : State), exec (.addiSatK q d a k) s = execAddiSatK q d a k s := fun _ _ _ _ _ => rfl
theorem exec_andi : ∀ q d a imm (s : State), exec (.andi q d a imm) s = execAndi q d a imm s := fun _ _ _ _ _ => rfl
theorem exec_andiK : ∀ q d a k (s : State), exec (.andiK q d a k) s = execAndiK q d a k s := fun _ _ _ _ _ => rfl
theorem exec_ori : ∀ q d a imm (s : State), exec (.ori q d a imm) s = execOri q d a imm s := fun _ _ _ _ _ => rfl
theorem exec_oriK : ∀ q d a k (s : State), exec (.oriK q d a k) s = execOriK q d a k s := fun _ _ _ _ _ => rfl
theorem exec_xori : ∀ q d a imm (s : State), exec (.xori q d a imm) s = execXori q d a imm s := fun _ _ _ _ _ => rfl
theorem exec_xoriK : ∀ q d a k (s : State), exec (.xoriK q d a k) s = execXoriK q d a k s := fun _ _ _ _ _ => rfl
theorem exec_slli : ∀ q d a h (s : State), exec (.slli q d a h) s = execSlli q d a h s := fun _ _ _ _ _ => rfl
theorem exec_srli : ∀ q d a h (s : State), exec (.srli q d a h) s = execSrli q d a h s := fun _ _ _ _ _ => rfl
theorem exec_srai : ∀ q d a h (s : State), exec (.srai q d a h) s = execSrai q d a h s := fun _ _ _ _ _ => rfl
theorem exec_rori : ∀ q d a h (s : State), exec (.rori q d a h) s = execRori q d a h s := fun _ _ _ _ _ => rfl
theorem exec_li : ∀ q d imm (s : State), exec (.li q d imm) s = execLi q d imm s := fun _ _ _ _ => rfl
theorem exec_liK : ∀ q d k (s : State), exec (.liK q d k) s = execLiK q d k s := fun _ _ _ _ => rfl
theorem exec_cmpi : ∀ q d a imm (s : State), exec (.cmpi q d a imm) s = execCmpi q d a imm s := fun _ _ _ _ _ => rfl
theorem exec_cmpiK : ∀ q d a k (s : State), exec (.cmpiK q d a k) s = execCmpiK q d a k s := fun _ _ _ _ _ => rfl
theorem exec_mul : ∀ q d a b x (s : State), exec (.mul q d a b x) s = execMul q d a b x s := fun _ _ _ _ _ _ => rfl
theorem exec_mulSat : ∀ q d a b (s : State), exec (.mulSat q d a b) s = execMulSat q d a b s := fun _ _ _ _ _ => rfl
theorem exec_muln : ∀ q d a b x (s : State), exec (.muln q d a b x) s = execMuln q d a b x s := fun _ _ _ _ _ _ => rfl
theorem exec_mulnSat : ∀ q d a b (s : State), exec (.mulnSat q d a b) s = execMulnSat q d a b s := fun _ _ _ _ _ => rfl
theorem exec_mulh : ∀ q d a b (s : State), exec (.mulh q d a b) s = execMulh q d a b s := fun _ _ _ _ _ => rfl
theorem exec_mulhn : ∀ q d a b (s : State), exec (.mulhn q d a b) s = execMulhn q d a b s := fun _ _ _ _ _ => rfl
theorem exec_bext : ∀ q d a b (s : State), exec (.bext q d a b) s = execBext q d a b s := fun _ _ _ _ _ => rfl
theorem exec_bextn : ∀ q d a b (s : State), exec (.bextn q d a b) s = execBextn q d a b s := fun _ _ _ _ _ => rfl
theorem exec_bins : ∀ q d a b (s : State), exec (.bins q d a b) s = execBins q d a b s := fun _ _ _ _ _ => rfl
theorem exec_clz : ∀ q d a (s : State), exec (.clz q d a) s = execClz q d a s := fun _ _ _ _ => rfl
theorem exec_ctz : ∀ q d a (s : State), exec (.ctz q d a) s = execCtz q d a s := fun _ _ _ _ => rfl
theorem exec_popc : ∀ q d a (s : State), exec (.popc q d a) s = execPopc q d a s := fun _ _ _ _ => rfl
theorem exec_brev : ∀ q d a (s : State), exec (.brev q d a) s = execBrev q d a s := fun _ _ _ _ => rfl
theorem exec_bswap : ∀ q d a (s : State), exec (.bswap q d a) s = execBswap q d a s := fun _ _ _ _ => rfl
theorem exec_seq : ∀ q d a b (s : State), exec (.seq q d a b) s = execSeq q d a b s := fun _ _ _ _ _ => rfl
theorem exec_sne : ∀ q d a b (s : State), exec (.sne q d a b) s = execSne q d a b s := fun _ _ _ _ _ => rfl
theorem exec_slt : ∀ q d a b (s : State), exec (.slt q d a b) s = execSlt q d a b s := fun _ _ _ _ _ => rfl
theorem exec_sltn : ∀ q d a b (s : State), exec (.sltn q d a b) s = execSltn q d a b s := fun _ _ _ _ _ => rfl
theorem exec_cmp : ∀ q d a b (s : State), exec (.cmp q d a b) s = execCmp q d a b s := fun _ _ _ _ _ => rfl
theorem exec_sel : ∀ q d a b (s : State), exec (.sel q d a b) s = execSel q d a b s := fun _ _ _ _ _ => rfl
theorem exec_min : ∀ q d a b (s : State), exec (.min q d a b) s = execMin q d a b s := fun _ _ _ _ _ => rfl
theorem exec_max : ∀ q d a b (s : State), exec (.max q d a b) s = execMax q d a b s := fun _ _ _ _ _ => rfl
theorem exec_minn : ∀ q d a b (s : State), exec (.minn q d a b) s = execMinn q d a b s := fun _ _ _ _ _ => rfl
theorem exec_maxn : ∀ q d a b (s : State), exec (.maxn q d a b) s = execMaxn q d a b s := fun _ _ _ _ _ => rfl
theorem exec_ld : ∀ q d a z imm (s : State), exec (.ld q d a z imm) s = execLd q d a z imm s := fun _ _ _ _ _ _ => rfl
theorem exec_ldX : ∀ q d a z disp (s : State), exec (.ldX q d a z disp) s = execLdX q d a z disp s := fun _ _ _ _ _ _ => rfl
theorem exec_st : ∀ q sreg a z imm (s : State), exec (.st q sreg a z imm) s = execSt q sreg a z imm s := fun _ _ _ _ _ _ => rfl
theorem exec_stX : ∀ q sreg a z disp (s : State), exec (.stX q sreg a z disp) s = execStX q sreg a z disp s := fun _ _ _ _ _ _ => rfl
theorem exec_ldTake : ∀ q d a imm (s : State), exec (.ldTake q d a imm) s = execLdTake q d a imm s := fun _ _ _ _ _ => rfl
theorem exec_ldPeek : ∀ q d a imm (s : State), exec (.ldPeek q d a imm) s = execLdPeek q d a imm s := fun _ _ _ _ _ => rfl
theorem exec_stGive : ∀ q sreg a imm (s : State), exec (.stGive q sreg a imm) s = execStGive q sreg a imm s := fun _ _ _ _ _ => rfl
theorem exec_stFill : ∀ q sreg a imm (s : State), exec (.stFill q sreg a imm) s = execStFill q sreg a imm s := fun _ _ _ _ _ => rfl
theorem exec_feRd : ∀ q d a imm (s : State), exec (.feRd q d a imm) s = execFeRd q d a imm s := fun _ _ _ _ _ => rfl
theorem exec_feClr : ∀ q a imm (s : State), exec (.feClr q a imm) s = execFeClr q a imm s := fun _ _ _ _ => rfl
theorem exec_amoAdd : ∀ q d a b w (s : State), exec (.amoAdd q d a b w) s = execAmoAdd q d a b w s := fun _ _ _ _ _ _ => rfl
theorem exec_amoAnd : ∀ q d a b w (s : State), exec (.amoAnd q d a b w) s = execAmoAnd q d a b w s := fun _ _ _ _ _ _ => rfl
theorem exec_amoOr : ∀ q d a b w (s : State), exec (.amoOr q d a b w) s = execAmoOr q d a b w s := fun _ _ _ _ _ _ => rfl
theorem exec_amoXor : ∀ q d a b w (s : State), exec (.amoXor q d a b w) s = execAmoXor q d a b w s := fun _ _ _ _ _ _ => rfl
theorem exec_amoMin : ∀ q d a b w (s : State), exec (.amoMin q d a b w) s = execAmoMin q d a b w s := fun _ _ _ _ _ _ => rfl
theorem exec_amoMax : ∀ q d a b w (s : State), exec (.amoMax q d a b w) s = execAmoMax q d a b w s := fun _ _ _ _ _ _ => rfl
theorem exec_amoMinn : ∀ q d a b w (s : State), exec (.amoMinn q d a b w) s = execAmoMinn q d a b w s := fun _ _ _ _ _ _ => rfl
theorem exec_amoMaxn : ∀ q d a b w (s : State), exec (.amoMaxn q d a b w) s = execAmoMaxn q d a b w s := fun _ _ _ _ _ _ => rfl
theorem exec_amoSwap : ∀ q d a b w (s : State), exec (.amoSwap q d a b w) s = execAmoSwap q d a b w s := fun _ _ _ _ _ _ => rfl
theorem exec_amoCas : ∀ q d a b w (s : State), exec (.amoCas q d a b w) s = execAmoCas q d a b w s := fun _ _ _ _ _ _ => rfl
theorem exec_rsv : ∀ q d a imm (s : State), exec (.rsv q d a imm) s = execRsv q d a imm s := fun _ _ _ _ _ => rfl
theorem exec_rls : ∀ q sreg a imm (s : State), exec (.rls q sreg a imm) s = execRls q sreg a imm s := fun _ _ _ _ _ => rfl
theorem exec_rlsN : ∀ q a imm (s : State), exec (.rlsN q a imm) s = execRlsN q a imm s := fun _ _ _ _ => rfl
theorem exec_putAdd : ∀ q d a b (s : State), exec (.putAdd q d a b) s = execPutAdd q d a b s := fun _ _ _ _ _ => rfl
theorem exec_putSet : ∀ q d a b (s : State), exec (.putSet q d a b) s = execPutSet q d a b s := fun _ _ _ _ _ => rfl
theorem exec_putFill : ∀ q d a b (s : State), exec (.putFill q d a b) s = execPutFill q d a b s := fun _ _ _ _ _ => rfl
theorem exec_putNc : ∀ q a b (s : State), exec (.putNc q a b) s = execPutNc q a b s := fun _ _ _ _ => rfl
theorem exec_pst : ∀ q sreg a z imm (s : State), exec (.pst q sreg a z imm) s = execPst q sreg a z imm s := fun _ _ _ _ _ _ => rfl
theorem exec_pstX : ∀ q sreg a z disp (s : State), exec (.pstX q sreg a z disp) s = execPstX q sreg a z disp s := fun _ _ _ _ _ _ => rfl
theorem exec_fencePut : ∀ q (s : State), exec (.fencePut q) s = execFencePut q s := fun _ _ => rfl
theorem exec_fencePost : ∀ q (s : State), exec (.fencePost q) s = execFencePost q s := fun _ _ => rfl
theorem exec_fenceAll : ∀ q (s : State), exec (.fenceAll q) s = execFenceAll q s := fun _ _ => rfl
theorem exec_cpf : ∀ q a (s : State), exec (.cpf q a) s = execCpf q a s := fun _ _ _ => rfl
theorem exec_cwb : ∀ q a (s : State), exec (.cwb q a) s = execCwb q a s := fun _ _ _ => rfl
theorem exec_cfl : ∀ q a (s : State), exec (.cfl q a) s = execCfl q a s := fun _ _ _ => rfl
theorem exec_barInit : ∀ q a b (s : State), exec (.barInit q a b) s = execBarInit q a b s := fun _ _ _ _ => rfl
theorem exec_barArr : ∀ q d a b (s : State), exec (.barArr q d a b) s = execBarArr q d a b s := fun _ _ _ _ _ => rfl
theorem exec_barArrf : ∀ q d a b (s : State), exec (.barArrf q d a b) s = execBarArrf q d a b s := fun _ _ _ _ _ => rfl
theorem exec_barWait : ∀ q d a b (s : State), exec (.barWait q d a b) s = execBarWait q d a b s := fun _ _ _ _ _ => rfl
theorem exec_latArm : ∀ q d a imm (s : State), exec (.latArm q d a imm) s = execLatArm q d a imm s := fun _ _ _ _ _ => rfl
theorem exec_latWait : ∀ q d b (s : State), exec (.latWait q d b) s = execLatWait q d b s := fun _ _ _ _ => rfl
theorem exec_latClr : ∀ q imm (s : State), exec (.latClr q imm) s = execLatClr q imm s := fun _ _ _ => rfl
theorem exec_bcopy : ∀ q d a b (s : State), exec (.bcopy q d a b) s = execBcopy q d a b s := fun _ _ _ _ _ => rfl
theorem exec_bEq : ∀ q a b imm (s : State), exec (.bEq q a b imm) s = execBEq q a b imm s := fun _ _ _ _ _ => rfl
theorem exec_bNe : ∀ q a b imm (s : State), exec (.bNe q a b imm) s = execBNe q a b imm s := fun _ _ _ _ _ => rfl
theorem exec_bLt : ∀ q a b imm (s : State), exec (.bLt q a b imm) s = execBLt q a b imm s := fun _ _ _ _ _ => rfl
theorem exec_bGe : ∀ q a b imm (s : State), exec (.bGe q a b imm) s = execBGe q a b imm s := fun _ _ _ _ _ => rfl
theorem exec_bLtn : ∀ q a b imm (s : State), exec (.bLtn q a b imm) s = execBLtn q a b imm s := fun _ _ _ _ _ => rfl
theorem exec_bGen : ∀ q a b imm (s : State), exec (.bGen q a b imm) s = execBGen q a b imm s := fun _ _ _ _ _ => rfl
theorem exec_bBs : ∀ q a b imm (s : State), exec (.bBs q a b imm) s = execBBs q a b imm s := fun _ _ _ _ _ => rfl
theorem exec_bBc : ∀ q a b imm (s : State), exec (.bBc q a b imm) s = execBBc q a b imm s := fun _ _ _ _ _ => rfl
theorem exec_bCondX : ∀ q a b c disp live (s : State), exec (.bCondX q a b c disp live) s = execBCondX q a b c disp live s := fun _ _ _ _ _ _ _ => rfl
theorem exec_j : ∀ q j (s : State), exec (.j q j) s = execJ q j s := fun _ _ _ => rfl
theorem exec_jX : ∀ q disp live (s : State), exec (.jX q disp live) s = execJX q disp live s := fun _ _ _ _ => rfl
theorem exec_jr : ∀ q a live (s : State), exec (.jr q a live) s = execJr q a live s := fun _ _ _ _ => rfl
theorem exec_callr : ∀ q a live (s : State), exec (.callr q a live) s = execCallr q a live s := fun _ _ _ _ => rfl
theorem exec_call : ∀ q disp live (s : State), exec (.call q disp live) s = execCall q disp live s := fun _ _ _ _ => rfl
theorem exec_ret : ∀ q live (s : State), exec (.ret q live) s = execRet q live s := fun _ _ _ => rfl
theorem exec_lp : ∀ q a imm (s : State), exec (.lp q a imm) s = execLp q a imm s := fun _ _ _ _ => rfl
theorem exec_spawn : ∀ q d a b (s : State), exec (.spawn q d a b) s = execSpawn q d a b s := fun _ _ _ _ _ => rfl
theorem exec_spawnc : ∀ q d a b live (s : State), exec (.spawnc q d a b live) s = execSpawnc q d a b live s := fun _ _ _ _ _ _ => rfl
theorem exec_fork : ∀ q d a live (s : State), exec (.fork q d a live) s = execFork q d a live s := fun _ _ _ _ _ => rfl
theorem exec_unfork : ∀ q a live (s : State), exec (.unfork q a live) s = execUnfork q a live s := fun _ _ _ _ => rfl
theorem exec_join : ∀ q a (s : State), exec (.join q a) s = execJoin q a s := fun _ _ _ => rfl
theorem exec_exit : ∀ q (s : State), exec (.exit q) s = execExit q s := fun _ _ => rfl
theorem exec_go : ∀ q d b (s : State), exec (.go q d b) s = execGo q d b s := fun _ _ _ _ => rfl
theorem exec_yield : ∀ q b (s : State), exec (.yield q b) s = execYield q b s := fun _ _ _ => rfl
theorem exec_tid : ∀ q d (s : State), exec (.tid q d) s = execTid q d s := fun _ _ _ => rfl
theorem exec_nwalk : ∀ q d a b (s : State), exec (.nwalk q d a b) s = execNwalk q d a b s := fun _ _ _ _ _ => rfl
theorem exec_nopen : ∀ q d a b (s : State), exec (.nopen q d a b) s = execNopen q d a b s := fun _ _ _ _ _ => rfl
theorem exec_nclose : ∀ q d a (s : State), exec (.nclose q d a) s = execNclose q d a s := fun _ _ _ _ => rfl
theorem exec_nbind : ∀ q d a b (s : State), exec (.nbind q d a b) s = execNbind q d a b s := fun _ _ _ _ _ => rfl
theorem exec_nunbind : ∀ q d a b (s : State), exec (.nunbind q d a b) s = execNunbind q d a b s := fun _ _ _ _ _ => rfl
theorem exec_nstat : ∀ q d a b (s : State), exec (.nstat q d a b) s = execNstat q d a b s := fun _ _ _ _ _ => rfl
theorem exec_nrevoke : ∀ q d a (s : State), exec (.nrevoke q d a) s = execNrevoke q d a s := fun _ _ _ _ => rfl
theorem exec_ndup : ∀ q d a b (s : State), exec (.ndup q d a b) s = execNdup q d a b s := fun _ _ _ _ _ => rfl
theorem exec_ncreate : ∀ q d a b (s : State), exec (.ncreate q d a b) s = execNcreate q d a b s := fun _ _ _ _ _ => rfl
theorem exec_vsSet : ∀ q d a b (s : State), exec (.vsSet q d a b) s = execVsSet q d a b s := fun _ _ _ _ _ => rfl
theorem exec_streamStartStore : ∀ node v (s : State), exec (.streamStartStore node v) s = execStreamStartStore node v s := fun _ _ _ => rfl
theorem exec_vsRed : ∀ q d a b (s : State), exec (.vsRed q d a b) s = execVsRed q d a b s := fun _ _ _ _ _ => rfl
theorem exec_vsMark : ∀ q d a (s : State), exec (.vsMark q d a) s = execVsMark q d a s := fun _ _ _ _ => rfl
theorem exec_vsSt : ∀ q d a (s : State), exec (.vsSt q d a) s = execVsSt q d a s := fun _ _ _ _ => rfl
theorem exec_vsRejoin : ∀ q d a (s : State), exec (.vsRejoin q d a) s = execVsRejoin q d a s := fun _ _ _ _ => rfl
theorem exec_vsClose : ∀ q d a (s : State), exec (.vsClose q d a) s = execVsClose q d a s := fun _ _ _ _ => rfl
theorem exec_vaddInt : ∀ g (s : State), exec (.vaddInt g) s = execVaddInt g s := fun _ _ => rfl
theorem exec_vaddIntK : ∀ g (s : State), exec (.vaddIntK g) s = execVaddIntK g s := fun _ _ => rfl
theorem exec_vsubInt : ∀ g (s : State), exec (.vsubInt g) s = execVsubInt g s := fun _ _ => rfl
theorem exec_vmulInt : ∀ g (s : State), exec (.vmulInt g) s = execVmulInt g s := fun _ _ => rfl
theorem exec_vmulh : ∀ g (s : State), exec (.vmulh g) s = execVmulh g s := fun _ _ => rfl
theorem exec_vminInt : ∀ g (s : State), exec (.vminInt g) s = execVminInt g s := fun _ _ => rfl
theorem exec_vmaxInt : ∀ g (s : State), exec (.vmaxInt g) s = execVmaxInt g s := fun _ _ => rfl
theorem exec_vand : ∀ g (s : State), exec (.vand g) s = execVand g s := fun _ _ => rfl
theorem exec_vor : ∀ g (s : State), exec (.vor g) s = execVor g s := fun _ _ => rfl
theorem exec_vxor : ∀ g (s : State), exec (.vxor g) s = execVxor g s := fun _ _ => rfl
theorem exec_vsll : ∀ g (s : State), exec (.vsll g) s = execVsll g s := fun _ _ => rfl
theorem exec_vsr : ∀ g (s : State), exec (.vsr g) s = execVsr g s := fun _ _ => rfl
theorem exec_vabsInt : ∀ g (s : State), exec (.vabsInt g) s = execVabsInt g s := fun _ _ => rfl
theorem exec_vmac : ∀ g (s : State), exec (.vmac g) s = execVmac g s := fun _ _ => rfl
theorem exec_vwmulInt : ∀ g (s : State), exec (.vwmulInt g) s = execVwmulInt g s := fun _ _ => rfl
theorem exec_vwmac : ∀ g (s : State), exec (.vwmac g) s = execVwmac g s := fun _ _ => rfl
theorem exec_vdotInt : ∀ g (s : State), exec (.vdotInt g) s = execVdotInt g s := fun _ _ => rfl
theorem exec_vceqInt : ∀ g (s : State), exec (.vceqInt g) s = execVceqInt g s := fun _ _ => rfl
theorem exec_vcltInt : ∀ g (s : State), exec (.vcltInt g) s = execVcltInt g s := fun _ _ => rfl
theorem exec_vcleInt : ∀ g (s : State), exec (.vcleInt g) s = execVcleInt g s := fun _ _ => rfl
theorem exec_vmov : ∀ g (s : State), exec (.vmov g) s = execVmov g s := fun _ _ => rfl
theorem exec_vaddFlt : ∀ g (s : State), exec (.vaddFlt g) s = execVaddFlt g s := fun _ _ => rfl
theorem exec_vaddFltX : ∀ g (s : State), exec (.vaddFltX g) s = execVaddFltX g s := fun _ _ => rfl
theorem exec_vsubFlt : ∀ g (s : State), exec (.vsubFlt g) s = execVsubFlt g s := fun _ _ => rfl
theorem exec_vmulFlt : ∀ g (s : State), exec (.vmulFlt g) s = execVmulFlt g s := fun _ _ => rfl
theorem exec_vmulFltK : ∀ g (s : State), exec (.vmulFltK g) s = execVmulFltK g s := fun _ _ => rfl
theorem exec_vdiv : ∀ g (s : State), exec (.vdiv g) s = execVdiv g s := fun _ _ => rfl
theorem exec_vfma : ∀ g (s : State), exec (.vfma g) s = execVfma g s := fun _ _ => rfl
theorem exec_vminFlt : ∀ g (s : State), exec (.vminFlt g) s = execVminFlt g s := fun _ _ => rfl
theorem exec_vmaxFlt : ∀ g (s : State), exec (.vmaxFlt g) s = execVmaxFlt g s := fun _ _ => rfl
theorem exec_vabsFlt : ∀ g (s : State), exec (.vabsFlt g) s = execVabsFlt g s := fun _ _ => rfl
theorem exec_vsqrt : ∀ g (s : State), exec (.vsqrt g) s = execVsqrt g s := fun _ _ => rfl
theorem exec_vexp2 : ∀ g (s : State), exec (.vexp2 g) s = execVexp2 g s := fun _ _ => rfl
theorem exec_vlog2 : ∀ g (s : State), exec (.vlog2 g) s = execVlog2 g s := fun _ _ => rfl
theorem exec_vrcp : ∀ g (s : State), exec (.vrcp g) s = execVrcp g s := fun _ _ => rfl
theorem exec_vrsq : ∀ g (s : State), exec (.vrsq g) s = execVrsq g s := fun _ _ => rfl
theorem exec_vwmulFlt : ∀ g (s : State), exec (.vwmulFlt g) s = execVwmulFlt g s := fun _ _ => rfl
theorem exec_vwfma : ∀ g (s : State), exec (.vwfma g) s = execVwfma g s := fun _ _ => rfl
theorem exec_vdotFlt : ∀ g (s : State), exec (.vdotFlt g) s = execVdotFlt g s := fun _ _ => rfl
theorem exec_vceqFlt : ∀ g (s : State), exec (.vceqFlt g) s = execVceqFlt g s := fun _ _ => rfl
theorem exec_vcltFlt : ∀ g (s : State), exec (.vcltFlt g) s = execVcltFlt g s := fun _ _ => rfl
theorem exec_vcleFlt : ∀ g (s : State), exec (.vcleFlt g) s = execVcleFlt g s := fun _ _ => rfl
theorem exec_vld : ∀ g (s : State), exec (.vld g) s = execVld g s := fun _ _ => rfl
theorem exec_vldX : ∀ g (s : State), exec (.vldX g) s = execVldX g s := fun _ _ => rfl
theorem exec_vst : ∀ g (s : State), exec (.vst g) s = execVst g s := fun _ _ => rfl
theorem exec_vstX : ∀ g (s : State), exec (.vstX g) s = execVstX g s := fun _ _ => rfl
theorem exec_vgather : ∀ g (s : State), exec (.vgather g) s = execVgather g s := fun _ _ => rfl
theorem exec_vscatter : ∀ g (s : State), exec (.vscatter g) s = execVscatter g s := fun _ _ => rfl
theorem exec_vldl : ∀ g (s : State), exec (.vldl g) s = execVldl g s := fun _ _ => rfl
theorem exec_vldlV : ∀ g (s : State), exec (.vldlV g) s = execVldlV g s := fun _ _ => rfl
theorem exec_vstl : ∀ g (s : State), exec (.vstl g) s = execVstl g s := fun _ _ => rfl
theorem exec_vstlV : ∀ g (s : State), exec (.vstlV g) s = execVstlV g s := fun _ _ => rfl
theorem exec_vldsc : ∀ g (s : State), exec (.vldsc g) s = execVldsc g s := fun _ _ => rfl
theorem exec_vstsc : ∀ g (s : State), exec (.vstsc g) s = execVstsc g s := fun _ _ => rfl
theorem exec_vcvt : ∀ g (s : State), exec (.vcvt g) s = execVcvt g s := fun _ _ => rfl
theorem exec_vcvtW : ∀ g (s : State), exec (.vcvtW g) s = execVcvtW g s := fun _ _ => rfl
theorem exec_vunpk : ∀ g (s : State), exec (.vunpk g) s = execVunpk g s := fun _ _ => rfl
theorem exec_vunpk6 : ∀ g (s : State), exec (.vunpk6 g) s = execVunpk6 g s := fun _ _ => rfl
theorem exec_vpk : ∀ g (s : State), exec (.vpk g) s = execVpk g s := fun _ _ => rfl
theorem exec_vpk6 : ∀ g (s : State), exec (.vpk6 g) s = execVpk6 g s := fun _ _ => rfl
theorem exec_vperm : ∀ g (s : State), exec (.vperm g) s = execVperm g s := fun _ _ => rfl
theorem exec_vslide : ∀ g (s : State), exec (.vslide g) s = execVslide g s := fun _ _ => rfl
theorem exec_vext : ∀ g (s : State), exec (.vext g) s = execVext g s := fun _ _ => rfl
theorem exec_vins : ∀ g (s : State), exec (.vins g) s = execVins g s := fun _ _ => rfl
theorem exec_vredAdd : ∀ g (s : State), exec (.vredAdd g) s = execVredAdd g s := fun _ _ => rfl
theorem exec_vredMax : ∀ g (s : State), exec (.vredMax g) s = execVredMax g s := fun _ _ => rfl
theorem exec_vredMin : ∀ g (s : State), exec (.vredMin g) s = execVredMin g s := fun _ _ => rfl
theorem exec_vattc : ∀ w g (s : State), exec (.vattc w g) s = execVattc w g s := fun _ _ _ => rfl
theorem exec_vattf : ∀ w g (s : State), exec (.vattf w g) s = execVattf w g s := fun _ _ _ => rfl
theorem exec_rep : ∀ q c a (s : State), exec (.rep q c a) s = execRep q c a s := fun _ _ _ _ => rfl
theorem exec_repWait : ∀ q d (s : State), exec (.repWait q d) s = execRepWait q d s := fun _ _ _ => rfl
theorem exec_vfence : ∀ q (s : State), exec (.vfence q) s = execVfence q s := fun _ _ => rfl
theorem exec_vbusy : ∀ q d (s : State), exec (.vbusy q d) s = execVbusy q d s := fun _ _ _ => rfl
theorem exec_kand : ∀ q k j h (s : State), exec (.kand q k j h) s = execKand q k j h s := fun _ _ _ _ _ => rfl
theorem exec_kor : ∀ q k j h (s : State), exec (.kor q k j h) s = execKor q k j h s := fun _ _ _ _ _ => rfl
theorem exec_kxor : ∀ q k j h (s : State), exec (.kxor q k j h) s = execKxor q k j h s := fun _ _ _ _ _ => rfl
theorem exec_knot : ∀ q k j (s : State), exec (.knot q k j) s = execKnot q k j s := fun _ _ _ _ => rfl
theorem exec_kset : ∀ q k a (s : State), exec (.kset q k a) s = execKset q k a s := fun _ _ _ _ => rfl
theorem exec_kins : ∀ q k a b (s : State), exec (.kins q k a b) s = execKins q k a b s := fun _ _ _ _ _ => rfl
theorem exec_kext : ∀ q d k b (s : State), exec (.kext q d k b) s = execKext q d k b s := fun _ _ _ _ _ => rfl
theorem exec_kpop : ∀ q d k (s : State), exec (.kpop q d k) s = execKpop q d k s := fun _ _ _ _ => rfl
theorem exec_mm : ∀ q d a (s : State), exec (.mm q d a) s = execMm q d a s := fun _ _ _ _ => rfl
theorem exec_mcload : ∀ q d b imm (s : State), exec (.mcload q d b imm) s = execMcload q d b imm s := fun _ _ _ _ _ => rfl
theorem exec_mcrd : ∀ q d imm (s : State), exec (.mcrd q d imm) s = execMcrd q d imm s := fun _ _ _ _ => rfl
theorem exec_mcclr : ∀ q imm (s : State), exec (.mcclr q imm) s = execMcclr q imm s := fun _ _ _ => rfl
theorem exec_trap : ∀ q c a e (s : State), exec (.trap q c a e) s = execTrap q c a e s := fun _ _ _ _ _ => rfl
theorem exec_tret : ∀ q (s : State), exec (.tret q) s = execTret q s := fun _ _ => rfl
theorem exec_tretX : ∀ q live (s : State), exec (.tretX q live) s = execTretX q live s := fun _ _ _ => rfl
theorem exec_halt : ∀ q a (s : State), exec (.halt q a) s = execHalt q a s := fun _ _ _ => rfl
theorem exec_wfi : ∀ q d b (s : State), exec (.wfi q d b) s = execWfi q d b s := fun _ _ _ _ => rfl
theorem exec_gtime : ∀ q d (s : State), exec (.gtime q d) s = execGtime q d s := fun _ _ _ => rfl
theorem exec_pjRd : ∀ q d a (s : State), exec (.pjRd q d a) s = execPjRd q d a s := fun _ _ _ _ => rfl
theorem exec_pjClr : ∀ q d a (s : State), exec (.pjClr q d a) s = execPjClr q d a s := fun _ _ _ _ => rfl
theorem exec_kcInv : ∀ q a sreg (s : State), exec (.kcInv q a sreg) s = execKcInv q a sreg s := fun _ _ _ _ => rfl
theorem exec_ffl : ∀ q d (s : State), exec (.ffl q d) s = execFfl q d s := fun _ _ _ => rfl
theorem exec_ctlRd : ∀ q d h n (s : State), exec (.ctlRd q d h n) s = execCtlRd q d h n s := fun _ _ _ _ _ => rfl
theorem exec_ctlWr : ∀ q a h n (s : State), exec (.ctlWr q a h n) s = execCtlWr q a h n s := fun _ _ _ _ _ => rfl
theorem exec_ctlSet : ∀ q a h n (s : State), exec (.ctlSet q a h n) s = execCtlSet q a h n s := fun _ _ _ _ _ => rfl
theorem exec_ctlClr : ∀ q a h n (s : State), exec (.ctlClr q a h n) s = execCtlClr q a h n s := fun _ _ _ _ _ => rfl
theorem exec_brk : ∀ q (s : State), exec (.brk q) s = execBrk q s := fun _ _ => rfl
theorem exec_illegalInstruction : ∀ base (s : State), exec (.illegalInstruction base) s = execIllegalInstruction base s := fun _ _ => rfl
theorem exec_ptpHoldover : ∀ (s : State), exec .ptpHoldover s = execPtpHoldover s := fun _ => rfl

end Sys2Proof.Machine
end

section
/-! Integer results (R201, R291 to R298): the machine's words against the whole numbers of the tables. -/

namespace Sys2Proof.Machine

open Sys2Proof.Claims

/-! ### Sums, differences and products -/

theorem add_eq_ofI (u v : Word) : u + v = ofI (u.toInt + v.toInt) := by
  rw [ofI, BitVec.ofInt_add, BitVec.ofInt_toInt, BitVec.ofInt_toInt]

theorem ofI_sub (m n : Int) : ofI (m - n) = ofI m - ofI n := by
  rw [Int.sub_eq_add_neg, ofI, BitVec.ofInt_add, BitVec.ofInt_neg, BitVec.sub_eq_add_neg]
  rfl

theorem sub_eq_ofI (u v : Word) : u - v = ofI (u.toInt - v.toInt) := by
  rw [ofI_sub, ofI, ofI, BitVec.ofInt_toInt, BitVec.ofInt_toInt]

theorem mul_eq_ofI (u v : Word) : u * v = ofI (u.toInt * v.toInt) := by
  rw [ofI, BitVec.ofInt_mul, BitVec.ofInt_toInt, BitVec.ofInt_toInt]

theorem ofN_toNat (u : Word) : ofN u.toNat = u := by
  rw [ofN, BitVec.ofNat_toNat, BitVec.setWidth_eq]

theorem ofI_natCast (n : Nat) : ofI n = ofN n := BitVec.ofInt_natCast 64 n

theorem add_eq_ofN (u v : Word) : u + v = ofN (u.toNat + v.toNat) := by
  rw [ofN, BitVec.ofNat_add, ← ofN, ← ofN, ofN_toNat, ofN_toNat]

theorem mul_eq_ofN (u v : Word) : u * v = ofN (u.toNat * v.toNat) := by
  rw [ofN, BitVec.ofNat_mul, ← ofN, ← ofN, ofN_toNat, ofN_toNat]

theorem sub_eq_ofI_toNat (u v : Word) : u - v = ofI (u.toNat - v.toNat) := by
  rw [ofI_sub, ofI_natCast, ofI_natCast, ofN_toNat, ofN_toNat]

theorem ofInt_clampS (n : Int) : BitVec.ofInt 64 (clampS 64 n) = toI64 n := by
  unfold clampS toI64 ofI
  congr 1
  split
  · omega
  · split <;> omega

theorem ofInt_clampU (n : Int) : BitVec.ofInt 64 (clampU 64 n) = toN64 n := by
  unfold clampU toN64 ofI
  congr 1
  split
  · omega
  · split <;> omega

/-! ### Shifts and rotations -/

theorem shiftLeft_eq_shl (u : Word) (n : Nat) : u <<< n = shl u n := by
  apply BitVec.eq_of_toNat_eq
  rw [shl, ofN, BitVec.toNat_shiftLeft, BitVec.toNat_ofNat, Nat.shiftLeft_eq]

theorem ushiftRight_eq_shr (u : Word) (n : Nat) : u >>> n = shr u n := by
  apply BitVec.eq_of_toNat_eq
  rw [shr, ofN, BitVec.toNat_ushiftRight, BitVec.toNat_ofNat, Nat.shiftRight_eq_div_pow,
    Nat.mod_eq_of_lt (Nat.lt_of_le_of_lt (Nat.div_le_self _ _) u.isLt)]

theorem sshiftRight_eq_sar (u : Word) (n : Nat) : u.sshiftRight n = sar u n := by
  rw [sar, ofI, BitVec.sshiftRight, Int.shiftRight_eq_div_pow]
  norm_cast

/-- Words with no bit in common are joined by their sum. -/
theorem shiftLeft_or_eq_ofN (u v : Word) {n : Nat} (h : v.toNat < 2 ^ n) (hn : n ≤ 64) :
    u <<< n ||| v = ofN (u.toNat * 2 ^ n % 2 ^ 64 + v.toNat) := by
  apply BitVec.eq_of_toNat_eq
  have hm : u.toNat * 2 ^ n % 2 ^ 64 = 2 ^ n * (u.toNat % 2 ^ (64 - n)) := by
    rw [Nat.mul_comm, ← Nat.mul_mod_mul_left, ← Nat.pow_add, Nat.add_sub_cancel' hn]
  have hlt : (2 ^ n * (u.toNat % 2 ^ (64 - n)) ||| v.toNat) < 2 ^ 64 :=
    Nat.or_lt_two_pow (hm ▸ Nat.mod_lt _ (Nat.two_pow_pos 64)) v.isLt
  rw [BitVec.toNat_or, BitVec.toNat_shiftLeft, Nat.shiftLeft_eq, ofN, BitVec.toNat_ofNat, hm,
    Nat.two_pow_add_eq_or_of_lt h, Nat.mod_eq_of_lt hlt]

theorem ushiftRight_lt (u : Word) {n : Nat} (hn : n ≤ 64) : (u >>> (64 - n)).toNat < 2 ^ n := by
  rw [BitVec.toNat_ushiftRight, Nat.shiftRight_eq_div_pow, Nat.div_lt_iff_lt_mul (Nat.two_pow_pos _), ← Nat.pow_add,
    Nat.add_sub_cancel' hn]
  exact u.isLt

theorem rotateLeft_eq_rotl (u : Word) {n : Nat} (h : n < 64) : u.rotateLeft n = rotl u n := by
  rw [BitVec.rotateLeft, Nat.mod_eq_of_lt h, BitVec.rotateLeftAux, shiftLeft_or_eq_ofN _ _ (ushiftRight_lt u h.le) h.le, rotl,
    BitVec.toNat_ushiftRight, Nat.shiftRight_eq_div_pow]

theorem rotateRight_eq_rotr (u : Word) {n : Nat} (h : n < 64) : u.rotateRight n = rotr u n := by
  have hlt : (u >>> n).toNat < 2 ^ (64 - n) := by
    have := ushiftRight_lt u (n := 64 - n) (by omega)
    rwa [Nat.sub_sub_self h.le] at this
  rw [BitVec.rotateRight, Nat.mod_eq_of_lt h, BitVec.rotateRightAux, BitVec.or_comm, shiftLeft_or_eq_ofN _ _ hlt (by omega), rotr,
    BitVec.toNat_ushiftRight, Nat.shiftRight_eq_div_pow, Nat.add_comm]

theorem sh_lt (v : Word) : sh v < 64 := Nat.mod_lt _ (by decide)

/-! ### Addresses and immediates -/

theorem imm_eq_ofI (i : BitVec 15) : imm i = ofI i.toInt := rfl

theorem toInt_imm (i : BitVec 15) : (imm i).toInt = i.toInt := BitVec.toInt_signExtend_of_le (by decide)

theorem add_imm (u : Word) (i : BitVec 15) : u + imm i = ofI (u.toInt + i.toInt) := by
  rw [add_eq_ofI, toInt_imm]

theorem satAddS_imm (u : Word) (i : BitVec 15) : satAddS u (imm i) = toI64 (u.toInt + i.toInt) := by
  rw [satAddS, ofInt_clampS, toInt_imm]

theorem satMulU_eq (u v : Word) : satMulU u v = toN64 (u.toNat * v.toNat) := by
  rw [satMulU, ofInt_clampU, Int.ofNat_eq_natCast, Int.natCast_mul]

theorem mkAddr_eq_ofN (u v : Word) : mkAddr (u.toNat % 65536) (off v) = ofN (u.toNat % 2 ^ 16 * 2 ^ 48 + v.toNat % 2 ^ 48) := by
  rw [mkAddr, off, Nat.mod_mod, Nat.mod_mod]
  rfl

theorem off_sub_off (u v : Word) : w64 (off u) - w64 (off v) = ofI ((u.toNat % 2 ^ 48 : Nat) - (v.toNat % 2 ^ 48 : Nat) : Int) := by
  rw [ofI_sub, ofI_natCast, ofI_natCast]
  rfl

/-! ### Compares, minima and maxima -/

theorem cmpMask_eq_mask3 (u w : Word) : cmpMask u w = mask3 u w := by
  have hs : u.slt w = decide (u.toInt < w.toInt) := BitVec.slt_eq_decide
  have hu : u.ult w = decide (u.toNat < w.toNat) := BitVec.ult_eq_decide
  have he : (u = w) = (u.toNat = w.toNat) := propext BitVec.toNat_inj.symm
  simp only [cmpMask, mask3, hs, hu, he, decide_eq_true_eq]
  by_cases h1 : u.toInt < w.toInt <;> by_cases h2 : u.toNat = w.toNat <;> by_cases h3 : u.toNat < w.toNat <;> simp [h1, h2, h3, ofN]

theorem ite_eq_flag (u w : Word) : (if u = w then 1 else 0 : Word) = flag (u.toNat = w.toNat) := by
  simp [flag, BitVec.toNat_inj]

theorem ite_ne_flag (u w : Word) : (if u = w then 0 else 1 : Word) = flag (u.toNat ≠ w.toNat) := by
  simp only [flag, ne_eq, BitVec.toNat_inj, ite_not]

theorem ite_slt_flag (u w : Word) : (if u.slt w then 1 else 0 : Word) = flag (u.toInt < w.toInt) := by
  simp [flag, BitVec.slt_iff_toInt_lt]

theorem ite_ult_flag (u w : Word) : (if u.ult w then 1 else 0 : Word) = flag (u.toNat < w.toNat) := by
  simp [flag, BitVec.ult_eq_decide]

theorem ite_zero_eq (old u v : Word) : (if old = 0 then v else u) = if old.toNat ≠ 0 then u else v := by
  simp only [word_eq_zero_iff, ne_eq, ite_not]

theorem ofI_toInt (u : Word) : ofI u.toInt = u := BitVec.ofInt_toInt

theorem ite_slt_min (u v : Word) : (if u.slt v then u else v) = ofI (min u.toInt v.toInt) := by
  rw [min_def]
  simp only [BitVec.slt_iff_toInt_lt, apply_ite ofI, ofI_toInt]
  by_cases h : u.toInt < v.toInt
  · rw [if_pos h, if_pos h.le]
  · rw [if_neg h]
    split
    · exact (BitVec.toInt_inj.1 (by omega)).symm
    · rfl

theorem ite_slt_max (u v : Word) : (if u.slt v then v else u) = ofI (max u.toInt v.toInt) := by
  rw [max_def]
  simp only [BitVec.slt_iff_toInt_lt, apply_ite ofI, ofI_toInt]
  by_cases h : u.toInt < v.toInt
  · rw [if_pos h, if_pos h.le]
  · rw [if_neg h]
    split
    · exact BitVec.toInt_inj.1 (by omega)
    · rfl

theorem ite_ult_min (u v : Word) : (if u.ult v then u else v) = ofN (min u.toNat v.toNat) := by
  rw [min_def]
  simp only [BitVec.ult_iff_lt, BitVec.lt_def, apply_ite ofN, ofN_toNat]
  by_cases h : u.toNat < v.toNat
  · rw [if_pos h, if_pos h.le]
  · rw [if_neg h]
    split
    · exact (BitVec.toNat_inj.1 (by omega)).symm
    · rfl

theorem ite_ult_max (u v : Word) : (if u.ult v then v else u) = ofN (max u.toNat v.toNat) := by
  rw [max_def]
  simp only [BitVec.ult_iff_lt, BitVec.lt_def, apply_ite ofN, ofN_toNat]
  by_cases h : u.toNat < v.toNat
  · rw [if_pos h, if_pos h.le]
  · rw [if_neg h]
    split
    · exact BitVec.toNat_inj.1 (by omega)
    · rfl

/-! ### Bit fields, counts and reversals -/

theorem clzFrom_eq (v : Word) (n : Nat) : clzFrom v n = ((List.range n).takeWhile fun i => !v.getLsbD (n - 1 - i)).length := by
  induction n with
  | zero => rfl
  | succ n ih =>
    rw [List.range_succ_eq_map, List.takeWhile_cons, clzFrom, Nat.add_sub_cancel, Nat.sub_zero]
    cases hv : v.getLsbD n with
    | true => rfl
    | false =>
      rw [ih, Bool.not_false, if_neg Bool.false_ne_true, if_pos rfl, List.length_cons, List.takeWhile_map, List.length_map]
      refine congrArg (fun p => (List.takeWhile p (List.range n)).length + 1) (funext fun i => ?_)
      simp only [Function.comp, Nat.succ_eq_add_one]
      congr 2
      omega

theorem ctzFrom_eq (v : Word) (n : Nat) : ∀ i, ctzFrom v i n = ((List.range n).takeWhile fun j => !v.getLsbD (i + j)).length := by
  induction n with
  | zero => intro i; rfl
  | succ n ih =>
    intro i
    rw [List.range_succ_eq_map, List.takeWhile_cons, ctzFrom, Nat.add_zero]
    cases hv : v.getLsbD i with
    | true => rfl
    | false =>
      rw [ih, Bool.not_false, if_neg Bool.false_ne_true, if_pos rfl, List.length_cons, List.takeWhile_map, List.length_map]
      refine congrArg (fun p => (List.takeWhile p (List.range n)).length + 1) (funext fun j => ?_)
      simp only [Function.comp, Nat.succ_eq_add_one]
      congr 2
      omega

theorem popFrom_eq (v : Word) (n : Nat) : popFrom v n = ((List.range n).filter fun i => v.getLsbD i).length := by
  induction n with
  | zero => rfl
  | succ n ih =>
    rw [List.range_succ, List.filter_append, List.length_append, popFrom, ih, Nat.add_comm]
    cases hv : v.getLsbD n <;> simp [hv]

theorem reverse_eq (v : Word) : v.reverse = BitVec.ofFnLE fun i : Fin 64 => v.getLsbD (63 - i) := by
  apply BitVec.eq_of_getLsbD_eq
  intro i hi
  rw [BitVec.getLsbD_reverse, BitVec.getMsbD_eq_getLsbD]
  simp [hi]

theorem getD_leList (n v i : Nat) : (leList n v).getD i 0 = if i < n then BitVec.ofNat 8 (v / 256 ^ i) else 0 := by
  induction n generalizing v i with
  | zero => rfl
  | succ n ih =>
    cases i with
    | zero => simp [leList]
    | succ i =>
      rw [leList, List.getD_cons_succ, ih, Nat.div_div_eq_div_mul, ← Nat.pow_succ']
      simp only [Nat.add_lt_add_iff_right]

theorem length_leList (n v : Nat) : (leList n v).length = n := by
  induction n generalizing v with
  | zero => rfl
  | succ n ih => simp [leList, ih]

/-- A bit of the number that bytes spell is a bit of one of the bytes. -/
theorem testBit_leNum (bs : List Byte) (i : Nat) : (leNum bs).testBit i = (bs.getD (i / 8) 0).getLsbD (i % 8) := by
  induction bs generalizing i with
  | nil => simp [leNum]
  | cons b bs ih =>
    have h : leNum (b :: bs) = 2 ^ 8 * leNum bs + b.toNat := by rw [leNum]; omega
    rw [h, Nat.testBit_two_pow_mul_add _ b.isLt]
    by_cases hi : i < 8
    · rw [if_pos hi, Nat.div_eq_of_lt hi, Nat.mod_eq_of_lt hi]
      rfl
    · rw [if_neg hi, ih, show i / 8 = (i - 8) / 8 + 1 by omega, show i % 8 = (i - 8) % 8 by omega]
      rfl

theorem bswap_eq (v : Word) :
    w64 (leNum (leList 8 v.toNat).reverse) = BitVec.ofFnLE fun i : Fin 64 => v.getLsbD ((7 - i.val / 8) * 8 + i.val % 8) := by
  apply BitVec.eq_of_getLsbD_eq
  intro i hi
  have hr : (leList 8 v.toNat).reverse.getD (i / 8) 0 = (leList 8 v.toNat).getD (7 - i / 8) 0 := by
    rw [List.getD_eq_getElem?_getD, List.getElem?_reverse (by rw [length_leList]; omega), length_leList, ← List.getD_eq_getElem?_getD]
  have hb : (v.toNat / 256 ^ (7 - i / 8)).testBit (i % 8) = v.toNat.testBit ((7 - i / 8) * 8 + i % 8) := by
    rw [show 256 ^ (7 - i / 8) = 2 ^ ((7 - i / 8) * 8) by rw [Nat.mul_comm, Nat.pow_mul], Nat.testBit_div_two_pow, Nat.add_comm]
  rw [w64, BitVec.getLsbD_ofNat, testBit_leNum, hr, getD_leList, if_pos (by omega), BitVec.getLsbD_ofNat, hb,
    BitVec.getLsbD_ofFnLE]
  simp [hi, Nat.mod_lt, BitVec.getLsbD]

/-! The field that x[b] names (R298). -/

theorem fieldPos_eq (v : Word) : fieldPos v = Claims.fieldAt v := rfl

theorem fieldWidth_eq (v : Word) : fieldWidth v = fieldLen v := rfl

theorem fieldAt_lt (v : Word) : Claims.fieldAt v < 64 := Nat.mod_lt _ (by decide)

theorem fieldLen_bounds (v : Word) : 1 ≤ fieldLen v ∧ Claims.fieldAt v + fieldLen v ≤ 64 := by
  have := fieldAt_lt v
  unfold fieldLen
  omega

theorem toNat_lowMask {n : Nat} (h : n ≤ 64) : (lowMask n).toNat = 2 ^ n - 1 := by
  rw [lowMask, BitVec.toNat_ushiftRight, BitVec.toNat_allOnes, Nat.shiftRight_eq_div_pow]
  have hp : 2 ^ 64 = 2 ^ n * 2 ^ (64 - n) := by rw [← Nat.pow_add, Nat.add_sub_cancel' h]
  have hd := Nat.two_pow_pos (64 - n)
  have hn : (2 ^ n - 1) * 2 ^ (64 - n) = 2 ^ 64 - 2 ^ (64 - n) := by rw [Nat.sub_mul, hp, Nat.one_mul]
  have hle : 2 ^ (64 - n) ≤ 2 ^ 64 := Nat.pow_le_pow_right (by omega) (by omega)
  refine Nat.div_eq_of_lt_le (by omega) ?_
  rw [Nat.sub_add_cancel (Nat.two_pow_pos n), ← hp]
  omega

theorem bextn_eq (u v : Word) : (u >>> fieldPos v) &&& lowMask (fieldWidth v) = ofN (fieldOf u v) := by
  have hw := fieldLen_bounds v
  apply BitVec.eq_of_toNat_eq
  rw [fieldWidth_eq, fieldPos_eq, BitVec.toNat_and, toNat_lowMask (by omega), Nat.and_two_pow_sub_one_eq_mod, BitVec.toNat_ushiftRight,
    Nat.shiftRight_eq_div_pow, ofN, BitVec.toNat_ofNat, fieldOf]
  refine (Nat.mod_eq_of_lt (Nat.lt_of_lt_of_le (Nat.mod_lt _ (Nat.two_pow_pos _)) (Nat.pow_le_pow_right (by omega) (by omega)))).symm

theorem toInt_eq_ite (w : Word) : w.toInt = if w.toNat < 2 ^ 63 then (w.toNat : Int) else w.toNat - 2 ^ 64 := by
  rw [BitVec.toInt_eq_toNat_cond]
  by_cases h : w.toNat < 2 ^ 63
  · rw [if_pos (by omega), if_pos h]
  · rw [if_neg (by omega), if_neg h]
    rfl

/-- The low n bits of a word as a signed number (R298). -/
theorem sextLow_eq (u : Word) {n : Nat} (h0 : 1 ≤ n) (h : n ≤ 64) : sextLow u n =
    ofI (if 2 ^ (n - 1) ≤ u.toNat % 2 ^ n then (u.toNat % 2 ^ n : Nat) - 2 ^ n else (u.toNat % 2 ^ n : Nat)) := by
  have hp : 2 ^ 64 = 2 ^ n * 2 ^ (64 - n) := by rw [← Nat.pow_add, Nat.add_sub_cancel' h]
  have hh : 2 ^ 63 = 2 ^ (n - 1) * 2 ^ (64 - n) := by rw [← Nat.pow_add]; congr 1; omega
  have hs : (u <<< (64 - n)).toNat = u.toNat % 2 ^ n * 2 ^ (64 - n) := by
    rw [BitVec.toNat_shiftLeft, Nat.shiftLeft_eq, hp, Nat.mul_mod_mul_right]
  have hd : (0 : Int) < 2 ^ (64 - n) := by positivity
  rw [sextLow, sshiftRight_eq_sar, sar, toInt_eq_ite, hs]
  congr 1
  by_cases hm : 2 ^ (n - 1) ≤ u.toNat % 2 ^ n
  · have hm' : ¬ u.toNat % 2 ^ n * 2 ^ (64 - n) < 2 ^ 63 := by
      rw [hh, Nat.not_lt]
      exact Nat.mul_le_mul_right _ hm
    rw [if_pos hm, if_neg hm']
    have : ((u.toNat % 2 ^ n * 2 ^ (64 - n) : Nat) : Int) - 2 ^ 64 = ((u.toNat % 2 ^ n : Nat) - 2 ^ n) * 2 ^ (64 - n) := by
      have hpi : (2 ^ 64 : Int) = 2 ^ n * 2 ^ (64 - n) := by exact_mod_cast hp
      rw [hpi, Int.sub_mul]
      push_cast
      rfl
    rw [this, Int.mul_ediv_cancel _ hd.ne']
  · have hm' : u.toNat % 2 ^ n * 2 ^ (64 - n) < 2 ^ 63 := by
      rw [hh]
      exact Nat.mul_lt_mul_of_pos_right (Nat.not_le.1 hm) (Nat.two_pow_pos _)
    have hc : ((u.toNat % 2 ^ n * 2 ^ (64 - n) : Nat) : Int) = (u.toNat % 2 ^ n : Nat) * 2 ^ (64 - n) := by
      push_cast
      rfl
    rw [if_neg hm, if_pos hm', hc, Int.mul_ediv_cancel _ hd.ne']

theorem bext_eq (u v : Word) : sextLow (u >>> fieldPos v) (fieldWidth v) =
    ofI (if 2 ^ (fieldLen v - 1) ≤ fieldOf u v then (fieldOf u v : Int) - 2 ^ fieldLen v else fieldOf u v) := by
  have hw := fieldLen_bounds v
  rw [fieldWidth_eq, sextLow_eq _ hw.1 (by omega), BitVec.toNat_ushiftRight, Nat.shiftRight_eq_div_pow]
  rfl

theorem getLsbD_lowMask {n : Nat} (h : n ≤ 64) (i : Nat) : (lowMask n).getLsbD i = decide (i < n) := by
  rw [BitVec.getLsbD, toNat_lowMask h, Nat.testBit_two_pow_sub_one]

/-- A number whose field of w bits from p on is replaced, bit by bit. -/
theorem testBit_replace {old new p w : Nat} (i : Nat) :
    (old - old / 2 ^ p % 2 ^ w * 2 ^ p + new % 2 ^ w * 2 ^ p).testBit i =
      if p ≤ i ∧ i < p + w then new.testBit (i - p) else old.testBit i := by
  have h1 : old - old / 2 ^ p % 2 ^ w * 2 ^ p + new % 2 ^ w * 2 ^ p =
      2 ^ p * (2 ^ w * (old / 2 ^ p / 2 ^ w) + new % 2 ^ w) + old % 2 ^ p := by
    have ha := Nat.div_add_mod old (2 ^ p)
    have hb := Nat.div_add_mod (old / 2 ^ p) (2 ^ w)
    generalize old / 2 ^ p = m at *
    rw [← hb] at ha
    rw [Nat.mul_add] at ha ⊢
    rw [Nat.mul_comm (m % 2 ^ w), Nat.mul_comm (new % 2 ^ w)]
    omega
  rw [h1, Nat.testBit_two_pow_mul_add _ (Nat.mod_lt _ (Nat.two_pow_pos p))]
  by_cases hp : i < p
  · rw [if_pos hp, if_neg (by omega), Nat.testBit_mod_two_pow, decide_eq_true hp, Bool.true_and]
  · rw [if_neg hp, Nat.testBit_two_pow_mul_add _ (Nat.mod_lt _ (Nat.two_pow_pos w))]
    by_cases hw : i - p < w
    · rw [if_pos hw, if_pos (by omega), Nat.testBit_mod_two_pow, decide_eq_true hw, Bool.true_and]
    · rw [if_neg hw, if_neg (by omega), Nat.testBit_div_two_pow, Nat.testBit_div_two_pow]
      congr 1
      omega

theorem bins_eq (old u v : Word) : (old &&& ~~~(lowMask (fieldWidth v) <<< fieldPos v)) |||
      ((u <<< fieldPos v) &&& (lowMask (fieldWidth v) <<< fieldPos v)) =
    ofN (old.toNat - fieldOf old v * 2 ^ Claims.fieldAt v + u.toNat % 2 ^ fieldLen v * 2 ^ Claims.fieldAt v) := by
  have hw := fieldLen_bounds v
  apply BitVec.eq_of_getLsbD_eq
  intro i hi
  rw [fieldWidth_eq, fieldPos_eq, ofN, BitVec.getLsbD_ofNat, fieldOf, testBit_replace, decide_eq_true hi, Bool.true_and]
  simp only [BitVec.getLsbD_or, BitVec.getLsbD_and, BitVec.getLsbD_not, BitVec.getLsbD_shiftLeft, getLsbD_lowMask (by omega : fieldLen v ≤ 64),
    decide_eq_true hi, Bool.true_and]
  by_cases hp : Claims.fieldAt v ≤ i
  · by_cases hl : i < Claims.fieldAt v + fieldLen v
    · have : i - Claims.fieldAt v < fieldLen v := by omega
      simp [hp, hl, this, Nat.not_lt.2 hp, BitVec.getLsbD]
    · have : ¬ i - Claims.fieldAt v < fieldLen v := by omega
      simp [hl, this, BitVec.getLsbD]
  · simp [hp, Nat.not_le.1 hp, BitVec.getLsbD]

end Sys2Proof.Machine
end

section
/-! The integer instructions (R290 to R298): the next state of each form whose queue registers are ready. -/

namespace Sys2Proof.Machine

open Sys2Proof.Claims

/-- An integer instruction of a form: it reads its operands, or waits for a queue register, writes its result at once and retires (R156, R186). -/
def runForm (f : RegForm) (s : State) : Out :=
  withRegs f.srcs [f.d] s fun s' =>
    .next (retireLive s f.shape.len f.shape.live f.q (wr s'.me f.d (f.value fun r => xr (cur s') r) s'))

theorem runForm_ready {f : RegForm} {s : State} (h : QueuesReady f.srcs [f.d] s) : runForm f s = .next (f.next s) := by
  rw [runForm, withRegs_ready h, operandState_me]
  rfl

theorem runForm_blocked {f : RegForm} {s : State} {r : Reg} {rd : Bool} (h : qblock s f.srcs [f.d] = some (r, rd)) :
    runForm f s = .next (park (.queueReg r rd) s) := by
  rw [runForm, withRegs_eq, h]

section

variable {q : Bool} {d a b : Reg} {s : State}

/-- The result of a form is written, and the instruction retires with the live mask of its words. -/
theorem result_eq {sh : Shape} (hl : seqLive sh.len = sh.live) (s0 s' : State) {v w : Word} (h : v = w) :
    result s0 sh.len q d v s' = .next (retireLive s0 sh.len sh.live q (wr s'.me d w s')) := by
  rw [result, done, retire, hl, h]

theorem int2_run (sh : Shape) (hl : seqLive sh.len = sh.live) {F : Word → Word → Word} {g : (Reg → Word) → Word}
    (hF : ∀ r, F (r a) (r b) = g r) : int2 sh.len q d a b F s = runForm ⟨sh, q, [a, b], d, g⟩ s :=
  congrArg (withRegs [a, b] [d] s) (funext fun s' => result_eq hl s s' (hF fun r => xr (cur s') r))

theorem int1_run (sh : Shape) (hl : seqLive sh.len = sh.live) {F : Word → Word} {g : (Reg → Word) → Word} (hF : ∀ r, F (r a) = g r) :
    int1 sh.len q d a F s = runForm ⟨sh, q, [a], d, g⟩ s :=
  congrArg (withRegs [a] [d] s) (funext fun s' => result_eq hl s s' (hF fun r => xr (cur s') r))

theorem int1K_run {F : Word → Word} {g : (Reg → Word) → Word} (hF : ∀ r, F (r a) = g r) :
    int1K q d a F s = runForm ⟨.lit, q, [a], d, g⟩ s :=
  congrArg (withRegs [a] [d] s) (funext fun s' =>
    congrArg (fun v => Host.Outcome.next (retireLive s 12 none q (wr s'.me d v s'))) (hF fun r => xr (cur s') r))

theorem int3_run {F : Word → Word → Word → Word} {g : (Reg → Word) → Word} (hF : ∀ r, F (r d) (r a) (r b) = g r) :
    int3 q d a b F s = runForm ⟨.base, q, [a, b, d], d, g⟩ s :=
  congrArg (withRegs [a, b, d] [d] s) (funext fun s' => result_eq (sh := .base) rfl s s' (hF fun r => xr (cur s') r))

end

theorem extLen_eq (x : Bool) : extLen x = (withE x).len := by cases x <;> rfl

theorem seqLive_withE (x : Bool) : seqLive (withE x).len = (withE x).live := by cases x <;> rfl

theorem exec_of_aluForm {i : Instr} {f : RegForm} (hf : aluForm i = some f) (s : State) : exec i s = runForm f s := by
  unfold aluForm at hf
  split at hf
  case h_20 => cases hf
  all_goals obtain rfl := Option.some.inj hf
  case h_1 q d a b x =>
    rw [exec_add, execAdd, extLen_eq]
    exact int2_run (withE x) (seqLive_withE x) (fun _ => add_eq_ofI _ _)
  case h_2 => exact (exec_addSat ..).trans (int2_run .ext rfl (fun _ => ofInt_clampS _))
  case h_3 q d a b x =>
    rw [exec_sub, execSub, extLen_eq]
    exact int2_run (withE x) (seqLive_withE x) (fun _ => sub_eq_ofI _ _)
  case h_4 => exact (exec_subSat ..).trans (int2_run .ext rfl (fun _ => ofInt_clampS _))
  case h_5 q d a b x =>
    rw [exec_addn, execAddn, extLen_eq]
    exact int2_run (withE x) (seqLive_withE x) (fun _ => add_eq_ofN _ _)
  case h_6 => exact (exec_addnSat ..).trans (int2_run .ext rfl (fun _ => ofInt_clampU _))
  case h_7 q d a b x =>
    rw [exec_subn, execSubn, extLen_eq]
    exact int2_run (withE x) (seqLive_withE x) (fun _ => sub_eq_ofI_toNat _ _)
  case h_8 => exact (exec_subnSat ..).trans (int2_run .ext rfl (fun _ => ofInt_clampU _))
  case h_9 => exact (exec_and ..).trans (int2_run .base rfl (fun _ => rfl))
  case h_10 => exact (exec_or ..).trans (int2_run .base rfl (fun _ => rfl))
  case h_11 => exact (exec_xor ..).trans (int2_run .base rfl (fun _ => rfl))
  case h_12 => exact (exec_andn ..).trans (int2_run .base rfl (fun _ => rfl))
  case h_13 => exact (exec_orn ..).trans (int2_run .base rfl (fun _ => rfl))
  case h_14 => exact (exec_xnor ..).trans (int2_run .base rfl (fun _ => rfl))
  case h_15 => exact (exec_sll ..).trans (int2_run .base rfl (fun _ => shiftLeft_eq_shl _ _))
  case h_16 => exact (exec_srl ..).trans (int2_run .base rfl (fun _ => ushiftRight_eq_shr _ _))
  case h_17 => exact (exec_sra ..).trans (int2_run .base rfl (fun _ => sshiftRight_eq_sar _ _))
  case h_18 => exact (exec_rol ..).trans (int2_run .base rfl (fun _ => rotateLeft_eq_rotl _ (sh_lt _)))
  case h_19 => exact (exec_ror ..).trans (int2_run .base rfl (fun _ => rotateRight_eq_rotr _ (sh_lt _)))

theorem exec_of_immForm {i : Instr} {f : RegForm} (hf : immForm i = some f) (s : State) : exec i s = runForm f s := by
  unfold immForm at hf
  split at hf
  case h_21 => cases hf
  all_goals obtain rfl := Option.some.inj hf
  case h_1 => exact (exec_ahdl ..).trans (int1_run .base rfl (fun _ => rfl))
  case h_2 => exact (exec_aoff ..).trans (int1_run .base rfl (fun _ => rfl))
  case h_3 => exact (exec_amake ..).trans (int2_run .base rfl (fun _ => mkAddr_eq_ofN _ _))
  case h_4 => exact (exec_adiff ..).trans (int2_run .base rfl (fun _ => off_sub_off _ _))
  case h_5 q d a n x =>
    rw [exec_addi, execAddi, extLen_eq]
    exact int1_run (withE x) (seqLive_withE x) (fun _ => add_imm _ _)
  case h_6 => exact (exec_addiSat ..).trans (int1_run .ext rfl (fun _ => satAddS_imm _ _))
  case h_7 q d a k x =>
    rw [exec_addiK, execAddiK]
    cases x
    · exact (if_neg Bool.false_ne_true).trans (int1K_run (fun _ => add_eq_ofI _ _))
    · exact (if_pos rfl).trans (int1_run .extLit rfl (fun _ => add_eq_ofI _ _))
  case h_8 => exact (exec_addiSatK ..).trans (int1_run .extLit rfl (fun _ => ofInt_clampS _))
  case h_9 => exact (exec_andi ..).trans (int1_run .base rfl (fun _ => rfl))
  case h_11 => exact (exec_ori ..).trans (int1_run .base rfl (fun _ => rfl))
  case h_13 => exact (exec_xori ..).trans (int1_run .base rfl (fun _ => rfl))
  case h_10 => exact (exec_andiK ..).trans (int1K_run (fun _ => rfl))
  case h_12 => exact (exec_oriK ..).trans (int1K_run (fun _ => rfl))
  case h_14 => exact (exec_xoriK ..).trans (int1K_run (fun _ => rfl))
  case h_15 q d n =>
    rw [exec_li]
    rfl
  case h_16 q d k =>
    rw [exec_liK]
    rfl
  case h_17 => exact (exec_slli ..).trans (int1_run .base rfl (fun _ => shiftLeft_eq_shl _ _))
  case h_18 => exact (exec_srli ..).trans (int1_run .base rfl (fun _ => ushiftRight_eq_shr _ _))
  case h_19 => exact (exec_srai ..).trans (int1_run .base rfl (fun _ => sshiftRight_eq_sar _ _))
  case h_20 q d a n => exact (exec_rori ..).trans (int1_run .base rfl (fun _ => rotateRight_eq_rotr _ n.isLt))

theorem exec_of_compareForm {i : Instr} {f : RegForm} (hf : compareForm i = some f) (s : State) : exec i s = runForm f s := by
  unfold compareForm at hf
  split at hf
  case h_13 => cases hf
  all_goals obtain rfl := Option.some.inj hf
  case h_1 => exact (exec_cmpi ..).trans (int1_run .base rfl (fun _ => cmpMask_eq_mask3 _ _))
  case h_2 => exact (exec_cmpiK ..).trans (int1K_run (fun _ => cmpMask_eq_mask3 _ _))
  case h_3 => exact (exec_cmp ..).trans (int2_run .base rfl (fun _ => cmpMask_eq_mask3 _ _))
  case h_4 => exact (exec_seq ..).trans (int2_run .base rfl (fun _ => ite_eq_flag _ _))
  case h_5 => exact (exec_sne ..).trans (int2_run .base rfl (fun _ => ite_ne_flag _ _))
  case h_6 => exact (exec_slt ..).trans (int2_run .base rfl (fun _ => ite_slt_flag _ _))
  case h_7 => exact (exec_sltn ..).trans (int2_run .base rfl (fun _ => ite_ult_flag _ _))
  case h_8 => exact (exec_sel ..).trans (int3_run (fun _ => ite_zero_eq _ _ _))
  case h_9 => exact (exec_min ..).trans (int2_run .base rfl (fun _ => ite_slt_min _ _))
  case h_10 => exact (exec_max ..).trans (int2_run .base rfl (fun _ => ite_slt_max _ _))
  case h_11 => exact (exec_minn ..).trans (int2_run .base rfl (fun _ => ite_ult_min _ _))
  case h_12 => exact (exec_maxn ..).trans (int2_run .base rfl (fun _ => ite_ult_max _ _))

theorem exec_of_productForm {i : Instr} {f : RegForm} (hf : productForm i = some f) (s : State) : exec i s = runForm f s := by
  unfold productForm at hf
  split at hf
  case h_7 => cases hf
  all_goals obtain rfl := Option.some.inj hf
  case h_1 q d a b x =>
    rw [exec_mul, execMul, extLen_eq]
    exact int2_run (withE x) (seqLive_withE x) (fun _ => mul_eq_ofI _ _)
  case h_2 => exact (exec_mulSat ..).trans (int2_run .ext rfl (fun _ => ofInt_clampS _))
  case h_3 q d a b x =>
    rw [exec_muln, execMuln, extLen_eq]
    exact int2_run (withE x) (seqLive_withE x) (fun _ => mul_eq_ofN _ _)
  case h_4 => exact (exec_mulnSat ..).trans (int2_run .ext rfl (fun _ => satMulU_eq _ _))
  case h_5 => exact (exec_mulh ..).trans (int2_run .base rfl (fun _ => rfl))
  case h_6 => exact (exec_mulhn ..).trans (int2_run .base rfl (fun _ => rfl))

theorem exec_of_bitForm {i : Instr} {f : RegForm} (hf : bitForm i = some f) (s : State) : exec i s = runForm f s := by
  unfold bitForm at hf
  split at hf
  case h_9 => cases hf
  all_goals obtain rfl := Option.some.inj hf
  case h_1 => exact (exec_bext ..).trans (int2_run .base rfl (fun _ => bext_eq _ _))
  case h_2 => exact (exec_bextn ..).trans (int2_run .base rfl (fun _ => bextn_eq _ _))
  case h_3 => exact (exec_bins ..).trans (int3_run (fun _ => bins_eq _ _ _))
  case h_4 => exact (exec_clz ..).trans (int1_run .base rfl (fun r => congrArg ofN (clzFrom_eq _ 64)))
  case h_5 => exact (exec_ctz ..).trans (int1_run .base rfl (fun r => congrArg ofN ((ctzFrom_eq _ 64 0).trans (by simp only [Nat.zero_add]))))
  case h_6 => exact (exec_popc ..).trans (int1_run .base rfl (fun r => congrArg ofN (popFrom_eq _ 64)))
  case h_7 => exact (exec_brev ..).trans (int1_run .base rfl (fun _ => reverse_eq _))
  case h_8 => exact (exec_bswap ..).trans (int1_run .base rfl (fun _ => bswap_eq _))

theorem runs_of_exec {form : Instr → Option RegForm} (h : ∀ {i : Instr} {f : RegForm}, form i = some f → ∀ s, exec i s = runForm f s) :
    Runs form := fun _ _ hf s hq => (h hf s).trans (runForm_ready hq)

/-- Settles O4: every form of the tables runs as its function of the operands says. -/
theorem integerResults : Obligations.IntegerResults :=
  ⟨runs_of_exec exec_of_aluForm, runs_of_exec exec_of_immForm, runs_of_exec exec_of_compareForm, runs_of_exec exec_of_productForm,
    runs_of_exec exec_of_bitForm⟩

end Sys2Proof.Machine
end

section
/-! Where control goes (R158, R258, R305, R306): the thread that an instruction leaves behind when it need not travel, with its loop stack. -/

namespace Sys2Proof.Machine

open Sys2Proof.Claims

/-! ### Tables written twice -/

theorem spErase_spErase {α : Type} (k : Nat) (m : Sp α) : spErase k (spErase k m) = spErase k m := by
  induction m with
  | nil => rfl
  | cons e r ih =>
    obtain ⟨j, w⟩ := e
    by_cases h : j = k <;> simp [spErase, h, ih]

theorem spErase_spIns {α : Type} (k : Nat) (v : α) (m : Sp α) : spErase k (spIns k v m) = spErase k m := by
  induction m with
  | nil => simp [spIns, spErase]
  | cons e r ih =>
    obtain ⟨j, w⟩ := e
    by_cases h : k < j
    · simp [spIns, spErase, h]
    · by_cases hj : j = k <;> simp [spIns, spErase, h, hj, ih]

theorem spSet_spSet {α : Type} [DecidableEq α] (d : α) (m : Sp α) (k : Nat) (v w : α) : spSet d (spSet d m k v) k w = spSet d m k w := by
  have h : spErase k (spSet d m k v) = spErase k m := by
    unfold spSet
    split
    · exact spErase_spErase k m
    · rw [spErase_spIns, spErase_spErase]
  rw [spSet, h, ← spSet]

@[simp] theorem setTh_setTh (s : State) (t : Nat) (a b : Thread) : setTh (setTh s t a) t b = setTh s t b :=
  congrArg (fun m => { s with threads := m }) (spSet_spSet Thread.reset s.threads t a b)

@[simp] theorem setCore_setCore (s : State) (c : Nat) (a b : CoreSt) : setCore (setCore s c a) c b = setCore s c b :=
  congrArg (fun m => { s with cores := m }) (spSet_spSet CoreSt.reset s.cores c a b)

/-! ### The loop stack -/

theorem loopMatch_kept (own next : Word) (n : Nat) : ∀ th, (loopMatch own next n th).1 = { th with lstk := (loopMatch own next n th).1.lstk } := by
  induction n with
  | zero => intro th; rfl
  | succ n ih =>
    intro th
    rw [loopMatch]
    split
    · dsimp only
      split
      · rfl
      · exact ih (popLoop th)
    · rfl

theorem loopExits_kept (own target : Word) (n : Nat) : ∀ th, loopExits own target n th = { th with lstk := (loopExits own target n th).lstk } := by
  induction n with
  | zero => intro th; rfl
  | succ n ih =>
    intro th
    rw [loopExits]
    split
    · exact ih (popLoop th)
    · rfl

theorem seqNext_kept (own : Word) (len : Nat) (th : Thread) : (seqNext own len th).1 = { th with lstk := (seqNext own len th).1.lstk } := by
  unfold seqNext
  split
  · rfl
  · exact loopMatch_kept _ _ _ th

/-- A pop clears V of level 3 (R305). -/
theorem setBit_zero_false (w : Word) : setBit w 0 false = w &&& ~~~1 := by
  have h : w &&& ~~~1 ||| 0 = w &&& ~~~1 := BitVec.or_zero
  exact h

theorem popped_popLoop (th : Thread) : Popped th (popLoop th) := by
  intro n hn
  obtain rfl | h : n = 7 ∨ n < 7 := by omega
  · rw [if_neg (by decide), if_neg (by decide), ← setBit_zero_false]
    exact spGet_spSet_self ..
  · interval_cases n <;> simp [popLoop, spGet_spSet]

/-! ### The thread left behind -/

/-- The thread of an instruction that is done and goes on at an address: S = 1 holds it at its marker (R157). -/
def goesOn (before : Wait) (q : Bool) (a : Word) (th : Thread) : Thread :=
  { th with pc := a, seq := th.seq + 1, wcount := 0, wait := if q && marks before th then .marker else .run }

theorem flow_goesOn {s0 s : State} {a : Word} (h : leaves s s.me a = false) (l : Option (BitVec 15)) (q : Bool) :
    flow s0 a l q s = setTh s s.me (goesOn (getTh s0 s.me).wait q a (getTh s s.me)) := flow_stays h l q

theorem leaves_of_mode {s : State} {t : Nat} (h : modeOf (getTh s t) ≠ 2) (a : Word) : leaves s t a = false := by
  simp [leaves, travels, h]

theorem heldAtMarker_goesOn (q : Bool) (before : Wait) (a : Word) (th : Thread) : HeldAtMarker q before th (goesOn before q a th).wait := by
  have h : (q && marks before th) = true ↔ q = true ∧ th.late ≠ [] ∧ (parked before = true → ∃ l ∈ th.late, l.seq = th.seq) := by
    cases hp : parked before <;> simp [marks, hp]
  exact ⟨fun k => if_pos (h.2 k), fun k => if_neg (mt h.1 k)⟩

theorem retireLive_goesOn {s0 s : State} (h : modeOf (getTh s s.me) ≠ 2) (n : Nat) (l : Option (BitVec 15)) (q : Bool) :
    retireLive s0 n l q s = setTh s s.me (goesOn (getTh s0 s.me).wait q (seqNext (getTh s0 s.me).pc n (getTh s s.me)).2
      (seqNext (getTh s0 s.me).pc n (getTh s s.me)).1) := by
  have hm : modeOf (getTh (setTh s s.me (seqNext (getTh s0 s.me).pc n (getTh s s.me)).1) (setTh s s.me (seqNext (getTh s0 s.me).pc n (getTh s s.me)).1).me) ≠ 2 := by
    rw [setTh_me, getTh_setTh_self, seqNext_kept]
    exact h
  rw [retireLive, flow_goesOn (leaves_of_mode hm _), setTh_me, setTh_setTh, getTh_setTh_self]

theorem jump_goesOn {s0 s : State} (h : modeOf (getTh s s.me) ≠ 2) {a : Word} {l : Option (BitVec 15)} (ha : a ≠ offWrap (getTh s0 s.me).pc (liveLen l))
    (p : Bool) (q : Bool) :
    jump s0 a p l q s = setTh s s.me (goesOn (getTh s0 s.me).wait q a
      (if p then loopExits (getTh s0 s.me).pc a 5 (getTh s s.me) else getTh s s.me)) := by
  have hk : modeOf (if p then loopExits (getTh s0 s.me).pc a 5 (getTh s s.me) else getTh s s.me) ≠ 2 := by
    cases p
    · exact h
    · rw [if_pos rfl, loopExits_kept]
      exact h
  have hm : leaves (setTh s s.me (if p then loopExits (getTh s0 s.me).pc a 5 (getTh s s.me) else getTh s s.me)) s.me a = false :=
    leaves_of_mode (by rw [getTh_setTh_self]; exact hk) a
  unfold jump
  dsimp only
  rw [if_neg ha, flow_goesOn hm, setTh_me, setTh_setTh, getTh_setTh_self]

end Sys2Proof.Machine
end

section
/-! Where control goes, stated: retiring, transfers and travelling transfers (O6, O9), integer instructions (O2, O3, O5). -/

namespace Sys2Proof.Machine

open Sys2Proof.Claims

/-! ### Fields of words -/

theorem getLsbD_fieldMask {hi lo : Nat} (h : hi < 64) (hl : lo ≤ hi) (n : Nat) :
    ((BitVec.allOnes 64 >>> (63 - (hi - lo))) <<< lo : Word).getLsbD n = decide (lo ≤ n ∧ n ≤ hi) := by
  simp only [BitVec.getLsbD_shiftLeft, BitVec.getLsbD_ushiftRight, BitVec.getLsbD_allOnes]
  rw [Bool.eq_iff_iff]
  simp
  omega

theorem getLsbD_setBits {hi lo : Nat} (h : hi < 64) (hl : lo ≤ hi) (w : Word) (v n : Nat) :
    (setBits w hi lo v).getLsbD n = if lo ≤ n ∧ n ≤ hi then v.testBit (n - lo) else w.getLsbD n := by
  have hm := getLsbD_fieldMask h hl n
  simp only [setBits, BitVec.getLsbD_or, BitVec.getLsbD_and, BitVec.getLsbD_not, hm]
  by_cases hn : lo ≤ n ∧ n ≤ hi
  · simp [hn, BitVec.getLsbD_shiftLeft, BitVec.getLsbD_ofNat]
    have : n < 64 := by omega
    have : n - lo < 64 := by omega
    simp [*]
  · by_cases h64 : n < 64
    · simp [hn, h64]
    · simp [hn, h64, BitVec.getLsbD_of_ge _ _ (Nat.le_of_not_lt h64)]

theorem setBits_high {w : Word} {v : Nat} (hv : v < 2 ^ 32) : (setBits w 63 32 v).toNat / 2 ^ 32 = v := by
  apply Nat.eq_of_testBit_eq
  intro i
  rw [Nat.testBit_div_two_pow]
  change (setBits w 63 32 v).getLsbD (i + 32) = _
  by_cases hi : i < 32
  · rw [getLsbD_setBits (by decide) (by decide), if_pos (by omega), Nat.add_sub_cancel]
  · rw [BitVec.getLsbD_of_ge _ _ (by omega), Nat.testBit_lt_two_pow (Nat.lt_of_lt_of_le hv (Nat.pow_le_pow_right (by decide) (by omega)))]

theorem bits_high (w : Word) : bits w 63 32 = w.toNat / 2 ^ 32 := by
  have := w.isLt
  simp only [bits]
  omega

theorem offWrap_eq_nextAddr (own : Word) (n : Nat) : offWrap own n = nextAddr own n := by
  have h : ((Int.ofNat (off own) + n) % 2 ^ 48).toNat = (off own + n) % 2 ^ 48 := by
    have : (Int.ofNat (off own) + n) % 2 ^ 48 = ((off own + n) % 2 ^ 48 : Nat) := by push_cast; rfl
    rw [this]
    rfl
  rw [offWrap, h, mkAddr_hdl own (Nat.mod_lt _ (by decide))]
  rfl

/-! ### Loop ends -/

theorem seqNext_of_not_endsLoop {th : Thread} {own : Word} {n : Nat} (h : ¬ EndsLoop th own (nextAddr own n)) :
    seqNext own n th = (th, nextAddr own n) := by
  rw [← offWrap_eq_nextAddr] at h ⊢
  unfold seqNext
  split
  · rfl
  · next ht =>
    rw [loopMatch, if_neg]
    intro hc
    simp only [Bool.and_eq_true, beq_iff_eq] at hc
    exact h ⟨by simpa using ht, hc.1.1, hc.1.2, hc.2⟩

/-- Loop level 0 counted down (R305). -/
def countDown (th : Thread) : Thread := { th with lstk := spSet 0 th.lstk 1 (setBits (spGet 0 th.lstk 1) 63 32 (loopCount th - 1)) }

theorem loopCount_of_lstk {th th' : Thread} (h : th'.lstk = (countDown th).lstk) : loopCount th' = loopCount th - 1 := by
  have hlt : loopCount th - 1 < 2 ^ 32 := by
    have := (spGet 0 th.lstk 1).isLt
    unfold loopCount
    omega
  rw [loopCount, h, countDown, spGet_spSet_self, setBits_high hlt]

theorem seqNext_of_endsLoop {th : Thread} {own : Word} {n : Nat} (h : EndsLoop th own (nextAddr own n)) :
    seqNext own n th = if 1 < loopCount th then (countDown th, loopStart th) else loopMatch own (nextAddr own n) 4 (popLoop th) := by
  obtain ⟨ht, h0, hin, he⟩ := h
  rw [seqNext, if_neg (by simp [ht]), offWrap_eq_nextAddr, loopMatch, if_pos (by simp [h0, hin, ← he])]
  simp only [bits_high]
  rfl

theorem loopMatch_of_unused {th : Thread} (h : loop0 th = false) (own next : Word) (n : Nat) : loopMatch own next n th = (th, next) := by
  cases n with
  | zero => rfl
  | succ n => rw [loopMatch, if_neg (by simp [h])]

theorem loopExits_of_not {th : Thread} {own target : Word} (h : ¬ (loop0 th = true ∧ inLoop th own = true ∧ inLoop th target = false)) (n : Nat) :
    loopExits own target n th = th := by
  cases n with
  | zero => rfl
  | succ n => rw [loopExits, if_neg (by simpa [and_assoc] using h)]

theorem loop0_popLoop {th : Thread} : loop0 (popLoop th) = bit (spGet 0 th.lstk 3) 0 := by
  rw [loop0, popped_popLoop th 1 (by decide)]
  rfl

theorem popped_of_lstk {th th' : Thread} (h : th'.lstk = (popLoop th).lstk) : Popped th th' := fun n hn => by
  rw [h]
  exact popped_popLoop th n hn

theorem specialRegistersKept_goesOn (before : Wait) (q : Bool) (a : Word) (th : Thread) (l : Sp Word) :
    SpecialRegistersKept th (goesOn before q a { th with lstk := l }) :=
  ⟨rfl, rfl, rfl, rfl, rfl, rfl, rfl, rfl, rfl, rfl, rfl, rfl, rfl, rfl, rfl⟩

/-- Where seqNext goes, and the loop stack it leaves (R258, R305). -/
theorem seqNext_goes (own : Word) (n : Nat) (th : Thread) :
    (¬ EndsLoop th own (nextAddr own n) → seqNext own n th = (th, nextAddr own n)) ∧
    (EndsLoop th own (nextAddr own n) → 1 < loopCount th → seqNext own n th = (countDown th, loopStart th)) ∧
    (EndsLoop th own (nextAddr own n) → loopCount th ≤ 1 → bit (spGet 0 th.lstk 3) 0 = false → seqNext own n th = (popLoop th, nextAddr own n)) := by
  refine ⟨seqNext_of_not_endsLoop, fun h hc => ?_, fun h hc hv => ?_⟩
  · rw [seqNext_of_endsLoop h, if_pos hc]
  · rw [seqNext_of_endsLoop h, if_neg (Nat.not_lt.2 hc), loopMatch_of_unused (loop0_popLoop.trans hv)]

theorem getTh_retire {s0 s : State} (hm : modeOf (getTh s s.me) ≠ 2) (n : Nat) (q : Bool) :
    getTh (retire s0 n q s) s.me = goesOn (getTh s0 s.me).wait q (seqNext (getTh s0 s.me).pc n (getTh s s.me)).2
      (seqNext (getTh s0 s.me).pc n (getTh s s.me)).1 := by
  rw [retire, retireLive_goesOn hm, getTh_setTh_self]

theorem machineKept_retire_self {s0 s : State} (hm : modeOf (getTh s s.me) ≠ 2) (n : Nat) (q : Bool) : MachineKept s (retire s0 n q s) := by
  rw [retire, retireLive_goesOn hm]
  exact machineKept_setTh (machineKept_refl s) s.me _

theorem otherHartsKept_retire {s0 s : State} (hm : modeOf (getTh s s.me) ≠ 2) (n : Nat) (q : Bool) : OtherHartsKept s.me s (retire s0 n q s) := by
  rw [retire, retireLive_goesOn hm]
  exact otherHartsKept_setTh s s.me _

theorem instructionRetires : InstructionRetires := by
  intro s0 s n q hm th t own next
  have hg : getTh t s.me = goesOn (getTh s0 s.me).wait q (seqNext own n th).2 (seqNext own n th).1 := getTh_retire hm n q
  have hmk : MachineKept s t := machineKept_retire_self hm n q
  have hoth : OtherHartsKept s.me s t := otherHartsKept_retire hm n q
  obtain ⟨hseq, hcount, hpop⟩ := seqNext_goes own n th
  have hlate : (seqNext own n th).1.late = th.late := by rw [seqNext_kept]
  have hs : (seqNext own n th).1.seq = th.seq := by rw [seqNext_kept]
  have hx : (seqNext own n th).1.x = th.x := by rw [seqNext_kept]
  have hspec : SpecialRegistersKept th (goesOn (getTh s0 s.me).wait q (seqNext own n th).2 (seqNext own n th).1) := by
    rw [seqNext_kept]
    exact specialRegistersKept_goesOn ..
  have hmark := heldAtMarker_goesOn q (getTh s0 s.me).wait (seqNext own n th).2 (seqNext own n th).1
  rw [HeldAtMarker, hlate, hs] at hmark
  refine ⟨fun h => ?_, fun h hc => ?_, fun h hc hv => ?_, hg ▸ hmark, hg ▸ congrArg (· + 1) hs, hg ▸ hx, hg ▸ hlate, hg ▸ hspec, hoth, hmk⟩
  · exact ⟨(congrArg (·.pc) hg).trans (congrArg Prod.snd (hseq h)), (congrArg (·.lstk) hg).trans (congrArg (·.1.lstk) (hseq h))⟩
  · rw [hg, hcount h hc]
    exact ⟨rfl, loopCount_of_lstk rfl, fun k hk => spGet_spSet_other 0 th.lstk hk _⟩
  · rw [hg, hpop h hc hv]
    exact ⟨rfl, popped_of_lstk rfl⟩

theorem transferTaken : TransferTaken := by
  intro s0 s target pops live q hm th own t exits len
  have hlen : offWrap own (liveLen live) = nextAddr own len := by
    rw [offWrap_eq_nextAddr]
    rfl
  by_cases ha : target = nextAddr own len
  · have ht : t = retireLive s0 len live q s := if_pos (ha.trans hlen.symm)
    have hs : retireLive s0 len live q s = setTh s s.me (goesOn (getTh s0 s.me).wait q (seqNext own len th).2 (seqNext own len th).1) :=
      retireLive_goesOn hm len live q
    rw [seqNext_kept] at hs
    rw [ht, hs]
    refine ⟨fun _ => rfl, fun h => absurd ha h, ?_⟩
    rw [getTh_setTh_self]
    exact ⟨rfl, rfl, specialRegistersKept_goesOn .., otherHartsKept_setTh s s.me _, machineKept_setTh (machineKept_refl s) ..⟩
  · have ht : t = setTh s s.me (goesOn (getTh s0 s.me).wait q target (if pops then loopExits own target 5 th else th)) :=
      jump_goesOn hm (hlen ▸ ha) pops q
    have hk : (if pops then loopExits own target 5 th else th) = { th with lstk := (if pops then loopExits own target 5 th else th).lstk } := by
      cases pops
      · rfl
      · exact loopExits_kept ..
    have hmk : MachineKept s t := ht ▸ machineKept_setTh (machineKept_refl s) s.me _
    have hoth : OtherHartsKept s.me s t := ht ▸ otherHartsKept_setTh s s.me _
    have hg : getTh t s.me = _ := ht ▸ getTh_setTh_self ..
    rw [hk] at hg
    rw [hg]
    refine ⟨fun h => absurd h ha, fun _ => ⟨rfl, fun h => ?_, fun h hv => ?_⟩, rfl, rfl, specialRegistersKept_goesOn .., hoth, hmk⟩
    · cases pops
      · rfl
      · exact congrArg (·.lstk) (loopExits_of_not (fun hc => h ⟨rfl, hc⟩) 5)
    · obtain ⟨rfl, h0, hin, hout⟩ := h
      have hp : loopExits own target 5 th = popLoop th := by
        rw [loopExits, if_pos (by simp [h0, hin, hout]), loopExits_of_not fun hc => Bool.false_ne_true (hv.symm.trans (loop0_popLoop.symm.trans hc.1))]
      rw [if_pos rfl, hp]
      exact popped_of_lstk rfl

/-- Settles O9: an instruction that is done leaves the thread of goesOn, with the loop stack of seqNext or of loopExits. -/
theorem instructionEnds : Obligations.InstructionEnds := ⟨instructionRetires, transferTaken⟩

end Sys2Proof.Machine
end

section
/-! Travelling transfers (O6), and the integer instructions' traps, register rules and frame (O2, O5, O3). -/

namespace Sys2Proof.Machine

open Sys2Proof.Claims

/-! ### Travelling -/

/-- A travelling thread leaves its core unless the segment pinned there holds the address (R172). -/
theorem leaves_eq_false_iff {s : State} {t : Nat} (h : modeOf (getTh s t) = 2) (a : Word) :
    leaves s t a = false ↔ ∃ g, pinned s t = some g ∧ hdl a = g.getD 0 0 ∧ g.getD 1 0 ≤ off a ∧ off a < g.getD 1 0 + g.getD 2 0 := by
  cases hp : pinned s t <;> simp [leaves, travels, h, hp, segInside, and_assoc]

theorem flow_of_travelFault {s0 s : State} {a : Word} (hl : leaves s s.me a = true) {r : Nat} (hf : travelFault s s.me a = some r)
    (live : Option (BitVec 15)) (q : Bool) : flow s0 a live q s = enterTrap s.me ⟨4, r, a⟩ false 0 false (getTh s0 s.me).pc s0 := by
  unfold flow
  rw [if_pos hl, hf]

theorem endCapture_wait (t : Nat) (s : State) : (getTh (endCapture t s) t).wait = (getTh s t).wait := by
  unfold endCapture
  split
  · rfl
  · simp only [modTh_eq, modCore_eq, getTh_setCore, getTh_setTh_self]
    unfold closeCapture
    split <;> rfl

theorem departTo_wait (t : Nat) (a : Word) (l : BitVec 15) (s : State) : (getTh (departTo t a l s) t).wait = .settle (.depart a l) := by
  rw [departTo, getTh_push, endCapture_wait, modTh_eq, getTh_setTh_self]

theorem departTo_pending (t : Nat) (a : Word) (l : BitVec 15) (s : State) : Instr.travelDeparture t ∈ (departTo t a l s).pending := by
  rw [departTo, push]
  exact List.mem_append_right _ (List.mem_singleton_self _)

/-- Settles O6: flow_goesOn inside the segment, flow_of_travelFault at each fault, and departTo else. -/
theorem travelLeaves : Obligations.TravelLeaves := by
  intro s0 s target live q hm th inside
  have hin : leaves s s.me target = false ↔ inside := leaves_eq_false_iff hm target
  have hout : ¬ inside → leaves s s.me target = true := fun h => Bool.eq_true_of_not_eq_false (mt hin.1 h)
  refine ⟨fun h => ⟨_, heldAtMarker_goesOn q _ target th, flow_goesOn (hin.2 h) live q⟩, fun h hu => ?_, fun h hu hs => ?_, fun h hu hs hh => ?_,
    fun h hu hs hh => ?_⟩
  · exact flow_of_travelFault (hout h) (if_pos hu) live q
  · have hf : travelFault s s.me target = some 3 := by simp [travelFault, show loopUsed (getTh s s.me) = false from hu, hs]
    exact flow_of_travelFault (hout h) hf live q
  · have hf : travelFault s s.me target = some 4 := by
      simp [travelFault, show loopUsed (getTh s s.me) = false from hu, hs, Option.isSome_iff_ne_none, show (getTh s s.me).hold ≠ none from hh]
    exact flow_of_travelFault (hout h) hf live q
  · have hf : travelFault s s.me target = none := by
      simp [travelFault, show loopUsed (getTh s s.me) = false from hu, hs, show (getTh s s.me).hold = none from hh]
    have hd : flow s0 target live q s = departTo s.me target (live.getD (defLive s s.me target))
        (modTh s s.me fun th => { th with seq := th.seq + 1, wcount := 0 }) := by
      unfold flow
      rw [if_pos (hout h), hf]
    rw [hd]
    exact ⟨_, departTo_wait .., fun m hl => by rw [hl]; rfl, departTo_pending ..⟩

/-! ### aadd -/

/-- An exact trap of the checks of an instruction comes after the travel fault of going on past it (R174, R248). -/
theorem trapsAt_of_exactAt {i : Instr} {s : State} {len c r : Nat} {v : Word} (h : exec i s = exactAt len ⟨c, r, v⟩ s) : TrapsAt i s len c r v := by
  rw [TrapsAt, TrapsHere, h, exactAt, unlessFault]
  refine ⟨fun hn => by rw [hn]; rfl, fun x a hs => ?_⟩
  rw [TrapsHere, h, exactAt, unlessFault, hs]
  rfl

/-- Settles O2: aadd is offAdd of its operands. -/
theorem aaddResults : Obligations.AaddResults := by
  intro q d a b s hq u t
  have he : exec (.aadd q d a b) s = match offAdd u (operand [a, b] s b).toInt with
      | some v => result s 4 q d v (operandState [a, b] s)
      | none => exactAt 4 ⟨2, 5, u⟩ s := by
    rw [exec_aadd, execAadd, withRegs_ready hq]
    rfl
  refine ⟨fun h0 h1 => ?_, fun h => trapsAt_of_exactAt ?_⟩
  · rw [he, offAdd_within h0 h1]
    exact result_base (operandState_me _ _) ..
  · rw [he, offAdd_outside (show ¬ (0 ≤ t ∧ t < 2 ^ 48) by omega)]

/-! ### Queue registers -/

theorem exec_of_integerForm {i : Instr} {f : RegForm} (h : integerForm i = some f) :
    (∀ s, exec i s = runForm f s) ∨ quotientForm i = some f := by
  simp only [integerForm, Option.orElse_eq_orElse, Option.orElse_eq_or, Option.or_eq_some_iff] at h
  rcases h with h | ⟨-, h | ⟨-, h | ⟨-, h | ⟨-, h | ⟨-, h⟩⟩⟩⟩⟩
  · exact .inl (exec_of_aluForm h)
  · exact .inl (exec_of_immForm h)
  · exact .inl (exec_of_compareForm h)
  · exact .inl (exec_of_productForm h)
  · exact .inr h
  · exact .inl (exec_of_bitForm h)

theorem exec_integerForm_blocked {i : Instr} {f : RegForm} (h : integerForm i = some f) {s : State} {r : Reg} {rd : Bool}
    (hb : qblock s f.srcs [f.d] = some (r, rd)) : exec i s = .next (park (.queueReg r rd) s) := by
  rcases exec_of_integerForm h with he | hq
  · rw [he, runForm_blocked hb]
  · obtain ⟨q, d, a, b, g, rfl, he⟩ := exec_of_quotientForm hq
    rw [he, divide, withRegs_eq, hb]

theorem qsources_of_none {t : Nat} {srcs : List Reg} (h : ∀ r ∈ srcs, isQ t r = false) : qsources t srcs = [] := by
  rw [qsources, List.filter_eq_nil_iff.2 fun r hr => by simp [h r hr]]
  rfl

theorem queueRegistersWait : QueueRegistersWait := by
  intro i f hf s
  refine ⟨fun r rd hb => exec_integerForm_blocked hf hb, fun h => ?_⟩
  have hs := qsources_of_none fun r hr => h r (List.mem_cons_of_mem _ hr)
  refine ⟨?_, by rw [operandState, hs]; rfl⟩
  rw [qblock, hs]
  simp [h f.d (List.mem_cons_self ..)]

theorem wr_queue {t : Nat} {d : Reg} (h : isQ t d = true) (v : Word) (s : State) :
    wr t d v s = modCore s (coreOf t) fun c =>
      { c with outq := spSet [] c.outq (d.toNat - 8) (spGet [] c.outq (d.toNat - 8) ++ [v]) } := if_pos h

theorem wr_register {t : Nat} {d : Reg} (h : isQ t d = false) (v : Word) (s : State) : wr t d v s = setTh s t (xw (getTh s t) d v) :=
  if_neg (by simp [h])

theorem isQ_zero (t : Nat) : isQ t 0 = false := by simp [isQ]

theorem getTh_wr_other {t u : Nat} (h : u ≠ t) (d : Reg) (v : Word) (s : State) : getTh (wr t d v s) u = getTh s u := by
  cases hd : isQ t d
  · rw [wr_register hd, getTh_setTh_other _ h]
  · rw [wr_queue hd, modCore_eq, getTh_setCore]

theorem registerWrites : RegisterWrites := by
  intro t d v s
  refine ⟨?_, fun h => ?_, fun h0 h => ?_, fun u hu => getTh_wr_other hu d v s, machineKept_wr t d v s⟩
  · rintro rfl r
    rw [wr_register (isQ_zero t), getTh_setTh_self]
    rfl
  · rw [wr_queue h]
    refine ⟨rfl, ?_⟩
    rw [outq, modCore_eq, getCore_setCore_self, spGet_spSet_self]
    rfl
  · rw [wr_register h, getTh_setTh_self]
    exact ⟨by rw [xr_xw, if_pos ⟨rfl, h0⟩], fun r hr => by rw [xr_xw, if_neg fun hc => hr hc.1]⟩

/-- Settles O5: withRegs parks where a queue register holds an instruction back, and wr writes one register or one queue. -/
theorem registerRules : Obligations.RegisterRules := ⟨queueRegistersWait, registerWrites⟩

/-! ### The frame of an integer instruction -/

/-- Only the registers that satisfy p, the loop stack, the place and the order of a thread may differ, and IDZ where idz is set. -/
def ThreadMoved (p : Reg → Prop) (idz : Prop) (th th' : Thread) : Prop :=
  (∀ r, ¬ p r → xr th' r = xr th r) ∧ (¬ idz → SpecialRegistersKept th th') ∧ (∀ n, n ≠ 11 → th'.thst.getLsbD n = th.thst.getLsbD n) ∧
    modeOf th' = modeOf th

theorem threadMoved_refl (p : Reg → Prop) (idz : Prop) (th : Thread) : ThreadMoved p idz th th :=
  ⟨fun _ _ => rfl, fun _ => ⟨rfl, rfl, rfl, rfl, rfl, rfl, rfl, rfl, rfl, rfl, rfl, rfl, rfl, rfl, rfl⟩, fun _ _ => rfl, rfl⟩

theorem specialRegistersKept_trans {a b c : Thread} (h : SpecialRegistersKept a b) (k : SpecialRegistersKept b c) : SpecialRegistersKept a c := by
  obtain ⟨h1, h2, h3, h4, h5, h6, h7, h8, h9, h10, h11, h12, h13, h14, h15⟩ := h
  obtain ⟨k1, k2, k3, k4, k5, k6, k7, k8, k9, k10, k11, k12, k13, k14, k15⟩ := k
  exact ⟨k1.trans h1, k2.trans h2, k3.trans h3, k4.trans h4, k5.trans h5, k6.trans h6, k7.trans h7, k8.trans h8, k9.trans h9, k10.trans h10,
    k11.trans h11, k12.trans h12, k13.trans h13, k14.trans h14, k15.trans h15⟩

theorem threadMoved_trans {p : Reg → Prop} {idz : Prop} {a b c : Thread} (h : ThreadMoved p idz a b) (k : ThreadMoved p idz b c) :
    ThreadMoved p idz a c := by
  obtain ⟨hx, hs, ht, hm⟩ := h
  obtain ⟨kx, ks, kt, km⟩ := k
  exact ⟨fun r hr => (kx r hr).trans (hx r hr), fun hi => specialRegistersKept_trans (hs hi) (ks hi), fun n hn => (kt n hn).trans (ht n hn),
    km.trans hm⟩

theorem specialRegistersKept_xw (th : Thread) (d : Reg) (v : Word) : SpecialRegistersKept th (xw th d v) := by
  rw [xw_kept]
  exact ⟨rfl, rfl, rfl, rfl, rfl, rfl, rfl, rfl, rfl, rfl, rfl, rfl, rfl, rfl, rfl⟩

theorem thst_xw (th : Thread) (d : Reg) (v : Word) : (xw th d v).thst = th.thst := by rw [xw_kept]

theorem threadMoved_xw {p : Reg → Prop} (idz : Prop) (th : Thread) {d : Reg} (hd : p d) (v : Word) : ThreadMoved p idz th (xw th d v) := by
  refine ⟨fun r hr => ?_, fun _ => specialRegistersKept_xw th d v, fun n _ => by rw [thst_xw], by rw [modeOf, thst_xw]; rfl⟩
  rw [xr_xw, if_neg]
  rintro ⟨rfl, -⟩
  exact hr hd

/-- A state differs from another in the issuing thread alone, which has moved, and in the machine's harts, cores and counts. -/
def OnlyMoved (p : Reg → Prop) (idz : Prop) (s t : State) : Prop :=
  t.me = s.me ∧ OtherHartsKept s.me s t ∧ ThreadMoved p idz (cur s) (cur t)

theorem onlyMoved_refl (p : Reg → Prop) (idz : Prop) (s : State) : OnlyMoved p idz s s := ⟨rfl, fun _ _ => rfl, threadMoved_refl p idz _⟩

theorem onlyMoved_trans {p : Reg → Prop} {idz : Prop} {a b c : State} (h : OnlyMoved p idz a b) (k : OnlyMoved p idz b c) : OnlyMoved p idz a c := by
  obtain ⟨hme, ho, ht⟩ := h
  obtain ⟨kme, ko, kt⟩ := k
  exact ⟨kme.trans hme, fun u hu => (ko u (hme ▸ hu)).trans (ho u hu), threadMoved_trans ht kt⟩

theorem onlyMoved_setTh {p : Reg → Prop} {idz : Prop} {s : State} {th : Thread} (h : ThreadMoved p idz (cur s) th) : OnlyMoved p idz s (setTh s s.me th) :=
  ⟨rfl, otherHartsKept_setTh s s.me th, by
    rw [cur_setTh_me]
    exact h⟩

theorem onlyMoved_setCore {p : Reg → Prop} {idz : Prop} {s t : State} (h : OnlyMoved p idz s t) (c : Nat) (v : CoreSt) : OnlyMoved p idz s (setCore t c v) := h

theorem onlyMoved_wr {p : Reg → Prop} (idz : Prop) (s : State) {d : Reg} (hd : p d) (v : Word) : OnlyMoved p idz s (wr s.me d v s) := by
  cases h : isQ s.me d
  · rw [wr_register h]
    exact onlyMoved_setTh (threadMoved_xw idz _ hd v)
  · rw [wr_queue h]
    exact onlyMoved_setCore (onlyMoved_refl p idz s) ..

theorem onlyMoved_deq {p : Reg → Prop} (idz : Prop) (s : State) {r : Reg} (hr : p r) : OnlyMoved p idz s (deq s.me s r) := by
  unfold deq
  split
  · exact onlyMoved_refl p idz s
  · exact onlyMoved_trans (onlyMoved_setCore (onlyMoved_refl p idz s) ..) (onlyMoved_setTh (threadMoved_xw idz _ hr _))

theorem onlyMoved_foldl_deq {p : Reg → Prop} (idz : Prop) (rs : List Reg) : ∀ s, (∀ r ∈ rs, p r) → OnlyMoved p idz s (rs.foldl (deq s.me) s) := by
  induction rs with
  | nil => intro s _; exact onlyMoved_refl p idz s
  | cons r rs ih =>
    intro s h
    have h1 := onlyMoved_deq idz s (h r (List.mem_cons_self ..))
    have h2 := ih (deq s.me s r) fun x hx => h x (List.mem_cons_of_mem _ hx)
    rw [h1.1] at h2
    exact onlyMoved_trans h1 h2

theorem isQ_of_mem_qsources {t : Nat} {srcs : List Reg} {r : Reg} (h : r ∈ qsources t srcs) : isQ t r = true :=
  (List.mem_filter.1 (List.mem_eraseDups.1 h)).2

theorem onlyMoved_operandState {p : Reg → Prop} (idz : Prop) (srcs : List Reg) (s : State) (hp : ∀ r, isQ s.me r = true → p r) :
    OnlyMoved p idz s (operandState srcs s) :=
  onlyMoved_foldl_deq idz _ s fun r hr => hp r (isQ_of_mem_qsources hr)

theorem threadMoved_goesOn (p : Reg → Prop) (idz : Prop) (before : Wait) (q : Bool) (a : Word) (th : Thread) (l : Sp Word) :
    ThreadMoved p idz th (goesOn before q a { th with lstk := l }) :=
  ⟨fun _ _ => rfl, fun _ => specialRegistersKept_goesOn before q a th l, fun _ _ => rfl, rfl⟩

theorem onlyMoved_retireLive {p : Reg → Prop} {idz : Prop} {s0 s : State} (h : modeOf (cur s) ≠ 2) (n : Nat) (l : Option (BitVec 15)) (q : Bool) :
    OnlyMoved p idz s (retireLive s0 n l q s) := by
  rw [retireLive_goesOn h, seqNext_kept]
  exact onlyMoved_setTh (threadMoved_goesOn ..)

/-- IDZ is bit 11 of the status word (R193). -/
theorem threadMoved_idz (p : Reg → Prop) (th : Thread) {idz : Prop} (hi : idz) : ThreadMoved p idz th { th with thst := th.thst ||| 2 ^ 11 } := by
  have hb : ∀ n, n ≠ 11 → (th.thst ||| 2 ^ 11 : Word).getLsbD n = th.thst.getLsbD n := by
    intro n hn
    rw [show (2 ^ 11 : Word) = BitVec.twoPow 64 11 from rfl, BitVec.getLsbD_or, BitVec.getLsbD_twoPow]
    simp [Ne.symm hn]
  refine ⟨fun _ _ => rfl, fun h => absurd hi h, hb, ?_⟩
  have h12 : ∀ w : Word, modeOf { th with thst := w } = (w.getLsbD 1).toNat + 2 * (w.getLsbD 2).toNat := fun w => by
    simp only [modeOf, bits, BitVec.getLsbD, Nat.testBit_eq_decide_div_mod_eq]
    by_cases ha : w.toNat / 2 ^ 1 % 2 = 1 <;> by_cases hc : w.toNat / 2 ^ 2 % 2 = 1 <;> simp only [ha, hc, decide_true, decide_false, Bool.toNat_true, Bool.toNat_false] <;> omega
  exact (h12 _).trans ((by rw [hb 1 (by decide), hb 2 (by decide)] : _ = _).trans (h12 th.thst).symm)

/-- A next state of an integer instruction: it waits for a queue register, or has read its operands, set IDZ where it divides by zero, written its
result and retired. -/
theorem next_of_integerForm {i : Instr} {f : RegForm} (hf : integerForm i = some f) {s t : State} (ht : exec i s = .next t) :
    (∃ r rd, t = park (.queueReg r rd) s) ∨
    ∃ len live v s1, t = retireLive s len live f.q (wr s.me f.d v s1) ∧
      (s1 = operandState f.srcs s ∨
        (quotientForm i ≠ none ∧ s1 = modTh (operandState f.srcs s) s.me fun th => { th with thst := th.thst ||| 2 ^ 11 })) := by
  cases hb : qblock s f.srcs [f.d] with
  | some e =>
    obtain ⟨r, rd⟩ := e
    exact .inl ⟨r, rd, (Host.Outcome.next.inj ((exec_integerForm_blocked hf hb).symm.trans ht)).symm⟩
  | none =>
    rcases exec_of_integerForm hf with he | hq
    · rw [he, runForm_ready hb] at ht
      exact .inr ⟨_, _, _, _, (Host.Outcome.next.inj ht).symm, .inl rfl⟩
    · rw [quotientResults i f hq s hb] at ht
      refine .inr ⟨_, _, _, _, (Host.Outcome.next.inj ht).symm, ?_⟩
      split
      · exact .inr ⟨by rw [hq]; exact Option.some_ne_none f, rfl⟩
      · exact .inl rfl

/-- Settles O3: next_of_integerForm, each of whose parts moves the issuing thread alone. -/
theorem integerFrame : Obligations.IntegerFrame := by
  intro i f hf s t ht
  have hk : MachineKept s t := by
    rcases next_of_integerForm hf ht with ⟨r, rd, rfl⟩ | ⟨len, live, v, s1, rfl, h1⟩
    · exact machineKept_park ..
    · have hs1 : MachineKept s s1 := by
        rcases h1 with rfl | ⟨-, rfl⟩
        · exact machineKept_operandState ..
        · exact machineKept_setTh (machineKept_operandState ..) ..
      exact machineKept_retireLive (machineKept_trans hs1 (machineKept_wr ..)) ..
  refine ⟨hk, machineKept_sameBytes hk, machineKept_sameFullEmpty hk, fun hm => ?_⟩
  have hmoved : OnlyMoved (fun r => r = f.d ∨ isQ s.me r = true) (quotientForm i ≠ none) s t := by
    rcases next_of_integerForm hf ht with ⟨r, rd, rfl⟩ | ⟨len, live, v, s1, rfl, h1⟩
    · exact onlyMoved_setTh (threadMoved_refl ..)
    · have ho : OnlyMoved (fun r => r = f.d ∨ isQ s.me r = true) (quotientForm i ≠ none) s (operandState f.srcs s) :=
        onlyMoved_operandState _ f.srcs s fun r hr => .inr hr
      have hs1 : OnlyMoved (fun r => r = f.d ∨ isQ s.me r = true) (quotientForm i ≠ none) s s1 := by
        rcases h1 with rfl | ⟨hn, rfl⟩
        · exact ho
        · have hset := onlyMoved_setTh (threadMoved_idz (fun r => r = f.d ∨ isQ s.me r = true) (cur (operandState f.srcs s)) hn)
          rw [cur, operandState_me] at hset
          exact onlyMoved_trans ho hset
      have hw := onlyMoved_wr (p := fun r => r = f.d ∨ isQ s.me r = true) (quotientForm i ≠ none) s1 (.inl rfl) v
      rw [hs1.1] at hw
      have hall := onlyMoved_trans hs1 hw
      exact onlyMoved_trans hall (onlyMoved_retireLive (by rw [hall.2.2.2.2.2]; exact hm) ..)
  obtain ⟨-, hoth, hx, hspec, hst, -⟩ := hmoved
  exact ⟨hoth, fun r hd hr => hx r fun hc => hc.elim hd fun h => Bool.false_ne_true (hr.symm.trans h), fun hn => hspec fun hc => hc hn, hst⟩

end Sys2Proof.Machine
end

section
/-! What a write serves (R148, R151, R315, R323): the home's bookkeeping touches no hart, and what is served keeps who each thread is. -/

namespace Sys2Proof.Machine

open Sys2Proof.Claims

/-- A relation that every step of a fold keeps holds of the whole. -/
theorem foldl_rel {α σ : Type} {R : σ → σ → Prop} (hr : ∀ s, R s s) (ht : ∀ a b c, R a b → R b c → R a c) {f : σ → α → σ}
    (h : ∀ s a, R s (f s a)) (l : List α) : ∀ s, R s (l.foldl f s) := by
  induction l with
  | nil => exact hr
  | cons a l ih => exact fun s => ht _ _ _ (h s a) (ih _)

/-! ### The home's bookkeeping (R227, R229, R233) -/

/-- Only the cores' copies, the line times, the slices, the L2 copies, the page owners, what has been seen and the events under way differ. -/
def HomeMoved (s t : State) : Prop :=
  t = { s with cores := t.cores, lines := t.lines, slices := t.slices, l2 := t.l2, powner := t.powner, seen := t.seen, pending := t.pending }

theorem homeMoved_refl (s : State) : HomeMoved s s := rfl

theorem homeMoved_trans (a b c : State) (h : HomeMoved a b) (k : HomeMoved b c) : HomeMoved a c := by
  unfold HomeMoved at *
  rw [k, h]

theorem homeMoved_keepLine (core line : Nat) (e : CachedLine) (s : State) : HomeMoved s (keepLine core line e s) := by
  unfold keepLine
  split <;> rfl

theorem homeMoved_takeMiss (line : Nat) (s : State) : HomeMoved s (takeMiss line s) := by
  unfold takeMiss
  split <;> rfl

theorem homeMoved_homeFill (core : Nat) (renew : Bool) (s : State) (line : Nat) : HomeMoved s (homeFill core renew s line) := by
  unfold homeFill
  split
  · rfl
  · refine homeMoved_trans _ _ _ (homeMoved_takeMiss line s) (homeMoved_trans _ _ _ ?_ (homeMoved_keepLine ..))
    rfl

theorem homeMoved_loadTimes (core : Nat) (s : State) (line : Nat) : HomeMoved s (loadTimes core s line) := by
  unfold loadTimes
  dsimp only
  split
  · rfl
  · split
    · rfl
    · exact homeMoved_homeFill ..

theorem homeMoved_storeTimes (core : Nat) (s : State) (line : Nat) : HomeMoved s (storeTimes core s line) := by
  unfold storeTimes
  refine homeMoved_trans _ _ _ (homeMoved_takeMiss line s) (homeMoved_trans _ _ _ ?_ (homeMoved_keepLine ..))
  rfl

theorem homeMoved_keepWritten (core : Nat) (ps : List Piece) (s : State) : HomeMoved s (keepWritten core ps s) :=
  foldl_rel homeMoved_refl homeMoved_trans (fun s line => homeMoved_keepLine core line _ s) _ s

theorem homeMoved_catchUp (core : Nat) (s : State) : HomeMoved s (catchUp core s) := rfl

theorem homeMoved_meetOthers (core : Nat) (ps : List Piece) (s : State) : HomeMoved s (meetOthers core ps s) := by
  unfold meetOthers
  split <;> rfl

theorem homeMoved_ownPages (core : Nat) (s : State) (ps : List Piece) : HomeMoved s (ownPages core s ps) := by
  refine foldl_rel homeMoved_refl homeMoved_trans (fun s p => ?_) _ s
  split <;> rfl

theorem homeMoved_homeLoad (core : Nat) (ps : List Piece) (s : State) : HomeMoved s (homeLoad core ps s) :=
  homeMoved_trans _ _ _ (homeMoved_ownPages core s ps)
    (homeMoved_trans _ _ _ (foldl_rel homeMoved_refl homeMoved_trans (homeMoved_loadTimes core) _ _) (homeMoved_meetOthers ..))

theorem homeMoved_homeRead (core : Nat) (ps : List Piece) (s : State) : HomeMoved s (homeRead core ps s) :=
  homeMoved_trans _ _ _ (homeMoved_ownPages core s ps)
    (homeMoved_trans _ _ _ (foldl_rel homeMoved_refl homeMoved_trans (homeMoved_homeFill core false) _ _) (homeMoved_meetOthers ..))

theorem homeMoved_homeStore (core : Nat) (ps : List Piece) (s : State) : HomeMoved s (homeStore core ps s) :=
  homeMoved_trans _ _ _ (homeMoved_ownPages core s ps) (homeMoved_trans _ _ _ (foldl_rel homeMoved_refl homeMoved_trans (homeMoved_storeTimes core) _ _)
    (homeMoved_trans _ _ _ (homeMoved_meetOthers ..) rfl))

theorem homeMoved_homeAgain (core key : Nat) (s : State) : HomeMoved s (homeAgain core key s) := by
  unfold homeAgain
  split
  · rfl
  · exact homeMoved_trans _ _ _ (homeMoved_storeTimes core s (key / 64)) rfl

theorem homeMoved_joinAgain (core key : Nat) (s : State) : HomeMoved s (joinAgain core key s) := by
  unfold joinAgain
  split
  · rfl
  · exact homeMoved_homeFill ..

/-! ### What is served keeps who each thread is -/

/-- Who a thread is, what it holds, and its handler: no wait that is served changes them. -/
def Thread.who (th : Thread) : Nat × Nat × Nat × Nat × Nat × BitVec 32 × Option (Nat × Nat) × Word × Word :=
  (th.uid, th.ctx, th.part, th.tenant, th.launch, th.id, th.hold, th.holdAt, th.tvec)

/-- Every hart's thread is who it was. -/
structure WhoKept (s t : State) : Prop where
  who : ∀ u, (getTh t u).who = (getTh s u).who

namespace WhoKept

theorem refl (s : State) : WhoKept s s := ⟨fun _ => rfl⟩

theorem trans {a b c : State} (h : WhoKept a b) (k : WhoKept b c) : WhoKept a c := ⟨fun u => (k.who u).trans (h.who u)⟩

theorem congr {s t t' : State} (h : WhoKept s t) (ht : t'.threads = t.threads) : WhoKept s t' := ⟨fun u => by
  rw [getTh, ht]
  exact h.who u⟩

theorem setTh {s t : State} (h : WhoKept s t) {u : Nat} {th : Thread} (hw : th.who = (getTh t u).who) : WhoKept s (setTh t u th) where
  who v := by
    rw [getTh_setTh]
    split
    · next hv => rw [hv, hw, h.who]
    · exact h.who v

theorem setCore {s t : State} (h : WhoKept s t) (c : Nat) (v : CoreSt) : WhoKept s (setCore t c v) := ⟨h.who⟩

theorem push {s t : State} (h : WhoKept s t) (e : Instr) : WhoKept s (push e t) := ⟨h.who⟩

theorem foldl {α : Type} {f : State → α → State} (h : ∀ s a, WhoKept s (f s a)) (l : List α) (s : State) : WhoKept s (l.foldl f s) :=
  foldl_rel refl (fun _ _ _ => trans) h l s

theorem of_homeMoved {s t : State} (h : HomeMoved s t) : WhoKept s t := (refl s).congr (by rw [h])

theorem endCapture (t : Nat) (s : State) : WhoKept s (endCapture t s) := by
  have hw : ∀ th : Thread, (closeCapture th).who = th.who := fun th => by
    unfold closeCapture
    split <;> rfl
  unfold Machine.endCapture
  split
  · exact refl s
  · exact ((refl s).setTh (hw _)).setCore ..

theorem departTo (t : Nat) (a : Word) (l : BitVec 15) (s : State) : WhoKept s (departTo t a l s) := by
  unfold Machine.departTo
  exact (((refl s).setTh (by rfl)).trans (endCapture t _)).push _

theorem enterTrap (t : Nat) (i : TrapInfo) (async : Bool) (j : Nat) (p : Bool) (epc : Word) (s : State) :
    WhoKept s (enterTrap t i async j p epc s) := by
  have h : ∀ th : Thread, th.who = (getTh s t).who → WhoKept s (Machine.endCapture t (Machine.setTh s t th)) := fun th hw =>
    ((refl s).setTh hw).trans (endCapture t _)
  unfold Machine.enterTrap
  dsimp only
  rw [modTh_eq, modTh_eq]
  split
  · exact h _ rfl
  · split
    · refine trans ?_ (departTo ..)
      exact h _ rfl
    · exact h _ rfl

theorem flow {s0 s : State} (h : WhoKept s0 s) (a : Word) (l : Option (BitVec 15)) (q : Bool) : WhoKept s0 (flow s0 a l q s) := by
  unfold Machine.flow
  dsimp only
  rw [modTh_eq, modTh_eq]
  split
  · split
    · exact enterTrap ..
    · exact (h.setTh (by rfl)).trans (departTo ..)
  · exact h.setTh (by rfl)

theorem retireLive {s0 s : State} (h : WhoKept s0 s) (n : Nat) (l : Option (BitVec 15)) (q : Bool) : WhoKept s0 (retireLive s0 n l q s) := by
  have hw : (seqNext (getTh s0 s.me).pc n (getTh s s.me)).1.who = (getTh s s.me).who := by rw [seqNext_kept]; rfl
  exact flow (h.setTh hw) ..

theorem retire {s0 s : State} (h : WhoKept s0 s) (n : Nat) (q : Bool) : WhoKept s0 (retire s0 n q s) := retireLive h ..

theorem addLate {s t : State} (h : WhoKept s t) (d : Reg) (v : Word) : WhoKept s (addLate d v t) := (h.setTh (by rfl)).push _

theorem asHart {t : Nat} {f : State → State} (h : ∀ s, WhoKept s (f s)) (s : State) : WhoKept s (asHart t f s) :=
  ⟨(h { s with me := t }).who⟩

theorem catchUp (core : Nat) (s : State) : WhoKept s (catchUp core s) := of_homeMoved (homeMoved_catchUp core s)

theorem hitLatches (word : Nat) (s : State) : WhoKept s (hitLatches word s) := by
  refine foldl (fun s r => ?_) _ s
  dsimp only
  split
  · exact (refl s).setTh (by rfl)
  · exact (refl s).congr rfl

theorem serve (t : Nat) (v : Word) (s : State) : WhoKept s (serve t v s) := by
  refine asHart (fun s => (catchUp (coreOf t) s).trans ?_) s
  dsimp only
  split
  · split
    · exact (refl _).retire ..
    · exact ((refl _).addLate ..).retire ..
    · exact ((refl _).addLate ..).retire ..
  · exact refl _

theorem wrRun {s t : State} (h : WhoKept s t) (k : Nat) (bs : List Byte) : WhoKept s (wrRun t k bs) := by
  induction bs generalizing t k with
  | nil => exact h
  | cons b bs ih => exact ih (h.congr (by rfl) : WhoKept s (wrByte t k b)) (k + 1)

theorem wrWord {s t : State} (h : WhoKept s t) (k : Nat) (v : Word) : WhoKept s (wrWord t k v) := h.wrRun ..

theorem setFe {s t : State} (h : WhoKept s t) (k : Nat) (b : Bool) : WhoKept s (setFe t k b) := h.congr rfl

theorem serveList (word fuel : Nat) : ∀ s, WhoKept s (serveList word fuel s) := by
  induction fuel with
  | zero => exact refl
  | succ n ih =>
    intro s
    unfold Machine.serveList
    split
    · exact refl s
    · next e rest _ =>
      have hgo : ∀ s', WhoKept s s' → WhoKept s (Machine.serveList word n { s' with waits := spSet [] s'.waits word rest }) := fun s' h =>
        (h.congr (by rfl)).trans (ih _)
      have hagain : WhoKept s (homeAgain (coreOf e.t) (word * 8) s) := of_homeMoved (homeMoved_homeAgain ..)
      have hjoin : WhoKept s (joinAgain (coreOf e.t) (word * 8) s) := of_homeMoved (homeMoved_joinAgain ..)
      dsimp only
      split
      · split
        · exact hgo _ (hagain.trans (serve ..))
        · exact refl s
      · split
        · exact hgo _ (hjoin.trans (serve ..))
        · exact refl s
      · split
        · exact hgo _ (((hagain.setFe ..).trans (hitLatches ..)).trans (serve ..))
        · exact refl s
      · split
        · exact refl s
        · exact hgo _ ((((hagain.wrWord ..).setFe ..).trans (hitLatches ..)).trans (serve ..))

theorem testGates (word : Nat) (s : State) : WhoKept s (testGates word s) := by
  refine foldl (fun s e => ?_) _ s
  dsimp only
  split
  · exact (refl s).push _
  · exact refl s

theorem lessWaiter (key : Nat) (s : State) : WhoKept s (lessWaiter key s) := ((refl s).wrWord ..).trans (hitLatches ..)

theorem releaseWaiter (s : State) (t : Nat) : WhoKept s (releaseWaiter s t) := by
  unfold Machine.releaseWaiter
  split
  · dsimp only
    split
    · exact refl s
    · refine ((lessWaiter ..).trans (catchUp ..)).trans (asHart (fun s => retire (((refl s).setTh (by rfl)).addLate ..) ..) _)
  · exact refl s

theorem testBarriers (word : Nat) (s : State) : WhoKept s (testBarriers word s) := foldl (fun s (e : Nat × Thread) => releaseWaiter s e.1) _ s

theorem afterWord (s : State) (word : Nat) : WhoKept s (afterWord s word) := by
  unfold Machine.afterWord
  split
  · exact (refl s).congr rfl
  · exact (((hitLatches ..).trans (serveList ..)).trans (testGates ..)).trans (testBarriers ..)

theorem holdAt {s t : State} (h : WhoKept s t) (u : Nat) : (getTh t u).holdAt = (getTh s u).holdAt :=
  congrArg (fun p : Nat × Nat × Nat × Nat × Nat × BitVec 32 × Option (Nat × Nat) × Word × Word => p.2.2.2.2.2.2.2.1) (h.who u)

end WhoKept

theorem holdAt_releaseHold (t word : Nat) (s : State) : (getTh (releaseHold t word s) t).holdAt = (getTh s t).holdAt := by
  unfold releaseHold
  dsimp only
  rw [modTh_eq]
  split <;> split
  · exact ((WhoKept.afterWord ..).holdAt t).trans (congrArg (·.holdAt) (getTh_setTh_self ..))
  · exact congrArg (·.holdAt) (getTh_setTh_self ..)
  · exact ((WhoKept.afterWord ..).holdAt t).trans (congrArg (·.holdAt) (getTh_setTh_self ..))
  · exact congrArg (·.holdAt) (getTh_setTh_self ..)

end Sys2Proof.Machine
end

section
/-! lp and tret (O7, O8). -/

namespace Sys2Proof.Machine

open Sys2Proof.Claims

/-! ### lp -/

theorem loopDist_bounds {q : Bool} {a : Reg} {i : BitVec 15} (h : WellFormed (.lp q a i)) : 1 ≤ i.toNat ∧ i.toNat ≤ 16383 := by
  have hw : (i != 0 && !i.getLsbD 14) = true := h
  have hi : i ≠ 0 ∧ i.getLsbD 14 = false := by simpa only [Bool.and_eq_true, bne_iff_ne, Bool.not_eq_true'] using hw
  have h0 : i.toNat ≠ 0 := fun hc => hi.1 (BitVec.eq_of_toNat_eq hc)
  have hlt : i.toNat < 2 ^ 14 := by
    have := hi.2
    rw [BitVec.getLsbD, Nat.testBit_eq_decide_div_mod_eq, decide_eq_false_iff_not] at this
    have := i.isLt
    omega
  omega

/-- The levels after a push: the new one first, the three youngest below it (R304). -/
theorem spGet_pushLoop (start w : Word) (th : Thread) :
    spGet 0 (pushLoop start w th).lstk 0 = start ∧ spGet 0 (pushLoop start w th).lstk 1 = w ∧
      ∀ n, n < 6 → spGet 0 (pushLoop start w th).lstk (n + 2) = spGet 0 th.lstk n := by
  refine ⟨by simp [pushLoop, spGet_spSet], by simp [pushLoop, spGet_spSet], fun n hn => ?_⟩
  interval_cases n <;> simp [pushLoop, spGet_spSet]

theorem deq_lstk (t u : Nat) (s : State) (r : Reg) : (getTh (deq t s r) u).lstk = (getTh s u).lstk := by
  unfold deq
  split
  · rfl
  · rw [modTh_eq, getTh_setTh]
    split
    · next h => rw [h, xw_kept]; rfl
    · rfl

theorem operandState_lstk (srcs : List Reg) (s : State) : (cur (operandState srcs s)).lstk = (cur s).lstk := by
  have h : ∀ (rs : List Reg) s', (getTh (rs.foldl (deq s.me) s') s.me).lstk = (getTh s' s.me).lstk := by
    intro rs
    induction rs with
    | nil => intro s'; rfl
    | cons r rs ih => intro s'; exact (ih _).trans (deq_lstk ..)
  rw [cur, operandState_me]
  exact h _ s

theorem offAdd_nat_of_lt {a : Word} {n : Nat} (h : off a + n < 2 ^ 48) : offAdd a n = some (nextAddr a n) := by
  have hs : offAdd a (n : Int) = some (ofN (a.toNat / 2 ^ 48 * 2 ^ 48 + (off a + n))) := offAdd_within (by omega) (by omega)
  rw [hs, nextAddr, ← off, Nat.mod_eq_of_lt h]

theorem offAdd_nat_of_ge {a : Word} {n : Nat} (h : 2 ^ 48 ≤ off a + n) : offAdd a n = none := offAdd_outside (by omega)

/-- The issuing thread in its operand state. -/
theorem getTh_operandState_me (srcs : List Reg) (s : State) : getTh (operandState srcs s) s.me = cur (operandState srcs s) := by
  rw [cur, operandState_me]

theorem modTh_operandState (srcs : List Reg) (s : State) (f : Thread → Thread) :
    modTh (operandState srcs s) (operandState srcs s).me f = setTh (operandState srcs s) s.me (f (cur (operandState srcs s))) := by
  rw [modTh_eq, operandState_me, getTh_operandState_me]

section

variable {q : Bool} {a : Reg} {i : BitVec 15} {s : State} (ht : tl (cur s) = false) (hq : QueuesReady [a] [] s)

include ht hq

theorem execLp_outside (ho : 2 ^ 48 ≤ off (cur s).pc + 4 + 4 * i.toNat) : execLp q a i s = trapHere 2 5 (cur s).pc s := by
  have hstop : offAdd (cur s).pc (4 + 4 * Int.ofNat i.toNat) = none := offAdd_nat_of_ge (n := 4 + 4 * i.toNat) (by omega)
  rw [execLp, if_neg (by simp [ht]), withRegs_ready hq, operandState_pc]
  dsimp only
  rw [hstop]
  split
  · next h => cases h
  · rfl

theorem execLp_within (ho : off (cur s).pc + 4 + 4 * i.toNat < 2 ^ 48) :
    execLp q a i s =
      if (operand [a] s a).toNat = 0 then .next (jump s (nextAddr (cur s).pc (4 + 4 * i.toNat)) false none q (operandState [a] s))
      else .next (retire s 4 q (setTh (operandState [a] s) s.me (pushLoop (nextAddr (cur s).pc 4)
        (ofN (min (operand [a] s a).toNat (2 ^ 32 - 1) * 2 ^ 32 + i.toNat * 4 + 1)) (cur (operandState [a] s))))) := by
  have hstop : offAdd (cur s).pc (4 + 4 * Int.ofNat i.toNat) = some (nextAddr (cur s).pc (4 + 4 * i.toNat)) :=
    offAdd_nat_of_lt (n := 4 + 4 * i.toNat) (by omega)
  have hstart : offAdd (cur s).pc 4 = some (nextAddr (cur s).pc 4) := offAdd_nat_of_lt (n := 4) (by omega)
  rw [execLp, if_neg (by simp [ht]), withRegs_ready hq, operandState_pc, ← modTh_operandState]
  dsimp only
  rw [hstop, hstart]
  rfl

end

/-- Settles O7: execLp_outside and execLp_within give every next state of lp at trap level 0. -/
theorem loopPush : Obligations.LoopPush := by
  intro q a i s hw
  refine ⟨fun ht => ?_, loopDist_bounds hw, fun ht hq ho => ?_, fun ht hq ho => ⟨fun h0 => ?_, fun h0 => ?_⟩⟩
  · rw [TrapsHere, exec_lp, execLp, if_pos ht]
    rfl
  · rw [TrapsHere, exec_lp, execLp_outside ht hq ho]
    rfl
  · rw [exec_lp, execLp_within ht hq ho, if_pos h0]
  · rw [exec_lp, execLp_within ht hq ho, if_neg h0]
    obtain ⟨hl0, hl1, hl⟩ := spGet_pushLoop (nextAddr (cur s).pc 4) (ofN (min (operand [a] s a).toNat (2 ^ 32 - 1) * 2 ^ 32 + i.toNat * 4 + 1))
      (cur (operandState [a] s))
    exact ⟨_, rfl, rfl, hl0, hl1, fun n hn => (hl n hn).trans (by rw [operandState_lstk])⟩

/-! ### tret -/

theorem tl_eq_getLsbD (th : Thread) : tl th = th.thst.getLsbD 0 := rfl

theorem savedOk_iff (th : Thread) : savedOk th = true ↔
    th.thst.toNat / 2 ^ 16 % 2 ^ 16 % 2 = 0 ∧ th.thst.toNat / 2 ^ 16 % 2 ^ 16 / 2 % 4 = th.thst.toNat / 2 % 4 ∧
      th.thst.toNat / 2 ^ 16 % 2 ^ 16 / 8 % 8 ≤ 4 ∧ th.thst.toNat / 2 ^ 16 % 2 ^ 16 / 2 ^ 12 = 0 := by
  have h4 : ∀ n : Nat, decide (n ≤ 4) = true ↔ n ≤ 4 := fun n => decide_eq_true_iff
  have hm : modeOf th = th.thst.toNat / 2 % 4 := by simp [modeOf, bits]
  have hs : bits th.thst 31 16 = th.thst.toNat / 2 ^ 16 % 2 ^ 16 := rfl
  simp only [savedOk, hm, hs, Bool.and_eq_true, beq_iff_eq, h4, and_assoc]
  exact Iff.rfl

/-- The status of a handler that is entered again: FRM and the flags are zero (R194). -/
theorem getLsbD_badStatus (w : Word) (n : Nat) :
    (setBits (setBits w 11 6 0) 5 3 0).getLsbD n = if 3 ≤ n ∧ n ≤ 11 then false else w.getLsbD n := by
  rw [getLsbD_setBits (by decide) (by decide), getLsbD_setBits (by decide) (by decide), Nat.zero_testBit, Nat.zero_testBit]
  by_cases h1 : 3 ≤ n ∧ n ≤ 5
  · rw [if_pos h1, if_pos ⟨h1.1, by omega⟩]
  · by_cases h2 : 6 ≤ n ∧ n ≤ 11
    · rw [if_neg h1, if_pos h2, if_pos ⟨by omega, h2.2⟩]
    · rw [if_neg h1, if_neg h2, if_neg (by omega)]

theorem trapReturn_results (base : BitVec 32) (q : Bool) (live : Option (BitVec 15)) (s : State) :
    (tl (cur s) = false → trapReturn base q live s = illegal base s) ∧
    (tl (cur s) = true → savedOk (cur s) = true → bits (cur s).tepc 1 0 = 0 →
      trapReturn base q live s = .next (jump s (cur s).tepc false live q (setTh s s.me { cur s with
        thst := restoreStatus (cur s).thst, tretAt := if asyncAimed s s.me then (cur s).seq + 1 else (cur s).tretAt }))) ∧
    (tl (cur s) = true → savedOk (cur s) = true → bits (cur s).tepc 1 0 ≠ 0 → trapReturn base q live s = misaligned s (cur s).tepc false s) ∧
    (tl (cur s) = true → savedOk (cur s) = false → trapReturn base q live s = .next (badStatus s)) := by
  unfold trapReturn
  refine ⟨fun h => ?_, fun h hs hp => ?_, fun h hs hp => ?_, fun h hs => ?_⟩
  · simp [h]
  · simp only [h, hs, hp]
    rfl
  · simp [h, hs, hp]
  · simp [h, hs]

/-- Settles O8: trapReturn_results of both forms, whose base words differ. -/
theorem trapReturn_settled : Obligations.TrapReturn := by
  intro q live s i hi th saved good
  obtain ⟨base, hexec⟩ : ∃ base, exec i s = trapReturn base q live s := by
    rcases hi with ⟨rfl, rfl⟩ | ⟨l, rfl, rfl⟩
    · exact ⟨_, exec_tret ..⟩
    · exact ⟨_, exec_tretX ..⟩
  obtain ⟨hlow, hgood, hmis, hbad⟩ := trapReturn_results base q live s
  have hok : savedOk th = true ↔ good := savedOk_iff th
  have hbits : bits th.tepc 1 0 = th.tepc.toNat % 4 := bits_one_zero _
  simp only [TrapsHere, hexec]
  refine ⟨fun h => ⟨_, hlow h⟩, fun h hg hp => hgood h (hok.2 hg) (hbits.trans hp), fun h hg hp hl => ?_, fun h hg hl => ?_⟩
  · rw [hmis h (hok.2 hg) (hbits ▸ hp), misaligned_stays hl]
    rfl
  · rw [hbad h (Bool.eq_false_of_not_eq_true (mt hok.1 hg))]
    refine ⟨setBits (setBits th.thst 11 6 0) 5 3 0, ?_, fun n _ => getLsbD_badStatus th.thst n⟩
    unfold badStatus
    simp only [show leaves s s.me (cur s).tvec = false from hl, Bool.not_false, if_true]
    rfl

end Sys2Proof.Machine
end

section
/-! Control registers and system reads (O12, O14, O15): what reading operands changes, the value and the effect of each control register. -/

namespace Sys2Proof.Machine

open Sys2Proof.Claims

/-! ### Reading operands -/

/-- Reading operands changes scalar registers and inbound queues alone (R186). -/
def OperandsRead (s t : State) : Prop :=
  t = { s with threads := t.threads, cores := t.cores } ∧ (∀ u, getTh t u = { getTh s u with x := (getTh t u).x }) ∧
    ∀ c, getCore t c = { getCore s c with inq := (getCore t c).inq }

theorem operandsRead_refl (s : State) : OperandsRead s s := ⟨rfl, fun _ => rfl, fun _ => rfl⟩

theorem operandsRead_trans {a b c : State} (h : OperandsRead a b) (k : OperandsRead b c) : OperandsRead a c := by
  obtain ⟨h1, h2, h3⟩ := h
  obtain ⟨k1, k2, k3⟩ := k
  refine ⟨?_, fun u => ?_, fun n => ?_⟩
  · rw [k1, h1]
  · rw [k2, h2]
  · rw [k3, h3]

theorem operandsRead_deq (t : Nat) (s : State) (r : Reg) : OperandsRead s (deq t s r) := by
  unfold deq
  split
  · exact operandsRead_refl s
  · next w ws _ =>
    refine ⟨rfl, fun u => ?_, fun c => ?_⟩
    · rw [modTh_eq, getTh_setTh]
      split
      · next hu =>
        rw [hu, xw_kept]
        rfl
      · rfl
    · rw [modTh_eq, modCore_eq, getCore_setTh]
      by_cases hc : c = coreOf t
      · rw [hc, getCore_setCore_self]
      · rw [getCore_setCore_other _ hc]

theorem operandsRead_operandState (srcs : List Reg) (s : State) : OperandsRead s (operandState srcs s) := by
  have h : ∀ (rs : List Reg) (a : State), OperandsRead a (rs.foldl (deq s.me) a) := by
    intro rs
    induction rs with
    | nil => exact operandsRead_refl
    | cons r rs ih => exact fun a => operandsRead_trans (operandsRead_deq s.me a r) (ih _)
  exact h _ s

section

variable {s t : State} (h : OperandsRead s t)

include h

theorem pjHead_read (u : Nat) : pjHead t u = pjHead s u := by
  obtain ⟨ht, hth, -⟩ := h
  have hj : t.journal = s.journal := by rw [ht]
  rw [pjHead, hth, hj]
  rfl

theorem kmaskRead_read (u : Nat) : kmaskRead t u = kmaskRead s u := by
  obtain ⟨-, hth, hc⟩ := h
  have hk : ∀ c, (getCore t c).keys = (getCore s c).keys := fun c => by rw [hc]
  simp only [kmaskRead, keyCache, hk]
  rw [hth]
  rfl

theorem segId_read (u : Nat) : segId t u = segId s u := by
  obtain ⟨-, -, hc⟩ := h
  rw [segId, hc]
  rfl

theorem tidOf_read (u : Nat) : tidOf t u = tidOf s u := by
  obtain ⟨-, hth, -⟩ := h
  rw [tidOf, hth]
  rfl

theorem gtimeAt_read (u : Nat) : gtimeAt t u = gtimeAt s u := by
  obtain ⟨ht, hth, -⟩ := h
  have hg : gtime t = gtime s := by rw [ht]; rfl
  rw [gtimeAt, hg, hth]
  rfl

theorem seenCount_read (w : Word) : seenCount t w = seenCount s w := by
  obtain ⟨ht, -, -⟩ := h
  rw [ht]
  rfl

theorem ctlValue_read (u n : Nat) : ctlValue t u n = ctlValue s u n := by
  have hth := h.2.1 u
  simp only [ctlValue, pjHead_read h, kmaskRead_read h, segId_read h, tidOf_read h, gtimeAt_read h, seenCount_read h]
  rw [hth]
  rfl

theorem ctlFree_read (u n : Nat) : ctlFree t u n = ctlFree s u n := by
  obtain ⟨-, hth, -⟩ := h
  rw [ctlFree, hth]
  rfl

end

theorem ctlValue_eq_ctlTable (s : State) (n : Nat) : ctlValue s s.me n = ctlTable s n := by
  have hm : ((cur s).mcell).setWidth 64 = ofN (cur s).mcell.toNat := BitVec.eq_of_toNat_eq (by simp [ofN])
  have hw : (if (cur s).vwin = true then (1 : Word) else 0) = flag ((cur s).vwin = true) := by
    cases (cur s).vwin <;> rfl
  have hr : ∀ a b : Nat, n < b + 1 ↔ n ≤ b := fun _ _ => Nat.lt_succ_iff
  unfold ctlValue ctlTable
  simp only [← hm, ← hw, hr 0x017 0x017, hr 0x01B 0x01B, hr 0x047 0x047]
  rfl

theorem ctlFree_iff (s : State) (n : Nat) : ctlFree s s.me n = true ↔ ReadsCacheCount s n := by
  simp only [ctlFree, cacheCount, ReadsCacheCount, Bool.and_eq_true, decide_eq_true_eq, Bool.not_eq_true', Nat.lt_succ_iff, and_assoc]
  rfl

theorem ctlFree_eq_false {s : State} {n : Nat} (h : ¬ ReadsCacheCount s n) : ctlFree s s.me n = false :=
  Bool.eq_false_of_not_eq_true (mt (ctlFree_iff s n).1 h)

/-! ### ctl.rd -/

theorem operandState_nil (s : State) : operandState [] s = s := rfl

theorem trapsHere_of_illegal {i : Instr} {s : State} {base : BitVec 32} (h : exec i s = illegal base s) : ∃ base, TrapsHere i s 1 0 base := ⟨_, h⟩

theorem execCtlRd_unnamed {d : Reg} {h : BitVec 4} {n : BitVec 8} {s : State} (hn : ctlTable s (ctlNum h n) = none) (q : Bool) :
    execCtlRd q d h n s = illegal (encA 0#2 q 0x3C#6 d 0#4 h (1#3 ++ n)) s := by
  rw [execCtlRd, ctlValue_eq_ctlTable, hn]

theorem execCtlRd_named {d : Reg} {h : BitVec 4} {n : BitVec 8} {s : State} {v : Word} (hv : ctlTable s (ctlNum h n) = some v)
    (hq : QueuesReady [] [d] s) (q : Bool) : execCtlRd q d h n s = result s 4 q d v (ctlSeen s s.me (ctlNum h n)) := by
  rw [execCtlRd, ctlValue_eq_ctlTable, hv]
  exact withRegs_ready hq _

theorem ctlSeen_of_not_cacheCount {s : State} {n : Nat} (h : ¬ ReadsCacheCount s n) :
    ctlSeen s s.me n = if n = 0x030 then gtimeRead s else s := by
  rw [ctlSeen, ctlFree_eq_false h]
  rfl

theorem ctlSeen_of_cacheCount {s : State} {n : Nat} (h : ReadsCacheCount s n) : ctlSeen s s.me n = { s with freeCount := s.freeCount + 1 } := by
  have hn : n ≠ 0x030 := by
    have := h.1
    omega
  rw [ctlSeen, if_neg hn, (ctlFree_iff s n).2 h]
  rfl

theorem controlReads : ControlReads := by
  intro q d h n s k
  refine ⟨fun hn => trapsHere_of_illegal ((exec_ctlRd ..).trans (execCtlRd_unnamed hn q)), fun v hv hq => ⟨fun hc => ?_, fun hc => ?_⟩⟩
  · rw [exec_ctlRd, execCtlRd_named hv hq, show ctlSeen s s.me (ctlNum h n) = _ from ctlSeen_of_not_cacheCount hc]
    exact result_base (by split <;> rfl) q d v
  · rw [exec_ctlRd, execCtlRd_named hv hq, show ctlSeen s s.me (ctlNum h n) = _ from ctlSeen_of_cacheCount hc]
    rfl

/-! ### Words written to control registers -/

theorem getLsbD_ofN_split {b k : Nat} (hb : b < 2 ^ k) (a i : Nat) :
    (ofN (a * 2 ^ k + b)).getLsbD i = (decide (i < 64) && if i < k then b.testBit i else a.testBit (i - k)) := by
  rw [ofN, BitVec.getLsbD_ofNat, Nat.mul_comm, Nat.testBit_two_pow_mul_add _ hb]

theorem testBit_div (v : Word) (k j : Nat) : (v.toNat / 2 ^ k).testBit j = v.getLsbD (j + k) := Nat.testBit_div_two_pow v.toNat j

theorem testBit_mod (v : Word) (k j : Nat) : (v.toNat % 2 ^ k).testBit j = (decide (j < k) && v.getLsbD j) := Nat.testBit_mod_two_pow v.toNat k j

/-- A mask that clears the low k bits (R195, R196). -/
theorem and_high_mask {m : Word} {k : Nat} (hm : ∀ j : Fin 64, m.getLsbD j = !decide (j.val < k)) (v : Word) : v &&& m = ofN (v.toNat / 2 ^ k * 2 ^ k) := by
  apply BitVec.eq_of_getLsbD_eq
  intro i hi
  have hs := getLsbD_ofN_split (Nat.two_pow_pos k) (v.toNat / 2 ^ k) i
  rw [Nat.add_zero] at hs
  rw [BitVec.getLsbD_and, hm ⟨i, hi⟩, hs]
  by_cases hk : i < k
  · simp [hk]
  · rw [testBit_div, Nat.sub_add_cancel (by omega)]
    simp [hk, hi]

/-- A mask that keeps the low k bits (R195). -/
theorem and_low_mask {m : Word} {k : Nat} (hm : ∀ j : Fin 64, m.getLsbD j = decide (j.val < k)) (v : Word) : v &&& m = ofN (v.toNat % 2 ^ k) := by
  apply BitVec.eq_of_getLsbD_eq
  intro i hi
  rw [BitVec.getLsbD_and, hm ⟨i, hi⟩, ofN, BitVec.getLsbD_ofNat, testBit_mod]
  simp [hi, Bool.and_comm]

/-- A counter keeps its EVENT and its 48 bits of count (R199). -/
theorem and_counter_mask (v : Word) : v &&& 0xFF00FFFFFFFFFFFF = ofN (v.toNat / 2 ^ 56 * 2 ^ 56 + v.toNat % 2 ^ 48) := by
  apply BitVec.eq_of_getLsbD_eq
  intro i hi
  have hm : ∀ j : Fin 64, (0xFF00FFFFFFFFFFFF : Word).getLsbD j = (decide (j.val < 48) || decide (56 ≤ j.val)) := by decide
  have hb : v.toNat % 2 ^ 48 < 2 ^ 56 := Nat.lt_trans (Nat.mod_lt _ (by decide)) (by decide)
  rw [BitVec.getLsbD_and, hm ⟨i, hi⟩, getLsbD_ofN_split hb, testBit_mod]
  by_cases h56 : i < 56
  · have : ¬ 56 ≤ i := by omega
    simp [h56, hi, this, Bool.and_comm]
  · rw [testBit_div, Nat.sub_add_cancel (by omega)]
    simp [h56, hi, Nat.le_of_not_lt h56]

theorem setWidth_two (v : Word) : v.setWidth 2 = BitVec.ofNat 2 v.toNat := rfl

theorem getLsbD_flags (v : Word) {n : Nat} (h1 : 6 ≤ n) (h2 : n ≤ 11) : (bits v 11 6).testBit (n - 6) = v.getLsbD n := by
  rw [bits, Nat.testBit_mod_two_pow, testBit_div, Nat.sub_add_cancel h1]
  simp only [show n - 6 < 11 + 1 - 6 by omega, decide_true, Bool.true_and]

theorem testBit_bits (v : Word) {hi lo n : Nat} (h1 : lo ≤ n) (h2 : n ≤ hi) : (bits v hi lo).testBit (n - lo) = v.getLsbD n := by
  rw [bits, Nat.testBit_mod_two_pow, testBit_div, Nat.sub_add_cancel h1]
  simp only [show n - lo < hi + 1 - lo by omega, decide_true, Bool.true_and]

theorem writeThst_eq (th : Thread) (v : Word) : writeThst th v = thstWritten th.thst v := by
  have hf : bits v 5 3 = v.toNat / 8 % 8 := rfl
  have ht : tl th = th.thst.getLsbD 0 := rfl
  apply BitVec.eq_of_getLsbD_eq
  intro i hi
  have hw : (thstWritten th.thst v).getLsbD i = if 6 ≤ i ∧ i ≤ 11 then v.getLsbD i
      else if 3 ≤ i ∧ i ≤ 5 ∧ v.toNat / 8 % 8 ≤ 4 then v.getLsbD i
      else if 16 ≤ i ∧ i ≤ 31 ∧ th.thst.getLsbD 0 = true then v.getLsbD i else th.thst.getLsbD i := by
    rw [thstWritten, BitVec.getLsbD_ofFnLE, dif_pos hi]
  have h1 : (setBits th.thst 11 6 (bits v 11 6)).getLsbD i = if 6 ≤ i ∧ i ≤ 11 then v.getLsbD i else th.thst.getLsbD i := by
    rw [getLsbD_setBits (by decide) (by decide)]
    split
    · next h => rw [testBit_bits v h.1 h.2]
    · rfl
  have h2 : ∀ w : Word, (setBits w 5 3 (bits v 5 3)).getLsbD i = if 3 ≤ i ∧ i ≤ 5 then v.getLsbD i else w.getLsbD i := fun w => by
    rw [getLsbD_setBits (by decide) (by decide)]
    split
    · next h => rw [testBit_bits v h.1 h.2]
    · rfl
  have h3 : ∀ w : Word, (setBits w 31 16 (bits v 31 16)).getLsbD i = if 16 ≤ i ∧ i ≤ 31 then v.getLsbD i else w.getLsbD i := fun w => by
    rw [getLsbD_setBits (by decide) (by decide)]
    split
    · next h => rw [testBit_bits v h.1 h.2]
    · rfl
  simp only [hf] at h2
  rw [hw, writeThst, hf, ht]
  by_cases hfrm : v.toNat / 8 % 8 ≤ 4
  · cases hlev : th.thst.getLsbD 0
    · simp only [hfrm, if_true, if_false, Bool.false_eq_true, h1, h2]
      grind
    · simp only [hfrm, if_true, h1, h2, h3]
      grind
  · cases hlev : th.thst.getLsbD 0
    · simp only [hfrm, if_false, Bool.false_eq_true, and_false, h1]
    · simp only [hfrm, if_true, if_false, and_false, h1, h3]
      grind

/-! ### ctl.wr, ctl.set and ctl.clr -/

theorem ctlWritable_iff (s : State) (n : Nat) : ctlWritable s s.me n = true ↔ CtlWritable s n := by
  rw [ctlWritable, ctlValue_eq_ctlTable, CtlWritable, cur]
  simp only [Bool.and_eq_true, Bool.or_eq_true, Bool.not_eq_true', Bool.and_eq_false_iff, decide_eq_false_iff_not, Nat.not_le]

/-- What a control register write does to the machine, the mask and the window apart (R192 to R199). -/
theorem ctlTable_isSome {s : State} {n : Nat} {w : Word} (hn : ctlTable s n = some w) (h20 : n ≠ 0x020) (h21 : n ≠ 0x021) :
    (n = 0x008 ∨ (0x018 ≤ n ∧ n ≤ 0x01B) ∨ n = 0x023 ∨ n = 0x024 ∨ n = 0x030) ∨ n = 0 ∨ n = 1 ∨ n = 2 ∨ n = 3 ∨ n = 4 ∨ n = 9 ∨
      (0x10 ≤ n ∧ n < 0x18) ∨ n = 0x22 ∨ (0x40 ≤ n ∧ n < 0x48) := by
  by_contra hc
  have hnone : ctlTable s n = none := by
    have h8 : n ≠ 0x008 ∧ ¬ (0x018 ≤ n ∧ n ≤ 0x01B) ∧ n ≠ 0x023 ∧ n ≠ 0x024 ∧ n ≠ 0x030 ∧ n ≠ 0x000 ∧ n ≠ 0x001 ∧ n ≠ 0x002 ∧ n ≠ 0x003 ∧
      n ≠ 0x004 ∧ n ≠ 0x009 ∧ ¬ (0x010 ≤ n ∧ n ≤ 0x017) ∧ n ≠ 0x022 ∧ ¬ (0x040 ≤ n ∧ n ≤ 0x047) := by omega
    simp only [ctlTable, h8, h20, h21, if_false]
  rw [hnone] at hn
  cases hn

theorem ctlWrite_readOnly {n : Nat} (h : n = 0x008 ∨ (0x018 ≤ n ∧ n ≤ 0x01B) ∨ n = 0x023 ∨ n = 0x024 ∨ n = 0x030) (t : Nat) (v : Word) (s : State) :
    ctlWrite t n v s = s := by
  have hn : n ≠ 0 ∧ n ≠ 1 ∧ n ≠ 2 ∧ n ≠ 3 ∧ n ≠ 4 ∧ n ≠ 9 ∧ ¬ (0x10 ≤ n ∧ n < 0x18) ∧ n ≠ 0x20 ∧ n ≠ 0x21 ∧ n ≠ 0x22 ∧
    ¬ (0x40 ≤ n ∧ n < 0x48) := by omega
  simp only [ctlWrite, hn, if_false]

theorem ctlWrite_lstk {n : Nat} (h : 0x10 ≤ n ∧ n < 0x18) (v : Word) (s : State) : ctlWrite s.me n v s = ctlState n v s := by
  have hn : n ≠ 0 ∧ n ≠ 1 ∧ n ≠ 2 ∧ n ≠ 3 ∧ n ≠ 4 ∧ n ≠ 9 ∧ (0x010 ≤ n ∧ n ≤ 0x017) ∧
    ¬ (n = 0x008 ∨ (0x018 ≤ n ∧ n ≤ 0x01B) ∨ n = 0x023 ∨ n = 0x024 ∨ n = 0x030) := by omega
  simp only [ctlState, ctlEffect, ctlWrite, hn, h, if_false, if_true, and_self]
  rfl

theorem ctlWrite_pcnt {n : Nat} (h : 0x40 ≤ n ∧ n < 0x48) (v : Word) (s : State) : ctlWrite s.me n v s = ctlState n v s := by
  have hn : n ≠ 0 ∧ n ≠ 1 ∧ n ≠ 2 ∧ n ≠ 3 ∧ n ≠ 4 ∧ n ≠ 9 ∧ ¬ (0x010 ≤ n ∧ n ≤ 0x017) ∧ ¬ (0x010 ≤ n ∧ n < 0x018) ∧ n ≠ 0x20 ∧ n ≠ 0x21 ∧
    n ≠ 0x22 ∧ (0x040 ≤ n ∧ n ≤ 0x047) ∧ ¬ (n = 0x008 ∨ (0x018 ≤ n ∧ n ≤ 0x01B) ∨ n = 0x023 ∨ n = 0x024 ∨ n = 0x030) := by omega
  simp only [ctlState, ctlEffect, ctlWrite, hn, h, if_false, if_true, and_self, ← and_counter_mask]
  rfl

theorem ctlWrite_mcell (v : Word) (s : State) : ctlWrite s.me 0x22 v s = ctlState 0x22 v s := by
  have hm : (if tl (cur s) || bits v 1 0 == 3 then cur s else { cur s with mcell := v.setWidth 2 }) =
      { cur s with mcell := if (cur s).thst.getLsbD 0 ∨ v.toNat % 4 = 3 then (cur s).mcell else BitVec.ofNat 2 v.toNat } := by
    have hc : (tl (cur s) || bits v 1 0 == 3) = true ↔ (cur s).thst.getLsbD 0 ∨ v.toNat % 4 = 3 := by
      rw [bits_one_zero, Bool.or_eq_true, beq_iff_eq]
      rfl
    simp only [hc]
    split <;> rfl
  exact congrArg (setTh s s.me) hm

/-- What a control register write does to the machine, the mask and the window apart (R192 to R199). -/
theorem ctlWrite_eq {s : State} {n : Nat} (h20 : n ≠ 0x020) (h21 : n ≠ 0x021) {w : Word} (hn : ctlTable s n = some w) (v : Word) :
    ctlWrite s.me n v s = ctlState n v s := by
  have h4 : ∀ j : Fin 64, (~~~3 : Word).getLsbD j = !decide (j.val < 2) := by decide
  have h1024 : ∀ j : Fin 64, (~~~0x3FF : Word).getLsbD j = !decide (j.val < 10) := by decide
  have h23 : ∀ j : Fin 64, (0x7FFFFF : Word).getLsbD j = decide (j.val < 23) := by decide
  rcases ctlTable_isSome hn h20 h21 with h | rfl | rfl | rfl | rfl | rfl | rfl | h | rfl | h
  · rw [ctlWrite_readOnly h, ctlState, if_pos h]
  · exact congrArg (fun w => setTh s s.me { cur s with thst := w, thstAt := s.cycle + 1 }) (writeThst_eq (cur s) v)
  · exact congrArg (fun w => setTh s s.me { cur s with tvec := w }) (and_high_mask h4 v)
  · rfl
  · exact congrArg (fun w => setTh s s.me { cur s with tcause := w }) (and_low_mask h23 v)
  · rfl
  · exact congrArg (fun w => setTh s s.me { cur s with pjbase := w }) (and_high_mask h1024 v)
  · exact ctlWrite_lstk h v s
  · exact ctlWrite_mcell v s
  · exact ctlWrite_pcnt h v s

theorem exec_of_ctlForm {i : Instr} {f : CtlForm} (h : ctlForm i = some f) : ∃ base, ∀ s, exec i s = ctlOp base f.q f.a (ctlNum f.h f.n) f.f s := by
  unfold ctlForm at h
  split at h
  case h_4 => cases h
  all_goals obtain rfl := Option.some.inj h
  case h_1 => exact ⟨_, fun s => exec_ctlWr ..⟩
  case h_2 => exact ⟨_, fun s => exec_ctlSet ..⟩
  case h_3 => exact ⟨_, fun s => exec_ctlClr ..⟩

theorem ctlOp_unwritable {base : BitVec 32} {n : Nat} {s : State} (hw : ¬ CtlWritable s n) (q : Bool) (a : Reg) (f : Word → Word → Word) :
    ctlOp base q a n f s = illegal base s := by
  rw [ctlOp, Bool.eq_false_of_not_eq_true (mt (ctlWritable_iff s n).1 hw)]
  rfl

/-- A write of a register that may be written, VWIN apart, which changes it from the value that it has once the operand is read. -/
theorem ctlOp_ready {base : BitVec 32} {a : Reg} {n : Nat} {s : State} (hw : CtlWritable s n) (h21 : n ≠ 0x021) (hq : QueuesReady [a] [] s)
    (q : Bool) (f : Word → Word → Word) {reg : Word} (hreg : ctlTable s n = some reg) (hc : ¬ ReadsCacheCount s n) :
    ctlOp base q a n f s = .next (retire s 4 q (ctlWrite s.me n (f reg (operand [a] s a)) (operandState [a] s))) := by
  have hr := operandsRead_operandState [a] s
  unfold ctlOp
  rw [(ctlWritable_iff s n).2 hw]
  simp only [h21, Bool.not_true, Bool.false_eq_true, if_false, false_and]
  rw [withRegs_ready hq, operandState_me, ctlValue_read hr, ctlFree_read hr, ctlFree_eq_false hc, ctlValue_eq_ctlTable, hreg]
  rfl

theorem ctlTable_read {s : State} (srcs : List Reg) (n : Nat) : ctlTable (operandState srcs s) n = ctlTable s n := by
  rw [← ctlValue_eq_ctlTable, ← ctlValue_eq_ctlTable, operandState_me, ctlValue_read (operandsRead_operandState srcs s)]

/-- Settles O12: ctlOp_ready with the effect that ctlWrite_eq gives. -/
theorem controlWrites : Obligations.ControlWrites := by
  intro i f hf s k
  obtain ⟨base, hexec⟩ := exec_of_ctlForm hf
  refine ⟨fun hw => trapsHere_of_illegal ((hexec s).trans (ctlOp_unwritable hw f.q f.a f.f)), fun reg hreg hw h20 h21 hc hq => ?_⟩
  have he : ctlWrite s.me k (f.f reg (operand [f.a] s f.a)) (operandState [f.a] s) = ctlState k (f.f reg (operand [f.a] s f.a)) (operandState [f.a] s) := by
    have := ctlWrite_eq h20 h21 ((ctlTable_read [f.a] k).trans hreg) (f.f reg (operand [f.a] s f.a))
    rwa [operandState_me] at this
  rw [hexec, ← he]
  exact ctlOp_ready hw h21 hq f.q f.f hreg hc

/-! ### Time, flags and the journal -/

theorem endCapture_of_none {s : State} {t : Nat} (h : (getTh s t).capture = none) : endCapture t s = s := by
  rw [endCapture, h]

theorem capture_of_vectorIdle {th : Thread} (h : vectorIdle th = true) : th.capture = none := by
  simp only [vectorIdle, Bool.and_eq_true, Option.isNone_iff_eq_none] at h
  exact h.1.2

theorem unlessFault_of_none {s : State} {n : Nat} (h : seqFault s n = none) (o : Out) : unlessFault s n o = o := by
  rw [unlessFault, h]

theorem setBits_zero_flags (w : Word) : setBits w 11 6 0 = w &&& ~~~0xFC0 := by
  have h : (w &&& ~~~0xFC0) ||| 0 = w &&& ~~~0xFC0 := BitVec.or_zero
  exact h

theorem timeAndFlags : TimeAndFlags := by
  intro q d s
  refine ⟨fun hq => ?_, fun hi hq => ?_, fun hc hi hf => ?_⟩
  · rw [exec_gtime, execGtime, withRegs_ready hq]
    rfl
  · have hs : endCapture s.me s = s := endCapture_of_none (capture_of_vectorIdle hi)
    rw [exec_ffl, execFfl, hs, hi, ← setBits_zero_flags]
    exact (if_neg Bool.false_ne_true).trans (withRegs_ready hq _)
  · rw [exec_ffl, execFfl, endCapture_of_none hc, hi]
    exact unlessFault_of_none hf _

theorem ofN_add_comm_fields (j : JEnt) : w64 (j.gen % 65536 * 2 ^ 48 + j.code % 256 * 2 ^ 40 + j.opk % 8 * 2 ^ 37 + (if j.ref then 2 ^ 36 else 0) + 2 ^ 35
      + j.slot % 32 * 2 ^ 30 + j.size % 8192) =
    ofN (j.size % 2 ^ 13 + j.slot % 2 ^ 5 * 2 ^ 30 + 2 ^ 35 + j.ref.toNat * 2 ^ 36 + j.opk % 8 * 2 ^ 37 + j.code % 2 ^ 8 * 2 ^ 40 + j.gen % 2 ^ 16 * 2 ^ 48) := by
  have hr : (if j.ref then 2 ^ 36 else 0) = j.ref.toNat * 2 ^ 36 := by cases j.ref <;> rfl
  rw [hr]
  exact congrArg w64 (by omega)

theorem journalWord_eq (j : JEnt) {w : Nat} (hw : w < 4) : journalWord j w = entryWord j w := by
  have hl : (!j.live) = true ↔ 4 < j.opk := by simp [JEnt.live]
  unfold journalWord entryWord
  simp only [hl]
  split
  · rfl
  · interval_cases w
    · exact ofN_add_comm_fields j
    · rfl
    · rfl
    · rfl

theorem getJ_operandState (srcs : List Reg) (s : State) (c e : Nat) : getJ (operandState srcs s) c e = getJ s c e := by
  rw [getJ, machineKept_operandState srcs s]
  rfl

theorem bits_six_five (v : Word) : bits v 6 5 = v.toNat / 32 % 4 := rfl

theorem bits_four_zero (v : Word) : bits v 4 0 = v.toNat % 32 := by simp [bits]

theorem ctx_operandState (srcs : List Reg) (s : State) : (cur (operandState srcs s)).ctx = (cur s).ctx := by
  obtain ⟨-, hth, -⟩ := operandsRead_operandState srcs s
  rw [cur, hth, operandState_me]
  rfl

theorem uid_operandState (srcs : List Reg) (s : State) : (cur (operandState srcs s)).uid = (cur s).uid := by
  obtain ⟨-, hth, -⟩ := operandsRead_operandState srcs s
  rw [cur, hth, operandState_me]
  rfl

theorem result_ready {s : State} (srcs : List Reg) (q : Bool) (d : Reg) (v : Word) :
    result s 4 q d v (operandState srcs s) = .next (retire s 4 q (wr s.me d v (operandState srcs s))) := by
  rw [result, operandState_me]
  rfl

theorem journalAccess : JournalAccess := by
  intro q d a s hq x s1 j
  have hlive : (j.live && j.ref && j.uid == (cur s).uid) = true ↔ j.opk ≤ 4 ∧ j.ref = true ∧ j.uid = (cur s).uid := by
    simp [JEnt.live, and_assoc]
  have hclr : exec (.pjClr q d a) s = if j.live && j.ref && j.uid == (cur s).uid then result s 4 q d 1 (setJ s1 (coreOf s.me) (x % 32) JEnt.free)
      else result s 4 q d 0 s1 := by
    rw [exec_pjClr, execPjClr, withRegs_ready hq]
    simp only [bits_four_zero, getJ_operandState, uid_operandState]
    rfl
  refine ⟨?_, fun h => ?_, fun h => ?_⟩
  · rw [exec_pjRd, execPjRd, withRegs_ready hq]
    simp only [bits_four_zero, bits_six_five, getJ_operandState, ctx_operandState]
    rw [result_ready, journalWord_eq _ (Nat.mod_lt _ (by decide))]
    rfl
  · rw [hclr, if_pos (hlive.2 h), result, show (setJ s1 (coreOf s.me) (x % 32) JEnt.free).me = s.me from operandState_me [a] s]
    rfl
  · rw [hclr, if_neg (mt hlive.1 h)]
    exact result_ready [a] q d 0

/-- Settles O14: controlReads, timeAndFlags and journalAccess. -/
theorem systemReads : Obligations.SystemReads := ⟨controlReads, timeAndFlags, journalAccess⟩

end Sys2Proof.Machine
end

section
/-! halt and wfi (O13), windows and key caches (O15), late results, watchdogs and timed waits (O16). -/

namespace Sys2Proof.Machine

open Sys2Proof.Claims

/-! ### halt and wfi -/

theorem cur_operandState (srcs : List Reg) (s : State) : cur (operandState srcs s) = { cur s with x := (cur (operandState srcs s)).x } := by
  have h := (operandsRead_operandState srcs s).2.1 s.me
  rwa [getTh_operandState_me] at h

theorem endsLoop_operandState (srcs : List Reg) (s : State) (own next : Word) : EndsLoop (cur (operandState srcs s)) own next ↔ EndsLoop (cur s) own next := by
  rw [cur_operandState]
  rfl

theorem asyncAimed_operandState (srcs : List Reg) (s : State) : asyncAimed (operandState srcs s) (operandState srcs s).me = asyncAimed s s.me := by
  have hj : (operandState srcs s).journal = s.journal := by rw [machineKept_operandState srcs s]
  have hu : (getTh (operandState srcs s) (operandState srcs s).me).uid = (getTh s s.me).uid := uid_operandState srcs s
  rw [asyncAimed, asyncAimed, asyncEntry, asyncEntry, hj, hu]

section

variable {s : State} {a d : Reg}

/-- halt in a slot whose context has enabled it, with the late results in (R395). -/
theorem execHalt_enabled (hs : isHart s.me = false) (he : bit (getCtx s (cur s).ctx).dbgctl 0 = true) (hl : (cur s).late = [])
    (hq : QueuesReady [a] [] s) (hf : seqFault s 4 = none) (q : Bool) :
    execHalt q a s = .next (haltThread (operand [a] s a) s (operandState [a] s)) := by
  have hw : execHalt q a s = withRegs [a] [] s fun s1 => unlessFault s 4 (.next (haltThread (xr (cur s1) a) s s1)) := by
    rw [execHalt, hs, he, hl]
    rfl
  rw [hw, withRegs_ready hq, unlessFault_of_none hf]
  rfl

theorem execHalt_late (hs : isHart s.me = false) (he : bit (getCtx s (cur s).ctx).dbgctl 0 = true) (hl : (cur s).late ≠ []) (q : Bool) :
    execHalt q a s = .next (park .marker s) := by
  have hl' : (cur s).late.isEmpty = false := by simpa using hl
  rw [execHalt, hs, he, hl']
  rfl

theorem getCtx_modCtx_self (s : State) (c : Nat) (f : Ctx → Ctx) : getCtx (modCtx s c f) c = f (getCtx s c) := spGet_spSet_self ..

@[simp] theorem getTh_modCtx (s : State) (c : Nat) (f : Ctx → Ctx) (t : Nat) : getTh (modCtx s c f) t = getTh s t := rfl

theorem cur_haltThread (v : Word) (s0 s : State) : cur (haltThread v s0 s) =
    { (seqNext (cur s0).pc 4 (cur s)).1 with pc := (seqNext (cur s0).pc 4 (cur s)).2, seq := (cur s).seq + 1, wait := .halted s.cycle, wcount := 0 } :=
  getTh_setTh_self ..

theorem haltThread_haltv (v : Word) (s0 s : State) : (getCtx (haltThread v s0 s) (cur s).ctx).haltv = v :=
  congrArg (·.haltv) (getCtx_modCtx_self ..)

theorem execWfi_first (hw : ∀ l e r, (cur s).wait ≠ .wfi l e r) (hq : QueuesReady [a] [d] s) (q : Bool) :
    execWfi q d a s = wfiTest q d (operand [a] s a).toNat s (operandState [a] s) := by
  unfold execWfi
  split
  · next l e r h => exact absurd h (hw l e r)
  · exact withRegs_ready hq _

end

/-- Settles O13: execHalt_enabled and execHalt_late for halt, wfiTest for wfi. -/
theorem haltAndWait : Obligations.HaltAndWait := by
  intro q d a s hs x s1
  refine ⟨fun he hl hq hf => ⟨_, (exec_halt ..).trans (execHalt_enabled hs he hl hq hf q), ?_, ?_, fun hn => ?_⟩,
    fun he hl => (exec_halt ..).trans (execHalt_late hs he hl q), fun hw hq => ⟨fun ha => ?_, fun ha hx => ?_, fun ha hx hf => ?_⟩⟩
  · have hc : (operandState [a] s).cycle = s.cycle := by rw [machineKept_operandState [a] s]
    rw [cur_haltThread, ← hc]
  · rw [← ctx_operandState [a] s]
    exact haltThread_haltv ..
  · have hk := seqNext_of_not_endsLoop (mt (endsLoop_operandState [a] s (cur s).pc (nextAddr (cur s).pc 4)).1 hn)
    exact (congrArg (·.pc) (cur_haltThread x s s1)).trans (congrArg Prod.snd hk)
  all_goals rw [exec_wfi, execWfi_first hw hq, wfiTest, asyncAimed_operandState, ha]
  · exact result_ready [a] q d 1
  · have h0 : (operand [a] s a).toNat = 0 := (word_eq_zero_iff _).1 hx
    rw [if_neg Bool.false_ne_true, if_pos h0]
    exact result_ready [a] q d 0
  · have h0 : (operand [a] s a).toNat ≠ 0 := mt (word_eq_zero_iff _).2 hx
    rw [if_neg Bool.false_ne_true, if_neg h0]
    exact unlessFault_of_none hf _

/-! ### VWIN and KMASK -/

theorem mode_operandState (srcs : List Reg) (s : State) : modeOf (cur (operandState srcs s)) = modeOf (cur s) := by
  rw [cur_operandState]
  rfl

theorem ctlWritable_mask (s : State) : ctlWritable s s.me 0x20 = true ∧ ctlWritable s s.me 0x21 = true := by
  simp [ctlWritable, ctlValue]

theorem writeKmask_plain {v : Word} (h : v.getLsbD 16 = false) (t : Nat) (s : State) :
    writeKmask t v s = setTh s t { getTh s t with kmask := v &&& 0x2FFFF } := by
  have hb : bit v 16 = false := h
  rw [writeKmask, hb]
  rfl

theorem windowWrites : WindowWrites := by
  intro q a s
  obtain ⟨hw20, hw21⟩ := ctlWritable_mask s
  have h21 : exec (.ctlWr q a 0 0x21) s = ctlOp (encA 0#2 q 0x3C#6 0#4 a 0 (2#3 ++ 0x21#8)) q a 0x21 (fun _ x => x) s := exec_ctlWr ..
  have h20 : exec (.ctlWr q a 0 0x20) s = ctlOp (encA 0#2 q 0x3C#6 0#4 a 0 (2#3 ++ 0x20#8)) q a 0x20 (fun _ x => x) s := exec_ctlWr ..
  refine ⟨fun hi hq => ?_, fun hc hi hf => ?_, fun hq hb => ?_⟩
  · have he : endCapture s.me s = s := endCapture_of_none (capture_of_vectorIdle hi)
    have hv : ctlWrite s.me 0x21 (operand [a] s a) (operandState [a] s) = setTh (operandState [a] s) s.me { cur (operandState [a] s) with
        vwin := (operand [a] s a).getLsbD 0 && modeOf (cur s) != 1 && !isHart s.me, v := [], sc := [], k := [] } := by
      rw [← mode_operandState [a] s, ← getTh_operandState_me]
      rfl
    rw [h21, ctlOp, hw21, ← hv]
    simp only [Bool.not_true, Bool.false_eq_true, if_false, if_true, he, hi, Bool.true_eq_false, and_false]
    rw [withRegs_ready hq, operandState_me]
    rfl
  · have he : endCapture s.me s = s := endCapture_of_none hc
    rw [h21, ctlOp, hw21]
    simp only [Bool.not_true, Bool.false_eq_true, if_false, if_true, he, hi, and_self]
    exact unlessFault_of_none hf _
  · have hv : ctlWrite s.me 0x20 (operand [a] s a) (operandState [a] s) = setTh (operandState [a] s) s.me
        { cur (operandState [a] s) with kmask := operand [a] s a &&& 0x2FFFF } := by
      rw [← getTh_operandState_me]
      exact writeKmask_plain hb s.me (operandState [a] s)
    rw [h20, ctlOp, hw20, ← hv]
    simp only [Bool.not_true, Bool.false_eq_true, if_false, show (0x20 : Nat) ≠ 0x21 by decide, false_and]
    rw [withRegs_ready hq, operandState_me]
    rfl

/-! ### kc.inv -/

theorem whoOf_unit {s : State} {t : Nat} (h : isHart t = false) : (whoOf s t).unit = coreOf t := by
  have ht : t < hart0 := by simpa [isHart] using h
  simp [whoOf, coreOf, ht]

theorem foldl_push {α : Type} (f : α → Instr) (l : List α) : ∀ s, l.foldl (fun s q => push (f q) s) s = { s with pending := s.pending ++ l.map f } := by
  induction l with
  | nil => intro s; simp
  | cons a l ih =>
    intro s
    rw [List.foldl_cons, ih]
    simp [push]

theorem startRevoke_node (kind : RevKind) (node gen : Nat) (issuer : Issuer) (s : State) :
    (getRevoke (startRevoke kind node gen issuer s).2 (startRevoke kind node gen issuer s).1).node = node := by
  unfold startRevoke getRevoke setRevoke
  dsimp only
  rw [foldl_push, spGet_spSet_self]

section

variable {s s1 : State} {x : Word} {e : KeyEntry} {gen : Nat}

variable (hm : hostMiss s1 (whoOf s1 s1.me).unit (whoOf s1 s1.me).ctx (hdl x) = none)
  (hl : lookupKey s1 (whoOf s1 s1.me).unit (whoOf s1 s1.me).ctx (hdl x) = (e, gen)) (h0 : hdl x ≠ 0) (hf : hdl x ≠ 0xFFFF) (hv : e.v = true)
  (hp : e.peer = false) (hg : e.gen = gen)

include hm hl h0 hf hv hp hg

/-- kc.inv of a node's pages whose handle stands: outside the system context it is refused, and in it waits for the units' acknowledgements (R399). -/
theorem invalidateNode_checked (q : Bool) (page : Option Nat) :
    invalidateNode q x page s s1 = if (whoOf s1 s1.me).ctx ≠ 0 then exactAt 4 ⟨2, 3, x⟩ s
      else unlessFault s 4 (.next (park (.name (startRevoke (.pages page) e.node gen (.thread s1.me) s1).1 0 q)
        (startRevoke (.pages page) e.node gen (.thread s1.me) s1).2)) := by
  unfold invalidateNode
  dsimp only
  rw [hm, hl]
  simp only [h0, hf, hv, hp, hg, ne_eq, not_true_eq_false, not_false_eq_true, Bool.true_eq_false, Bool.false_eq_true, and_false, or_false,
    false_or, if_false]

theorem invalidateNode_system (hc : (whoOf s1 s1.me).ctx = 0) (hs : seqFault s 4 = none) (q : Bool) (page : Option Nat) :
    invalidateNode q x page s s1 = .next (park (.name (startRevoke (.pages page) e.node gen (.thread s1.me) s1).1 0 q)
        (startRevoke (.pages page) e.node gen (.thread s1.me) s1).2) := by
  rw [invalidateNode_checked hm hl h0 hf hv hp hg, if_neg (not_not.2 hc), unlessFault_of_none hs]

end

theorem execKcInv_ready {a : Reg} {s : State} (hs : isHart s.me = false) (hq : QueuesReady [a] [] s) (q : Bool) :
    let s1 := operandState [a] s
    let x := operand [a] s a
    let c := getCore s1 (coreOf s.me)
    execKcInv q a 0 s = .next (retire s 4 q (setCore s1 (coreOf s.me)
      { c with keys := c.keys.filter fun k => !(k.ctx == (cur s).ctx && k.handle == x.toNat % 2 ^ 16) })) ∧
    execKcInv q a 1 s = .next (retire s 4 q (setCore s1 (coreOf s.me)
      { c with tlb := c.tlb.filter fun p => !(p.ctx == (cur s).ctx && p.handle == hdl x && p.page == x.toNat / 2 ^ 12 % 2 ^ 36) })) ∧
    execKcInv q a 2 s = invalidateNode q x (some (bits x 47 12)) s s1 ∧ execKcInv q a 3 s = invalidateNode q x none s s1 := by
  intro s1 x c
  have hb : bits x 15 0 = x.toNat % 2 ^ 16 := by simp [bits]
  have hb2 : bits x 47 12 = x.toNat / 2 ^ 12 % 2 ^ 36 := rfl
  have hu : (whoOf s1 s.me).unit = coreOf s.me := whoOf_unit hs
  have hc : (cur s1).ctx = (cur s).ctx := ctx_operandState [a] s
  have h : ∀ sc, execKcInv q a sc s = match sc.toNat with
      | 0 => done s 4 q (modCore s1 (coreOf s.me) fun c => { c with keys := c.keys.filter fun k => !(k.ctx == (cur s).ctx && k.handle == bits x 15 0) })
      | 1 => done s 4 q (modCore s1 (coreOf s.me) fun c =>
          { c with tlb := c.tlb.filter fun p => !(p.ctx == (cur s).ctx && p.handle == hdl x && p.page == bits x 47 12) })
      | 2 => invalidateNode q x (some (bits x 47 12)) s s1
      | _ => invalidateNode q x none s s1 := fun sc => by
    rw [execKcInv, withRegs_ready hq, ← hu, ← hc]
    rfl
  refine ⟨(h 0).trans ?_, h 1, h 2, h 3⟩
  rw [← hb]
  rfl

theorem cur_park (w : Wait) (s : State) : cur (park w s) = { cur s with wait := w, wcount := if (cur s).wait = w then (cur s).wcount else 0 } :=
  getTh_setTh_self ..

theorem keyCacheInvalidate : KeyCacheInvalidate := by
  intro q a s hs hq x s1 c
  obtain ⟨h0, h1, h2, h3⟩ := execKcInv_ready hs hq q
  refine ⟨(exec_kcInv ..).trans h0, (exec_kcInv ..).trans h1, fun e gen hm hl hz hf hv hp hg => ?_⟩
  have hme : s1.me = s.me := operandState_me [a] s
  have hunit : (whoOf s1 s1.me).unit = coreOf s.me := by rw [hme, whoOf_unit hs]
  have hctx : (whoOf s1 s1.me).ctx = (cur s).ctx := ctx_operandState [a] s
  rw [← hunit, ← hctx] at hm hl
  refine ⟨fun hc => ⟨trapsAt_of_exactAt ?_, trapsAt_of_exactAt ?_⟩, fun hc hseq => ?_⟩
  · rw [exec_kcInv, h2, invalidateNode_checked hm hl hz hf hv hp hg, if_pos (hctx ▸ hc)]
  · rw [exec_kcInv, h3, invalidateNode_checked hm hl hz hf hv hp hg, if_pos (hctx ▸ hc)]
  · refine ⟨_, _, (exec_kcInv ..).trans (h3.trans (invalidateNode_system hm hl hz hf hv hp hg (hctx.trans hc) hseq q none)), ?_,
      startRevoke_node (.pages none) e.node gen (.thread s1.me) s1⟩
    rw [cur_park]

/-- Settles O15: windowWrites and keyCacheInvalidate. -/
theorem windowsAndKeyCaches : Obligations.WindowsAndKeyCaches := ⟨windowWrites, keyCacheInvalidate⟩

/-! ### Late results -/

theorem otherHartsKept_trans {t : Nat} {a b c : State} (h : OtherHartsKept t a b) (k : OtherHartsKept t b c) : OtherHartsKept t a c :=
  fun u hu => (k u hu).trans (h u hu)

theorem lateResults : LateResults := by
  intro t s l rest hlate hdone hq
  have hr : lateReady s t = true := by rw [lateReady, hlate]; simp [hdone, hq]
  have hs : exec (.lateResultReturn t none) s = .next (setTh s t (xw { getTh s t with late := rest } l.d l.v)) := by
    rw [exec_lateResultReturn, execLateResultReturn, hr, if_pos rfl, popLate, hlate]
    simp only [wr_register hq, modTh_eq, getTh_setTh_self, setTh_setTh]
  refine ⟨_, hs, ?_⟩
  rw [getTh_setTh_self]
  refine ⟨by rw [xw_kept], fun h0 => by rw [xr_xw, if_pos ⟨rfl, h0⟩], fun r hr => ?_, by rw [xw_kept], ?_, otherHartsKept_setTh s t _, machineKept_setTh (machineKept_refl s) ..⟩
  · rw [xr_xw, if_neg fun hc => hr hc.1]
    rfl
  · rw [xw_kept]
    exact ⟨rfl, rfl, rfl, rfl, rfl, rfl, rfl, rfl, rfl, rfl, rfl, rfl, rfl, rfl, rfl⟩

/-! ### Watchdogs -/

/-- Only the reservations and the events under way differ. -/
def ResvMoved (s t : State) : Prop := t = { s with resv := t.resv, pending := t.pending }

theorem resvMoved_trans {a b c : State} (h : ResvMoved a b) (k : ResvMoved b c) : ResvMoved a c := by
  unfold ResvMoved at *
  rw [k, h]

theorem resvMoved_withdrawResv (t : Nat) (s : State) : ResvMoved s (withdrawResv t s) := by
  refine foldl_rel (R := ResvMoved) (fun _ => rfl) (fun _ _ _ => resvMoved_trans) (fun s e => ?_) _ s
  split
  · dsimp only
    split <;> rfl
  · rfl

theorem wdogReport_of_stallOf {s : State} {t r : Nat} {v : Word} (h : stallOf (getTh s t).wait = some (r, v))
    (hg : ∀ w a, (getTh s t).wait = .resv w a → (spGet Resv.free s.resv w).granted ≠ some t) : wdogReport s t = some (r, v) := by
  unfold wdogReport
  revert h
  cases hw : (getTh s t).wait
  case resv w a =>
    intro h
    dsimp only
    rw [if_neg (hg w a hw)]
    exact h
  case marker => exact fun h => nomatch h
  all_goals exact id

theorem wdogCount_of_stallOf {s : State} {t r : Nat} {v : Word} (h : stallOf (getTh s t).wait = some (r, v)) :
    wdogCount s t = stallCount (getTh s t) := by
  unfold wdogCount stallCount
  dsimp only
  revert h
  cases (getTh s t).wait
  case marker => exact fun h => nomatch h
  all_goals exact fun _ => rfl

theorem dropHeld_of_stallOf {s : State} {t r : Nat} {v : Word} (h : stallOf (getTh s t).wait = some (r, v)) : dropHeld t s = heldDropped t s := by
  unfold dropHeld heldDropped
  revert h
  cases (getTh s t).wait
  case marker => exact fun h => nomatch h
  all_goals exact fun _ => rfl

theorem watchdogTrap_slot {t : Nat} (h : isHart t = false) (r : Nat) (v : Word) (s : State) :
    watchdogTrap t r v s = enterTrap t ⟨6, r, v⟩ false 0 false (getTh (modTh s t (countEv 0x0C 1)) t).pc (modTh s t (countEv 0x0C 1)) := by
  rw [watchdogTrap, h]
  rfl

/-- WATCHDOG_EXPIRY of a thread with no access behind a hold: what its own wait reports (R253). -/
theorem execWatchdogExpiry_wait {s : State} {t : Nat} (hb : (getTh s t).behind = []) :
    execWatchdogExpiry t s = match wdogReport s t with
      | none => .next s
      | some (reason, tval) =>
        if wdogCount s t < wdogPeriod s t then .next s else .next (watchdogTrap t reason tval (cancelWait t (dropHeld t s))) := by
  rw [execWatchdogExpiry, hb]
  rfl

/-- The thread's own wait has lasted its period: it is withdrawn and the thread traps; before then nothing happens (R253). -/
theorem execWatchdogExpiry_counts {s : State} {t r : Nat} {v : Word} (hb : (getTh s t).behind = []) (hr : wdogReport s t = some (r, v)) :
    (wdogPeriod s t ≤ wdogCount s t → execWatchdogExpiry t s = .next (watchdogTrap t r v (cancelWait t (dropHeld t s)))) ∧
    (wdogCount s t < wdogPeriod s t → execWatchdogExpiry t s = .next s) := by
  rw [execWatchdogExpiry_wait hb, hr]
  exact ⟨fun h => if_neg (Nat.not_lt.2 h), fun h => if_pos h⟩

theorem entry_of_tag {core e : Nat} (he : e < 32) : (2000000 + 32 * core + e - 2000000) / 32 = core ∧ (2000000 + 32 * core + e - 2000000) % 32 = e := by
  omega

theorem withdrawBehind_entry {t core e word : Nat} (hc : core < 2048) (he : e < 32) (s : State) :
    withdrawBehind t (2000000 + 32 * core + e) word s =
      refuse t (getJ s core e).pc (getJ s core e).seq ⟨6, 3, entryAddress s core e word⟩ (modTh (withdrawEntry core e s) t (countEv 0x0C 1)) := by
  obtain ⟨h1, h2⟩ := entry_of_tag (core := core) he
  unfold withdrawBehind
  rw [if_neg (by omega), if_neg (by omega), h1, h2]

theorem withdrawEntry_kept (core e : Nat) (s : State) :
    (withdrawEntry core e s).threads = s.threads ∧ (withdrawEntry core e s).mem = s.mem ∧ (withdrawEntry core e s).journal = (setJ s core e JEnt.free).journal := by
  unfold withdrawEntry
  rw [resvMoved_withdrawResv]
  exact ⟨rfl, rfl, rfl⟩

theorem getTh_congr {s t : State} (h : t.threads = s.threads) (u : Nat) : getTh t u = getTh s u := by
  rw [getTh, h]
  rfl

theorem rdByte_congr {s t : State} (h : t.mem = s.mem) (k : Nat) : rdByte t k = rdByte s k := by
  rw [rdByte, h]
  rfl

theorem execWatchdogExpiry_behind {s : State} {t core e word n : Nat} (hb : (getTh s t).behind = [(2000000 + 32 * core + e, word, n)])
    (hw : (2000000 + 32 * core + e, word) ∈ waitsBehind s (getTh s t).uid) (hn : wdogPeriod s t ≤ n) :
    execWatchdogExpiry t s = .next (withdrawBehind t (2000000 + 32 * core + e) word s) := by
  have hf : ([(2000000 + 32 * core + e, word, n)].find? fun b => decide (wdogPeriod s t ≤ b.2.2) && (waitsBehind s (getTh s t).uid).contains (b.1, b.2.1)) =
      some (2000000 + 32 * core + e, word, n) :=
    List.find?_cons_of_pos (by simp [hn, hw])
  rw [execWatchdogExpiry, hb, hf]

theorem wdogReport_marker {s : State} {t : Nat} {l : Late} {rest : List Late} (hw : (getTh s t).wait = .marker) (hl : (getTh s t).late = l :: rest)
    (hd : l.done = true) (hq : isQ t l.d = true) (h8 : 8 ≤ (outq s t l.d).length) : wdogReport s t = some (5, w64 (l.d.toNat - 8)) := by
  rw [wdogReport, hw]
  dsimp only
  rw [hl]
  simp [hd, hq, h8]

theorem wdogCount_marker {s : State} {t : Nat} {l : Late} {rest : List Late} (hw : (getTh s t).wait = .marker) (hl : (getTh s t).late = l :: rest) :
    wdogCount s t = l.held := by
  unfold wdogCount
  dsimp only
  rw [hw]
  dsimp only
  rw [hl]

theorem dropHeld_marker {s : State} {t : Nat} {l : Late} {rest : List Late} (hw : (getTh s t).wait = .marker) (hl : (getTh s t).late = l :: rest) :
    dropHeld t s = setTh s t { getTh s t with late := rest } := by
  rw [dropHeld, hw]
  dsimp only
  rw [modTh_eq, hl]
  rfl

/-- RESERVATION_HOLD_EXPIRY of a hold that has lasted its period (R253). -/
theorem execReservationHoldExpiry_due {s : State} {t w n : Nat} (hh : (getTh s t).hold = some (w, n)) (hn : wdogPeriod s t ≤ n) :
    execReservationHoldExpiry t s = .next (if interruptible (getTh s t).wait then watchdogTrap t 4 (getTh s t).holdAt (cancelWait t (releaseHold t w s))
      else modTh (releaseHold t w s) t fun th => { th with expired := some (getTh s t).holdAt }) := by
  unfold execReservationHoldExpiry
  dsimp only
  rw [hh]
  dsimp only
  rw [if_neg (Nat.not_lt.2 hn), modTh_eq, modTh_eq, holdAt_releaseHold]

theorem refused_refuse (t : Nat) (pc : Word) (seq : Nat) (i : TrapInfo) (s : State) :
    getTh (refuse t pc seq i s) t = { getTh s t with refused := (getTh s t).refused ++ [⟨pc, seq, i⟩] } := getTh_setTh_self ..

theorem watchdogsAndTimeouts : WatchdogsAndTimeouts := by
  intro t s
  refine ⟨fun r v hst ht hb hg => ?_, fun w a hw hgr hb => ?_, fun core e word n hb hc he ht hw hn => ?_, fun l rest hb hw hl hd hq h8 => ?_,
    fun w n hh hw ht hn => ?_, fun w n hh hi hn => ?_, fun d q hw ha => ?_⟩
  · obtain ⟨hdue, hearly⟩ := execWatchdogExpiry_counts hb (wdogReport_of_stallOf hst hg)
    rw [wdogCount_of_stallOf hst] at hdue hearly
    refine ⟨fun h => ?_, fun h => hearly h⟩
    rw [exec_watchdogExpiry, hdue h, watchdogTrap_slot ht, dropHeld_of_stallOf hst]
  · have hr : wdogReport s t = none := by
      rw [wdogReport, hw]
      exact if_pos hgr
    rw [exec_watchdogExpiry, execWatchdogExpiry_wait hb, hr]
  · obtain ⟨hth, hmem, hj⟩ := withdrawEntry_kept core e s
    refine ⟨entryAddress s core e word, _, (exec_watchdogExpiry ..).trans (execWatchdogExpiry_behind hb hw hn), ?_⟩
    rw [withdrawBehind_entry hc he, refused_refuse, modTh_eq, getTh_setTh_self, getTh_congr hth]
    refine ⟨rfl, ?_, rfl, fun k => rdByte_congr hmem k⟩
    have hj' : getJ (withdrawEntry core e s) core e = JEnt.free := by
      rw [getJ, hj, setJ]
      exact spGet_spSet_self JEnt.free s.journal (core * 32 + e) JEnt.free
    exact hj'
  · obtain ⟨hdue, hearly⟩ := execWatchdogExpiry_counts hb (wdogReport_marker hw hl hd hq h8)
    rw [wdogCount_marker hw hl] at hdue hearly
    have ht : isHart t = false := by
      simp only [isQ, Bool.and_eq_true, decide_eq_true_eq] at hq
      simpa [isHart] using hq.1.1.1
    refine ⟨fun h => ?_, fun h => hearly h⟩
    rw [exec_watchdogExpiry, hdue h, watchdogTrap_slot ht, dropHeld_marker hw hl]
    rfl
  · have hi : interruptible (getTh s t).wait = true := by rw [hw]; rfl
    rw [exec_reservationHoldExpiry, execReservationHoldExpiry_due hh hn, if_pos hi, watchdogTrap_slot ht]
  · rw [exec_reservationHoldExpiry, execReservationHoldExpiry_due hh hn, if_neg (by rw [hi]; exact Bool.false_ne_true)]
    rfl
  · have ha' : ∀ u : State, asyncAimed { s with me := u.me } t = asyncAimed s t := fun _ => rfl
    rw [exec_wfiTimeout, execWfiTimeout, hw]
    dsimp only [asHart]
    rw [ha' { s with me := t }, ha]
    rfl

/-- Settles O16: lateResults and watchdogsAndTimeouts. -/
theorem timeAndLateResults : Obligations.TimeAndLateResults := ⟨lateResults, watchdogsAndTimeouts⟩

end Sys2Proof.Machine
end

section
/-! Accesses of the issuing thread to memory (O19 to O24): addresses, little-endian values, the access checks, and what an access that reaches its
bytes acts on. -/

namespace Sys2Proof.Machine

open Sys2Proof.Claims

/-! ### Addresses and values -/

theorem offAdd_eq_effOf (x : Word) (d : Int) : offAdd x d = effOf x d := by
  by_cases h : 0 ≤ (off x : Int) + d ∧ (off x : Int) + d < 2 ^ 48
  · exact (offAdd_within h.1 h.2).trans (if_pos h).symm
  · exact (offAdd_outside h).trans (if_neg h).symm

theorem effAddr_of_some {x ea : Word} {d : Int} (h : effOf x d = some ea) : effAddr x d = .ok ea := by
  rw [effAddr, offAdd_eq_effOf, h]

theorem effAddr_of_none {x : Word} {d : Int} (h : effOf x d = none) : effAddr x d = .error ⟨2, 5, Config.carryAddress x d⟩ := by
  rw [effAddr, offAdd_eq_effOf, h]

theorem offWrap_of_effOf {x ea : Word} {d : Int} (h : effOf x d = some ea) : offWrap x d = ea := by
  rw [← offAdd_eq_effOf] at h
  unfold offAdd at h
  dsimp only at h
  split at h
  · cases h
  · next hr =>
    obtain rfl := Option.some.inj h
    have : (Int.ofNat (off x) + d) % 2 ^ 48 = Int.ofNat (off x) + d := Int.emod_eq_of_lt (by omega) (by omega)
    rw [offWrap, this]

theorem leNum_eq_leValue (bs : List Byte) : leNum bs = leValue bs := by
  induction bs with
  | nil => rfl
  | cons b bs ih =>
    rw [leNum, leValue, ih]
    rfl

theorem leList_eq_leBytesOf (n v : Nat) : leList n v = leBytesOf n v := by
  apply List.ext_getElem
  · rw [length_leList, leBytesOf, List.length_map, List.length_range]
  · intro i h1 h2
    have hg := getD_leList n v i
    have hi : i < n := length_leList n v ▸ h1
    rw [List.getD_eq_getElem _ _ h1, if_pos hi] at hg
    rw [hg]
    simp only [leBytesOf, List.getElem_map, List.getElem_range]
    rw [show (256 : Nat) = 2 ^ 8 from rfl, ← Nat.pow_mul]

theorem toInt_signed {n : Nat} (hn : 0 < n) (v : Nat) : (BitVec.ofNat n v).toInt =
    if 2 ^ (n - 1) ≤ v % 2 ^ n then ((v % 2 ^ n : Nat) : Int) - 2 ^ n else (v % 2 ^ n : Nat) := by
  have hp : 2 ^ n = 2 * 2 ^ (n - 1) := by rw [← Nat.pow_succ', Nat.succ_eq_add_one, Nat.sub_add_cancel hn]
  rw [BitVec.toInt_eq_toNat_cond, BitVec.toNat_ofNat]
  by_cases h : 2 ^ (n - 1) ≤ v % 2 ^ n
  · rw [if_neg (by omega), if_pos h]
    push_cast
    rfl
  · rw [if_pos (by omega), if_neg h]

/-- A value of n bits that is sign-extended (R262). -/
theorem signExtend_eq_loaded {n : Nat} (hn : 0 < n) (v : Nat) : (BitVec.ofNat (8 * n) v).signExtend 64 = loaded true n v := by
  have h : (BitVec.ofNat (8 * n) v).signExtend 64 = ofI (BitVec.ofNat (8 * n) v).toInt := rfl
  rw [h, toInt_signed (by omega), loaded]
  simp only [true_and]
  split
  · rfl
  · rfl

theorem extend_eq_loaded (z : LoadSize) (v : Nat) : LoadSize.extend z v = loaded (loadWidth z).2 (loadWidth z).1 v := by
  cases z with
  | i8 => exact signExtend_eq_loaded (n := 1) (by decide) v
  | i16 => exact signExtend_eq_loaded (n := 2) (by decide) v
  | i32 => exact signExtend_eq_loaded (n := 4) (by decide) v
  | n8 => rfl
  | n16 => rfl
  | n32 => rfl
  | d64 => exact BitVec.eq_of_toNat_eq (by simp [LoadSize.extend, loaded, loadWidth, ofN, w64])

/-! ### An access that reaches its bytes -/

/-- Only the waiting threads' stay marks, the reservations and the events under way differ (R315). -/
def TurnTaken (s t : State) : Prop :=
  t = { s with threads := t.threads, resv := t.resv, pending := t.pending }

theorem turnTaken_trans (a b c : State) (h : TurnTaken a b) (k : TurnTaken b c) : TurnTaken a c := by
  unfold TurnTaken at *
  rw [k, h]

theorem resvMoved_passResv (t word : Nat) (s : State) : ResvMoved s (passResv t word s) := by
  unfold passResv
  dsimp only
  split
  · split <;> rfl
  · rfl

theorem resvMoved_passAll (t : Nat) (words : List Nat) (s : State) : ResvMoved s (words.foldl (fun s w => passResv t w s) s) :=
  foldl_rel (R := ResvMoved) (fun _ => rfl) (fun _ _ _ => resvMoved_trans) (fun s w => resvMoved_passResv t w s) words s

/-- The turns of an access at its words, each taken in the state that the last has left. -/
theorem passAll_me (t : Nat) (words : List Nat) : ∀ s : State, s.me = t →
    words.foldl (fun s w => passResv s.me w s) s = words.foldl (fun s w => passResv t w s) s := by
  induction words with
  | nil => exact fun _ _ => rfl
  | cons w ws ih =>
    intro s hs
    have hme : (passResv t w s).me = t := by rw [resvMoved_passResv]; exact hs
    rw [List.foldl_cons, List.foldl_cons, hs, ih _ hme]

theorem atTurn_kept (ps : List Piece) (s : State) :
    atTurn ps s = { setTh s s.me { getTh s s.me with stay := false } with resv := (atTurn ps s).resv, pending := (atTurn ps s).pending } :=
  resvMoved_passAll s.me (wordsOf ps) (modTh s s.me fun th => { th with stay := false })

@[simp] theorem atTurn_me (ps : List Piece) (s : State) : (atTurn ps s).me = s.me := by rw [atTurn_kept]; rfl
@[simp] theorem atTurn_mem (ps : List Piece) (s : State) : (atTurn ps s).mem = s.mem := by rw [atTurn_kept]; rfl
@[simp] theorem atTurn_fe (ps : List Piece) (s : State) : (atTurn ps s).fe = s.fe := by rw [atTurn_kept]; rfl
@[simp] theorem atTurn_waits (ps : List Piece) (s : State) : (atTurn ps s).waits = s.waits := by rw [atTurn_kept]; rfl

/-- A load that the core's own copies serve leaves the cluster less often than one made at its home (R29, R229). -/
theorem leavesCluster_mono {s : State} {t : Nat} {ps : List Piece} (h : leavesCluster s t false ps = false) (reads : Bool) :
    leavesCluster s t reads ps = false := by
  unfold leavesCluster at *
  rw [List.any_eq_false] at *
  intro p hp hc
  refine h p hp ?_
  revert hc
  split
  · exact id
  · split
    · exact id
    · intro _
      rfl

section

variable {s : State} {a : Word} {n : Nat} {need : Need} {migrates loads : Bool} {ps : List Piece}

theorem withPlace_reaches (h : ReachesMemory s a n need migrates loads ps) (s0 : State) (len : Nat) (act : Place → Out) :
    withPlace s0 s len a n need act = act (.mem ps) := by
  obtain ⟨hhost, hres, -⟩ := h
  unfold withPlace
  dsimp only
  rw [hhost]
  dsimp only
  rw [hres]
  rfl

theorem withMemory_reaches (h : ReachesMemory s a n need migrates loads ps) {reads : Bool} (hr : loads = reads ∨ loads = false) (s0 : State) (len : Nat)
    (q : Bool) (act : State → Out) : withMemory s0 s len q a migrates reads ps act = act (atTurn ps s) := by
  obtain ⟨-, -, htest, hleaves, hmig, hresv, href, hbad⟩ := h
  have hl : (leavesCluster s s.me reads ps && !hartMoves s s.me) = false := by
    rcases hleaves with hl | hm
    · rcases hr with rfl | rfl
      · rw [hl]; rfl
      · rw [leavesCluster_mono hl reads]; rfl
    · rw [hm]
      simp
  have hmig' : (if migrates then migratesTo s s.me a else none) = none := by
    cases migrates
    · rfl
    · exact hmig rfl
  unfold withMemory
  rw [htest, hl, hmig', hresv, href, hbad]
  simp only [Bool.or_self, Bool.false_eq_true, if_false, Option.isSome_none, Bool.and_false]
  rw [passAll_me s.me _ (modTh s s.me fun th => { th with stay := false }) rfl]
  rfl

theorem homeBarred_reaches (h : ReachesMemory s a n need migrates false ps) : homeBarred s ps = false := by
  obtain ⟨-, -, -, hleaves, -⟩ := h
  rcases hleaves with hl | hm
  · rw [homeBarred, hl]; rfl
  · rw [homeBarred, hm]; simp

end

/-! ### Loads and stores -/

/-- The load of a form. -/
theorem exec_of_loadForm {i : Instr} {f : LoadForm} (h : loadForm i = some f) :
    ∃ z, loadWidth z = (f.n, f.signed) ∧ ∀ s, exec i s = loadOp f.len f.q f.d f.a z f.disp s := by
  unfold loadForm at h
  split at h
  case h_1 q d a z i =>
    obtain rfl := Option.some.inj h
    exact ⟨z, rfl, fun s => exec_ld ..⟩
  case h_2 q d a z i =>
    obtain rfl := Option.some.inj h
    exact ⟨z, rfl, fun s => exec_ldX ..⟩
  case h_3 => cases h

theorem exec_of_storeForm {i : Instr} {f : StoreForm} (h : storeForm i = some f) :
    ∃ z, storeWidth z = f.n ∧ ∀ s, exec i s = storeOp f.len f.q f.r f.a z f.disp s := by
  unfold storeForm at h
  split at h
  case h_1 q r a z i =>
    obtain rfl := Option.some.inj h
    exact ⟨z, rfl, fun s => exec_st ..⟩
  case h_2 q r a z i =>
    obtain rfl := Option.some.inj h
    exact ⟨z, rfl, fun s => exec_stX ..⟩
  case h_3 => cases h

theorem loadBytes_eq (z : LoadSize) : LoadSize.bytes z = (loadWidth z).1 := by cases z <;> rfl

theorem storeBytes_eq (z : StoreSize) : StoreSize.bytes z = storeWidth z := by cases z <;> rfl

theorem done_eq (s0 : State) (len : Nat) (q : Bool) (s : State) : done s0 len q s = .next (retire s0 len q s) := rfl

section

variable {len : Nat} {q : Bool} {d r a : Reg} {disp : Int} {s : State}

theorem loadOp_outside (hq : QueuesReady [a] [] s) (he : effOf (operand [a] s a) disp = none) (z : LoadSize) :
    loadOp len q d a z disp s = exactAt len ⟨2, 5, Config.carryAddress (operand [a] s a) disp⟩ s := by
  rw [loadOp, withRegs_ready hq, show xr (cur (operandState [a] s)) a = operand [a] s a from rfl, effAddr_of_none he]

theorem loadOp_reaches (hq : QueuesReady [a] [] s) {z : LoadSize} {ea : Word} {ps : List Piece} (he : effOf (operand [a] s a) disp = some ea)
    (hm : ReachesMemory (operandState [a] s) ea (LoadSize.bytes z) needRd true true ps) :
    loadOp len q d a z disp s = .next (retire s len q (addLate d
      (LoadSize.extend z (leNum (loadPieces (coreOf s.me) ps (atTurn ps (operandState [a] s))).1))
      (loadPieces (coreOf s.me) ps (atTurn ps (operandState [a] s))).2)) := by
  rw [loadOp, withRegs_ready hq, show xr (cur (operandState [a] s)) a = operand [a] s a from rfl, effAddr_of_some he]
  dsimp only
  rw [withPlace_reaches hm]
  exact withMemory_reaches hm (.inl rfl) ..

theorem storeOp_outside (hq : QueuesReady [a, r] [] s) (he : effOf (operand [a, r] s a) disp = none) (z : StoreSize) :
    storeOp len q r a z disp s = exactAt len ⟨2, 5, Config.carryAddress (operand [a, r] s a) disp⟩ s := by
  rw [storeOp, withRegs_ready hq, show xr (cur (operandState [a, r] s)) a = operand [a, r] s a from rfl, effAddr_of_none he]

theorem storeOp_reaches (hq : QueuesReady [a, r] [] s) {z : StoreSize} {ea : Word} {ps : List Piece} (he : effOf (operand [a, r] s a) disp = some ea)
    (hm : ReachesMemory (operandState [a, r] s) ea (StoreSize.bytes z) needWr true false ps) :
    storeOp len q r a z disp s = .next (retire s len q (storePieces (coreOf s.me) ps (leList (StoreSize.bytes z) (operand [a, r] s r).toNat)
      (atTurn ps (operandState [a, r] s)))) := by
  rw [storeOp, withRegs_ready hq, show xr (cur (operandState [a, r] s)) a = operand [a, r] s a from rfl, effAddr_of_some he]
  dsimp only
  rw [withPlace_reaches hm]
  exact withMemory_reaches hm (.inl rfl) ..

end

/-- Bytes outside C lines are found at their home (R229). -/
theorem rdCached_home {s : State} (core : Nat) {ps : List Piece} (h : ∀ p ∈ ps, p.kind ≠ 2) : rdCached s core ps = rdPieces s ps := by
  induction ps with
  | nil => rfl
  | cons p ps ih =>
    have hp : p.kind ≠ 2 := h p (List.mem_cons_self ..)
    have hb : ∀ i, cachedByte s core p.kind (p.key + i) = rdByte s (p.key + i) := fun i => by
      rw [cachedByte, if_neg fun hc => hp hc.1]
    have hrun : ∀ n key, rdRun s key n = (List.range n).map fun i => rdByte s (key + i) := fun n => by
      induction n with
      | zero => exact fun _ => rfl
      | succ n ihn =>
        intro key
        rw [rdRun, ihn, List.range_succ_eq_map, List.map_cons, List.map_map]
        exact congrArg _ (List.map_congr_left fun i _ => congrArg (rdByte s) (by omega))
    have hrest := ih fun p' hp' => h p' (List.mem_cons_of_mem _ hp')
    rw [rdCached, List.flatMap_cons, ← rdCached, hrest, rdPieces, hrun]
    simp only [hb]
    rfl

theorem rdPieces_congr {s t : State} (h : t.mem = s.mem) (ps : List Piece) : rdPieces t ps = rdPieces s ps := by
  induction ps with
  | nil => rfl
  | cons p ps ih => rw [rdPieces, rdPieces, ih, rdRun_congr s t _ _ fun k _ _ => rdByte_congr h k]

theorem rdWord_congr {s t : State} (h : t.mem = s.mem) (k : Nat) : rdWord t k = rdWord s k := by
  rw [rdWord, rdWord, rdNum, rdNum, rdRun_congr s t _ _ fun k _ _ => rdByte_congr h k]

theorem feOf_congr {s t : State} (h : t.fe = s.fe) (k : Nat) : feOf t k = feOf s k := by
  rw [feOf, h]
  rfl

theorem loadResults : LoadResults := by
  intro i f hf s hq x s1
  obtain ⟨z, hz, hexec⟩ := exec_of_loadForm hf
  refine ⟨fun ea ps he hm => ⟨?_, fun hk => ?_⟩, fun he => ⟨_, trapsAt_of_exactAt ((hexec s).trans (loadOp_outside hq he z))⟩⟩
  · have hn : LoadSize.bytes z = f.n := (loadBytes_eq z).trans (congrArg Prod.fst hz)
    rw [hexec, loadOp_reaches hq he (hn ▸ hm), extend_eq_loaded, hz, leNum_eq_leValue]
    rfl
  · have hmem : (homeLoad (coreOf s.me) ps (atTurn ps s1)).mem = s1.mem := by rw [homeMoved_homeLoad]; exact atTurn_mem ps s1
    rw [rdCached_home _ hk, rdPieces_congr hmem]

theorem storeResults : StoreResults := by
  intro i f hf s hq x s1
  obtain ⟨z, hz, hexec⟩ := exec_of_storeForm hf
  refine ⟨fun ea ps he hm => ?_, fun he => ⟨_, trapsAt_of_exactAt ((hexec s).trans (storeOp_outside hq he z))⟩⟩
  have hn : StoreSize.bytes z = f.n := (storeBytes_eq z).trans hz
  rw [hexec, storeOp_reaches hq he (hn ▸ hm), hn, leList_eq_leBytesOf]

/-- Settles O22: loadOp_reaches and storeOp_reaches, and the carry of effAddr_of_none. -/
theorem loadStoreResults : Obligations.LoadStoreResults := ⟨loadResults, storeResults⟩

/-! ### Access checks -/

theorem accessChecks : AccessChecks := by
  intro s w a n need hf e gen
  have hr : resolve s w a n need =
      if hdl a = 0 ∨ e.v = false then .error ⟨2, 1, a⟩
      else if e.peer then (if need.ex then .error ⟨2, 3, a⟩ else .ok (.peer e))
      else if e.gen ≠ gen then .error ⟨2, 2, a⟩
      else if rightsOk e w need = false then .error ⟨2, 3, a⟩
      else if off a + n > 2 ^ 48 then .error ⟨2, 5, Config.carryAddress a (Int.ofNat n)⟩
      else if off a + n > e.limit then .error ⟨2, 4, mkAddr (hdl a) (max (off a) e.limit)⟩
      else if e.kind = 1 ∨ e.kind = 6 ∨ e.kind = 8 then
        match pageRuns s w (hdl a) e need (n + 1) (off a) n with
        | .ok ps => .ok (.mem ps)
        | .error (r, o') =>
          if r = 4 ∧ walkBad s e.ptroot.toNat (o' / 4096) = true then .error ⟨0x0B, 0, mkAddr (hdl a) o'⟩ else .error ⟨2, r, mkAddr (hdl a) o'⟩
      else if e.kind = 4 then .ok (.mem [⟨nodeKey e.node (off a), n, 4, e.node, e.gen⟩])
      else if e.kind = 3 ∧ 8 ≤ off a ∧ off a + n ≤ 0x38 then .ok (.mem [⟨nodeKey e.node (off a), n, 4, e.node, e.gen⟩])
      else .ok (.unit e.node e.kind (off a) e.gen) := if_neg hf
  rw [hr]
  refine ⟨fun h => if_pos h, fun h0 hv hp => ?_⟩
  have h1 : ¬ (hdl a = 0 ∨ e.v = false) := fun h => h.elim h0 fun hc => by rw [hv] at hc; cases hc
  simp only [if_neg h1, hp, Bool.false_eq_true, if_false]
  refine ⟨fun hg => if_pos hg, fun hg hright => ?_, fun hg hright ho => ⟨Config.carryAddress a (Int.ofNat n), ?_⟩, fun hg hright ho hl => ?_⟩
  all_goals rw [if_neg (not_not.2 hg)]
  · rw [if_pos hright]
  · rw [if_neg (by rw [hright]; decide), if_pos ho]
  · rw [if_neg (by rw [hright]; decide), if_neg (Nat.not_lt.2 ho), if_pos hl]

/-- An access whose checks fail takes its trap at once (R88, R247). -/
theorem withPlace_error {s : State} {a : Word} {n : Nat} {need : Need} {info : TrapInfo}
    (hh : hostMiss s (whoOf s s.me).unit (whoOf s s.me).ctx (hdl a) = none) (hr : resolve s (whoOf s s.me) a n need = .error info)
    (s0 : State) (len : Nat) (act : Place → Out) : withPlace s0 s len a n need act = exactAt len info s0 := by
  unfold withPlace
  dsimp only
  rw [hh]
  dsimp only
  rw [hr]

theorem accessFaults : AccessFaults := by
  intro i f hf a n disp srcs need len s hq ea info s1 w he hh hr
  refine trapsAt_of_exactAt ?_
  rcases hf with ⟨l, rfl, hl⟩ | ⟨l, rfl, hl⟩
  · obtain ⟨z, hz, hexec⟩ := exec_of_loadForm hl
    have hn : LoadSize.bytes z = l.n := (loadBytes_eq z).trans (congrArg Prod.fst hz)
    rw [hexec, loadOp, withRegs_ready hq, show xr (cur (operandState [l.a] s)) l.a = operand [l.a] s l.a from rfl, effAddr_of_some he]
    dsimp only
    exact withPlace_error hh (hn ▸ hr) ..
  · obtain ⟨z, hz, hexec⟩ := exec_of_storeForm hl
    have hn : StoreSize.bytes z = l.n := (storeBytes_eq z).trans hz
    rw [hexec, storeOp, withRegs_ready hq, show xr (cur (operandState [l.a, l.r] s)) l.a = operand [l.a, l.r] s l.a from rfl, effAddr_of_some he]
    dsimp only
    exact withPlace_error hh (hn ▸ hr) ..

end Sys2Proof.Machine
end

section
/-! Words (O19, O20, O21, O23, O24): full/empty forms, atomics and reservations at an aligned word, and the traps of a misaligned one. -/

namespace Sys2Proof.Machine

open Sys2Proof.Claims

/-! ### Word forms -/

theorem wordDisp_value (i : WordDisp) : WordDisp.value i = (wordDisp i).1 := by
  have h : ∀ {w : Nat} (d : BitVec w), (d ++ 0#3).toInt = 8 * d.toInt := fun {w} d => by
    rw [BitVec.toInt_append]
    rcases Nat.eq_zero_or_pos w with rfl | hw
    · simp [BitVec.toInt_zero_length]
    · simp [Nat.ne_of_gt hw]
  cases i with
  | base d => exact h d
  | ext d => exact h d

theorem wordDisp_len (i : WordDisp) : WordDisp.len i = (wordDisp i).2 := by cases i <;> rfl

theorem withWord_misaligned {x ea : Word} {d : Int} {n : Nat} (he : effOf x d = some ea) (h : ea.toNat % n ≠ 0) (s0 s1 : State) (len : Nat) (q : Bool)
    (migrates reads : Bool) (bad : Nat → Bool) (act : Word → Nat → List Piece → State → Out) :
    withWord s0 s1 len q x d n migrates reads bad act = exactAt len ⟨3, 0, ea⟩ s0 := by
  unfold withWord
  dsimp only
  rw [offWrap_of_effOf he, if_pos h]

section

variable {s1 : State} {x ea : Word} {d : Int} {n : Nat} {migrates : Bool} {ps : List Piece}

theorem withWord_bad (he : effOf x d = some ea) (ha : ea.toNat % n = 0) (hm : ReachesMemory s1 ea n needRw migrates false ps) {bad : Nat → Bool}
    (hb : bad (ps.headD ⟨0, 0, 0, 0, 0⟩).key = true) (s0 : State) (len : Nat) (q : Bool) (reads : Bool) (act : Word → Nat → List Piece → State → Out) :
    withWord s0 s1 len q x d n migrates reads bad act = exactAt len ⟨2, 3, ea⟩ s0 := by
  unfold withWord
  dsimp only
  rw [offWrap_of_effOf he, if_neg (not_not.2 ha), effAddr_of_some he]
  dsimp only
  rw [withPlace_reaches hm]
  dsimp only
  rw [hb]
  rfl

theorem withWord_reaches (he : effOf x d = some ea) (ha : ea.toNat % n = 0) (hm : ReachesMemory s1 ea n needRw migrates false ps) {bad : Nat → Bool}
    (hb : bad (ps.headD ⟨0, 0, 0, 0, 0⟩).key = false) (s0 : State) (len : Nat) (q : Bool) (reads : Bool) (act : Word → Nat → List Piece → State → Out) :
    withWord s0 s1 len q x d n migrates reads bad act = act ea (ps.headD ⟨0, 0, 0, 0, 0⟩).key ps (atTurn ps s1) := by
  unfold withWord
  dsimp only
  rw [offWrap_of_effOf he, if_neg (not_not.2 ha), effAddr_of_some he]
  dsimp only
  rw [withPlace_reaches hm]
  dsimp only
  rw [hb, homeBarred_reaches hm, if_neg Bool.false_ne_true, if_neg Bool.false_ne_true]
  exact withMemory_reaches hm (.inr rfl) ..

end

/-- The key of the word that a full/empty or reservation form reaches. -/
theorem headD_key {s : State} {x ea : Word} {i : WordDisp} {key : Nat} {ps : List Piece} (h : ReachesWord s x i ea key ps) :
    (ps.headD ⟨0, 0, 0, 0, 0⟩).key = key := by
  obtain ⟨-, -, -, p, r, rfl, hk⟩ := h
  exact hk

theorem withWord_word {s1 : State} {x ea : Word} {i : WordDisp} {key : Nat} {ps : List Piece} (h : ReachesWord s1 x i ea key ps) {bad : Nat → Bool}
    (hb : bad key = false) (s0 : State) (q reads : Bool) (act : Word → Nat → List Piece → State → Out) :
    withWord s0 s1 (WordDisp.len i) q x (WordDisp.value i) 8 false reads bad act = act ea key ps (atTurn ps s1) := by
  have hk := headD_key h
  obtain ⟨he, ha, hm, -⟩ := h
  rw [wordDisp_value, withWord_reaches he ha hm (by rw [hk]; exact hb), hk]

theorem withWord_word_bad {s1 : State} {x ea : Word} {i : WordDisp} {key : Nat} {ps : List Piece} (h : ReachesWord s1 x i ea key ps) {bad : Nat → Bool}
    (hb : bad key = true) (s0 : State) (q reads : Bool) (act : Word → Nat → List Piece → State → Out) :
    withWord s0 s1 (WordDisp.len i) q x (WordDisp.value i) 8 false reads bad act = exactAt (wordDisp i).2 ⟨2, 3, ea⟩ s0 := by
  have hk := headD_key h
  obtain ⟨he, ha, hm, -⟩ := h
  rw [wordDisp_value, wordDisp_len, withWord_bad he ha hm (by rw [hk]; exact hb)]

/-! ### Full/empty results -/

theorem listedSame_congr {s t : State} (h : t.waits = s.waits) (key : Nat) (op : WaitOp) : listedSame t key op = listedSame s key op := by
  rw [listedSame, h]
  rfl

theorem fe_operandState (srcs : List Reg) (s : State) : (operandState srcs s).fe = s.fe := machineKept_fe (machineKept_operandState srcs s)

theorem mem_operandState (srcs : List Reg) (s : State) : (operandState srcs s).mem = s.mem := machineKept_mem (machineKept_operandState srcs s)

theorem flag_feOf (b : Bool) : (if b then 1 else 0 : Word) = flag (b = true) := rfl

section

variable {q : Bool} {d r a : Reg} {i : WordDisp} {s : State} {ea : Word} {key : Nat} {ps : List Piece}

section

variable (hq : QueuesReady [a] [] s) (hw : ReachesWord (operandState [a] s) (xr (cur (operandState [a] s)) a) i ea key ps)

include hq hw

theorem execLdTake_reaches (hh : holds s s.me key = false) : execLdTake q d a i s =
    if feOf (operandState [a] s) key && !listedSame (operandState [a] s) key .take then
      .next (retire s (wordDisp i).2 q (addLate d (rdWord (operandState [a] s) key)
        (afterWrite (atTurn ps (operandState [a] s)) ps (setFe (homeStore (coreOf s.me) ps (atTurn ps (operandState [a] s))) key false))))
    else joinList s (atTurn ps (operandState [a] s)) ps .take ea d 0 (wordDisp i).2 q := by
  unfold execLdTake
  dsimp only
  rw [withRegs_ready hq, withWord_word hw hh, feOf_congr (atTurn_fe ..), listedSame_congr (atTurn_waits ..), wordDisp_len, rdWord_congr (atTurn_mem ..)]
  rfl

theorem execLdPeek_reaches (hh : holds s s.me key = false) : execLdPeek q d a i s =
    if feOf (operandState [a] s) key && !listedSame (operandState [a] s) key .peek then
      .next (retire s (wordDisp i).2 q (addLate d (rdWord (operandState [a] s) key) (homeStore (coreOf s.me) ps (atTurn ps (operandState [a] s)))))
    else joinList s (atTurn ps (operandState [a] s)) ps .peek ea d 0 (wordDisp i).2 q := by
  unfold execLdPeek
  dsimp only
  rw [withRegs_ready hq, withWord_word hw hh, feOf_congr (atTurn_fe ..), listedSame_congr (atTurn_waits ..), wordDisp_len, rdWord_congr (atTurn_mem ..)]
  rfl

theorem execFeRd_reaches : execFeRd q d a i s = .next (retire s (wordDisp i).2 q
    (addLate d (flag (feOf (operandState [a] s) key = true)) (homeStore (coreOf s.me) ps (atTurn ps (operandState [a] s))))) := by
  have hb : (fun _ : Nat => false) key = false := rfl
  unfold execFeRd
  dsimp only
  rw [withRegs_ready hq, withWord_word hw hb, feOf_congr (atTurn_fe ..), wordDisp_len]
  rfl

theorem execFeClr_reaches : execFeClr q a i s = .next (retire s (wordDisp i).2 q
    (afterWrite (atTurn ps (operandState [a] s)) ps (setFe (homeStore (coreOf s.me) ps (atTurn ps (operandState [a] s))) key false))) := by
  have hb : (fun _ : Nat => false) key = false := rfl
  unfold execFeClr
  dsimp only
  rw [withRegs_ready hq, withWord_word hw hb, wordDisp_len]
  rfl

end

section

variable (hq : QueuesReady [a, r] [] s) (hw : ReachesWord (operandState [a, r] s) (xr (cur (operandState [a, r] s)) a) i ea key ps)

include hq hw

theorem execStGive_reaches (hh : holds s s.me key = false) : execStGive q r a i s =
    if !feOf (operandState [a, r] s) key && !listedSame (operandState [a, r] s) key .give then
      .next (retire s (wordDisp i).2 q (addLate 0 0
        (storeFe (coreOf s.me) ps (leBytesOf 8 (operand [a, r] s r).toNat) 1 (atTurn ps (operandState [a, r] s)))))
    else joinList s (atTurn ps (operandState [a, r] s)) ps .give ea 0 (operand [a, r] s r) (wordDisp i).2 q := by
  unfold execStGive
  dsimp only
  rw [withRegs_ready hq, withWord_word hw hh, feOf_congr (atTurn_fe ..), listedSame_congr (atTurn_waits ..), wordDisp_len, leList_eq_leBytesOf]
  rfl

theorem execStFill_reaches : execStFill q r a i s = .next (retire s (wordDisp i).2 q
    (storeFe (coreOf s.me) ps (leBytesOf 8 (operand [a, r] s r).toNat) 1 (atTurn ps (operandState [a, r] s)))) := by
  have hb : (fun _ : Nat => false) key = false := rfl
  unfold execStFill
  dsimp only
  rw [withRegs_ready hq, withWord_word hw hb, wordDisp_len, leList_eq_leBytesOf]
  rfl

end

end

/-- A full/empty form acts at once where its word is as it asks and no wait of its condition is listed (R148). -/
theorem serves_at_once {s : State} {key : Nat} {op : WaitOp} {b : Bool} (hf : b = true) (hl : ¬ Listed s key op) : (b && !listedSame s key op) = true := by
  rw [hf, Bool.eq_false_of_not_eq_true hl]
  rfl

/-- Settles O19: each form reaches its word, which is as it asks. -/
theorem fullEmptyResults : Obligations.FullEmptyResults := by
  intro q d r a i s ea key ps len
  refine ⟨fun hq => ?_, fun hq => ?_⟩
  · intro x s1 s2 hw
    refine ⟨fun hf hl hh => ?_, fun hf hl hh => ?_, (exec_feRd ..).trans (execFeRd_reaches hq hw), (exec_feClr ..).trans (execFeClr_reaches hq hw)⟩
    · rw [exec_ldTake, execLdTake_reaches hq hw hh, if_pos (serves_at_once hf hl)]
    · rw [exec_ldPeek, execLdPeek_reaches hq hw hh, if_pos (serves_at_once hf hl)]
  · intro x data s1 hw
    refine ⟨fun hf hl hh => ?_, (exec_stFill ..).trans (execStFill_reaches hq hw)⟩
    have hf' : (!feOf (operandState [a, r] s) key) = true := by rw [hf]; rfl
    rw [exec_stGive, execStGive_reaches hq hw hh, if_pos (serves_at_once hf' hl)]

/-! ### Reservations -/

theorem release_holds {q : Bool} {srcs : List Reg} {a : Reg} {i : WordDisp} {s : State} {ea : Word} {key : Nat} {ps : List Piece}
    (hq : QueuesReady srcs [] s) (hw : ReachesWord (operandState srcs s) (operand srcs s a) i ea key ps) (hh : holds s s.me key = true)
    (v : State → Option Word) : release (WordDisp.len i) q srcs a i v s = .next (retire s (wordDisp i).2 q (releaseHold s.me (key / 8)
      (match v (operandState srcs s) with
        | some w => storePieces (coreOf s.me) ps (leList 8 w.toNat) (atTurn ps (operandState srcs s))
        | none => atTurn ps (operandState srcs s)))) := by
  have hb : (fun key => !holds s s.me key) key = false := by simp [hh]
  rw [release, withRegs_ready hq, show xr (cur (operandState srcs s)) a = operand srcs s a from rfl, withWord_word hw hb, wordDisp_len]
  rfl

theorem release_other {q : Bool} {srcs : List Reg} {a : Reg} {i : WordDisp} {s : State} {ea : Word} {key : Nat} {ps : List Piece}
    (hq : QueuesReady srcs [] s) (hw : ReachesWord (operandState srcs s) (operand srcs s a) i ea key ps) (hh : holds s s.me key = false)
    (v : State → Option Word) : release (WordDisp.len i) q srcs a i v s = exactAt (wordDisp i).2 ⟨2, 3, ea⟩ s := by
  have hb : (fun key => !holds s s.me key) key = true := by simp [hh]
  rw [release, withRegs_ready hq, show xr (cur (operandState srcs s)) a = operand srcs s a from rfl, withWord_word_bad hw hb]

/-- Settles O21: rsv reaches its word by withWord_word, rls and rls.n by release_holds, and what each refuses is withWord_word_bad. -/
theorem reservationResults : Obligations.ReservationResults := by
  intro q d r a i s ea key ps len
  refine ⟨fun hq hw => ⟨fun hh => ?_, fun hh => trapsAt_of_exactAt ?_, fun hh => ?_, fun hh => trapsAt_of_exactAt ?_⟩,
    fun hq hw => ⟨fun hh => ?_, fun hh => trapsAt_of_exactAt ?_⟩⟩
  · have hb : (fun _ : Nat => (cur s).hold.isSome) key = false := by simp [hh]
    rw [exec_rsv, execRsv]
    dsimp only
    rw [withRegs_ready hq, show xr (cur (operandState [a] s)) a = operand [a] s a from rfl, withWord_word hw hb, wordDisp_len,
      rdWord_congr ((atTurn_mem ps _).trans (mem_operandState [a] s))]
    rfl
  · have hb : (fun _ : Nat => (cur s).hold.isSome) key = true := by simpa [Option.isSome_iff_ne_none] using hh
    rw [exec_rsv, execRsv]
    dsimp only
    rw [withRegs_ready hq, show xr (cur (operandState [a] s)) a = operand [a] s a from rfl, withWord_word_bad hw hb]
  · rw [exec_rlsN, execRlsN, release_holds hq hw hh]
  · rw [exec_rlsN, execRlsN, release_other hq hw hh]
  · rw [exec_rls, execRls, release_holds hq hw hh, ← leList_eq_leBytesOf]
    rfl
  · rw [exec_rls, execRls, release_other hq hw hh]

/-! ### Atomics -/

/-- The function of an atomic at a width. -/
abbrev AmoFn : Type := (n : Nat) → BitVec n → BitVec n → BitVec n → BitVec n

theorem effOf_zero (x : Word) : effOf x 0 = some x := by
  have h : offAdd x (0 : Nat) = some (nextAddr x 0) := offAdd_nat_of_lt (Nat.mod_lt _ (by decide))
  rw [← offAdd_eq_effOf]
  refine h.trans (congrArg some ?_)
  rw [nextAddr, Nat.add_zero, Nat.mod_mod, Nat.div_add_mod']
  exact ofN_toNat _

theorem amo_reaches {q : Bool} {d a b : Reg} {w : Bool} {srcs : List Reg} {s : State} {ps : List Piece} (hq : QueuesReady srcs [] s)
    (ha : (operand srcs s a).toNat % (if w then 4 else 8) = 0)
    (hm : ReachesMemory (operandState srcs s) (operand srcs s a) (if w then 4 else 8) needRw true false ps) (f : AmoFn) :
    amo q d a b w f srcs s =
      let n := if w then 32 else 64
      let old := BitVec.ofNat n (leNum (rdPieces (operandState srcs s) ps))
      .next (retire s 4 q (addLate d (old.signExtend 64) (storePieces (coreOf s.me) ps
        (leList (n / 8) (f n old ((operand srcs s b).setWidth n) ((operand srcs s d).setWidth n)).toNat) (atTurn ps (operandState srcs s))))) := by
  have hn : (if w then 32 else 64) / 8 = if w then 4 else 8 := by cases w <;> rfl
  rw [amo, withRegs_ready hq]
  dsimp only
  rw [hn, show xr (cur (operandState srcs s)) a = operand srcs s a from rfl, withWord_reaches (effOf_zero _) ha hm rfl, rdPieces_congr (atTurn_mem ps _)]
  rfl

end Sys2Proof.Machine
end

section
/-! Atomics (O20): the model's functions at a width, against the same functions of whole words. -/

namespace Sys2Proof.Machine

open Sys2Proof.Claims

theorem setWidth_signExtend {n : Nat} (hn : n ≤ 64) (v : BitVec n) : (v.signExtend 64).setWidth n = v := by
  apply BitVec.eq_of_getLsbD_eq
  intro i hi
  rw [BitVec.getLsbD_setWidth, BitVec.getLsbD_signExtend]
  simp [hi, Nat.lt_of_lt_of_le hi hn]

/-- The low bits of an atomic's number, as signed (R262). -/
theorem toInt_loaded {m : Nat} (h0 : 0 < m) (h8 : 8 * m ≤ 64) (v : Nat) : (loaded true m v).toInt = (BitVec.ofNat (8 * m) v).toInt := by
  rw [← signExtend_eq_loaded h0, BitVec.toInt_signExtend_of_le h8]

theorem leBytesOf_mod (m v : Nat) : leBytesOf m (v % 2 ^ (8 * m)) = leBytesOf m v := by
  refine List.map_congr_left fun i hi => BitVec.eq_of_toNat_eq ?_
  have hi : 8 * i + 8 ≤ 8 * m := by have := List.mem_range.1 hi; omega
  rw [BitVec.toNat_ofNat, BitVec.toNat_ofNat, ← Nat.mod_mul_right_div_self, ← Nat.mod_mul_right_div_self, ← Nat.pow_add,
    Nat.mod_mod_of_dvd _ (Nat.pow_dvd_pow 2 hi)]

/-- A function of an atomic at every width, and the same one of whole words: of an old value that is sign-extended, the low bits agree (R314). -/
def SameAmo (g : AmoFn) (f : Nat → Word → Word → Word → Word) : Prop :=
  ∀ m (o x c : Word), 0 < m → 8 * m ≤ 64 → loaded true m o.toNat = o →
    (g (8 * m) (o.setWidth (8 * m)) (x.setWidth (8 * m)) (c.setWidth (8 * m))).toNat = (f (8 * m) o x c).toNat % 2 ^ (8 * m)

/-- A choice between the operand and the old value, by tests that agree. -/
theorem toNat_choice {n : Nat} (x o : Word) {p p' : Prop} [Decidable p] [Decidable p'] (h : p ↔ p') :
    (if p then x.setWidth n else o.setWidth n).toNat = (if p' then x else o).toNat % 2 ^ n := by
  by_cases hp : p
  · rw [if_pos hp, if_pos (h.1 hp), BitVec.toNat_setWidth]
  · rw [if_neg hp, if_neg fun hc => hp (h.2 hc), BitVec.toNat_setWidth]

theorem slt_setWidth {m : Nat} (h0 : 0 < m) (h8 : 8 * m ≤ 64) (x o : Word) :
    (x.setWidth (8 * m)).slt (o.setWidth (8 * m)) = true ↔ (loaded true (8 * m / 8) x.toNat).toInt < (loaded true (8 * m / 8) o.toNat).toInt := by
  have h : ∀ y : Word, y.setWidth (8 * m) = BitVec.ofNat (8 * m) y.toNat := fun y => BitVec.eq_of_toNat_eq (by simp)
  rw [BitVec.slt, decide_eq_true_iff, h, h, Nat.mul_div_cancel_left m (by decide), toInt_loaded h0 h8, toInt_loaded h0 h8]

theorem ult_setWidth {n : Nat} (x o : Word) : (x.setWidth n).ult (o.setWidth n) = true ↔ x.toNat % 2 ^ n < o.toNat % 2 ^ n := by
  rw [BitVec.ult, decide_eq_true_iff, BitVec.toNat_setWidth, BitVec.toNat_setWidth]

/-- The meaning of an atomic. -/
theorem exec_of_amoForm {i : Instr} {q w : Bool} {d a b : Reg} {f : Nat → Word → Word → Word → Word} (h : amoForm i = some (q, d, a, b, w, f)) :
    ∃ g : AmoFn, (∀ s, exec i s = amo q d a b w g (amoSrcs i a b d) s) ∧ SameAmo g f := by
  unfold amoForm at h
  split at h
  all_goals cases h
  case h_1 =>
    refine ⟨fun _ o x _ => o + x, fun s => exec_amoAdd .., fun m o x c h0 h8 _ => ?_⟩
    have hd : 2 ^ (8 * m) ∣ 2 ^ 64 := Nat.pow_dvd_pow 2 h8
    simp only [BitVec.toNat_add, BitVec.toNat_setWidth, ofN, BitVec.toNat_ofNat]
    rw [Nat.mod_mod_of_dvd _ hd, ← Nat.add_mod]
  case h_2 =>
    refine ⟨fun _ o x _ => o &&& x, fun s => exec_amoAnd .., fun m o x c h0 h8 _ => ?_⟩
    rw [BitVec.toNat_and, BitVec.toNat_and, BitVec.toNat_setWidth, BitVec.toNat_setWidth, Nat.and_mod_two_pow]
  case h_3 =>
    refine ⟨fun _ o x _ => o ||| x, fun s => exec_amoOr .., fun m o x c h0 h8 _ => ?_⟩
    rw [BitVec.toNat_or, BitVec.toNat_or, BitVec.toNat_setWidth, BitVec.toNat_setWidth, Nat.or_mod_two_pow]
  case h_4 =>
    refine ⟨fun _ o x _ => o ^^^ x, fun s => exec_amoXor .., fun m o x c h0 h8 _ => ?_⟩
    rw [BitVec.toNat_xor, BitVec.toNat_xor, BitVec.toNat_setWidth, BitVec.toNat_setWidth, Nat.xor_mod_two_pow]
  case h_5 =>
    exact ⟨fun _ o x _ => if x.slt o then x else o, fun s => exec_amoMin .., fun m o x c h0 h8 _ => toNat_choice x o (slt_setWidth h0 h8 x o)⟩
  case h_6 =>
    exact ⟨fun _ o x _ => if o.slt x then x else o, fun s => exec_amoMax .., fun m o x c h0 h8 _ => toNat_choice x o (slt_setWidth h0 h8 o x)⟩
  case h_7 => exact ⟨fun _ o x _ => if x.ult o then x else o, fun s => exec_amoMinn .., fun m o x c _ _ _ => toNat_choice x o (ult_setWidth x o)⟩
  case h_8 => exact ⟨fun _ o x _ => if o.ult x then x else o, fun s => exec_amoMaxn .., fun m o x c _ _ _ => toNat_choice x o (ult_setWidth o x)⟩
  case h_9 => exact ⟨fun _ _ x _ => x, fun s => exec_amoSwap .., fun m o x c _ _ _ => BitVec.toNat_setWidth ..⟩
  case h_10 =>
    refine ⟨fun _ o x c => if o = c then x else o, fun s => exec_amoCas .., fun m o x c _ _ _ => toNat_choice x o ?_⟩
    rw [← BitVec.toNat_inj, BitVec.toNat_setWidth, BitVec.toNat_setWidth, eq_comm]

/-- The old value of an atomic, sign-extended, is its own sign extension. -/
theorem loaded_loaded {m : Nat} (h0 : 0 < m) (h8 : 8 * m ≤ 64) (v : Nat) : loaded true m (loaded true m v).toNat = loaded true m v := by
  rw [← signExtend_eq_loaded h0, ← signExtend_eq_loaded h0]
  refine congrArg (BitVec.signExtend 64) ?_
  conv_rhs => rw [← setWidth_signExtend h8 (BitVec.ofNat (8 * m) v)]
  exact BitVec.eq_of_toNat_eq (by simp)

/-- Settles O20: amo_reaches, with the function of the form at its width. -/
theorem atomicResults : Obligations.AtomicResults := by
  intro i q d a b w f hf s ps srcs s1 ea n hq ha hm old
  obtain ⟨g, hexec, hg⟩ := exec_of_amoForm hf
  have h0 : 0 < n := by cases w <;> decide
  have h8 : 8 * n ≤ 64 := by cases w <;> decide
  have hw : (if w then 32 else 64) = 8 * n := by cases w <;> rfl
  have hold : BitVec.ofNat (8 * n) (leNum (rdPieces s1 ps)) = old.setWidth (8 * n) := by
    rw [leNum_eq_leValue, ← setWidth_signExtend h8 (BitVec.ofNat (8 * n) _), signExtend_eq_loaded h0]
  have hback : (old.setWidth (8 * n)).signExtend 64 = old := by
    rw [← hold, signExtend_eq_loaded h0, leNum_eq_leValue]
  rw [hexec, amo_reaches hq ha hm, hw]
  dsimp only
  rw [hold, hback, Nat.mul_div_cancel_left n (by decide), hg n old _ _ h0 h8 (loaded_loaded h0 h8 _), leList_eq_leBytesOf, leBytesOf_mod]

end Sys2Proof.Machine
end

section
/-! Traps of misaligned words (O23) and the waits at words (O24). -/

namespace Sys2Proof.Machine

open Sys2Proof.Claims

/-! ### Misaligned words -/

section

variable {q : Bool} {d r a : Reg} {i : WordDisp} {s : State} {ea : Word}

theorem release_misaligned {srcs : List Reg} (hq : QueuesReady srcs [] s) (he : effOf (operand srcs s a) (wordDisp i).1 = some ea) (ha : ea.toNat % 8 ≠ 0)
    (v : State → Option Word) : release (WordDisp.len i) q srcs a i v s = exactAt (wordDisp i).2 ⟨3, 0, ea⟩ s := by
  rw [release, withRegs_ready hq, show xr (cur (operandState srcs s)) a = operand srcs s a from rfl, wordDisp_value, wordDisp_len,
    withWord_misaligned he ha]

section

variable (hq : QueuesReady [a] [] s) (he : effOf (operand [a] s a) (wordDisp i).1 = some ea) (ha : ea.toNat % 8 ≠ 0)

include hq he ha

theorem execLdTake_misaligned : execLdTake q d a i s = exactAt (wordDisp i).2 ⟨3, 0, ea⟩ s := by
  unfold execLdTake
  dsimp only
  rw [withRegs_ready hq, show xr (cur (operandState [a] s)) a = operand [a] s a from rfl, wordDisp_value, wordDisp_len, withWord_misaligned he ha]

theorem execLdPeek_misaligned : execLdPeek q d a i s = exactAt (wordDisp i).2 ⟨3, 0, ea⟩ s := by
  unfold execLdPeek
  dsimp only
  rw [withRegs_ready hq, show xr (cur (operandState [a] s)) a = operand [a] s a from rfl, wordDisp_value, wordDisp_len, withWord_misaligned he ha]

theorem execFeRd_misaligned : execFeRd q d a i s = exactAt (wordDisp i).2 ⟨3, 0, ea⟩ s := by
  unfold execFeRd
  dsimp only
  rw [withRegs_ready hq, show xr (cur (operandState [a] s)) a = operand [a] s a from rfl, wordDisp_value, wordDisp_len, withWord_misaligned he ha]

theorem execFeClr_misaligned : execFeClr q a i s = exactAt (wordDisp i).2 ⟨3, 0, ea⟩ s := by
  unfold execFeClr
  dsimp only
  rw [withRegs_ready hq, show xr (cur (operandState [a] s)) a = operand [a] s a from rfl, wordDisp_value, wordDisp_len, withWord_misaligned he ha]

theorem execRsv_misaligned : execRsv q d a i s = exactAt (wordDisp i).2 ⟨3, 0, ea⟩ s := by
  unfold execRsv
  dsimp only
  rw [withRegs_ready hq, show xr (cur (operandState [a] s)) a = operand [a] s a from rfl, wordDisp_value, wordDisp_len, withWord_misaligned he ha]

end

section

variable (hq : QueuesReady [a, r] [] s) (he : effOf (operand [a, r] s a) (wordDisp i).1 = some ea) (ha : ea.toNat % 8 ≠ 0)

include hq he ha

theorem execStGive_misaligned : execStGive q r a i s = exactAt (wordDisp i).2 ⟨3, 0, ea⟩ s := by
  unfold execStGive
  dsimp only
  rw [withRegs_ready hq, show xr (cur (operandState [a, r] s)) a = operand [a, r] s a from rfl, wordDisp_value, wordDisp_len, withWord_misaligned he ha]

theorem execStFill_misaligned : execStFill q r a i s = exactAt (wordDisp i).2 ⟨3, 0, ea⟩ s := by
  unfold execStFill
  dsimp only
  rw [withRegs_ready hq, show xr (cur (operandState [a, r] s)) a = operand [a, r] s a from rfl, wordDisp_value, wordDisp_len, withWord_misaligned he ha]

end

end

theorem amo_misaligned {q : Bool} {d a b : Reg} {w : Bool} {srcs : List Reg} {s : State} (hq : QueuesReady srcs [] s)
    (ha : (operand srcs s a).toNat % (if w then 4 else 8) ≠ 0) (f : AmoFn) :
    amo q d a b w f srcs s = exactAt 4 ⟨3, 0, operand srcs s a⟩ s := by
  have hn : (if w then 32 else 64) / 8 = if w then 4 else 8 := by cases w <;> rfl
  rw [amo, withRegs_ready hq]
  dsimp only
  rw [hn, show xr (cur (operandState srcs s)) a = operand srcs s a from rfl, withWord_misaligned (effOf_zero _) ha]

theorem misalignedWords : MisalignedWords := by
  intro q d r a i s len
  refine ⟨?_, ?_, ?_⟩
  · rintro x ea hq rfl he ha
    exact ⟨trapsAt_of_exactAt ((exec_ldTake ..).trans (execLdTake_misaligned hq he ha)),
      trapsAt_of_exactAt ((exec_ldPeek ..).trans (execLdPeek_misaligned hq he ha)),
      trapsAt_of_exactAt ((exec_feRd ..).trans (execFeRd_misaligned hq he ha)),
      trapsAt_of_exactAt ((exec_feClr ..).trans (execFeClr_misaligned hq he ha)),
      trapsAt_of_exactAt ((exec_rsv ..).trans (execRsv_misaligned hq he ha)),
      trapsAt_of_exactAt ((exec_rlsN ..).trans (release_misaligned hq he ha _))⟩
  · rintro x ea hq rfl he ha
    exact ⟨trapsAt_of_exactAt ((exec_stGive ..).trans (execStGive_misaligned hq he ha)),
      trapsAt_of_exactAt ((exec_stFill ..).trans (execStFill_misaligned hq he ha)),
      trapsAt_of_exactAt ((exec_rls ..).trans (release_misaligned hq he ha _))⟩
  · rintro j ⟨q, d, a, b, w, f⟩ hj x hq rfl ha
    obtain ⟨g, hexec, -⟩ := exec_of_amoForm hj
    exact trapsAt_of_exactAt ((hexec s).trans (amo_misaligned hq ha g))

/-- Settles O23: accessChecks, accessFaults and misalignedWords. -/
theorem accessTraps : Obligations.AccessTraps := ⟨accessChecks, accessFaults, misalignedWords⟩

/-! ### Waits at words -/

/-- An access whose home has room, and serves no earlier retry, joins the word's wait list (R148, R150). -/
theorem joinList_room {s0 s1 : State} {ps : List Piece} {core key len : Nat} (hcore : coreOf s1.me = core) (hkey : (ps.headD ⟨0, 0, 0, 0, 0⟩).key = key) (hf : seqFault s0 len = none)
    (hw : ∀ k o x i f n, (cur s0).wait ≠ .retry k o x i f n)
    (hroom : (homeEntries (ownPages core s1 ps) (cur (ownPages core s1 ps)).part (key / 8)).1 <
      (homeEntries (ownPages core s1 ps) (cur (ownPages core s1 ps)).part (key / 8)).2)
    (hearly : earliestRetry (ownPages core s1 ps) (cur (ownPages core s1 ps)).part (key / 8) = none)
    (op : WaitOp) (a : Word) (d : Reg) (data : Word) (q : Bool) :
    joinList s0 s1 ps op a d data len q =
      let s := ownPages core s1 ps
      .next (modTh (park (.word key op a d len q)
          { s with waits := spSet [] s.waits (key / 8) (spGet [] s.waits (key / 8) ++ [⟨s.me, op, data⟩]) }) s.me fun th =>
        { th with wcount := match (cur s0).wait with | .word _ _ _ _ _ _ => (cur s0).wcount | _ => 0 }) := by
  unfold joinList
  dsimp only
  rw [hcore, hkey, hearly, if_neg (by simpa using hroom), unlessFault_of_none hf]
  generalize (cur s0).wait = w at hw ⊢
  cases w
  case retry k o x i f n => exact absurd rfl (hw k o x i f n)
  all_goals rfl

/-- A word held by another, and its place in the access (R315). -/
theorem wordAddr_single {ea : Word} {p : Piece} {word : Nat} (hp : p.key % 8 = 0) (hw : word ∈ wordsOf [p]) :
    wordAddr ea [p] word = offWrap ea (8 * word - p.key) := by
  have h : p.key / 8 ≤ word ∧ 8 * word < p.key + p.len := by
    rw [wordsOf, List.mem_eraseDups] at hw
    simp only [List.flatMap_cons, List.flatMap_nil, List.append_nil, List.mem_map, upTo, List.mem_range] at hw
    obtain ⟨i, hi, rfl⟩ := hw
    omega
  rw [wordAddr, if_pos h]
  rfl

theorem not_serves {b : Bool} (hb : b = false) (c : Bool) : (b && c) = false := by rw [hb]; rfl

theorem fullEmptyWaits : FullEmptyWaits := by
  intro q d r a i s ea key ps len roomAt waited joined hseq hretry
  refine ⟨fun hq hw hh => fun hf hroom => ⟨?_, ?_⟩, fun hq hw hh => fun hf hroom => ?_⟩
  · have hcore : coreOf (atTurn ps (operandState [a] s)).me = coreOf s.me := by rw [atTurn_me, operandState_me]
    have hno := not_serves ((feOf_congr (fe_operandState [a] s) key).trans hf) (!listedSame (operandState [a] s) key .take)
    exact (exec_ldTake ..).trans (((execLdTake_reaches hq hw hh).trans (if_neg (by rw [hno]; decide))).trans
      (joinList_room hcore (headD_key hw) hseq hretry hroom.1 hroom.2 ..))
  · have hcore : coreOf (atTurn ps (operandState [a] s)).me = coreOf s.me := by rw [atTurn_me, operandState_me]
    have hno := not_serves ((feOf_congr (fe_operandState [a] s) key).trans hf) (!listedSame (operandState [a] s) key .peek)
    exact (exec_ldPeek ..).trans (((execLdPeek_reaches hq hw hh).trans (if_neg (by rw [hno]; decide))).trans
      (joinList_room hcore (headD_key hw) hseq hretry hroom.1 hroom.2 ..))
  · have hcore : coreOf (atTurn ps (operandState [a, r] s)).me = coreOf s.me := by rw [atTurn_me, operandState_me]
    have hb : (!feOf (operandState [a, r] s) key) = false := by rw [feOf_congr (fe_operandState [a, r] s) key, hf]; rfl
    have hno := not_serves hb (!listedSame (operandState [a, r] s) key .give)
    exact (exec_stGive ..).trans (((execStGive_reaches hq hw hh).trans (if_neg (by rw [hno]; decide))).trans
      (joinList_room hcore (headD_key hw) hseq hretry hroom.1 hroom.2 ..))

/-- A thread that a word's holder, forward or queue keeps back is not its holder. -/
theorem holder_of_resvBlocks {s : State} {t word : Nat} (h : resvBlocks s t word = true) : (spGet Resv.free s.resv word).holder ≠ some t := by
  intro hc
  rw [resvBlocks, queueBlocks] at h
  rw [hc] at h
  simp at h

theorem resv_operandState (srcs : List Reg) (s : State) : (operandState srcs s).resv = s.resv := by rw [machineKept_operandState srcs s]

/-- A thread that waits for a held word is in its queue (R315). -/
theorem joinResv_queued {s : State} {word : Nat} (h : (spGet Resv.free s.resv word).holder ≠ some s.me) (addr : Word) :
    s.me ∈ (spGet Resv.free (joinResv word addr s).resv word).queue := by
  have hr : (spGet Resv.free (joinResv word addr s).resv word) = _ := spGet_spSet_self Resv.free s.resv word _
  rw [hr]
  split
  · next hc =>
    rcases Bool.or_eq_true _ _ ▸ hc with hc | hc
    · exact List.contains_iff_mem.1 hc
    · exact absurd (beq_iff_eq.1 hc) h
  · exact List.mem_append_right _ (List.mem_singleton.2 rfl)

theorem reservationWaits : ReservationWaits := by
  intro i f hf s ea ps word hq s1 w hseq he hhost hres htest hleaves hmig hword
  obtain ⟨z, hz, hexec⟩ := exec_of_loadForm hf
  have hn : LoadSize.bytes z = f.n := (loadBytes_eq z).trans (congrArg Prod.fst hz)
  have hstay : (leavesCluster s1 s1.me true ps && !hartMoves s1 s1.me) = false := by
    rcases hleaves with hl | hm
    · rw [hl]; rfl
    · rw [hm]; simp
  have hexec : exec i s = .next (joinResv word (wordAddr ea ps word) s) := by
    rw [hexec, loadOp, withRegs_ready hq, show xr (cur (operandState [f.a] s)) f.a = operand [f.a] s f.a from rfl, effAddr_of_some he]
    dsimp only
    unfold withPlace
    dsimp only
    rw [hhost]
    dsimp only
    rw [hn, hres]
    dsimp only
    unfold withMemory
    rw [htest, hstay]
    simp only [Bool.or_self, Bool.false_eq_true, if_false, if_true]
    rw [hmig]
    dsimp only
    rw [hword]
    dsimp only
    rw [unlessFault_of_none hseq]
    rfl
  have hblocks : resvBlocks s1 s1.me word = true := List.find?_some hword
  have hmem : word ∈ wordsOf ps := List.mem_of_find?_eq_some hword
  have hme : s1.me = s.me := operandState_me [f.a] s
  have hholder : (spGet Resv.free s.resv word).holder ≠ some s.me := by
    rw [← hme, ← resv_operandState [f.a] s]
    exact holder_of_resvBlocks hblocks
  refine ⟨_, hexec, ?_, ?_, ?_, joinResv_queued hholder _, fun _ => rfl⟩
  · rw [joinResv, cur_park]
  · rintro p rfl hp
    exact wordAddr_single hp hmem
  · rw [joinResv, cur_park]
    rfl

/-- Settles O24: joinList_room for the full/empty forms, joinResv_queued for a word held. -/
theorem wordWaits : Obligations.WordWaits := ⟨fullEmptyWaits, reservationWaits⟩

end Sys2Proof.Machine
end

section
/-! The frame of stores (O17), which fails where a hart is listed twice. -/

namespace Sys2Proof.Machine

open Sys2Proof.Claims

/-- A bar.wait for phase 5 of the object at a byte of the scratchpad. -/
def waitsAt (o : Nat) : Thread := { Thread.reset with uid := 1, ctx := 1, wait := .barrier (scratchKey 0 o) (mkAddr 0xFFFF o) 5 0 3 false }

/-- Hart 1 is listed twice: it reads as parked on the object at byte 128, which counts one waiter, and its second entry is parked on the one at byte 64. -/
def listedTwice : State :=
  { State.reset with threads := [(1, waitsAt 128), (1, waitsAt 64)], mem := [(scratchKey 0 136, 1)] }

/-- The words that a store at byte 64 touches. -/
def byte64 : List Piece := [⟨scratchKey 0 64, 8, 3, 0, 0⟩]

theorem parkedOn_listedTwice {key h x p l d q} (hp : (getTh listedTwice h).wait = .barrier key x p l d q) : key = scratchKey 0 128 := by
  by_cases h1 : 1 = h
  · subst h1
    exact (Wait.barrier.inj hp).1.symm
  · have hr : getTh listedTwice h = Thread.reset := by
      rw [getTh, show listedTwice.threads = [(1, waitsAt 128), (1, waitsAt 64)] from rfl, spGet, if_neg h1, spGet, if_neg h1, spGet]
    rw [hr] at hp
    cases hp

/-- The store at byte 64 finds the second entry, and takes the waiter off the object of the first. -/
theorem waiter_listedTwice : rdByte (storePieces 0 byte64 [1, 0, 0, 0, 0, 0, 0, 0] listedTwice) (scratchKey 0 136) ≠ rdByte listedTwice (scratchKey 0 136) := by
  decide

/-- Refutes O17: testBarriers looks for a parked hart among the entries of the table, and releaseWaiter reads the first entry of its hart. In a table that lists hart
1 twice, first parked on the object at byte 128 and then on the one at byte 64, a store at byte 64 changes the WAITERS word at byte 136. -/
theorem not_storeFrame : ¬ Obligations.StoreFrame := by
  unfold Obligations.StoreFrame
  intro h
  refine waiter_listedTwice ((h 0 byte64 [1, 0, 0, 0, 0, 0, 0, 0] listedTwice).1 (scratchKey 0 136) (by decide) ?_)
  rintro key ⟨t, x, p, l, d, q, hp⟩ hk
  rw [parkedOn_listedTwice hp] at hk
  exact absurd hk (by decide)

end Sys2Proof.Machine
end

section
/-! Memory (O18, O60): the functions of the model that leave every byte as it is, each said once, in the order of their definitions. -/

namespace Sys2Proof.Machine

open Sys2Proof.Claims

@[simp] theorem mem_ite (c : Prop) [Decidable c] (a b : State) : (if c then a else b).mem = if c then a.mem else b.mem := by split <;> rfl

theorem mem_foldl {α : Type} {f : State → α → State} (h : ∀ s a, (f s a).mem = s.mem) (l : List α) (s : State) : (l.foldl f s).mem = s.mem :=
  foldl_rel (R := fun s t : State => t.mem = s.mem) (fun _ => rfl) (fun _ _ _ h k => k.trans h) h l s

@[simp] theorem mem_setTh (s : State) (t : Nat) (th : Thread) : (setTh s t th).mem = s.mem := (rfl)

@[simp] theorem mem_modTh (s : State) (t : Nat) (f : Thread → Thread) : (modTh s t f).mem = s.mem := (rfl)

@[simp] theorem mem_setCore (s : State) (c : Nat) (v : CoreSt) : (setCore s c v).mem = s.mem := (rfl)

@[simp] theorem mem_modCore (s : State) (c : Nat) (f : CoreSt → CoreSt) : (modCore s c f).mem = s.mem := (rfl)

@[simp] theorem mem_modCtx (s : State) (c : Nat) (f : Ctx → Ctx) : (modCtx s c f).mem = s.mem := (rfl)

@[simp] theorem mem_modPart (s : State) (p : Nat) (f : Partition → Partition) : (modPart s p f).mem = s.mem := (rfl)

@[simp] theorem mem_modLaunch (s : State) (l : Nat) (f : Launch → Launch) : (modLaunch s l f).mem = s.mem := (rfl)

@[simp] theorem mem_push (e : Instr) (s : State) : (push e s).mem = s.mem := (rfl)

@[simp] theorem mem_pushOnce (e : Instr) (s : State) : (pushOnce e s).mem = s.mem := by simp [pushOnce]

@[simp] theorem mem_noteGtime (t : Nat) (s : State) : (noteGtime t s).mem = s.mem := (rfl)

@[simp] theorem mem_freeUsed (used : Bool) (s : State) : (freeUsed used s).mem = s.mem := by simp [freeUsed]

@[simp] theorem mem_wr (t : Nat) (d : Reg) (v : Word) (s : State) : (wr t d v s).mem = s.mem := by simp [wr]

@[simp] theorem mem_deq (t : Nat) (s : State) (r : Reg) : (deq t s r).mem = s.mem := by
  unfold deq
  split <;> simp

@[simp] theorem mem_park (w : Wait) (s : State) : (park w s).mem = s.mem := (rfl)

@[simp] theorem mem_feedVector (c fuel : Nat) (s : State) : (feedVector c fuel s).mem = s.mem := machineKept_mem (machineKept_feedVector c fuel s)

@[simp] theorem mem_endCapture (t : Nat) (s : State) : (endCapture t s).mem = s.mem := by
  unfold endCapture
  split <;> simp

@[simp] theorem mem_departTo (t : Nat) (target : Word) (live : BitVec 15) (s : State) : (departTo t target live s).mem = s.mem := by simp [departTo]

@[simp] theorem mem_enterTrap (t : Nat) (i : TrapInfo) (async : Bool) (jidx : Nat) (pjwf : Bool) (epc : Word) (s : State) :
    (enterTrap t i async jidx pjwf epc s).mem = s.mem := by simp [enterTrap]

@[simp] theorem mem_refuse (t : Nat) (pc : Word) (seq : Nat) (i : TrapInfo) (s : State) : (refuse t pc seq i s).mem = s.mem := (rfl)

@[simp] theorem mem_takeReturned (t : Nat) (r : Returned) (s : State) : (takeReturned t r s).mem = s.mem := by simp [takeReturned]

/-- An instruction goes on with the memory that it made, or traps with the memory that it found (R174). -/
theorem mem_flow_cases (s0 : State) (target : Word) (live : Option (BitVec 15)) (q : Bool) (s : State) :
    (flow s0 target live q s).mem = s.mem ∨ (flow s0 target live q s).mem = s0.mem := by
  unfold flow
  dsimp only
  split
  · split
    · exact .inr (mem_enterTrap ..)
    · exact .inl ((mem_departTo ..).trans (mem_modTh ..))
  · exact .inl (mem_modTh ..)

@[simp] theorem mem_flow {s0 s : State} (h : s.mem = s0.mem) (target : Word) (live : Option (BitVec 15)) (q : Bool) : (flow s0 target live q s).mem = s0.mem :=
  (mem_flow_cases s0 target live q s).elim (·.trans h) id

theorem mem_retireLive_cases (s0 : State) (n : Nat) (live : Option (BitVec 15)) (q : Bool) (s : State) :
    (retireLive s0 n live q s).mem = s.mem ∨ (retireLive s0 n live q s).mem = s0.mem := by
  have h := mem_flow_cases s0 (seqNext (getTh s0 s.me).pc n (getTh s s.me)).2 live q (setTh s s.me (seqNext (getTh s0 s.me).pc n (getTh s s.me)).1)
  rwa [mem_setTh] at h

@[simp] theorem mem_retireLive {s0 s : State} (h : s.mem = s0.mem) (n : Nat) (live : Option (BitVec 15)) (q : Bool) : (retireLive s0 n live q s).mem = s0.mem :=
  (mem_retireLive_cases s0 n live q s).elim (·.trans h) id

theorem mem_retire_cases (s0 : State) (n : Nat) (q : Bool) (s : State) : (retire s0 n q s).mem = s.mem ∨ (retire s0 n q s).mem = s0.mem :=
  mem_retireLive_cases s0 n (seqLive n) q s

@[simp] theorem mem_retire {s0 s : State} (h : s.mem = s0.mem) (n : Nat) (q : Bool) : (retire s0 n q s).mem = s0.mem := mem_retireLive h ..

@[simp] theorem mem_jump {s0 s : State} (h : s.mem = s0.mem) (target : Word) (pops : Bool) (live : Option (BitVec 15)) (q : Bool) :
    (jump s0 target pops live q s).mem = s0.mem := by
  unfold jump
  dsimp only
  split <;> simp [h]

@[simp] theorem mem_addLate (d : Reg) (v : Word) (s : State) : (addLate d v s).mem = s.mem := (rfl)

@[simp] theorem mem_addLateOpen (d : Reg) (size : Nat) (addr : Word) (s : State) : (addLateOpen d size addr s).mem = s.mem := (rfl)

@[simp] theorem mem_badStatus (s : State) : (badStatus s).mem = s.mem := by simp [badStatus]

@[simp] theorem mem_setFe (s : State) (key : Nat) (b : Bool) : (setFe s key b).mem = s.mem := (rfl)

@[simp] theorem mem_modNode (s : State) (n : Nat) (f : Node → Node) : (modNode s n f).mem = s.mem := (rfl)

@[simp] theorem mem_modRecord (s : State) (n : Nat) (f : Node → Node) : (modRecord s n f).mem = s.mem := by simp [modRecord]

@[simp] theorem mem_cleanWords (ps : List Piece) (s : State) : (cleanWords ps s).mem = s.mem := by simp [cleanWords]

@[simp] theorem mem_keepLine (core line : Nat) (e : CachedLine) (s : State) : (keepLine core line e s).mem = s.mem := by simp [keepLine]

@[simp] theorem mem_takeMiss (line : Nat) (s : State) : (takeMiss line s).mem = s.mem := by simp [takeMiss]

@[simp] theorem mem_bypassRead (core line : Nat) (s : State) : (bypassRead core line s).mem = s.mem := (rfl)

@[simp] theorem mem_homeFill (core : Nat) (renew : Bool) (s0 : State) (line : Nat) : (homeFill core renew s0 line).mem = s0.mem := by simp [homeFill]

@[simp] theorem mem_loadTimes (core : Nat) (s : State) (line : Nat) : (loadTimes core s line).mem = s.mem := by simp [loadTimes]

@[simp] theorem mem_storeTimes (core : Nat) (s0 : State) (line : Nat) : (storeTimes core s0 line).mem = s0.mem := by simp [storeTimes]

@[simp] theorem mem_keepWritten (core : Nat) (ps : List Piece) (s : State) : (keepWritten core ps s).mem = s.mem := mem_foldl (fun s a => by simp) _ _

@[simp] theorem mem_catchUp (core : Nat) (s : State) : (catchUp core s).mem = s.mem := (rfl)

@[simp] theorem mem_noteSeen (core : Nat) (s : State) : (noteSeen core s).mem = s.mem := (rfl)

@[simp] theorem mem_meet (core : Nat) (s : State) : (meet core s).mem = s.mem := (rfl)

@[simp] theorem mem_meetOthers (core : Nat) (ps : List Piece) (s : State) : (meetOthers core ps s).mem = s.mem := by simp [meetOthers]

@[simp] theorem mem_dropCopies (hit : Nat → Bool) (s : State) : (dropCopies hit s).mem = s.mem := (rfl)

@[simp] theorem mem_ownPages (core : Nat) (s : State) (ps : List Piece) : (ownPages core s ps).mem = s.mem := mem_foldl (fun s a => by simp) _ _

@[simp] theorem mem_homeLoad (core : Nat) (ps : List Piece) (s : State) : (homeLoad core ps s).mem = s.mem := by rw [homeMoved_homeLoad]

@[simp] theorem mem_homeRead (core : Nat) (ps : List Piece) (s : State) : (homeRead core ps s).mem = s.mem := by rw [homeMoved_homeRead]

@[simp] theorem mem_homeStore (core : Nat) (ps : List Piece) (s : State) : (homeStore core ps s).mem = s.mem := by rw [homeMoved_homeStore]

@[simp] theorem mem_loadPieces (core : Nat) (ps : List Piece) (s : State) : (loadPieces core ps s).2.mem = s.mem := mem_homeLoad core ps s

theorem mem_asHart {f : State → State} (h : ∀ s, (f s).mem = s.mem) (t : Nat) (s : State) : (asHart t f s).mem = s.mem := h { s with me := t }

@[simp] theorem mem_modSaved (tag : Nat) (f : Thread → Thread) (s : State) : (modSaved tag f s).mem = s.mem := (rfl)

@[simp] theorem mem_hitLatches (word : Nat) (s : State) : (hitLatches word s).mem = s.mem := mem_foldl (fun s a => by simp) _ _

@[simp] theorem mem_homeAgain (core key : Nat) (s : State) : (homeAgain core key s).mem = s.mem := by simp [homeAgain]

@[simp] theorem mem_joinAgain (core key : Nat) (s : State) : (joinAgain core key s).mem = s.mem := by simp [joinAgain]

@[simp] theorem mem_serve (t : Nat) (v : Word) (s : State) : (serve t v s).mem = s.mem := by
  refine mem_asHart (fun s => ?_) t s
  dsimp only
  split
  · split <;> simp
  · simp

@[simp] theorem mem_testGates (word : Nat) (s : State) : (testGates word s).mem = s.mem := mem_foldl (fun s a => by simp) _ _

@[simp] theorem mem_joinTag (tag word : Nat) (s : State) : (joinTag tag word s).mem = s.mem := by simp [joinTag]

@[simp] theorem mem_joinResv (word : Nat) (addr : Word) (s : State) : (joinResv word addr s).mem = s.mem := (rfl)

@[simp] theorem mem_passResv (t word : Nat) (s : State) : (passResv t word s).mem = s.mem := by simp [passResv]

@[simp] theorem mem_withdrawResv (t : Nat) (s : State) : (withdrawResv t s).mem = s.mem := mem_foldl (fun s a => by simp) _ _

@[simp] theorem mem_withdrawWaits (t : Nat) (s : State) : (withdrawWaits t s).mem = s.mem := mem_foldl (fun s a => by simp) _ _

@[simp] theorem mem_setStream (s : State) (n : Nat) (v : Stream) : (setStream s n v).mem = s.mem := (rfl)

@[simp] theorem mem_modStream (s : State) (n : Nat) (f : Stream → Stream) : (modStream s n f).mem = s.mem := (rfl)

@[simp] theorem mem_modRouter (s : State) (k : Nat) (f : RouterEnt → RouterEnt) : (modRouter s k f).mem = s.mem := (rfl)

/-- A router entry that a stream takes. -/
theorem mem_installEntries {node : Nat} {st x : Stream} {at_ : Sp Nat} {s t : State} (h : installEntries node st at_ s = some (x, t)) : t.mem = s.mem := by
  have hfold : ∀ (f : Option (Stream × State) → Nat → Option (Stream × State)),
      (∀ acc r, (∀ y ∈ acc, y.2.mem = s.mem) → ∀ y ∈ f acc r, y.2.mem = s.mem) →
      ∀ (rs : List Nat) acc, (∀ y ∈ acc, y.2.mem = s.mem) → ∀ y ∈ rs.foldl f acc, y.2.mem = s.mem := by
    intro f hf rs
    induction rs with
    | nil => exact fun acc hacc => hacc
    | cons r rs ih => exact fun acc hacc => ih _ (hf acc r hacc)
  refine hfold _ (fun acc r hacc y hy => ?_) _ (some (st, s)) (fun y hy => ?_) (x, t) h
  · split at hy
    · exact nomatch hy
    · next x' u =>
      split at hy
      · exact nomatch hy
      · rw [← Option.some.inj hy]
        exact hacc (x', u) rfl
  · rw [← Option.some.inj hy]

@[simp] theorem mem_modEntries (node : Nat) (f : RouterEnt → RouterEnt) (s : State) : (modEntries node f s).mem = s.mem := (rfl)

@[simp] theorem mem_stepStation (node a : Nat) (s : State) : (stepStation node a s).mem = s.mem := mem_foldl (fun s a => by simp) _ _

@[simp] theorem mem_toMembers (node : Nat) (c : Chunk) (s : State) : (toMembers node c s).mem = s.mem := mem_foldl (fun s a => by simp) _ _

@[simp] theorem mem_sendOn (node : Nat) (dst : Option (Nat × Nat)) (c : Chunk) (s : State) : (sendOn node dst c s).mem = s.mem := by
  unfold sendOn
  split <;> simp

@[simp] theorem mem_drainSend (node m fuel : Nat) : ∀ s : State, (drainSend node m fuel s).mem = s.mem := by
  induction fuel with
  | zero => exact fun _ => rfl
  | succ n ih =>
    intro s
    unfold drainSend
    dsimp only
    split
    · rfl
    · split <;> simp [ih]

@[simp] theorem mem_wakeMembers (node which : Nat) (s : State) : (wakeMembers node which s).mem = s.mem := mem_foldl (fun s a => by simp) _ _

@[simp] theorem mem_purgeStream (node : Nat) (s : State) : (purgeStream node s).mem = s.mem := (rfl)

@[simp] theorem mem_failStream (node : Nat) (s : State) : (failStream node s).mem = s.mem := by simp [failStream]

theorem mem_stepTree {node a : Nat} {s t : State} (h : stepTree node a s = some t) : t.mem = s.mem := by
  have hfold : ∀ (dst : Option (Nat × Nat)) (cs : List Chunk) (s : State), (cs.foldl (fun s c => sendOn node dst c s) s).mem = s.mem := fun dst cs s =>
    mem_foldl (fun s c => by simp) cs s
  unfold stepTree at h
  dsimp only at h
  repeat' split at h
  all_goals first
    | (cases h; done)
    | (obtain rfl := Option.some.inj h; simp [hfold])

theorem mem_stepFlat {node : Nat} {s t : State} (h : stepFlat node s = some t) : t.mem = s.mem := by
  have hput : ∀ (g : Nat → Stream → Stream) (ms : List Nat) (s : State), (ms.foldl (fun s m => modStream s node (g m)) s).mem = s.mem := fun g ms s =>
    mem_foldl (fun s m => by simp) ms s
  have hfold : ∀ (dst : Option (Nat × Nat)) (cs : List Chunk) (s : State), (cs.foldl (fun s c => sendOn node dst c s) s).mem = s.mem := fun dst cs s =>
    mem_foldl (fun s c => by simp) cs s
  have hstep : ∀ (ms : List Nat) (s : State), (ms.foldl (fun s m => stepStation node m s) s).mem = s.mem := fun ms s => mem_foldl (fun s c => by simp) ms s
  unfold stepFlat at h
  dsimp only at h
  repeat' split at h
  all_goals first
    | (cases h; done)
    | (obtain rfl := Option.some.inj h; simp [hput, hfold, hstep])

theorem mem_releaseHeld {node : Nat} {s t : State} (h : releaseHeld node s = some t) : t.mem = s.mem := by
  unfold releaseHeld at h
  dsimp only at h
  split at h
  · cases h
  · split at h
    · obtain rfl := Option.some.inj h
      split <;> simp
    · cases h

@[simp] theorem mem_pumpStream (node fuel : Nat) : ∀ s : State, (pumpStream node fuel s).mem = s.mem := by
  induction fuel with
  | zero => exact fun _ => rfl
  | succ n ih =>
    intro s
    unfold pumpStream
    dsimp only
    have hdrain : ∀ (ms : List Nat) (s : State), (ms.foldl (fun s m => drainSend node m 2 s) s).mem = s.mem := fun ms s => mem_foldl (fun s m => by simp) ms s
    split
    · rfl
    · split
      · next s' h =>
        rw [ih]
        split at h
        · next s'' h' =>
          obtain rfl := Option.some.inj h
          split at h'
          · rw [mem_stepFlat h', hdrain]
          · obtain ⟨a, -, ha⟩ := List.exists_of_findSome?_eq_some h'
            rw [mem_stepTree ha, hdrain]
        · rw [mem_releaseHeld h, hdrain]
      · exact hdrain ..

@[simp] theorem mem_enterStation (node a i : Nat) (c : Chunk) (s : State) : (enterStation node a i c s).mem = s.mem := by simp [enterStation]

@[simp] theorem mem_declareDead (node m : Nat) (s : State) : (declareDead node m s).mem = s.mem := by
  have hask : ∀ (ks : List Nat) (s : State), (ks.foldl (fun s k => push (.lccReport node k) s) s).mem = s.mem := fun ks s => mem_foldl (fun s k => by simp) ks s
  have hmod : ∀ (f : Nat → RouterEnt → RouterEnt) (ks : List Nat) (s : State), (ks.foldl (fun s k => modRouter s k (f k)) s).mem = s.mem := fun f ks s =>
    mem_foldl (fun s k => by simp) ks s
  unfold declareDead
  dsimp only
  split
  · rfl
  · split
    · simp
    · rw [hask, mem_modStream, mem_purgeStream, hmod fun k => useAlternatives _, mem_modEntries]

@[simp] theorem mem_loseInputs (node : Nat) (gone : List (Option Nat)) (s : State) : (loseInputs node gone s).mem = s.mem := by
  unfold loseInputs
  split <;> (try split) <;> simp

@[simp] theorem mem_reportLcc (node m : Nat) (s : State) : (reportLcc node m s).mem = s.mem := by simp [reportLcc]

@[simp] theorem mem_ageStream (s : State) (node : Nat) : (ageStream s node).mem = s.mem := by simp [ageStream]

@[simp] theorem mem_createStream (node : Nat) (v : Word) (s : State) : (createStream node v s).2.mem = s.mem := by
  have hif : ∀ (c : Prop) [Decidable c] (i : Int) (r : Int × State), r.2.mem = s.mem → (if c then (i, s) else r).2.mem = s.mem := fun c _ i r h => by
    split
    · rfl
    · exact h
  unfold createStream
  extract_lets
  refine hif _ _ _ (hif _ _ _ (hif _ _ _ (hif _ _ _ ?_)))
  split
  · rfl
  · split
    · rfl
    · next hi =>
      split
      · rfl
      · exact (mem_setStream ..).trans (mem_installEntries hi)

@[simp] theorem mem_closeStream (node : Nat) (s : State) : (closeStream node s).mem = s.mem := (rfl)

@[simp] theorem mem_modQueue (s : State) (q : Nat) (f : GQueue → GQueue) : (modQueue s q f).mem = s.mem := (rfl)

@[simp] theorem mem_queueWake (qn : Nat) (s : State) : (queueWake qn s).mem = s.mem := by simp [queueWake]

@[simp] theorem mem_tailStore (qn : Nat) (v : Word) (s : State) : (tailStore qn v s).mem = s.mem := by simp [tailStore]

@[simp] theorem mem_resumeQueue (qn : Nat) (s : State) : (resumeQueue qn s).mem = s.mem := by simp [resumeQueue]

theorem mem_kickHart {h node ctx : Nat} {words : List Word} {s t : State} (hk : kickHart h node ctx words s = some t) : t.mem = s.mem := by
  unfold kickHart at hk
  split at hk
  · cases hk
  · obtain rfl := Option.some.inj hk
    simp

theorem mem_engineStore {node o ctx : Nat} {a : Word} {data : List Byte} {s t : State} (h : engineStore node o ctx a data s = .ok t) : t.mem = s.mem := by
  unfold engineStore at h
  split at h
  · split at h
    · next s' hk =>
      obtain rfl := Except.ok.inj h
      exact mem_kickHart hk
    · cases h
  · split at h
    · obtain rfl := Except.ok.inj h
      rfl
    · cases h

@[simp] theorem mem_hitUnit (node kind : Nat) (s0 s : State) : (hitUnit node kind s0 s).mem = s.mem := mem_foldl (fun s a => by simp) _ _

@[simp] theorem mem_emit (r : HostReply) (s : State) : (emit r s).mem = s.mem := by
  unfold emit
  split <;> simp

@[simp] theorem mem_sendPeer (g : PeerTag) (kind : Nat) (value : Word) (data : List Byte) (s : State) :
    (sendPeer g kind value data s).mem = s.mem := by simp [sendPeer]

@[simp] theorem mem_setJ (s : State) (c e : Nat) (j : JEnt) : (setJ s c e j).mem = s.mem := (rfl)

@[simp] theorem mem_checkLaunch (l : Nat) (s : State) : (checkLaunch l s).mem = s.mem := by simp [checkLaunch]

@[simp] theorem mem_modUid (s : State) (uid : Nat) (f : Thread → Thread) : (modUid s uid f).mem = s.mem := by
  unfold modUid
  split <;> simp

@[simp] theorem mem_countLanded (uid ctx bytes : Nat) (s : State) : (countLanded uid ctx bytes s).mem = s.mem := by simp [countLanded]

@[simp] theorem mem_sendSegment (p : Packet) (k : KeyEntry) (dst : Word) (o : Nat) (data : List Byte) (s : State) : (sendSegment p k dst o data s).mem = s.mem := by
  unfold sendSegment
  split <;> simp

@[simp] theorem mem_copyDone (p : Packet) (n : Nat) (s : State) : (copyDone p n s).mem = s.mem := (rfl)

@[simp] theorem mem_passTag (tag : Nat) (words : List Nat) (s : State) : (passTag tag words s).mem = s.mem := by
  unfold passTag
  split
  · rfl
  · exact mem_foldl (fun s w => by simp) words s

@[simp] theorem mem_withdrawEntry (core entry : Nat) (s : State) : (withdrawEntry core entry s).mem = s.mem := by simp [withdrawEntry]

@[simp] theorem mem_sendOff (s0 : State) (p : Packet) (place : Place) (dst : Word) (o : Nat) (data : List Byte) (s : State) :
    (sendOff s0 p place dst o data s).mem = s.mem := by
  unfold sendOff
  split <;> simp

@[simp] theorem mem_evictLine (line : Nat) (s : State) : (evictLine line s).mem = s.mem := (rfl)

@[simp] theorem mem_setKey (ring h : Nat) (e : KeyEntry) (s : State) : (setKey ring h e s).mem = s.mem := (rfl)

theorem mem_makeEntry {x : Tx} {e : KeyEntry} {s t : State} {h : Nat} (hm : makeEntry x e s = some (h, t)) : t.mem = s.mem := by
  unfold makeEntry at hm
  obtain ⟨k, -, hk⟩ := Option.map_eq_some_iff.1 hm
  rw [← (Prod.mk.inj hk).2]
  simp

/-- A property of the memory that a transaction leaves. -/
def TxOut.Onto (Q : Sp Byte → Prop) : TxOut → Prop
  | .done _ t | .wait _ t => Q t.mem
  | _ => True

theorem tx_newHandle {Q : Sp Byte → Prop} (x : Tx) (e : KeyEntry) {s : State} (hQ : Q s.mem) : (newHandle x e s).Onto Q := by
  unfold newHandle
  split
  · next h => exact show Q _ from mem_makeEntry h ▸ hQ
  · trivial

theorem tx_withHandle {Q : Sp Byte → Prop} (x : Tx) (h : Nat) (s : State) {act : KeyEntry → TxOut} (ha : ∀ e, (act e).Onto Q) : (withHandle x h s act).Onto Q := by
  unfold withHandle
  dsimp only
  split
  · trivial
  · split
    · exact ha _
    · split
      · trivial
      · split
        · trivial
        · exact ha _

theorem tx_sendAway {Q : Sp Byte → Prop} (x : Tx) (kind pkg port base idx : Nat) (stat : Word) (node : Nat) (value : Word) (data : List Byte) (s : State) :
    (sendAway x kind pkg port base idx stat node value data s).Onto Q := by
  unfold sendAway
  split
  · trivial
  · split <;> trivial

@[simp] theorem mem_setBindings (node : Nat) (bs : List Binding) (s : State) : (setBindings node bs s).mem = s.mem := (rfl)

theorem tx_endWalk {Q : Sp Byte → Prop} (x : Tx) {s : State} (hQ : Q s.mem) (e : WalkEnd) : (endWalk x s e).Onto Q := by
  cases e with
  | reached n k => exact tx_newHandle x _ hQ
  | failed r i => trivial
  | missing n i => trivial
  | cross m rest k i => exact tx_sendAway ..

theorem tx_txWalk {Q : Sp Byte → Prop} (x : Tx) (start : Nat) (ceil : BitVec 5) (path : List Byte) {s : State} (hQ : Q s.mem) :
    (txWalk x start ceil path s).Onto Q := by
  unfold txWalk
  dsimp only
  split
  · split
    · trivial
    · split <;> exact tx_endWalk x hQ _
  · refine tx_withHandle _ _ _ fun e => ?_
    split
    · trivial
    · split
      · exact tx_sendAway ..
      · exact tx_endWalk x hQ _

theorem tx_txExport {Q : Sp Byte → Prop} (x : Tx) (ceil : BitVec 5) {s : State} (hQ : Q s.mem) : (txExport x ceil s).Onto Q := by
  unfold txExport
  dsimp only
  split
  · trivial
  · split
    · trivial
    · exact tx_newHandle x _ hQ

theorem tx_txOpen {Q : Sp Byte → Prop} (x : Tx) (h : Nat) (w : Word) {s : State} (hQ : Q s.mem) : (txOpen x h w s).Onto Q := by
  refine tx_withHandle _ _ _ fun e => ?_
  dsimp only
  split
  · trivial
  · split
    · exact tx_sendAway ..
    · split
      · trivial
      · exact tx_newHandle x _ hQ

theorem tx_txDup {Q : Sp Byte → Prop} (x : Tx) (h : Nat) (w : Word) {s : State} (hQ : Q s.mem) : (txDup x h w s).Onto Q := by
  refine tx_withHandle _ _ _ fun e => ?_
  dsimp only
  split
  · trivial
  · split
    · exact tx_sendAway ..
    · exact tx_newHandle x _ hQ

theorem tx_txStat {Q : Sp Byte → Prop} (x : Tx) (h : Nat) (addr : Word) (s : State) : (txStat x h addr s).Onto Q := by
  refine tx_withHandle _ _ _ fun e => ?_
  split
  · exact tx_sendAway ..
  · trivial

@[simp] theorem mem_dropRef (node : Nat) (s : State) : (dropRef node s).mem = s.mem := by simp [dropRef]

@[simp] theorem mem_addNode (num : Nat) (n : Node) (s : State) : (addNode num n s).mem = s.mem := (rfl)

@[simp] theorem mem_addBinding (dir : Nat) (name : List Byte) (node : Nat) (ceil : BitVec 5) (s : State) : (addBinding dir name node ceil s).mem = s.mem := (rfl)

theorem tx_withDir {Q : Sp Byte → Prop} (x : Tx) (h : Nat) (sysOk : Bool) (s : State) {act : KeyEntry → TxOut} (ha : ∀ e, (act e).Onto Q) :
    (withDir x h sysOk s act).Onto Q := by
  have hcheck : ∀ d : KeyEntry, (if d.peer ∨ d.kind ≠ 0 then TxOut.fail 6 0
      else if d.rights.getLsbD 3 = false ∨ ((getNode s d.node).owner ≠ x.ctx ∧ (sysOk && x.ctx == 0) = false) then .fail 2 0 else act d).Onto Q := fun d => by
    split
    · trivial
    · split
      · trivial
      · exact ha d
  unfold withDir
  dsimp only
  split
  · exact tx_withHandle _ _ _ hcheck
  · split
    · exact tx_withHandle _ _ _ hcheck
    · split
      · trivial
      · exact hcheck _

theorem tx_txBind {Q : Sp Byte → Prop} (x : Tx) (path : List Byte) (w : Word) {s : State} (hQ : Q s.mem) : (txBind x path w s).Onto Q := by
  have hput : ∀ {d node : Nat} {name : List Byte} {ceil : BitVec 5} {old : Option Binding} {u : State}, u.mem = s.mem → (TxOut.done 0 (match old with
      | some b => dropRef b.node (addBinding d name node ceil u)
      | none => addBinding d name node ceil u)).Onto Q := fun hu => by
    change Q _
    split <;> simp [hu, hQ]
  unfold txBind
  dsimp only
  split
  · trivial
  · split
    · trivial
    · refine tx_withDir _ _ _ _ fun d => ?_
      split
      · trivial
      · split
        · trivial
        · split
          · split
            · trivial
            · split
              · trivial
              · exact hput (mem_addNode ..)
          · refine tx_withHandle _ _ _ fun e => ?_
            split
            · trivial
            · exact hput rfl

theorem tx_txUnbind {Q : Sp Byte → Prop} (x : Tx) (path : List Byte) (w : Word) {s : State} (hQ : Q s.mem) : (txUnbind x path w s).Onto Q := by
  unfold txUnbind
  split
  · trivial
  · split
    · trivial
    · refine tx_withDir _ _ _ _ fun d => ?_
      split
      · trivial
      · change Q _
        simpa using hQ

@[simp] theorem mem_setRevoke (rid : Nat) (r : Revoke) (s : State) : (setRevoke rid r s).mem = s.mem := (rfl)

@[simp] theorem mem_startRevoke (kind : RevKind) (node gen : Nat) (issuer : Issuer) (s : State) : (startRevoke kind node gen issuer s).2.mem = s.mem := by
  unfold startRevoke
  dsimp only
  rw [mem_foldl fun s q => mem_push ..]
  rfl

theorem tx_txRevoke {Q : Sp Byte → Prop} (x : Tx) (h : Nat) {s : State} (hQ : Q s.mem) : (txRevoke x h s).Onto Q := by
  refine tx_withHandle _ _ _ fun e => ?_
  split
  · exact tx_sendAway ..
  · split
    · trivial
    · split
      · trivial
      · dsimp only
        split
        · trivial
        · next hm =>
          change Q _
          rw [mem_startRevoke, mem_makeEntry hm]
          simpa using hQ

theorem tx_txClose {Q : Sp Byte → Prop} (x : Tx) (h : Nat) {s : State} (hQ : Q s.mem) : (txClose x h s).Onto Q := by
  unfold txClose
  dsimp only
  split
  · trivial
  · change Q _
    simpa using hQ

@[simp] theorem mem_uncache (ring h : Nat) (s : State) : (uncache ring h s).mem = s.mem := mem_foldl (fun s a => by simp) _ _

@[simp] theorem mem_freeKey (ring h : Nat) (s : State) : (freeKey ring h s).mem = s.mem := by simp [freeKey]

@[simp] theorem mem_unname (node : Nat) (s : State) : (unname node s).mem = s.mem := mem_foldl (fun s a => by simp) _ _

@[simp] theorem mem_tellIssuer (i : Issuer) (rid : Nat) (v : Word) (s : State) : (tellIssuer i rid v s).mem = s.mem := by
  unfold tellIssuer
  split
  · refine (mem_asHart (fun s => ?_) ..).trans (mem_catchUp ..)
    split
    · split
      · split <;> simp
      · rfl
    · rfl
  · simp
  · rfl
  · rfl

@[simp] theorem mem_unmapQueues (gang : Nat) (s : State) : (unmapQueues gang s).mem = s.mem := mem_foldl (fun s a => by simp) _ _

@[simp] theorem mem_addQueue (q : Nat) (x other : GQueue) (s : State) : (addQueue q x other s).mem = s.mem := by
  unfold addQueue
  extract_lets
  split <;> simp

@[simp] theorem mem_endForward (f : Forward) (a : RemoteAnswer) (s : State) : (endForward f a s).2.2.mem = s.mem := by
  unfold endForward
  split
  · rfl
  · split
    · rfl
    · split
      · rfl
      · dsimp only
        split <;> simp

@[simp] theorem mem_noStore (bs : List Byte) (s : State) : (noStore bs s).mem = s.mem := (rfl)

@[simp] theorem mem_dropLine (core line : Nat) (s : State) : (dropLine core line s).mem = s.mem := (rfl)

@[simp] theorem mem_disarm (t i : Nat) (s : State) : (disarm t i s).mem = s.mem := (rfl)

@[simp] theorem mem_disarmAll (t : Nat) (s : State) : (disarmAll t s).mem = s.mem := mem_foldl (fun s i => by simp) (upTo 4) s

@[simp] theorem mem_latchReturn (n : Nat) (q : Bool) (d : Reg) (r : Nat) {s0 s : State} (h : s.mem = s0.mem) :
    (latchReturn n q d r s0 s).mem = s0.mem := by simp [latchReturn, h]

@[simp] theorem mem_sendMsg (m : List Byte) (s : State) : (sendMsg m s).mem = s.mem := by simp [sendMsg]

@[simp] theorem mem_drainMsgs (n : Nat) : ∀ s : State, (drainMsgs n s).mem = s.mem := by
  induction n with
  | zero => exact fun _ => rfl
  | succ n ih =>
    intro s
    unfold drainMsgs
    split
    · rfl
    · split
      · rfl
      · simp [ih]

@[simp] theorem mem_sendResult (m : List Byte) (v : Word) (s : State) : (sendResult m v s).mem = s.mem := by simp [sendResult]

@[simp] theorem mem_modFwCore (s : State) (n : Nat) (f : FwCore → FwCore) : (modFwCore s n f).mem = s.mem := (rfl)

@[simp] theorem mem_served (w : FwWake) (s : State) : (served w s).mem = s.mem := (rfl)

@[simp] theorem mem_reply (fn : HostFn) (status : Nat) (v : Word) (data : List Byte) (s : State) : (reply fn status v data s).mem = s.mem := by simp [reply]

@[simp] theorem mem_holdFor (node idx : Nat) (ctx : Nat) (e : Instr) (s : State) : (holdFor node idx ctx e s).mem = s.mem := by simp [holdFor]

theorem tx_fwGrant {Q : Sp Byte → Prop} (s : State) (fn : HostFn) (x : Tx) {o : TxOut} (h : o.Onto Q) : (fwGrant s fn x o).Onto Q := by
  have hif : ∀ (c : Prop) [Decidable c] {o : TxOut}, o.Onto Q → (if c then TxOut.fail 2 0 else o).Onto Q := fun c _ o ho => by
    split
    · trivial
    · exact ho
  unfold fwGrant
  split
  · exact hif _ h
  · exact hif _ h
  · exact h

theorem tx_hostHandle {Q : Sp Byte → Prop} (h : Nat) {o : TxOut} (ho : o.Onto Q) : (hostHandle h o).Onto Q := by
  unfold hostHandle
  split
  · trivial
  · exact ho

@[simp] theorem mem_resumeMiss (node : Nat) (s : State) : (resumeMiss node s).mem = s.mem := (rfl)

@[simp] theorem mem_missTimeout (node idx : Nat) (e : Instr) (s : State) : (missTimeout node idx e s).mem = s.mem := by
  unfold missTimeout
  split <;> (try split) <;> simp

@[simp] theorem mem_takeMessage (s : State) : (takeMessage s).mem = s.mem := by simp [takeMessage]

@[simp] theorem mem_ccAnswer (err : Bool) (v : Nat) (s : State) : (ccAnswer err v s).mem = s.mem := (rfl)

@[simp] theorem mem_freeKeyring (c : Nat) (s : State) : (freeKeyring c s).mem = s.mem := by
  unfold freeKeyring
  dsimp only
  rw [mem_foldl fun s e => mem_freeKey .., mem_foldl fun s e => by simp]

@[simp] theorem mem_endCtx (c : Nat) (s : State) : (endCtx c s).mem = s.mem := by simp [endCtx]

@[simp] theorem mem_occupy (t : Nat) (th : Thread) (s : State) : (occupy t th s).mem = s.mem := (rfl)

@[simp] theorem mem_seat (t : Nat) (th : Thread) (s : State) : (seat t th s).mem = s.mem := (rfl)

@[simp] theorem mem_placeNext (l t : Nat) (s : State) : (placeNext l t s).mem = s.mem := (rfl)

@[simp] theorem mem_addCounts (th : Thread) (s : State) : (addCounts th s).mem = s.mem := by simp [addCounts]

@[simp] theorem mem_faultRecord (ctx : Nat) (rec_ : List Word) (s : State) : (faultRecord ctx rec_ s).mem = s.mem := (rfl)

@[simp] theorem mem_vacate (t : Nat) (s : State) : (vacate t s).mem = s.mem := by simp [vacate]

@[simp] theorem mem_dropRefused (uid : Nat) (s : State) : (dropRefused uid s).mem = s.mem := (rfl)

@[simp] theorem mem_offerLeft (l : Nat) (s : State) : (offerLeft l s).mem = s.mem := by
  unfold offerLeft
  dsimp only
  split
  · refine mem_foldl (fun s c => ?_) _ s
    split <;> simp
  · rfl

@[simp] theorem mem_raisePts (core pts : Nat) (s : State) : (raisePts core pts s).mem = s.mem := (rfl)

@[simp] theorem mem_leaveSlot (t t' : Nat) (s : State) : (leaveSlot t t' s).mem = s.mem := by
  unfold leaveSlot
  dsimp only
  rw [mem_push, mem_setTh, mem_withdrawResv]
  split <;> rfl

@[simp] theorem mem_resolveLate (t seq : Nat) (v : Word) (s : State) : (resolveLate t seq v s).mem = s.mem := (rfl)

@[simp] theorem mem_ungrant (core : Nat) (slot : Option Nat) (s : State) : (ungrant core slot s).mem = s.mem := by
  unfold ungrant
  split <;> simp

@[simp] theorem mem_seatParcel (p : Parcel) (n : Nat) (s : State) : (seatParcel p n s).mem = s.mem := by
  unfold seatParcel
  split <;> simp

@[simp] theorem mem_keepTaken (ws : List Word) (s : State) : (keepTaken ws s).mem = s.mem := (rfl)

@[simp] theorem mem_askGo (s : State) : (askGo s).mem = s.mem := by simp [askGo]

@[simp] theorem mem_writeKmask (t : Nat) (v : Word) (s : State) : (writeKmask t v s).mem = s.mem := by simp [writeKmask]

@[simp] theorem mem_ctlWrite (t n : Nat) (v : Word) (s : State) : (ctlWrite t n v s).mem = s.mem := by simp [ctlWrite]

@[simp] theorem mem_ctlSeen (s : State) (t n : Nat) : (ctlSeen s t n).mem = s.mem := by simp [ctlSeen]

@[simp] theorem mem_haltThread (v : Word) (s0 s : State) : (haltThread v s0 s).mem = s.mem := (rfl)

@[simp] theorem mem_popLate (t : Nat) (s : State) : (popLate t s).mem = s.mem := by
  unfold popLate
  split <;> simp

@[simp] theorem mem_answerLoad (t : Nat) (l : Late) (a : RemoteAnswer) (s : State) : (answerLoad t l a s).mem = s.mem := by simp [answerLoad]

@[simp] theorem mem_dropHeld (t : Nat) (s : State) : (dropHeld t s).mem = s.mem := by
  unfold dropHeld
  split <;> simp

@[simp] theorem mem_watchdogTrap (t reason : Nat) (tval : Word) (s : State) : (watchdogTrap t reason tval s).mem = s.mem := by simp [watchdogTrap]

theorem mem_vecRead {t : Nat} {a : Word} {n : Nat} {s u : State} {bs : List Byte} (h : vecRead t a n s = .ok (bs, u)) : u.mem = s.mem := by
  have hs : ∀ {b : List Byte} {v : State}, v.mem = s.mem → (Except.ok (b, v) : Except Nat (List Byte × State)) = .ok (bs, u) → u.mem = s.mem := fun hv hb =>
    (congrArg State.mem (Prod.mk.inj (Except.ok.inj hb)).2).symm.trans hv
  unfold vecRead at h
  dsimp only at h
  repeat' split at h
  all_goals first
    | (cases h; done)
    | exact hs (mem_homeLoad ..) h
    | exact hs (mem_meet ..) h

@[simp] theorem mem_loadEls (t w : Nat) (at_ : Where) (ms : List Bool) : ∀ (j : Nat) (s : State), (loadEls t w at_ j ms s).2.2.mem = s.mem := by
  induction ms with
  | nil => exact fun _ _ => rfl
  | cons m ms ih =>
    intro j s
    unfold loadEls
    split
    · exact ih ..
    · split
      · rfl
      · split
        · rfl
        · next h => exact (ih ..).trans (mem_vecRead h)

@[simp] theorem mem_fillSide (t r : Nat) (win : Window) (k0 n : Nat) : ∀ (j : Nat) (s : State), (fillSide t r win k0 n j s).mem = s.mem := by
  induction n with
  | zero => exact fun _ _ => rfl
  | succ n ih =>
    intro j s
    unfold fillSide
    split
    · rfl
    · dsimp only
      rw [ih]
      simp

@[simp] theorem mem_vecLoad (t : Nat) (c : VCmd) (s : State) : (vecLoad t c s).2.mem = s.mem := by
  unfold vecLoad
  extract_lets w n view bad th spoilt
  generalize view = v
  split
  · cases v <;> rfl
  · cases v with
    | none => exact (mem_modTh ..).trans (mem_loadEls ..)
    | some p => exact (mem_fillSide ..).trans ((mem_modTh ..).trans (mem_loadEls ..))

@[simp] theorem mem_vecLoadAt (t : Nat) (c : VCmd) (w : Nat) (at_ : Where) (s : State) : (vecLoadAt t c w at_ s).2.mem = s.mem := by
  unfold vecLoadAt
  simp

@[simp] theorem mem_sideLoad (t : Nat) (c : VCmd) (s : State) : (sideLoad t c s).2.mem = s.mem := by
  unfold sideLoad
  split
  · rfl
  · split
    · rfl
    · next h => simp [mem_vecRead h]

@[simp] theorem mem_joinQueue (e : VEntry) (s : State) : (joinQueue e s).mem = s.mem := by simp [joinQueue]

@[simp] theorem mem_enqueue (v : VCmd) (s : State) : (enqueue v s).mem = s.mem := by
  unfold enqueue
  split <;> simp

@[simp] theorem mem_dropLate (t : Nat) (seqs : List Nat) (s : State) : (dropLate t seqs s).mem = s.mem := (rfl)

@[simp] theorem mem_vectorFault (core t : Nat) (c : VCmd) (f : TrapInfo) (s : State) : (vectorFault core t c f s).mem = s.mem := by simp [vectorFault]

@[simp] theorem mem_writeLate (t seq : Nat) (v : Word) (s : State) : (writeLate t seq v s).mem = s.mem := (rfl)

@[simp] theorem mem_setProg (t i : Nat) (v : Word) (s : State) : (setProg t i v s).mem = s.mem := (rfl)

@[simp] theorem mem_mmCount (r : MmRun) (s : State) : (mmCount r s).mem = s.mem := (rfl)

@[simp] theorem mem_mmGoOn (r : MmRun) (s : State) : (mmGoOn r s).mem = s.mem := (rfl)

@[simp] theorem mem_withdrawEngine (t cluster word : Nat) (s : State) : (withdrawEngine t cluster word s).mem = s.mem := by
  unfold withdrawEngine
  extract_lets u trap named
  split
  · split <;> simp [trap, u]
  · simp [trap, u]
  · simp [u]

@[simp] theorem mem_withdrawBehind (t tag word : Nat) (s : State) : (withdrawBehind t tag word s).mem = s.mem := by
  unfold withdrawBehind
  (repeat' split) <;> simp

@[simp] theorem mem_clearCaphit (s : State) : (clearCaphit s).mem = s.mem := by simp [clearCaphit]

@[simp] theorem mem_stageFail (code : Nat) (s : State) : (stageFail code s).mem = s.mem := (rfl)

@[simp] theorem mem_setStage (n : Nat) (s : State) : (setStage n s).mem = s.mem := (rfl)

@[simp] theorem mem_trainPort (p lanes gen : Nat) (s : State) : (trainPort p lanes gen s).mem = s.mem := (rfl)

@[simp] theorem mem_bootWith (slot : Nat) (s : State) : (bootWith slot s).mem = s.mem := (rfl)

@[simp] theorem mem_trainPorts (mask : Word) (s : State) : (trainPorts mask s).mem = s.mem := mem_foldl (fun s a => by simp) _ _

@[simp] theorem mem_startPolicy (s : State) : (startPolicy s).mem = s.mem := (rfl)

@[simp] theorem mem_powerFrame (s : State) : (powerFrame s).mem = s.mem := (rfl)

@[simp] theorem mem_scheduleFrame (s : State) : (scheduleFrame s).mem = s.mem := by simp [scheduleFrame]

@[simp] theorem mem_setTemp (die temp : Nat) (s : State) : (setTemp die temp s).mem = s.mem := (rfl)

@[simp] theorem mem_reading (s : State) : (reading s).mem = s.mem := by simp [reading]

@[simp] theorem mem_applyCap (s : State) : (applyCap s).mem = s.mem := (rfl)

@[simp] theorem mem_setCap (v : Word) (s : State) : (setCap v s).mem = s.mem := (rfl)

@[simp] theorem mem_swapTable (s : State) : (swapTable s).mem = s.mem := by simp [swapTable]

@[simp] theorem mem_setG (q slot : Nat) (g : GNode) (s : State) : (setG q slot g s).mem = s.mem := (rfl)

@[simp] theorem mem_releaseAll (q : Nat) (refs : List Nat) (faulted : Bool) (orig : Nat) (s : State) :
    (releaseAll q refs faulted orig s).mem = s.mem := mem_foldl (fun s a => by simp) _ _

theorem mem_fillAway {q slot : Nat} {a v : Word} {s t : State} (h : fillAway q slot a v s = some t) : t.mem = s.mem := by
  unfold fillAway at h
  dsimp only at h
  split at h
  · split at h <;> (obtain rfl := Option.some.inj h; simp)
  · cases h

@[simp] theorem mem_offerSlots (s : State) (core : Nat) : (offerSlots s core).mem = s.mem := by
  unfold offerSlots
  dsimp only
  split
  · rfl
  · exact mem_foldl (fun s n => by simp) _ s

@[simp] theorem mem_endLaunch (l : Nat) (s : State) : (endLaunch l s).mem = s.mem := by
  unfold endLaunch
  dsimp only
  rw [mem_foldl mem_offerSlots, mem_foldl fun s c => by simp]

@[simp] theorem mem_advance (q n : Nat) (s : State) : (advance q n s).mem = s.mem := by simp [advance]

@[simp] theorem mem_startGate (q slot : Nat) (g : GNode) (s : State) : (startGate q slot g s).mem = s.mem := by
  unfold startGate
  extract_lets
  split
  · exact mem_push ..
  · split
    · extract_lets
      split
      · exact mem_push ..
      · split <;> simp
    · exact mem_push ..

@[simp] theorem mem_startEngine (q slot : Nat) (r : Record) (s : State) : (startEngine q slot r s).mem = s.mem := by
  unfold startEngine
  dsimp only
  split
  · simp
  · split
    · split
      · simp
      · split
        · next h => exact mem_kickHart h
        · simp
    · simp

theorem tx_bindOp {Q : Sp Byte → Prop} (x : Tx) (op : List Byte) {s : State} (hQ : Q s.mem) : (bindOp x op s).Onto Q := by
  unfold bindOp
  dsimp only
  split
  · exact tx_txUnbind x _ _ hQ
  · exact tx_txBind x _ _ hQ

@[simp] theorem mem_bindOps (q slot : Nat) (r : Record) (n : Nat) : ∀ (i : Nat) (s : State), (bindOps q slot r n i s).mem = s.mem := by
  induction n with
  | zero => exact fun _ s => mem_push _ s
  | succ n ih =>
    intro i s
    have hk := tx_bindOp (Q := (· = s.mem)) (ownerTx s q) ((r.body.drop (8 + 32 * i)).take 32) (s := s) rfl
    unfold bindOps
    split
    · next h =>
      rw [h] at hk
      exact (ih ..).trans hk
    · simp
    · simp
    · rfl

@[simp] theorem mem_dropLines (hit : Nat → Bool) (s : State) : (dropLines hit s).mem = s.mem := mem_foldl (fun s a => by simp) _ _

@[simp] theorem mem_tailArrives (q size : Nat) (v : Word) (s : State) : (tailArrives q size v s).mem = s.mem := by simp [tailArrives]

@[simp] theorem mem_mapQueue (q place : Nat) (s : State) : (mapQueue q place s).mem = s.mem := by
  unfold mapQueue
  dsimp only
  rw [mem_pushOnce, mem_foldl fun s _ => mem_push .., mem_modQueue]

@[simp] theorem mem_mapGang (q tumbler first : Nat) (s : State) : (mapGang q tumbler first s).mem = s.mem := mem_foldl (fun s a => by simp) _ _

@[simp] theorem mem_pinSegments (l : Nat) (x : Launch) (s : State) : (pinSegments l x s).mem = s.mem :=
  mem_foldl (fun s i => mem_foldl (fun s c => by simp) _ s) _ s

@[simp] theorem mem_placeOn (l : Nat) (s : State) (core : Nat) : (placeOn l s core).mem = s.mem := by
  unfold placeOn
  split <;> simp

@[simp] theorem mem_placePasses (l : Nat) (cores : List Nat) (n : Nat) : ∀ s : State, (placePasses l cores n s).mem = s.mem := by
  induction n with
  | zero => exact fun _ => rfl
  | succ n ih =>
    intro s
    rw [placePasses, ih, mem_foldl fun s c => mem_placeOn ..]

@[simp] theorem mem_startComm (ctx : Nat) (s : State) (core : Nat) : (startComm ctx s core).mem = s.mem := by simp [startComm]

@[simp] theorem mem_modGang (s : State) (p : Nat) (f : Gang → Gang) : (modGang s p f).mem = s.mem := (rfl)

@[simp] theorem mem_armGang (part : Nat) (s : State) : (armGang part s).mem = s.mem := by simp [armGang]

@[simp] theorem mem_recallVector (keep : Nat → Bool) (s : State) (core : Nat) : (recallVector keep s core).mem = s.mem := by
  unfold recallVector
  dsimp only
  rw [mem_foldl fun s t => by simp]
  simp

@[simp] theorem mem_withdrawMatrix (t : Nat) (s : State) : (withdrawMatrix t s).mem = s.mem := by simp [withdrawMatrix]

@[simp] theorem mem_takeThread (t : Nat) (s : State) : (takeThread t s).2.mem = s.mem := by
  unfold takeThread
  dsimp only
  rw [mem_setTh]
  split <;> split <;> (try split) <;> simp

@[simp] theorem mem_takeThreads (ts : List Nat) (s : State) : (takeThreads ts s).2.mem = s.mem :=
  foldl_rel (R := fun r r' : Sp Thread × State => r'.2.mem = r.2.mem) (fun _ => rfl) (fun _ _ _ h k => k.trans h) (fun r t => mem_takeThread t r.2) ts ([], s)

@[simp] theorem mem_drainParcel (s : State) (e : Instr) : (drainParcel s e).mem = s.mem := by
  unfold drainParcel
  split <;> (try split) <;> simp

@[simp] theorem mem_loadCore (s : State) (e : Nat × CoreSt) : (loadCore s e).mem = s.mem := (rfl)

@[simp] theorem mem_switchDone (p : Nat) (s : State) : (switchDone p s).mem = s.mem := (rfl)

@[simp] theorem mem_afterStop (p : Nat) (s : State) : (afterStop p s).mem = s.mem := by simp [afterStop]

@[simp] theorem mem_handOut (s : State) (t : Nat) : (handOut s t).mem = s.mem := by
  unfold handOut
  dsimp only
  split
  · rfl
  · split <;> simp

@[simp] theorem mem_reportError (e : ErrRec) (s : State) : (reportError e s).mem = s.mem := by simp [reportError]

@[simp] theorem mem_reportHeld (s : State) : (reportHeld s).mem = s.mem := mem_foldl (fun s a => by simp) _ _

@[simp] theorem mem_mapErrors (f : ErrRec → ErrRec) (s : State) : (mapErrors f s).mem = s.mem := (rfl)

@[simp] theorem mem_startTest (lane : Bool) (unit row : Nat) (corrected : Bool) (s : State) : (startTest lane unit row corrected s).mem = s.mem := by
  unfold startTest
  split <;> simp

@[simp] theorem mem_endTest (r : ErrRec) (state : Nat) (s : State) : (endTest r state s).mem = s.mem := by simp [endTest]

@[simp] theorem mem_holdPort (port : Nat) (s : State) : (holdPort port s).mem = s.mem := by simp [holdPort]

@[simp] theorem mem_releasePort (port : Nat) (s : State) : (releasePort port s).mem = s.mem := by
  unfold releasePort
  dsimp only
  split
  · rfl
  · exact mem_foldl (fun s r => by simp) _ _

@[simp] theorem mem_failLoads (hit : Nat → Nat → Bool) (t : Nat) (s : State) : (failLoads hit t s).mem = s.mem := mem_foldl (fun s a => by simp) _ _

@[simp] theorem mem_wakeNow (w : FwWake) (s : State) : (wakeNow w s).mem = s.mem := (rfl)

@[simp] theorem mem_holdWake (q : Nat) (host : Bool) (s : State) : (holdWake q host s).mem = s.mem := (rfl)

@[simp] theorem mem_askedMapping (q : Nat) (s : State) : (askedMapping q s).mem = s.mem := mem_foldl (fun s n => by simp) _ s

@[simp] theorem mem_sendSpdm (n : Nat) : ∀ (bs : List Byte) (s : State), (sendSpdm n bs s).mem = s.mem := by
  induction n with
  | zero => exact fun _ _ => rfl
  | succ n ih =>
    intro bs s
    unfold sendSpdm
    dsimp only
    split <;> simp [ih]

@[simp] theorem mem_spdmAnswer (req body : List Byte) (signed : Bool) (s : State) : (spdmAnswer req body signed s).mem = s.mem := by simp [spdmAnswer]

@[simp] theorem mem_resumeFetch (s : State) : (resumeFetch s).mem = s.mem := by
  unfold resumeFetch
  dsimp only
  rw [mem_foldl fun s e => by simp, mem_foldl fun s q => by simp]

@[simp] theorem mem_endUpdate (result : Nat) (s : State) : (endUpdate result s).mem = s.mem := by simp [endUpdate]

@[simp] theorem mem_startUpdate (s : State) : (startUpdate s).mem = s.mem := by simp [startUpdate]

@[simp] theorem mem_startImages (s : State) : (startImages s).mem = s.mem := (rfl)

@[simp] theorem mem_updateStep (s : State) : (updateStep s).mem = s.mem := by
  unfold updateStep
  split <;> simp

@[simp] theorem mem_arrivalOf (m : MFrame) (s : State) : (arrivalOf m s).2.mem = s.mem := by
  unfold arrivalOf
  dsimp only
  split <;> rfl

@[simp] theorem mem_startDisable (s : State) : (startDisable s).mem = s.mem := by simp [startDisable]

@[simp] theorem mem_enableFunctions (s : State) : (enableFunctions s).mem = s.mem := by simp [enableFunctions]

@[simp] theorem mem_resumeHalted (ctx : Nat) (s : State) : (resumeHalted ctx s).mem = s.mem := mem_foldl (fun s a => by simp) _ _

@[simp] theorem mem_blockWrite (fn : HostFn) (o : Nat) (v : Word) (s : State) : (blockWrite fn o v s).mem = s.mem := by
  unfold blockWrite
  split <;> simp

@[simp] theorem mem_gangWrite (fn : HostFn) (part : Nat) (ctl : Bool) (v : Word) (s : State) : (gangWrite fn part ctl v s).mem = s.mem := by simp [gangWrite]

@[simp] theorem mem_keyOnly (fn : HostFn) (s : State) : (keyOnly fn s).mem = s.mem := by simp [keyOnly]

@[simp] theorem mem_contextWrite (fn : HostFn) (o : Nat) (v : Word) (s : State) : (contextWrite fn o v s).mem = s.mem := by
  unfold contextWrite
  (repeat' split) <;> simp

@[simp] theorem mem_registerRead (fn : HostFn) (off_ : Nat) (s : State) : (registerRead fn off_ s).mem = s.mem := by
  unfold registerRead
  (repeat' split) <;> simp

@[simp] theorem mem_sendChunk (node m : Nat) (c : Chunk) (f : Member → Member) (s : State) : (sendChunk node m c f s).mem = s.mem := by simp [sendChunk]

@[simp] theorem mem_countTurn (s0 s : State) : (countTurn s0 s).mem = s.mem := by
  unfold countTurn
  dsimp only
  (repeat' split) <;> simp

@[simp] theorem mem_ungrantWord (t : Nat) (w : Wait) (s : State) : (ungrantWord t w s).mem = s.mem := by
  unfold ungrantWord
  split <;> simp

@[simp] theorem mem_ageThreads (s : State) : (ageThreads s).mem = s.mem := mem_foldl (fun s a => by simp) _ _

@[simp] theorem mem_ageCore (s : State) (core : Nat) : (ageCore s core).mem = s.mem := by simp [ageCore]

@[simp] theorem mem_ageStreams (s : State) : (ageStreams s).mem = s.mem := mem_foldl (fun s a => by simp) _ _

@[simp] theorem mem_fireStamps (s : State) : (fireStamps s).mem = s.mem := mem_foldl (fun s a => by simp) _ _

@[simp] theorem mem_joinBehind (s : State) : (joinBehind s).mem = s.mem := by
  have hjoin : ∀ (s : State) (tag : Nat) (w : Option Nat), (match w with | some w => joinTag tag w s | none => s).mem = s.mem := fun s tag w => by
    split <;> simp
  unfold joinBehind
  dsimp only
  split
  · rfl
  · refine mem_foldl (fun s e => ?_) _ s
    split
    · split
      · rfl
      · exact hjoin ..
    · split
      · rfl
      · exact hjoin ..
    · split
      · exact hjoin ..
      · rfl
    · exact hjoin ..
    · rfl

@[simp] theorem mem_tick (s : State) : (tick s).mem = s.mem := by
  unfold tick
  dsimp only
  rw [mem_foldl fun s e => by simp, mem_fireStamps]
  simp only [mem_ageStreams]
  rw [mem_foldl fun s c => by simp]
  simp

end Sys2Proof.Machine
end

section
/-! Memory (O18, O60): what an instruction or an event leaves of it. The shared ways to reach an operand keep whatever the rest keeps (Onto); most
instructions and events keep every byte (Keeps). -/

namespace Sys2Proof.Machine

open Sys2Proof.Claims

/-- A property of the memory that an instruction or an event leaves, where there is a next state. -/
def Onto (Q : Sp Byte → Prop) : Out → Prop
  | .next t => Q t.mem
  | _ => True

/-- The memory that an instruction or an event leaves is m. -/
def Keeps (m : Sp Byte) (o : Out) : Prop := Onto (· = m) o

theorem Keeps.onto {m : Sp Byte} {Q : Sp Byte → Prop} {o : Out} (h : Keeps m o) (hQ : Q m) : Onto Q o := by
  cases o with
  | next t => exact show Q t.mem from (show t.mem = m from h) ▸ hQ
  | fault r => trivial
  | refused r => trivial

@[simp] theorem keeps_next (m : Sp Byte) (t : State) : Keeps m (.next t) ↔ t.mem = m := Iff.rfl

@[simp] theorem keeps_ite (m : Sp Byte) (c : Prop) [Decidable c] (a b : Out) : Keeps m (if c then a else b) ↔ (c → Keeps m a) ∧ (¬ c → Keeps m b) := by
  split <;> simp_all

@[simp] theorem keeps_trapHere {m : Sp Byte} (cause reason : Nat) (tval : Word) {s : State} (h : s.mem = m) : Keeps m (trapHere cause reason tval s) := by
  simp [trapHere, h]

@[simp] theorem keeps_illegal {m : Sp Byte} (base : BitVec 32) {s : State} (h : s.mem = m) : Keeps m (illegal base s) := keeps_trapHere _ _ _ h

theorem onto_unlessFault {Q : Sp Byte → Prop} {s0 : State} (h : Q s0.mem) (n : Nat) {o : Out} (ho : Onto Q o) : Onto Q (unlessFault s0 n o) := by
  unfold unlessFault
  split
  · exact (keeps_trapHere _ _ _ rfl).onto h
  · exact ho

@[simp] theorem keeps_unlessFault {m : Sp Byte} {s0 : State} (h : s0.mem = m) (n : Nat) {o : Out} (ho : Keeps m o) : Keeps m (unlessFault s0 n o) :=
  onto_unlessFault h n ho

@[simp] theorem keeps_exact {m : Sp Byte} (i : TrapInfo) {s : State} (h : s.mem = m) : Keeps m (exact i s) := keeps_trapHere _ _ _ h

@[simp] theorem keeps_exactAt {m : Sp Byte} (n : Nat) (i : TrapInfo) {s : State} (h : s.mem = m) : Keeps m (exactAt n i s) :=
  keeps_unlessFault h n (keeps_exact i h)

theorem onto_done {Q : Sp Byte → Prop} {s0 s : State} (h0 : Q s0.mem) (h : Q s.mem) (n : Nat) (q : Bool) : Onto Q (done s0 n q s) :=
  show Q (retire s0 n q s).mem from (mem_retire_cases s0 n q s).elim (fun e => e ▸ h) (fun e => e ▸ h0)

@[simp] theorem keeps_done {m : Sp Byte} {s0 s : State} (h0 : s0.mem = m) (h : s.mem = m) (n : Nat) (q : Bool) : Keeps m (done s0 n q s) := onto_done h0 h n q

theorem onto_lateResult {Q : Sp Byte → Prop} {s0 s : State} (h0 : Q s0.mem) (h : Q s.mem) (n : Nat) (q : Bool) (d : Reg) (v : Word) :
    Onto Q (lateResult s0 n q d v s) := onto_done h0 (show Q (addLate d v s).mem from h) n q

theorem onto_withRegs {Q : Sp Byte → Prop} {s : State} (h : Q s.mem) (srcs dst : List Reg) {act : State → Out}
    (ha : ∀ s1 : State, s1.mem = s.mem → Onto Q (act s1)) : Onto Q (withRegs srcs dst s act) := by
  unfold withRegs
  split
  · exact show Q _ by simpa using h
  · exact ha _ (mem_foldl (fun s r => mem_deq ..) _ s)

theorem keeps_withRegs {m : Sp Byte} {s : State} (h : s.mem = m) {srcs dst : List Reg} {act : State → Out}
    (ha : ∀ s1 : State, s1.mem = m → Keeps m (act s1)) : Keeps m (withRegs srcs dst s act) := onto_withRegs h srcs dst fun s1 h1 => ha s1 (h1.trans h)

theorem onto_withEntry {Q : Sp Byte → Prop} {s0 s : State} (h0 : Q s0.mem) {act : Nat → State → Out}
    (ha : ∀ e (s1 : State), s1.mem = s.mem → Onto Q (act e s1)) : Onto Q (withEntry s0 s act) := by
  unfold withEntry
  split
  · exact show Q _ by simpa using h0
  · exact ha _ _ rfl

theorem onto_withPlace {Q : Sp Byte → Prop} {s0 s : State} (h0 : Q s0.mem) (n : Nat) (a : Word) (k : Nat) (need : Need) {act : Place → Out}
    (ha : ∀ p, Onto Q (act p)) : Onto Q (withPlace s0 s n a k need act) := by
  unfold withPlace
  dsimp only
  split
  · split
    · exact (keeps_exactAt _ _ rfl).onto h0
    · exact show Q _ by simpa using h0
  · split
    · exact (keeps_exactAt _ _ rfl).onto h0
    · split
      · exact h0
      · exact ha _

theorem onto_withPosted {Q : Sp Byte → Prop} {s0 s : State} (h0 : Q s0.mem) (h : Q s.mem) (n opk : Nat) (q : Bool) (addr caddr : Word) (size : Nat) (a : Word)
    (k : Nat) (need : Need) {act : Place → Out} (ha : ∀ p, Onto Q (act p)) : Onto Q (withPosted s0 s n opk q addr caddr size a k need act) := by
  unfold withPosted
  dsimp only
  split
  · split
    · exact onto_withEntry h0 fun e s1 h1 => onto_done h0 (show Q _ by simpa [h1] using h) ..
    · exact show Q _ by simpa using h0
  · split
    · exact (keeps_exactAt _ _ rfl).onto h0
    · exact ha _

theorem onto_withMemory {Q : Sp Byte → Prop} {s0 s : State} (h0 : Q s0.mem) (h : Q s.mem) (n : Nat) (q : Bool) (a : Word) (migrates reads : Bool)
    (ps : List Piece) {act : State → Out} (ha : ∀ s1 : State, s1.mem = s.mem → Onto Q (act s1)) : Onto Q (withMemory s0 s n q a migrates reads ps act) := by
  have hturn : ((wordsOf ps).foldl (fun s w => passResv s.me w s) (modTh s s.me fun th => { th with stay := false })).mem = s.mem :=
    (mem_foldl (fun s w => mem_passResv ..) _ _).trans (mem_modTh ..)
  have hrefused : ∀ (pc : Word) (k : Nat) (i : TrapInfo), Onto Q (done s0 n q (refuse s.me pc k i
      ((wordsOf ps).foldl (fun s w => passResv s.me w s) (modTh s s.me fun th => { th with stay := false })))) := fun pc k i =>
    onto_done h0 (show Q _ by rw [mem_refuse, hturn]; exact h) ..
  unfold withMemory
  split
  · exact h0
  · split
    · split
      · exact show Q _ by simpa using h0
      · exact show Q _ by simpa using h0
    · split
      · exact onto_unlessFault h0 _ (show Q _ by simpa using h0)
      · dsimp only
        split
        · exact hrefused ..
        · split
          · exact hrefused ..
          · exact ha _ hturn

theorem onto_withWord {Q : Sp Byte → Prop} {s0 s1 : State} (h0 : Q s0.mem) (h : Q s1.mem) (n : Nat) (q : Bool) (x : Word) (disp : Int) (k : Nat)
    (migrates reads : Bool) (bad : Nat → Bool) {act : Word → Nat → List Piece → State → Out}
    (ha : ∀ ea key ps (s2 : State), s2.mem = s1.mem → Onto Q (act ea key ps s2)) : Onto Q (withWord s0 s1 n q x disp k migrates reads bad act) := by
  unfold withWord
  dsimp only
  split
  · exact (keeps_exactAt _ _ rfl).onto h0
  · split
    · exact (keeps_exactAt _ _ rfl).onto h0
    · refine onto_withPlace h0 _ _ _ _ fun p => ?_
      split
      · split
        · exact (keeps_exactAt _ _ rfl).onto h0
        · split
          · exact h0
          · exact onto_withMemory h0 h _ _ _ _ _ _ fun s2 h2 => ha _ _ _ s2 h2
      · exact (keeps_exactAt _ _ rfl).onto h0

theorem onto_endName {Q : Sp Byte → Prop} (d : Reg) (addr : Word) {store : List Byte → State → State} {s0 s : State} {o : TxOut} (h0 : Q s0.mem) (h : Q s.mem)
    (hstore : ∀ bytes, Q (store bytes s).mem) (ho : o.Onto Q) : Onto Q (endName d addr store s0 s o) := by
  cases o with
  | fail r i => exact onto_lateResult h0 h ..
  | done v s1 => exact onto_lateResult h0 ho ..
  | stat bytes => exact onto_lateResult h0 (hstore bytes) ..
  | wait rid s1 => exact onto_unlessFault h0 _ (show Q _ by simpa using show Q s1.mem from ho)
  | away f v data => exact onto_unlessFault h0 _ (show Q _ by simpa using h)
  | miss n i => exact show Q _ by simpa using h0

theorem onto_withRecord {Q : Sp Byte → Prop} {s0 s : State} (h0 : Q s0.mem) (a : Word) (align n : Nat) (need : Need) {act : Place → Out}
    (ha : ∀ p, Onto Q (act p)) : Onto Q (withRecord s0 s a align n need act) := by
  unfold withRecord
  split
  · exact (keeps_exactAt _ _ rfl).onto h0
  · refine onto_withPlace h0 _ _ _ _ fun p => ?_
    split
    · exact (keeps_exactAt _ _ rfl).onto h0
    · exact ha _

theorem onto_readRecord {Q : Sp Byte → Prop} {s0 s : State} (h0 : Q s0.mem) (h : Q s.mem) (q : Bool) (a : Word) (align n : Nat) {act : List Byte → State → Out}
    (ha : ∀ bs (s1 : State), s1.mem = s.mem → Onto Q (act bs s1)) : Onto Q (readRecord s0 s q a align n act) := by
  refine onto_withRecord h0 _ _ _ _ fun p => ?_
  cases p with
  | mem ps => exact onto_withMemory h0 h _ _ _ _ _ _ fun s1 h1 => ha _ _ ((mem_loadPieces ..).trans h1)
  | unit node kind o gen =>
    dsimp only
    split
    · exact onto_done h0 (show Q _ by simpa using h) ..
    · exact ha _ _ rfl
  | table o => exact ha _ _ rfl
  | peer k => exact (keeps_exactAt _ _ rfl).onto h0

theorem onto_withPath {Q : Sp Byte → Prop} {s0 s : State} (h0 : Q s0.mem) (h : Q s.mem) (q : Bool) (d : Reg) (a : Word) (single : Bool)
    {act : List Byte → State → Out} (ha : ∀ bs (s1 : State), s1.mem = s.mem → Onto Q (act bs s1)) : Onto Q (withPath s0 s q d a single act) := by
  refine onto_readRecord h0 h _ _ _ _ fun head s1 h1 => ?_
  have hs1 : Q s1.mem := h1 ▸ h
  dsimp only
  split
  · exact onto_lateResult h0 hs1 ..
  · split
    · exact (keeps_exactAt _ _ rfl).onto h0
    · exact onto_readRecord h0 hs1 _ _ _ _ fun rest s2 h2 => ha _ s2 (h2.trans h1)

theorem onto_withOperand {Q : Sp Byte → Prop} (d : Reg) (v : Word) {s0 s : State} (h0 : Q s0.mem) (h : Q s.mem) {act : Nat → Out} (ha : ∀ n, Onto Q (act n)) :
    Onto Q (withOperand d v s0 s act) := by
  unfold withOperand
  split
  · exact onto_lateResult h0 h ..
  · exact ha _

theorem onto_withBar {Q : Sp Byte → Prop} {s0 s1 : State} (h0 : Q s0.mem) (h : Q s1.mem) (q : Bool) (a : Word) {act : List Piece → State → Out}
    (ha : ∀ ps (s2 : State), s2.mem = s1.mem → Onto Q (act ps s2)) : Onto Q (withBar s0 s1 q a act) := by
  unfold withBar
  dsimp only
  split
  · exact (keeps_exactAt _ _ rfl).onto h0
  · split
    · split <;> exact (keeps_exactAt _ _ rfl).onto h0
    · split
      · exact (keeps_exactAt _ _ rfl).onto h0
      · split
        · exact (keeps_exactAt _ _ rfl).onto h0
        · split
          · exact (keeps_exactAt _ _ rfl).onto h0
          · exact onto_withMemory h0 h _ _ _ _ _ _ fun s2 h2 => ha _ s2 h2

theorem onto_endHost {Q : Sp Byte → Prop} (fn : HostFn) (x : Tx) (e : Instr) {store : List Byte → State → Out} {s : State} {o : TxOut} (h : Q s.mem)
    (hstore : ∀ bytes, Onto Q (store bytes s)) (ho : o.Onto Q) : Onto Q (endHost fn x e store s o) := by
  cases o with
  | fail r i => exact show Q _ by simpa using h
  | done v s1 => exact show Q _ by simpa using show Q s1.mem from ho
  | stat bytes => exact hstore bytes
  | wait rid s1 => exact ho
  | away f v data =>
    unfold endHost
    dsimp only
    split <;> exact show Q _ by simpa using h
  | miss n i => exact show Q _ by simpa using h

theorem onto_hostTx {Q : Sp Byte → Prop} (fn : HostFn) (rev2 : Bool) (e : Instr) {s : State} (h : Q s.mem) {act : Tx → TxOut} (ha : ∀ x, (act x).Onto Q) :
    Onto Q (hostTx fn rev2 e s act) := by
  unfold hostTx
  split
  · exact show Q _ by simpa using h
  · exact onto_endHost _ _ _ h (fun bytes => show Q _ by simpa using h) (tx_fwGrant _ _ _ (ha _))

theorem onto_hostAccess {Q : Sp Byte → Prop} (fn : HostFn) (a : Word) (n : Nat) (need : Need) (kind : Nat) (data : List Byte) (e : Instr) {s : State}
    (h : Q s.mem) {act : Tx → Place → Out} (ha : ∀ x p, Onto Q (act x p)) : Onto Q (hostAccess fn a n need kind data e s act) := by
  have hif : ∀ (c : Prop) [Decidable c] {st : Nat} {o : Out}, Onto Q o → Onto Q (if c then .next (reply fn st 0 [] s) else o) := fun c _ st o ho => by
    split
    · exact show Q _ by simpa using h
    · exact ho
  unfold hostAccess
  dsimp only
  split
  · exact show Q _ by simpa using h
  · split
    · exact show Q _ by simpa using h
    · split
      · exact show Q _ by simpa using h
      · split <;> exact show Q _ by simpa using h
      · exact hif _ (hif _ (ha _ _))

theorem onto_withWindow {Q : Sp Byte → Prop} (base : BitVec 32) {s : State} (h : Q s.mem) {act : State → Out}
    (ha : ∀ s1 : State, s1.mem = s.mem → Onto Q (act s1)) : Onto Q (withWindow base s act) := by
  unfold withWindow
  split
  · exact (keeps_illegal _ rfl).onto h
  · exact ha _ (mem_endCapture ..)

theorem keeps_withWindow {m : Sp Byte} (base : BitVec 32) {s : State} (h : s.mem = m) {act : State → Out}
    (ha : ∀ s1 : State, s1.mem = m → Keeps m (act s1)) : Keeps m (withWindow base s act) := onto_withWindow base h fun s1 h1 => ha s1 (h1.trans h)

theorem onto_withMessage {Q : Sp Byte → Prop} (type : Nat) {s : State} (h : Q s.mem) {act : List Byte → State → State} (ha : ∀ m, Q (act m s).mem) :
    Onto Q (withMessage type s act) := by
  unfold withMessage
  split
  · exact show Q _ from (mem_takeMessage _).symm ▸ ha _
  · exact h

theorem onto_withStream {Q : Sp Byte → Prop} (q : Bool) (x : Word) (need : Need) {s0 s : State} (h0 : Q s0.mem) (h : Q s.mem) {act : Nat → Out}
    (ha : ∀ node, Onto Q (act node)) : Onto Q (withStream q x need s0 s act) := by
  unfold withStream
  extract_lets w
  generalize hostMiss s w.unit w.ctx (hdl x) = miss
  generalize resolve s w (mkAddr (hdl x) 0) 0 need = place
  cases miss with
  | some node =>
    refine show Onto Q (if (cur s0).wait = .missed node then _ else _) from ?_
    split
    · exact (keeps_exactAt _ _ rfl).onto h0
    · exact show Q _ by simpa using h0
  | none =>
    cases place with
    | error i => exact (keeps_exactAt _ _ rfl).onto h0
    | ok p =>
      dsimp only
      split
      · exact (keeps_exactAt _ _ rfl).onto h0
      · split
        · exact (keeps_exactAt _ _ rfl).onto h0
        · split
          · exact onto_done h0 (show Q _ by simpa using h) ..
          · exact ha _
      · exact (keeps_exactAt _ _ rfl).onto h0

theorem onto_withMember {Q : Sp Byte → Prop} (q : Bool) (d : Reg) (node : Nat) {s0 s : State} (h0 : Q s0.mem) (h : Q s.mem) {act : Nat → Member → Out}
    (ha : ∀ m k, Onto Q (act m k)) : Onto Q (withMember q d node s0 s act) := by
  unfold withMember
  split
  · exact onto_lateResult h0 h ..
  · dsimp only
    split
    · exact onto_lateResult h0 h ..
    · exact ha _ _

theorem onto_withSource {Q : Sp Byte → Prop} (q : Bool) (o n : Nat) {s0 s : State} (h0 : Q s0.mem) (h : Q s.mem) {act : List Byte → State → Out}
    (ha : ∀ bs (s1 : State), s1.mem = s.mem → Onto Q (act bs s1)) : Onto Q (withSource q o n s0 s act) := by
  unfold withSource
  dsimp only
  split
  · exact ha _ _ rfl
  · split
    · exact (keeps_exactAt _ _ rfl).onto h0
    · split
      · exact (keeps_exactAt _ _ rfl).onto h0
      · exact onto_withMemory h0 h _ _ _ _ _ _ fun s1 h1 => ha _ s1 h1

/-! The same of the memory that an instruction keeps. -/

section

variable {m : Sp Byte} {s0 s s1 : State}

theorem keeps_withEntry (h0 : s0.mem = m) (h : s.mem = m) {act : Nat → State → Out} (ha : ∀ e (s1 : State), s1.mem = m → Keeps m (act e s1)) :
    Keeps m (withEntry s0 s act) := onto_withEntry h0 fun e s1 h1 => ha e s1 (h1.trans h)

theorem keeps_withPlace (h0 : s0.mem = m) {n : Nat} {a : Word} {k : Nat} {need : Need} {act : Place → Out} (ha : ∀ p, Keeps m (act p)) :
    Keeps m (withPlace s0 s n a k need act) := onto_withPlace h0 n a k need ha

theorem keeps_withPosted (h0 : s0.mem = m) (h : s.mem = m) {n opk : Nat} {q : Bool} {addr caddr : Word} {size : Nat} {a : Word} {k : Nat} {need : Need}
    {act : Place → Out} (ha : ∀ p, Keeps m (act p)) : Keeps m (withPosted s0 s n opk q addr caddr size a k need act) :=
  onto_withPosted h0 h n opk q addr caddr size a k need ha

theorem keeps_withMemory (h0 : s0.mem = m) (h : s.mem = m) {n : Nat} {q : Bool} {a : Word} {migrates reads : Bool} {ps : List Piece} {act : State → Out}
    (ha : ∀ s1 : State, s1.mem = m → Keeps m (act s1)) : Keeps m (withMemory s0 s n q a migrates reads ps act) :=
  onto_withMemory h0 h n q a migrates reads ps fun s1 h1 => ha s1 (h1.trans h)

theorem keeps_withWord (h0 : s0.mem = m) (h : s1.mem = m) {n : Nat} {q : Bool} {x : Word} {disp : Int} {k : Nat} {migrates reads : Bool} {bad : Nat → Bool}
    {act : Word → Nat → List Piece → State → Out} (ha : ∀ ea key ps (s2 : State), s2.mem = m → Keeps m (act ea key ps s2)) :
    Keeps m (withWord s0 s1 n q x disp k migrates reads bad act) :=
  onto_withWord h0 h n q x disp k migrates reads bad fun ea key ps s2 h2 => ha ea key ps s2 (h2.trans h)

theorem keeps_endName (d : Reg) (addr : Word) {o : TxOut} (h0 : s0.mem = m) (h : s.mem = m) (ho : o.Onto (· = m)) :
    Keeps m (endName d addr noStore s0 s o) := onto_endName d addr h0 h (fun _ => h) ho

theorem keeps_withPath (h0 : s0.mem = m) (h : s.mem = m) {q : Bool} {d : Reg} {a : Word} {single : Bool} {act : List Byte → State → Out}
    (ha : ∀ bs (s1 : State), s1.mem = m → Keeps m (act bs s1)) : Keeps m (withPath s0 s q d a single act) :=
  onto_withPath h0 h q d a single fun bs s1 h1 => ha bs s1 (h1.trans h)

theorem keeps_withOperand (h0 : s0.mem = m) (h : s.mem = m) {d : Reg} {v : Word} {act : Nat → Out} (ha : ∀ n, Keeps m (act n)) :
    Keeps m (withOperand d v s0 s act) := onto_withOperand d v h0 h ha

theorem keeps_withStream (h0 : s0.mem = m) (h : s.mem = m) {q : Bool} {x : Word} {need : Need} {act : Nat → Out} (ha : ∀ node, Keeps m (act node)) :
    Keeps m (withStream q x need s0 s act) := onto_withStream q x need h0 h ha

theorem keeps_withMember (h0 : s0.mem = m) (h : s.mem = m) {q : Bool} {d : Reg} {node : Nat} {act : Nat → Member → Out} (ha : ∀ k x, Keeps m (act k x)) :
    Keeps m (withMember q d node s0 s act) := onto_withMember q d node h0 h ha

theorem keeps_withSource (h0 : s0.mem = m) (h : s.mem = m) {q : Bool} {o n : Nat} {act : List Byte → State → Out}
    (ha : ∀ bs (s1 : State), s1.mem = m → Keeps m (act bs s1)) : Keeps m (withSource q o n s0 s act) :=
  onto_withSource q o n h0 h fun bs s1 h1 => ha bs s1 (h1.trans h)

theorem keeps_hostTx (fn : HostFn) (rev2 : Bool) (e : Instr) (h : s.mem = m) {act : Tx → TxOut} (ha : ∀ x, (act x).Onto (· = m)) :
    Keeps m (hostTx fn rev2 e s act) := onto_hostTx fn rev2 e h ha

theorem keeps_withMessage (type : Nat) (h : s.mem = m) {act : List Byte → State → State} (ha : ∀ b, (act b s).mem = s.mem) :
    Keeps m (withMessage type s act) := onto_withMessage (Q := (· = m)) type h fun b => (ha b).trans h

end

@[simp] theorem keeps_travelFirst {m : Sp Byte} {s0 : State} (h0 : s0.mem = m) (target : Word) (pops : Bool) (s : State) {o : Out} (ho : Keeps m o) :
    Keeps m (travelFirst s0 target pops s o) := by
  unfold travelFirst
  extract_lets th
  split <;> simp [h0, ho]

@[simp] theorem keeps_misaligned {m : Sp Byte} {s0 : State} (hs0 : s0.mem = m) (target : Word) (pops : Bool) (s : State) :
    Keeps m (misaligned s0 target pops s) := by simp [misaligned, hs0]

@[simp] theorem keeps_result {m : Sp Byte} {s0 : State} (hs0 : s0.mem = m) (len : Nat) (q : Bool) (d : Reg) (v : Word) {s : State} (hs : s.mem = m) :
    Keeps m (result s0 len q d v s) := by simp [result, hs0, hs]

@[simp] theorem keeps_lateResult {m : Sp Byte} {s0 : State} (hs0 : s0.mem = m) (len : Nat) (q : Bool) (d : Reg) (v : Word) {s : State} (hs : s.mem = m) :
    Keeps m (lateResult s0 len q d v s) := by simp [lateResult, hs0, hs]

@[simp] theorem keeps_branch {m : Sp Byte} (len : Nat) (q : Bool) (c : BrCond) (a : Reg) (b : Reg) (disp : Int) (live : Option (BitVec 15)) {s : State}
    (hs : s.mem = m) :
    Keeps m (branch len q c a b disp live s) := by
  refine keeps_withRegs hs fun s1 h1 => ?_
  split <;> (try split) <;> simp [h1, hs]

@[simp] theorem keeps_execBEq {m : Sp Byte} (q : Bool) (a : Reg) (b : Reg) (i : BitVec 12) {s : State} (hs : s.mem = m) :
    Keeps m (execBEq q a b i s) := by simp [execBEq, hs]

@[simp] theorem keeps_execBNe {m : Sp Byte} (q : Bool) (a : Reg) (b : Reg) (i : BitVec 12) {s : State} (hs : s.mem = m) :
    Keeps m (execBNe q a b i s) := by simp [execBNe, hs]

@[simp] theorem keeps_execBLt {m : Sp Byte} (q : Bool) (a : Reg) (b : Reg) (i : BitVec 12) {s : State} (hs : s.mem = m) :
    Keeps m (execBLt q a b i s) := by simp [execBLt, hs]

@[simp] theorem keeps_execBGe {m : Sp Byte} (q : Bool) (a : Reg) (b : Reg) (i : BitVec 12) {s : State} (hs : s.mem = m) :
    Keeps m (execBGe q a b i s) := by simp [execBGe, hs]

@[simp] theorem keeps_execBLtn {m : Sp Byte} (q : Bool) (a : Reg) (b : Reg) (i : BitVec 12) {s : State} (hs : s.mem = m) :
    Keeps m (execBLtn q a b i s) := by simp [execBLtn, hs]

@[simp] theorem keeps_execBGen {m : Sp Byte} (q : Bool) (a : Reg) (b : Reg) (i : BitVec 12) {s : State} (hs : s.mem = m) :
    Keeps m (execBGen q a b i s) := by simp [execBGen, hs]

@[simp] theorem keeps_execBBs {m : Sp Byte} (q : Bool) (a : Reg) (b : Reg) (i : BitVec 12) {s : State} (hs : s.mem = m) :
    Keeps m (execBBs q a b i s) := by simp [execBBs, hs]

@[simp] theorem keeps_execBBc {m : Sp Byte} (q : Bool) (a : Reg) (b : Reg) (i : BitVec 12) {s : State} (hs : s.mem = m) :
    Keeps m (execBBc q a b i s) := by simp [execBBc, hs]

@[simp] theorem keeps_execBCondX {m : Sp Byte} (q : Bool) (a : Reg) (b : Reg) (c : BrCond) (disp : BitVec 32) (live : BitVec 15) {s : State} (hs : s.mem = m) :
    Keeps m (execBCondX q a b c disp live s) := by simp [execBCondX, hs]

@[simp] theorem keeps_jumpDisp {m : Sp Byte} (q : Bool) (disp : Int) (live : Option (BitVec 15)) {s : State} (hs : s.mem = m) :
    Keeps m (jumpDisp q disp live s) := by
  unfold jumpDisp
  split <;> simp [hs]

@[simp] theorem keeps_execJ {m : Sp Byte} (q : Bool) (j : BitVec 23) {s : State} (hs : s.mem = m) : Keeps m (execJ q j s) := by simp [execJ, hs]

@[simp] theorem keeps_execJX {m : Sp Byte} (q : Bool) (disp : BitVec 32) (live : BitVec 15) {s : State} (hs : s.mem = m) :
    Keeps m (execJX q disp live s) := by simp [execJX, hs]

@[simp] theorem keeps_execJr {m : Sp Byte} (q : Bool) (a : Reg) (live : Option (BitVec 15)) {s : State} (hs : s.mem = m) :
    Keeps m (execJr q a live s) := keeps_withRegs hs fun s1 h1 => by simp [h1, hs]

@[simp] theorem keeps_execCallr {m : Sp Byte} (q : Bool) (a : Reg) (live : Option (BitVec 15)) {s : State} (hs : s.mem = m) : Keeps m (execCallr q a live s) := by
  refine keeps_withRegs hs fun s1 h1 => ?_
  split <;> simp [h1, hs]

@[simp] theorem keeps_execCall {m : Sp Byte} (q : Bool) (disp : BitVec 32) (live : BitVec 15) {s : State} (hs : s.mem = m) : Keeps m (execCall q disp live s) := by
  unfold execCall
  split <;> simp [hs]

@[simp] theorem keeps_execRet {m : Sp Byte} (q : Bool) (live : Option (BitVec 15)) {s : State} (hs : s.mem = m) : Keeps m (execRet q live s) := by simp [execRet, hs]

@[simp] theorem keeps_execLp {m : Sp Byte} (q : Bool) (a : Reg) (i : BitVec 15) {s : State} (hs : s.mem = m) : Keeps m (execLp q a i s) := by
  unfold execLp
  split
  · simp [hs]
  · refine keeps_withRegs hs fun s1 h1 => ?_
    extract_lets own c
    split
    · split <;> simp [h1, hs]
    · simp [hs]

/-- The segments of a put, each sent off. -/
theorem mem_foldl_sendOff (u : State) (pk : Packet) (p : Place) (addr : Word) (data : List Byte) (l : List (Nat × Nat)) (s : State) :
    (l.foldl (fun s g => sendOff u pk p addr g.1 ((data.drop g.1).take g.2) s) s).mem = s.mem := mem_foldl (fun _ _ => mem_sendOff ..) l s

theorem mem_foldl_passResv (t : Nat) (l : List Nat) (s : State) : (l.foldl (fun s w => passResv t w s) s).mem = s.mem := mem_foldl (fun _ _ => mem_passResv ..) l s

@[simp] theorem keeps_putOp {m : Sp Byte} (q : Bool) (action : Nat) (d a b : Reg) {s : State} (hs : s.mem = m) : Keeps m (putOp q action d a b s) := by
  refine keeps_withRegs hs fun s1 h1 => ?_
  extract_lets th dst n src ctr
  refine keeps_withPosted hs h1 fun p => ?_
  have hgo : Keeps m (match putSource s1 src n with
      | none => exactAt 4 ⟨2, 4, src⟩ s
      | some sp =>
        match resvBlocked s1 s.me (wordsOf (placePieces sp)) with
        | some word => unlessFault s 4 (.next (joinResv word (wordAddr src (placePieces sp) word) s))
        | none =>
          withEntry s s1 fun e s2 =>
            let (node, gen) := captured s1 dst
            let (cnode, cgen) := if action = 0 then (0, 0) else captured s1 ctr
            let segs := cuts 512 (n + 1) (off dst) 0 n
            let c := coreOf s.me
            let j := { newEntry s2 0 dst ctr gen n node with
              left := segs.length, action := action, value := if action = 0 then 0 else xr th (d + 1), cnode := cnode, cgen := cgen }
            let s3 := homeLoad c (placePieces sp) (setJ s2 c e j)
            let data := placeRead s1 (whoOf s1 s.me) n sp
            if (badWord s1 (placePieces sp)).isSome then done s 4 q (push (.postedAck c ⟨e, j.order⟩ (some ⟨7, src⟩)) s3)
            else
              let s4 := segs.foldl (fun s4 g => sendOff s1 (packetOf c e j) p j.addr g.1 ((data.drop g.1).take g.2) s4) s3
              done s 4 q ((wordsOf (placePieces sp)).foldl (fun s5 wd => passResv s.me wd s5) s4)) := by
    split
    · exact keeps_exactAt _ _ hs
    · split
      · exact keeps_unlessFault hs _ (by simp [hs])
      · refine keeps_withEntry hs h1 fun e s2 h2 => ?_
        dsimp only
        split
        · exact keeps_done hs (by simp [h2]) ..
        · exact keeps_done hs (by rw [mem_foldl_passResv, mem_foldl_sendOff]; simp [h2]) ..
  extract_lets go
  split
  · exact hgo
  · refine keeps_withPosted hs h1 fun _ => ?_
    split
    · exact keeps_exactAt _ _ hs
    · exact hgo

@[simp] theorem keeps_execPutAdd {m : Sp Byte} (q : Bool) (d : Reg) (a : Reg) (b : Reg) {s : State} (hs : s.mem = m) :
    Keeps m (execPutAdd q d a b s) := by simp [execPutAdd, hs]

@[simp] theorem keeps_execPutSet {m : Sp Byte} (q : Bool) (d : Reg) (a : Reg) (b : Reg) {s : State} (hs : s.mem = m) :
    Keeps m (execPutSet q d a b s) := by simp [execPutSet, hs]

@[simp] theorem keeps_execPutFill {m : Sp Byte} (q : Bool) (d : Reg) (a : Reg) (b : Reg) {s : State} (hs : s.mem = m) :
    Keeps m (execPutFill q d a b s) := by simp [execPutFill, hs]

@[simp] theorem keeps_execPutNc {m : Sp Byte} (q : Bool) (a : Reg) (b : Reg) {s : State} (hs : s.mem = m) : Keeps m (execPutNc q a b s) := by simp [execPutNc, hs]

@[simp] theorem keeps_postStore {m : Sp Byte} {s0 s : State} (h0 : s0.mem = m) (hs : s.mem = m) (len opk : Nat) (q : Bool) (a : Word) (data : List Byte)
    (p : Place) : Keeps m (postStore s0 s len opk q a data p) := by
  refine keeps_withEntry h0 hs fun e s1 h1 => ?_
  simp [h0, h1]

@[simp] theorem keeps_pstOp {m : Sp Byte} (len : Nat) (q : Bool) (r a : Reg) (z : StoreSize) (disp : Int) {s : State} (hs : s.mem = m) :
    Keeps m (pstOp len q r a z disp s) := by
  refine keeps_withRegs hs fun s1 h1 => ?_
  split
  · exact keeps_exactAt _ _ hs
  · exact keeps_withPosted hs h1 fun p => keeps_postStore hs h1 ..

@[simp] theorem keeps_execPst {m : Sp Byte} (q : Bool) (sreg : Reg) (a : Reg) (z : StoreSize) (i : BitVec 12) {s : State} (hs : s.mem = m) :
    Keeps m (execPst q sreg a z i s) := by simp [execPst, hs]

@[simp] theorem keeps_execPstX {m : Sp Byte} (q : Bool) (sreg : Reg) (a : Reg) (z : StoreSize) (disp : BitVec 32) {s : State} (hs : s.mem = m) :
    Keeps m (execPstX q sreg a z disp s) := by simp [execPstX, hs]

@[simp] theorem keeps_execBcopy {m : Sp Byte} (q : Bool) (d a b : Reg) {s : State} (hs : s.mem = m) : Keeps m (execBcopy q d a b s) := by
  refine keeps_withRegs hs fun s1 h1 => ?_
  extract_lets th len src dst
  split
  · exact keeps_done hs h1 ..
  · split
    · exact keeps_exactAt _ _ hs
    · refine keeps_withPosted hs h1 fun _ => keeps_withPosted hs h1 fun _ => keeps_withEntry hs h1 fun e s2 h2 => ?_
      simp [hs, h2]

@[simp] theorem keeps_loadOp {m : Sp Byte} (len : Nat) (q : Bool) (d a : Reg) (z : LoadSize) (disp : Int) {s : State} (hs : s.mem = m) :
    Keeps m (loadOp len q d a z disp s) := by
  refine keeps_withRegs hs fun s1 h1 => ?_
  split
  · exact keeps_exactAt _ _ hs
  · extract_lets n give
    have hgive : ∀ bs (s2 : State), s2.mem = m → Keeps m (give bs s2) := fun bs s2 h2 => keeps_lateResult hs _ _ _ _ h2
    refine keeps_withPlace hs fun p => ?_
    cases p with
    | mem ps => exact keeps_withMemory hs h1 fun s2 h2 => hgive _ _ ((mem_loadPieces ..).trans h2)
    | unit node kind o gen =>
      dsimp only
      split
      · simp [hs, h1]
      · exact hgive _ _ ((mem_meet ..).trans h1)
    | table o => exact hgive _ _ ((mem_meet ..).trans h1)
    | peer k =>
      dsimp only
      split <;> simp [hs, h1]

@[simp] theorem keeps_execLd {m : Sp Byte} (q : Bool) (d : Reg) (a : Reg) (z : LoadSize) (i : BitVec 12) {s : State} (hs : s.mem = m) :
    Keeps m (execLd q d a z i s) := by simp [execLd, hs]

@[simp] theorem keeps_execLdX {m : Sp Byte} (q : Bool) (d : Reg) (a : Reg) (z : LoadSize) (disp : BitVec 32) {s : State} (hs : s.mem = m) :
    Keeps m (execLdX q d a z disp s) := by simp [execLdX, hs]

@[simp] theorem keeps_joinList {m : Sp Byte} {s0 : State} (hs0 : s0.mem = m) {s1 : State} (hs1 : s1.mem = m) (ps : List Piece) (op : WaitOp) (a : Word)
    (d : Reg) (data : Word) (len : Nat) (q : Bool) :
    Keeps m (joinList s0 s1 ps op a d data len q) := by simp [joinList, hs0, hs1]

@[simp] theorem keeps_execLdPeek {m : Sp Byte} (q : Bool) (d a : Reg) (i : WordDisp) {s : State} (hs : s.mem = m) : Keeps m (execLdPeek q d a i s) := by
  unfold execLdPeek
  extract_lets len
  refine keeps_withRegs hs fun s1 h1 => keeps_withWord hs h1 fun ea key ps s2 h2 => ?_
  split <;> simp [hs, h2]

@[simp] theorem keeps_execFeRd {m : Sp Byte} (q : Bool) (d a : Reg) (i : WordDisp) {s : State} (hs : s.mem = m) : Keeps m (execFeRd q d a i s) := by
  unfold execFeRd
  extract_lets len
  exact keeps_withRegs hs fun s1 h1 => keeps_withWord hs h1 fun ea key ps s2 h2 => by simp [hs, h2]

@[simp] theorem keeps_execRsv {m : Sp Byte} (q : Bool) (d a : Reg) (i : WordDisp) {s : State} (hs : s.mem = m) : Keeps m (execRsv q d a i s) := by
  unfold execRsv
  extract_lets len
  exact keeps_withRegs hs fun s1 h1 => keeps_withWord hs h1 fun ea key ps s2 h2 =>
    keeps_lateResult hs _ _ _ _ ((mem_modTh ..).trans ((mem_homeStore ..).trans h2))

@[simp] theorem keeps_execReservationForward {m : Sp Byte} (key : Nat) {s : State} (hs : s.mem = m) : Keeps m (execReservationForward key s) := by
  unfold execReservationForward
  dsimp only
  split <;> simp [hs]

@[simp] theorem keeps_execHomeLoad {m : Sp Byte} (core : Nat) (line : Nat) (renew : Bool) {s : State} (hs : s.mem = m) :
    Keeps m (execHomeLoad core line renew s) := by simp [execHomeLoad, hs]

@[simp] theorem keeps_execHomeStore {m : Sp Byte} (core : Nat) (line : Nat) {s : State} (hs : s.mem = m) :
    Keeps m (execHomeStore core line s) := by simp [execHomeStore, hs]

@[simp] theorem keeps_execLlcEviction {m : Sp Byte} (line : Nat) {s : State} (hs : s.mem = m) : Keeps m (execLlcEviction line s) := by simp [execLlcEviction, hs]

@[simp] theorem keeps_execLlcFillReturn {m : Sp Byte} (line : Nat) {s : State} (hs : s.mem = m) :
    Keeps m (execLlcFillReturn line s) := by simp [execLlcFillReturn, hs]

@[simp] theorem keeps_execPtsTick {m : Sp Byte} (core : Nat) {s : State} (hs : s.mem = m) : Keeps m (execPtsTick core s) := by simp [execPtsTick, hs]

@[simp] theorem keeps_execWaitRetryPoll {m : Sp Byte} (t : Nat) {s : State} (hs : s.mem = m) : Keeps m (execWaitRetryPoll t s) := by
  unfold execWaitRetryPoll
  split <;> simp [hs]

@[simp] theorem keeps_execFilterInstall {m : Sp Byte} (rid quadrant : Nat) {s : State} (hs : s.mem = m) : Keeps m (execFilterInstall rid quadrant s) := by
  unfold execFilterInstall
  extract_lets r left s1
  split
  · exact hs
  · refine show State.mem _ = m from ?_
    split
    · exact (mem_foldl (fun s q => mem_push ..) _ s1).trans hs
    · exact hs

@[simp] theorem keeps_execKeyInvalidate {m : Sp Byte} (rid quadrant : Nat) {s : State} (hs : s.mem = m) : Keeps m (execKeyInvalidate rid quadrant s) := by
  unfold execKeyInvalidate
  extract_lets r stale s1
  split
  · exact hs
  · refine (mem_push ..).trans ((mem_foldl (fun s e => ?_) _ s).trans hs)
    split <;> simp

@[simp] theorem keeps_execJournalRetireReport {m : Sp Byte} (rid : Nat) (quadrant : Nat) {s : State} (hs : s.mem = m) :
    Keeps m (execJournalRetireReport rid quadrant s) := by simp [execJournalRetireReport, hs]

@[simp] theorem keeps_execNodeDestroy {m : Sp Byte} (node : Nat) {s : State} (hs : s.mem = m) : Keeps m (execNodeDestroy node s) := by simp [execNodeDestroy, hs]

@[simp] theorem keeps_execNwalk {m : Sp Byte} (q : Bool) (d a b : Reg) {s : State} (hs : s.mem = m) : Keeps m (execNwalk q d a b s) :=
  keeps_withRegs hs fun _ h1 => keeps_withPath hs h1 fun _ _ h2 => keeps_withOperand hs h2 fun _ => keeps_endName _ _ hs h2 (tx_txWalk _ _ _ _ h2)

@[simp] theorem keeps_execNopen {m : Sp Byte} (q : Bool) (d a b : Reg) {s : State} (hs : s.mem = m) : Keeps m (execNopen q d a b s) :=
  keeps_withRegs hs fun _ h1 => keeps_withOperand hs h1 fun _ => keeps_endName _ _ hs h1 (tx_txOpen _ _ _ h1)

@[simp] theorem keeps_execNclose {m : Sp Byte} (q : Bool) (d a : Reg) {s : State} (hs : s.mem = m) : Keeps m (execNclose q d a s) :=
  keeps_withRegs hs fun _ h1 => keeps_withOperand hs h1 fun _ => keeps_endName _ _ hs h1 (tx_txClose _ _ h1)

@[simp] theorem keeps_execNbind {m : Sp Byte} (q : Bool) (d a b : Reg) {s : State} (hs : s.mem = m) : Keeps m (execNbind q d a b s) :=
  keeps_withRegs hs fun _ h1 => keeps_withPath hs h1 fun _ _ h2 => keeps_endName _ _ hs h2 (tx_txBind _ _ _ h2)

@[simp] theorem keeps_execNunbind {m : Sp Byte} (q : Bool) (d a b : Reg) {s : State} (hs : s.mem = m) : Keeps m (execNunbind q d a b s) :=
  keeps_withRegs hs fun _ h1 => keeps_withPath hs h1 fun _ _ h2 => keeps_endName _ _ hs h2 (tx_txUnbind _ _ _ h2)

@[simp] theorem keeps_execNrevoke {m : Sp Byte} (q : Bool) (d a : Reg) {s : State} (hs : s.mem = m) : Keeps m (execNrevoke q d a s) :=
  keeps_withRegs hs fun _ h1 => keeps_withOperand hs h1 fun _ => keeps_endName _ _ hs h1 (tx_txRevoke _ _ h1)

@[simp] theorem keeps_execNdup {m : Sp Byte} (q : Bool) (d a b : Reg) {s : State} (hs : s.mem = m) : Keeps m (execNdup q d a b s) :=
  keeps_withRegs hs fun _ h1 => keeps_withOperand hs h1 fun _ => keeps_endName _ _ hs h1 (tx_txDup _ _ _ h1)

@[simp] theorem keeps_fenceOp {m : Sp Byte} (q : Bool) (put : Bool) (post : Bool) {s : State} (hs : s.mem = m) :
    Keeps m (fenceOp q put post s) := by simp [fenceOp, hs]

@[simp] theorem keeps_execFencePut {m : Sp Byte} (q : Bool) {s : State} (hs : s.mem = m) : Keeps m (execFencePut q s) := by simp [execFencePut, hs]

@[simp] theorem keeps_execFencePost {m : Sp Byte} (q : Bool) {s : State} (hs : s.mem = m) : Keeps m (execFencePost q s) := by simp [execFencePost, hs]

@[simp] theorem keeps_execFenceAll {m : Sp Byte} (q : Bool) {s : State} (hs : s.mem = m) : Keeps m (execFenceAll q s) := by simp [execFenceAll, hs]

@[simp] theorem keeps_execCpf {m : Sp Byte} (q : Bool) (a : Reg) {s : State} (hs : s.mem = m) : Keeps m (execCpf q a s) :=
  keeps_withRegs hs fun s1 h1 => keeps_done hs (by rw [mem_foldl fun s l => mem_loadTimes ..]; simp [h1]) ..

@[simp] theorem keeps_execCwb {m : Sp Byte} (q : Bool) (a : Reg) {s : State} (hs : s.mem = m) :
    Keeps m (execCwb q a s) := keeps_withRegs hs fun s1 h1 => by simp [h1, hs]

@[simp] theorem keeps_execCfl {m : Sp Byte} (q : Bool) (a : Reg) {s : State} (hs : s.mem = m) : Keeps m (execCfl q a s) :=
  keeps_withRegs hs fun s1 h1 => keeps_done hs ((mem_foldl (fun _ _ => mem_dropLine ..) _ s1).trans h1) ..

@[simp] theorem keeps_barOverrun {m : Sp Byte} (a : Word) {s : State} (hs : s.mem = m) : Keeps m (barOverrun a s) := by simp [barOverrun, hs]

@[simp] theorem keeps_barEnd {m : Sp Byte} (q : Bool) (d : Reg) (o : BarObj) {s0 : State} (hs0 : s0.mem = m) {s : State} (hs : s.mem = m) :
    Keeps m (barEnd q d o s0 s) := by simp [barEnd, hs0, hs]

@[simp] theorem keeps_execLatArm {m : Sp Byte} (q : Bool) (d a : Reg) (i : BitVec 2) {s : State} (hs : s.mem = m) : Keeps m (execLatArm q d a i s) := by
  refine keeps_withRegs hs fun s1 h1 => ?_
  extract_lets x la
  refine keeps_withPlace hs fun p => ?_
  have h2 : (disarm s.me i.toNat (meet (coreOf s.me) s1)).mem = m := (mem_disarm ..).trans ((mem_meet ..).trans h1)
  split
  · split
    · simp [hs, h1]
    · split
      split
      · exact keeps_lateResult hs _ _ _ _ h2
      · exact keeps_lateResult hs _ _ _ _ ((mem_modTh ..).trans h2)
  · exact keeps_exactAt _ _ hs

@[simp] theorem keeps_latTest {m : Sp Byte} (q : Bool) (d : Reg) (left : Nat) {s0 : State} (hs0 : s0.mem = m) {s1 : State} (hs1 : s1.mem = m) :
    Keeps m (latTest q d left s0 s1) := by simp [latTest, hs0, hs1]

@[simp] theorem keeps_execLatWait {m : Sp Byte} (q : Bool) (d b : Reg) {s : State} (hs : s.mem = m) : Keeps m (execLatWait q d b s) := by
  unfold execLatWait
  split
  · simp [hs]
  · exact keeps_withRegs hs fun s1 h1 => by simp [hs, h1]

@[simp] theorem keeps_execLatchWaitTimeout {m : Sp Byte} (t : Nat) {s : State} (hs : s.mem = m) : Keeps m (execLatchWaitTimeout t s) := by
  unfold execLatchWaitTimeout
  split
  · split
    · exact (mem_asHart (fun s => by simp) t s).trans hs
    · exact hs
  · exact hs

@[simp] theorem keeps_execLatClr {m : Sp Byte} (q : Bool) (i : BitVec 2) {s : State} (hs : s.mem = m) : Keeps m (execLatClr q i s) := by simp [execLatClr, hs]

@[simp] theorem keeps_execHostWalk {m : Sp Byte} (fn : HostFn) (start : Nat) (path : List Byte) {s : State} (hs : s.mem = m) :
    Keeps m (execHostWalk fn start path s) := by
  refine keeps_hostTx _ _ _ hs fun x => ?_
  dsimp only
  split
  · split
    · exact tx_txExport _ _ hs
    · exact tx_txWalk _ _ _ _ hs
  · exact tx_hostHandle _ (tx_txWalk _ _ _ _ hs)

@[simp] theorem keeps_execHostOpen {m : Sp Byte} (fn : HostFn) (h : Nat) (w : Word) {s : State} (hs : s.mem = m) : Keeps m (execHostOpen fn h w s) :=
  keeps_hostTx _ _ _ hs fun _ => tx_hostHandle _ (tx_txOpen _ _ _ hs)

@[simp] theorem keeps_execHostClose {m : Sp Byte} (fn : HostFn) (h : Nat) {s : State} (hs : s.mem = m) : Keeps m (execHostClose fn h s) :=
  keeps_hostTx _ _ _ hs fun _ => tx_hostHandle _ (tx_txClose _ _ hs)

@[simp] theorem keeps_execHostBind {m : Sp Byte} (fn : HostFn) (path : List Byte) (word : Word) {s : State} (hs : s.mem = m) :
    Keeps m (execHostBind fn path word s) := by
  refine keeps_hostTx _ _ _ hs fun x => ?_
  split
  · trivial
  · exact tx_txBind _ _ _ hs

@[simp] theorem keeps_execHostUnbind {m : Sp Byte} (fn : HostFn) (path : List Byte) (d : Nat) {s : State} (hs : s.mem = m) :
    Keeps m (execHostUnbind fn path d s) := by
  refine keeps_hostTx _ _ _ hs fun x => ?_
  split
  · trivial
  · exact tx_txUnbind _ _ _ hs

@[simp] theorem keeps_execHostRevoke {m : Sp Byte} (fn : HostFn) (h : Nat) {s : State} (hs : s.mem = m) : Keeps m (execHostRevoke fn h s) :=
  keeps_hostTx _ _ _ hs fun _ => tx_hostHandle _ (tx_txRevoke _ _ hs)

@[simp] theorem keeps_execHostDup {m : Sp Byte} (fn : HostFn) (h : Nat) (w : Word) {s : State} (hs : s.mem = m) : Keeps m (execHostDup fn h w s) :=
  keeps_hostTx _ _ _ hs fun _ => tx_hostHandle _ (tx_txDup _ _ _ hs)

@[simp] theorem keeps_execHostRead {m : Sp Byte} (fn : HostFn) (addr : Word) (n : Nat) {s : State} (hs : s.mem = m) : Keeps m (execHostRead fn addr n s) := by
  refine onto_hostAccess (Q := (· = m)) fn addr n needRd 16 _ _ hs fun x p => show Keeps m _ from ?_
  split
  · split <;> simp [hs]
  · simp [hs]
  · simp [hs]

@[simp] theorem keeps_execKeyCacheMiss {m : Sp Byte} (unit : Nat) (ctx : Nat) (addr : Word) {s : State} (hs : s.mem = m) :
    Keeps m (execKeyCacheMiss unit ctx addr s) := by simp [execKeyCacheMiss, hs]

@[simp] theorem keeps_execNodeCacheMiss {m : Sp Byte} (node : Nat) (by_ : MissBy) {s : State} (hs : s.mem = m) :
    Keeps m (execNodeCacheMiss node by_ s) := by simp [execNodeCacheMiss, hs]

@[simp] theorem keeps_execNodeMissTimeout {m : Sp Byte} (node : Nat) {s : State} (hs : s.mem = m) : Keeps m (execNodeMissTimeout node s) := by
  unfold execNodeMissTimeout
  split
  · exact hs
  · split
    · exact hs
    · refine (mem_foldl (fun s e => ?_) _ _).trans ((mem_foldl (fun s e => mem_missTimeout ..) _ _).trans hs)
      split
      · split
        · split
          · exact mem_modTh ..
          · exact mem_asHart (fun s => by simp) ..
        · rfl
      · rfl

@[simp] theorem keeps_execHmbFill {m : Sp Byte} {s : State} (hs : s.mem = m) : Keeps m (execHmbFill s) := by simp [execHmbFill, hs]

@[simp] theorem keeps_execCcDestroy {m : Sp Byte} (fn : HostFn) (ctx : Nat) {s : State} (hs : s.mem = m) : Keeps m (execCcDestroy fn ctx s) := by
  unfold execCcDestroy
  split <;> simp [hs]

@[simp] theorem keeps_execCcActThrough {m : Sp Byte} (fn : HostFn) (ctx : Nat) {s : State} (hs : s.mem = m) : Keeps m (execCcActThrough fn ctx s) := by
  unfold execCcActThrough
  split <;> simp [hs]

@[simp] theorem keeps_execTid {m : Sp Byte} (q : Bool) (d : Reg) {s : State} (hs : s.mem = m) : Keeps m (execTid q d s) := by simp [execTid, hs]

@[simp] theorem keeps_execSlotReservationRequest {m : Sp Byte} (ask : SlotAsk) {s0 : State} (hs0 : s0.mem = m) : Keeps m (execSlotReservationRequest ask s0) := by
  unfold execSlotReservationRequest
  dsimp only
  split <;> (try split) <;> simp [hs0]

@[simp] theorem keeps_execSlotReservationReply {m : Sp Byte} (ask : SlotAsk) (slot : Option Nat) {s : State} (hs : s.mem = m) :
    Keeps m (execSlotReservationReply ask slot s) := by
  unfold execSlotReservationReply
  dsimp only
  (repeat' split) <;> simp [hs]

@[simp] theorem keeps_execParcelArrival {m : Sp Byte} (p : Parcel) {s : State} (hs : s.mem = m) : Keeps m (execParcelArrival p s) := by simp [execParcelArrival, hs]

@[simp] theorem keeps_execSpawn {m : Sp Byte} (q : Bool) (d : Reg) (a : Reg) (b : Reg) {s : State} (hs : s.mem = m) :
    Keeps m (execSpawn q d a b s) := keeps_withRegs hs fun s1 h1 => by simp [h1, hs]

@[simp] theorem keeps_spawnInline {m : Sp Byte} (q : Bool) (d : Reg) (live : Option (BitVec 15)) (t : Word) (r : Word) {s0 : State}
    (hs0 : s0.mem = m) {s : State} (hs : s.mem = m) :
    Keeps m (spawnInline q d live t r s0 s) := by
  unfold spawnInline
  split <;> simp [hs0, hs]

@[simp] theorem keeps_execSpawnc {m : Sp Byte} (q : Bool) (d a b : Reg) (live : Option (BitVec 15)) {s : State} (hs : s.mem = m) :
    Keeps m (execSpawnc q d a b live s) := by
  unfold execSpawnc
  extract_lets len ones
  split
  · simp [hs]
  · split
    · exact keeps_spawnInline q d live _ _ hs hs
    · exact (mem_retireLive (by simp) ..).trans hs
  · refine keeps_withRegs hs fun s1 h1 => ?_
    extract_lets th t c
    split
    · split <;> simp [hs]
    · split
      · split <;> simp [hs, h1]
      · simp [h1]

@[simp] theorem keeps_execFork {m : Sp Byte} (q : Bool) (d : Reg) (a : Reg) (live : Option (BitVec 15)) {s : State} (hs : s.mem = m) :
    Keeps m (execFork q d a live s) := by
  refine keeps_withRegs hs fun s1 h1 => ?_
  dsimp only
  (repeat' split) <;> simp [h1, hs]

@[simp] theorem keeps_execJoin {m : Sp Byte} (q : Bool) (a : Reg) {s : State} (hs : s.mem = m) : Keeps m (execJoin q a s) := by
  refine keeps_withRegs hs fun s1 h1 => ?_
  extract_lets ea
  split
  · exact keeps_exactAt _ _ hs
  · refine keeps_withPlace hs fun p => ?_
    split
    · split
      · exact hs
      · refine keeps_withMemory hs h1 fun s2 h2 => ?_
        dsimp only
        split <;> simp [hs, h2]
    · exact keeps_exactAt _ _ hs

@[simp] theorem keeps_execGo {m : Sp Byte} (q : Bool) (d b : Reg) {s : State} (hs : s.mem = m) : Keeps m (execGo q d b s) := by
  unfold execGo
  split
  · simp [hs]
  · simp [hs]
  · simp [hs]
  · refine keeps_withRegs hs fun s1 h1 => ?_
    extract_lets th c
    split
    · simp [hs, h1]
    · split
      · simp [hs, h1]
      · split <;> simp [hs, h1]

@[simp] theorem keeps_execYield {m : Sp Byte} (q : Bool) (b : Reg) {s : State} (hs : s.mem = m) :
    Keeps m (execYield q b s) := keeps_withRegs hs fun s1 h1 => by simp [h1, hs]

@[simp] theorem keeps_execYieldExpiry {m : Sp Byte} (t : Nat) {s : State} (hs : s.mem = m) : Keeps m (execYieldExpiry t s) := by
  unfold execYieldExpiry
  split <;> simp [hs]

@[simp] theorem keeps_ctlOp {m : Sp Byte} (base : BitVec 32) (q : Bool) (a : Reg) (n : Nat) (f : Word → Word → Word) {s : State} (hs : s.mem = m) :
    Keeps m (ctlOp base q a n f s) := by
  unfold ctlOp
  split
  · simp [hs]
  · extract_lets s0
    have h0 : s0.mem = m := by
      unfold s0
      split <;> simp [hs]
    split
    · exact keeps_unlessFault h0 _ (by simp [h0])
    · exact keeps_withRegs h0 fun s1 h1 => by simp [h0, h1]

@[simp] theorem keeps_execCtlRd {m : Sp Byte} (q : Bool) (d : Reg) (h : BitVec 4) (n : BitVec 8) {s : State} (hs : s.mem = m) :
    Keeps m (execCtlRd q d h n s) := by
  unfold execCtlRd
  split
  · simp [hs]
  · exact keeps_withRegs hs fun s1 h1 => by simp [hs, h1]

@[simp] theorem keeps_execCtlWr {m : Sp Byte} (q : Bool) (a : Reg) (h : BitVec 4) (n : BitVec 8) {s : State} (hs : s.mem = m) :
    Keeps m (execCtlWr q a h n s) := by simp [execCtlWr, hs]

@[simp] theorem keeps_execCtlSet {m : Sp Byte} (q : Bool) (a : Reg) (h : BitVec 4) (n : BitVec 8) {s : State} (hs : s.mem = m) :
    Keeps m (execCtlSet q a h n s) := by simp [execCtlSet, hs]

@[simp] theorem keeps_execCtlClr {m : Sp Byte} (q : Bool) (a : Reg) (h : BitVec 4) (n : BitVec 8) {s : State} (hs : s.mem = m) :
    Keeps m (execCtlClr q a h n s) := by simp [execCtlClr, hs]

@[simp] theorem keeps_execTrap {m : Sp Byte} (q : Bool) (c : BitVec 4) (a : Reg) (e : BitVec 4) {s : State} (hs : s.mem = m) :
    Keeps m (execTrap q c a e s) := by
  unfold execTrap
  extract_lets
  exact keeps_withRegs hs fun s1 h1 => keeps_trapHere _ _ _ hs

@[simp] theorem keeps_execBrk {m : Sp Byte} (q : Bool) {s : State} (hs : s.mem = m) : Keeps m (execBrk q s) := by simp [execBrk, hs]

@[simp] theorem keeps_trapReturn {m : Sp Byte} (base : BitVec 32) (q : Bool) (live : Option (BitVec 15)) {s : State} (hs : s.mem = m) :
    Keeps m (trapReturn base q live s) := by simp [trapReturn, hs]

@[simp] theorem keeps_execTret {m : Sp Byte} (q : Bool) {s : State} (hs : s.mem = m) : Keeps m (execTret q s) := by simp [execTret, hs]

@[simp] theorem keeps_execTretX {m : Sp Byte} (q : Bool) (live : BitVec 15) {s : State} (hs : s.mem = m) : Keeps m (execTretX q live s) := by simp [execTretX, hs]

@[simp] theorem keeps_execIllegalInstruction {m : Sp Byte} (base : BitVec 32) {s : State} (hs : s.mem = m) :
    Keeps m (execIllegalInstruction base s) := by simp [execIllegalInstruction, hs]

@[simp] theorem keeps_wfiTest {m : Sp Byte} (q : Bool) (d : Reg) (left : Nat) {s0 : State} (hs0 : s0.mem = m) {s1 : State} (hs1 : s1.mem = m) :
    Keeps m (wfiTest q d left s0 s1) := by simp [wfiTest, hs0, hs1]

@[simp] theorem keeps_execWfi {m : Sp Byte} (q : Bool) (d b : Reg) {s : State} (hs : s.mem = m) : Keeps m (execWfi q d b s) := by
  unfold execWfi
  split
  · simp [hs]
  · exact keeps_withRegs hs fun s1 h1 => by simp [hs, h1]

@[simp] theorem keeps_execWfiTimeout {m : Sp Byte} (t : Nat) {s : State} (hs : s.mem = m) : Keeps m (execWfiTimeout t s) := by
  unfold execWfiTimeout
  split
  · exact (mem_asHart (fun s => by simp) t s).trans hs
  · exact hs

@[simp] theorem keeps_execGtime {m : Sp Byte} (q : Bool) (d : Reg) {s : State} (hs : s.mem = m) :
    Keeps m (execGtime q d s) := keeps_withRegs hs fun s1 h1 => by simp [h1, hs]

@[simp] theorem keeps_execFfl {m : Sp Byte} (q : Bool) (d : Reg) {s : State} (hs : s.mem = m) : Keeps m (execFfl q d s) := by
  have h0 : (endCapture s.me s).mem = m := by simp [hs]
  unfold execFfl
  dsimp only
  split
  · exact keeps_unlessFault h0 _ (by simp [hs])
  · exact keeps_withRegs h0 fun s1 h1 => by simp [h1, hs]

@[simp] theorem keeps_execPjRd {m : Sp Byte} (q : Bool) (d : Reg) (a : Reg) {s : State} (hs : s.mem = m) :
    Keeps m (execPjRd q d a s) := keeps_withRegs hs fun s1 h1 => by simp [h1, hs]

@[simp] theorem keeps_execPjClr {m : Sp Byte} (q : Bool) (d : Reg) (a : Reg) {s : State} (hs : s.mem = m) :
    Keeps m (execPjClr q d a s) := keeps_withRegs hs fun s1 h1 => by simp [h1, hs]

@[simp] theorem keeps_invalidateNode {m : Sp Byte} (q : Bool) (x : Word) (page : Option Nat) {s0 : State} (hs0 : s0.mem = m) {s : State} (hs : s.mem = m) :
    Keeps m (invalidateNode q x page s0 s) := by
  unfold invalidateNode
  dsimp only
  split <;> simp [hs0, hs]

@[simp] theorem keeps_execKcInv {m : Sp Byte} (q : Bool) (a : Reg) (sc : BitVec 2) {s : State} (hs : s.mem = m) : Keeps m (execKcInv q a sc s) := by
  refine keeps_withRegs hs fun s1 h1 => ?_
  split <;> simp [h1, hs]

@[simp] theorem keeps_issueCommand {m : Sp Byte} (len : Nat) (op : VOp) (g : VArgs) (readA readB : Bool) {s : State} (hs : s.mem = m) :
    Keeps m (issueCommand len op g readA readB s) := by
  unfold issueCommand
  extract_lets th
  split
  · simp [hs]
  · refine keeps_withRegs hs fun s1 h1 => ?_
    extract_lets p qv w miss v s2 go
    have h2 : s2.mem = s.mem := by
      unfold s2
      split <;> simp [h1, hs]
    have hgo : Keeps m go := (mem_retireLive ((mem_enqueue ..).trans h2) ..).trans hs
    generalize miss = node
    cases node with
    | none => exact hgo
    | some node =>
      refine (keeps_ite ..).2 ⟨fun _ => hgo, fun _ => ?_⟩
      simp [hs]

@[simp] theorem keeps_issueVector {m : Sp Byte} (r : VRow) (op : VOp) (g : VArgs) {s : State} (hs : s.mem = m) :
    Keeps m (issueVector r op g s) := by simp [issueVector, hs]

@[simp] theorem keeps_execVaddInt {m : Sp Byte} (g : VArgs) {s : State} (hs : s.mem = m) : Keeps m (execVaddInt g s) := by simp [execVaddInt, hs]

@[simp] theorem keeps_execVaddIntK {m : Sp Byte} (g : VArgs) {s : State} (hs : s.mem = m) : Keeps m (execVaddIntK g s) := by simp [execVaddIntK, hs]

@[simp] theorem keeps_execVsubInt {m : Sp Byte} (g : VArgs) {s : State} (hs : s.mem = m) : Keeps m (execVsubInt g s) := by simp [execVsubInt, hs]

@[simp] theorem keeps_execVmulInt {m : Sp Byte} (g : VArgs) {s : State} (hs : s.mem = m) : Keeps m (execVmulInt g s) := by simp [execVmulInt, hs]

@[simp] theorem keeps_execVmulh {m : Sp Byte} (g : VArgs) {s : State} (hs : s.mem = m) : Keeps m (execVmulh g s) := by simp [execVmulh, hs]

@[simp] theorem keeps_execVminInt {m : Sp Byte} (g : VArgs) {s : State} (hs : s.mem = m) : Keeps m (execVminInt g s) := by simp [execVminInt, hs]

@[simp] theorem keeps_execVmaxInt {m : Sp Byte} (g : VArgs) {s : State} (hs : s.mem = m) : Keeps m (execVmaxInt g s) := by simp [execVmaxInt, hs]

@[simp] theorem keeps_execVand {m : Sp Byte} (g : VArgs) {s : State} (hs : s.mem = m) : Keeps m (execVand g s) := by simp [execVand, hs]

@[simp] theorem keeps_execVor {m : Sp Byte} (g : VArgs) {s : State} (hs : s.mem = m) : Keeps m (execVor g s) := by simp [execVor, hs]

@[simp] theorem keeps_execVxor {m : Sp Byte} (g : VArgs) {s : State} (hs : s.mem = m) : Keeps m (execVxor g s) := by simp [execVxor, hs]

@[simp] theorem keeps_execVsll {m : Sp Byte} (g : VArgs) {s : State} (hs : s.mem = m) : Keeps m (execVsll g s) := by simp [execVsll, hs]

@[simp] theorem keeps_execVsr {m : Sp Byte} (g : VArgs) {s : State} (hs : s.mem = m) : Keeps m (execVsr g s) := by simp [execVsr, hs]

@[simp] theorem keeps_execVabsInt {m : Sp Byte} (g : VArgs) {s : State} (hs : s.mem = m) : Keeps m (execVabsInt g s) := by simp [execVabsInt, hs]

@[simp] theorem keeps_execVmac {m : Sp Byte} (g : VArgs) {s : State} (hs : s.mem = m) : Keeps m (execVmac g s) := by simp [execVmac, hs]

@[simp] theorem keeps_execVwmulInt {m : Sp Byte} (g : VArgs) {s : State} (hs : s.mem = m) : Keeps m (execVwmulInt g s) := by simp [execVwmulInt, hs]

@[simp] theorem keeps_execVwmac {m : Sp Byte} (g : VArgs) {s : State} (hs : s.mem = m) : Keeps m (execVwmac g s) := by simp [execVwmac, hs]

@[simp] theorem keeps_execVdotInt {m : Sp Byte} (g : VArgs) {s : State} (hs : s.mem = m) : Keeps m (execVdotInt g s) := by simp [execVdotInt, hs]

@[simp] theorem keeps_execVceqInt {m : Sp Byte} (g : VArgs) {s : State} (hs : s.mem = m) : Keeps m (execVceqInt g s) := by simp [execVceqInt, hs]

@[simp] theorem keeps_execVcltInt {m : Sp Byte} (g : VArgs) {s : State} (hs : s.mem = m) : Keeps m (execVcltInt g s) := by simp [execVcltInt, hs]

@[simp] theorem keeps_execVcleInt {m : Sp Byte} (g : VArgs) {s : State} (hs : s.mem = m) : Keeps m (execVcleInt g s) := by simp [execVcleInt, hs]

@[simp] theorem keeps_execVmov {m : Sp Byte} (g : VArgs) {s : State} (hs : s.mem = m) : Keeps m (execVmov g s) := by simp [execVmov, hs]

@[simp] theorem keeps_execVaddFlt {m : Sp Byte} (g : VArgs) {s : State} (hs : s.mem = m) : Keeps m (execVaddFlt g s) := by simp [execVaddFlt, hs]

@[simp] theorem keeps_execVaddFltX {m : Sp Byte} (g : VArgs) {s : State} (hs : s.mem = m) : Keeps m (execVaddFltX g s) := by simp [execVaddFltX, hs]

@[simp] theorem keeps_execVsubFlt {m : Sp Byte} (g : VArgs) {s : State} (hs : s.mem = m) : Keeps m (execVsubFlt g s) := by simp [execVsubFlt, hs]

@[simp] theorem keeps_execVmulFlt {m : Sp Byte} (g : VArgs) {s : State} (hs : s.mem = m) : Keeps m (execVmulFlt g s) := by simp [execVmulFlt, hs]

@[simp] theorem keeps_execVmulFltK {m : Sp Byte} (g : VArgs) {s : State} (hs : s.mem = m) : Keeps m (execVmulFltK g s) := by simp [execVmulFltK, hs]

@[simp] theorem keeps_execVdiv {m : Sp Byte} (g : VArgs) {s : State} (hs : s.mem = m) : Keeps m (execVdiv g s) := by simp [execVdiv, hs]

@[simp] theorem keeps_execVfma {m : Sp Byte} (g : VArgs) {s : State} (hs : s.mem = m) : Keeps m (execVfma g s) := by simp [execVfma, hs]

@[simp] theorem keeps_execVminFlt {m : Sp Byte} (g : VArgs) {s : State} (hs : s.mem = m) : Keeps m (execVminFlt g s) := by simp [execVminFlt, hs]

@[simp] theorem keeps_execVmaxFlt {m : Sp Byte} (g : VArgs) {s : State} (hs : s.mem = m) : Keeps m (execVmaxFlt g s) := by simp [execVmaxFlt, hs]

@[simp] theorem keeps_execVabsFlt {m : Sp Byte} (g : VArgs) {s : State} (hs : s.mem = m) : Keeps m (execVabsFlt g s) := by simp [execVabsFlt, hs]

@[simp] theorem keeps_execVsqrt {m : Sp Byte} (g : VArgs) {s : State} (hs : s.mem = m) : Keeps m (execVsqrt g s) := by simp [execVsqrt, hs]

@[simp] theorem keeps_execVexp2 {m : Sp Byte} (g : VArgs) {s : State} (hs : s.mem = m) : Keeps m (execVexp2 g s) := by simp [execVexp2, hs]

@[simp] theorem keeps_execVlog2 {m : Sp Byte} (g : VArgs) {s : State} (hs : s.mem = m) : Keeps m (execVlog2 g s) := by simp [execVlog2, hs]

@[simp] theorem keeps_execVrcp {m : Sp Byte} (g : VArgs) {s : State} (hs : s.mem = m) : Keeps m (execVrcp g s) := by simp [execVrcp, hs]

@[simp] theorem keeps_execVrsq {m : Sp Byte} (g : VArgs) {s : State} (hs : s.mem = m) : Keeps m (execVrsq g s) := by simp [execVrsq, hs]

@[simp] theorem keeps_execVwmulFlt {m : Sp Byte} (g : VArgs) {s : State} (hs : s.mem = m) : Keeps m (execVwmulFlt g s) := by simp [execVwmulFlt, hs]

@[simp] theorem keeps_execVwfma {m : Sp Byte} (g : VArgs) {s : State} (hs : s.mem = m) : Keeps m (execVwfma g s) := by simp [execVwfma, hs]

@[simp] theorem keeps_execVdotFlt {m : Sp Byte} (g : VArgs) {s : State} (hs : s.mem = m) : Keeps m (execVdotFlt g s) := by simp [execVdotFlt, hs]

@[simp] theorem keeps_execVceqFlt {m : Sp Byte} (g : VArgs) {s : State} (hs : s.mem = m) : Keeps m (execVceqFlt g s) := by simp [execVceqFlt, hs]

@[simp] theorem keeps_execVcltFlt {m : Sp Byte} (g : VArgs) {s : State} (hs : s.mem = m) : Keeps m (execVcltFlt g s) := by simp [execVcltFlt, hs]

@[simp] theorem keeps_execVcleFlt {m : Sp Byte} (g : VArgs) {s : State} (hs : s.mem = m) : Keeps m (execVcleFlt g s) := by simp [execVcleFlt, hs]

@[simp] theorem keeps_execVld {m : Sp Byte} (g : VArgs) {s : State} (hs : s.mem = m) : Keeps m (execVld g s) := by simp [execVld, hs]

@[simp] theorem keeps_execVldX {m : Sp Byte} (g : VArgs) {s : State} (hs : s.mem = m) : Keeps m (execVldX g s) := by simp [execVldX, hs]

@[simp] theorem keeps_execVst {m : Sp Byte} (g : VArgs) {s : State} (hs : s.mem = m) : Keeps m (execVst g s) := by simp [execVst, hs]

@[simp] theorem keeps_execVstX {m : Sp Byte} (g : VArgs) {s : State} (hs : s.mem = m) : Keeps m (execVstX g s) := by simp [execVstX, hs]

@[simp] theorem keeps_execVgather {m : Sp Byte} (g : VArgs) {s : State} (hs : s.mem = m) : Keeps m (execVgather g s) := by simp [execVgather, hs]

@[simp] theorem keeps_execVscatter {m : Sp Byte} (g : VArgs) {s : State} (hs : s.mem = m) : Keeps m (execVscatter g s) := by simp [execVscatter, hs]

@[simp] theorem keeps_execVldl {m : Sp Byte} (g : VArgs) {s : State} (hs : s.mem = m) : Keeps m (execVldl g s) := by simp [execVldl, hs]

@[simp] theorem keeps_execVldlV {m : Sp Byte} (g : VArgs) {s : State} (hs : s.mem = m) : Keeps m (execVldlV g s) := by simp [execVldlV, hs]

@[simp] theorem keeps_execVstl {m : Sp Byte} (g : VArgs) {s : State} (hs : s.mem = m) : Keeps m (execVstl g s) := by simp [execVstl, hs]

@[simp] theorem keeps_execVstlV {m : Sp Byte} (g : VArgs) {s : State} (hs : s.mem = m) : Keeps m (execVstlV g s) := by simp [execVstlV, hs]

@[simp] theorem keeps_execVldsc {m : Sp Byte} (g : VArgs) {s : State} (hs : s.mem = m) : Keeps m (execVldsc g s) := by simp [execVldsc, hs]

@[simp] theorem keeps_execVstsc {m : Sp Byte} (g : VArgs) {s : State} (hs : s.mem = m) : Keeps m (execVstsc g s) := by simp [execVstsc, hs]

@[simp] theorem keeps_execVcvt {m : Sp Byte} (g : VArgs) {s : State} (hs : s.mem = m) : Keeps m (execVcvt g s) := by simp [execVcvt, hs]

@[simp] theorem keeps_execVcvtW {m : Sp Byte} (g : VArgs) {s : State} (hs : s.mem = m) : Keeps m (execVcvtW g s) := by simp [execVcvtW, hs]

@[simp] theorem keeps_execVunpk {m : Sp Byte} (g : VArgs) {s : State} (hs : s.mem = m) : Keeps m (execVunpk g s) := by simp [execVunpk, hs]

@[simp] theorem keeps_execVunpk6 {m : Sp Byte} (g : VArgs) {s : State} (hs : s.mem = m) : Keeps m (execVunpk6 g s) := by simp [execVunpk6, hs]

@[simp] theorem keeps_execVpk {m : Sp Byte} (g : VArgs) {s : State} (hs : s.mem = m) : Keeps m (execVpk g s) := by simp [execVpk, hs]

@[simp] theorem keeps_execVpk6 {m : Sp Byte} (g : VArgs) {s : State} (hs : s.mem = m) : Keeps m (execVpk6 g s) := by simp [execVpk6, hs]

@[simp] theorem keeps_execVperm {m : Sp Byte} (g : VArgs) {s : State} (hs : s.mem = m) : Keeps m (execVperm g s) := by simp [execVperm, hs]

@[simp] theorem keeps_execVslide {m : Sp Byte} (g : VArgs) {s : State} (hs : s.mem = m) : Keeps m (execVslide g s) := by simp [execVslide, hs]

@[simp] theorem keeps_execVext {m : Sp Byte} (g : VArgs) {s : State} (hs : s.mem = m) : Keeps m (execVext g s) := by simp [execVext, hs]

@[simp] theorem keeps_execVins {m : Sp Byte} (g : VArgs) {s : State} (hs : s.mem = m) : Keeps m (execVins g s) := by simp [execVins, hs]

@[simp] theorem keeps_execVredAdd {m : Sp Byte} (g : VArgs) {s : State} (hs : s.mem = m) : Keeps m (execVredAdd g s) := by simp [execVredAdd, hs]

@[simp] theorem keeps_execVredMax {m : Sp Byte} (g : VArgs) {s : State} (hs : s.mem = m) : Keeps m (execVredMax g s) := by simp [execVredMax, hs]

@[simp] theorem keeps_execVredMin {m : Sp Byte} (g : VArgs) {s : State} (hs : s.mem = m) : Keeps m (execVredMin g s) := by simp [execVredMin, hs]

@[simp] theorem keeps_execVattc {m : Sp Byte} (w : AttW) (g : VArgs) {s : State} (hs : s.mem = m) : Keeps m (execVattc w g s) := by simp [execVattc, hs]

@[simp] theorem keeps_execVattf {m : Sp Byte} (w : AttW) (g : VArgs) {s : State} (hs : s.mem = m) : Keeps m (execVattf w g s) := by simp [execVattf, hs]

@[simp] theorem keeps_execRep {m : Sp Byte} (q : Bool) (c : BitVec 3) (a : Reg) {s : State} (hs : s.mem = m) : Keeps m (execRep q c a s) := by
  refine keeps_withWindow _ hs fun s0 h0 => ?_
  split
  · simp [h0]
  · exact keeps_withRegs h0 fun s1 h1 => by simp [h0, h1]

@[simp] theorem keeps_execRepWait {m : Sp Byte} (q : Bool) (d : Reg) {s : State} (hs : s.mem = m) :
    Keeps m (execRepWait q d s) := keeps_withWindow _ hs fun s1 h1 => by simp [h1]

@[simp] theorem keeps_execVfence {m : Sp Byte} (q : Bool) {s : State} (hs : s.mem = m) : Keeps m (execVfence q s) := keeps_withWindow _ hs fun s1 h1 => by simp [h1]

@[simp] theorem keeps_execVbusy {m : Sp Byte} (q : Bool) (d : Reg) {s : State} (hs : s.mem = m) :
    Keeps m (execVbusy q d s) := keeps_withWindow _ hs fun s1 h1 => by simp [h1]

@[simp] theorem keeps_issueMask {m : Sp Byte} (fn : BitVec 8) (op : VOp) (q : Bool) (vd : Reg) (va : Reg) (vb : Reg) (readA : Bool) (readB : Bool) {s : State}
    (hs : s.mem = m) :
    Keeps m (issueMask fn op q vd va vb readA readB s) := keeps_withWindow _ hs fun s1 h1 => by simp [h1]

@[simp] theorem keeps_execKand {m : Sp Byte} (q : Bool) (k : BitVec 2) (j : BitVec 2) (h : BitVec 2) {s : State} (hs : s.mem = m) :
    Keeps m (execKand q k j h s) := by simp [execKand, hs]

@[simp] theorem keeps_execKor {m : Sp Byte} (q : Bool) (k : BitVec 2) (j : BitVec 2) (h : BitVec 2) {s : State} (hs : s.mem = m) :
    Keeps m (execKor q k j h s) := by simp [execKor, hs]

@[simp] theorem keeps_execKxor {m : Sp Byte} (q : Bool) (k : BitVec 2) (j : BitVec 2) (h : BitVec 2) {s : State} (hs : s.mem = m) :
    Keeps m (execKxor q k j h s) := by simp [execKxor, hs]

@[simp] theorem keeps_execKnot {m : Sp Byte} (q : Bool) (k : BitVec 2) (j : BitVec 2) {s : State} (hs : s.mem = m) :
    Keeps m (execKnot q k j s) := by simp [execKnot, hs]

@[simp] theorem keeps_execKset {m : Sp Byte} (q : Bool) (k : BitVec 2) (a : Reg) {s : State} (hs : s.mem = m) : Keeps m (execKset q k a s) := by simp [execKset, hs]

@[simp] theorem keeps_execKins {m : Sp Byte} (q : Bool) (k : BitVec 2) (a : Reg) (b : Reg) {s : State} (hs : s.mem = m) :
    Keeps m (execKins q k a b s) := by simp [execKins, hs]

@[simp] theorem keeps_execKext {m : Sp Byte} (q : Bool) (d : Reg) (k : BitVec 2) (b : Reg) {s : State} (hs : s.mem = m) :
    Keeps m (execKext q d k b s) := by simp [execKext, hs]

@[simp] theorem keeps_execKpop {m : Sp Byte} (q : Bool) (d : Reg) (k : BitVec 2) {s : State} (hs : s.mem = m) : Keeps m (execKpop q d k s) := by simp [execKpop, hs]

@[simp] theorem keeps_execVectorCommandRetire {m : Sp Byte} (core : Nat) {s : State} (hs : s.mem = m) : Keeps m (execVectorCommandRetire core s) := by
  unfold execVectorCommandRetire
  dsimp only
  split <;> (try split) <;> simp [hs]

@[simp] theorem keeps_execRepSequenceStart {m : Sp Byte} (core : Nat) {s : State} (hs : s.mem = m) : Keeps m (execRepSequenceStart core s) := by
  unfold execRepSequenceStart
  split
  · split
    · refine (mem_push ..).trans ((mem_foldl (fun s _ => mem_push ..) _ _).trans ?_)
      simp [hs]
    · refine (mem_feedVector ..).trans ?_
      split <;> simp [hs]
  · exact hs

@[simp] theorem keeps_execMcload {m : Sp Byte} (q : Bool) (d b : Reg) (i : BitVec 2) {s : State} (hs : s.mem = m) : Keeps m (execMcload q d b i s) := by
  unfold execMcload
  split
  · simp [hs]
  · refine keeps_withRegs hs fun s1 h1 => ?_
    dsimp only
    split <;> simp [hs, h1]

@[simp] theorem keeps_execMcrd {m : Sp Byte} (q : Bool) (d : Reg) (i : BitVec 2) {s : State} (hs : s.mem = m) :
    Keeps m (execMcrd q d i s) := keeps_withRegs hs fun s1 h1 => by simp [h1, hs]

@[simp] theorem keeps_execMcclr {m : Sp Byte} (q : Bool) (i : BitVec 2) {s : State} (hs : s.mem = m) : Keeps m (execMcclr q i s) := by simp [execMcclr, hs]

@[simp] theorem keeps_execMm {m : Sp Byte} (q : Bool) (d a : Reg) {s : State} (hs : s.mem = m) : Keeps m (execMm q d a s) := by
  unfold execMm
  split
  · simp [hs]
  · refine keeps_withRegs hs fun s1 h1 => ?_
    extract_lets p
    split
    · exact keeps_exactAt _ _ hs
    · refine keeps_withPlace hs fun pl => ?_
      split
      · exact keeps_unlessFault hs _ (by simp [h1])
      · exact keeps_exactAt _ _ hs

@[simp] theorem keeps_execPkstCaphitClear {m : Sp Byte} (bmi : Bool) {s : State} (hs : s.mem = m) :
    Keeps m (execPkstCaphitClear bmi s) := by simp [execPkstCaphitClear, hs]

@[simp] theorem keeps_execBmiReadPkst {m : Sp Byte} {s : State} (hs : s.mem = m) : Keeps m (execBmiReadPkst s) := by simp [execBmiReadPkst, hs]

@[simp] theorem keeps_execBmiUnknownCommand {m : Sp Byte} (cmd : Byte) {s : State} (hs : s.mem = m) :
    Keeps m (execBmiUnknownCommand cmd s) := by simp [execBmiUnknownCommand, hs]

@[simp] theorem keeps_execFrameBoundary {m : Sp Byte} {s : State} (hs : s.mem = m) : Keeps m (execFrameBoundary s) := by simp [execFrameBoundary, hs]

@[simp] theorem keeps_execThermalTrip {m : Sp Byte} (die : Nat) (temp : Nat) {s : State} (hs : s.mem = m) :
    Keeps m (execThermalTrip die temp s) := by simp [execThermalTrip, hs]

@[simp] theorem keeps_execThermalTripEnd {m : Sp Byte} (temp0 : Nat) (temp1 : Nat) {s : State} (hs : s.mem = m) :
    Keeps m (execThermalTripEnd temp0 temp1 s) := by simp [execThermalTripEnd, hs]

@[simp] theorem keeps_execThermalShutdown {m : Sp Byte} (die : Nat) (temp : Nat) {s : State} (hs : s.mem = m) :
    Keeps m (execThermalShutdown die temp s) := by simp [execThermalShutdown, hs]

@[simp] theorem keeps_execPwrcapWrite {m : Sp Byte} (fn : HostFn) (v : Word) {s : State} (hs : s.mem = m) :
    Keeps m (execPwrcapWrite fn v s) := by simp [execPwrcapWrite, hs]

@[simp] theorem keeps_execTdctlSwap {m : Sp Byte} {s : State} (hs : s.mem = m) : Keeps m (execTdctlSwap s) := by simp [execTdctlSwap, hs]

@[simp] theorem keeps_execBindSetRun {m : Sp Byte} (queue : Nat) (slot : Nat) {s : State} (hs : s.mem = m) :
    Keeps m (execBindSetRun queue slot s) := by simp [execBindSetRun, hs]

@[simp] theorem keeps_execGqTailStore {m : Sp Byte} (queue : Nat) (size : Nat) (v : Word) {s : State} (hs : s.mem = m) :
    Keeps m (execGqTailStore queue size v s) := by simp [execGqTailStore, hs]

@[simp] theorem keeps_execGqTailNonresident {m : Sp Byte} (queue : Nat) (size : Nat) (v : Word) {s : State} (hs : s.mem = m) :
    Keeps m (execGqTailNonresident queue size v s) := by simp [execGqTailNonresident, hs]

@[simp] theorem keeps_execGqctlResume {m : Sp Byte} (queue : Nat) {s : State} (hs : s.mem = m) : Keeps m (execGqctlResume queue s) := by simp [execGqctlResume, hs]

@[simp] theorem keeps_execQgangMap {m : Sp Byte} (gang tumbler first : Nat) {s : State} (hs : s.mem = m) : Keeps m (execQgangMap gang tumbler first s) := by
  refine show State.mem _ = m from ?_
  split
  · exact (mem_foldl (fun s q => mem_served ..) _ _).trans ((mem_mapGang ..).trans hs)
  · exact hs

@[simp] theorem keeps_execQgangUnmap {m : Sp Byte} (gang : Nat) {s : State} (hs : s.mem = m) : Keeps m (execQgangUnmap gang s) := by simp [execQgangUnmap, hs]

@[simp] theorem keeps_execGangArm {m : Sp Byte} (part : Nat) {s : State} (hs : s.mem = m) : Keeps m (execGangArm part s) := by simp [execGangArm, hs]

@[simp] theorem keeps_execEngineKick {m : Sp Byte} (hart node ctx : Nat) (words : List Word) {s : State} (hs : s.mem = m) :
    Keeps m (execEngineKick hart node ctx words s) := by
  unfold execEngineKick
  extract_lets n
  split
  · split
    · next h => exact (mem_kickHart h).trans hs
    · exact hs
  · exact hs

@[simp] theorem keeps_execEngineHartStart {m : Sp Byte} (hart : Nat) {s : State} (hs : s.mem = m) : Keeps m (execEngineHartStart hart s) := by
  unfold execEngineHartStart
  split <;> simp [hs]

@[simp] theorem keeps_execGlobalLinkDown {m : Sp Byte} (quadrant j : Nat) {s : State} (hs : s.mem = m) : Keeps m (execGlobalLinkDown quadrant j s) := by
  unfold execGlobalLinkDown
  split
  · exact hs
  · exact (mem_foldl (fun s e => mem_loseInputs ..) _ _).trans hs

@[simp] theorem keeps_execFlitBadCheck {m : Sp Byte} (port : Nat) {s : State} (hs : s.mem = m) : Keeps m (execFlitBadCheck port s) := by simp [execFlitBadCheck, hs]

@[simp] theorem keeps_execSramRowError {m : Sp Byte} (unit : Nat) (row : Nat) (corrected : Bool) {s : State} (hs : s.mem = m) :
    Keeps m (execSramRowError unit row corrected s) := by simp [execSramRowError, hs]

@[simp] theorem keeps_execRowSelftestDone {m : Sp Byte} (unit : Nat) (row : Nat) (passed : Bool) {s : State} (hs : s.mem = m) :
    Keeps m (execRowSelftestDone unit row passed s) := by
  unfold execRowSelftestDone
  split <;> simp [hs]

@[simp] theorem keeps_execLaneError {m : Sp Byte} (port : Nat) (lane : LaneFault) {s : State} (hs : s.mem = m) :
    Keeps m (execLaneError port lane s) := by simp [execLaneError, hs]

@[simp] theorem keeps_execPortRetrainDone {m : Sp Byte} (port : Nat) {s : State} (hs : s.mem = m) :
    Keeps m (execPortRetrainDone port s) := by simp [execPortRetrainDone, hs]

@[simp] theorem keeps_execHmbMap {m : Sp Byte} {s : State} (hs : s.mem = m) : Keeps m (execHmbMap s) := keeps_withMessage 4 hs fun b => by simp

@[simp] theorem keeps_execHmbDefrag {m : Sp Byte} {s : State} (hs : s.mem = m) : Keeps m (execHmbDefrag s) :=
  keeps_withMessage 11 hs fun b => by
    split <;> simp

@[simp] theorem keeps_execHmbBadType {m : Sp Byte} {s : State} (hs : s.mem = m) : Keeps m (execHmbBadType s) := keeps_withMessage 0 hs fun b => by simp

@[simp] theorem keeps_execHmbImgw {m : Sp Byte} {s : State} (hs : s.mem = m) : Keeps m (execHmbImgw s) :=
  keeps_withMessage 7 hs fun b => by
    dsimp only
    split <;> simp

@[simp] theorem keeps_execHmbSpdm {m : Sp Byte} {s : State} (hs : s.mem = m) : Keeps m (execHmbSpdm s) :=
  keeps_withMessage 6 hs fun b => by
    dsimp only
    split <;> simp

@[simp] theorem keeps_execSpdmGetVersion {m : Sp Byte} (req : List Byte) {s : State} (hs : s.mem = m) :
    Keeps m (execSpdmGetVersion req s) := by simp [execSpdmGetVersion, hs]

@[simp] theorem keeps_execSpdmGetCapabilities {m : Sp Byte} (req : List Byte) {s : State} (hs : s.mem = m) :
    Keeps m (execSpdmGetCapabilities req s) := by simp [execSpdmGetCapabilities, hs]

@[simp] theorem keeps_execSpdmNegotiateAlgorithms {m : Sp Byte} (req : List Byte) {s : State} (hs : s.mem = m) :
    Keeps m (execSpdmNegotiateAlgorithms req s) := by simp [execSpdmNegotiateAlgorithms, hs]

@[simp] theorem keeps_execSpdmGetDigests {m : Sp Byte} (req : List Byte) {s : State} (hs : s.mem = m) :
    Keeps m (execSpdmGetDigests req s) := by simp [execSpdmGetDigests, hs]

@[simp] theorem keeps_execSpdmGetCertificate {m : Sp Byte} (req : List Byte) {s : State} (hs : s.mem = m) :
    Keeps m (execSpdmGetCertificate req s) := by simp [execSpdmGetCertificate, hs]

@[simp] theorem keeps_execSpdmChallenge {m : Sp Byte} (req : List Byte) {s : State} (hs : s.mem = m) :
    Keeps m (execSpdmChallenge req s) := by simp [execSpdmChallenge, hs]

@[simp] theorem keeps_execSpdmGetMeasurements {m : Sp Byte} (req : List Byte) {s : State} (hs : s.mem = m) :
    Keeps m (execSpdmGetMeasurements req s) := by simp [execSpdmGetMeasurements, hs]

@[simp] theorem keeps_execSpdmUnsupported {m : Sp Byte} (req : List Byte) {s : State} (hs : s.mem = m) :
    Keeps m (execSpdmUnsupported req s) := by simp [execSpdmUnsupported, hs]

@[simp] theorem keeps_execUpdstGo {m : Sp Byte} (fn : HostFn) {s : State} (hs : s.mem = m) : Keeps m (execUpdstGo fn s) := by simp [execUpdstGo, hs]

@[simp] theorem keeps_execFwCoreWake {m : Sp Byte} (core : FwWake) {s : State} (hs : s.mem = m) : Keeps m (execFwCoreWake core s) := by
  unfold execFwCoreWake
  split <;> (try split) <;> simp [hs]

@[simp] theorem keeps_execUpdateHeartbeat {m : Sp Byte} {s : State} (hs : s.mem = m) : Keeps m (execUpdateHeartbeat s) := by simp [execUpdateHeartbeat, hs]

@[simp] theorem keeps_int2 {m : Sp Byte} (len : Nat) (q : Bool) (d : Reg) (a : Reg) (b : Reg) (f : Word → Word → Word) {s : State} (hs : s.mem = m) :
    Keeps m (int2 len q d a b f s) := keeps_withRegs hs fun s1 h1 => by simp [h1, hs]

@[simp] theorem keeps_int1 {m : Sp Byte} (len : Nat) (q : Bool) (d : Reg) (a : Reg) (f : Word → Word) {s : State} (hs : s.mem = m) :
    Keeps m (int1 len q d a f s) := keeps_withRegs hs fun s1 h1 => by simp [h1, hs]

@[simp] theorem keeps_int1K {m : Sp Byte} (q : Bool) (d : Reg) (a : Reg) (f : Word → Word) {s : State} (hs : s.mem = m) :
    Keeps m (int1K q d a f s) := keeps_withRegs hs fun s1 h1 => by simp [h1, hs]

@[simp] theorem keeps_int3 {m : Sp Byte} (q : Bool) (d : Reg) (a : Reg) (b : Reg) (f : Word → Word → Word → Word) {s : State} (hs : s.mem = m) :
    Keeps m (int3 q d a b f s) := keeps_withRegs hs fun s1 h1 => by simp [h1, hs]

@[simp] theorem keeps_execAdd {m : Sp Byte} (q : Bool) (d : Reg) (a : Reg) (b : Reg) (x : Bool) {s : State} (hs : s.mem = m) :
    Keeps m (execAdd q d a b x s) := by simp [execAdd, hs]

@[simp] theorem keeps_execAddSat {m : Sp Byte} (q : Bool) (d : Reg) (a : Reg) (b : Reg) {s : State} (hs : s.mem = m) :
    Keeps m (execAddSat q d a b s) := by simp [execAddSat, hs]

@[simp] theorem keeps_execSub {m : Sp Byte} (q : Bool) (d : Reg) (a : Reg) (b : Reg) (x : Bool) {s : State} (hs : s.mem = m) :
    Keeps m (execSub q d a b x s) := by simp [execSub, hs]

@[simp] theorem keeps_execSubSat {m : Sp Byte} (q : Bool) (d : Reg) (a : Reg) (b : Reg) {s : State} (hs : s.mem = m) :
    Keeps m (execSubSat q d a b s) := by simp [execSubSat, hs]

@[simp] theorem keeps_execAddn {m : Sp Byte} (q : Bool) (d : Reg) (a : Reg) (b : Reg) (x : Bool) {s : State} (hs : s.mem = m) :
    Keeps m (execAddn q d a b x s) := by simp [execAddn, hs]

@[simp] theorem keeps_execAddnSat {m : Sp Byte} (q : Bool) (d : Reg) (a : Reg) (b : Reg) {s : State} (hs : s.mem = m) :
    Keeps m (execAddnSat q d a b s) := by simp [execAddnSat, hs]

@[simp] theorem keeps_execSubn {m : Sp Byte} (q : Bool) (d : Reg) (a : Reg) (b : Reg) (x : Bool) {s : State} (hs : s.mem = m) :
    Keeps m (execSubn q d a b x s) := by simp [execSubn, hs]

@[simp] theorem keeps_execSubnSat {m : Sp Byte} (q : Bool) (d : Reg) (a : Reg) (b : Reg) {s : State} (hs : s.mem = m) :
    Keeps m (execSubnSat q d a b s) := by simp [execSubnSat, hs]

@[simp] theorem keeps_execAnd {m : Sp Byte} (q : Bool) (d : Reg) (a : Reg) (b : Reg) {s : State} (hs : s.mem = m) :
    Keeps m (execAnd q d a b s) := by simp [execAnd, hs]

@[simp] theorem keeps_execOr {m : Sp Byte} (q : Bool) (d : Reg) (a : Reg) (b : Reg) {s : State} (hs : s.mem = m) : Keeps m (execOr q d a b s) := by simp [execOr, hs]

@[simp] theorem keeps_execXor {m : Sp Byte} (q : Bool) (d : Reg) (a : Reg) (b : Reg) {s : State} (hs : s.mem = m) :
    Keeps m (execXor q d a b s) := by simp [execXor, hs]

@[simp] theorem keeps_execAndn {m : Sp Byte} (q : Bool) (d : Reg) (a : Reg) (b : Reg) {s : State} (hs : s.mem = m) :
    Keeps m (execAndn q d a b s) := by simp [execAndn, hs]

@[simp] theorem keeps_execOrn {m : Sp Byte} (q : Bool) (d : Reg) (a : Reg) (b : Reg) {s : State} (hs : s.mem = m) :
    Keeps m (execOrn q d a b s) := by simp [execOrn, hs]

@[simp] theorem keeps_execXnor {m : Sp Byte} (q : Bool) (d : Reg) (a : Reg) (b : Reg) {s : State} (hs : s.mem = m) :
    Keeps m (execXnor q d a b s) := by simp [execXnor, hs]

@[simp] theorem keeps_execSll {m : Sp Byte} (q : Bool) (d : Reg) (a : Reg) (b : Reg) {s : State} (hs : s.mem = m) :
    Keeps m (execSll q d a b s) := by simp [execSll, hs]

@[simp] theorem keeps_execSrl {m : Sp Byte} (q : Bool) (d : Reg) (a : Reg) (b : Reg) {s : State} (hs : s.mem = m) :
    Keeps m (execSrl q d a b s) := by simp [execSrl, hs]

@[simp] theorem keeps_execSra {m : Sp Byte} (q : Bool) (d : Reg) (a : Reg) (b : Reg) {s : State} (hs : s.mem = m) :
    Keeps m (execSra q d a b s) := by simp [execSra, hs]

@[simp] theorem keeps_execRol {m : Sp Byte} (q : Bool) (d : Reg) (a : Reg) (b : Reg) {s : State} (hs : s.mem = m) :
    Keeps m (execRol q d a b s) := by simp [execRol, hs]

@[simp] theorem keeps_execRor {m : Sp Byte} (q : Bool) (d : Reg) (a : Reg) (b : Reg) {s : State} (hs : s.mem = m) :
    Keeps m (execRor q d a b s) := by simp [execRor, hs]

@[simp] theorem keeps_execAhdl {m : Sp Byte} (q : Bool) (d : Reg) (a : Reg) {s : State} (hs : s.mem = m) : Keeps m (execAhdl q d a s) := by simp [execAhdl, hs]

@[simp] theorem keeps_execAoff {m : Sp Byte} (q : Bool) (d : Reg) (a : Reg) {s : State} (hs : s.mem = m) : Keeps m (execAoff q d a s) := by simp [execAoff, hs]

@[simp] theorem keeps_execAmake {m : Sp Byte} (q : Bool) (d : Reg) (a : Reg) (b : Reg) {s : State} (hs : s.mem = m) :
    Keeps m (execAmake q d a b s) := by simp [execAmake, hs]

@[simp] theorem keeps_execAadd {m : Sp Byte} (q : Bool) (d : Reg) (a : Reg) (b : Reg) {s : State} (hs : s.mem = m) : Keeps m (execAadd q d a b s) := by
  refine keeps_withRegs hs fun s1 h1 => ?_
  split <;> simp [h1, hs]

@[simp] theorem keeps_execAdiff {m : Sp Byte} (q : Bool) (d : Reg) (a : Reg) (b : Reg) {s : State} (hs : s.mem = m) :
    Keeps m (execAdiff q d a b s) := by simp [execAdiff, hs]

@[simp] theorem keeps_execAddi {m : Sp Byte} (q : Bool) (d : Reg) (a : Reg) (i : BitVec 15) (x : Bool) {s : State} (hs : s.mem = m) :
    Keeps m (execAddi q d a i x s) := by simp [execAddi, hs]

@[simp] theorem keeps_execAddiSat {m : Sp Byte} (q : Bool) (d : Reg) (a : Reg) (i : BitVec 15) {s : State} (hs : s.mem = m) :
    Keeps m (execAddiSat q d a i s) := by simp [execAddiSat, hs]

@[simp] theorem keeps_execAddiK {m : Sp Byte} (q : Bool) (d : Reg) (a : Reg) (k : Word) (x : Bool) {s : State} (hs : s.mem = m) :
    Keeps m (execAddiK q d a k x s) := by simp [execAddiK, hs]

@[simp] theorem keeps_execAddiSatK {m : Sp Byte} (q : Bool) (d : Reg) (a : Reg) (k : Word) {s : State} (hs : s.mem = m) :
    Keeps m (execAddiSatK q d a k s) := by simp [execAddiSatK, hs]

@[simp] theorem keeps_execAndi {m : Sp Byte} (q : Bool) (d : Reg) (a : Reg) (i : BitVec 15) {s : State} (hs : s.mem = m) :
    Keeps m (execAndi q d a i s) := by simp [execAndi, hs]

@[simp] theorem keeps_execAndiK {m : Sp Byte} (q : Bool) (d : Reg) (a : Reg) (k : Word) {s : State} (hs : s.mem = m) :
    Keeps m (execAndiK q d a k s) := by simp [execAndiK, hs]

@[simp] theorem keeps_execOri {m : Sp Byte} (q : Bool) (d : Reg) (a : Reg) (i : BitVec 15) {s : State} (hs : s.mem = m) :
    Keeps m (execOri q d a i s) := by simp [execOri, hs]

@[simp] theorem keeps_execOriK {m : Sp Byte} (q : Bool) (d : Reg) (a : Reg) (k : Word) {s : State} (hs : s.mem = m) :
    Keeps m (execOriK q d a k s) := by simp [execOriK, hs]

@[simp] theorem keeps_execXori {m : Sp Byte} (q : Bool) (d : Reg) (a : Reg) (i : BitVec 15) {s : State} (hs : s.mem = m) :
    Keeps m (execXori q d a i s) := by simp [execXori, hs]

@[simp] theorem keeps_execXoriK {m : Sp Byte} (q : Bool) (d : Reg) (a : Reg) (k : Word) {s : State} (hs : s.mem = m) :
    Keeps m (execXoriK q d a k s) := by simp [execXoriK, hs]

@[simp] theorem keeps_execSlli {m : Sp Byte} (q : Bool) (d : Reg) (a : Reg) (h : BitVec 6) {s : State} (hs : s.mem = m) :
    Keeps m (execSlli q d a h s) := by simp [execSlli, hs]

@[simp] theorem keeps_execSrli {m : Sp Byte} (q : Bool) (d : Reg) (a : Reg) (h : BitVec 6) {s : State} (hs : s.mem = m) :
    Keeps m (execSrli q d a h s) := by simp [execSrli, hs]

@[simp] theorem keeps_execSrai {m : Sp Byte} (q : Bool) (d : Reg) (a : Reg) (h : BitVec 6) {s : State} (hs : s.mem = m) :
    Keeps m (execSrai q d a h s) := by simp [execSrai, hs]

@[simp] theorem keeps_execRori {m : Sp Byte} (q : Bool) (d : Reg) (a : Reg) (h : BitVec 6) {s : State} (hs : s.mem = m) :
    Keeps m (execRori q d a h s) := by simp [execRori, hs]

@[simp] theorem keeps_execLi {m : Sp Byte} (q : Bool) (d : Reg) (i : BitVec 15) {s : State} (hs : s.mem = m) :
    Keeps m (execLi q d i s) := keeps_withRegs hs fun s1 h1 => by simp [h1, hs]

@[simp] theorem keeps_execLiK {m : Sp Byte} (q : Bool) (d : Reg) (k : Word) {s : State} (hs : s.mem = m) :
    Keeps m (execLiK q d k s) := keeps_withRegs hs fun s1 h1 => by simp [h1, hs]

@[simp] theorem keeps_execCmpi {m : Sp Byte} (q : Bool) (d : Reg) (a : Reg) (i : BitVec 15) {s : State} (hs : s.mem = m) :
    Keeps m (execCmpi q d a i s) := by simp [execCmpi, hs]

@[simp] theorem keeps_execCmpiK {m : Sp Byte} (q : Bool) (d : Reg) (a : Reg) (k : Word) {s : State} (hs : s.mem = m) :
    Keeps m (execCmpiK q d a k s) := by simp [execCmpiK, hs]

@[simp] theorem keeps_execMul {m : Sp Byte} (q : Bool) (d : Reg) (a : Reg) (b : Reg) (x : Bool) {s : State} (hs : s.mem = m) :
    Keeps m (execMul q d a b x s) := by simp [execMul, hs]

@[simp] theorem keeps_execMulSat {m : Sp Byte} (q : Bool) (d : Reg) (a : Reg) (b : Reg) {s : State} (hs : s.mem = m) :
    Keeps m (execMulSat q d a b s) := by simp [execMulSat, hs]

@[simp] theorem keeps_execMuln {m : Sp Byte} (q : Bool) (d : Reg) (a : Reg) (b : Reg) (x : Bool) {s : State} (hs : s.mem = m) :
    Keeps m (execMuln q d a b x s) := by simp [execMuln, hs]

@[simp] theorem keeps_execMulnSat {m : Sp Byte} (q : Bool) (d : Reg) (a : Reg) (b : Reg) {s : State} (hs : s.mem = m) :
    Keeps m (execMulnSat q d a b s) := by simp [execMulnSat, hs]

@[simp] theorem keeps_execMulh {m : Sp Byte} (q : Bool) (d : Reg) (a : Reg) (b : Reg) {s : State} (hs : s.mem = m) :
    Keeps m (execMulh q d a b s) := by simp [execMulh, hs]

@[simp] theorem keeps_execMulhn {m : Sp Byte} (q : Bool) (d : Reg) (a : Reg) (b : Reg) {s : State} (hs : s.mem = m) :
    Keeps m (execMulhn q d a b s) := by simp [execMulhn, hs]

@[simp] theorem keeps_divide {m : Sp Byte} (q : Bool) (d : Reg) (a : Reg) (b : Reg) (f : Word → Word → Word) {s : State} (hs : s.mem = m) :
    Keeps m (divide q d a b f s) := keeps_withRegs hs fun s1 h1 => by simp [h1, hs]

@[simp] theorem keeps_execDiv {m : Sp Byte} (q : Bool) (d : Reg) (a : Reg) (b : Reg) {s : State} (hs : s.mem = m) :
    Keeps m (execDiv q d a b s) := by simp [execDiv, hs]

@[simp] theorem keeps_execDivn {m : Sp Byte} (q : Bool) (d : Reg) (a : Reg) (b : Reg) {s : State} (hs : s.mem = m) :
    Keeps m (execDivn q d a b s) := by simp [execDivn, hs]

@[simp] theorem keeps_execRem {m : Sp Byte} (q : Bool) (d : Reg) (a : Reg) (b : Reg) {s : State} (hs : s.mem = m) :
    Keeps m (execRem q d a b s) := by simp [execRem, hs]

@[simp] theorem keeps_execRemn {m : Sp Byte} (q : Bool) (d : Reg) (a : Reg) (b : Reg) {s : State} (hs : s.mem = m) :
    Keeps m (execRemn q d a b s) := by simp [execRemn, hs]

@[simp] theorem keeps_execBext {m : Sp Byte} (q : Bool) (d : Reg) (a : Reg) (b : Reg) {s : State} (hs : s.mem = m) :
    Keeps m (execBext q d a b s) := by simp [execBext, hs]

@[simp] theorem keeps_execBextn {m : Sp Byte} (q : Bool) (d : Reg) (a : Reg) (b : Reg) {s : State} (hs : s.mem = m) :
    Keeps m (execBextn q d a b s) := by simp [execBextn, hs]

@[simp] theorem keeps_execBins {m : Sp Byte} (q : Bool) (d : Reg) (a : Reg) (b : Reg) {s : State} (hs : s.mem = m) :
    Keeps m (execBins q d a b s) := by simp [execBins, hs]

@[simp] theorem keeps_execClz {m : Sp Byte} (q : Bool) (d : Reg) (a : Reg) {s : State} (hs : s.mem = m) : Keeps m (execClz q d a s) := by simp [execClz, hs]

@[simp] theorem keeps_execCtz {m : Sp Byte} (q : Bool) (d : Reg) (a : Reg) {s : State} (hs : s.mem = m) : Keeps m (execCtz q d a s) := by simp [execCtz, hs]

@[simp] theorem keeps_execPopc {m : Sp Byte} (q : Bool) (d : Reg) (a : Reg) {s : State} (hs : s.mem = m) : Keeps m (execPopc q d a s) := by simp [execPopc, hs]

@[simp] theorem keeps_execBrev {m : Sp Byte} (q : Bool) (d : Reg) (a : Reg) {s : State} (hs : s.mem = m) : Keeps m (execBrev q d a s) := by simp [execBrev, hs]

@[simp] theorem keeps_execBswap {m : Sp Byte} (q : Bool) (d : Reg) (a : Reg) {s : State} (hs : s.mem = m) : Keeps m (execBswap q d a s) := by simp [execBswap, hs]

@[simp] theorem keeps_execSeq {m : Sp Byte} (q : Bool) (d : Reg) (a : Reg) (b : Reg) {s : State} (hs : s.mem = m) :
    Keeps m (execSeq q d a b s) := by simp [execSeq, hs]

@[simp] theorem keeps_execSne {m : Sp Byte} (q : Bool) (d : Reg) (a : Reg) (b : Reg) {s : State} (hs : s.mem = m) :
    Keeps m (execSne q d a b s) := by simp [execSne, hs]

@[simp] theorem keeps_execSlt {m : Sp Byte} (q : Bool) (d : Reg) (a : Reg) (b : Reg) {s : State} (hs : s.mem = m) :
    Keeps m (execSlt q d a b s) := by simp [execSlt, hs]

@[simp] theorem keeps_execSltn {m : Sp Byte} (q : Bool) (d : Reg) (a : Reg) (b : Reg) {s : State} (hs : s.mem = m) :
    Keeps m (execSltn q d a b s) := by simp [execSltn, hs]

@[simp] theorem keeps_execCmp {m : Sp Byte} (q : Bool) (d : Reg) (a : Reg) (b : Reg) {s : State} (hs : s.mem = m) :
    Keeps m (execCmp q d a b s) := by simp [execCmp, hs]

@[simp] theorem keeps_execSel {m : Sp Byte} (q : Bool) (d : Reg) (a : Reg) (b : Reg) {s : State} (hs : s.mem = m) :
    Keeps m (execSel q d a b s) := by simp [execSel, hs]

@[simp] theorem keeps_execMin {m : Sp Byte} (q : Bool) (d : Reg) (a : Reg) (b : Reg) {s : State} (hs : s.mem = m) :
    Keeps m (execMin q d a b s) := by simp [execMin, hs]

@[simp] theorem keeps_execMax {m : Sp Byte} (q : Bool) (d : Reg) (a : Reg) (b : Reg) {s : State} (hs : s.mem = m) :
    Keeps m (execMax q d a b s) := by simp [execMax, hs]

@[simp] theorem keeps_execMinn {m : Sp Byte} (q : Bool) (d : Reg) (a : Reg) (b : Reg) {s : State} (hs : s.mem = m) :
    Keeps m (execMinn q d a b s) := by simp [execMinn, hs]

@[simp] theorem keeps_execMaxn {m : Sp Byte} (q : Bool) (d : Reg) (a : Reg) (b : Reg) {s : State} (hs : s.mem = m) :
    Keeps m (execMaxn q d a b s) := by simp [execMaxn, hs]

@[simp] theorem keeps_execPtpMessage {m : Sp Byte} (from_ : PtpFrom) (offset : Word) (trim : Word) (locked : Bool) {s : State} (hs : s.mem = m) :
    Keeps m (execPtpMessage from_ offset trim locked s) := by simp [execPtpMessage, hs]

@[simp] theorem keeps_execPtpHoldover {m : Sp Byte} {s : State} (hs : s.mem = m) : Keeps m (execPtpHoldover s) := by simp [execPtpHoldover, hs]

@[simp] theorem keeps_execVfDisable {m : Sp Byte} {s : State} (hs : s.mem = m) : Keeps m (execVfDisable s) := by simp [execVfDisable, hs]

@[simp] theorem keeps_execVfEnable {m : Sp Byte} {s : State} (hs : s.mem = m) : Keeps m (execVfEnable s) := by simp [execVfEnable, hs]

@[simp] theorem keeps_execDebugResume {m : Sp Byte} (fn : HostFn) (ctx : Nat) {s : State} (hs : s.mem = m) :
    Keeps m (execDebugResume fn ctx s) := by simp [execDebugResume, hs]

@[simp] theorem keeps_execVsRed {m : Sp Byte} (q : Bool) (d a b : Reg) {s : State} (hs : s.mem = m) : Keeps m (execVsRed q d a b s) := by
  refine keeps_withRegs hs fun s1 h1 => keeps_withStream hs h1 fun node => keeps_withMember hs h1 fun k x => ?_
  extract_lets y n st
  split
  · simp [hs, h1]
  · refine keeps_withSource hs h1 fun data s2 h2 => ?_
    split
    · simp [hs, h2]
    · split <;> simp [hs, h2]

@[simp] theorem keeps_execVsMark {m : Sp Byte} (q : Bool) (d a : Reg) {s : State} (hs : s.mem = m) : Keeps m (execVsMark q d a s) := by
  refine keeps_withRegs hs fun s1 h1 => keeps_withStream hs h1 fun node => keeps_withMember hs h1 fun k x => ?_
  extract_lets st
  split <;> simp [hs, h1]

@[simp] theorem keeps_execVsSt {m : Sp Byte} (q : Bool) (d a : Reg) {s : State} (hs : s.mem = m) : Keeps m (execVsSt q d a s) :=
  keeps_withRegs hs fun s1 h1 => keeps_withStream hs h1 fun node => keeps_withMember hs h1 fun k x => by simp [hs, h1]

@[simp] theorem keeps_execVsRejoin {m : Sp Byte} (q : Bool) (d a : Reg) {s : State} (hs : s.mem = m) : Keeps m (execVsRejoin q d a s) := by
  refine keeps_withRegs hs fun s1 h1 => keeps_withStream hs h1 fun node => keeps_withMember hs h1 fun k x => ?_
  split <;> simp [hs, h1]

@[simp] theorem keeps_execVsClose {m : Sp Byte} (q : Bool) (d a : Reg) {s : State} (hs : s.mem = m) : Keeps m (execVsClose q d a s) := by
  refine keeps_withRegs hs fun s1 h1 => keeps_withStream hs h1 fun node => ?_
  split <;> simp [hs, h1]

@[simp] theorem keeps_execChunkArrival {m : Sp Byte} (node : Nat) (station : Nat) (input : Nat) (c : Chunk) {s : State} (hs : s.mem = m) :
    Keeps m (execChunkArrival node station input c s) := by simp [execChunkArrival, hs]

@[simp] theorem keeps_execMarkerArrival {m : Sp Byte} (node : Nat) (station : Nat) (input : Nat) (c : Chunk) {s : State} (hs : s.mem = m) :
    Keeps m (execMarkerArrival node station input c s) := by simp [execMarkerArrival, hs]

@[simp] theorem keeps_execStreamInputTimeout {m : Sp Byte} (node : Nat) (station : Nat) (input : Nat) {s : State} (hs : s.mem = m) :
    Keeps m (execStreamInputTimeout node station input s) := by simp [execStreamInputTimeout, hs]

@[simp] theorem keeps_execInputDeadDeclare {m : Sp Byte} (node : Nat) (member : Nat) {s : State} (hs : s.mem = m) :
    Keeps m (execInputDeadDeclare node member s) := by simp [execInputDeadDeclare, hs]

@[simp] theorem keeps_execLccReport {m : Sp Byte} (node : Nat) (member : Nat) {s : State} (hs : s.mem = m) :
    Keeps m (execLccReport node member s) := by simp [execLccReport, hs]

end Sys2Proof.Machine
end

section
/-! Instructions that store nothing (O18). -/

namespace Sys2Proof.Machine

open Sys2Proof.Claims

theorem sameBytes_of_keeps {i : Instr} {s t : State} {o : Out} (he : exec i s = o) (hk : Keeps s.mem o) (ht : exec i s = .next t) : SameBytes s t := by
  rw [← he, ht] at hk
  exact fun k => rdByte_congr hk k

/-- The posted store of a form. -/
theorem exec_of_postedForm {i : Instr} {f : StoreForm} (h : postedForm i = some f) : ∃ z, ∀ s, exec i s = pstOp f.len f.q f.r f.a z f.disp s := by
  unfold postedForm at h
  split at h
  case h_1 q r a z i =>
    obtain rfl := Option.some.inj h
    exact ⟨z, fun s => exec_pst ..⟩
  case h_2 q r a z i =>
    obtain rfl := Option.some.inj h
    exact ⟨z, fun s => exec_pstX ..⟩
  case h_3 => cases h

/-- Settles O18: integerFrame for the integer forms, and keeps_ of the meaning of each other instruction. -/
theorem nonStoringFrame : Obligations.NonStoringFrame := by
  intro i hi s t ht
  simp only [storesNothing, Bool.or_eq_true, Option.isSome_iff_exists] at hi
  rcases hi with ((((⟨f, hf⟩ | ⟨f, hf⟩) | ⟨f, hf⟩) | ⟨f, hf⟩) | ⟨f, hf⟩) | hi
  · exact (integerFrame i f hf s t ht).2.1
  · exact sameBytes_of_keeps (exec_of_branchForm hf s) (keeps_branch _ _ _ _ _ _ _ rfl) ht
  · obtain ⟨z, -, hexec⟩ := exec_of_loadForm hf
    exact sameBytes_of_keeps (hexec s) (keeps_loadOp _ _ _ _ _ _ rfl) ht
  · obtain ⟨z, hexec⟩ := exec_of_postedForm hf
    exact sameBytes_of_keeps (hexec s) (keeps_pstOp _ _ _ _ _ _ rfl) ht
  · obtain ⟨base, hexec⟩ := exec_of_ctlForm hf
    exact sameBytes_of_keeps (hexec s) (keeps_ctlOp _ _ _ _ _ rfl) ht
  · split at hi
    · exact sameBytes_of_keeps (exec_aadd ..) (keeps_execAadd _ _ _ _ rfl) ht
    · exact sameBytes_of_keeps (exec_j ..) (keeps_execJ _ _ rfl) ht
    · exact sameBytes_of_keeps (exec_jX ..) (keeps_execJX _ _ _ rfl) ht
    · exact sameBytes_of_keeps (exec_jr ..) (keeps_execJr _ _ _ rfl) ht
    · exact sameBytes_of_keeps (exec_callr ..) (keeps_execCallr _ _ _ rfl) ht
    · exact sameBytes_of_keeps (exec_call ..) (keeps_execCall _ _ _ rfl) ht
    · exact sameBytes_of_keeps (exec_ret ..) (keeps_execRet _ _ rfl) ht
    · exact sameBytes_of_keeps (exec_lp ..) (keeps_execLp _ _ _ rfl) ht
    · exact sameBytes_of_keeps (exec_ldPeek ..) (keeps_execLdPeek _ _ _ _ rfl) ht
    · exact sameBytes_of_keeps (exec_feRd ..) (keeps_execFeRd _ _ _ _ rfl) ht
    · exact sameBytes_of_keeps (exec_rsv ..) (keeps_execRsv _ _ _ _ rfl) ht
    · exact sameBytes_of_keeps (exec_putAdd ..) (keeps_execPutAdd _ _ _ _ rfl) ht
    · exact sameBytes_of_keeps (exec_putSet ..) (keeps_execPutSet _ _ _ _ rfl) ht
    · exact sameBytes_of_keeps (exec_putFill ..) (keeps_execPutFill _ _ _ _ rfl) ht
    · exact sameBytes_of_keeps (exec_putNc ..) (keeps_execPutNc _ _ _ rfl) ht
    · exact sameBytes_of_keeps (exec_bcopy ..) (keeps_execBcopy _ _ _ _ rfl) ht
    · exact sameBytes_of_keeps (exec_fencePut ..) (keeps_execFencePut _ rfl) ht
    · exact sameBytes_of_keeps (exec_fencePost ..) (keeps_execFencePost _ rfl) ht
    · exact sameBytes_of_keeps (exec_fenceAll ..) (keeps_execFenceAll _ rfl) ht
    · exact sameBytes_of_keeps (exec_cpf ..) (keeps_execCpf _ _ rfl) ht
    · exact sameBytes_of_keeps (exec_cwb ..) (keeps_execCwb _ _ rfl) ht
    · exact sameBytes_of_keeps (exec_cfl ..) (keeps_execCfl _ _ rfl) ht
    · exact sameBytes_of_keeps (exec_latArm ..) (keeps_execLatArm _ _ _ _ rfl) ht
    · exact sameBytes_of_keeps (exec_latWait ..) (keeps_execLatWait _ _ _ rfl) ht
    · exact sameBytes_of_keeps (exec_latClr ..) (keeps_execLatClr _ _ rfl) ht
    · exact sameBytes_of_keeps (exec_tid ..) (keeps_execTid _ _ rfl) ht
    · exact sameBytes_of_keeps (exec_ctlRd ..) (keeps_execCtlRd _ _ _ _ rfl) ht
    · exact sameBytes_of_keeps (exec_gtime ..) (keeps_execGtime _ _ rfl) ht
    · exact sameBytes_of_keeps (exec_ffl ..) (keeps_execFfl _ _ rfl) ht
    · exact sameBytes_of_keeps (exec_pjRd ..) (keeps_execPjRd _ _ _ rfl) ht
    · exact sameBytes_of_keeps (exec_pjClr ..) (keeps_execPjClr _ _ _ rfl) ht
    · exact sameBytes_of_keeps (exec_tret ..) (keeps_execTret _ rfl) ht
    · exact sameBytes_of_keeps (exec_tretX ..) (keeps_execTretX _ _ rfl) ht
    · exact sameBytes_of_keeps (exec_trap ..) (keeps_execTrap _ _ _ _ rfl) ht
    · exact sameBytes_of_keeps (exec_brk ..) (keeps_execBrk _ rfl) ht
    · exact sameBytes_of_keeps (exec_illegalInstruction ..) (keeps_execIllegalInstruction _ rfl) ht
    · cases hi

end Sys2Proof.Machine
end

section
/-! Memory's canonical form (O60): the functions of the model that write bytes keep it, in the order of their definitions. -/

namespace Sys2Proof.Machine

open Sys2Proof.Claims

/-- A memory in canonical form. -/
def Canon (m : Sp Byte) : Prop := Memory.wf m = true

@[simp] theorem canon_spSet {m : Sp Byte} (h : Canon m) (k : Nat) (v : Byte) : Canon (spSet memDefault m k v) := spWf_spSet _ _ _ _ h

@[simp] theorem canon_filter {m : Sp Byte} (h : Canon m) (p : Nat × Byte → Bool) : Canon (m.filter p) := spWf_filter _ _ _ h

@[simp] theorem canon_ite (c : Prop) [Decidable c] (a b : Sp Byte) : Canon (if c then a else b) ↔ (c → Canon a) ∧ (¬ c → Canon b) := by
  split <;> simp_all

theorem canon_foldl {α : Type} {f : State → α → State} (hf : ∀ s a, Canon s.mem → Canon (f s a).mem) (l : List α) {s : State} (h : Canon s.mem) :
    Canon (l.foldl f s).mem :=
  foldl_rel (R := fun s t : State => Canon s.mem → Canon t.mem) (fun _ h => h) (fun _ _ _ h k hs => k (h hs)) hf l s h

theorem canon_asHart {f : State → State} (hf : ∀ s, Canon s.mem → Canon (f s).mem) (t : Nat) {s : State} (h : Canon s.mem) : Canon (asHart t f s).mem :=
  hf { s with me := t } h

theorem canon_flow {s0 s : State} (h0 : Canon s0.mem) (h : Canon s.mem) (target : Word) (live : Option (BitVec 15)) (q : Bool) :
    Canon (flow s0 target live q s).mem := by
  rcases mem_flow_cases s0 target live q s with e | e <;> rw [e]
  · exact h
  · exact h0

theorem canon_retireLive {s0 s : State} (h0 : Canon s0.mem) (h : Canon s.mem) (n : Nat) (live : Option (BitVec 15)) (q : Bool) :
    Canon (retireLive s0 n live q s).mem := by
  rcases mem_retireLive_cases s0 n live q s with e | e <;> rw [e]
  · exact h
  · exact h0

theorem canon_retire {s0 s : State} (h0 : Canon s0.mem) (h : Canon s.mem) (n : Nat) (q : Bool) : Canon (retire s0 n q s).mem := canon_retireLive h0 h ..


/-- An answer that carries a state carries one of canonical memory. -/
def OkCanon {ε : Type} : Except ε State → Prop
  | .ok s => Canon s.mem
  | .error _ => True

@[simp] theorem okCanon_ok {ε : Type} (s : State) : OkCanon (.ok s : Except ε State) ↔ Canon s.mem := Iff.rfl

@[simp] theorem okCanon_error {ε : Type} (e : ε) : OkCanon (.error e) ↔ True := Iff.rfl

theorem OkCanon.ok {ε : Type} {r : Except ε State} (h : OkCanon r) {s : State} (e : r = .ok s) : Canon s.mem := by
  subst e
  exact h

/-- A state that an operation may give has canonical memory. -/
def SomeCanon (o : Option State) : Prop := ∀ s, o = some s → Canon s.mem

@[simp] theorem someCanon_some (s : State) : SomeCanon (some s) ↔ Canon s.mem := ⟨fun h => h s rfl, fun h _ e => Option.some.inj e ▸ h⟩

@[simp] theorem someCanon_none : SomeCanon none ↔ True := ⟨fun _ => trivial, fun _ _ e => nomatch e⟩

/-- A state whose memory is canonical. -/
def CanonState (s : State) : Prop := Canon s.mem

@[simp] theorem canon_wrByte {s : State} (hs : Canon s.mem) (key : Nat) (b : Byte) : Canon (wrByte s key b).mem := by simp [wrByte, hs]

@[simp] theorem canon_wrRun (key : Nat) (bs : List Byte) {s : State} (hs : Canon s.mem) : Canon (wrRun s key bs).mem := by
  induction bs generalizing key s with
  | nil => exact hs
  | cons b bs ih => exact ih (key + 1) (canon_wrByte hs key b)

@[simp] theorem canon_wrWord {s : State} (hs : Canon s.mem) (key : Nat) (v : Word) : Canon (wrWord s key v).mem := by simp [wrWord, hs]

@[simp] theorem canon_wrPieces (ps : List Piece) (bs : List Byte) {s : State} (hs : Canon s.mem) : Canon (wrPieces s ps bs).mem := by
  induction ps generalizing bs s with
  | nil => exact hs
  | cons p ps ih => exact ih _ (canon_wrRun _ _ hs)

@[simp] theorem canon_serveList (word fuel : Nat) {s : State} (hs : Canon s.mem) : Canon (serveList word fuel s).mem := by
  induction fuel generalizing s with
  | zero => exact hs
  | succ n ih =>
    unfold serveList
    dsimp only
    split
    · exact hs
    · split <;> split <;> first | exact hs | exact ih (by simp [hs])

@[simp] theorem canon_lessWaiter (key : Nat) {s : State} (hs : Canon s.mem) : Canon (lessWaiter key s).mem := by simp [lessWaiter, hs]

@[simp] theorem canon_releaseWaiter (t : Nat) {s : State} (hs : Canon s.mem) : Canon (releaseWaiter s t).mem := by
  unfold releaseWaiter
  dsimp only
  split
  · split
    · exact hs
    · exact canon_asHart (fun s h => canon_retire h (by simp [h]) ..) t (by simp [hs])
  · exact hs

@[simp] theorem canon_testBarriers (word : Nat) {s : State} (hs : Canon s.mem) : Canon (testBarriers word s).mem := canon_foldl (fun s a h => by simp [h]) _ hs

@[simp] theorem canon_afterWord {s : State} (hs : Canon s.mem) (word : Nat) : Canon (afterWord s word).mem := by simp [afterWord, hs]

@[simp] theorem canon_afterWrite (s0 : State) (ps : List Piece) {s : State} (hs : Canon s.mem) : Canon (afterWrite s0 ps s).mem :=
  canon_foldl (fun s w h => by simp [h]) _ (by simp [hs])

@[simp] theorem canon_storePieces (core : Nat) (ps : List Piece) (data : List Byte) {s : State} (hs : Canon s.mem) :
    Canon (storePieces core ps data s).mem := by simp [storePieces, hs]

@[simp] theorem canon_releaseHold (t word : Nat) {s : State} (hs : Canon s.mem) : Canon (releaseHold t word s).mem := by
  unfold releaseHold
  extract_lets r s1 s2
  have h1 : Canon s1.mem := hs
  have h2 : Canon s2.mem := by
    unfold s2
    split
    · exact canon_afterWord h1 word
    · exact h1
  split <;> exact h2

@[simp] theorem canon_landWrite (ps : List Piece) (data : List Byte) (full : Bool) {s : State} (hs : Canon s.mem) : Canon (landWrite ps data full s).mem := by
  refine canon_afterWrite s ps ?_
  split
  · exact canon_foldl (fun s w h => by simp [h]) _ (by simp [hs])
  · simp [hs]

@[simp] theorem canon_landChunk (node : Nat) (m : Nat) (c : Chunk) {s : State} (hs : Canon s.mem) : Canon (landChunk node m c s).mem := by simp [landChunk, hs]

@[simp] theorem canon_storeFe (core : Nat) (ps : List Piece) (data : List Byte) (fe : Nat) {s : State} (hs : Canon s.mem) :
    Canon (storeFe core ps data fe s).mem := by
  refine canon_afterWrite s ps ?_
  split
  · simp [hs]
  · exact canon_foldl (fun s w h => by simp [h]) _ (by simp [hs])

@[simp] theorem canon_queueAppendTo (qn o ctx tenant pkg : Nat) (a : Word) (data : List Byte) {s : State} (hs : Canon s.mem) :
    OkCanon (queueAppendTo qn o ctx tenant pkg a data s) := by
  unfold queueAppendTo
  dsimp only
  (repeat' split) <;> simp [hs]

@[simp] theorem canon_queueStore (qn o ctx tenant : Nat) (a : Word) (data : List Byte) {s : State} (hs : Canon s.mem) :
    OkCanon (queueStore qn o ctx tenant a data s) := by
  unfold queueStore
  dsimp only
  (repeat' split) <;> simp [hs]

@[simp] theorem canon_mediaControl (node : Nat) (v : Word) {s : State} (hs : Canon s.mem) : Canon (mediaControl node v s).mem := by simp [mediaControl, hs]

@[simp] theorem canon_streamStoreWord (node : Nat) (o : Nat) (i : Nat) (data : List Byte) {s : State} (hs : Canon s.mem) :
    Canon (streamStoreWord node o i data s).mem := by simp [streamStoreWord, hs]

@[simp] theorem canon_streamStore (node : Nat) (a : Word) (fuel o : Nat) (data : List Byte) {s : State} (hs : Canon s.mem) :
    OkCanon (streamStore node a fuel o data s) := by
  induction fuel generalizing o data s with
  | zero => exact hs
  | succ n ih =>
    unfold streamStore
    dsimp only
    split
    · exact hs
    · split
      · trivial
      · exact ih _ _ (by simp [hs])

@[simp] theorem canon_unitEffect (ctx tenant node kind o : Nat) (a : Word) (data : List Byte) {s : State} (hs : Canon s.mem) :
    OkCanon (unitEffect ctx tenant node kind o a data s) := by
  unfold unitEffect
  split
  · exact canon_queueStore _ _ _ _ _ _ hs
  · cases h : engineStore node o ctx a data s with
    | ok s1 => exact (congrArg Canon (mem_engineStore h)).mpr hs
    | error i => trivial
  · exact canon_streamStore _ _ _ _ _ hs
  · split
    · exact hs
    · trivial
  · trivial

@[simp] theorem canon_unitStore (ctx tenant node kind o : Nat) (a : Word) (data : List Byte) {s : State} (hs : Canon s.mem) :
    OkCanon (unitStore ctx tenant node kind o a data s) := by
  unfold unitStore
  split
  next s1 e => simp [(canon_unitEffect ctx tenant node kind o a data hs).ok e]
  · trivial

@[simp] theorem canon_agentWrite (w : Who) (a : Word) (data : List Byte) (fe : Nat) {s : State} (hs : Canon s.mem) : OkCanon (agentWrite w a data fe s) := by
  unfold agentWrite
  generalize resolve s w a data.length (if fe = 0 then needWr else needRw) = r
  split
  · trivial
  · cases r with
    | error i => trivial
    | ok p => cases p <;> dsimp only <;> (repeat' split) <;> simp [hs]

@[simp] theorem canon_copyCells (src dst n : Nat) {s : State} (hs : Canon s.mem) : Canon (copyCells src dst n s).mem := by
  induction n generalizing src dst s with
  | zero => exact hs
  | succ n ih =>
    refine ih (src + 1) (dst + 1) ?_
    split <;> simp [hs]

@[simp] theorem canon_copyRun (src : Nat) (dst : Nat) (n : Nat) {s : State} (hs : Canon s.mem) : Canon (copyRun src dst n s).mem := by simp [copyRun, hs]

@[simp] theorem canon_copyPage (load : Bool) (ps : List Piece) (pa : Nat) {s : State} (hs : Canon s.mem) : Canon (copyPage load ps pa s).mem := by
  induction ps generalizing pa s with
  | nil => exact hs
  | cons p ps ih =>
    refine ih _ ?_
    split <;> simp [hs]

@[simp] theorem canon_backPage (ps : List Piece) (pa : Nat) {s : State} (hs : Canon s.mem) : Canon (backPage ps pa s).mem := by
  induction ps generalizing pa s with
  | nil => exact hs
  | cons p ps ih => exact ih _ (canon_foldl (fun t i h => by split <;> simp [h]) _ hs)

@[simp] theorem canon_mapCopy (k : Nat) (e : MapEnt) (load : Bool) {s : State} (hs : Canon s.mem) :
    Canon (mapCopy k e load s).mem := canon_foldl (fun s a h => by split <;> simp [h]) _ hs

@[simp] theorem canon_mapInstall (w : Who) (k : Nat) (v : Word) {s : State} (hs : Canon s.mem) : OkCanon (mapInstall w k v s) := by
  unfold mapInstall
  dsimp only
  (repeat' split) <;> simp [hs]

@[simp] theorem canon_mapRemove (k : Nat) (v : Word) {s : State} (hs : Canon s.mem) : Canon (mapRemove k v s).mem := by simp [mapRemove, hs]

@[simp] theorem canon_tableEffect (w : Who) (o : Nat) (a : Word) (data : List Byte) {s : State} (hs : Canon s.mem) : OkCanon (tableEffect w o a data s) := by
  unfold tableEffect
  dsimp only
  split
  · trivial
  · split
    · simp only [okCanon_ok]
      split <;> exact hs
    · split
      · split
        next s1 e => exact (canon_mapInstall _ _ _ hs).ok e
        · trivial
      · split
        · simp only [okCanon_ok]
          split
          · exact hs
          · exact canon_mapRemove _ _ hs
        · exact hs

@[simp] theorem canon_tableStore (w : Who) (o : Nat) (a : Word) (data : List Byte) {s : State} (hs : Canon s.mem) : OkCanon (tableStore w o a data s) := by
  unfold tableStore
  split
  next s1 e =>
    have h1 := (canon_tableEffect w o a data hs).ok e
    simp only [okCanon_ok]
    split <;> simp [h1]
  · trivial

@[simp] theorem canon_writeRecord (t c e : Nat) {s : State} (hs : Canon s.mem) : Canon (writeRecord t c e s).mem := by
  unfold writeRecord
  dsimp only
  split
  · simp [hs]
  · split
    next s1 h => simp [(canon_agentWrite _ _ _ _ hs).ok h]
    · simp [hs]

@[simp] theorem canon_retireEntry (c e : Nat) (r : Option Refused) {s : State} (hs : Canon s.mem) : Canon (retireEntry c e r s).mem := by
  unfold retireEntry
  dsimp only
  split
  · split
    · simp [hs]
    · split
      · split
        · simpa using canon_writeRecord _ c e (by simp [hs])
        · simp [hs]
      · simp [hs]
  · exact hs

@[simp] theorem canon_postedWrite (w : Who) (node gen : Nat) (a : Word) (data : List Byte) (fe : Nat) {s : State} (hs : Canon s.mem) :
    OkCanon (postedWrite w node gen a data fe s) := by
  unfold postedWrite
  generalize postedPlace s w node gen a data.length needWr = r
  cases r with
  | error i => trivial
  | ok p =>
    cases p with
    | mem ps => simp [hs]
    | unit n kind o g =>
      dsimp only
      split
      · trivial
      · split
        next s1 e => exact (canon_unitStore _ _ _ _ _ _ _ hs).ok e
        · trivial
    | table o =>
      dsimp only
      split
      · trivial
      · split
        next s1 e => exact (canon_tableStore _ _ _ _ hs).ok e
        · trivial
    | peer => trivial

@[simp] theorem canon_landSegment (p : Packet) (dst : Word) (o : Nat) (data : List Byte) {s : State} (hs : Canon s.mem) :
    Canon (landSegment p dst o data s).mem := by
  -- unfolding at the function itself keeps the kernel from evaluating the checks of the destination
  suffices h : ∀ f, f = @landSegment → CanonState (f p dst o data s) from h _ rfl
  intro f hf
  delta landSegment at hf
  subst hf
  beta_reduce
  extract_lets a n refused
  have hrefused : ∀ k, Canon (refused k).mem := fun k => by simp [refused, hs]
  clear_value refused n a
  have h := canon_postedWrite (packetWho s p) p.node p.gen a (data.take n) 0 hs
  generalize postedWrite (packetWho s p) p.node p.gen a (data.take n) 0 s = r at h ⊢
  generalize postedPlace s (packetWho s p) p.node p.gen a data.length needWr = place
  cases place with
  | error r => exact hrefused r
  | ok pl =>
    cases r with
    | error i => exact hrefused i
    | ok s1 => simp [CanonState, show Canon s1.mem from h]

@[simp] theorem canon_copyTo (p : Packet) (data : List Byte) {s : State} (hs : Canon s.mem) : Canon (copyTo p data s).mem := by
  unfold copyTo
  extract_lets j
  have h := canon_postedWrite (packetWho s p) j.node j.gen (copyAt j).2.1 data 0 hs
  generalize postedWrite (packetWho s p) j.node j.gen (copyAt j).2.1 data 0 s = r at h ⊢
  generalize peerVia s p.ctx j.node j.addr = via
  cases via with
  | some k => simp [hs]
  | none =>
    cases r with
    | error r => exact hs
    | ok s1 => simp [show Canon s1.mem from h]

@[simp] theorem canon_copyLine (p : Packet) (brought : List Byte) {s : State} (hs : Canon s.mem) : Canon (copyLine p brought s).mem := by
  unfold copyLine
  extract_lets w j
  generalize copyAt j = place
  obtain ⟨src, rest, n⟩ := place
  generalize peerVia s p.ctx j.cnode j.src = via
  dsimp only
  generalize postedPlace s w j.cnode j.cgen src n needRd = place
  cases via with
  | some k =>
    dsimp only
    split
    · simp [hs]
    · split <;> simp [hs]
  | none =>
    cases place with
    | error r => simp [hs]
    | ok pl =>
      cases pl <;> dsimp only
      · split <;> simp [hs]
      all_goals simp [hs]

@[simp] theorem canon_landPacket (p : Packet) (dst : Word) (o : Nat) (data : List Byte) {s : State} (hs : Canon s.mem) : Canon (landPacket p dst o data s).mem := by
  unfold landPacket
  (repeat' split) <;> simp [hs]

@[simp] theorem canon_landEarlier (uid ctx h fuel : Nat) {s : State} (hs : Canon s.mem) : Canon (landEarlier uid ctx h fuel s).mem := by
  induction fuel generalizing s with
  | zero => exact hs
  | succ n ih =>
    unfold landEarlier
    split
    · exact ih (by simp [hs])
    · exact hs

@[simp] theorem canon_clearPages (runs : List (Nat × Nat)) {s : State} (hs : Canon s.mem) : Canon (clearPages runs s).mem := by simp [clearPages, hs]

theorem canon_allocPages (ranges : List (Nat × Nat)) (node n : Nat) {s : State} (hs : Canon s.mem) {runs : List (Nat × Nat)} {s' : State}
    (h : allocPages ranges node n s = some (runs, s')) : Canon s'.mem := by
  unfold allocPages at h
  obtain ⟨r, -, e⟩ := Option.map_eq_some_iff.1 h
  obtain ⟨-, rfl⟩ := Prod.ext_iff.1 e
  simp [hs]

theorem canon_subTable (node a : Nat) {s : State} (hs : Canon s.mem) {k : Nat} {s' : State} (h : subTable node a s = some (k, s')) : Canon s'.mem := by
  unfold subTable at h
  dsimp only at h
  split at h
  · obtain ⟨-, rfl⟩ := Prod.ext_iff.1 (Option.some.inj h)
    exact hs
  · split at h
    next p n rest s1 e =>
      obtain ⟨-, rfl⟩ := Prod.ext_iff.1 (Option.some.inj h)
      simp [canon_allocPages _ _ _ hs e]
    · cases h

theorem canon_mapPage (node root page pa kind : Nat) {s : State} (hs : Canon s.mem) : SomeCanon (mapPage node root page pa kind s) := by
  unfold mapPage
  split
  · simp
  next e1 =>
    split
    · simp
    next e2 =>
      split
      · simp
      next e3 => simp [canon_subTable _ _ (canon_subTable _ _ (canon_subTable _ _ hs e1) e2) e3]

theorem canon_mapRun (node root kind n page pa : Nat) {s : State} (hs : Canon s.mem) : SomeCanon (mapRun node root kind n page pa s) := by
  induction n generalizing page pa s with
  | zero => simpa [mapRun] using hs
  | succ n ih =>
    unfold mapRun
    split
    · simp
    next s1 e => exact ih _ _ (canon_mapPage _ _ _ _ _ hs s1 e)

theorem canon_mapRuns (node root kind : Nat) (rs : List (Nat × Nat)) (page : Nat) {s : State} (hs : Canon s.mem) : SomeCanon (mapRuns node root kind rs page s) := by
  induction rs generalizing page s with
  | nil => simpa [mapRuns] using hs
  | cons r rs ih =>
    unfold mapRuns
    split
    · simp
    next s1 e => exact ih _ (canon_mapRun _ _ _ _ _ _ hs s1 e)

theorem canon_makeTable (node kind : Nat) (runs : List (Nat × Nat)) {s : State} (hs : Canon s.mem) {root : Nat} {s' : State}
    (h : makeTable node kind runs s = some (root, s')) : Canon s'.mem := by
  unfold makeTable at h
  split at h
  next p n rest s1 e =>
    obtain ⟨s2, e2, e3⟩ := Option.map_eq_some_iff.1 h
    obtain ⟨-, rfl⟩ := Prod.ext_iff.1 e3
    exact canon_mapRuns _ _ _ _ _ (canon_allocPages _ _ _ hs e) _ e2
  · cases h

@[simp] theorem canon_releaseNode (node : Nat) {s : State} (hs : Canon s.mem) : Canon (releaseNode node s).mem := by
  unfold releaseNode
  extract_lets n runs s1
  have h1 : Canon s1.mem := by
    unfold s1
    split <;> simp [hs]
  clear_value s1
  split
  · exact canon_foldl (fun s b h => by simp [h]) _ (by simp [h1])
  · split <;> exact h1
  · split
    · simp [h1]
    · split <;> simp [h1]
  · exact h1
  · exact h1

@[simp] theorem canon_acknowledged (rid : Nat) {s : State} (hs : Canon s.mem) : Canon (acknowledged rid s).mem := by
  unfold acknowledged
  extract_lets r s1
  have h1 : Canon s1.mem := by
    unfold s1
    split <;> simp [hs]
  clear_value s1
  split
  · exact h1
  · exact canon_foldl (fun s b h => by simp [h]) _ h1

theorem canon_makeRegion (x : Tx) (num : Nat) (w1 w2 w3 : Word) {s : State} (hs : Canon s.mem) {n : Node} {s' : State}
    (h : makeRegion x num w1 w2 w3 s = .ok (n, s')) : Canon s'.mem := by
  unfold makeRegion at h
  dsimp only at h
  split at h
  · cases h
  · split at h
    · split at h
      · cases h
      · split at h
        next root s1 e =>
          obtain ⟨-, rfl⟩ := Prod.ext_iff.1 (Except.ok.inj h)
          exact canon_makeTable _ _ _ hs e
        · cases h
    · split at h
      · cases h
      next runs s1 e =>
        split at h
        next root s2 e2 =>
          obtain ⟨-, rfl⟩ := Prod.ext_iff.1 (Except.ok.inj h)
          exact canon_makeTable _ _ _ (canon_allocPages _ _ _ hs e) e2
        · cases h

theorem mem_makeQueue {x : Tx} {num : Nat} {w1 w2 w3 : Word} {s s' : State} {n : Node} (h : makeQueue x num w1 w2 w3 s = .ok (n, s')) : s'.mem = s.mem := by
  unfold makeQueue at h
  generalize resolve s { whoCtx s x.ctx with unit := 9999 } w2 (bits w1 16 0 * 128) needRd = ring at h
  dsimp only at h
  repeat' split at h
  all_goals first
    | (cases h; done)
    | (obtain ⟨-, rfl⟩ := Prod.ext_iff.1 (Except.ok.inj h); simp)

theorem canon_makeCode (x : Tx) (num : Nat) (w1 w2 w3 : Word) {s : State} (hs : Canon s.mem) {n : Node} {s' : State}
    (h : makeCode x num w1 w2 w3 s = .ok (n, s')) : Canon s'.mem := by
  unfold makeCode at h
  dsimp only at h
  generalize agentRead s { whoCtx s x.ctx with unit := 9999 } w2 w1.toNat = rd at h
  split at h
  · cases h
  · split at h
    · cases h
    · cases rd with
      | error i => cases h
      | ok data =>
        dsimp only at h
        split at h
        · cases h
        next runs s1 e =>
          split at h
          · cases h
          next root s2 e2 =>
            obtain ⟨-, rfl⟩ := Prod.ext_iff.1 (Except.ok.inj h)
            exact canon_wrPieces _ _ (canon_makeTable _ _ _ (canon_allocPages _ _ _ hs e) e2)

theorem canon_makeNode (x : Tx) (num kind : Nat) (w1 w2 w3 : Word) {s : State} (hs : Canon s.mem) {n : Node} {s' : State}
    (h : makeNode x num kind w1 w2 w3 s = .ok (n, s')) : Canon s'.mem := by
  have hplain : ∀ {b : Bool} {m : Node}, (if b then .ok (m, s) else .error 13 : Made) = .ok (n, s') → Canon s'.mem := fun e => by
    split at e
    · obtain ⟨-, rfl⟩ := Prod.ext_iff.1 (Except.ok.inj e)
      exact hs
    · cases e
  have hsame : ∀ {m : Node}, (.ok (m, s) : Made) = .ok (n, s') → Canon s'.mem := fun e => by
    obtain ⟨-, rfl⟩ := Prod.ext_iff.1 (Except.ok.inj e)
    exact hs
  unfold makeNode at h
  dsimp only at h
  split at h
  · exact hplain h
  · exact canon_makeRegion _ _ _ _ _ hs h
  · exact (congrArg Canon (mem_makeQueue h)).mpr hs
  · split at h
    · cases h
    · split at h
      · exact hsame h
      · cases h
  · exact hplain h
  · split at h
    · cases h
    · split at h
      · cases h
      · exact hsame h
  · exact canon_makeCode _ _ _ _ _ hs h
  · split at h
    · cases h
    · exact hplain h
  · split at h
    · cases h
    · split at h
      next e =>
        obtain ⟨-, rfl⟩ := Prod.ext_iff.1 (Except.ok.inj h)
        split at e
        · exact canon_makeRegion _ _ _ _ _ hs e
        · cases e
      · cases h
  · split at h
    · cases h
    · split at h
      · exact hsame h
      · cases h
  · cases h

theorem canon_txCreate (x : Tx) (path : List Byte) (ws : List Word) {s : State} (hs : Canon s.mem) : (txCreate x path ws s).Onto Canon := by
  unfold txCreate
  dsimp only
  split
  · trivial
  · split
    · trivial
    · refine tx_withDir _ _ _ _ fun d => ?_
      split
      · trivial
      · split
        · trivial
        · split
          · trivial
          · split
            · trivial
            · split
              · trivial
              next e =>
                split
                · trivial
                next e2 => exact (congrArg Canon (mem_makeEntry e2)).mpr (by simpa using canon_makeNode _ _ _ _ _ _ hs e)

@[simp] theorem canon_storeRecord (pc : Word) (seq : Nat) (y : Word) (p : Place) (bytes : List Byte) {s : State} (hs : Canon s.mem) :
    Canon (storeRecord pc seq y p bytes s).mem := by
  unfold storeRecord
  cases p with
  | unit node kind o gen =>
    dsimp only
    split
    · simp [hs]
    · split
      next s1 e => exact (canon_unitStore _ _ _ _ _ _ _ hs).ok e
      · simp [hs]
  | table o =>
    dsimp only
    split
    next s1 e => exact (canon_tableStore _ _ _ _ hs).ok e
    · simp [hs]
  | mem => exact hs
  | peer => exact hs

@[simp] theorem canon_barPut (core : Nat) (ps : List Piece) (o : BarObj) {s : State} (hs : Canon s.mem) : Canon (barPut core ps o s).mem := by simp [barPut, hs]

@[simp] theorem canon_leaveBarrier (t : Nat) {s : State} (hs : Canon s.mem) : Canon (leaveBarrier t s).mem := by
  unfold leaveBarrier
  split <;> simp [hs]

@[simp] theorem canon_fnStore (fn : HostFn) (x : Tx) (node kind o : Nat) (a : Word) (data : List Byte) {s : State} (hs : Canon s.mem) :
    OkCanon (fnStore fn x node kind o a data s) := by
  unfold fnStore
  split
  · split <;> simp [hs]
  · simp [hs]

@[simp] theorem canon_dropHold (t : Nat) {s : State} (hs : Canon s.mem) : Canon (dropHold t s).mem := by
  unfold dropHold
  split <;> simp [hs]

@[simp] theorem canon_endThread (t : Nat) (trapped : Bool) {s : State} (hs : Canon s.mem) : Canon (endThread t trapped s).mem := by simp [endThread, hs]

@[simp] theorem canon_loadThread (t : Nat) (th : Thread) {s : State} (hs : Canon s.mem) : Canon (loadThread t th s).mem := by
  unfold loadThread
  extract_lets s1 s2 s3 s4
  have h1 : Canon s1.mem := by simp [s1, hs]
  have h2 : Canon s2.mem := by
    unfold s2
    split <;> exact h1
  have h3 : Canon s3.mem := canon_foldl (fun s l h => by split <;> simp [h]) _ h2
  have h4 : Canon s4.mem := by
    unfold s4
    split <;> simp [h3]
  simp [h4]

@[simp] theorem canon_nextProgram (t : Nat) {s : State} (hs : Canon s.mem) : Canon (nextProgram t s).mem := by
  unfold nextProgram
  split
  · exact canon_loadThread _ _ (by simp [hs])
  · split <;> simp [hs]

@[simp] theorem canon_endHart (t : Nat) (v : Word) {s : State} (hs : Canon s.mem) : Canon (endHart t v s).mem := by
  refine canon_nextProgram t ?_
  split <;> simp [hs]

@[simp] theorem canon_endDead (t : Nat) (tepc : Word) (tcause : Word) (tval : Word) (thst : Word) {s : State} (hs : Canon s.mem) :
    Canon (endDead t tepc tcause tval thst s).mem := by simp [endDead, hs]

@[simp] theorem canon_spillWrite (x : Launch) (o : Nat) (data : List Byte) {s : State} (hs : Canon s.mem) : Canon (spillWrite x o data s).mem := by
  unfold spillWrite
  split
  next s1 e => exact (canon_agentWrite _ _ _ _ hs).ok e
  · exact hs

@[simp] theorem canon_spillIn (p : Parcel) {s : State} (hs : Canon s.mem) : Canon (spillIn p s).mem := by
  unfold spillIn
  extract_lets x j entry next d w0 empty s1 s2 s3 s4
  have h2 : Canon s2.mem := canon_spillWrite _ _ _ (canon_spillWrite _ _ _ hs)
  have h3 : Canon s3.mem := by
    unfold s3
    split
    · exact h2
    · exact canon_spillWrite _ _ _ h2
  exact canon_spillWrite _ _ _ h3

@[simp] theorem canon_spillOut (core : Nat) {s : State} (hs : Canon s.mem) : Canon (spillOut core s).mem := by
  unfold spillOut
  split
  · exact hs
  · exact canon_spillWrite _ _ _ (canon_spillWrite _ _ _ (canon_spillWrite _ _ _ hs))

@[simp] theorem canon_placeSaved (t : Nat) (th : Thread) {s : State} (hs : Canon s.mem) : Canon (placeSaved t th s).mem := by
  unfold placeSaved
  dsimp only
  (repeat' split) <;> simp [hs]

@[simp] theorem canon_storeAnswer (a : Word) (bytes : List Byte) {s : State} (hs : Canon s.mem) : Canon (storeAnswer a bytes s).mem := by
  unfold storeAnswer
  split <;> simp [hs]

@[simp] theorem canon_answerName (t : Nat) (f : Forward) (d : Reg) (q : Bool) (a : RemoteAnswer) {s : State} (hs : Canon s.mem) :
    Canon (answerName t f d q a s).mem := by
  unfold answerName
  extract_lets s0
  have hend := mem_endForward f a s0
  generalize endForward f a s0 = r at hend ⊢
  obtain ⟨v, bytes, s1⟩ := r
  have h1 : Canon s1.mem := by rw [show s1.mem = s.mem from hend]; exact hs
  dsimp only
  refine canon_asHart (fun s h => canon_retire h (by simp [h]) ..) t ?_
  split
  · simp [h1]
  · simp only [mem_catchUp]
    exact canon_asHart (fun s h => by simp [h]) t h1

@[simp] theorem canon_answerFunction (fn : HostFn) (f : Forward) (a : RemoteAnswer) {s : State} (hs : Canon s.mem) : Canon (answerFunction fn f a s).mem := by
  unfold answerFunction
  extract_lets s0
  have hend := mem_endForward f a s0
  generalize endForward f a s0 = r at hend ⊢
  obtain ⟨v, bytes, s1⟩ := r
  have h1 : Canon s1.mem := by rw [show s1.mem = s.mem from hend]; exact hs
  dsimp only
  split
  · simp [s0, hs]
  · split
    · simp [h1]
    · split
      · simp [h1]
      · split
        next s2 e => simp [(canon_agentWrite _ _ _ _ h1).ok e]
        · simp [h1]

@[simp] theorem canon_answerForward (f : Forward) (a : RemoteAnswer) {s : State} (hs : Canon s.mem) : Canon (answerForward f a s).mem := by
  unfold answerForward
  split <;> simp [hs]

@[simp] theorem canon_answerHost (a : RemoteAnswer) {s : State} (hs : Canon s.mem) : Canon (answerHost a s).mem := by
  unfold answerHost
  split <;> simp [hs]

@[simp] theorem canon_cancelWait (t : Nat) {s : State} (hs : Canon s.mem) : Canon (cancelWait t s).mem := by simp [cancelWait, hs]

@[simp] theorem canon_vecWrite (t : Nat) (a : Word) (n : Nat) (f : List Byte → List Byte) {s : State} (hs : Canon s.mem) : OkCanon (vecWrite t a n f s) := by
  unfold vecWrite
  extract_lets w unitOut
  have hout : ∀ r, OkCanon r → OkCanon (unitOut r) := fun r h => by cases r <;> exact h
  generalize (hostMiss s w.unit w.ctx (hdl a)).isSome = miss
  generalize resolve s w a n needWr = r
  split
  · trivial
  · cases r with
    | error i => trivial
    | ok p =>
      cases p with
      | mem ps => dsimp only; split <;> simp [hs]
      | unit node kind o gen =>
        dsimp only
        split
        · trivial
        · exact hout _ (canon_unitStore _ _ _ _ _ _ _ (by rw [mem_meet]; split <;> simp [hs]))
      | table o => exact hout _ (canon_tableStore _ _ _ _ (by simp [hs]))
      | peer => trivial

@[simp] theorem canon_storeEls (t w : Nat) (p : Where) (j : Nat) (ms : List Bool) (vs : List Nat) {s : State} (hs : Canon s.mem) :
    Canon (storeEls t w p j ms vs s).2.mem := by
  induction ms generalizing j vs s with
  | nil => simpa [storeEls] using hs
  | cons m ms ih =>
    cases vs with
    | nil => simpa [storeEls] using hs
    | cons v vs =>
      unfold storeEls
      dsimp only
      split
      · exact ih _ _ hs
      · split
        · exact hs
        · split
          · exact hs
          next s1 e => exact ih _ _ ((canon_vecWrite _ _ _ _ hs).ok e)

@[simp] theorem canon_vecStoreAt (t : Nat) (c : VCmd) (w : Nat) (p : Where) {s : State} (hs : Canon s.mem) : Canon (vecStoreAt t c w p s).2.mem :=
  canon_storeEls _ _ _ _ _ _ hs

@[simp] theorem canon_sideStore (t : Nat) (c : VCmd) {s : State} (hs : Canon s.mem) : Canon (sideStore t c s).2.mem := by
  unfold sideStore
  split
  · exact hs
  · split
    · exact hs
    next s1 e => exact (canon_vecWrite _ _ _ _ hs).ok e

theorem canon_memoryOp (t : Nat) (c : VCmd) {s : State} (hs : Canon s.mem) {f : VFault} {s' : State} (h : memoryOp t c s = some (f, s')) : Canon s'.mem := by
  unfold memoryOp at h
  dsimp only at h
  split at h <;> first | (cases h; done) | (obtain ⟨-, rfl⟩ := Prod.ext_iff.1 (Option.some.inj h); simp [hs])

@[simp] theorem canon_runCommand (t : Nat) (c : VCmd) {s : State} (hs : Canon s.mem) : Canon (runCommand t c s).2.2.2.mem := by
  unfold runCommand
  split
  next f s1 e => exact canon_memoryOp t c hs e
  · simp [hs]

/-- A read that goes on keeps what the first part and the rest keep. -/
theorem canon_andThen {α β : Type} {x : Fetch α} {f : α → State → Fetch β} (hx : Canon x.2.mem) (hf : ∀ a s, Canon s.mem → Canon (f a s).2.mem) :
    Canon (andThen x f).2.mem := by
  obtain ⟨r, s⟩ := x
  cases r with
  | ok a => exact hf a s hx
  | error i => exact hx

@[simp] theorem mem_engineLoad (t : Nat) (a : Word) (n : Nat) (s : State) : (engineLoad t a n s).2.mem = s.mem := by
  unfold engineLoad
  extract_lets w
  generalize (hostMiss s w.unit w.ctx (hdl a)).isSome = miss
  generalize resolve s w a n needRd = r
  split
  · rfl
  · cases r with
    | error i => rfl
    | ok p =>
      cases p <;> dsimp only <;> (repeat' split) <;> simp

@[simp] theorem canon_mmRead (t ty : Nat) (a : Word) (n : Nat) {s : State} (hs : Canon s.mem) : Canon (mmRead t ty a n s).2.mem := by
  unfold mmRead
  extract_lets w
  generalize localLevel s w.core (rotOf s w.part w.tenant).1 (off a) = l
  split
  · exact hs
  · simp [hs]

@[simp] theorem canon_mmBlock (t ty : Nat) (a : Word) {s : State} (hs : Canon s.mem) : Canon (mmBlock t ty a s).2.mem := by
  refine canon_andThen (canon_mmRead _ _ _ _ hs) fun bs s1 h1 => ?_
  dsimp only
  split
  · exact h1
  · split
    · split
      · exact h1
      · simp [h1]
    · exact h1

@[simp] theorem canon_mmRun (t ty : Nat) (base : Word) (n disp : Nat) {s : State} (hs : Canon s.mem) : Canon (mmRun t ty base n disp s).2.mem := by
  induction n generalizing disp s with
  | zero => exact hs
  | succ n ih =>
    unfold mmRun
    split
    · exact hs
    · exact canon_andThen (canon_mmBlock _ _ _ hs) fun _ _ h1 => canon_andThen (ih _ h1) fun _ _ h2 => h2

@[simp] theorem canon_mmColumns (t : Nat) (d : Desc) (n j : Nat) {s : State} (hs : Canon s.mem) : Canon (mmColumns t d n j s).2.mem := by
  induction n generalizing j s with
  | zero => exact hs
  | succ n ih => exact canon_andThen (canon_mmRun _ _ _ _ _ hs) fun _ _ h1 => canon_andThen (ih _ h1) fun _ _ h2 => h2

@[simp] theorem canon_writeMmst (r : MmRun) (v : Word) {s : State} (hs : Canon s.mem) : OkCanon (writeMmst r v s) := by
  unfold writeMmst
  split
  next s1 e => exact (canon_agentWrite _ _ _ _ hs).ok e
  · trivial

@[simp] theorem canon_mmRow (r : MmRun) (g i : Nat) {s : State} (hs : Canon s.mem) : Canon (mmRow r g i s).2.mem := by
  refine canon_andThen (canon_mmRun _ _ _ _ _ hs) fun _ s1 h1 => canon_andThen (canon_mmColumns _ _ _ _ h1) fun _ s2 h2 => ?_
  split
  · exact h2
  · dsimp only
    split
    · exact h2
    · simp [h2]

@[simp] theorem canon_mmArrive (r : MmRun) (g : Nat) {s : State} (hs : Canon s.mem) : OkCanon (mmArrive r g s) := by
  unfold mmArrive
  extract_lets w x
  generalize (hostMiss s w.unit w.ctx (hdl x)).isSome = miss
  generalize resolve s w x 8 needRw = p
  split
  · trivial
  · cases p with
    | error i => trivial
    | ok p => cases p <;> dsimp only <;> (repeat' split) <;> simp [hs]

@[simp] theorem canon_mmFault (r : MmRun) (i : TrapInfo) {s : State} (hs : Canon s.mem) : Canon (mmFault r i s).mem := by
  unfold mmFault
  dsimp only
  split
  next s1 e => simp [(canon_writeMmst _ _ hs).ok e]
  · simp [hs]

@[simp] theorem canon_mmEnd (r : MmRun) {s : State} (hs : Canon s.mem) : Canon (mmEnd r s).mem := by
  unfold mmEnd
  dsimp only
  split
  · simp [hs]
  next s1 e =>
    refine canon_asHart (fun s h => ?_) r.t ((canon_writeMmst _ _ hs).ok e)
    split
    · exact canon_retire h (by simp [h]) ..
    · exact h

@[simp] theorem canon_mmAdvance (r : MmRun) {s : State} (hs : Canon s.mem) : Canon (mmAdvance r s).mem := by
  unfold mmAdvance
  split
  · simp [hs]
  next g i _ _ =>
    have h := canon_mmRow r g i hs
    generalize mmRow r g i s = x at h ⊢
    obtain ⟨_ | _, s1⟩ := x <;> simpa using h
  · split
    · simp [hs]
    next e => simp [(canon_mmArrive _ _ hs).ok e]
  · simp [hs]

@[simp] theorem canon_mmStart (t : Nat) (p prog : Word) {s : State} (hs : Canon s.mem) : Canon (mmStart t p prog s).mem := by
  unfold mmStart
  dsimp only
  have h := mem_engineLoad t p 192 s
  generalize engineLoad t p 192 s = x at h ⊢
  obtain ⟨_ | bs, s1⟩ := x <;> have h1 : Canon s1.mem := (congrArg Canon h).mpr hs
  · simp [h1]
  · dsimp only
    split
    · simp [h1]
    · split
      · simp [h1]
      next s2 e2 => simp [(canon_writeMmst _ _ h1).ok e2]

@[simp] theorem canon_restart (s : State) : Canon (restart s).mem := rfl

@[simp] theorem canon_writeStatus (q : Nat) (slot : Nat) (v : Word) (fe : Nat) {s : State} (hs : Canon s.mem) : Canon (writeStatus q slot v fe s).mem := by
  unfold writeStatus
  split <;> simp [hs]

@[simp] theorem canon_makeReady (q : Nat) (slot : Nat) {s : State} (hs : Canon s.mem) : Canon (makeReady q slot s).mem := by simp [makeReady, hs]

@[simp] theorem canon_agentAdd (w : Who) (a v : Word) {s : State} (hs : Canon s.mem) : OkCanon (agentAdd w a v s) := by
  unfold agentAdd
  generalize resolve s w a 8 needRw = r
  split
  · trivial
  · cases r with
    | error i => trivial
    | ok p => cases p <;> dsimp only <;> (repeat' split) <;> simp [hs]

theorem canon_tumblerWrite (owner action : Nat) (a v : Word) {s : State} (hs : Canon s.mem) : SomeCanon (tumblerWrite s owner action a v) := by
  unfold tumblerWrite
  dsimp only
  split
  · simp
  · split
    next s1 e =>
      split at e
      · simpa using (canon_agentAdd _ _ _ hs).ok e
      · simpa using (canon_agentWrite _ _ _ _ hs).ok e
    · simp

@[simp] theorem canon_endNode (q slot code detail : Nat) {s : State} (hs : Canon s.mem) : Canon (endNode q slot code detail s).mem := by
  change CanonState (endNode q slot code detail s)
  unfold endNode
  extract_lets x g r acted
  have h0 : SomeCanon acted := by
    unfold acted
    split
    · exact canon_tumblerWrite _ _ _ _ hs
    · split
      · exact canon_tumblerWrite _ _ _ _ hs
      · simpa using hs
  clear_value acted
  cases acted with
  | none => dsimp only; split <;> simp [CanonState, hs]
  | some s1 => dsimp only; split <;> simp [CanonState, h0 s1 rfl]

@[simp] theorem canon_endWork (q : Nat) (slot : Nat) (out : NodeEnd) {s : State} (hs : Canon s.mem) : Canon (endWork q slot out s).mem := by simp [endWork, hs]

@[simp] theorem canon_fetchFault (q : Nat) (slot : Nat) (code : Nat) (bs : List Byte) {s : State} (hs : Canon s.mem) :
    Canon (fetchFault q slot code bs s).mem := by simp [fetchFault, hs]

@[simp] theorem canon_startStream (q slot : Nat) (r : Record) {s : State} (hs : Canon s.mem) : Canon (startStream q slot r s).mem := by
  change CanonState (startStream q slot r s)
  unfold startStream
  extract_lets owner a fail
  have hfail : CanonState fail := by simp [CanonState, fail, hs]
  clear_value a fail
  generalize resolve s (whoCtx s owner) a 8 needWr = place
  split
  · exact hfail
  · split
    next node o gen =>
      split
      · exact hfail
      · have h := mem_createStream node (wordAt r.body 8) s
        generalize createStream node (wordAt r.body 8) s = c at h ⊢
        obtain ⟨code, s1⟩ := c
        have h1 : Canon s1.mem := (congrArg Canon h).mpr hs
        dsimp only
        split <;> simp [CanonState, h1, hs]
    · exact hfail

@[simp] theorem canon_dispatchWork (q slot : Nat) (g : GNode) {s : State} (hs : Canon s.mem) : Canon (dispatchWork q slot g s).mem := by
  unfold dispatchWork
  dsimp only
  split
  · simp [hs]
  · simp [hs]
  · split
    next s1 e =>
      split at e
      · exact (congrArg Canon (mem_fillAway e)).mpr hs
      · cases e
    · split
      next s1 e => simp [canon_tumblerWrite _ _ _ _ hs s1 e]
      · simp [hs]
  all_goals simp [hs]

@[simp] theorem canon_moveCells (dest : Nat → Option Nat) {s : State} (hs : Canon s.mem) : Canon (moveCells dest s).mem := by
  refine canon_foldl (fun s c h => ?_) _ (canon_foldl (fun s c h => by simp [h]) _ hs)
  split <;> simp [h]

@[simp] theorem canon_setWindow (n : Nat) (img : List Word) {s : State} (hs : Canon s.mem) : Canon (setWindow n img s).mem := by simp [setWindow, hs]

@[simp] theorem canon_buildSpill (x : Launch) {s : State} (hs : Canon s.mem) : Canon (buildSpill x s).mem :=
  canon_foldl (fun s c h => by simp [h]) _ (canon_foldl (fun s c h => by simp [h]) _ (by simp [hs]))

@[simp] theorem canon_beginLaunch (l : Nat) (x : Launch) {s : State} (hs : Canon s.mem) : Canon (beginLaunch l x s).mem := by
  unfold beginLaunch
  extract_lets s1 s2 s3 s4
  have h2 : Canon s2.mem := by
    unfold s2
    split <;> exact hs
  have h3 : Canon s3.mem := by
    unfold s3
    split <;> simp [h2]
  have h4 : Canon s4.mem := canon_foldl (fun s c h => by simp [h]) _ h3
  have h5 : Canon (x.cores.foldl (startComm x.ctx) s4).mem := canon_foldl (fun s c h => by simp [h]) _ h4
  simp [h5]

@[simp] theorem canon_writeTrapRecord (t : Nat) {s : State} (hs : Canon s.mem) : Canon (writeTrapRecord t s).mem := by simp [writeTrapRecord, hs]

@[simp] theorem canon_unmapAll (part : Nat) {s : State} (hs : Canon s.mem) : Canon (unmapAll part s).mem := canon_foldl (fun s a h => by simp [h]) _ hs

@[simp] theorem canon_remap (k : Nat) (e : MapEnt) {s : State} (hs : Canon s.mem) : Canon (remap s k e).mem := by
  unfold remap
  dsimp only
  split
  · split
    next s1 h => exact (canon_mapInstall _ _ _ (by exact hs)).ok h
    · exact hs
  · exact hs

@[simp] theorem canon_saveGang (p : Nat) {s : State} (hs : Canon s.mem) : Canon (saveGang p s).2.mem := by
  unfold saveGang
  extract_lets x cs ts s1 out s2 posts
  have h1 : Canon s1.mem := canon_foldl (fun s c h => by simp [h]) _ hs
  have h2 : Canon s2.mem := canon_foldl (fun s c h => by simp [h]) _ h1
  have h3 : Canon (posts.foldl (fun s g => withdrawResv g s) s2).mem := canon_foldl (fun s c h => by simp [h]) _ h2
  exact canon_unmapAll p (by rw [mem_takeThreads]; exact h3)

@[simp] theorem canon_loadGang (g : Saved) {s : State} (hs : Canon s.mem) : Canon (loadGang g s).mem := by
  unfold loadGang
  extract_lets x s1 s2 s3 s4 s5
  have h1 : Canon s1.mem := spWf_foldl_spSet _ _ _ (spWf_filter _ _ _ hs)
  have h2 : Canon s2.mem := canon_foldl (fun s e h => by simp [h]) _ (canon_foldl (fun s e h => by simp [h]) _ h1)
  have h3 : Canon s3.mem := canon_foldl (fun s e h => by simp [h]) _ h2
  have h4 : Canon s4.mem := canon_foldl (fun s e h => by simp [h]) _ h3
  exact canon_foldl (fun s e h => by simp [h]) _ h4

@[simp] theorem canon_handIn (ctx : Nat) {s : State} (hs : Canon s.mem) (e : Nat × Thread) : Canon (handIn ctx s e).mem := by simp [handIn, hs]

@[simp] theorem canon_handOver (p : Nat) {s : State} (hs : Canon s.mem) : Canon (handOver p s).mem :=
  canon_foldl (fun s e h => canon_foldl (fun s e h => by simp [h]) _ h) _ (canon_foldl (fun s e h => by simp [h]) _ hs)

@[simp] theorem canon_failForward (f : Forward) {s : State} (hs : Canon s.mem) : Canon (failForward f s).mem := by
  unfold failForward
  (repeat' split) <;> simp [hs]

@[simp] theorem canon_loseRoutes (hit : Nat → Nat → Bool) {s : State} (hs : Canon s.mem) : Canon (loseRoutes hit s).mem := by
  unfold loseRoutes
  extract_lets s1 s2 s3
  have h1 : Canon s1.mem := canon_foldl (fun s e h => by simp [h]) _ hs
  have h2 : Canon s2.mem := canon_foldl (fun s e h => by simp [h]) _ h1
  have h3 : Canon s3.mem := canon_foldl (fun s e h => by simp [h]) _ h2
  exact canon_foldl (fun s e h => by simp [h]) _ h3

@[simp] theorem canon_portDown (port : Nat) {s : State} (hs : Canon s.mem) : Canon (portDown port s).mem := by simp [portDown, hs]

@[simp] theorem canon_nodeRequest (m : List Byte) {s : State} (hs : Canon s.mem) : Canon (nodeRequest m s).mem := by
  unfold nodeRequest
  dsimp only
  split
  · simp [hs]
  next x _ =>
    have h := canon_txCreate x ([1, 0, 0, 0, 0, 0, 0, 0] ++ (m.drop 8).take 16) ((upTo 4).map fun i => wordAt m (24 + 8 * i)) hs
    split
    next e => rw [e] at h; simp [show Canon _ from h]
    · simp [hs]
    · simp [hs]
    · exact hs

@[simp] theorem canon_dropRoutes (old : Partition) (new : Partition) {s : State} (hs : Canon s.mem) : Canon (dropRoutes old new s).mem := by simp [dropRoutes, hs]

@[simp] theorem canon_installRecord (part : Nat) (new : Partition) {s : State} (hs : Canon s.mem) : Canon (installRecord part new s).mem := by
  unfold installRecord
  split <;> simp [hs]

@[simp] theorem canon_removeRecord (part : Nat) {s : State} (hs : Canon s.mem) : Canon (removeRecord part s).mem := by
  unfold removeRecord
  extract_lets old s1 s2
  have h1 : Canon s1.mem := by simp [s1, hs]
  have h2 : Canon s2.mem := canon_foldl (fun s e h => by simp [h]) _ h1
  simp [h2]

@[simp] theorem canon_mediaCount (node : Nat) (lo : Nat) {s : State} (hs : Canon s.mem) : Canon (mediaCount node lo s).mem := by simp [mediaCount, hs]

theorem canon_ingestWrite (node : Nat) (a : Word) (data : List Byte) (fe : Nat) {s : State} (hs : Canon s.mem) : SomeCanon (ingestWrite node a data fe s) := by
  unfold ingestWrite
  split
  next s1 e => simpa using (canon_agentWrite _ _ _ _ hs).ok e
  · simp

@[simp] theorem canon_writeGroup (m : MFrame) (g : Nat) (w : Word) {s : State} (hs : Canon s.mem) : Canon (writeGroup m g w s).mem := by
  unfold writeGroup
  cases h : ingestWrite m.node (offWrap (recordAddr m.fmt m.stat m.frame) (64 + 8 * Int.ofNat g)) (leList 8 w.toNat) 1 s with
  | none => exact hs
  | some s1 => exact canon_ingestWrite _ _ _ _ hs s1 h

@[simp] theorem canon_completeGroup (m : MFrame) (g : Nat) {s : State} (hs : Canon s.mem) : Canon (completeGroup m g s).2.mem := by
  unfold completeGroup
  split
  · exact hs
  · simp [hs]

@[simp] theorem canon_landRow (port : Nat) (m : MFrame) (row : MediaRow) {s : State} (hs : Canon s.mem) : Canon (landRow port (m, s) row).2.mem := by
  unfold landRow
  dsimp only
  have h := fun o => canon_ingestWrite m.node (offWrap (slotAddr m.fmt m.ring m.frame) o) row.data 0 hs
  generalize row.x / 2 * (if bit m.fmt 14 then 6 else 5) = x
  split
  · exact hs
  · split
    · exact hs
    next s1 e => split <;> simp [h _ s1 e]

@[simp] theorem canon_landAncillary (port : Nat) (m : MFrame) (p : MediaPacket) {s : State} (hs : Canon s.mem) : Canon (landAncillary port m p s).2.mem := by
  unfold landAncillary
  dsimp only
  split
  · simp [hs]
  · split
    · exact hs
    next s1 e => simp only [apply_ite Prod.snd]; split <;> simp [canon_ingestWrite _ _ _ _ hs s1 e]

@[simp] theorem canon_landVideo (port : Nat) (m : MFrame) (p : MediaPacket) {s : State} (hs : Canon s.mem) : Canon (landVideo port m p s).2.mem :=
  foldl_rel (R := fun r t : MFrame × State => Canon r.2.mem → Canon t.2.mem) (fun _ h => h) (fun _ _ _ h k hs => k (h hs))
    (fun r row h => canon_landRow port r.1 row h) p.rows (m, s) hs

@[simp] theorem canon_fileMediaPacket (port : Nat) (m : MFrame) (p : MediaPacket) {s : State} (hs : Canon s.mem) : Canon (fileMediaPacket port m p s).mem := by
  unfold fileMediaPacket
  split
  · split <;> simp [hs]
  · dsimp only
    split <;> simp [hs]

@[simp] theorem canon_streamPacket (node : Nat) (port : Nat) (p : MediaPacket) {s : State} (hs : Canon s.mem) : Canon (streamPacket node port p s).mem := by
  unfold streamPacket
  (repeat' split) <;> simp [hs]

@[simp] theorem canon_loseThread {s : State} (hs : Canon s.mem) (t : Nat) : Canon (loseThread s t).mem := by
  unfold loseThread
  split <;> simp [hs]

@[simp] theorem canon_loseSaved (cs : List Nat) {s : State} (hs : Canon s.mem) : Canon (loseSaved cs s).mem := canon_foldl (fun s a h => by split <;> simp [h]) _ hs

@[simp] theorem canon_loseWork (cs : List Nat) {s : State} (hs : Canon s.mem) : Canon (loseWork cs s).mem := by
  unfold loseWork
  extract_lets ts s0 s1 s2 gone queues
  have h1 : Canon s1.mem := canon_foldl (fun s e h => by simp [h]) _ hs
  have h2 : Canon (ts.foldl loseThread s1).mem := canon_foldl (fun s e h => by simp [h]) _ h1
  simp [s2, h2]

@[simp] theorem canon_configWrite (fn : HostFn) (o : Nat) (v : Word) {s : State} (hs : Canon s.mem) : Canon (configWrite fn o v s).mem := by simp [configWrite, hs]

@[simp] theorem canon_regionWrite (fn : HostFn) (o : Nat) (v : Word) {s : State} (hs : Canon s.mem) : Canon (regionWrite fn o v s).mem := by
  unfold regionWrite
  (repeat' split) <;> simp [hs]

@[simp] theorem canon_takeAsync (t : Nat) {s : State} (hs : Canon s.mem) : Canon (takeAsync t s).mem := by
  unfold takeAsync
  split <;> simp [hs]

@[simp] theorem canon_settle (t : Nat) (a : After) {s : State} (hs : Canon s.mem) : Canon (settle t a s).mem := by
  unfold settle
  split <;> simp [hs]

end Sys2Proof.Machine
end

section
/-! Memory's canonical form (O60): every instruction, every event and every turn keeps it. -/

namespace Sys2Proof.Machine

open Sys2Proof.Claims

@[simp] theorem onto_next (Q : Sp Byte → Prop) (s : State) : Onto Q (.next s) ↔ Q s.mem := Iff.rfl

@[simp] theorem onto_ite (Q : Sp Byte → Prop) (c : Prop) [Decidable c] (a b : Out) : Onto Q (if c then a else b) ↔ (c → Onto Q a) ∧ (¬ c → Onto Q b) := by
  split <;> simp_all

@[simp] theorem onto_trapHere {Q : Sp Byte → Prop} (cause reason : Nat) (tval : Word) {s : State} (h : Q s.mem) : Onto Q (trapHere cause reason tval s) :=
  (keeps_trapHere _ _ _ rfl).onto h

@[simp] theorem onto_illegal {Q : Sp Byte → Prop} (base : BitVec 32) {s : State} (h : Q s.mem) : Onto Q (illegal base s) := (keeps_illegal _ rfl).onto h

@[simp] theorem onto_exactAt {Q : Sp Byte → Prop} (n : Nat) (i : TrapInfo) {s : State} (h : Q s.mem) : Onto Q (exactAt n i s) := (keeps_exactAt _ _ rfl).onto h

@[simp] theorem canon_execPutSegmentLand (p : Packet) (dst : Word) (off_ : Nat) (data : List Byte) {s : State} (hs : Canon s.mem) :
    Onto Canon (execPutSegmentLand p dst off_ data s) := by simp [execPutSegmentLand, hs]

@[simp] theorem canon_execPutSegmentAck (p : Packet) (bytes : Nat) (refused : Option Refused) {s : State} (hs : Canon s.mem) :
    Onto Canon (execPutSegmentAck p bytes refused s) := by
  unfold execPutSegmentAck
  extract_lets s0 j s1 s2
  have h0 : Canon s0.mem := by
    unfold s0
    split <;> simp [hs]
  have h2 : Canon s2.mem := by
    unfold s2
    split
    · exact canon_retireEntry _ _ _ (by simpa [s1] using h0)
    · simpa [s1] using h0
  split
  · exact h0
  · split
    · simp only [onto_next]
      split <;> simp [h0]
    · split
      · exact h2
      · split <;> simp [h2]

@[simp] theorem canon_execPutCounterAction (core : Nat) (entry : JRef) {s : State} (hs : Canon s.mem) : Onto Canon (execPutCounterAction core entry s) := by
  unfold execPutCounterAction
  extract_lets j s1 w tag words answer
  have h1 : Canon s1.mem := by simp [s1, hs]
  have hanswer : ∀ r {s' : State}, Canon s'.mem → Onto Canon (answer r s') := fun r s' h => by simp [answer, h]
  clear_value words answer
  split
  · exact hs
  · generalize peerVia s j.ctx j.cnode j.caddr = via
    generalize postedPlace s w j.cnode j.cgen j.caddr 8 needRw = place
    cases via with
    | some k =>
      dsimp only
      split
      · exact hanswer _ h1
      · simp [h1]
    | none =>
      have hput : ∀ data fe, OkCanon (postedWrite w j.cnode j.cgen j.caddr data fe s1) := fun _ _ => canon_postedWrite _ _ _ _ _ _ h1
      have hacted : ∀ {r : Except Nat State}, OkCanon r → Onto Canon (match r with
          | .ok s2 => answer none s2
          | .error r => answer (some ⟨r, j.caddr⟩) s1) := fun {r} h => by
        cases r with
        | ok s2 => exact hanswer _ h
        | error r => exact hanswer _ h1
      cases place with
      | error r => exact hanswer _ h1
      | ok p =>
        cases p with
        | mem ps =>
          dsimp only
          split
          · exact hanswer _ h1
          · exact hanswer _ (canon_storeFe _ _ _ _ h1)
        | unit n k o g => exact hacted (hput _ _)
        | table o => exact hacted (hput _ _)
        | peer k => exact hacted (hput _ _)

@[simp] theorem canon_execPostedAck (core : Nat) (entry : JRef) (refused : Option Refused) {s : State} (hs : Canon s.mem) :
    Onto Canon (execPostedAck core entry refused s) := by simp [execPostedAck, hs]

@[simp] theorem canon_storeOp (len : Nat) (q : Bool) (r a : Reg) (z : StoreSize) (disp : Int) {s : State} (hs : Canon s.mem) :
    Onto Canon (storeOp len q r a z disp s) := by
  refine onto_withRegs hs _ _ fun s1 h1 => ?_
  have c1 : Canon s1.mem := (congrArg Canon h1).mpr hs
  generalize effAddr (xr (cur s1) a) disp = ad
  cases ad with
  | error i => exact onto_exactAt _ _ hs
  | ok ea =>
    refine onto_withPlace hs _ _ _ _ fun p => ?_
    cases p with
    | mem ps => exact onto_withMemory hs c1 _ _ _ _ _ _ fun s2 h2 => onto_done hs (canon_storePieces _ _ _ ((congrArg Canon h2).mpr c1)) _ _
    | unit node kind o gen =>
      dsimp only
      split
      · exact onto_done hs (by simpa using c1) _ _
      · split
        next s2 e => exact onto_done hs ((canon_unitStore _ _ _ _ _ _ _ (by rw [mem_meet]; split <;> simp [c1])).ok e) _ _
        · exact onto_done hs (by simpa using c1) _ _
    | table o =>
      dsimp only
      split
      next s2 e => exact onto_done hs ((canon_tableStore _ _ _ _ (by simpa using c1)).ok e) _ _
      · exact onto_exactAt _ _ hs
    | peer k => exact (keeps_postStore rfl h1 ..).onto hs

@[simp] theorem canon_execSt (q : Bool) (r a : Reg) (z : StoreSize) (i : BitVec 12) {s : State} (hs : Canon s.mem) :
    Onto Canon (execSt q r a z i s) := canon_storeOp _ _ _ _ _ _ hs

@[simp] theorem canon_execStX (q : Bool) (r a : Reg) (z : StoreSize) (disp : BitVec 32) {s : State} (hs : Canon s.mem) : Onto Canon (execStX q r a z disp s) :=
  canon_storeOp _ _ _ _ _ _ hs

@[simp] theorem canon_execLdTake (q : Bool) (d a : Reg) (i : WordDisp) {s : State} (hs : Canon s.mem) : Onto Canon (execLdTake q d a i s) := by
  unfold execLdTake
  dsimp only
  refine onto_withRegs hs _ _ fun s1 h1 => ?_
  refine onto_withWord hs ((congrArg Canon h1).mpr hs) _ _ _ _ _ _ _ _ fun ea key ps s2 h2 => ?_
  split
  · exact onto_lateResult hs (by simp [h2, h1, hs]) _ _ _ _
  · exact (keeps_joinList rfl (h2.trans h1) ..).onto hs

@[simp] theorem canon_execStGive (q : Bool) (r a : Reg) (i : WordDisp) {s : State} (hs : Canon s.mem) : Onto Canon (execStGive q r a i s) := by
  unfold execStGive
  dsimp only
  refine onto_withRegs hs _ _ fun s1 h1 => ?_
  refine onto_withWord hs ((congrArg Canon h1).mpr hs) _ _ _ _ _ _ _ _ fun ea key ps s2 h2 => ?_
  split
  · exact onto_lateResult hs (by simp [h2, h1, hs]) _ _ _ _
  · exact (keeps_joinList rfl (h2.trans h1) ..).onto hs

@[simp] theorem canon_execStFill (q : Bool) (r a : Reg) (i : WordDisp) {s : State} (hs : Canon s.mem) : Onto Canon (execStFill q r a i s) := by
  unfold execStFill
  dsimp only
  refine onto_withRegs hs _ _ fun s1 h1 => ?_
  exact onto_withWord hs ((congrArg Canon h1).mpr hs) _ _ _ _ _ _ _ _ fun _ _ _ s2 h2 => onto_done hs (by simp [h2, h1, hs]) _ _

@[simp] theorem canon_execFeClr (q : Bool) (a : Reg) (i : WordDisp) {s : State} (hs : Canon s.mem) : Onto Canon (execFeClr q a i s) := by
  unfold execFeClr
  dsimp only
  refine onto_withRegs hs _ _ fun s1 h1 => ?_
  exact onto_withWord hs ((congrArg Canon h1).mpr hs) _ _ _ _ _ _ _ _ fun _ _ _ s2 h2 => onto_done hs (by simp [h2, h1, hs]) _ _

@[simp] theorem canon_amo (q : Bool) (d a b : Reg) (w : Bool) (f : (n : Nat) → BitVec n → BitVec n → BitVec n → BitVec n) (srcs : List Reg) {s : State}
    (hs : Canon s.mem) : Onto Canon (amo q d a b w f srcs s) :=
  onto_withRegs hs _ _ fun s1 h1 => onto_withWord hs ((congrArg Canon h1).mpr hs) _ _ _ _ _ _ _ _ fun _ _ _ s2 h2 =>
    onto_lateResult hs (canon_storePieces _ _ _ (by simp [h2, h1, hs])) _ _ _ _

@[simp] theorem canon_execAmoAdd (q : Bool) (d : Reg) (a : Reg) (b : Reg) (w : Bool) {s : State} (hs : Canon s.mem) :
    Onto Canon (execAmoAdd q d a b w s) := canon_amo _ _ _ _ _ _ _ hs

@[simp] theorem canon_execAmoAnd (q : Bool) (d : Reg) (a : Reg) (b : Reg) (w : Bool) {s : State} (hs : Canon s.mem) :
    Onto Canon (execAmoAnd q d a b w s) := canon_amo _ _ _ _ _ _ _ hs

@[simp] theorem canon_execAmoOr (q : Bool) (d : Reg) (a : Reg) (b : Reg) (w : Bool) {s : State} (hs : Canon s.mem) :
    Onto Canon (execAmoOr q d a b w s) := canon_amo _ _ _ _ _ _ _ hs

@[simp] theorem canon_execAmoXor (q : Bool) (d : Reg) (a : Reg) (b : Reg) (w : Bool) {s : State} (hs : Canon s.mem) :
    Onto Canon (execAmoXor q d a b w s) := canon_amo _ _ _ _ _ _ _ hs

@[simp] theorem canon_execAmoMin (q : Bool) (d : Reg) (a : Reg) (b : Reg) (w : Bool) {s : State} (hs : Canon s.mem) :
    Onto Canon (execAmoMin q d a b w s) := canon_amo _ _ _ _ _ _ _ hs

@[simp] theorem canon_execAmoMax (q : Bool) (d : Reg) (a : Reg) (b : Reg) (w : Bool) {s : State} (hs : Canon s.mem) :
    Onto Canon (execAmoMax q d a b w s) := canon_amo _ _ _ _ _ _ _ hs

@[simp] theorem canon_execAmoMinn (q : Bool) (d : Reg) (a : Reg) (b : Reg) (w : Bool) {s : State} (hs : Canon s.mem) :
    Onto Canon (execAmoMinn q d a b w s) := canon_amo _ _ _ _ _ _ _ hs

@[simp] theorem canon_execAmoMaxn (q : Bool) (d : Reg) (a : Reg) (b : Reg) (w : Bool) {s : State} (hs : Canon s.mem) :
    Onto Canon (execAmoMaxn q d a b w s) := canon_amo _ _ _ _ _ _ _ hs

@[simp] theorem canon_execAmoSwap (q : Bool) (d : Reg) (a : Reg) (b : Reg) (w : Bool) {s : State} (hs : Canon s.mem) :
    Onto Canon (execAmoSwap q d a b w s) := canon_amo _ _ _ _ _ _ _ hs

@[simp] theorem canon_execAmoCas (q : Bool) (d : Reg) (a : Reg) (b : Reg) (w : Bool) {s : State} (hs : Canon s.mem) :
    Onto Canon (execAmoCas q d a b w s) := canon_amo _ _ _ _ _ _ _ hs

@[simp] theorem canon_release (len : Nat) (q : Bool) (srcs : List Reg) (a : Reg) (i : WordDisp) (v : State → Option Word) {s : State} (hs : Canon s.mem) :
    Onto Canon (release len q srcs a i v s) :=
  onto_withRegs hs _ _ fun s1 h1 => onto_withWord hs ((congrArg Canon h1).mpr hs) _ _ _ _ _ _ _ _ fun _ _ _ s2 h2 =>
    onto_done hs (canon_releaseHold _ _ (by split <;> simp [h2, h1, hs])) _ _

@[simp] theorem canon_execRls (q : Bool) (r a : Reg) (i : WordDisp) {s : State} (hs : Canon s.mem) : Onto Canon (execRls q r a i s) := canon_release _ _ _ _ _ _ hs

@[simp] theorem canon_execRlsN (q : Bool) (a : Reg) (i : WordDisp) {s : State} (hs : Canon s.mem) : Onto Canon (execRlsN q a i s) := canon_release _ _ _ _ _ _ hs

@[simp] theorem canon_execMapEntryInstall (t table entry : Nat) (v : Word) {s : State} (hs : Canon s.mem) : Onto Canon (execMapEntryInstall t table entry v s) := by
  unfold execMapEntryInstall
  dsimp only
  split
  · split
    next e => exact (canon_mapInstall _ _ _ hs).ok e
    · exact hs
  · exact hs

@[simp] theorem canon_execMapEntryRemove (t : Nat) (table : Nat) (entry : Nat) (v : Word) {s : State} (hs : Canon s.mem) :
    Onto Canon (execMapEntryRemove t table entry v s) := by simp [execMapEntryRemove, hs]

@[simp] theorem canon_execRevokeAck (rid : Nat) (quadrant : Nat) {s : State} (hs : Canon s.mem) :
    Onto Canon (execRevokeAck rid quadrant s) := by simp [execRevokeAck, hs]

@[simp] theorem canon_execNstat (q : Bool) (d a b : Reg) {s : State} (hs : Canon s.mem) : Onto Canon (execNstat q d a b s) := by
  refine onto_withRegs hs _ _ fun s1 h1 => ?_
  have c1 : Canon s1.mem := (congrArg Canon h1).mpr hs
  refine onto_withRecord hs _ _ _ _ fun p => onto_withOperand _ _ hs c1 fun h => ?_
  cases p with
  | mem ps =>
    refine onto_withMemory hs c1 _ _ _ _ _ _ fun s2 h2 => ?_
    have c2 : Canon s2.mem := (congrArg Canon h2).mpr c1
    exact onto_endName _ _ hs c2 (fun bytes => canon_storePieces _ _ _ c2) (tx_txStat ..)
  | unit node kind o gen => exact onto_endName _ _ hs c1 (fun bytes => canon_storeRecord _ _ _ _ _ c1) (tx_txStat ..)
  | table o => exact onto_endName _ _ hs c1 (fun bytes => canon_storeRecord _ _ _ _ _ c1) (tx_txStat ..)
  | peer k => exact onto_endName _ _ hs c1 (fun bytes => canon_storeRecord _ _ _ _ _ c1) (tx_txStat ..)

@[simp] theorem canon_execNcreate (q : Bool) (d a b : Reg) {s : State} (hs : Canon s.mem) : Onto Canon (execNcreate q d a b s) := by
  refine onto_withRegs hs _ _ fun s1 h1 => ?_
  have c1 : Canon s1.mem := (congrArg Canon h1).mpr hs
  refine onto_withRecord hs _ _ _ _ fun _ => onto_withRecord hs _ _ _ _ fun _ => onto_withPath hs c1 _ _ _ _ fun path s2 h2 => ?_
  have c2 : Canon s2.mem := (congrArg Canon h2).mpr c1
  refine onto_readRecord hs c2 _ _ _ _ fun r s3 h3 => ?_
  have c3 : Canon s3.mem := (congrArg Canon h3).mpr c2
  exact onto_endName _ _ hs c3 (fun _ => c3) (canon_txCreate _ _ _ c3)

@[simp] theorem canon_execBarInit (q : Bool) (a b : Reg) {s : State} (hs : Canon s.mem) : Onto Canon (execBarInit q a b s) := by
  refine onto_withRegs hs _ _ fun s1 h1 => onto_withBar hs ((congrArg Canon h1).mpr hs) _ _ fun ps s2 h2 => ?_
  dsimp only
  split
  · exact (keeps_barOverrun _ rfl).onto hs
  · exact onto_done hs (canon_storePieces _ _ _ (by simp [h2, h1, hs])) _ _

@[simp] theorem canon_barArrOp (q : Bool) (d a b : Reg) {s : State} (hs : Canon s.mem) : Onto Canon (barArrOp q d a b s) := by
  refine onto_withRegs hs _ _ fun s1 h1 => onto_withBar hs ((congrArg Canon h1).mpr hs) _ _ fun ps s2 h2 => ?_
  dsimp only
  split
  · exact (keeps_barOverrun _ rfl).onto hs
  · split
    · exact onto_unlessFault hs _ (onto_trapHere _ _ _ (canon_barPut _ _ _ hs))
    · refine onto_done hs ?_ _ _
      rw [mem_wr]
      exact canon_barPut _ _ _ (by simp [h2, h1, hs])

@[simp] theorem canon_execBarArr (q : Bool) (d a b : Reg) {s : State} (hs : Canon s.mem) : Onto Canon (execBarArr q d a b s) := canon_barArrOp _ _ _ _ hs

@[simp] theorem canon_execBarArrf (q : Bool) (d a b : Reg) {s : State} (hs : Canon s.mem) : Onto Canon (execBarArrf q d a b s) := by
  unfold execBarArrf
  split
  · exact onto_unlessFault hs _ (by simpa using hs)
  · exact canon_barArrOp _ _ _ _ (by simpa using hs)

@[simp] theorem canon_execBarWait (q : Bool) (d a b : Reg) {s : State} (hs : Canon s.mem) : Onto Canon (execBarWait q d a b s) := by
  refine onto_withRegs hs _ _ fun s1 h1 => onto_withBar hs ((congrArg Canon h1).mpr hs) _ _ fun ps s2 h2 => ?_
  dsimp only
  split
  · exact (keeps_barOverrun _ rfl).onto hs
  · split
    · exact (keeps_barEnd _ _ _ rfl (h2.trans h1)).onto hs
    · split
      · exact onto_lateResult hs (by simp [h2, h1, hs]) _ _ _ _
      · refine onto_unlessFault hs _ ?_
        simp only [onto_next, mem_park]
        exact canon_barPut _ _ _ (by simp [h2, h1, hs])

@[simp] theorem canon_execBarrierWaitTimeout (t : Nat) {s : State} (hs : Canon s.mem) : Onto Canon (execBarrierWaitTimeout t s) := by
  unfold execBarrierWaitTimeout
  split
  · split
    · exact hs
    · split
      · exact canon_releaseWaiter t hs
      · exact canon_asHart (fun s h => canon_retire h (by simp [h]) ..) t hs
  · exact hs

@[simp] theorem canon_execHostStat (fn : HostFn) (h : Nat) (a : Word) {s : State} (hs : Canon s.mem) : Onto Canon (execHostStat fn h a s) := by
  unfold execHostStat
  split
  · simp [hs]
  next x _ =>
    refine onto_endHost _ _ _ hs (fun bytes => ?_) (tx_hostHandle _ (tx_txStat ..))
    have hw := canon_agentWrite (whoHost x) a bytes 0 hs
    dsimp only
    generalize agentWrite (whoHost x) a bytes 0 s = r at hw ⊢
    generalize hostMiss s (whoHost x).unit (whoHost x).ctx (hdl a) = miss
    split
    · simp [hs]
    · cases miss with
      | some n => simp [hs]
      | none =>
        dsimp only
        split
        · simp [hs]
        · cases r with
          | ok s1 => simpa using hw
          | error i => simp [hs]

@[simp] theorem canon_execHostCreate (fn : HostFn) (path : List Byte) (ws : List Word) {s : State} (hs : Canon s.mem) :
    Onto Canon (execHostCreate fn path ws s) := by
  refine onto_hostTx _ _ _ hs fun x => ?_
  split
  · trivial
  · exact canon_txCreate _ _ _ hs

@[simp] theorem canon_peerCounter (fn : HostFn) (a : Word) (data : List Byte) {s : State} (hs : Canon s.mem) : Onto Canon (peerCounter fn a data s) := by
  unfold peerCounter
  dsimp only
  split
  · simp [hs]
  · refine onto_hostAccess _ _ _ _ _ _ _ hs fun x p => ?_
    cases p with
    | mem ps => dsimp only; split <;> simp [hs]
    | unit node kind o gen =>
      dsimp only
      split
      · simp [hs]
      · split
        next e => simpa using (canon_fnStore _ _ _ _ _ _ _ hs).ok e
        · simp [hs]
    | table o => simp [hs]
    | peer k => simp [hs]

@[simp] theorem canon_execHostWrite (fn : HostFn) (a : Word) (data : List Byte) (fe : BitVec 2) {s : State} (hs : Canon s.mem) :
    Onto Canon (execHostWrite fn a data fe s) := by
  unfold execHostWrite
  split
  · simp [hs]
  · split
    · simp [hs]
    · refine onto_hostAccess _ _ _ _ _ _ _ hs fun x p => ?_
      cases p with
      | mem ps => simp [hs]
      | unit node kind o gen =>
        dsimp only
        split
        · simp [hs]
        · split
          next e => simpa using (canon_fnStore _ _ _ _ _ _ _ hs).ok e
          · simp [hs]
      | table o => simp [hs]
      | peer k => simp [hs]

@[simp] theorem canon_execQueueAppend (node o ctx pkg : Nat) (data : List Byte) {s : State} (hs : Canon s.mem) :
    Onto Canon (execQueueAppend node o ctx pkg data s) := by
  unfold execQueueAppend
  dsimp only
  split
  · split
    next e => exact (canon_queueAppendTo _ _ _ _ _ _ _ hs).ok e
    · exact hs
  · exact hs

@[simp] theorem canon_execCcCreate (fn : HostFn) {s : State} (hs : Canon s.mem) : Onto Canon (execCcCreate fn s) := by
  have hanswer : ∀ b v {s' : State}, Canon s'.mem → Canon (ccAnswer b v s').mem := fun b v s' h => by simpa using h
  unfold execCcCreate
  split
  · simp [hs]
  · extract_lets p e pages tenant part c
    clear_value p e pages tenant part c
    cases part with
    | none => exact hanswer _ _ hs
    | some part =>
      dsimp only
      split
      · exact hanswer _ _ hs
      · split
        · exact hanswer _ _ hs
        · split
          · exact hanswer _ _ hs
          · split
            · exact hanswer _ _ hs
            · split
              next e1 e2 =>
                split
                · exact hanswer _ _ hs
                next e3 =>
                  refine hanswer _ _ (s' := _) ?_
                  have h3 := canon_makeRegion _ _ _ _ _ (canon_allocPages _ _ _ (by simpa using hs) e1) e3
                  simpa using h3
              · exact hanswer _ _ hs

@[simp] theorem canon_hartEnd (v : Word) {s : State} (hs : Canon s.mem) : Onto Canon (hartEnd v s) := by simp [hartEnd, hs]

@[simp] theorem canon_execExit (q : Bool) {s : State} (hs : Canon s.mem) : Onto Canon (execExit q s) := by
  unfold execExit
  dsimp only
  split
  · simp [hs]
  · split <;> simp [hs]

@[simp] theorem canon_execSlotFree (core slot : Nat) {s : State} (hs : Canon s.mem) : Onto Canon (execSlotFree core slot s) := by
  unfold execSlotFree
  dsimp only
  split
  · exact hs
  · split
    · exact canon_loadThread _ _ (by simp [hs])
    · split
      · exact hs
      · split
        · simp [hs]
        · split
          · simp [hs]
          · split
            · exact canon_spillOut _ (by simp [hs])
            · exact hs

@[simp] theorem canon_execUnfork (q : Bool) (a : Reg) (live : Option (BitVec 15)) {s : State} (hs : Canon s.mem) : Onto Canon (execUnfork q a live s) := by
  refine onto_withRegs hs _ _ fun s1 h1 => ?_
  have c1 : Canon s1.mem := (congrArg Canon h1).mpr hs
  dsimp only
  split
  · split
    · simp [h1, hs]
    · exact (keeps_misaligned rfl ..).onto hs
  · split
    · split
      · simp [h1, hs]
      · exact canon_execExit _ c1
    · exact canon_execExit _ c1

@[simp] theorem canon_execHalt (q : Bool) (a : Reg) {s : State} (hs : Canon s.mem) : Onto Canon (execHalt q a s) := by
  unfold execHalt
  dsimp only
  split
  · simp [hs]
  · split
    · simp [hs]
    · split
      · simp [hs]
      · exact onto_withRegs hs _ _ fun s1 h1 => onto_unlessFault hs _ (by simp [h1, hs])

@[simp] theorem canon_execLateResultReturn (t : Nat) (answer : Option RemoteAnswer) {s : State} (hs : Canon s.mem) :
    Onto Canon (execLateResultReturn t answer s) := by
  unfold execLateResultReturn
  (repeat' split) <;> simp [hs]

@[simp] theorem canon_execReservationHoldExpiry (t : Nat) {s : State} (hs : Canon s.mem) : Onto Canon (execReservationHoldExpiry t s) := by
  unfold execReservationHoldExpiry
  dsimp only
  split <;> simp [hs]

@[simp] theorem canon_execVectorCommandExec (core : Nat) {s : State} (hs : Canon s.mem) : Onto Canon (execVectorCommandExec core s) := by
  unfold execVectorCommandExec
  dsimp only
  (repeat' split) <;> simp [hs]

@[simp] theorem canon_execMmEngineRun (cluster : Nat) {s0 : State} (hs0 : Canon s0.mem) : Onto Canon (execMmEngineRun cluster s0) := by
  unfold execMmEngineRun
  dsimp only
  (repeat' split) <;> simp [hs0]

@[simp] theorem canon_execWatchdogExpiry (t : Nat) {s : State} (hs : Canon s.mem) : Onto Canon (execWatchdogExpiry t s) := by
  unfold execWatchdogExpiry
  (repeat' split) <;> simp [hs]

@[simp] theorem canon_execColdReset (s : State) : Onto Canon (execColdReset s) := by simp [execColdReset]

@[simp] theorem canon_execPkstWarmReset (bmi : Bool) {s : State} (hs : Canon s.mem) : Onto Canon (execPkstWarmReset bmi s) := by simp [execPkstWarmReset, hs]

@[simp] theorem canon_execBmiWritePkst (v : Word) {s : State} (hs : Canon s.mem) : Onto Canon (execBmiWritePkst v s) := by simp [execBmiWritePkst, hs]

@[simp] theorem canon_execBringupStageDone (ok : Bool) (mask : Word) {s : State} (hs : Canon s.mem) : Onto Canon (execBringupStageDone ok mask s) := by
  unfold execBringupStageDone
  dsimp only
  (repeat' split) <;> simp [hs]

@[simp] theorem canon_execNodeComplete (queue : Nat) (slot : Nat) (out : NodeEnd) {s : State} (hs : Canon s.mem) :
    Onto Canon (execNodeComplete queue slot out s) := by simp [execNodeComplete, hs]

@[simp] theorem canon_execRecordFetch (queue : Nat) {s0 : State} (hs0 : Canon s0.mem) : Onto Canon (execRecordFetch queue s0) := by
  unfold execRecordFetch
  dsimp only
  (repeat' split) <;> simp [hs0]

@[simp] theorem canon_execNodeRelease (queue : Nat) (slot : Nat) (order : Bool) (faulted : Bool) (origq : Nat) (origslot : Nat) {s : State} (hs : Canon s.mem) :
    Onto Canon (execNodeRelease queue slot order faulted origq origslot s) := by simp [execNodeRelease, hs]

@[simp] theorem canon_execNodeWaitTimeout (queue : Nat) (slot : Nat) {s : State} (hs : Canon s.mem) :
    Onto Canon (execNodeWaitTimeout queue slot s) := by simp [execNodeWaitTimeout, hs]

@[simp] theorem canon_execGateTimeout (queue : Nat) (slot : Nat) {s : State} (hs : Canon s.mem) :
    Onto Canon (execGateTimeout queue slot s) := by simp [execGateTimeout, hs]

@[simp] theorem canon_execNodeDispatch (queue : Nat) {s : State} (hs : Canon s.mem) : Onto Canon (execNodeDispatch queue s) := by
  unfold execNodeDispatch
  dsimp only
  split <;> simp [hs]

@[simp] theorem canon_execFormatWindowInstall (queue : Nat) (slot : Nat) (window : Nat) (image : List Word) {s : State} (hs : Canon s.mem) :
    Onto Canon (execFormatWindowInstall queue slot window image s) := by simp [execFormatWindowInstall, hs]

@[simp] theorem canon_execLaunchDispatch (queue : Nat) (slot : Nat) {s : State} (hs : Canon s.mem) : Onto Canon (execLaunchDispatch queue slot s) := by
  unfold execLaunchDispatch
  dsimp only
  (repeat' split) <;> simp [hs]

@[simp] theorem canon_execTravelDeparture (t : Nat) {s : State} (hs : Canon s.mem) : Onto Canon (execTravelDeparture t s) := by
  unfold execTravelDeparture
  dsimp only
  (repeat' split) <;> simp [hs]

@[simp] theorem canon_execTravelArrival (p : Parcel) {s : State} (hs : Canon s.mem) : Onto Canon (execTravelArrival p s) := by
  unfold execTravelArrival
  dsimp only
  (repeat' split) <;> simp [hs]

@[simp] theorem canon_execGangStop (part : Nat) {s : State} (hs : Canon s.mem) : Onto Canon (execGangStop part s) := by
  unfold execGangStop
  dsimp only
  (repeat' split) <;> simp [hs]

@[simp] theorem canon_execGangRestore (part : Nat) {s : State} (hs : Canon s.mem) : Onto Canon (execGangRestore part s) := by
  unfold execGangRestore
  (repeat' split) <;> simp [hs]

@[simp] theorem canon_execSliceEnd (part : Nat) {s : State} (hs : Canon s.mem) : Onto Canon (execSliceEnd part s) := by
  unfold execSliceEnd
  extract_lets due s1 s2 s3
  have h2 : Canon s2.mem := by
    refine canon_handOver part ?_
    unfold s1
    split <;> simp [hs]
  have h3 : Canon s3.mem := by
    unfold s3
    split <;> simp [h2]
  exact canon_foldl (fun s c h => by simp [h]) _ h3

@[simp] theorem canon_execDefragmentation (part : Nat) (slice : Nat) (target : Nat) {s : State} (hs : Canon s.mem) :
    Onto Canon (execDefragmentation part slice target s) := by simp [execDefragmentation, hs]

@[simp] theorem canon_execPeerLinkDown (link : PeerLink) {s : State} (hs : Canon s.mem) : Onto Canon (execPeerLinkDown link s) := by
  unfold execPeerLinkDown
  (repeat' split) <;> simp [hs]

@[simp] theorem canon_execLaneSelftestDone (port : Nat) (lane : Nat) (passed : Bool) {s : State} (hs : Canon s.mem) :
    Onto Canon (execLaneSelftestDone port lane passed s) := by
  unfold execLaneSelftestDone
  split <;> simp [hs]

@[simp] theorem canon_execHmbNodereq {s : State} (hs : Canon s.mem) : Onto Canon (execHmbNodereq s) := by
  unfold execHmbNodereq
  split
  · exact canon_nodeRequest _ hs
  · exact onto_withMessage 9 hs fun m => canon_nodeRequest m hs

@[simp] theorem canon_execHmbPartrec {s : State} (hs : Canon s.mem) : Onto Canon (execHmbPartrec s) := by
  refine onto_withMessage 8 hs fun m => ?_
  dsimp only
  (repeat' split) <;> simp [hs]

@[simp] theorem canon_execHeartbeatTimeout {s : State} (hs : Canon s.mem) : Onto Canon (execHeartbeatTimeout s) := by simp [execHeartbeatTimeout, hs]

@[simp] theorem canon_execMediaEnable (node : Nat) (v : Word) {s : State} (hs : Canon s.mem) : Onto Canon (execMediaEnable node v s) := by simp [execMediaEnable, hs]

@[simp] theorem canon_execFrameClaim (node frame : Nat) {s : State} (hs : Canon s.mem) : Onto Canon (execFrameClaim node frame s) := by
  unfold execFrameClaim
  extract_lets +onlyGivenNames f
  split
  · exact hs
  · extract_lets +onlyGivenNames stat a s1
    have h1 : Canon s1.mem := by simp [s1, hs]
    generalize recordState s1 node a (mediaGroups f) = r
    clear_value s1 a
    split
    · split
      next s2 e => exact show Canon s2.mem from canon_ingestWrite _ _ _ _ h1 _ e
      · simp [h1]
    · simp [h1]

@[simp] theorem canon_execMediaPacketArrival (port : Nat) (p : MediaPacket) {s : State} (hs : Canon s.mem) : Onto Canon (execMediaPacketArrival port p s) := by
  unfold execMediaPacketArrival
  split
  · exact hs
  · exact canon_foldl (fun s n h => by simp [h]) _ hs

@[simp] theorem canon_execFrameDeadline (node frame : Nat) {s : State} (hs : Canon s.mem) : Onto Canon (execFrameDeadline node frame s) := by
  have hput : ∀ a data fe {s : State}, Canon s.mem → Canon ((ingestWrite node a data fe s).getD s).mem := fun a data fe s h => by
    cases e : ingestWrite node a data fe s with
    | none => exact h
    | some s1 => exact canon_ingestWrite _ _ _ _ h _ e
  unfold execFrameDeadline
  split
  · exact hs
  · split
    · exact hs
    · extract_lets lost s1 a line s2 s3
      have h1 : Canon s1.mem := canon_foldl (fun s g h => by simp [h]) _ hs
      exact hput _ _ _ (hput _ _ _ h1)

@[simp] theorem canon_execVfDisableAtT {s : State} (hs : Canon s.mem) : Onto Canon (execVfDisableAtT s) := by
  unfold execVfDisableAtT
  split
  · exact hs
  · split
    · exact hs
    · extract_lets cs nodes _ tenants s1 s2
      have h1 : Canon s1.mem := canon_foldl (fun s c h => by simp [h]) _ (canon_loseWork cs hs)
      have h2 : Canon s2.mem := canon_foldl (fun s n h => by split <;> simp [h]) _ h1
      split
      · exact hs
      · simp only [onto_next, mem_pushOnce]
        split
        · exact h2
        · exact h2

@[simp] theorem canon_execRegisterWrite (fn : HostFn) (off_ : Nat) (v : Word) {s : State} (hs : Canon s.mem) :
    Onto Canon (execRegisterWrite fn off_ v s) := by simp [execRegisterWrite, hs]

@[simp] theorem canon_execVsSet (q : Bool) (d a b : Reg) {s : State} (hs : Canon s.mem) : Onto Canon (execVsSet q d a b s) := by
  refine onto_withRegs hs _ _ fun s1 h1 => ?_
  have c1 : Canon s1.mem := (congrArg Canon h1).mpr hs
  refine onto_withStream _ _ _ hs c1 fun node => ?_
  have h := mem_createStream node (xr (cur s1) b) s1
  generalize createStream node (xr (cur s1) b) s1 = r at h ⊢
  obtain ⟨code, s2⟩ := r
  have c2 : Canon s2.mem := (congrArg Canon h).mpr c1
  refine onto_lateResult hs ?_ _ _ _ _
  split <;> simp [c1, c2]

@[simp] theorem canon_execStreamStartStore (node : Nat) (v : Word) {s : State} (hs : Canon s.mem) :
    Onto Canon (execStreamStartStore node v s) := by simp [execStreamStartStore, hs]

@[simp] theorem canon_execChunkLanding (node : Nat) (member : Nat) (c : Chunk) {s : State} (hs : Canon s.mem) :
    Onto Canon (execChunkLanding node member c s) := by simp [execChunkLanding, hs]

theorem onto_of_keeps {Q : Sp Byte → Prop} {o p : Out} {s : State} (he : p = o) (hk : Keeps s.mem o) (hs : Q s.mem) : Onto Q p := he ▸ hk.onto hs

theorem onto_of_eq {Q : Sp Byte → Prop} {o p : Out} (he : p = o) (h : Onto Q o) : Onto Q p := he ▸ h

/-- Every instruction and every event keeps the canonical form. -/
theorem canon_exec (i : Instr) {s : State} (hs : Canon s.mem) : Onto Canon (exec i s) := by
  cases i with
  | coldReset => exact onto_of_eq (exec_coldReset ..) (canon_execColdReset _)
  | pkstWarmReset => exact onto_of_eq (exec_pkstWarmReset ..) (canon_execPkstWarmReset _ hs)
  | pkstCaphitClear => exact onto_of_keeps (exec_pkstCaphitClear ..) (keeps_execPkstCaphitClear _ rfl) hs
  | bringupStageDone => exact onto_of_eq (exec_bringupStageDone ..) (canon_execBringupStageDone _ _ hs)
  | bmiReadPkst => exact onto_of_keeps (exec_bmiReadPkst ..) (keeps_execBmiReadPkst rfl) hs
  | bmiWritePkst => exact onto_of_eq (exec_bmiWritePkst ..) (canon_execBmiWritePkst _ hs)
  | bmiUnknownCommand => exact onto_of_keeps (exec_bmiUnknownCommand ..) (keeps_execBmiUnknownCommand _ rfl) hs
  | frameBoundary => exact onto_of_keeps (exec_frameBoundary ..) (keeps_execFrameBoundary rfl) hs
  | thermalTrip => exact onto_of_keeps (exec_thermalTrip ..) (keeps_execThermalTrip _ _ rfl) hs
  | thermalTripEnd => exact onto_of_keeps (exec_thermalTripEnd ..) (keeps_execThermalTripEnd _ _ rfl) hs
  | thermalShutdown => exact onto_of_keeps (exec_thermalShutdown ..) (keeps_execThermalShutdown _ _ rfl) hs
  | ptsTick => exact onto_of_keeps (exec_ptsTick ..) (keeps_execPtsTick _ rfl) hs
  | tdctlSwap => exact onto_of_keeps (exec_tdctlSwap ..) (keeps_execTdctlSwap rfl) hs
  | registerWrite => exact onto_of_eq (exec_registerWrite ..) (canon_execRegisterWrite _ _ _ hs)
  | globalLinkDown => exact onto_of_keeps (exec_globalLinkDown ..) (keeps_execGlobalLinkDown _ _ rfl) hs
  | flitBadCheck => exact onto_of_keeps (exec_flitBadCheck ..) (keeps_execFlitBadCheck _ rfl) hs
  | laneError => exact onto_of_keeps (exec_laneError ..) (keeps_execLaneError _ _ rfl) hs
  | laneSelftestDone => exact onto_of_eq (exec_laneSelftestDone ..) (canon_execLaneSelftestDone _ _ _ hs)
  | portRetrainDone => exact onto_of_keeps (exec_portRetrainDone ..) (keeps_execPortRetrainDone _ rfl) hs
  | sramRowError => exact onto_of_keeps (exec_sramRowError ..) (keeps_execSramRowError _ _ _ rfl) hs
  | rowSelftestDone => exact onto_of_keeps (exec_rowSelftestDone ..) (keeps_execRowSelftestDone _ _ _ rfl) hs
  | peerLinkDown => exact onto_of_eq (exec_peerLinkDown ..) (canon_execPeerLinkDown _ hs)
  | hostWalk => exact onto_of_keeps (exec_hostWalk ..) (keeps_execHostWalk _ _ _ rfl) hs
  | hostOpen => exact onto_of_keeps (exec_hostOpen ..) (keeps_execHostOpen _ _ _ rfl) hs
  | hostClose => exact onto_of_keeps (exec_hostClose ..) (keeps_execHostClose _ _ rfl) hs
  | hostBind => exact onto_of_keeps (exec_hostBind ..) (keeps_execHostBind _ _ _ rfl) hs
  | hostUnbind => exact onto_of_keeps (exec_hostUnbind ..) (keeps_execHostUnbind _ _ _ rfl) hs
  | hostStat => exact onto_of_eq (exec_hostStat ..) (canon_execHostStat _ _ _ hs)
  | hostRevoke => exact onto_of_keeps (exec_hostRevoke ..) (keeps_execHostRevoke _ _ rfl) hs
  | hostDup => exact onto_of_keeps (exec_hostDup ..) (keeps_execHostDup _ _ _ rfl) hs
  | hostCreate => exact onto_of_eq (exec_hostCreate ..) (canon_execHostCreate _ _ _ hs)
  | hostRead => exact onto_of_keeps (exec_hostRead ..) (keeps_execHostRead _ _ _ rfl) hs
  | hostWrite => exact onto_of_eq (exec_hostWrite ..) (canon_execHostWrite _ _ _ _ hs)
  | keyCacheMiss => exact onto_of_keeps (exec_keyCacheMiss ..) (keeps_execKeyCacheMiss _ _ _ rfl) hs
  | nodeCacheMiss => exact onto_of_keeps (exec_nodeCacheMiss ..) (keeps_execNodeCacheMiss _ _ rfl) hs
  | nodeMissTimeout => exact onto_of_keeps (exec_nodeMissTimeout ..) (keeps_execNodeMissTimeout _ rfl) hs
  | filterInstall => exact onto_of_keeps (exec_filterInstall ..) (keeps_execFilterInstall _ _ rfl) hs
  | keyInvalidate => exact onto_of_keeps (exec_keyInvalidate ..) (keeps_execKeyInvalidate _ _ rfl) hs
  | revokeAck => exact onto_of_eq (exec_revokeAck ..) (canon_execRevokeAck _ _ hs)
  | journalRetireReport => exact onto_of_keeps (exec_journalRetireReport ..) (keeps_execJournalRetireReport _ _ rfl) hs
  | nodeDestroy => exact onto_of_keeps (exec_nodeDestroy ..) (keeps_execNodeDestroy _ rfl) hs
  | queueAppend => exact onto_of_eq (exec_queueAppend ..) (canon_execQueueAppend _ _ _ _ _ hs)
  | ccCreate => exact onto_of_eq (exec_ccCreate ..) (canon_execCcCreate _ hs)
  | ccDestroy => exact onto_of_keeps (exec_ccDestroy ..) (keeps_execCcDestroy _ _ rfl) hs
  | ccActThrough => exact onto_of_keeps (exec_ccActThrough ..) (keeps_execCcActThrough _ _ rfl) hs
  | gqTailStore => exact onto_of_keeps (exec_gqTailStore ..) (keeps_execGqTailStore _ _ _ rfl) hs
  | gqTailNonresident => exact onto_of_keeps (exec_gqTailNonresident ..) (keeps_execGqTailNonresident _ _ _ rfl) hs
  | gqctlResume => exact onto_of_keeps (exec_gqctlResume ..) (keeps_execGqctlResume _ rfl) hs
  | recordFetch => exact onto_of_eq (exec_recordFetch ..) (canon_execRecordFetch _ hs)
  | nodeRelease => exact onto_of_eq (exec_nodeRelease ..) (canon_execNodeRelease _ _ _ _ _ _ hs)
  | nodeDispatch => exact onto_of_eq (exec_nodeDispatch ..) (canon_execNodeDispatch _ hs)
  | nodeWaitTimeout => exact onto_of_eq (exec_nodeWaitTimeout ..) (canon_execNodeWaitTimeout _ _ hs)
  | gateTimeout => exact onto_of_eq (exec_gateTimeout ..) (canon_execGateTimeout _ _ hs)
  | formatWindowInstall => exact onto_of_eq (exec_formatWindowInstall ..) (canon_execFormatWindowInstall _ _ _ _ hs)
  | bindSetRun => exact onto_of_keeps (exec_bindSetRun ..) (keeps_execBindSetRun _ _ rfl) hs
  | nodeComplete => exact onto_of_eq (exec_nodeComplete ..) (canon_execNodeComplete _ _ _ hs)
  | qgangMap => exact onto_of_keeps (exec_qgangMap ..) (keeps_execQgangMap _ _ _ rfl) hs
  | qgangUnmap => exact onto_of_keeps (exec_qgangUnmap ..) (keeps_execQgangUnmap _ rfl) hs
  | vfDisable => exact onto_of_keeps (exec_vfDisable ..) (keeps_execVfDisable rfl) hs
  | vfDisableAtT => exact onto_of_eq (exec_vfDisableAtT ..) (canon_execVfDisableAtT hs)
  | vfEnable => exact onto_of_keeps (exec_vfEnable ..) (keeps_execVfEnable rfl) hs
  | fwCoreWake => exact onto_of_keeps (exec_fwCoreWake ..) (keeps_execFwCoreWake _ rfl) hs
  | hmbFill => exact onto_of_keeps (exec_hmbFill ..) (keeps_execHmbFill rfl) hs
  | hmbMap => exact onto_of_keeps (exec_hmbMap ..) (keeps_execHmbMap rfl) hs
  | hmbSpdm => exact onto_of_keeps (exec_hmbSpdm ..) (keeps_execHmbSpdm rfl) hs
  | spdmGetVersion => exact onto_of_keeps (exec_spdmGetVersion ..) (keeps_execSpdmGetVersion _ rfl) hs
  | spdmGetCapabilities => exact onto_of_keeps (exec_spdmGetCapabilities ..) (keeps_execSpdmGetCapabilities _ rfl) hs
  | spdmNegotiateAlgorithms => exact onto_of_keeps (exec_spdmNegotiateAlgorithms ..) (keeps_execSpdmNegotiateAlgorithms _ rfl) hs
  | spdmGetDigests => exact onto_of_keeps (exec_spdmGetDigests ..) (keeps_execSpdmGetDigests _ rfl) hs
  | spdmGetCertificate => exact onto_of_keeps (exec_spdmGetCertificate ..) (keeps_execSpdmGetCertificate _ rfl) hs
  | spdmChallenge => exact onto_of_keeps (exec_spdmChallenge ..) (keeps_execSpdmChallenge _ rfl) hs
  | spdmGetMeasurements => exact onto_of_keeps (exec_spdmGetMeasurements ..) (keeps_execSpdmGetMeasurements _ rfl) hs
  | spdmUnsupported => exact onto_of_keeps (exec_spdmUnsupported ..) (keeps_execSpdmUnsupported _ rfl) hs
  | hmbImgw => exact onto_of_keeps (exec_hmbImgw ..) (keeps_execHmbImgw rfl) hs
  | hmbPartrec => exact onto_of_eq (exec_hmbPartrec ..) (canon_execHmbPartrec hs)
  | hmbNodereq => exact onto_of_eq (exec_hmbNodereq ..) (canon_execHmbNodereq hs)
  | hmbDefrag => exact onto_of_keeps (exec_hmbDefrag ..) (keeps_execHmbDefrag rfl) hs
  | hmbBadType => exact onto_of_keeps (exec_hmbBadType ..) (keeps_execHmbBadType rfl) hs
  | pwrcapWrite => exact onto_of_keeps (exec_pwrcapWrite ..) (keeps_execPwrcapWrite _ _ rfl) hs
  | updstGo => exact onto_of_keeps (exec_updstGo ..) (keeps_execUpdstGo _ rfl) hs
  | updateHeartbeat => exact onto_of_keeps (exec_updateHeartbeat ..) (keeps_execUpdateHeartbeat rfl) hs
  | heartbeatTimeout => exact onto_of_eq (exec_heartbeatTimeout ..) (canon_execHeartbeatTimeout hs)
  | launchDispatch => exact onto_of_eq (exec_launchDispatch ..) (canon_execLaunchDispatch _ _ hs)
  | slotFree => exact onto_of_eq (exec_slotFree ..) (canon_execSlotFree _ _ hs)
  | slotReservationRequest => exact onto_of_keeps (exec_slotReservationRequest ..) (keeps_execSlotReservationRequest _ rfl) hs
  | slotReservationReply => exact onto_of_keeps (exec_slotReservationReply ..) (keeps_execSlotReservationReply _ _ rfl) hs
  | parcelArrival => exact onto_of_keeps (exec_parcelArrival ..) (keeps_execParcelArrival _ rfl) hs
  | waitRetryPoll => exact onto_of_keeps (exec_waitRetryPoll ..) (keeps_execWaitRetryPoll _ rfl) hs
  | watchdogExpiry => exact onto_of_eq (exec_watchdogExpiry ..) (canon_execWatchdogExpiry _ hs)
  | reservationHoldExpiry => exact onto_of_eq (exec_reservationHoldExpiry ..) (canon_execReservationHoldExpiry _ hs)
  | latchWaitTimeout => exact onto_of_keeps (exec_latchWaitTimeout ..) (keeps_execLatchWaitTimeout _ rfl) hs
  | lateResultReturn => exact onto_of_eq (exec_lateResultReturn ..) (canon_execLateResultReturn _ _ hs)
  | gangArm => exact onto_of_keeps (exec_gangArm ..) (keeps_execGangArm _ rfl) hs
  | gangStop => exact onto_of_eq (exec_gangStop ..) (canon_execGangStop _ hs)
  | gangRestore => exact onto_of_eq (exec_gangRestore ..) (canon_execGangRestore _ hs)
  | sliceEnd => exact onto_of_eq (exec_sliceEnd ..) (canon_execSliceEnd _ hs)
  | defragmentation => exact onto_of_eq (exec_defragmentation ..) (canon_execDefragmentation _ _ _ hs)
  | travelDeparture => exact onto_of_eq (exec_travelDeparture ..) (canon_execTravelDeparture _ hs)
  | travelArrival => exact onto_of_eq (exec_travelArrival ..) (canon_execTravelArrival _ hs)
  | putSegmentLand => exact onto_of_eq (exec_putSegmentLand ..) (canon_execPutSegmentLand _ _ _ _ hs)
  | putSegmentAck => exact onto_of_eq (exec_putSegmentAck ..) (canon_execPutSegmentAck _ _ _ hs)
  | putCounterAction => exact onto_of_eq (exec_putCounterAction ..) (canon_execPutCounterAction _ _ hs)
  | postedAck => exact onto_of_eq (exec_postedAck ..) (canon_execPostedAck _ _ _ hs)
  | chunkArrival => exact onto_of_keeps (exec_chunkArrival ..) (keeps_execChunkArrival _ _ _ _ rfl) hs
  | markerArrival => exact onto_of_keeps (exec_markerArrival ..) (keeps_execMarkerArrival _ _ _ _ rfl) hs
  | streamInputTimeout => exact onto_of_keeps (exec_streamInputTimeout ..) (keeps_execStreamInputTimeout _ _ _ rfl) hs
  | inputDeadDeclare => exact onto_of_keeps (exec_inputDeadDeclare ..) (keeps_execInputDeadDeclare _ _ rfl) hs
  | lccReport => exact onto_of_keeps (exec_lccReport ..) (keeps_execLccReport _ _ rfl) hs
  | chunkLanding => exact onto_of_eq (exec_chunkLanding ..) (canon_execChunkLanding _ _ _ hs)
  | frameClaim => exact onto_of_eq (exec_frameClaim ..) (canon_execFrameClaim _ _ hs)
  | mediaPacketArrival => exact onto_of_eq (exec_mediaPacketArrival ..) (canon_execMediaPacketArrival _ _ hs)
  | frameDeadline => exact onto_of_eq (exec_frameDeadline ..) (canon_execFrameDeadline _ _ hs)
  | ptpMessage => exact onto_of_keeps (exec_ptpMessage ..) (keeps_execPtpMessage _ _ _ _ rfl) hs
  | mediaEnable => exact onto_of_eq (exec_mediaEnable ..) (canon_execMediaEnable _ _ hs)
  | homeLoad => exact onto_of_keeps (exec_homeLoad ..) (keeps_execHomeLoad _ _ _ rfl) hs
  | homeStore => exact onto_of_keeps (exec_homeStore ..) (keeps_execHomeStore _ _ rfl) hs
  | llcEviction => exact onto_of_keeps (exec_llcEviction ..) (keeps_execLlcEviction _ rfl) hs
  | llcFillReturn => exact onto_of_keeps (exec_llcFillReturn ..) (keeps_execLlcFillReturn _ rfl) hs
  | reservationForward => exact onto_of_keeps (exec_reservationForward ..) (keeps_execReservationForward _ rfl) hs
  | mapEntryInstall => exact onto_of_eq (exec_mapEntryInstall ..) (canon_execMapEntryInstall _ _ _ _ hs)
  | mapEntryRemove => exact onto_of_eq (exec_mapEntryRemove ..) (canon_execMapEntryRemove _ _ _ _ hs)
  | mmEngineRun => exact onto_of_eq (exec_mmEngineRun ..) (canon_execMmEngineRun _ hs)
  | vectorCommandExec => exact onto_of_eq (exec_vectorCommandExec ..) (canon_execVectorCommandExec _ hs)
  | vectorCommandRetire => exact onto_of_keeps (exec_vectorCommandRetire ..) (keeps_execVectorCommandRetire _ rfl) hs
  | repSequenceStart => exact onto_of_keeps (exec_repSequenceStart ..) (keeps_execRepSequenceStart _ rfl) hs
  | engineKick => exact onto_of_keeps (exec_engineKick ..) (keeps_execEngineKick _ _ _ _ rfl) hs
  | engineHartStart => exact onto_of_keeps (exec_engineHartStart ..) (keeps_execEngineHartStart _ rfl) hs
  | debugResume => exact onto_of_keeps (exec_debugResume ..) (keeps_execDebugResume _ _ rfl) hs
  | yieldExpiry => exact onto_of_keeps (exec_yieldExpiry ..) (keeps_execYieldExpiry _ rfl) hs
  | wfiTimeout => exact onto_of_keeps (exec_wfiTimeout ..) (keeps_execWfiTimeout _ rfl) hs
  | barrierWaitTimeout => exact onto_of_eq (exec_barrierWaitTimeout ..) (canon_execBarrierWaitTimeout _ hs)
  | add => exact onto_of_keeps (exec_add ..) (keeps_execAdd _ _ _ _ _ rfl) hs
  | addSat => exact onto_of_keeps (exec_addSat ..) (keeps_execAddSat _ _ _ _ rfl) hs
  | sub => exact onto_of_keeps (exec_sub ..) (keeps_execSub _ _ _ _ _ rfl) hs
  | subSat => exact onto_of_keeps (exec_subSat ..) (keeps_execSubSat _ _ _ _ rfl) hs
  | addn => exact onto_of_keeps (exec_addn ..) (keeps_execAddn _ _ _ _ _ rfl) hs
  | addnSat => exact onto_of_keeps (exec_addnSat ..) (keeps_execAddnSat _ _ _ _ rfl) hs
  | subn => exact onto_of_keeps (exec_subn ..) (keeps_execSubn _ _ _ _ _ rfl) hs
  | subnSat => exact onto_of_keeps (exec_subnSat ..) (keeps_execSubnSat _ _ _ _ rfl) hs
  | and => exact onto_of_keeps (exec_and ..) (keeps_execAnd _ _ _ _ rfl) hs
  | or => exact onto_of_keeps (exec_or ..) (keeps_execOr _ _ _ _ rfl) hs
  | xor => exact onto_of_keeps (exec_xor ..) (keeps_execXor _ _ _ _ rfl) hs
  | andn => exact onto_of_keeps (exec_andn ..) (keeps_execAndn _ _ _ _ rfl) hs
  | orn => exact onto_of_keeps (exec_orn ..) (keeps_execOrn _ _ _ _ rfl) hs
  | xnor => exact onto_of_keeps (exec_xnor ..) (keeps_execXnor _ _ _ _ rfl) hs
  | sll => exact onto_of_keeps (exec_sll ..) (keeps_execSll _ _ _ _ rfl) hs
  | srl => exact onto_of_keeps (exec_srl ..) (keeps_execSrl _ _ _ _ rfl) hs
  | sra => exact onto_of_keeps (exec_sra ..) (keeps_execSra _ _ _ _ rfl) hs
  | rol => exact onto_of_keeps (exec_rol ..) (keeps_execRol _ _ _ _ rfl) hs
  | ror => exact onto_of_keeps (exec_ror ..) (keeps_execRor _ _ _ _ rfl) hs
  | ahdl => exact onto_of_keeps (exec_ahdl ..) (keeps_execAhdl _ _ _ rfl) hs
  | aoff => exact onto_of_keeps (exec_aoff ..) (keeps_execAoff _ _ _ rfl) hs
  | amake => exact onto_of_keeps (exec_amake ..) (keeps_execAmake _ _ _ _ rfl) hs
  | aadd => exact onto_of_keeps (exec_aadd ..) (keeps_execAadd _ _ _ _ rfl) hs
  | adiff => exact onto_of_keeps (exec_adiff ..) (keeps_execAdiff _ _ _ _ rfl) hs
  | addi => exact onto_of_keeps (exec_addi ..) (keeps_execAddi _ _ _ _ _ rfl) hs
  | addiSat => exact onto_of_keeps (exec_addiSat ..) (keeps_execAddiSat _ _ _ _ rfl) hs
  | addiK => exact onto_of_keeps (exec_addiK ..) (keeps_execAddiK _ _ _ _ _ rfl) hs
  | addiSatK => exact onto_of_keeps (exec_addiSatK ..) (keeps_execAddiSatK _ _ _ _ rfl) hs
  | andi => exact onto_of_keeps (exec_andi ..) (keeps_execAndi _ _ _ _ rfl) hs
  | andiK => exact onto_of_keeps (exec_andiK ..) (keeps_execAndiK _ _ _ _ rfl) hs
  | ori => exact onto_of_keeps (exec_ori ..) (keeps_execOri _ _ _ _ rfl) hs
  | oriK => exact onto_of_keeps (exec_oriK ..) (keeps_execOriK _ _ _ _ rfl) hs
  | xori => exact onto_of_keeps (exec_xori ..) (keeps_execXori _ _ _ _ rfl) hs
  | xoriK => exact onto_of_keeps (exec_xoriK ..) (keeps_execXoriK _ _ _ _ rfl) hs
  | slli => exact onto_of_keeps (exec_slli ..) (keeps_execSlli _ _ _ _ rfl) hs
  | srli => exact onto_of_keeps (exec_srli ..) (keeps_execSrli _ _ _ _ rfl) hs
  | srai => exact onto_of_keeps (exec_srai ..) (keeps_execSrai _ _ _ _ rfl) hs
  | rori => exact onto_of_keeps (exec_rori ..) (keeps_execRori _ _ _ _ rfl) hs
  | li => exact onto_of_keeps (exec_li ..) (keeps_execLi _ _ _ rfl) hs
  | liK => exact onto_of_keeps (exec_liK ..) (keeps_execLiK _ _ _ rfl) hs
  | cmpi => exact onto_of_keeps (exec_cmpi ..) (keeps_execCmpi _ _ _ _ rfl) hs
  | cmpiK => exact onto_of_keeps (exec_cmpiK ..) (keeps_execCmpiK _ _ _ _ rfl) hs
  | mul => exact onto_of_keeps (exec_mul ..) (keeps_execMul _ _ _ _ _ rfl) hs
  | mulSat => exact onto_of_keeps (exec_mulSat ..) (keeps_execMulSat _ _ _ _ rfl) hs
  | muln => exact onto_of_keeps (exec_muln ..) (keeps_execMuln _ _ _ _ _ rfl) hs
  | mulnSat => exact onto_of_keeps (exec_mulnSat ..) (keeps_execMulnSat _ _ _ _ rfl) hs
  | mulh => exact onto_of_keeps (exec_mulh ..) (keeps_execMulh _ _ _ _ rfl) hs
  | mulhn => exact onto_of_keeps (exec_mulhn ..) (keeps_execMulhn _ _ _ _ rfl) hs
  | div => exact onto_of_keeps (exec_div ..) (keeps_divide _ _ _ _ _ rfl) hs
  | divn => exact onto_of_keeps (exec_divn ..) (keeps_divide _ _ _ _ _ rfl) hs
  | rem => exact onto_of_keeps (exec_rem ..) (keeps_divide _ _ _ _ _ rfl) hs
  | remn => exact onto_of_keeps (exec_remn ..) (keeps_divide _ _ _ _ _ rfl) hs
  | bext => exact onto_of_keeps (exec_bext ..) (keeps_execBext _ _ _ _ rfl) hs
  | bextn => exact onto_of_keeps (exec_bextn ..) (keeps_execBextn _ _ _ _ rfl) hs
  | bins => exact onto_of_keeps (exec_bins ..) (keeps_execBins _ _ _ _ rfl) hs
  | clz => exact onto_of_keeps (exec_clz ..) (keeps_execClz _ _ _ rfl) hs
  | ctz => exact onto_of_keeps (exec_ctz ..) (keeps_execCtz _ _ _ rfl) hs
  | popc => exact onto_of_keeps (exec_popc ..) (keeps_execPopc _ _ _ rfl) hs
  | brev => exact onto_of_keeps (exec_brev ..) (keeps_execBrev _ _ _ rfl) hs
  | bswap => exact onto_of_keeps (exec_bswap ..) (keeps_execBswap _ _ _ rfl) hs
  | seq => exact onto_of_keeps (exec_seq ..) (keeps_execSeq _ _ _ _ rfl) hs
  | sne => exact onto_of_keeps (exec_sne ..) (keeps_execSne _ _ _ _ rfl) hs
  | slt => exact onto_of_keeps (exec_slt ..) (keeps_execSlt _ _ _ _ rfl) hs
  | sltn => exact onto_of_keeps (exec_sltn ..) (keeps_execSltn _ _ _ _ rfl) hs
  | cmp => exact onto_of_keeps (exec_cmp ..) (keeps_execCmp _ _ _ _ rfl) hs
  | sel => exact onto_of_keeps (exec_sel ..) (keeps_execSel _ _ _ _ rfl) hs
  | min => exact onto_of_keeps (exec_min ..) (keeps_execMin _ _ _ _ rfl) hs
  | max => exact onto_of_keeps (exec_max ..) (keeps_execMax _ _ _ _ rfl) hs
  | minn => exact onto_of_keeps (exec_minn ..) (keeps_execMinn _ _ _ _ rfl) hs
  | maxn => exact onto_of_keeps (exec_maxn ..) (keeps_execMaxn _ _ _ _ rfl) hs
  | ld => exact onto_of_keeps (exec_ld ..) (keeps_execLd _ _ _ _ _ rfl) hs
  | ldX => exact onto_of_keeps (exec_ldX ..) (keeps_execLdX _ _ _ _ _ rfl) hs
  | st => exact onto_of_eq (exec_st ..) (canon_execSt _ _ _ _ _ hs)
  | stX => exact onto_of_eq (exec_stX ..) (canon_execStX _ _ _ _ _ hs)
  | ldTake => exact onto_of_eq (exec_ldTake ..) (canon_execLdTake _ _ _ _ hs)
  | ldPeek => exact onto_of_keeps (exec_ldPeek ..) (keeps_execLdPeek _ _ _ _ rfl) hs
  | stGive => exact onto_of_eq (exec_stGive ..) (canon_execStGive _ _ _ _ hs)
  | stFill => exact onto_of_eq (exec_stFill ..) (canon_execStFill _ _ _ _ hs)
  | feRd => exact onto_of_keeps (exec_feRd ..) (keeps_execFeRd _ _ _ _ rfl) hs
  | feClr => exact onto_of_eq (exec_feClr ..) (canon_execFeClr _ _ _ hs)
  | amoAdd => exact onto_of_eq (exec_amoAdd ..) (canon_execAmoAdd _ _ _ _ _ hs)
  | amoAnd => exact onto_of_eq (exec_amoAnd ..) (canon_execAmoAnd _ _ _ _ _ hs)
  | amoOr => exact onto_of_eq (exec_amoOr ..) (canon_execAmoOr _ _ _ _ _ hs)
  | amoXor => exact onto_of_eq (exec_amoXor ..) (canon_execAmoXor _ _ _ _ _ hs)
  | amoMin => exact onto_of_eq (exec_amoMin ..) (canon_execAmoMin _ _ _ _ _ hs)
  | amoMax => exact onto_of_eq (exec_amoMax ..) (canon_execAmoMax _ _ _ _ _ hs)
  | amoMinn => exact onto_of_eq (exec_amoMinn ..) (canon_execAmoMinn _ _ _ _ _ hs)
  | amoMaxn => exact onto_of_eq (exec_amoMaxn ..) (canon_execAmoMaxn _ _ _ _ _ hs)
  | amoSwap => exact onto_of_eq (exec_amoSwap ..) (canon_execAmoSwap _ _ _ _ _ hs)
  | amoCas => exact onto_of_eq (exec_amoCas ..) (canon_execAmoCas _ _ _ _ _ hs)
  | rsv => exact onto_of_keeps (exec_rsv ..) (keeps_execRsv _ _ _ _ rfl) hs
  | rls => exact onto_of_eq (exec_rls ..) (canon_execRls _ _ _ _ hs)
  | rlsN => exact onto_of_eq (exec_rlsN ..) (canon_execRlsN _ _ _ hs)
  | putAdd => exact onto_of_keeps (exec_putAdd ..) (keeps_execPutAdd _ _ _ _ rfl) hs
  | putSet => exact onto_of_keeps (exec_putSet ..) (keeps_execPutSet _ _ _ _ rfl) hs
  | putFill => exact onto_of_keeps (exec_putFill ..) (keeps_execPutFill _ _ _ _ rfl) hs
  | putNc => exact onto_of_keeps (exec_putNc ..) (keeps_execPutNc _ _ _ rfl) hs
  | pst => exact onto_of_keeps (exec_pst ..) (keeps_execPst _ _ _ _ _ rfl) hs
  | pstX => exact onto_of_keeps (exec_pstX ..) (keeps_execPstX _ _ _ _ _ rfl) hs
  | fencePut => exact onto_of_keeps (exec_fencePut ..) (keeps_execFencePut _ rfl) hs
  | fencePost => exact onto_of_keeps (exec_fencePost ..) (keeps_execFencePost _ rfl) hs
  | fenceAll => exact onto_of_keeps (exec_fenceAll ..) (keeps_execFenceAll _ rfl) hs
  | cpf => exact onto_of_keeps (exec_cpf ..) (keeps_execCpf _ _ rfl) hs
  | cwb => exact onto_of_keeps (exec_cwb ..) (keeps_execCwb _ _ rfl) hs
  | cfl => exact onto_of_keeps (exec_cfl ..) (keeps_execCfl _ _ rfl) hs
  | barInit => exact onto_of_eq (exec_barInit ..) (canon_execBarInit _ _ _ hs)
  | barArr => exact onto_of_eq (exec_barArr ..) (canon_execBarArr _ _ _ _ hs)
  | barArrf => exact onto_of_eq (exec_barArrf ..) (canon_execBarArrf _ _ _ _ hs)
  | barWait => exact onto_of_eq (exec_barWait ..) (canon_execBarWait _ _ _ _ hs)
  | latArm => exact onto_of_keeps (exec_latArm ..) (keeps_execLatArm _ _ _ _ rfl) hs
  | latWait => exact onto_of_keeps (exec_latWait ..) (keeps_execLatWait _ _ _ rfl) hs
  | latClr => exact onto_of_keeps (exec_latClr ..) (keeps_execLatClr _ _ rfl) hs
  | bcopy => exact onto_of_keeps (exec_bcopy ..) (keeps_execBcopy _ _ _ _ rfl) hs
  | bEq => exact onto_of_keeps (exec_bEq ..) (keeps_execBEq _ _ _ _ rfl) hs
  | bNe => exact onto_of_keeps (exec_bNe ..) (keeps_execBNe _ _ _ _ rfl) hs
  | bLt => exact onto_of_keeps (exec_bLt ..) (keeps_execBLt _ _ _ _ rfl) hs
  | bGe => exact onto_of_keeps (exec_bGe ..) (keeps_execBGe _ _ _ _ rfl) hs
  | bLtn => exact onto_of_keeps (exec_bLtn ..) (keeps_execBLtn _ _ _ _ rfl) hs
  | bGen => exact onto_of_keeps (exec_bGen ..) (keeps_execBGen _ _ _ _ rfl) hs
  | bBs => exact onto_of_keeps (exec_bBs ..) (keeps_execBBs _ _ _ _ rfl) hs
  | bBc => exact onto_of_keeps (exec_bBc ..) (keeps_execBBc _ _ _ _ rfl) hs
  | bCondX => exact onto_of_keeps (exec_bCondX ..) (keeps_execBCondX _ _ _ _ _ _ rfl) hs
  | j => exact onto_of_keeps (exec_j ..) (keeps_execJ _ _ rfl) hs
  | jX => exact onto_of_keeps (exec_jX ..) (keeps_execJX _ _ _ rfl) hs
  | jr => exact onto_of_keeps (exec_jr ..) (keeps_execJr _ _ _ rfl) hs
  | callr => exact onto_of_keeps (exec_callr ..) (keeps_execCallr _ _ _ rfl) hs
  | call => exact onto_of_keeps (exec_call ..) (keeps_execCall _ _ _ rfl) hs
  | ret => exact onto_of_keeps (exec_ret ..) (keeps_execRet _ _ rfl) hs
  | lp => exact onto_of_keeps (exec_lp ..) (keeps_execLp _ _ _ rfl) hs
  | spawn => exact onto_of_keeps (exec_spawn ..) (keeps_execSpawn _ _ _ _ rfl) hs
  | spawnc => exact onto_of_keeps (exec_spawnc ..) (keeps_execSpawnc _ _ _ _ _ rfl) hs
  | fork => exact onto_of_keeps (exec_fork ..) (keeps_execFork _ _ _ _ rfl) hs
  | unfork => exact onto_of_eq (exec_unfork ..) (canon_execUnfork _ _ _ hs)
  | join => exact onto_of_keeps (exec_join ..) (keeps_execJoin _ _ rfl) hs
  | exit => exact onto_of_eq (exec_exit ..) (canon_execExit _ hs)
  | go => exact onto_of_keeps (exec_go ..) (keeps_execGo _ _ _ rfl) hs
  | yield => exact onto_of_keeps (exec_yield ..) (keeps_execYield _ _ rfl) hs
  | tid => exact onto_of_keeps (exec_tid ..) (keeps_execTid _ _ rfl) hs
  | nwalk => exact onto_of_keeps (exec_nwalk ..) (keeps_execNwalk _ _ _ _ rfl) hs
  | nopen => exact onto_of_keeps (exec_nopen ..) (keeps_execNopen _ _ _ _ rfl) hs
  | nclose => exact onto_of_keeps (exec_nclose ..) (keeps_execNclose _ _ _ rfl) hs
  | nbind => exact onto_of_keeps (exec_nbind ..) (keeps_execNbind _ _ _ _ rfl) hs
  | nunbind => exact onto_of_keeps (exec_nunbind ..) (keeps_execNunbind _ _ _ _ rfl) hs
  | nstat => exact onto_of_eq (exec_nstat ..) (canon_execNstat _ _ _ _ hs)
  | nrevoke => exact onto_of_keeps (exec_nrevoke ..) (keeps_execNrevoke _ _ _ rfl) hs
  | ndup => exact onto_of_keeps (exec_ndup ..) (keeps_execNdup _ _ _ _ rfl) hs
  | ncreate => exact onto_of_eq (exec_ncreate ..) (canon_execNcreate _ _ _ _ hs)
  | vsSet => exact onto_of_eq (exec_vsSet ..) (canon_execVsSet _ _ _ _ hs)
  | streamStartStore => exact onto_of_eq (exec_streamStartStore ..) (canon_execStreamStartStore _ _ hs)
  | vsRed => exact onto_of_keeps (exec_vsRed ..) (keeps_execVsRed _ _ _ _ rfl) hs
  | vsMark => exact onto_of_keeps (exec_vsMark ..) (keeps_execVsMark _ _ _ rfl) hs
  | vsSt => exact onto_of_keeps (exec_vsSt ..) (keeps_execVsSt _ _ _ rfl) hs
  | vsRejoin => exact onto_of_keeps (exec_vsRejoin ..) (keeps_execVsRejoin _ _ _ rfl) hs
  | vsClose => exact onto_of_keeps (exec_vsClose ..) (keeps_execVsClose _ _ _ rfl) hs
  | vaddInt => exact onto_of_keeps (exec_vaddInt ..) (keeps_execVaddInt _ rfl) hs
  | vaddIntK => exact onto_of_keeps (exec_vaddIntK ..) (keeps_execVaddIntK _ rfl) hs
  | vsubInt => exact onto_of_keeps (exec_vsubInt ..) (keeps_execVsubInt _ rfl) hs
  | vmulInt => exact onto_of_keeps (exec_vmulInt ..) (keeps_execVmulInt _ rfl) hs
  | vmulh => exact onto_of_keeps (exec_vmulh ..) (keeps_execVmulh _ rfl) hs
  | vminInt => exact onto_of_keeps (exec_vminInt ..) (keeps_execVminInt _ rfl) hs
  | vmaxInt => exact onto_of_keeps (exec_vmaxInt ..) (keeps_execVmaxInt _ rfl) hs
  | vand => exact onto_of_keeps (exec_vand ..) (keeps_execVand _ rfl) hs
  | vor => exact onto_of_keeps (exec_vor ..) (keeps_execVor _ rfl) hs
  | vxor => exact onto_of_keeps (exec_vxor ..) (keeps_execVxor _ rfl) hs
  | vsll => exact onto_of_keeps (exec_vsll ..) (keeps_execVsll _ rfl) hs
  | vsr => exact onto_of_keeps (exec_vsr ..) (keeps_execVsr _ rfl) hs
  | vabsInt => exact onto_of_keeps (exec_vabsInt ..) (keeps_execVabsInt _ rfl) hs
  | vmac => exact onto_of_keeps (exec_vmac ..) (keeps_execVmac _ rfl) hs
  | vwmulInt => exact onto_of_keeps (exec_vwmulInt ..) (keeps_execVwmulInt _ rfl) hs
  | vwmac => exact onto_of_keeps (exec_vwmac ..) (keeps_execVwmac _ rfl) hs
  | vdotInt => exact onto_of_keeps (exec_vdotInt ..) (keeps_execVdotInt _ rfl) hs
  | vceqInt => exact onto_of_keeps (exec_vceqInt ..) (keeps_execVceqInt _ rfl) hs
  | vcltInt => exact onto_of_keeps (exec_vcltInt ..) (keeps_execVcltInt _ rfl) hs
  | vcleInt => exact onto_of_keeps (exec_vcleInt ..) (keeps_execVcleInt _ rfl) hs
  | vmov => exact onto_of_keeps (exec_vmov ..) (keeps_execVmov _ rfl) hs
  | vaddFlt => exact onto_of_keeps (exec_vaddFlt ..) (keeps_execVaddFlt _ rfl) hs
  | vaddFltX => exact onto_of_keeps (exec_vaddFltX ..) (keeps_execVaddFltX _ rfl) hs
  | vsubFlt => exact onto_of_keeps (exec_vsubFlt ..) (keeps_execVsubFlt _ rfl) hs
  | vmulFlt => exact onto_of_keeps (exec_vmulFlt ..) (keeps_execVmulFlt _ rfl) hs
  | vmulFltK => exact onto_of_keeps (exec_vmulFltK ..) (keeps_execVmulFltK _ rfl) hs
  | vdiv => exact onto_of_keeps (exec_vdiv ..) (keeps_execVdiv _ rfl) hs
  | vfma => exact onto_of_keeps (exec_vfma ..) (keeps_execVfma _ rfl) hs
  | vminFlt => exact onto_of_keeps (exec_vminFlt ..) (keeps_execVminFlt _ rfl) hs
  | vmaxFlt => exact onto_of_keeps (exec_vmaxFlt ..) (keeps_execVmaxFlt _ rfl) hs
  | vabsFlt => exact onto_of_keeps (exec_vabsFlt ..) (keeps_execVabsFlt _ rfl) hs
  | vsqrt => exact onto_of_keeps (exec_vsqrt ..) (keeps_execVsqrt _ rfl) hs
  | vexp2 => exact onto_of_keeps (exec_vexp2 ..) (keeps_execVexp2 _ rfl) hs
  | vlog2 => exact onto_of_keeps (exec_vlog2 ..) (keeps_execVlog2 _ rfl) hs
  | vrcp => exact onto_of_keeps (exec_vrcp ..) (keeps_execVrcp _ rfl) hs
  | vrsq => exact onto_of_keeps (exec_vrsq ..) (keeps_execVrsq _ rfl) hs
  | vwmulFlt => exact onto_of_keeps (exec_vwmulFlt ..) (keeps_execVwmulFlt _ rfl) hs
  | vwfma => exact onto_of_keeps (exec_vwfma ..) (keeps_execVwfma _ rfl) hs
  | vdotFlt => exact onto_of_keeps (exec_vdotFlt ..) (keeps_execVdotFlt _ rfl) hs
  | vceqFlt => exact onto_of_keeps (exec_vceqFlt ..) (keeps_execVceqFlt _ rfl) hs
  | vcltFlt => exact onto_of_keeps (exec_vcltFlt ..) (keeps_execVcltFlt _ rfl) hs
  | vcleFlt => exact onto_of_keeps (exec_vcleFlt ..) (keeps_execVcleFlt _ rfl) hs
  | vld => exact onto_of_keeps (exec_vld ..) (keeps_execVld _ rfl) hs
  | vldX => exact onto_of_keeps (exec_vldX ..) (keeps_execVldX _ rfl) hs
  | vst => exact onto_of_keeps (exec_vst ..) (keeps_execVst _ rfl) hs
  | vstX => exact onto_of_keeps (exec_vstX ..) (keeps_execVstX _ rfl) hs
  | vgather => exact onto_of_keeps (exec_vgather ..) (keeps_execVgather _ rfl) hs
  | vscatter => exact onto_of_keeps (exec_vscatter ..) (keeps_execVscatter _ rfl) hs
  | vldl => exact onto_of_keeps (exec_vldl ..) (keeps_execVldl _ rfl) hs
  | vldlV => exact onto_of_keeps (exec_vldlV ..) (keeps_execVldlV _ rfl) hs
  | vstl => exact onto_of_keeps (exec_vstl ..) (keeps_execVstl _ rfl) hs
  | vstlV => exact onto_of_keeps (exec_vstlV ..) (keeps_execVstlV _ rfl) hs
  | vldsc => exact onto_of_keeps (exec_vldsc ..) (keeps_execVldsc _ rfl) hs
  | vstsc => exact onto_of_keeps (exec_vstsc ..) (keeps_execVstsc _ rfl) hs
  | vcvt => exact onto_of_keeps (exec_vcvt ..) (keeps_execVcvt _ rfl) hs
  | vcvtW => exact onto_of_keeps (exec_vcvtW ..) (keeps_execVcvtW _ rfl) hs
  | vunpk => exact onto_of_keeps (exec_vunpk ..) (keeps_execVunpk _ rfl) hs
  | vunpk6 => exact onto_of_keeps (exec_vunpk6 ..) (keeps_execVunpk6 _ rfl) hs
  | vpk => exact onto_of_keeps (exec_vpk ..) (keeps_execVpk _ rfl) hs
  | vpk6 => exact onto_of_keeps (exec_vpk6 ..) (keeps_execVpk6 _ rfl) hs
  | vperm => exact onto_of_keeps (exec_vperm ..) (keeps_execVperm _ rfl) hs
  | vslide => exact onto_of_keeps (exec_vslide ..) (keeps_execVslide _ rfl) hs
  | vext => exact onto_of_keeps (exec_vext ..) (keeps_execVext _ rfl) hs
  | vins => exact onto_of_keeps (exec_vins ..) (keeps_execVins _ rfl) hs
  | vredAdd => exact onto_of_keeps (exec_vredAdd ..) (keeps_execVredAdd _ rfl) hs
  | vredMax => exact onto_of_keeps (exec_vredMax ..) (keeps_execVredMax _ rfl) hs
  | vredMin => exact onto_of_keeps (exec_vredMin ..) (keeps_execVredMin _ rfl) hs
  | vattc => exact onto_of_keeps (exec_vattc ..) (keeps_execVattc _ _ rfl) hs
  | vattf => exact onto_of_keeps (exec_vattf ..) (keeps_execVattf _ _ rfl) hs
  | rep => exact onto_of_keeps (exec_rep ..) (keeps_execRep _ _ _ rfl) hs
  | repWait => exact onto_of_keeps (exec_repWait ..) (keeps_execRepWait _ _ rfl) hs
  | vfence => exact onto_of_keeps (exec_vfence ..) (keeps_execVfence _ rfl) hs
  | vbusy => exact onto_of_keeps (exec_vbusy ..) (keeps_execVbusy _ _ rfl) hs
  | kand => exact onto_of_keeps (exec_kand ..) (keeps_execKand _ _ _ _ rfl) hs
  | kor => exact onto_of_keeps (exec_kor ..) (keeps_execKor _ _ _ _ rfl) hs
  | kxor => exact onto_of_keeps (exec_kxor ..) (keeps_execKxor _ _ _ _ rfl) hs
  | knot => exact onto_of_keeps (exec_knot ..) (keeps_execKnot _ _ _ rfl) hs
  | kset => exact onto_of_keeps (exec_kset ..) (keeps_execKset _ _ _ rfl) hs
  | kins => exact onto_of_keeps (exec_kins ..) (keeps_execKins _ _ _ _ rfl) hs
  | kext => exact onto_of_keeps (exec_kext ..) (keeps_execKext _ _ _ _ rfl) hs
  | kpop => exact onto_of_keeps (exec_kpop ..) (keeps_execKpop _ _ _ rfl) hs
  | mm => exact onto_of_keeps (exec_mm ..) (keeps_execMm _ _ _ rfl) hs
  | mcload => exact onto_of_keeps (exec_mcload ..) (keeps_execMcload _ _ _ _ rfl) hs
  | mcrd => exact onto_of_keeps (exec_mcrd ..) (keeps_execMcrd _ _ _ rfl) hs
  | mcclr => exact onto_of_keeps (exec_mcclr ..) (keeps_execMcclr _ _ rfl) hs
  | trap => exact onto_of_keeps (exec_trap ..) (keeps_execTrap _ _ _ _ rfl) hs
  | tret => exact onto_of_keeps (exec_tret ..) (keeps_execTret _ rfl) hs
  | tretX => exact onto_of_keeps (exec_tretX ..) (keeps_execTretX _ _ rfl) hs
  | halt => exact onto_of_eq (exec_halt ..) (canon_execHalt _ _ hs)
  | wfi => exact onto_of_keeps (exec_wfi ..) (keeps_execWfi _ _ _ rfl) hs
  | gtime => exact onto_of_keeps (exec_gtime ..) (keeps_execGtime _ _ rfl) hs
  | pjRd => exact onto_of_keeps (exec_pjRd ..) (keeps_execPjRd _ _ _ rfl) hs
  | pjClr => exact onto_of_keeps (exec_pjClr ..) (keeps_execPjClr _ _ _ rfl) hs
  | kcInv => exact onto_of_keeps (exec_kcInv ..) (keeps_execKcInv _ _ _ rfl) hs
  | ffl => exact onto_of_keeps (exec_ffl ..) (keeps_execFfl _ _ rfl) hs
  | ctlRd => exact onto_of_keeps (exec_ctlRd ..) (keeps_execCtlRd _ _ _ _ rfl) hs
  | ctlWr => exact onto_of_keeps (exec_ctlWr ..) (keeps_execCtlWr _ _ _ _ rfl) hs
  | ctlSet => exact onto_of_keeps (exec_ctlSet ..) (keeps_execCtlSet _ _ _ _ rfl) hs
  | ctlClr => exact onto_of_keeps (exec_ctlClr ..) (keeps_execCtlClr _ _ _ _ rfl) hs
  | brk => exact onto_of_keeps (exec_brk ..) (keeps_execBrk _ rfl) hs
  | illegalInstruction => exact onto_of_keeps (exec_illegalInstruction ..) (keeps_execIllegalInstruction _ rfl) hs
  | ptpHoldover => exact onto_of_keeps (exec_ptpHoldover ..) (keeps_execPtpHoldover rfl) hs

theorem canon_runHart {s : State} (hs : Canon s.mem) : Onto Canon (runHart s) := by
  unfold runHart
  split
  next i _ => exact canon_exec i hs
  · exact onto_trapHere _ _ _ hs
  · simp [hs]
  · simp [hs]

theorem canon_runCounted {s : State} (hs : Canon s.mem) : Onto Canon (runCounted s) := by
  have h := canon_runHart hs
  unfold runCounted
  generalize runHart s = o at h ⊢
  cases o with
  | next t => simpa using h
  | fault f => trivial
  | refused r => trivial

theorem canon_perform (e : Instr) {s : State} (hs : Canon s.mem) : Onto Canon (perform e s) := by
  unfold perform
  split
  · simp [hs]
  · exact canon_exec e hs

theorem canon_deliver (n : Nat) {s : State} (hs : Canon s.mem) : Onto Canon (deliver n s) := by
  unfold deliver
  split
  · split
    · exact canon_perform _ hs
    · exact hs
  · exact hs

theorem canon_arrive (e : Instr) {s : State} (hs : Canon s.mem) : Onto Canon (arrive e s) := by
  unfold arrive
  split
  · exact hs
  · split
    · simp [hs]
    · split
      · exact canon_perform e hs
      · exact hs

theorem canon_asyncTurn {s : State} (hs : Canon s.mem) : Onto Canon (asyncTurn s) := by
  have h := canon_runCounted hs
  unfold asyncTurn
  generalize runCounted s = o at h ⊢
  dsimp only
  split
  · simp [hs]
  · split
    · exact h
    · cases o with
      | next t =>
        dsimp only
        split
        · exact h
        · simp [hs]
      | fault f => trivial
      | refused r => trivial

theorem canon_takeTurn {s : State} (hs : Canon s.mem) : Onto Canon (takeTurn s) := by
  unfold takeTurn
  dsimp only
  split
  · simp [hs]
  · split
    · simp [hs]
    · split
      · rw [onto_next, mem_watchdogTrap]
        exact canon_cancelWait _ (by simpa using hs)
      · split
        · exact canon_asyncTurn hs
        · exact canon_runCounted hs

theorem canon_issueTurn (t : Nat) {s : State} (hs : Canon s.mem) : Onto Canon (issueTurn t s) := by
  refine (show ∀ {s : State}, Canon s.mem → Onto Canon (issueHart t s) from fun {s} hs => ?_) hs
  unfold issueHart
  split
  · have h : ∀ {u : State}, Canon u.mem → Onto Canon (match takeTurn u with
        | .next s' => .next (ungrantWord t (getTh s t).wait s')
        | o => o) := fun {u} hu => by
      have h := canon_takeTurn hu
      generalize takeTurn u = o at h ⊢
      cases o with
      | next t => simpa using h
      | fault f => trivial
      | refused r => trivial
    refine h ?_
    split <;> simp [hs]
  · exact hs

theorem canon_runTurn (u : Turn) {s : State} (hs : Canon s.mem) : Onto Canon (runTurn u s) := by
  unfold runTurn
  split
  · split
    · exact canon_arrive _ hs
    · exact hs
  · exact canon_deliver _ hs
  · simp [hs]
  · split
    · exact canon_issueTurn _ hs
    · exact hs
  · simp only [onto_next]
    split <;> exact hs
  · simp only [onto_next]
    split <;> simp [hs]

theorem canon_ownTurn {s : State} (hs : Canon s.mem) : Onto Canon (ownTurn s) := by
  unfold ownTurn
  split
  · exact canon_deliver _ hs
  · split
    · exact canon_issueTurn _ hs
    · simp [hs]

theorem canon_step {s : State} (hs : Canon s.mem) : Onto Canon (step s) := by
  unfold step
  split
  · split
    · exact canon_ownTurn hs
    · trivial
  · split
    · exact canon_runTurn _ hs
    · trivial

/-- Settles O60: every part of a turn keeps the canonical form. -/
theorem memoryStaysCanonical : Obligations.MemoryStaysCanonical := fun s t hs ht => by
  have h := canon_step (s := s) hs
  rw [ht] at h
  exact h

end Sys2Proof.Machine
end

section
/-! The reset state (O59) and the turns of the agenda (O55): what a turn to issue runs. -/

namespace Sys2Proof.Machine

open Sys2Proof.Claims

/-- Settles O59, by evaluation of the reset state. -/
theorem resetState : Obligations.ResetState := by
  refine ⟨rfl, by decide, by decide, fun _ => rfl, fun _ => rfl, fun _ => rfl, fun _ => rfl, fun _ => rfl, fun _ => rfl, rfl, rfl, rfl, rfl, rfl⟩

/-! ### A turn to issue -/

@[simp] theorem me_turnView (t : Nat) (rest : List Turn) (s : State) : (turnView t rest s).me = t := by
  unfold turnView
  dsimp only
  split <;> rfl

@[simp] theorem getTh_turnView (t : Nat) (rest : List Turn) (s : State) (n : Nat) : getTh (turnView t rest s) n = getTh s n := by
  unfold turnView
  dsimp only
  split <;> rfl

@[simp] theorem cur_turnView (t : Nat) (rest : List Turn) (s : State) : cur (turnView t rest s) = getTh s t := by
  simp [cur]

/-- A hart that may issue, and that nothing takes from its instruction, runs it and is counted. -/
theorem step_of_mayIssue {s : State} {t : Nat} {rest : List Turn} (h : MayIssue s t rest) :
    step s = counted (turnView t rest s) (runHart (turnView t rest s)) := by
  obtain ⟨hturn, hpow, hmay, hready, hsettle, href, hexp, hasync, -⟩ := h
  have htake : takeTurn (turnView t rest s) = runCounted (turnView t rest s) := by
    have hnone : (if (getTh s t).late.isEmpty = true then firstRefused (getTh s t).refused else none) = none := by
      split
      next hl => exact href hl
      · rfl
    have hexpired : ∀ w, (getTh s t).wait = w →
        (if (completesFirst (turnView t rest s) t && parked w) = true then none else (getTh s t).expired) = none := fun w hw => by
      rcases hexp with he | ⟨h1, h2⟩
      · simp [he]
      · simp [h1, ← hw, h2]
    have hsync : ¬ (asyncPending (turnView t rest s) t && !completesFirst (turnView t rest s) t) = true := by
      rcases hasync with h | h <;> simp [h]
    unfold takeTurn
    simp only [me_turnView, cur_turnView, hnone]
    cases hw : (getTh s t).wait with
    | settle a => exact absurd hw (hsettle a)
    | _ => simp only [hexpired _ hw, if_neg hsync]
  have hissue : step s = issueHart t { s with turns := rest, issued := s.issued ++ [coreOf t] } := by
    unfold step
    rw [hturn]
    simp only [hpow, Bool.true_or, if_true, runTurn, hmay]
    rfl
  rw [hissue]
  unfold issueHart
  rw [if_pos hready]
  change (match takeTurn (turnView t rest s) with
    | .next s' => (.next (ungrantWord t (getTh s t).wait s') : Out)
    | o => o) = _
  rw [htake]
  unfold runCounted
  generalize runHart (turnView t rest s) = o
  cases o with
  | next v => simp [counted]
  | fault f => rfl
  | refused r => rfl

/-- At an address that it need not travel to, a hart decodes the bytes that it fetches there. -/
theorem atPc_of_fetches {u : State} {t : Nat} {bs : List Byte} (hme : u.me = t) (h : Fetches u t bs) (hl : leaves u t (cur u).pc = false) :
    atPc u = atWords (cur u).pc bs := by
  obtain ⟨b, hb, hs, h4, hn⟩ := h
  unfold atPc
  simp only [hme, hl, hb, hs, Bool.false_eq_true, if_false]
  split
  next e => rw [h4 e]
  next e =>
    obtain ⟨r, hr, he⟩ := hn e
    rw [hr, he]

/-- What a hart does with the bytes that it fetches. -/
theorem runHart_of_fetches {u : State} {t : Nat} {bs : List Byte} (hme : u.me = t) (h : Fetches u t bs) (hl : leaves u t (cur u).pc = false) :
    (∀ i n, decodeBytes bs = .ok (i, n) → (cur u).pc.toNat % 4 = 0 → runHart u = exec i u) ∧
    (∀ i n, decodeBytes bs = .ok (i, n) → (cur u).pc.toNat % 4 ≠ 0 → runHart u = trapHere 3 0 (cur u).pc u) ∧
    (∀ r, decodeBytes bs = .error r → runHart u = exec (.illegalInstruction (BitVec.ofNat 32 (leNat (bs.take 4)))) u) := by
  have hrun := atPc_of_fetches hme h hl
  unfold runHart atWords at *
  refine ⟨fun i n hd ha => ?_, fun i n hd ha => ?_, fun r hd => ?_⟩ <;> rw [hrun, hd]
  · simp only [bits_one_zero, ha, if_true]
  · simp only [bits_one_zero, ha, if_false]

/-! ### What is fetched -/

theorem fetchNode_of_reaches {s : State} {t n : Nat} {pc a : Word} {ps : List Piece} (hmiss : hostMiss s (whoOf s t).unit (whoOf s t).ctx (hdl a) = none)
    (hres : resolve s (whoOf s t) a n needEx = .ok (.mem ps)) (href : refusedPiece s (whoOf s t).part ps = none) (hbad : badWord s ps = none) :
    fetchNode s t pc a n = .got (rdPieces s ps) := by
  unfold fetchNode
  simp [hmiss, hres, href, hbad]

theorem fetchBytes_of_node {s : State} {t : Nat} (hseg : travels (getTh s t) = false ∨ (getCore s (coreOf t)).segment = none) (o n : Nat) :
    fetchBytes s t o n = fetchNode s t (getTh s t).pc (offWrap (getTh s t).pc (Int.ofNat o)) n := by
  have hnone : (if travels (getTh s t) = true then (getCore s (coreOf t)).segment else none) = none := by
    rcases hseg with h | h <;> simp [h]
  unfold fetchBytes
  simp only [hnone]

theorem fetchBytes_of_pinned {s : State} {t o n l i : Nat} (htr : travels (getTh s t) = true) (hseg : (getCore s (coreOf t)).segment = some (l, i, false)) :
    fetchBytes s t o n = .got (((getCore s (coreOf t)).segBytes.drop
      (off (offWrap (getTh s t).pc (Int.ofNat o)) - ((getLaunch s l).segs.getD i []).getD 1 0)).take n) := by
  unfold fetchBytes
  simp only [htr, if_true, hseg]
  rfl

/-! ### The end of a cycle -/

theorem cycle_foldl {α : Type} {f : State → α → State} (h : ∀ s a, (f s a).cycle = s.cycle) (l : List α) (s : State) : (l.foldl f s).cycle = s.cycle :=
  foldl_rel (R := fun s t : State => t.cycle = s.cycle) (fun _ => rfl) (fun _ _ _ h k => k.trans h) h l s

@[simp] theorem cycle_joinTag (tag word : Nat) (s : State) : (joinTag tag word s).cycle = s.cycle := by
  unfold joinTag
  dsimp only
  split <;> rfl

@[simp] theorem cycle_joinBehind (s : State) : (joinBehind s).cycle = s.cycle := by
  have hjoin : ∀ (s : State) (tag : Nat) (w : Option Nat), (match w with | some w => joinTag tag w s | none => s).cycle = s.cycle := fun s tag w => by
    cases w <;> simp
  unfold joinBehind
  dsimp only
  split
  · rfl
  · refine cycle_foldl (fun s e => ?_) _ _
    split
    · split
      · rfl
      · exact hjoin ..
    · split
      · rfl
      · exact hjoin ..
    · split
      · exact hjoin ..
      · rfl
    · exact hjoin ..
    · rfl

@[simp] theorem cycle_ageThreads (s : State) : (ageThreads s).cycle = s.cycle := cycle_foldl (fun s e => by split <;> rfl) _ _

@[simp] theorem cycle_ageCore (s : State) (c : Nat) : (ageCore s c).cycle = s.cycle := by
  unfold ageCore
  dsimp only
  split <;> rfl

@[simp] theorem cycle_ageStreams (s : State) : (ageStreams s).cycle = s.cycle := by
  refine cycle_foldl (fun s n => ?_) _ _
  split
  · rfl
  · unfold ageStream
    dsimp only
    split <;> rfl

@[simp] theorem cycle_fireStamps (s : State) : (fireStamps s).cycle = s.cycle := by
  unfold fireStamps
  dsimp only
  exact cycle_foldl (f := fun s _ => push (.fwCoreWake .stamp) s) (fun _ _ => rfl) _ _

theorem cycle_tick (s : State) : (tick s).cycle = s.cycle + 1 := by
  unfold tick
  dsimp only
  rw [cycle_foldl (fun s e => by unfold pushOnce; split <;> rfl), cycle_fireStamps]
  simp [cycle_foldl cycle_ageCore]

theorem tick_advances {s : State} {o : Out} (h : o = .next (tick s)) : ∃ t, o = .next t ∧ t.cycle = s.cycle + 1 ∧ SameBytes s t :=
  ⟨tick s, h, cycle_tick s, fun k => rdByte_congr (mem_tick s) k⟩

/-! ### Events and inputs -/

theorem step_of_turn {s : State} {u : Turn} {rest : List Turn} (h : s.turns = u :: rest) (hp : s.pkg.powered = true ∨ powersUp u = true) :
    step s = runTurn u { s with turns := rest } := by
  unfold step
  rw [h]
  simp only [Bool.or_eq_true, hp, if_true]

theorem step_of_idle {s : State} (h : s.turns = []) (hp : s.pkg.powered = true) : step s = ownTurn s := by
  unfold step
  rw [h]
  simp only [hp, if_true]

theorem step_of_unpowered {s : State} (hp : s.pkg.powered = false) (h : ∀ rest, s.turns ≠ .input .coldReset :: rest) : step s = .fault .unpowered := by
  unfold step
  split
  · simp [hp]
  next u rest e =>
    have hup : powersUp u = false := by
      unfold powersUp
      split
      · exact absurd e (h rest)
      · rfl
    simp [hp, hup]

theorem perform_ready {e : Instr} {u : State} (h : agentMiss u e = none) : perform e u = exec e u := by
  unfold perform
  rw [h]

theorem perform_missing {e : Instr} {u : State} {m c : Nat} (h : agentMiss u e = some (m, c)) :
    perform e u = .next (pushOnce (.nodeCacheMiss m ⟨c, true⟩) (push e u)) := by
  unfold perform
  rw [h]

theorem deliver_of_enabled {s : State} {n : Nat} {e : Instr} (h : s.pending[n]? = some e) (he : eventEnabled s e = true) :
    deliver n s = perform e { s with pending := s.pending.eraseIdx n } := by
  unfold deliver
  rw [h]
  simp only [he, if_true]

/-- Settles O55: step_of_mayIssue and runHart_of_fetches for a turn to issue, deliver and arrive for events, tick_advances for the end of a cycle. -/
theorem stepRunsDecoded : Obligations.StepRunsDecoded := by
  intro s
  refine ⟨fun t rest bs h hf => ?_, fun t o n ps hseg => ?_, fun t o n l i => fetchBytes_of_pinned, fun n e rest ht hp he hen => ?_,
    fun e rest ht hev hp => ?_, fun at_ rest ht hp => ?_, fun fn o rest ht hp => ?_, fun rest ht hp => ?_, fun ht hp => ?_, step_of_unpowered⟩
  · have hl := h.2.2.2.2.2.2.2.2
    obtain ⟨h1, h2, h3⟩ := runHart_of_fetches (me_turnView t rest s) hf (by simpa using hl)
    rw [cur_turnView] at h1 h2
    rw [step_of_mayIssue h]
    exact ⟨fun i n hd ha => congrArg _ (h1 i n hd ha), fun i n hd ha => congrArg _ (h2 i n hd ha), fun r hd => congrArg _ (h3 r hd)⟩
  · intro w a hmiss hres href hbad
    exact (fetchBytes_of_node hseg o n).trans (fetchNode_of_reaches hmiss hres href hbad)
  · intro u
    have hstep : step s = perform e u := (step_of_turn ht (.inl hp)).trans (deliver_of_enabled (s := { s with turns := rest }) he hen)
    exact ⟨fun h => hstep.trans (perform_ready h), fun m c h => hstep.trans (perform_missing h)⟩
  · intro u
    have hstep : step s = arrive e u := by
      rw [step_of_turn ht (hp.imp id fun h => by rw [h]; rfl)]
      exact if_pos hev
    rw [hstep]
    unfold arrive
    refine ⟨fun h => if_pos h, ?_⟩
    intro waits
    refine ⟨fun ho hs hw => ?_, fun ho hs hw hr hm => ?_, fun ho hs hw hr => ?_⟩ <;> rw [if_neg (by simp [ho, hs])]
    · rw [if_pos (by simpa [waits, or_assoc] using hw)]
    · rw [if_neg (by simpa [waits, or_assoc] using hw), if_pos hr]
      exact perform_ready hm
    · rw [if_neg (by simpa [waits, or_assoc] using hw), if_neg (by simp [hr])]
  · intro u
    exact step_of_turn ht (.inl hp)
  · exact step_of_turn ht (.inl hp)
  · have hstep := step_of_turn ht (.inl hp)
    refine ⟨fun h => tick_advances (s := { s with turns := rest }) (hstep.trans ?_), fun h => hstep.trans ?_⟩ <;> simp only [runTurn, h] <;> rfl
  · rw [step_of_idle ht hp]
    unfold ownTurn
    refine ⟨fun n e hn he hm => ?_, fun hn t hi => ?_, fun hn hi => ?_⟩ <;> simp only [hn]
    · have hen : eventEnabled s e = true := by
        have h := List.find?_some hn
        rw [he] at h
        exact h
      exact (deliver_of_enabled he hen).trans (perform_ready hm)
    · simp only [hi]
      rfl
    · simp only [hi]
      exact tick_advances rfl

end Sys2Proof.Machine
end

section
/-! Fences and cache operations (O27). -/

namespace Sys2Proof.Machine

open Sys2Proof.Claims

theorem exec_of_fenceForm {i : Instr} {q put post : Bool} (h : fenceForm i = some (q, put, post)) (s : State) : exec i s = fenceOp q put post s := by
  unfold fenceForm at h
  split at h
  case h_1 q' => cases h; exact exec_fencePut ..
  case h_2 q' => cases h; exact exec_fencePost ..
  case h_3 q' => cases h; exact exec_fenceAll ..
  case h_4 => cases h

theorem outstanding_iff (s : State) (uid : Nat) (put post : Bool) : outstanding s uid put post = true ↔
    ∃ e ∈ s.journal, e.2.uid = uid ∧ e.2.ref = false ∧ ((put = true ∧ e.2.opk ≤ 1) ∨ (post = true ∧ 2 ≤ e.2.opk ∧ e.2.opk ≤ 4)) := by
  simp only [outstanding, List.any_eq_true, Bool.and_eq_true, Bool.or_eq_true, beq_iff_eq, decide_eq_true_eq, Bool.not_eq_true']
  refine exists_congr fun e => and_congr_right fun _ => ?_
  constructor
  · rintro ⟨⟨⟨hu, hk⟩, hr⟩, h | h⟩
    · exact ⟨hu, hr, .inl h⟩
    · exact ⟨hu, hr, .inr ⟨h.1, h.2, by omega⟩⟩
  · rintro ⟨hu, hr, h | ⟨hp, h2, h4⟩⟩
    · exact ⟨⟨⟨hu, by omega⟩, hr⟩, .inl h⟩
    · exact ⟨⟨⟨hu, by omega⟩, hr⟩, .inr ⟨hp, h2⟩⟩

theorem fenceResults : FenceResults := by
  intro i q put post hi s open_
  rw [exec_of_fenceForm hi]
  unfold fenceOp
  refine ⟨fun h => ?_, fun h hseq => ?_⟩
  · rw [if_neg (fun ho => h ((outstanding_iff ..).1 ho))]
    rfl
  · rw [if_pos ((outstanding_iff ..).2 h), unlessFault_of_none hseq]

/-! ### Lines dropped -/

/-- A core holds no lease on a line, and its quadrant's L2 none either. -/
def LineDropped (core line : Nat) (s : State) : Prop :=
  spGet CachedLine.none (getCore s core).leases line = CachedLine.none ∧ spGet CachedLine.none s.l2 (l2Key core line) = CachedLine.none

theorem leases_dropLine (core line : Nat) (s : State) : (getCore (dropLine core line s) core).leases = spErase line (getCore s core).leases :=
  congrArg (·.leases) (getCore_setCore_self s core { getCore s core with leases := spErase line (getCore s core).leases })

theorem lineDropped_dropLine (core line : Nat) (s : State) : LineDropped core line (dropLine core line s) := by
  refine ⟨?_, spGet_spErase_self ..⟩
  rw [leases_dropLine]
  exact spGet_spErase_self ..

theorem LineDropped.dropLine {core line : Nat} {s : State} (h : LineDropped core line s) (other : Nat) : LineDropped core line (dropLine core other s) := by
  obtain ⟨h1, h2⟩ := h
  have hkeep : ∀ {m : Sp CachedLine} {k : Nat} (n : Nat), spGet CachedLine.none m k = CachedLine.none → spGet CachedLine.none (spErase n m) k = CachedLine.none := by
    intro m k n hm
    by_cases hk : k = n
    · rw [hk, spGet_spErase_self]
    · rw [spGet_spErase_other _ hk, hm]
  refine ⟨?_, hkeep _ h2⟩
  rw [leases_dropLine]
  exact hkeep other h1

theorem lineDropped_of_mem (core : Nat) {lines : List Nat} {line : Nat} (hl : line ∈ lines) (s : State) :
    LineDropped core line (lines.foldl (fun s l => dropLine core l s) s) := by
  induction lines generalizing s with
  | nil => cases hl
  | cons l ls ih =>
    by_cases hin : line ∈ ls
    · exact ih hin _
    · obtain rfl : line = l := (List.mem_cons.1 hl).resolve_right hin
      exact foldl_rel (R := fun s t => LineDropped core line s → LineDropped core line t) (fun _ h => h) (fun _ _ _ h k x => k (h x))
        (fun s l h => h.dropLine l) ls _ (lineDropped_dropLine core line s)

theorem cacheOperations : CacheOperations := by
  intro q a s hq s1
  have hme : s1.me = s.me := operandState_me ..
  have hmem : s1.mem = s.mem := machineKept_mem (machineKept_operandState [a] s)
  have hfe : s1.fe = s.fe := machineKept_fe (machineKept_operandState [a] s)
  refine ⟨?_, ?_, ?_⟩
  · have hmoved : ∀ ps, HomeMoved s1 ((cLines ps).foldl (loadTimes (coreOf s.me)) (ownPages (coreOf s.me) s1 ps)) := fun ps =>
      homeMoved_trans _ _ _ (homeMoved_ownPages ..) (foldl_rel homeMoved_refl homeMoved_trans (homeMoved_loadTimes _) _ _)
    refine ⟨_, (exec_cpf q a s).trans (withRegs_ready hq _), fun k => rdByte_congr ?_ k, fun k => ?_, fun h => ?_, rfl⟩
    · rw [hmoved]
      exact hmem
    · unfold feOf
      rw [hmoved]
      exact congrArg (fun m => spGet false m (k / 8)) hfe
    · unfold getTh
      rw [hmoved]
  · exact (exec_cwb q a s).trans (withRegs_ready hq _)
  · refine ⟨_, (exec_cfl q a s).trans (withRegs_ready hq _), fun k => rdByte_congr ?_ k, fun line hl => lineDropped_of_mem _ hl _⟩
    rw [mem_foldl fun s l => mem_dropLine ..]
    exact hmem

/-- Settles O27. -/
theorem fencesAndCaches : Obligations.FencesAndCaches := ⟨fenceResults, cacheOperations⟩

end Sys2Proof.Machine
end

section
/-! What a store and the waits that it serves leave alone: everything but threads, cores, memory with its full/empty bits, the homes' bookkeeping and the
events under way. -/

namespace Sys2Proof.Machine

open Sys2Proof.Claims

/-- Only what a store and the waits that it serves may change differs. -/
structure StoreMoved (s t : State) : Prop where
  eq : t = { s with
    threads := t.threads, cores := t.cores, pending := t.pending, uids := t.uids, mem := t.mem, fe := t.fe, resv := t.resv, waits := t.waits
    latches := t.latches, lines := t.lines, slices := t.slices, l2 := t.l2, powner := t.powner, seen := t.seen, saves := t.saves, errors := t.errors }

namespace StoreMoved

theorem refl (s : State) : StoreMoved s s := ⟨rfl⟩

theorem trans {a b c : State} (h : StoreMoved a b) (k : StoreMoved b c) : StoreMoved a c := ⟨by
  obtain ⟨h⟩ := h
  obtain ⟨k⟩ := k
  rw [k, h]⟩

theorem of_homeMoved {s t : State} (h : HomeMoved s t) : StoreMoved s t := ⟨by rw [h]⟩

theorem of_machineKept {s t : State} (h : MachineKept s t) : StoreMoved s t := ⟨by rw [h]⟩

theorem setTh {s t : State} (h : StoreMoved s t) (u : Nat) (th : Thread) : StoreMoved s (setTh t u th) := h.trans ⟨rfl⟩

theorem modTh {s t : State} (h : StoreMoved s t) (u : Nat) (f : Thread → Thread) : StoreMoved s (modTh t u f) := h.trans ⟨rfl⟩

theorem setCore {s t : State} (h : StoreMoved s t) (c : Nat) (v : CoreSt) : StoreMoved s (setCore t c v) := h.trans ⟨rfl⟩

theorem push {s t : State} (h : StoreMoved s t) (e : Instr) : StoreMoved s (push e t) := h.trans ⟨rfl⟩

theorem foldl {α : Type} {f : State → α → State} (h : ∀ s a, StoreMoved s (f s a)) (l : List α) (s : State) : StoreMoved s (l.foldl f s) :=
  foldl_rel refl (fun _ _ _ => trans) h l s

theorem asHart {t : Nat} {f : State → State} (h : ∀ s, StoreMoved s (f s)) (s : State) : StoreMoved s (asHart t f s) := ⟨by
  obtain ⟨e⟩ := h { s with me := t }
  unfold Machine.asHart
  dsimp only
  rw [e]⟩

theorem catchUp (core : Nat) (s : State) : StoreMoved s (catchUp core s) := of_homeMoved (homeMoved_catchUp core s)

theorem hitLatches (word : Nat) (s : State) : StoreMoved s (hitLatches word s) := by
  refine foldl (fun s r => ?_) _ s
  dsimp only
  split <;> exact ⟨rfl⟩

theorem retire {s0 s : State} (h : StoreMoved s0 s) (n : Nat) (q : Bool) : StoreMoved s0 (retire s0 n q s) := by
  unfold Machine.retire Machine.retireLive Machine.flow
  dsimp only
  split
  · split
    · exact of_machineKept (machineKept_enterTrap ..)
    · exact ((h.setTh ..).modTh ..).trans (of_machineKept (machineKept_departTo ..))
  · exact (h.setTh ..).modTh ..

theorem addLate {s t : State} (h : StoreMoved s t) (d : Reg) (v : Word) : StoreMoved s (addLate d v t) := (h.modTh ..).push _

theorem serve (t : Nat) (v : Word) (s : State) : StoreMoved s (serve t v s) := by
  refine asHart (fun s => (catchUp (coreOf t) s).trans ?_) s
  dsimp only
  split
  · split
    · exact (refl _).retire ..
    · exact ((refl _).addLate ..).retire ..
    · exact ((refl _).addLate ..).retire ..
  · exact refl _

theorem wrRun {s t : State} (h : StoreMoved s t) (k : Nat) (bs : List Byte) : StoreMoved s (wrRun t k bs) := by
  induction bs generalizing t k with
  | nil => exact h
  | cons b bs ih => exact ih (h.trans ⟨rfl⟩ : StoreMoved s (wrByte t k b)) (k + 1)

theorem wrWord {s t : State} (h : StoreMoved s t) (k : Nat) (v : Word) : StoreMoved s (wrWord t k v) := h.wrRun ..

theorem wrPieces {s t : State} (h : StoreMoved s t) (ps : List Piece) (bs : List Byte) : StoreMoved s (wrPieces t ps bs) := by
  induction ps generalizing t bs with
  | nil => exact h
  | cons p ps ih => exact ih (h.wrRun ..) _

theorem setFe {s t : State} (h : StoreMoved s t) (k : Nat) (b : Bool) : StoreMoved s (setFe t k b) := h.trans ⟨rfl⟩

theorem serveList (word fuel : Nat) : ∀ s, StoreMoved s (serveList word fuel s) := by
  induction fuel with
  | zero => exact refl
  | succ n ih =>
    intro s
    unfold Machine.serveList
    split
    · exact refl s
    · next e rest _ =>
      have hgo : ∀ s', StoreMoved s s' → StoreMoved s (Machine.serveList word n { s' with waits := spSet [] s'.waits word rest }) := fun s' h =>
        (h.trans ⟨rfl⟩).trans (ih _)
      have hagain : StoreMoved s (homeAgain (coreOf e.t) (word * 8) s) := of_homeMoved (homeMoved_homeAgain ..)
      have hjoin : StoreMoved s (joinAgain (coreOf e.t) (word * 8) s) := of_homeMoved (homeMoved_joinAgain ..)
      dsimp only
      split
      · split
        · exact hgo _ (hagain.trans (serve ..))
        · exact refl s
      · split
        · exact hgo _ (hjoin.trans (serve ..))
        · exact refl s
      · split
        · exact hgo _ (((hagain.setFe ..).trans (hitLatches ..)).trans (serve ..))
        · exact refl s
      · split
        · exact refl s
        · exact hgo _ ((((hagain.wrWord ..).setFe ..).trans (hitLatches ..)).trans (serve ..))

theorem testGates (word : Nat) (s : State) : StoreMoved s (testGates word s) := by
  refine foldl (fun s e => ?_) _ s
  dsimp only
  split
  · exact (refl s).push _
  · exact refl s

theorem lessWaiter (key : Nat) (s : State) : StoreMoved s (lessWaiter key s) := ((refl s).wrWord ..).trans (hitLatches ..)

theorem releaseWaiter (s : State) (t : Nat) : StoreMoved s (releaseWaiter s t) := by
  unfold Machine.releaseWaiter
  split
  · dsimp only
    split
    · exact refl s
    · exact ((lessWaiter ..).trans (catchUp ..)).trans (asHart (fun s => retire (((refl s).modTh ..).addLate ..) ..) _)
  · exact refl s

theorem testBarriers (word : Nat) (s : State) : StoreMoved s (testBarriers word s) := foldl (fun s (e : Nat × Thread) => releaseWaiter s e.1) _ s

theorem afterWord (s : State) (word : Nat) : StoreMoved s (afterWord s word) := by
  unfold Machine.afterWord
  split
  · exact ⟨rfl⟩
  · exact (((hitLatches ..).trans (serveList ..)).trans (testGates ..)).trans (testBarriers ..)

theorem afterWrite (s0 : State) (ps : List Piece) (s : State) : StoreMoved s (afterWrite s0 ps s) := by
  refine trans ?_ (foldl afterWord _ _)
  unfold cleanWords
  split
  · exact refl s
  · exact ⟨rfl⟩

theorem storePieces (core : Nat) (ps : List Piece) (data : List Byte) (s : State) : StoreMoved s (storePieces core ps data s) :=
  trans (((of_homeMoved (homeMoved_homeStore core ps s)).wrPieces ps data).trans (of_homeMoved (homeMoved_keepWritten ..))) (afterWrite ..)

theorem storeFe (core : Nat) (ps : List Piece) (data : List Byte) (fe : Nat) (s : State) : StoreMoved s (storeFe core ps data fe s) := by
  refine trans ?_ (afterWrite ..)
  have h : StoreMoved s (Machine.keepWritten core ps (Machine.wrPieces (homeStore core ps s) ps data)) :=
    ((of_homeMoved (homeMoved_homeStore core ps s)).wrPieces ps data).trans (of_homeMoved (homeMoved_keepWritten ..))
  split
  · exact h
  · exact h.trans (foldl (fun s w => (refl s).setFe ..) _ _)

theorem releaseHold (t word : Nat) (s : State) : StoreMoved s (releaseHold t word s) := by
  have h : StoreMoved s (Machine.modTh { s with resv := spSet Resv.free s.resv word { spGet Resv.free s.resv word with holder := none, dirty := false } } t
      fun th => { th with hold := none }) := ⟨rfl⟩
  unfold Machine.releaseHold
  dsimp only
  split <;> split
  · exact h.trans (afterWord ..)
  · exact h
  · exact (h.trans (afterWord ..)).push _
  · exact h.push _

theorem dropHold (t : Nat) (s : State) : StoreMoved s (dropHold t s) := by
  unfold Machine.dropHold
  split
  · exact releaseHold ..
  · exact refl s

theorem withdrawResv (t : Nat) (s : State) : StoreMoved s (withdrawResv t s) := by
  refine foldl (fun s e => ?_) _ s
  split
  · dsimp only
    split <;> exact ⟨rfl⟩
  · exact refl s

theorem withdrawWaits (t : Nat) (s : State) : StoreMoved s (withdrawWaits t s) := by
  refine foldl (fun s e => ?_) _ s
  split
  · exact ⟨rfl⟩
  · exact refl s

theorem disarmAll (t : Nat) (s : State) : StoreMoved s (disarmAll t s) := foldl (fun _ _ => ⟨rfl⟩) _ s

theorem vacate (t : Nat) (s : State) : StoreMoved s (vacate t s) := by
  have h : StoreMoved s (Machine.setTh (Machine.withdrawWaits t (Machine.withdrawResv t (Machine.disarmAll t s))) t Thread.reset) :=
    (((disarmAll t s).trans (withdrawResv ..)).trans (withdrawWaits ..)).setTh ..
  unfold Machine.vacate
  dsimp only
  split
  · exact h
  · exact h.push _

theorem journal {s t : State} (h : StoreMoved s t) : t.journal = s.journal := congrArg (·.journal) h.eq

theorem launches {s t : State} (h : StoreMoved s t) : t.launches = s.launches := congrArg (·.launches) h.eq

theorem me {s t : State} (h : StoreMoved s t) : t.me = s.me := congrArg (·.me) h.eq

end StoreMoved

end Sys2Proof.Machine
end

section
/-! join and exit (O31, O33). -/

namespace Sys2Proof.Machine

open Sys2Proof.Claims

/-! ### join -/

theorem getTh_atTurn (ps : List Piece) (s : State) : getTh (atTurn ps s) s.me = { getTh s s.me with stay := false } := by
  rw [atTurn_kept]
  exact getTh_setTh_self s s.me _

theorem getTh_homeMoved {s t : State} (h : HomeMoved s t) (u : Nat) : getTh t u = getTh s u := by
  unfold getTh
  rw [h]

theorem getTh_operandState_kept (srcs : List Reg) (s : State) (u : Nat) :
    getTh (operandState srcs s) u = { getTh s u with x := (getTh (operandState srcs s) u).x } := (operandsRead_operandState srcs s).2.1 u

section

variable {q : Bool} {a : Reg} {s : State}

theorem execJoin_reaches (hq : QueuesReady [a] [] s) {p : Piece} {r : List Piece} (ha : (operand [a] s a).toNat % 8 = 0)
    (h : ReachesMemory (operandState [a] s) (operand [a] s a) 8 needRd false false (p :: r)) :
    exec (.join q a) s =
      if rdWord s p.key = 0 ∧ listedSame s p.key .join = false then
        .next (retire s 4 q (homeRead (coreOf s.me) (p :: r) (atTurn (p :: r) (operandState [a] s))))
      else joinList s (atTurn (p :: r) (operandState [a] s)) (p :: r) .join (operand [a] s a) 0 0 4 q := by
  have hmem : (operandState [a] s).mem = s.mem := machineKept_mem (machineKept_operandState [a] s)
  have hwaits : (operandState [a] s).waits = s.waits := by rw [machineKept_operandState [a] s]
  rw [exec_join, execJoin, withRegs_ready hq]
  dsimp only
  rw [show xr (cur (operandState [a] s)) a = operand [a] s a from rfl, if_neg (by rw [ha]; decide), withPlace_reaches h]
  dsimp only
  rw [homeBarred_reaches h]
  simp only [Bool.false_eq_true, if_false]
  rw [withMemory_reaches h (.inr rfl)]
  dsimp only [List.headD_cons]
  simp only [listedSame_congr (atTurn_waits ..), listedSame_congr hwaits, rdWord_congr (atTurn_mem ..), rdWord_congr hmem]
  rfl

end

theorem joinResults : JoinResults := by
  intro q a s hq ea s1
  refine ⟨fun hm => ?_, fun p r ha hreach => ?_⟩
  · refine trapsAt_of_exactAt ((exec_join ..).trans ?_)
    rw [execJoin, withRegs_ready hq]
    exact if_pos hm
  · intro s2 s3
    refine ⟨fun h0 hl => (execJoin_reaches hq ha hreach).trans (if_pos ⟨h0, by simpa [Listed] using hl⟩), fun h0 hroom hearly hretry hseq => ?_⟩
    have hcore : coreOf (atTurn (p :: r) (operandState [a] s)).me = coreOf s.me := by rw [atTurn_me, operandState_me]
    have hme : s3.me = s.me := by
      have h : s3.me = s2.me := congrArg (·.me) (homeMoved_ownPages (coreOf s.me) s2 (p :: r))
      rw [h, atTurn_me, operandState_me]
    have hpc : (getTh s3 s.me).pc = (cur s).pc := by
      rw [getTh_homeMoved (homeMoved_ownPages ..)]
      have h2 := getTh_atTurn (p :: r) s1
      rw [show s1.me = s.me from operandState_me ..] at h2
      rw [h2, getTh_operandState_kept]
      rfl
    refine ⟨_, ((execJoin_reaches hq ha hreach).trans (if_neg fun h => h0 h.1)).trans (joinList_room hcore rfl hseq hretry hroom hearly ..), ?_, ?_, ?_⟩
    · simp [cur, park, modTh_eq, ea]
    · simp only [cur, park, modTh_eq, setTh_me, getTh_setTh_self]
      exact (congrArg (fun u => (getTh s3 u).pc) hme).trans hpc
    · simp only [park, modTh_eq, setTh_waits, List.headD_cons, spGet_spSet_self]
      exact List.mem_append_right _ (List.mem_singleton.2 (congrArg (WaitEnt.mk · .join 0) hme.symm))

/-! ### exit -/

/-- Only events are added. -/
structure EventsAdded (s t : State) : Prop where
  eq : t = { s with pending := t.pending }
  kept : ∀ e ∈ s.pending, e ∈ t.pending

namespace EventsAdded

theorem refl (s : State) : EventsAdded s s := ⟨rfl, fun _ h => h⟩

theorem trans {a b c : State} (h : EventsAdded a b) (k : EventsAdded b c) : EventsAdded a c :=
  ⟨by rw [k.eq, h.eq], fun e he => k.kept e (h.kept e he)⟩

theorem push (e : Instr) (s : State) : EventsAdded s (push e s) := ⟨rfl, fun _ he => List.mem_append_left _ he⟩

theorem pushOnce (e : Instr) (s : State) : EventsAdded s (pushOnce e s) := by
  unfold Machine.pushOnce
  split
  · exact refl s
  · exact push e s

theorem foldl {α : Type} {f : State → α → State} (h : ∀ s a, EventsAdded s (f s a)) (l : List α) (s : State) : EventsAdded s (l.foldl f s) :=
  foldl_rel refl (fun _ _ _ => trans) h l s

theorem offerLeft (l : Nat) (s : State) : EventsAdded s (offerLeft l s) := by
  unfold Machine.offerLeft
  dsimp only
  split
  · refine foldl (fun s c => ?_) _ s
    split
    · exact push ..
    · exact refl s
  · exact refl s

theorem checkLaunch (l : Nat) (s : State) : EventsAdded s (checkLaunch l s) := by
  unfold Machine.checkLaunch
  split
  · exact pushOnce ..
  · exact refl s

theorem threads {s t : State} (h : EventsAdded s t) : t.threads = s.threads := congrArg (·.threads) h.eq

theorem journal {s t : State} (h : EventsAdded s t) : t.journal = s.journal := congrArg (·.journal) h.eq

theorem launches {s t : State} (h : EventsAdded s t) : t.launches = s.launches := congrArg (·.launches) h.eq

theorem me {s t : State} (h : EventsAdded s t) : t.me = s.me := congrArg (·.me) h.eq

theorem getTh {s t : State} (h : EventsAdded s t) (u : Nat) : getTh t u = getTh s u := congrArg (fun m => spGet Thread.reset m u) h.threads

end EventsAdded

/-- A slot that its thread leaves is empty, and is offered again. -/
theorem getTh_vacate (t : Nat) (s : State) : getTh (vacate t s) t = Thread.reset := by
  unfold vacate
  dsimp only
  split
  · exact getTh_setTh_self ..
  · exact (getTh_setTh_self (withdrawWaits t (withdrawResv t (disarmAll t s))) t Thread.reset :)

theorem slotFree_vacate {t : Nat} (h : isHart t = false) (s : State) : Instr.slotFree (coreOf t) (slotOf t) ∈ (vacate t s).pending := by
  unfold vacate
  dsimp only
  rw [h]
  exact List.mem_append_right _ (List.mem_singleton.2 rfl)

theorem journal_dropRefused {uid : Nat} {s : State} {e : Nat × JEnt} (he : e ∈ (dropRefused uid s).journal) : ¬ (e.2.uid = uid ∧ e.2.ref = true) := by
  obtain ⟨-, h⟩ := List.mem_filter.1 he
  rintro ⟨hu, hr⟩
  simp [hu, hr] at h

theorem launches_addCounts (th : Thread) (s : State) : (addCounts th s).launches = s.launches := by
  unfold addCounts freeUsed
  split <;> rfl

/-- A thread that ends: its slot is empty and offered, its refused entries are gone, its launch counts it out. -/
theorem endThread_ends {t : Nat} (ht : isHart t = false) (b : Bool) (s : State) :
    getTh (endThread t b s) t = Thread.reset ∧ Instr.slotFree (coreOf t) (slotOf t) ∈ (endThread t b s).pending ∧
    (∀ e ∈ (endThread t b s).journal, ¬ (e.2.uid = (getTh s t).uid ∧ e.2.ref = true)) ∧
    ((getTh s t).launch ≠ 0 → (getLaunch (endThread t b s) (getTh s t).launch).live = (getLaunch s (getTh s t).launch).live - 1) ∧
    (endThread t b s).me = s.me := by
  unfold endThread
  extract_lets th s1
  have hvac : StoreMoved (dropRefused th.uid (addCounts th (dropHold t s))) s1 := StoreMoved.vacate ..
  have hth : getTh s1 t = Thread.reset := getTh_vacate t _
  have hfree : Instr.slotFree (coreOf t) (slotOf t) ∈ s1.pending := slotFree_vacate ht _
  have hj : ∀ e ∈ s1.journal, ¬ (e.2.uid = th.uid ∧ e.2.ref = true) := fun e he => journal_dropRefused (hvac.journal ▸ he)
  have hl : s1.launches = s.launches := by
    rw [hvac.launches]
    exact (launches_addCounts th _).trans (StoreMoved.dropHold t s).launches
  have hme : s1.me = s.me := by
    have hadd : ∀ u, (addCounts th u).me = u.me := fun u => by
      unfold addCounts freeUsed
      split <;> rfl
    rw [hvac.me]
    exact (hadd _).trans (StoreMoved.dropHold t s).me
  clear_value s1
  split
  next h0 => exact ⟨hth, hfree, hj, fun h => absurd h0 h, hme⟩
  · generalize hs2 : modLaunch s1 th.launch (fun x => { x with live := x.live - 1, trapped := x.trapped || b }) = s2
    have hadded : EventsAdded s2 (checkLaunch th.launch (offerLeft th.launch s2)) := (EventsAdded.offerLeft ..).trans (EventsAdded.checkLaunch ..)
    subst hs2
    refine ⟨(hadded.getTh t).trans hth, hadded.kept _ hfree, fun e he => hj e (hadded.journal ▸ he), fun _ => ?_, hadded.me.trans hme⟩
    have hlive : getLaunch (checkLaunch th.launch (offerLeft th.launch (modLaunch s1 th.launch fun x => { x with live := x.live - 1, trapped := x.trapped || b }))) th.launch
        = { getLaunch s1 th.launch with live := (getLaunch s1 th.launch).live - 1, trapped := (getLaunch s1 th.launch).trapped || b } := by
      unfold getLaunch
      rw [hadded.launches]
      exact spGet_spSet_self ..
    rw [hlive]
    exact congrArg (fun m => (spGet Launch.none m th.launch).live - 1) hl

theorem hartEnd_ready {s : State} (ho : outstanding s (cur s).uid true true = false) (hl : (cur s).late = []) (v : Word) :
    hartEnd v s = .next (endHart s.me v s) := by
  unfold hartEnd
  rw [ho, hl]
  rfl

theorem execExit_slot {s : State} (h : isHart s.me = false) (q : Bool) : exec (.exit q) s =
    if (cur (endCapture s.me s)).late.isEmpty && vectorIdle (cur (endCapture s.me s)) then
      .next (endThread s.me false (modTh (endCapture s.me s) s.me (countExit s)))
    else .next (park (.settle .exit) (endCapture s.me s)) := by
  rw [exec_exit]
  unfold execExit
  simp only [h, Bool.false_eq_true, if_false]

theorem launch_countExit (s : State) (th : Thread) : (countExit s th).launch = th.launch ∧ (countExit s th).uid = th.uid := by
  unfold countExit
  split <;> exact ⟨rfl, rfl⟩

theorem exitResults : ExitResults := by
  intro q s s0 th
  refine ⟨fun hh hl hv => ?_, fun hh h => ?_, fun hh ho hl => ?_, fun a hh ho hl => ?_⟩
  · refine ⟨_, (execExit_slot hh q).trans (if_pos (by rw [hl, hv]; rfl)), ?_⟩
    have hme : s0.me = s.me := machineKept_me (machineKept_endCapture s.me s)
    have hwho : (getTh s0 s.me).who = th.who := (WhoKept.endCapture s.me s).who s.me
    have hlaunch : (getTh s0 s.me).launch = th.launch := congrArg (fun p : Nat × Nat × Nat × Nat × Nat × BitVec 32 × Option (Nat × Nat) × Word × Word => p.2.2.2.2.1) hwho
    have huid : (getTh s0 s.me).uid = th.uid := congrArg Prod.fst hwho
    have hcount := launch_countExit s (getTh s0 s.me)
    have hgl : (modTh s0 s.me (countExit s)).launches = s.launches := (StoreMoved.of_machineKept (machineKept_endCapture s.me s)).launches
    obtain ⟨h1, h2, h3, h4, -⟩ := endThread_ends hh false (modTh s0 s.me (countExit s))
    have hth : getTh (modTh s0 s.me (countExit s)) s.me = countExit s (getTh s0 s.me) := getTh_setTh_self ..
    rw [hth, hcount.1, hlaunch] at h4
    rw [hth, hcount.2, huid] at h3
    exact ⟨h1, h2, h3, fun hn => (h4 hn).trans (congrArg (fun m => (spGet Launch.none m th.launch).live - 1) hgl)⟩
  · refine (execExit_slot hh q).trans (if_neg ?_)
    intro hb
    obtain ⟨hl, hv⟩ := (Bool.and_eq_true ..).mp hb
    exact h.elim (fun h => h (List.isEmpty_iff.1 hl)) fun h => absurd (hv.symm.trans h) (by decide)
  · rw [exec_exit]
    unfold execExit
    simp only [hh, if_true]
    exact hartEnd_ready ho hl 0
  · rw [exec_halt]
    unfold execHalt
    simp only [hh, if_true]
    exact hartEnd_ready ho hl _

/-- Settles O33. -/
theorem joinsAndExits : Obligations.JoinsAndExits := ⟨joinResults, exitResults⟩

/-- Settles O31: where joinResults and exitResults have the instruction complete. -/
theorem joinAndExitComplete : Obligations.JoinAndExitComplete := by
  intro q s
  refine ⟨fun a p r hq ha hreach h0 hw hm => ?_, fun hh hc hl hv ho => ?_⟩
  · have hnot : ¬ Listed s p.key .join := by
      simp [Listed, listedSame, hw]
    have hexec := ((joinResults q a s hq).2 p r ha hreach).1 h0 hnot
    have hmoved : HomeMoved (atTurn (p :: r) (operandState [a] s)) (homeRead (coreOf s.me) (p :: r) (atTurn (p :: r) (operandState [a] s))) :=
      homeMoved_homeRead ..
    generalize homeRead (coreOf s.me) (p :: r) (atTurn (p :: r) (operandState [a] s)) = u at hexec hmoved
    have hme : u.me = s.me := (congrArg (·.me) hmoved).trans (by rw [atTurn_me, operandState_me])
    have hth : getTh u s.me = { getTh (operandState [a] s) s.me with stay := false } := by
      rw [getTh_homeMoved hmoved]
      have h := getTh_atTurn (p :: r) (operandState [a] s)
      rwa [operandState_me] at h
    have hop := getTh_operandState_kept [a] s s.me
    have hmode : modeOf (getTh u u.me) ≠ 2 := by
      rw [hme, hth, hop]
      exact hm
    have hret := getTh_retire (s0 := s) hmode 4 q
    rw [hme, hth] at hret
    have hcur : cur (retire s 4 q u) = getTh (retire s 4 q u) s.me := by
      have h : (retire s 4 q u).me = u.me := machineKept_me (machineKept_retire_self hmode 4 q)
      rw [cur, h, hme]
    refine ⟨_, hexec, fun k => rdByte_congr ?_ k, ?_, ?_, fun he => ?_⟩
    · have hmem : u.mem = s.mem := by
        rw [hmoved]
        exact (atTurn_mem ..).trans (machineKept_mem (machineKept_operandState [a] s))
      exact mem_retire hmem ..
    · rw [hcur, hret, seqNext_kept]
      exact congrArg (·.x) (getTh_operandState_me [a] s)
    · rw [hcur, hret, seqNext_kept]
      exact congrArg (·.seq + 1) hop
    · rw [hcur, hret, seqNext_of_not_endsLoop]
      · rfl
      · rw [hop]
        exact he
  · have hcap : endCapture s.me s = s := endCapture_of_none hc
    obtain ⟨t, ht, hreset, -⟩ := (exitResults q s).1 hh (by rw [hcap]; exact hl) (by rw [hcap]; simp [vectorIdle, hc, hv, ho])
    exact ⟨t, ht, hreset⟩

end Sys2Proof.Machine
end

section
/-! spawn, spawnc, fork and unfork (O32). -/

namespace Sys2Proof.Machine

open Sys2Proof.Claims

/-! ### spawn -/

theorem spawnable_iff (s : State) (c : Word) : spawnable s c = true ↔ MaySpawnOn s c := by
  unfold spawnable MaySpawnOn
  simp only [Bool.and_eq_true, Bool.or_eq_true, decide_eq_true_eq, bne_iff_ne, Bool.not_eq_true', List.contains_iff_mem, and_assoc, Classical.or_iff_not_imp_left,
    ne_eq, not_not]

theorem spawnable_false {s : State} {c : Word} (h : ¬ MaySpawnOn s c) : spawnable s c = false := Bool.eq_false_iff.2 (mt (spawnable_iff s c).1 h)

/-- The thread with the words that it has taken at an issue. -/
theorem keepTaken_eq {s : State} {t : Nat} (h : s.me = t) (ws : List Word) : keepTaken ws s = setTh s t { cur s with taken := ws } := by
  subst h
  rfl

/-- A spawn made in line is a call of the target (R332). -/
theorem spawnInline_eq {s0 s : State} (hme : s.me = s0.me) (hpc : (cur s).pc = (cur s0).pc) {live : Option (BitVec 15)} (hl : off (cur s0).pc + liveLen live < 2 ^ 48)
    (q : Bool) (d : Reg) (t r : Word) :
    spawnInline q d live t r s0 s =
      .next (jump s0 t false live q (wr s0.me 14 (nextAddr (cur s0).pc (liveLen live)) (wr s0.me d r (setTh s s0.me { cur s with taken := [] })))) := by
  unfold spawnInline
  rw [hpc, linkOf_of_lt hl, keepTaken_eq hme, hme]

section

variable {a b : Reg} {s : State} (hq : QueuesReady [a, b] [] s)

include hq

theorem execSpawn_cases (q : Bool) (d : Reg) : exec (.spawn q d a b) s =
    if (operand [a, b] s a).toNat % 4 ≠ 0 then exactAt 4 ⟨3, 0, operand [a, b] s a⟩ s
    else if !spawnable (operandState [a, b] s) (operand [a, b] s b) then
      .next (retire s 4 q (addLate d (ofI (-1)) (operandState [a, b] s)))
    else .next (retire s 4 q
      (push (.slotReservationRequest ⟨s.me, (cur s).uid, .spawn, (operand [a, b] s b).toNat, (cur s).seq, 4,
          some (spawnParcel (operandState [a, b] s) (operand [a, b] s a) (operand [a, b] s b).toNat), (getCore (operandState [a, b] s) (coreOf s.me)).pts⟩)
        (addLateOpen d 8 0 (operandState [a, b] s)))) := by
  rw [exec_spawn, execSpawn, withRegs_ready hq, ← ofI_neg_one, ← bits_one_zero]
  rw [show (cur s).uid = (cur (operandState [a, b] s)).uid by rw [cur_operandState], show (cur s).seq = (cur (operandState [a, b] s)).seq by rw [cur_operandState]]
  rfl

theorem execSpawnc_cases (hw : ∀ r, (cur s).wait ≠ .slotReply r) (q : Bool) (d : Reg) (live : Option (BitVec 15)) : exec (.spawnc q d a b live) s =
    let s1 := operandState [a, b] s
    let t := operand [a, b] s a
    let c := operand [a, b] s b
    if t.toNat % 4 ≠ 0 then (if spawnable s1 c then trapHere 3 0 t s else misaligned s t false s1)
    else if !spawnable s1 c then
      (if (cur s1).late.isEmpty then spawnInline q d live t (ofI (-1)) s s1 else .next (park (.slotReply (some (2 ^ 64 - 1))) (keepTaken [t] s1)))
    else
      .next (push (.slotReservationRequest ⟨s.me, (cur s1).uid, .spawn, c.toNat, (cur s1).seq, liveLen live, some (spawnParcel s1 t c.toNat),
        (getCore s1 (coreOf s.me)).pts⟩) (park .slotAsk (keepTaken [t] s1))) := by
  rw [exec_spawnc]
  unfold execSpawnc
  dsimp only
  split
  next h => exact absurd h (hw _)
  next h => exact absurd h (hw _)
  · rw [withRegs_ready hq, ← ofI_neg_one, ← bits_one_zero]
    rfl

end

theorem late_operandState (srcs : List Reg) (s : State) : (cur (operandState srcs s)).late = (cur s).late := by rw [cur_operandState]

/-- The thread with a word taken, while its request is out. -/
theorem slotAsk_parked (s : State) (t : Word) (e : Instr) : let th := cur (push e (park .slotAsk (keepTaken [t] s)))
    th.wait = .slotAsk ∧ th.pc = (cur s).pc ∧ th.taken = [t] := by
  simp [cur, park, keepTaken]

theorem spawnResults : SpawnResults := by
  intro q d a b live s len kept inLine
  have hlen : len = liveLen live := rfl
  refine ⟨fun hq => ?_, fun t ht => ⟨fun r hr hne => ?_, fun hr hoff => ?_, fun hr hoff => ?_⟩⟩
  · intro t c s1
    have hme : s1.me = s.me := operandState_me ..
    have hpc : (cur s1).pc = (cur s).pc := operandState_pc ..
    have hlate : (cur s1).late = (cur s).late := late_operandState ..
    refine ⟨fun h => trapsAt_of_exactAt ((execSpawn_cases hq q d).trans (if_pos h)), fun h hm => ?_, fun h hm => ?_, fun hw => ⟨fun h hm => ?_, fun h hm hl hoff => ?_, fun h hm hl => ?_, fun h hm => ?_⟩⟩
    · rw [execSpawn_cases hq, if_neg (not_not.2 h), if_pos (by rw [spawnable_false hm]; rfl)]
    · refine ⟨spawnParcel s1 t c.toNat, rfl, rfl, ?_, ?_, ?_⟩
      · exact congrArg (·.launch) (getTh_operandState_kept [a, b] s s1.me) |>.trans (congrArg (fun n => (getTh s n).launch) hme)
      · rfl
      · rw [execSpawn_cases hq, if_neg (not_not.2 h), if_neg (by rw [(spawnable_iff ..).2 hm]; decide)]
    · have hcases := execSpawnc_cases hq hw q d live
      dsimp only at hcases
      rw [if_pos h] at hcases
      refine hcases.trans ?_
      rcases hm with hm | hstay
      · exact if_pos ((spawnable_iff ..).2 hm)
      · rw [misaligned_stays (by rw [hme]; exact hstay) s false]
        exact ite_self _
    · have hcases := execSpawnc_cases hq hw q d live
      dsimp only at hcases
      rw [if_neg (not_not.2 h), if_pos (by rw [spawnable_false hm]; rfl), if_pos (by rw [hlate, hl]; rfl)] at hcases
      exact hcases.trans (spawnInline_eq hme hpc (hlen ▸ hoff) ..)
    · have hcases := execSpawnc_cases hq hw q d live
      dsimp only at hcases
      rw [if_neg (not_not.2 h), if_pos (by rw [spawnable_false hm]; rfl), if_neg (by rw [hlate, List.isEmpty_iff]; exact hl), keepTaken_eq hme] at hcases
      exact hcases
    · have hcases := execSpawnc_cases hq hw q d live
      dsimp only at hcases
      rw [if_neg (not_not.2 h), if_neg (by rw [(spawnable_iff ..).2 hm]; decide)] at hcases
      obtain ⟨hwait, hpc', htaken⟩ := slotAsk_parked s1 t _
      exact ⟨_, _, hcases, hwait, hpc'.trans hpc, htaken, List.mem_append_right _ (List.mem_singleton.2 rfl), rfl, rfl, rfl⟩
  · rw [exec_spawnc]
    unfold execSpawnc
    dsimp only
    rw [hr]
    exact if_neg (by simpa using hne)
  · rw [exec_spawnc]
    unfold execSpawnc
    dsimp only
    rw [hr, ht]
    dsimp only
    rw [if_pos (by decide), ofI_neg_one]
    exact spawnInline_eq rfl rfl (hlen ▸ hoff) ..
  · rw [exec_spawnc]
    unfold execSpawnc
    dsimp only
    rw [hr, ht]
    exact spawnInline_eq rfl rfl (hlen ▸ hoff) ..

/-! ### fork and unfork -/

section

variable {a : Reg} {s : State} (hq : QueuesReady [a] [] s)

include hq

theorem execFork_aligned (h : (operand [a] s a).toNat % 4 = 0) {live : Option (BitVec 15)} (hl : off (cur s).pc + liveLen live < 2 ^ 48) (q : Bool) (d : Reg) :
    exec (.fork q d a live) s =
      let s1 := operandState [a] s
      let link := nextAddr (cur s).pc (liveLen live)
      match (if modeOf (cur s1) = 2 ∨ isHart s.me = true then none
          else pushDeque ((getLaunch s1 (cur s1).launch).cores.contains (coreOf s.me))
            ⟨link, (upTo 7).map fun i => spGet 0 (cur s1).x (i + 1), (cur s1).launch, slotOf s.me, (cur s1).id⟩ (getCore s1 (coreOf s.me))) with
      | some c => .next (jump s (operand [a] s a) false live q (addLate d 1 (wr s.me 14 link (setCore s1 (coreOf s.me) c))))
      | none => .next (jump s (operand [a] s a) false live q (addLate d 0 (wr s.me 14 link s1))) := by
  have hlink : linkOf (cur (operandState [a] s)).pc (liveLen live) = .ok (nextAddr (cur s).pc (liveLen live)) := by rw [operandState_pc, linkOf_of_lt hl]
  rw [exec_fork, execFork, withRegs_ready hq]
  dsimp only
  rw [hlink]
  exact if_neg (not_not.2 ((bits_one_zero _).trans h))

theorem execFork_misaligned (h : (operand [a] s a).toNat % 4 ≠ 0) (hs : leaves (operandState [a] s) s.me (operand [a] s a) = false) (q : Bool) (d : Reg)
    (live : Option (BitVec 15)) : exec (.fork q d a live) s = trapHere 3 0 (operand [a] s a) s := by
  rw [← operandState_me [a] s] at hs
  rw [exec_fork, execFork, withRegs_ready hq, ← misaligned_stays hs s false]
  exact if_pos (bits_one_zero _ ▸ h)

theorem execUnfork_return (h : operand [a] s a = 0) (hr : (xr (cur (operandState [a] s)) 14).toNat % 4 = 0) (q : Bool) (live : Option (BitVec 15)) :
    exec (.unfork q a live) s = .next (jump s (xr (cur (operandState [a] s)) 14) false live q (operandState [a] s)) := by
  rw [exec_unfork, execUnfork, withRegs_ready hq]
  exact (if_pos h).trans (if_pos ((bits_one_zero _).trans hr))

theorem execUnfork_deque (h : operand [a] s a ≠ 0) (q : Bool) (live : Option (BitVec 15)) :
    exec (.unfork q a live) s =
      let s1 := operandState [a] s
      let c := refillDeque (getCore s1 (coreOf s.me))
      match c.deque.getLast? with
      | some e =>
        if e.launch = (cur s1).launch ∧ e.slot = slotOf s.me ∧ e.id = (cur s1).id ∧ isHart s.me = false then
          .next (jump s e.pc false live q (modTh (setCore s1 (coreOf s.me) { c with deque := c.deque.dropLast }) s.me fun th =>
            { th with x := (upTo 7).foldl (init := th.x) fun m i => spSet 0 m (i + 1) (e.xs.getD i 0) }))
        else execExit q s1
      | none => execExit q s1 := by
  rw [exec_unfork, execUnfork, withRegs_ready hq]
  exact if_neg h

end

/-- The registers that a popped continuation restores: x1 to x7. -/
theorem spGet_restored (m : Sp Word) (xs : List Word) (n k : Nat) :
    spGet 0 ((upTo k).foldl (init := m) fun m i => spSet 0 m (i + 1) (xs.getD i 0)) n =
      if 1 ≤ n ∧ n ≤ k then xs.getD (n - 1) 0 else spGet 0 m n := by
  induction k with
  | zero => exact (if_neg (by omega)).symm
  | succ k ih =>
    have hup : upTo (k + 1) = upTo k ++ [k] := List.range_succ
    rw [hup, List.foldl_append]
    simp only [List.foldl_cons, List.foldl_nil]
    rw [spGet_spSet, ih]
    by_cases hn : n = k + 1
    · rw [if_pos hn, if_pos (by omega), hn]
      rfl
    · rw [if_neg hn]
      exact if_congr (by omega) rfl rfl

theorem forkResults : ForkResults := by
  intro q d a live s hq f s1 core c len link
  have hlen : len = liveLen live := rfl
  have hcur : cur s1 = { cur s with x := (cur s1).x } := cur_operandState [a] s
  have hmode : modeOf (cur s1) = modeOf (cur s) := by rw [hcur]; rfl
  have hlaunch : (cur s1).launch = (cur s).launch := congrArg (·.launch) hcur
  have hid : (cur s1).id = (cur s).id := congrArg (·.id) hcur
  refine ⟨fun h hs => execFork_misaligned hq h hs q d live, fun h hoff hm hh hd => ?_, fun h hoff hm => ?_, fun h hr => execUnfork_return hq h hr q live,
    fun h rest e hd hl hs hi hh => ?_, fun h hd hs => ?_⟩
  · refine (execFork_aligned hq h (hlen ▸ hoff) q d).trans ?_
    dsimp only
    rw [if_neg (by rw [show modeOf (cur (operandState [a] s)) = modeOf (cur s) from hmode, hh]; simp [hm]), pushDeque, if_pos hd,
      show (cur (operandState [a] s)).launch = (cur s).launch from hlaunch, show (cur (operandState [a] s)).id = (cur s).id from hid]
    rfl
  · refine (execFork_aligned hq h (hlen ▸ hoff) q d).trans ?_
    dsimp only
    rw [if_pos (.inl (hmode.trans hm))]
    rfl
  · have hrefill : refillDeque c = c := by simp [refillDeque, hd]
    have hlast : c.deque.getLast? = some e := by simp [hd]
    have hdrop : c.deque.dropLast = rest := by simp [hd]
    have hdeque := execUnfork_deque hq h q live
    dsimp only at hdeque
    rw [show refillDeque (getCore (operandState [a] s) (coreOf s.me)) = c from hrefill, hlast] at hdeque
    dsimp only at hdeque
    rw [if_pos ⟨hl.trans hlaunch.symm, hs, hi.trans hid.symm, hh⟩, hdrop] at hdeque
    have hget : getTh (setCore s1 core { c with deque := rest }) s.me = cur s1 := getTh_operandState_me [a] s
    refine ⟨_, hdeque.trans (congrArg (fun u => Host.Outcome.next (jump s e.pc false live q u)) (modTh_eq ..)), ?_, fun i hi7 => ?_, fun n hn => ?_⟩
    · rw [hget]
    · exact (spGet_restored _ _ _ _).trans (if_pos ⟨by omega, by omega⟩)
    · refine (spGet_restored _ _ _ _).trans ((if_neg (by omega)).trans ?_)
      exact congrArg (fun th : Thread => spGet 0 th.x n) hget
  · have hdeque := execUnfork_deque hq h q live
    have hlast : (refillDeque c).deque.getLast? = none := by simp [refillDeque, hd, hs]
    dsimp only at hdeque
    rw [show (refillDeque (getCore (operandState [a] s) (coreOf s.me))).deque.getLast? = none from hlast] at hdeque
    exact hdeque.trans (exec_exit ..).symm

/-- Settles O32. -/
theorem spawnsAndForks : Obligations.SpawnsAndForks := ⟨spawnResults, forkResults⟩

end Sys2Proof.Machine
end

section
/-! go, yield, tid, and the events of slots and parcels (O34). -/

namespace Sys2Proof.Machine

open Sys2Proof.Claims

/-! ### go -/

theorem latchHeld_iff (th : Thread) : ((upTo 4).any fun i => bit (spGet 0 th.latch i) 1) = true ↔ ∃ i, i < 4 ∧ bit (spGet 0 th.latch i) 1 = true := by
  rw [List.any_eq_true]
  exact exists_congr fun i => and_congr_left' List.mem_range

theorem outstanding_operandState (srcs : List Reg) (s : State) (uid : Nat) (x y : Bool) :
    outstanding (operandState srcs s) uid x y = outstanding s uid x y := by
  unfold outstanding
  rw [show (operandState srcs s).journal = s.journal from congrArg (·.journal) (machineKept_operandState srcs s)]

theorem inPartition_operandState (srcs : List Reg) (s : State) (part core : Nat) : inPartition (operandState srcs s) part core = inPartition s part core := by
  unfold inPartition getPart
  rw [show (operandState srcs s).parts = s.parts from congrArg (·.parts) (machineKept_operandState srcs s)]

/-- The state in which a thread that has taken a core waits, and what it asks. -/
theorem askGo_settled {u : State} {c : Word} (ht : (cur u).taken = [c]) (hl : (cur u).late = []) (ho : outstanding u (cur u).uid true true = false) :
    askGo u = push (.slotReservationRequest ⟨u.me, (cur u).uid, .go, c.toNat, (cur u).seq, 4, none, (getCore u (coreOf u.me)).pts⟩) (park .slotAsk u) := by
  unfold askGo
  dsimp only
  rw [hl, ho, ht]
  rfl

theorem askGo_unsettled {u : State} (h : (cur u).late ≠ [] ∨ outstanding u (cur u).uid true true = true) : askGo u = park (.fence true true) u := by
  unfold askGo
  refine if_pos ?_
  rcases h with h | h
  · rw [Bool.or_eq_true, Bool.not_eq_true', List.isEmpty_eq_false_iff]
    exact .inl h
  · rw [h, Bool.or_true]

/-- The waiting thread has its request out. -/
theorem askGo_asks {u : State} {c : Word} (ht : (cur u).taken = [c]) (hl : (cur u).late = []) (ho : outstanding u (cur u).uid true true = false) :
    (cur (askGo u)).wait = .slotAsk ∧ (cur (askGo u)).pc = (cur u).pc ∧ (cur (askGo u)).taken = [c] ∧
      ∃ ask, Instr.slotReservationRequest ask ∈ (askGo u).pending ∧ ask.tid = u.me ∧ ask.kind = .go ∧ ask.core = c.toNat := by
  rw [askGo_settled ht hl ho]
  have hcur : ∀ e, cur (push e (park .slotAsk u)) = { cur u with wait := .slotAsk, wcount := if (cur u).wait = .slotAsk then (cur u).wcount else 0 } := by
    intro e
    rw [cur, park, push_me, modTh_eq, setTh_me]
    exact getTh_setTh_self ..
  rw [hcur]
  exact ⟨rfl, rfl, ht, _, List.mem_append_right _ (List.mem_singleton.2 rfl), rfl, rfl, rfl⟩

section

variable {b : Reg} {s : State} (hq : QueuesReady [b] [] s)

include hq

/-- A go at its issue (R335). -/
theorem execGo_cases (hw : ∀ r, (cur s).wait ≠ .slotReply r) (hf : ∀ x y, (cur s).wait ≠ .fence x y) (q : Bool) (d : Reg) : exec (.go q d b) s =
    let c := operand [b] s b
    let s1 := operandState [b] s
    if isHart s.me then .next (retire s 4 q (addLate d (ofI (-1)) s1))
    else if c = w64 (coreOf s.me) then .next (retire s 4 q (addLate d 1 s1))
    else if 1024 ≤ c.toNat ∨ inPartition s (cur s).part c.toNat = false ∨ modeOf (cur s) = 2 ∨ (cur s).vwin = true ∨ loopUsed (cur s) = true
        ∨ ((upTo 4).any fun i => bit (spGet 0 (cur s).latch i) 1) = true ∨ (cur s).hold.isSome = true then
      .next (retire s 4 q (addLate d (ofI (-1)) s1))
    else .next (askGo (setTh s1 s.me { cur s1 with taken := [c] })) := by
  have hcond : ∀ (c : Nat), (1024 ≤ c ∨ inPartition (operandState [b] s) (cur (operandState [b] s)).part c = false ∨ modeOf (cur (operandState [b] s)) = 2
      ∨ (cur (operandState [b] s)).vwin = true ∨ loopUsed (cur (operandState [b] s)) = true
      ∨ ((upTo 4).any fun i => bit (spGet 0 (cur (operandState [b] s)).latch i) 1) = true ∨ (cur (operandState [b] s)).hold.isSome = true) ↔
      (1024 ≤ c ∨ inPartition s (cur s).part c = false ∨ modeOf (cur s) = 2 ∨ (cur s).vwin = true ∨ loopUsed (cur s) = true
        ∨ ((upTo 4).any fun i => bit (spGet 0 (cur s).latch i) 1) = true ∨ (cur s).hold.isSome = true) := by
    intro c
    rw [inPartition_operandState, cur_operandState]
    rfl
  rw [exec_go]
  unfold execGo
  dsimp only
  split
  · next h => exact absurd h (hw _)
  · next h => exact absurd h (hw _)
  · next h => exact absurd h (hf _ _)
  · rw [withRegs_ready hq, ← ofI_neg_one]
    simp only [hcond, ← keepTaken_eq (operandState_me [b] s)]
    rfl

end

theorem execGo_fence {s : State} {x y : Bool} (h : (cur s).wait = .fence x y) (q : Bool) (d b : Reg) : exec (.go q d b) s = .next (askGo s) := by
  rw [exec_go]
  unfold execGo
  dsimp only
  rw [h]

theorem getTh_leaveSlot (t t' : Nat) (s : State) : getTh (leaveSlot t t' s) t = Thread.reset := by
  unfold leaveSlot
  dsimp only
  rw [getTh, push_threads]
  exact getTh_setTh_self ..

theorem execGo_granted {s : State} {n : Nat} {c : Word} (h : (cur s).wait = .slotReply (some n)) (ht : (cur s).taken = [c]) (q : Bool) (d b : Reg) :
    ∃ t p, exec (.go q d b) s = .next t ∧ getTh t s.me = Thread.reset ∧ Instr.parcelArrival p ∈ t.pending ∧
      p.kind = .go ∧ p.core = c.toNat ∧ p.slot = n ∧ p.goReg = some d := by
  rw [exec_go]
  unfold execGo
  dsimp only
  rw [h, ht]
  exact ⟨_, _, rfl, getTh_leaveSlot .., List.mem_append_right _ (List.mem_singleton.2 rfl), rfl, rfl, rfl, rfl⟩

theorem execGo_refused {s : State} (h : (cur s).wait = .slotReply none) (q : Bool) (d b : Reg) :
    exec (.go q d b) s = .next (retire s 4 q (addLate d 0 (setTh s s.me { cur s with taken := [] }))) := by
  rw [exec_go]
  unfold execGo
  split
  · next h' => cases h.symm.trans h'
  · rfl
  · next h' => cases h.symm.trans h'
  · next h' _ => exact absurd h h'

theorem tidOf_me (s : State) : tidOf s s.me = tidBits (slotOf s.me) (coreOf s.me) (if isHart s.me then 0 else (cur s).launch) (cur s).id.toNat := rfl

theorem coreOf_of_slot {t : Nat} (h : isHart t = false) : coreOf t < 1024 := by
  have ht : t < 16384 := Nat.lt_of_not_le (of_decide_eq_false h)
  rw [coreOf, if_pos (by exact ht)]
  omega

theorem eq_w64_iff {c : Word} {n : Nat} (h : n < 1024) : c = w64 n ↔ c.toNat = n := by
  constructor
  · rintro rfl
    exact (BitVec.toNat_ofNat ..).trans (Nat.mod_eq_of_lt (by omega))
  · rintro rfl
    exact (BitVec.eq_of_toNat_eq ((BitVec.toNat_ofNat ..).trans (Nat.mod_eq_of_lt c.isLt))).symm

theorem bits_fifteen_zero (w : Word) : bits w 15 0 = w.toNat % 2 ^ 16 := by
  rw [bits, Nat.pow_zero, Nat.div_one]

/-- A yield's thread stays away for its positions (R336). -/
theorem execYield_yields {b : Reg} {s : State} (hq : QueuesReady [b] [] s) (hm : modeOf (cur s) ≠ 2) (q : Bool) :
    ∃ t, exec (.yield q b) s = .next t ∧ (cur t).wait = .yielding ((operand [b] s b).toNat % 2 ^ 16 + 1) q ∧
      (¬ EndsLoop (cur s) (cur s).pc (nextAddr (cur s).pc 4) → (cur t).pc = nextAddr (cur s).pc 4) := by
  have hmode : modeOf (getTh (operandState [b] s) (operandState [b] s).me) ≠ 2 := by
    show modeOf (cur (operandState [b] s)) ≠ 2
    rw [cur_operandState]
    exact hm
  have hret := getTh_retire (s0 := s) hmode 4 false
  rw [operandState_me, getTh_operandState_me] at hret
  have hrun : (getTh (retire s 4 false (operandState [b] s)) s.me).wait = .run := by
    rw [hret]
    rfl
  have hme : (retire s 4 false (operandState [b] s)).me = s.me := (machineKept_me (machineKept_retire_self hmode 4 false)).trans (operandState_me ..)
  rw [exec_yield, execYield, withRegs_ready hq]
  refine ⟨_, rfl, ?_, fun hl => ?_⟩
  · rw [cur, modTh_eq, setTh_me, hme, getTh_setTh_self, if_pos (.inl hrun)]
    exact congrArg (fun n => Wait.yielding (n + 1) q) (bits_fifteen_zero _)
  · rw [cur, modTh_eq, setTh_me, hme, getTh_setTh_self, if_pos (.inl hrun), hret]
    rw [seqNext_of_not_endsLoop (by rw [← cur, endsLoop_operandState]; exact hl)]
    rfl

theorem execYieldExpiry_over {s : State} {t : Nat} {q : Bool} (h : (getTh s t).wait = .yielding 0 q) :
    exec (.yieldExpiry t) s = .next (setTh s t { getTh s t with wait := if q = true ∧ (getTh s t).late ≠ [] then .marker else .run, wcount := 0 }) := by
  have hc : (q && !(getTh s t).late.isEmpty) = true ↔ q = true ∧ (getTh s t).late ≠ [] := by
    rw [Bool.and_eq_true, Bool.not_eq_true', List.isEmpty_eq_false_iff]
  rw [exec_yieldExpiry]
  unfold execYieldExpiry
  rw [h]
  dsimp only
  rw [if_pos (.inl rfl), modTh_eq]
  simp only [hc]

theorem moveResults : MoveResults := by
  intro q d b s th kept asks
  have hasks : ∀ {u : State} {c : Word}, exec (.go q d b) s = .next (askGo u) → u.me = s.me → (cur u).pc = th.pc → (cur u).taken = [c] → (cur u).late = [] →
      outstanding u (cur u).uid true true = false → asks c := by
    intro u c he hme hpc ht hl ho
    obtain ⟨hwait, hpc', htaken, ask, hin, htid, hkind, hcore⟩ := askGo_asks ht hl ho
    exact ⟨_, ask, he, hwait, hpc'.trans hpc, htaken, hin, htid.trans hme, hkind, hcore⟩
  refine ⟨fun hq hw hf => ?_, fun c x y ht hf hl ho => hasks (execGo_fence hf q d b) rfl rfl ht hl ho, fun c ht => ⟨fun n h => execGo_granted h ht q d b, fun h => execGo_refused h q d b⟩,
    fun hq hm => execYield_yields hq hm q, ?_, fun t q' h => execYieldExpiry_over h⟩
  · intro c s1
    have hcases := execGo_cases hq hw hf q d
    dsimp only at hcases
    refine ⟨fun hh => ?_, fun hh hc hb => ?_, fun hh hc hr => ?_, fun hh hc h1 h2 h3 h4 h5 h6 h7 => ?_⟩
    · exact hcases.trans (if_pos hh)
    · exact hcases.trans ((if_neg (by rw [hh]; decide)).trans (if_pos ((eq_w64_iff hb).2 hc)))
    · exact hcases.trans ((if_neg (by rw [hh]; decide)).trans ((if_neg (mt (eq_w64_iff (coreOf_of_slot hh)).1 hc)).trans (if_pos (by rw [latchHeld_iff, Option.isSome_iff_ne_none]; exact hr))))
    · have hpass : ¬ (1024 ≤ c.toNat ∨ inPartition s th.part c.toNat = false ∨ modeOf th = 2 ∨ th.vwin = true ∨ loopUsed th = true
          ∨ (∃ i, i < 4 ∧ bit (spGet 0 th.latch i) 1 = true) ∨ th.hold ≠ none) := by
        rintro (h | h | h | h | h | ⟨i, hi, h⟩ | h)
        · exact absurd h (Nat.not_le.2 h1)
        · exact Bool.noConfusion (h2.symm.trans h)
        · exact h3 h
        · exact Bool.noConfusion (h4.symm.trans h)
        · exact Bool.noConfusion (h5.symm.trans h)
        · exact Bool.noConfusion ((h6 i hi).symm.trans h)
        · exact h h7
      have hmodel : ¬ (1024 ≤ c.toNat ∨ inPartition s th.part c.toNat = false ∨ modeOf th = 2 ∨ th.vwin = true ∨ loopUsed th = true
          ∨ ((upTo 4).any fun i => bit (spGet 0 th.latch i) 1) = true ∨ th.hold.isSome = true) := by
        rw [latchHeld_iff, Option.isSome_iff_ne_none]
        exact hpass
      have he : exec (.go q d b) s = .next (askGo (setTh s1 s.me { cur s1 with taken := [c] })) := hcases.trans ((if_neg (by rw [hh]; decide)).trans ((if_neg (mt (eq_w64_iff (coreOf_of_slot hh)).1 hc)).trans (if_neg hmodel)))
      have hme : s1.me = s.me := operandState_me ..
      have hcur : cur (setTh s1 s.me { cur s1 with taken := [c] }) = { cur s1 with taken := [c] } := by
        rw [cur, setTh_me, hme, getTh_setTh_self]
      have hs1 : cur s1 = { cur s with x := (cur s1).x } := cur_operandState ..
      have hlate : (cur (setTh s1 s.me { cur s1 with taken := [c] })).late = th.late := by
        rw [hcur]
        exact late_operandState ..
      have hout : outstanding (setTh s1 s.me { cur s1 with taken := [c] }) (cur (setTh s1 s.me { cur s1 with taken := [c] })).uid true true =
          outstanding s th.uid true true := by
        rw [hcur]
        refine (outstanding_operandState [b] s _ true true).trans ?_
        rw [hs1]
      refine ⟨fun hl ho => hasks he hme ?_ ?_ (hlate.trans hl) (hout.trans ho), fun h => ?_⟩
      · rw [hcur]
        exact operandState_pc ..
      · rw [hcur]
      · rw [he, askGo_unsettled (by rw [hlate, hout]; exact h)]
  · rw [exec_tid, execTid, tidOf_me]
    rfl

end Sys2Proof.Machine
end

section
/-! The events of slots and parcels (O34). -/

namespace Sys2Proof.Machine

open Sys2Proof.Claims

/-! ### Requests of slots and their answers -/

theorem slotReservationRequest_free {ask : SlotAsk} {s : State} {n : Nat} (hb : ask.body = none) (hc : slotClaimed (raisePts ask.core ask.pts s) ask.core = false)
    (hh : heldByTravel (raisePts ask.core ask.pts s) ask.core (getTh (raisePts ask.core ask.pts s) ask.tid).launch = false) (hk : ask.kind ≠ .spawn)
    (hf : lowestFree (raisePts ask.core ask.pts s) ask.core = some n) :
    exec (.slotReservationRequest ask) s = .next (push (.slotReservationReply ask (some n))
      (setCore (raisePts ask.core ask.pts s) ask.core
        { getCore (raisePts ask.core ask.pts s) ask.core with granted := (getCore (raisePts ask.core ask.pts s) ask.core).granted ++ [n] })) := by
  have hl : askLaunch (raisePts ask.core ask.pts s) ask = (getTh (raisePts ask.core ask.pts s) ask.tid).launch := by
    rw [askLaunch, hb]
  rw [exec_slotReservationRequest]
  unfold execSlotReservationRequest
  dsimp only
  rw [hl, hc, hh, beq_false_of_ne hk, hf, hb]
  rfl

theorem slotReservationRequest_full {ask : SlotAsk} {s : State} (hf : lowestFree (raisePts ask.core ask.pts s) ask.core = none) :
    exec (.slotReservationRequest ask) s = .next (push (.slotReservationReply ask none) (raisePts ask.core ask.pts s)) := by
  rw [exec_slotReservationRequest]
  unfold execSlotReservationRequest
  dsimp only
  rw [hf, ite_self]

theorem slotReservationRequest_spawn {ask : SlotAsk} {s : State} {n : Nat} {p : Parcel} (hb : ask.body = some p)
    (hc : slotClaimed (raisePts ask.core ask.pts s) ask.core = false) (hh : heldByTravel (raisePts ask.core ask.pts s) ask.core p.launch = false)
    (hf : lowestFree (raisePts ask.core ask.pts s) ask.core = some n)
    (hx : (getLaunch (raisePts ask.core ask.pts s) p.launch).mode = 2 → (getLaunch (raisePts ask.core ask.pts s) p.launch).owed < (getLaunch (raisePts ask.core ask.pts s) p.launch).cap ∧
      (getLaunch (raisePts ask.core ask.pts s) p.launch).ids ≤ (getLaunch (raisePts ask.core ask.pts s) p.launch).maxtid)
    (hw : askWaits (raisePts ask.core ask.pts s) ask = false) :
    exec (.slotReservationRequest ask) s = .next
      (push (.slotReservationReply { ask with body := some { p with slot := n, tid := BitVec.ofNat 32 (getLaunch (raisePts ask.core ask.pts s) p.launch).ids } } (some n))
        (modLaunch (setCore (raisePts ask.core ask.pts s) ask.core
          { getCore (raisePts ask.core ask.pts s) ask.core with granted := (getCore (raisePts ask.core ask.pts s) ask.core).granted ++ [n] })
          p.launch fun x => { x with ids := x.ids + 1, live := x.live + 1 })) := by
  have hl : askLaunch (raisePts ask.core ask.pts s) ask = p.launch := by
    rw [askLaunch, hb]
  have hroom : (ask.kind == .spawn && (getLaunch (raisePts ask.core ask.pts s) p.launch).mode == 2
      && !(decide ((getLaunch (raisePts ask.core ask.pts s) p.launch).owed < (getLaunch (raisePts ask.core ask.pts s) p.launch).cap)
        && decide ((getLaunch (raisePts ask.core ask.pts s) p.launch).ids ≤ (getLaunch (raisePts ask.core ask.pts s) p.launch).maxtid))) = false := by
    by_cases hm : (getLaunch (raisePts ask.core ask.pts s) p.launch).mode = 2
    · rw [decide_eq_true (hx hm).1, decide_eq_true (hx hm).2]
      exact Bool.and_false _
    · rw [beq_false_of_ne hm, Bool.and_false, Bool.false_and]
  rw [exec_slotReservationRequest]
  unfold execSlotReservationRequest
  dsimp only
  rw [hl, hroom, hc, hh, hf, hb]
  dsimp only
  rw [hw]
  rfl

theorem slotReservationReply_waits {ask : SlotAsk} {s : State} {n : Nat} {p : Parcel} (hb : ask.body = some p) (hn : n ≠ 0) (hw : askWaits s ask = true) :
    ∃ t, exec (.slotReservationReply ask (some n)) s = .next t ∧ Instr.parcelArrival p ∈ t.pending ∧
      (getTh t ask.tid).wait = .slotReply (some (tidBits n ask.core p.launch p.tid.toNat).toNat) := by
  obtain ⟨n, rfl⟩ := Nat.exists_eq_succ_of_ne_zero hn
  rw [exec_slotReservationReply]
  unfold execSlotReservationReply
  dsimp only
  rw [hb]
  dsimp only
  rw [hw]
  refine ⟨_, rfl, List.mem_append_right _ (List.mem_singleton.2 rfl), ?_⟩
  rw [modTh_eq, getTh_setTh_self]
  rfl

/-! ### New threads -/

/-- The registers that a list of words fills from x1 on. -/
theorem spGet_regsFrom (xs : List Word) (k : Nat) : spGet 0 (regsFrom xs) k = if 1 ≤ k then xs.getD (k - 1) 0 else 0 := by
  rw [regsFrom, spGet_restored]
  by_cases hk : 1 ≤ k
  · by_cases hn : k ≤ xs.length
    · rw [if_pos ⟨hk, hn⟩, if_pos hk]
    · rw [if_neg (fun h => hn h.2), if_pos hk, List.getD_eq_default _ _ (by omega)]
      rfl
  · rw [if_neg (fun h => hk h.1), if_neg hk]
    rfl

/-- A spawned thread's parcel (R330): its pc and the words in x1 to x4. -/
theorem parcelThread_spawn {p : Parcel} (h : p.kind = .spawn) (s : State) :
    (parcelThread p s).pc = p.pc ∧ (parcelThread p s).uid = s.uids ∧ ∀ n, 1 ≤ n → n ≤ 4 → spGet 0 (parcelThread p s).x n = p.xs.getD (n - 1) 0 := by
  unfold parcelThread
  rw [h]
  refine ⟨rfl, rfl, fun n h1 h4 => ?_⟩
  have hne : n ≠ 15 := by omega
  refine (spGet_spSet_other (0 : Word) (spSet 0 (regsFrom (p.xs.take 4)) 15 dataHandle) hne (p.xs.getD 14 0)).trans
    ((spGet_spSet_other (0 : Word) (regsFrom (p.xs.take 4)) hne dataHandle).trans ?_)
  rw [spGet_regsFrom, if_pos h1, List.getD_eq_getElem?_getD, List.getD_eq_getElem?_getD, List.getElem?_take_of_lt (by omega)]

/-- The slot n of a core as a hart. -/
theorem coreOf_slot {c n : Nat} (hc : c < 1024) (hn : n ≤ 15) : coreOf (16 * c + n) = c ∧ slotOf (16 * c + n) = n := by
  have h : 16 * c + n < hart0 := by
    unfold hart0
    omega
  rw [coreOf, slotOf, if_pos h, if_pos h]
  omega

theorem getTh_occupy (t : Nat) (th : Thread) (s : State) (u : Nat) : getTh (occupy t th s) u = if u = t then th else getTh s u := by
  unfold occupy
  rw [modCore_eq, getTh_setCore]
  exact getTh_setTh ..

theorem granted_occupy (t : Nat) (th : Thread) (s : State) :
    (getCore (occupy t th s) (coreOf t)).granted = (getCore s (coreOf t)).granted.filter (· != slotOf t) := by
  unfold occupy
  rw [modCore_eq, getCore_setCore_self]
  rfl

theorem seatParcel_unheld {p : Parcel} (h : p.hold = none) (n : Nat) (s : State) :
    seatParcel p n s = raisePts p.core p.pts (occupy (16 * p.core + n) (parcelThread p s) s) := by
  unfold seatParcel
  dsimp only
  rw [h]

theorem parcelArrival_seats {p : Parcel} {s : State} (h1 : 1 ≤ p.slot) (h15 : p.slot ≤ 15) (hc : p.core < 1024) (hk : p.kind = .spawn)
    (hu : (getTh s (16 * p.core + p.slot)).uid = 0) (hh : p.hold = none) :
    exec (.parcelArrival p) s = .next (raisePts p.core p.pts (occupy (16 * p.core + p.slot) (parcelThread p s) s)) := by
  have hpass : ¬ (p.kind = .travel ∨ p.slot = 0 ∨ 15 < p.slot ∨ 1024 ≤ p.core ∨ liveTh (getTh s (16 * p.core + p.slot)) = true) := by
    rintro (h | h | h | h | h)
    · exact ParcelKind.noConfusion (hk.symm.trans h)
    · omega
    · omega
    · omega
    · exact bne_iff_ne.1 h hu
  rw [exec_parcelArrival, execParcelArrival, if_neg hpass, seatParcel_unheld hh]

/-- The thread that a launch's placement makes (R139). -/
theorem newThread_freshThread (s : State) (l : Nat) (pc : Word) (xs : List Word) (id : Nat) (pcnt : Sp Word) :
    NewThread s l pc xs id (freshThread s l pc xs (BitVec.ofNat 32 id) pcnt) := by
  refine ⟨rfl, rfl, rfl, rfl, rfl, rfl, fun n h1 h14 => ?_, spGet_spSet_self 0 (regsFrom xs) 15 dataHandle, rfl, rfl, rfl, rfl, rfl, rfl, rfl, rfl⟩
  refine (spGet_spSet_other (0 : Word) (regsFrom xs) (show n ≠ 15 by omega) dataHandle).trans ?_
  rw [spGet_regsFrom, if_pos h1]

theorem execSlotFree_places {core slot l : Nat} {s : State} (hc : core < 1024) (h1 : 1 ≤ slot) (h15 : slot ≤ 15) (hf : freeSlot s core slot = true)
    (hr : (getCore s core).restored = []) (hl : ((getCore s core).launches.find? fun l => pendingHere s core l && servedHere s l) = some l) :
    exec (.slotFree core slot) s = .next (placeNext l (16 * core + slot) s) := by
  rw [exec_slotFree]
  unfold execSlotFree
  dsimp only
  rw [if_neg (by rw [hf]; rintro (h | h | h); exacts [Nat.not_le.2 hc h, Nat.not_lt.2 h15 h, Bool.noConfusion h]), hr]
  dsimp only [List.find?_nil]
  rw [if_neg (by omega), hl]

theorem getLaunch_modLaunch_self (s : State) (l : Nat) (f : Launch → Launch) : getLaunch (modLaunch s l f) l = f (getLaunch s l) := spGet_spSet_self ..

theorem getTh_placeNext (l t : Nat) (s : State) : getTh (placeNext l t s) t =
    freshThread s l (getLaunch s l).entry (getLaunch s l).xs (BitVec.ofNat 32 (getLaunch s l).next) (freshCounters (getCtx s (getLaunch s l).ctx).events) := by
  unfold placeNext seat
  exact (getTh_occupy ..).trans (if_pos rfl)

theorem getLaunch_placeNext (l t : Nat) (s : State) :
    getLaunch (placeNext l t s) l = { getLaunch s l with next := (getLaunch s l).next + 1, live := (getLaunch s l).live + 1 } := getLaunch_modLaunch_self ..

theorem slotEvents : SlotEvents := by
  refine ⟨fun ask s => ?_, fun ask s p n hb hn hw => slotReservationReply_waits hb hn hw, fun p s hk h1 h15 hc hu hh => ?_, fun core slot l s hc h1 h15 hf hr hl _ => ?_⟩
  · intro s1 granted
    exact ⟨fun n hb hc hh hk hf => slotReservationRequest_free hb hc hh hk hf, slotReservationRequest_full,
      fun n p hb _ hc hh hf hx hw => slotReservationRequest_spawn hb hc hh hf hx hw⟩
  · obtain ⟨hpc, huid, hxs⟩ := parcelThread_spawn hk s
    have hth : getTh (raisePts p.core p.pts (occupy (16 * p.core + p.slot) (parcelThread p s) s)) (16 * p.core + p.slot) = parcelThread p s :=
      (getTh_occupy ..).trans (if_pos rfl)
    obtain ⟨hcore, hslot⟩ := coreOf_slot hc h15
    refine ⟨_, parcelArrival_seats h1 h15 hc hk hu hh, ?_, ?_, fun n hn1 hn4 => ?_, ?_, fun u hne => (getTh_occupy ..).trans (if_neg hne)⟩
    · rw [hth, hpc]
    · rw [hth, huid]
    · rw [hth, hxs n hn1 hn4]
    · have hg := granted_occupy (16 * p.core + p.slot) (parcelThread p s) s
      rw [hcore, hslot] at hg
      rw [raisePts, modCore_eq, getCore_setCore_self]
      dsimp only
      rw [hg, List.mem_filter]
      exact fun h => bne_iff_ne.1 h.2 rfl
  · refine ⟨_, execSlotFree_places hc h1 h15 hf hr hl, ?_, ?_, ?_⟩
    · rw [getTh_placeNext]
      exact newThread_freshThread ..
    · rw [getLaunch_placeNext]
    · rw [getLaunch_placeNext]

/-- Settles O34: go takes its core at its issue and leaves in a parcel; slots are asked for, granted and filled as R335 and R139 say. -/
theorem movesAndSlots : Obligations.MovesAndSlots := ⟨moveResults, slotEvents⟩

end Sys2Proof.Machine
end

section
/-! Forwarded words, polls and mapping entries (O30). -/

namespace Sys2Proof.Machine

open Sys2Proof.Claims

theorem wordQueues : WordQueues := by
  refine ⟨fun key s t rest => ?_, fun t s k op a i f due h => ⟨fun hd => ?_, fun hd => ?_⟩⟩
  · intro r hq hh hg
    rw [exec_reservationForward]
    unfold execReservationForward
    dsimp only
    rw [show (spGet Resv.free s.resv key).queue = t :: rest from hq, show (spGet Resv.free s.resv key).holder = none from hh,
      show (spGet Resv.free s.resv key).granted = none from hg]
    rfl
  · rw [exec_waitRetryPoll]
    unfold execWaitRetryPoll
    rw [h]
    dsimp only
    rw [if_pos hd, modTh_eq]
  · rw [exec_waitRetryPoll]
    unfold execWaitRetryPoll
    rw [h]
    dsimp only
    rw [if_neg (Nat.not_le.2 hd)]

/-- The pages of a mapping of at least one page are some. -/
theorem mapPages_ne_nil {s : State} {w : Who} {h : Nat} {e : KeyEntry} {page n : Nat} {ps : List Nat} (hn : n ≠ 0) (hp : mapPages s w h e page n = .ok ps) : ps ≠ [] := by
  obtain ⟨n, rfl⟩ := Nat.exists_eq_succ_of_ne_zero hn
  rintro rfl
  unfold mapPages at hp
  split at hp
  · cases hp
  · split at hp
    · cases hp
    · split at hp
      · cases hp
      · split at hp
        · cases hp
        · split at hp <;> cases hp

/-- An install that succeeds makes the entry of its global address (R224). -/
theorem getMap_mapInstall {w : Who} {k : Nat} {v : Word} {s s' : State} (h : mapInstall w k v s = .ok s') :
    (getMap s' k).gaddr = (getMap s k).gaddr ∧ (getMap s' k).word1 = v &&& 0xC00007FFFFFFFFFF ∧ (getMap s' k).pages ≠ [] := by
  unfold mapInstall at h
  dsimp only at h
  iterate 4 (split at h; · cases h)
  split at h
  · cases h
  · next pages hpages =>
    split at h
    · cases h
    · next hsize =>
      split at h
      · cases h
      · cases h
        have hset : ∀ (m : Sp MapEnt) (ent : MapEnt), spGet MapEnt.reset (spSet MapEnt.reset m k ent) k = ent := fun m ent => spGet_spSet_self ..
        unfold getMap
        rw [hset]
        exact ⟨rfl, rfl, mapPages_ne_nil (fun h0 => hsize (.inl h0)) hpages⟩

theorem getMap_mapRemove (k : Nat) (v : Word) (s : State) :
    getMap (mapRemove k v s) k = ⟨(getMap s k).gaddr, v &&& 0x400007FFFFFFFFFF, [], 1, 0, 0⟩ := spGet_spSet_self ..

theorem bit_removed (v : Word) : bit (v &&& 0x400007FFFFFFFFFF) 63 = false := by
  rw [bit, BitVec.getLsbD_and]
  exact Bool.and_false _

theorem mappingEntries : MappingEntries := by
  intro t table entry v s he k old
  have hk : table * 16 + entry % 16 = k := by rw [Nat.mod_eq_of_lt he]
  have hold : getMap s k = old := rfl
  rw [exec_mapEntryInstall, exec_mapEntryRemove]
  unfold execMapEntryInstall execMapEntryRemove
  dsimp only
  rw [hk, hold]
  refine ⟨fun hv ho s' hi => ⟨?_, getMap_mapInstall hi⟩, fun hv ho r hi => ?_, fun hv ho => ?_, fun hv ho ht => ⟨mapRemove k v s, ?_, ?_⟩⟩
  · rw [hv, ho, hi]
    rfl
  · rw [hv, ho, hi]
    rfl
  · rw [hv, ho]
    rfl
  · rw [hv, ho, decide_eq_true (by unfold hart0; omega)]
    rfl
  · rw [getMap_mapRemove]
    exact ⟨bit_removed v, rfl, rfl⟩

/-- Settles O30: the first of a word's queue is forwarded it, polls come at their interval, and mapping entries are installed and removed as R224 and R225 say. -/
theorem wordsAndMappings : Obligations.WordsAndMappings := ⟨wordQueues, mappingEntries⟩

end Sys2Proof.Machine
end

section
/-! Puts, posted stores and block copies at issue (O25). -/

namespace Sys2Proof.Machine

open Sys2Proof.Claims

/-! ### Journal entries -/

theorem getJ_setJ_self (s : State) (c e : Nat) (j : JEnt) : getJ (setJ s c e j) c e = j := spGet_spSet_self ..

theorem getJ_congr {s t : State} (h : t.journal = s.journal) (c e : Nat) : getJ t c e = getJ s c e := congrArg (fun m => spGet JEnt.free m (c * 32 + e)) h

theorem withPosted_resolves {s0 s : State} {a : Word} {n : Nat} {need : Need} {p : Place} (h : Resolves s a n need p)
    (len opk : Nat) (q : Bool) (addr caddr : Word) (size : Nat) (act : Place → Out) :
    withPosted s0 s len opk q addr caddr size a n need act = act p := by
  obtain ⟨hm, hr⟩ := h
  unfold withPosted
  dsimp only
  rw [hm, hr]

theorem withEntry_free {s0 s : State} {e : Nat} (h : freeEntry s (coreOf s.me) = some e) (act : Nat → State → Out) :
    withEntry s0 s act = act e { s with uids := s.uids + 1 } := by
  unfold withEntry
  rw [h]

theorem withEntry_full {s0 s : State} (h : freeEntry s (coreOf s.me) = none) (act : Nat → State → Out) : withEntry s0 s act = .next (park .journal s0) := by
  unfold withEntry
  rw [h]

theorem sendOff_home {p : Place} (h : peerOf p = none) (s0 : State) (pk : Packet) (dst : Word) (o : Nat) (data : List Byte) (s : State) :
    sendOff s0 pk p dst o data s = push (.putSegmentLand pk dst o data) s := by
  unfold sendOff
  rw [h]

/-! ### Posted stores and block copies -/

/-- A posted store of its form. -/
theorem exec_of_postedStore {i : Instr} {f : StoreForm} (h : postedForm i = some f) :
    ∃ z, StoreSize.bytes z = f.n ∧ ∀ s, exec i s = pstOp f.len f.q f.r f.a z f.disp s := by
  unfold postedForm at h
  split at h
  case h_1 q r a z i =>
    obtain rfl := Option.some.inj h
    exact ⟨z, storeBytes_eq z, fun s => exec_pst ..⟩
  case h_2 q r a z i =>
    obtain rfl := Option.some.inj h
    exact ⟨z, storeBytes_eq z, fun s => exec_pstX ..⟩
  case h_3 => cases h

/-- The entry that a posted store takes. -/
def storeEntry (s : State) (opk : Nat) (a : Word) (n : Nat) : JEnt :=
  { newEntry { s with uids := s.uids + 1 } opk a 0 (captured s a).2 n (captured s a).1 with left := 1 }

theorem postStore_home {s0 s : State} {e : Nat} {p : Place} (hf : freeEntry s (coreOf s.me) = some e) (hp : peerOf p = none)
    (len opk : Nat) (q : Bool) (a : Word) (data : List Byte) :
    postStore s0 s len opk q a data p = .next (retire s0 len q (push (.putSegmentLand (packetOf (coreOf s.me) e (storeEntry s opk a data.length)) a 0 data)
      (setJ { s with uids := s.uids + 1 } (coreOf s.me) e (storeEntry s opk a data.length)))) := by
  unfold postStore
  rw [withEntry_free hf]
  dsimp only
  rw [sendOff_home hp]
  rfl

theorem leList_length (n v : Nat) : (leList n v).length = n := by
  rw [leList_eq_leBytesOf, leBytesOf, List.length_map, List.length_range]

theorem sameBytes_operandState (srcs : List Reg) (s : State) : SameBytes s (operandState srcs s) :=
  fun k => rdByte_congr (machineKept_mem (machineKept_operandState srcs s)) k

/-- The entry that a block copy takes. -/
def copyEntry (s : State) (dst src : Word) (len : Nat) : JEnt :=
  { newEntry { s with uids := s.uids + 1 } 3 dst 0 (captured s dst).2 (min len 4096) (captured s dst).1 with
    src := src, left := len, cnode := (captured s src).1, cgen := (captured s src).2 }

theorem postedIssues : PostedIssues := by
  refine ⟨?_, ?_⟩
  · intro i f hi s ea p hq x s1 core he hr hp
    obtain ⟨z, hz, hexec⟩ := exec_of_postedStore hi
    have hme : s1.me = s.me := operandState_me ..
    have hstep : exec i s = postStore s s1 f.len 2 f.q ea (leList f.n (x f.r).toNat) p := by
      rw [hexec, pstOp, withRegs_ready hq]
      dsimp only
      rw [show xr (cur (operandState [f.a, f.r] s)) f.a = x f.a from rfl, effAddr_of_some he]
      dsimp only
      rw [hz, withPosted_resolves hr]
      rfl
    refine ⟨fun e hf => ?_, fun hf => ?_⟩
    · have hf' : freeEntry s1 (coreOf s1.me) = some e := by
        rw [hme]
        exact hf
      have hdone := hstep.trans (postStore_home hf' hp ..)
      rw [leList_length, leList_eq_leBytesOf, hme] at hdone
      refine ⟨_, hdone, fun k => (rdByte_congr rfl k).trans (sameBytes_operandState [f.a, f.r] s k), ?_⟩
      rw [show ∀ ev u, getJ (push ev u) core e = getJ u core e from fun _ _ => rfl, getJ_setJ_self]
      exact ⟨rfl, rfl, rfl, rfl, List.mem_append_right _ (List.mem_singleton.2 rfl)⟩
    · have hf' : freeEntry s1 (coreOf s1.me) = none := by
        rw [hme]
        exact hf
      exact hstep.trans (withEntry_full hf' _)
  · intro q d a b s p1 p2 hq x s1 core len
    have hme : s1.me = s.me := operandState_me ..
    have hstep : exec (.bcopy q d a b) s = execBcopy q d a b s := exec_bcopy ..
    unfold execBcopy at hstep
    rw [withRegs_ready hq] at hstep
    dsimp only at hstep
    refine ⟨fun h0 => hstep.trans (if_pos h0), fun h => trapsAt_of_exactAt (hstep.trans ((if_neg (Nat.ne_of_gt (Nat.zero_lt_of_lt h))).trans (if_pos h))), fun h0 hle h1 h2 e hf => ?_⟩
    have hf' : freeEntry s1 (coreOf s1.me) = some e := by
      rw [hme]
      exact hf
    have hdone := hstep.trans ((if_neg (show ¬ len = 0 by omega)).trans ((if_neg (Nat.not_lt.2 hle)).trans
      ((withPosted_resolves h1 ..).trans ((withPosted_resolves h2 ..).trans (withEntry_free hf' _)))))
    refine ⟨push (.putSegmentLand (packetOf core e (copyEntry s1 (x d) (x a) len)) (x d) 0 [])
        (setJ { s1 with uids := s1.uids + 1 } core e (copyEntry s1 (x d) (x a) len)), ?_, fun k => (rdByte_congr rfl k).trans (sameBytes_operandState [a, b, d] s k), ?_⟩
    · exact hdone
    · rw [show ∀ ev u, getJ (push ev u) core e = getJ u core e from fun _ _ => rfl, getJ_setJ_self]
      exact ⟨rfl, rfl, rfl, rfl, rfl, List.mem_append_right _ (List.mem_singleton.2 rfl)⟩

/-! ### Puts -/

theorem exec_of_putForm {i : Instr} {f : PutForm} (h : putForm i = some f) : ∀ s, exec i s = putOp f.q f.action f.d f.a f.b s := by
  unfold putForm at h
  split at h
  case h_1 q d a b =>
    obtain rfl := Option.some.inj h
    exact fun s => exec_putAdd ..
  case h_2 q d a b =>
    obtain rfl := Option.some.inj h
    exact fun s => exec_putSet ..
  case h_3 q d a b =>
    obtain rfl := Option.some.inj h
    exact fun s => exec_putFill ..
  case h_4 q a b =>
    obtain rfl := Option.some.inj h
    exact fun s => exec_putNc ..
  case h_5 => cases h

/-- The entry that a put takes. -/
def putEntry (s : State) (action : Nat) (dst ctr value : Word) (n : Nat) : JEnt :=
  { newEntry { s with uids := s.uids + 1 } 0 dst ctr (captured s dst).2 n (captured s dst).1 with
    left := (Claims.segmentsOf (off dst) n).length, action := action, value := value,
    cnode := (if action = 0 then (0, 0) else captured s ctr).1, cgen := (if action = 0 then (0, 0) else captured s ctr).2 }

/-- A put's segments under way from its entry, its source bytes read. -/
def putSent (s : State) (e : Nat) (j : JEnt) (n : Nat) (ps : List Piece) : State :=
  (wordsOf ps).foldl (fun s5 wd => passResv s.me wd s5)
    ((Claims.segmentsOf (off j.addr) n).foldl
      (fun s4 g => push (.putSegmentLand (packetOf (coreOf s.me) e j) j.addr g.1 (((rdPieces s ps).drop g.1).take g.2)) s4)
      (homeLoad (coreOf s.me) ps (setJ { s with uids := s.uids + 1 } (coreOf s.me) e j)))

theorem bits_low (w : Word) (n : Nat) : bits w n 0 = w.toNat % 2 ^ (n + 1) := by rw [bits, Nat.pow_zero, Nat.div_one, Nat.sub_zero]

theorem hdl_own (o : Nat) : hdl (mkAddr 0xFFFF o) = 0xFFFF := by
  have h : 0xFFFF % 65536 * 2 ^ 48 + o % 2 ^ 48 < 2 ^ 64 := by omega
  rw [hdl, mkAddr, w64, BitVec.toNat_ofNat, Nat.mod_eq_of_lt h]
  omega

/-- The source of a put in one local level whose pieces are known (R220, R318). -/
theorem putSource_runs {s : State} {o n : Nat} {sp : List Piece} :
    let src := mkAddr 0xFFFF o
    let w := whoOf s s.me
    let rot := rotOf s w.part w.tenant
    let level := localLevel s w.core rot.1
    level (off src) ≠ 0 → level (off src) ≠ 3 → level (off src + n - 1) = level (off src) →
      localRuns s w.core rot.1 rot.2 (n + 1) (off src) n = .ok sp → putSource s src n = some (.mem sp) := by
  intro src w rot level h0 h3 hend hruns
  have hres : resolve s w src n needRd = .ok (.mem sp) := by
    unfold resolve
    dsimp only
    rw [if_pos (hdl_own o), if_neg (by decide), if_neg (fun h => h3 h.1), show localRuns s w.core _ _ _ _ _ = .ok sp from hruns]
  unfold putSource
  dsimp only
  rw [if_neg (fun h => h.elim h0 (fun h => h hend)), hres]

theorem mem_foldl_push {α : Type} (f : α → Instr) {e : Instr} (l : List α) (s : State) (h : e ∈ s.pending ∨ ∃ a ∈ l, e = f a) :
    e ∈ (l.foldl (fun s a => push (f a) s) s).pending := by
  induction l generalizing s with
  | nil => exact h.elim id fun ⟨a, ha, _⟩ => absurd ha List.not_mem_nil
  | cons b l ih =>
    refine ih _ ?_
    rcases h with h | ⟨a, ha, rfl⟩
    · exact .inl (List.mem_append_left _ h)
    · rcases List.mem_cons.1 ha with rfl | ha
      · exact .inl (List.mem_append_right _ (List.mem_singleton.2 rfl))
      · exact .inr ⟨a, ha, rfl⟩

theorem pending_passResv {e : Instr} {s : State} (h : e ∈ s.pending) (t word : Nat) : e ∈ (passResv t word s).pending := by
  unfold passResv
  dsimp only
  split
  · split
    · exact h
    · exact List.mem_append_left _ h
  · exact h

theorem pending_passAll {e : Instr} {s : State} (h : e ∈ s.pending) (t : Nat) (l : List Nat) : e ∈ (l.foldl (fun s w => passResv t w s) s).pending := by
  induction l generalizing s with
  | nil => exact h
  | cons w l ih => exact ih (pending_passResv h ..)

theorem storeMoved_passResv (t word : Nat) (s : State) : StoreMoved s (passResv t word s) := by
  unfold passResv
  dsimp only
  split
  · split <;> exact ⟨rfl⟩
  · exact .refl s

theorem putSent_moved (s : State) (e : Nat) (j : JEnt) (n : Nat) (ps : List Piece) :
    StoreMoved (setJ { s with uids := s.uids + 1 } (coreOf s.me) e j) (putSent s e j n ps) :=
  ((StoreMoved.of_homeMoved (homeMoved_homeLoad ..)).trans (.foldl (fun _ _ => (StoreMoved.refl _).push _) _ _)).trans
    (.foldl (fun u w => storeMoved_passResv s.me w u) _ _)

theorem putSent_mem (s : State) (e : Nat) (j : JEnt) (n : Nat) (ps : List Piece) : (putSent s e j n ps).mem = s.mem :=
  by
  refine (mem_foldl_passResv ..).trans (Eq.trans ?_ (mem_homeLoad (coreOf s.me) ps (setJ { s with uids := s.uids + 1 } (coreOf s.me) e j)))
  refine mem_foldl ?_ _ _
  exact fun u g => rfl

theorem putSent_segments {s : State} {e : Nat} {j : JEnt} {n : Nat} {ps : List Piece} {g : Nat × Nat} (h : g ∈ Claims.segmentsOf (off j.addr) n) :
    Instr.putSegmentLand (packetOf (coreOf s.me) e j) j.addr g.1 (((rdPieces s ps).drop g.1).take g.2) ∈ (putSent s e j n ps).pending :=
  pending_passAll (mem_foldl_push (fun g : Nat × Nat => Instr.putSegmentLand (packetOf (coreOf s.me) e j) j.addr g.1 (((rdPieces s ps).drop g.1).take g.2)) _ _
    (.inr ⟨g, h, rfl⟩)) ..

/-- What a put does once its addresses have passed: a free entry, and its segments on their way (R317, R318). -/
theorem putIssues : PutIssues := by
  intro i f hi s p sp e hq x s1 dst n src w rot level core
  have hme : s1.me = s.me := operandState_me ..
  have hstep := exec_of_putForm hi s
  unfold putOp at hstep
  rw [show (if f.action = 0 then [f.a, f.b] else [f.a, f.b, f.d, f.d + 1]) = f.srcs from rfl, withRegs_ready hq] at hstep
  dsimp only at hstep
  rw [bits_low] at hstep
  refine ⟨fun ha ⟨pc, hc⟩ hr h8 => trapsAt_of_exactAt ?_, fun hc hr hp h0 h3 hend hruns hresv hbad hf => ?_⟩
  · refine hstep.trans ((withPosted_resolves hr ..).trans ?_)
    rw [if_neg ha, if_neg ha]
    exact (withPosted_resolves hc ..).trans (if_pos h8)
  · have hf' : freeEntry s1 (coreOf s1.me) = some e := by
      rw [hme]
      exact hf
    have hsource : putSource s1 src n = some (.mem sp) := putSource_runs h0 h3 hend hruns
    have hgo : exec i s = .next (retire s 4 f.q (putSent s1 e (putEntry s1 f.action dst (if f.action = 0 then 0 else x f.d) (if f.action = 0 then 0 else x (f.d + 1)) n) n sp)) := by
      refine hstep.trans ((withPosted_resolves hr ..).trans ?_)
      rw [show putSource (operandState f.srcs s) (mkAddr 0xFFFF ((xr (cur (operandState f.srcs s)) f.b).toNat % 2 ^ (31 + 1)))
        (bits (xr (cur (operandState f.srcs s)) f.b) 43 32 + 1) = some (.mem sp) from hsource]
      dsimp only [placePieces]
      rw [← hme, show resvBlocked (operandState f.srcs s) s1.me (wordsOf sp) = none from hresv, withEntry_free hf']
      have hsend : ∀ (j : JEnt) (data : List Byte) (u : State) (l : List (Nat × Nat)),
          l.foldl (fun s4 g => sendOff s1 (packetOf (coreOf s1.me) e j) p j.addr g.1 ((data.drop g.1).take g.2) s4) u =
            l.foldl (fun s4 g => push (.putSegmentLand (packetOf (coreOf s1.me) e j) j.addr g.1 ((data.drop g.1).take g.2)) s4) u :=
        fun j data u l => congrArg (fun f => l.foldl f u) (funext fun _ => funext fun _ => sendOff_home hp ..)
      have hgood : ¬ (badWord s1 sp).isSome = true := by
        rw [hbad]
        decide
      unfold putSent
      rw [← hsend]
      by_cases h0 : f.action = 0
      · exact (if_pos h0).trans ((if_neg hgood).trans rfl)
      · obtain ⟨h8, pc, hpc⟩ := hc h0
        have hctr : (if f.action = 0 then 0 else x f.d) = x f.d := if_neg h0
        refine (if_neg h0).trans ((withPosted_resolves (a := if f.action = 0 then 0 else x f.d) (hctr.symm ▸ hpc) ..).trans ?_)
        exact (if_neg (not_not.2 (hctr.symm ▸ h8))).trans ((if_neg hgood).trans rfl)
    refine ⟨_, hgo, fun k => (rdByte_congr (putSent_mem ..) k).trans (sameBytes_operandState f.srcs s k), ?_⟩
    have hj : getJ (putSent s1 e (putEntry s1 f.action dst (if f.action = 0 then 0 else x f.d) (if f.action = 0 then 0 else x (f.d + 1)) n) n sp) core e =
        putEntry s1 f.action dst (if f.action = 0 then 0 else x f.d) (if f.action = 0 then 0 else x (f.d + 1)) n := by
      rw [getJ_congr (putSent_moved ..).journal, hme]
      exact getJ_setJ_self ..
    rw [hj]
    refine ⟨rfl, rfl, rfl, rfl, ?_, rfl, fun ha => ⟨if_neg ha, if_neg ha⟩, fun g hg => ?_⟩
    · show (cur s1).uid = (cur s).uid
      rw [show cur s1 = { cur s with x := (cur s1).x } from cur_operandState ..]
    · have hin := putSent_segments (s := s1) (e := e) (j := putEntry s1 f.action dst (if f.action = 0 then 0 else x f.d) (if f.action = 0 then 0 else x (f.d + 1)) n) (ps := sp) hg
      rw [hme] at hin
      exact hin

/-- Settles O25: puts, posted stores and block copies take the lowest free entry and set out, or wait for one, as R317 to R320 say. -/
theorem postedOperations : Obligations.PostedOperations := ⟨putIssues, postedIssues⟩

end Sys2Proof.Machine
end

section
/-! Segments, counter actions and answers of posted operations (O26). -/

namespace Sys2Proof.Machine

open Sys2Proof.Claims

/-! ### Segments land -/

theorem lineLen_le (s : State) (node : Nat) (a : Word) (n : Nat) : lineLen s node a n ≤ n := by
  unfold lineLen
  split
  · exact Nat.le_refl n
  · exact Nat.min_le_left ..

theorem postedWrite_memory {w : Who} {node gen : Nat} {a : Word} {data : List Byte} {s : State} {ps : List Piece}
    (h : postedPlace s w node gen a data.length needWr = .ok (.mem ps)) (fe : Nat) :
    postedWrite w node gen a data fe s = .ok (storeFe w.core ps data fe s) := by
  unfold postedWrite
  generalize postedPlace s w node gen a data.length needWr = place at h ⊢
  subst h
  rfl

theorem landPacket_home {p : Packet} {s : State} {dst : Word} (hk : p.opk ≠ 3) (hp : peerVia s p.ctx p.node dst = none) (o : Nat) (data : List Byte) :
    landPacket p dst o data s = landSegment p dst o data s := by
  unfold landPacket
  rw [if_neg hk, hp]

/-- What a landing leaves, by the place of what is left and the write of its first line. -/
def landedAs (p : Packet) (dst : Word) (o : Nat) (data : List Byte) (s : State) (place : Except Nat Place) (write : Except Nat State) : State :=
  match place with
  | .error r => push (.putSegmentAck p data.length (some ⟨r, offWrap dst (Int.ofNat o)⟩)) s
  | .ok _ =>
    match write with
    | .ok s' => push (if lineLen s p.node (offWrap dst (Int.ofNat o)) data.length < data.length
        then .putSegmentLand p dst (o + lineLen s p.node (offWrap dst (Int.ofNat o)) data.length) (data.drop (lineLen s p.node (offWrap dst (Int.ofNat o)) data.length))
        else .putSegmentAck p (segmentBytesTo dst o data) none) s'
    | .error r => push (.putSegmentAck p data.length (some ⟨r, offWrap dst (Int.ofNat o)⟩)) s

theorem landSegment_eq {p : Packet} {dst : Word} {o : Nat} {data : List Byte} {s : State} {place : Except Nat Place} {write : Except Nat State}
    (hp : postedPlace s (packetWho s p) p.node p.gen (offWrap dst (Int.ofNat o)) data.length needWr = place)
    (hw : postedWrite (packetWho s p) p.node p.gen (offWrap dst (Int.ofNat o)) (data.take (lineLen s p.node (offWrap dst (Int.ofNat o)) data.length)) 0 s = write) :
    landSegment p dst o data s = landedAs p dst o data s place write := by
  suffices h : ∀ f, f = landSegment → f p dst o data s = landedAs p dst o data s place write from h _ rfl
  intro f hf
  delta landSegment at hf
  subst hf
  beta_reduce
  extract_lets a n refused
  have hp' : postedPlace s (packetWho s p) p.node p.gen a data.length needWr = place := hp
  have hw' : postedWrite (packetWho s p) p.node p.gen a (data.take n) 0 s = write := hw
  rw [hp', hw']
  cases place
  case error r => rfl
  case ok =>
    cases write
    case error r => rfl
    case ok => rfl

theorem landSegment_memory {p : Packet} {s : State} {dst : Word} {o : Nat} {data : List Byte} {ps : List Piece} {whole : Place}
    (hw : postedPlace s (packetWho s p) p.node p.gen (offWrap dst o) data.length needWr = .ok whole)
    (hl : postedPlace s (packetWho s p) p.node p.gen (offWrap dst o) (lineLen s p.node (offWrap dst o) data.length) needWr = .ok (.mem ps)) :
    landSegment p dst o data s = push
      (if lineLen s p.node (offWrap dst o) data.length < data.length
        then .putSegmentLand p dst (o + lineLen s p.node (offWrap dst o) data.length) (data.drop (lineLen s p.node (offWrap dst o) data.length))
        else .putSegmentAck p (segmentBytesTo dst o data) none)
      (storeFe p.core ps (data.take (lineLen s p.node (offWrap dst o) data.length)) 0 s) := by
  have hwrite := postedWrite_memory (data := data.take (lineLen s p.node (offWrap dst o) data.length)) (by rw [List.length_take, Nat.min_eq_left (lineLen_le ..)]; exact hl) 0
  exact landSegment_eq hw hwrite

theorem landSegment_refused {p : Packet} {s : State} {dst : Word} {o : Nat} {data : List Byte} {r : Nat}
    (h : postedPlace s (packetWho s p) p.node p.gen (offWrap dst o) data.length needWr = .error r) :
    landSegment p dst o data s = push (.putSegmentAck p data.length (some ⟨r, offWrap dst o⟩)) s := by
  exact landSegment_eq h rfl

/-! ### Segments are answered -/

theorem journal_countLanded (uid ctx n : Nat) (s : State) : (countLanded uid ctx n s).journal = s.journal := by
  unfold countLanded
  split
  · unfold modUid
    dsimp only
    split <;> rfl
  · rfl

theorem journal_counted (p : Packet) (n : Nat) (s : State) : (if p.opk = 0 then countLanded p.uid p.ctx n s else s).journal = s.journal := by
  split
  · exact journal_countLanded ..
  · rfl

/-- An acknowledgement of n bytes of a packet, its bytes counted. -/
theorem execPutSegmentAck_acked (p : Packet) (n : Nat) (s : State) : exec (.putSegmentAck p n none) s =
    let c := if p.opk = 0 then countLanded p.uid p.ctx n s else s
    let j := getJ s p.core p.entry
    if entryIs s p.core p.entry p.order = false ∨ j.left = 0 then .next c
    else if p.opk = 3 then .next (copyDone p n c)
    else if 1 < j.left ∨ j.ref = true then .next (setJ c p.core p.entry { j with left := j.left - 1 })
    else if j.opk ≠ 0 ∨ j.action = 0 then .next (push (.postedAck p.core ⟨p.entry, p.order⟩ none) (setJ c p.core p.entry { j with left := j.left - 1 }))
    else .next (push (.putCounterAction p.core ⟨p.entry, p.order⟩) (setJ c p.core p.entry { j with left := j.left - 1 })) := by
  have hc : (if p.opk = 0 ∧ (none : Option Refused) = none then countLanded p.uid p.ctx n s else s) = if p.opk = 0 then countLanded p.uid p.ctx n s else s := by
    simp only [and_true]
  have hj : getJ (if p.opk = 0 then countLanded p.uid p.ctx n s else s) p.core p.entry = getJ s p.core p.entry := getJ_congr (journal_counted ..) ..
  have hown : entryIs (if p.opk = 0 then countLanded p.uid p.ctx n s else s) p.core p.entry p.order = entryIs s p.core p.entry p.order := by
    rw [entryIs, hj, entryIs]
  rw [exec_putSegmentAck]
  unfold execPutSegmentAck
  dsimp only
  rw [hc, hj, hown, getJ_setJ_self]
  simp only [Bool.or_eq_true, Bool.not_eq_true', decide_eq_true_eq, Option.isSome_none, Bool.false_eq_true, if_false]

theorem copyDone_own {p : Packet} (h : p.opk = 3) (n : Nat) (s : State) : copyDone p n (if p.opk = 0 then countLanded p.uid p.ctx n s else s) =
    push (if (getJ s p.core p.entry).done + n < (getJ s p.core p.entry).left then .putSegmentLand p (getJ s p.core p.entry).addr ((getJ s p.core p.entry).done + n) []
      else .postedAck p.core ⟨p.entry, p.order⟩ none) (setJ s p.core p.entry { getJ s p.core p.entry with done := (getJ s p.core p.entry).done + n }) := by
  rw [if_neg (by rw [h]; decide)]
  rfl

/-! ### Entries are acknowledged or refused -/

theorem execPostedAck_own {s : State} {core e order : Nat} (h : entryIs s core e order = true) (r : Option Refused) :
    exec (.postedAck core ⟨e, order⟩ r) s = .next (retireEntry core e r s) := by
  rw [exec_postedAck]
  unfold execPostedAck
  exact congrArg Host.Outcome.next (if_pos h)

theorem entryIs_live {s : State} {core e order : Nat} (h : entryIs s core e order = true) : (getJ s core e).live = true := (Bool.and_eq_true_iff.1 h).1

theorem checkLaunch_open {l : Nat} {s : State} (h : launchEnds s l = false) : checkLaunch l s = s := by
  unfold checkLaunch
  rw [h]
  rfl

section

variable {s : State} {c e order : Nat} (hown : entryIs s c e order = true) (hr : (getJ s c e).ref = false)

include hown hr

theorem retireEntry_open (r : Option Refused) : retireEntry c e r s =
    match r with
    | none => checkLaunch (getJ s c e).launch (setJ s c e JEnt.free)
    | some f =>
      if lives s (getJ s c e).uid then
        checkLaunch (getJ s c e).launch (match hartOf s (getJ s c e).uid with
          | some t => writeRecord t c e (setJ s c e { getJ s c e with ref := true, code := f.code, addr := f.addr, time := gtime s })
          | none => setJ s c e { getJ s c e with ref := true, code := f.code, addr := f.addr, time := gtime s })
      else checkLaunch (getJ s c e).launch (setJ s c e JEnt.free) := by
  unfold retireEntry
  dsimp only
  rw [entryIs_live hown, hr]
  rfl

theorem retireEntry_acked (hl : launchEnds (setJ s c e JEnt.free) (getJ s c e).launch = false) : retireEntry c e none s = setJ s c e JEnt.free := by
  rw [retireEntry_open hown hr]
  exact checkLaunch_open hl

theorem retireEntry_orphan (hlives : lives s (getJ s c e).uid = false) (hl : launchEnds (setJ s c e JEnt.free) (getJ s c e).launch = false) (f : Refused) :
    retireEntry c e (some f) s = setJ s c e JEnt.free := by
  rw [retireEntry_open hown hr]
  dsimp only
  rw [hlives]
  exact checkLaunch_open hl

theorem retireEntry_away (hlives : lives s (getJ s c e).uid = true) (hh : hartOf s (getJ s c e).uid = none) (f : Refused)
    (hl : launchEnds (setJ s c e { getJ s c e with ref := true, code := f.code, addr := f.addr, time := gtime s }) (getJ s c e).launch = false) :
    retireEntry c e (some f) s = setJ s c e { getJ s c e with ref := true, code := f.code, addr := f.addr, time := gtime s } := by
  rw [retireEntry_open hown hr]
  dsimp only
  rw [hlives, hh]
  exact checkLaunch_open hl

/-- A hart that holds a thread lives. -/
theorem retireEntry_here {t : Nat} (hlives : lives s (getJ s c e).uid = true) (hh : hartOf s (getJ s c e).uid = some t) (f : Refused) :
    retireEntry c e (some f) s = checkLaunch (getJ s c e).launch
      (writeRecord t c e (setJ s c e { getJ s c e with ref := true, code := f.code, addr := f.addr, time := gtime s })) := by
  rw [retireEntry_open hown hr]
  dsimp only
  rw [hlives, hh]
  rfl

end

theorem lives_of_hartOf {s : State} {uid t : Nat} (h : hartOf s uid = some t) : lives s uid = true := by
  obtain ⟨e, he, _⟩ := Option.map_eq_some_iff.1 h
  have hp := List.find?_some (p := fun e : Nat × Thread => e.2.uid == uid && uid != 0) he
  have hmem : e ∈ s.threads := List.mem_of_find?_eq_some he
  obtain ⟨hu, h0⟩ := Bool.and_eq_true_iff.1 hp
  have hany : (s.threads.any fun x => x.2.uid == uid) = true := List.any_eq_true.2 ⟨e, hmem, hu⟩
  unfold lives
  dsimp only
  rw [h0, hany]
  rfl

theorem writeRecord_noBase {t : Nat} {s : State} (h : (getTh s t).pjbase = 0) (c e : Nat) : writeRecord t c e s = setJ s c e { getJ s c e with recd := some none } := by
  unfold writeRecord
  exact if_pos h

theorem postedLandings : PostedLandings := by
  intro p s j own
  refine ⟨fun dst o data hk hp => ?_, fun n => ?_, fun ho hr hl => ?_, fun ho hr f => ?_, fun ho hr f => ?_⟩
  · intro a n made
    have hexec : exec (.putSegmentLand p dst o data) s = .next (made (landSegment p dst o data s)) := by
      rw [exec_putSegmentLand, execPutSegmentLand, landPacket_home hk hp]
    refine ⟨fun hq => if_neg fun h => hq h.1, fun ps whole hw hl => ?_, fun r h => ?_⟩
    · rw [hexec, landSegment_memory hw hl]
    · rw [hexec, landSegment_refused h]
  · intro c
    have hack := execPutSegmentAck_acked p n s
    dsimp only at hack
    refine ⟨fun ho => hack.trans (if_pos (.inl ho)), fun ho hk hl => ?_, fun ho hk hl => ?_, fun ho hk hl hr ha => ?_, fun ho hk hl hr ha0 ha => ?_⟩
    · have hlive : ¬ (entryIs s p.core p.entry p.order = false ∨ j.left = 0) := fun h => h.elim (fun h => Bool.noConfusion (ho.symm.trans h)) hl
      exact hack.trans ((if_neg hlive).trans ((if_pos hk).trans (congrArg Host.Outcome.next (copyDone_own hk n s))))
    · have hlive : ¬ (entryIs s p.core p.entry p.order = false ∨ j.left = 0) := fun h => h.elim (fun h => Bool.noConfusion (ho.symm.trans h)) (by omega)
      exact hack.trans ((if_neg hlive).trans ((if_neg hk).trans (if_pos (.inl hl))))
    · have hlive : ¬ (entryIs s p.core p.entry p.order = false ∨ j.left = 0) := fun h => h.elim (fun h => Bool.noConfusion (ho.symm.trans h)) (by omega)
      have hlast : ¬ (1 < j.left ∨ j.ref = true) := by
        rw [hl, hr]
        decide
      refine hack.trans ((if_neg hlive).trans ((if_neg hk).trans ((if_neg hlast).trans ((if_pos ha).trans ?_))))
      rw [show (getJ s p.core p.entry).left = 1 from hl]
    · have hlive : ¬ (entryIs s p.core p.entry p.order = false ∨ j.left = 0) := fun h => h.elim (fun h => Bool.noConfusion (ho.symm.trans h)) (by omega)
      have hlast : ¬ (1 < j.left ∨ j.ref = true) := by
        rw [hl, hr]
        decide
      refine hack.trans ((if_neg hlive).trans ((if_neg hk).trans ((if_neg hlast).trans ((if_neg fun h => h.elim (fun h => h ha0) ha).trans ?_))))
      rw [show (getJ s p.core p.entry).left = 1 from hl]
  · rw [execPostedAck_own ho, retireEntry_acked ho hr hl]
  · intro refused
    refine ⟨fun hlives hl => ?_, fun hlives hh => ?_, fun t hh hb => ?_⟩
    · rw [execPostedAck_own ho, retireEntry_orphan ho hr hlives hl]
    · intro kept hl
      rw [execPostedAck_own ho, retireEntry_away ho hr hlives hh f hl]
    · intro kept hl
      refine ⟨_, (execPostedAck_own ho _).trans (congrArg Host.Outcome.next (retireEntry_here ho hr (lives_of_hartOf hh) hh f)), ?_, fun k => rdByte_congr ?_ k⟩
      · rw [writeRecord_noBase (by exact hb), getJ_congr (EventsAdded.checkLaunch ..).journal, getJ_setJ_self, getJ_setJ_self]
      · rw [mem_checkLaunch, writeRecord_noBase (by exact hb)]
        rfl
  · rw [execPostedAck_own ho]
    unfold retireEntry
    dsimp only
    rw [show (getJ s p.core p.entry).ref = true from hr, Bool.not_true, Bool.and_false]
    rfl

/-! ### Counters -/

theorem toNat_counterValue (action : Nat) (old : Nat) (v : Word) :
    (counterValue action (w64 old) v).toNat = if action = 1 then (old + v.toNat) % 2 ^ 64 else v.toNat := by
  unfold counterValue
  split
  · rw [BitVec.toNat_add, w64, BitVec.toNat_ofNat, Nat.mod_add_mod]
  · rfl

theorem counterAction : CounterAction := by
  intro core e s ps j j1 hk hr ha hp hplace hbad old new
  have hlive : j.live = true := decide_eq_true hk
  have hown : entryIs s core e j.order = true := by
    unfold entryIs
    rw [show (getJ s core e).live = true from hlive]
    exact beq_self_eq_true _
  have hgood : ¬ (j.action = 1 ∧ (badWord s ps).isSome = true) := by
    rintro ⟨h1, hb⟩
    rw [hbad h1] at hb
    exact Bool.noConfusion hb
  rw [exec_putCounterAction]
  unfold execPutCounterAction
  dsimp only
  rw [if_neg (by rw [hown, show (getJ s core e).ref = false from hr]; decide), show peerVia s (getJ s core e).ctx (getJ s core e).cnode (getJ s core e).caddr = none from hp,
    show postedPlace s (packetWho s (packetOf core e (getJ s core e))) (getJ s core e).cnode (getJ s core e).cgen (getJ s core e).caddr 8 needRw = .ok (.mem ps) from hplace]
  refine (if_neg hgood).trans ?_
  rw [toNat_counterValue, leList_eq_leBytesOf, leNum_eq_leValue]

/-- Settles O26: segments land line by line, the last answer acknowledges or acts on the counter, and answers free or keep their entry as R33, R34 and R250 say. -/
theorem postedEvents : Obligations.PostedEvents := ⟨postedLandings, counterAction⟩

end Sys2Proof.Machine
end

section
/-! Barrier objects, arrivals and waits (O28). -/

namespace Sys2Proof.Machine

open Sys2Proof.Claims

/-! ### Words of bytes -/

theorem leNum_lt (bs : List Byte) : leNum bs < 256 ^ bs.length := by
  induction bs with
  | nil => exact Nat.one_pos
  | cons b bs ih =>
    have hb : b.toNat < 256 := b.isLt
    rw [leNum, List.length_cons, Nat.pow_succ]
    omega

theorem leNum_take_lt (bs : List Byte) : leNum (bs.take 8) < 2 ^ 64 :=
  Nat.lt_of_lt_of_le (leNum_lt _) (Nat.le_trans (Nat.pow_le_pow_right (by omega) (List.length_take_le 8 bs)) (by decide))

theorem bits_w64 {n : Nat} (h : n < 2 ^ 64) (hi lo : Nat) : bits (w64 n) hi lo = n / 2 ^ lo % 2 ^ (hi + 1 - lo) := by
  rw [bits, w64, BitVec.toNat_ofNat, Nat.mod_eq_of_lt h]

theorem bit_w64 {n : Nat} (h : n < 2 ^ 64) (i : Nat) : bit (w64 n) i = (n / 2 ^ i % 2 == 1) := by
  rw [bit, BitVec.getLsbD, w64, BitVec.toNat_ofNat, Nat.mod_eq_of_lt h, Nat.testBit_eq_decide_div_mod_eq]
  exact (beq_eq_decide ..).symm

/-! ### The fields of an object -/

theorem ofWords_w64 {m n : Nat} (hm : m < 2 ^ 64) (hn : n < 2 ^ 64) : BarObj.ofWords (w64 m) (w64 n) = barFields m n := by
  unfold BarObj.ofWords barFields
  rw [bits_w64 hn, bit_w64 hm, bit_w64 hm, bits_w64 hm, bits_w64 hm, bits_w64 hm, bits_w64 hm, bits_w64 hm, Nat.pow_zero, Nat.div_one, Nat.div_one]

theorem barAt_eq (s : State) (ps : List Piece) : barAt s ps = barRead s ps := by
  unfold barAt barRead wordAt
  dsimp only
  rw [ofWords_w64 (leNum_take_lt _) (leNum_take_lt _), leNum_eq_leValue, leNum_eq_leValue]
  rfl

theorem barRead_congr {s t : State} (h : t.mem = s.mem) (ps : List Piece) : barRead t ps = barRead s ps := by
  rw [barRead, rdPieces_congr h]
  rfl

/-- The word that bar.init writes (R324). -/
theorem word0_init {n : Nat} (h : n < 2 ^ 12) : (BarObj.word0 ⟨0, true, false, 0, 0, 0, n, 0⟩ 0).toNat = 2 ^ 39 + n * 2 ^ 12 := by
  unfold BarObj.word0
  have h0 : bits 0 63 40 = 0 := by decide
  simp only [h0, if_true, Bool.false_eq_true, if_false, w64, BitVec.toNat_ofNat]
  omega

theorem or_five {m n : Nat} (hm : m < 32) (hn : n < 32) : (BitVec.ofNat 5 m ||| BitVec.ofNat 5 n).toNat = m ||| n := by
  rw [BitVec.toNat_or, BitVec.toNat_ofNat, BitVec.toNat_ofNat, Nat.mod_eq_of_lt hm, Nat.mod_eq_of_lt hn]

/-- An arrival's effect on an object whose flags are five bits (R324). -/
theorem barArrive_eq {o : BarObj} (h : o.curfl < 32) (c : Nat) {fl : Nat} (hf : fl < 32) : barArrive o c fl = Claims.arrived o c fl := by
  unfold barArrive Claims.arrived
  dsimp only
  rw [or_five h hf]
  rfl

theorem barRead_flags (s : State) (ps : List Piece) : (barRead s ps).curfl < 32 ∧ (barRead s ps).lastfl < 32 :=
  ⟨Nat.mod_lt _ (by decide), Nat.mod_lt _ (by decide)⟩

/-- Flags ORed into THST (R193). -/
theorem orFlags_eq (th : Thread) {f : Nat} (h : f < 32) : orFlags th (BitVec.ofNat 5 f) = { th with thst := th.thst ||| ofN (f * 2 ^ 6) } := by
  have he : ((BitVec.ofNat 5 f).setWidth 64) <<< 6 = ofN (f * 2 ^ 6) := by
    apply BitVec.eq_of_toNat_eq
    rw [BitVec.toNat_shiftLeft, BitVec.toNat_setWidth, BitVec.toNat_ofNat, ofN, BitVec.toNat_ofNat, Nat.shiftLeft_eq, Nat.mod_eq_of_lt h, Nat.mod_eq_of_lt (by omega : f < 2 ^ 64)]
  rw [orFlags, he]

/-! ### Reaching an object -/

/-- An access that need not wait or move, to memory that no filter refuses and that reads well. -/
theorem withMemory_passes {s : State} {reads : Bool} {ps : List Piece} (ht : underTest s ps = false)
    (hl : leavesCluster s s.me reads ps = false ∨ hartMoves s s.me = true) (hresv : resvBlocked s s.me (wordsOf ps) = none)
    (href : refusedPiece s (cur s).part ps = none) (hbad : badWord s ps = none) (s0 : State) (len : Nat) (q : Bool) (a : Word) (act : State → Out) :
    withMemory s0 s len q a false reads ps act = act (atTurn ps s) := by
  have hl' : (leavesCluster s s.me reads ps && !hartMoves s s.me) = false := by
    rcases hl with hl | hm
    · rw [hl]
      rfl
    · rw [hm]
      exact Bool.and_false _
  unfold withMemory
  rw [ht, hl', hresv, href, hbad]
  simp only [Bool.or_self, Bool.false_eq_true, if_false, Option.isSome_none, Bool.and_false]
  rw [passAll_me s.me _ (modTh s s.me fun th => { th with stay := false }) rfl]
  rfl

theorem withBar_reaches {s1 : State} {x : Word} {ps : List Piece} (h : ReachesBarrier s1 x ps) (s0 : State) (q : Bool) (act : List Piece → State → Out) :
    withBar s0 s1 q x act = act ps (atTurn ps s1) := by
  obtain ⟨ha, hh, hlv, hruns, ht, hl, hresv, href, hbad⟩ := h
  unfold withBar
  rw [if_neg (not_not.2 ha)]
  dsimp only
  rw [if_neg (not_not.2 hh), if_neg (by omega), if_neg (by omega), hruns]
  exact withMemory_passes ht hl hresv href hbad ..

/-! ### A core's time is no part of what an arrival reads -/

/-- Two states agree but for their cores, and in those for the inbound queues. -/
structure SameButCores (s t : State) : Prop where
  eq : t = { s with cores := t.cores }
  inq : ∀ c, (getCore t c).inq = (getCore s c).inq

namespace SameButCores

theorem catchUp (core : Nat) (s : State) : SameButCores s (catchUp core s) where
  eq := rfl
  inq c := by
    rw [Machine.catchUp, modCore_eq]
    by_cases h : c = core
    · subst h
      rw [getCore_setCore_self]
    · rw [getCore_setCore_other _ h]

theorem deq {s t : State} (h : SameButCores s t) (u : Nat) (r : Reg) : SameButCores (deq u s r) (deq u t r) := by
  obtain ⟨he, hi⟩ := h
  have hq : Machine.inq t u r = Machine.inq s u r := by rw [Machine.inq, hi]; rfl
  unfold Machine.deq
  rw [hq]
  split
  · exact ⟨he, hi⟩
  · rw [modCore_eq, modCore_eq, modTh_eq, modTh_eq]
    have hth : getTh (setCore t (coreOf u) { getCore t (coreOf u) with inq := spSet [] (getCore t (coreOf u)).inq (r.toNat - 8) ‹_› }) u = getTh s u := by
      rw [he]
      rfl
    refine ⟨?_, fun c => ?_⟩
    · rw [hth, he]
      rfl
    · show (getCore (setCore t _ _) c).inq = (getCore (setCore s _ _) c).inq
      by_cases hc : c = coreOf u
      · subst hc
        rw [getCore_setCore_self, getCore_setCore_self, hi]
      · rw [getCore_setCore_other _ hc, getCore_setCore_other _ hc, hi]

theorem foldl_deq (u : Nat) (rs : List Reg) : ∀ {s t : State}, SameButCores s t → SameButCores (rs.foldl (Machine.deq u) s) (rs.foldl (Machine.deq u) t) := by
  induction rs with
  | nil => exact fun h => h
  | cons r rs ih => exact fun h => ih (h.deq u r)

theorem me {s t : State} (h : SameButCores s t) : t.me = s.me := congrArg (·.me) h.eq

theorem mem {s t : State} (h : SameButCores s t) : t.mem = s.mem := congrArg (·.mem) h.eq

theorem cur {s t : State} (h : SameButCores s t) : Machine.cur t = Machine.cur s := by
  rw [h.eq]
  rfl

theorem operandState {s t : State} (h : SameButCores s t) (srcs : List Reg) : SameButCores (operandState srcs s) (operandState srcs t) := by
  rw [Machine.operandState, Machine.operandState, h.me]
  exact foldl_deq s.me (qsources s.me srcs) h

theorem operand {s t : State} (h : SameButCores s t) (srcs : List Reg) (r : Reg) : operand srcs t r = operand srcs s r := by
  rw [Machine.operand, (h.operandState srcs).cur]
  rfl

end SameButCores

theorem queuesReady_catchUp {srcs dst : List Reg} {s : State} (h : QueuesReady srcs dst s) (core : Nat) : QueuesReady srcs dst (catchUp core s) := by
  have hin : ∀ r, inq (catchUp core s) s.me r = inq s s.me r := fun r => by rw [inq, (SameButCores.catchUp core s).inq]; rfl
  have hout : ∀ r, outq (catchUp core s) s.me r = outq s s.me r := fun r => by
    rw [outq, catchUp, modCore_eq]
    by_cases h : coreOf s.me = core
    · rw [h, getCore_setCore_self, outq, h]
    · rw [getCore_setCore_other _ h]
      rfl
  unfold QueuesReady qblock at h ⊢
  rw [show (catchUp core s).me = s.me from rfl]
  simp only [hin, hout]
  exact h

theorem localRuns_kinds {s : State} {core rn ri : Nat} : ∀ {fuel o n : Nat} {ps : List Piece}, localRuns s core rn ri fuel o n = .ok ps → ∀ p ∈ ps, p.kind = 3 := by
  intro fuel
  induction fuel with
  | zero =>
    intro o n ps h p hp
    cases h
    cases hp
  | succ fuel ih =>
    intro o n ps h p hp
    cases n with
    | zero =>
      cases h
      cases hp
    | succ n =>
      rw [localRuns.eq_3 _ _ _ _ _ _ _ (Nat.succ_ne_zero n)] at h
      split at h
      · cases h
      · split at h
        · next hr =>
          cases h
          rcases List.mem_cons.1 hp with rfl | hp
          · rfl
          · exact ih hr p hp
        · cases h

theorem leavesCluster_own {s t : State} (u : Nat) (reads : Bool) {ps : List Piece} (h : ∀ p ∈ ps, p.kind = 3) : leavesCluster t u reads ps = leavesCluster s u reads ps := by
  unfold leavesCluster
  rw [Bool.eq_iff_iff, List.any_eq_true, List.any_eq_true]
  refine exists_congr fun p => and_congr_right fun hp => ?_
  rw [h p hp, show (3 == 2) = false from rfl, Bool.and_false, Bool.false_and, Bool.false_and]
  rfl

theorem localRuns_cores (s : State) (cs : Sp CoreSt) (core rn ri : Nat) : ∀ fuel o n, localRuns { s with cores := cs } core rn ri fuel o n = localRuns s core rn ri fuel o n := by
  intro fuel
  induction fuel with
  | zero => exact fun _ _ => rfl
  | succ fuel ih =>
    intro o n
    cases n with
    | zero => rfl
    | succ n =>
      rw [localRuns.eq_3 _ _ _ _ _ _ _ (Nat.succ_ne_zero n), localRuns.eq_3 _ _ _ _ _ _ _ (Nat.succ_ne_zero n), show localAt { s with cores := cs } core rn ri o = localAt s core rn ri o from rfl]
      simp only [ih]

theorem ReachesBarrier.cores {s : State} {x : Word} {ps : List Piece} (h : ReachesBarrier s x ps) (cs : Sp CoreSt) : ReachesBarrier { s with cores := cs } x ps := by
  obtain ⟨ha, hh, hlv, hruns, ht, hl, hresv, href, hbad⟩ := h
  refine ⟨ha, hh, hlv, ?_, ht, ?_, hresv, href, hbad⟩
  · exact (localRuns_cores ..).trans hruns
  · rw [leavesCluster_own (s := s) _ _ (localRuns_kinds hruns)]
    exact hl

end Sys2Proof.Machine
end

section
/-! Arrivals at barrier objects and their waits (O28). -/

namespace Sys2Proof.Machine

open Sys2Proof.Claims

theorem queuesReady_sources {srcs dst : List Reg} {s : State} (h : QueuesReady srcs dst s) : QueuesReady srcs [] s := by
  unfold QueuesReady qblock at h ⊢
  split at h
  · cases h
  · rfl

theorem mem_atTurn_operandState (ps : List Piece) (srcs : List Reg) (s : State) : (atTurn ps (operandState srcs s)).mem = s.mem :=
  (atTurn_mem ..).trans (mem_operandState ..)

theorem thst_atTurn (ps : List Piece) (srcs : List Reg) (s : State) : (cur (atTurn ps (operandState srcs s))).thst = (cur s).thst := by
  have h := getTh_atTurn ps (operandState srcs s)
  rw [cur, atTurn_me, h, operandState_me, getTh_operandState_me, cur_operandState]

theorem barAt_reached (a b : Reg) (s : State) (ps : List Piece) : barAt (atTurn ps (operandState [a, b] s)) ps = barRead s ps :=
  (barAt_eq ..).trans (barRead_congr (mem_atTurn_operandState ..) ps)

theorem barPut_me (core : Nat) (ps : List Piece) (o : BarObj) (s : State) : (barPut core ps o s).me = s.me := (StoreMoved.storePieces ..).me

section

variable {a b : Reg} {s : State} {ps : List Piece} (hq : QueuesReady [a, b] [] s) (hr : ReachesBarrier (operandState [a, b] s) (operand [a, b] s a) ps)

include hq hr

/-- bar.init at an object it reaches (R324). -/
theorem execBarInit_reaches (q : Bool) : exec (.barInit q a b) s =
    let o := barRead s ps
    let c := (operand [a, b] s b).toNat % 2 ^ 12
    if c = 0 ∨ (o.valid = true ∧ o.waiters ≠ 0) then exactAt 4 ⟨5, 0, operand [a, b] s a⟩ s
    else .next (retire s 4 q (storePieces (coreOf s.me) ps (leBytesOf 8 (2 ^ 39 + c * 2 ^ 12) ++ leBytesOf 8 0) (atTurn ps (operandState [a, b] s)))) := by
  have hc : (operand [a, b] s b).toNat % 2 ^ 12 < 2 ^ 12 := Nat.mod_lt _ (by decide)
  rw [exec_barInit, execBarInit, withRegs_ready hq]
  dsimp only
  rw [show ∀ w, bits w 11 0 = w.toNat % 2 ^ 12 from fun w => bits_low w 11, show xr (cur (operandState [a, b] s)) a = operand [a, b] s a from rfl, show xr (cur (operandState [a, b] s)) b = operand [a, b] s b from rfl,
    withBar_reaches hr, barAt_reached, word0_init hc, leList_eq_leBytesOf, leList_eq_leBytesOf]
  rfl

theorem execBarWait_reaches (q : Bool) (d : Reg) : exec (.barWait q d a b) s =
    let o := barRead s ps
    let phase := (operand [a, b] s b).toNat % 2 ^ 4
    let left := (operand [a, b] s b).toNat / 2 ^ 32
    let s2 := atTurn ps (operandState [a, b] s)
    if o.valid = false then exactAt 4 ⟨5, 0, operand [a, b] s a⟩ s
    else if o.phase ≠ phase then .next (retire s 4 q (addLate d (ofN (o.lastfl + 2 ^ 8 * o.phase))
      (modTh (catchUp (coreOf s.me) s2) s.me fun th => { th with thst := th.thst ||| ofN (o.lastfl * 2 ^ 6) })))
    else if left = 0 then .next (retire s 4 q (addLate d (ofN (2 ^ 63 + 2 ^ 8 * o.phase)) s2))
    else unlessFault s 4 (.next (park (.barrier ((ps.headD ⟨0, 0, 0, 0, 0⟩).key) (operand [a, b] s a) phase left d q)
      (barPut (coreOf s.me) ps { o with waiters := o.waiters + 1 } s2))) := by
  have hme : (atTurn ps (operandState [a, b] s)).me = s.me := (atTurn_me ..).trans (operandState_me ..)
  have hleft : bits (operand [a, b] s b) 63 32 = (operand [a, b] s b).toNat / 2 ^ 32 := Nat.mod_eq_of_lt (by have := (operand [a, b] s b).isLt; omega)
  have horf : ∀ th, orFlags th (BitVec.ofNat 5 (barRead s ps).lastfl) =
      { th with thst := th.thst ||| ofN ((barRead s ps).lastfl * 2 ^ 6) } := fun th => orFlags_eq th (barRead_flags ..).2
  rw [exec_barWait, execBarWait, withRegs_ready hq]
  dsimp only
  rw [bits_low, show xr (cur (operandState [a, b] s)) a = operand [a, b] s a from rfl, show xr (cur (operandState [a, b] s)) b = operand [a, b] s b from rfl, hleft,
    withBar_reaches hr, barAt_reached, hme]
  unfold barEnd
  simp only [horf, hme]
  rfl

end

theorem barArrOp_reaches {a b d : Reg} {s : State} {ps : List Piece} (hd : QueuesReady [a, b] [d] s)
    (hr : ReachesBarrier (operandState [a, b] s) (operand [a, b] s a) ps) (q : Bool) : barArrOp q d a b s =
    let o := barRead s ps
    let c := (operand [a, b] s b).toNat % 2 ^ 12
    if o.valid = false ∨ c = 0 then exactAt 4 ⟨5, 0, operand [a, b] s a⟩ s
    else if o.expect < o.arrived + c then unlessFault s 4 (exact ⟨5, 0, operand [a, b] s a⟩ (barPut (coreOf s.me) ps { o with overrun := true } s))
    else .next (retire s 4 q (wr s.me d (Claims.arrived o c (thFlags (cur s))).2
      (barPut (coreOf s.me) ps (Claims.arrived o c (thFlags (cur s))).1 (atTurn ps (operandState [a, b] s))))) := by
  have hme : (atTurn ps (operandState [a, b] s)).me = s.me := (atTurn_me ..).trans (operandState_me ..)
  have hfl : bits (cur (atTurn ps (operandState [a, b] s))).thst 10 6 = thFlags (cur s) := by rw [thst_atTurn]; rfl
  have h32 : thFlags (cur s) < 32 := Nat.mod_lt _ (by decide)
  have harr := barArrive_eq (barRead_flags s ps).1 ((operand [a, b] s b).toNat % 2 ^ 12) h32
  rw [barArrOp, withRegs_ready hd]
  dsimp only
  rw [show bits (xr (cur (operandState [a, b] s)) b) 11 0 = (operand [a, b] s b).toNat % 2 ^ 12 from bits_low .., show xr (cur (operandState [a, b] s)) a = operand [a, b] s a from rfl,
    withBar_reaches hr, barAt_reached, hfl, harr]
  unfold result
  rw [barPut_me, hme]
  rfl

/-- An arrival that does not overrun (R324). -/
theorem barArrOp_arrives {a b d : Reg} {s : State} {ps : List Piece} (hd : QueuesReady [a, b] [d] s)
    (hr : ReachesBarrier (operandState [a, b] s) (operand [a, b] s a) ps) (hv : (barRead s ps).valid = true)
    (hc : (operand [a, b] s b).toNat % 2 ^ 12 ≠ 0)
    (hle : (barRead s ps).arrived + (operand [a, b] s b).toNat % 2 ^ 12 ≤ (barRead s ps).expect) (q : Bool) :
    barArrOp q d a b s = .next (retire s 4 q
      (wr s.me d (Claims.arrived (barRead s ps) ((operand [a, b] s b).toNat % 2 ^ 12) (thFlags (cur s))).2
        (barPut (coreOf s.me) ps (Claims.arrived (barRead s ps) ((operand [a, b] s b).toNat % 2 ^ 12) (thFlags (cur s))).1
          (atTurn ps (operandState [a, b] s))))) := by
  have hvalid : ¬ ((barRead s ps).valid = false ∨ (operand [a, b] s b).toNat % 2 ^ 12 = 0) :=
    fun h => h.elim (fun h => Bool.noConfusion (hv.symm.trans h)) hc
  exact (barArrOp_reaches hd hr q).trans ((if_neg hvalid).trans (if_neg (Nat.not_lt.2 hle)))

theorem barrierArrivals : BarrierArrivals := by
  intro q d a b s ps hq x c s1 hr o
  have hq' := queuesReady_sources hq
  have hinit := execBarInit_reaches hq' hr q
  have harr := barArrOp_reaches hq hr q
  dsimp only at hinit harr
  have hexec : exec (.barArr q d a b) s = barArrOp q d a b s := exec_barArr ..
  have hfexec := exec_barArrf q d a b s
  unfold execBarArrf at hfexec
  refine ⟨fun hc hw => ?_, fun h => ?_, fun hv hc hle i u hi => ?_, fun ho hs => ?_, fun h => ?_, fun hv hc ho hs => ?_⟩
  · exact hinit.trans (if_neg fun h => h.elim hc hw)
  · exact trapsAt_of_exactAt (hinit.trans (if_pos h))
  · rcases hi with ⟨rfl, rfl⟩ | ⟨rfl, ho, rfl⟩
    · exact hexec.trans (barArrOp_arrives hq hr hv hc hle q)
    · have hsame := SameButCores.catchUp (coreOf s.me) s
      have hop := hsame.operandState [a, b]
      have hx : ∀ r, operand [a, b] (catchUp (coreOf s.me) s) r = operand [a, b] s r := hsame.operand [a, b]
      have hbar : barRead (catchUp (coreOf s.me) s) ps = o := barRead_congr hsame.mem ps
      have hr' : ReachesBarrier (operandState [a, b] (catchUp (coreOf s.me) s)) (operand [a, b] (catchUp (coreOf s.me) s) a) ps := by
        rw [hx, hop.eq]
        exact ReachesBarrier.cores hr _
      have hdone := barArrOp_arrives (queuesReady_catchUp hq (coreOf s.me)) hr' (by rw [hbar]; exact hv) (by rw [hx]; exact hc) (by rw [hbar, hx]; exact hle) q
      rw [hbar, hx, hsame.cur] at hdone
      rw [ho] at hfexec
      exact hfexec.trans hdone
  · rw [hfexec, ho, if_pos rfl, unlessFault, hs]
  · exact trapsAt_of_exactAt (hexec.trans (harr.trans (if_pos h)))
  · intro marked
    have hvalid : ¬ (o.valid = false ∨ c = 0) := fun h => h.elim (fun h => Bool.noConfusion (hv.symm.trans h)) hc
    refine hexec.trans (harr.trans ((if_neg hvalid).trans ((if_pos ho).trans ?_)))
    rw [unlessFault, hs]
    show Host.Outcome.next (enterTrap marked.me _ false 0 false (cur marked).pc marked) = _
    rw [show marked.me = s.me from barPut_me ..]

/-! ### Parked waits -/

theorem rdRun_add (s : State) (m n : Nat) : ∀ key, rdRun s key (m + n) = rdRun s key m ++ rdRun s (key + m) n := by
  induction m with
  | zero =>
    intro key
    rw [Nat.zero_add]
    rfl
  | succ m ih =>
    intro key
    rw [Nat.add_right_comm, rdRun, ih, rdRun, Nat.add_right_comm key 1 m]
    rfl

theorem rdRun_length (s : State) (n : Nat) : ∀ key, (rdRun s key n).length = n := by
  induction n with
  | zero => exact fun _ => rfl
  | succ n ih => exact fun key => congrArg (· + 1) (ih (key + 1))

/-- An object of 16 bytes at one key, by its two words. -/
theorem barRead_key (s : State) (key : Nat) : barRead s [⟨key, 16, 3, 0, 0⟩] = barFields (leNum (rdRun s key 8)) (leNum (rdRun s (key + 8) 8)) := by
  have hbytes : rdPieces s [⟨key, 16, 3, 0, 0⟩] = rdRun s key 8 ++ rdRun s (key + 8) 8 := (List.append_nil _).trans (rdRun_add s 8 8 key)
  rw [barRead, hbytes, List.take_left' (rdRun_length ..), List.drop_left' (rdRun_length ..), List.take_of_length_le (Nat.le_of_eq (rdRun_length ..)),
    leNum_eq_leValue, leNum_eq_leValue]

theorem leNum_rdRun_lt (s : State) (key : Nat) : leNum (rdRun s key 8) < 2 ^ 64 := by
  have h := leNum_lt (rdRun s key 8)
  rw [rdRun_length] at h
  exact h

/-- A barrier object at its key. -/
theorem barKey_eq (s : State) (key : Nat) : barKey s key = barRead s [⟨key, 16, 3, 0, 0⟩] := by
  rw [barRead_key, ← ofWords_w64 (leNum_rdRun_lt ..) (leNum_rdRun_lt ..)]
  rfl

theorem leNum_leList (n : Nat) : ∀ v, v < 256 ^ n → leNum (leList n v) = v := by
  induction n with
  | zero =>
    intro v h
    rw [Nat.pow_zero] at h
    exact (Nat.lt_one_iff.1 h).symm
  | succ n ih =>
    intro v h
    rw [leList, leNum, ih (v / 256) (by rw [Nat.pow_succ] at h; omega), BitVec.toNat_ofNat]
    omega

/-- The second word with one waiter fewer. -/
theorem word1_waiters {o : BarObj} (h : o.waiters < 2 ^ 16) (old : Word) : (BarObj.word1 { o with waiters := o.waiters - 1 } old).toNat % 2 ^ 16 = o.waiters - 1 := by
  unfold BarObj.word1
  rw [w64, BitVec.toNat_ofNat]
  dsimp only
  omega

theorem barRead_lessWaiter (key : Nat) (s : State) : barRead (lessWaiter key s) [⟨key, 16, 3, 0, 0⟩] =
    { barRead s [⟨key, 16, 3, 0, 0⟩] with waiters := (barRead s [⟨key, 16, 3, 0, 0⟩]).waiters - 1 } := by
  have hw : (barRead s [⟨key, 16, 3, 0, 0⟩]).waiters < 2 ^ 16 := Nat.mod_lt _ (by decide)
  have hread : ∀ v : Word, rdRun (wrRun s (key + 8) (leList 8 v.toNat)) (key + 8) 8 = leList 8 v.toNat := fun v => by
    have h := rdRun_wrRun_self (leList 8 v.toNat) s (key + 8)
    rwa [leList_length] at h
  have hlow : ∀ v : Word, rdRun (wrRun s (key + 8) (leList 8 v.toNat)) key 8 = rdRun s key 8 := fun v =>
    rdRun_congr _ _ 8 key fun k _ hk => rdByte_wrRun_outside _ s (key + 8) k (.inl hk)
  unfold lessWaiter
  rw [barRead_congr (mem_hitLatches ..), barKey_eq, wrWord, barRead_key, hlow, hread, leNum_leList 8 _ (BitVec.isLt _)]
  unfold barFields
  rw [word1_waiters hw, barRead_key]
  rfl

theorem releaseWaiter_eq {t key : Nat} {x : Word} {p left : Nat} {d : Reg} {q : Bool} {s : State} (h : (getTh s t).wait = .barrier key x p left d q) :
    releaseWaiter s t =
      let o := barRead s [⟨key, 16, 3, 0, 0⟩]
      if o.phase = p then s
      else asHart t (fun u => retire u 4 q (addLate d (ofN (o.lastfl + 2 ^ 8 * o.phase))
        (modTh u t fun th => { th with thst := th.thst ||| ofN (o.lastfl * 2 ^ 6) }))) (catchUp (coreOf t) (lessWaiter key s)) := by
  have horf : ∀ th, orFlags th (BitVec.ofNat 5 (barRead s [⟨key, 16, 3, 0, 0⟩]).lastfl) =
      { th with thst := th.thst ||| ofN ((barRead s [⟨key, 16, 3, 0, 0⟩]).lastfl * 2 ^ 6) } := fun th => orFlags_eq th (barRead_flags ..).2
  unfold releaseWaiter
  rw [h]
  dsimp only
  rw [barKey_eq]
  simp only [horf]
  rfl

theorem asHart_congr {t : Nat} {f g : State → State} {s : State} (h : f { s with me := t } = g { s with me := t }) : asHart t f s = asHart t g s := by
  unfold asHart
  rw [h]

theorem execBarrierWaitTimeout_eq {t key : Nat} {x : Word} {p left : Nat} {d : Reg} {q : Bool} {s : State} (h : (getTh s t).wait = .barrier key x p left d q) :
    exec (.barrierWaitTimeout t) s =
      if left ≠ 0 then .next s
      else if (barRead s [⟨key, 16, 3, 0, 0⟩]).phase ≠ p then .next (releaseWaiter s t)
      else .next (asHart t (fun u => retire u 4 q (addLate d (ofN (2 ^ 63 + 2 ^ 8 * p)) (lessWaiter key u))) s) := by
  have hleave : leaveBarrier t { s with me := t } = lessWaiter key { s with me := t } := by
    unfold leaveBarrier
    rw [show getTh { s with me := t } t = getTh s t from rfl, h]
  rw [exec_barrierWaitTimeout]
  unfold execBarrierWaitTimeout
  rw [h]
  dsimp only
  rw [barKey_eq]
  rw [asHart_congr (f := fun u => retire u 4 q (addLate d (w64 (2 ^ 63 + 256 * p)) (leaveBarrier t u)))
    (g := fun u => retire u 4 q (addLate d (ofN (2 ^ 63 + 2 ^ 8 * p)) (lessWaiter key u)))
    (by rw [hleave]; rfl)]

theorem barrierWaits : BarrierWaits := by
  refine ⟨?_, ?_⟩
  · intro q d a b s ps hq x phase left s1 hr o s2 hv
    have hwait := execBarWait_reaches hq hr q d
    dsimp only at hwait
    replace hwait := hwait.trans (if_neg (show ¬ o.valid = false from fun h => Bool.noConfusion (hv.symm.trans h)))
    refine ⟨fun hp => hwait.trans (if_pos hp), fun hp hl => hwait.trans ((if_neg (not_not.2 hp)).trans (if_pos hl)), fun hp hl hs => ⟨(ps.headD ⟨0, 0, 0, 0, 0⟩).key, ?_⟩⟩
    refine hwait.trans ((if_neg (not_not.2 hp)).trans ((if_neg hl).trans ?_))
    rw [unlessFault, hs]
  · intro t key x p left d q s h o
    have hrel := releaseWaiter_eq h
    have htime := execBarrierWaitTimeout_eq h
    exact ⟨barRead_lessWaiter key s, fun hp => hrel.trans (if_pos hp), fun hp => hrel.trans (if_neg hp),
      fun hl hp => htime.trans ((if_neg (not_not.2 hl)).trans (if_pos hp)), fun hl hp => htime.trans ((if_neg (not_not.2 hl)).trans (if_neg (not_not.2 hp))),
      fun hl => htime.trans (if_pos hl)⟩

/-- Settles O28: barrier objects are made, arrived at, waited for and left as R323 and R324 say. -/
theorem barrierResults : Obligations.BarrierResults := ⟨barrierArrivals, barrierWaits⟩

end Sys2Proof.Machine
end

section
/-! Latches, and the times of C lines (O29). -/

namespace Sys2Proof.Machine

open Sys2Proof.Claims

/-! ### Lines at their home -/

theorem lineTimes_congr {s t : State} {line : Nat} (hl : t.lines = s.lines) (hs : lineSlice t line = lineSlice s line)
    (hw : (spGet Slice.reset t.slices (lineSlice s line)).mwts = (spGet Slice.reset s.slices (lineSlice s line)).mwts)
    (hr : (spGet Slice.reset t.slices (lineSlice s line)).mrts = (spGet Slice.reset s.slices (lineSlice s line)).mrts) : lineTimes t line = lineTimes s line := by
  unfold lineTimes
  dsimp only
  rw [hl, hs, hw, hr]

theorem lineTimes_takeMiss (line : Nat) (s : State) : lineTimes (takeMiss line s) line = lineTimes s line := by
  unfold takeMiss
  split
  · refine lineTimes_congr rfl rfl ?_ ?_
    · exact (congrArg Slice.mwts (spGet_spSet_self Slice.reset s.slices (lineSlice s line) _)).trans rfl
    · exact (congrArg Slice.mrts (spGet_spSet_self Slice.reset s.slices (lineSlice s line) _)).trans rfl
  · rfl

theorem getCore_takeMiss (line : Nat) (s : State) : getCore (takeMiss line s) = getCore s := by
  unfold takeMiss
  split <;> rfl

theorem lines_takeMiss (line : Nat) (s : State) : (takeMiss line s).lines = s.lines := by
  unfold takeMiss
  split <;> rfl

theorem lineBytes_congr {s t : State} (h : t.mem = s.mem) (line : Nat) : lineBytes t line = lineBytes s line := by
  unfold lineBytes
  exact rdRun_congr _ _ _ _ fun k _ _ => rdByte_congr h k

theorem keepLine_core {core : Nat} (h : core < 1024) (line : Nat) (e : CachedLine) (s : State) : keepLine core line e s =
    { setCore s core { getCore s core with leases := spSet CachedLine.none (getCore s core).leases line e } with
      l2 := spSet CachedLine.none s.l2 (l2Key core line) e } := by
  unfold keepLine
  rw [if_neg (Nat.not_le.2 h)]
  rfl

/-- A core that keeps a line at new times, its own time moved on. -/
theorem keepLine_moved {core : Nat} (h : core < 1024) (line pts : Nat) (e : CachedLine) (times : LineT) (s : State) :
    let t := keepLine core line e (setCore { s with lines := spSet LineT.reset s.lines line times } core { getCore s core with pts := pts })
    spGet LineT.reset t.lines line = times ∧
    getCore t core = { getCore s core with pts := pts, leases := spSet CachedLine.none (getCore s core).leases line e } ∧
    spGet CachedLine.none t.l2 (l2Key core line) = e ∧
    ∀ k, k ≠ line → spGet LineT.reset t.lines k = spGet LineT.reset s.lines k := by
  intro t
  have ht : t = _ := keepLine_core h ..
  rw [ht, getCore_setCore_self]
  exact ⟨spGet_spSet_self .., spGet_spSet_self .., spGet_spSet_self .., fun k hk => spGet_spSet_other _ _ hk _⟩

/-- A line's times after a load that its home serves (R229). -/
def loadedTimes (core : Nat) (renew : Bool) (s : State) (line : Nat) : LineT :=
  ⟨(lineTimes s line).wts, newReadTime (getCore s core) (lineTimes s line), if renew then min (2 * (lineTimes s line).ll) 4096 else (lineTimes s line).ll⟩

theorem homeFill_served {core : Nat} {s : State} {line : Nat} (h : (missesFull s line && Config.llcBypass (lineSlice s line / 8)) = false) (renew : Bool) :
    let u := takeMiss line s
    homeFill core renew s line = keepLine core line ⟨newReadTime (getCore s core) (lineTimes s line), (lineTimes s line).wts, lineBytes s line⟩
      (setCore { u with lines := spSet LineT.reset u.lines line (loadedTimes core renew s line) } core
        { getCore u core with pts := max (getCore s core).pts (lineTimes s line).wts }) := by
  have hb : lineBytes (takeMiss line s) line = lineBytes s line := lineBytes_congr (mem_takeMiss ..) line
  unfold homeFill
  rw [h]
  dsimp only
  rw [lineTimes_takeMiss, getCore_takeMiss, hb]
  rfl

theorem homeFill_bypass {core : Nat} {s : State} {line : Nat} (h : (missesFull s line && Config.llcBypass (lineSlice s line / 8)) = true) (renew : Bool) :
    homeFill core renew s line = bypassRead core line s := by
  unfold homeFill
  rw [h]
  rfl

theorem storeTimes_eq (core : Nat) (s : State) (line : Nat) :
    let w := max (getCore s core).pts ((lineTimes s line).rts + 1)
    let u := takeMiss line s
    storeTimes core s line = keepLine core line ⟨w, w, lineBytes s line⟩
      (setCore { u with lines := spSet LineT.reset u.lines line ⟨w, w, 8⟩ } core { getCore u core with pts := w }) := by
  have hb : lineBytes (takeMiss line s) line = lineBytes s line := lineBytes_congr (mem_takeMiss ..) line
  unfold storeTimes
  dsimp only
  rw [lineTimes_takeMiss, getCore_takeMiss, hb]

theorem bypassRead_core (core line : Nat) (s : State) : getCore (bypassRead core line s) core =
    { getCore s core with pts := max (getCore s core).pts (spGet Slice.reset s.slices (lineSlice s line)).mrts, leases := spErase line (getCore s core).leases } := by
  unfold bypassRead
  exact spGet_spSet_self ..

theorem renews_iff (s : State) (core line : Nat) : renews s core line = true ↔
    0 < (spGet CachedLine.none (getCore s core).leases line).lease ∧ (spGet CachedLine.none (getCore s core).leases line).wts = (lineTimes s line).wts := by
  unfold renews
  rw [Bool.and_eq_true, decide_eq_true_eq, beq_iff_eq]

theorem live_iff (e : CachedLine) (pts : Nat) : e.live pts = true ↔ 0 < e.lease ∧ pts ≤ e.lease := by
  unfold CachedLine.live
  rw [Bool.and_eq_true, decide_eq_true_eq, decide_eq_true_eq]

theorem cachedByte_other (s : State) (core : Nat) {kind : Nat} (h : kind ≠ 2) (k : Nat) : cachedByte s core kind k = rdByte s k := by
  unfold cachedByte
  rw [if_neg fun h' => h h'.1]

theorem cachedByte_held {core : Nat} (hc : core < 1024) {s : State} {line : Nat} {k : Nat} (hk : k < 64)
    (h : (spGet CachedLine.none (getCore s core).leases line).data ≠ []) :
    cachedByte s core 2 (64 * line + k) = (spGet CachedLine.none (getCore s core).leases line).data.getD k 0 := by
  unfold cachedByte
  rw [if_pos ⟨rfl, hc⟩, show (64 * line + k) / 64 = line by omega, show (64 * line + k) % 64 = k by omega]
  split
  · next h' => exact absurd h' h
  · rfl

theorem cachedByte_home {core : Nat} (hc : core < 1024) {s : State} {line : Nat} {k : Nat} (hk : k < 64)
    (h : (spGet CachedLine.none (getCore s core).leases line).data = []) : cachedByte s core 2 (64 * line + k) = rdByte s (64 * line + k) := by
  unfold cachedByte
  rw [if_pos ⟨rfl, hc⟩, show (64 * line + k) / 64 = line by omega, h]

theorem sameBytes_of_mem {s t : State} (h : t.mem = s.mem) : SameBytes s t := fun k => rdByte_congr h k

theorem lineTimesResults : LineTimes := by
  intro core line s hc c h slice own near good sl holds bypass
  have hbypass : bypass ↔ (missesFull s line && Config.llcBypass (lineSlice s line / 8)) = true := Bool.and_eq_true_iff.symm
  have hlive : ∀ e : CachedLine, good e ↔ (core < 1024 ∧ e.live c.pts = true) := fun e => (live_iff e c.pts).symm.trans (and_iff_right hc).symm
  have hhit : ∀ k e', exec (.homeLoad core line k) s = .next e' ↔ homeFill core (k && renews s core line) s line = e' := fun k e' => by
    rw [exec_homeLoad, execHomeLoad, Host.Outcome.next.injEq]
  refine ⟨fun hb renew => ?_, fun hb renew => ?_, ?_, ?_, ?_, ?_, fun hg => ?_, fun hg hn => ?_, fun hg hn => ?_, fun k hd hk => ?_, fun k hd hk => ?_,
    fun kind k hk => cachedByte_other s core hk k, sameBytes_of_mem (mem_loadTimes ..)⟩
  · refine ⟨_, (hhit _ _).2 (homeFill_bypass (hbypass.1 hb) _), rfl, sameBytes_of_mem rfl, bypassRead_core .., spGet_spErase_self ..⟩
  · have hserved := homeFill_served (core := core) (Bool.eq_false_iff.2 (mt hbypass.2 hb)) (renew && renews s core line)
    have hmem : (homeFill core (renew && renews s core line) s line).mem = s.mem := mem_homeFill ..
    have hif : (renew = true ∧ 0 < own.lease ∧ own.wts = h.wts) ↔ (renew && renews s core line) = true := by
      rw [Bool.and_eq_true, renews_iff]
    obtain ⟨htimes, hcore, hl2, hother⟩ := keepLine_moved hc line (max c.pts h.wts) ⟨newReadTime c h, h.wts, lineBytes s line⟩
      (loadedTimes core (renew && renews s core line) s line) (takeMiss line s)
    rw [← hserved] at htimes hcore hl2 hother
    rw [getCore_takeMiss] at hcore
    rw [lines_takeMiss] at hother
    refine ⟨_, (hhit _ _).2 rfl, htimes.trans ?_, ⟨hcore, hl2⟩, hother, sameBytes_of_mem hmem⟩
    simp only [hif]
    rfl
  · have hmem : (storeTimes core s line).mem = s.mem := mem_storeTimes ..
    obtain ⟨htimes, hcore, hl2, -⟩ := keepLine_moved hc line (max c.pts (h.rts + 1)) ⟨max c.pts (h.rts + 1), max c.pts (h.rts + 1), lineBytes s line⟩
      ⟨max c.pts (h.rts + 1), max c.pts (h.rts + 1), 8⟩ (takeMiss line s)
    rw [← storeTimes_eq] at htimes hcore hl2
    rw [getCore_takeMiss] at hcore
    rw [exec_homeStore]
    exact ⟨_, rfl, htimes, ⟨hcore, hl2⟩, sameBytes_of_mem hmem⟩
  · rw [exec_llcEviction]
    exact ⟨_, rfl, spGet_spErase_self .., spGet_spSet_self .., sameBytes_of_mem rfl⟩
  · rw [exec_llcFillReturn]
    refine ⟨_, rfl, ?_, ?_, sameBytes_of_mem rfl⟩
    · dsimp only
      split
      · exact spGet_spSet_self ..
      · rfl
    · rw [show (spGet Slice.reset _ slice).misses = _ from congrArg Slice.misses (spGet_spSet_self Slice.reset s.slices slice _), List.mem_filter]
      exact fun hm => bne_iff_ne.1 hm.2 rfl
  · rw [exec_ptsTick, execPtsTick, modCore_eq]
  · unfold loadTimes
    exact if_pos ((hlive own).1 hg)
  · unfold loadTimes
    exact (if_neg (mt (hlive own).2 hg)).trans (if_pos ((hlive near).1 hn))
  · refine ⟨renews s core line, ?_, renews_iff s core line⟩
    unfold loadTimes
    exact (if_neg (mt (hlive own).2 hg)).trans (if_neg (mt (hlive near).2 hn))
  · exact cachedByte_held hc hk hd
  · exact cachedByte_home hc hk hd

end Sys2Proof.Machine
end

section
/-! The latch instructions (O29). -/

namespace Sys2Proof.Machine

open Sys2Proof.Claims

/-- A place of the issuing thread that resolves and need not wait for its slot of the frame. -/
theorem withPlace_resolves {s : State} {a : Word} {n : Nat} {need : Need} {p : Place} (h : Resolves s a n need p) (hm : onFabric p = false ∨ hartMoves s s.me = true)
    (s0 : State) (len : Nat) (act : Place → Out) : withPlace s0 s len a n need act = act p := by
  obtain ⟨hmiss, hres⟩ := h
  have hstay : ¬ (onFabric p && !hartMoves s s.me) = true := by
    rcases hm with h | h
    · rw [h]
      exact Bool.false_ne_true
    · rw [h, Bool.not_true, Bool.and_false]
      decide
  unfold withPlace
  dsimp only
  rw [hmiss, hres]
  exact if_neg hstay

/-- The address of a line, with the mark of an armed entry (R325). -/
theorem armed_word (x : Word) : offWrap x (-Int.ofNat (off x % 64)) ||| 2 = ofN (x.toNat / 64 * 64 + 2) := by
  have hx := x.isLt
  have hoff : off x = x.toNat % 2 ^ 48 := rfl
  have ho : ((Int.ofNat (off x) + -Int.ofNat (off x % 64)) % 2 ^ 48).toNat = off x / 64 * 64 := by
    have hlt : off x < 2 ^ 48 := Nat.mod_lt _ (by decide)
    simp only [Int.ofNat_eq_natCast]
    omega
  have hline : offWrap x (-Int.ofNat (off x % 64)) = ofN (x.toNat / 64 * 64) := by
    rw [offWrap, ho, mkAddr_hdl x (by omega)]
    congr 1
    omega
  have hlow : x.toNat / 64 * 64 ||| 2 = x.toNat / 64 * 64 + 2 := by
    rw [Nat.mul_comm]
    exact (Nat.two_pow_add_eq_or_of_lt (i := 6) (by decide) (x.toNat / 64)).symm
  apply BitVec.eq_of_toNat_eq
  rw [hline, BitVec.toNat_or, ofN, ofN, BitVec.toNat_ofNat, BitVec.toNat_ofNat, Nat.mod_eq_of_lt (by omega), Nat.mod_eq_of_lt (by omega)]
  exact hlow

theorem meet_me (core : Nat) (s : State) : (meet core s).me = s.me := rfl

section

variable {q : Bool} {d a : Reg} {i : BitVec 2} {s : State} {p : Place} {line : Nat} (hq : QueuesReady [a] [] s)
  (hr : Resolves (operandState [a] s) (operand [a] s a) 1 needRd p) (hl : latchLine (operandState [a] s) p = some line)
  (hp : placeRefused (operandState [a] s) p = false) (hm : onFabric p = false ∨ hartMoves (operandState [a] s) (operandState [a] s).me = true)

include hq hr hl hp hm

/-- lat.arm of a line that it may ask for (R151, R325). -/
theorem execLatArm_line : exec (.latArm q d a i) s =
    let s2 := disarm s.me i.toNat (meet (coreOf s.me) (operandState [a] s))
    if (latchHome s2 (cur s2).part line).2 ≤ (latchHome s2 (cur s2).part line).1 then .next (retire s 4 q (addLate d 1 s2))
    else .next (retire s 4 q (addLate d 0 (modTh { s2 with latches := s2.latches ++ [⟨line, s.me, i.toNat⟩] } s.me fun th =>
      { th with latch := spSet 0 th.latch i.toNat (ofN ((operand [a] s a).toNat / 64 * 64 + 2)) }))) := by
  rw [exec_latArm, execLatArm, withRegs_ready hq]
  dsimp only
  rw [show xr (cur (operandState [a] s)) a = operand [a] s a from rfl, withPlace_resolves hr hm, hl]
  dsimp only
  rw [hp, armed_word]
  rfl

end

theorem getTh_disarm (t i : Nat) (s : State) : getTh (disarm t i s) t = { getTh s t with latch := spSet 0 (getTh s t).latch i (spGet 0 (getTh s t).latch i &&& ~~~3) } := by
  unfold disarm
  rw [modTh_eq, getTh_setTh_self]
  rfl

theorem toNat_disarmed (w : Word) : (w &&& ~~~3).toNat % 4 = 0 := by
  have h : (w &&& ~~~3) &&& 3 = 0 := by
    rw [BitVec.and_assoc, show (~~~3 : Word) &&& 3 = 0 from by decide]
    exact BitVec.and_zero
  have h' := congrArg BitVec.toNat h
  rw [BitVec.toNat_and] at h'
  exact (Nat.and_two_pow_sub_one_eq_mod _ 2).symm.trans h'

theorem latches_disarm {t i : Nat} {s : State} {r : LatchReg} (h : r ∈ (disarm t i s).latches) : ¬ (r.t = t ∧ r.entry = i) := by
  rintro ⟨rfl, rfl⟩
  have hf := (List.mem_filter.1 (show r ∈ s.latches.filter fun x => !(x.t == r.t && x.entry == r.entry) from h)).2
  rw [beq_self_eq_true, beq_self_eq_true] at hf
  exact Bool.noConfusion hf

/-- lat.wait at its issue (R152). -/
theorem execLatWait_issue {q : Bool} {d a : Reg} {s : State} (hw : ∀ l e r, (cur s).wait ≠ .latch l e r) (hq : QueuesReady [a] [] s) : exec (.latWait q d a) s =
    let s1 := operandState [a] s
    if latchReason s1 s.me ≠ 0 then .next (latchReturn 4 q d (latchReason s1 s.me) s s1)
    else if (operand [a] s a).toNat = 0 then .next (latchReturn 4 q d 16 s s1)
    else unlessFault s 4 (.next (park (.latch (operand [a] s a).toNat d q) s1)) := by
  rw [exec_latWait]
  unfold execLatWait
  split
  · next h => exact absurd h (hw _ _ _)
  · rw [withRegs_ready hq]
    unfold latTest
    rw [operandState_me]
    rfl

theorem latchResults : LatchResults := by
  intro q d a i s
  refine ⟨fun p line hq => ?_, ?_, ?_, fun t e r h => ?_⟩
  · intro x s1 s2 hr hl hp hm
    have harm := execLatArm_line (q := q) (d := d) (i := i) hq hr hl hp (by rw [operandState_me]; exact hm)
    exact ⟨fun h => harm.trans (if_neg (Nat.not_le.2 h)), fun h => harm.trans (if_pos h)⟩
  · have hth := getTh_disarm s.me i.toNat s
    refine ⟨disarm s.me i.toNat s, exec_latClr .., ?_, fun k hk => ?_, fun r hr => latches_disarm hr⟩
    · rw [cur, show (disarm s.me i.toNat s).me = s.me from rfl, hth, spGet_spSet_self]
      exact toNat_disarmed _
    · rw [cur, show (disarm s.me i.toNat s).me = s.me from rfl, hth, spGet_spSet_other _ _ hk]
      rfl
  · intro hw hq s1
    have hwait := execLatWait_issue (q := q) (d := d) hw hq
    refine ⟨fun h => hwait.trans (if_pos h), fun h h0 => ?_, fun h h0 hs => ?_⟩
    · exact hwait.trans ((if_neg (not_not.2 h)).trans (if_pos (by rw [h0]; rfl)))
    · refine hwait.trans ((if_neg (not_not.2 h)).trans ((if_neg fun hz => h0 (BitVec.eq_of_toNat_eq hz)).trans ?_))
      rw [unlessFault, hs]
  · rw [exec_latchWaitTimeout]
    unfold execLatchWaitTimeout
    rw [h]
    rfl

/-- Settles O29: latches are armed, cleared and waited for, and C lines keep their times, as R151, R152 and R229 to R233 say. -/
theorem latchesAndLines : Obligations.LatchesAndLines := ⟨latchResults, lineTimesResults⟩

end Sys2Proof.Machine
end

section
/-! Debug resume before READY (O35). -/

namespace Sys2Proof.Machine

open Sys2Proof.Claims

/-- After a reset, with READY 0, hart 1 is halted since an earlier cycle in context 1. -/
def haltedEarly : State :=
  { State.reset with cycle := 1, threads := [(1, { Thread.reset with uid := 1, ctx := 1, wait := .halted 0 })] }

/-- Before READY a resume changes nothing. -/
theorem execDebugResume_early {s : State} (h : ready s = false) (fn : HostFn) (ctx : Nat) : exec (.debugResume fn ctx) s = .next s := by
  rw [exec_debugResume, execDebugResume, h]
  rfl

/-- Refutes O35: its last clause has a resume let every halted thread of the context go on, and does not ask for READY; before READY the resume changes nothing, so
hart 1, halted in an earlier cycle, stays halted. -/
theorem not_contextEvents : ¬ Obligations.ContextEvents := by
  unfold Obligations.ContextEvents
  intro h
  obtain ⟨u, hu, hth⟩ := (h 1 haltedEarly).2.2 1 0 (by decide) rfl rfl
  rw [execDebugResume_early (by decide)] at hu
  cases hu
  exact absurd (congrArg Thread.wait hth) (by decide)

end Sys2Proof.Machine
end

section
/-! What the transactions of the name tree give, and how revocations start (O36). -/

namespace Sys2Proof.Machine

open Sys2Proof.Claims

/-! ### Entries and walks -/

/-- A new entry in a keyring of a context (R86). -/
theorem newHandle_gives (x : Tx) (node : Nat) (rights ceil : BitVec 5) (s : State) : GivesEntry x node rights ceil s (newHandle x (entryOf s node rights ceil) s) := by
  intro h hring hfree
  unfold newHandle makeEntry
  rw [hfree, if_neg (Nat.not_le.2 hring)]
  rfl

theorem recKind_eq (s : State) (n : Nat) : bits ((engineRecord s n).getD 0 0) 61 58 = recKind s n := rfl

/-- A walk along the steps that R92 lets it make reaches their end. -/
theorem walkFrom_reached {s : State} {cs : List (List Byte)} {n m : Nat} {k j : BitVec 5} (h : WalkTo s cs n k m j) : ∀ i, walkFrom s cs i n k = .reached m j := by
  induction h with
  | here n k hm hk =>
    intro i
    unfold walkFrom
    dsimp only
    rw [hm, recKind_eq, if_neg hk]
    rfl
  | down c rest n k b m j hm hk hv hx hl _ ih =>
    intro i
    have h9 : ¬ recKind s n = 9 := by
      rw [hk]
      decide
    have hstep : ¬ (recKind s n ≠ 0 ∨ bit ((engineRecord s n).getD 0 0) 63 = false) := fun h =>
      h.elim (fun h => h hk) fun h => Bool.noConfusion ((show bit _ 63 = true from hv).symm.trans h)
    unfold walkFrom
    dsimp only
    rw [hm, recKind_eq, if_neg h9, if_neg hstep, hx, hl]
    exact ih (i + 1)

/-! ### Handle operands -/

theorem withHandle_live {x : Tx} {h : Nat} {s : State} {e : KeyEntry} (hl : LiveHandle x h s e) (act : KeyEntry → TxOut) : withHandle x h s act = act e := by
  obtain ⟨rfl, h0, hf, hv, hc, hp, hm, hg⟩ := hl
  have hbad : ¬ (h = 0 ∨ h = 0xFFFF ∨ (getKey s x.ring h).v = false ∨ closing s x.ring h = true) := by
    rintro (h' | h' | h' | h')
    · exact h0 h'
    · exact hf h'
    · exact Bool.noConfusion (hv.symm.trans h')
    · exact Bool.noConfusion (hc.symm.trans h')
  unfold withHandle
  dsimp only
  rw [if_neg hbad, hp, hm, if_neg (not_not.2 hg)]
  rfl

theorem withHandle_unallocated {x : Tx} {h : Nat} {s : State} (hb : h = 0 ∨ h = 0xFFFF ∨ (getKey s x.ring h).v = false ∨ closing s x.ring h = true)
    (act : KeyEntry → TxOut) : withHandle x h s act = .fail 6 0 := by
  unfold withHandle
  exact if_pos hb

theorem withHandle_stale {x : Tx} {h : Nat} {s : State} (h0 : h ≠ 0) (hf : h ≠ 0xFFFF) (hc : closing s x.ring h = false) (hv : (getKey s x.ring h).v = true)
    (hp : (getKey s x.ring h).peer = false) (hm : recordMissing s (getKey s x.ring h).node = false)
    (hg : (getKey s x.ring h).gen ≠ engineGen s (getKey s x.ring h).node) (act : KeyEntry → TxOut) : withHandle x h s act = .fail 7 0 := by
  have hbad : ¬ (h = 0 ∨ h = 0xFFFF ∨ (getKey s x.ring h).v = false ∨ closing s x.ring h = true) := by
    rintro (h' | h' | h' | h')
    · exact h0 h'
    · exact hf h'
    · exact Bool.noConfusion (hv.symm.trans h')
    · exact Bool.noConfusion (hc.symm.trans h')
  unfold withHandle
  dsimp only
  rw [if_neg hbad, hp, hm, if_pos hg]
  rfl

/-! ### Transactions on live handles -/

theorem bits_mask_zero {w : Word} (h : w.toNat < 32) : bits w 63 5 = 0 := by
  rw [bits]
  omega

theorem bits_mask_ne {w : Word} (h : 32 ≤ w.toNat) : bits w 63 5 ≠ 0 := by
  have := w.isLt
  rw [bits]
  omega

theorem setWidth_ofNat (w : Word) : w.setWidth 5 = BitVec.ofNat 5 w.toNat := by
  apply BitVec.eq_of_toNat_eq
  rw [BitVec.toNat_setWidth, BitVec.toNat_ofNat]

section

variable {x : Tx} {h : Nat} {s : State} {e : KeyEntry} (hl : LiveHandle x h s e)

include hl

theorem live_local : e.peer = false := hl.2.2.2.2.2.1

theorem txOpen_live (w : Word) : txOpen x h w s =
    if bits w 63 5 ≠ 0 then .fail 13 0
    else if BitVec.ofNat 5 w.toNat &&& ~~~e.ceil ≠ 0 then .fail 2 0
    else newHandle x (entryOf s e.node (BitVec.ofNat 5 w.toNat) e.ceil) s := by
  rw [txOpen, withHandle_live hl, live_local hl, setWidth_ofNat]
  rfl

theorem txDup_live (w : Word) : txDup x h w s =
    if bits w 63 5 ≠ 0 then .fail 13 0
    else newHandle x (entryOf s e.node (e.rights &&& BitVec.ofNat 5 w.toNat) (e.ceil &&& BitVec.ofNat 5 w.toNat)) s := by
  rw [txDup, withHandle_live hl, live_local hl, setWidth_ofNat]
  rfl

theorem txWalk_live {path : List Byte} {cs : List (List Byte)} {m : Nat} {j : BitVec 5} (hp : parsePath path = .ok cs) (hw : WalkTo s cs e.node e.ceil m j) :
    txWalk x h 0 path s = newHandle x (entryOf s m 0 j) s := by
  unfold txWalk
  rw [if_neg hl.2.1, withHandle_live hl, hp, live_local hl]
  exact congrArg (endWalk x s) (walkFrom_reached hw 0)

end

theorem txWalk_root {x : Tx} {s : State} {path : List Byte} {cs : List (List Byte)} {m : Nat} {j : BitVec 5} (hr : x.ring < 65536) (hp : parsePath path = .ok cs)
    (hw : WalkTo s cs (getCtx s x.ctx).root 0xF m j) : txWalk x 0 0 path s = newHandle x (entryOf s m 0 j) s := by
  unfold txWalk
  rw [if_pos rfl, hp]
  dsimp only
  rw [if_neg (Nat.not_le.2 hr), show rootCeil = 0xF from rfl, walkFrom_reached hw]
  rfl

/-! ### Directories -/

theorem binds_dropRef (node : Nat) (s : State) : (dropRef node s).binds = s.binds := by
  unfold dropRef
  split
  · exact congrArg (·.binds) (EventsAdded.pushOnce ..).eq
  · rfl

theorem bindingsOf_setBindings (node : Nat) (bs : List Binding) (s : State) : bindingsOf (setBindings node bs s) node = bs := spGet_spSet_self ..

theorem find_filter_same (bs : List Binding) (name : List Byte) : (bs.filter (·.name != name)).find? (·.name == name) = none := by
  rw [List.find?_eq_none]
  intro b hb h
  have hn := (List.mem_filter.1 hb).2
  rw [eq_of_beq h, bne_self_eq_false] at hn
  exact Bool.noConfusion hn

theorem find_filter_other (bs : List Binding) {name other : List Byte} (h : other ≠ name) :
    (bs.filter (·.name != name)).find? (·.name == other) = bs.find? (·.name == other) := by
  induction bs with
  | nil => rfl
  | cons b bs ih =>
    by_cases hb : b.name = name
    · have hne : (b.name == other) = false := beq_eq_false_iff_ne.2 fun h' => h (h'.symm.trans hb)
      rw [List.filter_cons, show (b.name != name) = false by rw [hb, bne_self_eq_false], List.find?_cons, hne]
      exact ih
    · rw [List.filter_cons, show (b.name != name) = true from bne_iff_ne.2 hb, if_pos rfl, List.find?_cons, List.find?_cons, ih]

theorem txUnbind_bound {x : Tx} {path name : List Byte} {w : Word} {s : State} {e : KeyEntry} {b : Binding} (hp : parseName path = some name) (hw : w.toNat < 2 ^ 16)
    (hl : LiveHandle x w.toNat s e) (hk : e.kind = 0) (hr : e.rights.getLsbD 3 = true) (ho : (getNode s e.node).owner = x.ctx) (hb : lookupName s e.node name = some b) :
    txUnbind x path w s = .done 0 (dropRef b.node (setBindings e.node ((bindingsOf s e.node).filter (·.name != name)) s)) := by
  have hhigh : ¬ bits w 63 16 ≠ 0 := by
    rw [bits]
    omega
  have hlow : bits w 15 0 = w.toNat := (bits_fifteen_zero w).trans (Nat.mod_eq_of_lt hw)
  have hdir : ∀ act : KeyEntry → TxOut, withDir x w.toNat false s act = act e := by
    intro act
    have hcheck : ¬ (e.rights.getLsbD 3 = false ∨ ((getNode s e.node).owner ≠ x.ctx ∧ (false && x.ctx == 0) = false)) := fun h =>
      h.elim (fun h => Bool.noConfusion (hr.symm.trans h)) fun h => h.1 ho
    have hlocal : ¬ (e.peer = true ∨ e.kind ≠ 0) := fun h => h.elim (fun h => Bool.noConfusion ((live_local hl).symm.trans h)) fun h => h hk
    unfold withDir
    dsimp only
    split
    · rw [withHandle_live hl, if_neg hlocal, if_neg hcheck]
    · rw [if_pos hl.2.1, withHandle_live hl, if_neg hlocal, if_neg hcheck]
  unfold txUnbind
  rw [hp]
  dsimp only
  rw [if_neg hhigh, hlow, hdir, hb]

theorem transactionResults : TransactionResults := by
  intro x s
  refine ⟨fun path cs m j hr hp hw => ?_, fun h path cs m j e hp hl hw => ?_, fun h w e hl hw hm => ?_, fun h w e hl hw hm => ?_, fun h w e hl hw => ?_, fun h w e hl hw => ?_,
    fun h w hb => ?_, ?_, fun path name w e b hp hw hl hk hr ho hb => ?_⟩
  · rw [txWalk_root hr hp hw]
    exact newHandle_gives _ _ _ _ _
  · rw [txWalk_live hl hp hw]
    exact newHandle_gives _ _ _ _ _
  · rw [txOpen_live hl, if_neg (not_not.2 (bits_mask_zero hw)), if_neg (not_not.2 hm)]
    exact newHandle_gives _ _ _ _ _
  · rw [txOpen_live hl, if_neg (not_not.2 (bits_mask_zero hw)), if_pos hm]
  · rw [txDup_live hl, if_neg (not_not.2 (bits_mask_zero hw))]
    exact newHandle_gives _ _ _ _ _
  · rw [txOpen_live hl, txDup_live hl, if_pos (bits_mask_ne hw)]
    exact ⟨rfl, if_pos (bits_mask_ne hw)⟩
  · exact ⟨withHandle_unallocated hb _, withHandle_unallocated hb _, withHandle_unallocated hb _, withHandle_unallocated hb _, if_pos (hb.imp_right (.imp_right (.imp_right .inl)))⟩
  · intro h w h0 hf hc e hv hp hm hg
    exact ⟨withHandle_stale h0 hf hc hv hp hm hg _, withHandle_stale h0 hf hc hv hp hm hg _, withHandle_stale h0 hf hc hv hp hm hg _, withHandle_stale h0 hf hc hv hp hm hg _⟩
  · refine ⟨_, txUnbind_bound hp hw hl hk hr ho hb, ?_, fun other hne => ?_⟩
    · rw [lookupName, bindingsOf, binds_dropRef, ← bindingsOf, bindingsOf_setBindings]
      exact find_filter_same ..
    · rw [lookupName, bindingsOf, binds_dropRef, ← bindingsOf, bindingsOf_setBindings]
      exact find_filter_other _ hne

/-! ### Revocations start -/

/-- The quadrants whose filters an invalidation waits for: all of a revocation or destruction, none of the rest (R96, R97). -/
def revFilters (kind : RevKind) : List Nat := match kind with | .revoke _ => quadrants | .destroy => quadrants | _ => []

/-- What an invalidation that starts changes: its number, and the events to its quadrants. -/
theorem startRevoke_eq (kind : RevKind) (node gen : Nat) (issuer : Issuer) (s : State) :
    startRevoke kind node gen issuer s = (s.uids, { setRevoke s.uids ⟨kind, node, gen, issuer, revFilters kind, quadrants, revFilters kind⟩ { s with uids := s.uids + 1 } with
      pending := s.pending ++ quadrants.map fun q => if (revFilters kind).isEmpty then .keyInvalidate s.uids q else .filterInstall s.uids q }) := by
  unfold startRevoke
  dsimp only
  rw [foldl_push]
  rfl

theorem startRevoke_rid (kind : RevKind) (node gen : Nat) (issuer : Issuer) (s : State) : (startRevoke kind node gen issuer s).1 = s.uids := by rw [startRevoke_eq]

theorem getRevoke_startRevoke (kind : RevKind) (node gen : Nat) (issuer : Issuer) (s : State) :
    getRevoke (startRevoke kind node gen issuer s).2 s.uids = ⟨kind, node, gen, issuer, revFilters kind, quadrants, revFilters kind⟩ := by
  rw [startRevoke_eq]
  exact spGet_spSet_self ..

theorem nodes_startRevoke (kind : RevKind) (node gen : Nat) (issuer : Issuer) (s : State) : (startRevoke kind node gen issuer s).2.nodes = s.nodes := by
  rw [startRevoke_eq]
  rfl

theorem pending_startRevoke (kind : RevKind) (node gen : Nat) (issuer : Issuer) (s : State) {q : Nat} (h : q < 16) :
    (if (revFilters kind).isEmpty then Instr.keyInvalidate s.uids q else .filterInstall s.uids q) ∈ (startRevoke kind node gen issuer s).2.pending := by
  rw [startRevoke_eq]
  exact List.mem_append_right _ (List.mem_map.2 ⟨q, List.mem_range.2 h, rfl⟩)

theorem getNode_modRecord (s : State) (n m : Nat) (f : Node → Node) : getNode (modRecord s n f) m = if m = n then f (getNode s n) else getNode s m := by
  unfold modRecord
  dsimp only
  split <;> exact spGet_spSet ..

theorem freeHandle_modRecord (s : State) (ring n : Nat) (f : Node → Node) : freeHandle (modRecord s n f) ring = freeHandle s ring := by
  unfold modRecord
  dsimp only
  split <;> rfl

theorem uids_modRecord (s : State) (n : Nat) (f : Node → Node) : (modRecord s n f).uids = s.uids := by
  unfold modRecord
  dsimp only
  split <;> rfl

section

variable {x : Tx} {h : Nat} {s : State} {e : KeyEntry} (hl : LiveHandle x h s e)

include hl

theorem txRevoke_noRight (hr : e.rights.getLsbD 4 = false) : txRevoke x h s = .fail 2 0 := by
  rw [txRevoke, withHandle_live hl, live_local hl]
  exact if_pos hr

/-- REVOKE's node, entry and invalidation (R96). -/
theorem txRevoke_starts (hr : e.rights.getLsbD 4 = true) (hg : e.gen ≠ 0xFFFF) {v : Nat} (hf : freeHandle s x.ring = some v) (hring : x.ring < 65536) :
    let s1 := modRecord s e.node fun n => { n with gen := e.gen + 1 }
    txRevoke x h s = .wait s.uids (startRevoke (.revoke v) e.node (e.gen + 1) x.issuer (setKey x.ring v (entryOf s1 e.node e.rights e.ceil) s1)).2 := by
  intro s1
  have hright : ¬ e.rights.getLsbD 4 = false := fun h => Bool.noConfusion (hr.symm.trans h)
  have hentry : makeEntry x (entryOf s1 e.node e.rights e.ceil) s1 = some (v, setKey x.ring v (entryOf s1 e.node e.rights e.ceil) s1) := by
    unfold makeEntry
    rw [freeHandle_modRecord, hf, if_neg (Nat.not_le.2 hring)]
    rfl
  rw [txRevoke, withHandle_live hl, live_local hl, if_neg Bool.false_ne_true, if_neg hright, if_neg hg]
  dsimp only
  rw [hentry]
  dsimp only
  rw [startRevoke_rid]
  exact congrArg (TxOut.wait · _) (uids_modRecord ..)

theorem txClose_starts (hring : x.ring < 65536) : txClose x h s = .wait s.uids (startRevoke (.close x.ring h) e.node e.gen x.issuer s).2 := by
  obtain ⟨rfl, h0, hf, hv, hc, -⟩ := hl
  have hbad : ¬ (h = 0 ∨ h = 0xFFFF ∨ (getKey s x.ring h).v = false ∨ closing s x.ring h = true ∨
      (65536 ≤ x.ring ∧ ((getKey s x.ring h).pkg ≠ x.pkg ∨ (getKey s x.ring h).port ≠ x.port))) := by
    rintro (h' | h' | h' | h' | h')
    · exact h0 h'
    · exact hf h'
    · exact Bool.noConfusion (hv.symm.trans h')
    · exact Bool.noConfusion (hc.symm.trans h')
    · exact Nat.not_le.2 hring h'.1
  unfold txClose
  dsimp only
  rw [if_neg hbad, startRevoke_eq]

end

theorem revocationStarts : RevocationStarts := by
  intro x h s e hl hring
  refine ⟨txRevoke_noRight hl, fun hr hg hf => ?_, ?_⟩
  · obtain ⟨v, hv⟩ := Option.isSome_iff_exists.1 hf
    refine ⟨_, txRevoke_starts hl hr hg hv hring, ?_⟩
    have hnode := fun n => getNode_modRecord s e.node n fun n => { n with gen := e.gen + 1 }
    have hu := uids_modRecord s e.node fun n => { n with gen := e.gen + 1 }
    generalize hs1 : modRecord s e.node (fun n => { n with gen := e.gen + 1 }) = s1 at hnode hu ⊢
    generalize hs2 : setKey x.ring v (entryOf s1 e.node e.rights e.ceil) s1 = s2
    have hnodes : ∀ n, getNode (startRevoke (.revoke v) e.node (e.gen + 1) x.issuer s2).2 n = getNode s1 n := fun n => by
      rw [getNode, nodes_startRevoke, ← hs2]
      rfl
    have hrev := getRevoke_startRevoke (.revoke v) e.node (e.gen + 1) x.issuer s2
    have hpend := fun q => pending_startRevoke (q := q) (.revoke v) e.node (e.gen + 1) x.issuer s2
    have hu2 : s2.uids = s.uids := by
      rw [← hs2]
      exact hu
    rw [hu2] at hrev hpend
    refine ⟨?_, fun n hn => ?_, ?_, ?_, fun q hq => hpend q hq⟩
    · rw [hnodes, hnode, if_pos rfl]
    · rw [hnodes, hnode, if_neg hn]
    · rw [hrev]
      rfl
    · rw [hrev]
      rfl
  · refine ⟨_, txClose_starts hl hring, nodes_startRevoke .., ?_, fun q hq => pending_startRevoke (.close x.ring h) e.node e.gen x.issuer s hq⟩
    rw [getRevoke_startRevoke]

/-- Settles O36: the transactions on live handles give the entries of R91 and R92, and REVOKE and CLOSE start as R96 and R97 say. -/
theorem nameTransactions : Obligations.NameTransactions := ⟨transactionResults, revocationStarts⟩

end Sys2Proof.Machine
end

section
/-! The name instructions (O37). -/

namespace Sys2Proof.Machine

open Sys2Proof.Claims

theorem failWord_eq (r i : Nat) : failWord r i = failBits r i := by
  apply BitVec.eq_of_toNat_eq
  rw [failWord, failBits, ofN, w64, BitVec.toNat_add, BitVec.toNat_ofNat, BitVec.toNat_ofNat]
  have h : (0xFFFFFFFFFFFFF000 : Word).toNat = 2 ^ 64 - 2 ^ 12 := by decide
  rw [h, Nat.add_mod_mod, Nat.add_assoc]
  rfl

/-- The end of a name instruction that ends as its transaction does (R339). -/
theorem nameEnds_of_endName {i : Instr} {s s1 : State} {d : Reg} {o : TxOut} {addr : Word} {store : List Byte → State → State}
    (h : exec i s = endName d addr store s s1 o) : NameEnds i s s1 d o := by
  refine ⟨fun r k ho => ?_, fun v s2 ho => ?_, fun rid s2 ho hs => ?_, fun f v data ho hs => ?_, fun r a hs ho => ?_⟩
  · subst ho
    rw [h, endName, failWord_eq]
    rfl
  · subst ho
    exact h
  · subst ho
    rw [h, endName, unlessFault, hs]
  · subst ho
    rw [h, endName, unlessFault, hs]
  · rw [TrapsHere, h]
    rcases ho with ⟨rid, s2, rfl⟩ | ⟨f, v, data, rfl⟩
    · rw [endName, unlessFault, hs]
      rfl
    · rw [endName, unlessFault, hs]
      rfl

/-- A handle operand with its reserved bits clear. -/
theorem withOperand_handle {v : Word} (h : v.toNat < 2 ^ 16) (d : Reg) (s0 s : State) (act : Nat → Out) : withOperand d v s0 s act = act v.toNat := by
  have hhigh : ¬ bits v 63 16 ≠ 0 := by
    rw [bits]
    omega
  rw [withOperand, if_neg hhigh, bits_fifteen_zero, Nat.mod_eq_of_lt h]

theorem withOperand_reserved {v : Word} (h : 2 ^ 16 ≤ v.toNat) (d : Reg) (s0 s : State) (act : Nat → Out) :
    withOperand d v s0 s act = .next (retire s0 4 true (addLate d (failBits 13 0) s)) := by
  have hv := v.isLt
  have hhigh : bits v 63 16 ≠ 0 := by
    rw [bits]
    omega
  rw [withOperand, if_pos hhigh, failWord_eq]
  rfl

theorem nameHandleInstructions : NameHandleInstructions := by
  intro q d a b s
  have hopen : exec (.nopen q d a b) s = execNopen q d a b s := exec_nopen ..
  have hdup : exec (.ndup q d a b) s = execNdup q d a b s := exec_ndup ..
  have hclose : exec (.nclose q d a) s = execNclose q d a s := exec_nclose ..
  have hrevoke : exec (.nrevoke q d a) s = execNrevoke q d a s := exec_nrevoke ..
  refine ⟨fun hq => ?_, fun hq => ?_⟩
  · rw [execNopen, withRegs_ready hq] at hopen
    rw [execNdup, withRegs_ready hq] at hdup
    exact ⟨fun hh => ⟨nameEnds_of_endName (hopen.trans (withOperand_handle hh ..)), nameEnds_of_endName (hdup.trans (withOperand_handle hh ..))⟩,
      fun hh => ⟨hopen.trans (withOperand_reserved hh ..), hdup.trans (withOperand_reserved hh ..)⟩⟩
  · rw [execNclose, withRegs_ready hq] at hclose
    rw [execNrevoke, withRegs_ready hq] at hrevoke
    exact ⟨fun hh => ⟨nameEnds_of_endName (hclose.trans (withOperand_handle hh ..)), nameEnds_of_endName (hrevoke.trans (withOperand_handle hh ..))⟩,
      fun hh => ⟨hclose.trans (withOperand_reserved hh ..), hrevoke.trans (withOperand_reserved hh ..)⟩⟩

/-! ### Records -/

theorem withRecord_reaches {s : State} {a : Word} {align n : Nat} {need : Need} {loads : Bool} {ps : List Piece} (ha : a.toNat % align = 0)
    (h : ReachesMemory s a n need false loads ps) (s0 : State) (act : Place → Out) : withRecord s0 s a align n need act = act (.mem ps) := by
  rw [withRecord, if_neg (not_not.2 ha)]
  exact withPlace_reaches h ..

theorem withRecord_resolves {s : State} {a : Word} {align n : Nat} {need : Need} {p : Place} (ha : a.toNat % align = 0) (h : Resolves s a n need p)
    (hf : onFabric p = false) (s0 : State) (act : Place → Out) : withRecord s0 s a align n need act = act p := by
  rw [withRecord, if_neg (not_not.2 ha)]
  refine (withPlace_resolves h (.inl hf) ..).trans ?_
  cases p with
  | peer k => exact Bool.noConfusion hf
  | mem ps => rfl
  | unit node kind o gen => rfl
  | table o => rfl

theorem readRecord_reaches {s : State} {a : Word} {align n : Nat} {ps : List Piece} (ha : a.toNat % align = 0)
    (h : ReachesMemory s a n needRd false true ps) (s0 : State) (q : Bool) (act : List Byte → State → Out) :
    readRecord s0 s q a align n act = act (rdCached (afterLoad ps s) (coreOf s.me) ps) (afterLoad ps s) := by
  rw [readRecord, withRecord_reaches ha h]
  exact withMemory_reaches h (.inl rfl) ..

theorem afterLoad_me (ps : List Piece) (s : State) : (afterLoad ps s).me = s.me :=
  (StoreMoved.of_homeMoved (homeMoved_homeLoad ..)).me.trans (atTurn_me ..)

theorem cur_afterLoad (ps : List Piece) (s : State) : cur (afterLoad ps s) = { cur s with stay := false } := by
  rw [cur, afterLoad_me]
  exact (getTh_homeMoved (homeMoved_homeLoad ..) _).trans (getTh_atTurn ..)

theorem xr_afterLoad (ps : List Piece) (s : State) (r : Reg) : xr (cur (afterLoad ps s)) r = xr (cur s) r := by
  rw [cur_afterLoad]
  rfl

theorem toNat_effOf_eight {a b : Word} (h : a.toNat % 8 = 0) (he : effOf a 8 = some b) : b.toNat % 8 = 0 := by
  have ha := a.isLt
  unfold effOf at he
  dsimp only at he
  split at he
  · next hr =>
    obtain rfl := Option.some.inj he
    have ht : (((a.toNat % 2 ^ 48 : Nat) : Int) + 8).toNat = a.toNat % 2 ^ 48 + 8 := by omega
    rw [ht, ofN, BitVec.toNat_ofNat]
    omega
  · cases he

/-- A path record that is read: its bytes and the state after, and what a walk or a bind sees of it (R339). -/
theorem withPath_reads {s : State} {a : Word} {bs : List Byte} {s' : State} (h : ReadsPath s a bs s') {single : Bool} (h1 : single = true → (bs.getD 0 0).toNat = 1)
    (s0 : State) (q : Bool) (d : Reg) (act : List Byte → State → Out) : withPath s0 s q d a single act = act bs s' := by
  obtain ⟨ps, qs, a', n, ha, hps, hn, hn1, hn8, ha', hqs, rfl, rfl⟩ := h
  have hcount : ¬ (((rdCached (afterLoad ps s) (coreOf s.me) ps).getD 0 0).toNat < 1 ∨ 8 < ((rdCached (afterLoad ps s) (coreOf s.me) ps).getD 0 0).toNat ∨
      (single = true ∧ ((rdCached (afterLoad ps s) (coreOf s.me) ps).getD 0 0).toNat ≠ 1)) := by
    rw [← hn]
    rintro (h | h | ⟨hs, h⟩)
    · omega
    · omega
    · have hhead := h1 hs
      cases hb : rdCached (afterLoad ps s) (coreOf s.me) ps with
      | nil =>
        rw [hb] at hn
        have h0 : n = 0 := hn
        omega
      | cons c cs =>
        rw [hb] at hhead hn
        exact h (hn.trans hhead)
  have hal : a'.toNat % 8 = 0 := toNat_effOf_eight ha ha'
  rw [withPath, readRecord_reaches ha hps]
  dsimp only
  rw [if_neg hcount, effAddr_of_some ha', ← hn]
  dsimp only
  rw [readRecord_reaches hal hqs, afterLoad_me]

theorem readsPath_loads {s : State} {a : Word} {bs : List Byte} {s' : State} (h : ReadsPath s a bs s') : s'.me = s.me ∧ ∀ r, xr (cur s') r = xr (cur s) r := by
  obtain ⟨ps, qs, a', n, -, -, -, -, -, -, -, -, rfl⟩ := h
  exact ⟨(afterLoad_me ..).trans (afterLoad_me ..), fun r => (xr_afterLoad ..).trans (xr_afterLoad ..)⟩

theorem nameRecordInstructions : NameRecordInstructions := by
  intro q d a b s hq x y s1
  have hwalk : exec (.nwalk q d a b) s = execNwalk q d a b s := exec_nwalk ..
  have hbind : exec (.nbind q d a b) s = execNbind q d a b s := exec_nbind ..
  have hunbind : exec (.nunbind q d a b) s = execNunbind q d a b s := exec_nunbind ..
  have hstat : exec (.nstat q d a b) s = execNstat q d a b s := exec_nstat ..
  have hcreate : exec (.ncreate q d a b) s = execNcreate q d a b s := exec_ncreate ..
  rw [execNwalk, withRegs_ready hq] at hwalk
  rw [execNbind, withRegs_ready hq] at hbind
  rw [execNunbind, withRegs_ready hq] at hunbind
  rw [execNstat, withRegs_ready hq] at hstat
  rw [execNcreate, withRegs_ready hq] at hcreate
  refine ⟨fun path s2 hp hx => ?_, fun path s2 hp h1 => ?_, fun path s2 hp h1 => ?_, fun ps h bytes hy hm hh hlt ht => ?_,
    fun path s2 rs s3 p1 p2 hr1 _ hr2 hf2 hp h1 hy hm h3 => ?_⟩
  · have hxr : xr (cur s2) a = x := (readsPath_loads hp).2 a
    refine nameEnds_of_endName (addr := y) (store := noStore) (hwalk.trans ((withPath_reads hp (fun h => Bool.noConfusion h) ..).trans ?_))
    rw [hxr]
    exact withOperand_handle hx ..
  · have hyr : xr (cur s2) b = y := (readsPath_loads hp).2 b
    refine nameEnds_of_endName (addr := x) (store := noStore) (hbind.trans ((withPath_reads hp (fun _ => h1) ..).trans ?_))
    rw [hyr]
    rfl
  · have hyr : xr (cur s2) b = y := (readsPath_loads hp).2 b
    refine nameEnds_of_endName (addr := x) (store := noStore) (hunbind.trans ((withPath_reads hp (fun _ => h1) ..).trans ?_))
    rw [hyr]
    rfl
  · subst hh
    refine hstat.trans ((withRecord_reaches hy hm ..).trans ((withOperand_handle hlt ..).trans ((withMemory_reaches hm (.inl rfl) ..).trans ?_)))
    exact congrArg (endName d y (storePieces (coreOf s.me) ps) s (atTurn ps s1)) ht
  · obtain ⟨hme, -⟩ := readsPath_loads hp
    have hx8 : ∃ ps, x.toNat % 8 = 0 ∧ ReachesMemory s1 x 8 needRd false true ps := by
      obtain ⟨ps, -, -, -, ha, hps, -⟩ := hp
      exact ⟨ps, ha, hps⟩
    obtain ⟨ps, hal, hps⟩ := hx8
    refine nameEnds_of_endName (addr := x) (store := noStore) (hcreate.trans ((withRecord_reaches hal hps ..).trans ((withRecord_resolves hy hr2 hf2 ..).trans
      ((withPath_reads hp (fun _ => h1) ..).trans ((readRecord_reaches hy hm ..).trans ?_)))))
    rw [hme, show coreOf s1.me = coreOf s.me by rw [show s1.me = s.me from operandState_me ..], ← h3]
    rfl

/-- Settles O37: the name instructions read their records by ordinary loads, run their transactions and end as these end (R338 to R340). -/
theorem nameInstructions : Obligations.NameInstructions := ⟨nameHandleInstructions, nameRecordInstructions⟩

end Sys2Proof.Machine
end

section
/-! The transactions and accesses of the host and of peers (O38). -/

namespace Sys2Proof.Machine

open Sys2Proof.Claims

/-- How a function's transaction that asks `asked` in the level of `x` ends: what firmware may not have fails with reason 2 (R124), a
result is answered, a wait goes on, and what another package is asked leaves through the port. -/
def HostEnds (fn : HostFn) (x : Tx) (s : State) (i : Instr) (asked : TxOut) : Prop :=
  let o := fwGrant s fn x asked
  ((o = asked ∨ o = .fail 2 0) ∧ ((∀ n, fwDenied s fn n needRd = false) → (∀ n, fwDenied s fn n needWr = false) → o = asked)) ∧
  (∀ r k, o = .fail r k → exec i s = .next (reply fn 0 (failBits r k) [] s)) ∧
  (∀ v s1, o = .done v s1 → exec i s = .next (reply fn 0 (ofN v) [] s1)) ∧
  (∀ rid s1, o = .wait rid s1 → exec i s = .next s1) ∧
  (∀ f v data, o = .away f v data →
    exec i s = .next (if fnGen s fn = 3 then sendPeer f.tag f.kind v data { s with forwards := s.forwards ++ [f] } else reply fn 7 0 [] s))

theorem fwGrant_asked_or_fail (s : State) (fn : HostFn) (x : Tx) (o : TxOut) : fwGrant s fn x o = o ∨ fwGrant s fn x o = .fail 2 0 := by
  unfold fwGrant
  split
  · exact (ite_eq_or_eq _ _ _).symm
  · exact (ite_eq_or_eq _ _ _).symm
  · exact .inl rfl

theorem fwGrant_of_granted {s : State} {fn : HostFn} (x : Tx) (o : TxOut) (hr : ∀ n, fwDenied s fn n needRd = false)
    (hw : ∀ n, fwDenied s fn n needWr = false) : fwGrant s fn x o = o := by
  unfold fwGrant
  split
  · exact if_neg fun h => Bool.noConfusion ((hr _).symm.trans h.2)
  · dsimp only
    rw [hw, Bool.and_false]
    rfl
  · rfl

theorem peerWords_local {ring : Nat} (h : ring < 65536) (s : State) (v : Nat) : peerWords s ring v = [] :=
  if_neg fun hh => absurd hh.1 (by omega)

theorem hostEnds_of_endHost {fn : HostFn} {x : Tx} {s : State} {i : Instr} {asked : TxOut} {store : List Byte → State → Out}
    (hx : x.ring < 65536) (h : exec i s = endHost fn x i store s (fwGrant s fn x asked)) : HostEnds fn x s i asked := by
  refine ⟨⟨fwGrant_asked_or_fail .., fwGrant_of_granted x asked⟩, fun r k ho => ?_, fun v s1 ho => ?_, fun rid s1 ho => ?_, fun f v data ho => ?_⟩
  · rw [h, ho, endHost, failWord_eq]
  · rw [h, ho, endHost, peerWords_local hx]
    rfl
  · rw [h, ho, endHost]
  · rw [h, ho, endHost]
    by_cases hg : fnGen s fn = 3
    · rw [if_neg (not_not.mpr hg), if_pos hg]
    · rw [if_pos hg, if_neg hg]

theorem hostEnds_of_hostTx {fn : HostFn} {x : Tx} {s : State} {i : Instr} {asked : TxOut} {rev2 : Bool} {act : Tx → TxOut} (hx : x.ring < 65536)
    (ht : txHost s fn rev2 = .ok x) (h : exec i s = hostTx fn rev2 i s act) (ha : act x = asked) : HostEnds fn x s i asked := by
  rw [hostTx, ht] at h
  subst ha
  exact hostEnds_of_endHost hx h

theorem txHost_early {s : State} (h : bit s.pkg.pkst 8 = false) (fn : HostFn) (rev2 : Bool) : txHost s fn rev2 = .error 1 := by
  have h' : ready s = false := h
  unfold txHost
  exact if_pos (by rw [h']; rfl)

theorem ready_of_txHost {s : State} {fn : HostFn} {rev2 : Bool} {x : Tx} (h : txHost s fn rev2 = .ok x) : ready s = true := by
  by_contra hn
  have := (txHost_early (Bool.eq_false_iff.mpr hn) fn rev2).symm.trans h
  cases this

theorem txHost_peer_ring {s : State} {g : PeerTag} {x : Tx} (h : txHost s (.peer g) false = .ok x) : 65536 ≤ x.ring := by
  have hr := ready_of_txHost h
  unfold txHost at h
  dsimp only at h
  rw [hr] at h
  rw [if_neg Bool.noConfusion] at h
  split at h
  · cases h
  · next p hp =>
    cases h
    exact Nat.le_add_right ..

/-- Of the functions, a peer alone needs revision 2 for every transaction, and a peer does not act through a context (R64, R101). -/
theorem txHost_isPeer {s : State} {fn : HostFn} {x : Tx} (h : txHost s fn false = .ok x) (hx : x.ring < 65536) :
    txHost s fn (isPeer fn) = .ok x := by
  cases fn with
  | peer g => exact absurd (txHost_peer_ring h) (by omega)
  | _ => exact h

theorem hostTx_early {s : State} (h : bit s.pkg.pkst 8 = false) (fn : HostFn) (rev2 : Bool) (e : Instr) (act : Tx → TxOut) :
    hostTx fn rev2 e s act = .next (reply fn 1 0 [] s) := by
  rw [hostTx, txHost_early h]

theorem hostHandle_of_lt {h : Nat} (hh : h < 65536) (act : TxOut) : hostHandle h act = act := if_neg (by omega)

/-- What an access of a function comes to once its node is known and its checks pass, on pages of memory. -/
theorem hostAccess_memory {fn : HostFn} {x : Tx} {a : Word} {n : Nat} {need : Need} {s : State} {ps : List Piece} (ht : txHost s fn false = .ok x)
    (hm : hostMiss s (whoHost x).unit (whoHost x).ctx (hdl a) = none) (hr : resolve s (whoHost x) a n need = .ok (.mem ps))
    (kind : Nat) (data : List Byte) (e : Instr) (act : Tx → Place → Out) :
    hostAccess fn a n need kind data e s act =
      if fwDenied s fn (ps.headD ⟨0, 0, 0, 0, 0⟩).node need then .next (reply fn 2 0 [] s)
      else if (refusedPiece s x.part ps).isSome then .next (reply fn 3 0 [] s) else act x (.mem ps) := by
  rw [hostAccess, ht]
  dsimp only
  rw [hm, hr]

theorem hostAccess_passes {fn : HostFn} {x : Tx} {a : Word} {n : Nat} {need : Need} {s : State} {ps : List Piece} (ht : txHost s fn false = .ok x)
    (hm : hostMiss s (whoHost x).unit (whoHost x).ctx (hdl a) = none) (hr : resolve s (whoHost x) a n need = .ok (.mem ps))
    (hd : fwDenied s fn (ps.headD ⟨0, 0, 0, 0, 0⟩).node need = false) (hp : refusedPiece s x.part ps = none)
    (kind : Nat) (data : List Byte) (e : Instr) (act : Tx → Place → Out) : hostAccess fn a n need kind data e s act = act x (.mem ps) := by
  rw [hostAccess_memory ht hm hr, hd, hp]
  rfl

theorem hostAccess_fails {fn : HostFn} {x : Tx} {a : Word} {n : Nat} {need : Need} {s : State} {i : TrapInfo} (ht : txHost s fn false = .ok x)
    (hm : hostMiss s (whoHost x).unit (whoHost x).ctx (hdl a) = none) (hr : resolve s (whoHost x) a n need = .error i)
    (kind : Nat) (data : List Byte) (e : Instr) (act : Tx → Place → Out) :
    hostAccess fn a n need kind data e s act = .next (reply fn (reasonStatus i.reason) 0 [] s) := by
  rw [hostAccess, ht]
  dsimp only
  rw [hm, hr]

theorem hostAccess_early {s : State} (h : bit s.pkg.pkst 8 = false) (fn : HostFn) (a : Word) (n : Nat) (need : Need) (kind : Nat) (data : List Byte)
    (e : Instr) (act : Tx → Place → Out) : hostAccess fn a n need kind data e s act = .next (reply fn 1 0 [] s) := by
  rw [hostAccess, txHost_early h]

theorem reasonStatus_ne_zero (r : Nat) : reasonStatus r ≠ 0 := by
  unfold reasonStatus
  split <;> decide

theorem hostStat_stores {fn : HostFn} {x : Tx} {s s1 : State} {h : Nat} {r : Word} {bytes : List Byte} (hx : x.ring < 65536)
    (ht : txHost s fn false = .ok x) (hh : h < 65536) (hb : txStat x h r s = .stat bytes) (hm : hostMiss s (whoHost x).unit x.ctx (hdl r) = none)
    (hd : hdl r ≠ 0xFFFF → fwDenied s fn (lookupKey s (whoHost x).unit x.ctx (hdl r)).1.node needWr = false)
    (hw : agentWrite (whoHost x) r bytes 0 s = .ok s1) : execHostStat fn h r s = .next (reply fn 0 0 [] s1) := by
  rw [execHostStat, txHost_isPeer ht hx]
  dsimp only
  rw [hostHandle_of_lt hh, hb, endHost, if_neg (by omega), show (whoHost x).ctx = x.ctx from rfl, hm]
  dsimp only
  rw [if_neg fun hc => Bool.noConfusion ((hd hc.1).symm.trans hc.2), hw]

theorem reply_by_port {fn : HostFn} {p : Nat} (h : portOf fn = some p) (st : Nat) (v : Word) (data : List Byte) (s : State) :
    reply fn st v data s =
      if (spGet Port.reset s.ports p).up = false then s
      else if (spGet Port.reset s.ports p).training then
        { s with ports := spSet Port.reset s.ports p { spGet Port.reset s.ports p with held := (spGet Port.reset s.ports p).held ++ [⟨fn, st, v, data⟩] } }
      else { s with out := s.out ++ [⟨fn, st, v, data⟩] } := by
  unfold reply emit
  dsimp only
  rw [h]
  dsimp only
  cases (spGet Port.reset s.ports p).up <;> rfl

theorem host_early {s : State} (h : bit s.pkg.pkst 8 = false) {fn : HostFn} {i : Instr}
    (hi : ∃ n p w r fe, i = .hostWalk fn n p ∨ i = .hostOpen fn n w ∨ i = .hostClose fn n ∨ i = .hostBind fn p w ∨ i = .hostUnbind fn p n ∨
      i = .hostStat fn n w ∨ i = .hostRevoke fn n ∨ i = .hostDup fn n w ∨ i = .hostCreate fn p r ∨ i = .hostRead fn w n ∨ i = .hostWrite fn w p fe) :
    exec i s = .next (reply fn 1 0 [] s) := by
  have hr : ready s ≠ true := fun hh => Bool.noConfusion (h.symm.trans hh)
  obtain ⟨n, p, w, r, fe, rfl | rfl | rfl | rfl | rfl | rfl | rfl | rfl | rfl | rfl | rfl⟩ := hi
  · exact (exec_hostWalk ..).trans (hostTx_early h ..)
  · exact (exec_hostOpen ..).trans (hostTx_early h ..)
  · exact (exec_hostClose ..).trans (hostTx_early h ..)
  · exact (exec_hostBind ..).trans (hostTx_early h ..)
  · exact (exec_hostUnbind ..).trans (hostTx_early h ..)
  · rw [exec_hostStat, execHostStat, txHost_early h]
  · exact (exec_hostRevoke ..).trans (hostTx_early h ..)
  · exact (exec_hostDup ..).trans (hostTx_early h ..)
  · exact (exec_hostCreate ..).trans (hostTx_early h ..)
  · exact (exec_hostRead ..).trans (hostAccess_early h ..)
  · rw [exec_hostWrite, execHostWrite, if_neg fun hh => hr hh.1, if_neg fun hh => hr hh.1]
    exact hostAccess_early h ..

theorem hostTransactions : HostTransactions := by
  intro fn x s ends
  refine ⟨fun hx => ⟨fun ht => ?_, fun ht => ?_⟩, fun h i hi => host_early h hi, fun st v data p hp => ?_⟩
  · have hp := txHost_isPeer ht hx
    refine ⟨fun h path hh => ?_, fun h w hh => ?_, fun h hh => ?_, fun h r bytes s1 hh hb hm hd hw => (exec_hostStat ..).trans (hostStat_stores hx ht hh hb hm hd hw)⟩
    · exact hostEnds_of_hostTx hx hp (exec_hostWalk ..) ((if_neg (by omega)).trans (hostHandle_of_lt hh _))
    · exact hostEnds_of_hostTx hx hp (exec_hostOpen ..) (hostHandle_of_lt hh _)
    · exact hostEnds_of_hostTx hx ht (exec_hostClose ..) (hostHandle_of_lt hh _)
  · exact ⟨fun path w => hostEnds_of_hostTx hx ht (exec_hostBind ..) (if_neg (by omega)),
      fun path d => hostEnds_of_hostTx hx ht (exec_hostUnbind ..) (if_neg (by omega)),
      fun h hh => hostEnds_of_hostTx hx ht (exec_hostRevoke ..) (hostHandle_of_lt hh _),
      fun h w hh => hostEnds_of_hostTx hx ht (exec_hostDup ..) (hostHandle_of_lt hh _),
      fun path r => hostEnds_of_hostTx hx ht (exec_hostCreate ..) (if_neg (by omega))⟩
  · intro port
    have hreply := reply_by_port hp st v data s
    refine ⟨fun hu hn => ?_, fun hu hn => ?_, fun hu => ?_⟩
    · exact hreply.trans ((if_neg (by rw [show (spGet Port.reset s.ports p).up = true from hu]; exact Bool.noConfusion)).trans
        (if_neg (by rw [show (spGet Port.reset s.ports p).training = false from hn]; exact Bool.noConfusion)))
    · exact hreply.trans ((if_neg (by rw [show (spGet Port.reset s.ports p).up = true from hu]; exact Bool.noConfusion)).trans (if_pos hn))
    · exact hreply.trans (if_pos hu)

theorem countsHere_false {fn : HostFn} {data : List Byte} {fe : BitVec 2} (h : fe ≠ 3 ∨ (∀ g, fn ≠ .peer g) ∨ data.length ≠ 16) :
    countsHere fn data fe = false := by
  unfold countsHere
  rcases h with h | h | h
  · rw [beq_eq_false_iff_ne.mpr h, Bool.and_false, Bool.false_and]
  · cases fn with
    | peer g => exact absurd rfl (h g)
    | _ => rfl
  · rw [beq_eq_false_iff_ne.mpr h, Bool.and_false]

theorem not_countsHere_of_ne {fn : HostFn} {data : List Byte} {fe : BitVec 2} (h : fe ≠ 3) (p : Prop) : ¬(p ∧ countsHere fn data fe = true) :=
  fun hh => Bool.noConfusion ((countsHere_false (.inl h)).symm.trans hh.2)

/-- The word that a peer's counter action writes (R33). -/
theorem counterValue_bytes {data : List Byte} (hd : data.length = 16) (old : List Byte) :
    leList 8 (counterValue (leNum (data.take 8)) (w64 (leNum old)) (w64 (leNum (data.drop 8)))).toNat =
      leBytesOf 8 (if leValue (data.take 8) = 1 then (leValue old + leValue (data.drop 8)) % 2 ^ 64 else leValue (data.drop 8)) := by
  have hv : leNum (data.drop 8) < 2 ^ 64 := by
    have h := leNum_lt (data.drop 8)
    rw [List.length_drop, hd] at h
    exact h
  rw [leList_eq_leBytesOf, ← leNum_eq_leValue, ← leNum_eq_leValue, ← leNum_eq_leValue, counterValue]
  congr 1
  split
  · rw [w64, w64, BitVec.toNat_add, BitVec.toNat_ofNat, BitVec.toNat_ofNat, ← Nat.add_mod]
  · rw [w64, BitVec.toNat_ofNat, Nat.mod_eq_of_lt hv]

theorem hostAccesses : HostAccesses := by
  intro fn x addr s ht hm
  have hready := ready_of_txHost ht
  refine ⟨fun n ps hr hd hp hb => ?_, fun n i hr => ?_, fun data fe ps hfe => ?_, fun data fe i hfe hr => ?_, fun n ps hr hd hp => ?_,
    fun data h => ?_, fun g data ps hg hl ha hr hp hb => ?_⟩
  · rw [exec_hostRead, execHostRead, hostAccess_passes ht hm hr hd hp]
    dsimp only
    rw [hb]
    rfl
  · exact ⟨_, reasonStatus_ne_zero _, (exec_hostRead ..).trans (hostAccess_fails ht hm hr ..)⟩
  · intro need hr hd hp
    rw [exec_hostWrite, execHostWrite, if_neg (not_countsHere_of_ne hfe _), if_neg fun hh => hfe hh.2]
    exact hostAccess_passes ht hm hr hd hp ..
  · exact ⟨_, reasonStatus_ne_zero _, (exec_hostWrite ..).trans ((if_neg (not_countsHere_of_ne hfe _)).trans
      ((if_neg fun hh => hfe hh.2).trans (hostAccess_fails ht hm hr ..)))⟩
  · rw [exec_hostRead, execHostRead, hostAccess_memory ht hm hr, hd, hp]
    rfl
  · rw [exec_hostWrite, execHostWrite, if_neg fun hh => Bool.noConfusion ((countsHere_false (.inr h)).symm.trans hh.2), if_pos ⟨hready, rfl⟩]
  · intro action v
    subst hg
    have hc : countsHere (.peer g) data 3 = true := beq_iff_eq.mpr hl
    have hd : fwDenied s (.peer g) (ps.headD ⟨0, 0, 0, 0, 0⟩).node needRw = false := rfl
    rw [exec_hostWrite, execHostWrite, if_pos ⟨hready, hc⟩, peerCounter]
    dsimp only
    rw [if_neg (not_not.mpr ha), hostAccess_passes ht hm hr hd hp]
    dsimp only
    rw [if_neg (by rw [hb]; exact fun h => Bool.noConfusion h.2), counterValue_bytes hl, leNum_eq_leValue (data.take 8)]

/-- Settles O38: functions and peers run the name transactions and reach memory as R33, R64 to R67 and R88 to R92 say. -/
theorem hostRequests : Obligations.HostRequests := ⟨hostTransactions, hostAccesses⟩

end Sys2Proof.Machine
end

section
/-! Revocations as they proceed, and misses of the key and node caches (O39). -/

namespace Sys2Proof.Machine

open Sys2Proof.Claims

theorem filterInstall_installs {rid quadrant : Nat} {s : State} (hq : quadrant ∈ (getRevoke s rid).filters) (hn : filtersAt s quadrant < 32) :
    exec (.filterInstall rid quadrant) s =
      .next { setRevoke rid { getRevoke s rid with filters := (getRevoke s rid).filters.filter (· != quadrant) } s with
        filters := s.filters ++ [⟨quadrant, (getRevoke s rid).node, (getRevoke s rid).gen, rid⟩]
        pending := s.pending ++ if ((getRevoke s rid).filters.filter (· != quadrant)).isEmpty then quadrants.map fun q => .keyInvalidate rid q else [] } := by
  rw [exec_filterInstall, execFilterInstall, if_neg (by rw [List.contains_iff_mem.mpr hq, decide_eq_false (by omega)]; exact Bool.noConfusion)]
  dsimp only
  rw [foldl_push]
  split
  · rfl
  · rw [List.append_nil]
    rfl

theorem getRevoke_setRevoke_self (rid : Nat) (r : Revoke) (s : State) : getRevoke (setRevoke rid r s) rid = r := spGet_spSet_self _ _ _ _

/-- What every step of a fold keeps, and some step makes, holds after it. -/
theorem foldl_reaches {α σ : Type} {f : σ → α → σ} {P : σ → Prop} {p : α → Prop} (keep : ∀ s a, P s → P (f s a)) (make : ∀ s a, p a → P (f s a))
    (l : List α) : ∀ s, (P s ∨ ∃ a ∈ l, p a) → P (l.foldl f s) := by
  induction l with
  | nil => exact fun s h => h.elim id fun ⟨a, ha, _⟩ => absurd ha List.not_mem_nil
  | cons a l ih =>
    rintro s (h | ⟨b, hb, hp⟩)
    · exact ih _ (.inl (keep s a h))
    · rcases List.mem_cons.mp hb with rfl | hb
      · exact ih _ (.inl (make s b hp))
      · exact ih _ (.inr ⟨b, hb, hp⟩)

theorem spGet_unlisted {α : Type} (d : α) {k : Nat} {m : Sp α} (h : ∀ e ∈ m, e.1 ≠ k) : spGet d m k = d := by
  induction m with
  | nil => rfl
  | cons e m ih => exact (if_neg (h e List.mem_cons_self)).trans (ih fun f hf => h f (List.mem_cons_of_mem _ hf))

/-- No key of `node` in the key cache of `unit`, but for another package's. -/
def DroppedFrom (node unit : Nat) (s : State) : Prop := ∀ c ∈ (getCore s unit).keys, c.entry.node = node → c.entry.peer = true

theorem peer_of_kept {r : Revoke} (hk : ∃ h, r.kind = .revoke h) {ks : List CachedKey} {c : CachedKey} (h : c ∈ ks.filter fun k => !dropsKey r k)
    (hn : c.entry.node = r.node) : c.entry.peer = true := by
  obtain ⟨_, hk⟩ := hk
  obtain ⟨-, hd⟩ := List.mem_filter.mp h
  rw [dropsKey, hk] at hd
  dsimp only at hd
  rw [beq_iff_eq.mpr hn, Bool.true_and, Bool.not_not] at hd
  exact hd

theorem keyInvalidate_drops {rid quadrant : Nat} {s : State} (hq : quadrant ∈ (getRevoke s rid).acks) (hf : (getRevoke s rid).filters = [])
    (hk : ∃ h, (getRevoke s rid).kind = .revoke h) : ∃ t, execKeyInvalidate rid quadrant s = .next t ∧
      (∀ u, unitQuad u = quadrant → DroppedFrom (getRevoke s rid).node u t) ∧ Instr.revokeAck rid quadrant ∈ t.pending := by
  rw [execKeyInvalidate, if_neg (by rw [List.contains_iff_mem.mpr hq, hf]; exact Bool.noConfusion)]
  refine ⟨_, rfl, fun u hu => ?_, List.mem_append_right _ (List.mem_singleton_self _)⟩
  refine foldl_reaches (P := DroppedFrom (getRevoke s rid).node u) (p := fun e => e.1 = u) (fun s' e h => ?_) (fun s' e h => ?_) s.cores s ?_
  · split
    · intro c hc
      by_cases hue : u = e.1
      · subst hue
        rw [modCore_eq, getCore_setCore_self] at hc
        exact peer_of_kept hk hc
      · rw [modCore_eq, getCore_setCore_other _ hue] at hc
        exact h c hc
    · exact h
  · subst h
    rw [if_pos hu]
    intro c hc
    rw [modCore_eq, getCore_setCore_self] at hc
    exact peer_of_kept hk hc
  · by_cases hl : ∃ e ∈ s.cores, e.1 = u
    · exact .inr hl
    · refine .inl fun c hc => ?_
      rw [getCore, spGet_unlisted _ fun e he h => hl ⟨e, he, h⟩] at hc
      exact absurd hc List.not_mem_nil

theorem revocationEvents : RevocationEvents := by
  intro rid quadrant s r
  refine ⟨fun hq hn => ?_, fun hq hf hk _ => ?_, fun ha hf ho => ?_, fun hq hl hf ho => ?_, fun hr ha he => ?_, fun node hv hd => ?_⟩
  · refine ⟨_, filterInstall_installs hq hn, fun gen hg => ?_, congrArg Revoke.filters (getRevoke_setRevoke_self ..), fun hall q hq16 => ?_,
      sameBytes_of_keeps (exec_filterInstall ..) (keeps_execFilterInstall rid quadrant rfl) (filterInstall_installs hq hn)⟩
    · refine List.any_eq_true.mpr ⟨_, List.mem_append_right _ (List.mem_singleton_self _), ?_⟩
      rw [beq_self_eq_true, beq_self_eq_true, decide_eq_true hg]
      rfl
    · have hleft : (getRevoke s rid).filters.filter (· != quadrant) = [] :=
        List.filter_eq_nil_iff.mpr fun a ha hn => bne_iff_ne.mp hn (hall a ha)
      refine List.mem_append_right _ ?_
      rw [hleft]
      exact List.mem_map.mpr ⟨q, List.mem_range.mpr hq16, rfl⟩
  · obtain ⟨t, ht, hdrop, hpend⟩ := keyInvalidate_drops hq hf hk
    have hexec := (exec_keyInvalidate ..).trans ht
    exact ⟨t, hexec, hdrop, hpend, sameBytes_of_keeps (exec_keyInvalidate ..) (keeps_execKeyInvalidate rid quadrant rfl) hexec⟩
  · have hleft : r.acks.filter (· != quadrant) = [] := by rw [ha]; simp
    rw [exec_revokeAck, execRevokeAck, if_neg (by rw [ha, hf, ho]; simp)]
    dsimp only
    rw [hleft]
    rfl
  · rw [exec_revokeAck, execRevokeAck, if_neg (by rw [List.contains_iff_mem.mpr hq, hf, ho]; exact Bool.noConfusion)]
    exact congrArg Host.Outcome.next (if_neg fun h => hl (List.isEmpty_iff.mp h))
  · have hleft : r.retire.filter (· != quadrant) = [] := by rw [hr]; simp
    rw [exec_journalRetireReport, execJournalRetireReport, if_neg (by rw [hr, ha, he]; simp)]
    dsimp only
    rw [hleft]
    exact ⟨_, rfl, spGet_spErase_self .., fun f hf => bne_iff_ne.mp (List.mem_filter.mp hf).2⟩
  · rw [exec_nodeDestroy, execNodeDestroy, if_neg (by rw [hv, hd]; exact Bool.noConfusion)]
    refine ⟨_, rfl, ?_, fun n hn => ?_, fun q hq => ?_⟩
    · rw [getNode, nodes_startRevoke]
      exact congrArg Node.dead ((getNode_modRecord s node node _).trans (if_pos rfl))
    · rw [getNode, nodes_startRevoke]
      exact (getNode_modRecord s node n _).trans (if_neg hn)
    · have h := pending_startRevoke .destroy node 65536 .none (modRecord s node fun n => { n with dead := true }) hq
      rw [uids_modRecord] at h
      exact h

theorem keyCacheMiss_fills {unit ctx : Nat} {addr : Word} {s : State} (h0 : hdl addr ≠ 0) (hF : hdl addr ≠ 0xFFFF)
    (hv : (getKey s ctx (hdl addr)).v = true) (hc : closing s ctx (hdl addr) = false) (hp : (getKey s ctx (hdl addr)).peer = false)
    (hm : recordMissing s (getKey s ctx (hdl addr)).node = false)
    (hg : (getKey s ctx (hdl addr)).gen = engineGen s (getKey s ctx (hdl addr)).node) :
    ∃ t, execKeyCacheMiss unit ctx addr s = .next t ∧
      ⟨ctx, hdl addr, getKey s ctx (hdl addr), (getKey s ctx (hdl addr)).gen⟩ ∈ (getCore t unit).keys := by
  unfold execKeyCacheMiss
  dsimp only
  rw [if_neg (by rw [hv, hc]; simp [h0, hF]), if_neg (by rw [hm, Bool.and_false]; exact Bool.noConfusion),
    if_neg (by rw [← hg, bne_self_eq_false, Bool.and_false]; exact Bool.noConfusion)]
  refine ⟨_, rfl, ?_⟩
  rw [modCore_eq, getCore_setCore_self]
  refine List.mem_append_right _ (List.mem_singleton.mpr ?_)
  rw [← hg, if_neg (by rw [hp]; exact Bool.noConfusion)]

/-- The message of a miss in host-assisted mode: type 1, ten bytes of payload, the node and the context (R89). -/
theorem missMessage (node ctx : Nat) :
    message 1 0 10 false (leList 8 node ++ leList 2 ctx) = leBytesOf 8 (1 + 10 * 2 ^ 32) ++ leBytesOf 8 node ++ leBytesOf 2 ctx ++ List.replicate 46 0 := by
  have hlen : (leList 8 node ++ leList 2 ctx).length = 10 := by rw [List.length_append, length_leList, length_leList]
  rw [message, hlen, List.take_of_length_le (by omega), leList_eq_leBytesOf, leList_eq_leBytesOf, leList_eq_leBytesOf]
  exact congrArg (· ++ _) (List.append_assoc ..).symm

theorem missing_sendMsg (m : List Byte) (s : State) : (sendMsg m s).missing = s.missing := by
  unfold sendMsg
  dsimp only
  split <;> rfl

theorem nodeCache_sendMsg (m : List Byte) (s : State) : (sendMsg m s).nodeCache = s.nodeCache := by
  unfold sendMsg
  dsimp only
  split <;> rfl

theorem sendMsg_room {s : State} (h : (s.fw.hmotail + 1) % 512 ≠ s.fw.hmohead) (m : List Byte) :
    (sendMsg m s).fw.hmotail = (s.fw.hmotail + 1) % 512 ∧ spGet [] (sendMsg m s).fw.outRing s.fw.hmotail = m := by
  have he : sendMsg m s = _ := if_neg h
  rw [he]
  exact ⟨rfl, spGet_spSet_self _ _ _ _⟩

section
variable {node ctx : Nat} {s : State} (hn : ∀ m ∈ s.missing, m.node ≠ node)
include hn

theorem filter_missing : s.missing.filter (·.node == node) = [] :=
  List.filter_eq_nil_iff.mpr fun m hm h => hn m hm (beq_iff_eq.mp h)

variable (hc : nodeCached s node = false)
include hc

theorem nodeCacheMiss_takes :
    execNodeCacheMiss node ⟨ctx, false⟩ s = .next { s with nodeCache := spSet [] s.nodeCache node (nodeRecord s node) } := by
  have hkept : s.missing.filter (·.node != node) = s.missing := List.filter_eq_self.mpr fun m hm => bne_iff_ne.mpr (hn m hm)
  rw [execNodeCacheMiss, if_neg (by rw [hc]; exact Bool.noConfusion)]
  unfold resumeMiss
  dsimp only
  rw [filter_missing hn, hkept, List.flatMap_nil, List.append_nil]
  rfl

theorem nodeCacheMiss_asks : ∃ t, execNodeCacheMiss node ⟨ctx, true⟩ s = .next t ∧ (∃ m ∈ t.missing, m.node = node ∧ m.since = s.cycle) ∧
    t.nodeCache = s.nodeCache ∧ ((s.fw.hmotail + 1) % 512 ≠ s.fw.hmohead → t.fw.hmotail = (s.fw.hmotail + 1) % 512 ∧
      spGet [] t.fw.outRing s.fw.hmotail = leBytesOf 8 (1 + 10 * 2 ^ 32) ++ leBytesOf 8 node ++ leBytesOf 2 ctx ++ List.replicate 46 0) := by
  have hsent : ¬ (s.missing.any fun m => m.node == node && m.sent) = true := fun h => by
    obtain ⟨m, hm, hmn⟩ := List.any_eq_true.mp h
    exact hn m hm (beq_iff_eq.mp (Bool.and_eq_true_iff.mp hmn).1)
  rw [execNodeCacheMiss, if_neg (by rw [hc]; exact Bool.noConfusion)]
  dsimp only
  rw [if_neg Bool.noConfusion, if_neg hsent, filter_missing hn, missMessage]
  refine ⟨_, rfl, ⟨⟨node, s.cycle, [], true⟩, ?_, rfl, rfl⟩, nodeCache_sendMsg .., fun hroom =>
    sendMsg_room (s := { s with missing := s.missing.filter (·.node != node) ++ [⟨node, s.cycle, [], true⟩] }) hroom
      (leBytesOf 8 (1 + 10 * 2 ^ 32) ++ leBytesOf 8 node ++ leBytesOf 2 ctx ++ List.replicate 46 0)⟩
  rw [missing_sendMsg]
  exact List.mem_append_right _ (List.mem_singleton_self _)

end

theorem nodeMissTimeout_one {node : Nat} {s : State} {m : Miss} {t : Nat} {a : Word} {tx : Option (Reg × Bool × Nat)} (hm : s.missing = [m])
    (hn : m.node = node) (hh : m.held = []) (hc : nodeCached s node = false) (ht : s.threads = [(t, getTh s t)])
    (hw : (getTh s t).wait = .fetch node a tx) :
    execNodeMissTimeout node s = .next (
      let s1 := { s with missing := [], timedOut := (s.timedOut ++ [node]).eraseDups }
      match tx with
      | none => setTh s1 t { getTh s t with wait := .missed node }
      | some (d, q, i) => asHart t (fun s => retire s 4 q (addLate d (failBits 12 i) s)) s1) := by
  have hfind : s.missing.find? (·.node == node) = some m := by rw [hm]; exact List.find?_cons_of_pos (beq_iff_eq.mpr hn)
  have hleft : s.missing.filter (·.node != node) = [] := by
    rw [hm]
    exact List.filter_cons_of_neg (by rw [hn, bne_self_eq_false]; exact Bool.noConfusion)
  rw [execNodeMissTimeout, hfind]
  dsimp only
  rw [if_neg (by rw [hc]; exact Bool.noConfusion), hh, hleft, List.foldl_nil]
  refine (congrArg (fun l => Host.Outcome.next (List.foldl _ _ l)) ht).trans ?_
  rw [List.foldl_cons, List.foldl_nil]
  simp only [hw]
  rw [if_pos trivial]
  cases tx with
  | none => rfl
  | some p => exact congrArg (fun w => Host.Outcome.next (asHart t (fun s => retire s 4 p.2.1 (addLate p.1 w s)) _)) (failWord_eq ..)

theorem cacheMisses : CacheMisses := by
  refine ⟨fun unit ctx addr s => ?_, fun node ctx s hc hn => ⟨?_, ?_⟩, fun node s m t a hm hn hh hc ht => ?_⟩
  · intro h e h0 hF hv hc hp hm hg
    obtain ⟨t, ht, hk⟩ := keyCacheMiss_fills (unit := unit) h0 hF hv hc hp hm hg
    have hexec := (exec_keyCacheMiss ..).trans ht
    exact ⟨t, hexec, hk, sameBytes_of_keeps (exec_keyCacheMiss ..) (keeps_execKeyCacheMiss unit ctx addr rfl) hexec⟩
  · exact (exec_nodeCacheMiss ..).trans (nodeCacheMiss_takes hn hc)
  · obtain ⟨t, ht, hrest⟩ := nodeCacheMiss_asks (ctx := ctx) hn hc
    exact ⟨t, (exec_nodeCacheMiss ..).trans ht, hrest⟩
  · intro s1
    exact ⟨fun hw => (exec_nodeMissTimeout ..).trans (nodeMissTimeout_one hm hn hh hc ht hw),
      fun d q i hw => (exec_nodeMissTimeout ..).trans (nodeMissTimeout_one hm hn hh hc ht hw)⟩

/-- Settles O39: revocations proceed through filters, caches, acknowledgements and reports, and misses fill or end as R88, R89, R96 and R99 say. -/
theorem revocationsAndMisses : Obligations.RevocationsAndMisses := ⟨revocationEvents, cacheMisses⟩

end Sys2Proof.Machine
end

section
/-! The issue of vector and mask commands (O42). -/

namespace Sys2Proof.Machine

open Sys2Proof.Claims

/-- The row of a format V instruction reads the scalars its form names: x[va] as P, and x[vb] as Q unless K is Q (R266, R352). -/
def ReadsAs (r : VRow) (f : VecForm) : Prop := (r.roleA f.g == .sca) = f.p ∧ (r.roleB f.g == .sca) = f.q

section
variable {r : VRow} {op : VOp} {g : VArgs} {p q late mem : Bool}

theorem readsAs_of_x (hx : r.x = true) (ha : r.ra = .vec) (hb : r.rb ≠ .sca) :
    ReadsAs r ⟨op, g, false, g.x && g.k.isNone, late, mem⟩ := by
  constructor
  · rw [VRow.roleA, ha]
    split <;> rfl
  · rw [VRow.roleB, hx, Bool.and_true]
    cases g.x
    · exact beq_eq_false_iff_ne.mpr hb
    · cases g.k <;> rfl

theorem readsAs_of_no_x (hx : r.x = false) (ha : (r.ra == .sca) = p) (hb : (r.rb == .sca) = q) : ReadsAs r ⟨op, g, p, q, late, mem⟩ := by
  constructor
  · rw [VRow.roleA, hx, Bool.and_false]
    exact ha
  · rw [VRow.roleB, hx, Bool.and_false]
    exact hb

end

/-- A format V instruction issues its operation under its row. -/
theorem vecForm_row {i : Instr} {f : VecForm} (h : vecForm i = some f) :
    ∃ r, i.vrow = some (r, f.g) ∧ ∀ s, exec i s = issueVector r f.op f.g s := by
  cases i
  all_goals cases h
  case vattc | vattf => cases ‹AttW› <;> exact ⟨_, rfl, fun _ => rfl⟩
  all_goals exact ⟨_, rfl, fun _ => rfl⟩

theorem vecForm_reads {i : Instr} {f : VecForm} {r : VRow} {g : VArgs} (h : vecForm i = some f) (hv : i.vrow = some (r, g)) : ReadsAs r f := by
  cases i
  all_goals cases h
  all_goals cases hv
  case vaddInt | vaddIntK | vsubInt | vmulInt | vmulh | vminInt | vmaxInt | vand | vor | vxor | vsll | vsr | vmac | vceqInt | vcltInt | vcleInt | vmov
      | vaddFlt | vaddFltX | vsubFlt | vmulFlt | vmulFltK | vdiv | vfma | vminFlt | vmaxFlt | vceqFlt | vcltFlt | vcleFlt =>
    exact readsAs_of_x rfl rfl (fun h => VRole.noConfusion h)
  all_goals exact readsAs_of_no_x rfl rfl rfl

theorem vecForm_kind {i : Instr} {f : VecForm} (h : vecForm i = some f) : lateOp f.op = f.late ∧ handleOp f.op = f.mem := by
  cases i
  all_goals cases h
  all_goals exact ⟨rfl, rfl⟩

theorem issueCommand_full {s : State} (hc : (cur s).capture = none) (hv : 4 ≤ (cur s).vq.length) (len : Nat) (op : VOp) (g : VArgs) (a b : Bool) :
    issueCommand len op g a b s = .next (park .vqueue s) := by
  unfold issueCommand
  exact if_pos (by rw [hc, decide_eq_true hv]; rfl)

/-- The command of a form is what issue makes of its fields, its operands and its thread (R353). -/
theorem issueCommand_issues {f : VecForm} {s : State} (hl : lateOp f.op = f.late) (hm : handleOp f.op = f.mem)
    (hroom : (cur s).capture ≠ none ∨ (cur s).vq.length < 4) (hq : QueuesReady f.srcs [] s) (len : Nat) :
    issueCommand len f.op f.g f.p f.q s =
      (let w := whoOf (operandState f.srcs s) s.me
      let miss := if f.mem then hostMiss (operandState f.srcs s) w.unit w.ctx (hdl (f.pOf s)) else none
      let go : Out := .next (retireLive s len none f.g.q (enqueue (f.cmd s)
        (if f.late then addLateOpen f.g.vd 8 0 (operandState f.srcs s) else operandState f.srcs s)))
      match miss with
      | some n =>
        if (cur s).wait = .missed n then go
        else .next (pushOnce (.nodeCacheMiss n ⟨w.ctx, true⟩) (park (.fetch n (f.pOf s) none) s))
      | none => go) := by
  have hnot : ¬ ((cur s).capture.isNone && decide (4 ≤ (cur s).vq.length)) = true := fun h => by
    obtain ⟨hn, hd⟩ := Bool.and_eq_true_iff.mp h
    exact hroom.elim (fun hc => hc (Option.isNone_iff_eq_none.mp hn)) (fun hlt => absurd (of_decide_eq_true hd) (by omega))
  unfold issueCommand
  dsimp only
  rw [if_neg hnot]
  refine (withRegs_ready hq _).trans ?_
  rw [hl, hm]
  unfold VecForm.cmd VecForm.qOf
  cases f.g.k <;> rfl

/-- How a command whose form is `f` issues once the thread has a window. -/
theorem issueCommand_waits_or_issues {i : Instr} {f : VecForm} {s : State} (hl : lateOp f.op = f.late) (hm : handleOp f.op = f.mem)
    (hi : exec i s = issueCommand f.len f.op f.g f.p f.q s) (hroom : (cur s).capture ≠ none ∨ (cur s).vq.length < 4)
    (hq : QueuesReady f.srcs [] s) :
    let w := whoOf (operandState f.srcs s) s.me
    let miss := hostMiss (operandState f.srcs s) w.unit w.ctx (hdl (f.pOf s))
    ((∀ n, f.mem = true → miss = some n → (cur s).wait = .missed n) → IssuesAs i f s) ∧
      ∀ n, f.mem = true → miss = some n → (cur s).wait ≠ .missed n →
        exec i s = .next (pushOnce (.nodeCacheMiss n ⟨w.ctx, true⟩) (park (.fetch n (f.pOf s) none) s)) := by
  intro w miss
  have h := hi.trans (issueCommand_issues hl hm hroom hq f.len)
  dsimp only at h
  constructor
  · intro hw
    refine h.trans ?_
    split
    · next n hn =>
      split at hn
      · next hmem => exact if_pos (hw n hmem hn)
      · cases hn
    · rfl
  · intro n hmem hn hw
    rw [if_pos hmem, show hostMiss _ _ _ _ = some n from hn] at h
    dsimp only at h
    exact h.trans (if_neg hw)

theorem vectorIssues : VectorIssues := by
  intro i f hf _ s
  obtain ⟨r, hv, hexec⟩ := vecForm_row hf
  obtain ⟨hp, hq⟩ := vecForm_reads hf hv
  obtain ⟨hl, hm⟩ := vecForm_kind hf
  have hbase : encode i = encVArgs r f.g := by rw [encode, hv]
  have hwin : (cur s).vwin = true → exec i s = issueCommand f.len f.op f.g f.p f.q s := fun hw => by
    rw [hexec, issueVector, if_neg (by rw [hw]; exact Bool.noConfusion), hp, hq]
    rfl
  refine ⟨fun hw => ?_, fun hw hc hfull => (hwin hw).trans (issueCommand_full hc hfull ..),
    fun hw hroom hready => issueCommand_waits_or_issues hl hm (hwin hw) hroom hready⟩
  rw [TrapsHere, hexec, issueVector, if_pos (by rw [hw]; rfl), hbase]
  rfl

theorem kReg_eq (k : BitVec 2) : kReg k = k.setWidth 4 := by
  rw [kReg]
  exact BitVec.eq_of_toNat_eq (by have := k.isLt; rw [BitVec.toNat_append, BitVec.toNat_setWidth]; simp; omega)

/-- A mask command issues its operation once the thread has a window, outside a capture (R187, R375). -/
theorem maskForm_exec {i : Instr} {m : VOp × Bool × Reg × Reg × Reg × Bool × Bool × Bool} (h : maskForm i = some m) (s : State) :
    exec i s = withWindow (encode i).base s (issueCommand (maskVec m).len (maskVec m).op (maskVec m).g (maskVec m).p (maskVec m).q) := by
  cases i
  all_goals cases h
  all_goals simp only [← kReg_eq]
  all_goals rfl

theorem maskForm_kind {i : Instr} {m : VOp × Bool × Reg × Reg × Reg × Bool × Bool × Bool} (h : maskForm i = some m) :
    lateOp (maskVec m).op = (maskVec m).late ∧ handleOp (maskVec m).op = (maskVec m).mem := by
  cases i
  all_goals cases h
  all_goals exact ⟨rfl, rfl⟩

theorem withWindow_outside {s : State} (h : (cur s).vwin = false) (base : BitVec 32) (act : State → Out) :
    withWindow base s act = .next (enterTrap s.me ⟨1, 0, base.setWidth 64⟩ false 0 false (cur s).pc s) := by
  rw [withWindow, if_pos (by rw [h]; rfl)]
  rfl

theorem withWindow_open {s : State} (h : (cur s).vwin = true) (hc : (cur s).capture = none) (base : BitVec 32) (act : State → Out) :
    withWindow base s act = act s := by
  rw [withWindow, if_neg (by rw [h]; exact Bool.noConfusion), endCapture_of_none hc]

theorem maskIssues : MaskIssues := by
  intro i m hm s
  have hexec := maskForm_exec hm s
  obtain ⟨hl, hh⟩ := maskForm_kind hm
  refine ⟨fun hw => hexec.trans (withWindow_outside hw ..), fun hw hc hfull => ?_, fun hw hc hlen hready => ?_⟩
  · exact hexec.trans ((withWindow_open hw hc ..).trans (issueCommand_full hc hfull ..))
  · exact (issueCommand_waits_or_issues hl hh (hexec.trans (withWindow_open hw hc ..)) (.inr hlen) hready).1 fun n hmem => Bool.noConfusion hmem

/-! ### What becomes of a command issued (R353, R372) -/

theorem enqueue_captured {v : VCmd} {s : State} {c : Capture} (hc : (cur s).capture = some c) (hl : 1 < c.left) :
    enqueue v s = modTh s s.me fun th => { th with capture := some { c with left := c.left - 1, cmds := c.cmds ++ [v] } } := by
  unfold enqueue
  rw [hc]
  exact if_neg (by omega)

theorem getTh_endCapture {t : Nat} {s : State} {c : Capture} (hc : (getTh s t).capture = some c) :
    getTh (endCapture t s) t = { getTh s t with capture := none, vq := (getTh s t).vq.map fun e => (e.1, e.2.close c.cmds) } := by
  unfold endCapture
  rw [hc]
  refine (getTh_setTh_self s t _).trans ?_
  unfold closeCapture
  rw [hc]

/-- The last command of a capture makes the entry that its rep queued the repetition (R372). -/
theorem enqueue_closes {v : VCmd} {s : State} {c : Capture} {o n : Nat} (hc : (cur s).capture = some c) (hl : c.left ≤ 1)
    (hq : (cur s).vq = [(o, .capturing n)]) :
    (cur (enqueue v s)).capture = none ∧ (cur (enqueue v s)).vq = [(o, .rep (c.cmds ++ [v]) n 0)] := by
  have henq : enqueue v s = endCapture s.me (setTh s s.me { cur s with capture := some { c with left := c.left - 1, cmds := c.cmds ++ [v] } }) := by
    unfold enqueue
    rw [hc]
    exact if_pos hl
  have hth := getTh_endCapture (s := setTh s s.me { cur s with capture := some { c with left := c.left - 1, cmds := c.cmds ++ [v] } })
    (congrArg Thread.capture (getTh_setTh_self ..))
  have hme : (enqueue v s).me = s.me := by rw [henq]; exact machineKept_me (machineKept_endCapture ..)
  rw [cur, hme, henq, hth, getTh_setTh_self]
  refine ⟨rfl, ?_⟩
  rw [show ({ cur s with capture := some { c with left := c.left - 1, cmds := c.cmds ++ [v] } } : Thread).vq = [(o, .capturing n)] from hq]
  rfl

theorem foldl_skip {α β : Type} {f : β → α → β} {l : List α} (h : ∀ a ∈ l, ∀ b, f b a = b) (b : β) : l.foldl f b = b := by
  induction l with
  | nil => rfl
  | cons a l ih =>
    rw [List.foldl_cons, h a List.mem_cons_self]
    exact ih fun a ha => h a (List.mem_cons_of_mem _ ha)

theorem oldestSlot_none {s : State} {c : Nat} (h : ∀ n, n < 16 → (getTh s (16 * c + n)).vq = []) : oldestSlot s c = none := by
  unfold oldestSlot
  refine foldl_skip (fun n hn best => ?_) none
  rw [h n (List.mem_range.mp hn)]

/-- The one slot of a core with something queued is the oldest (R353). -/
theorem oldestSlot_one {s : State} {c m : Nat} {e : Nat × VEntry} {r : List (Nat × VEntry)} (hm : m < 16) (he : (getTh s (16 * c + m)).vq = e :: r)
    (h : ∀ n, n < 16 → n ≠ m → (getTh s (16 * c + n)).vq = []) : oldestSlot s c = some m := by
  obtain ⟨before, after, hsplit⟩ := List.append_of_mem (List.mem_range.mpr hm)
  have hnodup : (before ++ m :: after).Nodup := hsplit ▸ List.nodup_range
  have hlt : ∀ n ∈ before ++ m :: after, n < 16 := fun n hn => List.mem_range.mp (hsplit ▸ hn)
  have hbefore : ∀ n ∈ before, n ≠ m := fun n hn hnm => (List.nodup_append.mp hnodup).2.2 n hn m List.mem_cons_self hnm
  have hafter : ∀ n ∈ after, n ≠ m := fun n hn hnm => (List.nodup_cons.mp (List.nodup_append.mp hnodup).2.1).1 (hnm ▸ hn)
  unfold oldestSlot upTo
  rw [hsplit, List.foldl_append, foldl_skip (l := before) fun n hn best => by rw [h n (hlt n (List.mem_append_left _ hn)) (hbefore n hn)], List.foldl_cons, he]
  dsimp only
  exact foldl_skip (fun n hn best => by rw [h n (hlt n (List.mem_append_right _ (List.mem_cons_of_mem _ hn))) (hafter n hn)]) _

theorem feedVector_idle {s : State} {c : Nat} (h : ∀ n, n < 16 → (getTh s (16 * c + n)).vq = []) (fuel : Nat) : feedVector c fuel s = s := by
  cases fuel with
  | zero => rfl
  | succ fuel =>
    rw [feedVector, oldestSlot_none h]
    exact ite_self s

/-- A hardware thread's place: the core and the slot. -/
theorem slotOf_me {t : Nat} (h : t < 16384) : 16 * coreOf t + t % 16 = t := by
  rw [coreOf, if_pos (show t < hart0 from h)]
  omega

/-- The one entry queued in a core passes to the vector unit, which has room (R353). -/
theorem feedVector_one {s : State} {t o : Nat} {e : VEntry} (ht : t < 16384) (he : (getTh s t).vq = [(o, e)])
    (h : ∀ n, n < 16 → 16 * coreOf t + n ≠ t → (getTh s (16 * coreOf t + n)).vq = []) (hroom : (getCore s (coreOf t)).vqueue.length < 32) (fuel : Nat) :
    feedVector (coreOf t) (fuel + 1) s = push (entryEvent (coreOf t) e) (setCore (setTh s t { getTh s t with vq := [], vout := (getTh s t).vout + 1 })
      (coreOf t) { getCore s (coreOf t) with vqueue := (getCore s (coreOf t)).vqueue ++ [(t, e)] }) := by
  have hslot := slotOf_me ht
  have hold : oldestSlot s (coreOf t) = some (t % 16) :=
    oldestSlot_one (Nat.mod_lt _ (by decide)) (by rw [hslot, he]) fun n hn hne => h n hn fun heq => hne (by omega)
  rw [feedVector, if_pos hroom, hold]
  dsimp only
  rw [hslot, he]
  dsimp only
  refine (feedVector_idle (fun n hn => ?_) fuel).trans rfl
  by_cases hn' : 16 * coreOf t + n = t
  · rw [hn', getTh_push, modCore_eq, getTh_setCore, modTh_eq, getTh_setTh_self]
  · rw [getTh_push, modCore_eq, getTh_setCore, modTh_eq, getTh_setTh_other _ hn']
    exact h n hn hn'

/-- The state with an entry at the end of its thread's queue, numbered by the order of issue. -/
def queued (e : VEntry) (s : State) : State := { setTh s s.me { cur s with vq := (cur s).vq ++ [(s.uids, e)] } with uids := s.uids + 1 }

theorem joinQueue_eq (e : VEntry) (s : State) : joinQueue e s = feedVector (coreOf s.me) 64 (queued e s) := rfl

theorem getTh_queued_self (e : VEntry) (s : State) : getTh (queued e s) s.me = { cur s with vq := (cur s).vq ++ [(s.uids, e)] } := getTh_setTh_self ..

theorem getTh_queued_other (e : VEntry) (s : State) {u : Nat} (h : u ≠ s.me) : getTh (queued e s) u = getTh s u := getTh_setTh_other _ h _

theorem getCore_queued (e : VEntry) (s : State) (c : Nat) : getCore (queued e s) c = getCore s c := rfl

theorem machineKept_queued (e : VEntry) (s : State) : MachineKept s (queued e s) := rfl

theorem machineKept_joinQueue (e : VEntry) (s : State) : MachineKept s (joinQueue e s) :=
  machineKept_trans (machineKept_queued e s) (machineKept_feedVector ..)

theorem enqueue_outside {s : State} (hc : (cur s).capture = none) (v : VCmd) : enqueue v s = joinQueue (.cmd v) s := by
  unfold enqueue
  rw [hc]

/-- An entry of a thread whose core has nothing queued passes to the vector unit at once (R353). -/
theorem joinQueue_free {s : State} (h : UnitFree s) (e : VEntry) :
    joinQueue e s = push (entryEvent (coreOf s.me) e) (setCore (setTh (queued e s) s.me { cur s with vq := [], vout := (cur s).vout + 1 })
      (coreOf s.me) { getCore s (coreOf s.me) with vqueue := (getCore s (coreOf s.me)).vqueue ++ [(s.me, e)] }) := by
  obtain ⟨hme, hvq, hroom⟩ := h
  have hmine : (cur s).vq = [] := by
    have h := hvq (s.me % 16) (Nat.mod_lt _ (by decide))
    rwa [slotOf_me hme] at h
  have hq : (getTh (queued e s) s.me).vq = [(s.uids, e)] := by rw [getTh_queued_self, hmine]; rfl
  rw [joinQueue_eq, feedVector_one hme hq (fun n hn hne => ?_) (by rw [getCore_queued]; exact hroom), getTh_queued_self, getCore_queued]
  rw [getTh_queued_other e s hne]
  exact hvq n hn

theorem commandsQueue : CommandsQueue := by
  refine fun v s => ⟨fun c hc hl => enqueue_captured hc hl, fun c o n hc hl hq => enqueue_closes hc hl hq, fun hc hu => ?_⟩
  intro t
  have ht : t = _ := (enqueue_outside hc v).trans (joinQueue_free hu (.cmd v))
  have hkept : MachineKept s t := by rw [show t = joinQueue (.cmd v) s from enqueue_outside hc v]; exact machineKept_joinQueue ..
  have hth : cur t = { cur s with vq := [], vout := (cur s).vout + 1 } := by
    rw [cur, machineKept_me hkept, ht, getTh_push, getTh_setCore, getTh_setTh_self]
  refine ⟨?_, congrArg Thread.vq hth, congrArg Thread.vout hth, ?_, fun u hu => ?_, hkept⟩
  · rw [ht, getCore_push, getCore_setCore_self]
  · rw [ht]
    exact List.mem_append_right _ (List.mem_singleton_self _)
  · rw [ht, getTh_push, getTh_setCore, getTh_setTh_other _ hu, getTh_queued_other _ _ hu]

/-! ### Repetition and the vector fences (R372 to R374) -/

theorem vectorIdle_iff {th : Thread} (hc : th.capture = none) : vectorIdle th = true ↔ th.vq = [] ∧ th.vout = 0 := by
  rw [vectorIdle, hc, Option.isNone_none, Bool.and_true, Bool.and_eq_true, List.isEmpty_iff, beq_iff_eq]

theorem vectorControl : VectorControl := by
  intro s q c a d
  refine ⟨fun hw i hi => ?_, fun hw hc => ⟨fun hlen hq => ?_, fun hfull => ?_, ?_⟩⟩
  · rcases hi with rfl | rfl | rfl | rfl
    · exact (exec_rep ..).trans (withWindow_outside hw ..)
    · exact (exec_repWait ..).trans (withWindow_outside hw ..)
    · exact (exec_vfence ..).trans (withWindow_outside hw ..)
    · exact (exec_vbusy ..).trans (withWindow_outside hw ..)
  · rw [exec_rep, execRep, withWindow_open hw hc, if_neg (by omega), withRegs_ready hq, operandState_me]
    rfl
  · rw [exec_rep, execRep, withWindow_open hw hc, if_pos hfull]
  · intro idle
    have hidle : vectorIdle (cur s) = true ↔ idle := vectorIdle_iff hc
    refine ⟨fun hi => ?_, fun hi => ⟨fun hf => ?_, ?_⟩⟩
    · have hv := hidle.mpr hi
      rw [exec_repWait, execRepWait, withWindow_open hw hc, exec_vfence, execVfence, withWindow_open hw hc, exec_vbusy, execVbusy, withWindow_open hw hc, hv]
      exact ⟨rfl, rfl, rfl⟩
    · have hv : vectorIdle (cur s) = false := Bool.eq_false_iff.mpr fun h => hi (hidle.mp h)
      rw [exec_repWait, execRepWait, withWindow_open hw hc, exec_vfence, execVfence, withWindow_open hw hc, hv, unlessFault, hf]
      exact ⟨rfl, rfl⟩
    · have hv : vectorIdle (cur s) = false := Bool.eq_false_iff.mpr fun h => hi (hidle.mp h)
      rw [exec_vbusy, execVbusy, withWindow_open hw hc, hv]
      rfl

/-- Settles O42: vector and mask commands issue, wait or are illegal, and queue, as R187, R353 and R372 to R375 say. -/
theorem vectorIssue : Obligations.VectorIssue := ⟨vectorIssues, commandsQueue, vectorControl, maskIssues⟩

end Sys2Proof.Machine
end

section
/-! The vector unit (O41). -/

namespace Sys2Proof.Machine

open Sys2Proof.Claims

/-! ### Passing entries to the unit (R353) -/

/-- The state after slot n's oldest entry has passed to its core's vector unit. -/
def fedOne (c n : Nat) (e : VEntry) (rest : List (Nat × VEntry)) (s : State) : State :=
  push (entryEvent c e) (setCore (setTh s (16 * c + n) { getTh s (16 * c + n) with vq := rest, vout := (getTh s (16 * c + n)).vout + 1 }) c
    { getCore s c with vqueue := (getCore s c).vqueue ++ [(16 * c + n, e)] })

/-- What each entry passed keeps, feeding keeps. -/
theorem feedVector_keeps {c : Nat} {P : State → Prop}
    (h : ∀ s n o e rest, (getTh s (16 * c + n)).vq = (o, e) :: rest → P s → P (fedOne c n e rest s)) (fuel : Nat) :
    ∀ s, P s → P (feedVector c fuel s) := by
  induction fuel with
  | zero => exact fun s hs => hs
  | succ fuel ih =>
    intro s hs
    unfold feedVector
    split
    · split
      · exact hs
      · next n _ =>
        split
        · exact hs
        · next o e rest hvq => exact ih _ (h s n o e rest hvq hs)
    · exact hs

theorem pending_feedVector {c : Nat} {e : Instr} {s : State} (h : e ∈ s.pending) (fuel : Nat) : e ∈ (feedVector c fuel s).pending :=
  feedVector_keeps (P := fun s => e ∈ s.pending) (fun _ _ _ _ _ _ h => List.mem_append_left _ h) fuel s h

/-- Feeding moves entries from a thread's queue to its unit, and changes nothing else of the thread (R353). -/
theorem getTh_feedVector (c fuel t : Nat) (s : State) :
    ∃ vq vout, getTh (feedVector c fuel s) t = { getTh s t with vq := vq, vout := vout } := by
  refine feedVector_keeps (P := fun s' => ∃ vq vout, getTh s' t = { getTh s t with vq := vq, vout := vout }) ?_ fuel s ⟨_, _, rfl⟩
  rintro s' n o e rest _ ⟨vq, vout, hs⟩
  by_cases hn : t = 16 * c + n
  · subst hn
    rw [fedOne, getTh_push, getTh_setCore, getTh_setTh_self, hs]
    exact ⟨_, _, rfl⟩
  · rw [fedOne, getTh_push, getTh_setCore, getTh_setTh_other _ hn]
    exact ⟨vq, vout, hs⟩

/-- A thread with nothing queued passes nothing. -/
theorem feedVector_nothing {c t : Nat} {s : State} (h : (getTh s t).vq = []) (hq : ∀ e ∈ (getCore s c).vqueue, e.1 ≠ t) (fuel : Nat) :
    getTh (feedVector c fuel s) t = getTh s t ∧ ∀ e ∈ (getCore (feedVector c fuel s) c).vqueue, e.1 ≠ t := by
  refine feedVector_keeps (P := fun s' => getTh s' t = getTh s t ∧ ∀ e ∈ (getCore s' c).vqueue, e.1 ≠ t) ?_ fuel s ⟨rfl, hq⟩
  rintro s' n o e rest hvq ⟨hth, hqueue⟩
  have hn : t ≠ 16 * c + n := fun hn => by
    rw [← hn, hth, h] at hvq
    cases hvq
  refine ⟨?_, fun x hx => ?_⟩
  · rw [fedOne, getTh_push, getTh_setCore, getTh_setTh_other _ hn]
    exact hth
  · rw [fedOne, getCore_push, getCore_setCore_self] at hx
    rcases List.mem_append.mp hx with hx | hx
    · exact hqueue x hx
    · rw [List.mem_singleton.mp hx]
      exact hn.symm

/-! ### A command runs -/

theorem threads_passResv (t word : Nat) (s : State) : (passResv t word s).threads = s.threads := by
  unfold passResv
  dsimp only
  split
  · split <;> rfl
  · rfl

theorem cores_passResv (t word : Nat) (s : State) : (passResv t word s).cores = s.cores := by
  unfold passResv
  dsimp only
  split
  · split <;> rfl
  · rfl

theorem threads_passTag (tag : Nat) (words : List Nat) (s : State) : (passTag tag words s).threads = s.threads := by
  unfold passTag
  split
  · rfl
  · exact foldl_rel (R := fun a b : State => b.threads = a.threads) (fun _ => rfl) (fun _ _ _ h k => k.trans h) (fun _ _ => threads_passResv ..) words s

theorem cores_passTag (tag : Nat) (words : List Nat) (s : State) : (passTag tag words s).cores = s.cores := by
  unfold passTag
  split
  · rfl
  · exact foldl_rel (R := fun a b : State => b.cores = a.cores) (fun _ => rfl) (fun _ _ _ h k => k.trans h) (fun _ _ => cores_passResv ..) words s

theorem getTh_passTag (tag : Nat) (words : List Nat) (s : State) (t : Nat) : getTh (passTag tag words s) t = getTh s t := by
  unfold getTh
  rw [threads_passTag]

theorem getCore_passTag (tag : Nat) (words : List Nat) (s : State) (c : Nat) : getCore (passTag tag words s) c = getCore s c := by
  unfold getCore
  rw [cores_passTag]

/-- What the unit's queue holds once a command has run. -/
def ranCommand (core t : Nat) (c : VCmd) (fl : FFlags) (r : Option Word) (s : State) : State :=
  push (.vectorCommandRetire core) (setCore s core { getCore s core with vqueue := (t, .ended c fl r) :: (getCore s core).vqueue.drop 1 })

section
variable {core t : Nat} {c : VCmd} {s : State} {rest : List (Nat × VEntry)} (hq : (getCore s core).vqueue = (t, .cmd c) :: rest)
include hq

theorem vectorCommandExec_register (hm : memoryOp t c s = none) : ∃ words, exec (.vectorCommandExec core) s =
    .next (ranCommand core t c (vectorOp c (getTh s t)).2.1 (vectorOp c (getTh s t)).2.2 (passTag (commandTag core) words (setTh s t (vectorOp c (getTh s t)).1))) := by
  rw [exec_vectorCommandExec, execVectorCommandExec, hq]
  dsimp only
  rw [runCommand, hm]
  exact ⟨_, rfl⟩

theorem vectorCommandExec_memory {s1 : State} (hm : memoryOp t c s = some (none, s1)) : ∃ words, exec (.vectorCommandExec core) s =
    .next (ranCommand core t c fNone none (passTag (commandTag core) words s1)) := by
  rw [exec_vectorCommandExec, execVectorCommandExec, hq]
  dsimp only
  rw [runCommand, hm]
  exact ⟨_, rfl⟩

theorem vectorCommandExec_fault {s1 : State} {r : Nat} {a : Word} (hm : memoryOp t c s = some (some (r, a), s1)) :
    ∃ words, exec (.vectorCommandExec core) s = .next (vectorFault core t c ⟨0x0C, r, a⟩ (passTag (commandTag core) words s1)) := by
  rw [exec_vectorCommandExec, execVectorCommandExec, hq]
  dsimp only
  rw [runCommand, hm]
  exact ⟨_, rfl⟩

end

theorem getTh_refuse (t : Nat) (pc : Word) (seq : Nat) (i : TrapInfo) (s : State) :
    getTh (refuse t pc seq i s) t = { getTh s t with refused := (getTh s t).refused ++ [⟨pc, seq, i⟩] } := getTh_setTh_self ..

theorem getTh_dropLate (t : Nat) (seqs : List Nat) (s : State) :
    getTh (dropLate t seqs s) t = { getTh s t with late := (getTh s t).late.filter fun l => l.done || !seqs.contains l.seq } := getTh_setTh_self ..

/-- A fault discards the thread's later commands and is refused as a returned trap (R193, R355). -/
theorem vectorFault_leaves (core t : Nat) (c : VCmd) (f : TrapInfo) (s : State) :
    (vectorFault core t c f s).mem = s.mem ∧ (getTh (vectorFault core t c f s) t).vq = [] ∧ (getTh (vectorFault core t c f s) t).capture = none ∧
      (∀ e ∈ (getCore (vectorFault core t c f s) core).vqueue, e.1 ≠ t) ∧ ⟨c.pc, c.seq, f⟩ ∈ (getTh (vectorFault core t c f s) t).refused := by
  have hq : ∀ e ∈ (getCore s core).vqueue.filter (·.1 != t), e.1 ≠ t := fun e he => bne_iff_ne.mp (List.mem_filter.mp he).2
  unfold vectorFault
  dsimp only
  generalize List.map VCmd.seq _ = seqs
  generalize hs2 : ({ modTh (modCore s core _) t _ with pending := _ } : State) = s2
  have hcore : getCore s2 core = { getCore s core with vqueue := (getCore s core).vqueue.filter (·.1 != t) } := by
    subst hs2
    exact getCore_setCore_self s core _
  have hth : getTh s2 t = { getTh s t with vq := [], vout := 0, capture := none, lastRep := if c.it = 0 then (getTh s t).lastRep else c.it - 1 } := by
    subst hs2
    exact getTh_setTh_self ..
  have hfaulted : getTh (refuse t c.pc c.seq f (dropLate t seqs s2)) t =
      { getTh s2 t with late := (getTh s2 t).late.filter fun l => l.done || !seqs.contains l.seq, refused := (getTh s2 t).refused ++ [⟨c.pc, c.seq, f⟩] } := by
    rw [getTh_refuse, getTh_dropLate]
  obtain ⟨hkept, hqueue⟩ := feedVector_nothing (c := core) (t := t) (s := refuse t c.pc c.seq f (dropLate t seqs s2)) (by rw [hfaulted, hth])
    (by rw [show getCore (refuse t c.pc c.seq f (dropLate t seqs s2)) core = getCore s2 core from rfl, hcore]; exact hq) 64
  rw [hkept, hfaulted]
  refine ⟨?_, by rw [hth], by rw [hth], hqueue, List.mem_append_right _ (List.mem_singleton_self _)⟩
  rw [mem_feedVector]
  subst hs2
  rfl

theorem retireFlags_bit (s : State) (fl : BitVec 5) (th : Thread) {n : Nat} (hn : n < 64) : (retireFlags s fl th).thst.getLsbD n =
    (th.thst.getLsbD n || (th.thstAt != s.cycle + 1 && decide (6 ≤ n ∧ n < 11) && fl.getLsbD (n - 6))) := by
  unfold retireFlags
  split
  · next h => rw [h, bne_self_eq_false, Bool.false_and, Bool.false_and, Bool.or_false]
  · next h =>
    rw [bne_iff_ne.mpr h, Bool.true_and]
    simp only [orFlags, BitVec.getLsbD_or, BitVec.getLsbD_shiftLeft, BitVec.getLsbD_setWidth]
    by_cases h6 : n < 6
    · simp [hn, h6]
    · have h5 : n - 6 < 64 := by omega
      by_cases h11 : n < 11
      · simp [hn, h6, h5, h11, Nat.le_of_not_lt h6]
      · simp [hn, h6, h5, h11, BitVec.getLsbD_of_ge fl (n - 6) (by omega)]

/-- The result of a scalar command: the late result is known, and stays open where a later iteration writes it again (R157, R372). -/
def wroteLate (t seq : Nat) (last : Bool) (r : Option Word) (s : State) : State :=
  match r with
  | some v => if last then resolveLate t seq v s else writeLate t seq v s
  | none => s

theorem getTh_wroteLate (t seq : Nat) (last : Bool) (r : Option Word) (s : State) :
    ∃ late, getTh (wroteLate t seq last r s) t = { getTh s t with late := late } := by
  unfold wroteLate
  split
  · split
    · exact ⟨_, getTh_setTh_self ..⟩
    · exact ⟨_, getTh_setTh_self ..⟩
  · exact ⟨_, rfl⟩

theorem getTh_wroteLate_other {t u : Nat} (h : u ≠ t) (seq : Nat) (last : Bool) (r : Option Word) (s : State) :
    getTh (wroteLate t seq last r s) u = getTh s u := by
  unfold wroteLate
  split
  · split
    · exact getTh_setTh_other _ h _
    · exact getTh_setTh_other _ h _
  · rfl

theorem wroteLate_result {t : Nat} {l : Late} {v : Word} {s : State} (hl : l ∈ (getTh s t).late) (hd : l.done = false) (last : Bool) :
    Instr.lateResultReturn t none ∈ (wroteLate t l.seq last (some v) s).pending ∧
      { l with v := v, done := true } ∈ (getTh (wroteLate t l.seq last (some v) s) t).late ∧
      (last = false → l ∈ (getTh (wroteLate t l.seq last (some v) s) t).late) := by
  cases last with
  | true =>
    refine ⟨List.mem_append_right _ (List.mem_singleton_self _), ?_, Bool.noConfusion⟩
    rw [show getTh (wroteLate t l.seq true (some v) s) t = _ from getTh_setTh_self ..]
    exact List.mem_map.mpr ⟨l, hl, if_pos ⟨rfl, hd⟩⟩
  | false =>
    rw [show getTh (wroteLate t l.seq false (some v) s) t = _ from getTh_setTh_self ..]
    have hpair : ∀ x, x ∈ [{ l with v := v, done := true }, l] →
        x ∈ (getTh s t).late.flatMap fun k => if k.seq = l.seq ∧ k.done = false then [{ k with v := v, done := true }, k] else [k] := fun x hx =>
      List.mem_flatMap.mpr ⟨l, hl, by rw [if_pos ⟨rfl, hd⟩]; exact hx⟩
    exact ⟨List.mem_append_right _ (List.mem_singleton_self _), hpair _ List.mem_cons_self, fun _ => hpair _ (List.mem_cons_of_mem _ (List.mem_singleton_self _))⟩

/-- The thread of a command that has retired, before its result. -/
def retiredTh (s : State) (c : VCmd) (fl : BitVec 5) (th : Thread) : Thread :=
  countEv 8 1 { retireFlags s fl th with vout := if c.it = 0 then th.vout - 1 else th.vout }

theorem vectorCommandRetire_ends {core t : Nat} {c : VCmd} {fl : BitVec 5} {r : Option Word} {rest : List (Nat × VEntry)} {s : State}
    (hq : (getCore s core).vqueue = (t, .ended c fl r) :: rest) : exec (.vectorCommandRetire core) s =
      .next (feedVector core 64 (wroteLate t c.seq c.last r (setTh (setCore s core { getCore s core with vqueue := rest }) t (retiredTh s c fl (getTh s t))))) := by
  rw [exec_vectorCommandRetire, execVectorCommandRetire, hq]
  rfl

theorem late_retireFlags (s : State) (fl : BitVec 5) (th : Thread) : (retireFlags s fl th).late = th.late := by
  unfold retireFlags
  split <;> rfl

theorem vq_retireFlags (s : State) (fl : BitVec 5) (th : Thread) : (retireFlags s fl th).vq = th.vq := by
  unfold retireFlags
  split <;> rfl

theorem vectorCommandRetires {core t : Nat} {c : VCmd} {fl : BitVec 5} {r : Option Word} {rest : List (Nat × VEntry)} {s : State}
    (hq : (getCore s core).vqueue = (t, .ended c fl r) :: rest) : ∃ u, exec (.vectorCommandRetire core) s = .next u ∧
      (∀ n, n < 64 → (getTh u t).thst.getLsbD n =
        ((getTh s t).thst.getLsbD n || ((getTh s t).thstAt != s.cycle + 1 && decide (6 ≤ n ∧ n < 11) && fl.getLsbD (n - 6)))) ∧
      (∀ v l, r = some v → l ∈ (getTh s t).late → l.seq = c.seq → l.done = false → Instr.lateResultReturn t none ∈ u.pending ∧
        { l with v := v, done := true } ∈ (getTh u t).late ∧ (c.last = false → l ∈ (getTh u t).late)) ∧
      ((∀ n, n < 16 → (getTh s (16 * core + n)).vq = []) → (getTh u t).vout = (getTh s t).vout - if c.it = 0 then 1 else 0) ∧ SameBytes s u := by
  have hexec := vectorCommandRetire_ends hq
  generalize hs1 : setTh (setCore s core { getCore s core with vqueue := rest }) t (retiredTh s c fl (getTh s t)) = s1 at hexec
  have hth : getTh s1 t = retiredTh s c fl (getTh s t) := by rw [← hs1, getTh_setTh_self]
  obtain ⟨late, hlate⟩ := getTh_wroteLate t c.seq c.last r s1
  obtain ⟨vq, vout, hfed⟩ := getTh_feedVector core 64 t (wroteLate t c.seq c.last r s1)
  refine ⟨_, hexec, fun n hn => ?_, fun v l hr hl hseq hd => ?_, fun hvq => ?_,
    sameBytes_of_keeps (exec_vectorCommandRetire ..) (keeps_execVectorCommandRetire core rfl) hexec⟩
  · rw [hfed, hlate, hth]
    exact retireFlags_bit s fl (getTh s t) hn
  · subst hr
    have hl1 : l ∈ (getTh s1 t).late := by
      rw [hth]
      exact (late_retireFlags s fl (getTh s t)).symm ▸ hl
    obtain ⟨hpend, hdone, hopen⟩ := wroteLate_result (v := v) hl1 hd c.last
    rw [hfed, ← hseq]
    exact ⟨pending_feedVector hpend 64, hdone, hopen⟩
  · have hidle : ∀ n, n < 16 → (getTh (wroteLate t c.seq c.last r s1) (16 * core + n)).vq = [] := fun n hn => by
      by_cases ht : 16 * core + n = t
      · rw [ht, hlate, hth]
        exact (vq_retireFlags s fl (getTh s t)).trans (ht ▸ hvq n hn)
      · rw [getTh_wroteLate_other ht, ← hs1, getTh_setTh_other _ ht]
        exact hvq n hn
    rw [feedVector_idle hidle, hlate, hth]
    exact (apply_ite (fun x => (getTh s t).vout - x) (c.it = 0) 1 0).symm

/-! ### Repetitions (R372) -/

section
variable {core t n i : Nat} {cmds : List VCmd} {rest : List (Nat × VEntry)} {s : State} (hq : (getCore s core).vqueue = (t, .rep cmds n i) :: rest)
include hq

theorem repSequenceStart_iterates (hi : i < n) : ∃ u, exec (.repSequenceStart core) s = .next u ∧ (getCore u core).vqueue =
    cmds.map (fun c => (t, VEntry.cmd { c with it := i + 1, last := i + 1 == n })) ++ (t, .rep cmds n (i + 1)) :: rest ∧ u.threads = s.threads := by
  rw [exec_repSequenceStart, execRepSequenceStart, hq]
  dsimp only
  rw [if_pos hi, foldl_push]
  refine ⟨_, rfl, ?_, rfl⟩
  exact congrArg CoreSt.vqueue (getCore_setCore_self s core _)

theorem repSequenceStart_ends (hi : n ≤ i) : ∃ u, exec (.repSequenceStart core) s = .next u ∧ (getTh u t).lastRep = n ∧
    (n = 0 → ∀ l ∈ (getTh u t).late, l.done = true ∨ l.seq ∉ cmds.map (·.seq)) := by
  rw [exec_repSequenceStart, execRepSequenceStart, hq]
  dsimp only
  rw [if_neg (by omega)]
  refine ⟨_, rfl, ?_, fun hn l hl => ?_⟩
  · obtain ⟨vq, vout, hfed⟩ := getTh_feedVector core 64 t _
    rw [hfed]
    split
    · rw [getTh_dropLate]
      exact congrArg Thread.lastRep (getTh_setTh_self ..)
    · exact congrArg Thread.lastRep (getTh_setTh_self ..)
  · obtain ⟨vq, vout, hfed⟩ := getTh_feedVector core 64 t _
    rw [hfed, if_pos hn, getTh_dropLate] at hl
    have hkept := (List.mem_filter.mp hl).2
    rcases Bool.or_eq_true_iff.mp hkept with hd | hd
    · exact .inl hd
    · exact .inr fun hmem => by
        rw [List.contains_iff_mem.mpr hmem] at hd
        exact Bool.noConfusion hd

end

/-- Settles O41: commands run and retire, faults discard, and repetitions iterate, as R193, R353, R355 and R372 say. -/
theorem vectorUnit : Obligations.VectorUnit := by
  intro core s t rest
  refine ⟨fun c hq => ⟨fun x hm hx => ?_, fun s1 hm => ?_, fun r a s1 hm => ?_⟩, fun c fl r hq => vectorCommandRetires hq,
    fun cmds n i hq => ⟨fun hi => ?_, fun hi => ?_⟩⟩
  · obtain ⟨words, hexec⟩ := vectorCommandExec_register hq hm
    rw [hx] at hexec
    refine ⟨_, hexec, ?_, ?_, List.mem_append_right _ (List.mem_singleton_self _), fun k => rdByte_congr (mem_passTag ..) k⟩
    · rw [ranCommand, getCore_push, getCore_setCore_self, getCore_passTag, getCore_setTh, hq]
      rfl
    · rw [ranCommand, getTh_push, getTh_setCore, getTh_passTag, getTh_setTh_self]
  · obtain ⟨words, hexec⟩ := vectorCommandExec_memory hq hm
    exact ⟨_, hexec, mem_passTag .., by rw [ranCommand, getTh_push, getTh_setCore, getTh_passTag]⟩
  · obtain ⟨words, hexec⟩ := vectorCommandExec_fault hq hm
    obtain ⟨hmem, hleft⟩ := vectorFault_leaves core t c ⟨0x0C, r, a⟩ (passTag (commandTag core) words s1)
    exact ⟨_, hexec, hmem.trans (mem_passTag ..), hleft⟩
  · obtain ⟨u, hexec, hvq, hth⟩ := repSequenceStart_iterates hq hi
    exact ⟨u, hexec, hvq, hth, sameBytes_of_keeps (exec_repSequenceStart ..) (keeps_execRepSequenceStart core rfl) hexec⟩
  · obtain ⟨u, hexec, hlast, hdrop⟩ := repSequenceStart_ends hq hi
    exact ⟨u, hexec, hlast, hdrop, sameBytes_of_keeps (exec_repSequenceStart ..) (keeps_execRepSequenceStart core rfl) hexec⟩

end Sys2Proof.Machine
end

section
/-! Vector registers by lanes (R352, R354). -/

namespace Sys2Proof.Machine

open Sys2Proof.Claims

/-! ### Elements of a register -/

theorem lane_zero (w v : Nat) : Claims.lane w 0 v = v % 2 ^ w := by rw [Claims.lane, Nat.mul_zero, Nat.pow_zero, Nat.div_one]

theorem lane_succ (w j v : Nat) : Claims.lane w (j + 1) v = Claims.lane w j (v / 2 ^ w) := by
  rw [Claims.lane, Claims.lane, Nat.mul_succ, Nat.add_comm, Nat.pow_add, Nat.div_div_eq_div_mul]

theorem lane_lt (w j v : Nat) : Claims.lane w j v < 2 ^ w := Nat.mod_lt _ (Nat.two_pow_pos w)

theorem split_eq (w n : Nat) : ∀ v, split w n v = (List.range n).map (Claims.lane w · v) := by
  induction n with
  | zero => exact fun _ => rfl
  | succ n ih =>
    intro v
    rw [split, ih, List.range_succ_eq_map, List.map_cons, List.map_map, lane_zero]
    exact congrArg _ (List.map_congr_left fun j _ => (lane_succ w j v).symm)

theorem joinEls_lt (w : Nat) (l : List Nat) : joinEls w l < 2 ^ (w * l.length) := by
  induction l with
  | nil => exact Nat.one_pos
  | cons x l ih =>
    have hx : x % 2 ^ w < 2 ^ w := Nat.mod_lt _ (Nat.two_pow_pos w)
    rw [joinEls, List.length_cons, Nat.mul_succ, Nat.add_comm (w * l.length), Nat.pow_add]
    calc x % 2 ^ w + 2 ^ w * joinEls w l < 2 ^ w + 2 ^ w * joinEls w l := Nat.add_lt_add_right hx _
      _ = 2 ^ w * (joinEls w l + 1) := by rw [Nat.mul_add_one, Nat.add_comm]
      _ ≤ 2 ^ w * 2 ^ (w * l.length) := Nat.mul_le_mul_left _ ih

theorem lane_joinEls (w : Nat) (l : List Nat) : ∀ j, Claims.lane w j (joinEls w l) = l.getD j 0 % 2 ^ w := by
  induction l with
  | nil =>
    intro j
    rw [joinEls, Claims.lane, Nat.zero_div]
    rfl
  | cons x l ih =>
    intro j
    rw [joinEls]
    cases j with
    | zero =>
      rw [lane_zero, Nat.add_mul_mod_self_left, Nat.mod_mod]
      rfl
    | succ j =>
      rw [lane_succ, Nat.add_mul_div_left _ _ (Nat.two_pow_pos w), Nat.div_eq_of_lt (Nat.mod_lt _ (Nat.two_pow_pos w)), Nat.zero_add, ih]
      rfl

theorem getD_map_range (F : Nat → Nat) {n j : Nat} (h : j < n) : ((List.range n).map F).getD j 0 = F j := by
  rw [List.getD_eq_getElem _ _ (by rw [List.length_map, List.length_range]; exact h), List.getElem_map, List.getElem_range]

theorem elems_eq (w : Nat) (v : VReg) : elems w v = (List.range (4096 / w)).map (Claims.lane w · v.toNat) := split_eq ..

/-- The widths divide a register into whole lanes. -/
theorem width_lanes (t : VTy) : t.width * (4096 / t.width) = 4096 := by cases t <;> rfl

theorem toNat_ofNat_lt {w k n : Nat} (hk : k = w) (h : n < 2 ^ k) : (BitVec.ofNat w n).toNat = n := by
  rw [BitVec.toNat_ofNat, ← hk, Nat.mod_eq_of_lt h]

theorem lane_ofElems {t : VTy} (F : Nat → Nat) {j : Nat} (h : j < 4096 / t.width) :
    Claims.lane t.width j (ofElems t.width ((List.range (4096 / t.width)).map F)).toNat = F j % 2 ^ t.width := by
  have hlt := joinEls_lt t.width ((List.range (4096 / t.width)).map F)
  rw [List.length_map, List.length_range] at hlt
  rw [ofElems, toNat_ofNat_lt (width_lanes t) hlt, lane_joinEls, getD_map_range F h]

/-! ### Registers of the window -/

theorem getV_setV_self (r : Nat) (v : VReg) (th : Thread) : getV (setV r v th) r = v := spGet_spSet_self ..

theorem getV_setV_other {r n : Nat} (hr : r < 16) (hn : n < 16) (h : n ≠ r) (v : VReg) (th : Thread) : getV (setV r v th) n = getV th n :=
  spGet_spSet_other _ _ (by rwa [Nat.mod_eq_of_lt hn, Nat.mod_eq_of_lt hr]) _

theorem getK_setK_self (r : Nat) (v : BitVec 1024) (th : Thread) : getK (setK r v th) r = v := spGet_spSet_self ..

theorem vdOf_lt (c : VCmd) : vdOf c < 16 := Nat.mod_lt _ (by decide)

theorem onlyV_setV (c : VCmd) (v : VReg) (th : Thread) : OnlyV (vdOf c) th (setV (vdOf c) v th) :=
  ⟨rfl, fun _ hn h => getV_setV_other (vdOf_lt c) hn h v th⟩

theorem onlyK_setK (r : Nat) (v : BitVec 1024) (th : Thread) : OnlyK r th (setK r v th) :=
  ⟨rfl, fun n hn h => spGet_spSet_other _ _ (by rwa [Nat.mod_eq_of_lt hn]) _⟩

theorem weave_one (n : Nat) : ∀ l : List Nat, l.length = n → weave n [l] = l := by
  induction n with
  | zero => exact fun l h => (List.length_eq_zero_iff.mp h).symm
  | succ n ih =>
    intro l h
    cases l with
    | nil => cases h
    | cons x l => exact congrArg (x :: ·) (ih l (Nat.succ.inj h))

theorem every_one (n : Nat) : ∀ l : List Nat, l.length = n → every 1 n l = l := by
  induction n with
  | zero => exact fun l h => (List.length_eq_zero_iff.mp h).symm
  | succ n ih =>
    intro l h
    cases l with
    | nil => cases h
    | cons x l => exact congrArg (x :: ·) (ih l (Nat.succ.inj h))

theorem groupElems_one (th : Thread) (w r : Nat) : groupElems th w 1 r = (List.range (4096 / w)).map (Claims.lane w · (getV th r).toNat) := by
  have hlen : (elems w (getV th r)).length = 4096 / w := by rw [elems_eq, List.length_map, List.length_range]
  rw [← elems_eq]
  exact weave_one _ _ hlen

theorem setGroup_one (w r : Nat) {l : List Nat} (h : l.length = 4096 / w) (th : Thread) : setGroup w 1 r l th = setV r (ofElems w l) th := by
  rw [setGroup]
  exact congrArg (fun l => setV r (ofElems w l) th) (every_one _ l h)

/-! ### Masked lists -/

theorem zip3_map {α : Type} (f : Nat → Nat → Nat → Nat × FFlags) (A B C : α → Nat) (l : List α) :
    zip3 f (l.map A) (l.map B) (l.map C) = l.map fun j => f (A j) (B j) (C j) := by
  induction l with
  | nil => rfl
  | cons a l ih => exact congrArg (f (A a) (B a) (C a) :: ·) ih

/-- The flags of the selected lanes. -/
def laneFlags {α : Type} (S : α → Bool) (R : α → Nat × FFlags) : List α → FFlags
  | [] => fNone
  | a :: l => if S a then (R a).2 ||| laneFlags S R l else laneFlags S R l

theorem merge_map {α : Type} (S : α → Bool) (O : α → Nat) (R : α → Nat × FFlags) (l : List α) :
    merge (l.map S) (l.map O) (l.map R) = (l.map fun j => if S j then (R j).1 else O j, laneFlags S R l) := by
  induction l with
  | nil => rfl
  | cons a l ih =>
    simp only [List.map_cons, merge, ih, laneFlags]
    split <;> rfl

theorem laneFlags_bit {α : Type} (S : α → Bool) (R : α → Nat × FFlags) (l : List α) (n : Nat) :
    (laneFlags S R l).getLsbD n = l.any fun j => S j && (R j).2.getLsbD n := by
  induction l with
  | nil => exact BitVec.getLsbD_zero
  | cons a l ih =>
    rw [laneFlags, List.any_cons]
    split
    · next h => rw [BitVec.getLsbD_or, ih, h, Bool.true_and]
    · next h => rw [ih, Bool.eq_false_iff.mpr h, Bool.false_and, Bool.false_or]

theorem laneFlags_none {α : Type} {S : α → Bool} {R : α → Nat × FFlags} (h : ∀ j, (R j).2 = fNone) (l : List α) : laneFlags S R l = fNone := by
  induction l with
  | nil => rfl
  | cons a l ih =>
    rw [laneFlags, h, ih]
    exact ite_self _

theorem selFrom_eq (c : VCmd) (th : Thread) (n : Nat) : selFrom c th 0 n = (List.range n).map (selects c th) := by
  have hall : List.replicate n true = (List.range n).map fun _ => true := by rw [List.map_const', List.length_range]
  unfold selFrom selects
  cases c.g.e with
  | none => exact hall
  | some e =>
    dsimp only
    cases e.me with
    | false => exact hall
    | true => exact List.map_congr_left fun j _ => by rw [Nat.zero_add]; rfl

/-! ### Commands on lanes -/

/-- A command that writes the selected lanes of vd, with the flags of those. -/
def writesLanes (c : VCmd) (th : Thread) (R : Nat → Nat × FFlags) : VOut :=
  (setV (vdOf c) (ofElems c.g.ty.width ((List.range (4096 / c.g.ty.width)).map fun j =>
      if selects c th j then (R j).1 else laneV th c.g.ty.width (vdOf c) j)) th,
    laneFlags (selects c th) R (List.range (4096 / c.g.ty.width)), none)

theorem putV_eq (c : VCmd) (th : Thread) (R : Nat → Nat × FFlags) :
    putV c th c.g.ty.width ((List.range (4096 / c.g.ty.width)).map R) = writesLanes c th R := by
  unfold putV putGroup
  rw [List.length_map, List.length_range, selFrom_eq, groupElems_one, merge_map]
  dsimp only
  rw [setGroup_one _ _ (by rw [List.length_map, List.length_range])]
  rfl

theorem bElems_eq (c : VCmd) (th : Thread) (w : Nat) : bElems c th w = (List.range (4096 / w)).map (laneB c th w) := by
  unfold bElems laneB
  split
  · rw [List.map_const', List.length_range]
  · exact elems_eq ..

theorem elementOp_eq (c : VCmd) (th : Thread) (f : Nat → Nat → Nat → Nat × FFlags) : elementOp c th f =
    writesLanes c th fun j => f (laneV th c.g.ty.width (vdOf c) j) (laneV th c.g.ty.width (vaOf c) j) (laneB c th c.g.ty.width j) := by
  unfold elementOp
  dsimp only
  rw [bElems_eq, elems_eq, elems_eq, zip3_map]
  exact putV_eq ..

theorem laneV_writesLanes (c : VCmd) (th : Thread) (R : Nat → Nat × FFlags) {j : Nat} (h : j < 4096 / c.g.ty.width) :
    laneV (writesLanes c th R).1 c.g.ty.width (vdOf c) j =
      if selects c th j then (R j).1 % 2 ^ c.g.ty.width else laneV th c.g.ty.width (vdOf c) j := by
  unfold writesLanes
  rw [laneV, getV_setV_self, lane_ofElems _ h]
  split
  · rfl
  · exact Nat.mod_eq_of_lt (lane_lt ..)

end Sys2Proof.Machine
end

section
/-! What vector and mask commands write (O40). -/

namespace Sys2Proof.Machine

open Sys2Proof.Claims

/-! ### Integer lanes (R201, R356) -/

theorem laneV_lt (th : Thread) (w r j : Nat) : laneV th w r j < 2 ^ w := lane_lt ..

theorem laneB_lt (c : VCmd) (th : Thread) (w j : Nat) : laneB c th w j < 2 ^ w := by
  unfold laneB
  split
  · exact Nat.mod_lt _ (Nat.two_pow_pos w)
  · exact lane_lt ..

theorem readInt_eq (u : Bool) {w n : Nat} (h : n < 2 ^ w) : readInt u w n = laneInt u w n := by
  unfold readInt laneInt toS
  rw [Nat.mod_eq_of_lt h]
  cases u with
  | true => rfl
  | false =>
    simp only [Bool.false_eq_true, if_false]
    by_cases hn : n < 2 ^ (w - 1)
    · rw [if_pos hn, if_neg (by omega)]
      rfl
    · rw [if_neg hn, if_pos (by omega)]
      rfl

theorem clamp_eq {lo hi : Int} (h : lo ≤ hi) (e : Int) : max lo (min e hi) = if e < lo then lo else if hi < e then hi else e := by
  split
  · omega
  · split <;> omega

theorem writeInt_eq (sat u : Bool) (w : Nat) (e : Int) : writeInt sat u w e = toLane sat u w e := by
  have hpos : ∀ n, (1 : Int) ≤ 2 ^ n := fun n => Int.add_one_le_of_lt (Int.pow_pos (by decide))
  unfold writeInt toLane clampU clampS
  have h1 := hpos w
  have h2 := hpos (w - 1)
  cases sat with
  | false => rfl
  | true =>
    cases u with
    | true =>
      simp only [if_true]
      rw [clamp_eq (by omega)]
    | false =>
      simp only [if_true, Bool.false_eq_true, if_false]
      rw [clamp_eq (by omega)]

theorem toNat_emod_lt (w : Nat) (e : Int) : (e % 2 ^ w).toNat < 2 ^ w := by
  have hpos : (0 : Int) < 2 ^ w := Int.pow_pos (by decide)
  have hlt := Int.emod_lt_of_pos e hpos
  have hcast : ((2 ^ w : Nat) : Int) = 2 ^ w := by push_cast; rfl
  omega

/-- A command that writes in each selected lane what `f` gives, without flags. -/
def WritesInt (c : VCmd) (th : Thread) (f : Nat → Nat → Nat → Nat) (o : VOut) : Prop :=
  ∃ R : Nat → Nat × FFlags, o = writesLanes c th R ∧ (∀ j, (R j).2 = fNone) ∧
    ∀ j, (R j).1 % 2 ^ c.g.ty.width = f (laneV th c.g.ty.width (vdOf c) j) (laneV th c.g.ty.width (vaOf c) j) (laneB c th c.g.ty.width j)

theorem intOp_writes (c : VCmd) (th : Thread) (F : Int → Int → Int → Int) : WritesInt c th
    (fun d a b => toLane (satOf c) c.g.u c.g.ty.width (F (laneInt c.g.u c.g.ty.width d) (laneInt c.g.u c.g.ty.width a) (laneInt c.g.u c.g.ty.width b)))
    (intOp c th F) := by
  refine ⟨_, elementOp_eq .., fun j => rfl, fun j => ?_⟩
  dsimp only
  rw [readInt_eq _ (laneV_lt ..), readInt_eq _ (laneV_lt ..), readInt_eq _ (laneB_lt ..), writeInt_eq]
  exact Nat.mod_eq_of_lt (toNat_emod_lt ..)

theorem bitOp_writes (c : VCmd) (th : Thread) {F : Nat → Nat → Nat → Nat} {f : Nat → Nat → Nat → Nat}
    (h : ∀ d a b, a < 2 ^ c.g.ty.width → b < 2 ^ c.g.ty.width → F c.g.ty.width a b % 2 ^ c.g.ty.width = f d a b) :
    WritesInt c th f (bitOp c th F) := by
  refine ⟨_, elementOp_eq .., fun j => rfl, fun j => ?_⟩
  dsimp only
  rw [Nat.mod_mod]
  exact h _ _ _ (laneV_lt ..) (laneB_lt ..)

theorem natAbs_eq_ite (a : Int) : Int.ofNat a.natAbs = if a < 0 then -a else a := by
  rw [Int.ofNat_eq_natCast]
  split <;> omega

/-- Every integer operation writes its lane function (R356). -/
theorem vectorOp_writesInt {c : VCmd} {f : Nat → Nat → Nat → Nat} (h : intLane c = some f) (th : Thread) : WritesInt c th f (vectorOp c th) := by
  obtain ⟨op, g, p, qv, frm, pc, seq, it, last⟩ := c
  cases op
  all_goals cases h
  case vadd => exact intOp_writes _ th fun _ a b => a + b
  case vsub => exact intOp_writes _ th fun _ a b => a - b
  case vmul => exact intOp_writes _ th fun _ a b => a * b
  case vmulh => exact intOp_writes _ th fun _ a b => a * b / 2 ^ g.ty.width
  case vmin => exact intOp_writes _ th fun _ a b => min a b
  case vmax => exact intOp_writes _ th fun _ a b => max a b
  case vmac => exact intOp_writes _ th fun d a b => d + a * b
  case vabs =>
    simp only [← natAbs_eq_ite]
    exact intOp_writes _ th fun _ a _ => Int.ofNat a.natAbs
  case vand => exact bitOp_writes _ th (F := fun _ a b => a &&& b) fun _ _ _ _ _ => rfl
  case vor => exact bitOp_writes _ th (F := fun _ a b => a ||| b) fun _ _ _ _ _ => rfl
  case vxor => exact bitOp_writes _ th (F := fun _ a b => a ^^^ b) fun _ _ _ _ _ => rfl
  case vsll => exact bitOp_writes _ th (F := fun w a b => a * 2 ^ (b % w)) fun _ _ _ _ _ => rfl
  case vsr =>
    refine bitOp_writes _ th (F := fun w a b => shiftRight g.u w a b) fun _ a b ha _ => ?_
    rw [shiftRight, readInt_eq _ ha]
    exact Nat.mod_eq_of_lt (toNat_emod_lt ..)
  case vmov =>
    refine bitOp_writes _ th (F := fun _ a b => if g.x then b else a) fun _ a b ha hb => Nat.mod_eq_of_lt ?_
    split
    · exact hb
    · exact ha

theorem integerLanes : IntegerLanes := by
  intro c th f hf
  obtain ⟨R, ho, hnone, hR⟩ := vectorOp_writesInt hf th
  intro w o
  have ho' : o = writesLanes c th R := ho
  rw [ho']
  refine ⟨fun j hj => ?_, ?_, onlyV_setV ..⟩
  · rw [laneV_writesLanes c th R hj, hR]
  · exact congrArg (·, none) (laneFlags_none hnone _)

end Sys2Proof.Machine
end

section
/-! Compares and floating commands (O40). -/

namespace Sys2Proof.Machine

open Sys2Proof.Claims

/-! ### Compares (R356) -/

theorem testBit_eq_lane (v j : Nat) : v.testBit j = decide (Claims.lane 1 j v = 1) := by
  rw [Nat.testBit_eq_decide_div_mod_eq, Claims.lane, Nat.one_mul, Nat.pow_one]

/-- A compare's result: the low bits of k(vd) that the mask selects. -/
def writesBits (c : VCmd) (th : Thread) (T : Nat → Bool × FFlags) : VOut :=
  (setK (vdOf c) (BitVec.ofNat 1024 ((getK th (vdOf c)).toNat / 2 ^ (4096 / c.g.ty.width) * 2 ^ (4096 / c.g.ty.width) +
      joinEls 1 ((List.range (4096 / c.g.ty.width)).map fun j =>
        if selects c th j then (if (T j).1 then 1 else 0) else Claims.lane 1 j (getK th (vdOf c)).toNat))) th,
    laneFlags (selects c th) (fun j => ((if (T j).1 then 1 else 0), (T j).2)) (List.range (4096 / c.g.ty.width)), none)

theorem compareOp_eq (c : VCmd) (th : Thread) (f : Nat → Nat → Bool × FFlags) :
    compareOp c th f = writesBits c th fun j => f (laneV th c.g.ty.width (vaOf c) j) (laneB c th c.g.ty.width j) := by
  have hzero : List.replicate (4096 / c.g.ty.width) 0 = (List.range (4096 / c.g.ty.width)).map fun _ => 0 := by
    rw [List.map_const', List.length_range]
  unfold compareOp
  dsimp only
  rw [hzero, bElems_eq, elems_eq, zip3_map, selFrom_eq, split_eq, merge_map]
  rfl

theorem lanes_le (t : VTy) : 4096 / t.width ≤ 1024 := by cases t <;> decide

theorem writesBits_bit (c : VCmd) (th : Thread) (T : Nat → Bool × FFlags) {j : Nat} (hj : j < 1024) :
    (getK (writesBits c th T).1 (vdOf c)).getLsbD j =
      if j < 4096 / c.g.ty.width ∧ selects c th j = true then (T j).1 else (getK th (vdOf c)).getLsbD j := by
  unfold writesBits
  rw [getK_setK_self]
  generalize hn : 4096 / c.g.ty.width = n
  have hlow := joinEls_lt 1 ((List.range n).map fun j => if selects c th j then (if (T j).1 then 1 else 0) else Claims.lane 1 j (getK th (vdOf c)).toNat)
  rw [List.length_map, List.length_range, Nat.one_mul] at hlow
  rw [BitVec.getLsbD_ofNat, decide_eq_true hj, Bool.true_and, Nat.mul_comm, Nat.testBit_two_pow_mul_add _ hlow]
  by_cases hjn : j < n
  · rw [if_pos hjn, testBit_eq_lane, lane_joinEls, getD_map_range _ hjn]
    by_cases hs : selects c th j = true
    · rw [if_pos hs, if_pos (show j < n ∧ selects c th j = true from ⟨hjn, hs⟩)]
      cases (T j).1 <;> rfl
    · rw [if_neg hs, if_neg fun h => hs h.2, Nat.mod_eq_of_lt (lane_lt ..), ← testBit_eq_lane]
      rfl
  · rw [if_neg hjn, if_neg fun h => hjn h.1, Nat.testBit_div_two_pow, Nat.sub_add_cancel (by omega)]
    rfl

theorem laneInt_injective (u : Bool) {w a b : Nat} (ha : a < 2 ^ w) (hb : b < 2 ^ w) (h : laneInt u w a = laneInt u w b) : a = b := by
  have hcast : ((2 ^ w : Nat) : Int) = 2 ^ w := by push_cast; rfl
  unfold laneInt at h
  cases u with
  | true => exact Int.ofNat.inj h
  | false =>
    simp only [Bool.false_eq_true, if_false] at h
    split at h <;> split at h <;> omega

theorem intCmp_eq (c : VCmd) (th : Thread) (f : Int → Int → Bool) : intCmp c th f = writesBits c th fun j =>
    (f (laneInt c.g.u c.g.ty.width (laneV th c.g.ty.width (vaOf c) j)) (laneInt c.g.u c.g.ty.width (laneB c th c.g.ty.width j)), fNone) := by
  unfold intCmp
  refine (compareOp_eq ..).trans (congrArg (writesBits c th) (funext fun j => ?_))
  rw [readInt_eq _ (laneV_lt ..), readInt_eq _ (laneB_lt ..)]

/-- Every integer compare writes the bits of its test (R356). -/
theorem vectorOp_writesTest {c : VCmd} {f : Nat → Nat → Bool} (h : intTest c = some f) (th : Thread) :
    vectorOp c th = writesBits c th fun j => (f (laneV th c.g.ty.width (vaOf c) j) (laneB c th c.g.ty.width j), fNone) := by
  obtain ⟨op, g, p, qv, frm, pc, seq, it, last⟩ := c
  cases op
  all_goals cases h
  case vceq =>
    refine (intCmp_eq _ th fun a b => a == b).trans (congrArg (writesBits _ th) (funext fun j => congrArg (·, fNone) ?_))
    rw [Bool.eq_iff_iff, beq_iff_eq, decide_eq_true_iff]
    exact ⟨laneInt_injective _ (laneV_lt ..) (laneB_lt ..), congrArg _⟩
  case vclt => exact intCmp_eq _ th fun a b => decide (a < b)
  case vcle => exact intCmp_eq _ th fun a b => decide (a ≤ b)

theorem compareBits : CompareBits := by
  intro c th f hf w o
  have ho : o = writesBits c th _ := vectorOp_writesTest hf th
  rw [ho]
  refine ⟨fun j hj => ?_, ?_, onlyK_setK ..⟩
  · exact writesBits_bit c th _ hj
  · exact congrArg (·, none) (laneFlags_none (fun _ => rfl) _)

/-! ### Floating commands (R205, R354, R358) -/

theorem fltOp_eq (c : VCmd) (th : Thread) (f : FFmt → Nat → FVal → FVal → FVal → Nat × FFlags) : fltOp c th f = writesLanes c th fun j =>
    f (VTy.fmt c.g.ty) c.frm.toNat ((VTy.fmt c.g.ty).decode (laneV th c.g.ty.width (vdOf c) j))
      ((VTy.fmt c.g.ty).decode (laneV th c.g.ty.width (vaOf c) j)) ((VTy.fmt c.g.ty).decode (laneB c th c.g.ty.width j)) := elementOp_eq ..

/-- Every floating operation writes its lane function on the values of the type, under the command's mode (R358). -/
theorem vectorOp_writesFloat {c : VCmd} {f : FVal → FVal → FVal → Nat × FFlags} (h : floatLane c = some f) (th : Thread) :
    vectorOp c th = writesLanes c th fun j => f ((VTy.fmt c.g.ty).decode (laneV th c.g.ty.width (vdOf c) j))
      ((VTy.fmt c.g.ty).decode (laneV th c.g.ty.width (vaOf c) j)) ((VTy.fmt c.g.ty).decode (laneB c th c.g.ty.width j)) := by
  obtain ⟨op, g, p, qv, frm, pc, seq, it, last⟩ := c
  cases op
  all_goals cases h
  case fadd => exact fltOp_eq _ th fun f m _ a b => fAdd f m a b
  case fsub => exact fltOp_eq _ th fun f m _ a b => fSub f m a b
  case fmul => exact fltOp_eq _ th fun f m _ a b => fMul f m a b
  case fdiv => exact fltOp_eq _ th fun f m _ a b => fDiv f m a b
  case ffma => exact fltOp_eq _ th fun f m d a b => fFma f m a b d
  case fabs => exact fltOp_eq _ th fun f _ _ a _ => fAbs f a
  case fsqrt => exact fltOp_eq _ th fun f m _ a _ => fSqrt f m a
  case fexp2 => exact fltOp_eq _ th fun f m _ a _ => fExp2 f m a
  case flog2 => exact fltOp_eq _ th fun f m _ a _ => fLog2 f m a
  case frcp => exact fltOp_eq _ th fun f m _ a _ => fDiv f m fOne a
  case frsq => exact fltOp_eq _ th fun f m _ a _ => fRsqrt f m a

theorem floatLanes : FloatLanes := by
  intro c th f hf _ w m o at_
  have ho : o = writesLanes c th at_ := vectorOp_writesFloat hf th
  rw [ho]
  exact ⟨fun j hj => laneV_writesLanes c th at_ hj, fun n _ => laneFlags_bit .., rfl, onlyV_setV ..⟩

/-! ### Special operands (R205, R359) -/

theorem floatSpecials : FloatSpecials := by
  intro f hf m g s t e nv z inf
  have hnv : nv g = (FVal.nan g).sig := by cases g <;> rfl
  have hinf : ∀ s, f.infCode s = (inf s, fNone) := fun s => by
    rcases hf with rfl | rfl | rfl <;> cases s <;> rfl
  have hzero : f.zero false = 0 := by rcases hf with rfl | rfl | rfl <;> rfl
  rw [hnv]
  refine ⟨rfl, rfl, rfl, rfl, rfl, ?_, ?_, hinf false, ?_, rfl, fun k hk => ?_, hinf false, ?_, ?_, ?_, fun k hk => ⟨?_, ?_⟩, rfl, rfl, ?_, rfl, rfl, rfl⟩
  · exact congrArg (f.nan, ·) (BitVec.or_zero ..)
  · exact congrArg (·, fNone) hzero
  · exact congrArg (fun x => (x.1, (2 : FFlags))) (hinf true)
  · exact (if_neg hk).trans rfl
  · exact congrArg (·, fNone) hzero
  · exact congrArg (fun x => (x.1, (2 : FFlags))) ((congrArg f.infCode (Bool.false_bne s)).trans (hinf s))
  · exact congrArg (fun x => (x.1, (2 : FFlags))) (hinf s)
  · exact if_neg hk
  · exact if_neg hk
  · cases s <;> rfl

end Sys2Proof.Machine
end

section
/-! Permutations, inserts and extracts, and mask operations (O40). -/

namespace Sys2Proof.Machine

open Sys2Proof.Claims

/-! ### Permutations, inserts and extracts (R368) -/

theorem permOp_eq (c : VCmd) (th : Thread) : permOp c th = writesLanes c th fun j =>
    (laneV th c.g.ty.width (vaOf c) (laneV th c.g.ty.width (vbOf c) j % (4096 / c.g.ty.width)), fNone) := by
  unfold permOp
  dsimp only
  rw [elems_eq, List.map_map]
  exact putV_eq ..

theorem slideOp_eq (c : VCmd) (th : Thread) : slideOp c th = writesLanes c th fun j =>
    (if 0 ≤ (j : Int) + c.qv.toInt ∧ (j : Int) + c.qv.toInt < (4096 / c.g.ty.width : Nat) then
      laneV th c.g.ty.width (vaOf c) ((j : Int) + c.qv.toInt).toNat else 0, fNone) := putV_eq ..

theorem set_map_range (F : Nat → Nat) (n i x : Nat) : ((List.range n).map F).set i x = (List.range n).map fun j => if j = i then x else F j := by
  apply List.ext_getElem
  · rw [List.length_set, List.length_map, List.length_map]
  · intro j h1 h2
    rw [List.getElem_set, List.getElem_map, List.getElem_map, List.getElem_range]
    simp only [eq_comm]

theorem lanes_pos (t : VTy) : 0 < 4096 / t.width := by cases t <;> decide

theorem insOp_lane (c : VCmd) (th : Thread) {j : Nat} (hj : j < 4096 / c.g.ty.width) : laneV (insOp c th).1 c.g.ty.width (vdOf c) j =
    if j = c.qv.toNat % (4096 / c.g.ty.width) then c.p.toNat % 2 ^ c.g.ty.width else laneV th c.g.ty.width (vdOf c) j := by
  unfold insOp
  dsimp only
  rw [laneV, getV_setV_self, elems_eq, set_map_range, lane_ofElems _ hj]
  split
  · exact Nat.mod_mod ..
  · exact Nat.mod_eq_of_lt (lane_lt ..)

/-! ### Masks (R375) -/

theorem maskBelow_bit (p : Word) {j : Nat} (hj : j < 1024) : (maskBelow p).getLsbD j = decide (j < p.toNat) := by
  unfold maskBelow
  split
  · rw [BitVec.getLsbD_allOnes, decide_eq_true hj, decide_eq_true (by omega)]
  · rw [BitVec.getLsbD_ofNat, decide_eq_true hj, Bool.true_and, Nat.testBit_two_pow_sub_one]

theorem bits_nibble (w : Word) : bits w 3 0 = w.toNat % 16 := bits_low w 3

theorem maskInsert_bit (k : BitVec 1024) (p qv : Word) {j : Nat} (hj : j < 1024) : (maskInsert k p qv).getLsbD j =
    if j / 64 = qv.toNat % 16 then p.getLsbD (j % 64) else k.getLsbD j := by
  unfold maskInsert
  rw [bits_nibble]
  have hlt : qv.toNat % 16 < 16 := Nat.mod_lt _ (by decide)
  generalize qv.toNat % 16 = i at hlt
  dsimp only
  simp only [BitVec.getLsbD_or, BitVec.getLsbD_and, BitVec.getLsbD_not, BitVec.getLsbD_shiftLeft, BitVec.getLsbD_setWidth, BitVec.getLsbD_allOnes]
  by_cases hj1 : j < 64 * i
  · rw [if_neg (by omega)]
    simp [hj, hj1]
  · by_cases hj2 : j / 64 = i
    · have hmod : j - 64 * i = j % 64 := by omega
      have h64 : j % 64 < 64 := Nat.mod_lt _ (by decide)
      have h1024 : j % 64 < 1024 := by omega
      rw [if_pos hj2, hmod]
      simp [hj, hj1, h64, h1024]
    · have hge : ¬ j - 64 * i < 64 := by omega
      rw [if_neg hj2]
      simp [hj, hj1, hge, BitVec.getLsbD_of_ge p (j - 64 * i) (by omega)]

theorem maskExtract_eq (k : BitVec 1024) (qv : Word) : (k >>> (64 * bits qv 3 0)).setWidth 64 = ofN (k.toNat / 2 ^ (64 * (qv.toNat % 16))) := by
  rw [bits_nibble]
  apply BitVec.eq_of_toNat_eq
  rw [BitVec.toNat_setWidth, BitVec.toNat_ushiftRight, Nat.shiftRight_eq_div_pow, ofN, BitVec.toNat_ofNat]

theorem foldl_add_filter (p : Nat → Bool) (F : Nat → Nat) (l : List Nat) (h : ∀ j, F j = if p j then 1 else 0) :
    ∀ a, (l.map F).foldl (· + ·) a = a + (l.filter p).length := by
  induction l with
  | nil => exact fun _ => rfl
  | cons j l ih =>
    intro a
    rw [List.map_cons, List.foldl_cons, ih, h]
    by_cases hp : p j = true
    · rw [if_pos hp, List.filter_cons_of_pos hp, List.length_cons]
      omega
    · rw [if_neg hp, List.filter_cons_of_neg hp, Nat.add_zero]

theorem maskCount_eq (k : BitVec 1024) : maskCount k = ((List.range 1024).filter fun j => k.getLsbD j).length := by
  unfold maskCount
  rw [split_eq, foldl_add_filter (fun j => k.getLsbD j), Nat.zero_add]
  intro j
  rw [show k.getLsbD j = k.toNat.testBit j from rfl, testBit_eq_lane]
  have := lane_lt 1 j k.toNat
  rcases (show Claims.lane 1 j k.toNat = 0 ∨ Claims.lane 1 j k.toNat = 1 by omega) with h | h <;> rw [h] <;> rfl

theorem permutesAndMasks : PermutesAndMasks := by
  intro c th w o kd
  refine ⟨fun h j hj => ?_, fun h j hj => ?_, fun h => ?_, fun h j hj => ?_, fun h => ?_, fun h => ?_, fun h => ?_, fun h => ?_, fun h j hj => ?_,
    fun h j hj => ?_, fun h => ?_, fun h => ?_⟩
  all_goals have ho : o = vectorOp c th := rfl
  all_goals rw [vectorOp, h] at ho
  all_goals dsimp only at ho
  · rw [ho, permOp_eq]
    refine (laneV_writesLanes c th _ hj).trans ?_
    split
    · exact Nat.mod_eq_of_lt (laneV_lt ..)
    · rfl
  · rw [ho, slideOp_eq]
    refine (laneV_writesLanes c th _ hj).trans ?_
    split
    · refine Nat.mod_eq_of_lt ?_
      dsimp only
      split
      · exact laneV_lt ..
      · exact Nat.two_pow_pos _
    · rfl
  · refine ho.trans ?_
    unfold extOp
    dsimp only
    rw [readInt_eq _ (Nat.mod_lt _ (Nat.two_pow_pos _))]
    rfl
  · rw [ho]
    exact insOp_lane c th hj
  · rw [ho]
    exact getK_setK_self ..
  · rw [ho]
    exact getK_setK_self ..
  · rw [ho]
    exact getK_setK_self ..
  · rw [ho]
    exact getK_setK_self ..
  · rw [ho, getK_setK_self]
    exact maskBelow_bit c.p hj
  · rw [ho, getK_setK_self]
    exact maskInsert_bit _ c.p c.qv hj
  · rw [ho, maskExtract_eq]
    rfl
  · rw [ho, maskCount_eq]
    rfl

/-- Settles O40: vector commands write the lanes, bits and flags of R205, R354, R356, R358, R359, R368 and R375. -/
theorem vectorResults : Obligations.VectorResults := ⟨integerLanes, compareBits, floatLanes, floatSpecials, permutesAndMasks⟩

end Sys2Proof.Machine
end

section
/-! Stream instructions and stream creation (O43). -/

namespace Sys2Proof.Machine

open Sys2Proof.Claims

/-! ### The stream an instruction reaches (R344) -/

theorem mkAddr_zero (x : Word) : mkAddr (hdl x) 0 = ofN (hdl x * 2 ^ 48) := by
  have h : hdl x < 65536 := by
    have := x.isLt
    unfold hdl
    omega
  unfold mkAddr
  rw [Nat.mod_eq_of_lt h, Nat.zero_mod, Nat.add_zero]
  rfl

theorem withStream_reaches {x : Word} {need : Need} {node : Nat} {s : State} (h : ReachesStream s x need node) (q : Bool) (s0 : State)
    (act : Nat → Out) : withStream q x need s0 s act = act node := by
  obtain ⟨hmiss, ⟨o, gen, hr, hf⟩, harg⟩ := h
  unfold withStream
  dsimp only
  rw [hmiss, mkAddr_zero]
  rw [hr]
  refine (if_neg harg).trans (if_neg ?_)
  rw [hf]
  exact Bool.noConfusion

section
variable {node m : Nat} {s : State} (q : Bool) (d : Reg) (s0 : State) (act : Nat → Member → Out)

theorem withMember_none (h : memberIndex s node = none) : withMember q d node s0 s act = .next (retire s0 4 q (addLate d (ofI (-6)) s)) := by
  unfold withMember
  rw [h]
  rfl

theorem withMember_stopped (h : memberIndex s node = some m) (hs : (getStream s node).v = false ∨ (getStream s node).failed = true) :
    withMember q d node s0 s act = .next (retire s0 4 q (addLate d (ofI (-7)) s)) := by
  unfold withMember
  rw [h]
  refine if_pos ?_
  rcases hs with hs | hs
  · rw [hs]; rfl
  · rw [hs, Bool.or_true]

theorem withMember_live (h : LiveMember s node m) : withMember q d node s0 s act = act m ((getStream s node).member m) := by
  obtain ⟨hm, hv, hf⟩ := h
  unfold withMember
  rw [hm]
  exact if_neg (by rw [hv, hf]; exact Bool.noConfusion)

end

theorem streamAnswers : StreamAnswers := by
  intro q d a s node hq s1 x
  have hmark : exec (.vsMark q d a) s = execVsMark q d a s := exec_vsMark ..
  have hst : exec (.vsSt q d a) s = execVsSt q d a s := exec_vsSt ..
  have hrejoin : exec (.vsRejoin q d a) s = execVsRejoin q d a s := exec_vsRejoin ..
  have hclose : exec (.vsClose q d a) s = execVsClose q d a s := exec_vsClose ..
  rw [execVsMark, withRegs_ready hq] at hmark
  rw [execVsSt, withRegs_ready hq] at hst
  rw [execVsRejoin, withRegs_ready hq] at hrejoin
  rw [execVsClose, withRegs_ready hq] at hclose
  refine ⟨fun hr => ⟨fun i hi => ⟨fun hn => ?_, fun m hm hs => ?_⟩, fun m hl => ?_⟩, fun hr => ⟨fun hv => ?_, fun hv => ?_⟩⟩
  · rcases hi with rfl | rfl | rfl
    · exact hmark.trans ((withStream_reaches hr ..).trans (withMember_none _ _ _ _ hn))
    · exact hst.trans ((withStream_reaches hr ..).trans (withMember_none _ _ _ _ hn))
    · exact hrejoin.trans ((withStream_reaches hr ..).trans (withMember_none _ _ _ _ hn))
  · rcases hi with rfl | rfl | rfl
    · exact hmark.trans ((withStream_reaches hr ..).trans (withMember_stopped _ _ _ _ hm hs))
    · exact hst.trans ((withStream_reaches hr ..).trans (withMember_stopped _ _ _ _ hm hs))
    · exact hrejoin.trans ((withStream_reaches hr ..).trans (withMember_stopped _ _ _ _ hm hs))
  · intro st k
    have hmark := hmark.trans ((withStream_reaches hr ..).trans (withMember_live _ _ _ _ hl))
    have hrejoin := hrejoin.trans ((withStream_reaches hr ..).trans (withMember_live _ _ _ _ hl))
    refine ⟨hst.trans ((withStream_reaches hr ..).trans (withMember_live _ _ _ _ hl)), fun hj => ?_, fun hj => ?_, fun hs => ?_, fun hs => ?_⟩
    · exact hrejoin.trans (if_neg (by rw [show ((getStream s1 node).member m).rejoin = false from hj]; exact Bool.noConfusion))
    · exact hrejoin.trans (if_pos hj)
    · exact hmark.trans (if_pos hs)
    · exact hmark.trans (if_neg (Nat.not_le.mpr hs))
  · exact hclose.trans ((withStream_reaches hr ..).trans (if_pos hv))
  · exact hclose.trans ((withStream_reaches hr ..).trans (if_neg (by rw [hv]; exact Bool.noConfusion)))

/-! ### vs.set and vs.red (R343, R345) -/

theorem lengthOk_iff (st : Stream) (n : Nat) :
    st.lengthOk n = true ↔ n % 8 = 0 ∧ n ≤ 4096 ∧ (st.op = 12 → n % (16 + 4 * dwLanes st.dw) = 0) := by
  rw [Stream.lengthOk, Bool.and_eq_true, Bool.and_eq_true, Bool.or_eq_true, beq_iff_eq, decide_eq_true_iff, bne_iff_ne, beq_iff_eq, and_assoc]
  exact and_congr_right fun _ => and_congr_right fun _ => imp_iff_not_or.symm

/-- The bytes that a vs.red sends are read where its description says (R345). -/
theorem withSource_reaches {s : State} {o n : Nat} {ps : List Piece} (h : LocalSource s o n ps) (q : Bool) (s0 : State) (act : List Byte → State → Out) :
    withSource q o n s0 s act = act (rdPieces s ps) (atTurn ps s) := by
  obtain ⟨hn, hl0, hl3, hle, hruns, ht, hl, hresv, href, hbad⟩ := h
  have hlevel : ¬ (localLevel s (whoOf s s.me).core (rotOf s (whoOf s s.me).part (whoOf s s.me).tenant).1 o = 0 ∨
      localLevel s (whoOf s s.me).core (rotOf s (whoOf s s.me).part (whoOf s s.me).tenant).1 o = 3 ∨
      localLevel s (whoOf s s.me).core (rotOf s (whoOf s s.me).part (whoOf s s.me).tenant).1 (o + n - 1) ≠
        localLevel s (whoOf s s.me).core (rotOf s (whoOf s s.me).part (whoOf s s.me).tenant).1 o) := by
    rintro (h | h | h)
    · exact hl0 h
    · exact hl3 h
    · exact h hle
  unfold withSource
  rw [if_neg hn]
  dsimp only
  rw [if_neg hlevel, hruns]
  dsimp only
  rw [withMemory_passes ht hl hresv href hbad, rdPieces_congr (atTurn_mem ..)]

section
variable {q : Bool} {d a b : Reg} {s : State} {node m : Nat} (hq : QueuesReady [a, b] [] s)
include hq

theorem execVsRed_live (hr : ReachesStream (operandState [a, b] s) (operand [a, b] s a) needStream node)
    (hl : LiveMember (operandState [a, b] s) node m) : exec (.vsRed q d a b) s =
      (let s1 := operandState [a, b] s
      let y := operand [a, b] s b
      let n := bits y 44 32
      let st := getStream s1 node
      let k := st.member m
      if bits y 63 45 ≠ 0 ∨ st.lengthOk n = false then lateResult s 4 q d (codeWord (-8)) s1
      else
        withSource q (bits y 31 0) n s s1 fun data s2 =>
          if 2 ^ 32 ≤ k.next then lateResult s 4 q d (codeWord (-9)) s2
          else if 2 ≤ k.send.length then lateResult s 4 q d (codeWord (-10)) s2
          else
            lateResult s 4 q d (w64 k.next)
              (sendChunk node m ⟨k.next, m, st.op, false, false, false, st.restitched, data⟩ (fun k => { k with next := k.next + 1 }) s2)) := by
  rw [exec_vsRed, execVsRed, withRegs_ready hq]
  exact (withStream_reaches hr ..).trans (withMember_live _ _ _ _ hl)

end

theorem bits_top (y : Word) : bits y 63 45 = 0 ↔ y.toNat < 2 ^ 45 := by
  have := y.isLt
  simp only [bits]
  omega

theorem streamSends : StreamSends := by
  intro q d a b s node hq s1 x y
  refine ⟨fun hr code s2 hc => ?_, fun hr m hl => ?_⟩
  · have hset : exec (.vsSet q d a b) s = execVsSet q d a b s := exec_vsSet ..
    rw [execVsSet, withRegs_ready hq] at hset
    refine hset.trans ((withStream_reaches hr ..).trans ?_)
    rw [show createStream node (xr (cur (operandState [a, b] s)) b) (operandState [a, b] s) = (code, s2) from hc]
    rfl
  · intro st k n good sends
    have hred := execVsRed_live (q := q) (d := d) hq hr hl
    dsimp only at hred
    have hgood : good ↔ ¬ (bits y 63 45 ≠ 0 ∨ st.lengthOk n = false) := by
      rw [not_or, not_not, bits_top, Bool.not_eq_false, lengthOk_iff]
    have hn : bits y 44 32 = n := rfl
    have ho : bits y 31 0 = y.toNat % 2 ^ 32 := bits_low y 31
    have hsends : ∀ data s2, (∀ act : List Byte → State → Out, withSource q (bits y 31 0) n s s1 act = act data s2) → good → sends data s2 := by
      intro data s2 hsrc hg
      have hred := hred.trans ((if_neg (hgood.mp hg)).trans (hsrc _))
      refine ⟨fun hx => hred.trans (if_pos hx), fun hx hs => hred.trans ((if_neg (Nat.not_le.mpr hx)).trans (if_pos hs)),
        fun hx hs => hred.trans ((if_neg (Nat.not_le.mpr hx)).trans (if_neg (Nat.not_le.mpr hs)))⟩
    refine ⟨fun hg => hred.trans (if_pos (not_not.mp fun h => hg (hgood.mpr h))), fun hg h0 => hsends [] s1 (fun act => ?_) hg,
      fun hg ps hsrc => hsends _ _ (fun act => ?_) hg⟩
    · exact if_pos h0
    · rw [ho]
      exact withSource_reaches hsrc ..

/-! ### Creation (R26, R37, R42, R341, R343) -/

/-- The stream that a node's words describe, before it has stations (R341, R343). -/
def describedStream (node : Nat) (v : Word) (s : State) : Stream :=
  let d := sdescOf s node
  let cores := (upTo (bits d 28 20)).map fun k => bits (memberWord s node k 0) 9 0
  let lands := (upTo (bits d 28 20)).map fun k => (memberWord s node k 1).toNat
  { v := true, part := (getNode s node).part, num := bits d 56 45, op := bits d 63 60, ring := bit d 59, dw := bits d 58 57, tmo := bits d 44 29,
    nland := bits d 19 16, slotsz := bits d 15 12, failed := false, frozen := false, restitched := false, dead := none, resume := 0, awaited := [],
    members := List.zipWith (fun c l => ⟨c, l, bits v 31 0, 0, [], [], false⟩) cores lands, bufs := [], quiet := [], hosts := [], entries := [],
    held := [], avoid := s.pkg.linkDown }

/-- Creation refuses with a code and leaves the state, or installs the described stream at stations that have the buffers for it. -/
def CreationEnds (node : Nat) (v : Word) (s : State) (r : Int × State) : Prop :=
  (∃ code, code ≠ 0 ∧ r = (code, s)) ∨
  ∃ at_ x s1, installEntries node (describedStream node v s) at_ s = some (x, s1) ∧ lacksBuffers s1 x = false ∧ r = (0, setStream s1 node x)

theorem creationEnds_refused {node : Nat} {v : Word} {s : State} {code : Int} (h : code ≠ 0) : CreationEnds node v s (code, s) := .inl ⟨code, h, rfl⟩

theorem creationEnds_unless {node : Nat} {v : Word} {s : State} {code : Int} {c : Prop} [Decidable c] {r : Int × State} (hcode : code ≠ 0)
    (h : ¬c → CreationEnds node v s r) : CreationEnds node v s (if c then (code, s) else r) := by
  by_cases hc : c
  · rw [if_pos hc]
    exact creationEnds_refused hcode
  · rw [if_neg hc]
    exact h hc

theorem createStream_ends (node : Nat) (v : Word) (s : State) : CreationEnds node v s (createStream node v s) := by
  unfold createStream
  extract_lets nd d op ring dw num tmo nmem nland slotsz cores lands rn st landOk
  refine creationEnds_unless (by decide) fun _ => creationEnds_unless (by decide) fun _ => creationEnds_unless (by decide) fun _ =>
    creationEnds_unless (by decide) fun _ => ?_
  split
  · exact creationEnds_refused (code := -5) (by decide)
  · next at_ _ =>
    split
    · exact creationEnds_refused (code := -1) (by decide)
    · next x s1 hx => exact creationEnds_unless (by decide) fun hb => .inr ⟨at_, x, s1, hx, Bool.eq_false_iff.mpr hb, rfl⟩

/-! #### What the router entries hold (R37, R342) -/

/-- The entries that the stream has been given so far, each valid and its own; nothing else but its hosts has changed. -/
def Installed (node : Nat) (st : Stream) (s : State) (acc : Option (Stream × State)) : Prop :=
  ∀ x s', acc = some (x, s') →
    (x = { st with entries := x.entries, hosts := x.hosts } ∧ s' = { s with routers := s'.routers }) ∧
    ∀ k ∈ x.entries, ∃ sets : List Word, sets.length = 4 ∧
      getRouter s' k = ⟨true, st.part, st.num, node, 0, if st.op = 0 then 0 else 1, false, false, st.tmo, sets⟩

theorem length_setsAt (st : Stream) (at_ : Sp Nat) (r : Nat) : (st.setsAt at_ r).length = 4 := by
  unfold Stream.setsAt
  dsimp only
  split <;> rfl

theorem getRouter_set_self (s : State) (k : Nat) (e : RouterEnt) :
    getRouter { s with routers := spSet RouterEnt.free s.routers k e } k = e := spGet_spSet_self ..

theorem getRouter_set_other (s : State) {j k : Nat} (h : j ≠ k) (e : RouterEnt) :
    getRouter { s with routers := spSet RouterEnt.free s.routers k e } j = getRouter s j := spGet_spSet_other _ _ h _

theorem installed_installEntries (node : Nat) (st : Stream) (at_ : Sp Nat) (s : State) (hst : st.entries = []) :
    Installed node st s (installEntries node st at_ s) := by
  unfold installEntries
  generalize st.needs at_ = rs
  have hstart : Installed node st s (some (st, s)) := by
    intro x s' h
    cases h
    exact ⟨⟨rfl, rfl⟩, fun k hk => by rw [hst] at hk; cases hk⟩
  revert hstart
  generalize (some (st, s) : Option (Stream × State)) = acc
  induction rs generalizing acc with
  | nil => exact fun h => h
  | cons r rs ih =>
    intro hacc
    refine ih _ ?_
    intro y t h
    dsimp only at h
    split at h
    · cases h
    · next x s' =>
      split at h
      · cases h
      · next k hk =>
        cases h
        obtain ⟨⟨hx, hs'⟩, hentries⟩ := hacc x s' rfl
        have hfree : (getRouter s' k).v = false := by
          have := List.find?_some hk
          simpa using this
        refine ⟨⟨?_, ?_⟩, fun j hj => ?_⟩
        · rw [hx]
        · rw [hs']
        · rcases List.mem_append.mp hj with hj | hj
          · obtain ⟨sets, hlen, hr⟩ := hentries j hj
            have hne : j ≠ k := fun he => by
              rw [← he, hr] at hfree
              cases hfree
            exact ⟨sets, hlen, (getRouter_set_other s' hne _).trans hr⟩
          · rw [List.mem_singleton.mp hj]
            exact ⟨st.setsAt at_ r, length_setsAt st at_ r, getRouter_set_self s' k _⟩

theorem member_described {node : Nat} {v : Word} {s : State} {k : Member} (h : k ∈ (describedStream node v s).members) :
    k.next = v.toNat % 2 ^ 32 ∧ k.lcc = 0 ∧ k.send = [] ∧ k.rejoin = false := by
  unfold describedStream at h
  dsimp only at h
  obtain ⟨i, hi, rfl⟩ := List.mem_iff_getElem.mp h
  rw [List.getElem_zipWith]
  exact ⟨bits_low v 31, rfl, rfl, rfl⟩

theorem length_members (node : Nat) (v : Word) (s : State) : (describedStream node v s).members.length = sdescField s node 28 20 := by
  rw [describedStream, List.length_zipWith, List.length_map, List.length_map, upTo, List.length_range, Nat.min_self]
  rfl

theorem streamCreation : StreamCreation := by
  intro node v s
  have hends := createStream_ends node v s
  refine ⟨fun s' h => ?_, fun code s' h hc => ?_, fun hv => if_pos hv, fun hv hop => ?_, fun hv hk ha code s' h => ?_⟩
  · rw [h] at hends
    rcases hends with ⟨code, hc, he⟩ | ⟨at_, x, s1, hx, hb, he⟩
    · cases he
      exact absurd rfl hc
    · cases he
      intro st
      obtain ⟨⟨hxe, hse⟩, hentries⟩ := installed_installEntries node _ at_ s rfl x s1 hx
      have hst : st = x := spGet_spSet_self ..
      rw [hst]
      refine ⟨?_, fun n hn => ?_, ?_⟩
      · rw [hse]
        rfl
      · rw [hse]
        exact spGet_spSet_other _ _ hn _
      · have hnum : x.num = (describedStream node v s).num := (congrArg Stream.num hxe).trans rfl
        have hpart : x.part = (describedStream node v s).part := (congrArg Stream.part hxe).trans rfl
        have hop : x.op = (describedStream node v s).op := (congrArg Stream.op hxe).trans rfl
        have htmo : x.tmo = (describedStream node v s).tmo := (congrArg Stream.tmo hxe).trans rfl
        have hmembers : x.members = (describedStream node v s).members := (congrArg Stream.members hxe).trans rfl
        refine ⟨congrArg Stream.v hxe, congrArg Stream.failed hxe, congrArg Stream.frozen hxe, (congrArg Stream.dead hxe).trans rfl, hop, hnum, htmo,
          congrArg Stream.nland hxe, congrArg Stream.slotsz hxe, ?_, (congrArg Stream.avoid hxe).trans rfl, fun e he => ?_, fun r hr => ?_,
          fun k hk => member_described (hmembers ▸ hk)⟩
        · rw [hmembers]
          exact length_members node v s
        · have hfew : ¬ Config.stationBuffers (e.2 / 128) < buffersTaken s1 (e.2 / 128) := fun hlt =>
            Bool.noConfusion (hb.symm.trans (List.any_eq_true.mpr ⟨e, he, decide_eq_true hlt⟩))
          exact Nat.not_lt.mp hfew
        · obtain ⟨sets, hlen, hk⟩ := hentries r hr
          intro e
          have he : e = _ := hk
          rw [he, hnum, hpart, hop, htmo]
          exact ⟨rfl, rfl, rfl, rfl, rfl, rfl, rfl, rfl, rfl, hlen⟩
  · rw [h] at hends
    rcases hends with ⟨_, _, he⟩ | ⟨at_, x, s1, hx, hb, he⟩
    · exact (Prod.mk.inj he).2
    · exact absurd (Prod.mk.inj he).1 hc
  · unfold createStream
    extract_lets nd d op ring dw num tmo nmem nland slotsz cores lands rn st landOk
    have hop' : 13 ≤ op := hop
    exact (if_neg (by rw [hv]; exact Bool.noConfusion)).trans (if_pos (.inl hop'))
  · have hand : ((getNode s node).v && (getNode s node).kind == 5 && (getNode s node).arg == 0) = true := by rw [hv, hk, ha]; rfl
    rw [exec_streamStartStore, execStreamStartStore]
    dsimp only
    rw [if_pos hand, h]

/-- Settles O43: the stream instructions answer, send and create as R341 and R343 to R347 say. -/
theorem streamInstructions : Obligations.StreamInstructions := ⟨streamAnswers, streamSends, streamCreation⟩

end Sys2Proof.Machine
end

section
/-! What arrives at streams (O44), which fails where a bar.wait is parked at a landing word. -/

namespace Sys2Proof.Machine

open Sys2Proof.Claims

/-- A stream of one member on core 0, whose results land at byte 0 of its scratchpad. -/
def landingStream : Stream :=
  { Stream.idle with v := true, nland := 1, slotsz := 1, members := [⟨0, 0, 1, 0, [], [], false⟩] }

/-- Hart 1 waits for phase 5 of the barrier object at the landing word, which counts one waiter. -/
def waitsAtLanding : State :=
  { State.reset with streams := [(0, landingStream)], threads := [(1, waitsAt 0)], mem := [(scratchKey 0 8, 1)] }

/-- A result of 8 bytes. -/
def landingChunk : Chunk := ⟨1, 0, 0, false, false, false, false, [0, 0, 0, 0, 0, 0, 0, 0]⟩

/-- The landing word is no barrier object in phase 5: the waiter goes on, and leaves the count at byte 8. -/
theorem waiter_landing : rdByte (landChunk 0 0 landingChunk waitsAtLanding) (scratchKey 0 8) ≠ rdByte waitsAtLanding (scratchKey 0 8) := by
  decide

theorem landRuns_data : landRuns waitsAtLanding 0 ⟨0, 0, 1, 0, [], [], false⟩ 64 8 = [⟨scratchKey 0 64, 8, 3, 0, 0⟩] := by decide

theorem landRuns_word : landRuns waitsAtLanding 0 ⟨0, 0, 1, 0, [], [], false⟩ 0 8 = [⟨scratchKey 0 0, 8, 3, 0, 0⟩] := by decide

/-- Refutes O44: a bar.wait parked at the landing word of a result is released by the landing, as by any write of its object's first word (R323), and its count at the
word after it changes, which the frame of StreamLanding leaves out. -/
theorem not_streamTraffic : ¬ Obligations.StreamTraffic := by
  rintro ⟨-, h⟩
  obtain ⟨-, -, hland⟩ := h 0 0 landingChunk waitsAtLanding rfl rfl (by decide)
  obtain ⟨-, -, -, hframe, -⟩ := hland ⟨scratchKey 0 64, 8, 3, 0, 0⟩ ⟨scratchKey 0 0, 8, 3, 0, 0⟩ rfl rfl rfl (by decide) (by decide) (by decide)
    landRuns_data landRuns_word rfl rfl (by decide) (.inr (by decide)) (fun _ _ => rfl)
  exact waiter_landing (hframe (scratchKey 0 8) (by rintro ⟨p, hp, h1, h2⟩; revert p; decide))

end Sys2Proof.Machine
end

section
/-! Matrix instructions and the matrix engine (O45). -/

namespace Sys2Proof.Machine

open Sys2Proof.Claims

/-! ### Cell programs (R386) -/

theorem bit_top (w : Word) : bit w 63 = true ↔ 2 ^ 63 ≤ w.toNat := by
  have := w.isLt
  rw [show bit w 63 = w.toNat.testBit 63 from rfl, Nat.testBit_eq_decide_div_mod_eq, decide_eq_true_iff]
  omega

theorem cellOp_ok_iff {v : Nat} (h : v < 2 ^ 12) : (CellOp.ofBits v).ok = true ↔ opAllowed v := by
  have hopc : v / 512 % 8 = v / 2 ^ 9 := by omega
  unfold CellOp.ok CellOp.ofBits opAllowed
  dsimp only
  rw [hopc]
  simp only [Bool.and_eq_true, decide_eq_true_eq, apply_ite (· = true), beq_iff_eq, and_assoc]
  rfl

theorem progOk_iff (w : Word) : progOk w = true ↔ programAllowed w := by
  have htop : bits w 62 61 = w.toNat / 2 ^ 61 % 4 := rfl
  have hop : ∀ n, w.toNat / 2 ^ (12 * n) % 4096 < 2 ^ 12 := fun n => Nat.mod_lt _ (by decide)
  unfold progOk progOps programAllowed
  dsimp only
  rw [Bool.and_eq_true, Bool.and_eq_true, Bool.and_eq_true, bit_top, beq_iff_eq, and_assoc, and_assoc]
  refine and_congr_right fun _ => and_congr_right fun _ => ?_
  rw [List.all_map, List.all_eq_true, List.all_eq_true]
  constructor
  · rintro ⟨hok, hrest⟩ n hn
    by_cases hle : n ≤ w.toNat / 2 ^ 61 % 4
    · rw [if_pos hle]
      exact (cellOp_ok_iff (hop n)).mp (hok n (List.mem_range.mpr (by rw [htop]; omega)))
    · rw [if_neg hle]
      rcases Bool.or_eq_true_iff.mp (hrest n (List.mem_range.mpr hn)) with h | h
      · exact absurd (of_decide_eq_true h) hle
      · exact beq_iff_eq.mp h
  · intro h
    refine ⟨fun n hn => ?_, fun n hn => ?_⟩
    · have hle : n ≤ w.toNat / 2 ^ 61 % 4 := by
        have := List.mem_range.mp hn
        rw [htop] at this
        omega
      have hn4 := h n (by omega)
      rw [if_pos hle] at hn4
      exact (cellOp_ok_iff (hop n)).mpr hn4
    · have hn4 := h n (List.mem_range.mp hn)
      by_cases hle : n ≤ w.toNat / 2 ^ 61 % 4
      · rw [decide_eq_true (show n ≤ bits w 62 61 from hle), Bool.true_or]
      · rw [if_neg hle] at hn4
        rw [beq_iff_eq.mpr (show w.toNat / 2 ^ (12 * n) % 4096 = 0 from hn4), Bool.or_true]

/-! ### The program slots (R386) -/

theorem getProg_setProg (s : State) (u i : Nat) (w : Word) (t n : Nat) :
    getProg (setProg u i w s) t n = if coreOf t = coreOf u ∧ progKey s t n = progKey s u i then w else getProg s t n := by
  have hkey : progKey (setProg u i w s) t n = progKey s t n := rfl
  unfold getProg
  rw [hkey, setProg, modCore_eq]
  by_cases hc : coreOf t = coreOf u
  · rw [hc, getCore_setCore_self]
    refine (spGet_spSet ..).trans ?_
    by_cases hk : progKey s t n = progKey s u i
    · rw [if_pos hk, if_pos ⟨rfl, hk⟩]
    · rw [if_neg hk, if_neg fun h => hk h.2]
  · rw [getCore_setCore_other _ hc, if_neg fun h => hc h.1]

/-! ### mm at issue (R379, R383) -/

theorem clusterOf_slot {t : Nat} (h : t < 16384) : clusterOf t = t / 128 := by
  rw [clusterOf, coreOf, if_pos (show t < hart0 from h)]
  omega

/-- An mm that passes its checks joins the queue of its cluster's engine and waits (R383). -/
theorem execMm_joins {q : Bool} {d a : Reg} {s : State} (hw : (cur s).vwin = true) (hq : QueuesReady [a] [d] s) (hme : s.me < 16384)
    (ha : (operand [a] s a).toNat % 64 = 0) (hs : seqFault s 4 = none) {ps : List Piece}
    (hr : Resolves (operandState [a] s) (operand [a] s a) 192 needRw (.mem ps)) :
    exec (.mm q d a) s = .next (push (.mmEngineRun (s.me / 128)) (park (.matrix d 4 q) { operandState [a] s with
      mmq := spSet [] s.mmq (s.me / 128) (spGet [] s.mmq (s.me / 128) ++ [(s.me, operand [a] s a,
        getProg (operandState [a] s) s.me (if tl (cur (operandState [a] s)) then 3 else (cur (operandState [a] s)).mcell.toNat))]) })) := by
  have hmmq : (operandState [a] s).mmq = s.mmq := by rw [machineKept_operandState [a] s]
  have hbits : bits (operand [a] s a) 5 0 = 0 := (bits_low _ 5).trans ha
  rw [exec_mm, execMm, if_neg (by rw [hw]; exact Bool.noConfusion), withRegs_ready hq]
  dsimp only
  rw [show xr (cur (operandState [a] s)) a = operand [a] s a from rfl, if_neg (not_not.mpr hbits), withPlace_resolves hr (.inl rfl)]
  dsimp only
  rw [unlessFault, hs, clusterOf_slot hme, mmQueue, hmmq]

theorem matrixInstructions : MatrixInstructions := by
  intro q d a i s hi
  have hfree : ¬ (i = 3 ∧ tl (cur s) = false) := fun h => hi.elim (fun ht => Bool.noConfusion (ht.symm.trans h.2)) fun hne => hne h.1
  refine ⟨fun hq => ⟨fun hp => ?_, fun hp => ?_⟩, ?_, fun j hq => ?_, fun t w n => getProg_setProg .., fun x hx => ⟨?_, ?_⟩, fun hw => ?_, fun hw hq => ?_⟩
  · rw [exec_mcload, execMcload, if_neg hfree, withRegs_ready hq]
    dsimp only
    refine (if_pos ((progOk_iff _).mpr hp)).trans ?_
    exact congrArg (fun m => done s 4 q (wr m d 0 _)) (operandState_me ..)
  · rw [exec_mcload, execMcload, if_neg hfree, withRegs_ready hq]
    dsimp only
    exact (if_neg fun h => hp ((progOk_iff _).mp h)).trans (result_ready ..)
  · rw [exec_mcclr, execMcclr, if_neg hfree]
    rfl
  · rw [exec_mcrd, execMcrd, withRegs_ready hq]
    rfl
  · rw [TrapsHere, exec_mcload, execMcload, if_pos ⟨rfl, hx⟩]
    rfl
  · rw [TrapsHere, exec_mcclr, execMcclr, if_pos ⟨rfl, hx⟩]
    rfl
  · rw [TrapsHere, exec_mm, execMm, if_pos (by rw [hw]; rfl)]
    rfl
  · intro s1 p cl
    refine ⟨fun ha => ?_, fun hme ha hs ⟨hmiss, ps, hr⟩ => ?_⟩
    · refine trapsAt_of_exactAt ?_
      have hbits : bits (operand [a] s a) 5 0 ≠ 0 := fun h => ha ((bits_low _ 5).symm.trans h)
      rw [exec_mm, execMm, if_neg (by rw [hw]; exact Bool.noConfusion), withRegs_ready hq]
      exact if_pos hbits
    · refine ⟨_, execMm_joins hw hq hme ha hs ⟨hmiss, hr⟩, ?_, ?_, spGet_spSet_self _ _ _ _, List.mem_append_right _ (List.mem_singleton_self _),
        sameBytes_of_mem (mem_operandState ..)⟩
      · exact congrArg Thread.wait (cur_setTh_me ..)
      · exact (congrArg Thread.pc (cur_setTh_me ..)).trans (operandState_pc ..)

end Sys2Proof.Machine
end

section
/-! The matrix engine runs (O45, R382 to R384). -/

namespace Sys2Proof.Machine

open Sys2Proof.Claims

theorem passResv_kept (t word : Nat) (s : State) :
    passResv t word s = { s with resv := (passResv t word s).resv, pending := (passResv t word s).pending } := by
  unfold passResv
  dsimp only
  split
  · split <;> rfl
  · rfl

theorem passTag_kept (tag : Nat) (words : List Nat) (s : State) :
    passTag tag words s = { s with resv := (passTag tag words s).resv, pending := (passTag tag words s).pending } := by
  unfold passTag
  split
  · rfl
  · exact foldl_rel (R := fun a b : State => b = { a with resv := b.resv, pending := b.pending }) (fun _ => rfl)
      (fun _ _ _ h k => by rw [k, h]) (fun _ _ => passResv_kept ..) words s

theorem atEngine_kept (cl : Nat) (s : State) : atEngine cl s = { s with resv := (atEngine cl s).resv, pending := (atEngine cl s).pending } :=
  passTag_kept ..

theorem getTh_atEngine (cl : Nat) (s : State) (t : Nat) : getTh (atEngine cl s) t = getTh s t := getTh_passTag ..

theorem mmrun_atEngine (cl : Nat) (s : State) : (atEngine cl s).mmrun = s.mmrun := by rw [atEngine_kept]

theorem mmq_atEngine (cl : Nat) (s : State) : (atEngine cl s).mmq = s.mmq := by rw [atEngine_kept]

theorem awaitsMatrix_of_wait {th : Thread} {d : Reg} {len : Nat} {q : Bool} (h : th.wait = .matrix d len q) : awaitsMatrix th = true := by
  rw [awaitsMatrix, h]

theorem mmGoOn_eq {cl : Nat} {r : MmRun} (hcl : r.t / 128 = cl) (ht : r.t < 16384) (s : State) : mmGoOn r s = runsOn cl r s := by
  rw [mmGoOn, clusterOf_slot ht, hcl]
  rfl

/-! ### An operation starts (R382, R383) -/

theorem mmEngineRun_starts {cl t : Nat} {p prog : Word} {rest : List (Nat × Word × Word)} {s : State} {d : Reg} {len : Nat} {q : Bool}
    (hrun : spGet none s.mmrun cl = none) (hq : mmQueue s cl = (t, p, prog) :: rest) (hw : (getTh s t).wait = .matrix d len q) :
    exec (.mmEngineRun cl) s = .next (mmStart t p prog { atEngine cl s with mmq := spSet [] s.mmq cl rest }) := by
  have hrun' : spGet none (atEngine cl s).mmrun cl = none := by rw [mmrun_atEngine]; exact hrun
  have hq' : mmQueue (atEngine cl s) cl = (t, p, prog) :: rest := by rw [mmQueue, mmq_atEngine]; exact hq
  have hS : passTag (engineTag cl) (if s.resv.isEmpty then [] else matrixWords s cl) s = atEngine cl s := rfl
  rw [exec_mmEngineRun, execMmEngineRun]
  dsimp only
  rw [hS, hrun', hq']
  dsimp only
  rw [getTh_atEngine, awaitsMatrix_of_wait hw, mmq_atEngine]
  rfl

theorem mmStatus_started {r : MmRun} (hr : r.rows = 0) (ha : r.arr = 0) : mmStatus r 1 0 0 = ofN (2 ^ 60) := by
  rw [mmStatus, hr, ha]
  rfl

theorem matrixStarts : MatrixStarts := by
  intro cl t p prog rest s dd len q bs hrun hq hcl ht hw s0 d r
  have hexec := mmEngineRun_starts hrun hq hw
  have hth : getTh s0 t = getTh s t := getTh_atEngine cl s t
  have hstart : exec (.mmEngineRun cl) s = .next (mmStart t p prog s0) := hexec
  refine ⟨fun x s1 hload => ?_, fun s1 hload => ⟨fun o hbad => ?_, fun s2 hbad hw => ?_⟩⟩
  · rw [hstart, mmStart, hload, hth]
    rfl
  · rw [hstart, mmStart, hload, hth]
    refine congrArg Host.Outcome.next ?_
    dsimp only
    rw [show descBad s1 t prog ((upTo 24).map fun i => wordAt bs (8 * i)) = some o from hbad]
    rfl
  · rw [hstart, mmStart, hload, hth]
    refine congrArg Host.Outcome.next ?_
    dsimp only
    rw [show descBad s1 t prog ((upTo 24).map fun i => wordAt bs (8 * i)) = none from hbad]
    dsimp only
    have hw' : writeMmst ⟨t, (getTh s t).uid, p, prog, (upTo 24).map fun i => wordAt bs (8 * i), 0, 0, fNone, none⟩ (ofN (2 ^ 60)) s1 = .ok s2 := hw
    rw [mmStatus_started rfl rfl, hw']
    exact mmGoOn_eq (r := r) hcl ht s2

/-! ### An operation goes on (R383, R384) -/

theorem mmEngineRun_advances {cl : Nat} {r : MmRun} {s : State} {d : Reg} {len : Nat} {q : Bool} (hrun : spGet none s.mmrun cl = some r)
    (hw : (getTh s r.t).wait = .matrix d len q) (hu : (getTh s r.t).uid = r.uid) :
    exec (.mmEngineRun cl) s = .next (mmAdvance r { atEngine cl s with mmrun := spSet none s.mmrun cl none }) := by
  have hrun' : spGet none (atEngine cl s).mmrun cl = some r := by rw [mmrun_atEngine]; exact hrun
  have hS : passTag (engineTag cl) (if s.resv.isEmpty then [] else matrixWords s cl) s = atEngine cl s := rfl
  rw [exec_mmEngineRun, execMmEngineRun]
  dsimp only
  rw [hS, hrun']
  dsimp only
  rw [getTh_atEngine, awaitsMatrix_of_wait hw, hu, beq_self_eq_true, mmrun_atEngine]
  rfl

theorem band_eq (d : Desc) (g : Nat) : Desc.band d g = d.getD (8 + 2 * g) 0 := by
  have h : (0x40 + 16 * g) / 8 = 8 + 2 * g := by omega
  rw [Desc.band, Desc.at, h]

theorem enabled_eq (d : Desc) : Desc.enabled d = fun g => bit (d.getD (8 + 2 * g) 0) 63 := funext fun g => by rw [Desc.enabled, band_eq]

/-- The enabled bands of an operation, ascending. -/
def enabledBands (r : MmRun) : List Nat := (List.range 8).filter fun g => bit (r.d.getD (8 + 2 * g) 0) 63

theorem next_eq (r : MmRun) : r.next = ((enabledBands r)[r.rows / 16]?).map fun g => (g, r.rows % 16) := by
  rw [MmRun.next, enabled_eq]
  rfl

theorem next_none {r : MmRun} (h : 16 * (enabledBands r).length ≤ r.rows) : r.next = none := by
  rw [next_eq, List.getElem?_eq_none (by omega)]
  rfl

theorem arrival_eq (r : MmRun) : r.arrival =
    ((enabledBands r).filter fun g => (r.d.getD (8 + 2 * g) 0).toNat / 2 ^ 61 % 4 ≠ 0 && !r.arr.testBit g).head? := by
  have hbits : ∀ g, (bits (r.d.getD (8 + 2 * g) 0) 62 61 != 0) = decide ((r.d.getD (8 + 2 * g) 0).toNat / 2 ^ 61 % 4 ≠ 0) := fun g => by
    rw [bne, Bool.beq_eq_decide_eq, ← decide_not]
    rfl
  rw [MmRun.arrival, enabled_eq, enabledBands, List.filter_filter, List.head?_filter]
  refine congrArg (fun p => List.find? p (List.range 8)) (funext fun g => ?_)
  rw [band_eq, hbits, Bool.and_assoc, Bool.and_comm]

theorem mmRow_keeps {r r' : MmRun} {g i : Nat} {s s2 : State} (h : mmRow r g i s = (.ok r', s2)) :
    r'.rows = r.rows + 1 ∧ r'.arr = r.arr ∧ r'.d = r.d ∧ r'.t = r.t := by
  unfold mmRow andThen at h
  dsimp only at h
  split at h
  · split at h
    · split at h
      · cases h
      · split at h
        · cases h
        · cases h
          exact ⟨rfl, rfl, rfl, rfl⟩
    · cases h
  · cases h

theorem mmDone_eq (r : MmRun) : mmStatus r 2 0 0 = mmDone r := by
  unfold mmStatus mmDone
  refine congrArg w64 ?_
  omega

/-- A hart that goes on past its instruction keeps its registers. -/
theorem xr_retire_self {s0 s : State} (hm : modeOf (getTh s s.me) ≠ 2) (n : Nat) (q : Bool) (d : Reg) :
    xr (getTh (retire s0 n q s) s.me) d = xr (getTh s s.me) d := by
  rw [getTh_retire hm, seqNext_kept]
  rfl

/-- The same, for the thread named and as it stands. -/
theorem xr_retire_of {s0 s : State} {t : Nat} {th : Thread} (hme : s.me = t) (hth : getTh s t = th) (hm : modeOf th ≠ 2) (n : Nat) (q : Bool) (d : Reg) :
    xr (getTh (retire s0 n q s) t) d = xr th d := by
  subst hme hth
  exact xr_retire_self hm n q d

theorem modeOf_xw (th : Thread) (d : Reg) (v : Word) : modeOf (xw th d v) = modeOf th := by
  unfold xw
  split <;> rfl

theorem modeOf_orFlags (th : Thread) (f : BitVec 5) : modeOf (orFlags th f) = modeOf th := by
  have hbit : ∀ n, n < 6 → (orFlags th f).thst.getLsbD n = th.thst.getLsbD n := fun n hn => by
    rw [orFlags, BitVec.getLsbD_or, BitVec.getLsbD_shiftLeft, decide_eq_true hn, Bool.not_true, Bool.and_false, Bool.false_and, Bool.or_false]
  have hlow : (orFlags th f).thst.extractLsb' 1 2 = th.thst.extractLsb' 1 2 := by
    apply BitVec.eq_of_getLsbD_eq
    intro n hn
    rw [BitVec.getLsbD_extractLsb', BitVec.getLsbD_extractLsb', hbit (1 + n) (by omega)]
  have hbits : ∀ w : Word, bits w 2 1 = (w.extractLsb' 1 2).toNat := fun w => by
    rw [bits, BitVec.extractLsb'_toNat, Nat.shiftRight_eq_div_pow]
  rw [modeOf, hbits, hlow, ← hbits]
  rfl

/-- The thread of an mm when its operation ends, its counters and flags and its result written (R384). -/
theorem getTh_mmResult {r : MmRun} {u : State} {d : Reg} (hu : u.me = r.t) (hd : isQ r.t d = false) (v : Word) :
    getTh (wr r.t d v (catchUp (coreOf r.t) (mmCount r u))) u.me =
      xw (countEv 9 (mmActive r (bits u.pkg.pkst 51 48)) (orFlags (getTh u r.t) r.flags)) d v := by
  rw [wr_register hd, hu, getTh_setTh_self, catchUp, modCore_eq, getTh_setCore, mmCount, modTh_eq, getTh_setTh_self]

theorem mmCount_me (r : MmRun) (u : State) : (mmCount r u).me = u.me := rfl

theorem modeOf_counted {th : Thread} (h : modeOf th ≠ 2) (n : Nat) (a : Nat) (f : BitVec 5) (d : Reg) (v : Word) : modeOf (xw (countEv n a (orFlags th f)) d v) ≠ 2 := by
  rw [modeOf_xw]
  exact fun h' => h ((modeOf_orFlags th f).symm.trans h')

/-- The end of an operation whose mm waits for it: the mm retires with MMST in its register (R384). -/
theorem mmEnd_retires {r : MmRun} {s1 s2 : State} {d : Reg} {len : Nat} {q : Bool} (hm : writeMmst r (mmDone r) s1 = .ok s2)
    (hw : (getTh s2 r.t).wait = .matrix d len q) : ∃ u : State, u.me = r.t ∧ getTh u r.t = getTh s2 r.t ∧
      getTh (mmEnd r s1) r.t = getTh (retire u len q (wr u.me d (mmDone r) (catchUp (coreOf r.t) (mmCount r u)))) r.t := by
  refine ⟨{ s2 with me := r.t }, rfl, rfl, ?_⟩
  rw [mmEnd, mmDone_eq, hm]
  unfold asHart
  dsimp only
  rw [show (cur { s2 with me := r.t }).wait = .matrix d len q from hw]
  rfl

/-- An operation that ends gives MMST to its mm, which goes on (R384). -/
theorem mmEnd_result {r : MmRun} {s1 s2 : State} {d : Reg} {len : Nat} {q : Bool} (hm : writeMmst r (mmDone r) s1 = .ok s2)
    (hw : (getTh s2 r.t).wait = .matrix d len q) (hd : isQ r.t d = false) (h0 : d ≠ 0) (hmode : modeOf (getTh s2 r.t) ≠ 2) :
    xr (getTh (mmEnd r s1) r.t) d = mmDone r := by
  obtain ⟨u, hu, hsame, hend⟩ := mmEnd_retires hm hw
  have hth := getTh_mmResult (u := u) hu hd (mmDone r)
  have hme : (wr r.t d (mmDone r) (catchUp (coreOf r.t) (mmCount r u))).me = r.t :=
    ((machineKept_me (machineKept_wr ..)).trans (StoreMoved.catchUp (coreOf r.t) (mmCount r u)).me).trans ((mmCount_me r u).trans hu)
  rw [hu, hsame] at hth
  rw [hend, hu, xr_retire_of hme hth (modeOf_counted hmode _ _ _ _ _), xr_xw, if_pos ⟨rfl, h0⟩]

theorem matrixGoesOn : MatrixGoesOn := by
  intro cl r s dd len q hrun hcl ht hw hu s1 bands due
  have hexec : exec (.mmEngineRun cl) s = .next (mmAdvance r s1) := mmEngineRun_advances hrun hw hu
  have hbands : bands = enabledBands r := rfl
  refine ⟨fun x hf => ?_, fun hf g hg => ⟨fun r' s2 hrow => ?_, fun x s2 hrow => ?_⟩, fun hf hall g hg => ?_, fun hf hall hdue => ⟨?_, fun s2 hm hw2 hq2 h0 hmode => ?_⟩⟩
  · rw [hexec, mmAdvance, hf]
  · have hnext : r.next = some (g, r.rows % 16) := by rw [next_eq, ← hbands, hg]; rfl
    have hkeeps := mmRow_keeps hrow
    refine ⟨?_, hkeeps⟩
    rw [hexec, mmAdvance, hf, hnext]
    dsimp only
    rw [hrow]
    exact congrArg Host.Outcome.next (mmGoOn_eq (by rw [hkeeps.2.2.2]; exact hcl) (by rw [hkeeps.2.2.2]; exact ht) s2)
  · have hnext : r.next = some (g, r.rows % 16) := by rw [next_eq, ← hbands, hg]; rfl
    rw [hexec, mmAdvance, hf, hnext]
    dsimp only
    rw [hrow]
    exact congrArg Host.Outcome.next (mmGoOn_eq (r := { r with fault := some x }) hcl ht s2)
  · have hnext : r.next = none := next_none hall
    have harr : r.arrival = some g := (arrival_eq r).trans hg
    refine ⟨fun s2 ha => ?_, fun x ha => ?_⟩
    · rw [hexec, mmAdvance, hf, hnext, harr]
      dsimp only
      rw [ha]
      exact congrArg Host.Outcome.next (mmGoOn_eq (r := { r with arr := r.arr + 2 ^ g, fault := none }) hcl ht s2)
    · rw [hexec, mmAdvance, hf, hnext, harr]
      dsimp only
      rw [ha]
      exact congrArg Host.Outcome.next (mmGoOn_eq (r := { r with fault := some x }) hcl ht s1)
  · have hnext : r.next = none := next_none hall
    have harr : r.arrival = none := (arrival_eq r).trans (congrArg List.head? hdue)
    rw [hexec, mmAdvance, hf, hnext, harr]
  · exact mmEnd_result hm hw2 hq2 h0 hmode

/-- Settles O45: the matrix instructions and the engine's operation start, go on and end as R379 and R382 to R386 say. -/
theorem matrixResults : Obligations.MatrixResults := ⟨matrixInstructions, matrixStarts, matrixGoesOn⟩

end Sys2Proof.Machine
end

section
/-! The status register's fields (R19). -/

namespace Sys2Proof.Machine

open Sys2Proof.Claims

/-- A field is its bits. -/
theorem testBit_field (w : Word) (hi lo i : Nat) : (bits w hi lo).testBit i = (decide (i < hi + 1 - lo) && w.getLsbD (lo + i)) := by
  rw [bits, Nat.testBit_mod_two_pow, Nat.testBit_div_two_pow, Nat.add_comm i lo]
  rfl

theorem bits_congr {w w' : Word} {hi lo : Nat} (h : ∀ n, lo ≤ n → n ≤ hi → w'.getLsbD n = w.getLsbD n) : bits w' hi lo = bits w hi lo := by
  apply Nat.eq_of_testBit_eq
  intro i
  rw [testBit_field, testBit_field]
  by_cases hi' : i < hi + 1 - lo
  · rw [h (lo + i) (by omega) (by omega)]
  · rw [decide_eq_false hi', Bool.false_and, Bool.false_and]

theorem bits_setBits_self (w : Word) {hi lo : Nat} (h : lo ≤ hi) (hhi : hi < 64) (v : Nat) : bits (setBits w hi lo v) hi lo = v % 2 ^ (hi + 1 - lo) := by
  apply Nat.eq_of_testBit_eq
  intro i
  rw [testBit_field, Nat.testBit_mod_two_pow]
  by_cases hi' : i < hi + 1 - lo
  · rw [getLsbD_setBits hhi h, if_pos (by omega), Nat.add_sub_cancel_left]
  · rw [decide_eq_false hi', Bool.false_and, Bool.false_and]

theorem bits_setBits_other (w : Word) {hi lo : Nat} (h : lo ≤ hi) (hhi : hi < 64) (v : Nat) {hi' lo' : Nat}
    (hd : hi' < lo ∨ hi < lo') : bits (setBits w hi lo v) hi' lo' = bits w hi' lo' :=
  bits_congr fun n hn hn' => by rw [getLsbD_setBits hhi h, if_neg (by omega)]

theorem bits_one (w : Word) (n : Nat) : bits w n n = if w.getLsbD n then 1 else 0 := by
  have h : bits w n n < 2 := by rw [bits, Nat.add_sub_cancel_left]; exact Nat.mod_lt _ (by decide)
  have hbit := testBit_field w n n 0
  rw [Nat.testBit_zero, Nat.add_zero, decide_eq_true (by omega : 0 < n + 1 - n), Bool.true_and] at hbit
  rw [show w.getLsbD n = decide (bits w n n % 2 = 1) from hbit.symm]
  split
  · next h1 => have := of_decide_eq_true h1; omega
  · next h1 => have := of_decide_eq_false (Bool.eq_false_iff.mpr h1); omega

theorem pkst_eq (s : State) (hi lo : Nat) : pkst s hi lo = bits s.pkg.pkst hi lo := rfl

end Sys2Proof.Machine
end

section
/-! Power, temperature and the schedule (O47). -/

namespace Sys2Proof.Machine

open Sys2Proof.Claims

theorem bits_setBit_self (w : Word) {n : Nat} (hn : n < 64) (b : Bool) : bits (setBit w n b) n n = if b then 1 else 0 := by
  rw [setBit, bits_setBits_self w (Nat.le_refl n) hn, Nat.add_sub_cancel_left]
  cases b <;> rfl

theorem bits_setBit_other (w : Word) {n : Nat} (hn : n < 64) (b : Bool) {hi lo : Nat} (h : hi < n ∨ n < lo) :
    bits (setBit w n b) hi lo = bits w hi lo := bits_setBits_other w (Nat.le_refl n) hn _ h

theorem getLsbD_setBit (w : Word) {n : Nat} (hn : n < 64) (b : Bool) (m : Nat) : (setBit w n b).getLsbD m = if m = n then b else w.getLsbD m := by
  rw [setBit, getLsbD_setBits hn (Nat.le_refl n)]
  by_cases h : m = n
  · subst h
    rw [if_pos ⟨Nat.le_refl m, Nat.le_refl m⟩, if_pos rfl, Nat.sub_self]
    cases b <;> rfl
  · rw [if_neg (by omega), if_neg h]

theorem pkst_bit (s : State) (n : Nat) : pkst s n n = if bit s.pkg.pkst n then 1 else 0 := bits_one ..

/-! ### Frame boundaries (R13, R20, R32, R130) -/

/-- Whether a boundary's duty leaves 8 (R20). -/
def leavesFull (s : State) (d : Nat) : Bool := decide (d < 8) && decide (8 ≤ dutyOf s)

/-- The duty that a boundary sets (R13). -/
def boundaryDuty (s : State) : Nat :=
  nextDuty (bit s.pkg.pkst 10) (dutyOf s) (Config.powerEstimate s.pkg.activity) (stepCaps s.pkg.capNext s.pkg.cap).2
    (if 100 * Config.powerEstimate s.pkg.activity < 95 * (stepCaps s.pkg.capNext s.pkg.cap).2 then min 16 (s.pkg.below95 + 1) else 0)

theorem powerFrame_pkst (s : State) : (powerFrame s).pkg.pkst =
    if leavesFull s (boundaryDuty s) then setBit (setBits s.pkg.pkst 51 48 (boundaryDuty s)) 11 true else setBits s.pkg.pkst 51 48 (boundaryDuty s) := rfl

theorem scheduleFrame_pkst (s : State) : (scheduleFrame s).pkg.pkst = s.pkg.pkst := by
  unfold scheduleFrame
  dsimp only
  split <;> rfl

theorem nextDuty_range (trip : Bool) {d : Nat} (est cap run : Nat) (h1 : 1 ≤ d) (h8 : d ≤ 8) :
    1 ≤ nextDuty trip d est cap run ∧ nextDuty trip d est cap run ≤ 8 := by
  unfold nextDuty
  split
  · omega
  · split
    · omega
    · split <;> omega

theorem boundaryDuty_range {s : State} (h1 : 1 ≤ dutyOf s) (h8 : dutyOf s ≤ 8) : 1 ≤ boundaryDuty s ∧ boundaryDuty s ≤ 8 :=
  nextDuty_range _ _ _ _ h1 h8

/-- The sixteenth boundary in a row below 95% of the cap (R13). -/
theorem sixteen_below {c : Prop} [Decidable c] {n : Nat} : 16 ≤ (if c then min 16 (n + 1) else 0) ↔ c ∧ 15 ≤ n := by
  split
  · next h => exact ⟨fun h' => ⟨h, by omega⟩, fun h' => by omega⟩
  · next h => exact ⟨fun h' => by omega, fun h' => absurd h'.1 h⟩

/-- The state after a frame boundary. -/
def framed (s : State) : State := scheduleFrame (powerFrame s)

theorem pkst_framed_duty {s : State} (h8 : boundaryDuty s ≤ 8) : pkst (framed s) 51 48 = boundaryDuty s := by
  rw [pkst_eq, framed, scheduleFrame_pkst, powerFrame_pkst]
  split
  · rw [bits_setBit_other _ (by decide) _ (.inr (by decide)), bits_setBits_self _ (by decide) (by decide)]
    omega
  · rw [bits_setBits_self _ (by decide) (by decide)]
    omega

theorem pkst_framed_hit (s : State) : pkst (framed s) 11 11 = if leavesFull s (boundaryDuty s) then 1 else pkst s 11 11 := by
  rw [pkst_eq, framed, scheduleFrame_pkst, powerFrame_pkst]
  split
  · rw [bits_setBit_self _ (by decide)]
    rfl
  · rw [bits_setBits_other _ (by decide) (by decide) _ (.inl (by decide))]
    rfl

/-- What the schedule's part of a boundary leaves of the package's other fields. -/
theorem scheduleFrame_kept (s : State) :
    scheduleFrame s = { s with pkg := { s.pkg with tdsNow := (scheduleFrame s).pkg.tdsNow, tdctl := (scheduleFrame s).pkg.tdctl } } := by
  unfold scheduleFrame
  dsimp only
  split <;> rfl

theorem framed_pkg (s : State) : framed s = { s with pkg := (framed s).pkg } := by
  rw [framed, scheduleFrame_kept]
  rfl

theorem framed_caps (s : State) : (framed s).pkg.cap = (stepCaps s.pkg.capNext s.pkg.cap).2 ∧ (framed s).pkg.capNext = (stepCaps s.pkg.capNext s.pkg.cap).1 ∧
    (framed s).pkg.activity = s.pkg.activity + 1 ∧
    (framed s).pkg.below95 = if 100 * Config.powerEstimate s.pkg.activity < 95 * (stepCaps s.pkg.capNext s.pkg.cap).2 then min 16 (s.pkg.below95 + 1) else 0 := by
  rw [framed, scheduleFrame_kept]
  exact ⟨rfl, rfl, rfl, rfl⟩

theorem framed_table (s : State) : (s.pkg.tdctl.getLsbD 0 = true → (framed s).pkg.tdsNow = s.pkg.tds ∧ (framed s).pkg.tdctl.getLsbD 0 = false ∧
      (framed s).pkg.tdctl.getLsbD 2 = s.pkg.tdctl.getLsbD 1) ∧
    (s.pkg.tdctl.getLsbD 0 = false → (framed s).pkg.tdsNow = s.pkg.tdsNow ∧ (framed s).pkg.tdctl = s.pkg.tdctl) := by
  constructor
  · intro h
    have he : framed s = _ := if_pos h
    rw [he]
    refine ⟨rfl, ?_, ?_⟩
    · refine (getLsbD_setBit _ (by decide) _ 0).trans ((if_neg (by decide)).trans ((getLsbD_setBit _ (by decide) _ 0).trans (if_pos rfl)))
    · exact (getLsbD_setBit _ (by decide) _ 2).trans (if_pos rfl)
  · intro h
    have he : framed s = powerFrame s := if_neg (by rw [show bit (powerFrame s).pkg.tdctl 0 = s.pkg.tdctl.getLsbD 0 from rfl, h]; exact Bool.noConfusion)
    rw [he]
    exact ⟨rfl, rfl⟩

theorem frameBoundaries : FrameBoundaries := by
  intro s p est d
  refine ⟨fun h => ?_, fun hs1 hdue h1 h8 => ?_, fun v h => ?_, fun v h => ?_, fun fn v h => ?_⟩
  · have hn : frameDue s = false := by
      rcases h with h | h
      · rw [frameDue, show s.pkg.stage1 = false from h, Bool.false_and]
      · rw [frameDue, decide_eq_false (Nat.not_le.mpr h), Bool.and_false]
    rw [exec_frameBoundary, execFrameBoundary, hn]
    rfl
  · have hd : frameDue s = true := by rw [frameDue, show s.pkg.stage1 = true from hs1, decide_eq_true hdue]; rfl
    have hexec : exec .frameBoundary s = .next (framed s) := by rw [exec_frameBoundary, execFrameBoundary, hd]; rfl
    obtain ⟨hlo, hhi⟩ := boundaryDuty_range (s := s) h1 h8
    obtain ⟨hcap, hnext, hact, hbelow⟩ := framed_caps s
    have hduty := pkst_framed_duty hhi
    have hhit := pkst_framed_hit s
    refine ⟨framed s, hexec, framed_pkg s, hact, ?_, ?_, fun hc => ⟨?_, ?_, ?_⟩, fun c hc => ?_, fun c hc => ⟨?_, ?_⟩, fun hd8 hlt => ?_, fun hlt => ?_, framed_table s⟩
    · rw [hduty]; exact hlo
    · rw [hduty]; exact hhi
    · rw [hcap, show s.pkg.capNext = [] from hc]; rfl
    · rw [hbelow, show s.pkg.capNext = [] from hc]; rfl
    · rw [hduty, boundaryDuty, show s.pkg.capNext = [] from hc, pkst_bit]
      unfold nextDuty
      by_cases htrip : bit s.pkg.pkst 10 = true
      · rw [if_pos htrip, if_pos htrip, if_pos rfl]
      · rw [if_neg htrip, if_neg htrip, if_neg Nat.zero_ne_one]
        exact ite_congr rfl (fun _ => rfl) fun _ => ite_congr (propext sixteen_below) (fun _ => rfl) fun _ => rfl
    · rw [hcap, show s.pkg.capNext = [(c, 1)] from hc]; rfl
    · rw [hcap, show s.pkg.capNext = [(c, 2)] from hc]; rfl
    · rw [hnext, show s.pkg.capNext = [(c, 2)] from hc]; rfl
    · rw [hduty] at hlt
      rw [hhit, if_pos]
      rw [leavesFull, decide_eq_true hlt, decide_eq_true (show 8 ≤ dutyOf s from Nat.le_of_eq hd8.symm)]
      rfl
    · rw [hhit, if_neg]
      rw [leavesFull, decide_eq_false (show ¬ 8 ≤ dutyOf s from Nat.not_le.mpr hlt), Bool.and_false]
      exact Bool.noConfusion
  · have hr : ready s = false := by
      rw [pkst_bit] at h
      rw [ready]
      by_contra hb
      rw [if_pos (eq_true_of_ne_false hb)] at h
      exact absurd h (by decide)
    rw [exec_pwrcapWrite, execPwrcapWrite, if_neg (not_not.mpr rfl), hr]
    rfl
  · have hr : ready s = true := by
      rw [pkst_bit] at h
      by_contra hb
      rw [if_neg (show ¬ bit s.pkg.pkst 8 = true from hb)] at h
      exact absurd h (by decide)
    have he : exec (.pwrcapWrite .pf v) s = .next (setCap v s) := by
      rw [exec_pwrcapWrite, execPwrcapWrite, if_neg (not_not.mpr rfl), hr]
      rfl
    have hv : bits v 11 0 = v.toNat % 2 ^ 12 := by rw [bits, Nat.pow_zero, Nat.div_one]
    refine ⟨_, he, rfl, hv, rfl, ?_⟩
    rw [← hv]
    rfl
  · rw [exec_pwrcapWrite, execPwrcapWrite, if_pos h]


/-! ### Temperature (R14) and the schedule (R31) -/

theorem setTemp_hot (a b : Nat) (s : State) : (setTemp 1 b (setTemp 0 a s)).pkg.temp0 = a ∧ (setTemp 1 b (setTemp 0 a s)).pkg.temp1 = b := ⟨rfl, rfl⟩

theorem reading_shutdown {s : State} (h : 115 ≤ max s.pkg.temp0 s.pkg.temp1) : (reading s).pkg.powered = false := by
  rw [reading, if_pos h]

theorem reading_trip {s : State} (h : max s.pkg.temp0 s.pkg.temp1 < 115) (h' : 105 ≤ max s.pkg.temp0 s.pkg.temp1) :
    reading s = { s with pkg := { s.pkg with pkst := setBit s.pkg.pkst 10 true } } :=
  (if_neg (Nat.not_le.mpr h)).trans (if_pos h')

theorem reading_cool {s : State} (h : max s.pkg.temp0 s.pkg.temp1 < 95) :
    reading s = { s with pkg := { s.pkg with pkst := setBit s.pkg.pkst 10 false } } :=
  (if_neg (by omega)).trans ((if_neg (by omega)).trans (if_pos h))

theorem reading_warm {s : State} (h : 95 ≤ max s.pkg.temp0 s.pkg.temp1) (h' : max s.pkg.temp0 s.pkg.temp1 < 105) : reading s = s :=
  (if_neg (by omega)).trans ((if_neg (by omega)).trans (if_neg (by omega)))

theorem pkstKept_setBit {s t : State} {b : Bool} (h : t.pkg.pkst = setBit s.pkg.pkst 10 b) : PkstKept 10 10 s t := by
  intro n _ hn
  rw [h, getLsbD_setBit _ (by decide), if_neg (by omega)]

theorem pkst_setBit_true {t : State} (w : Word) (h : t.pkg.pkst = setBit w 10 true) : pkst t 10 10 = 1 := by
  rw [pkst_eq, h, bits_setBit_self _ (by decide)]
  rfl

theorem pkst_setBit_false {t : State} (w : Word) (h : t.pkg.pkst = setBit w 10 false) : pkst t 10 10 = 0 := by
  rw [pkst_eq, h, bits_setBit_self _ (by decide)]
  rfl

/-- A sensor read at a die, the other die's reading below the shutdown (R14). -/
theorem reading_setTemp_shutdown {s : State} (die : Nat) {x : Nat} (h : 115 ≤ x) : (reading (setTemp die x s)).pkg.powered = false := by
  apply reading_shutdown
  unfold setTemp
  split
  · exact Nat.le_trans h (Nat.le_max_left ..)
  · exact Nat.le_trans h (Nat.le_max_right ..)

theorem reading_setTemp_trip {s : State} (die : Nat) {x : Nat} (h : 105 ≤ x) (hold : max s.pkg.temp0 s.pkg.temp1 < 115) (hx : x < 115) :
    pkst (reading (setTemp die x s)) 10 10 = 1 := by
  have hhot : max (setTemp die x s).pkg.temp0 (setTemp die x s).pkg.temp1 < 115 ∧ 105 ≤ max (setTemp die x s).pkg.temp0 (setTemp die x s).pkg.temp1 := by
    unfold setTemp
    split <;> constructor <;> dsimp only <;> omega
  rw [reading_trip hhot.1 hhot.2]
  exact pkst_setBit_true (setTemp die x s).pkg.pkst rfl

theorem slotEntry_eq (s : State) (n : Nat) : slotEntry s n = (spGet 0 s.pkg.tds (n / 8)).toNat / 2 ^ (8 * (n % 8)) % 2 ^ 8 := by
  rw [slotEntry, bits, show 8 * (n % 8) + 7 + 1 - 8 * (n % 8) = 8 by omega]

theorem tableRefused_iff (s : State) : tableRefused s = true ↔
    (∃ n, n < 64 ∧ 128 ≤ slotEntry s n ∧ 19 < slotEntry s n % 32) ∨ ∀ n, n < 64 → 128 ≤ slotEntry s n := by
  simp [tableRefused, upTo]

theorem thermalAndSchedule : ThermalAndSchedule := by
  intro s t0 t1 die
  have hexec : exec (.thermalTripEnd t0 t1) s = .next (reading (setTemp 1 t1 (setTemp 0 t0 s))) := by rw [exec_thermalTripEnd, execThermalTripEnd]
  refine ⟨fun h => ⟨_, hexec, reading_shutdown h⟩, fun h h' => ⟨_, hexec, ?_⟩, fun h => ⟨_, hexec, ?_⟩, fun h h' => ⟨_, hexec, ?_⟩, fun i hi => ?_, ?_⟩
  · rw [reading_trip (s := setTemp 1 t1 (setTemp 0 t0 s)) h h']
    exact ⟨pkst_setBit_true s.pkg.pkst rfl, pkstKept_setBit rfl, rfl⟩
  · rw [reading_cool (s := setTemp 1 t1 (setTemp 0 t0 s)) h]
    exact ⟨pkst_setBit_false s.pkg.pkst rfl, pkstKept_setBit rfl⟩
  · rw [reading_warm (s := setTemp 1 t1 (setTemp 0 t0 s)) h h']
    rfl
  · have hi' : exec i s = .next (reading (setTemp die t0 s)) := by
      rcases hi with rfl | rfl
      · rw [exec_thermalTrip, execThermalTrip]
      · rw [exec_thermalShutdown, execThermalShutdown]
    exact ⟨fun h => ⟨_, hi', reading_setTemp_shutdown die h⟩, fun h hold hx => ⟨_, hi', reading_setTemp_trip die h hold hx⟩⟩
  · intro entry bad
    have hiff : tableRefused s = true ↔ bad := by
      have he : slotEntry s = entry := funext (slotEntry_eq s)
      have h := tableRefused_iff s
      rw [he] at h
      exact h
    have hswap : exec .tdctlSwap s = .next (swapTable s) := by rw [exec_tdctlSwap, execTdctlSwap]
    refine ⟨fun h => ?_, fun h => ⟨_, hswap, ?_⟩⟩
    · rw [hswap, swapTable, if_pos (hiff.mpr h)]
    · rw [swapTable, if_neg (fun hr => h (hiff.mp hr))]
      exact ⟨(getLsbD_setBit _ (by decide) _ 0).trans (if_pos rfl), rfl⟩

/-- Settles O47, from what a boundary, a cap, a reading and a table swap do. -/
theorem powerAndSchedule : Obligations.PowerAndSchedule := ⟨frameBoundaries, thermalAndSchedule⟩

end Sys2Proof.Machine
end

section
/-! Resets, PKST and the stages of bring-up (O46). -/

namespace Sys2Proof.Machine

open Sys2Proof.Claims

theorem hostTrained_iff (s : State) : hostTrained s = true ↔ 6 ≤ pkst s 7 4 := decide_eq_true_iff

/-! ### Resets and the status register (R14, R15, R17 to R20) -/

theorem clearCaphit_eq {s : State} (h : s.pkg.capSet ≠ s.cycle + 1) :
    clearCaphit s = { s with pkg := { s.pkg with pkst := setBit s.pkg.pkst 11 false } } := if_neg h

theorem resetsAndStatus : ResetsAndStatus := by
  intro s v c
  refine ⟨rfl, rfl, fun h => ?_, fun h => ⟨?_, ?_⟩, fun h => ?_, fun h h11 => ?_, fun h i hi => ?_, ?_, rfl⟩
  · rw [Restarts, exec_pkstWarmReset, execPkstWarmReset, (hostTrained_iff s).mpr h]
    rfl
  · rw [exec_pkstWarmReset, execPkstWarmReset, Bool.eq_false_iff.mpr fun h' => absurd ((hostTrained_iff s).mp h') (by omega)]
    rfl
  · rw [exec_pkstCaphitClear, execPkstCaphitClear, Bool.eq_false_iff.mpr fun h' => absurd ((hostTrained_iff s).mp h') (by omega)]
    rfl
  · rw [Restarts, exec_bmiWritePkst, execBmiWritePkst, if_pos (show bit v 52 = true from h)]
    rfl
  · rw [exec_bmiWritePkst, execBmiWritePkst, show bit v 52 = false from h, show bit v 11 = false from h11]
    rfl
  · have hexec : exec i s = .next (clearCaphit s) := by
      rcases hi with rfl | ⟨rfl, hn⟩ | ⟨rfl, h52, h11⟩
      · rfl
      · rw [exec_pkstCaphitClear, execPkstCaphitClear, (hostTrained_iff s).mpr hn]
        rfl
      · rw [exec_bmiWritePkst, execBmiWritePkst, show bit v 52 = false from h52, show bit v 11 = true from h11]
        rfl
    rw [clearCaphit_eq h] at hexec
    refine ⟨_, hexec, rfl, ?_, fun n _ hn => ?_⟩
    · rw [pkst_eq]
      exact bits_setBit_self _ (by decide) false
    · exact (getLsbD_setBit _ (by decide) false n).trans (if_neg (by omega))
  · rw [exec_bmiReadPkst, execBmiReadPkst, leList_eq_leBytesOf]
    rfl

/-! ### The stages of bring-up (R15, R16, R126) -/

theorem pkst_setStage (s : State) {n : Nat} (h : n < 16) : pkst (setStage n s) 7 4 = n := by
  rw [pkst_eq, setStage, bits_setBits_self _ (by decide) (by decide)]
  exact Nat.mod_eq_of_lt h

theorem pkst_setStage_other (n : Nat) (s : State) {hi lo : Nat} (h : hi < 4 ∨ 7 < lo) : pkst (setStage n s) hi lo = pkst s hi lo := by
  rw [pkst_eq, setStage]
  exact bits_setBits_other _ (by decide) (by decide) _ h

theorem pkst_stageFail (s : State) {n : Nat} (h : n < 16) :
    pkst (stageFail n s) 9 9 = 1 ∧ pkst (stageFail n s) 3 0 = n ∧ pkst (stageFail n s) 7 4 = pkst s 7 4 ∧ pkst (stageFail n s) 8 8 = pkst s 8 8 := by
  have hs : (stageFail n s).pkg.pkst = setBits (setBit s.pkg.pkst 9 true) 3 0 n := rfl
  have hother : ∀ {hi lo}, 3 < lo → hi < 9 ∨ 9 < lo → pkst (stageFail n s) hi lo = pkst s hi lo := fun h3 h9 => by
    rw [pkst_eq, hs, bits_setBits_other _ (by decide) (by decide) _ (.inr h3), bits_setBit_other _ (by decide) _ h9, pkst_eq]
  refine ⟨?_, ?_, hother (by decide) (.inl (by decide)), hother (by decide) (.inl (by decide))⟩
  · rw [pkst_eq, hs, bits_setBits_other _ (by decide) (by decide) _ (.inr (by decide)), bits_setBit_self _ (by decide)]
    rfl
  · rw [pkst_eq, hs, bits_setBits_self _ (by decide) (by decide)]
    exact Nat.mod_eq_of_lt h

theorem bit_of_pkst_zero {s : State} {n : Nat} (h : pkst s n n = 0) : bit s.pkg.pkst n = false := by
  rw [pkst_bit] at h
  by_contra hb
  rw [if_pos (eq_true_of_ne_false hb)] at h
  exact absurd h (by decide)

theorem stage_one {s : State} (hn : pkst s 7 4 = 1) (h9 : pkst s 9 9 = 0) (mask : Word) :
    exec (.bringupStageDone true mask) s = .next (setStage 2 { s with cycle := 0, issued := [], pkg := { s.pkg with stage1 := true } }) := by
  rw [exec_bringupStageDone]
  unfold execBringupStageDone
  rw [show bits s.pkg.pkst 7 4 = 1 from hn, bit_of_pkst_zero h9]
  rfl

theorem stage_two {s : State} (hn : pkst s 7 4 = 2) (h9 : pkst s 9 9 = 0) (ok : Bool) (mask : Word) {slot : Nat} (hslot : bootSlot s.fw = some slot) :
    exec (.bringupStageDone ok mask) s = .next (setStage 3 (bootWith slot s)) := by
  rw [exec_bringupStageDone]
  unfold execBringupStageDone
  rw [show bits s.pkg.pkst 7 4 = 2 from hn, bit_of_pkst_zero h9, hslot]
  rfl

theorem stage_two_stops {s : State} (hn : pkst s 7 4 = 2) (h9 : pkst s 9 9 = 0) (ok : Bool) (mask : Word) (hslot : bootSlot s.fw = none) :
    exec (.bringupStageDone ok mask) s = .next (stageFail 2 s) := by
  rw [exec_bringupStageDone]
  unfold execBringupStageDone
  rw [show bits s.pkg.pkst 7 4 = 2 from hn, bit_of_pkst_zero h9, hslot]
  rfl

/-- The memory stage's state: the quadrants' mask, and the array cleared. -/
def memoryCleared (s : State) : State :=
  { s with
    pkg := { s.pkg with pkst := setBits s.pkg.pkst 47 32 0xFFFF }
    mem := s.mem.filter fun c => decide (2 ^ 50 ≤ c.1), fe := s.fe.filter fun c => decide (2 ^ 47 ≤ c.1) }

theorem stage_three {s : State} (hn : pkst s 7 4 = 3) (h9 : pkst s 9 9 = 0) {mask : Word} (hm : bits mask 15 0 = 0xFFFF) :
    exec (.bringupStageDone true mask) s = .next (setStage 4 (memoryCleared s)) := by
  rw [exec_bringupStageDone]
  unfold execBringupStageDone
  rw [show bits s.pkg.pkst 7 4 = 3 from hn, bit_of_pkst_zero h9, hm]
  rfl

theorem stage_three_stops {s : State} (hn : pkst s 7 4 = 3) (h9 : pkst s 9 9 = 0) (ok : Bool) {mask : Word} (hm : bits mask 15 0 ≠ 0xFFFF) :
    exec (.bringupStageDone ok mask) s = .next (stageFail 3 { s with pkg := { s.pkg with pkst := setBits s.pkg.pkst 47 32 (bits mask 15 0) } }) := by
  rw [exec_bringupStageDone]
  unfold execBringupStageDone
  rw [show bits s.pkg.pkst 7 4 = 3 from hn, bit_of_pkst_zero h9]
  exact if_pos (And.intro rfl (Or.inr hm))

theorem stage_four {s : State} (hn : pkst s 7 4 = 4) (h9 : pkst s 9 9 = 0) (mask : Word) :
    exec (.bringupStageDone true mask) s = .next (setStage 5 { s with
      mem := s.mem.filter fun c => decide (c.1 < 2 ^ 50), fe := s.fe.filter fun c => decide (c.1 < 2 ^ 47), threads := [], cores := [] }) := by
  rw [exec_bringupStageDone]
  unfold execBringupStageDone
  rw [show bits s.pkg.pkst 7 4 = 4 from hn, bit_of_pkst_zero h9]
  rfl

theorem stage_five {s : State} (hn : pkst s 7 4 = 5) (h9 : pkst s 9 9 = 0) (mask : Word) :
    exec (.bringupStageDone true mask) s = .next (setStage 6 (trainPort 16 16 (if bits mask 1 0 = 2 then 2 else 3) s)) := by
  rw [exec_bringupStageDone]
  unfold execBringupStageDone
  rw [show bits s.pkg.pkst 7 4 = 5 from hn, bit_of_pkst_zero h9]
  rfl

theorem stage_six {s : State} (hn : pkst s 7 4 = 6) (h9 : pkst s 9 9 = 0) (ok : Bool) (mask : Word) :
    exec (.bringupStageDone ok mask) s = .next (setStage 7 (trainPorts mask s)) := by
  rw [exec_bringupStageDone]
  unfold execBringupStageDone
  rw [show bits s.pkg.pkst 7 4 = 6 from hn, bit_of_pkst_zero h9]
  rfl

theorem stage_seven {s : State} (hn : pkst s 7 4 = 7) (h9 : pkst s 9 9 = 0) (mask : Word) :
    exec (.bringupStageDone true mask) s = .next (setStage 8 (startPolicy s)) := by
  rw [exec_bringupStageDone]
  unfold execBringupStageDone
  rw [show bits s.pkg.pkst 7 4 = 7 from hn, bit_of_pkst_zero h9]
  rfl

theorem stage_stops {s : State} {n : Nat} (hn : pkst s 7 4 = n) (h9 : pkst s 9 9 = 0) (h : n = 1 ∨ n = 4 ∨ n = 5 ∨ n = 7) (mask : Word) :
    exec (.bringupStageDone false mask) s = .next (stageFail n s) := by
  rw [exec_bringupStageDone]
  unfold execBringupStageDone
  rw [show bits s.pkg.pkst 7 4 = n from hn, bit_of_pkst_zero h9]
  rcases h with rfl | rfl | rfl | rfl <;> rfl

/-! ### Ports trained (R17) -/

/-- The port that bit `n` of the ports' mask stands for. -/
def portKey (n : Nat) : Nat := if n < 16 then n else n + 1

/-- A port as training leaves it. -/
def trainedPort (mask : Word) (n : Nat) (old : Port) : Port :=
  if bit mask n then (if n < 16 then ⟨true, if bit mask (32 + n) then 2 else 3, 8, 8, false, false, []⟩ else ⟨true, 3, 0, 0, false, false, []⟩) else old

/-- The training of one port. -/
def trainBit (mask : Word) (s : State) (n : Nat) : State :=
  if bit mask n then (if n < 16 then trainPort n 8 (if bit mask (32 + n) then 2 else 3) s else trainPort (n + 1) 0 3 s) else s

theorem trainPort_ports (p lanes gen : Nat) (s : State) :
    (trainPort p lanes gen s).ports = spSet Port.reset s.ports p ⟨true, gen, lanes, lanes, false, false, []⟩ := rfl

theorem portKey_inj {m n : Nat} (h : portKey m = portKey n) : m = n := by
  unfold portKey at h
  split at h <;> split at h <;> omega

theorem trainBit_self (mask : Word) (s : State) (n : Nat) :
    spGet Port.reset (trainBit mask s n).ports (portKey n) = trainedPort mask n (spGet Port.reset s.ports (portKey n)) := by
  unfold trainBit trainedPort portKey
  by_cases hb : bit mask n
  · rw [if_pos hb, if_pos hb]
    by_cases hn : n < 16
    · rw [if_pos hn, if_pos hn, if_pos hn, trainPort_ports, spGet_spSet_self]
    · rw [if_neg hn, if_neg hn, if_neg hn, trainPort_ports, spGet_spSet_self]
  · rw [if_neg hb, if_neg hb]

theorem trainBit_other (mask : Word) (s : State) {n p : Nat} (h : p ≠ portKey n) :
    spGet Port.reset (trainBit mask s n).ports p = spGet Port.reset s.ports p := by
  unfold trainBit
  unfold portKey at h
  split
  · split
    · next hn => rw [if_pos hn] at h; rw [trainPort_ports, spGet_spSet_other _ _ h]
    · next hn => rw [if_neg hn] at h; rw [trainPort_ports, spGet_spSet_other _ _ h]
  · rfl

theorem foldl_trainBit_other (mask : Word) {p : Nat} (l : List Nat) (h : ∀ n ∈ l, p ≠ portKey n) (s : State) :
    spGet Port.reset (l.foldl (trainBit mask) s).ports p = spGet Port.reset s.ports p := by
  induction l generalizing s with
  | nil => rfl
  | cons a l ih => rw [List.foldl_cons, ih fun n hn => h n (List.mem_cons_of_mem _ hn), trainBit_other _ _ (h a List.mem_cons_self)]

theorem foldl_trainBit_self (mask : Word) {n : Nat} (l : List Nat) (hl : l.Nodup) (hn : n ∈ l) (s : State) :
    spGet Port.reset (l.foldl (trainBit mask) s).ports (portKey n) = trainedPort mask n (spGet Port.reset s.ports (portKey n)) := by
  induction l generalizing s with
  | nil => exact absurd hn List.not_mem_nil
  | cons a l ih =>
    obtain ⟨ha, hl'⟩ := List.nodup_cons.mp hl
    rw [List.foldl_cons]
    by_cases hna : n = a
    · subst hna
      rw [foldl_trainBit_other mask l fun m hm he => ha (by rw [portKey_inj he]; exact hm), trainBit_self]
    · have hn' : n ∈ l := (List.mem_cons.mp hn).resolve_left hna
      rw [ih hl' hn', trainBit_other _ _ fun he => hna (portKey_inj he)]

theorem trainPorts_eq (mask : Word) (s : State) : trainPorts mask s =
    { (upTo 18).foldl (trainBit mask) s with
      pkg := { ((upTo 18).foldl (trainBit mask) s).pkg with pkst := setBits ((upTo 18).foldl (trainBit mask) s).pkg.pkst 31 16 (bits mask 15 0) } } := rfl

theorem foldl_trainBit_pkg (mask : Word) (l : List Nat) (s : State) : (l.foldl (trainBit mask) s).pkg = s.pkg := by
  induction l generalizing s with
  | nil => rfl
  | cons a l ih =>
    rw [List.foldl_cons, ih]
    unfold trainBit
    split
    · split <;> rfl
    · rfl

theorem trainPorts_port (mask : Word) (s : State) {n : Nat} (hn : n < 18) :
    spGet Port.reset (trainPorts mask s).ports (portKey n) = trainedPort mask n (spGet Port.reset s.ports (portKey n)) :=
  foldl_trainBit_self mask _ List.nodup_range (List.mem_range.mpr hn) s

theorem trainPorts_pkst (mask : Word) (s : State) : (trainPorts mask s).pkg.pkst = setBits s.pkg.pkst 31 16 (bits mask 15 0) := by
  rw [trainPorts_eq]
  dsimp only
  rw [foldl_trainBit_pkg]

/-! ### What each stage leaves -/

/-- What a stage that ends well leaves (R16). -/
def BringsOn (mask : Word) (s : State) (n : Nat) (t : State) : Prop :=
  pkst t 7 4 = n + 1 ∧ pkst t 9 9 = 0 ∧
    (n = 2 → bootSlot s.fw = some t.fw.running ∧ pkst t 12 12 = t.fw.running % 2) ∧ (n = 6 → pkst t 31 16 = mask.toNat % 2 ^ 16) ∧
    (n = 3 → pkst t 47 32 = 2 ^ 16 - 1) ∧ pkst t 8 8 = (if n = 7 then 1 else pkst s 8 8) ∧
    (n = 5 → spGet Port.reset t.ports 16 = ⟨true, if mask.toNat % 4 = 2 then 2 else 3, 16, 16, false, false, []⟩) ∧
    (n = 6 → ∀ p, p < 16 → spGet Port.reset t.ports p =
      if mask.getLsbD p = true then ⟨true, if mask.getLsbD (32 + p) = true then 2 else 3, 8, 8, false, false, []⟩ else spGet Port.reset s.ports p) ∧
    (n = 6 → ∀ p, p = 16 ∨ p = 17 → mask.getLsbD p = true → (spGet Port.reset t.ports (p + 1)).up = true) ∧
    (n = 7 → (getCtx t 0).live = true ∧ (getCtx t 0xFFFF).live = true ∧ (getNode t (getCtx t 0).root).v = true ∧ (getNode t (getCtx t 0xFFFF).root).v = true)

theorem bits_low16 (w : Word) : bits w 15 0 = w.toNat % 2 ^ 16 := by rw [bits, Nat.pow_zero, Nat.div_one]

theorem bits_low2 (w : Word) : bits w 1 0 = w.toNat % 4 := by
  rw [bits, Nat.pow_zero, Nat.div_one]
  rfl

theorem pkst_bootWith_other (slot : Nat) (s : State) {hi lo : Nat} (h : hi < 12 ∨ 12 < lo) : pkst (bootWith slot s) hi lo = pkst s hi lo := by
  rw [pkst_eq, show (bootWith slot s).pkg.pkst = setBits s.pkg.pkst 12 12 slot from rfl]
  exact bits_setBits_other _ (by decide) (by decide) _ h

theorem pkst_trainPorts_other (mask : Word) (s : State) {hi lo : Nat} (h : hi < 16 ∨ 31 < lo) : pkst (trainPorts mask s) hi lo = pkst s hi lo := by
  rw [pkst_eq, trainPorts_pkst]
  exact bits_setBits_other _ (by decide) (by decide) _ h

theorem brings_one (mask : Word) {s t : State} (h9 : pkst s 9 9 = 0) (hp : t.pkg.pkst = s.pkg.pkst) : BringsOn mask s 1 (setStage 2 t) := by
  have hsame : ∀ hi lo, pkst t hi lo = pkst s hi lo := fun hi lo => by rw [pkst_eq, hp, pkst_eq]
  refine ⟨pkst_setStage _ (by decide), ?_, fun h => absurd h (by decide), fun h => absurd h (by decide), fun h => absurd h (by decide), ?_,
    fun h => absurd h (by decide), fun h => absurd h (by decide), fun h => absurd h (by decide), fun h => absurd h (by decide)⟩
  · rw [pkst_setStage_other _ _ (.inr (by decide)), hsame, h9]
  · rw [pkst_setStage_other _ _ (.inr (by decide)), hsame, if_neg (by decide)]

theorem brings_four (mask : Word) {s t : State} (h9 : pkst s 9 9 = 0) (hp : t.pkg.pkst = s.pkg.pkst) : BringsOn mask s 4 (setStage 5 t) := by
  have hsame : ∀ hi lo, pkst t hi lo = pkst s hi lo := fun hi lo => by rw [pkst_eq, hp, pkst_eq]
  refine ⟨pkst_setStage _ (by decide), ?_, fun h => absurd h (by decide), fun h => absurd h (by decide), fun h => absurd h (by decide), ?_,
    fun h => absurd h (by decide), fun h => absurd h (by decide), fun h => absurd h (by decide), fun h => absurd h (by decide)⟩
  · rw [pkst_setStage_other _ _ (.inr (by decide)), hsame, h9]
  · rw [pkst_setStage_other _ _ (.inr (by decide)), hsame, if_neg (by decide)]

theorem brings_two (mask : Word) {s : State} (h9 : pkst s 9 9 = 0) {slot : Nat} (hslot : bootSlot s.fw = some slot) :
    BringsOn mask s 2 (setStage 3 (bootWith slot s)) := by
  refine ⟨pkst_setStage _ (by decide), ?_, fun _ => ⟨hslot, ?_⟩, fun h => absurd h (by decide), fun h => absurd h (by decide), ?_,
    fun h => absurd h (by decide), fun h => absurd h (by decide), fun h => absurd h (by decide), fun h => absurd h (by decide)⟩
  · rw [pkst_setStage_other _ _ (.inr (by decide)), pkst_bootWith_other _ _ (.inl (by decide)), h9]
  · rw [pkst_setStage_other _ _ (.inr (by decide)), pkst_eq]
    exact bits_setBits_self _ (by decide) (by decide) _
  · rw [pkst_setStage_other _ _ (.inr (by decide)), pkst_bootWith_other _ _ (.inl (by decide)), if_neg (by decide)]

theorem brings_three (mask : Word) {s : State} (h9 : pkst s 9 9 = 0) : BringsOn mask s 3 (setStage 4 (memoryCleared s)) := by
  have hother : ∀ hi lo, hi < 32 → pkst (memoryCleared s) hi lo = pkst s hi lo := fun hi lo h => bits_setBits_other _ (by decide) (by decide) _ (.inl h)
  refine ⟨pkst_setStage _ (by decide), ?_, fun h => absurd h (by decide), fun h => absurd h (by decide), fun _ => ?_, ?_,
    fun h => absurd h (by decide), fun h => absurd h (by decide), fun h => absurd h (by decide), fun h => absurd h (by decide)⟩
  · rw [pkst_setStage_other _ _ (.inr (by decide)), hother _ _ (by decide), h9]
  · rw [pkst_setStage_other _ _ (.inr (by decide)), pkst_eq]
    exact bits_setBits_self _ (by decide) (by decide) _
  · rw [pkst_setStage_other _ _ (.inr (by decide)), hother _ _ (by decide), if_neg (by decide)]

theorem brings_five (mask : Word) {s : State} (h9 : pkst s 9 9 = 0) :
    BringsOn mask s 5 (setStage 6 (trainPort 16 16 (if bits mask 1 0 = 2 then 2 else 3) s)) := by
  refine ⟨pkst_setStage _ (by decide), ?_, fun h => absurd h (by decide), fun h => absurd h (by decide), fun h => absurd h (by decide), ?_,
    fun _ => ?_, fun h => absurd h (by decide), fun h => absurd h (by decide), fun h => absurd h (by decide)⟩
  · rw [pkst_setStage_other _ _ (.inr (by decide))]
    exact h9
  · rw [pkst_setStage_other _ _ (.inr (by decide)), if_neg (show (5 : Nat) ≠ 7 by decide)]
    rfl
  · rw [bits_low2]
    exact (congrArg (spGet Port.reset · 16) (trainPort_ports ..)).trans (spGet_spSet_self ..)

theorem brings_six (mask : Word) {s : State} (h9 : pkst s 9 9 = 0) : BringsOn mask s 6 (setStage 7 (trainPorts mask s)) := by
  refine ⟨pkst_setStage _ (by decide), ?_, fun h => absurd h (by decide), fun _ => ?_, fun h => absurd h (by decide), ?_,
    fun h => absurd h (by decide), fun _ p hp => ?_, fun _ p hp hb => ?_, fun h => absurd h (by decide)⟩
  · rw [pkst_setStage_other _ _ (.inr (by decide)), pkst_trainPorts_other _ _ (.inl (by decide)), h9]
  · rw [pkst_setStage_other _ _ (.inr (by decide)), pkst_eq, trainPorts_pkst, bits_setBits_self _ (by decide) (by decide), bits_low16]
    exact Nat.mod_mod ..
  · rw [pkst_setStage_other _ _ (.inr (by decide)), pkst_trainPorts_other _ _ (.inl (by decide)), if_neg (by decide)]
  · have hport := trainPorts_port mask s (n := p) (by omega)
    rw [portKey, if_pos hp, trainedPort, if_pos hp] at hport
    exact hport
  · have hport := trainPorts_port mask s (n := p) (by omega)
    rw [portKey, if_neg (by omega), trainedPort, if_pos (show bit mask p = true from hb), if_neg (by omega)] at hport
    exact congrArg Port.up hport

theorem deviceNodes_from : ∀ d ∈ deviceNodes, 3 ≤ d.1 := by decide

theorem foldl_spSet_other {k : Nat} (l : List (Nat × Node × List Byte)) (h : ∀ d ∈ l, k ≠ d.1) (m : Sp Node) :
    spGet Node.none (l.foldl (fun m d => spSet Node.none m d.1 d.2.1) m) k = spGet Node.none m k := by
  induction l generalizing m with
  | nil => rfl
  | cons d l ih => rw [List.foldl_cons, ih fun d' hd => h d' (List.mem_cons_of_mem _ hd), spGet_spSet_other _ _ (h d List.mem_cons_self)]

theorem startPolicy_ctxs (s : State) : (startPolicy s).ctxs =
    spSet Ctx.none (spSet Ctx.none s.ctxs 0 { Ctx.none with live := true, root := 1 }) 0xFFFF { Ctx.none with live := true, root := 2 } := rfl

/-- The contexts and the roots that the last stage makes. -/
theorem startPolicy_roots (s : State) : getCtx (startPolicy s) 0 = { Ctx.none with live := true, root := 1 } ∧
    getCtx (startPolicy s) 0xFFFF = { Ctx.none with live := true, root := 2 } ∧ getNode (startPolicy s) 1 = Node.root 0 ∧
    getNode (startPolicy s) 2 = Node.root 0xFFFF := by
  have hnodes : ∀ k, k < 3 → getNode (startPolicy s) k = spGet Node.none (spSet Node.none (spSet Node.none s.nodes 1 (Node.root 0)) 2 (Node.root 0xFFFF)) k := by
    intro k hk
    exact foldl_spSet_other deviceNodes (fun d hd he => absurd (deviceNodes_from d hd) (by omega)) _
  refine ⟨?_, ?_, ?_, ?_⟩
  · rw [getCtx, startPolicy_ctxs, spGet_spSet_other _ _ (by decide), spGet_spSet_self]
  · rw [getCtx, startPolicy_ctxs, spGet_spSet_self]
  · rw [hnodes 1 (by decide), spGet_spSet_other _ _ (by decide), spGet_spSet_self]
  · rw [hnodes 2 (by decide), spGet_spSet_self]

theorem brings_seven (mask : Word) {s : State} (h9 : pkst s 9 9 = 0) : BringsOn mask s 7 (setStage 8 (startPolicy s)) := by
  obtain ⟨hctx0, hctx1, hroot0, hroot1⟩ := startPolicy_roots s
  refine ⟨pkst_setStage _ (by decide), ?_, fun h => absurd h (by decide), fun h => absurd h (by decide), fun h => absurd h (by decide), ?_,
    fun h => absurd h (by decide), fun h => absurd h (by decide), fun h => absurd h (by decide), fun _ => ⟨?_, ?_, ?_, ?_⟩⟩
  · rw [pkst_setStage_other _ _ (.inr (by decide))]
    exact (bits_setBit_other _ (by decide) _ (.inr (by decide))).trans h9
  · rw [pkst_setStage_other _ _ (.inr (by decide)), if_pos rfl]
    exact bits_setBit_self _ (by decide) _
  · exact congrArg Ctx.live hctx0
  · exact congrArg Ctx.live hctx1
  · refine (congrArg (fun c => (getNode (startPolicy s) c.root).v) hctx0).trans (congrArg Node.v hroot0)
  · refine (congrArg (fun c => (getNode (startPolicy s) c.root).v) hctx1).trans (congrArg Node.v hroot1)

/-- What a stage that fails leaves (R16). -/
theorem stops_of {s : State} {n : Nat} (hn8 : n < 16) (hn : pkst s 7 4 = n) {i : Instr} (h : exec i s = .next (stageFail n s)) :
    ∃ t, exec i s = .next t ∧ pkst t 9 9 = 1 ∧ pkst t 3 0 = n ∧ pkst t 7 4 = n ∧ pkst t 8 8 = pkst s 8 8 := by
  obtain ⟨hfail, hcode, hstage, hready⟩ := pkst_stageFail s hn8
  exact ⟨_, h, hfail, hcode, hstage.trans hn, hready⟩

theorem stage_three_fails {s : State} (hn : pkst s 7 4 = 3) (h9 : pkst s 9 9 = 0) (ok : Bool) {mask : Word} (hm : bits mask 15 0 ≠ 0xFFFF) :
    ∃ t, exec (.bringupStageDone ok mask) s = .next t ∧ pkst t 9 9 = 1 ∧ pkst t 3 0 = 3 ∧ pkst t 7 4 = 3 ∧ pkst t 8 8 = pkst s 8 8 := by
  have hother : ∀ hi lo, hi < 32 → pkst { s with pkg := { s.pkg with pkst := setBits s.pkg.pkst 47 32 (bits mask 15 0) } } hi lo = pkst s hi lo :=
    fun hi lo h => bits_setBits_other _ (by decide) (by decide) _ (.inl h)
  obtain ⟨hfail, hcode, hstage, hready⟩ :=
    pkst_stageFail { s with pkg := { s.pkg with pkst := setBits s.pkg.pkst 47 32 (bits mask 15 0) } } (n := 3) (by decide)
  exact ⟨_, stage_three_stops hn h9 ok hm, hfail, hcode, (hstage.trans (hother _ _ (by decide))).trans hn, hready.trans (hother _ _ (by decide))⟩

theorem stage_rests {s : State} (h : pkst s 9 9 = 1 ∨ pkst s 7 4 = 0 ∨ 8 ≤ pkst s 7 4) (ok : Bool) (mask : Word) :
    exec (.bringupStageDone ok mask) s = .next s := by
  rw [exec_bringupStageDone]
  refine if_pos ?_
  rcases h with h | h | h
  · refine .inl ?_
    rw [pkst_bit] at h
    by_contra hb
    rw [if_neg hb] at h
    exact absurd h (by decide)
  · exact .inr (.inl h)
  · exact .inr (.inr h)

theorem bringUp : BringUp := by
  intro mask s n goes stops
  have hgoes : ∀ (m : Nat) (ok : Bool) (t : State), n = m → exec (.bringupStageDone ok mask) s = .next t → BringsOn mask s m t → goes ok :=
    fun m ok t hm hexec hb => by subst hm; exact ⟨t, hexec, hb⟩
  have hstops : ∀ (m : Nat) (ok : Bool), m < 16 → n = m → exec (.bringupStageDone ok mask) s = .next (stageFail m s) → stops ok :=
    fun m ok hm16 hm hexec => by subst hm; exact stops_of hm16 rfl hexec
  refine ⟨fun h ok => stage_rests h ok mask, fun h9 => ⟨fun h => ?_, fun h => ?_, fun h => ?_, fun h hm => ?_, fun h hm ok => ?_, fun h hslot ok => ?_, fun h hslot ok => ?_⟩⟩
  · rcases h with h | h | h | h | h
    · exact hgoes 1 true _ h (stage_one h h9 mask) (brings_one mask h9 rfl)
    · exact hgoes 4 true _ h (stage_four h h9 mask) (brings_four mask h9 rfl)
    · exact hgoes 5 true _ h (stage_five h h9 mask) (brings_five mask h9)
    · exact hgoes 6 true _ h (stage_six h h9 true mask) (brings_six mask h9)
    · exact hgoes 7 true _ h (stage_seven h h9 mask) (brings_seven mask h9)
  · exact hgoes 6 false _ h (stage_six h h9 false mask) (brings_six mask h9)
  · exact hstops n false (by omega) rfl (stage_stops rfl h9 h mask)
  · exact hgoes 3 true _ h (stage_three h h9 ((bits_low16 mask).trans hm)) (brings_three mask h9)
  · obtain ⟨t, hexec, hfail, hcode, hstage, hready⟩ := stage_three_fails h h9 ok (mask := mask) fun hb => hm ((bits_low16 mask).symm.trans hb)
    exact ⟨t, hexec, hfail, hcode.trans h.symm, hstage.trans h.symm, hready⟩
  · obtain ⟨slot, hslot⟩ := Option.ne_none_iff_exists'.mp hslot
    exact hgoes 2 ok _ h (stage_two h h9 ok mask hslot) (brings_two mask h9 hslot)
  · exact hstops 2 ok (by decide) h (stage_two_stops h h9 ok mask hslot)

/-- Settles O46, stage by stage. -/
theorem resetAndBringUp : Obligations.ResetAndBringUp := ⟨resetsAndStatus, bringUp⟩

end Sys2Proof.Machine
end

section
/-! What stores change: those of harts, and those of agents, which reach memory and the words of units (R88, R100 to R103, R401). A relation that holds of what
follows a write (waits served, barriers released, latches hit) and of all that touches no thread, latch, port, partition or frame holds of a store. -/

namespace Sys2Proof.Machine

open Sys2Proof.Claims

/-- What a store leaves until what waits for its words is served. -/
structure StoreQuiet (s t : State) : Prop where
  threads : t.threads = s.threads
  latches : t.latches = s.latches
  ports : t.ports = s.ports
  media : t.media = s.media
  parts : t.parts = s.parts
  pkst : t.pkg.pkst = s.pkg.pkst
  routes : t.pkg.routeDown = s.pkg.routeDown

namespace StoreQuiet

theorem refl (s : State) : StoreQuiet s s := ⟨rfl, rfl, rfl, rfl, rfl, rfl, rfl⟩

theorem trans {a b c : State} (h : StoreQuiet a b) (k : StoreQuiet b c) : StoreQuiet a c :=
  ⟨k.threads.trans h.threads, k.latches.trans h.latches, k.ports.trans h.ports, k.media.trans h.media, k.parts.trans h.parts, k.pkst.trans h.pkst,
    k.routes.trans h.routes⟩

theorem wrByte (s : State) (k : Nat) (b : Byte) : StoreQuiet s (wrByte s k b) := ⟨rfl, rfl, rfl, rfl, rfl, rfl, rfl⟩

theorem wrRun (k : Nat) (bs : List Byte) (s : State) : StoreQuiet s (wrRun s k bs) := by
  induction bs generalizing s k with
  | nil => exact refl s
  | cons b bs ih => exact (wrByte s k b).trans (ih (k + 1) _)

theorem wrPieces (ps : List Piece) (bs : List Byte) (s : State) : StoreQuiet s (wrPieces s ps bs) := by
  induction ps generalizing s bs with
  | nil => exact refl s
  | cons p ps ih => exact (wrRun ..).trans (ih _ _)

theorem of_homeMoved {s t : State} (h : HomeMoved s t) : StoreQuiet s t := by
  rw [h]
  exact ⟨rfl, rfl, rfl, rfl, rfl, rfl, rfl⟩

end StoreQuiet

/-- A relation that the parts of a store keep. -/
structure StoreRel (R : State → State → Prop) : Prop where
  refl : ∀ s, R s s
  trans : ∀ {a b c}, R a b → R b c → R a c
  landed : ∀ s0 ps s, R s (afterWrite s0 ps s)
  hit : ∀ word s, R s (hitLatches word s)
  quiet : ∀ {s t}, StoreQuiet s t → R s t

namespace StoreRel

variable {R : State → State → Prop}

theorem still (A : StoreRel R) {s t : State} (h1 : t.threads = s.threads) (h2 : t.latches = s.latches) (h3 : t.ports = s.ports) (h4 : t.media = s.media)
    (h5 : t.parts = s.parts) (h6 : t.pkg.pkst = s.pkg.pkst) (h7 : t.pkg.routeDown = s.pkg.routeDown) : R s t := A.quiet ⟨h1, h2, h3, h4, h5, h6, h7⟩

/-- The same, after a step that touches none of these. -/
theorem after (A : StoreRel R) {a b c : State} (h : R b c) (h1 : b.threads = a.threads) (h2 : b.latches = a.latches) (h3 : b.ports = a.ports) (h4 : b.media = a.media)
    (h5 : b.parts = a.parts) (h6 : b.pkg.pkst = a.pkg.pkst) (h7 : b.pkg.routeDown = a.pkg.routeDown) : R a c := A.trans (A.still h1 h2 h3 h4 h5 h6 h7) h

theorem foldl (A : StoreRel R) {α : Type} {f : State → α → State} (h : ∀ s a, R s (f s a)) (l : List α) (s : State) : R s (l.foldl f s) :=
  foldl_rel A.refl (fun _ _ _ => A.trans) h l s

theorem setFe (A : StoreRel R) (s : State) (k : Nat) (b : Bool) : R s (setFe s k b) := A.still rfl rfl rfl rfl rfl rfl rfl

theorem store (A : StoreRel R) (core : Nat) (ps : List Piece) (data : List Byte) (fe : Nat) (s : State) : R s (storeFe core ps data fe s) := by
  unfold storeFe
  have hwritten : R s (keepWritten core ps (wrPieces (homeStore core ps s) ps data)) :=
    A.quiet (((StoreQuiet.of_homeMoved (homeMoved_homeStore ..)).trans (StoreQuiet.wrPieces ..)).trans (StoreQuiet.of_homeMoved (homeMoved_keepWritten ..)))
  dsimp only
  refine A.trans ?_ (A.landed ..)
  split
  · exact hwritten
  · exact A.trans hwritten (A.foldl (fun s w => A.setFe ..) _ _)

theorem pushOnce (A : StoreRel R) (e : Instr) (s : State) : R s (pushOnce e s) := by
  unfold Machine.pushOnce
  split
  · exact A.refl s
  · exact A.still rfl rfl rfl rfl rfl rfl rfl

theorem modQueue (A : StoreRel R) (s : State) (q : Nat) (f : GQueue → GQueue) : R s (modQueue s q f) := A.still rfl rfl rfl rfl rfl rfl rfl

theorem queueAppendTo (A : StoreRel R) (qn o ctx tenant pkg : Nat) (a : Word) (data : List Byte) {s s' : State} (h : queueAppendTo qn o ctx tenant pkg a data s = .ok s') :
    R s s' := by
  unfold Machine.queueAppendTo at h
  dsimp only at h
  split at h
  · cases h
  · split at h
    · cases h
    · split at h
      · split at h
        · cases h
        · cases h
          exact A.trans (A.trans (A.store ..) (A.store ..)) (A.modQueue ..)
      · cases h
      · cases h

theorem tailStore (A : StoreRel R) (qn : Nat) (v : Word) (s : State) : R s (tailStore qn v s) := by
  unfold Machine.tailStore
  dsimp only
  split
  · exact A.trans (A.modQueue ..) (A.pushOnce ..)
  · exact A.trans (A.modQueue ..) (A.pushOnce ..)

theorem queueStore (A : StoreRel R) (qn o ctx tenant : Nat) (a : Word) (data : List Byte) {s s' : State} (h : queueStore qn o ctx tenant a data s = .ok s') :
    R s s' := by
  unfold Machine.queueStore at h
  dsimp only at h
  split at h
  · exact A.queueAppendTo _ _ _ _ _ _ _ h
  · split at h
    · cases h
    · split at h
      · split at h
        · cases h
        · cases h
          exact A.tailStore ..
      · cases h
        split
        · exact A.trans (A.modQueue ..) (A.pushOnce ..)
        · exact A.refl s

theorem engineStore (A : StoreRel R) (node o ctx : Nat) (a : Word) (data : List Byte) {s s' : State} (h : engineStore node o ctx a data s = .ok s') :
    R s s' := by
  unfold Machine.engineStore at h
  split at h
  · unfold kickHart at h
    split at h
    · next hk =>
      cases h
      split at hk
      · cases hk
      · cases hk
        exact A.after (A.pushOnce ..) rfl rfl rfl rfl rfl rfl rfl
    · cases h
  · split at h
    · cases h
      exact A.refl s
    · cases h

theorem wrWord (A : StoreRel R) (s : State) (k : Nat) (v : Word) : R s (wrWord s k v) := A.quiet (StoreQuiet.wrRun ..)

theorem mediaControl (A : StoreRel R) (node : Nat) (v : Word) (s : State) : R s (mediaControl node v s) := by
  unfold Machine.mediaControl
  dsimp only
  split
  · exact A.after (A.wrWord ..) rfl rfl rfl rfl rfl rfl rfl
  · exact A.wrWord ..

theorem createStream (A : StoreRel R) (node : Nat) (v : Word) (s : State) : R s (createStream node v s).2 := by
  obtain ⟨code, -, h⟩ | ⟨at_, x, s1, hs1, -, h⟩ := createStream_ends node v s
  · rw [h]
    exact A.refl s
  · obtain ⟨⟨-, hkept⟩, -⟩ := installed_installEntries node (describedStream node v s) at_ s rfl x s1 hs1
    rw [h, hkept]
    exact A.still rfl rfl rfl rfl rfl rfl rfl

theorem streamStoreWord (A : StoreRel R) (node o i : Nat) (data : List Byte) (s : State) : R s (streamStoreWord node o i data s) := by
  unfold Machine.streamStoreWord
  dsimp only
  split
  · split
    · exact A.mediaControl ..
    · split
      · exact A.refl s
      · exact A.wrWord ..
  · split
    · split
      · exact A.trans (A.createStream ..) (A.wrWord ..)
      · exact A.refl s
    · split
      · exact A.refl s
      · split <;> exact A.wrWord ..

theorem streamStore (A : StoreRel R) (node : Nat) (a : Word) : ∀ (fuel o : Nat) (data : List Byte) {s s' : State}, streamStore node a fuel o data s = .ok s' → R s s'
  | 0, _, _, s, _, h => by cases h; exact A.refl s
  | fuel + 1, o, data, s, s', h => by
    unfold Machine.streamStore at h
    dsimp only at h
    split at h
    · cases h
      exact A.refl s
    · split at h
      · cases h
      · exact A.trans (A.streamStoreWord ..) (A.streamStore node a fuel _ _ h)

theorem unitStore (A : StoreRel R) (ctx tenant node kind o : Nat) (a : Word) (data : List Byte) {s s' : State} (h : unitStore ctx tenant node kind o a data s = .ok s') :
    R s s' := by
  unfold Machine.unitStore at h
  split at h
  · next u hu =>
    cases h
    refine A.trans ?_ (A.foldl (fun s l => A.hit ..) _ _)
    unfold unitEffect at hu
    split at hu
    · exact A.queueStore _ _ _ _ _ _ hu
    · exact A.engineStore _ _ _ _ _ hu
    · exact A.streamStore _ _ _ _ _ hu
    · split at hu
      · cases hu
        exact A.still rfl rfl rfl rfl rfl rfl rfl
      · cases hu
    · cases hu
  · cases h

theorem agentWrite (A : StoreRel R) (w : Who) (a : Word) (data : List Byte) (fe : Nat) {s s' : State} (h : agentWrite w a data fe s = .ok s') : R s s' := by
  unfold Machine.agentWrite at h
  split at h
  · cases h
  · split at h
    · cases h
    · split at h
      · cases h
      · cases h
        exact A.store ..
    · split at h
      · cases h
      · split at h
        · exact A.unitStore _ _ _ _ _ _ _ h
        · cases h
    · cases h

end StoreRel

end Sys2Proof.Machine
end

section
/-! What an answer through a failed link leaves of the ports and of memory (R71). -/

namespace Sys2Proof.Machine

open Sys2Proof.Claims

/-- The status register, the routes that are down, which ports are up and the media frames in progress stay. -/
structure PortsKept (s t : State) : Prop where
  pkst : t.pkg.pkst = s.pkg.pkst
  routes : t.pkg.routeDown = s.pkg.routeDown
  up : ∀ p, (spGet Port.reset t.ports p).up = (spGet Port.reset s.ports p).up
  media : t.media = s.media

namespace PortsKept

theorem refl (s : State) : PortsKept s s := ⟨rfl, rfl, fun _ => rfl, rfl⟩

theorem trans {a b c : State} (h : PortsKept a b) (k : PortsKept b c) : PortsKept a c :=
  ⟨k.pkst.trans h.pkst, k.routes.trans h.routes, fun p => (k.up p).trans (h.up p), k.media.trans h.media⟩

theorem of_eq {s t : State} (hpkg : t.pkg = s.pkg) (hports : t.ports = s.ports) (hmedia : t.media = s.media) : PortsKept s t := by
  refine ⟨?_, ?_, fun p => ?_, hmedia⟩
  · rw [hpkg]
  · rw [hpkg]
  · rw [hports]

theorem of_machineKept {s t : State} (h : MachineKept s t) : PortsKept s t := of_eq (by rw [h]) (by rw [h]) (by rw [h])

theorem of_storeMoved {s t : State} (h : StoreMoved s t) : PortsKept s t := of_eq (by rw [h.eq]) (by rw [h.eq]) (by rw [h.eq])

/-- The same, after a step that touches none of these. -/
theorem after {a b c : State} (h : PortsKept b c) (hpkg : b.pkg = a.pkg) (hports : b.ports = a.ports) (hmedia : b.media = a.media) : PortsKept a c :=
  (of_eq hpkg hports hmedia).trans h

theorem foldl {α : Type} {f : State → α → State} (h : ∀ s a, PortsKept s (f s a)) (l : List α) (s : State) : PortsKept s (l.foldl f s) := by
  induction l generalizing s with
  | nil => exact refl s
  | cons a l ih => exact (h s a).trans (ih _)

theorem asHart {t : Nat} {f : State → State} (h : ∀ s, PortsKept s (f s)) (s : State) : PortsKept s (asHart t f s) := by
  obtain ⟨hpkst, hroutes, hup, hmedia⟩ := h { s with me := t }
  exact ⟨hpkst, hroutes, hup, hmedia⟩

theorem modTh (s : State) (t : Nat) (f : Thread → Thread) : PortsKept s (modTh s t f) := of_eq rfl rfl rfl

theorem pushOnce (e : Instr) (s : State) : PortsKept s (pushOnce e s) := by
  unfold Machine.pushOnce
  split
  · exact refl s
  · exact of_eq rfl rfl rfl

theorem emit (r : HostReply) (s : State) : PortsKept s (emit r s) := by
  unfold Machine.emit
  split
  · exact of_eq rfl rfl rfl
  · next p _ =>
    dsimp only
    split
    · exact refl s
    · split
      · refine ⟨rfl, rfl, fun k => ?_, rfl⟩
        by_cases hk : k = p
        · subst hk
          rw [spGet_spSet_self]
        · rw [spGet_spSet_other _ _ hk]
      · exact of_eq rfl rfl rfl

theorem storeRel : StoreRel PortsKept where
  refl := refl
  trans := trans
  landed := fun _ _ _ => of_storeMoved (StoreMoved.afterWrite ..)
  hit := fun _ _ => of_storeMoved (StoreMoved.hitLatches ..)
  quiet := fun h => ⟨h.pkst, h.routes, fun p => by rw [h.ports], h.media⟩

theorem agentWrite (w : Who) (a : Word) (data : List Byte) (fe : Nat) {s s' : State} (h : agentWrite w a data fe s = .ok s') : PortsKept s s' :=
  storeRel.agentWrite w a data fe h

theorem setJ (s : State) (c e : Nat) (j : JEnt) : PortsKept s (setJ s c e j) := of_eq rfl rfl rfl

theorem writeRecord (t c e : Nat) (s : State) : PortsKept s (writeRecord t c e s) := by
  unfold Machine.writeRecord
  dsimp only
  split
  · exact setJ ..
  · split
    · next h => exact (agentWrite _ _ _ _ h).trans (setJ ..)
    · exact setJ ..

theorem checkLaunch (l : Nat) (s : State) : PortsKept s (checkLaunch l s) := by
  unfold Machine.checkLaunch
  split
  · exact pushOnce ..
  · exact refl s

theorem retireEntry (c e : Nat) (r : Option Refused) (s : State) : PortsKept s (retireEntry c e r s) := by
  unfold Machine.retireEntry
  dsimp only
  split
  · split
    · exact (setJ ..).trans (checkLaunch ..)
    · split
      · split
        · exact ((setJ ..).trans (writeRecord ..)).trans (checkLaunch ..)
        · exact (setJ ..).trans (checkLaunch ..)
      · exact (setJ ..).trans (checkLaunch ..)
  · exact refl s

theorem uncache (ring h : Nat) (s : State) : PortsKept s (uncache ring h s) := by
  refine foldl (fun s' e => ?_) _ s
  split
  · exact of_eq rfl rfl rfl
  · exact refl s'

theorem dropRef (node : Nat) (s : State) : PortsKept s (dropRef node s) := by
  unfold Machine.dropRef
  split
  · exact pushOnce ..
  · exact refl s

theorem freeKey (ring h : Nat) (s : State) : PortsKept s (freeKey ring h s) := by
  have hfree : PortsKept s (Machine.uncache ring h (setKey ring h KeyEntry.free s)) := after (uncache ring h (setKey ring h KeyEntry.free s)) rfl rfl rfl
  unfold Machine.freeKey
  dsimp only
  by_cases hv : (getKey s ring h).v = true
  · rw [hv]
    refine (congrArg (PortsKept s) (if_neg (by decide))).mpr ?_
    split
    · exact hfree.trans (emit ..)
    · exact hfree.trans (dropRef ..)
  · rw [eq_false_of_ne_true hv]
    exact refl s

theorem answerLoad (t : Nat) (l : Late) (a : RemoteAnswer) (s : State) : PortsKept s (answerLoad t l a s) := by
  unfold Machine.answerLoad
  split <;> exact of_eq rfl rfl rfl

theorem failLoads (hit : Nat → Nat → Bool) (t : Nat) (s : State) : PortsKept s (failLoads hit t s) :=
  foldl (fun s l => answerLoad t l unreach s) _ s

end PortsKept

/-! ### Answers with nothing to store -/

theorem endForward_unreach (f : Forward) (s : State) : endForward f unreach s = (failWord (statusFail 4) f.base, [], s) := if_pos (by decide)

/-- The end of a name instruction whose answer is UNREACH. -/
theorem answerName_unreach (t : Nat) (f : Forward) (d : Reg) (q : Bool) (s : State) : answerName t f d q unreach s =
    asHart t (fun s => retire s 4 q (addLate d (failWord (statusFail 4) f.base) s)) (catchUp (coreOf t) { s with forwards := s.forwards.erase f }) := by
  unfold answerName
  dsimp only
  rw [endForward_unreach]
  rfl

theorem machineKept_addLate (d : Reg) (v : Word) (s : State) : MachineKept s (addLate d v s) := rfl

theorem answerName_moved (t : Nat) (f : Forward) (d : Reg) (q : Bool) (s : State) :
    StoreMoved { s with forwards := s.forwards.erase f } (answerName t f d q unreach s) := by
  rw [answerName_unreach]
  refine (StoreMoved.catchUp ..).trans (StoreMoved.asHart (fun s => ?_) _)
  exact StoreMoved.of_machineKept (machineKept_retire (machineKept_addLate ..) ..)

theorem answerName_mem (t : Nat) (f : Forward) (d : Reg) (q : Bool) (s : State) : (answerName t f d q unreach s).mem = s.mem := by
  rw [answerName_unreach]
  unfold asHart
  dsimp only
  refine (mem_retire (mem_addLate ..) ..).trans ?_
  exact mem_catchUp (coreOf t) { s with forwards := s.forwards.erase f }

/-- A function's request that is answered UNREACH: a reply and no store. -/
theorem answerFunction_unreach (fn : HostFn) (f : Forward) (s : State) :
    ∃ r, answerFunction fn f unreach s = emit r { s with forwards := s.forwards.erase f } := by
  unfold answerFunction
  dsimp only
  split
  · exact ⟨_, rfl⟩
  · rw [endForward_unreach]
    exact ⟨_, rfl⟩

/-- What a failed request of any issuer leaves. -/
structure Quiet (s t : State) : Prop where
  ports : PortsKept s t
  mem : t.mem = s.mem
  journal : t.journal = s.journal

namespace Quiet

theorem refl (s : State) : Quiet s s := ⟨.refl s, rfl, rfl⟩

theorem trans {a b c : State} (h : Quiet a b) (k : Quiet b c) : Quiet a c := ⟨h.ports.trans k.ports, k.mem.trans h.mem, k.journal.trans h.journal⟩

theorem foldl {α : Type} {f : State → α → State} (h : ∀ s a, Quiet s (f s a)) (l : List α) (s : State) : Quiet s (l.foldl f s) := by
  induction l generalizing s with
  | nil => exact refl s
  | cons a l ih => exact (h s a).trans (ih _)

theorem emit (r : HostReply) (s : State) : Quiet s (emit r s) := by
  refine ⟨PortsKept.emit r s, ?_, ?_⟩
  · exact mem_emit r s
  · unfold Machine.emit
    split
    · rfl
    · dsimp only
      split
      · rfl
      · split <;> rfl

theorem erased {s t : State} {f : Forward} (h : Quiet { s with forwards := s.forwards.erase f } t) : Quiet s t :=
  ⟨h.ports.after rfl rfl rfl, h.mem, h.journal⟩

theorem answerForward (f : Forward) (s : State) : Quiet s (answerForward f unreach s) := by
  unfold Machine.answerForward
  split
  · next fn _ =>
    obtain ⟨r, hr⟩ := answerFunction_unreach fn f s
    rw [hr]
    exact erased (emit ..)
  · exact ⟨.of_eq rfl rfl rfl, rfl, rfl⟩
  · exact ⟨.of_eq rfl rfl rfl, rfl, rfl⟩

theorem failForward (f : Forward) (s : State) : Quiet s (failForward f s) := by
  unfold Machine.failForward
  split
  · split
    · have h := answerName_moved (f := f) (s := s)
      exact ⟨(PortsKept.of_storeMoved (h ..)).after rfl rfl rfl, answerName_mem .., (h ..).journal⟩
    · exact ⟨.of_eq rfl rfl rfl, rfl, rfl⟩
  · exact answerForward f s

theorem failLoads (hit : Nat → Nat → Bool) (t : Nat) (s : State) : Quiet s (failLoads hit t s) := by
  refine foldl (fun s l => ⟨PortsKept.answerLoad t l unreach s, mem_answerLoad .., ?_⟩) _ s
  unfold Machine.answerLoad
  split <;> rfl

end Quiet

/-- What a route that fails leaves (R71). -/
theorem loseRoutes_ports (hit : Nat → Nat → Bool) (s : State) : PortsKept s (loseRoutes hit s) :=
  (((Quiet.foldl (fun s t => Quiet.failLoads hit t s) _ s).trans (Quiet.foldl (fun s f => Quiet.failForward f s) _ _)).ports.trans
    (PortsKept.foldl (fun s _ => PortsKept.retireEntry _ _ _ s) _ _)).trans (PortsKept.foldl (fun s _ => PortsKept.freeKey _ _ s) _ _)

theorem loseRoutes_mem (hit : Nat → Nat → Bool) {s : State} (h : s.journal = []) : (loseRoutes hit s).mem = s.mem := by
  have hquiet : Quiet s (((((spKeys s.threads).foldl (fun s t => failLoads hit t s) s).forwards.filter fun f => hit f.tag.pkg f.tag.port).foldl
      (fun s f => failForward f s) ((spKeys s.threads).foldl (fun s t => failLoads hit t s) s))) :=
    (Quiet.foldl (fun s t => Quiet.failLoads hit t s) _ s).trans (Quiet.foldl (fun s f => Quiet.failForward f s) _ _)
  unfold loseRoutes
  dsimp only
  rw [hquiet.journal.trans h, List.filter_nil, List.foldl_nil]
  exact (mem_foldl (fun s e => mem_freeKey _ _ s) _ _).trans hquiet.mem

end Sys2Proof.Machine
end

section
/-! Links and arrays that fail (O48). -/

namespace Sys2Proof.Machine

open Sys2Proof.Claims

/-! ### Streams that lose inputs (R26, R43) -/

/-- What the loss of a stream's inputs keeps of the package, of the streams and of the deaths declared. -/
structure LossKept (s t : State) : Prop where
  pkg : t.pkg = s.pkg
  live : ∀ n, (getStream s n).v = true → (getStream t n).v = true
  failed : ∀ n, (getStream s n).failed = true → (getStream t n).failed = true
  declared : ∀ n m, Instr.inputDeadDeclare n m ∈ s.pending → Instr.inputDeadDeclare n m ∈ t.pending

namespace LossKept

theorem refl (s : State) : LossKept s s := ⟨rfl, fun _ h => h, fun _ h => h, fun _ _ h => h⟩

theorem trans {a b c : State} (h : LossKept a b) (k : LossKept b c) : LossKept a c :=
  ⟨k.pkg.trans h.pkg, fun n hn => k.live n (h.live n hn), fun n hn => k.failed n (h.failed n hn), fun n m hn => k.declared n m (h.declared n m hn)⟩

theorem foldl {α : Type} {f : State → α → State} (h : ∀ s a, LossKept s (f s a)) (l : List α) (s : State) : LossKept s (l.foldl f s) := by
  induction l generalizing s with
  | nil => exact refl s
  | cons a l ih => exact (h s a).trans (ih _)

end LossKept

/-- What wakes a stream's members touches no stream, no event and no register of the package. -/
structure OnlyThreads (s t : State) : Prop where
  eq : t = { s with threads := t.threads }

theorem onlyThreads_foldl {α : Type} {f : State → α → State} (h : ∀ s a, OnlyThreads s (f s a)) (l : List α) (s : State) : OnlyThreads s (l.foldl f s) := by
  induction l generalizing s with
  | nil => exact ⟨rfl⟩
  | cons a l ih =>
    obtain ⟨hfirst⟩ := h s a
    obtain ⟨hrest⟩ := ih (f s a)
    refine ⟨?_⟩
    rw [List.foldl_cons]
    generalize l.foldl f (f s a) = t at hrest ⊢
    rw [hrest]
    generalize f s a = u at hfirst ⊢
    rw [hfirst]

theorem onlyThreads_wakeMembers (node which : Nat) (s : State) : OnlyThreads s (wakeMembers node which s) := by
  refine onlyThreads_foldl (fun u m => ?_) _ s
  dsimp only
  split
  · exact ⟨rfl⟩
  · exact ⟨rfl⟩

theorem getStream_setStream_self (s : State) (n : Nat) (v : Stream) : getStream (setStream s n v) n = v := by
  rw [getStream, setStream, spGet_spSet_self]

theorem getStream_setStream_other (s : State) {n m : Nat} (h : m ≠ n) (v : Stream) : getStream (setStream s n v) m = getStream s m := by
  rw [getStream, setStream, spGet_spSet_other _ _ h]
  rfl

theorem failStream_live {node : Nat} {s : State} (hv : (getStream s node).v = true) (hf : (getStream s node).failed = false) :
    failStream node s = wakeMembers node 1 (modEntries node (fun e => { e with failed := true })
      (modStream (purgeStream node s) node fun x => { x with failed := true, frozen := false, awaited := [] })) := by
  unfold failStream
  dsimp only
  rw [hv, hf]
  rfl

theorem failStream_done {node : Nat} {s : State} (h : ¬ ((getStream s node).v = true ∧ (getStream s node).failed = false)) : failStream node s = s := by
  unfold failStream
  dsimp only
  refine if_neg fun hb => h ?_
  obtain ⟨hv, hf⟩ := Bool.and_eq_true_iff.mp hb
  exact ⟨hv, (Bool.not_eq_true' _).mp hf⟩

/-- A failure's streams and events. -/
theorem failStream_fields {node : Nat} {s : State} (hv : (getStream s node).v = true) (hf : (getStream s node).failed = false) :
    (failStream node s).pkg = s.pkg ∧ (failStream node s).pending = s.pending.filter (fun e => !chunkEvent node e) ∧
      (∀ n, n ≠ node → getStream (failStream node s) n = getStream s n) ∧
      (getStream (failStream node s) node).v = true ∧ (getStream (failStream node s) node).failed = true := by
  have hwake := (onlyThreads_wakeMembers node 1 (modEntries node (fun e => { e with failed := true })
      (modStream (purgeStream node s) node fun x => { x with failed := true, frozen := false, awaited := [] }))).eq
  have hstreams : ∀ n, getStream (failStream node s) n =
      getStream (modStream (purgeStream node s) node fun x => { x with failed := true, frozen := false, awaited := [] }) n := by
    intro n
    rw [failStream_live hv hf, hwake]
    rfl
  have hpurged : getStream (purgeStream node s) node = _ := getStream_setStream_self ..
  refine ⟨?_, ?_, fun n hn => ?_, ?_, ?_⟩
  · rw [failStream_live hv hf, hwake]
    rfl
  · rw [failStream_live hv hf, hwake]
    rfl
  · rw [hstreams, modStream, getStream_setStream_other _ hn]
    exact getStream_setStream_other _ hn _
  · rw [hstreams, modStream, getStream_setStream_self, hpurged]
    exact hv
  · rw [hstreams, modStream, getStream_setStream_self]

theorem failStream_failed {node : Nat} {s : State} (hv : (getStream s node).v = true) : (getStream (failStream node s) node).failed = true := by
  by_cases hf : (getStream s node).failed = false
  · obtain ⟨-, -, -, -, h⟩ := failStream_fields hv hf
    exact h
  · rw [failStream_done fun h => hf h.2]
    exact eq_true_of_ne_false hf

theorem failStream_kept (node : Nat) (s : State) : LossKept s (failStream node s) := by
  by_cases h : (getStream s node).v = true ∧ (getStream s node).failed = false
  · obtain ⟨hpkg, hpending, hother, hv, hf⟩ := failStream_fields h.1 h.2
    refine ⟨hpkg, fun n hn => ?_, fun n hn => ?_, fun n m hn => ?_⟩
    · by_cases hnn : n = node
      · rw [hnn]; exact hv
      · rw [hother n hnn]; exact hn
    · by_cases hnn : n = node
      · rw [hnn]; exact hf
      · rw [hother n hnn]; exact hn
    · rw [hpending]
      exact List.mem_filter.mpr ⟨hn, rfl⟩
  · rw [failStream_done h]
    exact .refl s

theorem pushOnce_kept (e : Instr) (s : State) : LossKept s (pushOnce e s) ∧ e ∈ (pushOnce e s).pending := by
  unfold pushOnce
  split
  · next h => exact ⟨.refl s, List.contains_iff_mem.mp h⟩
  · exact ⟨⟨rfl, fun _ h => h, fun _ h => h, fun _ _ h => List.mem_append_left _ h⟩, List.mem_append_right _ List.mem_cons_self⟩

theorem loseInputs_kept (node : Nat) (gone : List (Option Nat)) (s : State) : LossKept s (loseInputs node gone s) := by
  unfold loseInputs
  split
  · exact failStream_kept node s
  · split
    · exact (pushOnce_kept _ s).1
    · exact .refl s

theorem loseInputs_fed {node : Nat} {gone : List (Option Nat)} {s : State} (h : none ∈ gone) : loseInputs node gone s = failStream node s :=
  if_pos (List.contains_iff_mem.mpr h)

/-- The lowest member that loses its input is declared dead. -/
theorem loseInputs_member {node m : Nat} {gone : List (Option Nat)} (hnone : none ∉ gone) (hm : m < 256) (hmem : some m ∈ gone)
    (hleast : ∀ k, some k ∈ gone → m ≤ k) (s : State) : loseInputs node gone s = pushOnce (.inputDeadDeclare node m) s := by
  have hfind : ((upTo 256).find? fun m => gone.contains (some m)) = some m := by
    refine List.find?_range_eq_some.mpr ⟨List.contains_iff_mem.mpr hmem, List.mem_range.mpr hm, fun j hj => ?_⟩
    refine (Bool.not_eq_true' _).mpr (Bool.eq_false_iff.mpr fun h => ?_)
    exact absurd (hleast j (List.contains_iff_mem.mp h)) (by omega)
  unfold loseInputs
  rw [if_neg fun h => hnone (List.contains_iff_mem.mp h), hfind]

theorem exec_globalLinkDown_marks {q j : Nat} {s : State} (hq : q < 16) (hj : j < 15) (h : (q, j) ∉ s.pkg.linkDown) :
    exec (.globalLinkDown q j) s = .next ((s.streams.filter fun e => e.2.v && !e.2.failed).foldl
      (fun s e => loseInputs e.1 (e.2.lost (crosses · q ((q + j + 1) % 16))) s)
      { s with pkg := { s.pkg with linkDown := s.pkg.linkDown ++ [(q, j), ((q + j + 1) % 16, 14 - j)] } }) := by
  rw [exec_globalLinkDown]
  refine if_neg ?_
  rintro (h' | h' | h')
  · omega
  · omega
  · exact h (List.contains_iff_mem.mp h')

/-- A fold over streams splits at one of them. -/
theorem foldl_through {α : Type} {f : State → α → State} (hf : ∀ s a, LossKept s (f s a)) {l : List α} {a : α} (ha : a ∈ l) (s : State) :
    ∃ u, LossKept s u ∧ LossKept (f u a) (l.foldl f s) := by
  obtain ⟨l1, l2, rfl⟩ := List.append_of_mem ha
  rw [List.foldl_append, List.foldl_cons]
  exact ⟨_, LossKept.foldl hf l1 s, LossKept.foldl hf l2 _⟩

end Sys2Proof.Machine
end

section
/-! Links, rows, lanes and ports that fail (O48). -/

namespace Sys2Proof.Machine

open Sys2Proof.Claims

/-! ### Global links (R26) -/

/-- What a global link that goes down does to the streams on it (R26). -/
theorem globalLinkDown_marks {q j : Nat} {s : State} (hq : q < 16) (hj : j < 15) (h : (q, j) ∉ s.pkg.linkDown) :
    let far := (q + j + 1) % 16
    let s0 : State := { s with pkg := { s.pkg with linkDown := s.pkg.linkDown ++ [(q, j), (far, 14 - j)] } }
    ∃ t, exec (.globalLinkDown q j) s = .next t ∧ t.pkg = s0.pkg ∧ SameBytes s t ∧ (s.streams = [] → t = s0) ∧
      ∀ node st, (node, st) ∈ s.streams → getStream s node = st → st.v = true → st.failed = false → let lost := st.lost fun p => crosses p q far
        (none ∈ lost → (getStream t node).failed = true) ∧
        (none ∉ lost → ∀ m, m < 256 → some m ∈ lost → (∀ k, some k ∈ lost → m ≤ k) → Instr.inputDeadDeclare node m ∈ t.pending) := by
  intro far s0
  have hexec := exec_globalLinkDown_marks hq hj h
  have hf : ∀ (u : State) (e : Nat × Stream), LossKept u (loseInputs e.1 (e.2.lost (crosses · q far)) u) := fun u e => loseInputs_kept _ _ u
  refine ⟨_, hexec, (LossKept.foldl hf _ s0).pkg, ?_, fun hs => ?_, fun node st hmem hst hv hfail => ?_⟩
  · have hkeeps := keeps_execGlobalLinkDown q j (s := s) rfl
    rw [← exec_globalLinkDown, hexec] at hkeeps
    exact sameBytes_of_mem hkeeps
  · refine (congrArg (List.foldl _ s0) (?_ : _ = ([] : List (Nat × Stream)))).trans rfl
    rw [hs]
    rfl
  · have hin : (node, st) ∈ s.streams.filter fun e => e.2.v && !e.2.failed := by
      refine List.mem_filter.mpr ⟨hmem, ?_⟩
      rw [show (node, st).2 = st from rfl, hv, hfail]
      rfl
    obtain ⟨u, hu, ht⟩ := foldl_through hf hin s0
    have hvu : (getStream u node).v = true := hu.live node (by rw [show getStream s0 node = getStream s node from rfl, hst]; exact hv)
    refine ⟨fun hnone => ht.failed node ?_, fun hnone m hm hmem' hleast => ht.declared node m ?_⟩
    · rw [show loseInputs (node, st).1 ((node, st).2.lost (crosses · q far)) u = failStream node u from loseInputs_fed hnone]
      exact failStream_failed hvu
    · rw [show loseInputs (node, st).1 ((node, st).2.lost (crosses · q far)) u = pushOnce (.inputDeadDeclare node m) u from
        loseInputs_member hnone hm hmem' hleast u]
      exact (pushOnce_kept _ u).2

/-! ### Rows and lanes under test (R68, R136) -/

theorem testOf_one {s : State} {r : ErrRec} (h : s.errors = [r]) (hst : r.state = 0 ∨ r.state = 5) {lane : Bool} {unit row : Nat}
    (hl : r.lane = lane) (hu : r.unit = unit) (hr : r.row = row) : testOf s lane unit row = some r := by
  rw [testOf, h, List.find?_cons_of_pos]
  subst hl hu hr
  rcases hst with hst | hst <;> simp [hst]

theorem testOf_none {s : State} (h : s.errors = []) (lane : Bool) (unit row : Nat) : testOf s lane unit row = none := by rw [testOf, h]; rfl

/-- The record of a test that has ended (R136). -/
def endedRecord (s : State) (r : ErrRec) (state : Nat) : ErrRec :=
  { r with state := state, time := gtime s, due := updating s, triage := bit s.fw.duty 4 }

theorem reportError_kept (e : ErrRec) (s : State) : (reportError e s).errors = s.errors ∧ (reportError e s).ports = s.ports ∧ (reportError e s).mem = s.mem := by
  unfold reportError
  dsimp only
  split
  · unfold sendMsg
    dsimp only
    split <;> exact ⟨rfl, rfl, rfl⟩
  · exact ⟨rfl, rfl, rfl⟩

theorem endTest_one {s : State} {r : ErrRec} (h : s.errors = [r]) (state : Nat) :
    (endTest r state s).errors = [endedRecord s r state] ∧ (endTest r state s).ports = s.ports ∧ (endTest r state s).mem = s.mem := by
  have hmap : s.errors.map (fun e => if e = r then endedRecord s r state else e) = [endedRecord s r state] := by
    rw [h, List.map_cons, if_pos rfl]
    rfl
  unfold endTest
  dsimp only
  split
  · exact ⟨hmap, rfl, rfl⟩
  · obtain ⟨herr, hports, hmem⟩ := reportError_kept (endedRecord s r state) (mapErrors (fun e => if e = r then endedRecord s r state else e) s)
    exact ⟨herr.trans hmap, hports, hmem⟩

theorem sparesUsed_one {s : State} {r : ErrRec} (h : s.errors = [r]) (hst : r.state = 0 ∨ r.state = 5) (unit : Nat) : sparesUsed s unit = 0 := by
  rw [sparesUsed, h]
  rcases hst with hst | hst <;> simp [hst]

theorem rowSelftestDone_ends {s : State} {r : ErrRec} (h : s.errors = [r]) (hst : r.state = 0 ∨ r.state = 5) (hl : r.lane = false) (passed : Bool) :
    ∃ t, exec (.rowSelftestDone r.unit r.row passed) s = .next t ∧ SameBytes s t ∧
      t.errors = [{ r with state := (if passed = true ∧ r.state = 0 then 1 else if 0 < Config.spareRows r.unit then 2 else 4), time := gtime s,
                           due := s.fw.updst.getLsbD 0, triage := s.fw.duty.getLsbD 4 }] := by
  have hstate : (if (passed && r.state == 0) = true then 1 else if sparesUsed s r.unit < Config.spareRows r.unit then 2 else 4) =
      (if passed = true ∧ r.state = 0 then 1 else if 0 < Config.spareRows r.unit then 2 else 4) := by
    rw [sparesUsed_one h hst]
    refine ite_congr ?_ (fun _ => rfl) fun _ => rfl
    rw [Bool.and_eq_true, beq_iff_eq]
  have hexec : exec (.rowSelftestDone r.unit r.row passed) s =
      .next (endTest r (if passed = true ∧ r.state = 0 then 1 else if 0 < Config.spareRows r.unit then 2 else 4) s) := by
    rw [exec_rowSelftestDone, execRowSelftestDone, testOf_one h hst hl rfl rfl, ← hstate]
  obtain ⟨herr, -, hmem⟩ := endTest_one h (if passed = true ∧ r.state = 0 then 1 else if 0 < Config.spareRows r.unit then 2 else 4)
  exact ⟨_, hexec, sameBytes_of_mem hmem, herr⟩

/-! ### Ports (R68, R71) -/

/-- Whether a lane of a port is under test (R136). -/
def laneTested (s : State) (port : Nat) : Bool := s.errors.any fun e => e.lane && e.unit == port && (e.state == 0 || e.state == 5)

theorem laneTested_iff (s : State) (port : Nat) : laneTested s port = true ↔ ∃ e ∈ s.errors, e.lane = true ∧ e.unit = port ∧ (e.state = 0 ∨ e.state = 5) := by
  simp [laneTested, and_assoc]

theorem releasePort_held {s : State} {port : Nat} (h : (spGet Port.reset s.ports port).retrain = true ∨ laneTested s port = true) : releasePort port s = s := by
  refine if_pos ?_
  rcases h with h | h
  · exact Bool.or_eq_true_iff.mpr (.inl h)
  · exact Bool.or_eq_true_iff.mpr (.inr h)

theorem releasePort_free {s : State} {port : Nat} (h : (spGet Port.reset s.ports port).retrain = false) (h' : laneTested s port = false) :
    releasePort port s = (spGet Port.reset s.ports port).held.foldl (fun s r => emit r s)
      { s with ports := spSet Port.reset s.ports port { spGet Port.reset s.ports port with training := false, held := [] } } := by
  refine if_neg ?_
  rw [h, show s.errors.any (fun e => e.lane && e.unit == port && (e.state == 0 || e.state == 5)) = false from h']
  exact Bool.noConfusion

/-- Answers through a port that is up and does not train leave at once. -/
theorem foldl_emit {port : Nat} (l : List HostReply) (hl : ∀ r ∈ l, portOf r.fn = some port) {s : State}
    (hup : (spGet Port.reset s.ports port).up = true) (htr : (spGet Port.reset s.ports port).training = false) :
    l.foldl (fun s r => emit r s) s = { s with out := s.out ++ l } := by
  induction l generalizing s with
  | nil => rw [List.append_nil]; rfl
  | cons r l ih =>
    have hemit : emit r s = { s with out := s.out ++ [r] } := by
      unfold emit
      rw [hl r List.mem_cons_self]
      dsimp only
      rw [hup, htr]
      rfl
    have hrest := ih (fun r' hr' => hl r' (List.mem_cons_of_mem _ hr')) (s := { s with out := s.out ++ [r] }) hup htr
    rw [List.foldl_cons, hemit]
    refine hrest.trans ?_
    dsimp only
    rw [List.append_assoc]
    rfl

theorem portDown_up (port : Nat) (s : State) : (spGet Port.reset (portDown port s).ports port).up = false := by
  have hdown : (spGet Port.reset (spSet Port.reset s.ports port
      { spGet Port.reset s.ports port with up := false, training := false, retrain := false, held := [] }) port).up = false := by rw [spGet_spSet_self]
  unfold portDown
  dsimp only
  split
  · rw [(loseRoutes_ports ..).up]
    exact hdown
  · exact hdown

theorem laneSelftestDone_test {s : State} {r : ErrRec} (h : s.errors = [r]) (hst : r.state = 0 ∨ r.state = 5) (hl : r.lane = true) (passed : Bool) :
    exec (.laneSelftestDone r.unit r.row passed) s =
      if passed && r.state == 0 then .next (releasePort r.unit (endTest r 1 s))
      else
        let p := spGet Port.reset s.ports r.unit
        let s1 := endTest r 3 { s with ports := spSet Port.reset s.ports r.unit { p with good := p.good - 1, width := max 2 (p.width / 2), training := true, retrain := true } }
        .next (if p.good < 3 then portDown r.unit s1 else s1) := by
  rw [exec_laneSelftestDone, execLaneSelftestDone, testOf_one h hst hl rfl rfl]

theorem laneSelftestDone_passes {s : State} {r : ErrRec} (h : s.errors = [r]) (hst : r.state = 0) (hl : r.lane = true)
    (hheld : (spGet Port.reset s.ports r.unit).held = []) (hre : (spGet Port.reset s.ports r.unit).retrain = false) :
    ∃ t, exec (.laneSelftestDone r.unit r.row true) s = .next t ∧
      t.ports = spSet Port.reset s.ports r.unit { spGet Port.reset s.ports r.unit with training := false } ∧ ∃ e, t.errors = [e] ∧ e.state = 1 := by
  have hexec : exec (.laneSelftestDone r.unit r.row true) s = .next (releasePort r.unit (endTest r 1 s)) := by
    rw [laneSelftestDone_test h (.inl hst) hl, hst]
    rfl
  obtain ⟨herr, hports, -⟩ := endTest_one h 1
  have htested : laneTested (endTest r 1 s) r.unit = false := by
    rw [laneTested, herr]
    simp [endedRecord]
  have hrelease := releasePort_free (s := endTest r 1 s) (port := r.unit) (by rw [hports]; exact hre) htested
  rw [hports, hheld, List.foldl_nil] at hrelease
  rw [hrelease] at hexec
  refine ⟨_, hexec, ?_, _, herr, rfl⟩
  refine congrArg (spSet Port.reset s.ports r.unit) ?_
  rw [← hheld]

/-- A port that loses a lane retrains at the next lower width (R68). -/
def losesLane (port : Nat) (s : State) : State :=
  let p := spGet Port.reset s.ports port
  { s with ports := spSet Port.reset s.ports port { p with good := p.good - 1, width := max 2 (p.width / 2), training := true, retrain := true } }

theorem laneSelftestDone_retires {s : State} {r : ErrRec} (h : s.errors = [r]) (hst : r.state = 0 ∨ r.state = 5) (hl : r.lane = true) :
    ∃ s1 : State, exec (.laneSelftestDone r.unit r.row false) s =
        .next (if (spGet Port.reset s.ports r.unit).good < 3 then portDown r.unit s1 else s1) ∧ (∃ e, s1.errors = [e] ∧ e.state = 3) ∧
      spGet Port.reset s1.ports r.unit = { spGet Port.reset s.ports r.unit with
        good := (spGet Port.reset s.ports r.unit).good - 1, width := max 2 ((spGet Port.reset s.ports r.unit).width / 2), training := true, retrain := true } := by
  refine ⟨_, laneSelftestDone_test h hst hl false, ?_, ?_⟩
  · obtain ⟨herr, -, -⟩ := endTest_one (s := losesLane r.unit s) h 3
    exact ⟨_, herr, rfl⟩
  · obtain ⟨-, hports, -⟩ := endTest_one (s := losesLane r.unit s) h 3
    exact (congrArg (spGet Port.reset · r.unit) hports).trans (spGet_spSet_self ..)

theorem portRetrainDone_releases {s : State} {p : Nat} (hup : (spGet Port.reset s.ports p).up = true)
    (hheld : ∀ r ∈ (spGet Port.reset s.ports p).held, portOf r.fn = some p) :
    let x := spGet Port.reset s.ports p
    let testing := ∃ e ∈ s.errors, e.lane = true ∧ e.unit = p ∧ (e.state = 0 ∨ e.state = 5)
    ∃ t, exec (.portRetrainDone p) s = .next t ∧ t = { s with ports := t.ports, out := t.out } ∧
        (∀ k, k ≠ p → spGet Port.reset t.ports k = spGet Port.reset s.ports k) ∧
        (testing → spGet Port.reset t.ports p = { x with retrain := false } ∧ t.out = s.out) ∧
        (¬ testing → spGet Port.reset t.ports p = { x with training := false, retrain := false, held := [] } ∧ t.out = s.out ++ x.held) := by
  intro x testing
  have hexec : exec (.portRetrainDone p) s = .next (releasePort p { s with ports := spSet Port.reset s.ports p { x with retrain := false } }) := by
    rw [exec_portRetrainDone, execPortRetrainDone]
  have hport : spGet Port.reset (spSet Port.reset s.ports p { x with retrain := false }) p = { x with retrain := false } := spGet_spSet_self ..
  by_cases ht : testing
  · have hrelease : releasePort p { s with ports := spSet Port.reset s.ports p { x with retrain := false } } = _ :=
      releasePort_held (.inr ((laneTested_iff s p).mpr ht))
    rw [hrelease] at hexec
    exact ⟨_, hexec, rfl, fun k hk => spGet_spSet_other _ _ hk _, fun _ => ⟨hport, rfl⟩, fun hn => absurd ht hn⟩
  · have htested : laneTested { s with ports := spSet Port.reset s.ports p { x with retrain := false } } p = false :=
      Bool.eq_false_iff.mpr fun h => ht ((laneTested_iff s p).mp h)
    have hrelease := releasePort_free (s := { s with ports := spSet Port.reset s.ports p { x with retrain := false } }) (port := p) (by
      rw [show (State.ports _) = spSet Port.reset s.ports p { x with retrain := false } from rfl, hport]) htested
    dsimp only at hrelease
    rw [hport] at hrelease
    rw [foldl_emit (port := p) x.held hheld (by dsimp only; rw [spGet_spSet_self]; exact hup) (by dsimp only; rw [spGet_spSet_self])] at hrelease
    rw [hrelease] at hexec
    refine ⟨_, hexec, rfl, fun k hk => ?_, fun hy => absurd hy ht, fun _ => ⟨spGet_spSet_self .., rfl⟩⟩
    exact (spGet_spSet_other _ _ hk _).trans (spGet_spSet_other _ _ hk _)

theorem peerLinkDown_port {s : State} {p : Nat} (hp : p < 16) : ∃ t, exec (.peerLinkDown ⟨p, none⟩) s = .next t ∧
    (spGet Port.reset t.ports p).up = false ∧ pkst t (16 + p) (16 + p) = 0 ∧ (s.journal = [] → SameBytes s t) := by
  have hexec : exec (.peerLinkDown ⟨p, none⟩) s = .next (portDown p s) := by
    rw [exec_peerLinkDown, execPeerLinkDown, if_neg (Nat.not_le.mpr hp)]
  have hdown : portDown p s = _ := if_pos hp
  refine ⟨_, hexec, portDown_up p s, ?_, fun hj => ?_⟩
  · rw [pkst_eq, hdown, (loseRoutes_ports ..).pkst]
    exact bits_setBit_self _ (by omega) false
  · rw [hdown]
    exact sameBytes_of_mem (loseRoutes_mem _ hj)

theorem peerLinkDown_route {s : State} {p g : Nat} (hp : p < 16) (h : (p, g) ∉ s.pkg.routeDown) : ∃ t, exec (.peerLinkDown ⟨p, some g⟩) s = .next t ∧
    t.pkg.routeDown = s.pkg.routeDown ++ [(p, g)] ∧ (spGet Port.reset t.ports p).up = (spGet Port.reset s.ports p).up ∧ (s.journal = [] → SameBytes s t) := by
  have hexec : exec (.peerLinkDown ⟨p, some g⟩) s = .next (loseRoutes (fun pkg q => q == p && pkg == g)
      { s with pkg := { s.pkg with routeDown := s.pkg.routeDown ++ [(p, g)] } }) := by
    rw [exec_peerLinkDown, execPeerLinkDown, if_neg (Nat.not_le.mpr hp)]
    exact congrArg Host.Outcome.next (if_neg fun hc => h (List.contains_iff_mem.mp hc))
  exact ⟨_, hexec, (loseRoutes_ports ..).routes, (loseRoutes_ports ..).up p, fun hj => sameBytes_of_mem (loseRoutes_mem _ hj)⟩

theorem linkFailures : LinkFailures := by
  intro s
  refine ⟨fun q j hq hj h => globalLinkDown_marks hq hj h, fun p => rfl, fun unit row fixed h => ⟨?_, ?_⟩,
    fun r unit row passed h hu hr hl hst => ?_, fun r port lane passed h hu hr hl hst => ⟨?_, ?_, ?_⟩,
    fun p hup hheld => portRetrainDone_releases hup hheld, fun p hp => peerLinkDown_port hp, fun p g hp h => peerLinkDown_route hp h⟩
  · rw [exec_sramRowError, execSramRowError, startTest, testOf_none h, h]
    rfl
  · rw [exec_laneError, execLaneError, startTest, testOf_none h, h, holdPort]
    dsimp only
    split <;> rfl
  · subst hu hr
    exact rowSelftestDone_ends h hst hl passed
  · rintro rfl hz hheld hre
    subst hu hr
    exact laneSelftestDone_passes h hz hl hheld hre
  · rintro rfl hg
    subst hu hr
    obtain ⟨s1, hexec, herr, hport⟩ := laneSelftestDone_retires h hst hl
    rw [if_neg (by omega)] at hexec
    exact ⟨s1, hexec, herr, hport⟩
  · rintro rfl hg
    subst hu hr
    obtain ⟨s1, hexec, -, -⟩ := laneSelftestDone_retires h hst hl
    rw [if_pos (by omega)] at hexec
    exact ⟨_, hexec, portDown_up _ s1⟩

/-- Settles O48, from what a link, a row, a lane and a port that fail do. -/
theorem linksThatFail : Obligations.LinksThatFail := linkFailures

end Sys2Proof.Machine
end

section
/-! Status words of graph nodes on which a bar.wait is parked (O49, O50). -/

namespace Sys2Proof.Machine

open Sys2Proof.Claims

/-- A queue whose ring is a node of memory words, and hart 1, which waits for phase 5 of the barrier object at the status word of slot 0, one waiter counted. -/
def waitsAtStatus : State :=
  { State.reset with
    nodes := [(1, { Node.none with v := true, kind := 4, gen := 1, limit := 1024 })]
    keys := [(keyIdx 1 1, { KeyEntry.free with v := true, kind := 4, rights := 31, limit := 1024, gen := 1, node := 1 })]
    queues := [(0, { GQueue.none with v := true, owner := 1, slots := 2, ring := mkAddr 1 0 })]
    threads := [(1, { Thread.reset with uid := 1, ctx := 1, wait := .barrier (nodeKey 1 16) (mkAddr 1 16) 5 0 3 false })]
    mem := [(nodeKey 1 24, 1)] }

theorem statusPieces_waitsAtStatus : statusPieces waitsAtStatus 0 0 = .ok [⟨nodeKey 1 16, 8, 4, 1, 1⟩] := by decide

/-- The word satisfies what the statements ask of a status word: no wait is listed at it. -/
theorem statusAt_waitsAtStatus : StatusAt waitsAtStatus 0 0 (nodeKey 1 16) :=
  ⟨⟨nodeKey 1 16, 8, 4, 1, 1⟩, statusPieces_waitsAtStatus, rfl, rfl, by decide, rfl⟩

/-- A release at the status word. -/
def releasedStatus : State :=
  match exec (.nodeRelease 0 0 false false 0 0) waitsAtStatus with
  | .next t => t
  | _ => waitsAtStatus

theorem exec_releasedStatus : exec (.nodeRelease 0 0 false false 0 0) waitsAtStatus = .next releasedStatus := rfl

theorem waiter_released : rdByte releasedStatus (nodeKey 1 24) ≠ rdByte waitsAtStatus (nodeKey 1 24) := by decide

theorem waiter_ended : rdByte (endNode 0 0 0 0 waitsAtStatus) (nodeKey 1 24) ≠ rdByte waitsAtStatus (nodeKey 1 24) := by decide

theorem not_onlyWord {t : State} (h : rdByte t (nodeKey 1 24) ≠ rdByte waitsAtStatus (nodeKey 1 24)) : ¬ OnlyWord (nodeKey 1 16) waitsAtStatus t :=
  fun hw => h (hw (nodeKey 1 24) (.inr (by decide)))

/-- Refutes O49: a release writes the status word, the bar.wait parked there goes on (R323), and its count at the word after it changes, which the frame of
NodeReleases leaves out. -/
theorem not_graphQueueResults : ¬ Obligations.GraphQueueResults := by
  rintro ⟨-, -, h⟩
  obtain ⟨t, hexec, hcounts, -⟩ := h 0 0 false false 0 0 waitsAtStatus (nodeKey 1 16) statusAt_waitsAtStatus
  have ht : t = releasedStatus := Host.Outcome.next.inj (hexec.symm.trans exec_releasedStatus)
  obtain ⟨-, hframe, -⟩ := hcounts (.inl rfl)
  exact not_onlyWord waiter_released (ht ▸ hframe)

/-- Refutes O50: a node's end writes the status word, the bar.wait parked there goes on (R323), and its count at the word after it changes, which the frame of NodeEnds
leaves out. -/
theorem not_graphNodeResults : ¬ Obligations.GraphNodeResults := by
  rintro ⟨-, h, -⟩
  obtain ⟨-, -, hframe, -⟩ := h 0 0 0 0 waitsAtStatus (nodeKey 1 16) statusAt_waitsAtStatus (by decide) rfl rfl
  exact not_onlyWord waiter_ended hframe

end Sys2Proof.Machine
end

section
/-! Fields of a mailbox message, and what a message at the head does (O51; R131, R132). -/

namespace Sys2Proof.Machine

open Sys2Proof.Claims

/-! ### Fields of messages -/

theorem leNum_drop (bs : List Byte) (k : Nat) : leNum (bs.drop k) = leNum bs / 256 ^ k := by
  induction k generalizing bs with
  | zero => rw [List.drop_zero, Nat.pow_zero, Nat.div_one]
  | succ k ih =>
    cases bs with
    | nil => rw [List.drop_nil]; exact (Nat.zero_div _).symm
    | cons b bs =>
      have hb : b.toNat < 256 := b.isLt
      rw [List.drop_succ_cons, ih, leNum, Nat.pow_succ', ← Nat.div_div_eq_div_mul, Nat.add_mul_div_left _ _ (by decide), Nat.div_eq_of_lt hb, Nat.zero_add]

theorem leNum_take (bs : List Byte) (n : Nat) : leNum (bs.take n) = leNum bs % 256 ^ n := by
  induction n generalizing bs with
  | zero => rw [List.take_zero, Nat.pow_zero, Nat.mod_one]; rfl
  | succ n ih =>
    cases bs with
    | nil => rw [List.take_nil]; exact (Nat.zero_mod _).symm
    | cons b bs =>
      have hb : b.toNat < 256 := b.isLt
      rw [List.take_succ_cons, leNum, leNum, ih, Nat.pow_succ', Nat.mod_mul, Nat.add_mul_mod_self_left, Nat.mod_eq_of_lt hb,
        Nat.add_mul_div_left _ _ (by decide), Nat.div_eq_of_lt hb, Nat.zero_add]

theorem field_eq (m : List Byte) (o n : Nat) : field m o n = leNum m / 256 ^ o % 256 ^ n := by
  rw [field, ← leNum_eq_leValue, leNum_take, leNum_drop]

theorem wordAt_toNat (m : List Byte) (o : Nat) : (wordAt m o).toNat = leNum m / 256 ^ o % 2 ^ 64 := by
  rw [wordAt, leNum_take, leNum_drop]
  exact (BitVec.toNat_ofNat _ _).trans (Nat.mod_mod ..)

/-- A field of whole bytes, read from the word that it lies in. -/
theorem bits_wordAt (m : List Byte) (o k n : Nat) (h : k + n ≤ 8) (hn : 0 < n) : bits (wordAt m o) (8 * k + 8 * n - 1) (8 * k) = field m (o + k) n := by
  have hpow : ∀ j, (256 : Nat) ^ j = 2 ^ (8 * j) := fun j => by rw [Nat.pow_mul]
  rw [bits, wordAt_toNat, field_eq, show 8 * k + 8 * n - 1 + 1 - 8 * k = 8 * n by omega, hpow, hpow, hpow, Nat.mul_add, Nat.pow_add, ← Nat.div_div_eq_div_mul]
  generalize leNum m / 2 ^ (8 * o) = v
  rw [show (2 : Nat) ^ 64 = 2 ^ (8 * k) * 2 ^ (64 - 8 * k) by rw [← Nat.pow_add]; congr 1; omega, Nat.mod_mul_right_div_self]
  exact Nat.mod_mod_of_dvd _ (Nat.pow_dvd_pow 2 (by omega))

theorem byteAt_eq (m : List Byte) (i : Nat) : byteAt m i = field m i 1 := by
  rw [byteAt, field]
  by_cases h : i < m.length
  · rw [List.drop_eq_getElem_cons h, List.take_succ_cons, List.take_zero, List.getD_eq_getElem?_getD, List.getElem?_eq_getElem h]
    exact (Nat.add_zero _).symm
  · rw [List.drop_eq_nil_of_le (Nat.le_of_not_lt h), List.getD_eq_getElem?_getD, List.getElem?_eq_none (Nat.le_of_not_lt h)]
    rfl

theorem lenOf_eq (m : List Byte) : lenOf m = field m 4 2 := bits_wordAt m 0 4 2 (by decide) (by decide)

/-- A bit of a message's word, as its byte's parity. -/
theorem bit_wordAt (m : List Byte) (o k : Nat) (h : k < 8) : bit (wordAt m o) (8 * k) = true ↔ field m (o + k) 1 % 2 = 1 := by
  have hbits := bits_wordAt m o k 1 (by omega) (by decide)
  have htest : (bits (wordAt m o) (8 * k + 8 * 1 - 1) (8 * k)).testBit 0 = bit (wordAt m o) (8 * k) := by
    rw [testBit_field, decide_eq_true (by omega), Bool.true_and]
    rfl
  rw [← htest, hbits, Nat.testBit_zero, decide_eq_true_iff]

/-! ### A message at the head (R131) -/

theorem waiting_of_atHead {s : State} {type : Nat} {m : List Byte} (h : AtHead s type m) : inWaiting s = true := bne_iff_ne.mpr h.1

theorem withMessage_atHead {s : State} {type : Nat} {m : List Byte} (h : AtHead s type m) (act : List Byte → State → State) :
    withMessage type s act = .next (takeMessage (act m s)) := by
  have hw := waiting_of_atHead h
  obtain ⟨-, htype, hm⟩ := h
  rw [withMessage, hw, htype, Bool.true_and, ← hm]
  exact if_pos (beq_self_eq_true type)

theorem takeMessage_head (s : State) : (takeMessage s).fw.hmihead = (s.fw.hmihead + 1) % 512 := by
  unfold takeMessage pushOnce
  dsimp only
  split
  · split <;> rfl
  · rfl

/-- What taking the message changes: the mailbox's bookkeeping in the firmware complex and the events under way, to which it only adds. -/
theorem takeMessage_kept (s : State) : (takeMessage s).nodeCache = s.nodeCache ∧ (takeMessage s).missing = s.missing ∧ (takeMessage s).mem = s.mem ∧
    ∀ e ∈ s.pending, e ∈ (takeMessage s).pending := by
  unfold takeMessage pushOnce
  dsimp only
  split
  · split
    · exact ⟨rfl, rfl, rfl, fun _ h => h⟩
    · exact ⟨rfl, rfl, rfl, fun _ h => List.mem_append_left _ h⟩
  · exact ⟨rfl, rfl, rfl, fun _ h => h⟩

theorem hmbFill_fills {s : State} {m : List Byte} (h : AtHead s 2 m) : ∃ t, exec .hmbFill s = .next t ∧
    spGet [] t.nodeCache (field m 8 4) = (List.range 4).map (fun i => wordAt m (16 + 8 * i)) ∧
    (∀ x ∈ t.missing, x.node ≠ field m 8 4) ∧ (∀ x ∈ s.missing, x.node = field m 8 4 → ∀ e ∈ x.held, e.2 ∈ t.pending) ∧ SameBytes s t := by
  have hw := waiting_of_atHead h
  obtain ⟨-, htype, hm⟩ := h
  have hnode : bits (wordAt m 8) 31 0 = field m 8 4 := bits_wordAt m 8 0 4 (by decide) (by decide)
  have hexec : exec .hmbFill s = .next (takeMessage (resumeMiss (field m 8 4)
      { s with nodeCache := spSet [] s.nodeCache (field m 8 4) ((upTo 4).map fun i => wordAt m (16 + 8 * i)) })) := by
    rw [exec_hmbFill]
    unfold execHmbFill
    dsimp only
    rw [← hm, hnode]
    refine if_neg ?_
    rintro (h | h)
    · rw [hw] at h
      exact absurd h (by decide)
    · exact h htype
  obtain ⟨hcache, hmissing, hmem, hpending⟩ := takeMessage_kept (resumeMiss (field m 8 4)
      { s with nodeCache := spSet [] s.nodeCache (field m 8 4) ((upTo 4).map fun i => wordAt m (16 + 8 * i)) })
  refine ⟨_, hexec, ?_, fun x hx => ?_, fun x hx hn e he => hpending _ ?_, sameBytes_of_mem hmem⟩
  · rw [hcache]
    exact spGet_spSet_self ([] : List Word) s.nodeCache (field m 8 4) ((upTo 4).map fun i => wordAt m (16 + 8 * i))
  · rw [hmissing] at hx
    exact bne_iff_ne.mp (List.mem_filter.mp hx).2
  · exact List.mem_append_right _ (List.mem_flatMap.mpr ⟨x, List.mem_filter.mpr ⟨hx, beq_iff_eq.mpr hn⟩, List.mem_map.mpr ⟨e, he, rfl⟩⟩)

theorem hmbDefrag_copies {s : State} {m : List Byte} (h : AtHead s 11 m) :
    (s.fw.duty.getLsbD 3 = true → defragOk s (field m 8 1) (field m 9 1) (field m 10 1) = true →
      exec .hmbDefrag s = .next (takeMessage (sendResult m 0 (push (.defragmentation (field m 8 1) (field m 9 1) (field m 10 1)) s)))) ∧
    (s.fw.duty.getLsbD 3 = false → exec .hmbDefrag s = .next (takeMessage (sendResult m (ofI (-1)) s))) := by
  rw [exec_hmbDefrag, execHmbDefrag, withMessage_atHead h, byteAt_eq, byteAt_eq, byteAt_eq]
  refine ⟨fun hduty hok => ?_, fun hduty => ?_⟩
  · rw [hok, show bit s.fw.duty 3 = true from hduty]
    rfl
  · rw [show bit s.fw.duty 3 = false from hduty, Bool.false_and]
    rfl

theorem hmbImgw_writes {s : State} {m : List Byte} (h : AtHead s 7 m) :
    (field m 8 4 % 4 = 0 → 4 ≤ field m 4 2 → field m 4 2 ≤ 48 → exec .hmbImgw s =
      .next (takeMessage (sendResult m 0 { s with fw := writeImage (field m 8 4) ((m.drop 12).take (field m 4 2 - 4)) s.fw }))) ∧
    (field m 8 4 % 4 ≠ 0 ∨ field m 4 2 < 4 ∨ 48 < field m 4 2 → exec .hmbImgw s = .next (takeMessage (sendResult m (ofI (-1)) s))) := by
  have hoffset : leNum ((m.drop 8).take 4) = field m 8 4 := leNum_eq_leValue _
  rw [exec_hmbImgw, execHmbImgw, withMessage_atHead h]
  dsimp only
  rw [lenOf_eq, hoffset]
  refine ⟨fun h4 hlo hhi => ?_, fun hbad => ?_⟩
  · rw [if_neg (by omega)]
  · rw [if_pos (by omega)]
    rfl

theorem hmbSpdm_collects {s : State} {m : List Byte} (h : AtHead s 6 m) :
    let req := s.fw.spdm ++ (m.drop 8).take (min 56 (field m 4 2))
    (field m 6 1 % 2 = 1 → exec .hmbSpdm s = .next (takeMessage (push (spdmEvent req) { s with fw := { s.fw with spdm := [] } }))) ∧
    (field m 6 1 % 2 = 0 → exec .hmbSpdm s = .next (takeMessage { s with fw := { s.fw with spdm := req } })) := by
  intro req
  have hlast : bit (wordAt m 0) 48 = true ↔ field m 6 1 % 2 = 1 := bit_wordAt m 0 6 (by decide)
  rw [exec_hmbSpdm, execHmbSpdm, withMessage_atHead h]
  dsimp only
  rw [lenOf_eq]
  refine ⟨fun h1 => ?_, fun h0 => ?_⟩
  · rw [if_pos (hlast.mpr h1)]
  · rw [if_neg fun hb => absurd (hlast.mp hb) (by omega)]

theorem hmbNodereq_creates {s : State} {m : List Byte} (h : AtHead s 9 m)
    (hnone : (s.fw.waitReq.find? fun r => !(s.missing.any (·.node == r.1))) = none) {x : Tx} (hx : txHost s .pf false = .ok x) :
    let out := txCreate x ([1, 0, 0, 0, 0, 0, 0, 0] ++ (m.drop 8).take 16) ((List.range 4).map fun i => wordAt m (24 + 8 * i)) s
    (∀ v s1, out = .done v s1 → exec .hmbNodereq s = .next (takeMessage (sendResult m (ofN v) s1))) ∧
    (∀ r k, out = .fail r k → exec .hmbNodereq s = .next (takeMessage (sendResult m (failBits r k) s))) ∧
    (∀ n i, out = .miss n i → exec .hmbNodereq s =
      .next (takeMessage (holdFor n i x.ctx .hmbNodereq { s with fw := { s.fw with waitReq := s.fw.waitReq ++ [(n, m)] } }))) := by
  intro out
  have hexec : exec .hmbNodereq s = .next (takeMessage (nodeRequest m s)) := by
    rw [exec_hmbNodereq, execHmbNodereq, hnone]
    exact withMessage_atHead h nodeRequest
  have hreq : nodeRequest m s = match out with
      | .done v s1 => sendResult m (w64 v) s1
      | .fail r i => sendResult m (failWord r i) s
      | .miss n i => holdFor n i x.ctx .hmbNodereq { s with fw := { s.fw with waitReq := s.fw.waitReq ++ [(n, m)] } }
      | _ => s := by
    unfold nodeRequest
    rw [hx]
    rfl
  rw [hexec, hreq]
  refine ⟨fun v s1 ho => ?_, fun r k ho => ?_, fun n i ho => ?_⟩
  · rw [ho]
    rfl
  · rw [ho]
    dsimp only
    rw [failWord_eq]
  · rw [ho]

theorem codeResult_eq (n : Int) : codeResult n = ofI n := rfl

/-! ### Partition records (R132) -/

theorem hmbPartrec_keeps {s : State} {m : List Byte} (h : AtHead s 8 m) (hhigh : field m 8 8 / 2 ^ 9 = 0) (hb : field m 8 1 < 2 ^ 5)
    (hpart : field m 8 1 % 2 ^ 5 ≤ 19) :
    let part := field m 8 1 % 2 ^ 5
    let bs := (List.range 4096).map fun i => spGet 0 s.fw.stage i
    exec .hmbPartrec s = .next (takeMessage (
      if field m 9 1 % 2 = 1 then
        if partLives s part then sendResult m (codeResult (-3)) s
        else sendResult m 0 (if (getPart s part).v then removeRecord part s else s)
      else if !recordOk part bs then sendResult m (codeResult (-1)) s
      else if heldElsewhere s part (partitionOf bs) then sendResult m (codeResult (-2)) s
      else if losesUsed s part (partitionOf bs) then sendResult m (codeResult (-3)) s
      else if !(getPart s part).v && storageFull s then sendResult m (codeResult (-4)) s
      else sendResult m 0 (installRecord part (partitionOf bs) s))) := by
  intro part bs
  have hword : (wordAt m 8).toNat = field m 8 8 := by
    rw [wordAt_toNat, field_eq, show (256 : Nat) ^ 8 = 2 ^ 64 by norm_num]
  have hbyte : bits (wordAt m 8) 7 0 = field m 8 1 := bits_wordAt m 8 0 1 (by decide) (by decide)
  have hnum : bits (wordAt m 8) 4 0 = part := by
    rw [show part = field m 8 1 % 2 ^ 5 from rfl, ← hbyte]
    simp only [bits]
    omega
  have hmid : bits (wordAt m 8) 7 5 = 0 := by
    rw [← hbyte] at hb
    simp only [bits] at hb ⊢
    omega
  have htop : bits (wordAt m 8) 63 9 = 0 := by
    rw [← hword] at hhigh
    rw [bits, hhigh, Nat.zero_mod]
  have hrem : bit (wordAt m 8) 8 = true ↔ field m 9 1 % 2 = 1 := bit_wordAt m 8 1 (by decide)
  rw [exec_hmbPartrec, execHmbPartrec, withMessage_atHead h]
  dsimp only
  rw [hnum, hmid, htop, if_neg (by rintro (h | h | h); exacts [h rfl, h rfl, absurd h (Nat.not_lt.mpr hpart)])]
  refine congrArg (fun x => Host.Outcome.next (takeMessage x)) ?_
  by_cases hr : field m 9 1 % 2 = 1
  · rw [if_pos (hrem.mpr hr), if_pos hr]
  · rw [if_neg fun hb => hr (hrem.mp hb), if_neg hr]
    rfl

theorem mailboxMessages : MailboxMessages := by
  intro s m
  refine ⟨takeMessage_head s, ?_, hmbFill_fills, fun h => ?_, hmbDefrag_copies, hmbImgw_writes, hmbSpdm_collects,
    fun h hnone x hx => hmbNodereq_creates h hnone hx, ?_⟩
  · intro h q b
    rw [exec_hmbMap, execHmbMap, withMessage_atHead h, byteAt_eq, byteAt_eq, leNum_eq_leValue]
    rfl
  · rw [exec_hmbBadType, execHmbBadType, withMessage_atHead h]
    rfl
  · intro h part bs hhigh hb hpart
    have hexec := hmbPartrec_keeps h hhigh hb hpart
    dsimp only at hexec
    rw [show field m 8 1 % 2 ^ 5 = part from rfl, show (List.range 4096).map (fun i => spGet 0 s.fw.stage i) = bs from rfl] at hexec
    have hzero : field m 9 1 % 2 = 0 → ¬ field m 9 1 % 2 = 1 := fun h => by omega
    refine ⟨fun h1 hl => ?_, fun h1 hl hv => ?_, fun h0 hok => ?_, fun h0 hok hheld => ?_, fun h0 hok hheld hlose => ⟨fun hroom => ?_, fun hv hfull => ?_⟩,
      fun h0 hok hheld hlose => ?_⟩
    · rw [hexec, if_pos h1, if_pos hl, codeResult_eq]
    · rw [hexec, if_pos h1, if_neg (by rw [hl]; decide), if_pos hv]
    · rw [hexec, if_neg (hzero h0), if_pos (by rw [hok]; decide), codeResult_eq]
    · rw [hexec, if_neg (hzero h0), if_neg (by rw [hok]; decide), if_pos hheld, codeResult_eq]
    · have hroom' : ¬ (!(getPart s part).v && storageFull s) = true := by
        rcases hroom with hv | hfull
        · rw [hv]; exact Bool.noConfusion
        · rw [hfull, Bool.and_false]; decide
      rw [hexec, if_neg (hzero h0), if_neg (by rw [hok]; decide), if_neg (by rw [hheld]; decide), if_neg (by rw [hlose]; decide), if_neg hroom']
    · rw [hexec, if_neg (hzero h0), if_neg (by rw [hok]; decide), if_neg (by rw [hheld]; decide), if_neg (by rw [hlose]; decide),
        if_pos (by rw [hv, hfull]; decide), codeResult_eq]
    · rw [hexec, if_neg (hzero h0), if_neg (by rw [hok]; decide), if_neg (by rw [hheld]; decide), if_pos hlose, codeResult_eq]

end Sys2Proof.Machine
end

section
/-! Wakes of the firmware cores and the answers to SPDM requests (O51; R125, R127). -/

namespace Sys2Proof.Machine

open Sys2Proof.Claims

/-! ### Wakes (R120, R125, R129, R133) -/

theorem fwCore_modFwCore (s : State) (n : Nat) (f : FwCore → FwCore) : fwCore (modFwCore s n f) n = f (fwCore s n) := by
  rw [fwCore, modFwCore, spGet_spSet_self]

theorem awakeFor_wakeNow (w : FwWake) (s : State) : AwakeFor w (wakeNow w s) := by
  rw [AwakeFor, wakeNow, fwCore_modFwCore]
  exact ⟨_, List.mem_append_right _ List.mem_cons_self, rfl⟩

theorem awakeFor_pushOnce {w : FwWake} {s : State} (h : AwakeFor w s) (e : Instr) : AwakeFor w (pushOnce e s) := by
  unfold pushOnce
  split <;> exact h

theorem pushOnce_pending (e : Instr) (s : State) : e ∈ (pushOnce e s).pending := (pushOnce_kept e s).2

theorem not_updating {s : State} (h : s.fw.updst.getLsbD 0 = false) : ¬ updating s = true := by
  rw [show updating s = false from h]
  exact Bool.noConfusion

theorem policyUp_of {s : State} (h : 8 ≤ pkst s 7 4) : policyUp s = true := decide_eq_true h

theorem fwCoreWake_early {s : State} (h : pkst s 7 4 < 8) (c : FwWake) : exec (.fwCoreWake c) s = .next s := by
  rw [exec_fwCoreWake]
  unfold execFwCoreWake
  rw [show policyUp s = false from decide_eq_false (Nat.not_le.mpr h)]
  rfl

theorem fwCoreWake_packet {s : State} (h : 8 ≤ pkst s 7 4) (n : Fin 6) (q : Nat) : exec (.fwCoreWake (.packet n q)) s =
    .next (if updating s then holdWake q false s else pushOnce (.fwCoreWake (.mapping q)) (wakeNow (.packet n q) s)) := by
  rw [exec_fwCoreWake]
  unfold execFwCoreWake
  rw [policyUp_of h]
  rfl

theorem fwCoreWake_doorbell {s : State} (h : 8 ≤ pkst s 7 4) (q : Nat) : exec (.fwCoreWake (.doorbell q)) s =
    .next (if updating s then holdWake q true s else sendMsg (message 3 0 4 false (leList 2 q ++ leList 2 (getQueue s q).tail)) s) := by
  rw [exec_fwCoreWake]
  unfold execFwCoreWake
  rw [policyUp_of h]
  rfl

theorem fwCoreWake_mapping {s : State} (h : 8 ≤ pkst s 7 4) (q : Nat) : exec (.fwCoreWake (.mapping q)) s =
    .next (wakeNow (.mapping q) (askedMapping q s)) := by
  rw [exec_fwCoreWake]
  unfold execFwCoreWake
  rw [policyUp_of h]
  rfl

theorem fwCoreWake_mailbox {s : State} (h : 8 ≤ pkst s 7 4) (key : Bool) : exec (.fwCoreWake (.mailbox key)) s =
    .next (if inWaiting s && inboundWake s == .mailbox key then pushOnce (inboundEvent s) (wakeNow (.mailbox key) s) else s) := by
  rw [exec_fwCoreWake]
  unfold execFwCoreWake
  rw [policyUp_of h]
  rfl

theorem fwCoreWake_deferred {s : State} (h : 8 ≤ pkst s 7 4) (n : Fin 6) : exec (.fwCoreWake (.deferred n)) s =
    .next (if updating s then pushOnce (.fwCoreWake (.deferred n)) s else wakeNow (.deferred n) s) := by
  rw [exec_fwCoreWake]
  unfold execFwCoreWake
  rw [policyUp_of h]
  rfl

theorem fwCoreWake_update {s : State} (h : 8 ≤ pkst s 7 4) : exec (.fwCoreWake .update) s =
    .next (if updating s then updateStep s else s) := by
  rw [exec_fwCoreWake]
  unfold execFwCoreWake
  rw [policyUp_of h]
  rfl

theorem fwCoreWake_plain {s : State} (h : 8 ≤ pkst s 7 4) {c : FwWake} (hc : c = .stamp ∨ c = .policyRequest ∨ c = .error) :
    exec (.fwCoreWake c) s = .next (wakeNow c s) := by
  rw [exec_fwCoreWake]
  unfold execFwCoreWake
  rw [policyUp_of h]
  rcases hc with rfl | rfl | rfl <;> rfl

theorem holdWake_holds (q : Nat) (host : Bool) (s : State) : (q, host) ∈ (holdWake q host s).fw.held ∧
    holdWake q host s = { s with fw := { s.fw with held := (holdWake q host s).fw.held } } := by
  refine ⟨?_, rfl⟩
  unfold holdWake
  dsimp only
  split
  · next h => exact List.contains_iff_mem.mp h
  · exact List.mem_append_right _ List.mem_cons_self

/-- What wakes a core and nothing else. -/
theorem wakes {i : Instr} {w : FwWake} {s u : State} (h : exec i s = .next (wakeNow w u)) (hmem : u.mem = s.mem) :
    ∃ t, exec i s = .next t ∧ AwakeFor w t ∧ SameBytes s t := ⟨_, h, awakeFor_wakeNow w u, sameBytes_of_mem hmem⟩

theorem firmwareWakes : FirmwareWakes := by
  intro s
  refine ⟨fun h c => fwCoreWake_early h c, fun hup => ⟨fun n q => ⟨fun hu => ?_, fun hu => ?_⟩, fun q => ⟨fun hu => ?_, fun hu => ?_, ?_⟩, fun key => ⟨fun hne hw => ?_, fun hno => ?_⟩,
    fun n c hc => ?_, fun n hu => ?_⟩⟩
  · obtain ⟨hheld, hkept⟩ := holdWake_holds q false s
    exact ⟨_, (fwCoreWake_packet hup n q).trans (congrArg _ (if_pos hu)), hheld, hkept⟩
  · exact ⟨_, (fwCoreWake_packet hup n q).trans (congrArg _ (if_neg (not_updating hu))), awakeFor_pushOnce (awakeFor_wakeNow ..) _, pushOnce_pending ..,
      sameBytes_of_mem ((mem_pushOnce ..).trans (mem_wakeNow ..))⟩
  · obtain ⟨hheld, hkept⟩ := holdWake_holds q true s
    exact ⟨_, (fwCoreWake_doorbell hup q).trans (congrArg _ (if_pos hu)), hheld, hkept⟩
  · exact (fwCoreWake_doorbell hup q).trans (congrArg _ (if_neg (not_updating hu)))
  · exact wakes (u := askedMapping q s) (fwCoreWake_mapping hup q) (mem_askedMapping q s)
  · have hcond : (inWaiting s && inboundWake s == .mailbox key) = true := Bool.and_eq_true_iff.mpr ⟨bne_iff_ne.mpr hne, beq_iff_eq.mpr hw⟩
    exact ⟨_, (fwCoreWake_mailbox hup key).trans (congrArg _ (if_pos hcond)), awakeFor_pushOnce (awakeFor_wakeNow ..) _, pushOnce_pending ..,
      sameBytes_of_mem ((mem_pushOnce ..).trans (mem_wakeNow ..))⟩
  · refine (fwCoreWake_mailbox hup key).trans (congrArg _ (if_neg fun h => ?_))
    obtain ⟨hne, hw⟩ := Bool.and_eq_true_iff.mp h
    rcases hno with hno | hno
    · exact bne_iff_ne.mp hne hno
    · exact hno (beq_iff_eq.mp hw)
  · rcases hc with rfl | ⟨rfl, hu⟩ | rfl | rfl
    · exact wakes (fwCoreWake_plain hup (.inl rfl)) rfl
    · exact wakes (u := s) ((fwCoreWake_deferred hup n).trans (congrArg _ (if_neg (not_updating hu)))) rfl
    · exact wakes (fwCoreWake_plain hup (.inr (.inl rfl))) rfl
    · exact wakes (fwCoreWake_plain hup (.inr (.inr rfl))) rfl
  · exact (fwCoreWake_deferred hup n).trans (congrArg _ (if_pos hu))

/-! ### SPDM (R127) -/

theorem spdmSign_eq (m : List Byte) : spdmSign m = (List.range 4627).map fun n => (Config.identitySign Config.identityKeys (sha3 m)).getD n 0 := rfl

/-- A request's answer is what SpdmSays says of it. -/
theorem spdmSays_answer {i : Instr} {s : State} {log req body body' : List Byte} {signed : Bool}
    (h : exec i s = .next (spdmAnswer req body signed { s with fw := { s.fw with spdmLog := log } })) (hbody : body = body') : SpdmSays i s log req body' signed := by
  subst hbody
  rw [SpdmSays, h, spdmAnswer]
  cases signed
  · simp only [Bool.false_eq_true, if_false, List.append_nil, List.append_assoc]
  · simp only [if_true, spdmSign_eq, List.append_assoc]

theorem octets_zeros : octets [0, 0] = leList 2 0 := rfl

theorem blockBytes_eq (bs : List (Nat × Nat × List Byte)) : bs.flatMap spdmBlock = blockBytes bs := by
  refine congrArg (List.flatMap · bs) (funext fun b => ?_)
  rw [spdmBlock, leList_eq_leBytesOf 2, leList_eq_leBytesOf 2, show leList 1 b.1 ++ [1] = octets [b.1, 1] from rfl, show leList 1 b.2.1 = octets [b.2.1] from rfl]

theorem spdmNonce_eq (s : State) : spdmNonce s = (List.range 4).flatMap fun i => leBytesOf 8 (Config.freeWord (s.freeCount + i)).toNat :=
  congrArg (List.flatMap · (List.range 4)) (funext fun _ => leList_eq_leBytesOf ..)

theorem leNum_two (req : List Byte) (o : Nat) : leNum ((req.drop o).take 2) = (req.getD o 0).toNat + 2 ^ 8 * (req.getD (o + 1) 0).toNat := by
  have h1 := byteAt_eq req o
  have h2 := byteAt_eq req (o + 1)
  rw [byteAt, field_eq] at h1 h2
  rw [leNum_take, leNum_drop, h1, h2, Nat.pow_succ 256 o, ← Nat.div_div_eq_div_mul]
  omega

theorem measured_numbers (s : State) : (measured s).map Prod.fst = [1, 2, 3, 4, 5, 6] := rfl

theorem spdmAnswers : SpdmAnswers := by
  intro s req log at_ nonce chain part blocks
  have hchain : Config.certChain.drop (leNum ((req.drop 4).take 2)) = chain := by rw [leNum_two]
  have hpart : chain.take (leNum ((req.drop 6).take 2)) = part := by rw [leNum_two]
  refine ⟨?_, ?_, ?_, ?_, ?_, ?_, ?_, measured_numbers s, ?_⟩
  · exact spdmSays_answer (exec_spdmGetVersion ..) rfl
  · refine spdmSays_answer (exec_spdmGetCapabilities ..) ?_
    simp only [octets_zeros, leList_eq_leBytesOf]
    rfl
  · refine spdmSays_answer (exec_spdmNegotiateAlgorithms ..) ?_
    simp only [leList_eq_leBytesOf]
    rfl
  · exact spdmSays_answer (exec_spdmGetDigests ..) rfl
  · refine spdmSays_answer (exec_spdmGetCertificate ..) ?_
    rw [hchain, hpart]
    simp only [leList_eq_leBytesOf]
    rfl
  · refine spdmSays_answer (exec_spdmChallenge ..) ?_
    rw [spdmNonce_eq, blockBytes_eq, octets_zeros]
    rfl
  · intro signed
    have hblocks : (if byteAt req 3 = 0xFF then measured s else (measured s).filter (·.1 == byteAt req 3)) = blocks := rfl
    have hsigned : bit (w64 (byteAt req 2)) 0 = signed := by
      rw [bit, w64, BitVec.getLsbD_ofNat, Nat.testBit_zero]
      rfl
    have hexec : exec (.spdmGetMeasurements req) s =
        if at_ 3 ≠ 0 ∧ blocks.isEmpty = true then .next (sendSpdm 2 [0x13, 0x7F, 0x01, 0] s)
        else .next (spdmAnswer req (spdmHead 0x13 0x60 (if at_ 3 = 0 then 6 else 0) 0 ++ leList 1 blocks.length ++ leList 3 (blockBytes blocks).length ++
          blockBytes blocks ++ nonce ++ octets [0, 0] ++ (req.drop (if signed then 37 else 4)).take 8) signed s) := by
      rw [exec_spdmGetMeasurements]
      unfold execSpdmGetMeasurements
      dsimp only
      rw [hblocks, hsigned, blockBytes_eq, spdmNonce_eq, ← octets_zeros]
      rfl
    refine ⟨fun h => spdmSays_answer (hexec.trans (if_neg ?_)) ?_, fun h0 hb => hexec.trans (if_pos ⟨h0, ?_⟩)⟩
    · rintro ⟨h0, hb⟩
      rcases h with h | h
      · exact h0 h
      · exact h (List.isEmpty_iff.mp hb)
    · simp only [leList_eq_leBytesOf]
      rfl
    · rw [hb]
      rfl
  · rw [exec_spdmUnsupported, execSpdmUnsupported, byteAt, BitVec.ofNat_toNat, BitVec.setWidth_eq]

end Sys2Proof.Machine
end

section
/-! Live updates (O51; R126, R133 to R135). -/

namespace Sys2Proof.Machine

open Sys2Proof.Claims

/-! ### The status word of an update (R135) -/

/-- The step of an update in progress. -/
def phaseOf (s : State) : Nat := s.fw.updst.toNat / 2 % 2 ^ 3

theorem bits_phase (w : Word) : bits w 3 1 = w.toNat / 2 % 2 ^ 3 := rfl

theorem phase_setBits (w : Word) {n : Nat} (h : n < 8) : (setBits w 3 1 n).toNat / 2 % 2 ^ 3 = n := by
  rw [← bits_phase, bits_setBits_self _ (by decide) (by decide)]
  exact Nat.mod_eq_of_lt h

theorem updWord_eq {r : Nat} (h : r < 16) : updWord r 0 false = ofN (r * 2 ^ 4) := by
  rw [updWord, Nat.mod_eq_of_lt h]
  rfl

/-! ### Steps -/

theorem handoverAddr_aligned : handoverAddr % 64 = 0 := Nat.mul_mod_right ..

/-- What bytes written to the policy core's SRAM read as (R134). -/
theorem putSram_get (m : Sp Byte) (o : Nat) (bs : List Byte) {i : Nat} (hi : i < bs.length) (ho : o + i < 2 ^ 18) :
    spGet 0 (putSram m o bs) (o + i) = bs.getD i 0 := by
  have hstep : ∀ n, i < n → spGet 0 ((upTo n).foldl (fun m i => if o + i < policySram then spSet 0 m (o + i) (bs.getD i 0) else m) m) (o + i) = bs.getD i 0 := by
    intro n
    induction n with
    | zero => exact fun h => absurd h (Nat.not_lt_zero i)
    | succ n ih =>
      intro hn
      rw [upTo, List.range_succ, List.foldl_append, List.foldl_cons, List.foldl_nil]
      by_cases hin : i = n
      · subst hin
        rw [if_pos (show o + i < policySram from ho), spGet_spSet_self]
      · split
        · rw [spGet_spSet_other _ _ (by omega)]
          exact ih (by omega)
        · exact ih (by omega)
  exact hstep bs.length hi

theorem updateStep_one {s : State} (h : phaseOf s = 1) : updateStep s =
    if packetsBusy s then pushOnce (.fwCoreWake .update) s
    else push (.fwCoreWake .update) { s with fw := { s.fw with quiesced := gtime s, updst := setBits s.fw.updst 3 1 2 } } := by
  unfold updateStep
  dsimp only
  rw [show bits s.fw.updst 3 1 = 1 from h]
  rfl

theorem updateStep_two {s : State} (h : phaseOf s = 2) : updateStep s =
    if !slotSigned s.fw (1 - s.fw.running) then endUpdate 2 s
    else if slotSecurity s.fw (1 - s.fw.running) < s.fw.minSec then endUpdate 3 s
    else push (.fwCoreWake .update) { s with fw := { s.fw with updst := setBits s.fw.updst 3 1 3 } } := by
  unfold updateStep
  dsimp only
  rw [show bits s.fw.updst 3 1 = 2 from h]
  rfl

/-- The policy core as the handover leaves it (R134). -/
def handedOver (bs : List Byte) (s : State) : State :=
  modFwCore { s with fw := { s.fw with handover := bs, stopped := true } } 0 fun c => { c with sram := putSram c.sram handoverAddr bs }

/-- The event of an update's next step, and its number in the status word (R135). -/
def nextStep (n : Nat) (s : State) : State := push (.fwCoreWake .update) { s with fw := { s.fw with updst := setBits s.fw.updst 3 1 n } }

theorem phaseOf_nextStep {n : Nat} (h : n < 8) (s : State) : phaseOf (nextStep n s) = n := phase_setBits _ h

theorem nextStep_pending (n : Nat) (s : State) : Instr.fwCoreWake .update ∈ (nextStep n s).pending := List.mem_append_right _ List.mem_cons_self

theorem fwCore_nextStep (n k : Nat) (s : State) : fwCore (nextStep n s) k = fwCore s k := rfl

theorem updateStep_three {s : State} (h : phaseOf s = 3) : updateStep s =
    nextStep 4 (handedOver (handoverOf s) s) := by
  unfold updateStep
  dsimp only
  rw [show bits s.fw.updst 3 1 = 3 from h]
  rfl

theorem updateStep_four {s : State} (h : phaseOf s = 4) : updateStep s = startImages s := by
  unfold updateStep
  dsimp only
  rw [show bits s.fw.updst 3 1 = 4 from h]
  rfl

theorem sram_handedOver (bs : List Byte) (s : State) : (fwCore (handedOver bs s) 0).sram = putSram (fwCore s 0).sram handoverAddr bs := by
  rw [handedOver, fwCore_modFwCore]
  rfl

/-- What the handover leaves (R134). -/
theorem nextStep_hands (bs : List Byte) (s : State) : phaseOf (nextStep 4 (handedOver bs s)) = 4 ∧ (nextStep 4 (handedOver bs s)).fw.handover = bs ∧
    (nextStep 4 (handedOver bs s)).fw.stopped = true ∧
    (∀ i, i < bs.length → handoverAddr + i < 2 ^ 18 → spGet 0 (fwCore (nextStep 4 (handedOver bs s)) 0).sram (handoverAddr + i) = bs.getD i 0) ∧
    SameBytes s (nextStep 4 (handedOver bs s)) := by
  refine ⟨phaseOf_nextStep (by decide) _, rfl, rfl, fun i hi hlt => ?_, sameBytes_of_mem rfl⟩
  rw [fwCore_nextStep, sram_handedOver]
  exact putSram_get _ _ _ hi hlt

theorem updateStep_hands {s : State} (h : phaseOf s = 3) : ∃ t, updateStep s = t ∧ phaseOf t = 4 ∧ t.fw.handover = handoverOf s ∧ t.fw.stopped = true ∧
    (∀ i, i < (handoverOf s).length → handoverAddr + i < 2 ^ 18 → spGet 0 (fwCore t 0).sram (handoverAddr + i) = (handoverOf s).getD i 0) ∧
    Instr.fwCoreWake .update ∈ t.pending ∧ SameBytes s t := by
  obtain ⟨hphase, hhand, hstop, hsram, hsame⟩ := nextStep_hands (handoverOf s) s
  exact ⟨_, updateStep_three h, hphase, hhand, hstop, hsram, nextStep_pending .., hsame⟩

theorem startImages_core (s : State) : fwCore (startImages s) 0 = { fwCore s 0 with pc := Config.policyEntry, x := spSet 0 (fwCore s 0).x 1 (w64 handoverAddr) } :=
  fwCore_modFwCore s 0 fun c => { c with pc := Config.policyEntry, x := spSet 0 c.x 1 (w64 handoverAddr) }

/-- What the start of the images leaves (R133). -/
theorem updateStep_starts {s : State} (h : phaseOf s = 4) : ∃ t, updateStep s = t ∧ phaseOf t = 5 ∧ t.fw.started = s.cycle ∧ t.fw.stopped = false ∧
    spGet 0 (fwCore t 0).x 1 = ofN handoverAddr ∧ (fwCore t 0).pc = Config.policyEntry ∧ t.fw.running = s.fw.running ∧ SameBytes s t := by
  refine ⟨_, updateStep_four h, phase_setBits _ (by decide), rfl, rfl, ?_, congrArg FwCore.pc (startImages_core s), rfl, sameBytes_of_mem rfl⟩
  exact (congrArg (fun c => spGet 0 c.x 1) (startImages_core s)).trans (spGet_spSet_self ..)

/-! ### Ends (R135) -/

/-- What the reports at an update's end leave: the update's own fields, the images and the package. -/
structure UpdateKept (s t : State) : Prop where
  updst : t.fw.updst = s.fw.updst
  rolled : t.fw.rolled = s.fw.rolled
  running : t.fw.running = s.fw.running
  started : t.fw.started = s.fw.started
  pkg : t.pkg = s.pkg

namespace UpdateKept

theorem refl (s : State) : UpdateKept s s := ⟨rfl, rfl, rfl, rfl, rfl⟩

theorem trans {a b c : State} (h : UpdateKept a b) (k : UpdateKept b c) : UpdateKept a c :=
  ⟨k.updst.trans h.updst, k.rolled.trans h.rolled, k.running.trans h.running, k.started.trans h.started, k.pkg.trans h.pkg⟩

theorem foldl {α : Type} {f : State → α → State} (h : ∀ s a, UpdateKept s (f s a)) (l : List α) (s : State) : UpdateKept s (l.foldl f s) := by
  induction l generalizing s with
  | nil => exact refl s
  | cons a l ih => exact (h s a).trans (ih _)

theorem pushOnce (e : Instr) (s : State) : UpdateKept s (pushOnce e s) := by
  unfold Machine.pushOnce
  split <;> exact ⟨rfl, rfl, rfl, rfl, rfl⟩

theorem sendMsg (m : List Byte) (s : State) : UpdateKept s (sendMsg m s) := by
  unfold Machine.sendMsg
  dsimp only
  split <;> exact ⟨rfl, rfl, rfl, rfl, rfl⟩

theorem reportError (e : ErrRec) (s : State) : UpdateKept s (reportError e s) := by
  have hpush : UpdateKept s (push (.fwCoreWake .error) s) := ⟨rfl, rfl, rfl, rfl, rfl⟩
  unfold Machine.reportError
  dsimp only
  split
  · exact hpush.trans (sendMsg ..)
  · exact hpush

theorem reportHeld (s : State) : UpdateKept s (reportHeld s) :=
  trans (b := { s with errors := s.errors.map fun e => { e with due := false } }) ⟨rfl, rfl, rfl, rfl, rfl⟩ (foldl (fun s e => reportError e s) _ _)

theorem resumeFetch (s : State) : UpdateKept s (resumeFetch s) := by
  have hnone : UpdateKept s { s with fw := { s.fw with held := [] } } := ⟨rfl, rfl, rfl, rfl, rfl⟩
  unfold Machine.resumeFetch
  exact (hnone.trans (foldl (fun s q => pushOnce _ s) _ _)).trans (foldl (fun s e => pushOnce _ s) _ _)

end UpdateKept

/-- The state in which an update's end reports what waited. -/
def updateOver (result : Nat) (s : State) : State :=
  { s with fw := { s.fw with updst := updWord result 0 false, rolled := false, stopped := false, handover := [] } }

theorem endUpdate_kept (result : Nat) (s : State) : UpdateKept (updateOver result s) (endUpdate result s) := by
  have hserved : UpdateKept (updateOver result s) (served .update (updateOver result s)) := ⟨rfl, rfl, rfl, rfl, rfl⟩
  exact (hserved.trans (.resumeFetch _)).trans (.reportHeld _)

/-! ### Heartbeats (R133, R135) -/

theorem heartbeatDue_iff (s : State) : heartbeatDue s = true ↔
    s.fw.updst.getLsbD 0 = true ∧ phaseOf s = 5 ∧ s.cycle < s.fw.started + 33000000 ∧ handoverGood s = true := by
  rw [heartbeatDue, Bool.and_eq_true, Bool.and_eq_true, Bool.and_eq_true, beq_iff_eq, decide_eq_true_iff, and_assoc, and_assoc]
  rfl

theorem startUpdate_refused {s : State} (h : updating s = true ∨ bit s.vf.vfstat 0 = true) :
    startUpdate s = { s with fw := { s.fw with updst := setBits s.fw.updst 7 4 5 } } := if_pos h

theorem startUpdate_begins {s : State} (h : ¬ (updating s = true ∨ bit s.vf.vfstat 0 = true)) :
    startUpdate s = push (.fwCoreWake .update) (wakeNow .update { s with fw := { s.fw with updst := updWord 0 1 true } }) := if_neg h

theorem ready_of_pkst {s : State} (h : pkst s 8 8 = 1) : ready s = true := by
  rw [pkst_bit] at h
  by_contra hb
  rw [if_neg (show ¬ bit s.pkg.pkst 8 = true from hb)] at h
  exact absurd h (by decide)

theorem updstGo_ready {s : State} (h : pkst s 8 8 = 1) : exec (.updstGo .pf) s = .next (startUpdate s) := by
  rw [exec_updstGo, execUpdstGo, if_neg (not_not.mpr rfl), ready_of_pkst h]
  rfl

/-- The slot that starts to run when its images' heartbeat comes (R133). -/
def switched (s : State) : State :=
  { s with fw := { s.fw with running := 1 - s.fw.running }, pkg := { s.pkg with pkst := setBits s.pkg.pkst 12 12 (1 - s.fw.running) } }

theorem updateHeartbeat_due {s : State} (h : heartbeatDue s = true) : exec .updateHeartbeat s =
    if s.fw.rolled then .next (endUpdate 4 s) else .next (endUpdate 1 (applyCap (switched s))) := by
  rw [exec_updateHeartbeat]
  unfold execUpdateHeartbeat
  rw [h]
  rfl

theorem heartbeatTimeout_missed {s : State} (hb : updating s = true) (hp : phaseOf s = 5) (hc : s.fw.started + 33000000 ≤ s.cycle) :
    exec .heartbeatTimeout s =
      if s.fw.rolled then .next (restart s)
      else .next (reportHeld (startImages { s with fw := { s.fw with rolled := true, updst := updWord 4 5 true } })) := by
  rw [exec_heartbeatTimeout]
  unfold execHeartbeatTimeout
  refine if_neg ?_
  rintro (h | h | h)
  · rw [hb] at h
    exact absurd h (by decide)
  · exact h hp
  · exact absurd h (Nat.not_lt.mpr hc)

theorem liveUpdates : LiveUpdates := by
  intro s busy slot phase
  have hup : busy = true → 8 ≤ pkst s 7 4 → exec (.fwCoreWake .update) s = .next (updateStep s) := fun hb h8 =>
    (fwCoreWake_update h8).trans (congrArg _ (if_pos hb))
  have hdue : heartbeatDue s = true ↔ busy = true ∧ phase = 5 ∧ s.cycle < s.fw.started + 33000000 ∧ handoverGood s = true := heartbeatDue_iff s
  refine ⟨fun fn h => ?_, fun h => ?_, fun hr => ⟨fun h => ?_, fun hb hv => ?_⟩, fun hb => ?_, fun hb h8 =>
    ⟨fun hp hq => ?_, fun hp hq => ?_, fun hp hsig => ?_, fun hp hsig hsec => ?_, fun hp hsig hsec => ?_, fun hp => ?_, fun hp => ?_⟩, fun r u hr16 => ?_, fun h => ?_, fun h => ?_,
    fun hb hp hc hg => ⟨fun hroll => ?_, fun hroll => ?_⟩, fun h => ?_, fun hb hp hc => ⟨fun hroll => ?_, fun hroll => ?_⟩⟩
  · rw [exec_updstGo, execUpdstGo, if_pos h]
  · have hnr : ready s = false := bit_of_pkst_zero h
    rw [exec_updstGo, execUpdstGo, if_neg (not_not.mpr rfl), hnr]
    rfl
  · refine ⟨_, (updstGo_ready hr).trans (congrArg _ (startUpdate_refused h)), ?_, rfl⟩
    exact bits_setBits_self s.fw.updst (hi := 7) (lo := 4) (by decide) (by decide) 5
  · have hnot : ¬ (updating s = true ∨ bit s.vf.vfstat 0 = true) := by
      rintro (h | h)
      · exact not_updating hb h
      · rw [show bit s.vf.vfstat 0 = false from hv] at h
        exact Bool.noConfusion h
    exact ⟨_, (updstGo_ready hr).trans (congrArg _ (startUpdate_begins hnot)), rfl, List.mem_append_right _ List.mem_cons_self, rfl, sameBytes_of_mem rfl⟩
  · by_cases h8 : 8 ≤ pkst s 7 4
    · exact (fwCoreWake_update h8).trans (congrArg _ (if_neg (not_updating hb)))
    · exact fwCoreWake_early (Nat.lt_of_not_le h8) _
  · have hstep := (updateStep_one (s := s) hp).trans (if_neg (by rw [hq]; exact Bool.noConfusion))
    refine ⟨_, (hup hb h8).trans (congrArg _ hstep), ?_, rfl, List.mem_append_right _ List.mem_cons_self, sameBytes_of_mem rfl⟩
    exact phase_setBits _ (by decide)
  · exact (hup hb h8).trans (congrArg _ ((updateStep_one (s := s) hp).trans (if_pos hq)))
  · exact (hup hb h8).trans (congrArg _ ((updateStep_two (s := s) hp).trans (if_pos (by rw [hsig]; rfl))))
  · exact (hup hb h8).trans (congrArg _ ((updateStep_two (s := s) hp).trans ((if_neg (by rw [hsig]; exact Bool.noConfusion)).trans (if_pos hsec))))
  · have hstep := (updateStep_two (s := s) hp).trans ((if_neg (by rw [hsig]; exact Bool.noConfusion)).trans (if_neg (Nat.not_lt.mpr hsec)))
    refine ⟨_, (hup hb h8).trans (congrArg _ hstep), ?_, List.mem_append_right _ List.mem_cons_self, sameBytes_of_mem rfl⟩
    exact phase_setBits _ (by decide)
  · obtain ⟨t, ht, hphase, hhand, hstop, hsram, hpend, hsame⟩ := updateStep_hands (s := s) hp
    exact ⟨t, (hup hb h8).trans (congrArg _ ht), hphase, hhand, hstop, hsram, handoverAddr_aligned, hpend, hsame⟩
  · obtain ⟨t, ht, hphase, hstart, hstop, hx, hpc, hrun, hsame⟩ := updateStep_starts (s := s) hp
    exact ⟨t, (hup hb h8).trans (congrArg _ ht), hphase, hstart, hstop, hx, hpc, hrun, hsame⟩
  · rw [(endUpdate_kept r u).updst]
    exact updWord_eq hr16
  · rw [exec_updateHeartbeat]
    unfold execUpdateHeartbeat
    rw [h]
    rfl
  · refine Bool.eq_false_iff.mpr fun hd => ?_
    obtain ⟨hb, hp, hc, hg⟩ := hdue.mp hd
    rcases h with h | h | h | h
    · rw [h] at hb; exact Bool.noConfusion hb
    · exact h hp
    · omega
    · rw [h] at hg; exact Bool.noConfusion hg
  · exact (updateHeartbeat_due (hdue.mpr ⟨hb, hp, hc, hg⟩)).trans (if_pos hroll)
  · have hkept := endUpdate_kept 1 (applyCap (switched s))
    refine ⟨_, (updateHeartbeat_due (hdue.mpr ⟨hb, hp, hc, hg⟩)).trans (if_neg (by rw [hroll]; exact Bool.noConfusion)), hkept.running, ?_, ?_⟩
    · exact hkept.updst.trans (updWord_eq (by decide))
    · rw [pkst_eq, hkept.pkg]
      exact bits_setBits_self s.pkg.pkst (hi := 12) (lo := 12) (by decide) (by decide) _
  · rw [exec_heartbeatTimeout]
    unfold execHeartbeatTimeout
    refine if_pos ?_
    rcases h with h | h | h
    · refine .inl ?_
      rw [show updating s = false from h]
      rfl
    · exact .inr (.inl h)
    · exact .inr (.inr h)
  · exact (heartbeatTimeout_missed hb hp hc).trans (if_pos hroll)
  · have hkept := UpdateKept.reportHeld (startImages { s with fw := { s.fw with rolled := true, updst := updWord 4 5 true } })
    refine ⟨_, (heartbeatTimeout_missed hb hp hc).trans (if_neg (by rw [hroll]; exact Bool.noConfusion)), hkept.rolled, ?_, hkept.running, hkept.started⟩
    rw [hkept.updst]
    show (setBits (updWord 4 5 true) 3 1 5).toNat / 2 ^ 4 = 4
    decide

/-- Settles O51, from what messages, wakes, SPDM requests and the steps of an update do. -/
theorem firmwareResults : Obligations.FirmwareResults := ⟨mailboxMessages, firmwareWakes, spdmAnswers, liveUpdates⟩

end Sys2Proof.Machine
end

section
/-! A message appended to a queue at whose slot a bar.wait is parked (O52). -/

namespace Sys2Proof.Machine

open Sys2Proof.Claims

/-- A message queue whose ring is a node of memory words, and hart 1, which waits for phase 5 of the barrier object at the last word of slot 0, one waiter counted. -/
def waitsAtSlot : State :=
  { State.reset with
    nodes := [(1, { Node.none with v := true, kind := 4, gen := 1, limit := 1024 }), (2, { Node.none with v := true, kind := 2, gen := 1 })]
    keys := [(keyIdx 1 1, { KeyEntry.free with v := true, kind := 4, rights := 31, limit := 1024, gen := 1, node := 1 })]
    queues := [(0, { GQueue.none with v := true, owner := 1, slots := 2, ring := mkAddr 1 0 })]
    threads := [(1, { Thread.reset with uid := 1, ctx := 1, wait := .barrier (nodeKey 1 120) (mkAddr 1 120) 5 0 3 false })]
    mem := [(nodeKey 1 120, 1), (nodeKey 1 128, 1)] }

/-- A message of one byte. -/
def appendedSlot : State :=
  match exec (.queueAppend 2 0 1 0 [1]) waitsAtSlot with
  | .next t => t
  | _ => waitsAtSlot

theorem exec_appendedSlot : exec (.queueAppend 2 0 1 0 [1]) waitsAtSlot = .next appendedSlot := rfl

theorem waiter_appended : rdByte appendedSlot (nodeKey 1 128) ≠ rdByte waitsAtSlot (nodeKey 1 128) := by decide +kernel

/-- Refutes O52: a message whose slot's last word is a barrier object with a parked bar.wait lets it go on (R323), and the object's count of waiters, at the word after
the slot, changes, which the frame of QueueAppends leaves out. -/
theorem not_configurationResults : ¬ Obligations.ConfigurationResults := by
  rintro ⟨-, -, -, h⟩
  obtain ⟨-, happend⟩ := h 2 0 1 0 [1] waitsAtSlot rfl rfl rfl rfl (by decide) (by decide) (by decide) (by decide)
    ⟨nodeKey 1 0, 8, 4, 1, 1⟩ ⟨nodeKey 1 8, 120, 4, 1, 1⟩ (by decide) (by decide) (by decide) rfl (by decide) rfl rfl
  obtain ⟨t, hexec, -, -, -, -, -, -, hframe⟩ := happend rfl (fun _ _ => rfl) (by decide) (by decide)
  have ht : t = appendedSlot := Host.Outcome.next.inj (hexec.symm.trans exec_appendedSlot)
  refine waiter_appended (ht ▸ hframe (nodeKey 1 128) ?_)
  rintro ⟨p, hp, h1, h2⟩
  revert p
  decide

end Sys2Proof.Machine
end

section
/-! Engine harts and media (O54). -/

namespace Sys2Proof.Machine

open Sys2Proof.Claims

/-! ### Engine harts (R401, R402) -/

theorem engineKick_kicks {h node ctx : Nat} {words : List Word} {s : State} (hv : (getNode s node).v = true) (hd : (getNode s node).dead = false)
    (hk : (getNode s node).kind = 3) (ha : (getNode s node).arg = h) :
    exec (.engineKick h node ctx words) s = .next ((kickHart h node ctx (words.take 5) s).getD s) := by
  have hcond : ((getNode s node).v && !(getNode s node).dead && (getNode s node).kind == 3 && (getNode s node).arg == h) = true := by
    rw [hv, hd, hk, ha]
    exact beq_self_eq_true h
  rw [exec_engineKick]
  unfold execEngineKick
  refine (if_pos hcond).trans ?_
  cases kickHart h node ctx (words.take 5) s <;> rfl

theorem kicks_pushOnce (e : Instr) (s : State) (h : Nat) : kicks (pushOnce e s) h = kicks s h := by
  unfold pushOnce
  split <;> rfl

/-- What the start of a program leaves of the harts but one. -/
theorem getTh_seat (t : Nat) (th : Thread) (s : State) (u : Nat) : getTh (seat t th s) u = if u = t then th else getTh s u := by
  rw [seat, getTh_occupy]
  rfl

theorem regsFrom_get (xs : List Word) {i : Nat} (hi : i < xs.length) : spGet 0 (regsFrom xs) (i + 1) = xs.getD i 0 := by
  have hstep : ∀ n, i < n → spGet 0 ((upTo n).foldl (fun m i => spSet 0 m (i + 1) (xs.getD i 0)) []) (i + 1) = xs.getD i 0 := by
    intro n
    induction n with
    | zero => exact fun h => absurd h (Nat.not_lt_zero i)
    | succ n ih =>
      intro hn
      rw [upTo, List.range_succ, List.foldl_append, List.foldl_cons, List.foldl_nil]
      by_cases hin : i = n
      · subst hin
        rw [spGet_spSet_self]
      · rw [spGet_spSet_other _ _ (by omega)]
        exact ih (by omega)
  exact hstep xs.length hi

theorem regsFrom_beyond (xs : List Word) {i : Nat} (hi : xs.length ≤ i) : spGet 0 (regsFrom xs) (i + 1) = 0 := by
  have hstep : ∀ n, n ≤ i → spGet 0 ((upTo n).foldl (fun m i => spSet 0 m (i + 1) (xs.getD i 0)) []) (i + 1) = 0 := by
    intro n
    induction n with
    | zero => exact fun _ => rfl
    | succ n ih =>
      intro hn
      rw [upTo, List.range_succ, List.foldl_append, List.foldl_cons, List.foldl_nil, spGet_spSet_other _ _ (by omega)]
      exact ih (by omega)
  exact hstep xs.length hi

theorem programThread_regs (s : State) (node ctx : Nat) (words : List Word) :
    (programThread s node ctx words).x = spSet 0 (regsFrom ((words.drop 1).take 4)) 15 dataHandle := rfl

/-- The registers of a program's start (R402). -/
theorem programThread_x (s : State) (node ctx : Nat) (words : List Word) {i : Nat} (h1 : 1 ≤ i) (h4 : i ≤ 4) :
    spGet 0 (programThread s node ctx words).x i = words.getD i 0 := by
  obtain ⟨j, rfl⟩ : ∃ j, i = j + 1 := ⟨i - 1, by omega⟩
  rw [programThread_regs, spGet_spSet_other _ _ (by omega)]
  have hlen : ((words.drop 1).take 4).length = min 4 (words.length - 1) := by rw [List.length_take, List.length_drop]
  by_cases hj : j < ((words.drop 1).take 4).length
  · rw [regsFrom_get _ hj, List.getD_eq_getElem?_getD, List.getElem?_take_of_lt (by omega), List.getElem?_drop, List.getD_eq_getElem?_getD, Nat.add_comm 1 j]
  · rw [regsFrom_beyond _ (Nat.le_of_not_lt hj), List.getD_eq_getElem?_getD, List.getElem?_eq_none (by omega)]
    rfl

theorem engineKicks : EngineKicks := by
  intro h node ctx words s
  refine ⟨?_, fun rest hkicks hh huid hstop hlive => ?_⟩
  · intro n hv hd hk ha
    have hexec := engineKick_kicks (ctx := ctx) (words := words) hv hd hk ha
    refine ⟨fun hfull => ?_, fun hroom => ?_⟩
    · rw [hexec, kickHart, if_pos hfull]
      rfl
    · rw [kickHart, if_neg (Nat.not_le.mpr hroom)] at hexec
      refine ⟨_, hexec, ?_, pushOnce_pending .., sameBytes_of_mem (mem_pushOnce ..)⟩
      refine (kicks_pushOnce _ _ h).trans ?_
      exact spGet_spSet_self ([] : List (Nat × Nat × List Word)) s.harts h _
  · have hidle : ¬ (64 ≤ h ∨ liveTh (getTh s (hart0 + h)) = true ∨ ctxStopped s ctx = true) := by
      rintro (h' | h' | h')
      · omega
      · rw [liveTh, show (getTh s (hart0 + h)).uid = 0 from huid] at h'
        exact absurd h' (by decide)
      · rw [hstop] at h'
        exact Bool.noConfusion h'
    have hexec : exec (.engineHartStart h) s = .next (seat (hart0 + h) (programThread s node ctx words) { s with harts := spSet [] s.harts h rest }) := by
      rw [exec_engineHartStart]
      unfold execEngineHartStart
      dsimp only
      rw [hkicks]
      refine (if_neg hidle).trans (if_pos ?_)
      exact hlive
    have hth : getTh (seat (hart0 + h) (programThread s node ctx words) { s with harts := spSet [] s.harts h rest }) (16384 + h) = programThread s node ctx words :=
      (getTh_seat ..).trans (if_pos rfl)
    refine ⟨_, hexec, ?_, fun u hu => (getTh_seat ..).trans (if_neg hu), sameBytes_of_mem rfl, ?_⟩
    · exact spGet_spSet_self ([] : List (Nat × Nat × List Word)) s.harts h rest
    · rw [hth]
      exact ⟨rfl, rfl, rfl, fun i h1 h4 => programThread_x s node ctx words h1 h4, by rw [programThread_regs, spGet_spSet_self]; rfl, rfl⟩

end Sys2Proof.Machine
end

section
/-! Media frames and PTP (O54; R72 to R81). -/

namespace Sys2Proof.Machine

open Sys2Proof.Claims

theorem rdWord_wrWord (s : State) (k : Nat) (v : Word) : rdWord (wrWord s k v) k = v := by
  have hlen : (leList 8 v.toNat).length = 8 := leList_length ..
  have hrun := rdRun_wrRun_self (leList 8 v.toNat) s k
  rw [hlen] at hrun
  rw [rdWord, rdNum, wrWord, hrun, leNum_leList 8 _ v.isLt]
  rw [w64, BitVec.ofNat_toNat, BitVec.setWidth_eq]

/-! ### PTP (R72, R73) -/

theorem ptpOffset_locked {s : State} (h : s.pkg.ptpLock = true) : ptpOffset s = s.pkg.ptpOff := by
  rw [ptpOffset, h, Bool.true_or]
  exact if_pos rfl

/-- Whether the best master heard is the one of a message, of the two ports (R72). -/
theorem bestMaster_iff {s : State} {port master : Nat} (hport : port < 2) (hown : spGet 0 s.pkg.masters port = master + 1) :
    bestMaster s master = true ↔ spGet 0 s.pkg.masters (1 - port) = 0 ∨ master + 1 ≤ spGet 0 s.pkg.masters (1 - port) := by
  have hcase : bestMaster s master = true ↔ ∀ p, p = 0 ∨ p = 1 → spGet 0 s.pkg.masters p = 0 ∨ master + 1 ≤ spGet 0 s.pkg.masters p := by
    simp [bestMaster]
  rw [hcase]
  refine ⟨fun h => h (1 - port) (by omega), fun h p hp => ?_⟩
  by_cases hpp : p = port
  · subst hpp
    exact .inr (Nat.le_of_eq hown.symm)
  · rw [show p = 1 - port by omega]
    exact h

/-- A frame's lock as a loss of it leaves it (R73). -/
theorem unlocked (l : List MFrame) : ∀ m ∈ l.map (fun f => { f with lock := false }), m.lock = false := by
  intro m hm
  obtain ⟨f, -, rfl⟩ := List.mem_map.mp hm
  rfl

theorem ptpMessage_steers {port domain master : Nat} {o r : Word} {l : Bool} {s : State} (hup : mediaUp s port = true) (hd : domain = s.pkg.ptpDomain) :
    exec (.ptpMessage ⟨port, domain, master⟩ o r l) s =
      let s1 : State := { s with pkg := { s.pkg with masters := spSet 0 s.pkg.masters port (master + 1) } }
      if !bestMaster s1 master then .next s1
      else .next { s1 with
        pkg := { s1.pkg with ptpOff := o, ptpTrim := r, ptpLock := l, ptpAt := gtime s }
        media := if l then s1.media else s1.media.map fun f => { f with lock := false } } := by
  rw [exec_ptpMessage]
  refine if_neg ?_
  rintro (h | h)
  · rw [hup] at h
    exact Bool.noConfusion h
  · exact h hd

theorem ptpMessages (port domain master : Nat) (o r : Word) (l : Bool) (s : State) :
    (mediaUp s port = false ∨ domain ≠ s.pkg.ptpDomain → exec (.ptpMessage ⟨port, domain, master⟩ o r l) s = .next s) ∧
    (mediaUp s port = true → domain = s.pkg.ptpDomain →
      let seen : Pkg := { s.pkg with masters := spSet 0 s.pkg.masters port (master + 1) }
      let other := spGet 0 s.pkg.masters (1 - port)
      (other ≠ 0 → other < master + 1 → exec (.ptpMessage ⟨port, domain, master⟩ o r l) s = .next { s with pkg := seen }) ∧
      (other = 0 ∨ master + 1 ≤ other → ∃ t, exec (.ptpMessage ⟨port, domain, master⟩ o r l) s = .next t ∧
        t.pkg = { seen with ptpOff := o, ptpTrim := r, ptpLock := l, ptpAt := gtime s } ∧ (l = true → t.media = s.media) ∧
        (l = false → ∀ m ∈ t.media, m.lock = false) ∧ SameBytes s t)) := by
  refine ⟨fun h => ?_, ?_⟩
  · rw [exec_ptpMessage]
    exact if_pos h
  · intro hup hd seen other
    have hport : port < 2 := of_decide_eq_true (Bool.and_eq_true_iff.mp hup).1
    have hown : spGet 0 seen.masters port = master + 1 := spGet_spSet_self 0 s.pkg.masters port (master + 1)
    have hbest := bestMaster_iff (s := { s with pkg := seen }) (master := master) hport hown
    have hother : spGet 0 seen.masters (1 - port) = other := spGet_spSet_other 0 s.pkg.masters (show 1 - port ≠ port by omega) (master + 1)
    rw [hother] at hbest
    have hexec := ptpMessage_steers (master := master) (o := o) (r := r) (l := l) hup hd
    dsimp only at hexec
    refine ⟨fun h0 hlt => ?_, fun hle => ?_⟩
    · refine hexec.trans (if_pos ?_)
      have hb : bestMaster { s with pkg := seen } master = false := Bool.eq_false_iff.mpr fun hb => by
        rcases hbest.mp hb with h | h
        · exact h0 h
        · omega
      exact (Bool.not_eq_true' _).mpr hb
    · have hb := hbest.mpr hle
      refine ⟨_, hexec.trans (if_neg ?_), rfl, fun hl => ?_, fun hl => ?_, sameBytes_of_mem rfl⟩
      · rw [show bestMaster _ master = true from hb]
        exact Bool.noConfusion
      · rw [hl]
        rfl
      · rw [hl]
        exact unlocked s.media

/-! ### Frames (R74, R75, R77, R79 to R81) -/

theorem mediaEnable_writes {node : Nat} (v : Word) {s : State} (hv : (getNode s node).v = true) (hd : (getNode s node).dead = false)
    (hk : (getNode s node).kind = 5) (ha : (getNode s node).arg = 1) : ∃ t, exec (.mediaEnable node v) s = .next t ∧ mediaWord t node 0 =
      ofN ((if bit v 0 = true ∧ (bit (mediaWord s node 0) 0 = true ∨ mediaCanStart s node = true) then 1 else 0) + if bit v 1 then 2 else 0) := by
  have hcond : ((getNode s node).v && !(getNode s node).dead && (getNode s node).kind == 5 && (getNode s node).arg == 1) = true := by
    rw [hv, hd, hk, ha]
    rfl
  have hexec : exec (.mediaEnable node v) s = .next (mediaControl node v s) := by
    rw [exec_mediaEnable]
    exact congrArg _ (if_pos hcond)
  refine ⟨_, hexec, ?_⟩
  rw [mediaWord, mediaControl, rdWord_wrWord]
  refine congrArg (fun n => ofN (n + if bit v 1 then 2 else 0)) (ite_congr ?_ (fun _ => rfl) fun _ => rfl)
  rw [Bool.and_eq_true, Bool.or_eq_true]

theorem mediaCount_counts (node : Nat) (s : State) {lo : Nat} (h : lo = 0 ∨ lo = 16 ∨ lo = 32 ∨ lo = 48) :
    (mediaWord (mediaCount node lo s) node 0x38).toNat / 2 ^ lo % 2 ^ 16 = min ((mediaWord s node 0x38).toNat / 2 ^ lo % 2 ^ 16 + 1) (2 ^ 16 - 1) := by
  have hbits : ∀ w : Word, bits w (lo + 15) lo = w.toNat / 2 ^ lo % 2 ^ 16 := fun w => by rw [bits, show lo + 15 + 1 - lo = 16 by omega]
  rw [mediaWord, mediaCount, rdWord_wrWord, ← hbits, bits_setBits_self _ (by omega) (by omega), hbits, show lo + 15 + 1 - lo = 16 by omega]
  exact Nat.mod_eq_of_lt (by omega)

theorem frameClaim_goes {node frame : Nat} {s : State} (hon : mediaOn s node = true) (hf : (getNode s node).arg2 = frame)
    (hc : claimTime s (mediaWord s node 8) frame = true) : ¬ ((!mediaOn s node) = true ∨ (getNode s node).arg2 ≠ frame ∨ claimTime s (mediaWord s node 8) frame = false) := by
  rintro (h | h | h)
  · rw [hon] at h
    exact absurd h (by decide)
  · exact h hf
  · rw [hc] at h
    exact Bool.noConfusion h

/-- A frame as its claim leaves it (R79). -/
def claimedFrame (s : State) (node frame : Nat) : MFrame :=
  let f := mediaWord s node 8
  let t := alignment f frame
  let l := bits (mediaWord s node 0x30) 31 0
  { node := node, frame := frame, rtpts := rtpOf f frame, align := t, dptp := t + l, dline := (w64 (t + l) - ptpOffset s).toNat
    lock := s.pkg.ptpLock
    fmt := f, ring := mediaWord s node 0x20, stat := mediaWord s node 0x28, seqs := [], runs := [], got := [], paths := [], first := 0, last := 0, used := 0 }

theorem claimedFrame_times (s : State) (node frame : Nat) : (claimedFrame s node frame).dptp = alignment (mediaWord s node 8) frame + (mediaWord s node 0x30).toNat % 2 ^ 32 ∧
    (claimedFrame s node frame).dline = (ofN (claimedFrame s node frame).dptp - ptpOffset s).toNat := by
  refine ⟨?_, rfl⟩
  rw [← bits_low _ 31]
  rfl

theorem frameClaim_empty {node frame : Nat} {s s2 : State} {bs : List Byte}
    (hgo : ¬ ((!mediaOn s node) = true ∨ (getNode s node).arg2 ≠ frame ∨ claimTime s (mediaWord s node 8) frame = false))
    (hrec : recordState (modNode s node fun n => { n with arg2 := frame + 1 }) node (recordAddr (mediaWord s node 8) (mediaWord s node 0x28) frame)
      (mediaGroups (mediaWord s node 8)) = some (false, bs))
    (hw : ingestWrite node (offWrap (recordAddr (mediaWord s node 8) (mediaWord s node 0x28) frame) 64) bs 2
      (modNode s node fun n => { n with arg2 := frame + 1 }) = some s2) :
    exec (.frameClaim node frame) s = .next { s2 with media := s2.media ++ [claimedFrame s node frame] } := by
  rw [exec_frameClaim]
  unfold execFrameClaim
  extract_lets +onlyGivenNames f
  refine (if_neg hgo).trans ?_
  extract_lets +onlyGivenNames stat a s1
  have hr : recordState s1 node a (mediaGroups f) = some (false, bs) := hrec
  have hi : ingestWrite node (offWrap a 64) bs 2 s1 = some s2 := hw
  generalize recordState s1 node a (mediaGroups f) = r at hr
  subst hr
  dsimp only
  generalize ingestWrite node (offWrap a 64) bs 2 s1 = w at hi
  subst hi
  rfl

theorem frameClaim_full {node frame : Nat} {s : State} {bs : List Byte}
    (hgo : ¬ ((!mediaOn s node) = true ∨ (getNode s node).arg2 ≠ frame ∨ claimTime s (mediaWord s node 8) frame = false))
    (hrec : recordState (modNode s node fun n => { n with arg2 := frame + 1 }) node (recordAddr (mediaWord s node 8) (mediaWord s node 0x28) frame)
      (mediaGroups (mediaWord s node 8)) = some (true, bs)) :
    exec (.frameClaim node frame) s = .next (mediaCount node 16 (modNode s node fun n => { n with arg2 := frame + 1 })) := by
  rw [exec_frameClaim]
  unfold execFrameClaim
  extract_lets +onlyGivenNames f
  refine (if_neg hgo).trans ?_
  extract_lets +onlyGivenNames stat a s1
  have hr : recordState s1 node a (mediaGroups f) = some (true, bs) := hrec
  generalize recordState s1 node a (mediaGroups f) = r at hr
  subst hr
  rfl

theorem frameClaim_claims {node frame : Nat} {s : State} (hon : mediaOn s node = true) (hf : (getNode s node).arg2 = frame)
    (hc : claimTime s (mediaWord s node 8) frame = true) :
    let f := mediaWord s node 8
    let s1 := modNode s node fun n => { n with arg2 := frame + 1 }
    let a := recordAddr f (mediaWord s node 0x28) frame
    (∀ bs s2, recordState s1 node a (mediaGroups f) = some (false, bs) → ingestWrite node (offWrap a 64) bs 2 s1 = some s2 →
      ∃ t m, exec (.frameClaim node frame) s = .next t ∧ t.media = s2.media ++ [m] ∧ t.mem = s2.mem ∧ m.node = node ∧ m.frame = frame ∧ m.got = [] ∧ m.seqs = [] ∧
        m.rtpts = rtpOf f frame ∧ m.align = alignment f frame ∧ m.dptp = alignment f frame + (mediaWord s node 0x30).toNat % 2 ^ 32 ∧
        m.dline = (ofN m.dptp - ptpOffset s).toNat ∧ m.lock = s.pkg.ptpLock) ∧
    (∀ bs, recordState s1 node a (mediaGroups f) = some (true, bs) → exec (.frameClaim node frame) s = .next (mediaCount node 16 s1)) := by
  intro f s1 a
  have hgo := frameClaim_goes hon hf hc
  obtain ⟨hdptp, hdline⟩ := claimedFrame_times s node frame
  exact ⟨fun bs s2 hrec hw => ⟨_, claimedFrame s node frame, frameClaim_empty hgo hrec hw, rfl, rfl, rfl, rfl, rfl, rfl, rfl, rfl, hdptp, hdline, rfl⟩,
    fun bs hrec => frameClaim_full hgo hrec⟩

/-! ### Ends and packets of a frame -/

theorem ingestWrite_media (node : Nat) (a : Word) (data : List Byte) (fe : Nat) (s : State) : ((ingestWrite node a data fe s).getD s).media = s.media := by
  unfold ingestWrite
  split
  · next h => exact (PortsKept.agentWrite _ _ _ _ h).media
  · rfl

theorem foldl_writeGroup_media (m : MFrame) (w : Nat → Word) (l : List Nat) (s : State) : (l.foldl (fun s g => writeGroup m g (w g) s) s).media = s.media := by
  induction l generalizing s with
  | nil => rfl
  | cons g l ih =>
    rw [List.foldl_cons, ih]
    exact ingestWrite_media ..

theorem find_only {s : State} {m : MFrame} (h : s.media = [m]) (p : MFrame → Bool) : s.media.find? p = if p m then some m else none := by
  rw [h, List.find?_cons]
  cases p m <;> rfl

theorem frameDeadline_ends {node frame : Nat} {s : State} {m : MFrame} (h : s.media = [m]) (hn : m.node = node) (hf : m.frame = frame) :
    ((gtime s).toNat < m.dline → exec (.frameDeadline node frame) s = .next s) ∧
    (m.dline ≤ (gtime s).toNat → ∃ t, exec (.frameDeadline node frame) s = .next t ∧ t.media = []) := by
  have hsame : (m.node == node && m.frame == frame) = true := by rw [hn, hf, beq_self_eq_true, beq_self_eq_true]; rfl
  have hfind : (s.media.find? fun m => m.node == node && m.frame == frame) = some m := (find_only h _).trans (if_pos hsame)
  rw [exec_frameDeadline]
  unfold execFrameDeadline
  rw [hfind]
  refine ⟨fun hlt => if_pos hlt, fun hle => ⟨_, if_neg (Nat.not_lt.mpr hle), ?_⟩⟩
  dsimp only
  rw [ingestWrite_media, ingestWrite_media, foldl_writeGroup_media, h, List.filter_cons, hsame]
  rfl

theorem mediaPacketArrival_one {port node : Nat} {p : MediaPacket} {s : State} (hup : mediaUp s port = true)
    (honly : (spKeys s.nodes).filter (fun n => mediaOn s n && pathMatches s n port p) = [node]) :
    exec (.mediaPacketArrival port p) s = .next (streamPacket node port p s) := by
  rw [exec_mediaPacketArrival]
  refine (if_neg (by rw [hup]; exact Bool.noConfusion)).trans ?_
  rw [honly]
  rfl

theorem packetsArrive {node port : Nat} {p : MediaPacket} {s : State} {m : MFrame} (h : s.media = [m]) (hn : m.node = node)
    (hup : mediaUp s port = true) (honly : (spKeys s.nodes).filter (fun n => mediaOn s n && pathMatches s n port p) = [node]) :
    let f := mediaWord s node 8
    (f.toNat / 2 ^ 6 % 4 = 0 → 3 < p.rows.length → exec (.mediaPacketArrival port p) s = .next s) ∧ ((f.toNat / 2 ^ 6 % 4 = 0 → p.rows.length ≤ 3) →
      (m.rtpts = p.rtpts → (gtime s).toNat < m.dline → exec (.mediaPacketArrival port p) s = .next (fileMediaPacket port m p s)) ∧
      (m.rtpts = p.rtpts → m.dline ≤ (gtime s).toNat → exec (.mediaPacketArrival port p) s = .next (mediaCount node 48 s)) ∧
      (m.rtpts ≠ p.rtpts → exec (.mediaPacketArrival port p) s =
        .next (mediaCount node (if (p.rtpts - rtpOf f (getNode s node).arg2).toNat < 2 ^ 31 then 32 else 48) s))) := by
  intro f
  have hexec := mediaPacketArrival_one hup honly
  have hfind : (s.media.find? fun m => m.node == node && m.rtpts == p.rtpts) = if m.rtpts = p.rtpts then some m else none := by
    refine (find_only h _).trans (ite_congr ?_ (fun _ => rfl) fun _ => rfl)
    rw [hn, beq_self_eq_true, Bool.true_and, beq_iff_eq]
  rw [hexec]
  refine ⟨fun h0 h3 => congrArg _ (if_pos ⟨h0, h3⟩), fun hrows => ?_⟩
  have hgo : streamPacket node port p s = _ := if_neg fun hc => absurd (hrows hc.1) (Nat.not_le.mpr hc.2)
  rw [hgo, hfind]
  refine ⟨fun hr hlt => ?_, fun hr hle => ?_, fun hr => ?_⟩
  · rw [if_pos hr]
    exact congrArg _ (if_pos hlt)
  · rw [if_pos hr]
    exact congrArg _ (if_neg (Nat.not_lt.mpr hle))
  · rw [if_neg hr]

theorem mediaResults : MediaResults := by
  intro node frame s f
  refine ⟨⟨rfl, ptpOffset_locked⟩, fun port domain master o r l => ptpMessages port domain master o r l s, ⟨_, exec_ptpHoldover s, rfl, unlocked s.media, sameBytes_of_mem rfl⟩,
    fun v hv hd hk ha => mediaEnable_writes v hv hd hk ha, fun hon hf hc => frameClaim_claims hon hf hc, fun m hm hn hf => ?_, fun lo h => mediaCount_counts node s h⟩
  obtain ⟨hearly, hlate⟩ := frameDeadline_ends hm hn hf
  refine ⟨hearly, hlate, fun port p hport hup honly => packetsArrive hm hn ?_ honly⟩
  exact Bool.and_eq_true_iff.mpr ⟨decide_eq_true hport, hup⟩

/-- Settles O54, from what kicks, starts, PTP messages, claims, deadlines and packets do. -/
theorem enginesAndMedia : Obligations.EnginesAndMedia := ⟨engineKicks, mediaResults⟩

end Sys2Proof.Machine
end

section
/-! A thread that waits at no word and at no barrier object stands by while others' stores are made (R148, R315, R323): only its latch bits change, and with no latch
armed nothing of it does. -/

namespace Sys2Proof.Machine

open Sys2Proof.Claims

/-- A wait that no store serves. -/
def idles (w : Wait) : Bool :=
  match w with
  | .word _ _ _ _ _ _ => false
  | .barrier _ _ _ _ _ _ => false
  | _ => true

/-- No latch of a hart is armed (those of saved threads have other tags). -/
def Unarmed (u : Nat) (s : State) : Prop := ∀ r ∈ s.latches, r.t = u → 1000000 ≤ u

/-! ### Other harts -/

theorem getTh_endCapture_other {t u : Nat} (h : u ≠ t) (s : State) : getTh (endCapture t s) u = getTh s u := by
  unfold endCapture
  split
  · rfl
  · exact getTh_setTh_other _ h _

theorem getTh_departTo_other {t u : Nat} (h : u ≠ t) (a : Word) (l : BitVec 15) (s : State) : getTh (departTo t a l s) u = getTh s u := by
  unfold departTo
  exact (getTh_endCapture_other h _).trans (getTh_setTh_other _ h _)

theorem getTh_enterTrap_other {t u : Nat} (h : u ≠ t) (i : TrapInfo) (async : Bool) (j : Nat) (p : Bool) (epc : Word) (s : State) :
    getTh (enterTrap t i async j p epc s) u = getTh s u := by
  have hset : ∀ th : Thread, getTh (endCapture t (setTh s t th)) u = getTh s u := fun th => (getTh_endCapture_other h _).trans (getTh_setTh_other _ h _)
  unfold enterTrap
  dsimp only
  rw [modTh_eq, modTh_eq]
  split
  · exact hset _
  · split
    · exact (getTh_departTo_other h _ _ _).trans (hset _)
    · exact hset _

theorem getTh_retire_other {s0 s : State} {u : Nat} (h : u ≠ s.me) (h0 : getTh s0 u = getTh s u) (n : Nat) (q : Bool) : getTh (retire s0 n q s) u = getTh s u := by
  unfold retire retireLive flow
  dsimp only
  rw [modTh_eq, modTh_eq]
  have hset : getTh (setTh s s.me (seqNext (getTh s0 s.me).pc n (getTh s s.me)).1) u = getTh s u := getTh_setTh_other _ h _
  split
  · split
    · exact (getTh_enterTrap_other h ..).trans h0
    · exact (getTh_departTo_other h ..).trans ((getTh_setTh_other _ h _).trans hset)
  · exact (getTh_setTh_other _ h _).trans hset

/-! ### Standing by -/

/-- What a step leaves of a thread that stands by, and of the latches that are armed. -/
structure Bystander (u : Nat) (s t : State) : Prop where
  th : idles (getTh s u).wait = true → ∃ l, getTh t u = { getTh s u with latch := l }
  still : idles (getTh s u).wait = true → Unarmed u s → getTh t u = getTh s u
  latches : t.latches = s.latches

namespace Bystander

variable {u : Nat}

theorem of_same {s t : State} (h : getTh t u = getTh s u) (hl : t.latches = s.latches) : Bystander u s t := ⟨fun _ => ⟨_, h⟩, fun _ _ => h, hl⟩

theorem refl (s : State) : Bystander u s s := of_same rfl rfl

theorem trans {a b c : State} (h : Bystander u a b) (k : Bystander u b c) : Bystander u a c := by
  have hidle : idles (getTh a u).wait = true → idles (getTh b u).wait = true := fun hi => by
    obtain ⟨l, hl⟩ := h.th hi
    rw [hl]
    exact hi
  refine ⟨fun hi => ?_, fun hi hu => ?_, k.latches.trans h.latches⟩
  · obtain ⟨l, hl⟩ := h.th hi
    obtain ⟨l', hl'⟩ := k.th (hidle hi)
    exact ⟨l', by rw [hl', hl]⟩
  · have hu' : Unarmed u b := fun r hr => hu r (h.latches ▸ hr)
    exact (k.still (hidle hi) hu').trans (h.still hi hu)

theorem congr {s t t' : State} (h : Bystander u s t) (ht : t'.threads = t.threads) (hl : t'.latches = t.latches) : Bystander u s t' :=
  h.trans (of_same (congrArg (spGet Thread.reset · u) ht) hl)

theorem foldl {α : Type} {f : State → α → State} (h : ∀ s a, Bystander u s (f s a)) (l : List α) (s : State) : Bystander u s (l.foldl f s) :=
  foldl_rel refl (fun _ _ _ => trans) h l s

theorem of_homeMoved {s t : State} (h : HomeMoved s t) : Bystander u s t := of_same (getTh_homeMoved h u) (by rw [h])

theorem push {s t : State} (h : Bystander u s t) (e : Instr) : Bystander u s (push e t) := h.congr rfl rfl

theorem pushOnce (e : Instr) (s : State) : Bystander u s (pushOnce e s) := by
  unfold Machine.pushOnce
  split
  · exact refl s
  · exact (refl s).push e

/-- A step of another hart, which touches that hart alone. -/
theorem of_other {t : Nat} {f : State → State} (h : ∀ s, s.me = t → getTh (f s) u = getTh s u ∧ (f s).latches = s.latches) (s : State) :
    Bystander u s (asHart t f s) := by
  obtain ⟨hth, hl⟩ := h { s with me := t } rfl
  exact of_same hth hl

theorem hitLatches (word : Nat) (s : State) : Bystander u s (hitLatches word s) := by
  have hstep : ∀ (l : List LatchReg) (v : State), (∀ r ∈ l, r ∈ v.latches) → Bystander u v (l.foldl (fun s r =>
      if r.t < 1000000 then modTh s r.t (fun th => { th with latch := spSet 0 th.latch r.entry (setBit (spGet 0 th.latch r.entry) 0 true) })
      else modSaved r.t (fun th => { th with latch := spSet 0 th.latch r.entry (setBit (spGet 0 th.latch r.entry) 0 true) }) s) v) := by
    intro l
    induction l with
    | nil => exact fun v _ => refl v
    | cons r l ih =>
      intro v hv
      rw [List.foldl_cons]
      have hone : Bystander u v (if r.t < 1000000 then modTh v r.t (fun th => { th with latch := spSet 0 th.latch r.entry (setBit (spGet 0 th.latch r.entry) 0 true) })
          else modSaved r.t (fun th => { th with latch := spSet 0 th.latch r.entry (setBit (spGet 0 th.latch r.entry) 0 true) }) v) := by
        split
        · next hlt =>
          by_cases hr : r.t = u
          · refine ⟨fun _ => ⟨spSet 0 (getTh v u).latch r.entry (setBit (spGet 0 (getTh v u).latch r.entry) 0 true), ?_⟩, fun _ hu => ?_, rfl⟩
            · rw [hr]
              exact getTh_setTh_self ..
            · exact absurd (hu r (hv r List.mem_cons_self) hr) (by omega)
          · exact of_same (getTh_setTh_other _ (fun h => hr h.symm) _) rfl
        · exact of_same rfl rfl
      refine hone.trans (ih _ fun r' hr' => ?_)
      rw [hone.latches]
      exact hv r' (List.mem_cons_of_mem _ hr')
  exact hstep _ s fun r hr => (List.mem_filter.mp hr).1

theorem getTh_addLate_other {s : State} (h : u ≠ s.me) (d : Reg) (v : Word) : getTh (addLate d v s) u = getTh s u := getTh_setTh_other _ h _

theorem latches_retire {s0 s : State} (h : MachineKept s0 s) (n : Nat) (q : Bool) : (Machine.retire s0 n q s).latches = s0.latches := by
  rw [machineKept_retire h n q]

theorem latches_serve (t : Nat) (v : Word) (s : State) : (Machine.serve t v s).latches = s.latches := by
  unfold Machine.serve Machine.asHart
  dsimp only
  split
  · split
    · exact latches_retire (machineKept_refl _) ..
    · exact latches_retire (machineKept_addLate ..) ..
    · exact latches_retire (machineKept_addLate ..) ..
  · rfl

theorem serve_idle {t : Nat} {s : State} (hi : idles (getTh s t).wait = true) (v : Word) :
    Machine.serve t v s = { catchUp (coreOf t) { s with me := t } with me := s.me } := by
  unfold Machine.serve Machine.asHart
  dsimp only
  rw [show (cur (catchUp (coreOf t) { s with me := t })).wait = (getTh s t).wait from rfl]
  generalize (getTh s t).wait = w at hi
  cases w <;> first | rfl | exact Bool.noConfusion hi

theorem serve_other {t : Nat} (ht : u ≠ t) (v : Word) (s : State) : getTh (Machine.serve t v s) u = getTh s u := by
  have hadd : ∀ (s : State) (d : Reg) (v : Word), s.me = t → getTh (addLate d v s) u = getTh s u := fun s d v hs => getTh_addLate_other (by rw [hs]; exact ht) d v
  unfold Machine.serve Machine.asHart
  dsimp only
  split
  · split
    · exact (getTh_retire_other (s := catchUp (coreOf t) { s with me := t }) ht rfl ..).trans rfl
    · exact (getTh_retire_other (s := addLate _ _ (catchUp (coreOf t) { s with me := t })) ht (hadd _ _ _ rfl).symm ..).trans (hadd _ _ _ rfl)
    · exact (getTh_retire_other (s := addLate _ _ (catchUp (coreOf t) { s with me := t })) ht (hadd _ _ _ rfl).symm ..).trans (hadd _ _ _ rfl)
  · rfl

theorem serve (t : Nat) (v : Word) (s : State) : Bystander u s (serve t v s) := by
  by_cases ht : u = t
  · subst ht
    have hw : idles (getTh s u).wait = true → getTh (Machine.serve u v s) u = getTh s u := fun hi => by
      rw [serve_idle hi]
      rfl
    exact ⟨fun hi => ⟨_, hw hi⟩, fun hi _ => hw hi, latches_serve ..⟩
  · exact of_same (serve_other ht v s) (latches_serve ..)

theorem wrRun {s t : State} (h : Bystander u s t) (k : Nat) (bs : List Byte) : Bystander u s (wrRun t k bs) := by
  induction bs generalizing t k with
  | nil => exact h
  | cons b bs ih => exact ih (h.congr (by rfl) (by rfl) : Bystander u s (wrByte t k b)) (k + 1)

theorem wrWord {s t : State} (h : Bystander u s t) (k : Nat) (v : Word) : Bystander u s (wrWord t k v) := h.wrRun ..

theorem wrPieces {s t : State} (h : Bystander u s t) (ps : List Piece) (bs : List Byte) : Bystander u s (wrPieces t ps bs) := by
  induction ps generalizing t bs with
  | nil => exact h
  | cons p ps ih => exact ih (h.wrRun ..) _

theorem setFe {s t : State} (h : Bystander u s t) (k : Nat) (b : Bool) : Bystander u s (setFe t k b) := h.congr rfl rfl

theorem serveList (word fuel : Nat) : ∀ s, Bystander u s (serveList word fuel s) := by
  induction fuel with
  | zero => exact refl
  | succ n ih =>
    intro s
    unfold Machine.serveList
    split
    · exact refl s
    · next e rest _ =>
      have hgo : ∀ s', Bystander u s s' → Bystander u s (Machine.serveList word n { s' with waits := spSet [] s'.waits word rest }) := fun s' h =>
        (h.congr (by rfl) (by rfl)).trans (ih _)
      have hagain : Bystander u s (homeAgain (coreOf e.t) (word * 8) s) := of_homeMoved (homeMoved_homeAgain ..)
      have hjoin : Bystander u s (joinAgain (coreOf e.t) (word * 8) s) := of_homeMoved (homeMoved_joinAgain ..)
      dsimp only
      split
      · split
        · exact hgo _ (hagain.trans (serve ..))
        · exact refl s
      · split
        · exact hgo _ (hjoin.trans (serve ..))
        · exact refl s
      · split
        · exact hgo _ (((hagain.setFe ..).trans (hitLatches ..)).trans (serve ..))
        · exact refl s
      · split
        · exact refl s
        · exact hgo _ ((((hagain.wrWord ..).setFe ..).trans (hitLatches ..)).trans (serve ..))

theorem testGates (word : Nat) (s : State) : Bystander u s (testGates word s) := by
  refine foldl (fun s e => ?_) _ s
  dsimp only
  split
  · exact (refl s).push _
  · exact refl s

theorem lessWaiter (key : Nat) (s : State) : Bystander u s (lessWaiter key s) := ((refl s).wrWord ..).trans (hitLatches ..)

/-- The end of another hart's bar.wait. -/
theorem released_other {t : Nat} (ht : u ≠ t) (n : Nat) (q : Bool) (d : Reg) (v : Word) (f : Thread → Thread) (s : State) :
    Bystander u s (asHart t (fun s => Machine.retire s n q (addLate d v (modTh s t f))) s) := by
  refine of_other (fun w hw => ?_) s
  have hth : getTh (addLate d v (Machine.modTh w t f)) u = getTh w u :=
    (getTh_addLate_other (s := Machine.modTh w t f) (by rw [show (Machine.modTh w t f).me = w.me from rfl, hw]; exact ht) d v).trans (getTh_setTh_other _ ht _)
  have hkept : MachineKept w (addLate d v (Machine.modTh w t f)) := machineKept_trans (machineKept_setTh (machineKept_refl w) t _) (machineKept_addLate ..)
  have hme : (addLate d v (Machine.modTh w t f)).me = w.me := rfl
  exact ⟨(getTh_retire_other (by rw [hme, hw]; exact ht) hth.symm n q).trans hth, latches_retire hkept n q⟩

theorem releaseWaiter (s : State) (t : Nat) : Bystander u s (releaseWaiter s t) := by
  unfold Machine.releaseWaiter
  split
  · next key a p left d q hw =>
    dsimp only
    split
    · exact refl s
    · have hstore : Bystander u s (catchUp (coreOf t) (Machine.lessWaiter key s)) := (lessWaiter ..).trans (of_homeMoved (homeMoved_catchUp ..))
      by_cases ht : u = t
      · subst ht
        have hno : ¬ idles (getTh s u).wait = true := by rw [hw]; exact Bool.noConfusion
        refine ⟨fun hi => absurd hi hno, fun hi => absurd hi hno, ?_⟩
        refine Eq.trans ?_ hstore.latches
        unfold asHart
        dsimp only
        exact latches_retire (machineKept_trans (machineKept_setTh (machineKept_refl _) u _) (machineKept_addLate ..)) ..
      · exact hstore.trans (released_other ht ..)
  · exact refl s

theorem testBarriers (word : Nat) (s : State) : Bystander u s (testBarriers word s) := foldl (fun s (e : Nat × Thread) => releaseWaiter s e.1) _ s

theorem afterWord (s : State) (word : Nat) : Bystander u s (afterWord s word) := by
  unfold Machine.afterWord
  split
  · exact (refl s).congr rfl rfl
  · exact (((hitLatches ..).trans (serveList ..)).trans (testGates ..)).trans (testBarriers ..)

theorem afterWrite (s0 : State) (ps : List Piece) (s : State) : Bystander u s (afterWrite s0 ps s) := by
  have hclean : Bystander u s (cleanWords ps s) := by
    unfold cleanWords
    split
    · exact refl s
    · exact of_same rfl rfl
  exact hclean.trans (foldl (fun s w => afterWord s w) _ _)

theorem storeRel (u : Nat) : StoreRel (Bystander u) where
  refl := refl
  trans := trans
  landed := afterWrite
  hit := hitLatches
  quiet := fun h => of_same (congrArg (spGet Thread.reset · u) h.threads) h.latches

end Bystander

end Sys2Proof.Machine
end

section
/-! Departures of travelling threads from their slots, and their arrivals (R173, R175 to R177). -/

namespace Sys2Proof.Machine

open Sys2Proof.Claims

theorem bystander_spillWrite (u : Nat) (x : Launch) (o : Nat) (data : List Byte) (s : State) : Bystander u s (spillWrite x o data s) := by
  unfold spillWrite
  split
  · next h => exact (Bystander.storeRel u).agentWrite _ _ _ _ h
  · exact Bystander.refl s

theorem bystander_writeTrapRecord (u t : Nat) (s : State) : Bystander u s (writeTrapRecord t s) := by
  unfold writeTrapRecord
  dsimp only
  split
  · exact bystander_spillWrite ..
  · exact Bystander.refl s

theorem getTh_disarmAll_self (t : Nat) (s : State) : ∃ l, getTh (disarmAll t s) t = { getTh s t with latch := l } := by
  refine foldl_rel (R := fun s s' => ∃ l, getTh s' t = { getTh s t with latch := l }) (fun s => ⟨_, rfl⟩) (fun a b c hab hbc => ?_) (fun s i => ?_) (upTo 4) s
  · obtain ⟨l, hl⟩ := hab
    obtain ⟨l', hl'⟩ := hbc
    exact ⟨l', by rw [hl', hl]⟩
  · exact ⟨_, getTh_setTh_self ..⟩

/-- A settled thread as it leaves: its latches are withdrawn and its trap record is written. -/
def departing (t : Nat) (s : State) : State := writeTrapRecord t (disarmAll t (catchUp (coreOf t) s))

theorem getTh_departing {t : Nat} {s : State} (hi : idles (getTh s t).wait = true) : ∃ l, getTh (departing t s) t = { getTh s t with latch := l } := by
  obtain ⟨l, hl⟩ := getTh_disarmAll_self t (catchUp (coreOf t) s)
  have hl' : getTh (disarmAll t (catchUp (coreOf t) s)) t = { getTh s t with latch := l } := hl
  obtain ⟨l', hl''⟩ := (bystander_writeTrapRecord t t (disarmAll t (catchUp (coreOf t) s))).th (by rw [hl']; exact hi)
  exact ⟨l', by rw [departing, hl'', hl']⟩

theorem slotFree_mem_leaveSlot (t t' : Nat) (s : State) : Instr.slotFree (coreOf t) (slotOf t) ∈ (leaveSlot t t' s).pending :=
  List.mem_append_right _ (List.mem_singleton_self _)

/-- The parcel that a thread leaves in. -/
def departParcel (t : Nat) (target : Word) (live : BitVec 15) (seg : List Nat) (s : State) : Parcel :=
  let p := parcelOf s t .travel (destination s (getTh s t).id seg) 0 target none
  { p with xs := liveOnly live p.xs }

theorem execTravelDeparture_settled {t : Nat} {target : Word} {live : BitVec 15} {seg : List Nat} {s : State}
    (hw : (getTh s t).wait = .settle (.depart target live)) (hseg : segOf s t target = some seg) (hset : settled s t = true)
    (hid : (getTh (departing t s) t).id = (getTh s t).id) :
    execTravelDeparture t s = .next (push (.travelArrival (departParcel t target live seg (departing t s))) (leaveSlot t t (departing t s))) := by
  unfold execTravelDeparture departParcel
  simp only [hw, hseg, hset, hid]
  rfl

theorem execTravelDeparture_unsettled {t : Nat} {target : Word} {live : BitVec 15} {seg : List Nat} {s : State}
    (hw : (getTh s t).wait = .settle (.depart target live)) (hseg : segOf s t target = some seg) (hset : settled s t = false) :
    execTravelDeparture t s = .next s := by
  unfold execTravelDeparture
  simp only [hw, hseg, hset]
  rfl

theorem liveOnly_getD (live : BitVec 15) (xs : List Word) {i : Nat} (h : i < 15) : (liveOnly live xs).getD i 0 = if live.getLsbD i then xs.getD i 0 else 0 := by
  simp [liveOnly, upTo, h]

theorem parcelOf_xs_getD (s : State) (t : Nat) (kind : ParcelKind) (core slot : Nat) (pc : Word) (r : Option Reg) {i : Nat} (h : i < 15) :
    (parcelOf s t kind core slot pc r).xs.getD i 0 = spGet 0 (getTh s t).x (i + 1) := by
  simp [parcelOf, upTo, h]

/-- R175: with no choice of the least loaded, the thread's id picks among the segment's cores. -/
theorem destination_fixed {seg : List Nat} (h4 : seg.getD 4 0 = 0) (s : State) (id : BitVec 32) :
    destination s id seg = seg.getD (6 + id.toNat % (seg.getD 5 0 + 1)) 0 := by
  unfold destination
  dsimp only
  rw [if_pos h4]
  have hlt : id.toNat % (seg.getD 5 0 + 1) < seg.getD 5 0 + 1 := Nat.mod_lt _ (Nat.succ_pos _)
  generalize id.toNat % (seg.getD 5 0 + 1) = k at hlt ⊢
  rw [List.getD_eq_getElem?_getD, List.getElem?_take_of_lt hlt, List.getElem?_drop, ← List.getD_eq_getElem?_getD]

theorem execTravelArrival_seated {p : Parcel} {n : Nat} {s : State} (hcore : p.core < 1024) (hspill : (getCore s p.core).spilled = [])
    (harr : (getCore s p.core).arrivals = []) (hclaim : slotClaimed s p.core = false) (hfree : lowestFree s p.core = some n) :
    execTravelArrival p s = .next (seatParcel p n s) := by
  unfold execTravelArrival
  simp [hspill, harr, hclaim, hfree, Nat.not_le.mpr hcore]

/-- R176, R177: a parcel with no slot to take joins the arrival queue, or is spilled when that is full. -/
theorem execTravelArrival_unseated {p : Parcel} {s : State} (hcore : p.core < 1024) (hspill : (getCore s p.core).spilled = [])
    (h : (getCore s p.core).arrivals ≠ [] ∨ slotClaimed s p.core = true ∨ lowestFree s p.core = none) :
    execTravelArrival p s = if (getCore s p.core).arrivals.length < 16 then
      .next (modCore s p.core fun c => { c with arrivals := c.arrivals ++ [p] }) else .next (spillIn p s) := by
  have hnone : (if (getCore s p.core).arrivals.isEmpty && !slotClaimed s p.core then lowestFree s p.core else none) = none := by
    obtain harr | hclaim | hfree := h
    · simp [harr]
    · simp [hclaim]
    · simp [hfree]
  unfold execTravelArrival
  dsimp only
  rw [hnone, if_neg (by simp [hspill, hcore])]

theorem travelDeparts {s : State} {t : Nat} {target : Word} {live : BitVec 15} {seg : List Nat} (hw : (getTh s t).wait = .settle (.depart target live))
    (hseg : segOf s t target = some seg) (hset : settled s t = true) :
    ∃ u p, exec (.travelDeparture t) s = .next u ∧ Instr.travelArrival p ∈ u.pending ∧ Instr.slotFree (coreOf t) (slotOf t) ∈ u.pending ∧
      getTh u t = Thread.reset ∧ p.pc = target ∧ p.launch = (getTh s t).launch ∧ p.tid = (getTh s t).id ∧ p.kind = .travel ∧
      (∀ i, i < 15 → p.xs.getD i 0 = if live.getLsbD i then spGet 0 (getTh s t).x (i + 1) else 0) ∧
      (seg.getD 4 0 = 0 → seg.length = 7 + seg.getD 5 0 → p.core = seg.getD (6 + (getTh s t).id.toNat % (seg.getD 5 0 + 1)) 0) := by
  obtain ⟨l, hth⟩ := getTh_departing (t := t) (s := s) (by rw [hw]; rfl)
  have hid : (getTh (departing t s) t).id = (getTh s t).id := by rw [hth]
  have hlaunch : (getTh (departing t s) t).launch = (getTh s t).launch := by rw [hth]
  have hx : (getTh (departing t s) t).x = (getTh s t).x := by rw [hth]
  refine ⟨_, departParcel t target live seg (departing t s), (exec_travelDeparture t s).trans (execTravelDeparture_settled hw hseg hset hid),
    List.mem_append_right _ (List.mem_singleton_self _), List.mem_append_left _ (slotFree_mem_leaveSlot ..), getTh_leaveSlot t t _, rfl, hlaunch, hid, rfl,
    fun i hi => ?_, fun h4 _ => ?_⟩
  · refine (liveOnly_getD live _ hi).trans ?_
    rw [parcelOf_xs_getD _ _ _ _ _ _ _ hi, hx]
  · refine Eq.trans ?_ (destination_fixed h4 (departing t s) (getTh s t).id)
    rw [← hid]
    rfl

theorem travelMoves : TravelMoves := by
  intro s
  refine ⟨fun t target live seg hw hseg => ⟨fun hset => ?_, fun hset => travelDeparts hw hseg hset⟩, fun p hcore hspill => ⟨fun n harr hclaim hfree => ?_, fun h => ?_⟩⟩
  · rw [exec_travelDeparture]
    exact execTravelDeparture_unsettled hw hseg hset
  · rw [exec_travelArrival]
    exact execTravelArrival_seated hcore hspill harr hclaim hfree
  · rw [exec_travelArrival, execTravelArrival_unseated hcore hspill h]
    exact ⟨fun hlt => if_pos hlt, fun hge => if_neg (Nat.not_lt.mpr hge)⟩

end Sys2Proof.Machine
end

section
/-! A gang at rest is saved with its threads' registers, and its slots are free (R161 to R163). -/

namespace Sys2Proof.Machine

open Sys2Proof.Claims

/-! ### Copies of mapped pages (R241) -/

namespace StoreQuiet

/-- The same, after a step that touches none of these. -/
theorem after {a b c : State} (h : StoreQuiet b c) (h1 : b.threads = a.threads) (h2 : b.latches = a.latches) (h3 : b.ports = a.ports) (h4 : b.media = a.media)
    (h5 : b.parts = a.parts) (h6 : b.pkg.pkst = a.pkg.pkst) (h7 : b.pkg.routeDown = a.pkg.routeDown) : StoreQuiet a c := trans ⟨h1, h2, h3, h4, h5, h6, h7⟩ h

theorem foldl {α : Type} {f : State → α → State} (h : ∀ s a, StoreQuiet s (f s a)) (l : List α) (s : State) : StoreQuiet s (l.foldl f s) :=
  foldl_rel refl (fun _ _ _ => trans) h l s

theorem copyCells (n : Nat) : ∀ (src dst : Nat) (s : State), StoreQuiet s (copyCells src dst n s) := by
  induction n with
  | zero => exact fun _ _ => refl
  | succ n ih =>
    intro src dst s
    unfold Machine.copyCells
    refine trans (wrByte s dst (rdByte s src)) (trans ?_ (ih ..))
    split
    · exact ⟨rfl, rfl, rfl, rfl, rfl, rfl, rfl⟩
    · exact refl _

theorem withdrawResv (t : Nat) (s : State) : StoreQuiet s (withdrawResv t s) := by
  rw [resvMoved_withdrawResv t s]
  exact ⟨rfl, rfl, rfl, rfl, rfl, rfl, rfl⟩

theorem withdrawWaits (t : Nat) (s : State) : StoreQuiet s (withdrawWaits t s) := by
  refine foldl (fun s e => ?_) _ s
  split
  · exact ⟨rfl, rfl, rfl, rfl, rfl, rfl, rfl⟩
  · exact refl s

theorem withdrawMatrix (t : Nat) (s : State) : StoreQuiet s (withdrawMatrix t s) := by
  have hq : ∀ q, StoreQuiet s { s with mmq := q } := fun _ => ⟨rfl, rfl, rfl, rfl, rfl, rfl, rfl⟩
  unfold Machine.withdrawMatrix
  dsimp only
  split
  · exact (hq _).trans (withdrawResv ..)
  · exact hq _

theorem ungrant (core : Nat) (slot : Option Nat) (s : State) : StoreQuiet s (ungrant core slot s) := by
  cases slot with
  | none => exact refl s
  | some n => exact ⟨rfl, rfl, rfl, rfl, rfl, rfl, rfl⟩

theorem drainParcel (s : State) (e : Instr) : StoreQuiet s (drainParcel s e) := by
  unfold Machine.drainParcel
  split
  · dsimp only
    split <;> exact ⟨rfl, rfl, rfl, rfl, rfl, rfl, rfl⟩
  · exact refl s

theorem offerSlots (s : State) (c : Nat) : StoreQuiet s (offerSlots s c) := by
  unfold Machine.offerSlots
  dsimp only
  split
  · exact refl s
  · refine foldl (fun s n => ?_) _ s
    unfold Machine.pushOnce
    split
    · exact refl s
    · exact ⟨rfl, rfl, rfl, rfl, rfl, rfl, rfl⟩

end StoreQuiet

namespace StoreRel

variable {R : State → State → Prop}

theorem copyRun (A : StoreRel R) (src dst n : Nat) (s : State) : R s (copyRun src dst n s) :=
  A.trans (A.quiet (StoreQuiet.copyCells n src dst s)) (A.landed ..)

theorem copyPage (A : StoreRel R) (load : Bool) : ∀ (ps : List Piece) (pa : Nat) (s : State), R s (copyPage load ps pa s)
  | [], _, s => A.refl s
  | p :: ps, pa, s => by
    unfold Machine.copyPage
    refine A.trans ?_ (A.copyPage load ps _ _)
    split <;> exact A.copyRun ..

theorem backPage (A : StoreRel R) : ∀ (ps : List Piece) (pa : Nat) (s : State), R s (backPage ps pa s)
  | [], _, s => A.refl s
  | p :: ps, pa, s => by
    unfold Machine.backPage
    refine A.trans (A.foldl (fun s i => ?_) _ _) (A.backPage ps _ _)
    split
    · exact A.copyRun ..
    · exact A.refl s

theorem mapCopy (A : StoreRel R) (k : Nat) (e : MapEnt) (load : Bool) (s : State) : R s (mapCopy k e load s) := by
  refine A.foldl (fun s i => ?_) _ s
  split
  · split
    · exact A.copyPage ..
    · exact A.backPage ..
  · exact A.refl s

theorem mapRemove (A : StoreRel R) (k : Nat) (v : Word) (s : State) : R s (mapRemove k v s) :=
  A.trans (A.mapCopy k (getMap s k) false s) (A.still rfl rfl rfl rfl rfl rfl rfl)

theorem unmapAll (A : StoreRel R) (p : Nat) (s : State) : R s (unmapAll p s) := A.foldl (fun _ _ => A.mapRemove ..) _ s

end StoreRel

/-! ### Threads that are taken -/

/-- A saved thread has the registers, the pc and the status of the thread in its slot. -/
def SavedAs (th saved : Thread) : Prop := saved.x = th.x ∧ saved.pc = th.pc ∧ saved.thst = th.thst

/-- What becomes of a hart whose thread is taken, and of the others. -/
structure Taken (t : Nat) (s : State) (th : Thread) (s' : State) : Prop where
  saved : SavedAs (getTh s t) th
  gone : getTh s' t = Thread.reset
  others : ∀ u, u ≠ t → getTh s' u = getTh s u
  disarmed : Unarmed t s'
  unarmed : ∀ u, Unarmed u s → Unarmed u s'
  parts : s'.parts = s.parts

/-- The latches of a thread that is taken are tagged with its uid (R162). -/
theorem unarmed_savedTag {s s' : State} {t uid : Nat} (h : s'.latches = s.latches.map fun r => if r.t = t then { r with t := savedTag uid } else r) :
    Unarmed t s' ∧ ∀ u, Unarmed u s → Unarmed u s' := by
  have htag : 1000000 ≤ savedTag uid := by unfold savedTag; omega
  have hback : ∀ r ∈ s'.latches, 1000000 ≤ r.t ∨ r.t ≠ t ∧ r ∈ s.latches := fun r hr => by
    rw [h] at hr
    obtain ⟨r0, hr0, rfl⟩ := List.mem_map.mp hr
    by_cases ht : r0.t = t
    · rw [if_pos ht]
      exact .inl htag
    · rw [if_neg ht]
      exact .inr ⟨ht, hr0⟩
  refine ⟨fun r hr hrt => ?_, fun u hu r hr hru => ?_⟩
  · obtain hge | ⟨hne, -⟩ := hback r hr
    · exact hrt ▸ hge
    · exact absurd hrt hne
  · obtain hge | ⟨-, hmem⟩ := hback r hr
    · exact hru ▸ hge
    · exact hu r hmem hru

theorem taken_takeThread (t : Nat) (s : State) : Taken t s (takeThread t s).1 (takeThread t s).2 := by
  unfold takeThread
  extract_lets s0 th0 th tag s1
  have hw : StoreQuiet s (withdrawMatrix t (withdrawWaits t (withdrawResv t s))) :=
    ((StoreQuiet.withdrawResv t s).trans (StoreQuiet.withdrawWaits ..)).trans (StoreQuiet.withdrawMatrix ..)
  have h0 : StoreQuiet s s0 := by
    unfold s0
    split
    · split
      · exact hw.trans (StoreQuiet.ungrant ..)
      · exact hw
    · exact hw
  have h1 : StoreQuiet s s1 := by
    refine h0.trans ?_
    unfold s1
    split
    · exact ⟨rfl, rfl, rfl, rfl, rfl, rfl, rfl⟩
    · exact StoreQuiet.refl s0
  have hth : th0 = getTh s t := congrArg (spGet Thread.reset · t) h0.threads
  obtain ⟨hself, hothers⟩ := unarmed_savedTag (s := s) (t := t) (uid := th.uid) (s' := { s with latches := s.latches.map fun r => if r.t = t then { r with t := tag } else r }) rfl
  refine ⟨⟨congrArg (·.x) hth, congrArg (·.pc) hth, congrArg (·.thst) hth⟩, getTh_setTh_self .., fun u hu => ?_, ?_, fun u hu => ?_, h1.parts⟩
  · exact (getTh_setTh_other _ hu _).trans (congrArg (spGet Thread.reset · u) h1.threads)
  · intro r hr
    exact hself r (h1.latches ▸ hr)
  · intro r hr
    exact hothers u hu r (h1.latches ▸ hr)

/-- One step of takeThreads. -/
def takenOnto (r : Sp Thread × State) (t : Nat) : Sp Thread × State := (spSet Thread.reset r.1 t (takeThread t r.2).1, (takeThread t r.2).2)

theorem takeThreads_eq (ts : List Nat) (s : State) : takeThreads ts s = ts.foldl takenOnto ([], s) := rfl

theorem foldl_takenOnto_unarmed (u : Nat) (l : List Nat) : ∀ r : Sp Thread × State, Unarmed u r.2 → Unarmed u (l.foldl takenOnto r).2 := by
  induction l with
  | nil => exact fun _ h => h
  | cons t l ih => exact fun r h => ih _ ((taken_takeThread t r.2).unarmed u h)

theorem foldl_takenOnto_parts (l : List Nat) : ∀ r : Sp Thread × State, (l.foldl takenOnto r).2.parts = r.2.parts := by
  induction l with
  | nil => exact fun _ => rfl
  | cons t l ih => exact fun r => (ih _).trans (taken_takeThread t r.2).parts

theorem foldl_takenOnto_other {u : Nat} (l : List Nat) : ∀ r : Sp Thread × State, u ∉ l →
    getTh (l.foldl takenOnto r).2 u = getTh r.2 u ∧ spGet Thread.reset (l.foldl takenOnto r).1 u = spGet Thread.reset r.1 u := by
  induction l with
  | nil => exact fun _ _ => ⟨rfl, rfl⟩
  | cons t l ih =>
    intro r hu
    obtain ⟨hne, hl⟩ := not_or.mp (fun h => hu (List.mem_cons.mpr h))
    obtain ⟨hth, hget⟩ := ih (takenOnto r t) hl
    exact ⟨hth.trans ((taken_takeThread t r.2).others u hne), hget.trans (spGet_spSet_other _ _ hne _)⟩

/-- Each of the threads taken is saved as it stood, its slot is free and no latch of its slot is armed. -/
theorem foldl_takenOnto_mem {u : Nat} (l : List Nat) (hl : l.Nodup) : ∀ r : Sp Thread × State, u ∈ l →
    SavedAs (getTh r.2 u) (spGet Thread.reset (l.foldl takenOnto r).1 u) ∧ getTh (l.foldl takenOnto r).2 u = Thread.reset ∧ Unarmed u (l.foldl takenOnto r).2 := by
  induction l with
  | nil => exact fun _ h => absurd h List.not_mem_nil
  | cons t l ih =>
    intro r hu
    obtain ⟨ht, hnodup⟩ := List.nodup_cons.mp hl
    have htaken := taken_takeThread t r.2
    by_cases hut : u = t
    · subst hut
      obtain ⟨hth, hget⟩ := foldl_takenOnto_other l (takenOnto r u) ht
      refine ⟨?_, hth.trans htaken.gone, foldl_takenOnto_unarmed u l _ htaken.disarmed⟩
      rw [List.foldl_cons, hget]
      exact (spGet_spSet_self Thread.reset r.1 u (takeThread u r.2).1).symm ▸ htaken.saved
    · obtain ⟨hsaved, hgone, hunarmed⟩ := ih hnodup (takenOnto r t) (List.mem_of_ne_of_mem hut hu)
      refine ⟨?_, hgone, hunarmed⟩
      rw [← htaken.others u hut]
      exact hsaved

/-! ### The gang that is saved -/

/-- What a recall of vector commands leaves of the threads (R164). -/
structure Recalled (s s' : State) : Prop where
  th : ∀ u, SavedAs (getTh s u) (getTh s' u)
  parts : s'.parts = s.parts

namespace Recalled

theorem refl (s : State) : Recalled s s := ⟨fun _ => ⟨rfl, rfl, rfl⟩, rfl⟩

theorem trans {a b c : State} (h : Recalled a b) (k : Recalled b c) : Recalled a c := by
  refine ⟨fun u => ?_, k.parts.trans h.parts⟩
  obtain ⟨hx, hpc, hst⟩ := h.th u
  obtain ⟨kx, kpc, kst⟩ := k.th u
  exact ⟨kx.trans hx, kpc.trans hpc, kst.trans hst⟩

theorem foldl {α : Type} {f : State → α → State} (h : ∀ s a, Recalled s (f s a)) (l : List α) (s : State) : Recalled s (l.foldl f s) :=
  foldl_rel refl (fun _ _ _ => trans) h l s

theorem of_quiet {s t : State} (h : StoreQuiet s t) : Recalled s t := by
  refine ⟨fun u => ?_, h.parts⟩
  rw [show getTh t u = getTh s u from congrArg (spGet Thread.reset · u) h.threads]
  exact ⟨rfl, rfl, rfl⟩

theorem modTh {f : Thread → Thread} (hf : ∀ th, SavedAs th (f th)) (s : State) (t : Nat) : Recalled s (modTh s t f) := by
  refine ⟨fun u => ?_, rfl⟩
  by_cases hu : u = t
  · subst hu
    rw [show getTh (Machine.modTh s u f) u = f (getTh s u) from getTh_setTh_self ..]
    exact hf _
  · rw [show getTh (Machine.modTh s t f) u = getTh s u from getTh_setTh_other _ hu _]
    exact ⟨rfl, rfl, rfl⟩

theorem recallVector (keep : Nat → Bool) (s : State) (core : Nat) : Recalled s (recallVector keep s core) := by
  unfold Machine.recallVector
  extract_lets +onlyGivenNames k own rest s1 s2
  have h2 : StoreQuiet s s2 := by
    unfold s2
    exact (StoreQuiet.withdrawResv (commandTag core) _).after rfl rfl rfl rfl rfl rfl rfl
  refine (of_quiet h2).trans (foldl (fun s t => ?_) _ _)
  refine modTh (fun _ => ?_) s t
  exact ⟨rfl, rfl, rfl⟩

end Recalled

/-- The machine once a gang's vector commands are recalled. -/
def gangRecalled (p : Nat) (s : State) : State := (getPart s p).cores.foldl (recallVector fun _ => true) s

/-- The machine once the parcels of a gang are taken from the fabric. -/
def gangDrained (p : Nat) (s : State) : State :=
  let s1 := gangRecalled p s
  (s1.pending.filter (drains s1 (gangCtxs s p))).foldl drainParcel { s1 with pending := s1.pending.filter fun e => !drains s1 (gangCtxs s p) e }

/-- The machine once the posted writes of a gang have left the queues of held words. -/
def gangSettled (p : Nat) (s : State) : State :=
  (((gangDrained p s).journal.filter fun e => (gangCtxs s p).contains e.2.ctx).map fun e => entryTag (e.1 / 32) (e.1 % 32)).foldl
    (fun s g => withdrawResv g s) (gangDrained p s)

/-- The threads of a gang, and the machine once they are taken. -/
def gangTaken (p : Nat) (s : State) : Sp Thread × State := takeThreads (threadsOf s (gangCtxs s p)) (gangSettled p s)

theorem saveGang_fst_v (p : Nat) (s : State) : (saveGang p s).1.v = true := rfl

theorem saveGang_fst_part (p : Nat) (s : State) : (saveGang p s).1.part = p := rfl

theorem saveGang_fst_ctxs (p : Nat) (s : State) : (saveGang p s).1.ctxs = gangCtxs s p := rfl

theorem saveGang_fst_threads (p : Nat) (s : State) : (saveGang p s).1.threads = (gangTaken p s).1 := rfl

theorem saveGang_threads (p : Nat) (s : State) : (saveGang p s).2.threads = (unmapAll p (gangTaken p s).2).threads := rfl

theorem saveGang_parts (p : Nat) (s : State) : (saveGang p s).2.parts = (unmapAll p (gangTaken p s).2).parts := rfl

theorem recalled_gangSettled (p : Nat) (s : State) : Recalled s (gangSettled p s) := by
  have h1 : Recalled s (gangRecalled p s) := Recalled.foldl (fun s c => Recalled.recallVector _ s c) _ s
  have h2 : Recalled (gangRecalled p s) (gangDrained p s) :=
    Recalled.of_quiet ((StoreQuiet.foldl StoreQuiet.drainParcel _ _).after rfl rfl rfl rfl rfl rfl rfl)
  exact (h1.trans h2).trans (Recalled.foldl (fun s g => Recalled.of_quiet (StoreQuiet.withdrawResv g s)) _ _)

theorem spWfFrom_keys {α : Type} [DecidableEq α] (d : α) (m : Sp α) : ∀ b, spWfFrom d b m = true → (m.map Prod.fst).Nodup ∧ ∀ k ∈ m.map Prod.fst, b ≤ k := by
  induction m with
  | nil => exact fun _ _ => ⟨List.nodup_nil, fun _ h => absurd h List.not_mem_nil⟩
  | cons e m ih =>
    intro b h
    obtain ⟨⟨hb, -⟩, hm⟩ : (b ≤ e.1 ∧ e.2 ≠ d) ∧ spWfFrom d (e.1 + 1) m = true := by
      simpa only [spWfFrom, Bool.and_eq_true, decide_eq_true_eq] using h
    obtain ⟨hnodup, hge⟩ := ih (e.1 + 1) hm
    refine ⟨List.nodup_cons.mpr ⟨fun hmem => ?_, hnodup⟩, fun k hk => ?_⟩
    · have := hge _ hmem
      omega
    · obtain rfl | hk := List.mem_cons.mp hk
      · exact hb
      · have := hge k hk
        omega

theorem threadsOf_nodup {s : State} (h : spWf Thread.reset s.threads = true) (cs : List Nat) : (threadsOf s cs).Nodup :=
  ((List.filter_sublist).map Prod.fst).nodup (spWfFrom_keys _ _ _ h).1

/-- Each thread of a gang that is saved is saved as it stood, and its slot is free. -/
theorem saveGang_saves {p : Nat} {s : State} (hwf : spWf Thread.reset s.threads = true) {u : Nat} (hu : u ∈ threadsOf s (gangCtxs s p)) :
    getTh (saveGang p s).2 u = Thread.reset ∧ SavedAs (getTh s u) (spGet Thread.reset (saveGang p s).1.threads u) := by
  obtain ⟨hsaved, hgone, hunarmed⟩ := foldl_takenOnto_mem _ (threadsOf_nodup hwf _) ([], gangSettled p s) hu
  obtain ⟨hx, hpc, hst⟩ := (recalled_gangSettled p s).th u
  obtain ⟨kx, kpc, kst⟩ := hsaved
  have hstill : getTh (unmapAll p (gangTaken p s).2) u = getTh (gangTaken p s).2 u :=
    ((Bystander.storeRel u).unmapAll p (gangTaken p s).2).still (by rw [show getTh (gangTaken p s).2 u = Thread.reset from hgone]; rfl) hunarmed
  refine ⟨?_, ?_⟩
  · exact (congrArg (spGet Thread.reset · u) (saveGang_threads p s)).trans (hstill.trans hgone)
  · rw [saveGang_fst_threads]
    exact ⟨kx.trans hx, kpc.trans hpc, kst.trans hst⟩

end Sys2Proof.Machine
end

section
/-! Gang switches, slices and defragmentations (R17, R161 to R167). -/

namespace Sys2Proof.Machine

open Sys2Proof.Claims

/-! ### Partitions through a switch -/

/-- The partitions stay. -/
structure PartsKept (s t : State) : Prop where
  parts : t.parts = s.parts

namespace PartsKept

theorem refl (s : State) : PartsKept s s := ⟨rfl⟩

theorem trans {a b c : State} (h : PartsKept a b) (k : PartsKept b c) : PartsKept a c := ⟨k.parts.trans h.parts⟩

/-- The same, after a step that touches no partition. -/
theorem after {a b c : State} (h : PartsKept b c) (hp : b.parts = a.parts) : PartsKept a c := ⟨h.parts.trans hp⟩

theorem foldl {α : Type} {f : State → α → State} (h : ∀ s a, PartsKept s (f s a)) (l : List α) (s : State) : PartsKept s (l.foldl f s) :=
  foldl_rel refl (fun _ _ _ => trans) h l s

theorem of_storeMoved {s t : State} (h : StoreMoved s t) : PartsKept s t := ⟨by rw [h.eq]⟩

theorem storeRel : StoreRel PartsKept where
  refl := refl
  trans := trans
  landed := fun _ _ _ => of_storeMoved (StoreMoved.afterWrite ..)
  hit := fun _ _ => of_storeMoved (StoreMoved.hitLatches ..)
  quiet := fun h => ⟨h.parts⟩

theorem pushOnce (e : Instr) (s : State) : PartsKept s (pushOnce e s) := storeRel.pushOnce e s

theorem getPart_eq {s t : State} (h : PartsKept s t) (p : Nat) : getPart t p = getPart s p := congrArg (spGet Partition.none · p) h.parts

theorem mapInstall {w : Who} {k : Nat} {v : Word} {s s' : State} (h : mapInstall w k v s = .ok s') : PartsKept s s' := by
  unfold Machine.mapInstall at h
  dsimp only at h
  iterate 4 (split at h; · cases h)
  split at h
  · cases h
  · split at h
    · cases h
    · split at h
      · cases h
      · cases h
        refine ⟨?_⟩
        dsimp only
        split
        · exact (storeRel.mapCopy ..).parts
        · rfl

theorem remap (s : State) (k : Nat) (e : MapEnt) : PartsKept s (remap s k e) := by
  unfold Machine.remap
  dsimp only
  split
  · split
    · next h => exact (mapInstall h).after rfl
    · exact ⟨rfl⟩
  · exact ⟨rfl⟩

theorem loadCore (s : State) (e : Nat × CoreSt) : PartsKept s (loadCore s e) := ⟨rfl⟩

theorem loadThread (t : Nat) (th : Thread) (s : State) : PartsKept s (loadThread t th s) := by
  unfold Machine.loadThread
  extract_lets s1 s2 s3 s4
  have h2 : PartsKept s s2 := by
    unfold s2
    split <;> exact ⟨rfl⟩
  have h3 : PartsKept s2 s3 := foldl (fun s l => by split <;> exact ⟨rfl⟩) _ _
  have h4 : PartsKept s3 s4 := by
    unfold s4
    split
    · exact ⟨rfl⟩
    · exact of_storeMoved (StoreMoved.releaseWaiter ..)
    · exact refl s3
  exact ((h2.trans h3).trans h4).trans (of_storeMoved (StoreMoved.of_machineKept (machineKept_feedVector ..)))

theorem placeSaved (t : Nat) (th : Thread) (s : State) : PartsKept s (placeSaved t th s) := by
  have hwait : PartsKept s (modCore s (coreOf t) fun k => { k with restored := k.restored ++ [(slotOf t, th)] }) := ⟨rfl⟩
  unfold Machine.placeSaved
  dsimp only
  split
  · split
    · exact hwait
    · exact loadThread ..
  · split
    · exact loadThread ..
    · split
      · exact hwait
      · split
        · exact loadThread ..
        · exact hwait

theorem saveGang (p : Nat) (s : State) : PartsKept s (saveGang p s).2 := by
  have hset : PartsKept s (gangSettled p s) := ⟨(recalled_gangSettled p s).parts⟩
  have htaken : PartsKept (gangSettled p s) (gangTaken p s).2 := ⟨foldl_takenOnto_parts (threadsOf s (gangCtxs s p)) ([], gangSettled p s)⟩
  exact ⟨(saveGang_parts p s).trans ((hset.trans htaken).trans (storeRel.unmapAll p (gangTaken p s).2)).parts⟩

theorem loadGang (g : Saved) (s : State) : PartsKept s (loadGang g s) := by
  unfold Machine.loadGang
  extract_lets +onlyGivenNames x s1 s2 s3 s4 s5
  have h1 : s1.parts = s.parts := rfl
  clear_value s1
  have h2 : PartsKept s1 s2 := by
    have hmaps : PartsKept s1 (g.maps.foldl (fun s e => Machine.remap s e.1 e.2) s1) := foldl (fun s (e : Nat × MapEnt) => remap s e.1 e.2) g.maps s1
    exact hmaps.trans (foldl loadCore g.cores _)
  clear_value s2
  have h3 : PartsKept s2 s3 := by
    exact foldl (fun s (e : Nat × Thread) => placeSaved e.1 e.2 s) g.threads s2
  clear_value s3
  have h4 : PartsKept s3 s4 := by
    unfold s4
    exact foldl (fun s e => pushOnce _ s) _ _
  clear_value s4
  have h5 : PartsKept s s5 := ⟨(((h2.trans h3).trans h4).after h1).parts⟩
  clear_value s5
  exact h5.trans (foldl (fun s c => ⟨(StoreQuiet.offerSlots s c).parts⟩) _ _)

theorem handOut (s : State) (t : Nat) : PartsKept s (handOut s t) := by
  unfold Machine.handOut
  split
  · exact refl s
  · have htaken : PartsKept s (takeThread t (recallVector (· == t) s (coreOf t))).2 :=
      ⟨(taken_takeThread t _).parts.trans (Recalled.recallVector (· == t) s (coreOf t)).parts⟩
    dsimp only
    split
    · exact ⟨htaken.parts⟩
    · exact ⟨htaken.parts⟩

theorem handIn (ctx : Nat) (s : State) (e : Nat × Thread) : PartsKept s (handIn ctx s e) := by
  unfold Machine.handIn
  split
  · exact refl s
  · refine trans ?_ (placeSaved ..)
    split <;> exact ⟨rfl⟩

theorem handOver (p : Nat) (s : State) : PartsKept s (handOver p s) := by
  unfold Machine.handOver
  refine trans (foldl handOut _ s) (foldl (fun s e => ?_) _ _)
  exact foldl (handIn e.1) e.2.threads s

end PartsKept

/-! ### Arming, stopping and restoring -/

theorem getGang_modGang (s : State) (p : Nat) (f : Gang → Gang) : getGang (modGang s p f) p = f (getGang s p) := spGet_spSet_self ..

theorem execGangArm_ready {s : State} (h : ready s = true) (p : Nat) : exec (.gangArm p) s = .next (armGang p s) := by
  rw [exec_gangArm, execGangArm, h]
  simp

/-- R161: a gang that is not armed is armed, late where its time has passed, unless its areas will not do. -/
theorem armGang_fault {s : State} {p : Nat} (h2 : bit (getGang s p).gsctl 2 = false) (hf : armFault s p = true) :
    armGang p s = modGang s p fun g => { g with gsctl := setBit g.gsctl 3 true } := by
  rw [armGang, h2, hf]
  rfl

theorem getGang_armGang {s : State} {p : Nat} (h2 : bit (getGang s p).gsctl 2 = false) (hf : armFault s p = false) :
    getGang (armGang p s) p = { getGang s p with
      gsctl := setBit (setBit (getGang s p).gsctl 3 false) 2 true
      late := if (getGang s p).gstime.toNat < (gtime s).toNat then (s.cycle / 2048 + 1) * 2048 else 0 } := by
  rw [armGang, h2, hf]
  exact spGet_spSet_self ..

theorem gangArms {s : State} {p : Nat} (hr : pkst s 8 8 = 1) (h2 : bit (getGang s p).gsctl 2 = false) (hf : armFault s p = false) :
    ∃ t, exec (.gangArm p) s = .next t ∧ bit (getGang t p).gsctl 2 = true ∧ bit (getGang t p).gsctl 3 = false ∧
      ((getGang s p).gstime.toNat < (gtime s).toNat → (getGang t p).late = (s.cycle / 2048 + 1) * 2048) ∧
      ((gtime s).toNat ≤ (getGang s p).gstime.toNat → (getGang t p).late = 0) := by
  refine ⟨armGang p s, execGangArm_ready (ready_of_pkst hr) p, ?_⟩
  rw [getGang_armGang h2 hf]
  refine ⟨?_, ?_, fun hlt => if_pos hlt, fun hge => if_neg (Nat.not_lt.mpr hge)⟩
  · rw [bit, getLsbD_setBit _ (by decide), if_pos rfl]
  · rw [bit, getLsbD_setBit _ (by decide), if_neg (by decide), getLsbD_setBit _ (by decide), if_pos rfl]

theorem execGangStop_early {s : State} {p : Nat} (h : switchTime s p = false) : execGangStop p s = .next s := by
  rw [execGangStop, h]
  rfl

theorem execGangRestore_early {s : State} {p : Nat} (h : switchTime s p = false) : execGangRestore p s = .next s := by
  rw [execGangRestore, h]
  rfl

theorem execGangStop_moving {s : State} {p : Nat} (h : switchTime s p = true) (h0 : bit (getGang s p).gsctl 0 = true) (hr : gangRests s p = false) :
    execGangStop p s = .next s := by
  rw [execGangStop, h, h0, hr]
  rfl

theorem execGangStop_rests {s : State} {p n : Nat} (h : switchTime s p = true) (h0 : bit (getGang s p).gsctl 0 = true) (hr : gangRests s p = true)
    (hn : saveArea s p (bits (getGang s p).gsctl 31 16) = some n) :
    execGangStop p s = .next (afterStop p { (saveGang p s).2 with saves := spSet Saved.none (saveGang p s).2.saves n (saveGang p s).1 }) := by
  rw [execGangStop, h, h0, hr]
  simp only [hn]
  rfl

theorem afterStop_keeps (p : Nat) (s : State) : (afterStop p s).threads = s.threads ∧ (afterStop p s).saves = s.saves := by
  unfold afterStop pushOnce
  split
  · split <;> exact ⟨rfl, rfl⟩
  · exact ⟨rfl, rfl⟩

theorem gangSaved {s : State} {p n : Nat} (h : switchTime s p = true) (h0 : bit (getGang s p).gsctl 0 = true) (hr : gangRests s p = true)
    (hwf : spWf Thread.reset s.threads = true) (hn : saveArea s p (bits (getGang s p).gsctl 31 16) = some n) :
    ∃ t, exec (.gangStop p) s = .next t ∧ (spGet Saved.none t.saves n).v = true ∧ (spGet Saved.none t.saves n).ctxs = gangCtxs s p ∧
      ∀ u ∈ threadsOf s (gangCtxs s p), getTh t u = Thread.reset ∧ SavedAs (getTh s u) (spGet Thread.reset (spGet Saved.none t.saves n).threads u) := by
  refine ⟨_, (exec_gangStop p s).trans (execGangStop_rests h h0 hr hn), ?_⟩
  obtain ⟨hthreads, hsaves⟩ := afterStop_keeps p { (saveGang p s).2 with saves := spSet Saved.none (saveGang p s).2.saves n (saveGang p s).1 }
  have hget : spGet Saved.none (spSet Saved.none (saveGang p s).2.saves n (saveGang p s).1) n = (saveGang p s).1 := spGet_spSet_self ..
  rw [hsaves, hget]
  refine ⟨saveGang_fst_v .., saveGang_fst_ctxs .., fun u hu => ?_⟩
  obtain ⟨hgone, hsaved⟩ := saveGang_saves hwf hu
  exact ⟨(congrArg (spGet Thread.reset · u) hthreads).trans hgone, hsaved⟩

theorem execGangRestore_loads {s : State} {p n : Nat} (h : switchTime s p = true) (hn : saveArea s p (bits (getGang s p).gsctl 47 32) = some n)
    (hv : (spGet Saved.none s.saves n).v = true) :
    execGangRestore p s = .next (switchDone p (loadGang (spGet Saved.none s.saves n) { s with saves := spErase n s.saves })) := by
  rw [execGangRestore, h]
  simp only [hn, hv]
  rfl

theorem switchDone_bits (p : Nat) (u : State) : bit (getGang (switchDone p u) p).gsctl 4 = true ∧ bit (getGang (switchDone p u) p).gsctl 2 = false := by
  rw [switchDone, getGang_modGang]
  refine ⟨?_, ?_⟩
  · rw [bit, getLsbD_setBit _ (by decide), if_neg (by decide), getLsbD_setBit _ (by decide), if_pos rfl]
  · rw [bit, getLsbD_setBit _ (by decide), if_pos rfl]

/-! ### Slices and defragmentations -/

theorem getPart_modPart (s : State) (p : Nat) (f : Partition → Partition) : getPart (modPart s p f) p = f (getPart s p) := spGet_spSet_self ..

/-- The machine once the turn of a partition's slices has passed on. -/
def turnPassed (p : Nat) (s : State) : State :=
  modPart s p fun x => { x with turn := (x.turn + 1) % (if x.rot = 1 then 2 else 4), began := s.cycle / 2048 * 2048 }

theorem execSliceEnd_due {s : State} {p : Nat} (h : sliceDue s p = true) : ∃ t, execSliceEnd p s = .next t ∧ PartsKept (turnPassed p s) t := by
  unfold execSliceEnd
  rw [h]
  extract_lets due s1 s2 s3
  have h2 : PartsKept (turnPassed p s) s2 := PartsKept.handOver p (turnPassed p s)
  have h3 : PartsKept s2 s3 := by
    unfold s3
    split
    · exact PartsKept.pushOnce ..
    · exact PartsKept.refl _
  exact ⟨_, rfl, (h2.trans h3).trans (PartsKept.foldl (fun s c => ⟨(StoreQuiet.offerSlots s c).parts⟩) _ _)⟩

theorem sliceEnds {s : State} {p : Nat} (hv : (getPart s p).v = true) (hrot : (getPart s p).rot ≠ 0)
    (hdue : (getPart s p).began + 2048 * (getPart s p).slice ≤ s.cycle) :
    ∃ t, exec (.sliceEnd p) s = .next t ∧ (getPart t p).turn = ((getPart s p).turn + 1) % (if (getPart s p).rot = 1 then 2 else 4) ∧
      (getPart t p).began = s.cycle / 2048 * 2048 := by
  have hsd : sliceDue s p = true := by simp [sliceDue, hv, hrot, hdue]
  obtain ⟨t, ht, hparts⟩ := execSliceEnd_due hsd
  refine ⟨t, (exec_sliceEnd p s).trans ht, ?_⟩
  rw [hparts.getPart_eq p, turnPassed, getPart_modPart]
  exact ⟨rfl, rfl⟩

theorem gangStops_of_mem {s : State} {p a b : Nat} (h : Instr.defragmentation p a b ∈ s.pending) : gangStops s p = true := by
  have hwaits : defragWaits s p = true := List.any_eq_true.mpr ⟨_, h, beq_self_eq_true p⟩
  rw [gangStops, hwaits, Bool.or_true]

theorem execDefragmentation_refused {s : State} {p a b : Nat} (h : defragOk s p a b = false) : execDefragmentation p a b s = .next s := by
  rw [execDefragmentation, h]
  rfl

theorem execDefragmentation_moving {s : State} {p a b : Nat} (h : defragOk s p a b = true) (hr : gangRests s p = false) :
    execDefragmentation p a b s = .next (pushOnce (.defragmentation p a b) s) := by
  rw [execDefragmentation, h, hr]
  rfl

theorem execDefragmentation_rests {s : State} {p a b : Nat} (h : defragOk s p a b = true) (hr : gangRests s p = true) :
    execDefragmentation p a b s = .next (loadGang (saveGang p s).1 (modPart (saveGang p s).2 p fun x => { x with slices := x.slices.set a b })) := by
  unfold execDefragmentation
  rw [h, hr, if_neg (by decide), if_neg (by decide)]

theorem defragmented {s : State} {p a b : Nat} (h : defragOk s p a b = true) (hr : gangRests s p = true) :
    ∃ t, exec (.defragmentation p a b) s = .next t ∧ (getPart t p).slices = (getPart s p).slices.set a b := by
  refine ⟨_, (exec_defragmentation p a b s).trans (execDefragmentation_rests h hr), ?_⟩
  rw [(PartsKept.loadGang ..).getPart_eq p, getPart_modPart, (PartsKept.saveGang p s).getPart_eq p]

theorem gangSwitches : GangSwitches := by
  intro p s
  refine ⟨fun hr hd => ?_, fun hr h2 hf => ?_, fun hr h2 hf => gangArms hr h2 hf, fun h => ⟨?_, ?_⟩, fun h h0 hr => ?_, fun h h0 hr hwf n hn => gangSaved h h0 hr hwf hn,
    fun h n hn hv => ?_, switchDone_bits p, sliceEnds, fun a b => ⟨fun h => ?_, fun h hr => ?_, gangStops_of_mem, defragmented⟩⟩
  · have hnr : ready s = false := bit_of_pkst_zero hr
    rw [exec_gangArm, execGangArm, hnr, show hostArms s = true from hd]
    rfl
  · rw [execGangArm_ready (ready_of_pkst hr), armGang_fault h2 hf]
  · rw [exec_gangStop, execGangStop_early h]
  · rw [exec_gangRestore, execGangRestore_early h]
  · rw [exec_gangStop, execGangStop_moving h h0 hr]
  · rw [exec_gangRestore, execGangRestore_loads h hn hv]
  · rw [exec_defragmentation, execDefragmentation_refused h]
  · rw [exec_defragmentation, execDefragmentation_moving h hr]

/-- Settles O53: a thread that leaves waits at no word and no barrier object, so what is stored as it leaves, and what unmapping its gang's pages writes, finds it
as it was. -/
theorem gangsAndTravel : Obligations.GangsAndTravel := ⟨gangSwitches, travelMoves⟩

end Sys2Proof.Machine
end
